-- ==== Sys2Proof/Word.lean ====
section
/-!
DEFINITION. The word types of the XB40 model (spec/00_scope.md, R7 to R10, and spec/02_number_formats.md, R27):
bytes, 32-bit registers, 64-bit counters, 512-bit control words, and the one container the model uses for
everything that is sparse (registers, memories, tables): a list of (key, value) pairs with strictly rising keys.
-/

namespace Sys2Proof

/-- One byte of any memory of the device (R27). -/
abbrev Byte := BitVec 8

/-- A BAR0 register (R10: all registers are 32 bits wide). -/
abbrev Word := BitVec 32

/-- A 64-bit counter, step number, seed or fabric time (R23, R40, R299). -/
abbrev Dword := BitVec 64

/-- A control word of a tile core or a program word of a stream engine (R197, R144). -/
abbrev Xcw := BitVec 512

/-- Sparse data by key: the keys rise strictly and no entry holds the value that an unlisted key reads as. -/
abbrev SMap (α : Type) := List (Nat × α)

/-- A byte memory: an `SMap` of bytes. An unlisted address reads as zero (log entry 3). -/
abbrev Mem := SMap Byte

end Sys2Proof
end

