-- ==== Sys2Proof/Syntax.lean ====
section
/-!
DEFINITION. The commands of the block: one constructor of `Instr` per row of spec/opcode_table.json, with the
operands the row's step takes from outside (an address and a value of a BAR0 access, a flit or a frame on a lane,
a number of cycles that passed, a reading of a sensor). What a step takes from inside the device (the packet at the
head of an attachment, the command at the head of a core's queue) is in the state, not in the operands.
Indices are those of spec/01_organisation.md, R15: `n` a port, tile or stream die, `l` a first lane within its port
die (0 to 23), `u` a tile core (4 x tile die + core), `e` a stream engine (4 x stream die + engine), `i` and `j`
crossbar slots, `m` a mailbox, `b` a shutter.
-/

namespace Sys2Proof

/-- A fabric-mode flit as it arrives on a subport (spec/04_links_and_routing.md, Table 4.3), with the CRC-32 it carries. -/
structure Flit where
  ftype : Nat
  seq : Nat
  ack : Nat
  vc : Nat
  dl : Bool
  tc : Nat
  sop : Bool
  eop : Bool
  abt : Bool
  cellIdx : Nat
  pktCells : Nat
  len : Nat
  crdSel : Nat
  crdCnt : Nat
  job : Nat
  pktTag : Nat
  crc : Word
  payload : List Byte
  deriving DecidableEq, Repr

/-- A low pulse on a reset input (R404): on PWR_OK or else on RST_N, and its length in nanoseconds. -/
structure LowPulse where
  pwrOk : Bool
  ns : Nat
  deriving DecidableEq, Repr

/-- What the measuring agent finds in a memory read that meets an uncorrectable error (R269, R271): the memory
whose word decayed and the byte address of the 64-bit word. -/
inductive MemSpace where
  /-- HBM or die store, by device physical address -/
  | dpa
  /-- local store of core `u` -/
  | ls (u : Nat)
  /-- accumulator memory of core `u` -/
  | acc (u : Nat)
  /-- context memory of stream engine `e` -/
  | ctx (e : Nat)
  /-- control memory of stream engine `e` (R131) -/
  | ctl (e : Nat)
  /-- program store of stream engine `e`, 64 bytes a word (R131) -/
  | prog (e : Nat)
  deriving DecidableEq, Repr

/-- The commands of the block, in the order of spec/opcode_table.json. -/
inductive Instr where
  -- BAR0 and the crossbar
  | registerWrite (addr width : Nat) (value : Word)
  | counterLowRead (addr : Nat)
  | minfreeRead (k : Nat)
  | xbarEnable (value : Word)
  | xbarDisable (value : Word)
  | xbarCpminWrite (value : Word)
  | mcgWrite (g off : Nat) (value : Word)
  | cellSend (i : Nat)
  | poolGrant
  | storedCopyCreditGrant (i g : Nat)
  | cellLeave (j : Nat) (bufferUe : Bool)
  | outputDown (j sub : Nat)
  | flushDone (j sub : Nat)
  | outputUp (j sub : Nat)
  | xbarJmapService
  -- links
  | slotcfgWrite (n k : Nat) (value : Word)
  | flitReceive (n l : Nat) (f : Flit)
  | replayRequest (n l ack : Nat)
  | ackControlFlit (n l : Nat)
  | flitTransmit (n l : Nat)
  | packetInject (i : Nat)
  | packetForward (n l vc : Nat)
  | packetDeliver (n l vc : Nat)
  | throttleLevelUpdate (n l tc : Nat)
  | trackerCount
  | complete
  | messageSlotGrant (dev : Nat)
  | tblcmdWrite (n : Nat) (value : Word)
  | tblcmdRead (n : Nat) (value : Word)
  | linkUpReq (n l : Nat) (value : Word)
  | linkDownReq (n l : Nat) (value : Word)
  | trainingComplete (n l peerDev peerLane : Nat)
  | retrainTrigger (n l : Nat)
  | retrainComplete (n l : Nat)
  | retrainTimeout (n l : Nat)
  | portJmapService (n : Nat)
  | egressCellTake (j sub : Nat)
  | ethUpReq (n l : Nat) (value : Word)
  | ethDownReq (n l : Nat) (value : Word)
  | ethTrainingComplete (n l : Nat)
  | ethLinkFault (n l : Nat)
  | ethFaultSequenceTimeout (n l : Nat)
  | frameReceive (n l : Nat) (frame : List Byte)
  | responseTransmit (n l : Nat)
  -- egress scheduling and telemetry
  | egressSelect (n l : Nat)
  | bucketRefresh (n : Nat)
  | telemetrySample (n : Nat)
  | ringRecordWrite (n : Nat)
  | histselWrite (n : Nat) (value : Word)
  | histclr (n : Nat) (value : Word)
  -- stream engines
  | engineWrite (e : Nat)
  | collAnnReceive (e : Nat)
  | collDataReceive (e : Nat)
  | handlerRun (e : Nat)
  | chunkEmit (e : Nat)
  | engineCompleteReceive (e : Nat)
  | sdJobFail (n : Nat) (value : Word)
  | sdJobFree (n : Nat) (value : Word)
  | sdProgWrite (n : Nat) (value : Word)
  | sdProgRead (n : Nat) (value : Word)
  | sdCmdataAccess (n : Nat) (write : Bool) (value : Word)
  -- collectives
  | collAccept (u : Nat)
  | collControlAnnounce (n : Nat)
  | collAnnounceReceive (n : Nat)
  | collRelease (n : Nat)
  | collChunkSend (n : Nat)
  | landingChunk (n : Nat)
  | collDoneSend (n : Nat)
  | collDoneResult (n : Nat)
  | collJobAbort (n : Nat) (value : Word)
  -- tile cores
  | coreStart (u : Nat) (value : Word)
  | coreStop (u : Nat) (value : Word)
  | coreClear (u : Nat) (value : Word)
  | xcwDispatch (u cycles : Nat)
  | haltHoldEnd (u : Nat)
  | mma (u : Nat)
  | mms (u : Nat)
  | close (u : Nat)
  | vecAdd (u : Nat)
  | vecSub (u : Nat)
  | vecMul (u : Nat)
  | div (u : Nat)
  | vecMin (u : Nat)
  | vecMax (u : Nat)
  | abs (u : Nat)
  | sqrt (u : Nat)
  | rcp (u : Nat)
  | exp2 (u : Nat)
  | log2 (u : Nat)
  | cvt (u : Nat)
  | sum (u : Nat)
  | sumsq (u : Nat)
  | meanvar (u : Nat)
  | amax (u : Nat)
  | opt (u : Nat)
  | thin (u : Nat)
  | drain (u : Nat)
  | mov (u : Nat)
  | fill (u : Nat)
  | dmaGet (u eng : Nat)
  | dmaPut (u eng : Nat)
  | dmaSend (u eng : Nat)
  | dmaSignal (u eng : Nat)
  | dmaComplete (u eng : Nat)
  -- semaphores, memory and pools
  | semAdd (u : Nat)
  | semdataWrite (n : Nat) (value : Word)
  | write (n : Nat)
  | readReq (n : Nat)
  | readRsp
  | pageFetch (n : Nat)
  | pageData (n : Nat)
  | pageWb (n : Nat)
  | pageRelease (n : Nat) (value : Word)
  | releaseJob (n : Nat) (value : Word)
  | pagerAbortJob (n : Nat) (value : Word)
  | atuInv (n : Nat) (value : Word)
  | atuInvComplete (n : Nat)
  | patrolScrub (n corrected : Nat) (decayed : List (MemSpace × Nat))
  | bpmEnable (value : Word)
  | bpmAllocate (size : Nat)
  | bpmFree (handle : Word)
  -- fabric time and shutters
  | timeSyncSend (n l : Nat)
  | timeEpochSend (n l : Nat)
  | timeSyncReceive (n l t1 : Nat)
  | timeEpochReceive (n l hi : Nat)
  | timeEchoReceive (n l : Nat) (d : Int) (void : Bool) (t3 : Nat)
  | timeHoldover
  | timeLoad (value : Word)
  | timeArm (value : Word)
  | ftSyncEdge (nsSinceLast : Nat)
  | shutterEnable (b : Nat) (value : Word)
  | shutterDisable (b : Nat) (value : Word)
  | localArrival
  | arriveFlit (n l b gen : Nat)
  | releaseFlit (n l b gen t : Nat)
  | shutterRelease (b : Nat)
  -- job faults and votes from other devices
  | jobFaultService
  | jobFaultNotice
  | ballotReceive
  -- serving dispatcher
  | requestDescriptor
  | requestAgeDrop (model : Nat)
  | modelWaitExpiry (model : Nat)
  | dispatch
  | switchHalted (g : Nat)
  | batchCompletion
  -- mailbox commands
  | getInfo (m : Nat)
  | getFault (m : Nat)
  | setContact (m : Nat)
  | setPower (m : Nat)
  | loadImage (m : Nat)
  | getMeasure (m : Nat)
  | getAttest (m : Nat)
  | selfTest (m : Nat)
  | selfTestComplete (failed : Nat) (tileDies portDies streamDies : Nat) (xbarFailed : Bool)
  | linkTest (m : Nat)
  | linkTestComplete
  | voteRoster (m : Nat)
  | voteBallot (m : Nat)
  | cfgWrite (m : Nat)
  | cfgRead (m : Nat)
  | cfgCopy (m : Nat)
  | swap (m : Nat)
  | jobBegin (m : Nat)
  | jobEval (m : Nat)
  | jobDrain (m : Nat)
  | drainLimitExpiry (slot : Nat)
  | drainComplete (slot : Nat)
  | jobSetStep (m : Nat)
  | jobMirror (m : Nat)
  | mirrorComplete (slot : Nat)
  | jobFail (m : Nat)
  | jobRelease (m : Nat)
  | loadSprog (m : Nat)
  | memWrite (m : Nat)
  | memRead (m : Nat)
  | fabricRead (m : Nat)
  | fabricReadTimeout
  | devRun (m : Nat)
  | devStop (m : Nat)
  -- device management
  | devRstctl (value : Word)
  | contactSheetRefresh
  | heartbeat
  | watchdogExpiry
  | deviceFault (source die : Nat)
  | pcieLinkReset
  | i3cTelemetryRefresh
  | i3cPrivateWrite (offset : Nat)
  | i3cPrivateRead (count : Nat)
  | entdaa (addr : Nat)
  | setdasa (addr : Nat)
  | rstdaa
  | getpid
  | getbcr
  | getdcr
  | getstatus
  | getmwl
  | getmrl
  | enec (events : Nat)
  | disec (events : Nat)
  | bypass (opcode : Nat)
  | idcode
  | samplePreload
  | extest
  | extestPulse
  | extestTrain
  | highz
  | clamp
  | fullReset (pulse : LowPulse)
  | railUndervoltage (lowNs : Nat)
  | resetRelease (bootMode : Nat) (helper : List Byte)
  | imageCheckComplete (sfdpOk : Bool) (image : List Byte)
  | identityKeyReady
  | hyzaciaFirstAnswer
  | powerMeasure (watts : Nat)
  | throttleStep (temp16 : Int)
  | thermalClamp (temp16 : Int)
  | thermalClampRelease (temp16 : Int)
  | thermTrip (temp16 : Int)
  | pwrOkRising (i3cId : Nat)
  | badOpcode (m : Nat)
  | doorbellIgnored (m : Nat)
  deriving DecidableEq, Repr

end Sys2Proof
end

