-- ==== Sys2Proof/WellFormed.lean ====
section
/-!
DEFINITION. The well-formed commands: every operand within the range that the spec gives its kind on the largest
assembly (spec/01_organisation.md, R14, R15; spec/00_scope.md, Table 0.2). `exec` is total on ill-formed commands
too, and leaves the state as it is where a unit does not exist.
-/

namespace Sys2Proof

def isPort (n : Nat) : Bool := n < 12
def isTile (n : Nat) : Bool := n < 20
def isStream (n : Nat) : Bool := n < 8
def isLane (l : Nat) : Bool := l < 24
def isCore (u : Nat) : Bool := u < 80
def isEngine (e : Nat) : Bool := e < 32
def isSlot (i : Nat) : Bool := i < 128
def isSub (k : Nat) : Bool := k < 4
def isMailbox (m : Nat) : Bool := m < 16
def isShutter (b : Nat) : Bool := b < 64
def isJobSlot (j : Nat) : Bool := j < 64
def isDma (e : Nat) : Bool := e < 2
def isChannel (v : Nat) : Bool := v < 5
def isClass (c : Nat) : Bool := c < 8
def isSeq (q : Nat) : Bool := q < 4096
def isGroup (g : Nat) : Bool := g < 1024
def isPool (k : Nat) : Bool := k < 8
def isPortSlot (k : Nat) : Bool := k < 6
def isDevice (d : Nat) : Bool := d < 1024
def isDeviceLane (l : Nat) : Bool := l < 288
/-- A frame from destination MAC to the last byte before the frame check sequence. -/
def isFrame (f : List Byte) : Bool := 14 ≤ f.length

/-- A flit whose fields fit Table 4.3 and whose payload is at most 240 bytes. -/
def Flit.wf (f : Flit) : Bool :=
  f.ftype < 16 && f.seq < 4096 && f.ack < 4096 && f.vc < 8 && f.tc < 8 && f.cellIdx < 64 && f.pktCells < 64
    && f.len < 256 && f.crdSel < 16 && f.crdCnt < 64 && f.job < 4096 && f.pktTag < 65536 && f.payload.length ≤ 240

/-- The operands of a command are in range. -/
def Instr.wf (i : Instr) : Bool :=
  match i with
  | .registerWrite _ _ _ => true
  | .counterLowRead _ => true
  | .minfreeRead k => isPool k
  | .xbarEnable _ => true
  | .xbarDisable _ => true
  | .xbarCpminWrite _ => true
  | .mcgWrite g _ _ => isGroup g
  | .cellSend i => isSlot i
  | .poolGrant => true
  | .storedCopyCreditGrant i g => isSlot i && isGroup g
  | .cellLeave j _ => isSlot j
  | .outputDown j sub => isSlot j && isSub sub
  | .flushDone j sub => isSlot j && isSub sub
  | .outputUp j sub => isSlot j && isSub sub
  | .xbarJmapService => true
  | .slotcfgWrite n k _ => isPort n && isPortSlot k
  | .flitReceive n l f => isPort n && isLane l && f.wf
  | .replayRequest n l ack => isPort n && isLane l && isSeq ack
  | .ackControlFlit n l => isPort n && isLane l
  | .flitTransmit n l => isPort n && isLane l
  | .packetInject i => isSlot i
  | .packetForward n l vc => isPort n && isLane l && isChannel vc
  | .packetDeliver n l vc => isPort n && isLane l && isChannel vc
  | .throttleLevelUpdate n l tc => isPort n && isLane l && isClass tc
  | .trackerCount => true
  | .complete => true
  | .messageSlotGrant dev => isDevice dev
  | .tblcmdWrite n _ => isPort n
  | .tblcmdRead n _ => isPort n
  | .linkUpReq n l _ => isPort n && isLane l
  | .linkDownReq n l _ => isPort n && isLane l
  | .trainingComplete n l peerDev peerLane => isPort n && isLane l && isDevice peerDev && isDeviceLane peerLane
  | .retrainTrigger n l => isPort n && isLane l
  | .retrainComplete n l => isPort n && isLane l
  | .retrainTimeout n l => isPort n && isLane l
  | .portJmapService n => isPort n
  | .egressCellTake j sub => isSlot j && isSub sub
  | .ethUpReq n l _ => isPort n && isLane l
  | .ethDownReq n l _ => isPort n && isLane l
  | .ethTrainingComplete n l => isPort n && isLane l
  | .ethLinkFault n l => isPort n && isLane l
  | .ethFaultSequenceTimeout n l => isPort n && isLane l
  | .frameReceive n l frame => isPort n && isLane l && isFrame frame
  | .responseTransmit n l => isPort n && isLane l
  | .egressSelect n l => isPort n && isLane l
  | .bucketRefresh n => isPort n
  | .telemetrySample n => isPort n
  | .ringRecordWrite n => isPort n
  | .histselWrite n _ => isPort n
  | .histclr n _ => isPort n
  | .engineWrite e => isEngine e
  | .collAnnReceive e => isEngine e
  | .collDataReceive e => isEngine e
  | .handlerRun e => isEngine e
  | .chunkEmit e => isEngine e
  | .engineCompleteReceive e => isEngine e
  | .sdJobFail n _ => isStream n
  | .sdJobFree n _ => isStream n
  | .sdProgWrite n _ => isStream n
  | .sdProgRead n _ => isStream n
  | .sdCmdataAccess n _ _ => isStream n
  | .collAccept u => isCore u
  | .collControlAnnounce n => isTile n
  | .collAnnounceReceive n => isTile n
  | .collRelease n => isTile n
  | .collChunkSend n => isTile n
  | .landingChunk n => isTile n
  | .collDoneSend n => isTile n
  | .collDoneResult n => isTile n
  | .collJobAbort n _ => isTile n
  | .coreStart u _ => isCore u
  | .coreStop u _ => isCore u
  | .coreClear u _ => isCore u
  | .xcwDispatch u _ => isCore u
  | .haltHoldEnd u => isCore u
  | .mma u => isCore u
  | .mms u => isCore u
  | .close u => isCore u
  | .vecAdd u => isCore u
  | .vecSub u => isCore u
  | .vecMul u => isCore u
  | .div u => isCore u
  | .vecMin u => isCore u
  | .vecMax u => isCore u
  | .abs u => isCore u
  | .sqrt u => isCore u
  | .rcp u => isCore u
  | .exp2 u => isCore u
  | .log2 u => isCore u
  | .cvt u => isCore u
  | .sum u => isCore u
  | .sumsq u => isCore u
  | .meanvar u => isCore u
  | .amax u => isCore u
  | .opt u => isCore u
  | .thin u => isCore u
  | .drain u => isCore u
  | .mov u => isCore u
  | .fill u => isCore u
  | .dmaGet u eng => isCore u && isDma eng
  | .dmaPut u eng => isCore u && isDma eng
  | .dmaSend u eng => isCore u && isDma eng
  | .dmaSignal u eng => isCore u && isDma eng
  | .dmaComplete u eng => isCore u && isDma eng
  | .semAdd u => isCore u
  | .semdataWrite n _ => isTile n
  | .write n => isTile n
  | .readReq n => isTile n
  | .readRsp => true
  | .pageFetch n => isTile n
  | .pageData n => isTile n
  | .pageWb n => isTile n
  | .pageRelease n _ => isTile n
  | .releaseJob n _ => isTile n
  | .pagerAbortJob n _ => isTile n
  | .atuInv n _ => isTile n
  | .atuInvComplete n => isTile n
  | .patrolScrub n _ _ => isTile n
  | .bpmEnable _ => true
  | .bpmAllocate size => size < 2 ^ 24
  | .bpmFree _ => true
  | .timeSyncSend n l => isPort n && isLane l
  | .timeEpochSend n l => isPort n && isLane l
  | .timeSyncReceive n l t1 => isPort n && isLane l && t1 < 2 ^ 55
  | .timeEpochReceive n l hi => isPort n && isLane l && hi < 2 ^ 48
  | .timeEchoReceive n l d _ t3 => isPort n && isLane l && t3 < 2 ^ 28 && -(2 ^ 26) < d && d < 2 ^ 26
  | .timeHoldover => true
  | .timeLoad _ => true
  | .timeArm _ => true
  | .ftSyncEdge _ => true
  | .shutterEnable b _ => isShutter b
  | .shutterDisable b _ => isShutter b
  | .localArrival => true
  | .arriveFlit n l b gen => isPort n && isLane l && isShutter b && gen < 4
  | .releaseFlit n l b gen t => isPort n && isLane l && isShutter b && gen < 4 && t < 2 ^ 47
  | .shutterRelease b => isShutter b
  | .jobFaultService => true
  | .jobFaultNotice => true
  | .ballotReceive => true
  | .requestDescriptor => true
  | .requestAgeDrop model => model < 256
  | .modelWaitExpiry model => model < 256
  | .dispatch => true
  | .switchHalted g => g < 128
  | .batchCompletion => true
  | .getInfo m => isMailbox m
  | .getFault m => isMailbox m
  | .setContact m => isMailbox m
  | .setPower m => isMailbox m
  | .loadImage m => isMailbox m
  | .getMeasure m => isMailbox m
  | .getAttest m => isMailbox m
  | .selfTest m => isMailbox m
  | .selfTestComplete _ _ _ _ _ => true
  | .linkTest m => isMailbox m
  | .linkTestComplete => true
  | .voteRoster m => isMailbox m
  | .voteBallot m => isMailbox m
  | .cfgWrite m => isMailbox m
  | .cfgRead m => isMailbox m
  | .cfgCopy m => isMailbox m
  | .swap m => isMailbox m
  | .jobBegin m => isMailbox m
  | .jobEval m => isMailbox m
  | .jobDrain m => isMailbox m
  | .drainLimitExpiry slot => isJobSlot slot
  | .drainComplete slot => isJobSlot slot
  | .jobSetStep m => isMailbox m
  | .jobMirror m => isMailbox m
  | .mirrorComplete slot => isJobSlot slot
  | .jobFail m => isMailbox m
  | .jobRelease m => isMailbox m
  | .loadSprog m => isMailbox m
  | .memWrite m => isMailbox m
  | .memRead m => isMailbox m
  | .fabricRead m => isMailbox m
  | .fabricReadTimeout => true
  | .devRun m => isMailbox m
  | .devStop m => isMailbox m
  | .devRstctl _ => true
  | .contactSheetRefresh => true
  | .heartbeat => true
  | .watchdogExpiry => true
  | .deviceFault _ _ => true
  | .pcieLinkReset => true
  | .i3cTelemetryRefresh => true
  | .i3cPrivateWrite _ => true
  | .i3cPrivateRead _ => true
  | .entdaa _ => true
  | .setdasa _ => true
  | .rstdaa => true
  | .getpid => true
  | .getbcr => true
  | .getdcr => true
  | .getstatus => true
  | .getmwl => true
  | .getmrl => true
  | .enec _ => true
  | .disec _ => true
  | .bypass _ => true
  | .idcode => true
  | .samplePreload => true
  | .extest => true
  | .extestPulse => true
  | .extestTrain => true
  | .highz => true
  | .clamp => true
  | .fullReset _ => true
  | .railUndervoltage _ => true
  | .resetRelease _ _ => true
  | .imageCheckComplete _ _ => true
  | .identityKeyReady => true
  | .hyzaciaFirstAnswer => true
  | .powerMeasure _ => true
  | .throttleStep _ => true
  | .thermalClamp _ => true
  | .thermalClampRelease _ => true
  | .thermTrip _ => true
  | .pwrOkRising _ => true
  | .badOpcode m => isMailbox m
  | .doorbellIgnored m => isMailbox m

end Sys2Proof
end

