-- ==== Sys2Proof/Decode.lean ====
section
/-!
DEFINITION. The command that a word spells by the bits of spec/opcode_table.json. The table gives no row of this block
any bits (every row's list of fields is empty): its commands are bus accesses, packets and pins, not encoded words. So
no word spells a command.
-/

namespace Sys2Proof

/-- The command that `nbits` bits `w` spell by the table's bits: none, for the table gives none. -/
def decodeTableWord (_nbits _w : Nat) : Option Instr := none

end Sys2Proof
end

