-- ==== Sys2Proof/Config.lean ====
section
/-!
DEFINITION. What one XB40 fixes and the spec leaves open, and the free values: constants without a body, of which
nothing can be proved but what every value has. A step that takes a free value applies the constant to the counter
`State.freeCtr` and advances it (log entries 20 to 29).
-/

namespace Sys2Proof.Config

/-- A free natural number per draw: which of several permitted outcomes takes place. -/
opaque freeNat : Nat → Nat

/-- A free word per draw: a register or memory word whose value the spec does not state. -/
opaque freeWord : Nat → Word

/-- Free contents per draw: a finite list of numbers, from which a memory whose contents the spec leaves open is filled. -/
opaque freeNats : Nat → List Nat

/-- A free truth value per draw. -/
opaque freeBit : Nat → Bool

/-- The traffic class, modulo 8, of the messages for which the spec names none: those of pagers and of the collective
sequencers (log entry 27). -/
opaque ownTc : Nat

/-- The one flow label of all chunks to a target (device, endpoint, context), modulo 4,096
(spec/07_collectives.md, R181). -/
opaque collFlow : (dev ep ctx : Nat) → Nat

/-- The packet tag a source of this device gives its packet, modulo 65,536 (spec/03_crossbar.md, Table 3.1). -/
opaque pktTag : Nat → Nat

/-- The flow label of a read that the management processor requests, modulo 4,096 (R365). -/
opaque readFlow : Nat → Nat

/-- What a flit that ends an aborted packet shows in place of its right CRC (R74): which wrong value is free. -/
opaque badCrc : Word → Nat

/-- The seed the physically unclonable function gives with a helper data block, none where it cannot (R377). -/
opaque pufSeed : (helper : List Byte) → Option (List Byte)

/-- Digests of the public keys fused into the ROM (R374). -/
opaque romKeyDigest : Nat → List Byte

/-- The bytes of the digest of the boot ROM's contents (Table 16.4). -/
opaque romDigest : Nat → Byte

/-- The speed and width that the PCIe link trained to, of those of Table 15.1 (R348). -/
opaque pcieLink : Nat

/-- How many cells the boundary register has, and which of them drives IRQ_N low (R351). -/
opaque boundaryLength : Nat
opaque irqCell : Nat

/-- How far a die's replica of fabric time is from the master counter, at a value of the counter (R21). -/
opaque replicaSkew : (die now : Nat) → Nat

end Sys2Proof.Config
end

