-- ==== Sys2Proof/Machine/Bits.lean ====
section
/-!
DEFINITION. Bit fields, byte order and sign extension (spec/00_scope.md, "Registers"; spec/02_number_formats.md, R27:
multi-byte values are little endian). A field of a register word is read as a natural number.
-/

namespace Sys2Proof.Machine

/-- Bits [lo + n - 1 : lo] of a natural number. -/
def nbits (w lo n : Nat) : Nat := (w >>> lo) % 2 ^ n

/-- Bit `i` of a natural number. -/
def nbit (w i : Nat) : Bool := (w >>> i) % 2 == 1

/-- Width of a row of fields, given as (width, value). -/
def packWidth : List (Nat × Nat) → Nat
  | [] => 0
  | (w, _) :: r => w + packWidth r

/-- The number that fields spell, the first one in the highest bits; a value is cut to its width. -/
def pack : List (Nat × Nat) → Nat
  | [] => 0
  | (w, v) :: r => v % 2 ^ w * 2 ^ packWidth r + pack r

/-- Field [hi:lo] of a register word. -/
def wfld (w : Word) (hi lo : Nat) : Nat := nbits w.toNat lo (hi + 1 - lo)

/-- Bit `i` of a register word. -/
def wbit (w : Word) (i : Nat) : Bool := nbit w.toNat i

/-- The word with bit `i` set. -/
def oneBit (i : Nat) : Word := BitVec.ofNat 32 (2 ^ i)

/-- The mask of field [hi:lo]. -/
def fldMask (hi lo : Nat) : Word := BitVec.ofNat 32 ((2 ^ (hi + 1 - lo) - 1) * 2 ^ lo)

/-- `v` placed in field [hi:lo], its higher bits dropped. -/
def atFld (hi lo v : Nat) : Word := BitVec.ofNat 32 (v % 2 ^ (hi + 1 - lo) * 2 ^ lo)

/-- The word with field [hi:lo] replaced by `v`. -/
def setFld (w : Word) (hi lo v : Nat) : Word := (w &&& ~~~(fldMask hi lo)) ||| atFld hi lo v

/-- A flag as a number. -/
def bnat (b : Bool) : Nat := if b then 1 else 0

/-- Two's complement value of the low `n` bits of `w`. -/
def sext (n w : Nat) : Int :=
  let v := w % 2 ^ n
  if v < 2 ^ (n - 1) then (v : Int) else (v : Int) - 2 ^ n

/-- An integer modulo 2 to the `n`. -/
def imod (i : Int) (n : Nat) : Nat := (i % (2 ^ n : Nat)).toNat

/-- The `n` low bytes of `v`, little endian (R27). -/
def leBytes : Nat → Nat → List Byte
  | 0, _ => []
  | n + 1, v => BitVec.ofNat 8 v :: leBytes n (v / 256)

/-- The number that bytes spell, little endian. -/
def leNat : List Byte → Nat
  | [] => 0
  | b :: r => b.toNat + 256 * leNat r

theorem length_leBytes (n v : Nat) : (leBytes n v).length = n := by
  induction n generalizing v with
  | zero => rfl
  | succ n ih => simp [leBytes, ih]

theorem leNat_leBytes (n v : Nat) : leNat (leBytes n v) = v % 256 ^ n := by
  induction n generalizing v with
  | zero => simp [leBytes, leNat, Nat.mod_one]
  | succ n ih =>
    simp only [leBytes, leNat, ih, BitVec.toNat_ofNat]
    rw [show (256 : Nat) ^ (n + 1) = 256 * 256 ^ n by rw [Nat.pow_succ, Nat.mul_comm], Nat.mod_mul]

/-- The number that bytes spell, big endian (wire formats of Ethernet and I3C). -/
def beNat (bs : List Byte) : Nat := bs.foldl (fun a b => a * 256 + b.toNat) 0

/-- The `n` low bytes of `v`, big endian. -/
def beBytes (n v : Nat) : List Byte := (leBytes n v).reverse

def zeros (n : Nat) : List Byte := List.replicate n 0

/-- `n` bytes of a byte string from offset `o`, zeros where it ends. -/
def slice (bs : List Byte) (o n : Nat) : List Byte :=
  let t := (bs.drop o).take n
  t ++ List.replicate (n - t.length) 0

/-- The little-endian number at bytes `o` to `o + n - 1`. -/
def leAt (bs : List Byte) (o n : Nat) : Nat := leNat (slice bs o n)

/-- The big-endian number at bytes `o` to `o + n - 1`. -/
def beAt (bs : List Byte) (o n : Nat) : Nat := beNat (slice bs o n)

/-- A byte string cut or padded with zeros to `n` bytes. -/
def padTo (n : Nat) (bs : List Byte) : List Byte := slice bs 0 n

/-- A list cut into pieces of `n`; `fuel` bounds the number of pieces. -/
def chunks (n : Nat) : Nat → List α → List (List α)
  | 0, _ => []
  | f + 1, l => if l.isEmpty then [] else l.take n :: chunks n f (l.drop n)

/-- Bits of a number, least significant first. -/
def bitList (n w : Nat) : List Bool := (List.range n).map (nbit w)

/-- The number that bits spell, least significant first. -/
def bitsNat : List Bool → Nat
  | [] => 0
  | b :: r => bnat b + 2 * bitsNat r

/-- Indices below `n` whose bit in `w` is set, in rising order. -/
def setBits (n w : Nat) : List Nat := (List.range n).filter (nbit w)

/-- A rounded-up division. -/
def cdiv (a b : Nat) : Nat := (a + b - 1) / b

/-- How many elements of a list satisfy a predicate. -/
def countWhere (p : α → Bool) (l : List α) : Nat := (l.filter p).length

/-- The first element that satisfies a predicate, removed. -/
def takeFirst (p : α → Bool) : List α → Option (α × List α)
  | [] => none
  | a :: r =>
    if p a then some (a, r)
    else match takeFirst p r with
      | some (x, r') => some (x, a :: r')
      | none => none

/-- The first element that satisfies a predicate, with what stands before and after it. -/
def splitFirst (p : α → Bool) : List α → Option (List α × α × List α)
  | [] => none
  | a :: r => if p a then some ([], a, r) else (splitFirst p r).map fun x => (a :: x.1, x.2)

/-- The first element that satisfies a predicate, replaced. -/
def updFirst (p : α → Bool) (f : α → α) : List α → List α
  | [] => []
  | a :: r => if p a then f a :: r else a :: updFirst p f r

/-- The least number below `n` that satisfies a predicate. -/
def leastBelow (n : Nat) (p : Nat → Bool) : Option Nat := (List.range n).find? p

/-- A list with the first `n` elements in rotated order, so that index `k` comes first. -/
def rotated (n k : Nat) : List Nat := (List.range n).map (fun i => (k + i) % n)

end Sys2Proof.Machine
end

