-- ==== Sys2Proof/Machine/Crc.lean ====
section
/-!
DEFINITION. Check codes: the cell header's CRC-16 (spec/03_crossbar.md, Table 3.1), the flit's and the Ethernet
frame's CRC-32 (spec/04_links_and_routing.md, R82, R110) and the chunk's CRC-32C (spec/06_stream_engines.md, R139).
-/

namespace Sys2Proof.Machine

/-- One bit through the CRC-16 register, polynomial 0x1021, most significant bit first (log entry 12: DEDUCED). -/
def crc16Bit (c : BitVec 16) (b : Bool) : BitVec 16 :=
  let top := c.msb != b
  let c := c <<< 1
  if top then c ^^^ 0x1021 else c

/-- CRC-16 of the low `n` bits of `w`, bit n - 1 first, from 0xFFFF. -/
def crc16 (n w : Nat) : BitVec 16 := (bitList n w).reverse.foldl crc16Bit 0xFFFF

/-- One step of a reflected CRC of 32 bits. -/
def crcShift (poly : Word) (c : Word) : Word := if c.getLsbD 0 then (c >>> 1) ^^^ poly else c >>> 1

/-- One byte through a reflected CRC of 32 bits. -/
def crcByte (poly : Word) (c : Word) (b : Byte) : Word :=
  let c := c ^^^ b.setWidth 32
  let s := crcShift poly
  s (s (s (s (s (s (s (s c)))))))

/-- A reflected CRC of 32 bits with initial value and final XOR of all ones. -/
def crcRef (poly : Word) (bs : List Byte) : Word := ~~~ (bs.foldl (crcByte poly) 0xFFFFFFFF)

/-- CRC-32 of IEEE 802.3 (R82): 0x04C1_1DB7 reflected. -/
def crc32 (bs : List Byte) : Word := crcRef 0xEDB88320 bs

/-- CRC-32C: polynomial 0x1EDC_6F41 reflected. -/
def crc32c (bs : List Byte) : Word := crcRef 0x82F63B78 bs

end Sys2Proof.Machine
end

