-- ==== Sys2Proof/Machine/NumFormats.lean ====
section
/-!
DEFINITION. Number formats and arithmetic (spec/02_number_formats.md, R26 to R51). A value is read exactly (`XV`),
computed exactly, and narrowed once by `convert` (R36). Every encoded value is a natural number holding its bits.
-/

namespace Sys2Proof.Machine

/-- The floating-point formats of Table 2.1 (E8M0 scales are handled as bytes). -/
inductive Fmt where
  | f64 | f32 | f19 | b16 | h16 | e4m3 | e5m2 | e2m1
  deriving DecidableEq, Repr

/-- Integer types of Table 2.1. -/
inductive IFmt where
  | i8 | i32 | u32
  deriving DecidableEq, Repr

/-- Rounding modes (R35). -/
inductive Round where
  | rne | rtz | sr
  deriving DecidableEq, Repr

/-- Width in bits (Table 2.1). -/
def Fmt.width : Fmt → Nat
  | .f64 => 64 | .f32 => 32 | .f19 => 19 | .b16 => 16 | .h16 => 16 | .e4m3 => 8 | .e5m2 => 8 | .e2m1 => 4

/-- Fraction bits (Table 2.1); the significand width f.p of R36 is one more. -/
def Fmt.frac : Fmt → Nat
  | .f64 => 52 | .f32 => 23 | .f19 => 10 | .b16 => 7 | .h16 => 10 | .e4m3 => 3 | .e5m2 => 2 | .e2m1 => 1

/-- Exponent bits. -/
def Fmt.expBits (f : Fmt) : Nat := f.width - 1 - f.frac

/-- Exponent bias. -/
def Fmt.bias : Fmt → Nat
  | .f64 => 1023 | .f32 => 127 | .f19 => 127 | .b16 => 127 | .h16 => 15 | .e4m3 => 7 | .e5m2 => 15 | .e2m1 => 1

/-- Whether subnormals are kept (R33). -/
def Fmt.keepsSub : Fmt → Bool
  | .f64 | .f32 | .f19 => false
  | _ => true

/-- Whether the format has infinities (R30). -/
def Fmt.hasInf : Fmt → Bool
  | .e4m3 | .e2m1 => false
  | _ => true

/-- Exponent of the smallest normal (R36). -/
def Fmt.emin (f : Fmt) : Int := 1 - (f.bias : Int)

/-- Magnitude pattern of the largest finite value (Table 2.2). -/
def Fmt.maxPat (f : Fmt) : Nat :=
  match f with
  | .e4m3 => 0x7E
  | .e2m1 => 0x7
  | _ => (2 ^ f.expBits - 1) * 2 ^ f.frac - 1

/-- Pattern of +infinity where the format has one. -/
def Fmt.infPat (f : Fmt) : Nat := (2 ^ f.expBits - 1) * 2 ^ f.frac

/-- Canonical NaN (Table 2.2). -/
def Fmt.nanPat (f : Fmt) : Nat :=
  match f with
  | .e4m3 => 0x7F
  | .e2m1 => 0
  | _ => f.infPat + 2 ^ (f.frac - 1)

/-- An exact value: a NaN, an infinity with its sign, or m times 2 to the e. -/
inductive XV where
  | nan
  | inf (neg : Bool)
  | fin (m e : Int)
  deriving DecidableEq, Repr

/-- The value of a pattern (R26, R30, R31, R33). -/
def Fmt.decode (f : Fmt) (w : Nat) : XV :=
  let s := nbit w (f.width - 1)
  let ex := nbits w f.frac f.expBits
  let fr := nbits w 0 f.frac
  let sg (m : Nat) : Int := if s then -(m : Int) else (m : Int)
  if ex = 2 ^ f.expBits - 1 ∧ f.hasInf then (if fr = 0 then .inf s else .nan)
  else if f = .e4m3 ∧ w % 128 = 0x7F then .nan
  else if ex = 0 then
    (if f.keepsSub then .fin (sg fr) (f.emin - f.frac) else .fin 0 0)
  else .fin (sg (2 ^ f.frac + fr)) ((ex : Int) - f.bias - f.frac)

/-- floor(log2(num / den)) for positive num and den. -/
def floorLog2 (num den : Nat) : Int :=
  let k : Int := (Nat.log2 num : Int) - (Nat.log2 den : Int)
  let ge := if 0 ≤ k then den <<< k.toNat ≤ num else den ≤ num <<< (-k).toNat
  if ge then k else k - 1

/-- floor(num / den times 2 to the k), and whether a remainder was dropped. -/
def scaleFloor (num den : Nat) (k : Int) : Nat × Bool :=
  if 0 ≤ k then
    let n := num <<< k.toNat
    (n / den, n % den != 0)
  else
    let d := den <<< (-k).toNat
    (num / d, num % d != 0)

/-- The rounding of m = num / den times 2 to the k to an integer (R36). -/
def roundInt (mode : Round) (r num den : Nat) (k : Int) : Nat :=
  match mode with
  | .rtz => (scaleFloor num den k).1
  | .sr => ((scaleFloor num den (k + 16)).1 + r) / 65536
  | .rne =>
    let (t, st) := scaleFloor num den (k + 1)
    let n := t / 2
    if t % 2 = 0 then n else if st ∨ n % 2 = 1 then n + 1 else n

def Fmt.signed (f : Fmt) (neg : Bool) (pat : Nat) : Nat := pat + bnat neg * 2 ^ (f.width - 1)

/-- Table 2.4: a finite value above the maximum. -/
def Fmt.overflowRes (f : Fmt) (neg sat : Bool) : Nat :=
  match f with
  | .e4m3 => if sat then f.signed neg f.maxPat else f.nanPat
  | .e5m2 => if sat then f.signed neg f.maxPat else f.signed neg f.infPat
  | .e2m1 => f.signed neg f.maxPat
  | _ => f.signed neg f.infPat

/-- Table 2.4: an infinite input. -/
def Fmt.infRes (f : Fmt) (neg sat : Bool) : Nat :=
  match f with
  | .e4m3 => if sat then f.signed neg f.maxPat else f.nanPat
  | .e2m1 => f.signed neg f.maxPat
  | _ => f.signed neg f.infPat

/-- R36 for a finite value: sign, and magnitude num / den times 2 to the e. -/
def Fmt.convertMag (f : Fmt) (mode : Round) (sat : Bool) (r : Nat) (neg : Bool) (num den : Nat) (e : Int) : Nat :=
  if num = 0 then 0
  else
    let ex0 := floorLog2 num den + e
    let ex := if f.keepsSub then max ex0 f.emin else ex0
    let n := roundInt mode r num den (e + ((f.frac : Int) - ex))
    let (n, ex) := if n = 2 ^ (f.frac + 1) then (2 ^ f.frac, ex + 1) else (n, ex)
    if n = 0 then 0
    else if !f.keepsSub ∧ ex < f.emin then 0
    else
      let pat := if n < 2 ^ f.frac then n else (ex + f.bias).toNat * 2 ^ f.frac + n % 2 ^ f.frac
      if f.maxPat < pat then f.overflowRes neg sat else f.signed neg pat

/-- A magnitude m times 2 to the e as numerator and exponent. -/
def Fmt.convert (f : Fmt) (x : XV) (mode : Round) (sat : Bool) (r : Nat) : Nat :=
  match x with
  | .nan => f.nanPat
  | .inf s => f.infRes s sat
  | .fin m e => f.convertMag mode sat r (m < 0) m.natAbs 1 e

/-- Round to nearest even, not saturating: the rounding of every arithmetic operation (R35). -/
def Fmt.rne (f : Fmt) (x : XV) : Nat := f.convert x .rne false 0

/-! ### Exact arithmetic -/

def XV.neg : XV → XV
  | .nan => .nan
  | .inf s => .inf !s
  | .fin m e => .fin (-m) e

def XV.abs : XV → XV
  | .nan => .nan
  | .inf _ => .inf false
  | .fin m e => .fin m.natAbs e

def XV.isZero : XV → Bool
  | .fin m _ => m == 0
  | _ => false

def XV.isNan : XV → Bool
  | .nan => true
  | _ => false

def XV.isInf : XV → Bool
  | .inf _ => true
  | _ => false

/-- m times 2 to the k, exact for k not negative. -/
def ishl (m : Int) (k : Nat) : Int := m * ((1 <<< k : Nat) : Int)

/-- Exact sum of two finite values. -/
def addFin (m1 e1 m2 e2 : Int) : XV :=
  if m1 = 0 then .fin m2 e2 else if m2 = 0 then .fin m1 e1
  else
    let e := min e1 e2
    .fin (ishl m1 (e1 - e).toNat + ishl m2 (e2 - e).toNat) e

/-- Exact sum, with the NaN of opposite infinities. -/
def XV.add (x y : XV) : XV :=
  match x, y with
  | .nan, _ => .nan
  | _, .nan => .nan
  | .inf a, .inf b => if a = b then .inf a else .nan
  | .inf a, _ => .inf a
  | _, .inf b => .inf b
  | .fin a b, .fin c d => addFin a b c d

/-- Exact product, with the NaN of zero times infinity. -/
def XV.mul (x y : XV) : XV :=
  match x, y with
  | .nan, _ => .nan
  | _, .nan => .nan
  | .inf a, .inf b => .inf (a != b)
  | .inf a, .fin m _ => if m = 0 then .nan else .inf (a != decide (m < 0))
  | .fin m _, .inf b => if m = 0 then .nan else .inf (b != decide (m < 0))
  | .fin a b, .fin c d => .fin (a * c) (b + d)

/-- An exact value times 2 to the k. -/
def XV.scale (x : XV) (k : Int) : XV :=
  match x with
  | .fin m e => .fin m (e + k)
  | v => v

/-- Sign of a difference of finite values: whether m1 2^e1 is less than m2 2^e2. -/
def ltFin (m1 e1 m2 e2 : Int) : Bool :=
  let e := min e1 e2
  ishl m1 (e1 - e).toNat < ishl m2 (e2 - e).toNat

/-- The order of R49 on values: NaN above everything. -/
def XV.lt (x y : XV) : Bool :=
  match x, y with
  | .nan, _ => false
  | _, .nan => true
  | .inf a, .inf b => a && !b
  | .inf a, _ => a
  | _, .inf b => !b
  | .fin a b, .fin c d => ltFin a b c d

/-- Equality of values in the order of R49. -/
def XV.eqv (x y : XV) : Bool := !XV.lt x y && !XV.lt y x

/-- A quotient rounded once by RNE (R34): IEEE division, zeros being +0 (R31). -/
def Fmt.divRne (f : Fmt) (x y : XV) : Nat :=
  match x, y with
  | .nan, _ => f.nanPat
  | _, .nan => f.nanPat
  | .inf _, .inf _ => f.nanPat
  | .inf a, .fin m _ => f.signed (a != decide (m < 0)) f.infPat
  | .fin _ _, .inf _ => 0
  | .fin a b, .fin c d =>
    if c = 0 then (if a = 0 then f.nanPat else f.signed (a < 0) f.infPat)
    else f.convertMag .rne false 0 (decide (a < 0) != decide (c < 0)) a.natAbs c.natAbs (b - d)

/-- A square root rounded once by RNE: the root to enough bits, with a sticky bit below them. -/
def Fmt.sqrtRne (f : Fmt) (x : XV) : Nat :=
  match x with
  | .nan => f.nanPat
  | .inf s => if s then f.nanPat else f.infPat
  | .fin m e =>
    if m = 0 then 0
    else if m < 0 then f.nanPat
    else
      let k : Nat := 2 * f.width
      let (n, e) := if e % 2 = 0 then (m.toNat, e) else (2 * m.toNat, e - 1)
      let n := n <<< (2 * k)
      let s := Nat.sqrt n
      f.convertMag .rne false 0 false (2 * s + bnat (s * s != n)) 1 (e / 2 - k - 1)

/-- F32 addition, subtraction and multiplication of patterns (R34). -/
def addF (f : Fmt) (a b : Nat) : Nat := f.rne ((f.decode a).add (f.decode b))
def subF (f : Fmt) (a b : Nat) : Nat := f.rne ((f.decode a).add (f.decode b).neg)
def mulF (f : Fmt) (a b : Nat) : Nat := f.rne ((f.decode a).mul (f.decode b))
def divF (f : Fmt) (a b : Nat) : Nat := f.divRne (f.decode a) (f.decode b)

/-- A zero normalised to +0 (R31) and, in F32 and F64, a subnormal to +0 (R33); other patterns unchanged. -/
def Fmt.normal (f : Fmt) (w : Nat) : Nat :=
  let w := w % 2 ^ f.width
  if (f.decode w).isZero then 0 else if (f.decode w).isNan then f.nanPat else w

/-- R50. -/
def minF (f : Fmt) (a b : Nat) : Nat :=
  let x := f.decode a; let y := f.decode b
  if x.isNan || y.isNan then f.nanPat else if y.lt x then f.normal b else f.normal a
def maxF (f : Fmt) (a b : Nat) : Nat :=
  let x := f.decode a; let y := f.decode b
  if x.isNan || y.isNan then f.nanPat else if x.lt y then f.normal b else f.normal a

/-! ### Integers -/

def IFmt.width : IFmt → Nat
  | .i8 => 8 | .i32 => 32 | .u32 => 32

def IFmt.lo : IFmt → Int
  | .i8 => -128 | .i32 => -2147483648 | .u32 => 0

def IFmt.hi : IFmt → Int
  | .i8 => 127 | .i32 => 2147483647 | .u32 => 4294967295

/-- The integer a pattern spells. -/
def IFmt.decode (t : IFmt) (w : Nat) : Int :=
  match t with
  | .u32 => ((w % 2 ^ 32 : Nat) : Int)
  | _ => sext t.width w

/-- The pattern of an integer, clamped to the type's range (Table 2.4). -/
def IFmt.clamp (t : IFmt) (i : Int) : Nat := imod (max t.lo (min t.hi i)) t.width

/-- Conversion to an integer type (R39). -/
def IFmt.convert (t : IFmt) (x : XV) (mode : Round) (r : Nat) : Nat :=
  match x with
  | .nan => 0
  | .inf s => imod (if s then t.lo else t.hi) t.width
  | .fin m e =>
    let n := roundInt mode r m.natAbs 1 e
    t.clamp (if m < 0 then -(n : Int) else n)

/-- Conversion from an integer type to a floating-point format (R39). -/
def IFmt.toFloat (t : IFmt) (f : Fmt) (w : Nat) : Nat := f.rne (.fin (t.decode w) 0)

/-! ### Stochastic rounding (R40, Table 2.5) -/

def srMix (x : Dword) : Dword :=
  let x := x ^^^ (x >>> 30)
  let x := x * 0xB7E31D5A9C46F2E9#64
  let x := x ^^^ (x >>> 27)
  let x := x * 0x9F4D83B26A17C5D3#64
  x ^^^ (x >>> 31)

/-- sr_bits(seed, step, stream_id, index) of R40. -/
def srBits (seed step : Dword) (streamId index : Nat) : Nat :=
  let x := srMix (seed ^^^ (step * 0xA3C59E2B41D76F15#64))
  let x := srMix (x ^^^ (BitVec.ofNat 64 streamId * 0x8E6B27D9C5301AB7#64))
  let x := srMix (x ^^^ (BitVec.ofNat 64 index * 0xC2F15A849B3DE06D#64))
  (x >>> 48).toNat

/-! ### Block scaling (R42, R43) -/

/-- The value of a block element with scale byte `e` (R42). -/
def blockValue (f : Fmt) (scale el : Nat) : XV :=
  if scale = 0xFF then .nan else (f.decode el).scale ((scale : Int) - 127)

/-- R43: the scale byte and the elements of a block of F32 patterns, with the draw of each element. -/
def encodeBlock (el : Fmt) (mode : Round) (xs : List Nat) (rs : List Nat) : Nat × List Nat :=
  let vs := xs.map Fmt.f32.decode
  if vs.any fun v => v.isNan || v.isInf then (0xFF, xs.map fun _ => 0)
  else
    let mx := vs.foldl (fun a v => if a.lt v.abs then v.abs else a) (.fin 0 0)
    match mx with
    | .fin m e =>
      if m = 0 then (0x7F, xs.map fun _ => 0)
      else
        let k := floorLog2 m.natAbs 1 + e - (if el = .e4m3 then 8 else 2)
        let k := min (max k (-127)) 127
        ((k + 127).toNat, (vs.zip rs).map fun p => el.convert (p.1.scale (-k)) mode true p.2)
    | _ => (0xFF, xs.map fun _ => 0)

/-! ### The dot product of the matrix array (R44 to R47) -/

/-- Flags of Table 2.6 as bits: 0 invalid, 1 overflow, 2 inexact. -/
def flagBits (invalid overflow inexact : Bool) : BitVec 3 :=
  BitVec.ofNat 3 (bnat invalid + 2 * bnat overflow + 4 * bnat inexact)

/-- One operand of a product: its value (scales already applied, R42) and whether it is a NaN by scale or pattern. -/
structure DotTerm where
  p : XV
  invalid : Bool
  overflow : Bool
  deriving DecidableEq, Repr

/-- The exact product of a position with its flags (R45). -/
def dotTerm (a b : XV) : DotTerm :=
  match a.mul b with
  | .nan => ⟨.nan, true, false⟩
  | .inf s => ⟨.inf s, false, false⟩
  | .fin m e =>
    if m ≠ 0 ∧ 128 ≤ floorLog2 m.natAbs 1 + e then ⟨.inf (m < 0), false, true⟩ else ⟨.fin m e, false, false⟩

/-- A finite value truncated to whole multiples of 2 to the w. -/
def truncTo (m e w : Int) : Int × Bool :=
  if w ≤ e then (ishl m (e - w).toNat, false)
  else
    let k := (w - e).toNat
    let n := m.natAbs >>> k
    ((if m < 0 then -(n : Int) else (n : Int)), n <<< k != m.natAbs)

/-- add_rne of R45: the new accumulator pattern and the flags it raises. -/
def addRne (acc : Nat) (g : XV) : Nat × BitVec 3 :=
  let a := Fmt.f32.decode acc
  match a, g with
  | .nan, _ => (Fmt.f32.nanPat, 0)
  | _, .nan => (Fmt.f32.nanPat, 0)
  | .inf s, .inf t => if s = t then (Fmt.f32.signed s Fmt.f32.infPat, 0) else (Fmt.f32.nanPat, flagBits true false false)
  | .inf s, _ => (Fmt.f32.signed s Fmt.f32.infPat, 0)
  | _, .inf s => (Fmt.f32.signed s Fmt.f32.infPat, 0)
  | .fin m1 e1, .fin m2 e2 =>
    let y := addFin m1 e1 m2 e2
    let v := Fmt.f32.rne y
    let d := Fmt.f32.decode v
    (v, flagBits false d.isInf (!d.eqv y))

/-- dot_group of R45 over the products of at most 16 positions. -/
def dotGroup (acc : Nat) (ps : List DotTerm) : Nat × BitVec 3 :=
  let inv := ps.any (·.invalid)
  let ovf := ps.any (·.overflow)
  let pos := ps.any fun t => t.p = .inf false
  let neg := ps.any fun t => t.p = .inf true
  let fl := flagBits (inv || (pos && neg && !(ps.any fun t => t.p.isNan))) ovf false
  let fin (g : XV) (x : Bool) : Nat × BitVec 3 :=
    let r := addRne acc g
    (r.1, fl ||| flagBits false false x ||| r.2)
  if ps.any fun t => t.p.isNan then fin .nan false
  else if pos && neg then fin .nan false
  else if pos then fin (.inf false) false
  else if neg then fin (.inf true) false
  else
    let mags := ps.filterMap fun t => match t.p with
      | .fin m e => if m = 0 then none else some (floorLog2 m.natAbs 1 + e)
      | _ => none
    match mags with
    | [] => fin (.fin 0 0) false
    | k :: r =>
      let w := r.foldl max k - 55
      let (g, x) := ps.foldl (fun (acc : Int × Bool) t => match t.p with
        | .fin m e => let q := truncTo m e w; (acc.1 + q.1, acc.2 || q.2)
        | _ => acc) (0, false)
      fin (.fin g w) x

/-- A dot product over K in groups of 16 from the first index (R45, R46). -/
def dotProduct (acc : Nat) (ps : List DotTerm) : Nat × BitVec 3 :=
  (chunks 16 ps.length ps).foldl (fun r g => let q := dotGroup r.1 g; (q.1, r.2 ||| q.2)) (acc, 0)

/-! ### Order and comparison (R49 to R51) -/

/-- The order key of R49 for a floating-point pattern. -/
def Fmt.orderKey (f : Fmt) (w : Nat) : Nat :=
  let w := w % 2 ^ f.width
  let b := match f.decode w with
    | .fin m _ => if m = 0 then 0 else w
    | _ => w
  if (f.decode w).isNan then 2 ^ f.width - 1
  else if nbit b (f.width - 1) then 2 ^ f.width - 1 - b
  else b + 2 ^ (f.width - 1)

/-- The order key of an integer pattern (R49). -/
def IFmt.orderKey (t : IFmt) (w : Nat) : Nat :=
  match t with
  | .u32 => w % 2 ^ 32
  | _ => (w + 2 ^ (t.width - 1)) % 2 ^ t.width

/-- F32 to F19 (R38): RTZ keeps bits [31:13], RNE rounds, and under RNE every finite value above 0x7F7F_E000 in magnitude
becomes infinity. R36 would round the values below 0x7F7F_F000 down to the largest F19; the model follows R38 (DEDUCED, log
entry 40). A NaN stays a NaN whatever bits hold its payload (R30, Table 2.4), where keeping bits [31:13] alone would give
infinity (DEDUCED, log entry 41). -/
def toF19 (rne : Bool) (w : Nat) : XV :=
  match Fmt.f32.decode w with
  | .fin m e =>
    if !rne then Fmt.f19.decode (w / 2 ^ 13 % 2 ^ 19)
    else if 0x7F7FE000 < w % 2 ^ 31 then .inf (nbit w 31)
    else Fmt.f19.decode (Fmt.f19.rne (.fin m e))
  | x => x

end Sys2Proof.Machine
end

