-- ==== Sys2Proof/Machine/Maps.lean ====
section
/-!
DEFINITION. Reading and writing sparse data (log entry 3): a list of (key, value) pairs with strictly rising keys and
no entry that equals what an unlisted key reads as. A write keeps that form, so equal contents are equal lists.
Memories are such maps of bytes, with 0 for an unlisted byte.
-/

namespace Sys2Proof.Machine

/-- The value at key `k`, `d` where it is not listed. -/
def mget (d : α) : SMap α → Nat → α
  | [], _ => d
  | (a, v) :: r, k => if a = k then v else mget d r k

/-- The map without key `k`. -/
def merase : SMap α → Nat → SMap α
  | [], _ => []
  | (a, v) :: r, k => if a = k then merase r k else (a, v) :: merase r k

/-- The map with the pair put before the first larger key. -/
def mins (k : Nat) (v : α) : SMap α → SMap α
  | [] => [(k, v)]
  | (a, w) :: r => if k < a then (k, v) :: (a, w) :: r else (a, w) :: mins k v r

/-- The map with `v` at key `k`; writing the default removes the entry. -/
def mset [DecidableEq α] (d : α) (m : SMap α) (k : Nat) (v : α) : SMap α :=
  if v = d then merase m k else mins k v (merase m k)

/-- The canonical form: keys rise strictly, and no entry holds the default. -/
def mwf [DecidableEq α] (d : α) : SMap α → Bool
  | [] => true
  | (a, v) :: r => v != d && (r.head?.all fun p => a < p.1) && mwf d r

/-- One byte of a memory. -/
def rdByte (m : Mem) (a : Nat) : Byte := mget 0 m a

/-- `n` bytes from address `a`. -/
def rdBytes (m : Mem) (a : Nat) : Nat → List Byte
  | 0 => []
  | n + 1 => rdByte m a :: rdBytes m (a + 1) n

/-- The memory with the bytes stored from address `a`. -/
def wrBytes (m : Mem) (a : Nat) : List Byte → Mem
  | [] => m
  | b :: r => wrBytes (mset 0 m a b) (a + 1) r

/-- The canonical form of a memory. -/
def memWf (m : Mem) : Bool := mwf 0 m

/-- The map restricted to keys that satisfy a predicate. -/
def mfilter (p : Nat → Bool) (m : SMap α) : SMap α := m.filter fun e => p e.1

end Sys2Proof.Machine
end

