-- ==== Sys2Proof/Machine/State.lean ====
section
/-!
DEFINITION. The state of the XB40 as plain data: everything the spec gives the device (INVENTORY.md, State), and the
queue of the commands that wait. BAR0 registers that hold a stored word stand in `State.regs` under their BAR0
address, an unlisted register holding its reset value (Machine/Regs.lean); a register that shows other state
(a link's state, a count of queued entries) is not stored twice, it is computed where it is read (Machine/Read.lean).
64-bit counters stand in `State.cnt` under the address of their low word.
-/

namespace Sys2Proof.Machine

/-- The three assemblies of the package (R5, Table 0.1). -/
inductive Variant where
  | xb4020 | xb4016n | xb4010s
  deriving DecidableEq, Repr

/-- Device states (R352, Table 15.4). -/
inductive DevState where
  | off | rom | loaded | configured | running | draining | faulted
  deriving DecidableEq, Repr

/-! ## Packets and cells -/

/-- The 32-byte packet header (R90, Table 4.6). -/
structure PktHdr where
  op : Nat
  dstDev : Nat
  dstEp : Nat
  srcDev : Nat
  srcEp : Nat
  srcRank : Nat
  dstRank : Nat
  flow : Nat
  circ : Nat
  msgSlot : Nat
  msgSeq : Nat
  msgBytes : Nat
  byteOff : Nat
  addr : Nat
  sig : Bool
  deriving DecidableEq, Repr

/-- A whole fabric packet: its header, what its cells carry beside it, and the data bytes after the header. -/
structure Packet where
  hdr : PktHdr
  vc : Nat
  tc : Nat
  job : Nat
  tag : Nat
  abt : Bool
  data : List Byte
  deriving DecidableEq, Repr

/-- A cell (R54, Table 3.1). `pid` names the packet the cell belongs to, `dl` is the dateline class the port die
decided for it (R87), `inLane` the ingress subport of a multicast copy whose class is decided at each egress subport,
`ep` the destination endpoint before R92 replaced it and `circ` the circuit whose reserved buffers it may use; none of
them is a header bit (log entry 10). -/
structure Cell where
  dst : Nat
  src : Nat
  sub : Nat
  tc : Nat
  vc : Nat
  mcast : Bool
  sop : Bool
  eop : Bool
  cellIdx : Nat
  len : Nat
  job : Nat
  mgroup : Nat
  pktTag : Nat
  pktCells : Nat
  ts : Nat
  brw : Bool
  abt : Bool
  hcrc : BitVec 16
  data : List Byte
  pid : Nat
  dl : Bool
  inLane : Option Nat
  ep : Nat
  circ : Option Nat
  deriving DecidableEq, Repr

/-- Who waits for the COMPLETE of a message (R94). -/
inductive Owner where
  /-- a DMA command of core `u` on engine `eng`, by its number -/
  | dma (u eng ord : Nat)
  /-- the write-back of a page: die, job slot and page (R280) -/
  | writeBack (n slot va : Nat)
  /-- a page or a read answered to another device; nobody on this device waits -/
  | served
  /-- an image or data-tree announce of collective `id` (R179) -/
  | collAnn (id : Nat)
  /-- a chunk of collective `id` on data tree or target `tree` (R181) -/
  | collData (id tree : Nat)
  /-- the control announce or the done word of collective `id` (R179, R190) -/
  | collCtl (id : Nat)
  /-- an output message of reduction context `c` (R138) -/
  | engine (c : Nat)
  /-- a page of a checkpoint mirror of a job slot (R332) -/
  | mirror (slot : Nat)
  deriving DecidableEq, Repr

/-- A message of this device (R94): waiting for its first packet's injection, waiting for a slot, or open. -/
structure Msg where
  id : Nat
  owner : Owner
  dstDev : Option Nat
  slot : Option Nat
  seq : Nat
  waiting : Bool
  deriving DecidableEq, Repr

/-- A packet held in the attachment of crossbar slot `src` until PACKET_INJECT takes it (R66, R95). `xlate` is the
job slot whose tables translate its destination rank; none for a packet sent without rank translation. `sig` names the
core and the number of the SIGNAL that completes when the packet enters the crossbar (R226). -/
structure OutPkt where
  src : Nat
  msg : Option Nat
  xlate : Option Nat
  sig : Option (Nat × Nat)
  pkt : Packet
  deriving DecidableEq, Repr

/-- A packet that an output of the crossbar has handed to its unit (R92): `unit` is the unit number the NI put in
place of dst_ep and `ep` the endpoint it replaced; `src` is the crossbar slot it came from and `at_` the fabric time at
which its attachment had it whole (R20). -/
structure Arrival where
  slot : Nat
  sub : Nat
  mcast : Bool
  unit : Nat
  ep : Nat
  pkt : Packet
  src : Nat
  at_ : Dword
  deriving DecidableEq, Repr

/-- Bytes of a packet that count as committed at this device and wait for TRACKER_COUNT (R93), at the unit of crossbar
slot `slot`. `target` is the core and semaphore of a SEM_ADD that is held until its message is complete, with its operand;
`src` the crossbar slot the packet came from and `at_` the fabric time at which its bytes were committed (R20). -/
structure CommitRec where
  slot : Nat
  hdr : PktHdr
  ep : Nat
  job : Nat
  tc : Nat
  bytes : Nat
  target : Option (Nat × Nat × Nat)
  isAdd : Bool
  src : Nat
  at_ : Dword
  deriving DecidableEq, Repr

/-- A tracker of a message that arrives (R93), open for one pair (src_dev, msg_slot). -/
structure Tracker where
  srcDev : Nat
  slot : Nat
  seq : Nat
  msgBytes : Nat
  count : Nat
  sig : Bool
  held : Option (Nat × Nat × Nat)
  added : Bool
  deriving DecidableEq, Repr

/-! ## The crossbar (spec/03_crossbar.md) -/

/-- A cell that waits at an input. `link` is the subport, vc and dl of the receive buffer it still fills (R85). -/
structure XIn where
  i : Nat
  cell : Cell
  link : Option (Nat × Nat × Bool)
  /-- for a multicast cell in input-copy mode that has begun: the members still to be sent to (R69) -/
  left : Option (List Nat)
  /-- for a multicast cell: the members whose copy was discarded when their output went down (R71) -/
  gone : List Nat
  /-- the cell's real position in its packet, and the pkt_cells of the packet's first cell (R55) -/
  pos : Nat
  last : Nat
  deriving DecidableEq, Repr

/-- A cell or a pointer entry in queue (i, j, sub, tc) of a crosspoint (R52, R70). -/
structure XEntry where
  i : Nat
  j : Nat
  cell : Cell
  ptr : Option Nat
  /-- the cell fills a buffer that its circuit reserves (R65) -/
  res : Bool
  deriving DecidableEq, Repr

/-- A stored copy in the pool with its reference count (R70). -/
structure ScBuf where
  id : Nat
  refs : Nat
  deriving DecidableEq, Repr

/-- An output's commitment to a packet for one (sub, tc) (R57). -/
structure XCommit where
  j : Nat
  sub : Nat
  tc : Nat
  i : Nat
  pid : Nat
  deriving DecidableEq, Repr

/-- A packet being collected at a client output (R74). -/
structure Reasm where
  j : Nat
  cells : List Cell
  deriving DecidableEq, Repr

structure Xbar where
  /-- min_cells as applied at the last enable, 0 before the first -/
  minActive : Nat
  /-- minimum credits held at input i for crosspoint (i, j), keyed 128 i + j; unlisted: minActive -/
  minCr : SMap Nat
  /-- brw(i, j, c) of Table 3.3, keyed 8 (128 i + j) + c -/
  brw : SMap Nat
  /-- borrowed credits of class c held at input i for j, same key -/
  brwCr : SMap Nat
  /-- buffers a circuit reserves, and how many of them hold no cell, by circuit ID (R65, R100) -/
  circRes : SMap Nat
  circFree : SMap Nat
  /-- free pool buffers (XBAR_POOLFREE) -/
  free : Nat
  /-- buffers of stored-copy multicast (Table 3.3) -/
  mc : Nat
  /-- stored-copy credits held at input i for group g, keyed 1024 i + g -/
  scCr : SMap Nat
  xin : List XIn
  /-- packets of which the input has sent the sop cell and not yet the eop cell, per queue (R58) -/
  started : List XCommit
  xq : List XEntry
  bufs : List ScBuf
  commits : List XCommit
  /-- packets marked aborted whose sop cell has left (R74), and packets discarded whole -/
  aborted : List Nat
  dropped : List Nat
  /-- round-robin positions: the pool arbiter, and per output the class and input served last -/
  rrPool : Nat
  rrTc : SMap Nat
  rrIn : SMap Nat
  /-- flush counters of queue (i, j, sub, tc), keyed ((128 i + j) 4 + sub) 8 + tc (R72) -/
  flq : SMap Dword
  reasm : List Reasm
  /-- cells that left toward a port slot and wait for the port die to take them (R424) -/
  xout : List (Nat × Cell)
  deriving DecidableEq, Repr

/-! ## Links (spec/04_links_and_routing.md) -/

/-- States of a fabric subport (R104, Table 4.9). -/
inductive LinkState where
  | down | training | up | retraining | failed
  deriving DecidableEq, Repr

/-- States of an Ethernet subport (R109). -/
inductive EthState where
  | down | training | up
  deriving DecidableEq, Repr

/-- The routing decision for a packet that is arriving on one virtual channel of a subport. -/
structure RxDec where
  vc : Nat
  pid : Nat
  hdr : PktHdr
  job : Nat
  dst : Nat
  sub : Nat
  mcast : Bool
  mgroup : Nat
  dl : Bool
  /-- the packet is discarded; with `commit` its bytes count as committed (R92) -/
  drop : Bool
  commit : Bool
  ep : Nat
  circ : Option Nat
  /-- flits of the packet placed so far, and the pkt_cells of its first flit (R55) -/
  pos : Nat
  last : Nat
  /-- pkt_tag, equal in every cell of the packet -/
  tag : Nat
  deriving DecidableEq, Repr

/-- One fabric subport (R80 to R88, R104, R105). -/
structure Link where
  st : LinkState
  peerDev : Nat
  peerLane : Nat
  /-- transmit credits per pair, keyed 2 vc + dl -/
  txCr : SMap Nat
  /-- credits to return to the peer, same key -/
  crdRet : SMap Nat
  txSeq : Nat
  rxSeq : Nat
  /-- data flits sent and not acknowledged, oldest first -/
  replay : List Flit
  /-- data flits that wait to be sent again, oldest first -/
  resend : List Flit
  /-- discarding data flits until the expected seq (R84) -/
  discarding : Bool
  reqsNoProgress : Nat
  /-- an ack newer than the last one carried by a flit -/
  ackNew : Bool
  /-- accepted data flits whose packet has no routing decision yet -/
  rxWait : List Flit
  rxDec : List RxDec
  /-- sop flits (virtual channel, seq) of packets that the policer discards and that wait for their turn (R125) -/
  rxCut : List (Nat × Nat)
  /-- sop flits (virtual channel, seq) that came while the crossbar was disabled and are not yet policed (R66, R125) -/
  rxHeld : List (Nat × Nat)
  /-- control, replay-request and time flits that wait for the next flit boundary -/
  ctlOut : List Flit
  /-- packet (pid) whose sop flit was sent and whose eop flit was not, per vc -/
  txOpen : SMap Nat
  /-- SYNCs sent since the last EPOCH (R301) -/
  syncs : Nat
  /-- the flit that left last on the link -/
  lastTx : Option Flit
  /-- position, in the order of dealing, of the lane that carries the next flit (R80) -/
  txLane : Nat
  /-- lane of the die that carried the last flit, and whether its polarity is inverted (R79) -/
  lastLane : Option (Nat × Bool)
  /-- the same of the receive side: position of the lane that brings the next flit, and the lane that brought the last one
  with the polarity in which it is taken (R79, R80) -/
  rxLane : Nat
  lastRx : Option (Nat × Bool)
  /-- errors in the link test window (R382): a retrain, a CRC failure or a state other than UP -/
  testBad : Bool
  deriving DecidableEq, Repr

/-- Egress scheduler of a subport (R116 to R122). -/
structure Egress where
  fifo : List Cell
  /-- packets in selection order that still have cells to send -/
  sel : List Nat
  /-- packets selected whose eop cell has not entered the FIFO, each with the cell of it that entered last -/
  inProg : List (XCommit × Option Cell)
  v : Dword
  fin : SMap Dword
  eligible : List Nat
  /-- active lists of all classes: (class, input slot) from head to tail -/
  active : List (Nat × Nat)
  deficit : SMap Nat
  fresh : List (Nat × Nat)
  rrMgmt : Nat
  rrCirc : Nat
  deriving DecidableEq, Repr

/-- A response buffer that waits at an Ethernet subport (R113, R117), with the time stamp of its arrival there. -/
structure RespWait where
  handle : Word
  ts : Nat
  deriving DecidableEq, Repr

/-- A response in the FIFO of an Ethernet subport: its buffer, its time stamp and its frame (R115, R116). -/
structure RespFrame where
  handle : Word
  ts : Nat
  frame : List Byte
  deriving DecidableEq, Repr

/-- An Ethernet subport: its state and the response buffers it holds (R109, R113): those that wait for selection (R117)
and those whose frame is in the FIFO (R116). -/
structure Eth where
  st : EthState
  wait : List RespWait
  resp : List RespFrame
  /-- the frame that left last -/
  lastTx : List Byte
  deriving DecidableEq, Repr

/-- A telemetry record that waits to be written into the ring (R128). -/
structure RingRec where
  n : Nat
  seq : Nat
  bytes : List Byte
  deriving DecidableEq, Repr

/-! ## Stream engines (spec/06_stream_engines.md) -/

/-- Context states (R135, Table 6.2). -/
inductive CtxState where
  | free | announcing | configured | active | failed
  deriving DecidableEq, Repr

/-- A context descriptor (R133, Table 6.1) as its fields. -/
structure CtxDesc where
  job : Nat
  handler : Nat
  dtype : Nat
  init : Nat
  rmode : Nat
  final : Bool
  nIn : Nat
  outIdx : Nat
  collSeq : Nat
  nChunks : Nat
  chunkElems : Nat
  outCtx : Nat
  outDev : Nat
  outEp : Nat
  outTc : Nat
  selfEp : Nat
  digest : List Byte
  outAddr : Nat
  seed : Dword
  step : Dword
  k : List Dword
  inTypes : List Nat
  deriving DecidableEq, Repr

/-- An announce record (R136). -/
structure AnnRec where
  ins : List Nat
  digests : List (List Byte)
  anyMm : Bool
  count : Dword
  tail : List Byte
  deriving DecidableEq, Repr

/-- The record a context keeps for one later coll_seq (R137): the descriptor and announce packets it took, in order. -/
structure PendRec where
  seq : Nat
  items : List Packet
  deriving DecidableEq, Repr

/-- A chunk slot in use: the chunk, how many of its contributions were handled, its elements, flags (Table 6.3, as
bits [235:232]), record count and size, exact I32 sums (R150) and the contributions whose bytes are not committed. -/
structure ChunkSlot where
  chunk : Nat
  handled : Nat
  elems : Nat
  recs : Nat
  recSize : Nat
  flags : BitVec 4
  exact : SMap Int
  holds : List Arrival
  deriving DecidableEq, Repr

structure Ctx where
  st : CtxState
  job : Nat
  seq : Nat
  code : Nat
  desc : Option CtxDesc
  ann : AnnRec
  pend : Option PendRec
  flags : BitVec 5
  base : Nat
  nextIn : SMap Nat
  slots : List ChunkSlot
  /-- chunk messages of this context that await COMPLETE -/
  outst : List Nat
  deriving DecidableEq, Repr

/-- A COLL_DATA packet that a context accepted and whose handler has not run (R146). -/
structure Accepted where
  e : Nat
  c : Nat
  arr : Arrival
  deriving DecidableEq, Repr

/-! ## Tile cores (spec/08 to spec/13) -/

/-- Core states (R203, Table 8.7). -/
inductive CoreState where
  | idle | running | waiting | halted | faulted
  deriving DecidableEq, Repr

/-- An address generator (R222, R223). -/
structure AddrGen where
  base : Int
  stride : SMap Int
  winLo : Nat
  winHi : Nat
  deriving DecidableEq, Repr

/-- A hardware loop level (R219). -/
structure LoopLevel where
  active : Bool
  index : Nat
  count : Nat
  first : Nat
  last : Nat
  deriving DecidableEq, Repr

/-- A command in MQ, VQ0 or VQ1 (R206): its queue (0 MQ, 1 VQ0, 2 VQ1), its slot of the word, its dispatch cycle, the
word it came from, the number of that word since the start, and the addresses and counters it took at dispatch (R208). -/
structure QCmd where
  q : Nat
  slot : Dword
  d : Nat
  word : Nat
  ord : Nat
  a : Nat
  b : Nat
  dst : Nat
  ca : Word
  ca1 : Word
  deriving DecidableEq, Repr

/-- A command in DQ0, DQ1 or CQ (R206); `ls` is the address its generator gave. -/
structure DCmd where
  slot : Dword
  d : Nat
  word : Nat
  ord : Nat
  ls : Nat
  deriving DecidableEq, Repr

/-- A DMA command that started (R209, R226): its queue and number, its word, the semaphore its completion adds to, and
the local-store bytes a GET has still to write. -/
structure DmaOp where
  ord : Nat
  eng : Nat
  d : Nat
  word : Nat
  done : Option Nat
  dest : Option (Nat × Nat)
  finished : Bool
  /-- ended without completion (R226, R271, R283) -/
  ended : Bool
  /-- the command, while it stalls on a page that is being fetched (R278) -/
  stalled : Option DCmd
  /-- the pager refused the page the command stalls on: it ends with DENIED (R275, R278) -/
  refused : Bool
  deriving DecidableEq, Repr

/-- A local-store range that a DMA GET of the core writes: its engine, the number of its word, dispatch cycle, address and
length, and the cycle by which its completion has been signalled (R215). -/
structure GetRange where
  eng : Nat
  ord : Nat
  d : Nat
  addr : Nat
  len : Nat
  fin : Option Nat
  deriving DecidableEq, Repr

/-- A matrix or vector command that started: its start cycle and occupancy (R209), the stochastic-rounding key and the
density threshold it took at its start (R246, R262), the events of the sticky flags it makes, each with its cycle (bits 1:0
of VFLAG, 4:2 of MFLAG; R240, R252), and, for an MMS, its tiles. -/
structure Started where
  cmd : QCmd
  s : Nat
  occ : Nat
  seed : Dword
  step : Dword
  thr : Nat
  fl : List (Nat × BitVec 5)
  /-- the cycle at which an uncorrectable word ended it (R224) -/
  cut : Option Nat
  /-- the tiles an MMS reads: read cycle, and whether the tile takes the dense path (R262, R267) -/
  tiles : List (Nat × Bool)
  deriving DecidableEq, Repr

/-- A write to local store with the cycle at which it becomes visible and the word and slot that made it (R210, R211);
slot 7 is a write that no command of the core's engines made. -/
structure LsWrite where
  vis : Nat
  ord : Nat
  word : Nat
  slot : Nat
  addr : Nat
  bytes : List Byte
  deriving DecidableEq, Repr

/-- A write to a bank of accumulator memory: the whole bank after it, the flags it sets and whether it clears them first
(R210, R236, R237). -/
structure AccWrite where
  vis : Nat
  ord : Nat
  word : Nat
  slot : Nat
  bank : Bool
  vals : List Word
  clear : Bool
  flags : BitVec 3
  deriving DecidableEq, Repr

/-- A bank flip of a slot at a cycle (R236). -/
structure Flip where
  cyc : Nat
  ord : Nat
  word : Nat
  slot : Nat
  deriving DecidableEq, Repr

/-- A fault of a core with the fields of its record (Table 8.15). -/
structure CoreFault where
  cyc : Nat
  code : Nat
  slot : Nat
  kind : Nat
  space : Nat
  pc : Nat
  eng : Nat
  ag : Nat
  wpc : Nat
  addr : Nat
  deriving DecidableEq, Repr

structure Core where
  st : CoreState
  pc : Nat
  hdrPc : Nat
  count : Nat
  safelight : Bool
  c : SMap Word
  k : SMap Bool
  lc : SMap Nat
  lv : SMap LoopLevel
  ag : SMap AddrGen
  /-- cycle of the last dispatch or test, first cycle at which the successor may dispatch, and words dispatched -/
  cyc : Nat
  ready : Nat
  words : Nat
  /-- cycle at which the hold of the last word ends, and the loop levels that the registers show until then (R221) -/
  holdTo : Nat
  lvHeld : SMap LoopLevel
  /-- cycle that a core which stands still has reached: its commands run on (R203, R204) -/
  now : Nat
  /-- the next word was tested and could not dispatch -/
  blocked : Bool
  /-- the word being held is a HALT, or a stop was commanded -/
  halting : Bool
  stopping : Bool
  /-- a clear was commanded in FAULTED and waits for qempty (R205) -/
  clearing : Bool
  mq : List QCmd
  vq0 : List QCmd
  vq1 : List QCmd
  dq0 : List DCmd
  dq1 : List DCmd
  cq : List DCmd
  /-- first cycle at which the next command of MQ, VQ0, VQ1 may start (R209) -/
  mqFree : Nat
  vq0Free : Nat
  vq1Free : Nat
  dma : List DmaOp
  /-- with safelight, the ranges of the GETs that have left since the core's start -/
  gotten : List GetRange
  /-- the matrix and vector commands started since the core's start, oldest first, and the writes and flips they made -/
  started : List Started
  lsw : List LsWrite
  accw : List AccWrite
  flips : List Flip
  /-- per bit of `Started.fl`, the first cycle whose events count: those before it software has cleared (R9) -/
  clr : SMap Nat
  /-- words that became uncorrectable since then: (accumulator memory or local store, address, cycle from which on) -/
  decays : List (Bool × Nat × Nat)
  /-- the earliest fault that the started commands come to, from cycle `judged` on -/
  fault : Option CoreFault
  judged : Nat
  deriving DecidableEq, Repr

/-! ## Collectives (spec/07_collectives.md) -/

/-- A collective descriptor (R166, Table 7.1). -/
structure CollDesc where
  op : Nat
  etype : Nat
  esize : Nat
  redop : Nat
  flags : Nat
  mask : Nat
  shards : Nat
  seq : Nat
  job : Nat
  chunkElems : Nat
  arg : Nat
  planId : Nat
  maxCount : Nat
  dims : List Nat
  lo : List Nat
  hi : List Nat
  dstAddr : Nat
  count : Nat
  sem : Nat
  chunkSem : Nat
  srcAddr : Nat
  planAddr : Nat
  recAddr : Nat
  selfRank : Nat
  raw : List Byte
  deriving DecidableEq, Repr

/-- A target word of a plan (R173). -/
structure Target where
  dev : Nat
  ep : Nat
  ctx : Nat
  inIdx : Nat
  tree : Nat
  root : Bool
  valid : Bool
  deriving DecidableEq, Repr

/-- A plan as the sequencer read it (R173, Table 7.3). -/
structure Plan where
  planId : Nat
  nLocal : Nat
  lead : Bool
  permTarget : Nat
  ctlLeaf : Target
  fanout : Target
  leaves : List Target
  locals : List Nat
  images : List (Target × List Byte)
  /-- every reserved field of the plan is zero (R168) -/
  reservedZero : Bool
  deriving DecidableEq, Repr

inductive CollPhase where
  | announce | released | done
  deriving DecidableEq, Repr

/-- A chunk stream of a member: its tree or target, the next chunk, how many there are, and its messages that await
COMPLETE (R181). -/
structure CollStream where
  tree : Nat
  next : Nat
  chunks : Nat
  /-- elements of the stream -/
  count : Nat
  outst : Nat
  deriving DecidableEq, Repr

/-- An open collective of a tile die's sequencer (R163). -/
structure Coll where
  id : Nat
  n : Nat
  core : Nat
  slot : Nat
  job : Nat
  desc : CollDesc
  plan : Plan
  phase : CollPhase
  /-- the member's own checks failed or a combined announce carried mm = 1 -/
  mm : Bool
  /-- images and announces that await COMPLETE -/
  annOutst : Nat
  annSent : Bool
  /-- data trees whose combined announce arrived -/
  trees : List Nat
  streams : List CollStream
  /-- chunks landed per data tree -/
  landed : SMap Nat
  doneWord : Word
  doneSent : Bool
  total : Dword
  deriving DecidableEq, Repr

/-! ## Memory, pager, pools (spec/11_memory_and_pools.md) -/

/-- A page fetch in progress or waiting at a pager (R278): die of the pager, job slot, page, commands that wait. -/
structure Fetch where
  n : Nat
  slot : Nat
  va : Nat
  leafAt : Nat
  frame : Nat
  rank : Nat
  active : Bool
  got : Nat
  /-- the DMA commands that wait for the page: core and engine -/
  waiters : List (Nat × Nat)
  deriving DecidableEq, Repr

/-- A write-back in progress (R280). -/
structure WriteBack where
  n : Nat
  slot : Nat
  va : Nat
  leafAt : Nat
  deriving DecidableEq, Repr

/-- A translation a die may still use after the table changed (R276). -/
structure AtuEntry where
  n : Nat
  slot : Nat
  page : Nat
  leaf : Dword
  deriving DecidableEq, Repr

/-! ## Fabric time and shutters (spec/12_synchronisation.md) -/

/-- Shutter states (R307, Table 12.5); `failed` is the state of R310. -/
inductive ShutState where
  | off | collect | sent | armed | failed
  deriving DecidableEq, Repr

/-- A participant's or a child's two arrival flags (R306) with the semaphores it named. -/
structure Arrivals where
  who : Nat
  ag : Bool
  ag1 : Bool
  sem : Nat
  sem1 : Nat
  deriving DecidableEq, Repr

structure Shutter where
  st : ShutState
  gen : Nat
  t : Dword
  locals : List Arrivals
  childs : List Arrivals
  deriving DecidableEq, Repr

/-- The fabric time unit (R299 to R304). -/
structure FabricTime where
  now : Dword
  loaded : Bool
  locked : Bool
  holdover : Bool
  armed : Bool
  /-- ticks for which the counter is still to be held, the single-tick corrections still to make (in half ticks, positive
  where the counter is ahead), and the rate trim (in 1/32 tick per period) -/
  hold : Nat
  adjust : Int
  trim : Int
  good : Nat
  /-- EPOCH received from the parent and held for the first load -/
  epoch : Option Nat
  /-- ticks since the last single-tick correction, and the phase of the rate trim, in 1/32 tick per period -/
  since : Nat
  phase : Int
  /-- ARRIVEs of local cores that have not reached the unit: core, shutter, semaphore, in issue order -/
  arrivals : List (Nat × Nat × Nat)
  deriving DecidableEq, Repr

/-! ## Job slots, configuration and serving (spec/14_steps_and_serving.md) -/

/-- Job slot states (R326, Table 14.1). -/
inductive JobState where
  | off | ready | running | eval | draining | failed
  deriving DecidableEq, Repr

/-- A drain in progress (R328): the state it began in, the mailbox that waits for it, its limit in µs, and whether its
steps up to the release of remote-home pages are done. -/
structure DrainRun where
  fromSt : JobState
  mbx : Option Nat
  limit : Nat
  released : Bool
  deriving DecidableEq, Repr

/-- A checkpoint mirror in progress (R332): its mailbox, its half, and the messages that await COMPLETE. -/
structure MirrorRun where
  mbx : Nat
  half : Nat
  outst : Nat
  deriving DecidableEq, Repr

/-- The roster of a job's managers (R383). -/
structure Roster where
  q : Nat
  n : Nat
  job : Nat
  keys : List (List Byte)
  deriving DecidableEq, Repr

structure Job where
  st : JobState
  job : Nat
  step : Dword
  seed : Dword
  code : Nat
  det : Bool
  incomplete : Bool
  mvalid : Bool
  mhalf : Nat
  mstep : Dword
  evals : Word
  partner : Nat
  mbase : Nat
  pages : Nat
  rlist : Nat
  cores : Nat
  drain : Option DrainRun
  mirror : Option MirrorRun
  roster : Roster
  /-- ballots counted at the current step: (target, manager) (R386) -/
  tally : List (Nat × Nat)
  changed : Dword
  deriving DecidableEq, Repr

/-- A configuration set (R333, R361). Parts 0 to 4 are table words keyed
((table 64 + job slot) 1024 + index) 8 + word; parts 5, 6, 11, 12 are records by index; parts 7 to 10 are register lists. -/
structure CfgSet where
  tbl : SMap Word
  jobs : SMap (List Byte)
  roots : SMap (List Byte)
  lists : SMap (List (Nat × Word))
  models : SMap (List Byte)
  groups : SMap (List Byte)
  rosters : SMap Roster
  deriving DecidableEq, Repr

/-- A queued serving request (R338). -/
structure Request where
  model : Nat
  handle : Word
  lane : Nat
  time : Dword
  deriving DecidableEq, Repr

/-- Group states (R337, Table 14.7). -/
inductive GroupState where
  | off | idle | busy | switching | faulted
  deriving DecidableEq, Repr

/-- An entry of a batch: buffer, continuation flag, arrival lane (Table 14.8). -/
structure BatchEntry where
  handle : Word
  cont : Bool
  lane : Nat
  deriving DecidableEq, Repr

structure Group where
  st : GroupState
  model : Option Nat
  seq : Nat
  /-- number of the open batch, its model and its entries -/
  open_ : Option (Nat × Nat × List BatchEntry)
  /-- the model and the entries a SWITCHING group will get -/
  next : Option (Nat × List BatchEntry)
  /-- continuations held: model, handle, lane -/
  conts : List (Nat × Word × Nat)
  exiting : Bool
  deriving DecidableEq, Repr

structure Dispatcher where
  queue : List Request
  ready : List Nat
  deficit : SMap Nat
  /-- models whose fresh flag is 0 -/
  stale : List Nat
  groups : SMap Group
  /-- descriptors of accepted datagrams that wait for the dispatcher (R112) -/
  inbox : List Request
  drops : SMap Dword
  /-- jobs of groups that faulted, with the code, for which Hyzacia has not sent its notice yet (R341, R342) -/
  unserved : List (Nat × Nat)
  deriving DecidableEq, Repr

/-! ## Management (spec/15, spec/16, spec/17) -/

/-- A mailbox command in progress (R356, R357). -/
structure MbxRun where
  m : Nat
  op : Nat
  exclusive : Bool
  deriving DecidableEq, Repr

/-- A FABRIC_READ in progress (R362): its mailbox, the place and length of its data, the bytes that came, and the job,
address and flow label its responses carry. -/
structure FabricRead where
  m : Nat
  off : Nat
  len : Nat
  got : Nat
  job : Nat
  va : Nat
  flow : Nat
  deriving DecidableEq, Repr

/-- The I3C target (R350). -/
structure I3c where
  staticAddr : Nat
  dynAddr : Option Nat
  id : Nat
  offset : Nat
  block : List Byte
  events : Nat
  /-- bytes the target returned last -/
  reply : List Byte
  deriving DecidableEq, Repr

/-- The PCIe endpoint's configuration space (R348, Table 15.1): what the host wrote into its writable words, by offset. -/
structure Pcie where
  cfg : SMap Word
  deriving DecidableEq, Repr

/-- JTAG instructions (R351). -/
inductive JtagIr where
  | bypass | idcode | samplePreload | extest | extestPulse | extestTrain | highz | clamp
  deriving DecidableEq, Repr

/-- The test access port: the instruction, the data register it selects, and whether it has taken the pins. -/
structure Jtag where
  ir : JtagIr
  dr : List Bool
  /-- what the boundary register took from the pins last -/
  bsr : List Bool
  pinsTaken : Bool
  outputsZ : Bool
  deriving DecidableEq, Repr

/-- The boot ROM's progress (R371 to R376). -/
inductive BootPhase where
  /-- an image in flash is being checked -/
  | flash
  /-- waiting for LOAD_IMAGE -/
  | waiting
  /-- the management cores run an image and have not answered yet -/
  | started
  | done
  deriving DecidableEq, Repr

/-- The security block (R377 to R387). -/
structure Sec where
  mode : Nat
  phase : BootPhase
  helper : List Byte
  key : Nat
  fwVersion : Word
  buildTag : Dword
  staged : Bool
  acc : List Byte
  log : List (Nat × Dword × List Byte)
  truncated : Bool
  pubkey : List Byte
  /-- management-die memory: the image body that the ROM copied there, and the byte offset of its first instruction, at
  which the management cores start (R376) -/
  image : List Byte
  entry : Nat
  deriving DecidableEq, Repr

/-- Power and thermal control (R416 to R420): clocks in sixteenths of nominal. -/
structure Power where
  arith : Nat
  xbar : Nat
  clamped : Bool
  tripped : Bool
  watts : Nat
  limit : Nat
  temp16 : Int
  throttling : Bool
  /-- PWR_OK is high -/
  pwrOk : Bool
  deriving DecidableEq, Repr

/-- Firmware-side bookkeeping of Hyzacia (R357, R367, R368). -/
structure Mgmt where
  /-- doorbells in the order in which commands start -/
  doorbells : List Nat
  running : List MbxRun
  fabricRead : Option FabricRead
  contactDpa : Nat
  sheetSeq : Nat
  linkTest : Option (Nat × List Nat)
  selfTest : Option (Nat × Nat)
  /-- mailbox and limit of a DEV_STOP in progress -/
  devStop : Option (Nat × Nat)
  /-- 0x0000_00A5 was the last write to DEV_RSTCTL -/
  rstArmed : Bool
  faultTime : Dword
  watchdogOn : Bool
  deriving DecidableEq, Repr

/-! ## The machine -/

/-- The unit that records a job-ending fault: memory (R271, R275), semaphores (R295), the sequencer (R180). -/
inductive OwedAt where
  | mem | sem | coll
  deriving DecidableEq, Repr

/-- A job-ending fault of a tile die whose notice is still to be sent: who records it, the die, the job, the code (R192). -/
structure Owed where
  site : OwedAt
  n : Nat
  job : Nat
  code : Nat
  deriving DecidableEq, Repr

structure State where
  /-- the commands that wait, first in, first out -/
  pending : List Instr
  variant : Variant
  dev : DevState
  regs : SMap Word
  cnt : SMap Dword
  /-- high words latched by a read of the low word (R23), by the address of the high word -/
  latch : SMap Word
  /-- the word the last BAR0 read returned -/
  busData : Word
  -- memories
  dpa : Mem
  ls : Mem
  acc : SMap Word
  accFlags : SMap (BitVec 3)
  /-- slots (64 u + slot) whose bank 1 is the active bank -/
  accBank1 : SMap Bool
  sems : SMap Word
  ctxMem : Mem
  prog : SMap Xcw
  progValid : SMap Bool
  bar2 : Mem
  mbx : Mem
  /-- 64-bit words that are uncorrectable at present (R269) -/
  ue : List (MemSpace × Nat)
  -- fabric
  xbar : Xbar
  links : SMap Link
  egress : SMap Egress
  eths : SMap Eth
  shpT : SMap Int
  circT : SMap Int
  polT : SMap Int
  ethDrop : SMap Dword
  hist : SMap Dword
  sampleN : SMap Nat
  ring : List RingRec
  attach : List OutPkt
  msgs : List Msg
  msgSeq : SMap Nat
  inbox : List Arrival
  commits : List CommitRec
  trackers : List Tracker
  -- engines, cores, collectives
  ctxs : SMap Ctx
  accepted : List Accepted
  rrEmit : SMap Nat
  cores : SMap Core
  colls : List Coll
  /-- job-ending faults of which Hyzacia has sent no notice yet, also those that a record register did not take (R192) -/
  owed : List Owed
  -- memory system
  fetches : List Fetch
  wbs : List WriteBack
  atu : List AtuEntry
  atuBusy : List (Nat × Nat)
  poolUsed : List (Nat × Nat)
  -- time
  time : FabricTime
  shutters : SMap Shutter
  -- jobs and configuration
  jobs : SMap Job
  active : CfgSet
  shadow : CfgSet
  dsp : Dispatcher
  -- management
  mgmt : Mgmt
  sec : Sec
  power : Power
  i3c : I3c
  jtag : Jtag
  pcie : Pcie
  /-- the model's own: next number for packets, messages and collectives, and draws of free values so far -/
  nextId : Nat
  freeCtr : Nat
  deriving DecidableEq, Repr

/-- Why the machine stops with a fault. The XB40 as the spec gives it has no state in which a command stops the
device for good: a refused access is an effect (a record, a cause bit, a status code), and the device goes on. The
one fault here is the model's own guard. -/
inductive Fault where
  /-- Raised by no meaning: kept so that a fault has a name if a later repair needs one. Safe: the machine would stop
  where the hardware goes on. -/
  | guard
  deriving DecidableEq, Repr

/-- Why a command has no meaning. -/
inductive Refusal where
  /-- Raised by an arm of `exec` whose command has no meaning yet. Safe: nothing can be proved of such a step. -/
  | notModelled (mnemonic : String)
  deriving DecidableEq, Repr

/-! ## Reset -/

def Variant.portDies : Variant → Nat
  | .xb4020 => 8 | .xb4016n => 12 | .xb4010s => 8

def Variant.tileDies : Variant → Nat
  | .xb4020 => 20 | .xb4016n => 16 | .xb4010s => 10

/-- The sustained power limit of a variant in W (Table 0.2). -/
def Variant.tdp : Variant → Nat
  | .xb4020 => 2400 | .xb4016n => 2400 | .xb4010s => 1700

/-- IDCODE (R351). -/
def Variant.idcode : Variant → Nat
  | .xb4020 => 0x14020B47 | .xb4016n => 0x14016B47 | .xb4010s => 0x14010B47

/-- The test access port after a reset: IDCODE selects the device's code, and the boundary register holds zeros (log
entry 91). -/
def Jtag.resetOf (v : Variant) : Jtag :=
  { ir := .idcode, dr := bitList 32 v.idcode, bsr := List.replicate Config.boundaryLength false,
    pinsTaken := false, outputsZ := false }

def Link.reset : Link :=
  { st := .down, peerDev := 0, peerLane := 0, txCr := [], crdRet := [], txSeq := 0, rxSeq := 0, replay := [],
    resend := [], discarding := false, reqsNoProgress := 0, ackNew := false, rxWait := [], rxDec := [], rxCut := [], rxHeld := [],
    ctlOut := [], txOpen := [], syncs := 0, lastTx := none, txLane := 0, lastLane := none, rxLane := 0,
    lastRx := none, testBad := false }

def Egress.reset : Egress :=
  { fifo := [], sel := [], inProg := [], v := 0, fin := [], eligible := [], active := [], deficit := [],
    fresh := [], rrMgmt := 0, rrCirc := 0 }

def Eth.reset : Eth := { st := .down, wait := [], resp := [], lastTx := [] }

def AnnRec.empty : AnnRec := { ins := [], digests := [], anyMm := false, count := 0, tail := [] }

def Ctx.reset : Ctx :=
  { st := .free, job := 0, seq := 0, code := 0, desc := none, ann := AnnRec.empty, pend := none, flags := 0,
    base := 0, nextIn := [], slots := [], outst := [] }

/-- Base and strides zero, the window all of local store (R204). -/
def AddrGen.reset : AddrGen := { base := 0, stride := [], winLo := 0, winHi := 0xFFFFFF }

def LoopLevel.reset : LoopLevel := { active := false, index := 0, count := 0, first := 0, last := 0 }

def Core.reset : Core :=
  { st := .idle, pc := 0, hdrPc := 0, count := 0, safelight := false, c := [], k := [], lc := [], lv := [],
    ag := [], cyc := 0, ready := 0, words := 0, holdTo := 0, lvHeld := [], now := 0, blocked := false, halting := false,
    stopping := false, clearing := false,
    mq := [], vq0 := [], vq1 := [], dq0 := [], dq1 := [], cq := [], mqFree := 0, vq0Free := 0, vq1Free := 0,
    dma := [], gotten := [], started := [], lsw := [], accw := [], flips := [], clr := [], decays := [], fault := none, judged := 0 }

def Pcie.reset : Pcie := { cfg := [] }

def Shutter.reset : Shutter := { st := .off, gen := 0, t := 0, locals := [], childs := [] }

def Roster.empty : Roster := { q := 0, n := 0, job := 0, keys := [] }

def Job.reset : Job :=
  { st := .off, job := 0, step := 0, seed := 0, code := 0, det := false, incomplete := false, mvalid := false,
    mhalf := 0, mstep := 0, evals := 0, partner := 0, mbase := 0, pages := 0, rlist := 0, cores := 0,
    drain := none, mirror := none, roster := Roster.empty, tally := [], changed := 0 }

def CfgSet.empty : CfgSet :=
  { tbl := [], jobs := [], roots := [], lists := [], models := [], groups := [], rosters := [] }

def Group.reset : Group :=
  { st := .off, model := none, seq := 0, open_ := none, next := none, conts := [], exiting := false }

def Xbar.reset : Xbar :=
  { minActive := 0, minCr := [], brw := [], brwCr := [], circRes := [], circFree := [], free := 0, mc := 0,
    scCr := [], xin := [], started := [], xq := [], bufs := [], commits := [], aborted := [], dropped := [],
    rrPool := 0, rrTc := [], rrIn := [], flq := [], reasm := [], xout := [] }

def FabricTime.reset : FabricTime :=
  { now := 0, loaded := false, locked := false, holdover := false, armed := false, hold := 0, adjust := 0,
    trim := 0, good := 0, epoch := none, since := 0, phase := 0, arrivals := [] }

def Sec.reset : Sec :=
  { mode := 0, phase := .flash, helper := [], key := 0, fwVersion := 0, buildTag := 0, staged := false,
    acc := List.replicate 64 0, log := [], truncated := false, pubkey := [], image := [], entry := 0 }

/-- The device of a variant right after the release of reset: in ROM, every register and memory at its reset value,
PWR_OK and RST_N high, BOOT_MODE sampled as 0, the flash image not yet checked (log entry 2). -/
def State.resetOf (v : Variant) : State :=
  { pending := [], variant := v, dev := .rom, regs := [], cnt := [], latch := [], busData := 0,
    dpa := [], ls := [], acc := [], accFlags := [], accBank1 := [], sems := [], ctxMem := [], prog := [],
    progValid := [], bar2 := [], mbx := [], ue := [],
    xbar := Xbar.reset, links := [], egress := [], eths := [], shpT := [], circT := [], polT := [], ethDrop := [],
    hist := [], sampleN := [], ring := [], attach := [], msgs := [], msgSeq := [], inbox := [], commits := [],
    trackers := [], ctxs := [], accepted := [], rrEmit := [], cores := [], colls := [], owed := [], fetches := [], wbs := [],
    atu := [], atuBusy := [], poolUsed := [], time := FabricTime.reset, shutters := [], jobs := [],
    active := CfgSet.empty, shadow := CfgSet.empty,
    dsp := { queue := [], ready := [], deficit := [], stale := [], groups := [], inbox := [], drops := [], unserved := [] },
    mgmt := { doorbells := [], running := [], fabricRead := none, contactDpa := 0, sheetSeq := 0, linkTest := none,
              selfTest := none, devStop := none, rstArmed := false, faultTime := 0, watchdogOn := false },
    sec := Sec.reset,
    power := { arith := 16, xbar := 16, clamped := false, tripped := false, watts := 0, limit := v.tdp, temp16 := 0,
               throttling := false, pwrOk := true },
    i3c := { staticAddr := 0x30, dynAddr := none, id := 0, offset := 0, block := List.replicate 64 0, events := 0,
             reply := [] },
    jtag := Jtag.resetOf v, pcie := Pcie.reset,
    nextId := 0, freeCtr := 0 }

/-- The machine right after reset. The variant is fixed at assembly; this one is an XB4020 (log entry 1). -/
def State.reset : State := State.resetOf .xb4020

end Sys2Proof.Machine
end

