-- ==== Sys2Proof/Machine/Regs.lean ====
section
/-!
DEFINITION. The registers of BAR0 (spec/00_scope.md, R8 to R11 and Table 0.7; the register maps R76, R114, R129,
R162, R196, R227, R253, R267, R291, R312, R313, R347, R369 and R391): each register's address, its reset value, the
bits that software stores (RW) and the bits that writing 1 clears (W1C). Bits of the other access types are computed
where the register is read (Machine/Read.lean). `regAt` finds the register of an address.
-/

namespace Sys2Proof.Machine

/-- A register of a register map: BAR0 address, reset value, RW bits, W1C bits. -/
structure Reg where
  addr : Nat
  rst : Word
  rw : Word
  w1c : Word
  deriving DecidableEq, Repr

/-- BAR0 base of the window of port die `n` (Table 0.7). -/
def portBase (n : Nat) : Nat := 0x1000000 + n * 0x40000
/-- BAR0 base of the window of stream die `n`. -/
def sdBase (n : Nat) : Nat := 0x2000000 + n * 0x40000
/-- BAR0 base of the window of tile die `n`. -/
def tdBase (n : Nat) : Nat := 0x3000000 + n * 0x100000

/-- Reset value of PORTn_Pl_CRDv (Table 4.4): the default credits of virtual channel `v`, both dateline classes. -/
def crdReset (v : Nat) : Word :=
  if v = 2 then 0x01800180 else if v = 3 then 0x00200020 else if v = 4 then 0x00E000E0 else 0x00C000C0

namespace R

/-- DEV_ID (R6, Table 0.3). -/
def devId : Reg := ⟨0x0, 0x0, 0x0, 0x0⟩
/-- XBAR_CTL (R76, Table 3.7). -/
def xbarCtl : Reg := ⟨0x100000, 0x2, 0x1, 0x0⟩
/-- XBAR_CPMIN (R76, Table 3.8). -/
def xbarCpmin : Reg := ⟨0x100004, 0x10, 0x7f, 0x0⟩
/-- XBAR_POOLCFG (R76, Table 3.9). -/
def xbarPoolcfg : Reg := ⟨0x100008, 0x100004, 0x1ffffff, 0x0⟩
/-- XBAR_POOLFREE (R76, Table 3.10). -/
def xbarPoolfree : Reg := ⟨0x10000c, 0x0, 0x0, 0x0⟩
/-- XBAR_BCAP (R76, Table 3.10). -/
def xbarBcap : Reg := ⟨0x100010, 0x0, 0x0, 0x0⟩
/-- XBAR_MCCAP (R76, Table 3.10). -/
def xbarMccap : Reg := ⟨0x100014, 0x4000, 0x1fffff, 0x0⟩
/-- XBAR_CAUSE (R76, Table 3.11). -/
def xbarCause : Reg := ⟨0x100018, 0x0, 0x0, 0x3f⟩
/-- XBAR_FAULT (R76, Table 3.12). -/
def xbarFault : Reg := ⟨0x10001c, 0x0, 0x0, 0x0⟩
/-- XBAR_FLQSEL (R76, Table 3.13). -/
def xbarFlqsel : Reg := ⟨0x100020, 0x0, 0x7ffff, 0x0⟩
/-- XBAR_FLQCNT_LO (R76, Table 3.14). -/
def xbarFlqcntLo : Reg := ⟨0x100024, 0x0, 0x0, 0x0⟩
/-- XBAR_FLQCNT_HI (R76, Table 3.14). -/
def xbarFlqcntHi : Reg := ⟨0x100028, 0x0, 0x0, 0x0⟩
/-- XBAR_TCCAPc (R76, Table 3.15). -/
def xbarTccap (c : Nat) : Reg := ⟨0x100040 + c * 0x4, 0x140000, 0x1fffff, 0x0⟩
/-- XBAR_OCAPn (R76, Table 3.16). -/
def xbarOcap (n : Nat) : Reg := ⟨0x100100 + n * 0x4, 0x1000, 0x1fffff, 0x0⟩
/-- XBAR_OUTCTLn (R76, Table 3.17). -/
def xbarOutctl (n : Nat) : Reg := ⟨0x100400 + n * 0x4, 0x0, 0xf, 0x0⟩
/-- XBAR_MCGn_MEM0 (R76, Table 3.18). -/
def xbarMcgMem0 (n : Nat) : Reg := ⟨0x110000 + n * 0x20, 0x0, 0xffffffff, 0x0⟩
/-- XBAR_MCGn_MEM1 (R76, Table 3.18). -/
def xbarMcgMem1 (n : Nat) : Reg := ⟨0x110004 + n * 0x20, 0x0, 0xffffffff, 0x0⟩
/-- XBAR_MCGn_MEM2 (R76, Table 3.18). -/
def xbarMcgMem2 (n : Nat) : Reg := ⟨0x110008 + n * 0x20, 0x0, 0xffffffff, 0x0⟩
/-- XBAR_MCGn_MEM3 (R76, Table 3.18). -/
def xbarMcgMem3 (n : Nat) : Reg := ⟨0x11000c + n * 0x20, 0x0, 0xffffffff, 0x0⟩
/-- XBAR_MCGn_CTL (R76, Table 3.18). -/
def xbarMcgCtl (n : Nat) : Reg := ⟨0x110010 + n * 0x20, 0x0, 0xf, 0x0⟩
/-- XBAR_ABORT_LO (R76, Table 3.19). -/
def xbarAbortLo : Reg := ⟨0x10002c, 0x0, 0x0, 0x0⟩
/-- XBAR_ABORT_HI (R76, Table 3.19). -/
def xbarAbortHi : Reg := ⟨0x100030, 0x0, 0x0, 0x0⟩
/-- XBAR_JMAPw (R76, Table 3.19). -/
def xbarJmap (w : Nat) : Reg := ⟨0x101000 + w * 0x4, 0x0, 0x0, 0xffffffff⟩
/-- PORTn_SLOTCFGk (R114, Table 4.14). -/
def portSlotcfg (n k : Nat) : Reg := ⟨portBase n + 0x0 + k * 0x4, 0x20, 0xff73, 0x0⟩
/-- PORTn_CAUSE (R114, Table 4.15). -/
def portCause (n : Nat) : Reg := ⟨portBase n + 0x20, 0x0, 0x0, 0x7f⟩
/-- PORTn_FAULT (R114, Table 4.15). -/
def portFault (n : Nat) : Reg := ⟨portBase n + 0x24, 0x0, 0x0, 0x0⟩
/-- PORTn_SELF (R114, Table 4.16). -/
def portSelf (n : Nat) : Reg := ⟨portBase n + 0x28, 0x0, 0x3ff, 0x0⟩
/-- PORTn_SALT_LO (R114, Table 4.16). -/
def portSaltLo (n : Nat) : Reg := ⟨portBase n + 0x2c, 0x0, 0xffffffff, 0x0⟩
/-- PORTn_SALT_HI (R114, Table 4.16). -/
def portSaltHi (n : Nat) : Reg := ⟨portBase n + 0x30, 0x0, 0xffffffff, 0x0⟩
/-- PORTn_TBLSEL (R114, Table 4.17). -/
def portTblsel (n : Nat) : Reg := ⟨portBase n + 0x40, 0x0, 0xf03f03ff, 0x0⟩
/-- PORTn_TBLCMD (R114, Table 4.17). -/
def portTblcmd (n : Nat) : Reg := ⟨portBase n + 0x44, 0x0, 0x0, 0x0⟩
/-- PORTn_TBLDATAw (R114, Table 4.17). -/
def portTbldata (n w : Nat) : Reg := ⟨portBase n + 0x60 + w * 0x4, 0x0, 0xffffffff, 0x0⟩
/-- PORTn_Pl_CFG (R114, Table 4.19). -/
def portPCfg (n l : Nat) : Reg := ⟨portBase n + 0x100 + l * 0x40, 0x0, 0x3f, 0x0⟩
/-- PORTn_Pl_PEER (R114, Table 4.19). -/
def portPPeer (n l : Nat) : Reg := ⟨portBase n + 0x104 + l * 0x40, 0x0, 0x800ffdff, 0x0⟩
/-- PORTn_Pl_STAT (R114, Table 4.19). -/
def portPStat (n l : Nat) : Reg := ⟨portBase n + 0x108 + l * 0x40, 0x0, 0x0, 0x0⟩
/-- PORTn_Pl_CRDv (R114, Table 4.19). -/
def portPCrd (n l v : Nat) : Reg := ⟨portBase n + 0x10c + l * 0x40 + v * 0x4, (crdReset v), 0xfff0fff, 0x0⟩
/-- PORTn_Pl_THR (R114, Table 4.20). -/
def portPThr (n l : Nat) : Reg := ⟨portBase n + 0x120 + l * 0x40, 0x10e08040, 0xffffffff, 0x0⟩
/-- PORTn_Pl_THRGAP (R114, Table 4.20). -/
def portPThrgap (n l : Nat) : Reg := ⟨portBase n + 0x124 + l * 0x40, 0x800020, 0xffffffff, 0x0⟩
/-- PORTn_Pl_THRLVL (R114, Table 4.20). -/
def portPThrlvl (n l : Nat) : Reg := ⟨portBase n + 0x128 + l * 0x40, 0x0, 0x0, 0x0⟩
/-- PORTn_Pl_RETRAINS (R114, Table 4.20). -/
def portPRetrains (n l : Nat) : Reg := ⟨portBase n + 0x12c + l * 0x40, 0x0, 0x0, 0x0⟩
/-- PORTn_Pl_REPLAY_LO (R114, Table 4.20). -/
def portPReplayLo (n l : Nat) : Reg := ⟨portBase n + 0x130 + l * 0x40, 0x0, 0x0, 0x0⟩
/-- PORTn_Pl_REPLAY_HI (R114, Table 4.20). -/
def portPReplayHi (n l : Nat) : Reg := ⟨portBase n + 0x134 + l * 0x40, 0x0, 0x0, 0x0⟩
/-- PORTn_Pl_CRCFAIL_LO (R114, Table 4.20). -/
def portPCrcfailLo (n l : Nat) : Reg := ⟨portBase n + 0x138 + l * 0x40, 0x0, 0x0, 0x0⟩
/-- PORTn_Pl_CRCFAIL_HI (R114, Table 4.20). -/
def portPCrcfailHi (n l : Nat) : Reg := ⟨portBase n + 0x13c + l * 0x40, 0x0, 0x0, 0x0⟩
/-- PORTn_El_MAC_LO (R114, Table 4.21). -/
def portEMacLo (n l : Nat) : Reg := ⟨portBase n + 0x800 + l * 0x40, 0x0, 0xffffffff, 0x0⟩
/-- PORTn_El_MAC_HI (R114, Table 4.21). -/
def portEMacHi (n l : Nat) : Reg := ⟨portBase n + 0x804 + l * 0x40, 0x0, 0xffff, 0x0⟩
/-- PORTn_El_IPV4 (R114, Table 4.21). -/
def portEIpv4 (n l : Nat) : Reg := ⟨portBase n + 0x808 + l * 0x40, 0x0, 0xffffffff, 0x0⟩
/-- PORTn_El_IPV6_q (R114, Table 4.21). -/
def portEIpv6 (n l q : Nat) : Reg := ⟨portBase n + 0x80c + l * 0x40 + q * 0x4, 0x0, 0xffffffff, 0x0⟩
/-- PORTn_El_UDP (R114, Table 4.21). -/
def portEUdp (n l : Nat) : Reg := ⟨portBase n + 0x81c + l * 0x40, 0xbab8, 0xffff, 0x0⟩
/-- PORTn_El_MTU (R114, Table 4.21). -/
def portEMtu (n l : Nat) : Reg := ⟨portBase n + 0x820 + l * 0x40, 0x2328, 0x3fff, 0x0⟩
/-- PORTn_El_VLAN (R114, Table 4.21). -/
def portEVlan (n l : Nat) : Reg := ⟨portBase n + 0x824 + l * 0x40, 0x0, 0x1fff, 0x0⟩
/-- PORTn_El_DROPSEL (R114, Table 4.21). -/
def portEDropsel (n l : Nat) : Reg := ⟨portBase n + 0x828 + l * 0x40, 0x0, 0xf, 0x0⟩
/-- PORTn_El_DROPCNT_LO (R114, Table 4.21). -/
def portEDropcntLo (n l : Nat) : Reg := ⟨portBase n + 0x82c + l * 0x40, 0x0, 0x0, 0x0⟩
/-- PORTn_El_DROPCNT_HI (R114, Table 4.21). -/
def portEDropcntHi (n l : Nat) : Reg := ⟨portBase n + 0x830 + l * 0x40, 0x0, 0x0, 0x0⟩
/-- PORTn_El_ACCEPT_LO (R114, Table 4.21). -/
def portEAcceptLo (n l : Nat) : Reg := ⟨portBase n + 0x834 + l * 0x40, 0x0, 0x0, 0x0⟩
/-- PORTn_El_ACCEPT_HI (R114, Table 4.21). -/
def portEAcceptHi (n l : Nat) : Reg := ⟨portBase n + 0x838 + l * 0x40, 0x0, 0x0, 0x0⟩
/-- PORTn_El_CTL (R114, Table 4.21). -/
def portECtl (n l : Nat) : Reg := ⟨portBase n + 0x83c + l * 0x40, 0x0, 0x1, 0x0⟩
/-- PORTn_JMAPw (R114, Table 4.22). -/
def portJmap (n w : Nat) : Reg := ⟨portBase n + 0x1000 + w * 0x4, 0x0, 0x0, 0xffffffff⟩
/-- PORTn_Sl_CFG (R129, Table 5.3). -/
def portSCfg (n l : Nat) : Reg := ⟨portBase n + 0x20000 + l * 0x100, 0x14, 0x3f3f, 0x0⟩
/-- PORTn_Sl_WFQW0 (R129, Table 5.3). -/
def portSWfqw0 (n l : Nat) : Reg := ⟨portBase n + 0x20004 + l * 0x100, 0x1010101, 0xffffffff, 0x0⟩
/-- PORTn_Sl_WFQW1 (R129, Table 5.3). -/
def portSWfqw1 (n l : Nat) : Reg := ⟨portBase n + 0x20008 + l * 0x100, 0x1010101, 0xffffffff, 0x0⟩
/-- PORTn_Sl_SHPRc (R129, Table 5.3). -/
def portSShpr (n l c : Nat) : Reg := ⟨portBase n + 0x20010 + l * 0x100 + c * 0x8, 0x0, 0x8000ffff, 0x0⟩
/-- PORTn_Sl_SHPBc (R129, Table 5.3). -/
def portSShpb (n l c : Nat) : Reg := ⟨portBase n + 0x20014 + l * 0x100 + c * 0x8, 0x4000, 0xffffff, 0x0⟩
/-- PORTn_DRRQi (R129, Table 5.4). -/
def portDrrq (n i : Nat) : Reg := ⟨portBase n + 0x22000 + i * 0x4, 0x4000, 0xffff, 0x0⟩
/-- PORTn_POLCFGj (R129, Table 5.4). -/
def portPolcfg (n j : Nat) : Reg := ⟨portBase n + 0x22200 + j * 0x8, 0x0, 0xc000ffff, 0x0⟩
/-- PORTn_POLBj (R129, Table 5.4). -/
def portPolb (n j : Nat) : Reg := ⟨portBase n + 0x22204 + j * 0x8, 0x10000, 0xffffff, 0x0⟩
/-- PORTn_POLCNTj (R129, Table 5.4). -/
def portPolcnt (n j : Nat) : Reg := ⟨portBase n + 0x22400 + j * 0x4, 0x0, 0x0, 0x0⟩
/-- PORTn_SCHCAUSE (R129, Table 5.4). -/
def portSchcause (n : Nat) : Reg := ⟨portBase n + 0x22600, 0x0, 0x0, 0x3⟩
/-- PORTn_HISTSEL (R129, Table 5.5). -/
def portHistsel (n : Nat) : Reg := ⟨portBase n + 0x22800, 0x0, 0x3f07, 0x0⟩
/-- PORTn_HISTCLR (R129, Table 5.5). -/
def portHistclr (n : Nat) : Reg := ⟨portBase n + 0x22804, 0x0, 0x0, 0x0⟩
/-- PORTn_HISTBINb_LO (R129, Table 5.5). -/
def portHistbinLo (n b : Nat) : Reg := ⟨portBase n + 0x22840 + b * 0x8, 0x0, 0x0, 0x0⟩
/-- PORTn_HISTBINb_HI (R129, Table 5.5). -/
def portHistbinHi (n b : Nat) : Reg := ⟨portBase n + 0x22844 + b * 0x8, 0x0, 0x0, 0x0⟩
/-- PORTn_RING_BASE_LO (R129, Table 5.6). -/
def portRingBaseLo (n : Nat) : Reg := ⟨portBase n + 0x22900, 0x0, 0xffffffc0, 0x0⟩
/-- PORTn_RING_BASE_HI (R129, Table 5.6). -/
def portRingBaseHi (n : Nat) : Reg := ⟨portBase n + 0x22904, 0x0, 0xffff, 0x0⟩
/-- PORTn_RING_CFG (R129, Table 5.6). -/
def portRingCfg (n : Nat) : Reg := ⟨portBase n + 0x22908, 0xf0600, 0x800f1f07, 0x0⟩
/-- PORTn_RING_WPTR (R129, Table 5.6). -/
def portRingWptr (n : Nat) : Reg := ⟨portBase n + 0x2290c, 0x0, 0x0, 0x0⟩
/-- PORTn_RING_SKIP (R129, Table 5.6). -/
def portRingSkip (n : Nat) : Reg := ⟨portBase n + 0x22910, 0x0, 0x0, 0x0⟩
/-- SDn_CAUSE (R162, Table 6.12). -/
def sdCause (n : Nat) : Reg := ⟨sdBase n + 0x0, 0x0, 0x0, 0x7⟩
/-- SDn_FAULT (R162, Table 6.12). -/
def sdFault (n : Nat) : Reg := ⟨sdBase n + 0x4, 0x0, 0x0, 0x0⟩
/-- SDn_JOBCMD (R162, Table 6.12). -/
def sdJobcmd (n : Nat) : Reg := ⟨sdBase n + 0x8, 0x0, 0x0, 0x0⟩
/-- SDn_PROGSEL (R162, Table 6.13). -/
def sdProgsel (n : Nat) : Reg := ⟨sdBase n + 0x10, 0x0, 0xc00003ff, 0x0⟩
/-- SDn_PROGCMD (R162, Table 6.13). -/
def sdProgcmd (n : Nat) : Reg := ⟨sdBase n + 0x14, 0x0, 0x0, 0x0⟩
/-- SDn_PROGDATAw (R162, Table 6.13). -/
def sdProgdata (n w : Nat) : Reg := ⟨sdBase n + 0x40 + w * 0x4, 0x0, 0xffffffff, 0x0⟩
/-- SDn_PROGVAL (R162, Table 6.13). -/
def sdProgval (n : Nat) : Reg := ⟨sdBase n + 0x38, 0x0, 0x0, 0x0⟩
/-- SDn_CTXSEL (R162, Table 6.14). -/
def sdCtxsel (n : Nat) : Reg := ⟨sdBase n + 0x18, 0x0, 0xfff, 0x0⟩
/-- SDn_CTXSTAT (R162, Table 6.14). -/
def sdCtxstat (n : Nat) : Reg := ⟨sdBase n + 0x1c, 0x0, 0x0, 0x0⟩
/-- SDn_CTXBASE (R162, Table 6.14). -/
def sdCtxbase (n : Nat) : Reg := ⟨sdBase n + 0x20, 0x0, 0x0, 0x0⟩
/-- SDn_CTXSEQ (R162, Table 6.14). -/
def sdCtxseq (n : Nat) : Reg := ⟨sdBase n + 0x24, 0x0, 0x0, 0x0⟩
/-- SDn_STRAY_LO (R162, Table 6.15). -/
def sdStrayLo (n : Nat) : Reg := ⟨sdBase n + 0x28, 0x0, 0x0, 0x0⟩
/-- SDn_STRAY_HI (R162, Table 6.15). -/
def sdStrayHi (n : Nat) : Reg := ⟨sdBase n + 0x2c, 0x0, 0x0, 0x0⟩
/-- SDn_DISC_LO (R162, Table 6.15). -/
def sdDiscLo (n : Nat) : Reg := ⟨sdBase n + 0x30, 0x0, 0x0, 0x0⟩
/-- SDn_DISC_HI (R162, Table 6.15). -/
def sdDiscHi (n : Nat) : Reg := ⟨sdBase n + 0x34, 0x0, 0x0, 0x0⟩
/-- SDn_CMSEL (R162, Table 6.15). -/
def sdCmsel (n : Nat) : Reg := ⟨sdBase n + 0x80, 0x0, 0xc07ffffc, 0x0⟩
/-- SDn_CMDATA (R162, Table 6.15). -/
def sdCmdata (n : Nat) : Reg := ⟨sdBase n + 0x84, 0x0, 0xffffffff, 0x0⟩
/-- SDn_JMAPw (R162, Table 6.15). -/
def sdJmap (n w : Nat) : Reg := ⟨sdBase n + 0x1000 + w * 0x4, 0x0, 0x0, 0xffffffff⟩
/-- TDn_COLLCAUSE (R196, Table 7.10). -/
def tdCollcause (n : Nat) : Reg := ⟨tdBase n + 0xc0000, 0x0, 0x0, 0x7⟩
/-- TDn_COLLFAULT (R196, Table 7.10). -/
def tdCollfault (n : Nat) : Reg := ⟨tdBase n + 0xc0004, 0x0, 0x0, 0x0⟩
/-- TDn_COLLJOBCMD (R196, Table 7.10). -/
def tdColljobcmd (n : Nat) : Reg := ⟨tdBase n + 0xc0008, 0x0, 0x0, 0x0⟩
/-- TDn_COLLOPEN (R196, Table 7.10). -/
def tdCollopen (n : Nat) : Reg := ⟨tdBase n + 0xc000c, 0x0, 0x0, 0x0⟩
/-- TDn_COLLSTRAY_LO (R196, Table 7.10). -/
def tdCollstrayLo (n : Nat) : Reg := ⟨tdBase n + 0xc0010, 0x0, 0x0, 0x0⟩
/-- TDn_COLLSTRAY_HI (R196, Table 7.10). -/
def tdCollstrayHi (n : Nat) : Reg := ⟨tdBase n + 0xc0014, 0x0, 0x0, 0x0⟩
/-- TDn_Cc_CTL (R227, Table 8.14). -/
def tdCCtl (u : Nat) : Reg := ⟨tdBase (u / 4) + 0x80000 + u % 4 * 0x10000, 0x0, 0x1, 0x0⟩
/-- TDn_Cc_START (R227, Table 8.14). -/
def tdCStart (u : Nat) : Reg := ⟨tdBase (u / 4) + 0x80004 + u % 4 * 0x10000, 0x0, 0x0, 0x0⟩
/-- TDn_Cc_CMD (R227, Table 8.14). -/
def tdCCmd (u : Nat) : Reg := ⟨tdBase (u / 4) + 0x80008 + u % 4 * 0x10000, 0x0, 0x0, 0x0⟩
/-- TDn_Cc_STAT (R227, Table 8.14). -/
def tdCStat (u : Nat) : Reg := ⟨tdBase (u / 4) + 0x8000c + u % 4 * 0x10000, 0x10000000, 0x0, 0x0⟩
/-- TDn_Cc_CAUSE (R227, Table 8.14). -/
def tdCCause (u : Nat) : Reg := ⟨tdBase (u / 4) + 0x80010 + u % 4 * 0x10000, 0x0, 0x0, 0x7⟩
/-- TDn_Cc_JOB (R227, Table 8.14). -/
def tdCJob (u : Nat) : Reg := ⟨tdBase (u / 4) + 0x80024 + u % 4 * 0x10000, 0x0, 0x3f0fff, 0x0⟩
/-- TDn_Cc_RANK (R227, Table 8.14). -/
def tdCRank (u : Nat) : Reg := ⟨tdBase (u / 4) + 0x80030 + u % 4 * 0x10000, 0x0, 0xbfffffff, 0x0⟩
/-- TDn_Cc_FAULT0 (R227, Table 8.15). -/
def tdCFault0 (u : Nat) : Reg := ⟨tdBase (u / 4) + 0x80014 + u % 4 * 0x10000, 0x0, 0x0, 0x0⟩
/-- TDn_Cc_FAULT1 (R227, Table 8.15). -/
def tdCFault1 (u : Nat) : Reg := ⟨tdBase (u / 4) + 0x80018 + u % 4 * 0x10000, 0x0, 0x0, 0x0⟩
/-- TDn_Cc_FAULT2 (R227, Table 8.15). -/
def tdCFault2 (u : Nat) : Reg := ⟨tdBase (u / 4) + 0x8001c + u % 4 * 0x10000, 0x0, 0x0, 0x0⟩
/-- TDn_Cc_FAULT3 (R227, Table 8.15). -/
def tdCFault3 (u : Nat) : Reg := ⟨tdBase (u / 4) + 0x80020 + u % 4 * 0x10000, 0x0, 0x0, 0x0⟩
/-- TDn_Cc_CYC_LO (R227, Table 8.16). -/
def tdCCycLo (u : Nat) : Reg := ⟨tdBase (u / 4) + 0x80028 + u % 4 * 0x10000, 0x0, 0x0, 0x0⟩
/-- TDn_Cc_CYC_HI (R227, Table 8.16). -/
def tdCCycHi (u : Nat) : Reg := ⟨tdBase (u / 4) + 0x8002c + u % 4 * 0x10000, 0x0, 0x0, 0x0⟩
/-- TDn_Cc_STALLq_LO (R227, Table 8.16). -/
def tdCStallLo (u q : Nat) : Reg := ⟨tdBase (u / 4) + 0x80040 + u % 4 * 0x10000 + q * 0x8, 0x0, 0x0, 0x0⟩
/-- TDn_Cc_STALLq_HI (R227, Table 8.16). -/
def tdCStallHi (u q : Nat) : Reg := ⟨tdBase (u / 4) + 0x80044 + u % 4 * 0x10000 + q * 0x8, 0x0, 0x0, 0x0⟩
/-- TDn_Cc_QDEPTH0 (R227, Table 8.16). -/
def tdCQdepth0 (u : Nat) : Reg := ⟨tdBase (u / 4) + 0x80078 + u % 4 * 0x10000, 0x0, 0x0, 0x0⟩
/-- TDn_Cc_QDEPTH1 (R227, Table 8.16). -/
def tdCQdepth1 (u : Nat) : Reg := ⟨tdBase (u / 4) + 0x8007c + u % 4 * 0x10000, 0x0, 0x0, 0x0⟩
/-- TDn_Cc_CNTi (R227, Table 8.16). -/
def tdCCnt (u i : Nat) : Reg := ⟨tdBase (u / 4) + 0x80080 + u % 4 * 0x10000 + i * 0x4, 0x0, 0x0, 0x0⟩
/-- TDn_Cc_LCl (R227, Table 8.16). -/
def tdCLc (u l : Nat) : Reg := ⟨tdBase (u / 4) + 0x800c0 + u % 4 * 0x10000 + l * 0x4, 0x0, 0x0, 0x0⟩
/-- TDn_Cc_KREG (R227, Table 8.16). -/
def tdCKreg (u : Nat) : Reg := ⟨tdBase (u / 4) + 0x800e0 + u % 4 * 0x10000, 0x0, 0x0, 0x0⟩
/-- TDn_Cc_MFLAG (R253, Table 9.14). -/
def tdCMflag (u : Nat) : Reg := ⟨tdBase (u / 4) + 0xd0000 + u % 4 * 0x100, 0x0, 0x0, 0x7⟩
/-- TDn_Cc_VFLAG (R253, Table 9.14). -/
def tdCVflag (u : Nat) : Reg := ⟨tdBase (u / 4) + 0xd0004 + u % 4 * 0x100, 0x0, 0x0, 0x3⟩
/-- TDn_Cc_SEED_LO (R253, Table 9.14). -/
def tdCSeedLo (u : Nat) : Reg := ⟨tdBase (u / 4) + 0xd0008 + u % 4 * 0x100, 0x0, 0xffffffff, 0x0⟩
/-- TDn_Cc_SEED_HI (R253, Table 9.14). -/
def tdCSeedHi (u : Nat) : Reg := ⟨tdBase (u / 4) + 0xd000c + u % 4 * 0x100, 0x0, 0xffffffff, 0x0⟩
/-- TDn_Cc_STEP_LO (R253, Table 9.14). -/
def tdCStepLo (u : Nat) : Reg := ⟨tdBase (u / 4) + 0xd0010 + u % 4 * 0x100, 0x0, 0xffffffff, 0x0⟩
/-- TDn_Cc_STEP_HI (R253, Table 9.14). -/
def tdCStepHi (u : Nat) : Reg := ⟨tdBase (u / 4) + 0xd0014 + u % 4 * 0x100, 0x0, 0xffffffff, 0x0⟩
/-- TDn_Cc_ACCSEL (R253, Table 9.14). -/
def tdCAccsel (u : Nat) : Reg := ⟨tdBase (u / 4) + 0xd0018 + u % 4 * 0x100, 0x0, 0xfffff, 0x0⟩
/-- TDn_Cc_ACCSTAT (R253, Table 9.14). -/
def tdCAccstat (u : Nat) : Reg := ⟨tdBase (u / 4) + 0xd001c + u % 4 * 0x100, 0x10, 0x0, 0x0⟩
/-- TDn_Cc_ACCDATA (R253, Table 9.14). -/
def tdCAccdata (u : Nat) : Reg := ⟨tdBase (u / 4) + 0xd0020 + u % 4 * 0x100, 0x0, 0x0, 0x0⟩
/-- TDn_Cc_ACCMAP0 (R253, Table 9.14). -/
def tdCAccmap0 (u : Nat) : Reg := ⟨tdBase (u / 4) + 0xd0024 + u % 4 * 0x100, 0x0, 0x0, 0x0⟩
/-- TDn_Cc_ACCMAP1 (R253, Table 9.14). -/
def tdCAccmap1 (u : Nat) : Reg := ⟨tdBase (u / 4) + 0xd0028 + u % 4 * 0x100, 0x0, 0x0, 0x0⟩
/-- TDn_Cc_SPTHR (R267, Table 10.7). -/
def tdCSpthr (u : Nat) : Reg := ⟨tdBase (u / 4) + 0xd1000 + u % 4 * 0x100, 0xccc, 0x3fff, 0x0⟩
/-- TDn_Cc_SPTILES_LO (R267, Table 10.7). -/
def tdCSptilesLo (u : Nat) : Reg := ⟨tdBase (u / 4) + 0xd1008 + u % 4 * 0x100, 0x0, 0x0, 0x0⟩
/-- TDn_Cc_SPTILES_HI (R267, Table 10.7). -/
def tdCSptilesHi (u : Nat) : Reg := ⟨tdBase (u / 4) + 0xd100c + u % 4 * 0x100, 0x0, 0x0, 0x0⟩
/-- TDn_Cc_DNTILES_LO (R267, Table 10.7). -/
def tdCDntilesLo (u : Nat) : Reg := ⟨tdBase (u / 4) + 0xd1010 + u % 4 * 0x100, 0x0, 0x0, 0x0⟩
/-- TDn_Cc_DNTILES_HI (R267, Table 10.7). -/
def tdCDntilesHi (u : Nat) : Reg := ⟨tdBase (u / 4) + 0xd1014 + u % 4 * 0x100, 0x0, 0x0, 0x0⟩
/-- TDn_MEMCAUSE (R291, Table 11.8). -/
def tdMemcause (n : Nat) : Reg := ⟨tdBase n + 0x0, 0x0, 0x0, 0x7⟩
/-- TDn_MEMFAULT0 (R291, Table 11.8). -/
def tdMemfault0 (n : Nat) : Reg := ⟨tdBase n + 0x4, 0x0, 0x0, 0x0⟩
/-- TDn_MEMFAULT1 (R291, Table 11.8). -/
def tdMemfault1 (n : Nat) : Reg := ⟨tdBase n + 0x8, 0x0, 0x0, 0x0⟩
/-- TDn_MEMFAULT2 (R291, Table 11.8). -/
def tdMemfault2 (n : Nat) : Reg := ⟨tdBase n + 0xc, 0x0, 0x0, 0x0⟩
/-- TDn_ECC_CE_LO (R291, Table 11.8). -/
def tdEccCeLo (n : Nat) : Reg := ⟨tdBase n + 0x10, 0x0, 0x0, 0x0⟩
/-- TDn_ECC_CE_HI (R291, Table 11.8). -/
def tdEccCeHi (n : Nat) : Reg := ⟨tdBase n + 0x14, 0x0, 0x0, 0x0⟩
/-- TDn_SCRUB (R291, Table 11.8). -/
def tdScrub (n : Nat) : Reg := ⟨tdBase n + 0x18, 0x80000018, 0x800000ff, 0x0⟩
/-- TDn_ATU_INV (R291, Table 11.8). -/
def tdAtuInv (n : Nat) : Reg := ⟨tdBase n + 0x20, 0x0, 0x0, 0x0⟩
/-- TDn_ATU_STAT (R291, Table 11.8). -/
def tdAtuStat (n : Nat) : Reg := ⟨tdBase n + 0x24, 0x0, 0x0, 0x0⟩
/-- TDn_PGCMD (R291, Table 11.8). -/
def tdPgcmd (n : Nat) : Reg := ⟨tdBase n + 0x30, 0x0, 0x0, 0x0⟩
/-- TDn_PGVA_LO (R291, Table 11.8). -/
def tdPgvaLo (n : Nat) : Reg := ⟨tdBase n + 0x34, 0x0, 0xffe00000, 0x0⟩
/-- TDn_PGVA_HI (R291, Table 11.8). -/
def tdPgvaHi (n : Nat) : Reg := ⟨tdBase n + 0x38, 0x0, 0xffff, 0x0⟩
/-- TDn_PGSTAT (R291, Table 11.8). -/
def tdPgstat (n : Nat) : Reg := ⟨tdBase n + 0x3c, 0x0, 0x0, 0x0⟩
/-- TDn_PGFETCH_LO (R291, Table 11.8). -/
def tdPgfetchLo (n : Nat) : Reg := ⟨tdBase n + 0x40, 0x0, 0x0, 0x0⟩
/-- TDn_PGFETCH_HI (R291, Table 11.8). -/
def tdPgfetchHi (n : Nat) : Reg := ⟨tdBase n + 0x44, 0x0, 0x0, 0x0⟩
/-- TDn_PGWB_LO (R291, Table 11.8). -/
def tdPgwbLo (n : Nat) : Reg := ⟨tdBase n + 0x48, 0x0, 0x0, 0x0⟩
/-- TDn_PGWB_HI (R291, Table 11.8). -/
def tdPgwbHi (n : Nat) : Reg := ⟨tdBase n + 0x4c, 0x0, 0x0, 0x0⟩
/-- TDn_ATU_ROOTj_LO (R291, Table 11.8). -/
def tdAtuRootLo (n j : Nat) : Reg := ⟨tdBase n + 0x100 + j * 0x8, 0x0, 0xfffff001, 0x0⟩
/-- TDn_ATU_ROOTj_HI (R291, Table 11.8). -/
def tdAtuRootHi (n j : Nat) : Reg := ⟨tdBase n + 0x104 + j * 0x8, 0x0, 0xff, 0x0⟩
/-- TDn_PGEPj (R291, Table 11.8). -/
def tdPgep (n j : Nat) : Reg := ⟨tdBase n + 0x300 + j * 0x4, 0x0, 0x800003ff, 0x0⟩
/-- BPM_CTL (R291, Table 11.9). -/
def bpmCtl : Reg := ⟨0x200000, 0x0, 0x1, 0x0⟩
/-- BPM_CAUSE (R291, Table 11.9). -/
def bpmCause : Reg := ⟨0x200004, 0x0, 0x0, 0xf⟩
/-- BPM_REQ (R291, Table 11.9). -/
def bpmReq : Reg := ⟨0x200008, 0x0, 0x0, 0x0⟩
/-- BPM_RSP (R291, Table 11.9). -/
def bpmRsp : Reg := ⟨0x20000c, 0x0, 0x0, 0x0⟩
/-- BPM_FREEERR (R291, Table 11.9). -/
def bpmFreeerr : Reg := ⟨0x200010, 0x0, 0x0, 0x0⟩
/-- BPM_POOLk_BASE_LO (R291, Table 11.10). -/
def bpmPoolBaseLo (k : Nat) : Reg := ⟨0x200100 + k * 0x40, 0x0, 0xffe00000, 0x0⟩
/-- BPM_POOLk_BASE_HI (R291, Table 11.10). -/
def bpmPoolBaseHi (k : Nat) : Reg := ⟨0x200104 + k * 0x40, 0x0, 0xff, 0x0⟩
/-- BPM_POOLk_COUNT (R291, Table 11.10). -/
def bpmPoolCount (k : Nat) : Reg := ⟨0x200108 + k * 0x40, 0x0, 0x1ffff, 0x0⟩
/-- BPM_POOLk_VBASE_LO (R291, Table 11.10). -/
def bpmPoolVbaseLo (k : Nat) : Reg := ⟨0x20010c + k * 0x40, 0x0, 0xffe00000, 0x0⟩
/-- BPM_POOLk_VBASE_HI (R291, Table 11.10). -/
def bpmPoolVbaseHi (k : Nat) : Reg := ⟨0x200110 + k * 0x40, 0x0, 0xffff, 0x0⟩
/-- BPM_POOLk_LOW (R291, Table 11.10). -/
def bpmPoolLow (k : Nat) : Reg := ⟨0x200114 + k * 0x40, 0x0, 0x1ffff, 0x0⟩
/-- BPM_POOLk_FREE (R291, Table 11.10). -/
def bpmPoolFree (k : Nat) : Reg := ⟨0x200118 + k * 0x40, 0x0, 0x0, 0x0⟩
/-- BPM_POOLk_MINFREE (R291, Table 11.10). -/
def bpmPoolMinfree (k : Nat) : Reg := ⟨0x20011c + k * 0x40, 0x0, 0x0, 0x0⟩
/-- BPM_POOLk_EMPTY (R291, Table 11.10). -/
def bpmPoolEmpty (k : Nat) : Reg := ⟨0x200120 + k * 0x40, 0x0, 0x0, 0x0⟩
/-- TIME_CTL (R312, Table 12.7). -/
def timeCtl : Reg := ⟨0x20000, 0x0, 0x1ff0f, 0x0⟩
/-- TIME_CFG (R312, Table 12.7). -/
def timeCfg : Reg := ⟨0x20004, 0x1000040, 0xff00ffff, 0x0⟩
/-- TIME_ASYM (R312, Table 12.7). -/
def timeAsym : Reg := ⟨0x20008, 0x0, 0xffff, 0x0⟩
/-- TIME_NOW_LO (R312, Table 12.7). -/
def timeNowLo : Reg := ⟨0x20010, 0x0, 0x0, 0x0⟩
/-- TIME_NOW_HI (R312, Table 12.7). -/
def timeNowHi : Reg := ⟨0x20014, 0x0, 0x0, 0x0⟩
/-- TIME_SET_LO (R312, Table 12.7). -/
def timeSetLo : Reg := ⟨0x20018, 0x0, 0xffffffff, 0x0⟩
/-- TIME_SET_HI (R312, Table 12.7). -/
def timeSetHi : Reg := ⟨0x2001c, 0x0, 0xffffffff, 0x0⟩
/-- TIME_CMD (R312, Table 12.7). -/
def timeCmd : Reg := ⟨0x20020, 0x0, 0x0, 0x0⟩
/-- TIME_STAT (R312, Table 12.7). -/
def timeStat : Reg := ⟨0x20024, 0x0, 0x0, 0x0⟩
/-- TIME_OFS (R312, Table 12.7). -/
def timeOfs : Reg := ⟨0x20028, 0x0, 0x0, 0x0⟩
/-- TIME_DLY (R312, Table 12.7). -/
def timeDly : Reg := ⟨0x2002c, 0x0, 0x0, 0x0⟩
/-- TIME_CAUSE (R312, Table 12.7). -/
def timeCause : Reg := ⟨0x20030, 0x0, 0x0, 0x1f⟩
/-- TIME_FAULT (R312, Table 12.7). -/
def timeFault : Reg := ⟨0x20034, 0x0, 0x0, 0x0⟩
/-- TIME_PPSCAP_LO (R312, Table 12.7). -/
def timePpscapLo : Reg := ⟨0x20038, 0x0, 0x0, 0x0⟩
/-- TIME_PPSCAP_HI (R312, Table 12.7). -/
def timePpscapHi : Reg := ⟨0x2003c, 0x0, 0x0, 0x0⟩
/-- TIME_LATE (R312, Table 12.7). -/
def timeLate : Reg := ⟨0x20040, 0x0, 0x0, 0x0⟩
/-- TIME_JMAPw (R312, Table 12.7). -/
def timeJmap (w : Nat) : Reg := ⟨0x20100 + w * 0x4, 0x0, 0x0, 0xffffffff⟩
/-- TIME_SHUTb_CFG (R312, Table 12.8). -/
def timeShutCfg (b : Nat) : Reg := ⟨0x21000 + b * 0x80, 0x0, 0xc0000fff, 0x0⟩
/-- TIME_SHUTb_PARENT (R312, Table 12.8). -/
def timeShutParent (b : Nat) : Reg := ⟨0x21004 + b * 0x80, 0x0, 0x800001ff, 0x0⟩
/-- TIME_SHUTb_LEAD (R312, Table 12.8). -/
def timeShutLead (b : Nat) : Reg := ⟨0x21008 + b * 0x80, 0x186a, 0xffffffff, 0x0⟩
/-- TIME_SHUTb_STAT (R312, Table 12.8). -/
def timeShutStat (b : Nat) : Reg := ⟨0x2100c + b * 0x80, 0x0, 0x0, 0x0⟩
/-- TIME_SHUTb_GEN (R312, Table 12.8). -/
def timeShutGen (b : Nat) : Reg := ⟨0x21010 + b * 0x80, 0x0, 0x0, 0x0⟩
/-- TIME_SHUTb_LOCALw (R312, Table 12.8). -/
def timeShutLocal (b w : Nat) : Reg := ⟨0x21014 + b * 0x80 + w * 0x4, 0x0, 0xffffffff, 0x0⟩
/-- TIME_SHUTb_CHILDw (R312, Table 12.8). -/
def timeShutChild (b w : Nat) : Reg := ⟨0x21020 + b * 0x80 + w * 0x4, 0x0, 0xffffffff, 0x0⟩
/-- TDn_SEMCAUSE (R313, Table 12.9). -/
def tdSemcause (n : Nat) : Reg := ⟨tdBase n + 0xe0000, 0x0, 0x0, 0x1⟩
/-- TDn_SEMFAULT0 (R313, Table 12.9). -/
def tdSemfault0 (n : Nat) : Reg := ⟨tdBase n + 0xe0004, 0x0, 0x0, 0x0⟩
/-- TDn_SEMFAULT1 (R313, Table 12.9). -/
def tdSemfault1 (n : Nat) : Reg := ⟨tdBase n + 0xe0008, 0x0, 0x0, 0x0⟩
/-- TDn_SEMFAULT2 (R313, Table 12.9). -/
def tdSemfault2 (n : Nat) : Reg := ⟨tdBase n + 0xe000c, 0x0, 0x0, 0x0⟩
/-- TDn_SEMSEL (R313, Table 12.9). -/
def tdSemsel (n : Nat) : Reg := ⟨tdBase n + 0xe0010, 0x0, 0xfff, 0x0⟩
/-- TDn_SEMDATA (R313, Table 12.9). -/
def tdSemdata (n : Nat) : Reg := ⟨tdBase n + 0xe0014, 0x0, 0x0, 0x0⟩
/-- DEV_JOBj_STAT (R347, Table 14.12). -/
def devJobStat (j : Nat) : Reg := ⟨0x1000 + j * 0x20, 0x0, 0x0, 0x0⟩
/-- DEV_JOBj_STEP_LO (R347, Table 14.12). -/
def devJobStepLo (j : Nat) : Reg := ⟨0x1004 + j * 0x20, 0x0, 0x0, 0x0⟩
/-- DEV_JOBj_STEP_HI (R347, Table 14.12). -/
def devJobStepHi (j : Nat) : Reg := ⟨0x1008 + j * 0x20, 0x0, 0x0, 0x0⟩
/-- DEV_JOBj_MSTEP_LO (R347, Table 14.12). -/
def devJobMstepLo (j : Nat) : Reg := ⟨0x100c + j * 0x20, 0x0, 0x0, 0x0⟩
/-- DEV_JOBj_MSTEP_HI (R347, Table 14.12). -/
def devJobMstepHi (j : Nat) : Reg := ⟨0x1010 + j * 0x20, 0x0, 0x0, 0x0⟩
/-- DEV_JOBj_EVALS (R347, Table 14.12). -/
def devJobEvals (j : Nat) : Reg := ⟨0x1014 + j * 0x20, 0x0, 0x0, 0x0⟩
/-- DSP_CTL (R347, Table 14.13). -/
def dspCtl : Reg := ⟨0x2000, 0x2, 0x3, 0x0⟩
/-- DSP_CAUSE (R347, Table 14.13). -/
def dspCause : Reg := ⟨0x2004, 0x0, 0x0, 0x7⟩
/-- DSP_FAULT (R347, Table 14.13). -/
def dspFault : Reg := ⟨0x2008, 0x0, 0x0, 0x0⟩
/-- DSP_QSEL (R347, Table 14.13). -/
def dspQsel : Reg := ⟨0x200c, 0x0, 0xff, 0x0⟩
/-- DSP_QSTAT (R347, Table 14.13). -/
def dspQstat : Reg := ⟨0x2010, 0x0, 0x0, 0x0⟩
/-- DSP_GSEL (R347, Table 14.13). -/
def dspGsel : Reg := ⟨0x2014, 0x0, 0x7f, 0x0⟩
/-- DSP_GSTAT (R347, Table 14.13). -/
def dspGstat : Reg := ⟨0x2018, 0x0, 0x0, 0x0⟩
/-- DSP_QTOTAL (R347, Table 14.13). -/
def dspQtotal : Reg := ⟨0x201c, 0x0, 0x0, 0x0⟩
/-- DSP_DROPSEL (R347, Table 14.13). -/
def dspDropsel : Reg := ⟨0x2020, 0x0, 0xf, 0x0⟩
/-- DSP_DROP_LO (R347, Table 14.13). -/
def dspDropLo : Reg := ⟨0x2024, 0x0, 0x0, 0x0⟩
/-- DSP_DROP_HI (R347, Table 14.13). -/
def dspDropHi : Reg := ⟨0x2028, 0x0, 0x0, 0x0⟩
/-- DSP_BATCH_LO (R347, Table 14.13). -/
def dspBatchLo : Reg := ⟨0x202c, 0x0, 0x0, 0x0⟩
/-- DSP_BATCH_HI (R347, Table 14.13). -/
def dspBatchHi : Reg := ⟨0x2030, 0x0, 0x0, 0x0⟩
/-- DSP_SWITCH_LO (R347, Table 14.13). -/
def dspSwitchLo : Reg := ⟨0x2034, 0x0, 0x0, 0x0⟩
/-- DSP_SWITCH_HI (R347, Table 14.13). -/
def dspSwitchHi : Reg := ⟨0x2038, 0x0, 0x0, 0x0⟩
/-- DEV_STATE (R369, Table 15.15). -/
def devState : Reg := ⟨0x4, 0x1, 0x0, 0x0⟩
/-- DEV_RSTCTL (R369, Table 15.15). -/
def devRstctl : Reg := ⟨0x8, 0x0, 0x0, 0x0⟩
/-- DEV_HEARTBEAT (R369, Table 15.15). -/
def devHeartbeat : Reg := ⟨0xc, 0x0, 0x0, 0x0⟩
/-- DEV_IRQ_SUMMARY (R369, Table 15.15). -/
def devIrqSummary : Reg := ⟨0x10, 0x0, 0x0, 0x0⟩
/-- DEV_IRQ_EN (R369, Table 15.15). -/
def devIrqEn : Reg := ⟨0x14, 0x3, 0x3ff, 0x0⟩
/-- DEV_IRQ_PORT (R369, Table 15.15). -/
def devIrqPort : Reg := ⟨0x18, 0x0, 0x0, 0x0⟩
/-- DEV_IRQ_SD (R369, Table 15.15). -/
def devIrqSd : Reg := ⟨0x1c, 0x0, 0x0, 0x0⟩
/-- DEV_IRQ_TD (R369, Table 15.15). -/
def devIrqTd : Reg := ⟨0x20, 0x0, 0x0, 0x0⟩
/-- DEV_EVENT (R369, Table 15.15). -/
def devEvent : Reg := ⟨0x24, 0x0, 0x0, 0x7f⟩
/-- DEV_EVJOB0 (R369, Table 15.15). -/
def devEvjob0 : Reg := ⟨0x28, 0x0, 0x0, 0xffffffff⟩
/-- DEV_EVJOB1 (R369, Table 15.15). -/
def devEvjob1 : Reg := ⟨0x2c, 0x0, 0x0, 0xffffffff⟩
/-- DEV_MBX_DB (R369, Table 15.15). -/
def devMbxDb : Reg := ⟨0x30, 0x0, 0x0, 0x0⟩
/-- DEV_MBX_BUSY (R369, Table 15.15). -/
def devMbxBusy : Reg := ⟨0x34, 0x0, 0x0, 0x0⟩
/-- DEV_MBX_DONE (R369, Table 15.15). -/
def devMbxDone : Reg := ⟨0x38, 0x0, 0x0, 0xffff⟩
/-- DEV_MBX_DBERR (R369, Table 15.15). -/
def devMbxDberr : Reg := ⟨0x3c, 0x0, 0x0, 0x0⟩
/-- DEV_BADSTATE (R369, Table 15.15). -/
def devBadstate : Reg := ⟨0x40, 0x0, 0x0, 0x0⟩
/-- DEV_FAULT (R369, Table 15.15). -/
def devFault : Reg := ⟨0x44, 0x0, 0x0, 0x0⟩
/-- SEC_CAUSE (R391, Table 16.11). -/
def secCause : Reg := ⟨0x30000, 0x0, 0x0, 0x3f⟩
/-- SEC_BOOTSTAT (R391, Table 16.11). -/
def secBootstat : Reg := ⟨0x30004, 0x0, 0x0, 0x0⟩
/-- SEC_IDSTAT (R391, Table 16.11). -/
def secIdstat : Reg := ⟨0x30008, 0x0, 0x0, 0x0⟩
/-- SEC_LOGCNT (R391, Table 16.11). -/
def secLogcnt : Reg := ⟨0x3000c, 0x0, 0x0, 0x0⟩
/-- SEC_IDDIGw (R391, Table 16.11). -/
def secIddig (w : Nat) : Reg := ⟨0x30010 + w * 0x4, 0x0, 0x0, 0x0⟩
/-- SEC_MEASw (R391, Table 16.11). -/
def secMeas (w : Nat) : Reg := ⟨0x30040 + w * 0x4, 0x0, 0x0, 0x0⟩
/-- SEC_EXPELe (R391, Table 16.11). -/
def secExpel (e : Nat) : Reg := ⟨0x30100 + e * 0x4, 0x0, 0x0, 0x0⟩

end R

/-- The register at offset `o` of the DEV window. -/
def regAtDev (o : Nat) : Option Reg :=
  if o = 0x0 then some R.devId else
  if o = 0x2000 then some R.dspCtl else
  if o = 0x2004 then some R.dspCause else
  if o = 0x2008 then some R.dspFault else
  if o = 0x200c then some R.dspQsel else
  if o = 0x2010 then some R.dspQstat else
  if o = 0x2014 then some R.dspGsel else
  if o = 0x2018 then some R.dspGstat else
  if o = 0x201c then some R.dspQtotal else
  if o = 0x2020 then some R.dspDropsel else
  if o = 0x2024 then some R.dspDropLo else
  if o = 0x2028 then some R.dspDropHi else
  if o = 0x202c then some R.dspBatchLo else
  if o = 0x2030 then some R.dspBatchHi else
  if o = 0x2034 then some R.dspSwitchLo else
  if o = 0x2038 then some R.dspSwitchHi else
  if o = 0x4 then some R.devState else
  if o = 0x8 then some R.devRstctl else
  if o = 0xc then some R.devHeartbeat else
  if o = 0x10 then some R.devIrqSummary else
  if o = 0x14 then some R.devIrqEn else
  if o = 0x18 then some R.devIrqPort else
  if o = 0x1c then some R.devIrqSd else
  if o = 0x20 then some R.devIrqTd else
  if o = 0x24 then some R.devEvent else
  if o = 0x28 then some R.devEvjob0 else
  if o = 0x2c then some R.devEvjob1 else
  if o = 0x30 then some R.devMbxDb else
  if o = 0x34 then some R.devMbxBusy else
  if o = 0x38 then some R.devMbxDone else
  if o = 0x3c then some R.devMbxDberr else
  if o = 0x40 then some R.devBadstate else
  if o = 0x44 then some R.devFault else
  if 0x1000 ≤ o ∧ o < 0x1800 then
    (let i := (o - 0x1000) / 0x20
     let p := (o - 0x1000) % 0x20
     if p = 0x0 then some (R.devJobStat i) else
     if p = 0x4 then some (R.devJobStepLo i) else
     if p = 0x8 then some (R.devJobStepHi i) else
     if p = 0xc then some (R.devJobMstepLo i) else
     if p = 0x10 then some (R.devJobMstepHi i) else
     if p = 0x14 then some (R.devJobEvals i) else
     none) else
  none

/-- The register at offset `o` of the TIME window. -/
def regAtTime (o : Nat) : Option Reg :=
  if o = 0x0 then some R.timeCtl else
  if o = 0x4 then some R.timeCfg else
  if o = 0x8 then some R.timeAsym else
  if o = 0x10 then some R.timeNowLo else
  if o = 0x14 then some R.timeNowHi else
  if o = 0x18 then some R.timeSetLo else
  if o = 0x1c then some R.timeSetHi else
  if o = 0x20 then some R.timeCmd else
  if o = 0x24 then some R.timeStat else
  if o = 0x28 then some R.timeOfs else
  if o = 0x2c then some R.timeDly else
  if o = 0x30 then some R.timeCause else
  if o = 0x34 then some R.timeFault else
  if o = 0x38 then some R.timePpscapLo else
  if o = 0x3c then some R.timePpscapHi else
  if o = 0x40 then some R.timeLate else
  if 0x100 ≤ o ∧ o < 0x300 then
    (let i := (o - 0x100) / 0x4
     if o % 4 ≠ 0 then none else
     some (R.timeJmap i)) else
  if 0x1000 ≤ o ∧ o < 0x3000 then
    (let i := (o - 0x1000) / 0x80
     let p := (o - 0x1000) % 0x80
     if p = 0x0 then some (R.timeShutCfg i) else
     if p = 0x4 then some (R.timeShutParent i) else
     if p = 0x8 then some (R.timeShutLead i) else
     if p = 0xc then some (R.timeShutStat i) else
     if p = 0x10 then some (R.timeShutGen i) else
     if 0x14 ≤ p ∧ p < 0x20 ∧ (p - 0x14) % 0x4 = 0 then some (R.timeShutLocal i ((p - 0x14) / 0x4)) else
     if 0x20 ≤ p ∧ p < 0x44 ∧ (p - 0x20) % 0x4 = 0 then some (R.timeShutChild i ((p - 0x20) / 0x4)) else
     none) else
  none

/-- The register at offset `o` of the SEC window. -/
def regAtSec (o : Nat) : Option Reg :=
  if o = 0x0 then some R.secCause else
  if o = 0x4 then some R.secBootstat else
  if o = 0x8 then some R.secIdstat else
  if o = 0xc then some R.secLogcnt else
  if 0x10 ≤ o ∧ o < 0x30 then
    (let i := (o - 0x10) / 0x4
     if o % 4 ≠ 0 then none else
     some (R.secIddig i)) else
  if 0x40 ≤ o ∧ o < 0x80 then
    (let i := (o - 0x40) / 0x4
     if o % 4 ≠ 0 then none else
     some (R.secMeas i)) else
  if 0x100 ≤ o ∧ o < 0x140 then
    (let i := (o - 0x100) / 0x4
     if o % 4 ≠ 0 then none else
     some (R.secExpel i)) else
  none

/-- The register at offset `o` of the XBAR window. -/
def regAtXbar (o : Nat) : Option Reg :=
  if o = 0x0 then some R.xbarCtl else
  if o = 0x4 then some R.xbarCpmin else
  if o = 0x8 then some R.xbarPoolcfg else
  if o = 0xc then some R.xbarPoolfree else
  if o = 0x10 then some R.xbarBcap else
  if o = 0x14 then some R.xbarMccap else
  if o = 0x18 then some R.xbarCause else
  if o = 0x1c then some R.xbarFault else
  if o = 0x20 then some R.xbarFlqsel else
  if o = 0x24 then some R.xbarFlqcntLo else
  if o = 0x28 then some R.xbarFlqcntHi else
  if o = 0x2c then some R.xbarAbortLo else
  if o = 0x30 then some R.xbarAbortHi else
  if 0x40 ≤ o ∧ o < 0x60 then
    (let i := (o - 0x40) / 0x4
     if o % 4 ≠ 0 then none else
     some (R.xbarTccap i)) else
  if 0x100 ≤ o ∧ o < 0x300 then
    (let i := (o - 0x100) / 0x4
     if o % 4 ≠ 0 then none else
     some (R.xbarOcap i)) else
  if 0x400 ≤ o ∧ o < 0x600 then
    (let i := (o - 0x400) / 0x4
     if o % 4 ≠ 0 then none else
     some (R.xbarOutctl i)) else
  if 0x1000 ≤ o ∧ o < 0x1200 then
    (let i := (o - 0x1000) / 0x4
     if o % 4 ≠ 0 then none else
     some (R.xbarJmap i)) else
  if 0x10000 ≤ o ∧ o < 0x18000 then
    (let i := (o - 0x10000) / 0x20
     let p := (o - 0x10000) % 0x20
     if p = 0x0 then some (R.xbarMcgMem0 i) else
     if p = 0x4 then some (R.xbarMcgMem1 i) else
     if p = 0x8 then some (R.xbarMcgMem2 i) else
     if p = 0xc then some (R.xbarMcgMem3 i) else
     if p = 0x10 then some (R.xbarMcgCtl i) else
     none) else
  none

/-- The register at offset `o` of the BPM window. -/
def regAtBpm (o : Nat) : Option Reg :=
  if o = 0x0 then some R.bpmCtl else
  if o = 0x4 then some R.bpmCause else
  if o = 0x8 then some R.bpmReq else
  if o = 0xc then some R.bpmRsp else
  if o = 0x10 then some R.bpmFreeerr else
  if 0x100 ≤ o ∧ o < 0x300 then
    (let i := (o - 0x100) / 0x40
     let p := (o - 0x100) % 0x40
     if p = 0x0 then some (R.bpmPoolBaseLo i) else
     if p = 0x4 then some (R.bpmPoolBaseHi i) else
     if p = 0x8 then some (R.bpmPoolCount i) else
     if p = 0xc then some (R.bpmPoolVbaseLo i) else
     if p = 0x10 then some (R.bpmPoolVbaseHi i) else
     if p = 0x14 then some (R.bpmPoolLow i) else
     if p = 0x18 then some (R.bpmPoolFree i) else
     if p = 0x1c then some (R.bpmPoolMinfree i) else
     if p = 0x20 then some (R.bpmPoolEmpty i) else
     none) else
  none

/-- The register at offset `o` of the PORT window of die `n`. -/
def regAtPort (n o : Nat) : Option Reg :=
  if o = 0x20 then some (R.portCause n) else
  if o = 0x24 then some (R.portFault n) else
  if o = 0x28 then some (R.portSelf n) else
  if o = 0x2c then some (R.portSaltLo n) else
  if o = 0x30 then some (R.portSaltHi n) else
  if o = 0x40 then some (R.portTblsel n) else
  if o = 0x44 then some (R.portTblcmd n) else
  if o = 0x22600 then some (R.portSchcause n) else
  if o = 0x22800 then some (R.portHistsel n) else
  if o = 0x22804 then some (R.portHistclr n) else
  if o = 0x22900 then some (R.portRingBaseLo n) else
  if o = 0x22904 then some (R.portRingBaseHi n) else
  if o = 0x22908 then some (R.portRingCfg n) else
  if o = 0x2290c then some (R.portRingWptr n) else
  if o = 0x22910 then some (R.portRingSkip n) else
  if 0x0 ≤ o ∧ o < 0x18 then
    (let i := (o - 0x0) / 0x4
     if o % 4 ≠ 0 then none else
     some (R.portSlotcfg n i)) else
  if 0x60 ≤ o ∧ o < 0x80 then
    (let i := (o - 0x60) / 0x4
     if o % 4 ≠ 0 then none else
     some (R.portTbldata n i)) else
  if 0x100 ≤ o ∧ o < 0x700 then
    (let i := (o - 0x100) / 0x40
     let p := (o - 0x100) % 0x40
     if p = 0x0 then some (R.portPCfg n i) else
     if p = 0x4 then some (R.portPPeer n i) else
     if p = 0x8 then some (R.portPStat n i) else
     if p = 0x20 then some (R.portPThr n i) else
     if p = 0x24 then some (R.portPThrgap n i) else
     if p = 0x28 then some (R.portPThrlvl n i) else
     if p = 0x2c then some (R.portPRetrains n i) else
     if p = 0x30 then some (R.portPReplayLo n i) else
     if p = 0x34 then some (R.portPReplayHi n i) else
     if p = 0x38 then some (R.portPCrcfailLo n i) else
     if p = 0x3c then some (R.portPCrcfailHi n i) else
     if 0xc ≤ p ∧ p < 0x20 ∧ (p - 0xc) % 0x4 = 0 then some (R.portPCrd n i ((p - 0xc) / 0x4)) else
     none) else
  if 0x800 ≤ o ∧ o < 0xe00 then
    (let i := (o - 0x800) / 0x40
     let p := (o - 0x800) % 0x40
     if p = 0x0 then some (R.portEMacLo n i) else
     if p = 0x4 then some (R.portEMacHi n i) else
     if p = 0x8 then some (R.portEIpv4 n i) else
     if p = 0x1c then some (R.portEUdp n i) else
     if p = 0x20 then some (R.portEMtu n i) else
     if p = 0x24 then some (R.portEVlan n i) else
     if p = 0x28 then some (R.portEDropsel n i) else
     if p = 0x2c then some (R.portEDropcntLo n i) else
     if p = 0x30 then some (R.portEDropcntHi n i) else
     if p = 0x34 then some (R.portEAcceptLo n i) else
     if p = 0x38 then some (R.portEAcceptHi n i) else
     if p = 0x3c then some (R.portECtl n i) else
     if 0xc ≤ p ∧ p < 0x1c ∧ (p - 0xc) % 0x4 = 0 then some (R.portEIpv6 n i ((p - 0xc) / 0x4)) else
     none) else
  if 0x1000 ≤ o ∧ o < 0x1200 then
    (let i := (o - 0x1000) / 0x4
     if o % 4 ≠ 0 then none else
     some (R.portJmap n i)) else
  if 0x20000 ≤ o ∧ o < 0x21800 then
    (let i := (o - 0x20000) / 0x100
     let p := (o - 0x20000) % 0x100
     if p = 0x0 then some (R.portSCfg n i) else
     if p = 0x4 then some (R.portSWfqw0 n i) else
     if p = 0x8 then some (R.portSWfqw1 n i) else
     if 0x10 ≤ p ∧ p < 0x50 ∧ (p - 0x10) % 0x8 = 0 then some (R.portSShpr n i ((p - 0x10) / 0x8)) else
     if 0x14 ≤ p ∧ p < 0x54 ∧ (p - 0x14) % 0x8 = 0 then some (R.portSShpb n i ((p - 0x14) / 0x8)) else
     none) else
  if 0x22000 ≤ o ∧ o < 0x22200 then
    (let i := (o - 0x22000) / 0x4
     if o % 4 ≠ 0 then none else
     some (R.portDrrq n i)) else
  if 0x22200 ≤ o ∧ o < 0x22400 then
    (let i := (o - 0x22200) / 0x8
     let p := (o - 0x22200) % 0x8
     if p = 0x0 then some (R.portPolcfg n i) else
     if p = 0x4 then some (R.portPolb n i) else
     none) else
  if 0x22400 ≤ o ∧ o < 0x22500 then
    (let i := (o - 0x22400) / 0x4
     if o % 4 ≠ 0 then none else
     some (R.portPolcnt n i)) else
  if 0x22840 ≤ o ∧ o < 0x228c0 then
    (let i := (o - 0x22840) / 0x8
     let p := (o - 0x22840) % 0x8
     if p = 0x0 then some (R.portHistbinLo n i) else
     if p = 0x4 then some (R.portHistbinHi n i) else
     none) else
  none

/-- The register at offset `o` of the SD window of die `n`. -/
def regAtSd (n o : Nat) : Option Reg :=
  if o = 0x0 then some (R.sdCause n) else
  if o = 0x4 then some (R.sdFault n) else
  if o = 0x8 then some (R.sdJobcmd n) else
  if o = 0x10 then some (R.sdProgsel n) else
  if o = 0x14 then some (R.sdProgcmd n) else
  if o = 0x38 then some (R.sdProgval n) else
  if o = 0x18 then some (R.sdCtxsel n) else
  if o = 0x1c then some (R.sdCtxstat n) else
  if o = 0x20 then some (R.sdCtxbase n) else
  if o = 0x24 then some (R.sdCtxseq n) else
  if o = 0x28 then some (R.sdStrayLo n) else
  if o = 0x2c then some (R.sdStrayHi n) else
  if o = 0x30 then some (R.sdDiscLo n) else
  if o = 0x34 then some (R.sdDiscHi n) else
  if o = 0x80 then some (R.sdCmsel n) else
  if o = 0x84 then some (R.sdCmdata n) else
  if 0x40 ≤ o ∧ o < 0x80 then
    (let i := (o - 0x40) / 0x4
     if o % 4 ≠ 0 then none else
     some (R.sdProgdata n i)) else
  if 0x1000 ≤ o ∧ o < 0x1200 then
    (let i := (o - 0x1000) / 0x4
     if o % 4 ≠ 0 then none else
     some (R.sdJmap n i)) else
  none

/-- The register at offset `o` of the TD window of die `n`. -/
def regAtTd (n o : Nat) : Option Reg :=
  if o = 0xc0000 then some (R.tdCollcause n) else
  if o = 0xc0004 then some (R.tdCollfault n) else
  if o = 0xc0008 then some (R.tdColljobcmd n) else
  if o = 0xc000c then some (R.tdCollopen n) else
  if o = 0xc0010 then some (R.tdCollstrayLo n) else
  if o = 0xc0014 then some (R.tdCollstrayHi n) else
  if o = 0x0 then some (R.tdMemcause n) else
  if o = 0x4 then some (R.tdMemfault0 n) else
  if o = 0x8 then some (R.tdMemfault1 n) else
  if o = 0xc then some (R.tdMemfault2 n) else
  if o = 0x10 then some (R.tdEccCeLo n) else
  if o = 0x14 then some (R.tdEccCeHi n) else
  if o = 0x18 then some (R.tdScrub n) else
  if o = 0x20 then some (R.tdAtuInv n) else
  if o = 0x24 then some (R.tdAtuStat n) else
  if o = 0x30 then some (R.tdPgcmd n) else
  if o = 0x34 then some (R.tdPgvaLo n) else
  if o = 0x38 then some (R.tdPgvaHi n) else
  if o = 0x3c then some (R.tdPgstat n) else
  if o = 0x40 then some (R.tdPgfetchLo n) else
  if o = 0x44 then some (R.tdPgfetchHi n) else
  if o = 0x48 then some (R.tdPgwbLo n) else
  if o = 0x4c then some (R.tdPgwbHi n) else
  if o = 0xe0000 then some (R.tdSemcause n) else
  if o = 0xe0004 then some (R.tdSemfault0 n) else
  if o = 0xe0008 then some (R.tdSemfault1 n) else
  if o = 0xe000c then some (R.tdSemfault2 n) else
  if o = 0xe0010 then some (R.tdSemsel n) else
  if o = 0xe0014 then some (R.tdSemdata n) else
  if 0x100 ≤ o ∧ o < 0x300 then
    (let i := (o - 0x100) / 0x8
     let p := (o - 0x100) % 0x8
     if p = 0x0 then some (R.tdAtuRootLo n i) else
     if p = 0x4 then some (R.tdAtuRootHi n i) else
     none) else
  if 0x300 ≤ o ∧ o < 0x400 then
    (let i := (o - 0x300) / 0x4
     if o % 4 ≠ 0 then none else
     some (R.tdPgep n i)) else
  if 0x80000 ≤ o ∧ o < 0xc0000 then
    (let i := (o - 0x80000) / 0x10000
     let p := (o - 0x80000) % 0x10000
     if p = 0x0 then some (R.tdCCtl (4 * n + i)) else
     if p = 0x4 then some (R.tdCStart (4 * n + i)) else
     if p = 0x8 then some (R.tdCCmd (4 * n + i)) else
     if p = 0xc then some (R.tdCStat (4 * n + i)) else
     if p = 0x10 then some (R.tdCCause (4 * n + i)) else
     if p = 0x24 then some (R.tdCJob (4 * n + i)) else
     if p = 0x30 then some (R.tdCRank (4 * n + i)) else
     if p = 0x14 then some (R.tdCFault0 (4 * n + i)) else
     if p = 0x18 then some (R.tdCFault1 (4 * n + i)) else
     if p = 0x1c then some (R.tdCFault2 (4 * n + i)) else
     if p = 0x20 then some (R.tdCFault3 (4 * n + i)) else
     if p = 0x28 then some (R.tdCCycLo (4 * n + i)) else
     if p = 0x2c then some (R.tdCCycHi (4 * n + i)) else
     if p = 0x78 then some (R.tdCQdepth0 (4 * n + i)) else
     if p = 0x7c then some (R.tdCQdepth1 (4 * n + i)) else
     if p = 0xe0 then some (R.tdCKreg (4 * n + i)) else
     if 0x40 ≤ p ∧ p < 0x78 ∧ (p - 0x40) % 0x8 = 0 then some (R.tdCStallLo (4 * n + i) ((p - 0x40) / 0x8)) else
     if 0x44 ≤ p ∧ p < 0x7c ∧ (p - 0x44) % 0x8 = 0 then some (R.tdCStallHi (4 * n + i) ((p - 0x44) / 0x8)) else
     if 0x80 ≤ p ∧ p < 0xc0 ∧ (p - 0x80) % 0x4 = 0 then some (R.tdCCnt (4 * n + i) ((p - 0x80) / 0x4)) else
     if 0xc0 ≤ p ∧ p < 0xd8 ∧ (p - 0xc0) % 0x4 = 0 then some (R.tdCLc (4 * n + i) ((p - 0xc0) / 0x4)) else
     none) else
  if 0xd0000 ≤ o ∧ o < 0xd0400 then
    (let i := (o - 0xd0000) / 0x100
     let p := (o - 0xd0000) % 0x100
     if p = 0x0 then some (R.tdCMflag (4 * n + i)) else
     if p = 0x4 then some (R.tdCVflag (4 * n + i)) else
     if p = 0x8 then some (R.tdCSeedLo (4 * n + i)) else
     if p = 0xc then some (R.tdCSeedHi (4 * n + i)) else
     if p = 0x10 then some (R.tdCStepLo (4 * n + i)) else
     if p = 0x14 then some (R.tdCStepHi (4 * n + i)) else
     if p = 0x18 then some (R.tdCAccsel (4 * n + i)) else
     if p = 0x1c then some (R.tdCAccstat (4 * n + i)) else
     if p = 0x20 then some (R.tdCAccdata (4 * n + i)) else
     if p = 0x24 then some (R.tdCAccmap0 (4 * n + i)) else
     if p = 0x28 then some (R.tdCAccmap1 (4 * n + i)) else
     none) else
  if 0xd1000 ≤ o ∧ o < 0xd1400 then
    (let i := (o - 0xd1000) / 0x100
     let p := (o - 0xd1000) % 0x100
     if p = 0x0 then some (R.tdCSpthr (4 * n + i)) else
     if p = 0x8 then some (R.tdCSptilesLo (4 * n + i)) else
     if p = 0xc then some (R.tdCSptilesHi (4 * n + i)) else
     if p = 0x10 then some (R.tdCDntilesLo (4 * n + i)) else
     if p = 0x14 then some (R.tdCDntilesHi (4 * n + i)) else
     none) else
  none

/-- The windows of Table 0.7 as they lie in BAR0, with the instance and the offset. -/
inductive Window where
  | dev | mbx | time | sec | xbar | bpm
  | port (n : Nat) | sd (n : Nat) | td (n : Nat)
  deriving DecidableEq, Repr

/-- The window an address lies in, and the offset in it (R11). -/
def windowOf (a : Nat) : Option (Window × Nat) :=
  if a < 0x10000 then some (.dev, a)
  else if a < 0x20000 then some (.mbx, a - 0x10000)
  else if a < 0x30000 then some (.time, a - 0x20000)
  else if a < 0x40000 then some (.sec, a - 0x30000)
  else if 0x100000 ≤ a ∧ a < 0x200000 then some (.xbar, a - 0x100000)
  else if 0x200000 ≤ a ∧ a < 0x300000 then some (.bpm, a - 0x200000)
  else if 0x1000000 ≤ a ∧ a < 0x1400000 then some (.port ((a - 0x1000000) / 0x40000), (a - 0x1000000) % 0x40000)
  else if 0x2000000 ≤ a ∧ a < 0x2200000 then some (.sd ((a - 0x2000000) / 0x40000), (a - 0x2000000) % 0x40000)
  else if 0x3000000 ≤ a ∧ a < 0x4800000 then some (.td ((a - 0x3000000) / 0x100000), (a - 0x3000000) % 0x100000)
  else none

/-- R16: a window of a die index that is not populated belongs to no die. -/
def Window.populated (v : Variant) : Window → Bool
  | .port n => n < v.portDies
  | .td n => n < v.tileDies
  | _ => true

/-- The register a window holds at an offset. -/
def Window.reg : Window → Nat → Option Reg
  | .dev, o => regAtDev o
  | .mbx, _ => none
  | .time, o => regAtTime o
  | .sec, o => regAtSec o
  | .xbar, o => regAtXbar o
  | .bpm, o => regAtBpm o
  | .port n, o => regAtPort n o
  | .sd n, o => regAtSd n o
  | .td n, o => regAtTd n o

/-- The register at a BAR0 address of a variant. -/
def regAt (v : Variant) (a : Nat) : Option Reg :=
  match windowOf a with
  | some (w, o) => if w.populated v then w.reg o else none
  | none => none

end Sys2Proof.Machine
end

