-- ==== Sys2Proof/Machine/Ops.lean ====
section
/-!
DEFINITION. The named operations every command is written with: reading and writing a register, a 64-bit counter,
a cause bit, a fault record and a job bit map; finding the units of an assembly (spec/01_organisation.md, R14, R15).
-/

namespace Sys2Proof.Machine

/-! ### Fault codes (R12, Table 0.6) -/

def fcHazard : Nat := 0x01
def fcAddr : Nat := 0x02
def fcOverflow : Nat := 0x03
def fcUnderflow : Nat := 0x04
def fcOverrun : Nat := 0x05
def fcPoolEmpty : Nat := 0x06
def fcLinkLost : Nat := 0x07
def fcMismatch : Nat := 0x08
def fcPoisoned : Nat := 0x09
def fcEccUe : Nat := 0x0A
def fcDenied : Nat := 0x0B

/-! ### Registers -/

/-- The stored word of a register (its reset value while nothing has changed it). -/
def State.reg (s : State) (r : Reg) : Word := mget r.rst s.regs r.addr

/-- The state with the register holding `w`. -/
def State.setReg (s : State) (r : Reg) (w : Word) : State := { s with regs := mset r.rst s.regs r.addr w }

/-- The stored word after software writes `w` (Table 0.5, R8): RW bits take the new value, W1C bits written 1 clear. -/
def Reg.written (r : Reg) (old w : Word) : Word := ((old &&& ~~~r.rw) ||| (w &&& r.rw)) &&& ~~~(w &&& r.w1c)

/-- A software write stored by the access types of the register's fields. -/
def State.writeReg (s : State) (r : Reg) (w : Word) : State := s.setReg r (r.written (s.reg r) w)

/-- A field of a register. -/
def State.fld (s : State) (r : Reg) (hi lo : Nat) : Nat := wfld (s.reg r) hi lo

/-- A bit of a register. -/
def State.bit (s : State) (r : Reg) (i : Nat) : Bool := wbit (s.reg r) i

/-- The state with bit `i` of the register set by the device (a cause bit). -/
def State.raise (s : State) (r : Reg) (i : Nat) : State := s.setReg r (s.reg r ||| oneBit i)

/-- The state with bit `i` of the register cleared by the device. -/
def State.lower (s : State) (r : Reg) (i : Nat) : State := s.setReg r (s.reg r &&& ~~~(oneBit i))

/-- The state with field [hi:lo] of the register set by the device. -/
def State.setField (s : State) (r : Reg) (hi lo v : Nat) : State := s.setReg r (setFld (s.reg r) hi lo v)

/-- A 32-bit counter register one higher, modulo 2 to the 32 (log entry 11). -/
def State.count (s : State) (r : Reg) : State := s.setReg r (s.reg r + 1)

/-- A 64-bit counter by its low register (R23). -/
def State.ctr (s : State) (r : Reg) : Dword := mget 0 s.cnt r.addr

/-- A 64-bit counter `n` higher. -/
def State.addCtr (s : State) (r : Reg) (n : Nat) : State :=
  { s with cnt := mset 0 s.cnt r.addr (s.ctr r + BitVec.ofNat 64 n) }

/-- A 64-bit counter one higher. -/
def State.incCtr (s : State) (r : Reg) : State := s.addCtr r 1

/-- A 64-bit value held in a LO and a HI register. -/
def State.reg64 (s : State) (lo hi : Reg) : Nat := (s.reg lo).toNat + 2 ^ 32 * (s.reg hi).toNat

/-- Bit `job` of a map of W1C words, `word w` naming the w-th register. -/
def State.markJob (s : State) (word : Nat → Reg) (job : Nat) : State := s.raise (word (job / 32)) (job % 32)

/-! ### Windows (R16, R349) -/

/-- Windows that answer in every state in which BAR0 is reached. -/
def Window.inRom : Window → Bool
  | .dev => true
  | .mbx => true
  | .sec => true
  | _ => false

/-- Whether a window answers: it belongs to a die, and the device is in a state in which it is reached. -/
def State.answers (s : State) (w : Window) : Bool :=
  w.populated s.variant && s.dev != .off && (s.dev != .rom || w.inRom)

/-- The state after a write to a window: `t` where the window answers and the write is the one meant. -/
def State.onWrite (s : State) (w : Window) (isIt : Bool) (t : State) : State := if s.answers w && isIt then t else s

def onesWord : Word := 0xFFFFFFFF

/-- The state after a read of a window with a side effect: `t` where the window answers and the read is the one meant;
what no window answers reads as ones (R16, R349). -/
def State.onRead (s : State) (w : Window) (isIt : Bool) (t : State) : State :=
  if s.dev = .off then s else if !s.answers w then { s with busData := onesWord } else if isIt then t else s

/-! ### Free values -/

/-- The state after one draw of a free value. -/
def State.drawn (s : State) : State := { s with freeCtr := s.freeCtr + 1 }

/-- The state after the next number was given to a packet, a message or a collective. -/
def State.numbered (s : State) : State := { s with nextId := s.nextId + 1 }

/-! ### The units of the assembly (R14, R15) -/

def State.ports (s : State) : Nat := s.variant.portDies
def State.tiles (s : State) : Nat := s.variant.tileDies

/-- The crossbar slot of tile die `n`. -/
def State.tileSlot (s : State) (n : Nat) : Nat := 6 * s.ports + n

/-- The crossbar slot of stream engine `e` = 4 n + engine: engines 0 and 1 use the first slot of their die. -/
def State.engineSlot (s : State) (e : Nat) : Nat := 6 * s.ports + s.tiles + 2 * (e / 4) + e % 4 / 2

/-- The crossbar slot of the management die. -/
def State.mgmtSlot (s : State) : Nat := 6 * s.ports + s.tiles + 16

/-- Whether a slot has a client. -/
def State.populatedSlot (s : State) (i : Nat) : Bool := i ≤ s.mgmtSlot

/-- What owns a crossbar slot. -/
inductive SlotOwner where
  | port (n k : Nat)
  | tile (n : Nat)
  | stream (n half : Nat)
  | mgmt
  | nobody
  deriving DecidableEq, Repr

/-- R14, R15. -/
def State.slotOwner (s : State) (i : Nat) : SlotOwner :=
  if i < 6 * s.ports then .port (i / 6) (i % 6)
  else if i < 6 * s.ports + s.tiles then .tile (i - 6 * s.ports)
  else if i < s.mgmtSlot then
    .stream ((i - 6 * s.ports - s.tiles) / 2) ((i - 6 * s.ports - s.tiles) % 2)
  else if i = s.mgmtSlot then .mgmt
  else .nobody

/-- Whether a slot is a port slot. -/
def State.isPortSlot (s : State) (i : Nat) : Bool := i < 6 * s.ports

/-- Whether core `u` exists. -/
def State.hasCore (s : State) (u : Nat) : Bool := u < 4 * s.tiles

/-- Keys of the subport of first lane `l` of port die `n` in the maps of links, schedulers and Ethernet ports. -/
def lk (n l : Nat) : Nat := 24 * n + l

/-! ### Records by index -/

def State.link (s : State) (n l : Nat) : Link := mget Link.reset s.links (lk n l)
def State.setLink (s : State) (n l : Nat) (k : Link) : State := { s with links := mset Link.reset s.links (lk n l) k }
def State.egr (s : State) (n l : Nat) : Egress := mget Egress.reset s.egress (lk n l)
def State.setEgr (s : State) (n l : Nat) (k : Egress) : State :=
  { s with egress := mset Egress.reset s.egress (lk n l) k }
def State.eth (s : State) (n l : Nat) : Eth := mget Eth.reset s.eths (lk n l)
def State.setEth (s : State) (n l : Nat) (k : Eth) : State := { s with eths := mset Eth.reset s.eths (lk n l) k }
def State.core (s : State) (u : Nat) : Core := mget Core.reset s.cores u
def State.setCore (s : State) (u : Nat) (k : Core) : State := { s with cores := mset Core.reset s.cores u k }
/-- Context `c` of the device: 128 for each engine (R130). -/
def State.ctx (s : State) (c : Nat) : Ctx := mget Ctx.reset s.ctxs c
def State.setCtx (s : State) (c : Nat) (k : Ctx) : State := { s with ctxs := mset Ctx.reset s.ctxs c k }
def State.shutter (s : State) (b : Nat) : Shutter := mget Shutter.reset s.shutters b
def State.setShutter (s : State) (b : Nat) (k : Shutter) : State :=
  { s with shutters := mset Shutter.reset s.shutters b k }
def State.job (s : State) (j : Nat) : Job := mget Job.reset s.jobs j
def State.setJob (s : State) (j : Nat) (k : Job) : State := { s with jobs := mset Job.reset s.jobs j k }
def State.group (s : State) (g : Nat) : Group := mget Group.reset s.dsp.groups g
def State.setGroup (s : State) (g : Nat) (k : Group) : State :=
  { s with dsp := { s.dsp with groups := mset Group.reset s.dsp.groups g k } }

/-- Semaphore `i` of core `u` (R292). -/
def State.sem (s : State) (u i : Nat) : Word := mget 0 s.sems (1024 * u + i)
def State.setSem (s : State) (u i : Nat) (w : Word) : State := { s with sems := mset 0 s.sems (1024 * u + i) w }

/-- The job slot that runs a job: the lowest slot, not OFF, that names it (R326). -/
def State.slotOfJob (s : State) (job : Nat) : Option Nat :=
  leastBelow 64 fun j => (s.job j).st != .off && (s.job j).job == job

/-- Whether Hyzacia runs. -/
def State.firmware (s : State) : Bool :=
  s.dev == .loaded || s.dev == .configured || s.dev == .running || s.dev == .draining

end Sys2Proof.Machine
end

