-- ==== Sys2Proof/Machine/Fabric.lean ====
section
/-!
DEFINITION. What the network interfaces share (spec/04_links_and_routing.md, R77 to R101; spec/03_crossbar.md, R53 to
R55): packet and cell headers, port slot arrangements, the tables, rank translation, routing, delivery, the marks of a
job on a port die, and the packets that wait in an attachment.
-/

namespace Sys2Proof.Machine

/-! ### Packet headers (Table 4.6) and operations (Table 4.7) -/

def opWrite : Nat := 0x01
def opReadReq : Nat := 0x02
def opReadRsp : Nat := 0x03
def opSemAdd : Nat := 0x04
def opComplete : Nat := 0x05
def opPageFetch : Nat := 0x06
def opPageData : Nat := 0x07
def opPageWb : Nat := 0x08
def opCollAnn : Nat := 0x10
def opCollData : Nat := 0x11
def opMgmtMsg : Nat := 0x20
def opCircWrite : Nat := 0x30

/-- The channel of an operation, none for an op that Table 4.7 does not list (R91). -/
def opVc (op : Nat) : Option Nat :=
  if op = opWrite ∨ op = opReadReq ∨ op = opSemAdd ∨ op = opPageFetch ∨ op = opPageWb then some 0
  else if op = opReadRsp ∨ op = opComplete ∨ op = opPageData then some 1
  else if op = opCollAnn ∨ op = opCollData then some 2
  else if op = opMgmtMsg then some 3
  else if op = opCircWrite then some 4
  else none

/-- A header whose fields are all zero but the operation. -/
def PktHdr.zero (op : Nat) : PktHdr :=
  { op := op, dstDev := 0, dstEp := 0, srcDev := 0, srcEp := 0, srcRank := 0, dstRank := 0, flow := 0, circ := 0,
    msgSlot := 0, msgSeq := 0, msgBytes := 0, byteOff := 0, addr := 0, sig := false }

/-- The 256-bit value of a packet header. -/
def PktHdr.toNat (h : PktHdr) : Nat :=
  pack [(8, h.op), (10, h.dstDev), (10, h.dstEp), (10, h.srcDev), (10, h.srcEp), (20, h.srcRank), (20, h.dstRank),
        (12, h.flow), (8, h.circ), (4, h.msgSlot), (12, h.msgSeq), (32, h.msgBytes), (32, h.byteOff), (48, h.addr),
        (19, 0), (1, bnat h.sig)]

/-- The packet header that a 256-bit value spells. -/
def PktHdr.ofNat (w : Nat) : PktHdr :=
  { op := nbits w 248 8, dstDev := nbits w 238 10, dstEp := nbits w 228 10, srcDev := nbits w 218 10,
    srcEp := nbits w 208 10, srcRank := nbits w 188 20, dstRank := nbits w 168 20, flow := nbits w 156 12,
    circ := nbits w 148 8, msgSlot := nbits w 144 4, msgSeq := nbits w 132 12, msgBytes := nbits w 100 32,
    byteOff := nbits w 68 32, addr := nbits w 20 48, sig := nbit w 0 }

/-- The header's 32 bytes (R90). -/
def PktHdr.bytes (h : PktHdr) : List Byte := leBytes 32 h.toNat

/-- The header in the first 32 payload bytes of a packet. -/
def hdrOfBytes (bs : List Byte) : PktHdr := PktHdr.ofNat (leAt bs 0 32)

/-! ### Cell headers (Table 3.1) -/

/-- Bits [127:16] of the cell header. -/
def Cell.headBits (c : Cell) : Nat :=
  pack [(7, c.dst), (7, c.src), (2, c.sub), (3, c.tc), (3, c.vc), (1, bnat c.mcast), (1, bnat c.sop), (1, bnat c.eop),
        (6, c.cellIdx), (8, c.len), (12, c.job), (10, c.mgroup), (16, c.pktTag), (6, c.pktCells), (24, c.ts),
        (1, bnat c.brw), (1, bnat c.abt), (3, 0)]

/-- The CRC of the header. -/
def Cell.crc (c : Cell) : BitVec 16 := crc16 112 c.headBits

/-- The cell with its CRC filled in. -/
def Cell.seal (c : Cell) : Cell := { c with hcrc := c.crc }

/-- R55: the fields that place a cell in its packet agree with its real position `pos` and with the pkt_cells `last` of
the packet's first cell, and all cells but the last are full. An aborted eop cell that a port die or the crossbar put in
stands where the packet ends: its cell_idx and pkt_cells are not compared (log entry 13). -/
def Cell.placed (c : Cell) (pos last : Nat) : Bool :=
  1 ≤ c.len && c.len ≤ 240 && c.pktCells < 64
    && (if c.abt then c.eop && c.sop == (pos == 0)
        else c.cellIdx == pos && c.pktCells == last && c.sop == (pos == 0) && c.eop == (pos == last) && (c.eop || c.len == 240))

/-- Payload bytes of a packet: header, then data. -/
def Packet.payload (p : Packet) : List Byte := p.hdr.bytes ++ p.data

/-- Where the cells of a packet go: slot and sub, or a multicast group. -/
structure Dest where
  dst : Nat
  sub : Nat
  mcast : Bool
  mgroup : Nat
  deriving DecidableEq, Repr

/-- The cells of a packet from slot `src` (R54, R55). -/
def Packet.cells (p : Packet) (src pid : Nat) (d : Dest) (dl : Bool) (ep : Nat) (circ : Option Nat) : List Cell :=
  let parts := chunks 240 64 p.payload
  let n := parts.length
  parts.zipIdx.map fun (b, k) =>
    Cell.seal
      { dst := if d.mcast then 0 else d.dst, src := src, sub := d.sub, tc := p.tc, vc := p.vc, mcast := d.mcast,
        sop := k == 0, eop := k + 1 == n, cellIdx := k, len := b.length, job := p.job,
        mgroup := if d.mcast then d.mgroup else 0, pktTag := p.tag, pktCells := n - 1, ts := 0, brw := false,
        abt := p.abt && k + 1 == n, hcrc := 0, data := b, pid := pid, dl := dl, inLane := none, ep := ep, circ := circ }

/-! ### Port slot arrangements (R77, R78) -/

/-- PORTn_SLOTCFGk of port slot `j`. -/
def State.slotCfg (s : State) (j : Nat) : Word := s.reg (R.portSlotcfg (j / 6) (j % 6))

def State.slotMode (s : State) (j : Nat) : Nat := wfld (s.slotCfg j) 5 4
def State.slotSplit (s : State) (j : Nat) : Nat := wfld (s.slotCfg j) 1 0

/-- Whether an arrangement is held disabled: by mode, or under R78. -/
def cfgDisabled (w : Word) : Bool :=
  2 ≤ wfld w 5 4 || wfld w 1 0 == 3 || (wfld w 1 0 == 2 && wfld w 5 4 == 1)

/-- Subports of an arrangement (Table 4.1). -/
def splitPorts (split : Nat) : Nat := if split = 0 then 1 else if split = 1 then 2 else if split = 2 then 4 else 0

/-- Subports of port slot `j`, none where it is held disabled (R53). -/
def State.subports (s : State) (j : Nat) : Nat :=
  if cfgDisabled (s.slotCfg j) then 0 else splitPorts (s.slotSplit j)

/-- First lane, within the port die, of subport `sub` of slot `j`. -/
def State.firstLane (s : State) (j sub : Nat) : Nat := 4 * (j % 6) + sub * (4 / splitPorts (s.slotSplit j))

/-- The port slot and sub of first lane `l` of port die `n`, where a subport begins there. -/
def State.subportAt (s : State) (n l : Nat) : Option (Nat × Nat) :=
  if n < s.ports ∧ l < 24 then
    let j := 6 * n + l / 4
    match leastBelow (s.subports j) fun x => s.firstLane j x == l with
    | some x => some (j, x)
    | none => none
  else none

/-- Subports of a die in ascending order of first lane: lane, slot and sub. -/
def State.dieSubports (s : State) (n : Nat) : List (Nat × Nat × Nat) :=
  (List.range 24).filterMap fun l => (s.subportAt n l).map fun p => (l, p.1, p.2)

/-- Whether sub exists on an output slot (R53). -/
def State.subExists (s : State) (j sub : Nat) : Bool :=
  match s.slotOwner j with
  | .port _ _ => sub < s.subports j
  | .stream _ _ => sub < 2
  | .tile _ => sub == 0
  | .mgmt => sub == 0
  | .nobody => false

/-- XBAR_CTL.en. -/
def State.xbarOn (s : State) : Bool := s.bit R.xbarCtl 0

/-- The down bit of an output subport (R71). -/
def State.outDown (s : State) (j sub : Nat) : Bool := s.bit (R.xbarOutctl j) sub

/-! ### Tables (R101, Tables 4.17 and 4.18) -/

/-- Key of word `w` of an entry. -/
def tblKey (t slot idx w : Nat) : Nat := ((t * 64 + (if t = 2 ∨ t = 3 then slot else 0)) * 1024 + idx) * 8 + w

/-- Bits that word `w` of an entry of table `t` keeps (Table 4.18). -/
def tblMask (t w : Nat) : Word :=
  if t = 0 then (if w = 0 then 0x8000000F else if w ≤ 4 then 0x01FF01FF else 0)
  else if t = 1 then (if w = 0 then 0x80000FFF else if w = 1 then 0x001FFFFF else 0)
  else if t = 2 then (if w = 0 then 0xFFFFFFFF else 0)
  else if t = 3 then (if w = 0 then 0x800033FF else 0)
  else if t = 4 then (if w = 0 then 0x8FFFFFFF else if w = 1 then 0xFFFF01FF else if w = 2 then 0x00FFFFFF else 0)
  else 0

/-- Entries of a table, none for an invalid table. -/
def tblSize (t : Nat) : Nat := if t = 1 then 64 else if t = 4 then 256 else if t ≤ 3 then 1024 else 0

/-- Word `w` of an entry of a configuration set. -/
def CfgSet.word (c : CfgSet) (t slot idx w : Nat) : Word := mget 0 c.tbl (tblKey t slot idx w)

/-- A set with one entry's words written, bits the layout does not list being zero. -/
def CfgSet.setEntry (c : CfgSet) (t slot idx : Nat) (ws : List Word) : CfgSet :=
  { c with tbl := ws.zipIdx.foldl (fun m p => mset 0 m (tblKey t slot idx p.2) (p.1 &&& tblMask t p.2)) c.tbl }

/-- The NI's job slot of a job: the lowest valid job entry that names it. -/
def CfgSet.jobSlot (c : CfgSet) (job : Nat) : Option Nat :=
  leastBelow 64 fun j => wbit (c.word 1 0 j 0) 31 && wfld (c.word 1 0 j 0) 11 0 == job

/-- R95. -/
def CfgSet.translate (c : CfgSet) (slot rank : Nat) : Option (Nat × Nat) :=
  let j0 := c.word 1 0 slot 0
  if !wbit j0 31 || wfld (c.word 1 0 slot 1) 20 0 ≤ rank then none
  else
    let e := c.word 2 slot (rank / 1024) 0
    let perDev := wfld e 30 20
    if !wbit e 31 || perDev == 0 then none
    else
      let q := wfld e 9 0 + rank % 1024
      let dev := wfld e 19 10 + q / perDev
      if 1023 < dev then none else some (dev, q % perDev)

/-- The endpoint entry (job slot, ep): kind and unit, where it is valid. -/
def CfgSet.endpoint (c : CfgSet) (slot ep : Nat) : Option (Nat × Nat) :=
  let e := c.word 3 slot ep 0
  if wbit e 31 then some (wfld e 13 12, wfld e 9 0) else none

/-- This device's ID (PORTn_SELF). -/
def State.selfDev (s : State) : Nat := s.fld (R.portSelf 0) 9 0

/-- The throttle level of a subport and class as its register shows it (R102). -/
def State.throttle (s : State) (n l tc : Nat) : Nat := s.fld (R.portPThrlvl n l) (2 * tc + 1) (2 * tc)

/-! ### Marks on a port die -/

/-- PORTn_FAULT takes a fault only while it holds none (R114). Where only one of down and xlate_err has been cleared, the record
still stands, and a later fault does not replace it (DESIGN CHOICE, log entry 150). -/
def State.portFault (s : State) (n code job lane : Nat) : State :=
  if s.reg (R.portFault n) = 0 then
    s.setReg (R.portFault n) (atFld 31 24 code ||| atFld 23 12 job ||| atFld 4 0 lane)
  else s

/-- The job's bit in PORTn_JMAP. -/
def State.portMark (s : State) (n job : Nat) : State := s.markJob (fun w => R.portJmap n w) job

/-- R96 on port die `n`: job marked, DENIED recorded, xlate_err set. -/
def State.xlateFail (s : State) (n job : Nat) : State :=
  ((s.portMark n job).portFault n fcDenied job 0).raise (R.portCause n) 3

/-- R99, R424 on the port die of the hop: job marked, down set. -/
def State.hopDown (s : State) (n job : Nat) : State := (s.portMark n job).raise (R.portCause n) 0

/-- The port die that shows a failure found by an injection instance, which belongs to no port die: the spec does not
say which, so it is a free choice (log entry 20). -/
def State.freeDie (s : State) : Nat := Config.freeNat s.freeCtr % s.ports

/-! ### Routing (R97 to R100) -/

/-- The flow hash of R98: which of `n` hops. -/
def flowHop (salt : Dword) (h : PktHdr) (job n : Nat) : Nat :=
  let key : Dword := BitVec.ofNat 64 (h.srcRank <<< 44 ||| h.dstRank <<< 24 ||| job <<< 12 ||| h.flow)
  ((srMix (key ^^^ salt)).toNat / 2 ^ 32 * n) / 2 ^ 32

/-- The device-wide salt. -/
def State.salt (s : State) : Dword := BitVec.ofNat 64 (s.reg64 (R.portSaltLo 0) (R.portSaltHi 0))

/-- What the NI decides for a packet. -/
inductive Decision where
  /-- out through a port slot -/
  | hop (j sub : Nat) (circ : Option Nat)
  /-- to a unit of this device -/
  | unit (d : Dest) (unit : Nat)
  /-- as a failed translation (R96) -/
  | denied
  /-- ep_err and R96 in full, bytes committed (R92) -/
  | epFail
  /-- ep_err only (R91, R387); `commit` when the bytes count as committed -/
  | epErr (commit : Bool)
  /-- the hop is down (R99), on port die `n` -/
  | down (n : Nat)
  deriving DecidableEq, Repr

/-- Whether a hop's subport takes traffic (R99). -/
def State.hopUsable (s : State) (j sub : Nat) : Bool :=
  s.isPortSlot j && s.slotMode j == 0 && sub < s.subports j &&
    (match (s.link (j / 6) (s.firstLane j sub)).st with
     | .down => false
     | .failed => false
     | _ => true)

/-- The hop of a route or circuit entry: R97 for the slot, R99 for the subport. -/
def State.decideHop (s : State) (j sub : Nat) (circ : Option Nat) : Decision :=
  if !s.isPortSlot j then .denied
  else if s.hopUsable j sub then .hop j sub circ
  else .down (j / 6)

/-- A circuit entry that counts as valid (R100): its words. The arrangement of a slot is its split, also while the slot is held
disabled: the entry stays valid, and its hop counts as DOWN under R99 (DESIGN CHOICE, log entry 139). -/
def State.circuit (s : State) (id : Nat) : Option (Word × Word × Word) :=
  let w := s.active.word 4 0 id 0
  if wbit w 31 && s.isPortSlot (wfld w 13 7) && wfld w 15 14 < splitPorts (s.slotSplit (wfld w 13 7)) then
    some (w, s.active.word 4 0 id 1, s.active.word 4 0 id 2)
  else none

/-- R92, R297: the unit an endpoint names. -/
def State.deliver (s : State) (h : PktHdr) (job : Nat) : Decision :=
  match s.active.jobSlot job with
  | none => .epFail
  | some slot =>
    match s.active.endpoint slot h.dstEp with
    | none => .epFail
    | some (kind, u) =>
      let exists_ : Bool :=
        if kind = 0 then u / 4 < s.tiles else if kind = 1 then u < 32 else if kind = 2 then u ≤ 2
        else s.bit (R.xbarMcgCtl u) 0
      if !exists_ then .epFail
      else if h.op = opSemAdd ∧ (kind ≠ 0 ∨ 1024 ≤ h.addr) then .epErr true
      else if kind = 0 then .unit ⟨s.tileSlot (u / 4), 0, false, 0⟩ u
      else if kind = 1 then .unit ⟨s.engineSlot u, u % 2, false, 0⟩ u
      else if kind = 2 then .unit ⟨s.mgmtSlot, 0, false, 0⟩ u
      else .unit ⟨0, s.fld (R.xbarMcgCtl u) 3 2, true, u⟩ u

/-- R97: the egress of a packet that is at slot `src`. A CIRC packet follows its circuit entry, on the device it is
addressed to as on any other: R97 puts its step 1 before delivery. -/
def State.route (s : State) (src : Nat) (h : PktHdr) (vc job : Nat) : Decision :=
  if vc = 4 then
    match s.circuit h.circ with
    | some (w, _, _) =>
      if wfld w 6 0 = src ∧ wfld w 27 16 = job then s.decideHop (wfld w 13 7) (wfld w 15 14) (some h.circ) else .denied
    | none => .denied
  else if h.dstDev = s.selfDev then s.deliver h job
  else
    let w := s.active.word 0 0 h.dstDev 0
    let n := wfld w 3 0
    if !wbit w 31 || n == 0 || 8 < n then .denied
    else
      let i := flowHop s.salt h job n
      let hop := nbits (s.active.word 0 0 h.dstDev (1 + i / 2)).toNat (16 * (i % 2)) 16
      s.decideHop (hop / 4 % 128) (hop % 4) none

/-- Whether an entry (job, dev) of SEC_EXPEL is valid (R387). -/
def State.expelled (s : State) (job dev : Nat) : Bool :=
  (List.range 16).any fun e =>
    let w := s.reg (R.secExpel e)
    wbit w 31 && wfld w 21 12 == dev && wfld w 11 0 == job

/-! ### Commitment of bytes (R93) -/

/-- Data bytes of a packet: those after the header; none in a SEM_ADD or COMPLETE packet. -/
def dataBytes (h : PktHdr) (n : Nat) : Nat := if h.op = opSemAdd ∨ h.op = opComplete then 0 else n

/-- Bytes of a packet count as committed at the unit of a slot: TRACKER_COUNT will take them. A packet outside any
message, and a COMPLETE, have nothing to count. -/
def State.commitBytes (s : State) (slot src : Nat) (h : PktHdr) (ep job tc n : Nat) : State :=
  if h.msgBytes = 0 ∨ h.op = opComplete ∨ h.op = opReadReq then s
  else { s with commits := s.commits ++ [{ slot := slot, hdr := h, ep := ep, job := job, tc := tc,
                                           bytes := dataBytes h n, target := none, isAdd := h.op == opSemAdd,
                                           src := src, at_ := s.time.now }] }

/-- The bytes of a packet that arrived whole count as committed. -/
def State.commitArrival (s : State) (a : Arrival) : State :=
  s.commitBytes a.slot a.src a.pkt.hdr a.ep a.pkt.job a.pkt.tc a.pkt.data.length

/-! ### Attachments and messages (R66, R94) -/

/-- The traffic class of messages for which the spec names none (log entry 27). -/
def ownClass : Nat := Config.ownTc % 8

/-- A packet put into the attachment of a slot. -/
def State.attachPkt (s : State) (src : Nat) (msg xlate : Option Nat) (p : Packet) : State :=
  let o : OutPkt := { src := src, msg := msg, xlate := xlate, sig := none, pkt := { p with tag := Config.pktTag s.nextId % 65536 } }
  State.numbered { s with attach := s.attach ++ [o] }

/-- A new message of an owner; its number is `s.nextId`. -/
def State.newMsg (s : State) (o : Owner) (dev : Option Nat) : State :=
  let m : Msg := { id := s.nextId, owner := o, dstDev := dev, slot := none, seq := 0, waiting := false }
  State.numbered { s with msgs := s.msgs ++ [m] }

/-- Slots toward a device that open messages hold. -/
def State.usedSlots (s : State) (dev : Nat) : List Nat :=
  s.msgs.filterMap fun m => if m.dstDev == some dev then m.slot else none

/-- The lowest free slot toward a device (R94). -/
def State.freeSlot (s : State) (dev : Nat) : Option Nat := leastBelow 16 fun k => !(s.usedSlots dev).contains k

/-- A message opened with a slot and the next number of that slot. -/
def State.openMsg (s : State) (id dev slot : Nat) : State :=
  let seq := mget 0 s.msgSeq (16 * dev + slot)
  { s with
    msgs := updFirst (fun m => m.id == id)
      (fun m => { m with dstDev := some dev, slot := some slot, seq := seq, waiting := false }) s.msgs,
    msgSeq := mset 0 s.msgSeq (16 * dev + slot) ((seq + 1) % 4096) }

/-- A message that ends without a COMPLETE: dropped with the packets of it that still wait. -/
def State.dropMsg (s : State) (id : Nat) : State :=
  { s with msgs := s.msgs.filter (fun m => m.id != id), attach := s.attach.filter (fun p => p.msg != some id) }

/-- Numbers of the dies that hold a replica of fabric time (R21); the management die holds the counter itself. -/
def portDie (n : Nat) : Nat := n
def tileDie (n : Nat) : Nat := 16 + n
def mortarDie : Nat := 40

/-- Where a replica would stand with its free skew alone: within 5 ticks of the counter. -/
def skewed (die now : Nat) : Nat := now + Config.replicaSkew die now % 11 - 5

/-- A die's replica at a value of the counter: the largest of the last eleven, so that it never decreases and stays within
5 ticks of the counter (R21; log entry 8). -/
def replicaAt (die now : Nat) : Nat := ((List.range 11).map fun k => skewed die (now - k)).foldl max 0

/-- Fabric time as a die reads it from its replica; zero until the counter is loaded (R21, R299). -/
def State.replica (s : State) (die : Nat) : Dword :=
  if s.time.loaded then BitVec.ofNat 64 (replicaAt die s.time.now.toNat) else 0

/-- Bits [27:4] of fabric time as a die stamps it (Table 3.1). -/
def State.stamp (s : State) (die : Nat) : Nat := nbits (s.replica die).toNat 4 24

/-- A response buffer becomes the last of the queue of an Ethernet subport (R113). -/
def State.queueResponse (s : State) (n l : Nat) (hd : Word) : State :=
  let e := s.eth n l
  s.setEth n l { e with wait := e.wait ++ [{ handle := hd, ts := s.stamp (portDie n) }] }

end Sys2Proof.Machine
end

