-- ==== Sys2Proof/Machine/Xbar.lean ====
section
/-!
DEFINITION. The crossbar (spec/03_crossbar.md, R52 to R76): credits, borrowing, the order of packets at an input, cells
that enter and leave crosspoints, multicast, flush, aborted packets, and the commands of the crossbar.
-/

namespace Sys2Proof.Machine

/-! ### Accounts (Table 3.3) -/

def xKey (i j : Nat) : Nat := 128 * i + j
def xcKey (i j c : Nat) : Nat := 8 * xKey i j + c
def flqKey (i j sub tc : Nat) : Nat := (xKey i j * 4 + sub) * 8 + tc

def Xbar.minAt (x : Xbar) (i j : Nat) : Nat := mget x.minActive x.minCr (xKey i j)
def Xbar.brwAt (x : Xbar) (i j c : Nat) : Nat := mget 0 x.brw (xcKey i j c)
def Xbar.brwCrAt (x : Xbar) (i j c : Nat) : Nat := mget 0 x.brwCr (xcKey i j c)

/-- Σ over i and c of brw(i, j, c). -/
def Xbar.outBrw (x : Xbar) (j : Nat) : Nat := ((x.brw.filter fun e => e.1 / 8 % 128 == j).map (·.2)).sum

/-- Σ over i and j of brw(i, j, c). -/
def Xbar.classBrw (x : Xbar) (c : Nat) : Nat := ((x.brw.filter fun e => e.1 % 8 == c).map (·.2)).sum

def Xbar.circReserved (x : Xbar) : Nat := (x.circRes.map (·.2)).sum

/-- Client slots C (R52). -/
def State.clients (s : State) : Nat := s.mgmtSlot + 1

/-- Credits per grant (Table 3.9). -/
def State.grantCells (s : State) : Nat :=
  let g := s.fld R.xbarPoolcfg 3 0
  if g = 0 ∨ 8 < g then 4 else g

/-- XBAR_CTL.empty: no cell and no pointer entry inside (Table 3.7). -/
def State.xbarEmpty (s : State) : Bool := s.xbar.xq.isEmpty && s.xbar.bufs.isEmpty

/-! ### Multicast groups (R68) -/

/-- Member slots of a group in ascending order; bits of slots without a client read 0. -/
def State.mcMembers (s : State) (g : Nat) : List Nat :=
  if s.bit (R.xbarMcgCtl g) 0 then
    let w := (s.reg (R.xbarMcgMem0 g)).toNat + (s.reg (R.xbarMcgMem1 g)).toNat * 2 ^ 32
      + (s.reg (R.xbarMcgMem2 g)).toNat * 2 ^ 64 + (s.reg (R.xbarMcgMem3 g)).toNat * 2 ^ 96
    (setBits 128 w).filter s.populatedSlot
  else []

/-- Whether a group uses stored copies (R70). -/
def State.mcStored (s : State) (g : Nat) : Bool := s.bit (R.xbarMcgCtl g) 1

/-- The output slots a waiting cell still goes to. -/
def State.targets (s : State) (e : XIn) : List Nat :=
  if e.cell.mcast then (e.left.getD (s.mcMembers e.cell.mgroup)).filter fun j => !e.gone.contains j else [e.cell.dst]

/-! ### Credits at an input (R59, R64, R65) -/

inductive Credit where
  | circ | borrowed | minimum
  deriving DecidableEq, Repr

/-- The credit a cell of class c spends at (i, j): a buffer its circuit reserves, else a borrowed credit of the class,
else a minimum credit (R59, R65; log entry 15). -/
def Xbar.credit (x : Xbar) (i j c : Nat) (circ : Option Nat) : Option Credit :=
  if (circ.map fun id => decide (0 < mget 0 x.circFree id)).getD false then some .circ
  else if 0 < x.brwCrAt i j c then some .borrowed
  else if 0 < x.minAt i j then some .minimum
  else none

/-- The accounts after a credit is spent. -/
def Xbar.spend (x : Xbar) (i j c : Nat) (circ : Option Nat) (k : Credit) : Xbar :=
  match k with
  | .circ => { x with circFree := mset 0 x.circFree (circ.getD 0) (mget 0 x.circFree (circ.getD 0) - 1) }
  | .borrowed => { x with brwCr := mset 0 x.brwCr (xcKey i j c) (x.brwCrAt i j c - 1) }
  | .minimum => { x with minCr := mset x.minActive x.minCr (xKey i j) (x.minAt i j - 1) }

/-- Whether a waiting cell still goes to output j: a cell toward a subport that is down, or that does not exist, will be
discarded and asks for nothing there (R53, R72, R73). -/
def State.wants (s : State) (e : XIn) (j : Nat) : Bool :=
  (s.targets e).contains j && s.subExists j e.cell.sub && !s.outDown j e.cell.sub

/-- Whether input i has cells of class c queued for j. A waiting multicast cell counts for every member it still goes to,
also where it will go as a stored copy, which spends no credit of (i, j) (DESIGN CHOICE, log entry 43). -/
def State.inputQueued (s : State) (i j c : Nat) : Bool :=
  s.xbar.xin.any fun e => e.i == i && e.cell.tc == c && s.wants e j

/-- n borrowed buffers of (i, j, c) return to the pool. -/
def Xbar.toPool (x : Xbar) (i j c n : Nat) : Xbar :=
  { x with brw := mset 0 x.brw (xcKey i j c) (x.brwAt i j c - n), free := x.free + n }

/-- R64, last sentence: borrowed credits of an empty queue (j, c) go back to the pool. -/
def State.returnIdle (s : State) (i j c : Nat) : State :=
  if s.inputQueued i j c then s
  else
    let x := s.xbar
    let n := x.brwCrAt i j c
    { s with xbar := { x.toPool i j c n with brwCr := mset 0 x.brwCr (xcKey i j c) 0 } }

/-- The same for every queue of which an input holds borrowed credits: what waited for it may have lost its group or its
output. -/
def State.returnAllIdle (s : State) : State :=
  s.xbar.brwCr.foldl (fun s e => s.returnIdle (e.1 / 1024) (e.1 / 8 % 128) (e.1 % 8)) s

/-- The reserved buffers a circuit entry asks for (R65, R100). -/
def State.circuitWants (s : State) (id : Nat) : Nat :=
  match s.circuit id with
  | some (_, w1, _) => wfld w1 8 0
  | none => 0

/-- R64, R65 and R70: the account of an entry that leaves its crosspoint or is flushed. -/
def State.depart (s : State) (e : XEntry) : State :=
  let x := s.xbar
  let c := e.cell.tc
  match e.ptr with
  | some id =>
    match x.bufs.find? fun b => b.id == id with
    | none => s
    | some b =>
      if b.refs ≤ 1 then
        { s with xbar := { x with bufs := x.bufs.filter (fun b => b.id != id), mc := x.mc - 1, free := x.free + 1 } }
      else { s with xbar := { x with bufs := updFirst (fun b => b.id == id) (fun b => { b with refs := b.refs - 1 }) x.bufs } }
  | none =>
    if e.res then
      let id := e.cell.circ.getD 0
      if s.circuitWants id < mget 0 x.circRes id then
        { s with xbar := { x with circRes := mset 0 x.circRes id (mget 0 x.circRes id - 1), free := x.free + 1 } }
      else { s with xbar := { x with circFree := mset 0 x.circFree id (mget 0 x.circFree id + 1) } }
    else if !e.cell.brw then
      { s with xbar := { x with minCr := mset x.minActive x.minCr (xKey e.i e.j) (x.minAt e.i e.j + 1) } }
    else if s.inputQueued e.i e.j c && s.fld R.xbarPoolcfg 24 4 ≤ x.free then
      { s with xbar := { x with brwCr := mset 0 x.brwCr (xcKey e.i e.j c) (x.brwCrAt e.i e.j c + 1) } }
    else { s with xbar := x.toPool e.i e.j c 1 }

/-- Entries of crosspoint queues that satisfy a predicate leave, each accounted under R64. -/
def State.purge (s : State) (p : XEntry → Bool) : State :=
  let out := s.xbar.xq.filter p
  let s := { s with xbar := { s.xbar with xq := s.xbar.xq.filter fun e => !p e } }
  out.foldl State.depart s

/-- One more in the flush counter of a queue (R72). -/
def State.countFlush (s : State) (i j sub tc : Nat) : State :=
  let k := flqKey i j sub tc
  { s with xbar := { s.xbar with flq := mset 0 s.xbar.flq k (mget 0 s.xbar.flq k + 1) } }

/-- R85: the link credit of the receive buffer that a waiting cell held returns to the peer. -/
def State.returnLinkCredit (s : State) (e : XIn) : State :=
  match e.link with
  | none => s
  | some (l, vc, dl) =>
    let n := e.i / 6
    let k := s.link n l
    let key := 2 * vc + bnat dl
    s.setLink n l { k with crdRet := mset 0 k.crdRet key (mget 0 k.crdRet key + 1) }

/-! ### Enabling and configuration (R60, R61, R65) -/

/-- The pool buffers that the valid circuit entries reserve, taken and given back as entries come and go (R65). Where the
pool has fewer free buffers than an entry asks for, the entry gets those (DESIGN CHOICE, log entry 44). A write of
PORTn_SLOTCFGk that makes an entry valid or invalid takes and gives back nothing by itself (DESIGN CHOICE, log entry 140). -/
def State.syncCircuit (s : State) (id : Nat) : State :=
  let x := s.xbar
  let want := s.circuitWants id
  let have_ := mget 0 x.circRes id
  if have_ ≤ want then
    let n := min (want - have_) x.free
    { s with xbar := { x with circRes := mset 0 x.circRes id (have_ + n),
                              circFree := mset 0 x.circFree id (mget 0 x.circFree id + n), free := x.free - n } }
  else
    let n := min (have_ - want) (mget 0 x.circFree id)
    { s with xbar := { x with circRes := mset 0 x.circRes id (have_ - n),
                              circFree := mset 0 x.circFree id (mget 0 x.circFree id - n), free := x.free + n } }

/-- Every circuit entry brought up to date; before the first enable there is no pool to reserve from. -/
def State.syncCircuits (s : State) : State :=
  if s.xbarOn then (List.range 256).foldl State.syncCircuit s else s

/-- A change of XBAR_CTL.en from 0 to 1. -/
def State.enableXbar (s : State) : State :=
  let m := s.fld R.xbarCpmin 6 0
  let b := 1310720 - m * s.clients ^ 2
  let s := (s.setReg R.xbarBcap (BitVec.ofNat 32 b)).raise R.xbarCtl 0
  State.syncCircuits
    { s with xbar := { s.xbar with minActive := m, minCr := [], brw := [], brwCr := [], circRes := [], circFree := [],
                                   free := b, mc := 0, scCr := [] } }

/-- A write to XBAR_CTL. -/
def State.writeXbarCtl (s : State) (w : Word) : State :=
  if wbit w 0 then (if s.xbarOn then s else s.enableXbar)
  else if s.xbarOn then
    (if s.xbarEmpty then s.lower R.xbarCtl 0 else s.raise R.xbarCause 3)
  else s

/-- A write to XBAR_CPMIN: the bits above min_cells are reserved (R8). -/
def State.writeCpmin (s : State) (w : Word) : State :=
  let m := wfld w 6 0
  if 8 ≤ m ∧ m ≤ 64 then s.setReg R.xbarCpmin (BitVec.ofNat 32 m) else s.raise R.xbarCause 3

/-- The register of a multicast group at offset `off` of the group's block after a write (R68). -/
def State.setMcg (s : State) (g off : Nat) (w : Word) : State :=
  if 1024 ≤ g then s
  else if off = 0x10 then
    (if s.bit (R.xbarMcgCtl g) 0 then s.setField (R.xbarMcgCtl g) 0 0 (w.toNat % 2)
     else s.writeReg (R.xbarMcgCtl g) w)
  else if off % 4 ≠ 0 ∨ 0x10 < off ∨ s.bit (R.xbarMcgCtl g) 0 then s
  else
    let k := off / 4
    let keep := bitsNat ((List.range 32).map fun b => s.populatedSlot (32 * k + b))
    let w := w &&& BitVec.ofNat 32 keep
    if k = 0 then s.writeReg (R.xbarMcgMem0 g) w
    else if k = 1 then s.writeReg (R.xbarMcgMem1 g) w
    else if k = 2 then s.writeReg (R.xbarMcgMem2 g) w
    else s.writeReg (R.xbarMcgMem3 g) w

/-- A write to a register of a multicast group. An output of a group that is valid no more gets nothing from waiting cells
(R64); member words change only while it is not. -/
def State.writeMcg (s : State) (g off : Nat) (w : Word) : State :=
  if off = 0x10 then (s.setMcg g off w).returnAllIdle else s.setMcg g off w

/-! ### Aborted packets (R74) -/

/-- Whether the sop cell of a packet has left an output. -/
def State.sopLeft (s : State) (pid : Nat) : Bool := s.xbar.commits.any fun c => c.pid == pid

/-- A selected packet of which no cell comes any more is in progress no longer at the subports `p` names (R116). -/
def State.unselect (s : State) (p : XCommit → Bool) (pid : Nat) : State :=
  let clear (g : Egress) : Egress :=
    if g.inProg.any fun q => q.1.pid == pid && p q.1 then
      { g with inProg := g.inProg.filter fun q => !(q.1.pid == pid && p q.1), sel := g.sel.filter (· != pid) }
    else g
  { s with egress := s.egress.foldl (fun m e => mset Egress.reset m e.1 (clear e.2)) s.egress }

/-- R120: a queue of a port slot in which no packet waits any more leaves its class's list and keeps no deficit. A class
whose last queue leaves is eligible no longer (R119). -/
def State.queueEmptied (s : State) (j sub tc i : Nat) : State :=
  let n := j / 6
  let l := s.firstLane j sub
  let g := s.egr n l
  let waits (e : XEntry) : Bool := e.j == j && e.cell.sub == sub && e.cell.tc == tc && e.i == i && e.cell.sop
    && !(g.inProg.any fun p => p.1.pid == e.cell.pid)
  if s.isPortSlot j && s.slotMode j == 0 && g.active.contains (tc, i) && !(s.xbar.xq.any waits) then
    let rest := g.active.filter (· != (tc, i))
    s.setEgr n l { g with active := rest, eligible := g.eligible.filter fun c => c != tc || rest.any fun p => p.1 == tc, fresh := g.fresh.filter (· != (tc, i)),
                          deficit := mset 0 g.deficit (128 * tc + i) 0 }
  else s

/-- Whether a cell of a packet is at an input or in a crosspoint, or its sop cell has left an output and its eop cell has
not. -/
def Xbar.holds (x : Xbar) (pid : Nat) : Bool :=
  (x.xin.any fun e => e.cell.pid == pid) || (x.xq.any fun e => e.cell.pid == pid) || x.commits.any fun c => c.pid == pid

/-- The mark of an aborted packet stands until nothing of the packet is left in the crossbar. -/
def State.settleMarks (s : State) : State :=
  { s with xbar := { s.xbar with aborted := s.xbar.aborted.filter s.xbar.holds } }

/-- A packet found bad: discarded whole while its sop cell has not left, else marked to end with an aborted eop cell. Where
its eop cell has been sent already, no cell of it is left to discard. -/
def State.abortPacket (s : State) (pid : Nat) : State :=
  if s.sopLeft pid then
    (if s.xbar.aborted.contains pid then s
     else { s with xbar := { s.xbar with aborted := s.xbar.aborted ++ [pid] } })
  else
    let sent := (s.xbar.xq.any fun e => e.cell.pid == pid && e.cell.eop) && !(s.xbar.xin.any fun e => e.cell.pid == pid)
    let gone := s.xbar.xq.filter fun e => e.cell.pid == pid
    let s := (s.purge fun e => e.cell.pid == pid).unselect (fun _ => true) pid
    let s := gone.foldl (fun s e => s.queueEmptied e.j e.cell.sub e.cell.tc e.i) s
    if sent || s.xbar.dropped.contains pid then s
    else { s with xbar := { s.xbar with dropped := s.xbar.dropped ++ [pid] } }

/-- Whether a cell breaks a header rule on arrival (R53, R55, hcrc). -/
def State.headerError (s : State) (e : XIn) : Bool :=
  let c := e.cell
  c.hcrc != c.crc || !c.placed e.pos e.last || (!c.mcast && !s.subExists c.dst c.sub)

/-- The marks of a packet that has ended are dropped. -/
def State.forgetPacket (s : State) (pid : Nat) : State :=
  { s with xbar := { s.xbar with dropped := s.xbar.dropped.filter (· != pid),
                                 started := s.xbar.started.filter fun c => c.pid != pid } }

/-! ### Sending a cell (R58, R59, R69, R70, R72) -/

/-- What an input does next with a waiting cell. -/
inductive SendAct where
  | discard
  | hdrErr
  /-- no member to send to -/
  | consume
  /-- discarded toward a down output -/
  | downCopy (j : Nat)
  /-- a copy whose sub does not exist on its member: a header error of that copy -/
  | badCopy (j : Nat)
  | send (j : Nat) (k : Credit)
  | stored
  | wait
  deriving DecidableEq, Repr

/-- Free pointer entries of every up member of a group (R70: at most 4,096 an output). -/
def State.pointersFree (s : State) (js : List Nat) : Bool :=
  js.all fun j => countWhere (fun e => e.j == j && e.ptr.isSome) s.xbar.xq < 4096

/-- R103: at level 3 an injection instance injects no cell for the subport and class; transit, CIRC and MGMT are exempt. -/
def State.heldByThrottle (s : State) (e : XIn) : Bool :=
  let c := e.cell
  let js := if s.mcStored c.mgroup then s.targets e else (s.targets e).take 1
  e.link.isNone && !s.isPortSlot e.i && c.vc != 3 && c.vc != 4
    && js.any fun j => s.isPortSlot j && s.throttle (j / 6) (s.firstLane j c.sub) c.tc == 3

/-- R53 to R72 for the next cell of a packet at its input. A multicast cell whose group has no member left, or is no
longer valid, when it is to be sent is dropped without a mark (DESIGN CHOICE, log entry 45). Each copy is a cell of its
own (R69): where its sub does not exist on its member, that copy alone is the header error and its packet is discarded
toward that member alone (DEDUCED, log entry 49). -/
def State.sendAct (s : State) (e : XIn) : SendAct :=
  let c := e.cell
  let bad := s.xbar.aborted.contains c.pid
  if s.xbar.dropped.contains c.pid || (bad && !c.eop) then .discard
  else if e.left.isNone && s.headerError e then .hdrErr
  else if s.heldByThrottle e then .wait
  else
    let ts := s.targets e
    if c.mcast && s.mcStored c.mgroup && e.left.isNone then
      let up := ts.filter fun j => s.subExists j c.sub && !s.outDown j c.sub
      if ts.isEmpty then .consume
      else if up.isEmpty then .stored
      else if 0 < mget 0 s.xbar.scCr (1024 * e.i + c.mgroup) && s.pointersFree up then .stored else .wait
    else match ts with
      | [] => .consume
      | j :: _ =>
        if c.mcast && !s.subExists j c.sub then .badCopy j
        else if s.outDown j c.sub then .downCopy j
        else match s.xbar.credit e.i j c.tc c.circ with
          | some k => .send j k
          | none => .wait

/-- Whether an earlier packet of one of the queues a packet enters holds it back (R58; log entry 16). -/
def State.heldBack (s : State) (e : XIn) (earlier : List XIn) : Bool :=
  let js := s.targets e
  let c := e.cell
  (s.xbar.started.any fun k => k.i == e.i && k.pid != c.pid && k.sub == c.sub && k.tc == c.tc && js.contains k.j)
    || earlier.any fun o => o.cell.pid != c.pid && o.cell.sub == c.sub && o.cell.tc == c.tc
        && (s.targets o).any js.contains

/-- The next cell of each packet that waits at input i, in order of arrival, with the entries before it. -/
def nextCells (i : Nat) : List XIn → List Nat → List XIn → List (XIn × List XIn)
  | [], _, _ => []
  | e :: r, seen, before =>
    if e.i != i then nextCells i r seen before
    else if seen.contains e.cell.pid then nextCells i r seen (before ++ [e])
    else (e, before) :: nextCells i r (e.cell.pid :: seen) (before ++ [e])

/-- The packet whose cell input i sends next (R58). -/
def State.choose (s : State) (i : Nat) : Option XIn :=
  let cs := nextCells i s.xbar.xin [] []
  let begun (e : XIn) : Bool := s.xbar.started.any (fun k => k.pid == e.cell.pid) || !e.cell.sop || e.left.isSome
  match cs.find? fun p => begun p.1 && s.sendAct p.1 != .wait with
  | some p => some p.1
  | none => (cs.find? fun p => !begun p.1 && s.sendAct p.1 != .wait && !s.heldBack p.1 p.2).map (·.1)

/-- Borrowed credits of the queues a cell has left, where they are empty now (R64). -/
def State.returnIdles (s : State) (i c : Nat) (js : List Nat) : State := js.foldl (fun s j => s.returnIdle i j c) s

/-- The state without the first waiting cell of a packet at its input; its receive buffer is free again, and so are the
borrowed credits of a queue that it was the last of (R64). -/
def State.dropWaiting (s : State) (e : XIn) : State :=
  match takeFirst (fun o => o.i == e.i && o.cell.pid == e.cell.pid) s.xbar.xin with
  | some (_, rest) =>
    let js := s.targets e
    let s := { s with xbar := { s.xbar with xin := rest } }
    let s := s.returnLinkCredit e
    let s := if e.cell.eop then (s.forgetPacket e.cell.pid).settleMarks else s
    s.returnIdles e.i e.cell.tc js
  | none => s

/-- One target of a waiting cell is done with: the cell goes when it was the last (R69). -/
def State.advance (s : State) (e : XIn) : State :=
  let rest := (s.targets e).tail
  let j := (s.targets e).headD 0
  let s :=
    if rest.isEmpty then s.dropWaiting e
    else
      let more := updFirst (fun o => o.i == e.i && o.cell.pid == e.cell.pid) (fun (o : XIn) => { o with left := some rest }) s.xbar.xin
      { s with xbar := { s.xbar with xin := more } }
  s.returnIdle e.i j e.cell.tc

/-- The cell as it enters a crosspoint: time stamp, credit kind, output and CRC filled in. A copy in input-copy mode names
its member as dst (R69), a stored copy names none (Table 3.1). -/
def State.stamped (s : State) (c : Cell) (j : Nat) (brw : Bool) : Cell :=
  Cell.seal { c with dst := j, brw := brw, ts := s.stamp mortarDie, abt := c.abt || (s.xbar.aborted.contains c.pid && c.eop) }

/-- A packet that begins or ends at an input. -/
def State.noteStart (s : State) (e : XIn) (js : List Nat) : State :=
  if e.cell.sop && !e.cell.eop then
    let more : List XCommit := js.map fun j => { j := j, sub := e.cell.sub, tc := e.cell.tc, i := e.i, pid := e.cell.pid }
    { s with xbar := { s.xbar with started := s.xbar.started ++ more } }
  else s

/-- R106, step 4: the job of a cell that is discarded under R72 toward a fabric subport whose link is DOWN or FAILED is
marked on its port die, as R424 marks it for a cell that has passed (DEDUCED, log entry 50). -/
def State.markLost (s : State) (j sub job : Nat) : State :=
  if s.isPortSlot j && s.slotMode j == 0 then
    match (s.link (j / 6) (s.firstLane j sub)).st with
    | .down => s.hopDown (j / 6) job
    | .failed => s.hopDown (j / 6) job
    | _ => s
  else s

/-- The aborted eop cell that goes out in place of a bad eop cell, in the queue of the packet's sop cell (R74). -/
def XIn.replaced (o : XIn) (k : XCommit) : XIn :=
  let n := max 1 (min 240 o.cell.len)
  { o with cell := Cell.seal { o.cell with
      dst := k.j, sub := k.sub, tc := k.tc, sop := false, eop := true, abt := true, cellIdx := min 63 o.pos,
      pktCells := min 63 o.last, len := n, data := padTo n o.cell.data } }

/-- CELL_SEND: the next cell of input i. A down member of a stored copy gets no pointer entry, and one is added to its
flush counter, as for a copy in input-copy mode (DESIGN CHOICE, log entry 47). -/
def State.sendCell (s : State) (i : Nat) : State :=
  if !s.xbarOn then s
  else match s.choose i with
  | none => s
  | some e =>
    match s.sendAct e with
    | .wait => s
    | .discard => s.dropWaiting e
    | .consume => s.dropWaiting e
    | .hdrErr =>
      let s := (s.raise R.xbarCause 0).abortPacket e.cell.pid
      if e.cell.eop && s.sopLeft e.cell.pid then
        let fix (o : XIn) : XIn := (s.xbar.commits.find? fun c => c.pid == e.cell.pid).elim o o.replaced
        let fixed := updFirst (fun o => o.i == i && o.cell.pid == e.cell.pid) fix s.xbar.xin
        { s with xbar := { s.xbar with xin := fixed } }
      else s.dropWaiting e
    | .downCopy j => ((s.countFlush i j e.cell.sub e.cell.tc).markLost j e.cell.sub e.cell.job).advance e
    | .badCopy _ => (s.raise R.xbarCause 0).advance e
    | .send j k =>
      let c := s.stamped e.cell j (k == .borrowed)
      let x := s.xbar.spend i j c.tc c.circ k
      let q : XEntry := { i := i, j := j, cell := c, ptr := none, res := k == .circ }
      let s := { s with xbar := { x with xq := x.xq ++ [q] } }
      (s.noteStart e [j]).advance e
    | .stored =>
      let g := e.cell.mgroup
      let up := (s.targets e).filter fun j => s.subExists j e.cell.sub && !s.outDown j e.cell.sub
      let down := (s.targets e).filter fun j => !up.contains j
      let x := s.xbar
      let id := s.nextId
      let ents := up.map fun j => ({ i := i, j := j, cell := s.stamped e.cell 0 false, ptr := some id, res := false } : XEntry)
      let left := mset 0 x.scCr (1024 * i + g) (mget 0 x.scCr (1024 * i + g) - 1)
      let x := { x with scCr := left, bufs := x.bufs ++ [{ id := id, refs := up.length }], xq := x.xq ++ ents }
      let s := if up.isEmpty then s else State.numbered { s with xbar := x }
      let s := down.foldl (fun s j =>
        if s.subExists j e.cell.sub then (s.countFlush i j e.cell.sub e.cell.tc).markLost j e.cell.sub e.cell.job
        else s.raise R.xbarCause 0) s
      (s.noteStart e up).dropWaiting e

/-! ### Grants (R63, R70) -/

/-- Borrow requests (i, j, c): a cell waits with neither a minimum credit nor a borrowed one (R63; log entry 43). -/
def State.borrowRequests (s : State) : List Nat :=
  (s.xbar.xin.flatMap fun e => ((s.targets e).filter (s.wants e)).map fun j => (e.i, j, e.cell.tc)).filterMap fun (i, j, c) =>
    if s.xbar.minAt i j = 0 ∧ s.xbar.brwCrAt i j c = 0 then some (xcKey i j c) else none

/-- Whether the arbiter can grant a request (R63). -/
def State.grantable (s : State) (k : Nat) : Bool :=
  let g := s.grantCells
  let j := k / 8 % 128
  let c := k % 8
  g ≤ s.xbar.free && s.xbar.outBrw j + g ≤ s.fld (R.xbarOcap j) 20 0
    && s.xbar.classBrw c + g ≤ s.fld (R.xbarTccap c) 20 0

/-- The least key at or after `p` among `ks`, else the least of all: round robin. -/
def rrNext (p : Nat) (ks : List Nat) : Option Nat :=
  match (ks.filter fun k => p ≤ k).min? with
  | some k => some k
  | none => ks.min?

/-- One grant of the pool arbiter. -/
def State.grantOne (s : State) : State :=
  match rrNext s.xbar.rrPool (s.borrowRequests.filter s.grantable) with
  | none => s
  | some k =>
    let g := s.grantCells
    let x := s.xbar
    { s with xbar := { x with brw := mset 0 x.brw k (mget 0 x.brw k + g), brwCr := mset 0 x.brwCr k (mget 0 x.brwCr k + g),
                              free := x.free - g, rrPool := k + 1 } }

/-- A batch of stored-copy credits for group g at input i: a cell of the group waits without one (log entry 17). Credits
that an input holds and does not use stay with it for the group, also while the group is idle or invalid, and count in mc
(DESIGN CHOICE, log entry 119). -/
def State.grantStored (s : State) (i g : Nat) : State :=
  let n := s.grantCells
  let x := s.xbar
  if s.xbarOn && s.bit (R.xbarMcgCtl g) 0 && s.mcStored g
      && (x.xin.any fun e => e.i == i && e.cell.mcast && e.cell.mgroup == g)
      && mget 0 x.scCr (1024 * i + g) == 0 && x.mc + n ≤ s.fld R.xbarMccap 20 0 && n ≤ x.free
      && s.pointersFree (s.mcMembers g) then
    { s with xbar := { x with scCr := mset 0 x.scCr (1024 * i + g) n, mc := x.mc + n, free := x.free - n } }
  else s

/-! ### Leaving (R57, R64, R74) -/

/-- The head entry of queue (i, j, sub, tc). -/
def Xbar.head (x : Xbar) (i j sub tc : Nat) : Option XEntry :=
  x.xq.find? fun e => e.i == i && e.j == j && e.cell.sub == sub && e.cell.tc == tc

/-- Whether output j may serve input i for (sub, tc) now (R57). -/
def Xbar.mayServe (x : Xbar) (i j sub tc : Nat) : Bool :=
  match x.commits.find? fun c => c.j == j && c.sub == sub && c.tc == tc with
  | some c => c.i == i
  | none => true

/-- The entry a client output takes next: classes in round robin, inputs in round robin within a class (R57); within a
class and an input, sub 0 to 3 in ascending order (DESIGN CHOICE, log entry 42). -/
def Xbar.pick (x : Xbar) (j : Nat) : Option XEntry :=
  (rotated 8 (mget 0 x.rrTc j)).findSome? fun tc =>
    (rotated 128 (mget 0 x.rrIn (8 * j + tc))).findSome? fun i =>
      (List.range 4).findSome? fun sub =>
        if x.mayServe i j sub tc then x.head i j sub tc else none

/-- The state after an entry has left its queue. -/
def State.takeEntry (s : State) (e : XEntry) : State :=
  match takeFirst (fun o => o.i == e.i && o.j == e.j && o.cell.sub == e.cell.sub && o.cell.tc == e.cell.tc) s.xbar.xq with
  | some (_, rest) => State.depart { s with xbar := { s.xbar with xq := rest } } e
  | none => s

/-- The commitment of output j to a packet begins with its sop cell and ends with its eop cell (R57). -/
def State.noteCommit (s : State) (e : XEntry) : State :=
  let c := e.cell
  if c.eop then
    let rest := s.xbar.commits.filter fun k => !(k.j == e.j && k.pid == c.pid)
    State.settleMarks { s with xbar := { s.xbar with commits := rest } }
  else if c.sop then
    let k : XCommit := { j := e.j, sub := c.sub, tc := c.tc, i := e.i, pid := c.pid }
    { s with xbar := { s.xbar with commits := s.xbar.commits ++ [k] } }
  else s

/-- A packet that a client output discards, aborted (R74): counted, its job marked, its bytes committed. How many they are
the eop cell says: it stands behind cellIdx full cells, those discarded at the crosspoint among them. -/
def State.discardAborted (s : State) (j : Nat) (cells : List Cell) : State :=
  match cells with
  | [] => s
  | c :: _ =>
    let s := ((s.incCtr R.xbarAbortLo).markJob (fun w => R.xbarJmap w) c.job).raise R.xbarCause 5
    let d := cells.getLast?.getD c
    let n := 240 * d.cellIdx + d.len - 32
    s.commitBytes j c.src (hdrOfBytes c.data) c.ep c.job c.tc n

/-- A cell that reaches its client: a packet is handed over whole at its eop cell. -/
def State.toClient (s : State) (j : Nat) (c : Cell) : State :=
  let mine (r : Reasm) : Bool := r.j == j && (r.cells.head?.map fun d => d.pid == c.pid).getD false
  let got := ((s.xbar.reasm.find? mine).map (·.cells)).getD [] ++ [c]
  let others := s.xbar.reasm.filter fun r => !mine r
  if !c.eop then { s with xbar := { s.xbar with reasm := others ++ [{ j := j, cells := got }] } }
  else
    let s := { s with xbar := { s.xbar with reasm := others } }
    if c.abt then s.discardAborted j got
    else
      let all := got.flatMap (·.data)
      let h := hdrOfBytes all
      let p : Packet := { hdr := h, vc := c.vc, tc := c.tc, job := c.job, tag := c.pktTag, abt := false, data := all.drop 32 }
      { s with inbox := s.inbox ++ [{ slot := j, sub := c.sub, mcast := c.mcast, unit := h.dstEp, ep := c.ep, pkt := p,
                                       src := c.src, at_ := s.time.now }] }

/-- An uncorrectable error in the buffer of an entry (R74): recorded, the packet aborted. One copy's error aborts a multicast
packet at every member (DESIGN CHOICE, log entry 120). -/
def State.bufferError (s : State) (e : XEntry) : State :=
  let s :=
    if s.reg R.xbarFault = 0 then s.setReg R.xbarFault (atFld 31 24 fcEccUe ||| atFld 14 8 e.j ||| atFld 6 0 e.i) else s
  (s.raise R.xbarCause 1).abortPacket e.cell.pid

/-- An entry of a packet that is discarded whole at its output. -/
def State.discardEntry (s : State) (e : XEntry) : State :=
  (((s.takeEntry e).unselect (fun c => c.j == e.j && c.sub == e.cell.sub) e.cell.pid).queueEmptied e.j e.cell.sub e.cell.tc
    e.i).settleMarks

/-- An entry leaves output j; `out` says where a cell that is forwarded goes. A later cell of a packet whose sop cell was
flushed while its output was down has no commitment: it is discarded as a header error (DESIGN CHOICE, log entry 46). -/
def State.leave (s : State) (e : XEntry) (ue : Bool) (out : State → Cell → State) : State :=
  let c := e.cell
  let begun := s.xbar.commits.any fun k => k.j == e.j && k.pid == c.pid
  if !begun && s.xbar.aborted.contains c.pid then s.discardEntry e
  else if !begun && !c.sop then (s.takeEntry e).raise R.xbarCause 0
  else if ue && c.sop && !begun then
    let whole := !s.sopLeft c.pid
    let s := s.bufferError e
    if whole then s else s.discardEntry e
  else
    let s := if ue then s.bufferError e else s
    let bad := s.xbar.aborted.contains c.pid
    if bad && !c.eop then s.takeEntry e
    else
      let s := (s.takeEntry e).noteCommit e
      out s { c with abt := c.abt || bad }

/-- A head entry of port slot j that no scheduler can select: of a packet whose sop cell was flushed, or of one that is
aborted and has not begun there. -/
def State.strayPick (s : State) (j : Nat) : Option XEntry :=
  s.xbar.xq.find? fun e => e.j == j && (!e.cell.sop || s.xbar.aborted.contains e.cell.pid)
    && !(s.xbar.commits.any fun k => k.j == j && k.pid == e.cell.pid)
    && s.xbar.head e.i j e.cell.sub e.cell.tc == some e

/-- The packet in progress at a subport of port slot j whose next cell can enter its FIFO (R116); the lowest sub first
(DESIGN CHOICE, log entry 42). A head entry that no scheduler can select goes before, to be discarded (DESIGN CHOICE, log
entry 46). -/
def State.portPick (s : State) (j : Nat) : Option XEntry :=
  (s.strayPick j).orElse fun _ => (List.range (s.subports j)).findSome? fun sub =>
    let g := s.egr (j / 6) (s.firstLane j sub)
    g.inProg.findSome? fun p =>
      match s.xbar.head p.1.i j sub p.1.tc with
      | some e =>
        let held := countWhere (fun c => c.vc == e.cell.vc) g.fifo
          + countWhere (fun o => o.1 == j && o.2.sub == sub && o.2.vc == e.cell.vc) s.xbar.xout
        if e.cell.pid == p.1.pid && held < 64 && s.xbar.mayServe e.i j sub e.cell.tc then some e else none
      | none => none

/-- CELL_LEAVE: one cell leaves output j, to the port die or to the client. -/
def State.leaveCell (s : State) (j : Nat) (ue : Bool) : State :=
  if s.isPortSlot j then
    match s.portPick j with
    | some e => s.leave e ue fun s c => { s with xbar := { s.xbar with xout := s.xbar.xout ++ [(j, c)] } }
    | none => s
  else
    match s.xbar.pick j with
    | some e =>
      let s := { s with xbar := { s.xbar with rrTc := mset 0 s.xbar.rrTc j ((e.cell.tc + 1) % 8),
                                              rrIn := mset 0 s.xbar.rrIn (8 * j + e.cell.tc) ((e.i + 1) % 128) } }
      s.leave e ue fun s c => s.toClient j c
    | none => s

/-! ### Port down and flush (R71 to R73, R122) -/

/-- The aborted eop cell that ends a packet of cell `c` at position `pos`; its length is open (log entry 21). -/
def abortCell (draw pos : Nat) (c : Cell) : Cell :=
  let n := Config.freeNat draw % 240 + 1
  Cell.seal { c with sop := false, eop := true, abt := true, len := n, data := List.replicate n 0, cellIdx := min 63 pos }

/-- R122: the scheduler of a subport that enters the down state. A packet cut in the egress buffer ends there with an
aborted eop cell, since R85 lets nothing else follow it on its channel (log entry 18). -/
def State.schedDown (s : State) (n l : Nat) : State :=
  let g := s.egr n l
  let cuts := g.inProg.filterMap fun p => p.2.map fun c => abortCell s.freeCtr (c.cellIdx + 1) c
  let gone := g.inProg.filterMap fun p => if p.2.isNone then some p.1.pid else none
  let s := if cuts.isEmpty then s else s.drawn
  s.setEgr n l { g with fifo := g.fifo ++ cuts, sel := g.sel.filter fun p => !gone.contains p, inProg := [], v := 0,
                        fin := [], eligible := [], active := [], deficit := [], fresh := [] }

/-- R71: an input discards what it holds for an output that goes down: a unicast cell, or one copy of a multicast cell,
which goes whole with its last copy. -/
def State.dropTarget (s : State) (e : XIn) (j : Nat) : State :=
  if !e.cell.mcast || (s.targets e).all (· == j) then s.dropWaiting e
  else
    let mark (o : XIn) : XIn := if o == e then { o with gone := o.gone ++ [j] } else o
    State.returnIdle { s with xbar := { s.xbar with xin := s.xbar.xin.map mark } } e.i j e.cell.tc

/-- An output subport enters the down state: its queues are flushed (R71). -/
def State.outputDown (s : State) (j sub : Nat) : State :=
  if !s.isPortSlot j || 4 ≤ sub || s.outDown j sub then s
  else
    let s := (s.raise (R.xbarOutctl j) sub).raise (R.xbarOutctl j) (4 + sub)
    let mine (e : XEntry) : Bool := e.j == j && e.cell.sub == sub
    let out := s.xbar.xq.filter mine
    let s := s.purge mine
    let s := out.foldl (fun s e => s.countFlush e.i j sub e.cell.tc) s
    let waits := s.xbar.xin.filter fun e => e.cell.sub == sub && (s.targets e).contains j
    let s := waits.foldl (fun s e => (s.countFlush e.i j sub e.cell.tc).dropTarget e j) s
    let s := { s with xbar := { s.xbar with
      commits := s.xbar.commits.filter fun c => !(c.j == j && c.sub == sub),
      started := s.xbar.started.filter fun c => !(c.j == j && c.sub == sub) } }
    s.returnAllIdle.settleMarks.schedDown (j / 6) (s.firstLane j sub)

/-- A flush completes (R73). -/
def State.flushDone (s : State) (j sub : Nat) : State :=
  if sub < 4 && s.bit (R.xbarOutctl j) (4 + sub) then
    (s.lower (R.xbarOutctl j) (4 + sub)).raise R.xbarCause 4
  else s

/-- Full token count of a bucket (R123). -/
def fullTokens (burst : Nat) : Int := 2 * (burst : Int)

/-- Circuit IDs whose entry leaves on a subport. -/
def State.circuitsOf (s : State) (j sub : Nat) : List Nat :=
  (List.range 256).filter fun id =>
    match s.circuit id with
    | some (w, _, _) => wfld w 13 7 == j && wfld w 15 14 == sub
    | none => false

/-- Burst of a circuit entry. -/
def State.circBurst (s : State) (id : Nat) : Nat := wfld (s.active.word 4 0 id 2) 23 0

/-- A down bit written 0: the subport returns to up, its buckets full (R73, R122). -/
def State.outputUp (s : State) (j sub : Nat) : State :=
  if !s.isPortSlot j || 4 ≤ sub || !s.outDown j sub || s.bit (R.xbarOutctl j) (4 + sub) then s
  else
    let s := s.lower (R.xbarOutctl j) sub
    let n := j / 6
    let l := s.firstLane j sub
    let full (m : SMap Int) (c : Nat) : SMap Int :=
      mset 0x8000 m (8 * lk n l + c) (fullTokens (s.fld (R.portSShpb n l c) 23 0))
    let s := { s with shpT := (List.range 8).foldl full s.shpT }
    { s with circT := (s.circuitsOf j sub).foldl (fun m id => mset 0 m id (fullTokens (s.circBurst id))) s.circT }

end Sys2Proof.Machine
end

