-- ==== Sys2Proof/Machine/Links.lean ====
section
/-!
DEFINITION. The fabric-mode link layer and the link states (spec/04_links_and_routing.md, R77 to R88, R104 to R106,
R424): flits, sequence numbers and replay, link credits, training and failure, and the flits of a packet on their way
into the crossbar.
-/

namespace Sys2Proof.Machine

/-! ### Flits (Table 4.3, R82) -/

/-- Header bits [127:32]. -/
def flitBits (f : Flit) : Nat :=
  pack [(4, f.ftype), (12, f.seq), (12, f.ack), (3, f.vc), (1, bnat f.dl), (3, f.tc), (1, bnat f.sop), (1, bnat f.eop),
        (1, bnat f.abt), (6, f.cellIdx), (6, f.pktCells), (8, f.len), (4, f.crdSel), (6, f.crdCnt), (12, f.job),
        (16, f.pktTag)]

/-- The CRC-32 that the flit should carry: header bits [127:32], then the payload, in memory order. -/
def flitCrc (f : Flit) : Word := crc32 (leBytes 12 (flitBits f) ++ padTo 240 f.payload)

/-- The flit with its CRC filled in. -/
def flitSeal (f : Flit) : Flit := { f with crc := flitCrc f }

/-- A flit of a type that carries no data (R82). -/
def plainFlit (ftype : Nat) : Flit :=
  { ftype := ftype, seq := 0, ack := 0, vc := 0, dl := false, tc := 0, sop := false, eop := false, abt := false,
    cellIdx := 0, pktCells := 0, len := 0, crdSel := 15, crdCnt := 0, job := 0, pktTag := 0, crc := 0, payload := [] }

/-- The data flit of a cell; a copy of a multicast group names the peer as destination (R176). -/
def flitOfCell (peerDev seq : Nat) (c : Cell) : Flit :=
  let data := if c.mcast && c.sop then
    { hdrOfBytes c.data with dstDev := peerDev }.bytes ++ c.data.drop 32 else c.data
  { plainFlit 0 with seq := seq, vc := c.vc, dl := c.dl, tc := c.tc, sop := c.sop, eop := c.eop, abt := c.abt,
                     cellIdx := c.cellIdx, pktCells := c.pktCells, len := c.len, job := c.job, pktTag := c.pktTag,
                     payload := padTo 240 data }

/-- The flit with what every flit carries: the current ack and a credit return (R83, R85). -/
def dress (k : Link) (f : Flit) : Link × Flit :=
  let f := { f with ack := (k.rxSeq + 4095) % 4096 }
  match k.crdRet with
  | [] => ({ k with ackNew := false }, flitSeal f)
  | (key, n) :: _ =>
    let c := min n 63
    ({ k with ackNew := false, crdRet := mset 0 k.crdRet key (n - c) }, flitSeal { f with crdSel := key, crdCnt := c })

/-- Whether a slot's lane order is reversed, and the transmit polarity of a lane of the die (R79). -/
def State.laneRev (s : State) (j : Nat) : Bool := wbit (s.slotCfg j) 6
def State.txInv (s : State) (j lane : Nat) : Bool := wbit (s.slotCfg j) (8 + lane % 4)
def State.rxInv (s : State) (j lane : Nat) : Bool := wbit (s.slotCfg j) (12 + lane % 4)

/-- The lane of the die that stands at position `p` of subport (j, l) in the order of dealing (R79, R80). -/
def State.laneAt (s : State) (j l p : Nat) : Nat :=
  let w := 4 / splitPorts (s.slotSplit j)
  l + (if s.laneRev j then w - 1 - p % w else p % w)

/-- A flit goes out on a subport: dressed, on the lane that is next in the round robin (R80). `bad` spoils its CRC. -/
def State.sendFlit (s : State) (n l j : Nat) (k : Link) (f : Flit) (bad : Bool) : State :=
  let (k, f) := dress k f
  let f := if bad then { f with crc := f.crc ^^^ BitVec.ofNat 32 (Config.badCrc f.crc % (2 ^ 32 - 1) + 1) } else f
  let lane := s.laneAt j l k.txLane
  let next := (k.txLane + 1) % (4 / splitPorts (s.slotSplit j))
  s.setLink n l { k with lastTx := some f, txLane := next, lastLane := some (lane, s.txInv j lane) }

/-- A flit comes in on the lane that is next in the round robin, taken in the lane's receive polarity (R79, R80). The
command's operand is the flit as the lane logic has restored it (DESIGN CHOICE, log entry 121). -/
def State.fromLane (s : State) (n l j : Nat) : State :=
  let k := s.link n l
  let lane := s.laneAt j l k.rxLane
  s.setLink n l { k with rxLane := (k.rxLane + 1) % (4 / splitPorts (s.slotSplit j)), lastRx := some (lane, s.rxInv j lane) }

/-! ### Taking cells from the crossbar (R424) -/

/-- R87: the dateline class with which a packet leaves. -/
def State.dateline (s : State) (n l j sub : Nat) (dl : Bool) : Bool :=
  let inRing := s.fld (R.portPCfg n l) 5 2
  let out := s.reg (R.portPCfg (j / 6) (s.firstLane j sub))
  wbit out 1 || (dl && wfld out 5 2 == inRing)

/-- The class of a cell that reaches egress subport (j, sub). That of a multicast copy is decided here, at its first
cell (R87). -/
def State.copyClass (s : State) (g : Egress) (j sub : Nat) (c : Cell) : Bool :=
  match c.inLane with
  | none => c.dl
  | some l =>
    match (g.inProg.find? fun p => p.1.pid == c.pid).bind (·.2) with
    | some d => d.dl
    | none => s.dateline (c.src / 6) l j sub c.dl

/-- EGRESS_CELL_TAKE: the port die takes the next cell that left toward a subport. -/
def State.takeCell (s : State) (j sub : Nat) : State :=
  if !s.isPortSlot j || s.subports j ≤ sub then s
  else match takeFirst (fun o => o.1 == j && o.2.sub == sub) s.xbar.xout with
  | none => s
  | some ((_, c), rest) =>
    let n := j / 6
    let l := s.firstLane j sub
    let s := { s with xbar := { s.xbar with xout := rest } }
    let g := s.egr n l
    let c : Cell := { c with dl := s.copyClass g j sub c }
    let prog := if c.eop then g.inProg.filter fun p => p.1.pid != c.pid
      else g.inProg.map fun p => if p.1.pid == c.pid then (p.1, some c) else p
    match (s.link n l).st with
    | .down => (s.setEgr n l { g with inProg := prog, sel := g.sel.filter (· != c.pid) }).hopDown n c.job
    | .failed => (s.setEgr n l { g with inProg := prog, sel := g.sel.filter (· != c.pid) }).hopDown n c.job
    | _ => s.setEgr n l { g with inProg := prog, fifo := g.fifo ++ [c] }

/-- Every cell that has left the crossbar toward a subport is taken. -/
def State.takeAll (s : State) (j sub : Nat) : State := s.xbar.xout.foldl (fun s _ => s.takeCell j sub) s

/-- An output subport enters the down state by software: the port die takes first what has left the crossbar (R122, R424),
so that the packets in progress end behind it. -/
def State.outputCut (s : State) (j sub : Nat) : State :=
  if !s.isPortSlot j || 4 ≤ sub || s.outDown j sub then s else (s.takeAll j sub).outputDown j sub

/-- A software write to XBAR_OUTCTLn: the down bit of each subport enters the down state or returns to up; other slots
ignore it. A bit of a subport that the slot's arrangement does not have takes neither a 1 nor a 0 (DESIGN CHOICE, log
entry 48). -/
def State.writeOutctl (s : State) (j : Nat) (w : Word) : State :=
  if !s.isPortSlot j then s
  else (List.range (s.subports j)).foldl (fun s sub => if wbit w sub then s.outputCut j sub else s.outputUp j sub) s

/-! ### Link state (R104 to R106) -/

def LinkState.code : LinkState → Nat
  | .down => 0 | .training => 1 | .up => 2 | .retraining => 3 | .failed => 4

/-- Replay buffer of a subport in flits (R83). -/
def State.replaySize (s : State) (j : Nat) : Nat := 1024 / max 1 (s.subports j)

/-- The ten credit counts a subport offers: key 2 vc + dl. -/
def State.crdCount (s : State) (n l key : Nat) : Nat :=
  if key % 2 = 0 then s.fld (R.portPCrd n l (key / 2)) 11 0 else s.fld (R.portPCrd n l (key / 2)) 27 16

/-- R86. -/
def State.creditLimits (s : State) (n j l : Nat) : Bool :=
  ((List.range 10).all fun k => 16 ≤ s.crdCount n l k && s.crdCount n l k ≤ 2048)
    && (((List.range (s.subports j)).flatMap fun x =>
      (List.range 10).map fun k => s.crdCount n (s.firstLane j x) k).sum ≤ 2048)

/-- A link whose training begins: no credit, sequence numbers from 0 (R85; log entry 19). -/
def trainingLink (k : Link) : Link :=
  { Link.reset with st := .training, peerDev := k.peerDev, peerLane := k.peerLane, testBad := true }

/-- A packet that is being received at subport l of slot j, as an entry that waits at the input for its next cell. -/
def RxDec.entry (d : RxDec) (j l : Nat) : XIn :=
  { i := j, link := none, left := none, gone := [], pos := d.pos, last := d.last,
    cell := { dst := d.dst, src := j, sub := d.sub, tc := 0, vc := d.vc, mcast := d.mcast, sop := false, eop := false,
              cellIdx := d.pos, len := 0, job := d.job, mgroup := d.mgroup, pktTag := d.tag, pktCells := d.last, ts := 0,
              brw := false, abt := false, hcrc := 0, data := [], pid := d.pid, dl := d.dl,
              inLane := if d.mcast then some l else none, ep := d.ep, circ := d.circ } }

/-- The aborted eop cells in place of entry `e`, the next of its packet at the input. A multicast cell that some members
have ends there one position later, and where it is the sop cell the others have nothing to end. -/
def State.abortEntries (s : State) (tc : Nat) (e : XIn) : List XIn :=
  let put (pos : Nat) (left : Option (List Nat)) : XIn :=
    { e with cell := abortCell s.freeCtr pos { e.cell with tc := tc }, link := none, left := left, pos := pos }
  match e.left with
  | none => [put e.pos none]
  | some rest =>
    (if e.cell.sop then [] else [put e.pos (some rest)])
      ++ [put (e.pos + 1) (some ((s.mcMembers e.cell.mgroup).filter fun m => !rest.contains m))]

/-- R106 step 3: packets of a subport that were being received end with an aborted eop cell, which takes the place of the
next cell of its packet; the rest is discarded. -/
def State.cutReceived (s : State) (n l j : Nat) : State :=
  let k := s.link n l
  let mine (e : XIn) : Bool := e.i == j && (e.link.map fun t => t.1 == l).getD false
  let waiting := s.xbar.xin.filter mine
  let cand := waiting ++ (k.rxDec.filter fun d => !d.drop).map fun d => d.entry j l
  let firsts := cand.foldl (fun (a : List XIn) e => if a.any fun o => o.cell.pid == e.cell.pid then a else a ++ [e]) []
  let ends : List XIn := firsts.flatMap fun e =>
    match s.xbar.started.find? fun q => q.pid == e.cell.pid with
    | some q => s.abortEntries q.tc e
    | none => []
  let s := if ends.isEmpty then s else s.drawn
  let queues := waiting.map fun e => (e.cell.tc, s.targets e)
  let s := { s with xbar := { s.xbar with xin := s.xbar.xin.filter (fun e => !mine e) ++ ends } }
  queues.foldl (fun s q => s.returnIdles j q.1 q.2) s

/-- Jobs with a flit or cell that steps 1 to 3 of R106 discard. -/
def State.lostJobs (s : State) (n l j sub : Nat) : List Nat :=
  let k := s.link n l
  let g := s.egr n l
  (s.xbar.xq.filter fun e => e.j == j && e.cell.sub == sub).map (·.cell.job)
    ++ (s.xbar.xin.filter fun e => e.cell.sub == sub && (s.targets e).contains j).map (·.cell.job)
    ++ (s.xbar.xin.filter fun e => e.i == j && (e.link.map fun t => t.1 == l).getD false).map (·.cell.job)
    ++ g.fifo.map (·.job) ++ k.replay.map (·.job) ++ k.rxWait.map (·.job)
    ++ (k.rxDec.filter fun d => !d.drop).map (·.job)

/-- Steps 1 to 4 of R106 with the state the subport enters; the jobs that were marked. A cell that has left the crossbar
reaches the subport in its new state and is discarded there with its mark (R424). -/
def State.flushLink (s : State) (n l j sub : Nat) (st : LinkState) : State × List Nat :=
  let jobs := s.lostJobs n l j sub
  let s := s.cutReceived n l j
  let s := s.outputDown j sub
  let s := s.setEgr n l { s.egr n l with fifo := [], sel := [], inProg := [] }
  let k := s.link n l
  let s := s.setLink n l { Link.reset with st := st, peerDev := k.peerDev, peerLane := k.peerLane, testBad := true }
  let s := s.takeAll j sub
  (jobs.foldl (fun s job => s.portMark n job) s, jobs)

/-- Step 5 of R106. -/
def State.linkLost (s : State) (n l : Nat) : State := (s.portFault n fcLinkLost 0 l).raise (R.portCause n) 0

/-- Entry to FAILED (R106); Hyzacia notes the event (R366). -/
def State.failLink (s : State) (n l j sub : Nat) : State :=
  let (s, _) := s.flushLink n l j sub .failed
  (s.linkLost n l).raise R.devEvent 4

/-- Entry to RETRAINING (R105). -/
def State.retrain (s : State) (n l : Nat) : State :=
  let k := s.link n l
  if k.st = .up then
    let s := s.setLink n l { k with st := .retraining, testBad := true }
    ((s.count (R.portPRetrains n l)).raise (R.portCause n) 1).raise R.devEvent 4
  else s

/-- A write to PORTn_Pl_CFG (R86, R104). In FAULTED, where R353 holds the subports in DOWN, it stores its fields and is checked as
ever, and no training starts (DEDUCED, log entry 85). -/
def State.writePortCfg (s : State) (n l : Nat) (w : Word) : State :=
  let k := s.link n l
  if wbit w 0 then
    match s.subportAt n l with
    | none => s.raise (R.portCause n) 5
    | some (j, _) =>
      if s.slotMode j ≠ 0 then s.raise (R.portCause n) 5
      else
        let s := s.writeReg (R.portPCfg n l) w
        if !s.creditLimits n j l then s.raise (R.portCause n) 5
        else if k.st = .down ∧ s.dev ≠ .faulted then s.setLink n l (trainingLink k)
        else s
  else
    let s := s.writeReg (R.portPCfg n l) w
    match s.subportAt n l with
    | none => s
    | some (j, sub) =>
      if k.st = .down then s
      else if k.st = .failed then s.setLink n l { k with st := .down }
      else
        let (s, jobs) := s.flushLink n l j sub .down
        if jobs.isEmpty then s else s.linkLost n l

/-- Training ends (R85, R104, R106): the peer's identity is stored; UP with the whole count of every pair to return, or
FAILED where the peer check refuses. -/
def State.trained (s : State) (n l peerDev peerLane : Nat) : State :=
  let k := s.link n l
  match s.subportAt n l with
  | none => s
  | some (j, sub) =>
    if k.st ≠ .training then s
    else
      let k := { k with peerDev := peerDev % 1024, peerLane := peerLane % 512 }
      let s := s.setLink n l k
      let p := s.reg (R.portPPeer n l)
      if wbit p 31 && (wfld p 19 10 != peerDev || wfld p 8 0 != peerLane) then
        (s.raise (R.portCause n) 2).failLink n l j sub
      else
        let give := (List.range 10).foldl (fun m key => mset 0 m key (s.crdCount n l key)) []
        s.setLink n l { k with st := .up, crdRet := give }

/-- A write to PORTn_SLOTCFGk (R78); a copy that waits for a subport that is there no more asks for no credit (R53, R64). -/
def State.writeSlotcfg (s : State) (n k : Nat) (w : Word) : State :=
  let busy := (List.range 4).any fun x =>
    s.bit (R.portPCfg n (4 * k + x)) 0 || s.bit (R.portECtl n (4 * k + x)) 0
  if busy then s.raise (R.portCause n) 5
  else
    let s := s.writeReg (R.portSlotcfg n k) w
    let s := s.returnAllIdle
    let v := s.reg (R.portSlotcfg n k)
    if wfld v 1 0 = 3 ∨ (wfld v 1 0 = 2 ∧ wfld v 5 4 = 1) then s.raise (R.portCause n) 5 else s

/-! ### Receiving (R84, R85, R125) -/

/-- The replay buffer and the flits still to resend, with everything up to `ack` dropped (R83). -/
def ackUpTo (k : Link) (ack : Nat) : Link :=
  if k.replay.any fun f => f.seq == ack then
    let rest := (k.replay.dropWhile fun f => f.seq != ack).drop 1
    { k with replay := rest, resend := k.resend.filter fun f => rest.any fun g => g.seq == f.seq }
  else k

/-- A replay request leaves: it names the last good seq and counts (R84); eight without progress retrain (R105). -/
def State.askReplay (s : State) (n l : Nat) : State :=
  let k := s.link n l
  let f := plainFlit 3
  let s := s.setLink n l { k with ctlOut := k.ctlOut ++ [f], discarding := true, reqsNoProgress := k.reqsNoProgress + 1 }
  let s := s.incCtr (R.portPReplayLo n l)
  if 8 ≤ k.reqsNoProgress + 1 then
    let s := s.setLink n l { s.link n l with reqsNoProgress := 0 }
    s.retrain n l
  else s

/-- The cell of a data flit from subport l whose packet goes to `d` (R81). -/
def cellOfFlit (j l : Nat) (d : RxDec) (f : Flit) : Cell :=
  let data := f.payload.take f.len
  Cell.seal
    { dst := if d.mcast then 0 else d.dst, src := j, sub := d.sub, tc := f.tc, vc := f.vc, mcast := d.mcast, sop := f.sop,
      eop := f.eop, cellIdx := f.cellIdx, len := f.len, job := f.job, mgroup := if d.mcast then d.mgroup else 0,
      pktTag := f.pktTag, pktCells := f.pktCells, ts := 0, brw := false, abt := f.abt, hcrc := 0,
      data := if f.sop then d.hdr.bytes ++ data.drop 32 else data, pid := d.pid, dl := d.dl,
      inLane := if d.mcast then some l else none, ep := d.ep, circ := d.circ }

/-- The receive buffer of a flit is free at once: its credit returns. -/
def State.freeRxBuffer (s : State) (n l : Nat) (f : Flit) : State :=
  let k := s.link n l
  let key := 2 * f.vc + bnat f.dl
  s.setLink n l { k with crdRet := mset 0 k.crdRet key (mget 0 k.crdRet key + 1) }

/-- A data flit of a packet whose destination is decided: into the crossbar input with its position in the packet, or
discarded with its packet. -/
def State.placeFlit (s : State) (n l j : Nat) (d0 : RxDec) (f : Flit) : State :=
  let d := ((s.link n l).rxDec.find? fun e => e.vc == f.vc).getD d0
  let last := if d.pos = 0 then f.pktCells else d.last
  let s :=
    if d.drop then
      let s := s.freeRxBuffer n l f
      let bytes := if f.sop then f.len - 32 else f.len
      if d.commit && (d.hdr.op ≠ opSemAdd || f.sop) then s.commitBytes j j d.hdr d.ep d.job f.tc bytes else s
    else { s with xbar := { s.xbar with
      xin := s.xbar.xin ++ [{ i := j, cell := cellOfFlit j l d f, link := some (l, f.vc, f.dl), left := none, gone := [],
                              pos := d.pos, last := last }] } }
  let k := s.link n l
  if f.eop then s.setLink n l { k with rxDec := k.rxDec.filter fun e => e.vc != f.vc }
  else
    let on (e : RxDec) : RxDec := if e.vc == f.vc then { e with pos := e.pos + 1, last := last } else e
    s.setLink n l { k with rxDec := k.rxDec.map on }

/-- Charged length of a packet on a fabric subport (R115). -/
def State.chargedFab (s : State) (n l pktCells : Nat) : Nat := 240 * (pktCells + 1) + s.fld (R.portSCfg n l) 13 8

/-- Tokens of a policer; at reset a bucket is full of its reset burst (log entry 22). -/
def State.polTokens (s : State) (n js : Nat) : Int := mget 0x20000 s.polT (64 * n + js)

/-- R125: the policer of the job's slot at a sop flit. True in the second place when the packet is discarded. -/
def State.police (s : State) (n l : Nat) (f : Flit) : State × Bool :=
  match s.active.jobSlot f.job with
  | none => (s, false)
  | some js =>
    let cfg := s.reg (R.portPolcfg n js)
    if !wbit cfg 31 || f.vc == 3 || f.vc == 4 then (s, false)
    else
      let t := s.polTokens n js
      if 0 ≤ t then
        ({ s with polT := mset 0x20000 s.polT (64 * n + js) (t - 2 * (s.chargedFab n l f.pktCells : Int)) }, false)
      else
        let c := R.portPolcnt n js
        let s := if s.reg c = 0xFFFFFFFF then s else s.count c
        if wbit cfg 30 then ((s.portMark n f.job).raise (R.portSchcause n) 0, true) else (s, false)

/-- A decision that discards a packet. -/
def dropDec (f : Flit) (pid : Nat) (commit : Bool) : RxDec :=
  let h := hdrOfBytes f.payload
  { vc := f.vc, pid := pid, hdr := h, job := f.job, dst := 0, sub := 0, mcast := false, mgroup := 0, dl := f.dl,
    drop := true, commit := commit, ep := h.dstEp, circ := none, pos := 0, last := 0, tag := f.pktTag }

/-- An accepted data flit: policed at the sop, then placed or kept for the routing decision. While the crossbar is
disabled it is held, and its packet is policed when the crossbar takes it (R66). -/
def State.acceptData (s : State) (n l j : Nat) (f : Flit) : State :=
  let held := f.sop && !s.xbarOn
  let (s, cut) := if f.sop && !held then s.police n l f else (s, false)
  let k := s.link n l
  let waits := k.rxWait.any fun g => g.vc == f.vc
  let s :=
    if held then s.setLink n l { k with rxHeld := k.rxHeld ++ [(f.vc, f.seq)] }
    else if !cut then s
    else if waits then s.setLink n l { k with rxCut := k.rxCut ++ [(f.vc, f.seq)] }
    else State.numbered (s.setLink n l { k with rxDec := k.rxDec ++ [dropDec f s.nextId false] })
  let k := s.link n l
  match k.rxDec.find? fun d => d.vc == f.vc with
  | some d => if waits || (d.drop && !s.xbarOn) then s.setLink n l { k with rxWait := k.rxWait ++ [f] } else s.placeFlit n l j d f
  | none => s.setLink n l { k with rxWait := k.rxWait ++ [f] }

/-- FLIT_RECEIVE (R84). -/
def State.receiveFlit (s : State) (n l : Nat) (f : Flit) : State :=
  match s.subportAt n l with
  | none => s
  | some (j, _) =>
    let st := (s.link n l).st
    if s.slotMode j ≠ 0 ∨ (st ≠ .up ∧ st ≠ .retraining) then s
    else
      let s := s.fromLane n l j
      let k := s.link n l
      if f.crc ≠ flitCrc f then
        ((s.incCtr (R.portPCrcfailLo n l)).setLink n l { k with testBad := true }).askReplay n l
      else
        let k := ackUpTo k f.ack
        let k := if f.crdSel = 15 then k
          else { k with txCr := mset 0 k.txCr f.crdSel (mget 0 k.txCr f.crdSel + f.crdCnt) }
        if f.ftype = 3 then s.setLink n l { k with resend := k.replay }
        else if f.ftype ≠ 0 then s.setLink n l k
        else if k.st ≠ .up then s.setLink n l k
        else if f.seq = k.rxSeq then
          let k := { k with rxSeq := (k.rxSeq + 1) % 4096, discarding := false, reqsNoProgress := 0, ackNew := true }
          (s.setLink n l k).acceptData n l j f
        else if k.discarding then s.setLink n l k
        else (s.setLink n l k).askReplay n l

/-- REPLAY_REQUEST at the transmitter: everything after the named ack goes again, in order (R84). -/
def State.replayFrom (s : State) (n l ack : Nat) : State :=
  let k := s.link n l
  if k.st = .up ∨ k.st = .retraining then
    let k := ackUpTo k (ack % 4096)
    s.setLink n l { k with resend := k.replay }
  else s

/-! ### Transmitting (R83, R85, R88, R121) -/

/-- Whether the cell at the head of its FIFO may be sent (R85). -/
def txReady (k : Link) (c : Cell) : Bool :=
  0 < mget 0 k.txCr (2 * c.vc + bnat c.dl) && (mget 0 k.txOpen c.vc == 0 || mget 0 k.txOpen c.vc == c.pid + 1)

/-- The head cell of a channel's FIFO. -/
def fifoHead (g : Egress) (vc : Nat) : Option Cell := g.fifo.find? fun c => c.vc == vc

/-- The cell to send next: MGMT first (R88), then in selection order (R121). -/
def Egress.nextTx (g : Egress) (k : Link) : Option Cell :=
  match (fifoHead g 3).filter (txReady k) with
  | some c => some c
  | none => g.sel.findSome? fun pid =>
      match g.fifo.find? fun c => c.pid == pid with
      | some c => if ((fifoHead g c.vc).map fun h => h.pid == pid).getD false && txReady k c then some c else none
      | none => none

/-- FLIT_TRANSMIT: the flit that leaves next. An aborted packet ends with a flit whose CRC fails (R74) and whose abt bit is
set (Table 4.3); the replay that the receiver asks for carries it with its right CRC (DEDUCED, log entry 51). -/
def State.transmitFlit (s : State) (n l : Nat) : State :=
  match s.subportAt n l with
  | none => s
  | some (j, _) =>
    let k := s.link n l
    let live := k.st = .up ∨ k.st = .retraining
    if s.slotMode j ≠ 0 ∨ ¬live then s
    else
      match k.ctlOut with
      | f :: r => s.sendFlit n l j { k with ctlOut := r } f false
      | [] =>
        if k.st ≠ .up then s
        else match k.resend with
        | f :: r => s.sendFlit n l j { k with resend := r } { f with crdSel := 15, crdCnt := 0 } false
        | [] =>
          let g := s.egr n l
          match if s.replaySize j ≤ k.replay.length then none else g.nextTx k with
          | none => s.sendFlit n l j k (plainFlit 1) false
          | some c =>
            let f := flitOfCell k.peerDev k.txSeq c
            let rest := match takeFirst (fun d => d.vc == c.vc) g.fifo with
              | some (_, r) => r
              | none => g.fifo
            let s := s.setEgr n l { g with fifo := rest, sel := if c.eop then g.sel.filter (· != c.pid) else g.sel }
            let key := 2 * c.vc + bnat c.dl
            let k := { k with txSeq := (k.txSeq + 1) % 4096, replay := k.replay ++ [f],
                              txCr := mset 0 k.txCr key (mget 0 k.txCr key - 1),
                              txOpen := mset 0 k.txOpen c.vc (if c.eop then 0 else c.pid + 1) }
            s.sendFlit n l j k f c.abt

/-- ACK_CONTROL_FLIT (R83). -/
def State.ackControl (s : State) (n l : Nat) : State :=
  let k := s.link n l
  if k.st = .up ∧ k.ackNew then s.setLink n l { k with ctlOut := k.ctlOut ++ [plainFlit 2] } else s

end Sys2Proof.Machine
end

