-- ==== Sys2Proof/Machine/Ni.lean ====
section
/-!
DEFINITION. The network interface instances at work (spec/04_links_and_routing.md, R87, R90 to R101): the injection of
a packet that a local client sends, the routing of a packet that arrives on a link, message slots at the source, and
table commands.
-/

namespace Sys2Proof.Machine

/-! ### Injection (R94 to R99, R102, R103) -/

/-- A DMA command of a core ends without completion (R226, R422). -/
def State.endDma (s : State) (u ord : Nat) : State :=
  let k := s.core u
  s.setCore u { k with dma := updFirst (fun d => d.ord == ord) (fun d => { d with ended := true, finished := true }) k.dma }

/-- A DMA command whose last condition of R226 holds; DMA_COMPLETE then ends it in order. -/
def State.dmaDone (s : State) (u ord : Nat) : State :=
  let k := s.core u
  s.setCore u { k with dma := updFirst (fun d => d.ord == ord) (fun d => { d with finished := true }) k.dma }

/-- What the fate of a packet means for its SIGNAL (R226): complete once the packet is in the crossbar, ended without
completion where it was not sent. -/
def State.signalled (s : State) (o : OutPkt) (entered : Bool) : State :=
  match o.sig with
  | some (u, ord) => if entered then s.dmaDone u ord else s.endDma u ord
  | none => s

/-- A message whose packet could not be sent: its DMA command ends without completion, other owners keep waiting for
the job's fault to end them (log entry 23). -/
def State.failMsg (s : State) (id : Nat) : State :=
  match s.msgs.find? fun m => m.id == id with
  | some m =>
    let s := s.dropMsg id
    match m.owner with
    | .dma u _ ord => s.endDma u ord
    | _ => s
  | none => s

/-- What PACKET_INJECT finds for a waiting packet. -/
inductive InjectAct where
  /-- translation failed (R96) -/
  | fail
  /-- waits for a message slot toward a device (R94) -/
  | noSlot (dev : Nat)
  /-- held at throttle level 3 (R103) -/
  | throttled
  | go (h : PktHdr) (opens : Option Nat) (d : Decision)
  deriving DecidableEq, Repr

/-- Translation, message slot, routing and throttling of a waiting packet. -/
def State.injectAct (s : State) (o : OutPkt) : InjectAct :=
  let h := o.pkt.hdr
  let dest := match o.xlate with
    | some slot => s.active.translate slot h.dstRank
    | none => some (h.dstDev, h.dstEp)
  match dest with
  | none => .fail
  | some (dev, ep) =>
    if s.expelled o.pkt.job dev then .fail
    else
      let h := { h with dstDev := dev, dstEp := ep }
      let m := o.msg.bind fun id => s.msgs.find? fun m => m.id == id
      let slot : Option (Nat × Nat × Option Nat) := match m with
        | none => some (h.msgSlot, h.msgSeq, none)
        | some m =>
          match m.slot with
          | some k => some (k, m.seq, none)
          | none =>
            if s.msgs.any fun w => w.waiting && w.id != m.id && w.dstDev == some dev then none
            else (s.freeSlot dev).map fun k => (k, mget 0 s.msgSeq (16 * dev + k), some k)
      match slot with
      | none => .noSlot dev
      | some (k, q, opens) =>
        let h := { h with msgSlot := k, msgSeq := q }
        let d := s.route o.src h o.pkt.vc o.pkt.job
        match d with
        | .hop j sub _ =>
          if o.pkt.vc ≠ 3 ∧ o.pkt.vc ≠ 4 ∧ s.throttle (j / 6) (s.firstLane j sub) o.pkt.tc = 3 then .throttled
          else .go h opens d
        | _ => .go h opens d

/-- The packet's cells at the input of its slot. An injected packet starts with dl = 0 and leaves its first subport so, also
where that subport has dateline = 1: R87 has a forwarding port die set dl, and an injected packet has no ingress ring
(DEDUCED, log entry 52). -/
def State.enterXbar (s : State) (src : Nat) (p : Packet) (d : Dest) (ep : Nat) (circ : Option Nat) : State :=
  let es : List XIn := (p.cells src s.nextId d false ep circ).map fun c =>
    { i := src, cell := c, link := none, left := none, gone := [], pos := c.cellIdx, last := c.pktCells }
  State.numbered { s with xbar := { s.xbar with xin := s.xbar.xin ++ es } }

/-- The effect of a decision on a packet that a client of slot `src` sends. -/
def State.applyInject (s : State) (o : OutPkt) (d : Decision) : State :=
  let p := o.pkt
  let entered : Bool := match d with
    | .hop _ _ _ => true
    | .unit _ _ => true
    | _ => false
  let s := s.signalled o entered
  match d with
  | .hop j sub circ => s.enterXbar o.src p ⟨j, sub, false, 0⟩ p.hdr.dstEp circ
  | .unit dest u => s.enterXbar o.src { p with hdr := { p.hdr with dstEp := u } } dest p.hdr.dstEp none
  | .denied =>
    let s := (s.xlateFail s.freeDie p.job).drawn
    match o.msg with
    | some id => s.failMsg id
    | none => s
  | .epFail =>
    let n := s.freeDie
    ((s.raise (R.portCause n) 4).xlateFail n p.job).drawn.commitBytes o.src o.src p.hdr p.hdr.dstEp p.job p.tc p.data.length
  | .epErr commit =>
    let s := (s.raise (R.portCause s.freeDie) 4).drawn
    if commit then s.commitBytes o.src o.src p.hdr p.hdr.dstEp p.job p.tc p.data.length else s
  | .down n => s.hopDown n p.job

/-- The packets of a slot's attachment in order, each with what the NI finds. -/
def State.injectQueue (s : State) (i : Nat) : List (OutPkt × InjectAct) :=
  (s.attach.filter fun o => o.src == i).map fun o => (o, s.injectAct o)

/-- PACKET_INJECT: the first packet of slot i that can go. While the crossbar is disabled every attachment holds its
packets (R66). -/
def State.inject (s : State) (i : Nat) : State :=
  if !s.xbarOn then s
  else
    let q := s.injectQueue i
    let s := q.foldl (fun s p => match p.1.msg, p.2 with
      | some id, .noSlot dev =>
        let wait (m : Msg) : Msg := { m with dstDev := some dev, waiting := true }
        { s with msgs := updFirst (fun m => m.id == id) wait s.msgs }
      | _, _ => s) s
    match q.find? fun p => match p.2 with
      | .go _ _ _ => true
      | .fail => true
      | _ => false with
    | none => s
    | some (o, act) =>
      let rest := match takeFirst (fun p => p == o) s.attach with
        | some (_, r) => r
        | none => s.attach
      let s := { s with attach := rest }
      match act with
      | .go h opens d =>
        let s := match o.msg, opens with
          | some id, some k => s.openMsg id h.dstDev k
          | _, _ => s
        s.applyInject { o with pkt := { o.pkt with hdr := h } } d
      | _ => s.applyInject o .denied

/-- MESSAGE_SLOT_GRANT: the message that waits first toward a device takes the lowest free slot (R94). -/
def State.grantSlot (s : State) (dev : Nat) : State :=
  match s.msgs.find? fun m => m.waiting && m.dstDev == some dev, s.freeSlot dev with
  | some m, some k => s.openMsg m.id dev k
  | _, _ => s

/-! ### Packets that arrive on a link (R87, R91, R92, R96 to R100, R387) -/

/-- The decision for a packet whose sop flit waits at subport (n, l). -/
def State.decideRx (s : State) (j : Nat) (f : Flit) : Decision :=
  let h := hdrOfBytes f.payload
  if opVc h.op ≠ some f.vc then .epErr false
  else if s.expelled f.job h.srcDev then .epErr true
  else s.route j h f.vc f.job

/-- The waiting flits of a channel, up to the eop flit of the first packet, and the rest. -/
def splitPacket (vc : Nat) : List Flit → List Flit × List Flit
  | [] => ([], [])
  | f :: r =>
    if f.vc ≠ vc then let (a, b) := splitPacket vc r; (a, f :: b)
    else if f.eop then ([f], r)
    else let (a, b) := splitPacket vc r; (f :: a, b)

/-- A decision recorded with its marks, and the flits that wait under it moved on. -/
def State.decided (s : State) (n l j : Nat) (f : Flit) (d : Decision) : State :=
  let h := hdrOfBytes f.payload
  let k := s.link n l
  let (s, late) := if k.rxHeld.contains (f.vc, f.seq) then s.police n l f else (s, false)
  let cut := late || k.rxCut.contains (f.vc, f.seq)
  let drop (commit : Bool) : RxDec := dropDec f s.nextId commit
  let go (dest : Dest) (h : PktHdr) (ep : Nat) (dl : Bool) (circ : Option Nat) : RxDec :=
    { vc := f.vc, pid := s.nextId, hdr := h, job := f.job, dst := dest.dst, sub := dest.sub, mcast := dest.mcast,
      mgroup := dest.mgroup, dl := dl, drop := false, commit := false, ep := ep, circ := circ, pos := 0, last := 0,
      tag := f.pktTag }
  let (s, dec) : State × RxDec :=
    if cut then (s, drop false)
    else match d with
    | .hop j' sub circ => (s, go ⟨j', sub, false, 0⟩ h h.dstEp (s.dateline n l j' sub f.dl) circ)
    | .unit dest u => (s, go dest { h with dstEp := u } h.dstEp (dest.mcast && f.dl) none)
    | .denied => (s.xlateFail n f.job, drop false)
    | .epFail => ((s.raise (R.portCause n) 4).xlateFail n f.job, drop true)
    | .epErr commit => (s.raise (R.portCause n) 4, drop commit)
    | .down m => (s.hopDown m f.job, drop false)
  let k := s.link n l
  let (mine, rest) := splitPacket f.vc k.rxWait
  let s := State.numbered (s.setLink n l { k with rxDec := k.rxDec ++ [dec], rxWait := rest,
                                                  rxCut := k.rxCut.filter (· != (f.vc, f.seq)),
                                                  rxHeld := k.rxHeld.filter (· != (f.vc, f.seq)) })
  mine.foldl (fun s g => s.placeFlit n l j dec g) s

/-- Flits of a packet already decided that were held while the crossbar was disabled move on (R66). -/
def State.moveHeld (s : State) (n l j : Nat) (d : RxDec) : State :=
  let k := s.link n l
  let (mine, rest) := splitPacket d.vc k.rxWait
  mine.foldl (fun s g => s.placeFlit n l j d g) (s.setLink n l { k with rxWait := rest })

/-- A flit that begins no packet where one should begin: its cell breaks R55, it is a header error, and its buffer is free
(R74). -/
def State.strayFlit (s : State) (n l : Nat) (f : Flit) : State :=
  let k := s.link n l
  let s := s.setLink n l { k with rxWait := k.rxWait.erase f }
  (s.freeRxBuffer n l f).raise R.xbarCause 0

/-- PACKET_FORWARD and PACKET_DELIVER: the routing decision for the packet that waits on a channel, where it is for
this device (`here`) or for another. While the crossbar is disabled the port die holds its flits (R66). -/
def State.decidePacket (s : State) (n l vc : Nat) (here : Bool) : State :=
  match s.subportAt n l, (s.link n l).rxWait.find? (fun f => f.vc == vc) with
  | some (j, _), some f =>
    let toHere (h : PktHdr) : Bool := (h.dstDev == s.selfDev) == here
    if !s.xbarOn then s
    else match (s.link n l).rxDec.find? fun d => d.vc == vc with
    | some d => if toHere d.hdr then s.moveHeld n l j d else s
    | none =>
      if !f.sop then s.strayFlit n l f
      else if toHere (hdrOfBytes f.payload) then s.decided n l j f (s.decideRx j f) else s
  | _, _ => s

/-! ### Table commands (R101, Table 4.17) -/

/-- A configuration set chosen by a set bit: false the active, true the shadow. -/
def State.cfg (s : State) (shadow : Bool) : CfgSet := if shadow then s.shadow else s.active
def State.setCfg (s : State) (shadow : Bool) (c : CfgSet) : State :=
  if shadow then { s with shadow := c } else { s with active := c }

/-- A write to PORTn_TBLCMD. -/
def State.writeTblcmd (s : State) (n : Nat) (w : Word) : State :=
  let sel := s.reg (R.portTblsel n)
  let shadow := wbit sel 31
  let t := wfld sel 30 28
  let slot := wfld sel 21 16
  let idx := wfld sel 9 0
  let rd := wbit w 0
  let wr := wbit w 1
  if !rd && !wr then s
  else if (rd && wr) || tblSize t ≤ idx then s.raise (R.portCause n) 5
  else if wr then
    let ws := (List.range 8).map fun k => s.reg (R.portTbldata n k)
    let s := s.setCfg shadow ((s.cfg shadow).setEntry t slot idx ws)
    if t = 4 ∧ !shadow ∧ s.xbarOn then s.syncCircuit idx else s
  else
    (List.range 8).foldl (fun s k => s.setReg (R.portTbldata n k) ((s.cfg shadow).word t slot idx k)) s

end Sys2Proof.Machine
end

