-- ==== Sys2Proof/Machine/ServingTables.lean ====
section
/-!
DEFINITION. The table entries of the serving dispatcher (spec/14_steps_and_serving.md, R336, Tables 14.5 and 14.6): core
groups and models.
-/

namespace Sys2Proof.Machine

/-- A group table entry (Table 14.6). -/
structure GroupRec where
  valid : Bool
  init : Nat
  job : Nat
  cores : List Nat
  sem : Nat
  cb : Nat
  deriving DecidableEq, Repr

def parseGroup (b : List Byte) : GroupRec :=
  { valid := nbit (leAt b 0 1) 0, init := leAt b 1 1, job := leAt b 2 2 % 4096, cores := setBits 80 (leAt b 4 10),
    sem := leAt b 14 2 % 1024, cb := leAt b 16 5 }

/-- A model table entry (Table 14.5). -/
structure ModelRec where
  valid : Bool
  fixed : Bool
  fixGrp : Nat
  job : Nat
  prog : Nat
  params : Nat
  quantum : Nat
  maxBatch : Nat
  waitUs : Nat
  ageMs : Nat
  qlimit : Nat
  groups : List Nat
  deriving DecidableEq, Repr

def parseModel (b : List Byte) : ModelRec :=
  { valid := nbit (leAt b 0 1) 0, fixed := nbit (leAt b 0 1) 1, fixGrp := leAt b 1 1, job := leAt b 2 2 % 4096,
    prog := leAt b 4 4 % 2 ^ 18, params := leAt b 8 8 % 2 ^ 48, quantum := leAt b 16 1, maxBatch := leAt b 17 1,
    waitUs := leAt b 18 1, ageMs := leAt b 19 1, qlimit := leAt b 20 2, groups := setBits 80 (leAt b 22 10) }

def CfgSet.group (c : CfgSet) (g : Nat) : GroupRec := parseGroup (mget (zeros 32) c.groups g)
def CfgSet.model (c : CfgSet) (m : Nat) : ModelRec := parseModel (mget (zeros 32) c.models m)

def State.groupRec (s : State) (g : Nat) : GroupRec := s.active.group g
def State.modelRec (s : State) (m : Nat) : ModelRec := s.active.model m

/-- Whether a job receives buffers from the dispatcher: it has a core group. -/
def State.jobServes (s : State) (job : Nat) : Bool :=
  (List.range 80).any fun g => (s.groupRec g).valid && (s.groupRec g).job == job

end Sys2Proof.Machine
end

