-- ==== Sys2Proof/Machine/MemSys.lean ====
section
/-!
DEFINITION. Memory, translation, pagers and the buffer pool manager (spec/11_memory_and_pools.md, R268 to R290).
-/

namespace Sys2Proof.Machine

/-! ### Device physical addresses and error correction (R269 to R273) -/

/-- The tile die that owns a DPA. -/
def dpaDie (a : Nat) : Nat := a / 2 ^ 35

/-- The row of Table 11.2 an offset lies in: 0 HBM, 1 die store. -/
def dpaRow (a : Nat) : Option Nat :=
  let o := a % 2 ^ 35
  if o < 0x600000000 then some 0
  else if o < 0x602000000 then some 1
  else none

/-- R273. -/
def State.dpaValid (s : State) (a : Nat) : Bool := dpaDie a < s.tiles && (dpaRow a).isSome

/-- Whether n bytes from a DPA lie in one row of one tile die. -/
def State.dpaSpan (s : State) (a n : Nat) : Bool :=
  s.dpaValid a && (n == 0 || (s.dpaValid (a + n - 1) && dpaDie (a + n - 1) == dpaDie a && dpaRow (a + n - 1) == dpaRow a))

/-- The first uncorrectable 64-bit word that a range of a memory touches. -/
def State.ueIn (s : State) (sp : MemSpace) (a n : Nat) : Option Nat :=
  if n = 0 then none
  else (s.ue.find? fun w => w.1 == sp && a / 8 ≤ w.2 / 8 && w.2 / 8 ≤ (a + n - 1) / 8).map (·.2)

/-- The first uncorrectable word that a write covers only in part (R269). -/
def State.uePartial (s : State) (sp : MemSpace) (a n : Nat) : Option Nat :=
  if n = 0 then none
  else (s.ue.find? fun w => w.1 == sp && a / 8 ≤ w.2 / 8 && w.2 / 8 ≤ (a + n - 1) / 8
      && !(a ≤ w.2 / 8 * 8 && w.2 / 8 * 8 + 8 ≤ a + n)).map (·.2)

/-- Words that a write covers whole hold no error any more (R269). -/
def State.healed (s : State) (sp : MemSpace) (a n : Nat) : State :=
  { s with ue := s.ue.filter fun w => !(w.1 == sp && a ≤ w.2 / 8 * 8 && w.2 / 8 * 8 + 8 ≤ a + n) }

/-- TDn_MEMFAULT takes a fault only while it holds none (R291). A fault that names no job stands here alone. -/
def State.memRecord (s : State) (n code job agent kind addr : Nat) : State :=
  let s :=
    if s.reg (R.tdMemfault0 n) = 0 then
      ((s.setReg (R.tdMemfault0 n) (atFld 31 24 code ||| atFld 23 12 job ||| atFld 11 9 agent ||| atFld 8 8 kind)).setReg
        (R.tdMemfault1 n) (BitVec.ofNat 32 addr)).setReg (R.tdMemfault2 n) (atFld 15 0 (addr / 2 ^ 32))
    else s
  s.raise (R.tdMemcause n) (if code = fcEccUe then 2 else 1)

/-- The die that records what an address meets: the one the address names, or tile die 0 where there is none of that number
(DESIGN CHOICE, log entry 133). -/
def State.dieOf (s : State) (a : Nat) : Nat := if dpaDie a < s.tiles then dpaDie a else 0

/-- A job-ending fault for whose job Hyzacia has to send a notice (R192), once however often it is met before the notice. It
does so also where the record of the die holds another fault (DEDUCED, log entry 131). -/
def State.owe (s : State) (o : Owed) : State := if s.owed.contains o then s else { s with owed := s.owed ++ [o] }

/-- A fault that ends its job (R271, R275). -/
def State.memFault (s : State) (n code job agent kind addr : Nat) : State :=
  (s.memRecord n code job agent kind addr).owe { site := .mem, n := n, job := job, code := code }

/-- A read or partial write that met an uncorrectable word of HBM or die store (R271). -/
def State.dpaUe (s : State) (a job agent : Nat) : State := s.memFault (dpaDie a) fcEccUe job agent 1 (a / 8 * 8)

/-- The same of an access that belongs to no job: of the scrub, of a buffer of the BPM, of a telemetry record, of a move by
Hyzacia. -/
def State.dpaFound (s : State) (a agent : Nat) : State := s.memRecord (dpaDie a) fcEccUe 0 agent 1 (a / 8 * 8)

/-! ### Translation (R274 to R277, Table 11.3) -/

/-- What a walk answers. -/
inductive Walk where
  | deny
  /-- a remote-home page that is not PRESENT: where its leaf stands -/
  | remote (leafAt : Nat)
  /-- the table entry at this DPA is uncorrectable -/
  | ue (entry : Nat)
  | ok (dpa : Nat)
  deriving DecidableEq, Repr

/-- A 64-bit word at a DPA. -/
def State.dpaDword (s : State) (a : Nat) : Nat := leNat (rdBytes s.dpa a 8)

/-- Root of a job slot: the DPA of its first table, where it has an address space. -/
def State.atuRoot (s : State) (j : Nat) : Option Nat :=
  let lo := s.reg (R.tdAtuRootLo 0 j)
  if wbit lo 0 then some (wfld lo 31 12 * 4096 + s.fld (R.tdAtuRootHi 0 j) 7 0 * 2 ^ 32) else none

/-- A table entry: the next table. -/
def State.tableStep (s : State) (t idx : Nat) : Option Nat :=
  let a := t + 8 * idx
  if !s.dpaValid a || (s.ueIn .dpa a 8).isSome then none
  else
    let e := s.dpaDword a
    if nbit e 63 && nbits e 40 23 == 0 && nbits e 0 12 == 0 then some (nbits e 12 28 * 4096) else none

/-- Where the leaf of a va stands. -/
def State.leafAddr (s : State) (j va : Nat) : Option Nat :=
  if 2 ^ 48 ≤ va then none
  else
    ((s.atuRoot j).bind fun t => s.tableStep t (nbits va 39 9)).bind fun t =>
      (s.tableStep t (nbits va 30 9)).bind fun t =>
        let a := t + 8 * nbits va 21 9
        if s.dpaValid a && (s.ueIn .dpa a 8).isNone then some a else none

/-- The uncorrectable table entry that a walk meets (R269, R271). -/
def State.walkUe (s : State) (j va : Nat) : Option Nat :=
  if 2 ^ 48 ≤ va then none
  else match s.atuRoot j with
  | none => none
  | some t1 =>
    let bad (t idx : Nat) : Bool := s.dpaValid (t + 8 * idx) && (s.ueIn .dpa (t + 8 * idx) 8).isSome
    if bad t1 (nbits va 39 9) then some (t1 + 8 * nbits va 39 9)
    else match s.tableStep t1 (nbits va 39 9) with
    | none => none
    | some t2 =>
      if bad t2 (nbits va 30 9) then some (t2 + 8 * nbits va 30 9)
      else match s.tableStep t2 (nbits va 30 9) with
      | none => none
      | some t3 => if bad t3 (nbits va 21 9) then some (t3 + 8 * nbits va 21 9) else none

/-- Fields of a leaf. -/
def leafValid (e : Nat) : Bool := nbit e 63
def leafRh (e : Nat) : Bool := nbit e 62
def leafWr (e : Nat) : Bool := nbit e 61
def leafRank (e : Nat) : Nat := nbits e 40 20
def leafFrame (e : Nat) : Nat := nbits e 21 19 * 2 ^ 21
def leafRs (e : Nat) : Nat := nbits e 0 2

/-- Valid, and its reserved bits zero: rs 3 is reserved, and home_rank and rs are zero where rh is (Table 11.3). -/
def leafOk (e : Nat) : Bool :=
  leafValid e && !nbit e 60 && nbits e 2 19 == 0 && leafRs e != 3
    && (leafRh e || (leafRank e == 0 && leafRs e == 0))

/-- The end of a walk at a leaf. A frame is 2 MiB and a multiple of 2 MiB, so it lies in one row of Table 11.2 (R273). -/
def State.useLeaf (s : State) (e leafAt va : Nat) (write : Bool) : Walk :=
  if !leafOk e then .deny
  else if write && !leafWr e then .deny
  else if !s.dpaValid (leafFrame e) then .deny
  else if leafRh e && leafRs e != 2 then .remote leafAt
  else .ok (leafFrame e + va % 2 ^ 21)

/-- The carving of a pool (R285, R286). -/
def poolSize (k : Nat) : Nat := 256 * 4 ^ k
def State.poolCount (s : State) (k : Nat) : Nat := s.fld (R.bpmPoolCount k) 16 0
def State.poolBase (s : State) (k : Nat) : Nat := s.reg64 (R.bpmPoolBaseLo k) (R.bpmPoolBaseHi k)
def State.poolVbase (s : State) (k : Nat) : Nat := s.reg64 (R.bpmPoolVbaseLo k) (R.bpmPoolVbaseHi k)

/-- The frame that Hyzacia maps at the page of a va: of a pool's region, in a job that receives buffers from the dispatcher
(R290). The mapping stands while the BPM is enabled and goes before what the job's tables hold there; the leaves that
Hyzacia writes for it stand at no DPA of the model, since R290 does not say where (DESIGN CHOICE, log entry 128). -/
def State.poolFrame (s : State) (j va : Nat) : Option Nat :=
  let w := s.active.word 1 0 j 0
  if !(s.bit R.bpmCtl 0 && wbit w 31 && s.jobServes (wfld w 11 0)) then none
  else (List.range 8).findSome? fun k =>
    let v := s.poolVbase k
    if v ≤ va ∧ va - v < cdiv (s.poolCount k * poolSize k) (2 ^ 21) * 2 ^ 21 then
      some (s.poolBase k + (va - v) / 2 ^ 21 * 2 ^ 21) else none

/-- A leaf with wr = 1 and rh = 0. -/
def plainLeaf (frame : Nat) : Nat := 2 ^ 63 + 2 ^ 61 + frame

/-- The leaf of a va, of a pool or of the job's tables. -/
def State.leafOf (s : State) (j va : Nat) : Option Nat :=
  match s.poolFrame j va with
  | some f => some (plainLeaf f)
  | none => (s.leafAddr j va).map s.dpaDword

/-- R274 on the tables as they stand, and on the mapped pools. -/
def State.walk (s : State) (j va : Nat) (write : Bool) : Walk :=
  match s.poolFrame j va with
  | some f => s.useLeaf (plainLeaf f) 0 va write
  | none =>
    match s.walkUe j va, s.leafAddr j va with
    | some e, _ => .ue e
    | none, none => .deny
    | none, some a => s.useLeaf (s.dpaDword a) a va write

/-- Whether a leaf may be cached (R276). -/
def leafCached (e : Nat) : Bool := leafOk e && (!leafRh e || leafRs e == 2)

/-- R276: translation by tile die n. A leaf used before and changed since may still be used until the invalidation has
completed; which of the two is a free choice (log entry 24). -/
def State.translateVa (s : State) (n j va : Nat) (write : Bool) : State × Walk :=
  let page := va / 2 ^ 21
  let now := s.walk j va write
  let leaf := s.leafOf j va
  let mine (e : AtuEntry) : Bool := e.n == n && e.slot == j && e.page == page
  match s.atu.find? mine with
  | some old =>
    if leaf == some old.leaf.toNat then (s, now)
    else if Config.freeBit s.freeCtr then (s.drawn, s.useLeaf old.leaf.toNat 0 va write)
    else (s.drawn, now)
  | none =>
    match leaf with
    | some e =>
      if leafCached e then
        ({ s with atu := s.atu ++ [{ n := n, slot := j, page := page, leaf := BitVec.ofNat 64 e }] }, now)
      else (s, now)
    | none => (s, now)

/-- A range of a virtual space cut at page boundaries; `fuel` bounds the pieces. -/
def vaPieces : Nat → Nat → Nat → List (Nat × Nat)
  | 0, _, _ => []
  | f + 1, va, n =>
    if n = 0 then []
    else
      let k := min n (2 ^ 21 - va % 2 ^ 21)
      (va, k) :: vaPieces f (va + k) (n - k)

/-- What an access to a virtual range comes to. -/
inductive VaRes where
  /-- pieces of physical memory, in order: DPA and length -/
  | ok (ps : List (Nat × Nat))
  | refused (va : Nat)
  | remote (leafAt va : Nat)
  /-- an uncorrectable table entry -/
  | ue (entry : Nat)
  deriving DecidableEq, Repr

/-- Translation of every page of a range, in order, up to the first that stops. -/
def State.translateRange (s : State) (n j : Nat) (write : Bool) : List (Nat × Nat) → List (Nat × Nat) → State × VaRes
  | [], acc => (s, .ok acc)
  | (va, k) :: r, acc =>
    match s.translateVa n j va write with
    | (s, .ok a) => State.translateRange s n j write r (acc ++ [(a, k)])
    | (s, .deny) => (s, .refused va)
    | (s, .remote leaf) => (s, .remote leaf va)
    | (s, .ue e) => (s, .ue e)

/-- Translation of a va range by tile die n. -/
def State.vaRange (s : State) (n j va len : Nat) (write : Bool) : State × VaRes :=
  s.translateRange n j write (vaPieces (len / 2 ^ 21 + 2) va len) []

/-- The bytes of physical pieces, or the uncorrectable word met first. -/
def State.readPieces (s : State) (ps : List (Nat × Nat)) : Except Nat (List Byte) :=
  match ps.findSome? fun p => s.ueIn .dpa p.1 p.2 with
  | some a => .error a
  | none => .ok (ps.flatMap fun p => rdBytes s.dpa p.1 p.2)

/-- Bytes stored in physical pieces; nothing is stored where a partly covered word is uncorrectable: a DMA command then
ends without transfer (R271), and a landing chunk is not written (R184). -/
def State.writePieces (s : State) (ps : List (Nat × Nat)) (bs : List Byte) : Except Nat State :=
  match ps.findSome? fun p => s.uePartial .dpa p.1 p.2 with
  | some a => .error a
  | none =>
    let r := ps.foldl (fun (q : State × List Byte) p =>
      ((State.healed { q.1 with dpa := wrBytes q.1.dpa p.1 (q.2.take p.2) } .dpa p.1 p.2), q.2.drop p.2)) (s, bs)
    .ok r.1

/-- The bytes of a piece that stand in words which the write can replace or merge: a partly covered uncorrectable word
stays as it was, the other words are stored (R269). -/
def State.writeGood (s : State) (a : Nat) (bs : List Byte) : State :=
  let n := bs.length
  let bad : List Nat := (s.ue.filter fun w => w.1 == .dpa && a / 8 ≤ w.2 / 8 && w.2 / 8 ≤ (a + n - 1) / 8
    && !(a ≤ w.2 / 8 * 8 && w.2 / 8 * 8 + 8 ≤ a + n)).map fun w => w.2 / 8
  let mixed := bs.zipIdx.map fun p => if bad.contains ((a + p.2) / 8) then rdByte s.dpa (a + p.2) else p.1
  State.healed { s with dpa := wrBytes s.dpa a mixed } .dpa a n

/-- Bytes of a packet stored in physical pieces, word by word, and the first uncorrectable word it covers in part. -/
def State.writeWords (s : State) (ps : List (Nat × Nat)) (bs : List Byte) : State × Option Nat :=
  let bad := ps.findSome? fun p => s.uePartial .dpa p.1 p.2
  ((ps.foldl (fun (q : State × List Byte) p => (q.1.writeGood p.1 (q.2.take p.2), q.2.drop p.2)) (s, bs)).1, bad)

/-- A physical range as one piece. -/
def State.writeDpa (s : State) (a : Nat) (bs : List Byte) : State :=
  State.healed { s with dpa := wrBytes s.dpa a bs } .dpa a bs.length

/-- A refused translation: DENIED with the job and the va (R275). -/
def State.vaDenied (s : State) (n job agent va : Nat) : State := s.memFault n fcDenied job agent 0 va

/-! ### Inbound memory operations (R284, Table 11.6) -/

/-- The first packet delivered to a slot that satisfies a predicate, and the state without it. -/
def State.takeArrival (s : State) (slot : Nat) (p : Arrival → Bool) : Option (Arrival × State) :=
  (takeFirst (fun a => a.slot == slot && p a) s.inbox).map fun (a, r) => (a, { s with inbox := r })

/-- Store an arriving packet's data through translation, for WRITE, CIRC_WRITE and PAGE_WB. -/
def State.storeArrival (s : State) (n : Nat) (a : Arrival) (home : Bool) : State :=
  let h := a.pkt.hdr
  let va := h.addr + h.byteOff
  let job := a.pkt.job
  let agent := if home then 5 else 4
  match s.active.jobSlot job with
  | none => s.vaDenied n job agent va
  | some j =>
    match s.vaRange n j va a.pkt.data.length true with
    | (s, .ok ps) =>
      let rh := ((s.leafOf j va).map leafRh).getD false
      if home && rh then s.vaDenied n job agent va
      else match s.writeWords ps a.pkt.data with
        | (s, none) => s
        | (s, some w) => s.dpaUe w job agent
    | (s, .refused bad) => s.vaDenied n job agent bad
    | (s, .remote _ bad) => s.vaDenied n job agent bad
    | (s, .ue w) => s.dpaUe w job agent

/-- Packets of one message, 15,328 data bytes each but the last (R279). -/
def messageParts (bs : List Byte) : List (Nat × List Byte) :=
  ((chunks 15328 (bs.length / 15328 + 1) bs).zipIdx).map fun p => (15328 * p.2, p.1)

/-- A message of packets with one header, put into the attachment of a slot. -/
def State.sendParts (s : State) (slot : Nat) (o : Owner) (dev : Option Nat) (xlate : Option Nat) (h : PktHdr)
    (vc tc job : Nat) (parts : List (Nat × List Byte)) : State :=
  let id := s.nextId
  let s := s.newMsg o dev
  parts.foldl (fun s p => s.attachPkt slot (some id) xlate
    { hdr := { h with byteOff := p.1 }, vc := vc, tc := tc, job := job, tag := 0, abt := false, data := p.2 }) s

/-- The header of an answer to a request: back to the source, ranks swapped. -/
def State.answerHdr (s : State) (op : Nat) (a : Arrival) : PktHdr :=
  let h := a.pkt.hdr
  { PktHdr.zero op with dstDev := h.srcDev, dstEp := h.srcEp, srcDev := s.selfDev, srcEp := a.ep,
                        srcRank := h.dstRank, dstRank := h.srcRank, flow := h.flow, addr := h.addr }

/-- WRITE at a tile die: its data go to addr + byte_off; written or discarded, they count as committed. -/
def State.inboundWrite (s : State) (n : Nat) : State :=
  match s.takeArrival (s.tileSlot n) fun a => a.pkt.hdr.op == opWrite || a.pkt.hdr.op == opCircWrite with
  | none => s
  | some (a, s) => (s.storeArrival n a false).commitArrival a

/-- The bytes of a piece, none for those of an uncorrectable word. -/
def State.readGood (s : State) (a n : Nat) : List (Option Byte) :=
  let bad : List Nat := (s.ue.filter fun w => w.1 == .dpa && a / 8 ≤ w.2 / 8 && w.2 / 8 ≤ (a + n - 1) / 8).map fun w => w.2 / 8
  (rdBytes s.dpa a n).zipIdx.map fun p => if bad.contains ((a + p.2) / 8) then none else some p.1

/-- The READ_RSP message of a range with uncorrectable words: a packet whose data meet one ends there, aborted (R271; log
entry 75). -/
def State.sendAborted (s : State) (n : Nat) (a : Arrival) (job : Nat) (bs : List (Option Byte)) : State :=
  let h := { s.answerHdr opReadRsp a with msgBytes := a.pkt.hdr.msgBytes }
  let id := s.nextId
  let s := s.newMsg .served (some a.pkt.hdr.srcDev)
  ((chunks 15328 (bs.length / 15328 + 1) bs).zipIdx).foldl (fun s p =>
    let good := (p.1.takeWhile Option.isSome).map (·.getD 0)
    s.attachPkt (s.tileSlot n) (some id) none
      { hdr := { h with byteOff := 15328 * p.2 }, vc := 1, tc := a.pkt.tc, job := job, tag := 0,
        abt := good.length < p.1.length, data := good }) s

/-- READ_REQ at the responder: 1 to 16,777,216 bytes answered as one READ_RSP message, while the crossbar is enabled (R66;
log entry 129). -/
def State.inboundReadReq (s : State) (n : Nat) : State :=
  match s.takeArrival (s.tileSlot n) fun a => s.xbarOn && a.pkt.hdr.op == opReadReq with
  | none => s
  | some (a, s) =>
    let h := a.pkt.hdr
    let job := a.pkt.job
    if h.msgBytes = 0 ∨ 16777216 < h.msgBytes then s
    else match s.active.jobSlot job with
    | none => s.vaDenied n job 4 h.addr
    | some j =>
      match s.vaRange n j h.addr h.msgBytes false with
      | (s, .ok ps) =>
        (match s.readPieces ps with
         | .ok bs =>
           s.sendParts (s.tileSlot n) .served (some h.srcDev) none
             { s.answerHdr opReadRsp a with msgBytes := h.msgBytes } 1 a.pkt.tc job (messageParts bs)
         | .error w => (s.dpaUe w job 4).sendAborted n a job (ps.flatMap fun p => s.readGood p.1 p.2))
      | (s, .refused bad) => s.vaDenied n job 4 bad
      | (s, .remote _ bad) => s.vaDenied n job 4 bad
      | (s, .ue w) => s.dpaUe w job 4

/-! ### Remote-home pages (R278 to R283) -/

/-- The job number of a job slot. -/
def State.slotJob (s : State) (slot : Nat) : Nat := wfld (s.active.word 1 0 slot 0) 11 0

/-- Data of a pager, a home or the ring written at a DPA: words that the write covers in part and that are
uncorrectable stay, and the first of them is reported (R269, R271). -/
def State.putReported (s : State) (a : Nat) (bs : List Byte) (job agent : Nat) : State :=
  match s.writeWords [(a, bs.length)] bs with
  | (s, none) => s
  | (s, some w) => s.dpaUe w job agent

/-- The leaf of a job slot's page at an address with rs replaced: the one field the device writes (R275). The two bits
cover their 64-bit word in part, so an uncorrectable leaf stays as it is and is reported (R269); the pager goes on (log
entry 57). -/
def State.setRs (s : State) (slot leafAt rs : Nat) : State :=
  s.putReported leafAt [BitVec.ofNat 8 (s.dpaDword leafAt % 256 / 4 * 4 + rs)] (s.slotJob slot) 5

/-- Fetches a pager serves now. -/
def State.activeFetches (s : State) (n : Nat) : Nat := countWhere (fun f => f.n == n && f.active) s.fetches

/-- The DMA command of an engine that stalls on a page meets a refused fetch: it ends with DENIED when its engine goes on
(R275, Table 11.4). -/
def State.refuseStalled (s : State) (u eng : Nat) : State :=
  let k := s.core u
  s.setCore u { k with dma := updFirst (fun o => o.eng == eng && o.stalled.isSome) (fun o => { o with refused := true }) k.dma }

/-- A fetch that begins: rs FETCHING and a PAGE_FETCH to the home rank. Where the pager has no endpoint the fetch is
refused, and with it every command that waits for the page. -/
def State.startFetch (s : State) (f : Fetch) : State :=
  let e := s.reg (R.tdPgep f.n f.slot)
  let others := s.fetches.filter fun g => !(g.n == f.n && g.slot == f.slot && g.va == f.va)
  if !wbit e 31 then
    f.waiters.foldl (fun s w => s.refuseStalled w.1 w.2)
      (State.vaDenied { s with fetches := others } f.n (s.slotJob f.slot) 5 f.va)
  else
    let s := State.setRs { s with fetches := others ++ [{ f with active := true }] } f.slot f.leafAt 1
    s.attachPkt (s.tileSlot f.n) none (some f.slot)
      { hdr := { PktHdr.zero opPageFetch with srcDev := s.selfDev, srcEp := wfld e 9 0, dstRank := f.rank, addr := f.va },
        vc := 0, tc := ownClass, job := s.slotJob f.slot, tag := 0, abt := false, data := [] }

/-- The touch that a pager takes next: in arrival order, while fewer than four fetches run (R278), none whose page is
being released (R280). -/
def State.waitingFetch (s : State) (n : Nat) : Option Fetch :=
  if 4 ≤ s.activeFetches n then none
  else s.fetches.find? fun f => f.n == n && !f.active && !(s.wbs.any fun w => w.n == n && w.slot == f.slot && w.va == f.va)

/-- A pager starts waiting fetches, at most `fuel` of them. -/
def State.startFetches (n : Nat) : Nat → State → State
  | 0, s => s
  | fuel + 1, s =>
    match s.waitingFetch n with
    | some f => State.startFetches n fuel (s.startFetch f)
    | none => s

/-- A pager starts every fetch that can start now. -/
def State.nextFetch (s : State) (n : Nat) : State := State.startFetches n s.fetches.length s

/-- PAGE_TOUCH (R278): a DMA command of (u, eng) waits for the page; the pager of the die that owns the frame fetches. -/
def State.touchPage (s : State) (slot va leafAt u eng : Nat) : State :=
  let page := va - va % 2 ^ 21
  let e := s.dpaDword leafAt
  let n := dpaDie (leafFrame e)
  let mine (f : Fetch) : Bool := f.n == n && f.slot == slot && f.va == page
  if s.fetches.any mine then
    { s with fetches := updFirst mine (fun f =>
        { f with waiters := if f.waiters.contains (u, eng) then f.waiters else f.waiters ++ [(u, eng)] }) s.fetches }
  else
    let f : Fetch := { n := n, slot := slot, va := page, leafAt := leafAt, frame := leafFrame e, rank := leafRank e,
                       active := false, got := 0, waiters := [(u, eng)] }
    State.nextFetch { s with fetches := s.fetches ++ [f] } n

/-- The packets of a page as far as the sending goes: it stops before the packet that meets an uncorrectable word (R271;
log entry 58), which is answered as well. -/
def State.pageParts (s : State) (ps : List (Nat × Nat)) : List (Nat × List Byte) × Option Nat :=
  match s.readPieces ps with
  | .ok bs => (messageParts bs, none)
  | .error w =>
    let good := ((ps.flatMap fun p => s.readGood p.1 p.2).takeWhile Option.isSome).map (·.getD 0)
    ((messageParts good).filter fun p => p.2.length == 15328, some w)

/-- PAGE_FETCH at the home (R279), while the crossbar is enabled (R66; log entry 129). -/
def State.servePage (s : State) (n : Nat) : State :=
  match s.takeArrival (s.tileSlot n) fun a => s.xbarOn && a.pkt.hdr.op == opPageFetch with
  | none => s
  | some (a, s) =>
    let va := a.pkt.hdr.addr
    let job := a.pkt.job
    match s.active.jobSlot job with
    | none => s.vaDenied n job 5 va
    | some j =>
      match s.vaRange n j va 0x200000 false with
      | (s, .ok ps) =>
        let rh := ((s.leafOf j va).map leafRh).getD true
        if rh || va % 2 ^ 21 != 0 then s.vaDenied n job 5 va
        else
          let r := s.pageParts ps
          let s := match r.2 with
            | some w => s.dpaUe w job 5
            | none => s
          s.sendParts (s.tileSlot n) .served (some a.pkt.hdr.srcDev) none
            { s.answerHdr opPageData a with msgBytes := 0x200000 } 1 a.pkt.tc job r.1
      | (s, .refused bad) => s.vaDenied n job 5 bad
      | (s, .remote _ bad) => s.vaDenied n job 5 bad
      | (s, .ue w) => s.dpaUe w job 5

/-- PAGE_DATA at the pager that fetches (R278, R279): stray data are discarded, and count as committed. Data whose place is no
valid DPA are refused with DENIED (R273): they are not written and the page does not count them. -/
def State.pageData (s : State) (n : Nat) : State :=
  match s.takeArrival (s.tileSlot n) fun a => a.pkt.hdr.op == opPageData with
  | none => s
  | some (a, s) =>
    let h := a.pkt.hdr
    let mine (f : Fetch) : Bool :=
      f.n == n && f.active && f.va == h.addr && s.slotJob f.slot == a.pkt.job
    let s := match s.fetches.find? mine with
      | none => s
      | some f =>
        let at_ := f.frame + h.byteOff
        if !s.dpaSpan at_ a.pkt.data.length then s.memFault n fcDenied a.pkt.job 5 1 at_ else
        let s := s.putReported at_ a.pkt.data a.pkt.job 5
        let got := f.got + a.pkt.data.length
        if got < 0x200000 then
          { s with fetches := updFirst mine (fun f => { f with got := got }) s.fetches }
        else
          let s := { s with fetches := s.fetches.filter fun g => !mine g }
          ((s.setRs f.slot f.leafAt 2).incCtr (R.tdPgfetchLo n)).nextFetch n
    s.commitArrival a

/-- PAGE_WB at the home (R280). -/
def State.pageWb (s : State) (n : Nat) : State :=
  match s.takeArrival (s.tileSlot n) fun a => a.pkt.hdr.op == opPageWb with
  | none => s
  | some (a, s) => (s.storeArrival n a true).commitArrival a

/-- The end of a release: rs ABSENT, and a touch that waited starts its fetch. -/
def State.releaseDone (s : State) (n slot va leafAt : Nat) (wrote : Bool) : State :=
  let s := s.setRs slot leafAt 0
  let s := if wrote then s.incCtr (R.tdPgwbLo n) else s
  let s := { s with wbs := s.wbs.filter fun w => !(w.n == n && w.slot == slot && w.va == va) }
  s.nextFetch n

/-- Release of a page on the die that owns its frame (R280): a writable page goes home whole first. -/
def State.releasePage (s : State) (n slot va : Nat) : State :=
  let va := va - va % 2 ^ 21
  match s.leafAddr slot va with
  | none =>
    match s.walkUe slot va with
    | some w => s.dpaUe w (s.slotJob slot) 5
    | none => s
  | some t =>
    let e := s.dpaDword t
    if !(leafOk e && leafRh e && leafRs e == 2 && dpaDie (leafFrame e) == n)
        || (s.wbs.any fun w => w.n == n && w.slot == slot && w.va == va) then s
    else if !leafWr e then s.releaseDone n slot va t false
    else
      let ep := s.reg (R.tdPgep n slot)
      let job := s.slotJob slot
      let h := { PktHdr.zero opPageWb with srcDev := s.selfDev, srcEp := wfld ep 9 0, dstRank := leafRank e, addr := va,
                                           msgBytes := 0x200000 }
      if !(wbit ep 31 && s.dpaValid (leafFrame e)) then s.vaDenied n job 5 va
      else match s.pageParts [(leafFrame e, 0x200000)] with
        | (parts, some w) => (s.dpaUe w job 5).sendParts (s.tileSlot n) .served none (some slot) h 0 ownClass job parts
        | (parts, none) =>
          let w : WriteBack := { n := n, slot := slot, va := va, leafAt := t }
          let s := { s with wbs := s.wbs ++ [w] }
          s.sendParts (s.tileSlot n) (.writeBack n slot va) none (some slot) h 0 ownClass job parts

/-- Valid entries of a table: index and entry. -/
def State.tableEntries (s : State) (t : Nat) : List (Nat × Nat) :=
  (List.range 512).filterMap fun i =>
    let e := s.dpaDword (t + 8 * i)
    if nbit e 63 then some (i, e) else none

/-- The remote-home pages of a job slot whose frame a die owns. -/
def State.remotePages (s : State) (n slot : Nat) : List Nat :=
  match s.atuRoot slot with
  | none => []
  | some t1 =>
    (s.tableEntries t1).flatMap fun (i, e1) => (s.tableEntries (nbits e1 12 28 * 4096)).flatMap fun (k, e2) =>
      (s.tableEntries (nbits e2 12 28 * 4096)).filterMap fun (m, e) =>
        if leafOk e && leafRh e && dpaDie (leafFrame e) == n then some (i * 2 ^ 39 + k * 2 ^ 30 + m * 2 ^ 21) else none

/-- R281: every remote-home page of the job on the die is released. -/
def State.releaseJob (s : State) (n slot : Nat) : State :=
  (s.remotePages n slot).foldl (fun s va => s.releasePage n slot va) s

/-- The DMA command that stalls on a page ends without transfer and without completion (R283). -/
def State.endStalled (s : State) (u eng : Nat) : State :=
  let k := s.core u
  let stop (o : DmaOp) : DmaOp := { o with stalled := none, dest := none, finished := true, ended := true }
  s.setCore u { k with dma := updFirst (fun o => o.eng == eng && o.stalled.isSome) stop k.dma }

/-- R283: every fetch and write-back of the job on the die ends. -/
def State.abortPager (s : State) (n slot : Nat) : State :=
  let mine := s.fetches.filter fun f => f.n == n && f.slot == slot
  let s := { s with fetches := s.fetches.filter fun f => !(f.n == n && f.slot == slot) }
  let s := mine.foldl (fun s f =>
    let s := if f.active then s.setRs f.slot f.leafAt 0 else s
    f.waiters.foldl (fun s w => s.endStalled w.1 w.2) s) s
  let gone := s.msgs.filter fun m => match m.owner with
    | .writeBack k j _ => k == n && j == slot
    | _ => false
  let s := gone.foldl (fun s m => s.dropMsg m.id) s
  State.nextFetch { s with wbs := s.wbs.filter fun w => !(w.n == n && w.slot == slot) } n

/-- A write to TDn_PGCMD, by its cmd. -/
def State.writePgcmd (s : State) (n : Nat) (w : Word) : State :=
  let slot := wfld w 5 0
  let cmd := wfld w 31 30
  if s.tiles ≤ n then s
  else if cmd = 1 then s.releasePage n slot (s.reg64 (R.tdPgvaLo n) (R.tdPgvaHi n))
  else if cmd = 2 then s.releaseJob n slot
  else if cmd = 3 then s.abortPager n slot
  else s

/-- TDn_PGSTAT.busy. -/
def State.pagerBusy (s : State) (n : Nat) : Bool := (s.fetches.any fun f => f.n == n) || s.wbs.any fun w => w.n == n

/-! ### Invalidation (R276) and scrub (R272) -/

/-- A write to TDn_ATU_INV; 64 stands for every slot. -/
def State.writeAtuInv (s : State) (n : Nat) (w : Word) : State :=
  if wbit w 31 ∧ n < s.tiles then
    { s with atuBusy := s.atuBusy ++ [(n, if wbit w 30 then 64 else wfld w 5 0)] }
  else s

/-- ATU_INV_COMPLETE: the oldest invalidation of a die ends, and with it the use of old entries. -/
def State.atuInvDone (s : State) (n : Nat) : State :=
  match takeFirst (fun b => b.1 == n) s.atuBusy with
  | none => s
  | some (b, r) =>
    { s with atuBusy := r, atu := s.atu.filter fun e => !(e.n == n && (b.2 == 64 || e.slot == b.2)) }

/-- A job slot's cached translations dropped on every tile die (R276, R280). -/
def State.dropCached (s : State) (slot : Nat) : State := { s with atu := s.atu.filter fun e => e.slot != slot }

/-! ### The buffer pool manager (R285 to R290) -/

def State.poolHeld (s : State) (k : Nat) : Nat := countWhere (fun b => b.1 == k) s.poolUsed
def State.poolFree (s : State) (k : Nat) : Nat := s.poolCount k - s.poolHeld k

/-- BPM_POOLk_FREE: 0 while the BPM is disabled. -/
def State.poolFreeShown (s : State) (k : Nat) : Nat := if s.bit R.bpmCtl 0 then s.poolFree k else 0

/-- A handle (Table 11.7). -/
def handleOf (k i : Nat) : Word := atFld 23 21 k ||| atFld 16 0 i
def handlePool (h : Word) : Nat := wfld h 23 21
def handleIndex (h : Word) : Nat := wfld h 16 0

/-- R286. -/
def State.carvingLegal (s : State) : Bool :=
  let rs := (List.range 8).map fun k => (s.poolBase k, s.poolCount k * poolSize k, s.poolCount k)
  (rs.all fun r => r.2.2 ≤ 65536 && r.1 % 2 ^ 21 == 0
      && (r.2.2 == 0 || (s.dpaSpan r.1 r.2.1 && dpaRow r.1 == some 0)))
    && (List.range 8).all fun a => (List.range 8).all fun b =>
      let x := rs.getD a (0, 0, 0)
      let y := rs.getD b (0, 0, 0)
      a ≤ b || x.2.2 == 0 || y.2.2 == 0 || x.1 + x.2.1 ≤ y.1 || y.1 + y.2.1 ≤ x.1

/-- A write to BPM_CTL. -/
def State.writeBpmCtl (s : State) (w : Word) : State :=
  if !wbit w 0 then s.lower R.bpmCtl 0
  else if s.bit R.bpmCtl 0 then s
  else if !s.carvingLegal then s.raise R.bpmCause 3
  else
    let s := State.raise { s with poolUsed := [] } R.bpmCtl 0
    (List.range 8).foldl (fun s k => s.setReg (R.bpmPoolMinfree k) (BitVec.ofNat 32 (s.poolCount k))) s

/-- A write to a pool register other than LOW is ignored while the BPM is enabled (R286). -/
def State.writePoolReg (s : State) (r : Reg) (w : Word) : State := if s.bit R.bpmCtl 0 then s else s.writeReg r w

/-- What an allocation answers: the handle or a fault code. -/
inductive Alloc where
  | ok (h : Word)
  | empty
  | denied
  deriving DecidableEq, Repr

/-- R287, R290: the smallest existing pool that fits; its lowest free buffer. A disabled BPM has no pool. -/
def State.allocate (s : State) (size : Nat) : State × Alloc :=
  match if s.bit R.bpmCtl 0 ∧ size ≠ 0 then leastBelow 8 fun k => s.poolCount k != 0 && size ≤ poolSize k else none with
  | none => (s, .denied)
  | some k =>
    match leastBelow (s.poolCount k) fun i => !s.poolUsed.contains (k, i) with
    | none =>
      let c := R.bpmPoolEmpty k
      let s := if s.reg c = 0xFFFFFFFF then s else s.count c
      (s.raise R.bpmCause 0, .empty)
    | some i =>
      let s := { s with poolUsed := s.poolUsed ++ [(k, i)] }
      let free := s.poolFree k
      let s := if free < (s.reg (R.bpmPoolMinfree k)).toNat then s.setReg (R.bpmPoolMinfree k) (BitVec.ofNat 32 free) else s
      let s := if free ≤ s.fld (R.bpmPoolLow k) 16 0 then s.raise R.bpmCause 2 else s
      (s, .ok (handleOf k i))

/-- R288. -/
def State.freeBuffer (s : State) (h : Word) : State :=
  let b := (handlePool h, handleIndex h)
  if s.bit R.bpmCtl 0 && b.2 < s.poolCount b.1 && s.poolUsed.contains b then
    { s with poolUsed := s.poolUsed.filter (· != b) }
  else
    let s := if s.reg R.bpmFreeerr = 0xFFFFFFFF then s else s.count R.bpmFreeerr
    s.raise R.bpmCause 1

/-- The register interface's allocation: BPM_RSP holds its result (R290). -/
def State.requestAlloc (s : State) (size : Nat) : State :=
  match s.allocate size with
  | (s, .ok h) => s.setReg R.bpmRsp h
  | (s, .empty) => s.setReg R.bpmRsp (atFld 31 24 fcPoolEmpty)
  | (s, .denied) => s.setReg R.bpmRsp (atFld 31 24 fcDenied)

/-- The register interface's free: BPM_RSP holds its result too (R290), code 0 with the handle that was freed. What it
holds after a free that has no effect is not stated: a free value, its reserved bits 0 (log entry 59). -/
def State.requestFree (s : State) (h : Word) : State :=
  let held := s.bit R.bpmCtl 0 && handleIndex h < s.poolCount (handlePool h) && s.poolUsed.contains (handlePool h, handleIndex h)
  if held then (s.freeBuffer h).setReg R.bpmRsp (handleOf (handlePool h) (handleIndex h))
  else ((s.freeBuffer h).setReg R.bpmRsp (Config.freeWord s.freeCtr &&& 0xFFE1FFFF)).drawn

/-- A write to BPM_REQ. -/
def State.writeBpmReq (s : State) (w : Word) : State :=
  if wfld w 31 30 = 1 then s.requestAlloc (wfld w 23 0)
  else if wfld w 31 30 = 2 then s.requestFree (w &&& 0xFFFFFF)
  else s

/-- The DPA of a buffer. -/
def State.bufferAddr (s : State) (h : Word) : Nat := s.poolBase (handlePool h) + handleIndex h * poolSize (handlePool h)

/-- A read of BPM_POOLk_MINFREE (RC): the lowest free count, then the current one. -/
def State.readMinfree (s : State) (k : Nat) : State :=
  let s' := { s with busData := s.reg (R.bpmPoolMinfree k) }
  s'.setReg (R.bpmPoolMinfree k) (BitVec.ofNat 32 (s'.poolFreeShown k))

end Sys2Proof.Machine
end

