-- ==== Sys2Proof/Machine/Groups.lean ====
section
/-!
DEFINITION. Core groups of the serving dispatcher (spec/14_steps_and_serving.md, R342, Table 14.9): what a group gives up
when it faults or drains.
-/

namespace Sys2Proof.Machine

/-- The group a core belongs to. -/
def State.groupOf (s : State) (u : Nat) : Option Nat :=
  leastBelow 80 fun g => (s.groupRec g).valid && (s.groupRec g).cores.contains u

/-! ### Drops (Table 14.9) -/

def State.countDrop (s : State) (reason : Nat) : State :=
  State.raise { s with dsp := { s.dsp with drops := mset 0 s.dsp.drops reason (mget 0 s.dsp.drops reason + 1) } } R.dspCause 0

/-- A buffer freed and counted. -/
def State.dropBuffer (s : State) (h : Word) (reason : Nat) : State := (s.freeBuffer h).countDrop reason

/-! ### A group that faults or drains (R342) -/

/-- DSP_FAULT takes a fault only while it holds none (R347). -/
def State.dspFault (s : State) (code job g : Nat) : State :=
  if s.reg R.dspFault = 0 then s.setReg R.dspFault (atFld 31 24 code ||| atFld 23 12 job ||| atFld 6 0 g) else s

/-- The buffers a group holds: its batch, the batch it is being switched for, its continuations. -/
def Group.buffers (k : Group) : List Word :=
  (k.open_.map fun b => b.2.2.map (·.handle)).getD [] ++ (k.next.map fun b => b.2.map (·.handle)).getD []
    ++ k.conts.map (·.2.1)

/-- A group enters FAULTED: its buffers are freed, and its job waits for the notice of R192. DSP_FAULT keeps the first
fault alone, the job of every later one waits beside it (R341). -/
def State.faultGroup (s : State) (g code : Nat) : State :=
  let k := s.group g
  let job := (s.groupRec g).job
  let s := k.buffers.foldl (fun s h => s.dropBuffer h 6) s
  let s := s.setGroup g { k with st := .faulted, open_ := none, next := none, conts := [], exiting := false }
  let s := (s.dspFault code job g).raise R.dspCause 1
  { s with dsp := { s.dsp with unserved := s.dsp.unserved ++ [(job, code)] } }

/-- The fault of a core: a BUSY or SWITCHING group of it faults. -/
def State.coreFaultGroup (s : State) (u code : Nat) : State :=
  match s.groupOf u with
  | some g =>
    let k := s.group g
    if k.st = .busy ∨ k.st = .switching then s.faultGroup g code else s
  | none => s

end Sys2Proof.Machine
end

