-- ==== Sys2Proof/Machine/Messages.lean ====
section
/-!
DEFINITION. Semaphores and the completion of messages (spec/12_synchronisation.md, R292 to R298;
spec/04_links_and_routing.md, R93, R94): updates that do not come from the owning core's sync slot, the trackers of a
destination, and COMPLETE packets.
-/

namespace Sys2Proof.Machine

/-! ### Semaphore updates (R295) -/

/-- TDn_SEMFAULT takes a fault only while it holds none (R313); a notice is sent for its job (R295), also where it holds
another (DEDUCED, log entry 131). -/
def State.semFault (s : State) (u i source operand : Nat) : State :=
  let n := u / 4
  let s :=
    if s.reg (R.tdSemfault0 n) = 0 then
      ((s.setReg (R.tdSemfault0 n)
          (atFld 31 24 fcOverflow ||| atFld 23 12 (s.fld (R.tdCJob u) 11 0) ||| atFld 11 10 (u % 4) ||| atFld 9 0 i)).setReg
        (R.tdSemfault1 n) (atFld 2 0 source)).setReg (R.tdSemfault2 n) (BitVec.ofNat 32 operand)
    else s
  (s.raise (R.tdSemcause n) 0).owe { site := .sem, n := n, job := s.fld (R.tdCJob u) 11 0, code := fcOverflow }

/-- An update from a source other than the owning core: added, or refused and recorded where it would overflow. -/
def State.semUpdate (s : State) (u i source operand : Nat) : State :=
  let v := (s.sem u i).toNat + operand
  if 0xFFFFFFFF < v then s.semFault u i source operand else s.setSem u i (BitVec.ofNat 32 v)

/-- A SEM_ADD packet delivered to core u. -/
def Arrival.semAdd (a : Arrival) (u : Nat) : Bool := a.pkt.hdr.op == opSemAdd && a.unit == u

/-- The source slot whose SEM_ADD of core u comes next: of those that arrived with the oldest, the lowest (R20); one
fabric tick counts as one arithmetic cycle (DESIGN CHOICE, log entry 63). -/
def State.semSource (s : State) (u : Nat) : Nat :=
  match s.inbox.filter fun a => a.slot == s.tileSlot (u / 4) && a.semAdd u with
  | [] => 0
  | a :: r => (r.filter fun b => b.at_ == a.at_).foldl (fun m b => min m b.src) a.src

/-- SEM_ADD: a packet at core u. With msg_bytes = 0 it is applied on arrival; otherwise its tracker holds it (R297). -/
def State.receiveSemAdd (s : State) (u : Nat) : State :=
  match s.takeArrival (s.tileSlot (u / 4)) fun a => a.semAdd u && a.src == s.semSource u with
  | none => s
  | some (a, s) =>
    let h := a.pkt.hdr
    let operand := leAt a.pkt.data 0 4
    if h.msgBytes = 0 then s.semUpdate u h.addr 0 operand
    else
      let c : CommitRec := { slot := a.slot, hdr := h, ep := a.ep, job := a.pkt.job, tc := a.pkt.tc, bytes := 0,
                             target := some (u, h.addr, operand), isAdd := true, src := a.src, at_ := s.time.now }
      { s with commits := s.commits ++ [c] }

/-- A write to TDn_SEMDATA (R313). -/
def State.writeSemdata (s : State) (n : Nat) (w : Word) : State :=
  let u := 4 * n + s.fld (R.tdSemsel n) 11 10
  if n < s.tiles ∧ ((s.core u).st = .idle ∨ (s.core u).st = .halted) then s.setSem u (s.fld (R.tdSemsel n) 9 0) w
  else s

/-! ### Trackers (R93) -/

/-- The tracker a commitment counts in: the one open for its message, or a new one for a new msg_seq. -/
def State.trackerFor (s : State) (c : CommitRec) : Tracker :=
  match s.trackers.find? fun t => t.srcDev == c.hdr.srcDev && t.slot == c.hdr.msgSlot && t.seq == c.hdr.msgSeq with
  | some t => t
  | none => { srcDev := c.hdr.srcDev, slot := c.hdr.msgSlot, seq := c.hdr.msgSeq, msgBytes := c.hdr.msgBytes, count := 0,
              sig := c.hdr.sig, held := none, added := false }

/-- The COMPLETE of the message whose last bytes a commitment brought. -/
def State.completePkt (s : State) (c : CommitRec) : Packet :=
  let h := c.hdr
  { hdr := { PktHdr.zero opComplete with
               dstDev := h.srcDev, dstEp := h.srcEp, srcDev := s.selfDev, srcEp := c.ep, srcRank := h.dstRank,
               dstRank := h.srcRank, flow := h.flow, msgSlot := h.msgSlot, msgSeq := h.msgSeq },
    vc := 1, tc := c.tc, job := c.job, tag := 0, abt := false, data := [] }

/-- Whether a commitment belongs to the unit and the cycle of `c`. -/
def CommitRec.sameCycle (c d : CommitRec) : Bool := d.slot == c.slot && d.at_ == c.at_

/-- The commitment that is counted next: of those of the oldest one's unit and cycle, the first from the lowest source slot,
so that the ADDs they complete come in that order (R20; log entry 63). -/
def State.nextCommit (s : State) : Option (CommitRec × List CommitRec) :=
  match s.commits with
  | [] => none
  | c :: r =>
    let src := ((r.filter c.sameCycle).map (·.src)).foldl min c.src
    takeFirst (fun d => c.sameCycle d && d.src == src) s.commits

/-- TRACKER_COUNT: the next commitment is counted; at the whole message the held ADD is applied and the COMPLETE
sent. An ADD that was discarded counts as applied (R297). -/
def State.trackerCount (s : State) : State :=
  match s.nextCommit with
  | none => s
  | some (c, rest) =>
    let t := s.trackerFor c
    let others := s.trackers.filter fun o => !(o.srcDev == c.hdr.srcDev && o.slot == c.hdr.msgSlot)
    let t := { t with count := t.count + c.bytes, held := if c.target.isSome then c.target else t.held,
                      added := t.added || (c.isAdd && c.target.isNone) }
    let s := { s with commits := rest }
    if t.count ≠ t.msgBytes then { s with trackers := others ++ [t] }
    else
      let (s, added) := match t.held with
        | some (u, i, v) => (s.semUpdate u i 0 v, true)
        | none => (s, t.added)
      if t.sig && !added then { s with trackers := others ++ [t] }
      else State.attachPkt { s with trackers := others } c.slot none none (s.completePkt c)

/-! ### COMPLETE at the source (R94) -/

/-- The open message a COMPLETE names. A message to a fan-out endpoint is ended by the COMPLETE of the device its packet was
addressed to; the COMPLETEs of the other devices' copies name no open message (DESIGN CHOICE, log entry 152). -/
def State.messageOf (s : State) (h : PktHdr) : Option Msg :=
  s.msgs.find? fun m => m.dstDev == some h.srcDev && m.slot == some h.msgSlot && m.seq == h.msgSeq

def State.updColl (s : State) (id : Nat) (f : Coll → Coll) : State :=
  { s with colls := updFirst (fun c => c.id == id) f s.colls }

/-- What the completion of a message ends (Owner). A message of a reduction context ends in
ENGINE_COMPLETE_RECEIVE. -/
def State.ownerDone (s : State) (o : Owner) : State :=
  match o with
  | .dma u _ ord => s.dmaDone u ord
  | .writeBack n slot va =>
    (match s.wbs.find? fun w => w.n == n && w.slot == slot && w.va == va with
     | some w => s.releaseDone n slot va w.leafAt true
     | none => s)
  | .served => s
  | .collAnn id => s.updColl id fun c => { c with annOutst := c.annOutst - 1 }
  | .collData id tree => s.updColl id fun c =>
      { c with streams := updFirst (fun t => t.tree == tree) (fun t => { t with outst := t.outst - 1 }) c.streams }
  | .collCtl _ => s
  | .engine _ => s
  | .mirror slot =>
    let j := s.job slot
    s.setJob slot { j with mirror := j.mirror.map fun m => { m with outst := m.outst - 1 } }

/-- The message slot of a completed message is free again. -/
def State.closeMsg (s : State) (m : Msg) : State := { s with msgs := s.msgs.filter fun o => o.id != m.id }

/-- COMPLETE: the first COMPLETE that arrived at a unit other than a stream engine. One that names no open message
changes nothing more. -/
def State.receiveComplete (s : State) : State :=
  let engine (a : Arrival) : Bool := match s.slotOwner a.slot with
    | .stream _ _ => true
    | _ => false
  match takeFirst (fun a => a.pkt.hdr.op == opComplete && !engine a) s.inbox with
  | none => s
  | some (a, rest) =>
    let s := { s with inbox := rest }
    match s.messageOf a.pkt.hdr with
    | none => s
    | some m => (s.closeMsg m).ownerDone m.owner

end Sys2Proof.Machine
end

