-- ==== Sys2Proof/Machine/CoreMem.lean ====
section
/-!
DEFINITION. Local store and accumulator memory of a tile core as cycles see them (spec/08_tile_core_execution.md, R210,
R211, R214; spec/09_matrix_and_vector.md, R235 to R237). `State.ls` and `State.acc` hold what was there at the core's
last start; the writes made since stand in the core with the cycle at which each becomes visible.
-/

namespace Sys2Proof.Machine

def lsSize : Nat := 2 ^ 24

/-- The byte address in `State.ls` of byte `a` of core u's local store. -/
def lsAt (u a : Nat) : Nat := u * 2 ^ 24 + a

/-- The order of two writes in one location (R211): by cycle, then by word, then by slot. -/
def LsWrite.before (w x : LsWrite) : Bool :=
  w.vis < x.vis || (w.vis == x.vis && (w.ord < x.ord || (w.ord == x.ord && w.slot ≤ x.slot)))

/-- A write put behind those it does not precede. -/
def insertWrite (x : LsWrite) : List LsWrite → List LsWrite
  | [] => [x]
  | w :: r => if w.before x then w :: insertWrite x r else x :: w :: r

/-- Writes in the order in which they stand. -/
def sortWrites (ws : List LsWrite) : List LsWrite := ws.foldl (fun acc w => insertWrite w acc) []

/-- The bytes from address `a` after a write. -/
def overlay (a : Nat) (bs : List Byte) (w : LsWrite) : List Byte :=
  bs.zipIdx.map fun p =>
    if w.addr ≤ a + p.2 ∧ a + p.2 < w.addr + w.bytes.length then w.bytes.getD (a + p.2 - w.addr) 0 else p.1

def LsWrite.touches (w : LsWrite) (a n : Nat) : Bool := w.addr < a + n && a < w.addr + w.bytes.length

/-- `n` bytes of local store from `a` under a list of writes. -/
def State.lsUnder (s : State) (u : Nat) (ws : List LsWrite) (a n : Nat) : List Byte :=
  (sortWrites (ws.filter fun w => w.touches a n)).foldl (overlay a) (rdBytes s.ls (lsAt u a) n)

/-- What a read of cycle `t` returns (R210). -/
def State.lsRead (s : State) (u : Nat) (ws : List LsWrite) (t a n : Nat) : List Byte :=
  s.lsUnder u (ws.filter fun w => w.vis ≤ t) a n

/-- What an agent outside the core's schedule reads: every write made so far (R213; log entry 32). -/
def State.lsNow (s : State) (u a n : Nat) : List Byte := s.lsUnder u (s.core u).lsw a n

/-- Whether the write replaces the whole 64-bit word at `b`. -/
def LsWrite.covers (x : LsWrite) (b : Nat) : Bool := x.addr ≤ b && b + 8 ≤ x.addr + x.bytes.length

/-- The uncorrectable words of core u's local store at cycle `t`: no later write covers them whole (R269). -/
def State.lsBad (s : State) (u : Nat) (ws : List LsWrite) (t : Nat) : List Nat :=
  let old := (s.ue.filter fun w => w.1 == .ls u && !(ws.any fun x => x.vis ≤ t && x.covers (w.2 / 8 * 8))).map (·.2)
  let new := (s.core u).decays.filter fun d =>
    !d.1 && d.2.2 ≤ t && !(ws.any fun x => d.2.2 < x.vis && x.vis ≤ t && x.covers (d.2.1 / 8 * 8))
  old ++ new.map (·.2.1)

/-- Whether a read of cycle `t` meets an uncorrectable word. -/
def State.lsUe (s : State) (u : Nat) (ws : List LsWrite) (t a n : Nat) : Bool :=
  (s.lsBad u ws t).any fun w => n != 0 && a / 8 ≤ w / 8 && w / 8 ≤ (a + n - 1) / 8

/-- An uncorrectable word that a write of cycle `t` covers only in part (R269). -/
def State.lsUePart (s : State) (u : Nat) (ws : List LsWrite) (t a n : Nat) : Bool :=
  (s.lsBad u ws t).any fun w => n != 0 && a / 8 ≤ w / 8 && w / 8 ≤ (a + n - 1) / 8
    && !(a ≤ w / 8 * 8 && w / 8 * 8 + 8 ≤ a + n)

/-- A cycle by which every write and every decay of core u so far counts. -/
def State.lastCycle (s : State) (u : Nat) : Nat :=
  let k := s.core u
  k.decays.foldl (fun m d => max m d.2.2) (k.lsw.foldl (fun m w => max m w.vis) 0)

/-- Whether an agent outside the schedule meets an uncorrectable word. -/
def State.lsUeNow (s : State) (u a n : Nat) : Bool := s.lsUe u (s.core u).lsw (s.lastCycle u) a n

/-- The cycle a core has reached: of its last dispatch or test, of the last failed test of a word that is held back, or of
a core that stands still. -/
def Core.clock (k : Core) : Nat :=
  max k.cyc (if k.st = .running ∨ k.st = .waiting then (if k.st = .waiting ∨ k.blocked then k.ready else 0) else k.now)

/-- A write by an agent outside the core's schedule (DMA, the collective sequencer): visible after every write that a
command can have made by the core's clock (log entry 32), and after every write of a core that stands still (log
entry 34). -/
def State.lsPut (s : State) (u a : Nat) (bs : List Byte) : State :=
  let k := s.core u
  let vis := if k.st = .running ∨ k.st = .waiting then k.clock + 1 else max (k.clock + 1) (s.lastCycle u)
  let w : LsWrite := { vis := vis, ord := k.words + 1, word := 0, slot := 7, addr := a, bytes := bs }
  s.setCore u { k with lsw := k.lsw ++ [w], decays := k.decays.filter fun d => d.1 || !w.covers (d.2.1 / 8 * 8) }

/-! ### Accumulator memory (R235, R236) -/

/-- Keys in `State.acc` and `State.accFlags`, and the byte address of a bank in accumulator memory. -/
def bankKey (u slot : Nat) (bank : Bool) : Nat := (u * 64 + slot) * 2 + bnat bank
def bankAddr (slot : Nat) (bank : Bool) : Nat := slot * 65536 + bnat bank * 32768

/-- The bank as it stood at the core's last start. -/
def State.bankBase (s : State) (u slot : Nat) (bank : Bool) : List Word :=
  (List.range 8192).map fun e => mget 0 s.acc (bankKey u slot bank * 8192 + e)

def AccWrite.on (slot : Nat) (bank : Bool) (w : AccWrite) : Bool := w.slot == slot && w.bank == bank

/-- Matrix writes become visible in the order in which they were made, so the last one visible stands. -/
def State.bankUnder (s : State) (u : Nat) (ws : List AccWrite) (slot : Nat) (bank : Bool) : List Word :=
  match (ws.filter (AccWrite.on slot bank)).getLast? with
  | some w => w.vals
  | none => s.bankBase u slot bank

def State.bankFlagsUnder (s : State) (u : Nat) (ws : List AccWrite) (slot : Nat) (bank : Bool) : BitVec 3 :=
  (ws.filter (AccWrite.on slot bank)).foldl (fun f w => if w.clear then w.flags else f ||| w.flags)
    (mget 0 s.accFlags (bankKey u slot bank))

/-- Which bank of a slot is active after the flips that satisfy a predicate. -/
def State.activeAfter (s : State) (u : Nat) (fs : List Flip) (slot : Nat) (p : Flip → Bool) : Bool :=
  mget false s.accBank1 (64 * u + slot) != (countWhere (fun f => f.slot == slot && p f) fs % 2 == 1)

/-- The matrix writes visible by the core's clock. -/
def Core.accSeen (k : Core) : List AccWrite := k.accw.filter fun w => w.vis ≤ k.clock

/-- A bank, its flags and the active bank as the core's clock has them (TDn_Cc_ACCDATA, ACCSTAT, ACCMAP; R253). -/
def State.bankNow (s : State) (u slot : Nat) (bank : Bool) : List Word := s.bankUnder u (s.core u).accSeen slot bank
def State.bankFlags (s : State) (u slot : Nat) (bank : Bool) : BitVec 3 := s.bankFlagsUnder u (s.core u).accSeen slot bank
def State.activeBank (s : State) (u slot : Nat) : Bool :=
  s.activeAfter u (s.core u).flips slot fun f => f.cyc ≤ (s.core u).clock

/-! ### Sticky flags and tile counters (R240, R252, R267) -/

/-- The bits of an event at cycle `t` that no later clear took away. -/
def Core.uncleared (k : Core) (t : Nat) (fl : BitVec 5) : BitVec 5 :=
  fl &&& BitVec.ofNat 5 (bitsNat ((List.range 5).map fun b => mget 0 k.clr b ≤ t))

/-- Flags of TDn_Cc_VFLAG (bits 1:0) and TDn_Cc_MFLAG (bits 4:2) that started commands have set by the core's clock and
software has not cleared. -/
def Core.stickies (k : Core) : BitVec 5 :=
  (k.started.flatMap (·.fl)).foldl (fun f e => if e.1 ≤ k.clock then f ||| k.uncleared e.1 e.2 else f) 0

/-- Tiles of one path that MMS commands have read by the core's clock (R267). -/
def Core.tilesRead (k : Core) (dense : Bool) : Nat :=
  k.started.foldl (fun n c => n + countWhere (fun t => t.2 == dense && t.1 ≤ k.clock) c.tiles) 0

/-- What the registers show. -/
def State.vflag (s : State) (u : Nat) : Word :=
  s.reg (R.tdCVflag u) ||| BitVec.ofNat 32 ((s.core u).stickies.toNat % 4)
def State.mflag (s : State) (u : Nat) : Word :=
  s.reg (R.tdCMflag u) ||| BitVec.ofNat 32 ((s.core u).stickies.toNat / 4)

/-- A write to VFLAG or MFLAG: the bits written 1 clear. An event of a later cycle sets them again (R9). -/
def State.clearSticky (s : State) (u : Nat) (bits : BitVec 5) : State :=
  let k := s.core u
  let cleared := (List.range 5).filter fun b => bits.getLsbD b
  s.setCore u { k with clr := cleared.foldl (fun m b => mset 0 m b (k.clock + 1)) k.clr }

/-- Whether the write replaces the word at address `a` of accumulator memory after cycle `t`. -/
def AccWrite.hides (w : AccWrite) (a t : Nat) : Bool := t < w.vis && bankAddr w.slot w.bank == a / 32768 * 32768

/-- The effects of a core's finished run put into memory: done when the core starts again. -/
def State.foldCore (s : State) (u : Nat) : State :=
  let k := s.core u
  let bad := (s.lsBad u k.lsw (s.lastCycle u)).map fun a => (MemSpace.ls u, a)
  let badAcc := (k.decays.filter fun d => d.1 && !(k.accw.any fun w => w.hides d.2.1 d.2.2)).map fun d =>
    (MemSpace.acc u, d.2.1)
  let s := (sortWrites k.lsw).foldl (fun (s : State) w =>
    State.healed { s with ls := wrBytes s.ls (lsAt u w.addr) w.bytes } (.ls u) w.addr w.bytes.length) s
  let s := k.accw.foldl (fun (s : State) w =>
    let b := bankKey u w.slot w.bank
    let acc := w.vals.zipIdx.foldl (fun m p => mset 0 m (b * 8192 + p.2) p.1) s.acc
    let fl := mget 0 s.accFlags b
    State.healed { s with acc := acc, accFlags := mset 0 s.accFlags b (if w.clear then w.flags else fl ||| w.flags) }
      (.acc u) (bankAddr w.slot w.bank) 32768) s
  let s := k.flips.foldl (fun (s : State) f =>
    let key := 64 * u + f.slot
    { s with accBank1 := mset false s.accBank1 key (!mget false s.accBank1 key) }) s
  let s := s.setReg (R.tdCVflag u) (s.vflag u)
  let s := s.setReg (R.tdCMflag u) (s.mflag u)
  let s := s.addCtr (R.tdCSptilesLo u) (k.tilesRead false)
  let s := s.addCtr (R.tdCDntilesLo u) (k.tilesRead true)
  let s := { s with ue := s.ue ++ (bad ++ badAcc).filter fun w => !s.ue.contains w }
  s.setCore u { k with started := [], lsw := [], accw := [], flips := [], decays := [] }

/-- Words of a core's local store or accumulator memory become uncorrectable now. -/
def State.decay (s : State) (w : MemSpace × Nat) : State :=
  let add (u : Nat) (acc : Bool) : State :=
    let k := s.core u
    s.setCore u { k with decays := k.decays ++ [(acc, w.2, k.clock + 1)] }
  match w.1 with
  | .ls u => add u false
  | .acc u => add u true
  | _ => if s.ue.contains w then s else { s with ue := s.ue ++ [w] }

/-- Correctable errors of a tile die counted (R269); Hyzacia, where it runs, announces the risen count (R366). -/
def State.corrected (s : State) (n k : Nat) : State :=
  if k = 0 then s
  else
    let s := (s.addCtr (R.tdEccCeLo n) k).raise (R.tdMemcause n) 0
    if s.firmware then s.raise R.devEvent 6 else s

/-- PATROL_SCRUB: words become uncorrectable; corrections are counted, those that any read of a memory of the die made
as well as those of the scrub (DESIGN CHOICE, log entry 56); with SCRUB.en the scrub records the uncorrectable words of
HBM it finds, with no job (R269, R271, R272). -/
def State.scrub (s : State) (n corrected : Nat) (decayed : List (MemSpace × Nat)) : State :=
  let s := decayed.foldl State.decay s
  if s.tiles ≤ n then s
  else
    let s := s.corrected n corrected
    if !s.bit (R.tdScrub n) 31 then s else
    let found := s.ue.filter fun w => w.1 == .dpa && dpaDie w.2 == n && dpaRow w.2 == some 0
    found.foldl (fun s w => s.dpaFound w.2 6) s

end Sys2Proof.Machine
end

