-- ==== Sys2Proof/Machine/Time.lean ====
section
/-!
DEFINITION. Fabric time and shutters (spec/12_synchronisation.md, R299 to R312). One counter stands for the master and
all its replicas (log entry 8). Half ticks are the unit of θ, as in TIME_OFS.
-/

namespace Sys2Proof.Machine

/-! ### Time flits (Table 12.2) -/

/-- A time flit: tval[57:28] in header bits [99:70], tval[27:0] in [59:32] (R301). -/
def timeFlit (v : Nat) : Flit :=
  { plainFlit 4 with
    vc := nbits v 55 3, dl := nbit v 54, tc := nbits v 51 3, sop := nbit v 50, eop := nbit v 49, abt := nbit v 48,
    cellIdx := nbits v 42 6, pktCells := nbits v 36 6, len := nbits v 28 8, job := nbits v 16 12, pktTag := nbits v 0 16 }

def tvalSync (t1 : Nat) : Nat := t1 % 2 ^ 55
def tvalEcho (d : Int) (t3 : Nat) : Nat := pack [(3, 1), (27, imod d 27), (28, t3)]
def tvalEpoch (now : Nat) : Nat := pack [(3, 2), (7, 0), (48, now / 2 ^ 16)]
def tvalArrive (b gen : Nat) : Nat := pack [(3, 3), (6, b), (2, gen), (47, 0)]
def tvalRelease (b gen t : Nat) : Nat := pack [(3, 4), (6, b), (2, gen), (47, t)]

def State.timeOn (s : State) : Bool := s.bit R.timeCtl 0
def State.isRoot (s : State) : Bool := s.bit R.timeCtl 1
/-- The parent subport, by first device-wide lane, of a device that is not the time root (R300). -/
def State.parentLane (s : State) : Option Nat :=
  if s.isRoot || !s.bit R.timeCtl 2 then none else some (s.fld R.timeCtl 16 8)

/-- The SYNC period in ticks of 160 ps. -/
def State.periodTicks (s : State) : Nat := 6250 * max 1 (s.fld R.timeCfg 31 24)

/-- Whether a fabric subport exchanges time flits. -/
def State.subUp (s : State) (n l : Nat) : Bool :=
  match s.subportAt n l with
  | some (j, _) => s.slotMode j == 0 && (s.link n l).st == .up
  | none => false

/-- A time flit that leaves now with its departure stamp. -/
def State.sendStamped (s : State) (n l v : Nat) : State :=
  s.sendFlit n l (6 * n + l / 4) (s.link n l) (timeFlit v) false

/-- An ARRIVE or RELEASE that waits for the next flit boundary of a subport. -/
def State.queueTime (s : State) (lane v : Nat) : State :=
  let n := lane / 24
  let l := lane % 24
  let k := s.link n l
  if s.timeOn ∧ (k.st = .up ∨ k.st = .retraining) then s.setLink n l { k with ctlOut := k.ctlOut ++ [timeFlit v] } else s

/-! ### Synchronisation (R299 to R304) -/

def State.setTime (s : State) (t : FabricTime) : State := { s with time := t }

/-- TIME_SYNC_SEND. -/
def State.sendSync (s : State) (n l : Nat) : State :=
  if s.timeOn && s.time.loaded && s.subUp n l then
    let k := s.link n l
    (s.setLink n l { k with syncs := k.syncs + 1 }).sendStamped n l (tvalSync s.time.now.toNat)
  else s

/-- TIME_EPOCH_SEND: after every 256th SYNC. -/
def State.sendEpoch (s : State) (n l : Nat) : State :=
  if s.timeOn && s.time.loaded && s.subUp n l && 256 ≤ (s.link n l).syncs then
    let k := s.link n l
    (s.setLink n l { k with syncs := k.syncs - 256 }).sendStamped n l (tvalEpoch s.time.now.toNat)
  else s

/-- The counter loaded with a value: from then on it counts. -/
def State.loadTime (s : State) (v : Dword) : State :=
  s.setTime { s.time with now := v, loaded := true, hold := 0, adjust := 0, since := 0, phase := 0 }

/-- The number congruent to `low` modulo 2 to the `m` that lies nearest to `near`. -/
def nearest (m low near : Nat) : Nat :=
  let a := near / 2 ^ m * 2 ^ m + low % 2 ^ m
  if a + 2 ^ (m - 1) < near then a + 2 ^ m
  else if near + 2 ^ (m - 1) < a ∧ 2 ^ m ≤ a then a - 2 ^ m
  else a

/-- Whether subport (n, l) is the parent of a device that takes its time from it. -/
def State.fromParent (s : State) (n l : Nat) : Bool := s.timeOn && s.parentLane == some (lk n l)

/-- TIME_SYNC_RECEIVE: answered with an ECHO, or the first load from the parent. -/
def State.receiveSync (s : State) (n l t1 : Nat) : State :=
  if !s.timeOn || !s.subUp n l then s
  else if s.time.loaded then
    let d := sext 55 (s.time.now.toNat + 2 ^ 55 - t1 % 2 ^ 55)
    let d := if -(2 ^ 26 : Int) < d ∧ d < 2 ^ 26 then d else -(2 ^ 26)
    s.sendStamped n l (tvalEcho d s.time.now.toNat)
  else if s.fromParent n l then
    match s.time.epoch with
    | some e =>
      let s := s.loadTime (BitVec.ofNat 64 (nearest 55 t1 (e % 2 ^ 48 * 2 ^ 16)))
      s.setTime { s.time with epoch := none }
    | none => s
  else s

/-- TIME_EPOCH_RECEIVE: held for the first load. -/
def State.receiveEpoch (s : State) (n l hi : Nat) : State :=
  if s.fromParent n l && s.subUp n l && !s.time.loaded then s.setTime { s.time with epoch := some (hi % 2 ^ 48) } else s

/-- Holdover (R302). -/
def State.enterHoldover (s : State) : State :=
  if s.time.loaded && !s.time.holdover then
    (s.setTime { s.time with locked := false, holdover := true }).raise R.timeCause 0
  else s

/-- TIME_ECHO_RECEIVE: the procedure of R302. -/
def State.receiveEcho (s : State) (n l : Nat) (d : Int) (void : Bool) (t3 : Nat) : State :=
  if !s.time.loaded || !s.fromParent n l || !s.subUp n l || void then s
  else
    let dba := sext 28 (s.time.now.toNat + 2 ^ 28 - t3 % 2 ^ 28)
    if 2 ^ 26 ≤ dba.natAbs then s
    else
      let th := dba - d - sext 16 (s.fld R.timeAsym 15 0)
      let s := (s.setReg R.timeOfs (BitVec.ofInt 32 th)).setReg R.timeDly (atFld 15 0 (imod ((dba + d) / 2) 16))
      let t := { s.time with holdover := false }
      if 2 * s.fld R.timeCfg 15 0 ≤ th.natAbs then
        let t := { t with locked := false, good := 0, adjust := 0 }
        let t := if th < 0 then { t with now := t.now + BitVec.ofNat 64 (th.natAbs / 2) } else { t with hold := th.natAbs / 2 }
        (s.setTime t).raise R.timeCause 1
      else
        let good := if th.natAbs ≤ 4 then t.good + 1 else 0
        s.setTime { t with adjust := th, trim := t.trim + th, good := good, locked := t.locked || 8 ≤ good }

/-- TIME_HOLDOVER: 16 periods without a usable ECHO. -/
def State.timeSilent (s : State) : State := if s.timeOn && s.parentLane.isSome then s.enterHoldover else s

/-- A load of TIME_SET, refused where the counter would decrease (R304). -/
def State.loadSet (s : State) : State :=
  let v := s.reg64 R.timeSetLo R.timeSetHi
  if s.time.loaded ∧ v < s.time.now.toNat then s.raise R.timeCause 4 else s.loadTime (BitVec.ofNat 64 v)

/-- A write to TIME_CMD. -/
def State.writeTimeCmd (s : State) (w : Word) : State :=
  let load := wbit w 0
  let arm := wbit w 1
  if !load && !arm then s
  else if (load && arm) || !s.isRoot then s.raise R.timeCause 4
  else if load then s.loadSet
  else s.setTime { s.time with armed := true }

/-- FT_SYNC_EDGE: the capture and an armed load (R304). `ns` counts from the previous edge that took effect (R411). -/
def State.ftSync (s : State) (ns : Nat) : State :=
  if ns < 1000 || !s.bit R.timeCtl 3 then s
  else
    let s := { s with cnt := mset 0 s.cnt R.timePpscapLo.addr s.time.now }
    if s.time.armed then (s.setTime { s.time with armed := false }).loadSet else s

/-- One tick of fabric time (R299, R302): the counter counts, is held, or makes one single-tick correction. A tick that the
rate trim already holds removes no tick of θ; that one is held at a later tick. -/
def State.tick (s : State) : State :=
  let t := s.time
  if !t.loaded then s
  else if 0 < t.hold then s.setTime { t with hold := t.hold - 1 }
  else
    let unit := 32 * (s.periodTicks : Int)
    let ph := t.phase + t.trim
    let (ph, step) : Int × Int := if unit ≤ ph then (ph - unit, 0) else if ph ≤ -unit then (ph + unit, 2) else (ph, 1)
    let (adj, step, since) : Int × Int × Nat :=
      if t.since < 64 then (t.adjust, step, t.since + 1)
      else if 2 ≤ t.adjust ∧ 0 < step then (t.adjust - 2, step - 1, 0)
      else if t.adjust ≤ -2 then (t.adjust + 2, step + 1, 0)
      else (t.adjust, step, t.since)
    s.setTime { t with now := t.now + BitVec.ofInt 64 step, phase := ph, adjust := adj, since := since }

/-! ### Shutters (R305 to R311) -/

def ShutState.code : ShutState → Nat
  | .off => 0 | .collect => 1 | .sent => 2 | .armed => 3 | .failed => 4

def State.shutJob (s : State) (b : Nat) : Nat := s.fld (R.timeShutCfg b) 11 0
/-- Local participants, in ascending order. -/
def State.shutLocals (s : State) (b : Nat) : List Nat :=
  (List.range 3).flatMap fun w => (setBits 32 (s.reg (R.timeShutLocal b w)).toNat).map (32 * w + ·)
/-- Child subports, in ascending first lane. -/
def State.shutChildren (s : State) (b : Nat) : List Nat :=
  (List.range 9).flatMap fun w => (setBits 32 (s.reg (R.timeShutChild b w)).toNat).map (32 * w + ·)
def State.shutParent (s : State) (b : Nat) : Option Nat :=
  if s.bit (R.timeShutCfg b) 30 || !s.bit (R.timeShutParent b) 31 then none else some (s.fld (R.timeShutParent b) 8 0)

/-- TIME_FAULT takes a fault only while it holds none (R310); the job is marked and shut_fail set. -/
def State.timeFault (s : State) (b code job : Nat) : State :=
  let s := if s.reg R.timeFault = 0 then
    s.setReg R.timeFault (atFld 31 24 code ||| atFld 23 12 job ||| atFld 5 0 b) else s
  (s.markJob R.timeJmap job).raise R.timeCause 3

/-- R310. -/
def State.failShutter (s : State) (b code : Nat) : State :=
  let h := s.shutter b
  match h.st with
  | .off => s
  | .failed => s
  | _ => (s.setShutter b { h with st := .failed }).timeFault b code (s.shutJob b)

/-- The arrival flags of a participant or a child. -/
def flagsOf (l : List Arrivals) (who : Nat) : Arrivals :=
  (l.find? fun a => a.who == who).getD { who := who, ag := false, ag1 := false, sem := 0, sem1 := 0 }

def setFlags (l : List Arrivals) (a : Arrivals) : List Arrivals := l.filter (fun o => o.who != a.who) ++ [a]

/-- Whether every participant and every child has arrived for the open generation. -/
def State.shutComplete (s : State) (b : Nat) : Bool :=
  let h := s.shutter b
  (s.shutLocals b).all (fun u => (flagsOf h.locals u).ag) && (s.shutChildren b).all fun c => (flagsOf h.childs c).ag

/-- COLLECT evaluated (Table 12.5). -/
def State.collect (s : State) (b : Nat) : State :=
  let h := s.shutter b
  if h.st ≠ .collect ∨ !s.shutComplete b then s
  else if s.bit (R.timeShutCfg b) 30 then
    let t := s.time.now + BitVec.ofNat 64 (s.reg (R.timeShutLead b)).toNat
    (s.shutChildren b).foldl (fun s c => s.queueTime c (tvalRelease b h.gen t.toNat))
      (s.setShutter b { h with st := .armed, t := t })
  else
    let s := s.setShutter b { h with st := .sent }
    match s.shutParent b with
    | some p => s.queueTime p (tvalArrive b h.gen)
    | none => s

/-- The release of the open generation (R308). -/
def State.release (s : State) (b : Nat) : State :=
  let h := s.shutter b
  let s := (s.shutLocals b).foldl (fun s u =>
    let a := flagsOf h.locals u
    if a.ag then s.semUpdate u a.sem 4 1 else s) s
  let turn (a : Arrivals) : Arrivals := { a with ag := a.ag1, ag1 := false, sem := a.sem1 }
  (s.setShutter b { h with st := .collect, gen := (h.gen + 1) % 2 ^ 32, locals := h.locals.map turn,
                           childs := h.childs.map turn }).collect b

/-- SHUTTER_RELEASE: fabric time has reached T. -/
def State.shutterDue (s : State) (b : Nat) : State :=
  let h := s.shutter b
  if h.st = .armed ∧ h.t.toNat ≤ s.time.now.toNat then s.release b else s

/-- A late release (R308). -/
def State.lateRelease (s : State) (b : Nat) : State :=
  let s := if s.reg R.timeLate = 0xFFFFFFFF then s else s.count R.timeLate
  (s.raise R.timeCause 2).release b

/-- Enabling (R305). -/
def State.enableShutter (s : State) (b : Nat) (w : Word) : State :=
  let s := s.writeReg (R.timeShutCfg b) w
  (s.setShutter b { Shutter.reset with st := .collect }).collect b

/-- A write to TIME_SHUTb_CFG: ignored while enabled but for a 0 in en. -/
def State.writeShutCfg (s : State) (b : Nat) (w : Word) : State :=
  if s.bit (R.timeShutCfg b) 31 then
    (if wbit w 31 then s
     else (s.lower (R.timeShutCfg b) 31).setShutter b { s.shutter b with st := .off, locals := [], childs := [] })
  else if wbit w 31 then s.enableShutter b w
  else s.writeReg (R.timeShutCfg b) w

/-- A write to PARENT, LOCAL or CHILD is ignored while the shutter is enabled (R305). -/
def State.writeShutReg (s : State) (b : Nat) (r : Reg) (w : Word) : State :=
  if s.bit (R.timeShutCfg b) 31 then s else s.writeReg r w

/-- A core's arrival at shutter b (Table 12.4). The reaching of T comes first (R311). -/
def State.arriveLocal (s : State) (u b sem : Nat) : State :=
  let s := s.shutterDue b
  let h := s.shutter b
  let job := s.fld (R.tdCJob u) 11 0
  match h.st with
  | .off => s.timeFault b fcDenied job
  | .failed => s
  | _ =>
    if !(s.shutLocals b).contains u || job != s.shutJob b then s.failShutter b fcDenied
    else
      let a := flagsOf h.locals u
      if !a.ag then (s.setShutter b { h with locals := setFlags h.locals { a with ag := true, sem := sem } }).collect b
      else if !a.ag1 then s.setShutter b { h with locals := setFlags h.locals { a with ag1 := true, sem1 := sem } }
      else s.failShutter b fcOverrun

/-- LOCAL_ARRIVAL: an ARRIVE reaches the unit. Arrivals of one core come in issue order; the delay is not
architectural, so which core's comes next is a free choice. -/
def State.localArrival (s : State) : State :=
  match s.time.arrivals[Config.freeNat s.freeCtr % s.time.arrivals.length]? with
  | none => s
  | some (u, _, _) =>
    match takeFirst (fun a => a.1 == u) s.time.arrivals with
    | none => s
    | some ((u, b, sem), rest) => ((s.setTime { s.time with arrivals := rest }).drawn).arriveLocal u b sem

/-- ARRIVE_FLIT: an arrival by a child (Table 12.4), after the reaching of T (R311). -/
def State.arriveChild (s0 : State) (n l b gen : Nat) : State :=
  let s := if 64 ≤ b then s0 else s0.shutterDue b
  let h := s.shutter b
  let c := lk n l
  if !s.subUp n l || 64 ≤ b then s
  else match h.st with
  | .off => s
  | .failed => s
  | _ =>
    if !(s.shutChildren b).contains c then s.failShutter b fcDenied
    else
      let a := flagsOf h.childs c
      let r := (gen + 4 - h.gen % 4) % 4
      if r = 0 ∧ !a.ag then (s.setShutter b { h with childs := setFlags h.childs { a with ag := true } }).collect b
      else if r = 1 ∧ !a.ag1 then s.setShutter b { h with childs := setFlags h.childs { a with ag1 := true } }
      else if r = 2 then s.failShutter b fcOverrun
      else s.failShutter b fcDenied

/-- RELEASE_FLIT (Table 12.5): in SENT, for the open generation, it arms the shutter and goes to every child; the reaching
of T comes before it (R311). -/
def State.receiveRelease (s0 : State) (n l b gen t : Nat) : State :=
  let s := if 64 ≤ b then s0 else s0.shutterDue b
  let h := s.shutter b
  if !s.subUp n l || 64 ≤ b then s
  else match h.st with
  | .off => s
  | .failed => s
  | .sent =>
    if gen % 4 ≠ h.gen % 4 then s.failShutter b fcDenied
    else
      let full := nearest 47 t s.time.now.toNat
      let s := s.setShutter b { h with st := .armed, t := BitVec.ofNat 64 full }
      let s := (s.shutChildren b).foldl (fun s c => s.queueTime c (tvalRelease b h.gen full)) s
      if full < s.time.now.toNat then s.lateRelease b else s
  | _ => s.failShutter b fcDenied

/-! ### What a change of link state does to time and shutters (R302, R310) -/

/-- Shutters whose parent or child is the subport fail with LINK_LOST. -/
def State.shuttersLost (s : State) (lane : Nat) : State :=
  (List.range 64).foldl (fun s b =>
    if s.shutParent b == some lane || (s.shutChildren b).contains lane then s.failShutter b fcLinkLost else s) s

/-- The state after an operation on subport (n, l), with what follows from its leaving UP or entering FAILED. -/
def State.watchLink (s s' : State) (n l : Nat) : State :=
  let a := (s.link n l).st
  let b := (s'.link n l).st
  let s' := if a = .up ∧ b ≠ .up ∧ s'.fromParent n l then s'.enterHoldover else s'
  if a ≠ .failed ∧ b = .failed then s'.shuttersLost (lk n l) else s'

end Sys2Proof.Machine
end

