-- ==== Sys2Proof/Machine/StreamOps.lean ====
section
/-!
DEFINITION. Stream operations (spec/06_stream_engines.md, R139 to R152, R423; spec/13_stream_macro_ops.md, R314 to
R317): chunk headers, descriptors, program words with their NSM expansion, and what an operation computes on the
chunk slot W and the packet's elements P.
-/

namespace Sys2Proof.Machine

/-! ### Chunk headers (Table 6.3) -/

structure ChunkHdr where
  ctx : Nat
  inIdx : Nat
  last : Bool
  mm : Bool
  /-- i_ovf, oob, overflow, invalid from bit 3 down -/
  flags : BitVec 4
  wtype : Nat
  seq : Nat
  chunk : Nat
  elems : Nat
  crc : Word
  deriving DecidableEq, Repr

/-- The 256-bit value of a chunk header. -/
def ChunkHdr.toNat (h : ChunkHdr) : Nat :=
  pack [(12, h.ctx), (6, h.inIdx), (1, bnat h.last), (1, bnat h.mm), (4, h.flags.toNat), (4, h.wtype), (4, 0), (32, h.seq),
        (20, h.chunk), (12, h.elems), (128, 0), (32, h.crc.toNat)]

/-- The chunk header that a 256-bit value spells. -/
def ChunkHdr.ofNat (w : Nat) : ChunkHdr :=
  { ctx := nbits w 244 12, inIdx := nbits w 238 6, last := nbit w 237, mm := nbit w 236,
    flags := BitVec.ofNat 4 (nbits w 232 4), wtype := nbits w 228 4, seq := nbits w 192 32, chunk := nbits w 172 20,
    elems := nbits w 160 12, crc := BitVec.ofNat 32 (nbits w 0 32) }

/-- The chunk header of a packet: packet payload bytes 32 to 63, the first 32 data bytes. -/
def chunkHdr (p : Packet) : ChunkHdr := ChunkHdr.ofNat (leAt p.data 0 32)

/-- The bytes after the chunk header: elements, or an announce body. -/
def chunkBody (p : Packet) : List Byte := p.data.drop 32

/-- The CRC-32C over header bytes 4 to 31 and the body (R140). -/
def chunkCrc (hdr body : List Byte) : Word := crc32c ((hdr.drop 4).take 28 ++ body)

/-- Whether the crc of a packet is right; an announce has 64 body bytes. -/
def crcGood (p : Packet) : Bool :=
  let body := if p.hdr.op = opCollAnn then slice p.data 32 64 else chunkBody p
  chunkCrc (slice p.data 0 32) body == (chunkHdr p).crc

/-- Data bytes of a packet with a chunk header whose crc is filled in. -/
def chunkData (h : ChunkHdr) (body : List Byte) : List Byte :=
  let raw := leBytes 32 { h with crc := 0 }.toNat
  leBytes 32 { h with crc := chunkCrc raw body }.toNat ++ body

/-! ### Context descriptors (Table 6.1, R134) -/

/-- Accumulator types. -/
def dtF32 : Nat := 0
def dtF64 : Nat := 1
def dtI32 : Nat := 2
def dtU32 : Nat := 3
def dtRaw : Nat := 15

def parseDesc (b : List Byte) : CtxDesc :=
  let mode := leAt b 5 1
  { job := leAt b 0 2, handler := leAt b 2 2, dtype := leAt b 4 1, init := mode % 4, rmode := nbits mode 2 2,
    final := nbit mode 4, nIn := leAt b 6 1, outIdx := leAt b 7 1, collSeq := leAt b 8 4, nChunks := leAt b 12 4,
    chunkElems := leAt b 16 2, outCtx := leAt b 18 2, outDev := leAt b 20 2, outEp := leAt b 22 2, outTc := leAt b 24 1,
    selfEp := leAt b 26 2, digest := slice b 32 16, outAddr := leAt b 48 6, seed := BitVec.ofNat 64 (leAt b 56 8),
    step := BitVec.ofNat 64 (leAt b 64 8),
    k := (List.range 4).map fun i => BitVec.ofNat 64 (leAt b (72 + 8 * i) 8),
    inTypes := (List.range 64).map fun i => nbits (leAt b (104 + i / 4) 1) (2 * (i % 4)) 2 }

/-- The wire type that an input code stands for in a context (Table 6.5), none where it is not allowed. -/
def wireType (dtype code : Nat) : Option Nat :=
  if dtype = dtF32 then (if code = 0 then some 0 else if code = 2 then some 2 else none)
  else if dtype = dtF64 then (if code = 0 then some 1 else if code = 1 then some 0 else if code = 2 then some 2 else none)
  else if dtype = dtI32 then (if code = 0 then some 3 else none)
  else if dtype = dtU32 then (if code = 0 then some 4 else none)
  else if dtype = dtRaw then (if code = 0 then some 5 else none)
  else none

/-- Table 6.4 for an accumulator that is not raw. -/
def elemLimit (dtype : Nat) (thin : Bool) : Nat :=
  if dtype = dtF64 then (if thin then 1856 else 1912) else if thin then 3776 else 3824

def accSize (dtype : Nat) : Nat := if dtype = dtF64 then 8 else 4

/-- R134: whether the engine refuses a descriptor that a packet of a job carried. -/
def descRefused (b : List Byte) (job : Nat) : Bool :=
  let d := parseDesc b
  let mode := leAt b 5 1
  let used := d.inTypes.take d.nIn
  let thin := used.any (· == 2)
  leAt b 25 1 != 0 || leAt b 28 4 != 0 || leAt b 54 2 != 0 || leAt b 120 8 != 0 || nbits mode 5 3 != 0
    || 4096 ≤ d.job || d.job != job
    || (wireType d.dtype 0).isNone || d.init == 3 || d.rmode == 3
    || (d.init == 1 && (d.dtype == dtF32 || d.dtype == dtF64)) || (d.final && d.dtype != dtF64)
    || 1023 < d.handler
    || d.nIn == 0 || 64 < d.nIn || (d.dtype == dtF64 && 2 < d.nIn) || (d.dtype == dtRaw && d.nIn != 1)
    || d.nChunks == 0 || 1048576 < d.nChunks
    || 63 < d.outIdx || 4095 < d.outCtx || 1023 < d.outDev || 1023 < d.outEp || 1023 < d.selfEp
    || used.any (fun c => (wireType d.dtype c).isNone) || (d.inTypes.drop d.nIn).any (· != 0)
    || (d.dtype != dtRaw && (d.chunkElems == 0 || elemLimit d.dtype thin < d.chunkElems
        || (thin && d.chunkElems % 64 != 0)))

/-! ### Program words (R144, R145, R314 to R317) -/

def sopNop : Nat := 0x00
def sopEnd : Nat := 0x01
def sopAdd : Nat := 0x10
def sopMin : Nat := 0x11
def sopMax : Nat := 0x12
def sopAnd : Nat := 0x13
def sopOr : Nat := 0x14
def sopXor : Nat := 0x15
def sopSort : Nat := 0x20
def sopFilter : Nat := 0x21
def sopGather : Nat := 0x22
def sopCopy : Nat := 0x23

def isRecordOp (c : Nat) : Bool := 0x20 ≤ c && c ≤ 0x23
def isArithOp (c : Nat) : Bool := 0x10 ≤ c && c ≤ 0x15

/-- Whether 32 bits are a stream operation (R144). -/
def streamOpOk (w : Nat) : Bool :=
  let c := nbits w 24 8
  w < 2 ^ 32 && nbits w 0 12 == 0 &&
    (if c == sopFilter then nbits w 20 4 ≤ 5 && nbits w 18 2 ≤ 2 && nbits w 14 4 ≤ 7
     else if isRecordOp c then nbits w 20 4 ≤ 5 && nbits w 18 2 ≤ 2 && nbits w 12 6 == 0
     else (c == sopNop || c == sopEnd || isArithOp c) && nbits w 12 12 == 0)

/-- An NSM word (R314). -/
def isNsm (w : Nat) : Bool := nbits w 496 16 == 0x4E53

/-- The stream opcode of a macro opcode (Table 13.2). -/
def nsmStreamOp (mop : Nat) : Option Nat :=
  if mop = 0x01 then some sopAdd else if mop = 0x02 then some sopMin else if mop = 0x03 then some sopMax
  else if mop = 0x04 then some sopAnd else if mop = 0x05 then some sopOr else if mop = 0x06 then some sopXor
  else if mop = 0x08 then some sopSort else if mop = 0x09 then some sopFilter else if mop = 0x0A then some sopGather
  else if mop = 0x0B then some sopCopy else if mop = 0x0F then some sopEnd else none

/-- The expansion of an NSM word (R317): bits [23:12] of the operation come from bits [487:476] where it uses them. -/
def nsmExpand (w : Nat) : Option Nat :=
  (nsmStreamOp (nbits w 488 8)).map fun c =>
    let f := nbits w 476 12
    c <<< 24 + (if c = sopFilter then f <<< 12 else if isRecordOp c then nbits f 6 6 <<< 18 else 0)

/-- R316. The ktype of the arithmetic macro-ops counts as used: R317 checks it against the context (log entry 30). -/
def nsmOk (w : Nat) : Bool :=
  match nsmExpand w with
  | none => false
  | some op =>
    let c := nbits op 24 8
    let f := nbits w 476 12
    w == nbits w 476 36 <<< 476 && streamOpOk op &&
      (if c == sopFilter then true else if isRecordOp c then nbits f 0 6 == 0
       else if isArithOp c then nbits f 0 8 == 0 else f == 0)

/-- Whether a program word is marked valid. -/
def progWordOk (w : Nat) : Bool :=
  if isNsm w then nsmOk w
  else nbits w 0 128 == 0 && nbits w 160 32 == 0 && w >>> 224 == 0 && streamOpOk (nbits w 128 32)
    && streamOpOk (nbits w 192 32)

/-- The operations of a valid word for a context, in order; none where an NSM's ktype does not suit it (R317). -/
def wordOps (dtype w : Nat) : Option (List Nat) :=
  if isNsm w then
    match nsmExpand w with
    | none => none
    | some op =>
      let c := nbits op 24 8
      let kt := nbits w 484 4
      let suits := if isArithOp c then (if sopAnd ≤ c then kt == 3 else kt == dtype) else true
      if suits then some [op, 0] else none
  else some [nbits w 128 32, nbits w 192 32]

/-- Whether Table 6.7 allows an opcode for an accumulator. -/
def opAllowed (dtype c : Nat) : Bool :=
  c == sopNop || c == sopEnd || (c == sopAdd && dtype ≤ 2) || ((c == sopMin || c == sopMax) && dtype ≤ 3)
    || ((c == sopAnd || c == sopOr || c == sopXor) && dtype == dtU32) || (isRecordOp c && dtype == dtRaw)

/-- Key bytes of a ktype, and the length of a record (Table 6.6). -/
def keyBytes (ktype : Nat) : Nat := if ktype = 1 ∨ ktype = 4 ∨ ktype = 5 then 8 else 4
def recordBytes (op : Nat) : Nat := keyBytes (nbits op 20 4) + 4 * nbits op 18 2

/-! ### Elements (R142, R148) -/

/-- Words of `n` bytes in a byte string. -/
def elemsOf (size count : Nat) (bs : List Byte) : List Nat := (List.range count).map fun i => leAt bs (size * i) size

def elemBytes (size : Nat) (es : List Nat) : List Byte := es.flatMap (leBytes size)

/-- Element `i` of thinned data as an F32 pattern. -/
def thinElem (bs : List Byte) (i : Nat) : Nat :=
  let s := Fmt.f32.decode (leAt bs (12 * (i / 64) + 8) 4)
  Fmt.f32.rne (if nbit (leAt bs (12 * (i / 64)) 8) (i % 64) then s.neg else s)

def widen (w : Nat) : Nat := Fmt.f64.rne (Fmt.f32.decode w)

/-- The elements of a contribution in the accumulator's type. -/
def operands (dtype code count : Nat) (bs : List Byte) : List Nat :=
  if code = 2 then
    (List.range count).map fun i => if dtype = dtF64 then widen (thinElem bs i) else thinElem bs i
  else if dtype = dtF64 ∧ code = 1 then (elemsOf 4 count bs).map widen
  else elemsOf (accSize dtype) count bs

/-- Element bytes that a contribution must have (R141). -/
def elemByteCount (wtype count : Nat) : Nat :=
  if wtype = 2 then 12 * cdiv count 64 else if wtype = 1 then 8 * count else 4 * count

/-- Table 6.9. -/
def initValue (dtype init : Nat) : Nat :=
  if dtype = dtF32 then (if init = 2 then 0x7F800000 else if init = 3 then 0xFF800000 else 0)
  else if dtype = dtF64 then (if init = 2 then 0x7FF0000000000000 else if init = 3 then 0xFFF0000000000000 else 0)
  else if dtype = dtI32 then
    (if init = 1 then 0xFFFFFFFF else if init = 2 then 0x7FFFFFFF else if init = 3 then 0x80000000 else 0)
  else (if init = 1 ∨ init = 2 then 0xFFFFFFFF else 0)

/-! ### Arithmetic (R149, R150) -/

def flInvalid : BitVec 4 := 1
def flOverflow : BitVec 4 := 2
def flOob : BitVec 4 := 4
def flIovf : BitVec 4 := 8

/-- One arithmetic operation on an element, with the flags it sets. -/
def arith (c dtype w p : Nat) : Nat × BitVec 4 :=
  if dtype = dtF32 ∨ dtype = dtF64 then
    let f : Fmt := if dtype = dtF32 then .f32 else .f64
    let a := f.decode w
    let b := f.decode p
    let r := if c = sopAdd then addF f w p else if c = sopMin then minF f w p else maxF f w p
    let nan := a.isNan || b.isNan
    let inv := nan || (c == sopAdd && (f.decode r).isNan)
    let ovf := c == sopAdd && !nan && !a.isInf && !b.isInf && (f.decode r).isInf
    (r, (if inv then flInvalid else 0) ||| (if ovf then flOverflow else 0))
  else
    let key (x : Nat) : Int := if dtype = dtI32 then sext 32 x else (x : Int)
    (if c = sopAdd then (w + p) % 2 ^ 32
     else if c = sopMin then (if key p < key w then p else w)
     else if c = sopMax then (if key w < key p then p else w)
     else if c = sopAnd then w &&& p
     else if c = sopOr then w ||| p
     else w ^^^ p, 0)

/-- The chunk slot while a handler works on it: its bytes, record count, flags and exact sums. -/
structure Work where
  bytes : List Byte
  recs : Nat
  recSize : Nat
  flags : BitVec 4
  exact : SMap Int
  deriving DecidableEq, Repr

/-- An arithmetic operation on every element of a contribution. -/
def Work.arith (k : Work) (c dtype i0 : Nat) (ps : List Nat) : Work :=
  let size := accSize dtype
  let ws := elemsOf size ps.length k.bytes
  let rs := (ws.zip ps).map fun x => Machine.arith c dtype x.1 x.2
  let ex := if dtype = dtI32 ∧ c = sopAdd then
      ps.zipIdx.foldl (fun m x => mset (sext 32 i0) m x.2 (mget (sext 32 i0) m x.2 + sext 32 x.1)) k.exact
    else k.exact
  { k with bytes := elemBytes size (rs.map (·.1)) ++ k.bytes.drop (size * ps.length), exact := ex,
           flags := rs.foldl (fun f r => f ||| r.2) k.flags }

/-! ### Records (R151, R152) -/

/-- Order key of a record key (R49, R151). -/
def recordKey (ktype w : Nat) : Nat :=
  if ktype = 0 then Fmt.f32.orderKey w else if ktype = 1 then Fmt.f64.orderKey w
  else if ktype = 2 then (w + 2 ^ 31) % 2 ^ 32 else if ktype = 3 then w % 2 ^ 32
  else if ktype = 4 then (w + 2 ^ 63) % 2 ^ 64 else w % 2 ^ 64

/-- Whether a key is a NaN of its type. -/
def keyNan (ktype w : Nat) : Bool :=
  if ktype = 0 then (Fmt.f32.decode w).isNan else if ktype = 1 then (Fmt.f64.decode w).isNan else false

/-- A predicate of Table 6.6 (R51). -/
def holdsPred (pred ktype k c : Nat) : Bool :=
  if pred = 6 then keyNan ktype k
  else if pred = 7 then !keyNan ktype k
  else if keyNan ktype k || keyNan ktype c then false
  else
    let a := recordKey ktype k
    let b := recordKey ktype c
    if pred = 0 then a == b else if pred = 1 then a != b else if pred = 2 then a < b else if pred = 3 then a ≤ b
    else if pred = 4 then b < a else b ≤ a

/-- A record put behind those of the sorted list whose key is not greater: later ones of equal key stay later. -/
def insertRec (key : List Byte → Nat) (r : List Byte) : List (List Byte) → List (List Byte)
  | [] => [r]
  | x :: xs => if key x ≤ key r then x :: insertRec key r xs else r :: x :: xs

/-- Stable sort by key. -/
def sortRecs (key : List Byte → Nat) (rs : List (List Byte)) : List (List Byte) :=
  rs.foldl (fun acc r => insertRec key r acc) []

/-- What an operation answers. -/
inductive OpRes where
  | ok (k : Work)
  | fault (code : Nat)
  deriving DecidableEq, Repr

/-- A record operation; `idx` is the index list of chunk slot 3. A NaN key or constant of SORT or FILTER is no float
operand of R150 and sets no flag (DESIGN CHOICE, log entry 134). -/
def Work.record (k : Work) (op elems : Nat) (ks : List Dword) (body : List Byte) (idx : List Nat) : OpRes :=
  let c := nbits op 24 8
  let kt := nbits op 20 4
  let size := recordBytes op
  let recs := chunks size k.recs (k.bytes.take (size * k.recs))
  let put (rs : List (List Byte)) (fl : BitVec 4) : OpRes :=
    .ok { k with bytes := rs.flatten ++ k.bytes.drop (size * rs.length), recs := rs.length, recSize := size,
                 flags := k.flags ||| fl }
  let key (r : List Byte) : Nat := leAt r 0 (keyBytes kt)
  if c = sopCopy then put ((List.range elems).map fun j => slice body (size * j) size) 0
  else if c = sopSort then put (sortRecs (fun r => recordKey kt (key r)) recs) 0
  else if c = sopFilter then
    let con := (ks.getD (nbits op 12 2) 0).toNat % 2 ^ (8 * keyBytes kt)
    put (recs.filter fun r => holdsPred (nbits op 14 4) kt (key r) con) 0
  else
    let l := idx.length
    if l = 0 ∨ 15296 < l * size then .fault fcDenied
    else
      put (idx.map fun i => if elems ≤ i then List.replicate size 0 else slice body (size * i) size)
        (if idx.any fun i => elems ≤ i then flOob else 0)

end Sys2Proof.Machine
end

