-- ==== Sys2Proof/Machine/Slots.lean ====
section
/-!
DEFINITION. Control words (spec/08_tile_core_execution.md, R197 to R199, R219, R220, R222; spec/09_matrix_and_vector.md,
R228, R229, R239, R241, R242, R244; spec/10_sparse_operands.md, R260, R261; spec/13_stream_macro_ops.md, R314, R318,
R319): the fields of an XCW, the checks made at dispatch, and the extents of commands. Words and slots are natural
numbers; a slot's bits are numbered from its own bit 0.
-/

namespace Sys2Proof.Machine

/-! ### The word (Table 8.1) -/

def wCtl (w : Nat) : Nat := nbits w 0 64
def wMat (w : Nat) : Nat := nbits w 64 64
def wVec0 (w : Nat) : Nat := nbits w 128 64
def wVec1 (w : Nat) : Nat := nbits w 192 64
def wAg (w g : Nat) : Nat := nbits w (256 + 32 * g) 32
def wDma (w : Nat) : Nat := nbits w 384 64
def wSync (w : Nat) : Nat := nbits w 448 32
def wTag (w : Nat) : Nat := nbits w 480 32

/-! ### ctl (Tables 8.2, 8.9) -/

def scImm (c : Nat) : Nat := nbits c 46 18
def scRel (c : Nat) : Nat := nbits c 43 3
def scK (c : Nat) : Nat := nbits c 40 3
def scC (c : Nat) : Nat := nbits c 36 4
def scOp (c : Nat) : Nat := nbits c 32 4
def lpEnd (c : Nat) : Nat := nbits c 14 18
def lpLvl (c : Nat) : Nat := nbits c 11 3
def lpOp (c : Nat) : Nat := nbits c 8 3
def holdOf (c : Nat) : Nat := nbits c 0 8 + 1

def scCset : Nat := 1
def scCseth : Nat := 2
def scCadd : Nat := 3
def scCmp : Nat := 4
def scCmpc : Nat := 5
def scBr : Nat := 6
def scBrn : Nat := 7
def scJmp : Nat := 8
def scLcset : Nat := 9
def scLcmov : Nat := 10
def scHalt : Nat := 11

/-- Fields a scalar operation uses: sc_imm, sc_rel, sc_k, sc_c (Table 8.9). -/
def scUses (op : Nat) : Bool × Bool × Bool × Bool :=
  if op = scCset ∨ op = scCseth ∨ op = scCadd then (true, false, false, true)
  else if op = scCmp ∨ op = scCmpc then (true, true, true, true)
  else if op = scBr ∨ op = scBrn then (true, false, true, false)
  else if op = scJmp then (true, false, false, false)
  else if op = scLcset then (true, false, true, false)
  else if op = scLcmov then (false, false, true, true)
  else (false, false, false, false)

/-- Loop level `l` of a core. -/
def Core.level (k : Core) (l : Nat) : LoopLevel := mget LoopLevel.reset k.lv l

def activeLevels (k : Core) : List (Nat × LoopLevel) :=
  ((List.range 6).map fun l => (l, k.level l)).filter fun p => p.2.active

/-- R198 for the ctl field, and R220 for a LOOP at word `pc`. -/
def ctlOk (k : Core) (pc c : Nat) : Bool :=
  let op := scOp c
  let (i, r, kk, cc) := scUses op
  op ≤ 11 && scRel c ≤ 5 && lpLvl c ≤ 5 && lpOp c ≤ 1
    && (i || scImm c == 0) && (r || scRel c == 0) && (kk || scK c == 0) && (cc || scC c == 0)
    && !(op == scCseth && nbits (scImm c) 14 4 != 0) && !(op == scCmpc && nbits (scImm c) 4 14 != 0)
    && !((op == scLcset || op == scLcmov) && 5 < scK c)
    && (if lpOp c = 0 then lpEnd c == 0 && lpLvl c == 0
        else !(k.level (lpLvl c)).active && pc < lpEnd c
          && (activeLevels k).all fun p => lpEnd c ≤ p.2.last && pc < p.2.last)

/-! ### ag, dma, sync (Tables 8.3 to 8.5, 12.1) -/

def agOp (g : Nat) : Nat := nbits g 28 4
def agK (g : Nat) : Nat := nbits g 25 3
def agImm (g : Nat) : Nat := nbits g 0 25

def agOk (g : Nat) : Bool :=
  let op := agOp g
  op ≤ 6 && agK g ≤ 5 && (op == 3 || agK g == 0) && (op != 0 || g == 0)
    && (op == 0 || op == 2 || op == 3 || agImm g < 2 ^ 24) && (op != 6 || agImm g < 16)

def dmaOp (d : Nat) : Nat := nbits d 60 4
def dmaEng (d : Nat) : Nat := nbits d 59 1
def dmaUseAg (d : Nat) : Bool := nbit d 58
def dmaAg (d : Nat) : Nat := nbits d 56 2
def dmaDesc (d : Nat) : Nat := nbits d 32 24

def dmaSlotOk (d : Nat) : Bool :=
  let op := dmaOp d
  op ≤ 2 && (op != 0 || d == 0) && nbits d 0 32 == 0 && dmaDesc d % 64 == 0
    && (op != 2 || (dmaEng d == 0 && !dmaUseAg d && dmaAg d == 0))
    && (op != 1 || dmaUseAg d || dmaAg d == 0)

def syOp (y : Nat) : Nat := nbits y 28 4
def sySem (y : Nat) : Nat := nbits y 18 10
def syN (y : Nat) : Nat := nbits y 0 18
def syWaits (y : Nat) : Bool := syOp y == 1 || syOp y == 5

def syncOk (y : Nat) : Bool :=
  syOp y ≤ 6 && (syOp y != 0 || y == 0) && (syOp y != 4 || syN y < 64)

/-! ### mat (Tables 9.1, 9.2, 10.2) -/

def matOp (m : Nat) : Nat := nbits m 60 4
def matSlot (m : Nat) : Nat := nbits m 54 6
def matZ (m : Nat) : Bool := nbit m 53
def matFa (m : Nat) : Nat := nbits m 50 3
def matFb (m : Nat) : Nat := nbits m 47 3
def matRne (m : Nat) : Bool := nbit m 46
def matGa (m : Nat) : Nat := nbits m 44 2
def matGb (m : Nat) : Nat := nbits m 42 2
def matPmode (m : Nat) : Nat := nbits m 40 2
def matK (m : Nat) : Nat := nbits m 27 13 + 1
def matUnits (m : Nat) : Nat := nbits m 10 17

def matMma : Nat := 1
def matMms : Nat := 2
def matClose : Nat := 3

def pairOk (fa fb : Nat) : Bool :=
  (fa == fb && fa ≤ 6) || (fa == 3 && fb == 4) || (fa == 4 && fb == 3) || (fa == 5 && fb == 6) || (fa == 6 && fb == 5)

def scaledFmt (f : Nat) : Bool := f == 5 || f == 6

/-- R229, R260. -/
def matOk (m : Nat) : Bool :=
  let op := matOp m
  if op = 0 then m == 0
  else if op = matClose then m == pack [(4, 3), (6, matSlot m), (54, 0)]
  else if op = matMma then
    pairOk (matFa m) (matFb m) && nbits m 40 2 == 0 && nbits m 0 27 == 0 && (!matRne m || matFa m == 0)
      && !((scaledFmt (matFa m) || scaledFmt (matFb m)) && matK m % 32 != 0)
  else op == matMms && 1 ≤ matFa m && matFa m ≤ 4 && pairOk (matFa m) (matFb m) && !matRne m && matPmode m != 3
    && matUnits m != 0 && nbits m 0 10 == 0 && matK m % 64 == 0

/-- Half bytes of an element of a matrix operand (Table 9.2). -/
def matHalves (f : Nat) : Nat := if f = 0 then 8 else if f = 1 ∨ f = 2 then 4 else if f = 6 then 1 else 2

/-- Extents of A and B (Table 9.3, R261). -/
def matExtA (m : Nat) : Nat :=
  if matOp m = matMms then 64 * matUnits m
  else 128 * matK m * matHalves (matFa m) / 2 + (if scaledFmt (matFa m) then 4 * matK m else 0)
def matExtB (m : Nat) : Nat :=
  64 * matK m * matHalves (matFb m) / 2 + (if scaledFmt (matFb m) then 2 * matK m else 0)

/-- Cycles for a group of 16 K indices (groups M16, M8 and M4 of Table 8.8). -/
def matCycles (m : Nat) : Nat :=
  if matFa m ≤ 2 then 16 else if matFa m = 6 ∧ matFb m = 6 then 4 else 8

/-! ### vec0 and vec1 (Tables 9.8 to 9.10) -/

def vecOp (v : Nat) : Nat := nbits v 56 8
def vecGa (v : Nat) : Nat := nbits v 54 2
def vecGb (v : Nat) : Nat := nbits v 52 2
def vecGd (v : Nat) : Nat := nbits v 50 2
def vecBs (v : Nat) : Bool := nbit v 49
def vecFmt (v : Nat) : Nat := nbits v 45 4
def vecRm (v : Nat) : Nat := nbits v 43 2
def vecSat (v : Nat) : Bool := nbit v 42
def vecN (v : Nat) : Nat := nbits v 22 20 + 1
def vecCa (v : Nat) : Nat := nbits v 18 4
def vecAux (v : Nat) : Nat := nbits v 0 18

def vAdd : Nat := 0x01
def vSub : Nat := 0x02
def vMul : Nat := 0x03
def vDiv : Nat := 0x04
def vMin : Nat := 0x05
def vMax : Nat := 0x06
def vAbs : Nat := 0x07
def vSqrt : Nat := 0x08
def vRcp : Nat := 0x09
def vExp2 : Nat := 0x0A
def vLog2 : Nat := 0x0B
def vCvt : Nat := 0x20
def vSum : Nat := 0x30
def vSumsq : Nat := 0x31
def vMeanvar : Nat := 0x32
def vAmax : Nat := 0x33
def vOpt : Nat := 0x40
def vThin : Nat := 0x48
def vDrain : Nat := 0x50
def vMov : Nat := 0x60
def vFill : Nat := 0x61

def isBinary (op : Nat) : Bool := vAdd ≤ op && op ≤ vMax
def isElementwise (op : Nat) : Bool := vAdd ≤ op && op ≤ vLog2
def isReduction (op : Nat) : Bool := vSum ≤ op && op ≤ vAmax

/-- The fields of a vector slot that its operation does not use are zero (R241, R242). -/
def vecUnused (v : Nat) (b bs fmt rm sat n aux : Bool) : Bool :=
  (b || vecGb v == 0) && (bs || !vecBs v) && (fmt || vecFmt v == 0) && (rm || vecRm v == 0) && (sat || !vecSat v)
    && (n || vecN v == 1) && (aux || vecAux v == 0) && (vecRm v != 2 || vecCa v != 15) && (vecRm v == 2 || vecCa v == 0)
    && vecRm v != 3 && (!vecSat v || vecFmt v == 3 || vecFmt v == 4)

/-- R242 for a slot of V0 (pipe 0) or V1 (pipe 1). -/
def vecOk (v pipe : Nat) : Bool :=
  let op := vecOp v
  if op = 0 then v == 0
  else if pipe = 1 then
    (op == vMov || (op == vFill && vecN v % 4 == 0)) && vecUnused v false false false false false true false
  else if isBinary op then vecUnused v true true false false false true false
  else if isElementwise op then vecUnused v false false false false false true false
  else if op = vCvt then vecUnused v false false true true true true true && vecFmt v ≤ 9 && vecAux v ≤ 9
  else if isReduction op then vecUnused v false false false false false true false
  else if op = vOpt then
    vecUnused v true false true true false true true && vecFmt v == 5 && vecRm v != 1 && vecN v % 32 == 0
  else if op = vThin then vecUnused v true false false false false true false
  else op == vDrain && vecUnused v false false true true true false true && vecGa v == 0 && vecFmt v ≤ 6 && vecAux v < 64

/-- size(f, n) of Table 9.10. -/
def vecSize (f n : Nat) : Nat :=
  if f = 0 ∨ f = 7 ∨ f = 9 then 4 * n else if f = 1 ∨ f = 2 then 2 * n else if f = 5 then 33 * cdiv n 32
  else if f = 6 then 17 * cdiv n 32 else n

/-- Extents through ga, gb and gd, none where the operation names no such operand (Table 9.10). -/
def vecExt (v : Nat) : Option Nat × Option Nat × Option Nat :=
  let op := vecOp v
  let n := vecN v
  if isBinary op then (some (4 * n), some (if vecBs v then 4 else 4 * n), some (4 * n))
  else if isElementwise op then (some (4 * n), none, some (4 * n))
  else if op = vCvt then (some (vecSize (vecAux v) n), none, some (vecSize (vecFmt v) n))
  else if isReduction op then (some (4 * n), none, some (if op = vMeanvar then 16 else 4))
  else if op = vOpt then (some (4 * n), some (4 * n), some (2 * n + n / 16))
  else if op = vThin then (some (4 * n), some (4 * n), some (12 * cdiv n 64))
  else if op = vDrain then (none, none, some (vecSize (vecFmt v) 8192))
  else if op = vMov then (some n, none, some n)
  else if op = vFill then (some 4, none, some n)
  else (none, none, none)

/-! ### NSM words (Table 13.1) -/

def nsmMop (w : Nat) : Nat := nbits w 488 8
def nsmKtype (w : Nat) : Nat := nbits w 484 4
def nsmVbytes (w : Nat) : Nat := nbits w 482 2
def nsmA (w : Nat) : Nat := nbits w 424 24
def nsmB (w : Nat) : Nat := nbits w 400 24
def nsmD (w : Nat) : Nat := nbits w 376 24
def nsmN (w : Nat) : Nat := nbits w 356 20 + 1
def nsmRel (w : Nat) : Bool := nbit w 355

def nsmMove (w : Nat) : Bool := nsmMop w == 0x0B

/-- Bytes of a record of an NCOPY (R318). -/
def nsmRecord (w : Nat) : Nat :=
  (if nsmKtype w = 1 ∨ nsmKtype w = 4 ∨ nsmKtype w = 5 then 8 else 4) + 4 * nsmVbytes w

/-- Elements of the command: bytes for a move. -/
def nsmLen (w : Nat) : Nat := if nsmMove w then nsmN w * nsmRecord w else nsmN w

/-- R318. -/
def nsmTileOk (w : Nat) : Bool :=
  nbits w 448 28 == 0 && nbits w 0 355 == 0 &&
    (if nsmMove w then
       nbits w 476 6 == 0 && nsmKtype w ≤ 5 && nsmVbytes w != 3 && nsmLen w ≤ 1048576 && nsmB w == 0
     else (nsmMop w == 1 || nsmMop w == 2 || nsmMop w == 3) && nbits w 476 12 == 0)

/-- The vector slot an accepted NSM word expands to (R319). -/
def nsmSlot (w : Nat) : Nat :=
  let op := if nsmMove w then vMov else if nsmMop w = 1 then vAdd else if nsmMop w = 2 then vMin else vMax
  pack [(8, op), (14, 0), (20, nsmLen w - 1), (22, 0)]

/-! ### The check of a word (R198, R199, R314) -/

/-- The first slot of a word that is refused, by its code in TDn_Cc_FAULT0. -/
def badSlot (k : Core) (pc w : Nat) : Option Nat :=
  if isNsm w then (if nsmTileOk w then none else some 0)
  else if wTag w ≠ 0 ∨ !ctlOk k pc (wCtl w) then some 0
  else if !matOk (wMat w) then some 1
  else if !vecOk (wVec0 w) 0 then some 2
  else if !vecOk (wVec1 w) 1 then some 3
  else if !((List.range 4).all fun g => agOk (wAg w g)) then some 4
  else if !dmaSlotOk (wDma w) then some 5
  else if !syncOk (wSync w) then some 6
  else none

/-- The queues a word targets: 0 MQ, 1 VQ0, 2 VQ1, 3 DQ0, 4 DQ1, 5 CQ (R206). -/
def targets (w : Nat) : List Nat :=
  if isNsm w then [if nsmMove w then 2 else 1]
  else
    (if matOp (wMat w) = 0 then [] else [0]) ++ (if vecOp (wVec0 w) = 0 then [] else [1])
      ++ (if vecOp (wVec1 w) = 0 then [] else [2])
      ++ (if dmaOp (wDma w) = 1 then [3 + dmaEng (wDma w)] else if dmaOp (wDma w) = 2 then [5] else [])

/-- R200: whether the word at the header address heads a program. A count of 0, outside the range of Table 8.6, fails the check
like a broken field (DESIGN CHOICE, log entry 157). -/
def headerOk (pc h : Nat) : Bool :=
  nbits h 480 32 == 0x58435748 && nbits h 472 8 == 1 && nbits h 468 4 == 0 && nbits h 464 4 == 0
    && nbits h 64 382 == 0 && nbits h 446 18 != 0 && pc + nbits h 446 18 < 2 ^ 18

/-! ### Address generators (R222, R223) -/

def Core.gen (k : Core) (g : Nat) : AddrGen := mget AddrGen.reset k.ag g

/-- R222. -/
def Core.addr (k : Core) (g : Nat) : Int :=
  let a := k.gen g
  (List.range 6).foldl (fun x l =>
    let v := k.level l
    if v.active then x + (v.index : Int) * mget 0 a.stride l else x) a.base

/-- R223 for a range of `n` bytes. -/
def Core.inWindow (k : Core) (g : Nat) (a : Int) (n : Nat) : Bool :=
  let w := k.gen g
  (w.winLo : Int) ≤ a && a + n ≤ (w.winHi : Int) + 1 && 0 ≤ a && a + n ≤ (lsSize : Int)

end Sys2Proof.Machine
end

