-- ==== Sys2Proof/Machine/VectorOps.lean ====
section
/-!
DEFINITION. What the vector engine computes on values (spec/09_matrix_and_vector.md, R243, R245 to R252;
spec/07_collectives.md, R189): element-wise operations with their flags, conversions and block encodings, the
lane-ordered reductions, one optimizer element, one thinned block.
-/

namespace Sys2Proof.Machine

/-! ### EXP2 and LOG2 (R243)

Both values are irrational except at powers, so a value known between two neighbours of a fine grid rounds as the exact
one does: the grid's half step stands for the rest (log entry 33). -/

/-- floor(ln 2 times 2 to the 160). -/
def ln2Fix : Nat := 0xb17217f7d1cf79abc9e3b39803f2f6af40f34326

/-- Terms k to k + fuel of the series of exp at x / 2^160; `t` is x^k / k!, in units of 2^-160. -/
def expSeries (x : Nat) : Nat → Nat → Nat → Nat
  | 0, _, _ => 0
  | f + 1, k, t => t + expSeries x f (k + 1) (t * x / 2 ^ 160 / (k + 1))

/-- 2 to the f, with f given in units of 2^-50 and below 1: an odd number of units of 2^-101. -/
def exp2Fix (f : Nat) : Nat := 2 * (expSeries (f * ln2Fix / 2 ^ 50) 48 0 (2 ^ 160) / 2 ^ 60) + 1

/-- EXP2 of a finite value m 2^e. -/
def exp2Fin (m e : Int) : Nat :=
  if m = 0 then 0x3F800000
  else
    let mag := floorLog2 m.natAbs 1 + e
    if mag < -26 then 0x3F800000
    else if 8 < mag then (if m < 0 then 0 else Fmt.f32.infPat)
    else
      -- the operand in units of 2^-50, exact since a significand has 24 bits
      let x : Int := if -50 ≤ e then ishl m (e + 50).toNat else m / (2 ^ (-50 - e).toNat : Int)
      let k := x / 2 ^ 50
      let f := (x % 2 ^ 50).toNat
      if f = 0 then Fmt.f32.convertMag .rne false 0 false 1 1 k
      else Fmt.f32.convertMag .rne false 0 false (exp2Fix f) 1 (k - 101)

/-- Bits of log2 of a number in [1, 2) given in units of 2^-300, by repeated squaring: the value so far and the bits
still to find. -/
def log2Bits : Nat → Nat → Nat → Nat
  | 0, _, acc => acc
  | f + 1, x, acc =>
    let y := (x * x) >>> 300
    if y < 2 ^ 301 then log2Bits f y (2 * acc) else log2Bits f (y / 2) (2 * acc + 1)

/-- LOG2 of a positive value m 2^e. -/
def log2Fin (m : Nat) (e : Int) : Nat :=
  let k := Nat.log2 m
  let ex : Int := e + k
  if m = 2 ^ k then Fmt.f32.rne (.fin ex 0)
  else
    let n : Int := (log2Bits 128 (m <<< (300 - k)) 0 : Nat)
    Fmt.f32.rne (.fin (ex * (2 : Int) ^ 129 + 2 * n + 1) (-129))

/-! ### One F32 operation with its flags (R243, R252): bit 0 invalid, bit 1 overflow -/

def f32Op (op a b : Nat) : Nat × Nat :=
  let f := Fmt.f32
  let x := f.decode a
  let y := if isBinary op then f.decode b else .fin 0 0
  let r :=
    if x.isNan || y.isNan then f.nanPat
    else if op = vAdd then addF f a b
    else if op = vSub then subF f a b
    else if op = vMul then mulF f a b
    else if op = vDiv then divF f a b
    else if op = vMin then minF f a b
    else if op = vMax then maxF f a b
    else if op = vAbs then f.rne x.abs
    else if op = vSqrt then f.sqrtRne x
    else if op = vRcp then f.divRne (.fin 1 0) x
    else if op = vExp2 then
      (match x with
       | .fin m e => exp2Fin m e
       | .inf s => if s then 0 else f.infPat
       | .nan => f.nanPat)
    else
      (match x with
       | .fin m e => if m = 0 then f.signed true f.infPat else if m < 0 then f.nanPat else log2Fin m.toNat e
       | .inf s => if s then f.nanPat else f.infPat
       | .nan => f.nanPat)
  let v := f.decode r
  -- an infinity that is exact for finite operands: a quotient by zero, LOG2(+0)
  let exactInf := (op == vDiv && y.isZero) || (op == vRcp && x.isZero) || (op == vLog2 && x.isZero)
  let ovf := v.isInf && !x.isInf && !y.isInf && !exactInf
  (r, bnat v.isNan + 2 * bnat ovf)

/-- A computation that gathers flags. -/
structure Flagged (α : Type) where
  val : α
  fl : Nat
  deriving DecidableEq, Repr

def Flagged.bind (x : Flagged α) (f : α → Flagged β) : Flagged β :=
  let y := f x.val
  { val := y.val, fl := x.fl ||| y.fl }

/-- One F32 operation on patterns. -/
def fop (op a b : Nat) : Flagged Nat := let r := f32Op op a b; { val := r.1, fl := r.2 }

/-! ### Conversions (R36 to R43, R245, R246) -/

def roundMode (rm : Nat) : Round := if rm = 0 then .rne else if rm = 1 then .rtz else .sr

/-- The floating-point format of a format code of Table 9.8, where it is one with whole-byte elements. -/
def vecFloat (f : Nat) : Option Fmt :=
  if f = 0 then some .f32 else if f = 1 then some .b16 else if f = 2 then some .h16 else if f = 3 then some .e4m3
  else if f = 4 then some .e5m2 else none

def vecInt (f : Nat) : IFmt := if f = 7 then .i32 else if f = 8 then .i8 else .u32

def isScaledVec (f : Nat) : Bool := f == 5 || f == 6
def blockFmt (f : Nat) : Fmt := if f = 5 then .e4m3 else .e2m1

/-- Bytes of an element of a format that is not block scaled. -/
def vecBytes (f : Nat) : Nat := if f = 0 ∨ f = 7 ∨ f = 9 then 4 else if f = 1 ∨ f = 2 then 2 else 1

/-- The exact value of an element pattern. -/
def vecValue (f w : Nat) : XV :=
  match vecFloat f with
  | some t => t.decode w
  | none => .fin ((vecInt f).decode w) 0

/-- One element converted to a format that is not block scaled. -/
def vecConvert (f : Nat) (x : XV) (mode : Round) (sat : Bool) (r : Nat) : Nat :=
  match vecFloat f with
  | some t => t.convert x mode sat r
  | none => (vecInt f).convert x mode r

/-- Element codes of blocks in their bytes: E4M3 one a byte, E2M1 two a byte, the lower index in the low half (R27). -/
def packCodes (f : Nat) (cs : List Nat) : List Byte :=
  if f = 5 then cs.map (BitVec.ofNat 8)
  else (List.range (cs.length / 2)).map fun i => BitVec.ofNat 8 (cs.getD (2 * i) 0 + 16 * cs.getD (2 * i + 1) 0)

def unpackCodes (f n : Nat) (bs : List Byte) : List Nat :=
  (List.range n).map fun i =>
    if f = 5 then (bs.getD i 0).toNat else nbits (bs.getD (i / 2) 0).toNat (4 * (i % 2)) 4

/-- Values as element bytes of a whole-byte format, or as element bytes and scale bytes of blocks of 32; `r` gives the
draw of each element (R39, R246). -/
def encodeElems (f : Nat) (xs : List XV) (mode : Round) (sat : Bool) (r : Nat → Nat) : List Byte × List Byte :=
  if isScaledVec f then
    let ps := xs.map fun x => Fmt.f32.rne x
    let blocks := (chunks 32 xs.length ps).zipIdx.map fun b =>
      encodeBlock (blockFmt f) mode (b.1 ++ List.replicate (32 - b.1.length) 0)
        ((List.range 32).map fun i => r (32 * b.2 + i))
    (packCodes f (blocks.flatMap (·.2)), blocks.map fun b => BitVec.ofNat 8 b.1)
  else (xs.zipIdx.flatMap fun x => leBytes (vecBytes f) (vecConvert f x.1 mode sat (r x.2)), [])

/-! ### Reductions (R247, R248) -/

/-- A lane: for MEANVAR the count, mean and m2; otherwise the value in the second place. -/
structure Lane where
  k : Nat
  a : Nat
  b : Nat
  deriving DecidableEq, Repr

/-- The exact F32 of a count. -/
def countF (k : Nat) : Nat := Fmt.f32.rne (.fin k 0)

/-- Table 9.11, step. -/
def laneStep (op : Nat) (s : Lane) (x : Nat) : Flagged Lane :=
  if op = vSum then (fop vAdd s.a x).bind fun v => ⟨{ s with a := v }, 0⟩
  else if op = vSumsq then (fop vMul x x).bind fun q => (fop vAdd s.a q).bind fun v => ⟨{ s with a := v }, 0⟩
  else if op = vAmax then (fop vAbs x 0).bind fun q => (fop vMax s.a q).bind fun v => ⟨{ s with a := v }, 0⟩
  else
    (fop vSub x s.a).bind fun d => (fop vDiv d (countF (s.k + 1))).bind fun q => (fop vAdd s.a q).bind fun mean =>
      (fop vSub x mean).bind fun e => (fop vMul d e).bind fun p => (fop vAdd s.b p).bind fun m2 =>
        ⟨{ k := s.k + 1, a := mean, b := m2 }, 0⟩

/-- Table 9.11, combine. -/
def laneCombine (op : Nat) (s t : Lane) : Flagged Lane :=
  if op = vSum ∨ op = vSumsq then (fop vAdd s.a t.a).bind fun v => ⟨{ s with a := v }, 0⟩
  else if op = vAmax then (fop vMax s.a t.a).bind fun v => ⟨{ s with a := v }, 0⟩
  else if t.k = 0 then ⟨s, 0⟩
  else if s.k = 0 then ⟨t, 0⟩
  else
    let k := s.k + t.k
    (fop vSub t.a s.a).bind fun d => (fop vDiv (countF t.k) (countF k)).bind fun q => (fop vMul d q).bind fun p =>
      (fop vAdd s.a p).bind fun mean => (fop vAdd s.b t.b).bind fun m =>
        (fop vMul (countF s.k) (countF t.k)).bind fun kk => (fop vDiv kk (countF k)).bind fun w =>
          (fop vMul d d).bind fun dd => (fop vMul dd w).bind fun z => (fop vAdd m z).bind fun m2 =>
            ⟨{ k := k, a := mean, b := m2 }, 0⟩

/-- A block of elements taken into the lanes, element i into lane i (blocks begin at multiples of 128). -/
def lanesStep (op : Nat) : List Lane → List Nat → Flagged (List Lane)
  | l :: ls, x :: xs => (laneStep op l x).bind fun l' => (lanesStep op ls xs).bind fun r => ⟨l' :: r, 0⟩
  | ls, _ => ⟨ls, 0⟩

/-- The tree over lanes h = 64, 32, …, 1. -/
def lanesFold (op : Nat) : Nat → List Lane → Flagged Lane
  | 0, ls => ⟨ls.headD ⟨0, 0, 0⟩, 0⟩
  | f + 1, ls =>
    let h := 2 ^ f
    let pairs := (ls.take h).zip ((ls.drop h).take h)
    let r : Flagged (List Lane) := pairs.foldr (fun p acc =>
      (laneCombine op p.1 p.2).bind fun v => acc.bind fun t => ⟨v :: t, 0⟩) ⟨[], 0⟩
    r.bind fun ls => lanesFold op f ls

/-- The result bytes of a reduction over n elements. -/
def reduceResult (op n : Nat) (ls : List Lane) : Flagged (List Byte) :=
  (lanesFold op 7 ls).bind fun s =>
    if op = vMeanvar then
      (fop vDiv s.b (countF n)).bind fun var => ⟨leBytes 4 s.a ++ leBytes 4 s.b ++ leBytes 4 var ++ leBytes 4 n, 0⟩
    else ⟨leBytes 4 s.a, 0⟩

/-! ### The optimizer (R249) -/

/-- The parameter block of Table 9.12. -/
structure OptPar where
  b1 : Nat
  omb1 : Nat
  b2 : Nat
  omb2 : Nat
  c1 : Nat
  c2 : Nat
  eps : Nat
  lr : Nat
  wd : Nat
  gs : Nat
  deriving DecidableEq, Repr

def parseOpt (b : List Byte) : OptPar :=
  let f (i : Nat) : Nat := leAt b (4 * i) 4
  { b1 := f 0, omb1 := f 1, b2 := f 2, omb2 := f 3, c1 := f 4, c2 := f 5, eps := f 6, lr := f 7, wd := f 8, gs := f 9 }

/-- opt_element: w1, m1 and v1. -/
def optElement (p : OptPar) (w g m0 v0 : Nat) : Flagged (Nat × Nat × Nat) :=
  (fop vMul g p.gs).bind fun gg =>
  (fop vMul p.b1 m0).bind fun ma => (fop vMul p.omb1 gg).bind fun mb => (fop vAdd ma mb).bind fun m1 =>
  (fop vMul p.b2 v0).bind fun va => (fop vMul gg gg).bind fun g2 => (fop vMul p.omb2 g2).bind fun vb =>
  (fop vAdd va vb).bind fun v1 =>
  (fop vMul m1 p.c1).bind fun mh => (fop vMul v1 p.c2).bind fun vh =>
  (fop vSqrt vh 0).bind fun sq => (fop vAdd sq p.eps).bind fun den => (fop vDiv mh den).bind fun d =>
  (fop vMul p.wd w).bind fun wd => (fop vAdd d wd).bind fun t => (fop vMul p.lr t).bind fun lt =>
  (fop vSub w lt).bind fun w1 => ⟨(w1, m1, v1), 0⟩

/-! ### The thinning encoder (R189) -/

/-- thin_block: the 12-byte block and the new residue. -/
def thinBlock (gs res : List Nat) : List Byte × List Nat :=
  let f := Fmt.f32
  let u := (gs.zip res).map fun p => addF f p.1 p.2
  let a := u.foldl (fun a x => addF f a (f.rne (f.decode x).abs)) 0
  let s := f.divRne (f.decode a) (.fin gs.length 0)
  let neg (x : Nat) : Bool := match f.decode x with
    | .fin m _ => m < 0
    | .inf b => b
    | .nan => false
  let signs := u.zipIdx.foldl (fun w x => w + (if neg x.1 then 2 ^ x.2 else 0)) 0
  (leBytes 8 signs ++ leBytes 4 s, u.map fun x => if neg x then addF f x s else subF f x s)

end Sys2Proof.Machine
end

