-- ==== Sys2Proof/Machine/Timeline.lean ====
section
/-!
DEFINITION. The matrix and vector commands of a core against the latency table (spec/08_tile_core_execution.md, R209 to
R216, R224; spec/09_matrix_and_vector.md, R230 to R252; spec/10_sparse_operands.md, R254 to R266): every command is cut
into its read cycles, the cuts of all started commands are taken in cycle order, each reads what is visible at its cycle
and leaves timed writes. The writes of a run are always those of all commands started so far, so a command that starts
later and writes in time for a read of an earlier one is seen by it (R210, R214).
-/

namespace Sys2Proof.Machine

/-! ### Shape of a command (Table 8.8) -/

def QCmd.bits (c : QCmd) : Nat := c.slot.toNat

/-- The code of the command's slot in a fault record (Table 8.15). -/
def QCmd.fslot (c : QCmd) : Nat := c.q + 1

def QCmd.isMat (c : QCmd) : Bool := c.q == 0
def QCmd.isClose (c : QCmd) : Bool := c.isMat && matOp c.bits == matClose
def QCmd.isDrain (c : QCmd) : Bool := !c.isMat && vecOp c.bits == vDrain

def groupsOf (m : Nat) : Nat := cdiv (matK m) 16

/-- How many cuts a command has, and the occupancy of every command but an MMS. -/
def QCmd.units (c : QCmd) : Nat :=
  if c.isMat then
    (if matOp c.bits = matMma then groupsOf c.bits else if matOp c.bits = matMms then matK c.bits / 64 else 1)
  else
    let op := vecOp c.bits
    let n := vecN c.bits
    if op = vThin then cdiv n 64 else if op = vDrain then 65 else if op = vMov ∨ op = vFill then cdiv n 64
    else cdiv n 128

/-- Cycles from one cut to the next. -/
def QCmd.pace (c : QCmd) : Nat :=
  if c.isMat then matCycles c.bits
  else if vecOp c.bits = vOpt then 3 else if vecOp c.bits = vThin then 2 else 1

def QCmd.occupancy (c : QCmd) : Nat :=
  if c.isClose then 1 else if c.isDrain then 64 else c.pace * c.units

/-- Read cycle of cut `j`, counted from the start; the flags of a drained bank are taken at S + 70 (R240). -/
def QCmd.readAt (c : QCmd) (j : Nat) : Nat := if c.isDrain && j == 64 then 70 else c.pace * j

/-- Where the command's results go in local store: address and length of each range (Table 9.10). -/
def QCmd.targets (c : QCmd) : List (Nat × Nat) :=
  if c.isMat then []
  else
    let e := vecExt c.bits
    [(c.dst, e.2.2.getD 0)] ++ (if vecOp c.bits = vOpt then [(c.a, e.1.getD 0)] else [])
      ++ (if vecOp c.bits = vThin then [(c.b, e.2.1.getD 0)] else [])

/-! ### Progress -/

/-- A started command and how far its cuts have been taken. -/
structure Prog where
  k : Started
  j : Nat
  /-- cycle of the next cut -/
  next : Nat
  lanes : List Lane
  acc : List Nat
  accFl : BitVec 3
  /-- address of the next tile record of an MMS -/
  tileAt : Nat
  /-- events of the sticky flags, with their cycles -/
  fl : List (Nat × BitVec 5)
  tiles : List (Nat × Bool)
  /-- the cycle at which an uncorrectable word ended the command -/
  dead : Option Nat
  deriving DecidableEq, Repr

/-- What a run's commands have made so far. -/
structure Tl where
  lsw : List LsWrite
  accw : List AccWrite
  flips : List Flip
  fault : Option CoreFault
  /-- the commands that an uncorrectable word ended: word number, slot and cycle -/
  dead : List (Nat × Nat × Nat)
  /-- faults of earlier cycles have been taken already -/
  judged : Nat
  deriving DecidableEq, Repr

def Prog.start (k : Started) : Prog :=
  { k := k, j := 0, next := k.s, lanes := List.replicate 128 ⟨0, 0, 0⟩, acc := [], accFl := 0, tileAt := k.cmd.a, fl := [],
    tiles := [], dead := none }

/-- An event of the sticky flags at cycle `t`. -/
def Prog.note (p : Prog) (t fl : Nat) : Prog := if fl = 0 then p else { p with fl := p.fl ++ [(t, BitVec.ofNat 5 fl)] }

/-- What a cut does: the results to be written with their visibility, and the progress after it. -/
structure Cut where
  p : Prog
  writes : List (Nat × Nat × List Byte)
  acc : Option AccWrite
  flip : Option Flip
  deriving DecidableEq, Repr

def Cut.of (p : Prog) (writes : List (Nat × Nat × List Byte)) : Cut := { p := p, writes := writes, acc := none, flip := none }

/-! ### Vector commands -/

/-- The draw of an SR rounding at index x (R246). -/
def Started.draw (k : Started) (x : Nat) : Nat :=
  srBits k.seed k.step k.cmd.ca.toNat (k.cmd.ca1.toNat * 2 ^ 21 + x)

/-- Elements 128 j onward: how many of n a cut of `w` elements has. -/
def cutLen (n w j : Nat) : Nat := min w (n - w * j)

/-- Ranges of local store that cut `j` of a vector command reads. The one F32 of a broadcast b, and the 4 bytes of a FILL, are
read again with every cut (DESIGN CHOICE, log entry 159). -/
def QCmd.vecReads (c : QCmd) (j : Nat) : List (Nat × Nat) :=
  let v := c.bits
  let op := vecOp v
  let n := vecN v
  let m := cutLen n 128 j
  let scaled (base f : Nat) : List (Nat × Nat) :=
    let h := if f = 5 then 32 else 16
    [(base + 4 * h * j, h * cdiv m 32), (base + h * cdiv n 32 + 4 * j, cdiv m 32)]
  if isBinary op then [(c.a + 512 * j, 4 * m), if vecBs v then (c.b, 4) else (c.b + 512 * j, 4 * m)]
  else if isElementwise op || isReduction op then [(c.a + 512 * j, 4 * m)]
  else if op = vCvt then
    (if isScaledVec (vecAux v) then scaled c.a (vecAux v)
     else [(c.a + 128 * vecBytes (vecAux v) * j, vecBytes (vecAux v) * m)])
  else if op = vOpt then
    [(c.a + 512 * j, 4 * m), (c.b + 512 * j, 4 * m), (c.dst + 128 * j, m), (c.dst + n + 4 * j, m / 32),
     (c.dst + n + n / 32 + 128 * j, m), (c.dst + 2 * n + n / 32 + 4 * j, m / 32), (64 * vecAux v, 64)]
  else if op = vThin then
    let m := cutLen n 64 j
    [(c.a + 256 * j, 4 * m), (c.b + 256 * j, 4 * m)]
  else if op = vMov then [(c.a + 64 * j, cutLen n 64 j)]
  else if op = vFill then [(c.a, 4)]
  else []

/-- F32 patterns of a byte string. -/
def words32 (n : Nat) (bs : List Byte) : List Nat := elemsOf 4 n bs

/-- Values of the moments of a block as F32 patterns (R42, R33). -/
def momentsOf (m : Nat) (els scs : List Byte) : List Nat :=
  (List.range m).map fun i =>
    Fmt.f32.rne (blockValue .e4m3 (scs.getD (i / 32) 0).toNat (els.getD i 0).toNat)

/-- Output element bytes and scale bytes of cut `j` placed in a result of n elements at `dst`. -/
def placeElems (dst f n e0 : Nat) (r : List Byte × List Byte) (vis : Nat) : List (Nat × Nat × List Byte) :=
  if isScaledVec f then
    let h := if f = 5 then 32 else 16
    [(vis, dst + h * (e0 / 32), r.1), (vis, dst + h * cdiv n 32 + e0 / 32, r.2)]
  else [(vis, dst + vecBytes f * e0, r.1)]

/-- One optimizer block of 128 elements or less (R249, R250). -/
def optCut (p : Prog) (t : Nat) (rs : List (List Byte)) : Cut :=
  let c := p.k.cmd
  let v := c.bits
  let n := vecN v
  let m := cutLen n 128 p.j
  let r (i : Nat) : List Byte := rs.getD i []
  let par := parseOpt (r 6)
  let ms := momentsOf m (r 2) (r 3)
  let vs := momentsOf m (r 4) (r 5)
  let out := ((words32 m (r 0)).zip (words32 m (r 1))).zip (ms.zip vs) |>.map fun q =>
    optElement par q.1.1 q.1.2 q.2.1 q.2.2
  let fl := out.foldl (fun f o => f ||| o.fl) 0
  let mode := roundMode (vecRm v)
  let enc (xs : List Nat) (o : Nat) : List (Nat × List Nat) :=
    (chunks 32 xs.length xs).zipIdx.map fun b => encodeBlock .e4m3 mode b.1
      ((List.range 32).map fun i => p.k.draw (2 * (128 * p.j + 32 * b.2 + i) + o))
  let m1 := out.map fun o => o.val.2.1
  let v1 := out.map fun o => o.val.2.2
  let em := enc m1 0
  let ev := enc v1 1
  let spoiled := (m1 ++ v1).any fun x => (Fmt.f32.decode x).isInf
  let bytes (b : List (Nat × List Nat)) : List Byte := packCodes 5 (b.flatMap (·.2))
  let scs (b : List (Nat × List Nat)) : List Byte := b.map fun x => BitVec.ofNat 8 x.1
  let vis := t + 10
  Cut.of (p.note vis (fl ||| (if spoiled then 2 else 0)))
    [(vis, c.a + 512 * p.j, elemBytes 4 (out.map fun o => o.val.1)),
     (vis, c.dst + 128 * p.j, bytes em), (vis, c.dst + n + 4 * p.j, scs em),
     (vis, c.dst + n + n / 32 + 128 * p.j, bytes ev), (vis, c.dst + 2 * n + n / 32 + 4 * p.j, scs ev)]

/-- One cut of a vector command other than a DRAIN, at cycle `t`, from the bytes it read. -/
def vecCut (p : Prog) (t : Nat) (rs : List (List Byte)) : Cut :=
  let c := p.k.cmd
  let v := c.bits
  let op := vecOp v
  let n := vecN v
  let j := p.j
  let m := cutLen n 128 j
  let r (i : Nat) : List Byte := rs.getD i []
  if isElementwise op then
    let xs := words32 m (r 0)
    let ys := if isBinary op then (if vecBs v then List.replicate m (leAt (r 1) 0 4) else words32 m (r 1))
      else List.replicate m 0
    let zs := (xs.zip ys).map fun q => f32Op op q.1 q.2
    Cut.of (p.note (t + 5) (zs.foldl (fun f z => f ||| z.2) 0)) [(t + 5, c.dst + 512 * j, elemBytes 4 (zs.map (·.1)))]
  else if op = vCvt then
    let f := vecAux v
    let xs : List XV :=
      if isScaledVec f then
        let cs := unpackCodes f (32 * cdiv m 32) (r 0)
        (List.range m).map fun i => blockValue (blockFmt f) ((r 1).getD (i / 32) 0).toNat (cs.getD i 0)
      else (elemsOf (vecBytes f) m (r 0)).map (vecValue f)
    -- an integer input rounds by RNE where it is not exact, whatever rm is (R39); block elements round by rm (R245)
    let mode := if (vecFloat f).isNone && !isScaledVec f && !isScaledVec (vecFmt v) then Round.rne else roundMode (vecRm v)
    Cut.of p (placeElems c.dst (vecFmt v) n (128 * j)
      (encodeElems (vecFmt v) xs mode (vecSat v) fun i => p.k.draw (128 * j + i)) (t + 7))
  else if isReduction op then
    let q := lanesStep op p.lanes (words32 m (r 0))
    let vis := p.k.s + c.units + 12
    let p := { p with lanes := q.val }.note vis q.fl
    if j + 1 < c.units then Cut.of p []
    else
      let z := reduceResult op n q.val
      Cut.of (p.note vis z.fl) [(vis, c.dst, z.val)]
  else if op = vOpt then optCut p t rs
  else if op = vThin then
    let m := cutLen n 64 j
    let z := thinBlock (words32 m (r 0)) (words32 m (r 1))
    Cut.of p [(t + 9, c.dst + 12 * j, z.1), (t + 9, c.b + 256 * j, elemBytes 4 z.2)]
  else if op = vMov then Cut.of p [(t + 4, c.dst + 64 * j, r 0)]
  else Cut.of p [(t + 4, c.dst + 64 * j, (List.replicate (cutLen n 64 j / 4) (slice (r 0) 0 4)).flatten)]

/-- Two rows of a DRAIN, from the elements of the bank it reads (R239). -/
def drainCut (p : Prog) (t : Nat) (bank : List Word) : Cut :=
  let c := p.k.cmd
  let v := c.bits
  let xs := ((bank.drop (128 * p.j)).take 128).map fun w => Fmt.f32.decode w.toNat
  Cut.of p (placeElems c.dst (vecFmt v) 8192 (128 * p.j)
    (encodeElems (vecFmt v) xs (roundMode (vecRm v)) (vecSat v) fun i => p.k.draw (128 * p.j + i)) (t + 7))

/-! ### Matrix commands -/

/-- The value with which an element enters the array, and whether its conversion to F19 overflowed (R231). -/
def matValue (f : Nat) (rne : Bool) (w : Nat) : XV × Bool :=
  if f = 0 then
    let x := toF19 rne w
    (x, x.isInf && !(Fmt.f32.decode w).isInf)
  else if f = 1 then (Fmt.b16.decode w, false)
  else if f = 2 then (Fmt.h16.decode w, false)
  else if f = 4 then (Fmt.e5m2.decode w, false)
  else if f = 6 then (Fmt.e2m1.decode w, false)
  else (Fmt.e4m3.decode w, false)

/-- Element `i` of packed elements of half-byte width `h`. -/
def elemAt (h : Nat) (bs : List Byte) (i : Nat) : Nat :=
  if h = 1 then nbits (bs.getD (i / 2) 0).toNat (4 * (i % 2)) 4 else leAt bs (h / 2 * i) (h / 2)

def scaleOf (x : XV) (sc : Nat) : XV := if sc = 0xFF then .nan else x.scale ((sc : Int) - 127)

/-- Ranges read by group `g` of an MMA: 16 K indices (or what is left) of every row of A and of B, and their scales
(Table 9.3). -/
def mmaReads (c : QCmd) (g : Nat) : List (Nat × Nat) :=
  let m := c.bits
  let K := matK m
  let k0 := 16 * g
  let w := min 16 (K - k0)
  let ha := matHalves (matFa m)
  let hb := matHalves (matFb m)
  let rows := (List.range 128).map fun i => (c.a + ha * (K * i + k0) / 2, ha * w / 2)
  let sa := if scaledFmt (matFa m) then
      (List.range 128).map fun i => (c.a + 128 * K * ha / 2 + K / 32 * i + k0 / 32, 1) else []
  let sb := if scaledFmt (matFb m) then [(c.b + 64 * K * hb / 2 + 64 * (k0 / 32), 64)] else []
  rows ++ [(c.b + hb * 64 * k0 / 2, hb * 64 * w / 2)] ++ sa ++ sb

/-- Every element of a bank after a group: `as` the rows of A, `bs` the columns of B, element by element, with the flags
(R45, R233). `z` starts from +0. -/
def groupAll (bank : List Nat) (z : Bool) (as bs : List (List XV)) : List Nat × BitVec 3 :=
  let r := as.zipIdx.map fun a => bs.zipIdx.map fun b =>
    let acc := if z then 0 else bank.getD (64 * a.2 + b.2) 0
    dotGroup acc ((a.1.zip b.1).map fun q => dotTerm q.1 q.2)
  let flat := r.flatten
  (flat.map (·.1), flat.foldl (fun f q => f ||| q.2) 0)

/-- Group `p.j` of an MMA, from the bytes of `mmaReads` and the accumulator as the groups before have left it. -/
def mmaCut (p : Prog) (t : Nat) (bank : Bool) (old : List Nat) (rs : List (List Byte)) : Cut :=
  let c := p.k.cmd
  let m := c.bits
  let k0 := 16 * p.j
  let w := min 16 (matK m - k0)
  let fa := matFa m
  let fb := matFb m
  let sa := 129
  let sb := if scaledFmt fa then 257 else 129
  let rowsA := (List.range 128).map fun i => (List.range w).map fun k =>
    let x := matValue fa (matRne m) (elemAt (matHalves fa) (rs.getD i []) k)
    (if scaledFmt fa then scaleOf x.1 ((rs.getD (sa + i) []).getD 0 0).toNat else x.1, x.2)
  let colsB := (List.range 64).map fun j => (List.range w).map fun k =>
    let x := matValue fb (matRne m) (elemAt (matHalves fb) (rs.getD 128 []) (64 * k + j))
    (if scaledFmt fb then scaleOf x.1 ((rs.getD sb []).getD j 0).toNat else x.1, x.2)
  let spill := rowsA.any (·.any (·.2)) || colsB.any (·.any (·.2))
  let first := matZ m && p.j == 0
  let g := groupAll old first (rowsA.map (·.map (·.1))) (colsB.map (·.map (·.1)))
  let aw : AccWrite := { vis := t + matCycles m + 10, ord := c.ord, word := c.word, slot := matSlot m, bank := bank,
                         vals := g.1.map (BitVec.ofNat 32), clear := first, flags := g.2 ||| flagBits false spill false }
  { p := p, writes := [], acc := some aw, flip := none }

/-! ### Sparse tiles (R254 to R263) -/

/-- Bytes of element of a sparse operand. -/
def spBytes (m : Nat) : Nat := if matFa m ≤ 2 then 2 else 1

/-- A tile record as the walk reads it: `rd a n` gives record bytes, zeros beyond the extent. The entries of the sparse
form as (row, k, position), in order. -/
def spEntries (counts runs : List Nat) : List (Nat × Nat × Nat) :=
  let r := counts.zipIdx.foldl (fun (acc : List (Nat × Nat × Nat) × Nat) c =>
    let row := (List.range c.1).foldl (fun (q : List (Nat × Nat × Nat) × Nat × Nat) _ =>
      let k := q.2.1 + runs.getD q.2.2 0
      (q.1 ++ [(c.2, k, q.2.2)], k + 1, q.2.2 + 1)) (acc.1, 0, acc.2)
    (row.1, row.2.2)) ([], 0)
  r.1

/-- Cost of a tile (Table 10.3). -/
def spCost (m n : Nat) (dense : Bool) : Nat :=
  if spBytes m = 2 then (if dense then 64 else max 8 (cdiv (5 * n) 256)) else if dense then 32 else max 4 (cdiv (5 * n) 512)

/-- Whether a record of density n goes the dense path (R262). -/
def spDense (m thr form n : Nat) : Bool :=
  form == 1 || matPmode m == 1 || (matPmode m == 0 && thr < n)

/-- The record at a byte address, zeros beyond the A extent (R258, R261). -/
def spRd (c : QCmd) (rd : Nat → Nat → List Byte) (a n : Nat) : List Byte :=
  let fin := c.a + matExtA c.bits
  padTo n (rd a (min n (fin - a)))

/-- Ranges that the walk of the record at `a` reads, inside the extent. -/
def spReads (c : QCmd) (rd : Nat → Nat → List Byte) (a t : Nat) : List (Nat × Nat) :=
  let m := c.bits
  let s := spBytes m
  let h := spRd c rd a 64
  let n := leAt h 2 2 % 2 ^ 14
  let parts :=
    if nbit (leAt h 0 1) 0 then [(a, 1), (a + 2, 4), (a + 64, 8192 * s)]
    else
      let counts := (spRd c rd (a + 64) 128).map (·.toNat)
      let total := counts.foldl (· + ·) 0
      let runs := (spRd c rd (a + 192) total).map (·.toNat)
      [(a, 1), (a + 2, 4), (a + 64, 128), (a + 192, total)]
        ++ ((spEntries counts runs).filter fun e => e.2.1 ≤ 63).map fun e => (a + 192 + n + s * e.2.2, s)
  let fin := c.a + matExtA m
  let sb := matHalves (matFb m) / 2
  (parts.filterMap fun r => if r.1 < fin then some (r.1, min r.2 (fin - r.1)) else none)
    ++ [(c.b + sb * 64 * 64 * t, sb * 64 * 64)]

/-- decode_tile (R258): rows of 64 element patterns. -/
def spTile (c : QCmd) (rd : Nat → Nat → List Byte) (a : Nat) : List (List Nat) :=
  let m := c.bits
  let s := spBytes m
  let h := spRd c rd a 64
  let n := leAt h 2 2 % 2 ^ 14
  if nbit (leAt h 0 1) 0 then
    let bs := spRd c rd (a + 64) (8192 * s)
    (List.range 128).map fun i => (List.range 64).map fun k => leAt bs (s * (64 * i + k)) s
  else
    let counts := (spRd c rd (a + 64) 128).map (·.toNat)
    let total := counts.foldl (· + ·) 0
    let runs := (spRd c rd (a + 192) total).map (·.toNat)
    let es := (spEntries counts runs).filter fun e => e.2.1 ≤ 63
    let vals := es.map fun e => (64 * e.1 + e.2.1, leAt (spRd c rd (a + 192 + n + s * e.2.2) s) 0 s)
    (List.range 128).map fun i => (List.range 64).map fun k =>
      ((vals.find? fun v => v.1 == 64 * i + k).map (·.2)).getD 0

/-- Tile `p.j` of an MMS. Its accumulator writes all become visible at the end. Every product is formed as the dense MMA forms
it, also one of a zero of A and a NaN or infinity of B (DEDUCED, log entry 158). -/
def mmsCut (p : Prog) (t : Nat) (bank : Bool) (old : List Nat) (rd : Nat → Nat → List Byte) : Cut :=
  let c := p.k.cmd
  let m := c.bits
  let h := spRd c rd p.tileAt 64
  let n := leAt h 2 2 % 2 ^ 14
  let dense := spDense m p.k.thr (leAt h 0 1 % 2) n
  let cost := spCost m n dense
  let sb := matHalves (matFb m) / 2
  let bbs := rd (c.b + sb * 64 * 64 * p.j) (sb * 64 * 64)
  let tile := spTile c rd p.tileAt
  let start := if p.j = 0 then old else p.acc
  let r := (List.range 4).foldl (fun (q : List Nat × BitVec 3) g =>
    let as := tile.map fun row => ((row.drop (16 * g)).take 16).map fun w => (matValue (matFa m) false w).1
    let bs := (List.range 64).map fun j => (List.range 16).map fun k =>
      (matValue (matFb m) false (leAt bbs (sb * (64 * (16 * g + k) + j)) sb)).1
    let x := groupAll q.1 (matZ m && p.j == 0 && g == 0) as bs
    (x.1, q.2 ||| x.2)) (start, p.accFl)
  let p := { p with acc := r.1, accFl := r.2, tileAt := p.tileAt + 64 * leAt h 4 2,
                    tiles := p.tiles ++ [(t, dense)], next := t + cost }
  let aw : Option AccWrite :=
    if p.j + 1 < c.units then none
    else some { vis := t + cost + 10, ord := c.ord, word := c.word, slot := matSlot m, bank := bank,
                vals := r.1.map (BitVec.ofNat 32), clear := matZ m, flags := r.2 }
  { p := p, writes := [], acc := aw, flip := none }

/-! ### Hazards (R215, R216, R238) -/

/-- What the checks of a run look at: the core's commands in their queues, and its DMA GETs. -/
structure Watch where
  on : Bool
  queued : List QCmd
  started : List Started
  gets : List GetRange
  deriving DecidableEq, Repr

/-- Whether an uncorrectable word has ended command `c` by cycle `t`: it makes no write visible later (R224). -/
def endedBy (dead : List (Nat × Nat × Nat)) (c : QCmd) (t : Nat) : Bool :=
  dead.any fun d => d.1 == c.ord && d.2.1 == c.fslot && d.2.2 ≤ t

/-- Whether a write of command `c` to byte `a` is still to become visible after cycle `t`. -/
def pendingByte (lsw : List LsWrite) (dead : List (Nat × Nat × Nat)) (c : QCmd) (t a : Nat) : Bool :=
  (c.targets.any fun r => r.1 ≤ a && a < r.1 + r.2) && !endedBy dead c t
    && !(lsw.any fun w => w.ord == c.ord && w.slot == c.fslot && w.vis ≤ t && w.touches a 1)

/-- The first byte of a range with a pending write, and what writes it: the writing word, or a DMA engine. The reader's own
word is none (R215). Where several writes of the byte are pending, R216 does not say which is named: the first command to
have started, then the first queued, then a DMA engine (DESIGN CHOICE, log entry 148). -/
def Watch.byteHazard (w : Watch) (lsw : List LsWrite) (dead : List (Nat × Nat × Nat)) (ord t a n : Nat) : Option (Nat × (Nat ⊕ Nat)) :=
  let cmds := (w.started.map (·.cmd) ++ w.queued).filter fun c =>
    c.ord < ord && c.targets.any fun r => r.1 < a + n && a < r.1 + r.2
  let gets := w.gets.filter fun g => g.ord != ord && g.d ≤ t && g.fin.all (t < ·) && g.addr < a + n && a < g.addr + g.len
  if cmds.isEmpty && gets.isEmpty then none
  else (List.range n).findSome? fun i =>
    match cmds.find? fun c => pendingByte lsw dead c t (a + i) with
    | some c => some (a + i, .inl c.word)
    | none => (gets.find? fun g => g.addr ≤ a + i && a + i < g.addr + g.len).map fun g => (a + i, .inr g.eng)

/-- The bank that matrix command `c` writes: the active one after every CLOSE of its slot ahead of it in MQ. -/
def landingBank (base : Bool) (ahead : List QCmd) (slot : Nat) : Bool :=
  base != (countWhere (fun c => c.isClose && matSlot c.bits == slot) ahead % 2 == 1)

/-- The first earlier word with a pending write to a bank at cycle `t`: a CLOSE that has not flipped, or a matrix command
of that bank whose last write is not visible (R236). -/
def Watch.bankHazard (w : Watch) (base : Bool) (tl : Tl) (ord t slot : Nat) (bank : Bool) : Option Nat :=
  let mq := (w.started.map (·.cmd)).filter (·.isMat) ++ w.queued.filter (·.isMat)
  (mq.zipIdx.find? fun q =>
    let c := q.1
    c.ord < ord && matSlot c.bits == slot &&
      (if c.isClose then !(tl.flips.any fun f => f.ord == c.ord && f.cyc ≤ t)
       else landingBank base (mq.take q.2) slot == bank && !endedBy tl.dead c t &&
         !(let ws := tl.accw.filter fun x => x.ord == c.ord
           ws.length == (if matOp c.bits = matMms then 1 else c.units) && ws.all fun x => x.vis ≤ t))).map (·.1.word)

/-- A fault of a command. -/
def cmdFault (c : QCmd) (t code : Nat) : CoreFault :=
  { cyc := t, code := code, slot := c.fslot, kind := 0, space := 0, pc := c.word, eng := 0, ag := 0, wpc := 0, addr := 0 }

/-- The earlier of two faults; of one cycle, the one in the lower slot (R216). -/
def earlierFault (a b : Option CoreFault) : Option CoreFault :=
  match a, b with
  | some x, some y => if y.cyc < x.cyc ∨ (y.cyc = x.cyc ∧ y.slot < x.slot) then some y else some x
  | some x, none => some x
  | none, y => y

/-- A run that comes to a fault. -/
def Tl.report (tl : Tl) (f : Option CoreFault) : Tl :=
  { tl with fault := earlierFault tl.fault (f.filter fun f => tl.judged ≤ f.cyc) }

/-- A run in which an uncorrectable word ends command `c` at cycle `t`. -/
def Tl.ended (tl : Tl) (c : QCmd) (t : Nat) : Tl := { tl with dead := (c.ord, c.fslot, t) :: tl.dead }

/-- The hazard of local-store reads at cycle `t`: the lowest address found. -/
def Watch.readHazard (w : Watch) (lsw : List LsWrite) (dead : List (Nat × Nat × Nat)) (c : QCmd) (t : Nat)
    (rs : List (Nat × Nat)) : Option CoreFault :=
  if !w.on then none
  else
    let hs := rs.filterMap fun r => w.byteHazard lsw dead c.ord t r.1 r.2
    match hs with
    | [] => none
    | h :: r =>
      let h := r.foldl (fun m x => if x.1 < m.1 then x else m) h
      let f := { cmdFault c t fcHazard with addr := h.1 }
      match h.2 with
      | .inl wd => some { f with wpc := wd }
      | .inr e => some { f with kind := 1, eng := e }

/-- The address field of a hazard in accumulator memory (Table 8.15). -/
def accAddrField (slot : Nat) (bank : Bool) (off : Nat) : Nat := pack [(6, slot), (1, bnat bank), (6, 0), (15, off)]

/-! ### One cut in the run -/

/-- The core's run as commands see it. -/
structure RunEnv where
  u : Nat
  w : Watch
  deriving DecidableEq, Repr

/-- The result of a cut put into the run: writes that fall in part on an uncorrectable word are not made and end the
command (R269). -/
def State.putCut (s : State) (u : Nat) (tl : Tl) (c : Cut) : Tl × Prog :=
  let k := c.p.k.cmd
  let r := c.writes.foldl (fun (q : Tl × Prog) w =>
    if q.2.dead.isSome then q
    else if s.lsUePart u q.1.lsw w.1 w.2.1 w.2.2.length then
      ((q.1.ended k w.1).report (some (cmdFault k w.1 fcEccUe)), { q.2 with dead := some w.1, fl := q.2.fl.filter fun e => e.1 < w.1 })
    else
      let x : LsWrite := { vis := w.1, ord := k.ord, word := k.word, slot := k.fslot, addr := w.2.1, bytes := w.2.2 }
      ({ q.1 with lsw := q.1.lsw ++ [x] }, q.2)) (tl, c.p)
  ({ r.1 with accw := r.1.accw ++ c.acc.toList, flips := r.1.flips ++ c.flip.toList }, r.2)

/-- The command ends at a read of cycle `t` that met an uncorrectable word: it makes no write visible after it (R224). -/
def Tl.cutShort (tl : Tl) (c : QCmd) (t : Nat) : Tl :=
  Tl.report { tl.ended c t with
    lsw := tl.lsw.filter fun w => !(w.ord == c.ord && w.slot == c.fslot && t < w.vis),
    accw := if c.isMat then tl.accw.filter fun w => !(w.ord == c.ord && t < w.vis) else tl.accw }
    (some (cmdFault c t fcEccUe))

/-- The command that ends there: a result that will not become visible sets no flag (log entry 97). -/
def Prog.ends (p : Prog) (t : Nat) : Prog := { p with dead := some t, fl := p.fl.filter fun e => e.1 ≤ t }

/-- Whether the bank has an uncorrectable word at cycle `t` that no write of the run has replaced. -/
def State.bankUe (s : State) (u : Nat) (accw : List AccWrite) (t slot : Nat) (bank : Bool) (off n : Nat) : Bool :=
  let a := bankAddr slot bank + off
  (!(accw.any (AccWrite.on slot bank)) && (s.ueIn (.acc u) a n).isSome)
    || (s.core u).decays.any fun d => d.1 && d.2.2 ≤ t && a / 8 ≤ d.2.1 / 8 && d.2.1 / 8 ≤ (a + n - 1) / 8
        && !(accw.any fun w => w.hides d.2.1 d.2.2)

/-- The next cut of a command at cycle `p.next`. The HAZARD of a flip under a DRAIN names the bank that has just become shadow,
as R238 gives the offset alone (DESIGN CHOICE, log entry 149). The flags that a DRAIN takes are those of the bank from which it
read its last rows (R240; DESIGN CHOICE, log entry 160). -/
def State.runCut (s : State) (e : RunEnv) (tl : Tl) (p : Prog) : Tl × Prog :=
  let u := e.u
  let c := p.k.cmd
  let t := p.next
  let rd (a n : Nat) : List Byte := s.lsRead u tl.lsw t a n
  let after (r : Tl × Prog) : Tl × Prog :=
    (r.1, { r.2 with j := p.j + 1, next := if c.isMat && matOp c.bits == matMms then r.2.next
                                           else p.k.s + c.readAt (p.j + 1) })
  if p.dead.isSome then after (tl, p)
  else if c.isClose then
    let f : Flip := { cyc := t + 10, ord := c.ord, word := c.word, slot := matSlot c.bits }
    after ({ tl with flips := tl.flips ++ [f] }, p)
  else if c.isMat then
    let mma := matOp c.bits == matMma
    let rs := if mma then mmaReads c p.j else spReads c rd p.tileAt p.j
    let slot := matSlot c.bits
    let bank := s.activeAfter u tl.flips slot fun _ => true
    let fresh := matZ c.bits && p.j == 0
    let useBank := !fresh && (mma || p.j == 0)
    if (rs.any fun r => s.lsUe u tl.lsw t r.1 r.2) || (useBank && s.bankUe u tl.accw t slot bank 0 32768) then
      after (tl.cutShort c t, p.ends t)
    else
      let tl := tl.report (e.w.readHazard tl.lsw tl.dead c t rs)
      let old := if useBank then (s.bankUnder u tl.accw slot bank).map (·.toNat) else []
      let cut := if mma then mmaCut p t bank old (rs.map fun r => rd r.1 r.2) else mmsCut p t bank old rd
      after (s.putCut u tl cut)
  else if c.isDrain then
    let slot := vecAux c.bits % 64
    if p.j = 64 then
      let bank := !(s.activeAfter u tl.flips slot fun f => f.cyc ≤ p.k.s + 63)
      let fl := (s.bankFlagsUnder u (tl.accw.filter fun w => w.vis ≤ t) slot bank).toNat
      after (tl, p.note t (4 * fl))
    else
      let bank := !(s.activeAfter u tl.flips slot fun f => f.cyc ≤ t)
      let seen := tl.accw.filter fun w => w.vis ≤ t
      if s.bankUe u seen t slot bank (512 * p.j) 512 then after (tl.cutShort c t, p.ends t)
      else
        let base := mget false s.accBank1 (64 * u + slot)
        let early := (e.w.bankHazard base tl c.ord t slot bank).map fun wd =>
          { cmdFault c t fcHazard with space := 1, wpc := wd, addr := accAddrField slot bank (512 * p.j) }
        let late := if p.j = 0 then none
          else (tl.flips.find? fun f => f.slot == slot && f.cyc == t).map fun f =>
            { cmdFault c t fcHazard with space := 1, wpc := f.word, addr := accAddrField slot bank (512 * p.j) }
        let tl := if e.w.on then tl.report (earlierFault early late) else tl
        after (s.putCut u tl (drainCut p t (s.bankUnder u seen slot bank)))
  else
    let rs := c.vecReads p.j
    if rs.any fun r => s.lsUe u tl.lsw t r.1 r.2 then after (tl.cutShort c t, p.ends t)
    else
      let tl := tl.report (e.w.readHazard tl.lsw tl.dead c t rs)
      after (s.putCut u tl (vecCut p t (rs.map fun r => rd r.1 r.2)))

/-! ### The whole run -/

def Prog.done (p : Prog) : Bool := p.k.cmd.units ≤ p.j

/-- The command whose next cut comes first: by cycle, then by slot (R216). -/
def firstProg : List Prog → Option Prog
  | [] => none
  | p :: r =>
    match firstProg r with
    | none => if p.done then none else some p
    | some q =>
      if p.done then some q
      else if p.next < q.next || (p.next == q.next && p.k.cmd.q ≤ q.k.cmd.q) then some p else some q

/-- All cuts in cycle order; `fuel` is their number. -/
def State.runCuts (s : State) (e : RunEnv) : Nat → Tl → List Prog → Tl × List Prog
  | 0, tl, ps => (tl, ps)
  | f + 1, tl, ps =>
    match firstProg ps with
    | none => (tl, ps)
    | some p =>
      let r := s.runCut e tl p
      State.runCuts s e f r.1
        (updFirst (fun q => q.k.cmd.ord == p.k.cmd.ord && q.k.cmd.q == p.k.cmd.q) (fun _ => r.2) ps)

/-- Bytes of local store that the DMA GETs of a core write (R215): of those that started, of those that wait, and of those
whose completion has been signalled, whose earlier reads are hazards still. The completion of a GET that ended without one is
never signalled (DEDUCED, log entry 156). -/
def State.getRanges (s : State) (u : Nat) : List GetRange :=
  let k := s.core u
  let queued (eng : Nat) (q : List DCmd) : List GetRange := q.filterMap fun c =>
    let d := s.lsNow u (dmaDesc c.slot.toNat) 64
    if leAt d 0 1 = 0 then
      some { eng := eng, ord := c.ord, d := c.d, addr := if dmaUseAg c.slot.toNat then c.ls else leAt d 16 4 % 2 ^ 24, len := leAt d 4 4,
             fin := none }
    else none
  (k.dma.filterMap fun o => o.dest.map fun r => { eng := o.eng, ord := o.ord, d := o.d, addr := r.1, len := r.2, fin := none })
    ++ queued 0 k.dq0 ++ queued 1 k.dq1 ++ k.gotten

/-- First cycle at which the next command of a queue may start, as its last started command has it (R209). -/
def freeAfter (q : Nat) (l : List Started) : Option Nat :=
  ((l.filter fun c => c.cmd.q == q).getLast?).map fun c => c.s + max c.occ 1

/-- The writes, flips, flags and tiles of every command the core has started, and the earliest fault they come to. An MMS
takes its occupancy from the tiles it reads (R263), so the matrix queue's next start follows them; a command that an
uncorrectable word ended occupies its engine to that cycle (R224). -/
def State.replay (s : State) (u : Nat) : State :=
  let k := s.core u
  let e : RunEnv := { u := u, w := { on := k.safelight, queued := k.mq ++ k.vq0 ++ k.vq1, started := k.started,
                                     gets := if k.safelight then s.getRanges u else [] } }
  let fuel := k.started.foldl (fun n c => n + c.cmd.units) 0
  let tl : Tl := { lsw := k.lsw.filter fun w => w.slot == 7, accw := [], flips := [], fault := none, dead := [], judged := k.judged }
  let r := s.runCuts e fuel tl (k.started.map Prog.start)
  let upd (c : Started) (p : Prog) : Started :=
    let occ := if c.cmd.isMat && matOp c.cmd.bits == matMms then p.next - c.s else c.occ
    { c with fl := p.fl, cut := p.dead, tiles := p.tiles, occ := (p.dead.map fun t => min occ (t - c.s)).getD occ }
  let started := (k.started.zip r.2).map fun x => upd x.1 x.2
  s.setCore u { k with lsw := r.1.lsw, accw := r.1.accw, flips := r.1.flips, fault := r.1.fault, started := started,
                       mqFree := (freeAfter 0 started).getD k.mqFree }

end Sys2Proof.Machine
end

