-- ==== Sys2Proof/Machine/Control.lean ====
section
/-!
DEFINITION. The control core (spec/08_tile_core_execution.md, R197 to R224; spec/12_synchronisation.md, R292 to R296;
spec/13_stream_macro_ops.md, R318 to R322): start, stop, clear, dispatch, faults, and the start of matrix and vector
commands.
-/

namespace Sys2Proof.Machine

/-! ### Matrix and vector commands start (R209) -/

def Core.queue (k : Core) (q : Nat) : List QCmd := if q = 0 then k.mq else if q = 1 then k.vq0 else k.vq1
def Core.setQueue (k : Core) (q : Nat) (l : List QCmd) : Core :=
  if q = 0 then { k with mq := l } else if q = 1 then { k with vq0 := l } else { k with vq1 := l }
def Core.free (k : Core) (q : Nat) : Nat := if q = 0 then k.mqFree else if q = 1 then k.vq0Free else k.vq1Free
def Core.setFree (k : Core) (q n : Nat) : Core :=
  if q = 0 then { k with mqFree := n } else if q = 1 then { k with vq0Free := n } else { k with vq1Free := n }

/-- S of R209. -/
def Core.startAt (k : Core) (c : QCmd) : Nat := max (c.d + 1) (k.free c.q)

/-- The command at the head of queue `q` of core `u` starts, where it is one the row is for. A core that stands still
has then reached its start. -/
def State.startCmd (s : State) (u q : Nat) (is : Nat → Bool) : State :=
  let k := s.core u
  match k.queue q with
  | [] => s
  | c :: r =>
    if !is c.bits then s
    else
      let st := k.startAt c
      let n : Started := { cmd := c, s := st, occ := c.occupancy,
                           seed := BitVec.ofNat 64 (s.reg64 (R.tdCSeedLo u) (R.tdCSeedHi u)),
                           step := BitVec.ofNat 64 (s.reg64 (R.tdCStepLo u) (R.tdCStepHi u)),
                           thr := s.fld (R.tdCSpthr u) 13 0, fl := [], cut := none, tiles := [] }
      let s := State.replay (s.setCore u { (k.setQueue q r) with started := k.started ++ [n], now := max k.now st }) u
      let k := s.core u
      let occ := (k.started.getLast?.map (·.occ)).getD 1
      s.setCore u (k.setFree q (st + max occ 1))

/-- The rows of the matrix queue and of the two vector queues. -/
def State.startMat (s : State) (u op : Nat) : State := s.startCmd u 0 fun b => matOp b == op
def State.startVec (s : State) (u op : Nat) : State :=
  s.startCmd u (if op = vMov ∨ op = vFill then 2 else 1) fun b => vecOp b == op

/-- The queue whose head can start by cycle `t`. -/
def Core.dueQueue (k : Core) (t : Nat) : Option Nat :=
  [0, 1, 2].find? fun q => match k.queue q with
    | c :: _ => k.startAt c ≤ t
    | [] => false

/-- A command that could have started by cycle `t` is still at the head of its queue. -/
def Core.due (k : Core) (t : Nat) : Bool := (k.dueQueue t).isSome

/-- Commands that start by cycle `t` start, at most `fuel` of them. -/
def State.startUpTo (u t : Nat) : Nat → State → State
  | 0, s => s
  | fuel + 1, s =>
    match (s.core u).dueQueue t with
    | some q => State.startUpTo u t fuel (s.startCmd u q fun _ => true)
    | none => s

/-- Every command of a core that starts by cycle `t` starts. -/
def State.startDue (s : State) (u t : Nat) : State :=
  let k := s.core u
  State.startUpTo u t (k.mq.length + k.vq0.length + k.vq1.length) s

/-! ### Faults (R224) -/

/-- The record of a fault: the first since CAUSE.fault was cleared. -/
def State.recordCoreFault (s : State) (u : Nat) (f : CoreFault) : State :=
  let s :=
    if s.reg (R.tdCFault0 u) = 0 then
      (((s.setReg (R.tdCFault0 u)
          (atFld 31 24 f.code ||| atFld 23 21 f.slot ||| atFld 20 20 f.kind ||| atFld 19 18 f.space ||| atFld 17 0 f.pc)).setReg
        (R.tdCFault1 u) (atFld 20 20 f.eng ||| atFld 19 18 f.ag ||| atFld 17 0 f.wpc)).setReg
        (R.tdCFault2 u) (BitVec.ofNat 32 f.addr)).setReg (R.tdCFault3 u) (BitVec.ofNat 32 f.cyc)
    else s
  s.raise (R.tdCCause u) 0

/-- The fault as its record shows it: CYC stands still in HALTED and FAULTED (R204), but a HAZARD names its read cycle
(R216; log entry 64). -/
def Core.shownFault (k : Core) (f : CoreFault) : CoreFault :=
  if k.st = .running ∨ k.st = .waiting ∨ f.code = fcHazard then f else { f with cyc := k.cyc }

/-- The core in FAULTED: unstarted commands are discarded, but for the DMA command `keep` of a COPY hazard, which
completes; commands that started by the fault, or all that started where `all` is set, run to their ends. -/
def Core.faulted (k : Core) (f : CoreFault) (all : Bool) (keep : Option Nat) : Core :=
  let run := k.st == .running || k.st == .waiting
  let mine (d : DCmd) : Bool := keep == some d.ord
  { k with
    st := .faulted, pc := f.pc, cyc := if run then f.cyc else k.cyc, now := max k.clock f.cyc,
    lv := if k.st == .running && !k.blocked && f.cyc < k.holdTo then k.lvHeld else k.lv,
    blocked := false, halting := false, stopping := false,
    mq := [], vq0 := [], vq1 := [], dq0 := k.dq0.filter mine, dq1 := k.dq1.filter mine, cq := [], judged := f.cyc + 1,
    started := k.started.filter fun c => all || c.s ≤ f.cyc }

/-- A core enters FAULTED by a fault, or by an earlier one that its started commands come to. A fault of a core that is
FAULTED already is only recorded. The cycles it spent in WAITING are counted (R207). -/
def State.enterFault (s : State) (u : Nat) (f : CoreFault) (all : Bool) (keep : Option Nat) : State :=
  let k := s.core u
  if k.st = .faulted then (s.recordCoreFault u (k.shownFault f)).coreFaultGroup u f.code
  else
  let s := s.startDue u f.cyc
  let k := s.core u
  let f := (earlierFault (some f) (k.fault.filter fun g => g.cyc ≤ f.cyc)).getD f
  let s := if k.st = .waiting then s.addCtr (R.tdCStallLo u 6) (f.cyc - k.cyc) else s
  let s := (s.setCore u (k.faulted f all keep)).replay u
  (s.recordCoreFault u (k.shownFault f)).coreFaultGroup u f.code

/-- The core's time has reached cycle `t`: a fault of its started commands up to then is taken. -/
def State.takeFault (s : State) (u t : Nat) : State :=
  let k := s.core u
  match k.fault with
  | none => s
  | some f =>
    if t < f.cyc then s
    else if k.st = .faulted then
      (State.replay (s.setCore u { k with judged := f.cyc + 1 }) u).enterFault u f false none
    else s.enterFault u f false none

/-- A fault raised outside the schedule, by a DMA command or a collective command dispatched at cycle `d` (R163, R226):
not before d + 1, and commands that started run on. -/
def State.asyncFault (s : State) (u d code pc : Nat) : State :=
  let f : CoreFault := { cyc := max (s.core u).clock (d + 1), code := code, slot := 5, kind := 0, space := 0, pc := pc, eng := 0,
                         ag := 0, wpc := 0, addr := 0 }
  s.enterFault u f true none

/-- A fault at the dispatch of word `pc` in cycle `t`. -/
def State.wordFault (s : State) (u t code slot ag addr : Nat) : State :=
  let f : CoreFault := { cyc := t, code := code, slot := slot, kind := 0, space := 0, pc := (s.core u).pc, eng := 0, ag := ag,
                         wpc := 0, addr := addr }
  s.enterFault u f false none

/-! ### Start, stop, clear (R199 to R205) -/

/-- TDn_Cc_STAT.qempty: every queue is empty, every started command has ended (a COLL command with its collective, R191),
every write and bank flip is visible by the core's clock, every DMA command has completed. What other agents write is
there at once. -/
def State.qempty (s : State) (u : Nat) : Bool :=
  let k := s.core u
  let t := k.clock
  k.mq.isEmpty && k.vq0.isEmpty && k.vq1.isEmpty && k.dq0.isEmpty && k.dq1.isEmpty && k.cq.isEmpty && k.dma.isEmpty
    && (k.lsw.all fun w => w.slot == 7 || w.vis ≤ t) && (k.accw.all fun w => w.vis ≤ t) && (k.flips.all fun f => f.cyc ≤ t)
    && (k.started.all fun c => c.s + c.occ ≤ t && (c.cmd.isDrain == false || c.cut.isSome || c.s + 70 ≤ t))
    && !(s.colls.any fun c => c.core == u)

def State.cmdErr (s : State) (u : Nat) : State := s.raise (R.tdCCause u) 1

/-- A start at header word `pc` (R204, R200). -/
def State.startCore (s : State) (u pc : Nat) : State :=
  let st := (s.core u).st
  if !((st == .idle || st == .halted) && s.qempty u) then s.cmdErr u
  else
    let s := s.foldCore u
    let h := leNat (rdBytes s.ls (lsAt u (64 * pc)) 64)
    let k : Core := { Core.reset with st := .running, pc := pc + 1, hdrPc := pc, count := nbits h 446 18,
                                      safelight := s.bit (R.tdCCtl u) 0 }
    let s := s.setCore u k
    if s.lsUe u [] 0 (64 * pc) 64 then
      State.wordFault (s.setCore u { k with pc := pc }) u 0 fcEccUe 0 0 0
    else if headerOk pc h then s
    else State.wordFault (s.setCore u { k with pc := pc }) u 0 fcDenied 0 0 0

/-- A write to TDn_Cc_START. -/
def State.writeStart (s : State) (u : Nat) (w : Word) : State :=
  if s.hasCore u ∧ wbit w 31 then s.startCore u (wfld w 17 0) else s

/-- HALTED (R203): the hold of the word that halts has ended at cycle `t`, where CYC stands from now on. -/
def State.enterHalted (s : State) (u t : Nat) : State :=
  let k := s.core u
  (s.setCore u { k with st := .halted, cyc := t, now := t, blocked := false, halting := false, stopping := false }).raise
    (R.tdCCause u) 2

/-- stop (R205): the word being held finishes its hold; a core that holds no word is halted at once, at the cycle its
time has reached. Cycles in WAITING are counted (R207). -/
def State.stopCore (s : State) (u : Nat) : State :=
  let k := s.core u
  if !(k.st == .running || k.st == .waiting) then s.cmdErr u
  else if k.st = .waiting then (s.addCtr (R.tdCStallLo u 6) (k.clock - k.cyc)).enterHalted u k.clock
  else if k.blocked then s.enterHalted u k.clock
  else s.setCore u { k with stopping := true }

/-- A clear that waits is carried out once qempty holds (R205). -/
def State.settleClear (s : State) (u : Nat) : State :=
  let k := s.core u
  if k.clearing && k.st == .faulted && s.qempty u then s.setCore u { k with st := .idle, clearing := false } else s

/-- clear (R205): FAULTED becomes IDLE, at once or when qempty holds. -/
def State.clearCore (s : State) (u : Nat) : State :=
  let k := s.core u
  if k.st ≠ .faulted then s.cmdErr u else (s.setCore u { k with clearing := true }).settleClear u

/-- A write to TDn_Cc_CMD: stop, then clear. -/
def State.writeCoreCmd (s : State) (u : Nat) (w : Word) : State :=
  if !s.hasCore u then s
  else
    let s := if wbit w 1 then s.stopCore u else s
    if wbit w 0 then s.clearCore u else s

/-- One cycle passes in a core that stands still while commands of it run (log entry 5); none passes while a command that
has to start first has not started. -/
def State.coreTick (s : State) (u : Nat) : State :=
  let k := s.core u
  if k.st = .running ∨ k.st = .waiting ∨ (s.qempty u ∧ k.fault = none) ∨ k.due k.now then s
  else
    let s := State.replay (s.setCore u { k with now := k.now + 1 }) u
    (s.takeFault u (k.now + 1)).settleClear u

/-! ### Scalar work (R217 to R222) -/

def Core.ctr (k : Core) (i : Nat) : Word := mget 0 k.c i
def Core.cmp (k : Core) (i : Nat) : Bool := mget false k.k i
def Core.loopCount (k : Core) (l : Nat) : Nat := mget 0 k.lc l
def Core.setLevel (k : Core) (l : Nat) (v : LoopLevel) : Core := { k with lv := mset LoopLevel.reset k.lv l v }
def Core.setGen (k : Core) (g : Nat) (v : AddrGen) : Core := { k with ag := mset AddrGen.reset k.ag g v }

/-- A relation of Table 8.2 on unsigned values. -/
def holdsRel (r a b : Nat) : Bool :=
  if r = 0 then a == b else if r = 1 then a != b else if r = 2 then a < b else if r = 3 then a ≤ b
  else if r = 4 then b < a else b ≤ a

/-- Table 8.9, for the core as it stands before the word. -/
def Core.scalar (k : Core) (c : Nat) : Core :=
  let op := scOp c
  let i := scC c
  let x := k.ctr i
  let imm := scImm c
  let setC (w : Word) : Core := { k with c := mset 0 k.c i w }
  if op = scCset then setC (BitVec.ofNat 32 imm)
  else if op = scCseth then setC (setFld x 31 18 imm)
  else if op = scCadd then setC (BitVec.ofNat 32 (imod ((x.toNat : Int) + sext 18 imm) 32))
  else if op = scCmp then { k with k := mset false k.k (scK c) (holdsRel (scRel c) x.toNat imm) }
  else if op = scCmpc then { k with k := mset false k.k (scK c) (holdsRel (scRel c) x.toNat (k.ctr (imm % 16)).toNat) }
  else if op = scLcset then { k with lc := mset 0 k.lc (scK c) imm }
  else if op = scLcmov then { k with lc := mset 0 k.lc (scK c) (x.toNat % 2 ^ 24) }
  else k

/-- Whether the word's branch is taken (R218). -/
def Core.branches (k : Core) (c : Nat) : Bool :=
  let op := scOp c
  op == scJmp || (op == scBr && k.cmp (scK c)) || (op == scBrn && !k.cmp (scK c))

/-- One generator operation (Table 8.3); `old` is the core before the word. -/
def Core.genOp (k old : Core) (g w : Nat) : Core :=
  let op := agOp w
  let imm := agImm w
  let a := k.gen g
  if op = 1 then k.setGen g { a with base := imm }
  else if op = 2 then k.setGen g { a with base := a.base + sext 25 imm }
  else if op = 3 then k.setGen g { a with stride := mset 0 a.stride (agK w) (sext 25 imm) }
  else if op = 4 then k.setGen g { a with winLo := imm }
  else if op = 5 then k.setGen g { a with winHi := imm }
  else if op = 6 then k.setGen g { a with base := (old.ctr (imm % 16)).toNat % 2 ^ 24 }
  else k

/-- The active level that is innermost: the one that began last. -/
def innermost (ls : List (Nat × LoopLevel)) : Option (Nat × LoopLevel) :=
  ls.foldl (fun m x => match m with
    | none => some x
    | some y => if y.2.first ≤ x.2.first then some x else some y) none

/-- The hold of word `e` ends (R221): the core after its loop levels and the next word. -/
def Core.endOf : Nat → Core → Nat → Core × Nat
  | 0, k, e => (k, e + 1)
  | f + 1, k, e =>
    match innermost ((activeLevels k).filter fun p => p.2.last == e) with
    | none => (k, e + 1)
    | some (l, v) =>
      if v.index + 1 < v.count then (k.setLevel l { v with index := v.index + 1 }, v.first)
      else Core.endOf f (k.setLevel l LoopLevel.reset) e

/-- The levels after a LOOP entry of word `pc` (R219). -/
def Core.openLoop (k old : Core) (pc c : Nat) : Core :=
  if lpOp c = 1 ∧ old.loopCount (lpLvl c) ≠ 0 then
    k.setLevel (lpLvl c) { active := true, index := 0, count := old.loopCount (lpLvl c), first := pc + 1, last := lpEnd c }
  else k

/-- The loop levels that the registers show: loop-back, close and branch take effect when the hold ends (R221). -/
def Core.levels (k : Core) : SMap LoopLevel := if k.st = .running ∧ k.blocked = false then k.lvHeld else k.lv

/-- A taken branch closes every active level whose body does not hold the target, and those inside it (R221). -/
def Core.leaveBodies (k : Core) (target : Nat) : Core :=
  let out := (activeLevels k).filter fun p => !(p.2.first ≤ target && target ≤ p.2.last)
  let closed := (activeLevels k).filter fun p => out.any fun o => o.2.first ≤ p.2.first && p.2.last ≤ o.2.last
  closed.foldl (fun k p => k.setLevel p.1 LoopLevel.reset) k

/-- The next word after word `pc` with ctl field `c`; `old` is the core before the word, `k` after its scalar work. A HALT word
that ends levels neither loops them back nor closes them, as no word follows; where it has a LOOP of N = 0, the levels that
end at lp_end loop back or close all the same (DESIGN CHOICE, log entry 146). A LOOP with a taken branch acts first, then the
branch: with N = 0 the levels at lp_end end, with N ≥ 1 the level opens, and closes where the target is outside its body
(DESIGN CHOICE, log entry 147). -/
def Core.successor (k old : Core) (pc c : Nat) : Core × Nat :=
  let k1 : Core × Option Nat :=
    if lpOp c = 1 then
      let n := old.loopCount (lpLvl c)
      if n = 0 then let r := k.endOf 7 (lpEnd c); (r.1, some r.2)
      else (k.setLevel (lpLvl c) { active := true, index := 0, count := n, first := pc + 1, last := lpEnd c }, some (pc + 1))
    else (k, none)
  if old.branches c then (k1.1.leaveBodies (scImm c), scImm c)
  else match k1.2 with
    | some x => (k1.1, x)
    | none => if scOp c = scHalt then (k1.1, pc + 1) else k1.1.endOf 7 pc

/-! ### Commands of a word (R206, R208, R223, R319, R320) -/

/-- A range failure: slot, generator, address. -/
structure RangeFault where
  slot : Nat
  ag : Nat
  addr : Nat
  deriving DecidableEq, Repr

/-- The address of `n` bytes through generator `g`, or the failure of R223. -/
def Core.range (k : Core) (slot g n : Nat) : Except RangeFault Nat :=
  let a := k.addr g
  if k.inWindow g a n then .ok a.toNat else .error { slot := slot, ag := g, addr := imod a 32 }

def orZero (x : Option Nat) (f : Nat → Except RangeFault Nat) : Except RangeFault Nat :=
  match x with
  | some n => f n
  | none => .ok 0

/-- The command of a mat slot. An A address of an MMS that is not a multiple of 64 fails too (R261). -/
def Core.matCmd (k : Core) (base : QCmd) (m : Nat) : Except RangeFault QCmd :=
  let c := { base with q := 0, slot := BitVec.ofNat 64 m }
  if matOp m = matClose then .ok c
  else
    (k.range 1 (matGa m) (matExtA m)).bind fun a =>
      if matOp m = matMms ∧ a % 64 ≠ 0 then .error { slot := 1, ag := matGa m, addr := a }
      else (k.range 1 (matGb m) (matExtB m)).bind fun b => .ok { c with a := a, b := b }

/-- The command of a vector slot of pipe p. -/
def Core.vecCmd (k : Core) (base : QCmd) (v p : Nat) : Except RangeFault QCmd :=
  let e := vecExt v
  (orZero e.1 (k.range (2 + p) (vecGa v))).bind fun a =>
    (orZero e.2.1 (k.range (2 + p) (vecGb v))).bind fun b =>
      (orZero e.2.2 (k.range (2 + p) (vecGd v))).bind fun d =>
        .ok { base with q := 1 + p, slot := BitVec.ofNat 64 v, a := a, b := b, dst := d,
                        ca := k.ctr (vecCa v), ca1 := k.ctr ((vecCa v + 1) % 16) }

/-- An operand of an NSM word: its address, relative to a generator with rel = 1, checked by R320. -/
def Core.nsmRange (k : Core) (w x g n : Nat) : Except RangeFault Nat :=
  if nsmRel w then
    let a := k.addr g + x
    if k.inWindow g a n then .ok a.toNat else .error { slot := 4, ag := g, addr := imod a 32 }
  else if x + n ≤ lsSize then .ok x else .error { slot := 0, ag := 0, addr := x }

/-- The command of an NSM word. -/
def Core.nsmCmd (k : Core) (base : QCmd) (w : Nat) : Except RangeFault QCmd :=
  let v := nsmSlot w
  let e := vecExt v
  (orZero e.1 (k.nsmRange w (nsmA w) 0)).bind fun a =>
    (orZero e.2.1 (k.nsmRange w (nsmB w) 1)).bind fun b =>
      (orZero e.2.2 (k.nsmRange w (nsmD w) 2)).bind fun d =>
        .ok { base with q := if nsmMove w then 2 else 1, slot := BitVec.ofNat 64 v, a := a, b := b, dst := d }

/-- What a word puts into the queues. -/
structure WordCmds where
  q : List QCmd
  dma : Option DCmd
  deriving DecidableEq, Repr

/-- The DMA slot's command: with use_ag the range is the descriptor's len at the generator's address (R223). -/
def State.dmaCmd (s : State) (u t ord : Nat) (d : Nat) : Except RangeFault (Option DCmd) :=
  let k := s.core u
  let c : DCmd := { slot := BitVec.ofNat 64 d, d := t, word := k.pc, ord := ord, ls := 0 }
  if dmaOp d = 0 then .ok none
  else if dmaOp d = 1 ∧ dmaUseAg d then
    let n := leNat (s.lsRead u k.lsw t (dmaDesc d + 4) 4)
    if n = 0 then .ok (some { c with ls := (k.addr (dmaAg d)).toNat })
    else (k.range 5 (dmaAg d) n).bind fun a => .ok (some { c with ls := a })
  else .ok (some c)

/-- The commands of a word at cycle `t`, in slot order, or the first range that fails. -/
def State.wordCmds (s : State) (u t w : Nat) : Except RangeFault WordCmds :=
  let k := s.core u
  let base : QCmd := { q := 0, slot := 0, d := t, word := k.pc, ord := k.words + 1, a := 0, b := 0, dst := 0, ca := 0, ca1 := 0 }
  if isNsm w then (k.nsmCmd base w).bind fun c => .ok { q := [c], dma := none }
  else
    let one (has : Bool) (x : Except RangeFault QCmd) : Except RangeFault (List QCmd) :=
      if has then x.bind fun c => .ok [c] else .ok []
    (one (matOp (wMat w) != 0) (k.matCmd base (wMat w))).bind fun a =>
      (one (vecOp (wVec0 w) != 0) (k.vecCmd base (wVec0 w) 0)).bind fun b =>
        (one (vecOp (wVec1 w) != 0) (k.vecCmd base (wVec1 w) 1)).bind fun c =>
          (s.dmaCmd u t (k.words + 1) (wDma w)).bind fun d => .ok { q := a ++ b ++ c, dma := d }

def Core.enqueue (k : Core) (c : WordCmds) : Core :=
  let k := c.q.foldl (fun k x => k.setQueue x.q (k.queue x.q ++ [x])) k
  match c.dma with
  | none => k
  | some d =>
    let b := d.slot.toNat
    if dmaOp b = 2 then { k with cq := k.cq ++ [d] }
    else if dmaEng b = 0 then { k with dq0 := k.dq0 ++ [d] } else { k with dq1 := k.dq1 ++ [d] }

/-- The hazard of a COPY that reads local store, checked at its dispatch (R215). -/
def State.copyHazard (s : State) (u t : Nat) (d : DCmd) : Option CoreFault :=
  let k := s.core u
  let b := d.slot.toNat
  let ds := s.lsRead u k.lsw t (dmaDesc b) 64
  let kind := leAt ds 0 1
  if !k.safelight || dmaOp b != 1 || !(kind == 1 || kind == 2) then none
  else
    let addr := if dmaUseAg b then d.ls else leAt ds 16 4 % 2 ^ 24
    let c : QCmd := { q := 4, slot := 0, d := t, word := d.word, ord := d.ord, a := 0, b := 0, dst := 0, ca := 0, ca1 := 0 }
    let w : Watch := { on := true, queued := k.mq ++ k.vq0 ++ k.vq1, started := k.started, gets := s.getRanges u }
    let dead := k.started.filterMap fun c => c.cut.map fun x => (c.cmd.ord, c.cmd.fslot, x)
    (w.readHazard k.lsw dead c (t + 1) [(addr, leAt ds 4 4)]).map fun f => { f with cyc := t, slot := 5 }

/-! ### The sync slot (R293 to R296) -/

/-- The fault of a word's sync slot: an ADD that overflows, a SUB that underflows (R294). -/
def State.syncFault (s : State) (u t y : Nat) : Option CoreFault :=
  let v := (s.sem u (sySem y)).toNat
  let fault (code : Nat) : CoreFault :=
    { cyc := t, code := code, slot := 6, kind := 0, space := 0, pc := (s.core u).pc, eng := 0, ag := 0, wpc := 0, addr := 0 }
  if syOp y = 2 ∧ 0xFFFFFFFF < v + syN y then some (fault fcOverflow)
  else if syOp y = 3 ∧ v < syN y then some (fault fcUnderflow)
  else none

/-- The operation of a dispatched word's sync slot; an overflow or underflow is not applied. ARRIVE leaves for the
fabric time unit (R306). -/
def State.syncSlot (s : State) (u y : Nat) : State :=
  let op := syOp y
  let i := sySem y
  let n := syN y
  let v := (s.sem u i).toNat
  if op = 2 then (if 0xFFFFFFFF < v + n then s else s.setSem u i (BitVec.ofNat 32 (v + n)))
  else if op = 3 then (if v < n then s else s.setSem u i (BitVec.ofNat 32 (v - n)))
  else if op = 4 then { s with time := { s.time with arrivals := s.time.arrivals ++ [(u, n % 64, i)] } }
  else if op = 5 then s.setSem u i (BitVec.ofNat 32 (v - n))
  else if op = 6 then s.setSem u i (BitVec.ofNat 32 n)
  else s

/-! ### Dispatch (R207, R208) -/

/-- Entries of a queue at cycle `t`: a command is held from dispatch until it starts (R206). -/
def Core.held (k : Core) (q t : Nat) : Nat :=
  if q ≤ 2 then (k.queue q).length + countWhere (fun c => c.cmd.q == q && t < c.s) k.started
  else if q = 3 then k.dq0.length else if q = 4 then k.dq1.length else k.cq.length

def fullQueues (k : Core) (w t : Nat) : List Nat := (targets w).filter fun q => 64 ≤ k.held q t

/-- Word `w` dispatches at cycle `t` (R208): commands enter their queues, then scalar, loop, generator and sync work takes
effect, and the successor is chosen. A fault of its sync slot or a COPY hazard stops the core at this cycle. -/
def State.dispatchWord (s : State) (u t w : Nat) : State :=
  let old := s.core u
  match badSlot old old.pc w with
  | some slot => s.wordFault u t fcDenied slot 0 0
  | none =>
    match s.wordCmds u t w with
    | .error f => s.wordFault u t fcAddr f.slot f.ag f.addr
    | .ok cs =>
      let ctl := if isNsm w then 0 else wCtl w
      let k := old.enqueue cs
      let k := k.scalar ctl
      let k := if isNsm w then k else (List.range 4).foldl (fun k g => k.genOp old g (wAg w g)) k
      let nx := k.successor old old.pc ctl
      let k := { nx.1 with st := .running, words := old.words + 1, cyc := t, blocked := false,
                           ready := t + holdOf ctl + (if old.branches ctl then 2 else 0), holdTo := t + holdOf ctl,
                           lvHeld := (k.openLoop old old.pc ctl).lv, halting := scOp ctl == scHalt }
      let s := s.setCore u k
      let y := if isNsm w then 0 else wSync w
      let copy := cs.dma.bind (s.copyHazard u t)
      let own := earlierFault copy (s.syncFault u t y)
      let s := s.syncSlot u y
      let s := if cs.dma.isSome && k.safelight then s.replay u else s
      match own with
      | some f => s.enterFault u f false (if copy.isSome then some k.words else none)
      | none => s.setCore u { s.core u with pc := nx.2 }

/-- Cycles added to the stall counters of full queues, and to the wait counter (R207). -/
def State.countStalls (s : State) (u : Nat) (qs : List Nat) (n : Nat) : State :=
  qs.foldl (fun s q => s.addCtr (R.tdCStallLo u q) n) s

/-- The word at the core's pc as cycle `t` reads it. -/
def State.fetchWord (s : State) (u t : Nat) : Nat :=
  let k := s.core u
  leNat (s.lsRead u k.lsw t (64 * k.pc) 64)

/-- The commands a core has started, judged again with what other agents have done since. -/
def State.refresh (s : State) (u : Nat) : State := if (s.core u).started.isEmpty then s else s.replay u

/-- The core's next word `w` is ready from cycle `t` on, and time has passed up to cycle `last`: the word dispatches at the
first of these cycles at which its queues have room; the cycles without count in the stall counters (R207). A command
that starts within them starts first, and a fault within them comes before the word. -/
def State.dispatchBy (s : State) (u t last w : Nat) : State :=
  let k := s.core u
  let full (x : Nat) : List Nat := if wTag w != 0 && !isNsm w then [] else fullQueues k w x
  let cand := (List.range (last + 1 - t)).map (t + ·)
  let go := cand.find? fun x => (full x).isEmpty
  let fin := go.getD last
  let stop := (k.fault.map (·.cyc)).filter fun c => c ≤ fin
  let upTo := stop.getD (if go.isSome then fin else fin + 1)
  if k.due fin then s
  else
    let s := (cand.filter (· < upTo)).foldl (fun s y => s.countStalls u (full y) 1) s
    if stop.isSome then State.takeFault (s.setCore u { k with st := .running, cyc := t, ready := t, blocked := true }) u fin
    else if go.isSome then s.dispatchWord u fin w
    else s.setCore u { k with st := .running, ready := last + 1, blocked := true }

/-- WAITING ends 2 cycles before the word dispatches at `t`, when the count that satisfies it is visible; the cycles until
then go into the wait counter (R207, R296). -/
def State.resume (s : State) (u t : Nat) : State :=
  let k := s.core u
  (s.setCore u { k with st := .running, ready := max k.ready (t - 2), blocked := true }).addCtr (R.tdCStallLo u 6) (t - 2 - k.cyc)

/-- The next word of a core that holds back no halt or stop, `cycles` later (R207). -/
def State.dispatchNext (s : State) (u cycles : Nat) : State :=
  let k := s.core u
  let run := k.st == .running
  let t0 := k.ready
  let t := if k.st = .waiting then max (t0 + cycles) (k.cyc + 3) else t0
  if k.due t then s
  else
    let w := s.fetchWord u t
    let y := if isNsm w || wTag w != 0 then 0 else wSync w
    let waits := syWaits y && (s.sem u (sySem y)).toNat < syN y
    let fault := k.fault.filter fun f => f.cyc ≤ t
    let s := if !run && !waits && fault.all (fun f => t - 2 ≤ f.cyc) then s.resume u t else s
    if fault.isSome then s.takeFault u t
    else if !(k.hdrPc < k.pc && k.pc ≤ k.hdrPc + k.count) then s.wordFault u t fcDenied 0 0 0
    else if s.lsUe u k.lsw t (64 * k.pc) 64 then s.wordFault u t fcEccUe 0 0 0
    else if waits then
      (if run then s.setCore u { k with st := .waiting, cyc := t0, blocked := true }
       else s.setCore u { k with ready := t0 + cycles })
    else s.dispatchBy u t (if run then t0 + cycles else t) w

/-- XCW_DISPATCH: `cycles` have passed since the first cycle at which the word may dispatch, or since the last test of a
word that is held back. A wait that fails its first test leaves the core WAITING, and the word then dispatches 2 cycles
after the count that satisfies it is visible (R207). -/
def State.dispatch (s : State) (u cycles : Nat) : State :=
  let k := s.core u
  if !(k.st == .running || k.st == .waiting) || k.halting || k.stopping then s else (s.refresh u).dispatchNext u cycles

/-- HALT_HOLD_END: the hold of a HALT word, or of the word held when a stop came, has ended (R203, R205). -/
def State.holdEnd (s : State) (u : Nat) : State :=
  let k := s.core u
  if k.st = .running ∧ (k.halting ∨ k.stopping) then
    (match k.fault with
     | some f => if f.cyc < k.holdTo then s.enterFault u f false none else s.enterHalted u k.holdTo
     | none => s.enterHalted u k.holdTo)
  else s

/-- What time does while no command waits: one tick of fabric time (R299), and one cycle in every core that stands still
while commands of it run (log entry 5). -/
def State.passTime (s : State) : State := (s.cores.foldl (fun s e => s.coreTick e.1) s).tick

end Sys2Proof.Machine
end

