-- ==== Sys2Proof/Machine/CollDescs.lean ====
section
/-!
DEFINITION. Collective descriptors and plans (spec/07_collectives.md, R164 to R173): grids and groups, the digest, the
shards, and the checks of R168.
-/

namespace Sys2Proof.Machine

/-! ### Operations (Table 7.2) -/

def cAllReduce : Nat := 1
def cReduceScatter : Nat := 2
def cReduce : Nat := 3
def cAllGather : Nat := 4
def cBroadcast : Nat := 5
def cGather : Nat := 6
def cBarrier : Nat := 7
def cShift : Nat := 8
def cPermute : Nat := 9
def cAllToAll : Nat := 10

/-- The operations with data trees. -/
def collReduces (op : Nat) : Bool := op == cAllReduce || op == cReduceScatter || op == cReduce

/-- The operations whose dst_addr is shared. -/
def collShared (op : Nat) : Bool := op == cAllReduce || op == cAllGather || op == cBroadcast

/-- The operations that allow vcount. -/
def collVcount (op : Nat) : Bool := op == cAllGather || op == cGather || op == cShift || op == cPermute || op == cAllToAll

/-- The operations whose arg is a root member. -/
def collRooted (op : Nat) : Bool := op == cReduce || op == cBroadcast || op == cGather

/-! ### The descriptor (R166, Table 7.1) -/

def parseColl (b : List Byte) : CollDesc :=
  { op := leAt b 0 1, etype := leAt b 1 1, esize := leAt b 2 1, redop := leAt b 3 1, flags := leAt b 4 1, mask := leAt b 5 1,
    shards := leAt b 6 2, seq := leAt b 8 4, job := leAt b 12 2 % 4096, chunkElems := leAt b 14 2, arg := leAt b 16 4,
    planId := leAt b 20 4, maxCount := leAt b 24 4, dims := (List.range 4).map fun a => leAt b (32 + 4 * a) 4,
    lo := (List.range 4).map fun a => leAt b (48 + 4 * a) 4, hi := (List.range 4).map fun a => leAt b (64 + 4 * a) 4,
    dstAddr := leAt b 80 6, count := leAt b 96 4, sem := leAt b 100 2 % 1024, chunkSem := leAt b 102 2,
    srcAddr := leAt b 104 6, planAddr := leAt b 112 6, recAddr := leAt b 120 4, selfRank := leAt b 124 4 % 2 ^ 20,
    raw := padTo 128 b }

def CollDesc.ordered (d : CollDesc) : Bool := nbit d.flags 0
def CollDesc.rmode (d : CollDesc) : Nat := nbits d.flags 1 2
def CollDesc.thin (d : CollDesc) : Bool := nbit d.flags 3
def CollDesc.vcount (d : CollDesc) : Bool := nbit d.flags 4
def CollDesc.wrap (d : CollDesc) : Bool := nbit d.flags 5

/-- The bits that Table 7.1 reserves: flags, mask, job, bytes 28 to 31 and 88 to 95, the addresses above bit 47, sem,
chunk_sem and self_rank; and rec_addr is a multiple of 32. -/
def CollDesc.reservedZero (d : CollDesc) : Bool :=
  let b := d.raw
  nbits d.flags 6 2 == 0 && nbits d.mask 4 4 == 0 && leAt b 12 2 / 4096 == 0 && leAt b 28 4 == 0 && leAt b 86 2 == 0
    && leAt b 88 8 == 0 && leAt b 100 2 / 1024 == 0 && nbits d.chunkSem 10 5 == 0 && leAt b 110 2 == 0 && leAt b 118 2 == 0
    && d.recAddr % 32 == 0 && leAt b 124 4 / 2 ^ 20 == 0

/-! ### Grid and group (R164, R165) -/

def CollDesc.dim (d : CollDesc) (a : Nat) : Nat := d.dims.getD a 1
def CollDesc.low (d : CollDesc) (a : Nat) : Nat := d.lo.getD a 0
def CollDesc.high (d : CollDesc) (a : Nat) : Nat := d.hi.getD a 0
def CollDesc.masked (d : CollDesc) (a : Nat) : Bool := nbit d.mask a

/-- Ranks that one step along axis a moves by. -/
def CollDesc.unit (d : CollDesc) (a : Nat) : Nat := (List.range a).foldl (fun p b => p * d.dim b) 1

/-- x_a of rank r. -/
def CollDesc.coord (d : CollDesc) (r a : Nat) : Nat := r / d.unit a % d.dim a

/-- Members along axis a. -/
def CollDesc.extent (d : CollDesc) (a : Nat) : Nat := if d.masked a then d.high a + 1 - d.low a else 1

/-- Members that one step along axis a moves the member index by. -/
def CollDesc.mUnit (d : CollDesc) (a : Nat) : Nat := (List.range a).foldl (fun p b => p * d.extent b) 1

/-- The group size n. -/
def CollDesc.size (d : CollDesc) : Nat := d.mUnit 4

/-- The member index of a rank of the group. -/
def CollDesc.memberOf (d : CollDesc) (r : Nat) : Nat :=
  (List.range 4).foldl (fun m a => if d.masked a then m + (d.coord r a - d.low a) * d.mUnit a else m) 0

/-- The rank of member m of the group of rank r. -/
def CollDesc.rankOf (d : CollDesc) (r m : Nat) : Nat :=
  (List.range 4).foldl (fun s a =>
    s + (if d.masked a then d.low a + m / d.mUnit a % d.extent a else d.coord r a) * d.unit a) 0

/-- Whether the grid and the group are those of R164 and R165, with self_rank inside (log entry 35). -/
def CollDesc.groupOk (d : CollDesc) (ranks : Nat) : Bool :=
  ((List.range 4).all fun a => 1 ≤ d.dim a && d.dim a ≤ 2 ^ 20) && d.unit 4 ≤ ranks && d.selfRank < d.unit 4
    && (List.range 4).all fun a => !d.masked a
      || (d.low a ≤ d.coord d.selfRank a && d.coord d.selfRank a ≤ d.high a && d.high a < d.dim a)

/-- This member's index m; 0 where it has none. -/
def CollDesc.self (d : CollDesc) : Nat := d.memberOf d.selfRank

/-! ### The digest (R169) -/

def collDigest (d : CollDesc) : List Byte :=
  let w (i : Nat) : Dword := if i = 10 ∧ !collShared d.op then 0 else BitVec.ofNat 64 (leAt d.raw (8 * i) 8)
  let r := (List.range 12).foldl (fun (p : Dword × Dword) i => (srMix (p.1 ^^^ w i), srMix (p.2 ^^^ w (11 - i))))
    (0xA3C59E2B41D76F15#64, 0xC2F15A849B3DE06D#64)
  leBytes 8 (srMix (r.1 ^^^ r.2)).toNat ++ leBytes 8 r.2.toNat

/-! ### Shards (R170, R171) -/

/-- S: the data trees of the collective. -/
def CollDesc.trees (d : CollDesc) : Nat := if collReduces d.op then d.shards else 0

/-- q. -/
def CollDesc.shard (d : CollDesc) : Nat :=
  if d.trees = 0 then 0
  else
    let q := cdiv d.count d.trees
    if d.thin then cdiv q 64 * 64 else q

/-- Elements of shard t. -/
def CollDesc.shardLen (d : CollDesc) (t : Nat) : Nat := min ((t + 1) * d.shard) d.count - t * d.shard

/-- Chunks that hold a number of elements. -/
def CollDesc.chunksOf (d : CollDesc) (n : Nat) : Nat := if d.chunkElems = 0 then 0 else cdiv n d.chunkElems

/-- Where sequence number x lies in the collective: its tree, S for the control tree. -/
def CollDesc.treeOf (d : CollDesc) (x : Nat) : Option Nat :=
  let t := (x + 2 ^ 32 - d.seq) % 2 ^ 32
  if t ≤ d.trees then some t else none

/-- The sequence number of a tree. -/
def CollDesc.seqOf (d : CollDesc) (t : Nat) : Nat := (d.seq + t) % 2 ^ 32

/-- B of Table 7.5. -/
def CollDesc.block (d : CollDesc) : Nat := d.maxCount * 2 ^ d.esize

/-! ### The checks of R168 -/

/-- Whether Table 6.7 allows a reduction for an element type. -/
def redopAllowed (etype redop : Nat) : Bool :=
  if etype = 0 ∨ etype = 3 then redop ≤ 2 else etype == 4 && 1 ≤ redop && redop ≤ 5

/-- The largest chunk_elems of a collective. -/
def CollDesc.chunkLimit (d : CollDesc) : Nat :=
  if collReduces d.op then elemLimit (if d.ordered then dtF64 else dtF32) d.thin else 15296 / 2 ^ d.esize

/-! ### The plan (R173, Table 7.3) -/

/-- A target word. -/
def parseTarget (w : Nat) : Target :=
  { dev := nbits w 0 10, ep := nbits w 10 10, ctx := nbits w 20 12, inIdx := nbits w 32 6, tree := nbits w 38 13,
    root := nbit w 62, valid := nbit w 63 }

/-- Bytes of a plan before its images: the header, S leaves and the endpoints of the local members. -/
def planHead (s nLocal : Nat) : Nat := 32 + 8 * s + 8 * cdiv nLocal 4

/-- Bits [61:51] of the n target words from an offset on, which R173 gives no field. -/
def targetsZero (b : List Byte) (o n : Nat) (step : Nat) : Bool :=
  (List.range n).all fun i => nbits (leAt b (o + step * i) 8) 51 11 == 0

/-- The reserved fields of a plan (log entry 68): bits [7:1] of byte 7, bytes 12 to 15, bytes 8 to 11 unless the operation
is PERMUTE, the bits of target words and endpoint numbers that Table 7.3 gives no field, and the padding. -/
def planZero (s : Nat) (permute : Bool) (b : List Byte) : Bool :=
  let nLocal := leAt b 6 1
  nbits (leAt b 7 1) 1 7 == 0 && leAt b 12 4 == 0 && (permute || leAt b 8 4 == 0) && targetsZero b 16 (2 + s) 8
    && ((List.range nLocal).all fun i => leAt b (32 + 8 * s + 2 * i) 2 / 1024 == 0)
    && (slice b (32 + 8 * s + 2 * nLocal) (8 * cdiv nLocal 4 - 2 * nLocal)).all (· == 0)
    && targetsZero b (planHead s nLocal) (leAt b 4 2) 136

/-- A plan of `s` data trees. -/
def parsePlan (s : Nat) (permute : Bool) (b : List Byte) : Plan :=
  let nLocal := leAt b 6 1
  { planId := leAt b 0 4, nLocal := nLocal, lead := nbit (leAt b 7 1) 0, permTarget := leAt b 8 4,
    ctlLeaf := parseTarget (leAt b 16 8), fanout := parseTarget (leAt b 24 8),
    leaves := (List.range s).map fun t => parseTarget (leAt b (32 + 8 * t) 8),
    locals := (List.range nLocal).map fun i => leAt b (32 + 8 * s + 2 * i) 2 % 1024,
    images := (List.range (leAt b 4 2)).map fun i =>
      let o := planHead s nLocal + 136 * i
      (parseTarget (leAt b o 8), slice b (o + 8) 128),
    reservedZero := planZero s permute b }

/-- Whether the descriptor and the plan pass. `job` and `ranks` are those of the opening core's job slot, `det` is its
deterministic mode. -/
def CollDesc.passes (d : CollDesc) (job ranks : Nat) (p : Plan) (det : Bool) : Bool :=
  let red := collReduces d.op
  let n := d.size
  let s := d.shards
  let listed := 1 ≤ d.op && d.op ≤ 10 && (d.etype == 0 || d.etype == 3 || d.etype == 4 || d.etype == 5)
    && (if d.etype = 5 then d.esize ≤ 4 else d.esize == 2) && d.redop ≤ 5 && d.rmode ≤ 2
  let counts := (!d.vcount || collVcount d.op) && d.count ≤ d.maxCount && (d.vcount || d.count == d.maxCount)
  let shards :=
    if red then
      (if d.op = cReduceScatter then s == n && n ≤ 4096 && d.count == n * d.shard else 1 ≤ s && s ≤ min n 4096)
        && (s - 1) * d.shard < d.count && redopAllowed d.etype d.redop
    else s == 0 && d.redop == 0
  let sums := red && d.etype == 0 && d.redop == 0
  let modes := (!d.ordered || sums) && (!d.thin || sums) && (d.rmode == 0 || d.ordered) && !(det && sums && !d.ordered)
  let arg := if collRooted d.op then d.arg < n else if d.op = cShift then d.arg < 2 ^ 22 else d.arg == 0
  listed && d.reservedZero && d.groupOk ranks && counts && shards && modes
    && 1 ≤ d.chunkElems && d.chunkElems ≤ d.chunkLimit && p.planId == d.planId && p.reservedZero && d.job == job && arg

/-- The 128 bytes of a context image with what R174 fills in. -/
def CollDesc.fillImage (d : CollDesc) (job : Nat) (seed step : Nat) (t : Target) (b : List Byte) : List Byte :=
  let out := if t.root ∧ t.tree < d.trees then
      leBytes 8 ((d.dstAddr + if d.op = cReduceScatter then 0 else t.tree * d.shard * 4) % 2 ^ 48)
    else slice b 48 8
  leBytes 2 job ++ slice b 2 6 ++ leBytes 4 (d.seqOf t.tree) ++ slice b 12 20 ++ collDigest d ++ out ++ leBytes 8 seed
    ++ leBytes 8 step ++ slice b 72 56

end Sys2Proof.Machine
end

