-- ==== Sys2Proof/Machine/Dma.lean ====
section
/-!
DEFINITION. The DMA engines (spec/08_tile_core_execution.md, R209, R213, R225, R226; spec/11_memory_and_pools.md, R271,
R277, R278; spec/04_links_and_routing.md, R422).
-/

namespace Sys2Proof.Machine

/-! ### Descriptors (R225, Table 8.10) -/

structure DmaDesc where
  kind : Nat
  rsig : Bool
  tc : Nat
  done : Nat
  len : Nat
  va : Nat
  ls : Nat
  rank : Nat
  flow : Nat
  rsem : Nat
  radd : Nat
  /-- a field is outside Table 8.10, or not zero where R226 wants zero -/
  bad : Bool
  deriving DecidableEq, Repr

def dkGet : Nat := 0
def dkPut : Nat := 1
def dkSend : Nat := 2
def dkSignal : Nat := 3

/-- The 64 bytes of a descriptor for a COPY slot whose generator gave `agLs`. -/
def dmaDescOf (bs : List Byte) (slot agLs : Nat) : DmaDesc :=
  let kind := leAt bs 0 1
  let flags := leAt bs 1 1
  let done := leAt bs 2 2
  let len := leAt bs 4 4
  let va := leAt bs 8 8
  let lsRaw := leAt bs 16 4
  let ls := if dmaUseAg slot then agLs else lsRaw
  let rank := leAt bs 20 4
  let flow := leAt bs 24 2
  let rsem := leAt bs 26 2
  let radd := leAt bs 28 4
  let rsig := nbit flags 0
  let wide := 3 < kind || nbits flags 4 4 != 0 || nbits done 10 5 != 0 || va / 2 ^ 48 != 0 || (!dmaUseAg slot && lsRaw / 2 ^ 24 != 0)
    || rank / 2 ^ 20 != 0 || flow / 2 ^ 12 != 0 || rsem / 2 ^ 10 != 0 || leAt bs 32 32 != 0
  let other :=
    if kind ≤ 1 then rank != 0 || flow != 0 || rsem != 0 || radd != 0 || rsig
    else if kind = dkSend then !rsig && (rsem != 0 || radd != 0)
    else rsig || lsRaw != 0 || va != 0 || len != 0 || dmaUseAg slot
  let range := kind ≤ dkSend && (len == 0 || 2 ^ 24 < len || lsSize < ls + len)
  { kind := kind, rsig := rsig, tc := nbits flags 1 3, done := done, len := len, va := va, ls := ls, rank := rank,
    flow := flow, rsem := rsem, radd := radd, bad := wide || other || range }

/-- The semaphore of this core that receives the completion's ADD. -/
def DmaDesc.doneSem (d : DmaDesc) : Option Nat := if nbit d.done 15 then some (d.done % 1024) else none

/-! ### The start of a command (R209) -/

def Core.dq (k : Core) (eng : Nat) : List DCmd := if eng = 0 then k.dq0 else k.dq1

/-- The command an engine has to serve: the one that stalls on a page, else the head of the queue while fewer than 16
are started. -/
def Core.dmaNext (k : Core) (eng : Nat) : Option DCmd :=
  match k.dma.findSome? fun o => if o.eng == eng then o.stalled else none with
  | some c => some c
  | none => if countWhere (fun o => o.eng == eng) k.dma < 16 then (k.dq eng).head? else none

/-- The pager refused the page on which an engine's command stalls (R275, R278). -/
def Core.dmaRefused (k : Core) (eng : Nat) : Bool := k.dma.any fun o => o.eng == eng && o.stalled.isSome && o.refused

/-- The core with the command among the started ones. -/
def Core.dmaStart (k : Core) (eng : Nat) (o : DmaOp) : Core :=
  if k.dma.any fun x => x.eng == eng && x.stalled.isSome then
    { k with dma := updFirst (fun x => x.eng == eng && x.stalled.isSome) (fun _ => o) k.dma }
  else if eng = 0 then { k with dq0 := k.dq0.tail, dma := k.dma ++ [o] }
  else { k with dq1 := k.dq1.tail, dma := k.dma ++ [o] }

/-- The state with a command started. -/
def State.dmaStarted (s : State) (u eng : Nat) (o : DmaOp) : State := s.setCore u ((s.core u).dmaStart eng o)

/-- A started command. -/
def DmaOp.of (c : DCmd) (eng : Nat) (d : DmaDesc) : DmaOp :=
  { ord := c.ord, eng := eng, d := c.d, word := c.word, done := d.doneSem,
    dest := if d.kind = dkGet then some (d.ls, d.len) else none, finished := false, ended := false, stalled := none,
    refused := false }

/-- A command that ends without transfer and without completion. -/
def DmaOp.over (o : DmaOp) : DmaOp := { o with finished := true, ended := true }

/-- A command that ends so and faults its core with a code, recorded with its word (R226, Table 11.4, R269). -/
def State.dmaFault (s : State) (u eng : Nat) (o : DmaOp) (code : Nat) : State :=
  (s.dmaStarted u eng o.over).asyncFault u o.d code o.word

def State.coreJob (s : State) (u : Nat) : Nat := s.fld (R.tdCJob u) 11 0
def State.coreSlot (s : State) (u : Nat) : Nat := s.fld (R.tdCJob u) 21 16

/-- GET and PUT. -/
def State.dmaMove (s : State) (u eng : Nat) (c : DCmd) (d : DmaDesc) : State :=
  let o := DmaOp.of c eng d
  match s.vaRange (u / 4) (s.coreSlot u) d.va d.len (d.kind == dkPut) with
  | (s, .remote leafAt va) =>
    let s := (s.dmaStarted u eng { o with stalled := some c }).touchPage (s.coreSlot u) va leafAt u eng
    if (s.core u).dmaRefused eng then s.dmaFault u eng o fcDenied else s
  | (s, .ue a) => (s.dpaUe a (s.coreJob u) (u % 4)).dmaStarted u eng o.over
  | (s, .refused va) => (s.vaDenied (u / 4) (s.coreJob u) (u % 4) va).dmaFault u eng o fcDenied
  | (s, .ok ps) =>
    if d.kind = dkGet then
      match s.readPieces ps with
      | .error a => (s.dpaUe a (s.coreJob u) (u % 4)).dmaStarted u eng o.over
      | .ok bs =>
        let k := s.core u
        if s.lsUePart u k.lsw (s.lastCycle u) d.ls d.len then s.dmaFault u eng o fcEccUe
        else (s.lsPut u d.ls bs).dmaStarted u eng { o with finished := true }
    else if s.lsUeNow u d.ls d.len then s.dmaFault u eng o fcEccUe
    else match s.writePieces ps (s.lsNow u d.ls d.len) with
      | .error a => (s.dpaUe a (s.coreJob u) (u % 4)).dmaStarted u eng o.over
      | .ok s => s.dmaStarted u eng { o with finished := true }

/-- The header of a SEND's or SIGNAL's packets (R422). -/
def State.dmaHdr (s : State) (u : Nat) (d : DmaDesc) (op : Nat) : PktHdr :=
  let r := s.reg (R.tdCRank u)
  { PktHdr.zero op with srcDev := s.selfDev, srcEp := wfld r 29 20, srcRank := wfld r 19 0, dstRank := d.rank,
                        flow := d.flow, msgBytes := d.len, sig := d.rsig }

/-- SEND and SIGNAL. -/
def State.dmaSend (s : State) (u eng : Nat) (c : DCmd) (d : DmaDesc) : State :=
  let o := DmaOp.of c eng d
  let job := s.coreJob u
  let src := s.tileSlot (u / 4)
  let add : Packet := { hdr := { s.dmaHdr u d opSemAdd with addr := d.rsem }, vc := 0, tc := d.tc, job := job, tag := 0,
                        abt := false, data := leBytes 4 d.radd }
  if !s.bit (R.tdCRank u) 31 then State.dmaStarted (State.drawn (s.xlateFail s.freeDie job)) u eng o.over
  else if d.kind = dkSignal then
    let s := s.dmaStarted u eng o
    let p : OutPkt := { src := src, msg := none, xlate := some (s.coreSlot u), sig := some (u, o.ord),
                        pkt := { add with tag := Config.pktTag s.nextId % 65536 } }
    State.numbered { s with attach := s.attach ++ [p] }
  else if s.lsUeNow u d.ls d.len then s.dmaFault u eng o fcEccUe
  else
    let s := s.dmaStarted u eng o
    let id := s.nextId
    let s := s.sendParts src (.dma u eng o.ord) none (some (s.coreSlot u)) { s.dmaHdr u d opWrite with addr := d.va } 0 d.tc
      job (messageParts (s.lsNow u d.ls d.len))
    if d.rsig then s.attachPkt src (some id) (some (s.coreSlot u)) add else s

/-- DMA_GET, DMA_PUT, DMA_SEND and DMA_SIGNAL: the engine's next command starts where its descriptor is of the row's
kind, or of none. While the crossbar is disabled the engines stall (R66). -/
def State.dmaRun (s : State) (u eng kind : Nat) : State :=
  if 2 ≤ eng || !s.hasCore u || !s.xbarOn then s
  else match (s.core u).dmaNext eng with
  | none => s
  | some c =>
    let at' := dmaDesc c.slot.toNat
    let d := dmaDescOf (s.lsNow u at' 64) c.slot.toNat c.ls
    if s.lsUeNow u at' 64 then s.dmaFault u eng (DmaOp.of c eng d) fcEccUe
    else if d.kind ≠ kind ∧ d.kind ≤ 3 then s
    else if d.bad || (s.core u).dmaRefused eng then s.dmaFault u eng (DmaOp.of c eng d) fcDenied
    else if kind ≤ dkPut then s.dmaMove u eng c d
    else s.dmaSend u eng c d

/-- What the checks of R215 keep of a command that leaves at the core's clock: the range of a GET. -/
def DmaOp.left (o : DmaOp) (clock : Nat) : List GetRange :=
  (o.dest.map fun r => { eng := o.eng, ord := o.ord, d := o.d, addr := r.1, len := r.2,
                         fin := if o.ended then none else some (max clock (o.d + 1)) }).toList

/-- DMA_COMPLETE: the oldest started command of an engine has finished; done_sem receives ADD 1 (R209, R226, R295). A
command that ended without completion leaves so. -/
def State.dmaComplete (s : State) (u eng : Nat) : State :=
  let k := s.core u
  match takeFirst (fun o => o.eng == eng) k.dma with
  | none => s
  | some (o, rest) =>
    if !o.finished then s
    else
      let kept := if k.safelight then k.gotten ++ o.left k.clock else k.gotten
      let s := State.refresh (s.setCore u { k with dma := rest, gotten := kept }) u
      let s := match o.ended, o.done with
        | false, some i => s.semUpdate u i (1 + eng) 1
        | _, _ => s
      s.settleClear u

end Sys2Proof.Machine
end

