-- ==== Sys2Proof/Machine/Collective.lean ====
section
/-!
DEFINITION. The collective sequencers of the tile dies (spec/07_collectives.md, R163, R174 to R184, R190 to R193,
Table 7.10): announce phase, data phase, done phase, landing chunks and aborts.
-/

namespace Sys2Proof.Machine

/-! ### Messages of a sequencer (R179, R181) -/

/-- One message of one packet from a collective of core u to a device and endpoint, or to a rank. The packet addr is 0 where
the spec gives none: in announces, in contributions to a tree and in the done word (DESIGN CHOICE, log entry 154). -/
def State.collMsg (s : State) (u : Nat) (o : Owner) (d : CollDesc) (job slot : Nat) (dest : Target ⊕ Nat) (op addr : Nat)
    (data : List Byte) : State :=
  let r := s.reg (R.tdCRank u)
  let h : PktHdr := { PktHdr.zero op with srcDev := s.selfDev, srcEp := wfld r 29 20, srcRank := d.selfRank,
                                          msgBytes := data.length, addr := addr % 2 ^ 48 }
  let vc := if op = opWrite then 0 else 2
  match dest with
  | .inl t =>
    s.sendParts (s.tileSlot (u / 4)) o (some t.dev) none
      { h with dstDev := t.dev, dstEp := t.ep, flow := Config.collFlow t.dev t.ep t.ctx % 4096 } vc ownClass job [(0, data)]
  | .inr rank =>
    s.sendParts (s.tileSlot (u / 4)) o none (some slot)
      { h with dstRank := rank, flow := Config.collFlow 1024 rank 0 % 4096 } vc ownClass job [(0, data)]

/-- The body of a member's announce (Table 7.4). -/
def State.announceBody (s : State) (u : Nat) (d : CollDesc) (m count : Nat) : List Byte :=
  collDigest d ++ leBytes 8 count ++ leBytes 4 (m % 2 ^ 20) ++ leBytes 4 0 ++ leBytes 8 (s.reg64 (R.tdCStepLo u) (R.tdCStepHi u))
    ++ leBytes 24 0

/-- A COLL_ANN for a tree. -/
def State.sendAnnounce (s : State) (u : Nat) (o : Owner) (d : CollDesc) (job slot m : Nat) (mm : Bool) (tree count : Nat)
    (t : Target) : State :=
  let h : ChunkHdr := { ctx := t.ctx, inIdx := t.inIdx, last := false, mm := mm, flags := 0, wtype := 0,
                        seq := d.seqOf tree, chunk := 0, elems := 0, crc := 0 }
  let raw := leBytes 32 h.toNat
  let body := s.announceBody u d m count
  s.collMsg u o d job slot (.inl t) opCollAnn 0 (leBytes 32 { h with crc := chunkCrc raw body }.toNat ++ body)

/-! ### Completion (R191, R193) -/

/-- The record and the ADD of a collective that ends, and the abort of a non-zero code (R196). -/
def State.endMember (s : State) (u job : Nat) (d : CollDesc) (code done : Nat) (total : Dword) : State :=
  let n := u / 4
  let rec' := leBytes 1 code ++ leBytes 1 0 ++ leBytes 2 done ++ leBytes 4 d.seq ++ leBytes 8 total.toNat
    ++ leBytes 8 (s.replica (tileDie n)).toNat ++ leBytes 8 0
  let s := if d.recAddr + 32 ≤ lsSize then s.lsPut u d.recAddr rec' else s
  let s := s.semUpdate u d.sem 3 1
  if code = 0 then s
  else
    let s := if s.reg (R.tdCollfault n) = 0 then
        s.setReg (R.tdCollfault n) (atFld 31 24 code ||| atFld 23 12 job ||| atFld 1 0 (u % 4))
      else s
    s.raise (R.tdCollcause n) 0

/-- An open collective ends; a clear of its core may have waited for it (R205). -/
def State.endColl (s : State) (c : Coll) (code done : Nat) : State :=
  (State.endMember { s with colls := s.colls.filter fun o => o.id != c.id } c.core c.job c.desc code done c.total).settleClear c.core

/-- A collective ends with POISONED by its own check (R180) or by its done result (R191): Hyzacia has to send a notice for
its job (R192), whatever COLLFAULT holds. -/
def State.endPoisoned (s : State) (c : Coll) (done : Nat) : State :=
  State.endColl (s.owe { site := .coll, n := c.n, job := c.job, code := fcPoisoned }) c fcPoisoned done

/-! ### Acceptance (R163, R168, R174, R179) -/

/-- Reading the plan: its bytes, or the code with which the collective ends, the fault being recorded (R168, R271, R275). -/
def State.readVa (s : State) (u va n : Nat) : State × Except Nat (List Byte) :=
  match s.vaRange (u / 4) (s.coreSlot u) va n false with
  | (s, .ok ps) =>
    (match s.readPieces ps with
     | .ok bs => (s, .ok bs)
     | .error a => (s.dpaUe a (s.coreJob u) (u % 4), .error fcEccUe))
  | (s, .refused bad) => (s.vaDenied (u / 4) (s.coreJob u) (u % 4) bad, .error fcDenied)
  | (s, .remote _ bad) => (s.vaDenied (u / 4) (s.coreJob u) (u % 4) bad, .error fcDenied)
  | (s, .ue a) => (s.dpaUe a (s.coreJob u) (u % 4), .error fcEccUe)

/-- The whole plan: its header says how long it is. -/
def State.readPlan (s : State) (u : Nat) (d : CollDesc) : State × Except Nat Plan :=
  match s.readVa u d.planAddr 32 with
  | (s, .error e) => (s, .error e)
  | (s, .ok h) =>
    match s.readVa u d.planAddr (planHead d.trees (leAt h 6 1) + 136 * leAt h 4 2) with
    | (s, .error e) => (s, .error e)
    | (s, .ok bs) => (s, .ok (parsePlan d.trees (d.op == cPermute) bs))

/-- Open collectives of a die; what R163 lets a core's next command wait for. -/
def State.collsOf (s : State) (n : Nat) : List Coll := s.colls.filter fun c => c.n == n

def State.collRoom (s : State) (u : Nat) : Bool :=
  let mine := s.colls.filter fun c => c.core == u && c.job == s.coreJob u
  (s.collsOf (u / 4)).length < 16 && (mine.isEmpty || (mine.length == 1 && mine.all fun c => c.phase != .announce))

/-- The images and the data-tree announces of a collective that has opened (R179, steps 1 and 2). -/
def State.openColl (s : State) (u id : Nat) (d : CollDesc) (p : Plan) (mm : Bool) (m : Nat) : State :=
  let job := s.coreJob u
  let slot := s.coreSlot u
  let seed := s.reg64 (R.tdCSeedLo u) (R.tdCSeedHi u)
  let step := s.reg64 (R.tdCStepLo u) (R.tdCStepHi u)
  let images := p.images.filter fun i => i.1.valid
  let leaves := p.leaves.zipIdx.filter fun t => t.1.valid
  let c : Coll := { id := id, n := u / 4, core := u, slot := slot, job := job, desc := d, plan := p, phase := .announce,
                    mm := mm, annOutst := images.length + leaves.length, annSent := false, trees := [], streams := [],
                    landed := [], doneWord := 0, doneSent := false, total := 0 }
  let s : State := { s with colls := s.colls ++ [c] }
  let s := images.foldl (fun s i => s.collMsg u (.collAnn id) d job slot (.inl i.1) opWrite
    (2 ^ 23 + i.1.ctx % 128 * 128) (d.fillImage job seed step i.1 i.2)) s
  leaves.foldl (fun s t => s.sendAnnounce u (.collAnn id) d job slot m mm t.2 (d.shardLen t.2) t.1) s

/-- COLL_ACCEPT: the sequencer takes the command at the head of core u's CQ. While the crossbar is disabled it stalls, as the
DMA and stream engines do (R66; log entry 129). -/
def State.collAccept (s : State) (u : Nat) : State :=
  let k := s.core u
  match k.cq with
  | [] => s
  | c :: rest =>
    if !(s.hasCore u && s.collRoom u && s.xbarOn) then s
    else
      let s := s.setCore u { k with cq := rest }
      let at' := dmaDesc c.slot.toNat
      if s.lsUeNow u at' 128 then s.asyncFault u c.d fcEccUe c.word
      else
        let d := parseColl (s.lsNow u at' 128)
        let job := s.coreJob u
        if !s.bit (R.tdCRank u) 31 then s.endMember u job d fcDenied 0 0
        else match s.readPlan u d with
        | (s, .error code) => s.endMember u job d code 0 0
        | (s, .ok p) =>
          if !p.ctlLeaf.valid then s.endMember u job d fcDenied 0 0
          else
            let ranks := wfld (s.active.word 1 0 (s.coreSlot u) 1) 20 0
            let ok := d.passes job ranks p (s.job (s.coreSlot u)).det
            let m := if d.groupOk ranks then d.self else 0
            let id := s.nextId
            s.numbered.openColl u id d p (!ok) m

/-! ### The control announce (R179) -/

/-- The trees whose combined announce, and whose output, a member awaits. -/
def Coll.needs (c : Coll) : List Nat :=
  let op := c.desc.op
  if (op = cAllReduce ∧ c.plan.lead) ∨ (op = cReduce ∧ c.desc.self = c.desc.arg) then List.range c.desc.trees
  else if op = cReduceScatter then (List.range c.desc.trees).filter (· == c.desc.self)
  else []

/-- Step 3 of R179 is over. -/
def Coll.mayAnnounce (c : Coll) : Bool :=
  c.phase == .announce && !c.annSent && c.annOutst == 0 && c.needs.all fun t => c.trees.contains t

/-- COLL_CONTROL_ANNOUNCE. -/
def State.controlAnnounce (s : State) (n : Nat) : State :=
  match s.colls.find? fun c => s.xbarOn && c.n == n && c.mayAnnounce with
  | none => s
  | some c =>
    let s := s.updColl c.id fun c => { c with annSent := true }
    s.sendAnnounce c.core (.collCtl c.id) c.desc c.job c.slot c.desc.self c.mm c.desc.trees c.desc.count c.plan.ctlLeaf

/-! ### Packets that reach a sequencer (R177, R180, R183) -/

/-- The open collective a packet is for: the job's, with the sequence number in its range; of the lead for a multicast
copy, of the core that the endpoint names otherwise. Where leads of two parallel groups with one sequence number are on the
die, the one that opened first takes the copy (DESIGN CHOICE, log entry 145). -/
def State.collFor (s : State) (n : Nat) (a : Arrival) : Option Coll :=
  s.colls.find? fun c => c.n == n && c.job == a.pkt.job && (c.desc.treeOf (chunkHdr a.pkt).seq).isSome
    && (if a.mcast then c.plan.lead else c.core == a.unit)

/-- Whether a COLL_DATA packet is the done result: it comes on the control tree's sequence number, which landing chunks
share where there is no data tree, and is the last chunk of its context (log entry 36). -/
def Coll.isDone (c : Coll) (a : Arrival) : Bool :=
  let h := chunkHdr a.pkt
  a.pkt.hdr.op == opCollData && c.desc.treeOf h.seq == some c.desc.trees && (c.desc.trees != 0 || h.last)

/-- The lead hands a release or a done result on to the members of its device (R177). -/
def State.forwardLocal (s : State) (c : Coll) (a : Arrival) : State :=
  if !c.plan.lead then s
  else c.plan.locals.foldl (fun s ep =>
    s.attachPkt a.slot none none
      { a.pkt with hdr := { a.pkt.hdr with dstDev := s.selfDev, dstEp := ep, msgBytes := 0, msgSlot := 0, msgSeq := 0,
                                           sig := false },
                   abt := false }) s

/-- A packet whose crc fails is not used: the collective ends with POISONED (R180). -/
def State.collPoisoned (s : State) (c : Coll) : State := (s.raise (R.tdCollcause c.n) 1).endPoisoned c 0

/-- The first announce at a die that does (`ctl`) or does not concern a control tree. -/
def State.takeAnnounce (s : State) (n : Nat) (ctl : Bool) : Option (Arrival × State) :=
  s.takeArrival (s.tileSlot n) fun a => a.pkt.hdr.op == opCollAnn
    && (match s.collFor n a with
        | some c => (c.desc.treeOf (chunkHdr a.pkt).seq == some c.desc.trees) == ctl
        | none => !ctl)

/-- COLL_ANNOUNCE_RECEIVE: the combined announce of a data tree; one for no open collective is discarded. -/
def State.announceReceive (s : State) (n : Nat) : State :=
  match s.takeAnnounce n false with
  | none => s
  | some (a, s) =>
    let s := s.commitArrival a
    match s.collFor n a with
    | none => s
    | some c =>
      if !crcGood a.pkt then s.collPoisoned c
      else
        let h := chunkHdr a.pkt
        s.updColl c.id fun c => { c with trees := c.trees ++ (c.desc.treeOf h.seq).toList, mm := c.mm || h.mm }

/-- The streams of a member in the data phase, in order of their tree or target (R181, Table 7.5). `counts` are the
lengths of the blocks of an ALL_TO_ALL. -/
def Coll.streamsOf (c : Coll) (counts : List Nat) : List CollStream :=
  let d := c.desc
  let one (target count : Nat) : CollStream :=
    { tree := target, next := 0, chunks := d.chunksOf count + bnat d.vcount, count := count, outst := 0 }
  if d.trees ≠ 0 then
    (c.plan.leaves.zipIdx.filter fun t => t.1.valid).map fun t =>
      { tree := t.2, next := 0, chunks := d.chunksOf (d.shardLen t.2), count := d.shardLen t.2, outst := 0 }
  else if d.op = cAllGather then (if c.plan.fanout.valid then [one 0 d.count] else [])
  else if d.op = cBroadcast then (if c.plan.fanout.valid ∧ d.self = d.arg then [one 0 d.count] else [])
  else if d.op = cGather then [one d.arg d.count]
  else if d.op = cPermute then (if c.plan.permTarget < d.size then [one c.plan.permTarget d.count] else [])
  else if d.op = cAllToAll then counts.zipIdx.map fun p => one p.2 p.1
  else if d.op = cShift then
    let ax := nbits d.arg 20 2
    let e := (d.extent ax : Int)
    let x := ((d.coord d.selfRank ax : Int) - if d.masked ax then (d.low ax : Int) else (d.coord d.selfRank ax : Int))
      + sext 20 d.arg
    let y := if d.wrap then x % e else x
    if 0 ≤ y ∧ y < e then
      let own := if d.masked ax then d.coord d.selfRank ax - d.low ax else 0
      [one (d.self - own * d.mUnit ax + y.toNat * d.mUnit ax) d.count]
    else []
  else []

/-- count_j of every block of an ALL_TO_ALL (R182), an unreadable one being zero with local_err (R184). -/
def State.blockCounts (s : State) (c : Coll) : State × List Nat :=
  let d := c.desc
  if d.op ≠ cAllToAll then (s, [])
  else if !d.vcount then (s, List.replicate d.size d.count)
  else (List.range d.size).foldl (fun (r : State × List Nat) j =>
    match r.1.readVa c.core (d.srcAddr + d.size * d.block + 8 * j) 8 with
    | (s, .ok bs) => (s, r.2 ++ [min (leNat bs) d.maxCount])
    | (s, .error _) => (s.updColl c.id fun c => { c with doneWord := c.doneWord ||| oneBit 9 }, r.2 ++ [0])) (s, [])

/-- COLL_RELEASE: the combined announce of the control root (R180). -/
def State.collRelease (s : State) (n : Nat) : State :=
  match s.takeAnnounce n true with
  | none => s
  | some (a, s) =>
    let s := s.commitArrival a
    match s.collFor n a with
    | none => s
    | some c =>
      if !crcGood a.pkt then s.collPoisoned c
      else
        let s := s.forwardLocal c a
        if c.phase ≠ .announce then s
        else
          let body := chunkBody a.pkt
          let c := { c with total := BitVec.ofNat 64 (leAt body 16 8) }
          if (chunkHdr a.pkt).mm || slice body 0 16 != collDigest c.desc
              || leAt body 32 8 != s.reg64 (R.tdCStepLo c.core) (R.tdCStepHi c.core) then
            s.endColl c fcMismatch 0
          else
            let r := s.blockCounts c
            r.1.updColl c.id fun o => { o with phase := .released, total := c.total, streams := c.streamsOf r.2 }

/-! ### The data phase (R181 to R184, R189) -/

/-- Bytes of device memory, none for a byte that could not be read; every fault is recorded. -/
def State.readBytes (s : State) (u va n : Nat) : State × List (Option Byte) :=
  (vaPieces (n / 2 ^ 21 + 2) va n).foldl (fun (r : State × List (Option Byte)) p =>
    let s := r.1
    match s.vaRange (u / 4) (s.coreSlot u) p.1 p.2 false with
    | (s, .ok ps) =>
      let bad := s.ue.filter fun w => w.1 == .dpa && ps.any fun q => q.1 / 8 ≤ w.2 / 8 && w.2 / 8 ≤ (q.1 + q.2 - 1) / 8
      let s := bad.foldl (fun s w => s.dpaUe w.2 (s.coreJob u) (u % 4)) s
      let bs := ps.flatMap fun q => (List.range q.2).map fun i =>
        if bad.any (fun w => w.2 / 8 == (q.1 + i) / 8) then none else some (rdByte s.dpa (q.1 + i))
      (s, r.2 ++ bs)
    | (s, .ue a) => (s.dpaUe a (s.coreJob u) (u % 4), r.2 ++ List.replicate p.2 none)
    | (s, _) => (s.vaDenied (u / 4) (s.coreJob u) (u % 4) p.1, r.2 ++ List.replicate p.2 none)) (s, [])

/-- Elements of `size` bytes from src: one that could not be read whole is sent as zero bits (R184). A thinned block of 12
bytes counts as one element here: where some of its bytes could not be read, all are sent as zeros (DESIGN CHOICE, log
entry 155). -/
def State.readElems (s : State) (c : Coll) (va size n : Nat) : State × List Byte :=
  let r := s.readBytes c.core va (size * n)
  let es := chunks size n r.2
  let bs := es.flatMap fun e => if e.all Option.isSome then e.map (·.getD 0) else List.replicate e.length 0
  let s := if r.2.all Option.isSome then r.1
    else r.1.updColl c.id fun c => { c with doneWord := c.doneWord ||| oneBit 9 }
  (s, bs)

/-- A chunk of a data tree (R181, R189). -/
def State.sendTreeChunk (s : State) (c : Coll) (t : CollStream) : State :=
  let d := c.desc
  let lf := c.plan.leaves.getD t.tree c.plan.ctlLeaf
  let k := t.next
  let elems := min d.chunkElems (t.count - k * d.chunkElems)
  let start := t.tree * d.shard + k * d.chunkElems
  let r := if d.thin then s.readElems c (d.srcAddr + 12 * (start / 64)) 12 (cdiv elems 64)
    else s.readElems c (d.srcAddr + 4 * start) 4 elems
  let h : ChunkHdr := { ctx := lf.ctx, inIdx := lf.inIdx, last := k + 1 == t.chunks, mm := false, flags := 0,
                        wtype := if d.thin then 2 else d.etype, seq := d.seqOf t.tree, chunk := k, elems := elems, crc := 0 }
  r.1.collMsg c.core (.collData c.id t.tree) d c.job c.slot (.inl lf) opCollData 0 (chunkData h r.2)

/-- A landing chunk of an operation without data trees (Table 7.5), the last of a stream with vcount = 1 being the
member's count (R182). Table 7.5 places it at the root's or target's dst_addr, which the sender's descriptor does not give:
the model takes the sender's own dst_addr (DESIGN CHOICE, log entry 132). Its header has last = 0, in the last chunk too: R181
does not name the bit, and Table 6.3 gives it for contexts (DESIGN CHOICE, log entry 144). -/
def State.sendLandingChunk (s : State) (c : Coll) (t : CollStream) : State :=
  let d := c.desc
  let m := d.self
  let k := t.next
  let isCount := d.vcount && k + 1 == t.chunks
  let elems := if isCount then 1 else min d.chunkElems (t.count - k * d.chunkElems)
  let base := d.dstAddr + (if d.op = cAllGather ∨ d.op = cGather ∨ d.op = cAllToAll then m * d.block else 0)
  let addr := if isCount then d.dstAddr + d.size * d.block + 8 * m else base + k * d.chunkElems * 2 ^ d.esize
  let src := d.srcAddr + (if d.op = cAllToAll then t.tree * d.block else 0) + k * d.chunkElems * 2 ^ d.esize
  let r := if isCount then (s, leBytes 8 t.count) else s.readElems c src (2 ^ d.esize) elems
  let h : ChunkHdr := { ctx := 0, inIdx := 0, last := false, mm := false, flags := 0,
                        wtype := if isCount then 5 else d.etype, seq := d.seqOf 0, chunk := k, elems := elems, crc := 0 }
  let dest : Target ⊕ Nat := if d.op = cAllGather ∨ d.op = cBroadcast then .inl c.plan.fanout
    else .inr (d.rankOf d.selfRank t.tree)
  r.1.collMsg c.core (.collData c.id t.tree) d c.job c.slot dest opCollData addr (chunkData h r.2)

/-- Whether a stream can send: of a data tree at most four chunks await COMPLETE. -/
def Coll.canSend (c : Coll) (t : CollStream) : Bool :=
  c.phase == .released && t.next < t.chunks && (c.desc.trees == 0 || t.outst < 4)

/-- COLL_CHUNK_SEND: the next stream in round robin sends its next chunk. The list of streams stays in cyclic order of
their trees, behind the one served last, also where a tree is passed over because four of its chunks await COMPLETE. -/
def State.chunkSend (s : State) (n : Nat) : State :=
  match s.colls.find? fun c => s.xbarOn && c.n == n && c.streams.any c.canSend with
  | none => s
  | some c =>
    match splitFirst c.canSend c.streams with
    | none => s
    | some (before, t, after) =>
      let s := s.updColl c.id fun c =>
        { c with streams := after ++ before ++ [{ t with next := t.next + 1, outst := t.outst + 1 }] }
      if c.desc.trees ≠ 0 then s.sendTreeChunk c t else s.sendLandingChunk c t

/-! ### Landing (R183, R184) -/

/-- Elements written at the packet's addr through the die's translation, for the packet's job; true where they were. -/
def State.landBytes (s : State) (n : Nat) (a : Arrival) (body : List Byte) : State × Bool :=
  let va := a.pkt.hdr.addr
  let job := a.pkt.job
  match s.active.jobSlot job with
  | none => (s.vaDenied n job 4 va, false)
  | some j =>
    match s.vaRange n j va body.length true with
    | (s, .ok ps) =>
      (match s.writePieces ps body with
       | .ok s => (s, true)
       | .error w => (s.dpaUe w job 4, false))
    | (s, .refused bad) => (s.vaDenied n job 4 bad, false)
    | (s, .remote _ bad) => (s.vaDenied n job 4 bad, false)
    | (s, .ue w) => (s.dpaUe w job 4, false)

/-- LANDING_CHUNK: the first chunk at a die that is no done result. -/
def State.landingChunk (s : State) (n : Nat) : State :=
  match s.takeArrival (s.tileSlot n) fun a => a.pkt.hdr.op == opCollData
      && (match s.collFor n a with
          | some c => !c.isDone a
          | none => true) with
  | none => s
  | some (a, s) =>
    let h := chunkHdr a.pkt
    let s : State := match s.collFor n a with
      | none => (s.incCtr (R.tdCollstrayLo n)).raise (R.tdCollcause n) 2
      | some c =>
        let s := s.updColl c.id fun c => match c.desc.treeOf h.seq with
          | some t => if t < c.desc.trees then { c with landed := mset 0 c.landed t (mget 0 c.landed t + 1) } else c
          | none => c
        if !crcGood a.pkt then
          State.raise (s.updColl c.id fun c => { c with doneWord := c.doneWord ||| oneBit 8 }) (R.tdCollcause n) 1
        else
          let s := s.updColl c.id fun c => { c with doneWord := c.doneWord ||| BitVec.ofNat 32 h.flags.toNat }
          match s.landBytes n a (chunkBody a.pkt) with
          | (s, true) => if nbit c.desc.chunkSem 15 then s.semUpdate c.core (c.desc.chunkSem % 1024) 3 1 else s
          | (s, false) => s.updColl c.id fun c => { c with doneWord := c.doneWord ||| oneBit 9 }
    s.commitArrival a

/-! ### The done phase (R190, R191) -/

/-- The condition of R190. -/
def Coll.mayFinish (c : Coll) : Bool :=
  c.phase == .released && !c.doneSent && (c.streams.all fun t => t.next == t.chunks && t.outst == 0)
    && c.needs.all fun t => c.desc.chunksOf (c.desc.shardLen t) ≤ mget 0 c.landed t

/-- COLL_DONE_SEND: chunk 0 of the control-tree leaf holds the done word. -/
def State.doneSend (s : State) (n : Nat) : State :=
  match s.colls.find? fun c => s.xbarOn && c.n == n && c.mayFinish with
  | none => s
  | some c =>
    let s := s.updColl c.id fun c => { c with phase := .done, doneSent := true }
    let t := c.plan.ctlLeaf
    let h : ChunkHdr := { ctx := t.ctx, inIdx := t.inIdx, last := true, mm := false, flags := 0, wtype := 4,
                          seq := c.desc.seqOf c.desc.trees, chunk := 0, elems := 1, crc := 0 }
    s.collMsg c.core (.collCtl c.id) c.desc c.job c.slot (.inl t) opCollData 0 (chunkData h (leBytes 4 c.doneWord.toNat))

/-- COLL_DONE_RESULT: the OR of all done words (R180, R191). -/
def State.doneResult (s : State) (n : Nat) : State :=
  match s.takeArrival (s.tileSlot n) fun a => (match s.collFor n a with
      | some c => c.isDone a
      | none => false) with
  | none => s
  | some (a, s) =>
    let s := s.commitArrival a
    match s.collFor n a with
    | none => s
    | some c =>
      if !crcGood a.pkt then s.collPoisoned c
      else
        let s := s.forwardLocal c a
        if c.phase ≠ .done then s
        else
          let w := leAt (chunkBody a.pkt) 0 4
          if !nbit w 9 && nbit w 8 then s.endPoisoned c (w % 65536)
          else s.endColl c (if nbit w 9 then fcDenied else 0) (w % 65536)

/-! ### Aborts (R193, R195) -/

/-- A message of collective `id`. -/
def Msg.ofColl (m : Msg) (id : Nat) : Bool :=
  match m.owner with
  | .collAnn i => i == id
  | .collData i _ => i == id
  | .collCtl i => i == id
  | _ => false

/-- The sequencer stops sending: the messages of a collective of which no packet has entered the crossbar are dropped (log
entry 153). -/
def State.stopSending (s : State) (id : Nat) : State :=
  (s.msgs.filter fun m => m.ofColl id && s.attach.any fun p => p.msg == some m.id).foldl (fun s m => s.dropMsg m.id) s

/-- Every open collective of a job at a die stops sending and ends with a code. -/
def State.abortColls (s : State) (n job code : Nat) : State :=
  (s.colls.filter fun c => c.n == n && c.job == job).foldl (fun s c => (s.stopSending c.id).endColl c code 0) s

/-- A write to TDn_COLLJOBCMD. -/
def State.writeColljobcmd (s : State) (n : Nat) (w : Word) : State :=
  let code := wfld w 23 16
  if n < s.tiles ∧ wfld w 31 30 = 1 ∧ 1 ≤ code ∧ code ≤ 0x0B then s.abortColls n (wfld w 11 0) code else s

end Sys2Proof.Machine
end

