-- ==== Sys2Proof/Machine/Ethernet.lean ====
section
/-!
DEFINITION. Ethernet mode and serving frames (spec/04_links_and_routing.md, R108 to R113): the states of a subport, the
receive checks, the answers to ARP and Neighbour Solicitation, request buffers and responses. Multi-byte fields of a frame
are big endian, as the wire formats give them.
-/

namespace Sys2Proof.Machine

/-! ### States (R109) -/

/-- The exit from UP: the output goes down, response buffers are freed under reason 7, eth_down is set. -/
def State.ethLeaveUp (s : State) (n l j sub : Nat) (st : EthState) : State :=
  let e := s.eth n l
  let s := s.outputDown j sub
  let s := (e.resp.map (·.handle) ++ e.wait.map (·.handle)).foldl (fun s h => s.dropBuffer h 7) s
  State.raise (s.setEth n l { e with st := st, wait := [], resp := [] }) (R.portCause n) 6

/-- A write to PORTn_El_CTL (R104, R109). -/
def State.writeEthCtl (s : State) (n l : Nat) (w : Word) : State :=
  let e := s.eth n l
  if wbit w 0 then
    match s.subportAt n l with
    | none => s.raise (R.portCause n) 5
    | some (j, _) =>
      if s.slotMode j ≠ 1 then s.raise (R.portCause n) 5
      else
        let s := s.writeReg (R.portECtl n l) w
        if e.st = .down then s.setEth n l { e with st := .training } else s
  else
    let s := s.writeReg (R.portECtl n l) w
    match s.subportAt n l with
    | none => s
    | some (j, sub) =>
      if e.st = .up then s.ethLeaveUp n l j sub .down else s.setEth n l { e with st := .down }

/-- Training completed with block lock, alignment and FEC lock. -/
def State.ethTrained (s : State) (n l : Nat) : State :=
  let e := s.eth n l
  if e.st = .training then s.setEth n l { e with st := .up } else s

/-- Lock is lost, or fault sequences have arrived for 1 ms: back to TRAINING. -/
def State.ethLost (s : State) (n l : Nat) : State :=
  match s.subportAt n l with
  | some (j, sub) => if (s.eth n l).st = .up then s.ethLeaveUp n l j sub .training else s
  | none => s

/-! ### Addresses and checksums -/

/-- The port's MAC address as it stands on the wire. -/
def State.ethMac (s : State) (n l : Nat) : List Byte :=
  leBytes 4 (s.reg (R.portEMacLo n l)).toNat ++ leBytes 2 (s.reg (R.portEMacHi n l)).toNat

def State.ethIp4 (s : State) (n l : Nat) : List Byte := beBytes 4 (s.reg (R.portEIpv4 n l)).toNat
def State.ethIp6 (s : State) (n l : Nat) : List Byte :=
  (List.range 4).flatMap fun q => beBytes 4 (s.reg (R.portEIpv6 n l q)).toNat

def allZero (bs : List Byte) : Bool := bs.all (· == 0)

/-- Ones' complement sum of big-endian 16-bit words; an odd last byte is the upper one. -/
def onesSum : Nat → List Byte → Nat
  | acc, [] => acc
  | acc, [a] => acc + 256 * a.toNat
  | acc, a :: b :: r => onesSum (acc + 256 * a.toNat + b.toNat) r

/-- Carries folded in, and the complement. -/
def onesCheck (bs : List Byte) : Nat :=
  let x := onesSum 0 bs
  let x := x % 65536 + x / 65536
  let x := x % 65536 + x / 65536
  65535 - x

/-- The pseudo header of a UDP datagram or an ICMPv6 message: addresses, length and protocol. -/
def pseudo (src dst : List Byte) (len proto : Nat) : List Byte :=
  if src.length = 4 then src ++ dst ++ beBytes 2 proto ++ beBytes 2 len else src ++ dst ++ beBytes 4 len ++ beBytes 4 proto

/-- The FCS: the CRC-32 in wire order. -/
def fcsOf (bs : List Byte) : List Byte := leBytes 4 (crc32 bs).toNat

/-- A frame: padded to 60 bytes, with its FCS. -/
def frameOf (bs : List Byte) : List Byte :=
  let p := bs ++ zeros (60 - bs.length)
  p ++ fcsOf p

/-! ### A received frame -/

/-- The parts of a frame that the checks read. -/
structure Rx where
  bytes : List Byte
  tagged : Bool
  /-- where the EtherType stands -/
  at_ : Nat
  etype : Nat
  deriving DecidableEq, Repr

def parseFrame (f : List Byte) : Rx :=
  let tagged := beAt f 12 2 == 0x8100
  let at' := if tagged then 16 else 12
  { bytes := f, tagged := tagged, at_ := at', etype := beAt f at' 2 }

/-- Offset of the network header, and the bytes from there to the FCS. -/
def Rx.net (r : Rx) : Nat := r.at_ + 2
def Rx.body (r : Rx) : List Byte := (r.bytes.take (r.bytes.length - 4)).drop r.net

def etIp4 : Nat := 0x0800
def etIp6 : Nat := 0x86DD
def etArp : Nat := 0x0806

/-- IP addresses, transport header offset within the body, protocol and IP payload length. -/
def Rx.src (r : Rx) : List Byte := if r.etype = etIp4 then slice r.body 12 4 else slice r.body 8 16
def Rx.dst (r : Rx) : List Byte := if r.etype = etIp4 then slice r.body 16 4 else slice r.body 24 16
def Rx.l4 (r : Rx) : Nat := if r.etype = etIp4 then 20 else 40
def Rx.proto (r : Rx) : Nat := if r.etype = etIp4 then leAt r.body 9 1 else leAt r.body 6 1
def Rx.plen (r : Rx) : Nat := if r.etype = etIp4 then beAt r.body 2 2 - 20 else beAt r.body 4 2

/-- IPv6 extension headers. -/
def isExtHeader (p : Nat) : Bool :=
  p == 0 || p == 43 || p == 44 || p == 50 || p == 51 || p == 60 || p == 135 || p == 139 || p == 140

/-- Check 5 of Table 4.12. -/
def Rx.ipOk (r : Rx) : Bool :=
  let b := r.body
  if r.etype = etIp4 then
    leAt b 0 1 == 0x45 && onesCheck (slice b 0 20) == 0 && 20 ≤ beAt b 2 2 && beAt b 2 2 ≤ b.length
      && beAt b 6 2 % 0x4000 == 0
  else leAt b 0 1 / 16 == 6 && 40 + r.plen ≤ b.length && !isExtHeader r.proto

/-- The UDP length, the UDP payload and check 8. -/
def Rx.ulen (r : Rx) : Nat := beAt r.body (r.l4 + 4) 2
def Rx.udp (r : Rx) : List Byte := slice r.body (r.l4 + 8) (r.ulen - 8)

def Rx.udpOk (r : Rx) : Bool :=
  let sum := beAt r.body (r.l4 + 6) 2
  8 ≤ r.ulen && r.ulen ≤ r.plen
    && ((r.etype == etIp4 && sum == 0)
      || (sum != 0 && onesCheck (pseudo r.src r.dst r.ulen 17 ++ slice r.body r.l4 r.ulen) == 0))

/-- Check 9. -/
def Rx.servingOk (r : Rx) : Bool :=
  24 ≤ r.ulen && leAt r.udp 0 2 == 0x5842 && leAt r.udp 2 1 == 1 && leAt r.udp 10 2 == r.ulen - 24

/-- Checks 0 to 4. -/
def State.ethCheckLow (s : State) (n l : Nat) (r : Rx) : Option Nat :=
  let f := r.bytes
  let body := f.take (f.length - 4)
  let mtu := s.fld (R.portEMtu n l) 13 0
  let v := s.reg (R.portEVlan n l)
  if fcsOf body != f.drop (f.length - 4) then some 0
  else if mtu + (if r.tagged then 22 else 18) < f.length then some 1
  else if !(slice f 0 6 == s.ethMac n l || (r.etype == etArp && slice f 0 6 == List.replicate 6 0xFF)) then some 2
  else if (if wbit v 12 then !r.tagged || beAt f 14 2 % 4096 != wfld v 11 0 else r.tagged) then some 3
  else if !(r.etype == etIp4 || r.etype == etIp6 || r.etype == etArp) then some 4
  else none

/-- Checks 5 to 9 of an IP frame. -/
def State.ethCheckHigh (s : State) (n l : Nat) (r : Rx) : Option Nat :=
  let ip := if r.etype = etIp4 then s.ethIp4 n l else s.ethIp6 n l
  if !r.ipOk then some 5
  else if allZero ip || r.dst != ip then some 6
  else if r.proto != 17 || beAt r.body (r.l4 + 2) 2 != s.fld (R.portEUdp n l) 15 0 then some 7
  else if !r.udpOk then some 8
  else if !r.servingOk then some 9
  else none

/-! ### ARP and Neighbour Solicitation (R111) -/

/-- The Ethernet header of an answer: to the frame's source, the tag copied. -/
def State.ethAnswerHead (s : State) (n l : Nat) (r : Rx) (mac : List Byte) : List Byte :=
  mac ++ s.ethMac n l ++ slice r.bytes 12 (r.at_ - 12) ++ beBytes 2 r.etype

/-- The reply to an ARP request for the port's IPv4 address. -/
def State.arpReply (s : State) (n l : Nat) (r : Rx) : Option (List Byte) :=
  let b := r.body
  let ip := s.ethIp4 n l
  if beAt b 0 2 == 1 && beAt b 2 2 == etIp4 && leAt b 4 1 == 6 && leAt b 5 1 == 4 && beAt b 6 2 == 1 && !allZero ip
      && slice b 24 4 == ip then
    some (frameOf (s.ethAnswerHead n l r (slice b 8 6) ++ slice b 0 6 ++ beBytes 2 2 ++ s.ethMac n l ++ ip ++ slice b 8 10))
  else none

/-- The Neighbour Advertisement that answers a Neighbour Solicitation for the port's IPv6 address (log entry 37). -/
def State.naReply (s : State) (n l : Nat) (r : Rx) : Option (List Byte) :=
  let b := r.body
  let ip := s.ethIp6 n l
  let icmp := slice b 40 r.plen
  if r.etype == etIp6 && r.ipOk && r.proto == 58 && leAt b 7 1 == 255 && leAt icmp 0 1 == 135 && leAt icmp 1 1 == 0
      && 24 ≤ r.plen && onesCheck (pseudo r.src r.dst r.plen 58 ++ icmp) == 0 && !allZero ip && slice icmp 8 16 == ip then
    let anon := allZero r.src
    let dst := if anon then beBytes 16 0xFF020000000000000000000000000001 else r.src
    let msg (sum : Nat) : List Byte := beBytes 1 136 ++ beBytes 1 0 ++ beBytes 2 sum
      ++ beBytes 4 (if anon then 0x20000000 else 0x60000000) ++ ip ++ beBytes 1 2 ++ beBytes 1 1 ++ s.ethMac n l
    let sum := onesCheck (pseudo ip dst 32 58 ++ msg 0)
    let mac := if anon then beBytes 6 0x333300000001 else slice r.bytes 6 6
    some (frameOf (s.ethAnswerHead n l r mac ++ beBytes 4 0x60000000 ++ beBytes 2 32 ++ beBytes 1 58 ++ beBytes 1 255 ++ ip
      ++ dst ++ msg sum))
  else none

/-- A frame that leaves on a subport. -/
def State.ethSend (s : State) (n l : Nat) (f : List Byte) : State := s.setEth n l { s.eth n l with lastTx := f }

/-! ### Accepted datagrams (R112) -/

/-- A discarded frame is counted under its reason. -/
def State.ethDiscard (s : State) (n l reason : Nat) : State :=
  let k := 16 * lk n l + reason
  { s with ethDrop := mset 0 s.ethDrop k (mget 0 s.ethDrop k + 1) }

/-- The response headers of a request: addresses and ports swapped, the tag copied. -/
def Rx.respHead (r : Rx) : List Byte :=
  let f := r.bytes
  let b := r.body
  let eth := slice f 6 6 ++ slice f 0 6 ++ slice f 12 (r.net - 12)
  let ip := if r.etype = etIp4 then slice b 0 12 ++ r.dst ++ r.src else slice b 0 8 ++ r.dst ++ r.src
  eth ++ ip ++ slice b (r.l4 + 2) 2 ++ slice b r.l4 2 ++ slice b (r.l4 + 4) 4

/-- The datagram goes into a buffer of the smallest fitting pool, and its descriptor to the dispatcher. -/
def State.acceptDatagram (s : State) (n l : Nat) (r : Rx) : State :=
  let head := r.respHead
  let lane := 24 * n + l
  let size := 80 + (r.ulen - 8)
  match if s.xbarOn then s.allocate size else (s, .denied) with
  | (s, .ok h) =>
    let a := s.bufferAddr h
    let parts := [(a, 3), (a + 80 - head.length, head.length + (r.ulen - 8))]
    let s := match s.writePieces parts (leBytes 1 head.length ++ leBytes 2 lane ++ head ++ r.udp) with
      | .ok s => s
      | .error w => s.dpaFound w 4
    let d : Request := { model := leAt r.udp 3 1, handle := h, lane := lane, time := s.replica (portDie n) }
    State.incCtr { s with dsp := { s.dsp with inbox := s.dsp.inbox ++ [d] } } (R.portEAcceptLo n l)
  | (s, _) => s.ethDiscard n l 10

/-- FRAME_RECEIVE: a frame of at least 64 bytes, from the destination address to the FCS. A shorter one is no frame of
Table 4.11: it is dropped and counted under no reason (DESIGN CHOICE, log entry 53). An ARP frame that passes checks 0 to 4
and asks nothing of this port is counted under reason 6, the check of the destination address (DESIGN CHOICE, log entry
54). -/
def State.receiveFrame (s : State) (n l : Nat) (f : List Byte) : State :=
  match s.subportAt n l with
  | none => s
  | some (j, _) =>
    if s.slotMode j ≠ 1 ∨ (s.eth n l).st ≠ .up ∨ f.length < 64 then s
    else
      let r := parseFrame f
      match s.ethCheckLow n l r with
      | some reason => s.ethDiscard n l reason
      | none =>
        if r.etype = etArp then
          match s.arpReply n l r with
          | some a => s.ethSend n l a
          | none => s.ethDiscard n l 6
        else match s.naReply n l r with
        | some a => s.ethSend n l a
        | none =>
          match s.ethCheckHigh n l r with
          | some reason => s.ethDiscard n l reason
          | none => s.acceptDatagram n l r

/-! ### Responses (R113) -/

/-- The frame of a response buffer whose first bytes are `b`: the headers completed. -/
def State.responseFrame (s : State) (n l : Nat) (h : Nat) (b : List Byte) : List Byte :=
  let body := slice b 80 (16 + leAt b 90 2)
  let head := slice b (80 - h) h
  let tagged := h == 46 || h == 66
  let v4 := h ≤ 46
  let net := if tagged then 18 else 14
  let eth := slice head 0 6 ++ s.ethMac n l ++ slice head 12 (net - 12)
  let ip := slice head net (if v4 then 20 else 40)
  let ulen := 8 + body.length
  let src := if v4 then slice ip 12 4 else slice ip 8 16
  let dst := if v4 then slice ip 16 4 else slice ip 24 16
  let ports := slice head (h - 8) 4
  let c := onesCheck (pseudo src dst ulen 17 ++ ports ++ beBytes 2 ulen ++ body)
  let udp := ports ++ beBytes 2 ulen ++ beBytes 2 (if c = 0 then 65535 else c) ++ body
  let ip :=
    if v4 then
      let a := slice ip 0 2 ++ beBytes 2 (20 + ulen) ++ slice ip 4 6
      a ++ beBytes 2 (onesCheck (a ++ beBytes 2 0 ++ src ++ dst)) ++ src ++ dst
    else slice ip 0 4 ++ beBytes 2 ulen ++ slice ip 6 34
  frameOf (eth ++ ip ++ udp)

/-- Length of the frame of a response buffer, from the destination address to the FCS: known when the frame is built, before
it is selected (R115). A buffer whose first bytes cannot be read gives no frame; the least length stands for it. -/
def State.respLength (s : State) (hd : Word) : Nat :=
  match s.readPieces [(s.bufferAddr hd, 96)] with
  | .error _ => 64
  | .ok b => max 64 (leAt b 0 1 + 16 + leAt b 90 2 + 4)

/-- Cells that a frame of `len` bytes, FCS included, fills in the FIFO of an Ethernet subport (R116): 240 bytes each, as in
the crossbar (DESIGN CHOICE, log entry 123). -/
def frameCells (len : Nat) : Nat := cdiv len 240

/-- Cells of the frame of a response buffer. -/
def State.respCells (s : State) (hd : Word) : Nat := frameCells (s.respLength hd)

/-- Charged length of a response on an Ethernet subport (R115). -/
def State.chargedEth (s : State) (n l : Nat) (hd : Word) : Nat := s.respLength hd + s.fld (R.portSCfg n l) 5 0

/-- Whether the FIFO of 128 cells has room for the whole frame (R116). -/
def State.ethRoom (s : State) (n l : Nat) (hd : Word) : Bool :=
  ((s.eth n l).resp.map fun f => frameCells f.frame.length).sum + s.respCells hd ≤ 128

/-- The frame of a response that is selected, built whole from its buffer (R115), or the state without it: a frame beyond
the MTU, or with a header length that R112 does not list, is discarded under reason 11. -/
def State.buildResponse (s : State) (n l : Nat) (hd : Word) : Except State (List Byte) :=
  let a := s.bufferAddr hd
  match s.readPieces [(a, 96)] with
  | .error w => .error ((s.dpaFound w 4).freeBuffer hd)
  | .ok b =>
    let h := leAt b 0 1
    let ipLen := h - (if h = 46 ∨ h = 66 then 18 else 14) + 16 + leAt b 90 2
    if !(h == 42 || h == 46 || h == 62 || h == 66) || s.fld (R.portEMtu n l) 13 0 < ipLen then
      .error ((s.ethDiscard n l 11).freeBuffer hd)
    else match s.readPieces [(a, 96 + leAt b 90 2)] with
    | .error w => .error ((s.dpaFound w 4).freeBuffer hd)
    | .ok b => .ok (s.responseFrame n l h b)

/-- A selected response leaves its queue: its frame crosses from the tile die and enters the FIFO whole (R116). -/
def State.takeResponse (s : State) (n l : Nat) (r : RespWait) (rest : List RespWait) : State :=
  let s := s.setEth n l { s.eth n l with wait := rest }
  match s.buildResponse n l r.handle with
  | .error t => t
  | .ok f =>
    let e := s.eth n l
    s.setEth n l { e with resp := e.resp ++ [{ handle := r.handle, ts := r.ts, frame := f }] }

/-- RESPONSE_TRANSMIT: the first frame of the subport's FIFO, in selection order (R121), is sent, and its buffer is freed. -/
def State.transmitResponse (s : State) (n l : Nat) : State :=
  let e := s.eth n l
  match e.resp with
  | [] => s
  | f :: rest =>
    if e.st ≠ .up then s else ((s.setEth n l { e with resp := rest }).ethSend n l f.frame).freeBuffer f.handle

/-! ### Throttling (R102) -/

/-- Cells of the responses at an Ethernet subport, waiting or in its FIFO (R102, R126), all of one class. -/
def State.ethDepth (s : State) (n l tc : Nat) : Nat :=
  if tc = ownClass then
    let e := s.eth n l
    (e.wait.map fun r => s.respCells r.handle).sum + (e.resp.map fun f => frameCells f.frame.length).sum
  else 0

/-- Depth D of a subport and class. A cell that has left the crossbar and is still to enter the egress buffer counts as one of
that buffer, here and for the delay (DESIGN CHOICE, log entry 122). -/
def State.depth (s : State) (n l j sub tc : Nat) : Nat :=
  s.ethDepth n l tc + countWhere (fun e => e.j == j && e.cell.sub == sub && e.cell.tc == tc) s.xbar.xq
    + countWhere (fun o => o.1 == j && o.2.sub == sub && o.2.tc == tc) s.xbar.xout
    + countWhere (fun c => c.tc == tc) (s.egr n l).fifo

/-- THROTTLE_LEVEL_UPDATE: up to the thresholds reached, down one level below the threshold less hyst. -/
def State.updateThrottle (s : State) (n l tc : Nat) : State :=
  match s.subportAt n l with
  | none => s
  | some (j, sub) =>
    if 8 ≤ tc then s
    else
      let r := s.reg (R.portPThr n l)
      let d := s.depth n l j sub tc
      let t (i : Nat) : Nat := 16 * wfld r (8 * i + 7) (8 * i)
      let reached := countWhere (fun i => t i ≤ d) [0, 1, 2]
      let cur := s.throttle n l tc
      let next :=
        if cur < reached then reached
        else if 0 < cur ∧ reached < cur ∧ d + 16 * wfld r 31 24 < t (cur - 1) then cur - 1
        else cur
      s.setField (R.portPThrlvl n l) (2 * tc + 1) (2 * tc) next

end Sys2Proof.Machine
end

