-- ==== Sys2Proof/Machine/Sched.lean ====
section
/-!
DEFINITION. Egress scheduling, shaping, policing and queue telemetry (spec/05_scheduling_and_telemetry.md, R115 to
R128).
-/

namespace Sys2Proof.Machine

/-! ### Queues of a subport as the scheduler sees them -/

/-- A packet at the head of a queue: input, class, channel, packet and charged length. -/
structure HeadPkt where
  i : Nat
  tc : Nat
  vc : Nat
  pid : Nat
  len : Nat
  deriving DecidableEq, Repr

/-- Entries of the queues toward a subport. -/
def State.toSub (s : State) (j sub : Nat) : List XEntry := s.xbar.xq.filter fun e => e.j == j && e.cell.sub == sub

/-- The crossbar slot of the tile die whose HBM holds a response buffer: the input slot of its frame. -/
def State.respSlot (s : State) (hd : Word) : Nat := s.tileSlot (dpaDie (s.bufferAddr hd))

/-- A packet that waits at the head of, or behind, a queue: input, class and packet. -/
structure WaitPkt where
  i : Nat
  tc : Nat
  pid : Nat
  deriving DecidableEq, Repr

/-- The packets that wait for a subport: those whose sop cell stands in a queue of the crossbar, or the response frames of
an Ethernet subport, all of one class (R115, R116; log entry 27). -/
def State.waiting (s : State) (n l j sub : Nat) : List WaitPkt :=
  if s.slotMode j = 1 then (s.eth n l).wait.map fun r => ⟨s.respSlot r.handle, ownClass, r.handle.toNat⟩
  else (s.toSub j sub).filterMap fun e => if e.cell.sop then some ⟨e.i, e.cell.tc, e.cell.pid⟩ else none

/-- Whether a packet of queue (i, tc) other than those selected waits. -/
def waitsIn (q : List WaitPkt) (g : Egress) (i tc : Nat) : Bool :=
  q.any fun e => e.i == i && e.tc == tc && !(g.inProg.any fun p => p.1.pid == e.pid)

/-- The channel of a packet in progress: of its cell that entered last, else of its sop cell, which is still in the queue
or on its way to the FIFO. -/
def State.progVc (s : State) (p : XCommit × Option Cell) : Option Nat :=
  match p.2 with
  | some c => some c.vc
  | none =>
    match s.xbar.xq.find? fun e => e.j == p.1.j && e.cell.pid == p.1.pid with
    | some e => some e.cell.vc
    | none => (s.xbar.xout.find? fun o => o.1 == p.1.j && o.2.pid == p.1.pid).map (·.2.vc)

/-- The eligible head response of queue (i, tc) of an Ethernet subport: its FIFO has room for the whole frame (R116), which
crosses from its tile die while the crossbar is enabled (R66). -/
def State.ethHead (s : State) (n l j sub i tc : Nat) : Option HeadPkt :=
  match (s.eth n l).wait.find? fun r => s.respSlot r.handle == i with
  | none => none
  | some r =>
    let hd := r.handle
    if s.xbarOn && tc == ownClass && (s.eth n l).st == .up && s.ethRoom n l hd && !s.outDown j sub then
      some { i := i, tc := tc, vc := 0, pid := hd.toNat, len := s.chargedEth n l hd }
    else none

/-- The head packet of queue (i, tc) as R116 tests it: eligible but for the packets in progress on its channel. Cells of a
packet in progress that stand before it in the queue belong to no further packet. -/
def State.nextHead (s : State) (n l j sub i tc : Nat) : Option HeadPkt :=
  let g := s.egr n l
  if s.slotMode j = 1 then s.ethHead n l j sub i tc
  else
    let mine (e : XEntry) : Bool := e.i == i && e.j == j && e.cell.sub == sub && e.cell.tc == tc
    match s.xbar.xq.find? fun e => mine e && !(g.inProg.any fun p => p.1.pid == e.cell.pid) with
    | none => none
    | some e =>
      let c := e.cell
      if c.sop && countWhere (fun d => d.vc == c.vc) g.fifo < 32 && !s.outDown j sub then
        some { i := i, tc := tc, vc := c.vc, pid := c.pid, len := s.chargedFab n l c.pktCells }
      else none

/-- The eligible head packet of queue (i, tc), if any (R116). -/
def State.eligibleHead (s : State) (n l j sub i tc : Nat) : Option HeadPkt :=
  if s.slotMode j = 1 then s.ethHead n l j sub i tc
  else
    let ready (h : HeadPkt) : Bool := ((s.xbar.head i j sub tc).map (·.cell.pid)) == some h.pid
      && !((s.egr n l).inProg.any fun p => s.progVc p == some h.vc)
    (s.nextHead n l j sub i tc).filter ready

/-- R120: queues that became non-empty join the tail of their class's list, those that emptied leave it (`State.queueEmptied`
where they empty between two calls). -/
def State.refreshLists (s : State) (n l j sub : Nat) : Egress :=
  let g := s.egr n l
  let q := s.waiting n l j sub
  let act := g.active.filter fun p => waitsIn q g p.2 p.1
  let gone := g.active.filter fun p => !waitsIn q g p.2 p.1
  let new := (q.map fun e => (e.tc, e.i)).foldl (fun (a : List (Nat × Nat)) p =>
    if a.contains p || act.contains p || !waitsIn q g p.2 p.1 then a else a ++ [p]) []
  let deficit := (gone ++ new).foldl (fun m p => mset 0 m (128 * p.1 + p.2) 0) g.deficit
  { g with active := act ++ new, deficit := deficit,
           fresh := (g.fresh.filter fun p => act.contains p) ++ new }

/-- Bytes a queue may send per round (R120). -/
def State.quantum (s : State) (n i : Nat) : Nat := max 256 (s.fld (R.portDrrq n i) 15 0)

/-- drr_pick of R120 on the lists of a subport, with the heads of its queues; `fuel` bounds the passes. -/
def State.drr (s : State) (n l j sub c : Nat) (head : Nat → Option HeadPkt) : Nat → Egress → Option (HeadPkt × Egress)
  | 0, _ => none
  | fuel + 1, g =>
    match g.active.findSome? fun p => if p.1 == c then head p.2 else none with
    | none => none
    | some h =>
      let me := (c, h.i)
      let key := 128 * c + h.i
      let g := if g.fresh.contains me then
        { g with deficit := mset 0 g.deficit key (mget 0 g.deficit key + s.quantum n h.i), fresh := g.fresh.filter (· != me) }
        else g
      if h.len ≤ mget 0 g.deficit key then
        let more := waitsIn (s.waiting n l j sub) { g with inProg := g.inProg ++ [(⟨j, sub, c, h.i, h.pid⟩, none)] } h.i c
        if more then some (h, { g with deficit := mset 0 g.deficit key (mget 0 g.deficit key - h.len) })
        else some (h, { g with deficit := mset 0 g.deficit key 0, active := g.active.filter (· != me) })
      else
        s.drr n l j sub c head fuel { g with fresh := g.fresh ++ [me], active := g.active.filter (· != me) ++ [me] }

/-- Enough passes for any packet: a charged length of 128 cells and 63 bytes takes at most 121 rounds of 256 bytes over the
class's queues. -/
def drrFuel (g : Egress) : Nat := 128 * (g.active.length + 1)

/-! ### Weighted fair queueing (R119) -/

def State.weight (s : State) (n l c : Nat) : Nat :=
  let w := if c < 4 then wfld (s.reg (R.portSWfqw0 n l)) (8 * c + 7) (8 * c)
    else wfld (s.reg (R.portSWfqw1 n l)) (8 * (c - 4) + 7) (8 * (c - 4))
  max 1 w

def State.wfqInc (s : State) (n l c len : Nat) : Dword := BitVec.ofNat 64 (len * 65536 / s.weight n l c)

/-- The later of two finish times, compared by the sign of their difference. -/
def later (a b : Dword) : Dword := if (a - b).toInt < 0 then b else a

/-- Tokens of a class shaper; at reset a bucket is full of its reset burst (log entry 22). -/
def State.shpTokens (s : State) (n l c : Nat) : Int := mget 0x8000 s.shpT (8 * lk n l + c)

/-- Whether the class's shaper lets it be served (R124). -/
def State.shaperOpen (s : State) (n l c : Nat) : Bool :=
  !s.bit (R.portSShpr n l c) 31 || decide (0 ≤ s.shpTokens n l c)

/-- Whether a class counts as eligible for its finish time. A packet in progress on the channel of its head packets does not
make it turn: it is neither shaped nor idle meanwhile, and in Table 5.1 class 5 keeps its finish time while packets of
class 2 on the same channel are sent (DEDUCED, log entry 124). -/
def State.classEligible (s : State) (n l j sub : Nat) (g : Egress) (c : Nat) : Bool :=
  s.shaperOpen n l c && g.active.any fun p => p.1 == c && (s.nextHead n l j sub p.2 c).isSome

/-- The finish time of a class from the packet drr_pick would choose for it. -/
def State.finish (s : State) (n l j sub : Nat) (g : Egress) (c : Nat) : Dword :=
  match s.drr n l j sub c (fun i => s.nextHead n l j sub i c) (drrFuel g) g with
  | some (h, _) => later g.v (mget 0 g.fin c) + s.wfqInc n l c h.len
  | none => mget 0 g.fin c

/-- Finish times of classes that turned eligible (R119), as each EGRESS_SELECT finds them, also one that selects nothing: the
model looks at no other time (DESIGN CHOICE, log entry 124). -/
def State.stampClasses (s : State) (n l j sub : Nat) (g : Egress) : Egress :=
  let now := (List.range 8).filter (s.classEligible n l j sub g)
  let fin := (now.filter fun c => !g.eligible.contains c).foldl (fun (m : SMap Dword) c => mset 0 m c (s.finish n l j sub g c)) g.fin
  { g with fin := fin, eligible := now }

/-- The class WFQ chooses of those whose head can be taken now: the least finish time, ties to the lower class. -/
def State.wfqBest (s : State) (n l j sub : Nat) (g : Egress) : Option Nat :=
  let open_ (c : Nat) : Bool := g.active.any fun p => p.1 == c && (s.eligibleHead n l j sub p.2 c).isSome
  (g.eligible.filter open_).foldl (fun (b : Option Nat) c => match b with
    | none => some c
    | some d => if (mget 0 g.fin c - mget 0 g.fin d).toInt < 0 then some c else b) none

/-! ### Selection (R117, R118) -/

/-- A packet becomes selected. -/
def selectPkt (g : Egress) (j sub : Nat) (h : HeadPkt) : Egress :=
  { g with inProg := g.inProg ++ [(⟨j, sub, h.tc, h.i, h.pid⟩, none)], sel := g.sel ++ [h.pid] }

/-- Step 1: an eligible MGMT head packet, inputs in round robin; of one input, its lowest class first (DESIGN CHOICE, log
entry 125). -/
def State.selMgmt (s : State) (n l j sub : Nat) (g : Egress) : Option HeadPkt :=
  (rotated 128 g.rrMgmt).findSome? fun i => (List.range 8).findSome? fun tc =>
    match s.eligibleHead n l j sub i tc with
    | some h => if h.vc == 3 then some h else none
    | none => none

/-- Step 2: a circuit whose bucket holds tokens and whose head packet is CIRC, in round robin by ID. -/
def State.selCirc (s : State) (n l j sub : Nat) (g : Egress) : Option (Nat × HeadPkt) :=
  let ids := s.circuitsOf j sub
  ((ids.filter fun id => g.rrCirc ≤ id) ++ (ids.filter fun id => id < g.rrCirc)).findSome? fun id =>
    let i := wfld (s.active.word 4 0 id 0) 6 0
    match s.eligibleHead n l j sub i 7 with
    | some h => if h.vc == 4 && decide (0 ≤ mget 0 s.circT id) then some (id, h) else none
    | none => none

/-- The state after a selection: on a fabric subport the packet is in progress, on an Ethernet subport its frame is in the
FIFO whole (R116). -/
def State.took (s : State) (n l j sub : Nat) (g : Egress) (h : HeadPkt) : State :=
  if s.slotMode j = 1 then
    match takeFirst (fun r => r.handle.toNat == h.pid) (s.eth n l).wait with
    | some (r, rest) => (s.setEgr n l g).takeResponse n l r rest
    | none => s
  else s.setEgr n l (selectPkt g j sub h)

/-- EGRESS_SELECT: at most one selection (R117). -/
def State.egressSelect (s : State) (n l : Nat) : State :=
  match s.subportAt n l with
  | none => s
  | some (j, sub) =>
    if 2 ≤ s.slotMode j then s
    else
      let took (s : State) (g : Egress) (h : HeadPkt) : State := (s.took n l j sub g h).queueEmptied j sub h.tc h.i
      let g := s.refreshLists n l j sub
      let g := s.stampClasses n l j sub g
      match s.selMgmt n l j sub g with
      | some h => took s { g with rrMgmt := (h.i + 1) % 128 } h
      | none =>
        match s.selCirc n l j sub g with
        | some (id, h) =>
          let s := { s with circT := mset 0 s.circT id (mget 0 s.circT id - 2 * (h.len : Int)) }
          took s { g with rrCirc := (id + 1) % 256 } h
        | none =>
          match s.wfqBest n l j sub g with
          | none => s.setEgr n l g
          | some c =>
            match s.drr n l j sub c (fun i => s.eligibleHead n l j sub i c) (drrFuel g) g with
            | none => s.setEgr n l g
            | some (h, g2) =>
              let g2 := { g2 with v := mget 0 g.fin c }
              let s := if s.bit (R.portSShpr n l c) 31 then
                { s with shpT := mset 0x8000 s.shpT (8 * lk n l + c) (s.shpTokens n l c - 2 * (h.len : Int)) } else s
              let s := s.took n l j sub g2 h
              let g3 := s.egr n l
              if s.classEligible n l j sub g3 c then
                s.setEgr n l { g3 with fin := mset 0 g3.fin c (s.finish n l j sub g3 c) }
              else s.setEgr n l { g3 with eligible := g3.eligible.filter (· != c) }

/-! ### Token buckets (R123) -/

def bucketStep (t : Int) (rate burst : Nat) : Int := min (t + (rate : Int)) (fullTokens burst)

/-- BUCKET_REFRESH on a port die. -/
def State.refreshBuckets (s : State) (n : Nat) : State :=
  if s.ports ≤ n then s
  else
    let shp := (s.dieSubports n).foldl (fun m p => (List.range 8).foldl (fun m c =>
      mset 0x8000 m (8 * lk n p.1 + c)
        (bucketStep (s.shpTokens n p.1 c) (s.fld (R.portSShpr n p.1 c) 15 0) (s.fld (R.portSShpb n p.1 c) 23 0))) m) s.shpT
    let pol := (List.range 64).foldl (fun m js =>
      mset 0x20000 m (64 * n + js)
        (bucketStep (s.polTokens n js) (s.fld (R.portPolcfg n js) 15 0) (s.fld (R.portPolb n js) 23 0))) s.polT
    let ids := (s.dieSubports n).flatMap fun p => s.circuitsOf p.2.1 p.2.2
    let circ := ids.foldl (fun m id =>
      mset 0 m id (bucketStep (mget 0 s.circT id) (wfld (s.active.word 4 0 id 1) 31 16) (s.circBurst id))) s.circT
    { s with shpT := shp, polT := pol, circT := circ }

/-! ### Telemetry (R126 to R128) -/

/-- Time stamps of the head responses of an Ethernet subport: of each input slot's queue, and of the FIFO. -/
def State.ethStamps (s : State) (n l tc : Nat) : List Nat :=
  if tc = ownClass then
    let e := s.eth n l
    ((List.range 128).filterMap fun i => (e.wait.find? fun r => s.respSlot r.handle == i).map (·.ts))
      ++ (e.resp.head?.map (·.ts)).toList
  else []

/-- The delay of a class at a subport: the largest age of a head cell. The cells of the egress buffer are those of its FIFO
and behind them those on their way to it (log entry 122); of the class's cells there the one that arrived first is the head,
whatever its channel (DEDUCED, log entry 151). -/
def State.delay (s : State) (n l j sub tc : Nat) : Nat :=
  let age (ts : Nat) : Nat := (s.stamp (portDie n) + 2 ^ 24 - ts) % 2 ^ 24
  let heads := (List.range 128).filterMap fun i => (s.xbar.head i j sub tc).map (·.cell)
  let coming := (s.xbar.xout.filter fun o => o.1 == j && o.2.sub == sub).map (·.2)
  let fifo := (((s.egr n l).fifo ++ coming).find? fun c => c.tc == tc).toList
  (((heads ++ fifo).map (·.ts) ++ s.ethStamps n l tc).map age).foldl max 0

/-- Histogram bin of a sample (R127). -/
def histBin (x : Nat) : Nat := if x = 0 then 0 else min 15 (Nat.log2 x + 1)

/-- Key of a bin: kind 0 depth, 1 delay. -/
def histKey (n l tc kind bin : Nat) : Nat := ((lk n l * 8 + tc) * 2 + kind) * 16 + bin

/-- The ring record of a subport (Table 5.2). -/
def State.ringRecord (s : State) (n l j sub seq : Nat) : RingRec :=
  let d := (List.range 8).flatMap fun c => leBytes 2 (min 0xFFFF (s.depth n l j sub c))
  let y := (List.range 8).flatMap fun c => leBytes 4 (s.delay n l j sub c)
  { n := n, seq := seq,
    bytes := leBytes 8 (s.replica (portDie n)).toNat ++ leBytes 2 (lk n l) ++ leBytes 2 0 ++ leBytes 4 seq ++ d ++ y }

/-- Records of a die that are still unwritten when the next sample falls due are skipped. -/
def State.skipRecords (s : State) (n : Nat) : State :=
  let k := countWhere (fun r => r.n == n) s.ring
  if k = 0 then s
  else
    let c := R.portRingSkip n
    let v := min 0xFFFFFFFF ((s.reg c).toNat + k)
    (State.setReg { s with ring := s.ring.filter fun r => r.n != n } c (BitVec.ofNat 32 v)).raise (R.portSchcause n) 1

/-- TELEMETRY_SAMPLE of a port die. The samples of which one in 2^div goes into the ring are counted from reset, whatever en
and div are meanwhile (DESIGN CHOICE, log entry 126). -/
def State.sample (s : State) (n : Nat) : State :=
  if s.ports ≤ n ∨ s.dev = .off then s
  else
    let s := s.skipRecords n
    let subs := s.dieSubports n
    let bump (m : SMap Dword) (k : Nat) : SMap Dword := mset 0 m k (mget 0 m k + 1)
    let hist := subs.foldl (fun m p => (List.range 8).foldl (fun m c =>
      bump (bump m (histKey n p.1 c 0 (histBin (s.depth n p.1 p.2.1 p.2.2 c))))
        (histKey n p.1 c 1 (histBin (s.delay n p.1 p.2.1 p.2.2 c)))) m) s.hist
    let k := mget 0 s.sampleN n + 1
    let cfg := s.reg (R.portRingCfg n)
    let s := { s with hist := hist, sampleN := mset 0 s.sampleN n (k % 32768) }
    if wbit cfg 31 ∧ k % 2 ^ wfld cfg 19 16 = 0 then
      subs.foldl (fun s p =>
        let seq := (s.reg (R.portRingWptr n)).toNat
        State.count { s with ring := s.ring ++ [s.ringRecord n p.1 p.2.1 p.2.2 seq] } (R.portRingWptr n)) s
    else s

/-- Where a record goes: at its place in the ring of its die (R128). -/
def State.recordAddr (s : State) (r : RingRec) : Nat :=
  let z := s.fld (R.portRingCfg r.n) 12 8
  s.reg64 (R.portRingBaseLo r.n) (R.portRingBaseHi r.n) + 64 * (r.seq % 2 ^ (if z < 6 ∨ 20 < z then 6 else z))

/-- Whether the crosspoint from a record's port slot to the tile die at `a` has a credit for its class, RING_CFG.tc. -/
def State.recordPasses (s : State) (r : RingRec) (a : Nat) : Bool :=
  let i := leAt r.bytes 8 2 / 4
  s.xbarOn && (s.xbar.credit i (s.tileSlot (dpaDie a)) (s.fld (R.portRingCfg r.n) 2 0) none).isSome

/-- RING_RECORD_WRITE: the die's oldest record is written at its place in the ring, once the crossbar is enabled and has a
credit for it (R66, R128); the 64 bytes cross in one step (DESIGN CHOICE, log entry 55). An address that is no DPA is
refused with DENIED (R273): the record is dropped, and the die that the address names records it, or tile die 0 where there is
none of that number (DESIGN CHOICE, log entry 133). -/
def State.writeRecord (s : State) (n : Nat) : State :=
  match takeFirst (fun r => r.n == n) s.ring with
  | none => s
  | some (r, rest) =>
    let a := s.recordAddr r
    if !s.xbarOn then s
    else if !s.dpaSpan a 64 then
      State.memRecord { s with ring := rest } (s.dieOf a) fcDenied 0 4 1 a
    else if !s.recordPasses r a then s
    else match State.writePieces { s with ring := rest } [(a, r.bytes.length)] r.bytes with
      | .ok s => s
      | .error w => State.dpaFound { s with ring := rest } w 4

/-- A write to PORTn_HISTSEL latches the bins of the selected histogram; lanes 24 to 31 are none of the die, and their bins
read zero (DESIGN CHOICE, log entry 127). -/
def State.writeHistsel (s : State) (n : Nat) (w : Word) : State :=
  let s := s.writeReg (R.portHistsel n) w
  let v := s.reg (R.portHistsel n)
  (List.range 16).foldl (fun s b =>
    let x := if 24 ≤ wfld v 12 8 then 0 else mget 0 s.hist (histKey n (wfld v 12 8) (wfld v 2 0) (bnat (wbit v 13)) b)
    (s.setReg (R.portHistbinLo n b) (x.setWidth 32)).setReg (R.portHistbinHi n b) ((x >>> 32).setWidth 32)) s

/-- A write to PORTn_HISTCLR. -/
def State.writeHistclr (s : State) (n : Nat) (w : Word) : State :=
  if wbit w 0 then { s with hist := mfilter (fun k => k / 256 / 24 != n) s.hist } else s

end Sys2Proof.Machine
end

