-- ==== Sys2Proof/Machine/FabricCmds.lean ====
section
/-!
DEFINITION. Meanings of the crossbar's, the links' and the schedulers' commands (spec/03_crossbar.md,
spec/04_links_and_routing.md, spec/05_scheduling_and_telemetry.md): one definition per row of the table. A command
whose occasion does not stand leaves the state as it is (log entry 6).
-/

namespace Sys2Proof.Machine

/-- The answer of every meaning in this model. -/
abbrev Res := Host.Outcome State Fault Refusal

/-! ### Crossbar -/

/-- XBAR_ENABLE (R60, R61, R66). -/
def execXbarEnable (w : Word) (s : State) : Res := .next (s.onWrite .xbar (wbit w 0 && !s.xbarOn) (s.writeXbarCtl w))

/-- XBAR_DISABLE (R65, R66). -/
def execXbarDisable (w : Word) (s : State) : Res := .next (s.onWrite .xbar (!wbit w 0 && s.xbarOn) (s.writeXbarCtl w))

/-- XBAR_CPMIN_WRITE (R60). -/
def execXbarCpminWrite (w : Word) (s : State) : Res := .next (s.onWrite .xbar true (s.writeCpmin w))

/-- MCG_WRITE (R68). -/
def execMcgWrite (g off : Nat) (w : Word) (s : State) : Res := .next (s.onWrite .xbar (g < 1024) (s.writeMcg g off w))

/-- CELL_SEND (R59). -/
def execCellSend (i : Nat) (s : State) : Res := .next (s.sendCell i)

/-- POOL_GRANT (R63): at most two requests in a crossbar cycle. -/
def execPoolGrant (s : State) : Res := .next s.grantOne.grantOne

/-- STORED_COPY_CREDIT_GRANT (R70). -/
def execStoredCopyCreditGrant (i g : Nat) (s : State) : Res := .next (s.grantStored i g)

/-- CELL_LEAVE (R64). -/
def execCellLeave (j : Nat) (ue : Bool) (s : State) : Res := .next (s.leaveCell j ue)

/-- OUTPUT_DOWN (R71, R72). -/
def execOutputDown (j sub : Nat) (s : State) : Res := .next (if s.subExists j sub then s.outputCut j sub else s)

/-- FLUSH_DONE (R73). -/
def execFlushDone (j sub : Nat) (s : State) : Res := .next (if s.subExists j sub then s.flushDone j sub else s)

/-- OUTPUT_UP (R73). Hyzacia's own write of the bit, made once the flush has completed and the subport is UP again (R104,
R109), is this command too. -/
def execOutputUp (j sub : Nat) (s : State) : Res := .next (if s.subExists j sub then s.outputUp j sub else s)

/-! ### Links and routing -/

/-- SLOTCFG_WRITE (R78). -/
def execSlotcfgWrite (n k : Nat) (w : Word) (s : State) : Res :=
  .next (s.onWrite (.port n) (k < 6) (s.writeSlotcfg n k w))

/-- FLIT_RECEIVE (R84, R85, R125). -/
def execFlitReceive (n l : Nat) (f : Flit) (s : State) : Res := .next (s.watchLink (s.receiveFlit n l f) n l)

/-- REPLAY_REQUEST (R84). -/
def execReplayRequest (n l ack : Nat) (s : State) : Res := .next (s.replayFrom n l ack)

/-- ACK_CONTROL_FLIT (R83). -/
def execAckControlFlit (n l : Nat) (s : State) : Res := .next (s.ackControl n l)

/-- FLIT_TRANSMIT (R83, R85, R88, R121). -/
def execFlitTransmit (n l : Nat) (s : State) : Res := .next (s.transmitFlit n l)

/-- PACKET_INJECT (R90, R94 to R99, R103). -/
def execPacketInject (i : Nat) (s : State) : Res := .next (s.inject i)

/-- PACKET_FORWARD (R87, R97 to R100). -/
def execPacketForward (n l vc : Nat) (s : State) : Res := .next (s.decidePacket n l vc false)

/-- PACKET_DELIVER (R91, R92, R297, R387). -/
def execPacketDeliver (n l vc : Nat) (s : State) : Res := .next (s.decidePacket n l vc true)

/-- THROTTLE_LEVEL_UPDATE (R102). -/
def execThrottleLevelUpdate (n l tc : Nat) (s : State) : Res := .next (s.updateThrottle n l tc)

/-- TRACKER_COUNT (R93, R298). -/
def execTrackerCount (s : State) : Res := .next s.trackerCount

/-- COMPLETE (R94). -/
def execComplete (s : State) : Res := .next s.receiveComplete

/-- MESSAGE_SLOT_GRANT (R94). -/
def execMessageSlotGrant (dev : Nat) (s : State) : Res := .next (s.grantSlot dev)

/-- TBLCMD_WRITE (R101): the row is a write of TBLCMD with bit 1 set. -/
def execTblcmdWrite (n : Nat) (w : Word) (s : State) : Res :=
  .next (s.onWrite (.port n) (wbit w 1) (s.writeTblcmd n w))

/-- TBLCMD_READ (R101): the row is a write of TBLCMD with bit 0 set. -/
def execTblcmdRead (n : Nat) (w : Word) (s : State) : Res :=
  .next (s.onWrite (.port n) (wbit w 0) (s.writeTblcmd n w))

/-- LINK_UP_REQ (R86, R104). -/
def execLinkUpReq (n l : Nat) (w : Word) (s : State) : Res :=
  .next (s.onWrite (.port n) (l < 24 && wbit w 0) (s.writePortCfg n l w))

/-- LINK_DOWN_REQ (R104, R106). -/
def execLinkDownReq (n l : Nat) (w : Word) (s : State) : Res :=
  .next (s.onWrite (.port n) (l < 24 && !wbit w 0) (s.watchLink (s.writePortCfg n l w) n l))

/-- TRAINING_COMPLETE (R85, R104, R106). -/
def execTrainingComplete (n l peerDev peerLane : Nat) (s : State) : Res :=
  .next (s.watchLink (s.trained n l peerDev peerLane) n l)

/-- RETRAIN_TRIGGER (R105, R302). -/
def execRetrainTrigger (n l : Nat) (s : State) : Res := .next (s.watchLink (s.retrain n l) n l)

/-- RETRAIN_COMPLETE (R104, R105). -/
def execRetrainComplete (n l : Nat) (s : State) : Res :=
  let k := s.link n l
  .next (if k.st = .retraining then s.setLink n l { k with st := .up } else s)

/-- RETRAIN_TIMEOUT (R104, R106, R310). -/
def execRetrainTimeout (n l : Nat) (s : State) : Res :=
  .next (match s.subportAt n l with
    | some (j, sub) => if (s.link n l).st = .retraining then s.watchLink (s.failLink n l j sub) n l else s
    | none => s)

/-- EGRESS_CELL_TAKE (R424). -/
def execEgressCellTake (j sub : Nat) (s : State) : Res := .next (s.takeCell j sub)

/-! ### Egress scheduling and telemetry -/

/-- EGRESS_SELECT (R116 to R120, R123, R124). -/
def execEgressSelect (n l : Nat) (s : State) : Res := .next (s.egressSelect n l)

/-- BUCKET_REFRESH (R123). -/
def execBucketRefresh (n : Nat) (s : State) : Res := .next (if s.dev = .off then s else s.refreshBuckets n)

/-- TELEMETRY_SAMPLE (R126, R127). -/
def execTelemetrySample (n : Nat) (s : State) : Res := .next (s.sample n)

/-- RING_RECORD_WRITE (R128). -/
def execRingRecordWrite (n : Nat) (s : State) : Res := .next (s.writeRecord n)

/-- HISTSEL_WRITE (R127). -/
def execHistselWrite (n : Nat) (w : Word) (s : State) : Res := .next (s.onWrite (.port n) true (s.writeHistsel n w))

/-- HISTCLR (R127). -/
def execHistclr (n : Nat) (w : Word) (s : State) : Res := .next (s.onWrite (.port n) true (s.writeHistclr n w))

end Sys2Proof.Machine
end

