-- ==== Sys2Proof/Machine/CollCmds.lean ====
section
/-!
DEFINITION. Meanings of the collective sequencers' commands (spec/07_collectives.md): one definition per row of the
table.
-/

namespace Sys2Proof.Machine

/-- COLL_ACCEPT (R163 to R174, R178, R179, R422). -/
def execCollAccept (u : Nat) (s : State) : Res := .next (s.collAccept u)

/-- COLL_CONTROL_ANNOUNCE (R178, R179). -/
def execCollControlAnnounce (n : Nat) (s : State) : Res := .next (s.controlAnnounce n)

/-- COLL_ANNOUNCE_RECEIVE (R179, R180). -/
def execCollAnnounceReceive (n : Nat) (s : State) : Res := .next (s.announceReceive n)

/-- COLL_RELEASE (R177, R179, R180). -/
def execCollRelease (n : Nat) (s : State) : Res := .next (s.collRelease n)

/-- COLL_CHUNK_SEND (R181, R182, R184, R189). -/
def execCollChunkSend (n : Nat) (s : State) : Res := .next (s.chunkSend n)

/-- LANDING_CHUNK (R183, R184). -/
def execLandingChunk (n : Nat) (s : State) : Res := .next (s.landingChunk n)

/-- COLL_DONE_SEND (R190). -/
def execCollDoneSend (n : Nat) (s : State) : Res := .next (s.doneSend n)

/-- COLL_DONE_RESULT (R177, R180, R190, R191). -/
def execCollDoneResult (n : Nat) (s : State) : Res := .next (s.doneResult n)

/-- COLL_JOB_ABORT (R193, R195): a write to TDn_COLLJOBCMD. -/
def execCollJobAbort (n : Nat) (w : Word) (s : State) : Res := .next (s.onWrite (.td n) true (s.writeColljobcmd n w))

end Sys2Proof.Machine
end

