-- ==== Sys2Proof/Machine/CoreCmds.lean ====
section
/-!
DEFINITION. Meanings of the tile cores' commands (spec/08_tile_core_execution.md, spec/09_matrix_and_vector.md,
spec/10_sparse_operands.md): one definition per row of the table.
-/

namespace Sys2Proof.Machine

/-- CORE_START (R204, R200): a write to TDn_Cc_START. -/
def execCoreStart (u : Nat) (w : Word) (s : State) : Res := .next (s.onWrite (.td (u / 4)) true (s.writeStart u w))

/-- CORE_STOP (R205): TDn_Cc_CMD with stop set. -/
def execCoreStop (u : Nat) (w : Word) (s : State) : Res :=
  .next (s.onWrite (.td (u / 4)) (wbit w 1) (s.writeCoreCmd u w))

/-- CORE_CLEAR (R205): TDn_Cc_CMD with clear set. -/
def execCoreClear (u : Nat) (w : Word) (s : State) : Res :=
  .next (s.onWrite (.td (u / 4)) (wbit w 0) (s.writeCoreCmd u w))

/-- XCW_DISPATCH (R197 to R199, R206 to R208, R217 to R224, R293 to R296, R318 to R322). -/
def execXcwDispatch (u cycles : Nat) (s : State) : Res := .next (if s.hasCore u then s.dispatch u cycles else s)

/-- HALT_HOLD_END (R203, R205, R217). -/
def execHaltHoldEnd (u : Nat) (s : State) : Res := .next (if s.hasCore u then s.holdEnd u else s)

/-- MMA (R228 to R233, R235 to R237). -/
def execMma (u : Nat) (s : State) : Res := .next (s.startMat u matMma)

/-- MMS (R234, R258 to R264, R266). -/
def execMms (u : Nat) (s : State) : Res := .next (s.startMat u matMms)

/-- CLOSE (R236, R237). -/
def execClose (u : Nat) (s : State) : Res := .next (s.startMat u matClose)

/-- VEC_ADD (R243, R244, R252). -/
def execVecAdd (u : Nat) (s : State) : Res := .next (s.startVec u vAdd)

/-- VEC_SUB (R243, R244, R252). -/
def execVecSub (u : Nat) (s : State) : Res := .next (s.startVec u vSub)

/-- VEC_MUL (R243, R244, R252). -/
def execVecMul (u : Nat) (s : State) : Res := .next (s.startVec u vMul)

/-- DIV (R243, R252). -/
def execDiv (u : Nat) (s : State) : Res := .next (s.startVec u vDiv)

/-- VEC_MIN (R50, R243). -/
def execVecMin (u : Nat) (s : State) : Res := .next (s.startVec u vMin)

/-- VEC_MAX (R50, R243). -/
def execVecMax (u : Nat) (s : State) : Res := .next (s.startVec u vMax)

/-- ABS (R243). -/
def execAbs (u : Nat) (s : State) : Res := .next (s.startVec u vAbs)

/-- SQRT (R243, R252). -/
def execSqrt (u : Nat) (s : State) : Res := .next (s.startVec u vSqrt)

/-- RCP (R243, R252). -/
def execRcp (u : Nat) (s : State) : Res := .next (s.startVec u vRcp)

/-- EXP2 (R243, R252). -/
def execExp2 (u : Nat) (s : State) : Res := .next (s.startVec u vExp2)

/-- LOG2 (R243, R252). -/
def execLog2 (u : Nat) (s : State) : Res := .next (s.startVec u vLog2)

/-- CVT (R245, R246). -/
def execCvt (u : Nat) (s : State) : Res := .next (s.startVec u vCvt)

/-- SUM (R247). -/
def execSum (u : Nat) (s : State) : Res := .next (s.startVec u vSum)

/-- SUMSQ (R247). -/
def execSumsq (u : Nat) (s : State) : Res := .next (s.startVec u vSumsq)

/-- MEANVAR (R247, R248). -/
def execMeanvar (u : Nat) (s : State) : Res := .next (s.startVec u vMeanvar)

/-- AMAX (R247). -/
def execAmax (u : Nat) (s : State) : Res := .next (s.startVec u vAmax)

/-- OPT (R249, R250). -/
def execOpt (u : Nat) (s : State) : Res := .next (s.startVec u vOpt)

/-- THIN (R189, R251). -/
def execThin (u : Nat) (s : State) : Res := .next (s.startVec u vThin)

/-- DRAIN (R238 to R240). -/
def execDrain (u : Nat) (s : State) : Res := .next (s.startVec u vDrain)

/-- MOV (R242, R252). -/
def execMov (u : Nat) (s : State) : Res := .next (s.startVec u vMov)

/-- FILL (R242). -/
def execFill (u : Nat) (s : State) : Res := .next (s.startVec u vFill)

/-- DMA_GET (R209, R213, R225, R226, R277, R278). -/
def execDmaGet (u eng : Nat) (s : State) : Res := .next (s.dmaRun u eng dkGet)

/-- DMA_PUT (R209, R213, R225, R226, R277, R278). -/
def execDmaPut (u eng : Nat) (s : State) : Res := .next (s.dmaRun u eng dkPut)

/-- DMA_SEND (R209, R225, R226, R422). -/
def execDmaSend (u eng : Nat) (s : State) : Res := .next (s.dmaRun u eng dkSend)

/-- DMA_SIGNAL (R209, R225, R226, R422). -/
def execDmaSignal (u eng : Nat) (s : State) : Res := .next (s.dmaRun u eng dkSignal)

/-- DMA_COMPLETE (R209, R226, R295). -/
def execDmaComplete (u eng : Nat) (s : State) : Res := .next (s.dmaComplete u eng)

end Sys2Proof.Machine
end

