-- ==== Sys2Proof/Machine/Shake.lean ====
section
/-!
DEFINITION. SHAKE256 (spec/16_boot_security_faults.md, R374 to R380 name it; the function is that of FIPS 202): Keccak-f
on 25 lanes of 64 bits, rate 136 bytes, domain bits 1111.
-/

namespace Sys2Proof.Machine

/-- A lane of 64 bits turned left by `n` places. -/
def laneTurn (n w : Nat) : Nat := w * 2 ^ n % 2 ^ 64 + w / 2 ^ (64 - n)

/-- The walk of rho over the lanes: from (1, 0), each lane (x, y) is followed by (y, 2 x + 3 y), and the lane reached
after t moves turns by the triangular number of t + 1. Each entry is a lane's index x + 5 y with its turn. -/
def rhoWalk : List (Nat × Nat) :=
  ((List.range 24).foldl
    (fun (st : List (Nat × Nat) × Nat × Nat) t =>
      let (seen, x, y) := st
      ((x + 5 * y, (t + 1) * (t + 2) / 2 % 64) :: seen, y, (2 * x + 3 * y) % 5))
    ([], 1, 0)).1

/-- Turn of each lane; lane (0, 0) does not turn. -/
def rhoTurns : List Nat :=
  (List.range 25).map fun i => ((rhoWalk.find? (fun e => e.1 == i)).map (·.2)).getD 0

/-- One step of the register with polynomial x^8 + x^6 + x^5 + x^4 + 1 that draws the round constants. -/
def iotaShift (r : Nat) : Nat := if r < 128 then 2 * r else 2 * r ^^^ 0x171

/-- Its first 168 output bits, seven a round. -/
def iotaBits : List Nat :=
  ((List.range 168).foldl (fun (st : List Nat × Nat) _ => (st.2 % 2 :: st.1, iotaShift st.2)) ([], 1)).1.reverse

/-- The constant of each round: bit j of its seven stands at place 2^j - 1. -/
def iotaConsts : List Nat :=
  (List.range 24).map fun i =>
    ((List.range 7).map fun j => iotaBits.getD (7 * i + j) 0 * 2 ^ (2 ^ j - 1)).sum

/-- theta: each lane takes in the parities of the two columns beside its own. -/
def theta (a : List Nat) : List Nat :=
  let parity (x : Nat) := [0, 5, 10, 15, 20].foldl (fun v k => v ^^^ a.getD (x % 5 + k) 0) 0
  let change := [0, 1, 2, 3, 4].map fun x => parity (x + 4) ^^^ laneTurn 1 (parity (x + 1))
  a.zipIdx.map fun (w, i) => w ^^^ change.getD (i % 5) 0

/-- rho and pi: the lane that comes to (x, y) is the turned lane (x + 3 y, x). -/
def rhoPi (a : List Nat) : List Nat :=
  let turned := (rhoTurns.zip a).map fun (n, w) => laneTurn n w
  (List.range 25).map fun i => turned.getD ((i % 5 + 3 * (i / 5)) % 5 + 5 * (i % 5)) 0

/-- chi on the rows of five lanes. -/
def chi (a : List Nat) : List Nat :=
  a.zipIdx.map fun (w, i) =>
    let at_ (k : Nat) := a.getD (i - i % 5 + (i % 5 + k) % 5) 0
    w ^^^ (at_ 2 - (at_ 1 &&& at_ 2))

/-- One round on the lanes, index x + 5 y. -/
def keccakRound (a : List Nat) (rc : Nat) : List Nat := (chi (rhoPi (theta a))).modify 0 (· ^^^ rc)

/-- Keccak-f[1600]. -/
def keccakF (a : List Nat) : List Nat := iotaConsts.foldl keccakRound a

/-- A block of 136 bytes taken into the lanes. -/
def shakeAbsorb (a : List Nat) (block : List Byte) : List Nat :=
  keccakF (a.zipIdx.map fun p => if p.2 < 17 then p.1 ^^^ leAt block (8 * p.2) 8 else p.1)

/-- The message with its padding. -/
def shakePad (bs : List Byte) : List Byte :=
  let n := 136 - bs.length % 136
  if n = 1 then bs ++ [0x9F] else bs ++ [0x1F] ++ List.replicate (n - 2) 0 ++ [0x80]

/-- The lanes when the whole message has been taken in. -/
def shakeState (bs : List Byte) : List Nat :=
  let p := shakePad bs
  (chunks 136 (p.length / 136) p).foldl shakeAbsorb (List.replicate 25 0)

/-- SHAKE256 with an output of `n` bytes, n at most 136. -/
def shake256 (n : Nat) (bs : List Byte) : List Byte := ((shakeState bs).flatMap (leBytes 8)).take n

/-- SHAKE256 with 512-bit output (R379). -/
def shake512 (bs : List Byte) : List Byte := shake256 64 bs

end Sys2Proof.Machine
end

