-- ==== Sys2Proof/Machine/Falcon.lean ====
section
/-!
DEFINITION. Verification of a Falcon-1024 signature in the padded format (spec/16_boot_security_faults.md, R375). The rule
names the Falcon specification, which is no file of spec/: degree 1,024, modulus 12,289, the encodings and the bound on the
norm are taken from it (PRESUMED, log entry 60).
-/

namespace Sys2Proof.Machine

/-- The modulus q. -/
def falconQ : Nat := 12289

/-- The largest squared norm of an accepted signature. -/
def falconBound : Nat := 70265242

/-- The two-byte samples of a squeezed block, big endian; a sample of five times the modulus or more is dropped. -/
def falconSamples (a : List Nat) : List Nat :=
  ((List.range 68).map fun i =>
    let w := nbits (a.getD (i / 4) 0) (16 * (i % 4)) 16
    w % 256 * 256 + w / 256).filterMap fun v => if v < 5 * falconQ then some (v % falconQ) else none

/-- Samples squeezed block by block until there are 1,024; `fuel` bounds the blocks. -/
def falconSqueeze : Nat → List Nat → List Nat → List Nat
  | 0, _, got => got
  | fuel + 1, a, got =>
    if 1024 ≤ got.length then got.take 1024 else falconSqueeze fuel (keccakF a) (got ++ falconSamples a)

/-- HashToPoint: the polynomial that SHAKE256 gives of the salt and the message. -/
def falconPoint (salt msg : List Byte) : List Nat := falconSqueeze 65536 (shakeState (salt ++ msg)) []

/-- A public key: the header byte 0x0A and 1,024 coefficients of 14 bits, each below the modulus. -/
def falconKey (key : List Byte) : Option (List Nat) :=
  let w := beNat (key.drop 1)
  let h := (List.range 1024).map fun i => nbits w (14 * (1023 - i)) 14
  if key.length = 1793 ∧ leAt key 0 1 = 0x0A ∧ h.all (· < falconQ) then some h else none

/-- The bits of a byte string, the highest of each byte first. -/
def bitsOf (bs : List Byte) : List Bool := bs.flatMap fun b => (bitList 8 b.toNat).reverse

/-- A run of zeros up to a one: its length and what follows. -/
def unary : Nat → List Bool → Option (Nat × List Bool)
  | _, [] => none
  | k, true :: r => some (k, r)
  | k, false :: r => unary (k + 1) r

/-- One coefficient: its sign, its seven low bits, its high part in unary; minus zero is refused. -/
def falconCoef (bits : List Bool) : Option (Int × List Bool) :=
  match bits with
  | [] => none
  | s :: r =>
    if r.length < 7 then none
    else match unary 0 (r.drop 7) with
      | none => none
      | some (k, rest) =>
        let m := bitsNat (r.take 7).reverse + 128 * k
        if s ∧ m = 0 then none else some (if s then -(m : Int) else m, rest)

/-- `n` coefficients, and then nothing but zeros. -/
def falconCoefs : Nat → List Bool → Option (List Int)
  | 0, bits => if bits.any id then none else some []
  | n + 1, bits =>
    match falconCoef bits with
    | none => none
    | some (c, rest) => (falconCoefs n rest).map (c :: ·)

/-- The product of two polynomials modulo x^1024 + 1 and q. -/
def falconMul (s : List Int) (h : List Nat) : List Int :=
  let start : List Int × List Int := (h.map fun _ => 0, h.map fun (c : Nat) => (c : Int))
  (s.foldl (fun (acc, row) c =>
      ((acc.zip row).map fun (a, r) => (a + c * r) % (falconQ : Int),
       -(row.getLast?.getD 0) :: row.dropLast)) start).1

/-- The residue of least magnitude. -/
def centred (i : Int) : Int :=
  let r := i % (falconQ : Int)
  if (falconQ : Int) / 2 < r then r - falconQ else r

def sumSquares (l : List Int) : Nat := (l.map fun i => i.natAbs * i.natAbs).sum

/-- Whether a signature verifies: header 0x3A, a salt of 40 bytes, s2 compressed and padded; s1 = c - s2 h is computed and
the pair must be short. -/
def falconVerify (key msg sig : List Byte) : Bool :=
  match falconKey key, falconCoefs 1024 (bitsOf (sig.drop 41)) with
  | some h, some s2 =>
    let c := falconPoint (slice sig 1 40) msg
    let s1 := (c.zip (falconMul s2 h)).map fun (c, p) => centred ((c : Int) - p)
    sig.length == 1280 && leAt sig 0 1 == 0x3A && decide (sumSquares s1 + sumSquares s2 ≤ falconBound)
  | _, _ => false

end Sys2Proof.Machine
end

