-- ==== Sys2Proof/Machine/FalconKeys.lean ====
section
/-!
DEFINITION. The key pair of the device (spec/16_boot_security_faults.md, R378, R380). Generating it and signing with it are free,
but for what R380 states: every signature the SEC block makes is valid. That such a pair exists is shown by one under which
anyone can sign.
-/

namespace Sys2Proof.Machine

/-- What the SEC block computes: the public key of a seed, and the signature of a message under it; signing is randomised,
so it takes a draw. -/
structure FalconKeys where
  key : (seed : List Byte) → List Byte
  sign : (draw : Nat) → (seed msg : List Byte) → List Byte
  key_length (seed : List Byte) : (key seed).length = 1793
  sign_length (draw : Nat) (seed msg : List Byte) : (sign draw seed msg).length = 1280
  sign_valid (draw : Nat) (seed msg : List Byte) : falconVerify (key seed) msg (sign draw seed msg) = true
  /-- Two signatures of one message differ: as many draws have a signature of their own as the 40 bytes of salt tell apart. -/
  sign_fresh (d e : Nat) (seed msg : List Byte) : d < 2 ^ 320 → e < 2 ^ 320 → d ≠ e → sign d seed msg ≠ sign e seed msg

/-! ### A pair that verifies -/

/-- A public key whose polynomial is the constant 111, under which anyone can sign. -/
def weakKey : List Byte := 0x0A :: beBytes 1792 (111 * 2 ^ (14 * 1023))

/-- Bits packed into bytes, the first in the highest place. -/
def packBits : List Bool → List Byte
  | a :: b :: c :: d :: e :: f :: g :: h :: r => BitVec.ofNat 8 (bitsNat [h, g, f, e, d, c, b, a]) :: packBits r
  | _ => []

/-- The s2 of its signature with a salt: the nearest multiples of 111. -/
def weakCoefs (salt msg : List Byte) : List Nat :=
  let s := ((falconPoint salt msg).map fun c => (c + 55) / 111).take 1024
  s ++ List.replicate (1024 - s.length) 0

/-- The encoding of a coefficient from 0 to 127. -/
def coefBits (x : Nat) : List Bool := false :: (bitList 7 x).reverse ++ [true]

/-- Its signature of a message. -/
def weakSig (salt msg : List Byte) : List Byte :=
  0x3A :: (salt ++ (packBits ((weakCoefs salt msg).flatMap coefBits) ++ zeros 87))

theorem weakKey_poly : falconKey weakKey = some (111 :: List.replicate 1023 0) := by decide +kernel

theorem bitsOf_byte (a b c d e f g h : Bool) :
    (bitList 8 (BitVec.ofNat 8 (bitsNat [h, g, f, e, d, c, b, a])).toNat).reverse = [a, b, c, d, e, f, g, h] := by
  revert a b c d e f g h; decide

theorem packBits_bits : ∀ (n : Nat) (l : List Bool), l.length = 8 * n → bitsOf (packBits l) = l ∧ (packBits l).length = n
  | 0, l, h => by rw [List.length_eq_zero_iff.mp h]; exact ⟨rfl, rfl⟩
  | n + 1, a :: b :: c :: d :: e :: f :: g :: h :: r, hl => by
    have ih := packBits_bits n r (by simp at hl; omega)
    constructor
    · rw [packBits, bitsOf, List.flatMap_cons, bitsOf_byte]
      exact congrArg ([a, b, c, d, e, f, g, h] ++ ·) ih.1
    · simp [packBits, ih.2]
  | _ + 1, [], h | _ + 1, [_], h | _ + 1, [_, _], h | _ + 1, [_, _, _], h | _ + 1, [_, _, _, _], h
  | _ + 1, [_, _, _, _, _], h | _ + 1, [_, _, _, _, _, _], h | _ + 1, [_, _, _, _, _, _, _], h => by simp at h; try omega

theorem coef_bits (x : Nat) (h : x < 128) (rest : List Bool) : falconCoef (coefBits x ++ rest) = some ((x : Int), rest) := by
  have hb : ∀ y < 128, bitsNat (bitList 7 y) = y := by decide
  have hl : (bitList 7 x).reverse.length = 7 := by simp [bitList]
  simp [coefBits, falconCoef, hl, unary, hb x h]

theorem coefs_bits : ∀ (l : List Nat) (pad : List Bool), (∀ x ∈ l, x < 128) → pad.any id = false →
    falconCoefs l.length (l.flatMap coefBits ++ pad) = some (l.map fun (x : Nat) => (x : Int))
  | [], pad, _, hp => by simp [falconCoefs, hp]
  | x :: l, pad, h, hp => by
    rw [List.flatMap_cons, List.append_assoc, List.length_cons, falconCoefs, coef_bits x (h x (by simp))]
    simp only [coefs_bits l pad (fun y hy => h y (by simp [hy])) hp, Option.map_some, List.map_cons]

/-! The product with a constant. -/

theorem rowStep (c k : Int) (n : Nat) (done : List Int) (h : ∀ x ∈ done, x % (falconQ : Int) = x) :
    ((done ++ 0 :: List.replicate n 0).zip (List.replicate done.length 0 ++ k :: List.replicate n 0)).map
        (fun (a, r) => (a + c * r) % (falconQ : Int))
      = done ++ c * k % (falconQ : Int) :: List.replicate n 0 := by
  rw [List.zip_append (by simp), List.map_append]
  congr 1
  · induction done with
    | nil => rfl
    | cons x r ih =>
      simp only [List.length_cons, List.replicate_succ, List.zip_cons_cons, List.map_cons, mul_zero, add_zero]
      rw [h x (by simp), ih fun y hy => h y (by simp [hy])]
  · simp

theorem mulConst (k : Int) : ∀ (r : List Int) (c : Int) (done : List Int), (∀ x ∈ done, x % (falconQ : Int) = x) →
    ((c :: r).foldl (fun (acc, row) c =>
      ((acc.zip row).map fun (a, r) => (a + c * r) % (falconQ : Int),
       -(row.getLast?.getD 0) :: row.dropLast)) (done ++ 0 :: List.replicate r.length 0,
        List.replicate done.length 0 ++ k :: List.replicate r.length 0)).1
      = done ++ (c :: r).map fun c => c * k % (falconQ : Int)
  | [], c, done, h => by
    rw [List.foldl_cons, List.foldl_nil]
    simpa using rowStep c k 0 done h
  | d :: r, c, done, h => by
    rw [List.foldl_cons]
    have key := mulConst k r d (done ++ [c * k % (falconQ : Int)]) (by
      intro x hx
      rcases List.mem_append.mp hx with hx | hx
      · exact h x hx
      · rw [List.mem_singleton.mp hx]; exact Int.emod_emod_of_dvd _ (dvd_refl _))
    have e : List.replicate done.length (0 : Int) ++ k :: List.replicate (d :: r).length 0
        = (List.replicate done.length 0 ++ k :: List.replicate r.length 0) ++ [0] := by
      simp [List.replicate_succ']
    have e1 : (List.replicate done.length (0 : Int) ++ k :: List.replicate (d :: r).length 0).getLast?.getD 0 = 0 := by
      rw [e, List.getLast?_concat]; rfl
    have e2 : (List.replicate done.length (0 : Int) ++ k :: List.replicate (d :: r).length 0).dropLast
        = List.replicate done.length 0 ++ k :: List.replicate r.length 0 := by
      rw [e, List.dropLast_concat]
    simp only [rowStep c k _ done h, e1, e2]
    simpa [List.replicate_succ] using key

theorem mul_const : ∀ (l : List Int) (k : Nat), l ≠ [] →
    falconMul l (k :: List.replicate (l.length - 1) 0) = l.map fun x => x * k % (falconQ : Int)
  | c :: r, k, _ => by
    have h := mulConst k r c [] (by simp)
    simp only [List.nil_append, List.length_nil, List.replicate_zero] at h
    rw [← h, falconMul]
    simp only [List.map_cons, List.map_replicate, List.length_cons, Nat.add_sub_cancel, Nat.cast_zero]

/-! The signature is short. -/

theorem samples_below (a : List Nat) : ∀ x ∈ falconSamples a, x < 12289 := by
  intro x hx
  obtain ⟨v, -, hv⟩ := List.mem_filterMap.mp (by simpa only [falconSamples] using hx)
  split at hv
  · rw [← Option.some.inj hv]; exact Nat.mod_lt _ (by decide)
  · cases hv

theorem squeeze_below : ∀ (n : Nat) (a got : List Nat), (∀ x ∈ got, x < 12289) → ∀ x ∈ falconSqueeze n a got, x < 12289
  | 0, _, _, h => h
  | n + 1, a, got, h => by
    rw [falconSqueeze]
    split
    · exact fun x hx => h x (List.mem_of_mem_take hx)
    · exact squeeze_below n _ _ fun x hx => (List.mem_append.mp hx).elim (h x) (samples_below a x)

theorem nearest_short (c : Nat) (h : c < 12289) :
    (centred ((c : Int) - (((c + 55) / 111 : Nat) : Int) * 111 % (falconQ : Int))).natAbs ≤ 55 := by
  have hq : (falconQ : Int) = 12289 := rfl
  have hx : (((c + 55) / 111 : Nat) : Int) * 111 % 12289 = (((c + 55) / 111 : Nat) : Int) * 111
      ∨ ((((c + 55) / 111 : Nat) : Int) * 111 % 12289 = 32 ∧ 12266 ≤ c) := by
    rcases Nat.lt_or_ge ((c + 55) / 111) 111 with hx | hx <;> omega
  have key : ∀ d : Int, (-55 ≤ d ∧ d ≤ 55) ∨ (12234 ≤ d ∧ d ≤ 12288) → (centred d).natAbs ≤ 55 := by
    intro d hd
    have h1 : d % 12289 = d ∨ d % 12289 = d + 12289 := by omega
    show (if (12289 : Int) / 2 < d % 12289 then d % 12289 - 12289 else d % 12289 : Int).natAbs ≤ 55
    split <;> omega
  rw [hq]
  exact key _ (by omega)

theorem zip_short : ∀ (l : List Nat) (n m : Nat), (∀ x ∈ l, x < 12289) → (l.length ≤ n ∨ m = 0) →
    ∀ y ∈ (l.zip (((l.map fun c => (c + 55) / 111).take n ++ List.replicate m 0).map fun (x : Nat) => (x : Int) * 111 % (falconQ : Int))).map
      (fun (c, p) => centred ((c : Int) - p)), y.natAbs ≤ 55
  | [], _, _, _, _ => by simp
  | c :: l, 0, m, h, hm => by
    have : m = 0 := by simpa using hm
    subst this; simp
  | c :: l, n + 1, m, h, hm => by
    have ih := zip_short l n m (fun x hx => h x (by simp [hx])) (by simpa using hm)
    simp only [List.map_cons, List.take_succ_cons, List.cons_append, List.zip_cons_cons, List.mem_cons]
    rintro y (rfl | hy)
    · exact nearest_short c (h c (by simp))
    · exact ih y hy

theorem sum_short (b : Nat) : ∀ l : List Int, (∀ x ∈ l, x.natAbs ≤ b) → sumSquares l ≤ l.length * (b * b)
  | [], _ => by simp [sumSquares]
  | x :: l, h => by
    have ih := sum_short b l fun y hy => h y (by simp [hy])
    have := Nat.mul_le_mul (h x (by simp)) (h x (by simp))
    simp only [sumSquares, List.map_cons, List.sum_cons, List.length_cons] at ih ⊢
    rw [Nat.succ_mul]; omega

set_option maxRecDepth 20000 in
/-- Every message has a signature that verifies. -/
theorem weakSig_ok (salt msg : List Byte) (hl40 : salt.length = 40) : falconVerify weakKey msg (weakSig salt msg) = true := by
  have hc : ∀ x ∈ falconPoint salt msg, x < 12289 := squeeze_below _ _ _ (by simp)
  have hn : (weakCoefs salt msg).length = 1024 := by simp [weakCoefs]
  have hs : ∀ x ∈ weakCoefs salt msg, x ≤ 111 := by
    intro x hx
    rcases List.mem_append.mp hx with hx | hx
    · obtain ⟨c, hc', rfl⟩ := List.mem_map.mp (List.mem_of_mem_take hx)
      have := hc c hc'; omega
    · rw [List.eq_of_mem_replicate hx]; omega
  have hl : ((weakCoefs salt msg).flatMap coefBits).length = 8 * 1152 := by
    rw [List.length_flatMap, List.map_congr_left (g := fun _ => 9) (fun x _ => by simp [coefBits, bitList])]
    simp [hn]
  have hp := packBits_bits 1152 _ hl
  have hd : (weakSig salt msg).drop 41 = packBits ((weakCoefs salt msg).flatMap coefBits) ++ zeros 87 := by
    show List.drop 40 (salt ++ _) = _
    simp [hl40]
  have hz : (bitsOf (zeros 87)).any id = false := by decide
  have h2 : falconCoefs 1024 (bitsOf ((weakSig salt msg).drop 41)) = some ((weakCoefs salt msg).map fun (x : Nat) => (x : Int)) := by
    have hb : bitsOf ((weakSig salt msg).drop 41) = (weakCoefs salt msg).flatMap coefBits ++ bitsOf (zeros 87) := by
      rw [hd, bitsOf, List.flatMap_append]; exact congrArg (· ++ _) hp.1
    have := coefs_bits (weakCoefs salt msg) (bitsOf (zeros 87)) (fun x hx => by have := hs x hx; omega) hz
    rwa [hn, ← hb] at this
  have hm : falconMul ((weakCoefs salt msg).map fun (x : Nat) => (x : Int)) (111 :: List.replicate 1023 0)
      = (weakCoefs salt msg).map fun (x : Nat) => (x : Int) * 111 % (falconQ : Int) := by
    have := mul_const ((weakCoefs salt msg).map fun (x : Nat) => (x : Int)) 111 (by simp [← List.length_eq_zero_iff, hn])
    rw [List.length_map, hn, List.map_map] at this
    exact this
  have hlen : (weakSig salt msg).length = 1280 := by simp [weakSig, zeros, hp.2, hl40]
  have hsalt : slice (weakSig salt msg) 1 40 = salt := by
    have e : ((weakSig salt msg).drop 1).take 40 = salt := List.take_left' hl40
    simp only [slice, e, hl40]
    exact List.append_nil _
  have hhead : leAt (weakSig salt msg) 0 1 = 0x3A := rfl
  rw [falconVerify, weakKey_poly, h2]
  simp only [hsalt, hm, hlen, hhead]
  have b2 := sum_short 111 ((weakCoefs salt msg).map fun (x : Nat) => (x : Int)) (by simpa using hs)
  have b1 := sum_short 55 _ (zip_short (falconPoint salt msg) 1024
    (1024 - (((falconPoint salt msg).map fun c => (c + 55) / 111).take 1024).length) hc (by simp; omega))
  have b3 : ((falconPoint salt msg).zip ((weakCoefs salt msg).map fun (x : Nat) => (x : Int) * 111 % (falconQ : Int))).length ≤ 1024 := by
    rw [List.length_zip, List.length_map, hn]; exact Nat.min_le_right _ _
  rw [List.length_map] at b1 b2
  rw [hn] at b2
  have b4 := b1.trans (Nat.mul_le_mul_right (55 * 55) b3)
  simp only [beq_self_eq_true, Bool.true_and, decide_eq_true_eq]
  exact (Nat.add_le_add b4 b2).trans (by decide)

theorem weakSig_length (salt msg : List Byte) (hl40 : salt.length = 40) : (weakSig salt msg).length = 1280 := by
  have h := weakSig_ok salt msg hl40
  rw [falconVerify] at h
  split at h
  · simp only [Bool.and_eq_true, beq_iff_eq] at h; exact h.1.1
  · cases h

theorem weakKey_length : weakKey.length = 1793 := by
  have h := weakKey_poly
  rw [falconKey] at h
  split at h
  · next c => exact c.1
  · cases h

/-- Signatures with different salts differ. -/
theorem weakSig_salt (a b msg : List Byte) (h : a.length = b.length) (e : weakSig a msg = weakSig b msg) : a = b :=
  (List.append_inj (List.cons.inj e).2 h).1

/-- Keys under which anyone can sign, with the draw as the salt. -/
def weakKeys : FalconKeys :=
  { key := fun _ => weakKey, sign := fun d _ m => weakSig (leBytes 40 d) m, key_length := fun _ => weakKey_length,
    sign_length := fun _ _ m => weakSig_length _ m (length_leBytes ..),
    sign_valid := fun _ _ m => weakSig_ok _ m (length_leBytes ..),
    sign_fresh := fun d e _ m hd he hne h => hne (by
      have := congrArg leNat (weakSig_salt _ _ m (by simp only [length_leBytes]) h)
      rwa [leNat_leBytes, leNat_leBytes, Nat.mod_eq_of_lt (by omega), Nat.mod_eq_of_lt (by omega)] at this) }

end Sys2Proof.Machine

namespace Sys2Proof

/-- The keys of the device: a constant without a body, which may be any pair (log entry 60). -/
opaque Config.falconKeys : Option Machine.FalconKeys

end Sys2Proof

namespace Sys2Proof.Machine

/-- The keys of the device. -/
def falconKeys : FalconKeys := Config.falconKeys.getD weakKeys

end Sys2Proof.Machine
end

