-- ==== Sys2Proof/Machine/Dispatcher.lean ====
section
/-!
DEFINITION. The serving dispatcher (spec/14_steps_and_serving.md, R337 to R344): request queues, ready models, deficit
round robin, batches, completion messages and model switches. Ages and waits are measured in fabric time, whose tick is
160 ps (R299).
-/

namespace Sys2Proof.Machine

/-! ### Requests and ready models (R338, R339) -/

/-- Ticks of fabric time in one microsecond. -/
def usTicks : Nat := 6250

/-- Queued requests of a model, oldest first. -/
def Dispatcher.of (d : Dispatcher) (m : Nat) : List Request := d.queue.filter fun r => r.model == m

/-- Ticks since a request arrived. -/
def State.age (s : State) (r : Request) : Nat := s.time.now.toNat - r.time.toNat

/-- Whether the oldest request of a model has waited wait_us. -/
def State.waited (s : State) (m : Nat) : Bool :=
  match s.dsp.of m with
  | r :: _ => usTicks * (s.modelRec m).waitUs ≤ s.age r
  | [] => false

/-- Whether the job of a group may be given work: it is neither drained nor failed nor at a boundary (R328, R342). -/
def State.groupRuns (s : State) (g : Nat) : Bool :=
  match s.slotOfJob (s.groupRec g).job with
  | some j => (s.job j).st == .running || (s.job j).st == .eval
  | none => false

/-- A group that is idle and may be given a batch. -/
def State.groupFree (s : State) (g : Nat) : Bool :=
  (s.group g).st == .idle && !(s.group g).exiting && (s.groupRec g).valid && s.groupRuns g

/-- The groups that may serve a model. -/
def State.groupsOf (s : State) (m : Nat) : List Nat :=
  let r := s.modelRec m
  if r.fixed then [r.fixGrp] else r.groups

/-- Continuations of a model held for a group. -/
def State.contsFor (s : State) (m g : Nat) : List (Nat × Word × Nat) := (s.group g).conts.filter fun c => c.1 == m

/-- R339: when a model is ready. -/
def State.modelReady (s : State) (m : Nat) : Bool :=
  (s.modelRec m).valid
    && ((s.groupsOf m).any (fun g => s.groupFree g && !(s.contsFor m g).isEmpty)
        || (!(s.dsp.of m).isEmpty && ((s.modelRec m).maxBatch ≤ (s.dsp.of m).length || s.waited m)))

def State.setDsp (s : State) (d : Dispatcher) : State := { s with dsp := d }

/-- The deficit and the fresh flag of a model (fresh 1 unless listed). -/
def Dispatcher.deficitOf (d : Dispatcher) (m : Nat) : Nat := mget 0 d.deficit m
def Dispatcher.setDeficit (d : Dispatcher) (m v : Nat) : Dispatcher := { d with deficit := mset 0 d.deficit m v }
def Dispatcher.refresh (d : Dispatcher) (m : Nat) : Dispatcher := { d with stale := d.stale.filter (· != m) }

/-- The ready list holds exactly the ready models: one that is not ready leaves it with deficit 0 and fresh 1, one that
became ready joins at the tail. -/
def State.refreshReady (s : State) : State :=
  let gone := s.dsp.ready.filter fun m => !s.modelReady m
  let stay := s.dsp.ready.filter fun m => s.modelReady m
  let came := (List.range 256).filter fun m => !stay.contains m && s.modelReady m
  let d := gone.foldl (fun d m => (d.setDeficit m 0).refresh m) s.dsp
  s.setDsp { d with ready := stay ++ came }

/-- REQUEST_DESCRIPTOR: the oldest descriptor a port die handed over is queued, or dropped under the first reason of
Table 14.9 that applies, in the order 0, 1, 2, 3. -/
def State.takeRequest (s : State) : State :=
  match s.dsp.inbox with
  | [] => s
  | r :: rest =>
    let s := s.setDsp { s.dsp with inbox := rest }
    let e := s.modelRec r.model
    if !s.bit R.dspCtl 0 then s.dropBuffer r.handle 0
    else if !e.valid then s.dropBuffer r.handle 1
    else if e.qlimit ≤ (s.dsp.of r.model).length then s.dropBuffer r.handle 2
    else if 65536 ≤ s.dsp.queue.length then s.dropBuffer r.handle 3
    else State.refreshReady (s.setDsp { s.dsp with queue := s.dsp.queue ++ [r] })

/-- The request at the head of a model's queue, dropped where it is older than age_ms. -/
def State.dropAged (s : State) (m : Nat) : State :=
  let e := s.modelRec m
  match s.dsp.of m with
  | [] => s
  | r :: _ =>
    if e.ageMs = 0 ∨ s.age r ≤ 1000 * usTicks * e.ageMs then s
    else match takeFirst (fun q => q.model == m) s.dsp.queue with
      | some (r, q) => (State.setDsp s { s.dsp with queue := q }).dropBuffer r.handle 4
      | none => s

/-- REQUEST_AGE_DROP. -/
def State.requestAgeDrop (s : State) (m : Nat) : State := (s.dropAged m).refreshReady

/-- MODEL_WAIT_EXPIRY. -/
def State.modelWaitExpiry (s : State) (m : Nat) : State := if s.waited m then s.refreshReady else s

/-- Every request that is at the head of its queue and too old is dropped. -/
def State.dropAllAged (s : State) : State := s.dsp.queue.foldl (fun s r => s.dropAged r.model) s

/-! ### Descriptors (R340, R344) -/

/-- The control block of a group has no valid DPA: its descriptor is refused with DENIED (R273), recorded with the group's job
on the die that the DPA names, or on tile die 0 where there is none of that number (DESIGN CHOICE, log entry 133). -/
def State.descriptorDenied (s : State) (g : Nat) : State :=
  let r := s.groupRec g
  s.memFault (s.dieOf r.cb) fcDenied r.job 4 1 r.cb

/-- A descriptor written into a group's control block, with its ADD to the lead core's semaphore. -/
def State.sendDescriptor (s : State) (g op model n params : Nat) (entries : List BatchEntry) : State :=
  let r := s.groupRec g
  let k := s.group g
  let e (x : BatchEntry) : List Byte :=
    leBytes 4 x.handle.toNat ++ leBytes 1 (bnat x.cont) ++ leBytes 1 0 ++ leBytes 2 x.lane
  let bs := leBytes 4 k.seq ++ leBytes 1 op ++ leBytes 1 model ++ leBytes 1 n ++ leBytes 1 0 ++ leBytes 8 params
    ++ leBytes 8 s.time.now.toNat ++ zeros 40 ++ entries.flatMap e
  let s := s.setGroup g { k with seq := (k.seq + 1) % 2 ^ 32 }
  if !s.dpaSpan r.cb bs.length then s.descriptorDenied g
  else
    let s := s.writeDpa r.cb bs
    match r.cores with
    | u :: _ => s.semUpdate u r.sem 0 1
    | [] => s

/-- A batch written for a group, which enters BUSY. -/
def State.sendBatch (s : State) (g m : Nat) (es : List BatchEntry) : State :=
  let k := s.group g
  let s := s.sendDescriptor g 0 m es.length (s.modelRec m).params es
  let k' := s.group g
  s.setGroup g { k' with st := .busy, model := some m, next := none, open_ := some (k.seq, m, es) }

/-- An EXIT descriptor for a group. -/
def State.sendExit (s : State) (g : Nat) : State :=
  let m := (s.group g).model.getD 0
  s.sendDescriptor g 1 m 0 (s.modelRec m).params []

/-! ### Assignment (R339, R340) -/

/-- choose_group of R339. -/
def State.chooseGroup (s : State) (m : Nat) : Option Nat :=
  let c := (s.groupsOf m).filter fun g => s.groupFree g
  let active (g : Nat) : Bool := (s.group g).model == some m
  match c.find? fun g => active g && !(s.contsFor m g).isEmpty with
  | some g => some g
  | none => match c.find? active with
    | some g => some g
    | none => c.find? fun g => (s.group g).conts.isEmpty
        && (match (s.group g).model with
            | some a => (s.dsp.of a).isEmpty
            | none => true)

/-- The first `b` entries for a batch of m on g: continuations first, then requests from the head of the queue. -/
def State.takeEntries (s : State) (m g b : Nat) : State × List BatchEntry :=
  let cs := (s.contsFor m g).take b
  let rs := (s.dsp.of m).take (b - cs.length)
  let k := s.group g
  let s := s.setGroup g { k with conts := cs.foldl (fun l c => l.erase c) k.conts }
  let s := s.setDsp { s.dsp with queue := rs.foldl (fun l r => l.erase r) s.dsp.queue }
  (s, cs.map (fun c => ⟨c.2.1, true, c.2.2⟩) ++ rs.map fun r => ⟨r.handle, false, r.lane⟩)

/-- assign(g, m, b): the batch at once, or EXIT first where another model is active. -/
def State.assign (s : State) (g m b : Nat) : State :=
  let (s, es) := s.takeEntries m g b
  let s := s.incCtr R.dspBatchLo
  if (s.group g).model = some m then s.sendBatch g m es
  else
    let s := s.sendExit g
    s.setGroup g { s.group g with st := .switching, next := some (m, es) }

/-- dispatch() of R339 with `passes`; `fuel` bounds its turns. -/
def State.dispatchLoop : Nat → Nat → State → State
  | 0, _, s => s
  | f + 1, passes, s =>
    if !((List.range 80).any fun g => s.groupFree g) || s.dsp.ready.length ≤ passes then s
    else match s.dsp.ready with
    | [] => s
    | m :: rest =>
      let d := s.dsp
      let d := if d.stale.contains m then d
        else { d.setDeficit m (d.deficitOf m + (s.modelRec m).quantum) with stale := d.stale ++ [m] }
      let s := s.setDsp d
      match s.chooseGroup m with
      | none => State.dispatchLoop f (passes + 1) (s.setDsp { s.dsp with ready := rest ++ [m] })
      | some g =>
        let pending := (s.contsFor m g).length + (s.dsp.of m).length
        let b := min (s.dsp.deficitOf m) (min (s.modelRec m).maxBatch pending)
        if b = 0 then State.dispatchLoop f (passes + 1) (s.setDsp { s.dsp with ready := rest ++ [m] })
        else
          let s := s.assign g m b
          let s := s.setDsp (s.dsp.setDeficit m (s.dsp.deficitOf m - b))
          let s :=
            if !s.modelReady m then
              s.setDsp { (s.dsp.setDeficit m 0).refresh m with ready := rest }
            else if s.dsp.deficitOf m = 0 then s.setDsp { s.dsp.refresh m with ready := rest ++ [m] }
            else s
          State.dispatchLoop f 0 s

/-- DISPATCH. With pause = 1 no batch is assigned, nor while the crossbar is disabled (R66; log entry 129). -/
def State.dispatchAll (s : State) : State :=
  if s.bit R.dspCtl 1 || !s.xbarOn then s
  else
    let s := s.dropAllAged.refreshReady
    let idle := countWhere s.groupFree (List.range 80)
    s.dispatchLoop ((idle + 1) * (s.dsp.ready.length + 1)) 0

/-! ### Starts and switches (R337, R344) -/

/-- START written at a model's program on every core of a group, in ascending order. -/
def State.startGroupCores (s : State) (g m : Nat) : State :=
  (s.groupRec g).cores.foldl (fun s u => s.startCore u (s.modelRec m).prog) s

/-- The model a group starts with at a begin step. -/
def State.groupModel (s : State) (g : Nat) : Nat := (s.group g).model.getD (s.groupRec g).init

/-- A group whose cores a begin step started. -/
def State.groupStarted (s : State) (g m : Nat) : State :=
  s.setGroup g { s.group g with st := .idle, model := some m, seq := 0, exiting := false }

/-- The groups of a job. -/
def State.jobGroups (s : State) (job : Nat) : List Nat :=
  (List.range 80).filter fun g => (s.groupRec g).valid && (s.groupRec g).job == job

/-- Whether every core of a group has halted with nothing queued. -/
def State.groupHalted (s : State) (g : Nat) : Bool :=
  (s.groupRec g).cores.all fun u => (s.core u).st == .halted && s.qempty u

/-- SWITCH_HALTED. -/
def State.switchHalted (s : State) (g : Nat) : State :=
  let k := s.group g
  match k.next with
  | none => s
  | some (m, es) =>
    if k.st ≠ .switching ∨ !s.groupHalted g ∨ !s.xbarOn then s
    else
      let s := s.setGroup g { k with seq := 0 }
      let s := s.startGroupCores g m
      if (s.group g).st ≠ .switching then s
      else (s.sendBatch g m es).incCtr R.dspSwitchLo

/-! ### Completion (R341) -/

/-- The Ethernet subport in UP whose first device-wide lane a response names. -/
def State.ethUpAt (s : State) (lane : Nat) : Bool :=
  match s.subportAt (lane / 24) (lane % 24) with
  | some (j, _) => s.slotMode j == 1 && (s.eth (lane / 24) (lane % 24)).st == .up
  | none => false

/-- One accepted entry of a completion message: its flags and lane are bytes 4 to 6 of `b`. -/
def State.completeEntry (s : State) (g m : Nat) (x : BatchEntry) (b : List Byte) : State :=
  let lane := leAt b 4 2 % 512
  let flags := leAt b 6 1
  let s :=
    if !nbit flags 0 then s.freeBuffer x.handle
    else if s.ethUpAt lane then s.queueResponse (lane / 24) (lane % 24) x.handle
    else s.dropBuffer x.handle 7
  if !nbit flags 1 then s
  else match s.allocate (poolSize (handlePool x.handle)) with
    | (s, .ok h) => s.setGroup g { s.group g with conts := (s.group g).conts ++ [(m, h, x.lane)] }
    | (s, .empty) => s.countDrop 8
    | (s, .denied) => s

/-- Whether a completion message names the open batch entry by entry. -/
def completionOk (seq : Nat) (es : List BatchEntry) (b : List Byte) : Bool :=
  leAt b 0 4 == seq && leAt b 4 1 == es.length
    && (es.zipIdx).all fun x => leAt b (8 + 8 * x.2) 4 == x.1.handle.toNat

/-- A completion message that is refused: the group it names enters FAULTED whatever its state (R341). A message whose
addr names no valid group record faults no group. -/
def State.refuseCompletion (s : State) (g : Nat) : State :=
  let s := s.raise R.dspCause 2
  if (s.groupRec g).valid then s.faultGroup g fcDenied else s.dspFault fcDenied (s.groupRec g).job g

/-- EXIT to a group of a draining job, where the group is idle (R328). -/
def State.exitGroup (s : State) (g : Nat) : State :=
  let k := s.group g
  if k.st = .idle ∧ !k.exiting then
    let s := s.sendExit g
    s.setGroup g { s.group g with exiting := true }
  else s

/-- Whether the job of a group drains. -/
def State.groupDrains (s : State) (g : Nat) : Bool :=
  match s.slotOfJob (s.groupRec g).job with
  | some j => (s.job j).st == .draining
  | none => false

/-- BATCH_COMPLETION: the first message for the dispatcher's unit. -/
def State.batchCompletion (s : State) : State :=
  match s.takeArrival s.mgmtSlot fun a => a.pkt.hdr.op == opWrite && a.unit == 1 with
  | none => s
  | some (a, s) =>
    let s := s.commitArrival a
    let b := a.pkt.data
    let g := a.pkt.hdr.addr / 0x1000
    let k := s.group g
    match k.open_ with
    | none => s.refuseCompletion g
    | some (seq, m, es) =>
      if a.pkt.hdr.addr % 0x1000 ≠ 0 ∨ k.st ≠ .busy ∨ !completionOk seq es b then s.refuseCompletion g
      else
        let s := s.setGroup g { k with st := .idle, open_ := none }
        let s := (es.zipIdx).foldl (fun s x => s.completeEntry g m x.1 (slice b (8 + 8 * x.2) 8)) s
        let s := if s.groupDrains g then s.exitGroup g else s
        s.refreshReady

/-- A group of a job that has drained: its buffers are freed and it enters OFF (R328, R342). -/
def State.groupOff (s : State) (g : Nat) : State :=
  let k := s.group g
  let s := k.buffers.foldl (fun s h => s.dropBuffer h 6) s
  s.setGroup g { k with st := .off, open_ := none, next := none, conts := [], exiting := false }

end Sys2Proof.Machine
end

