-- ==== Sys2Proof/Machine/Stream.lean ====
section
/-!
DEFINITION. Stream engines and their reduction contexts (spec/06_stream_engines.md, R130 to R138, R143, R146, R148,
R153 to R162, R423): what an engine does with the packets delivered to it, its handlers, its emissions, failure and
freeing of contexts, and the SDn commands. An engine takes its packets in the order of arrival (R146, R161).
-/

namespace Sys2Proof.Machine

/-! ### Marks (R158, R160) -/

/-- SDn_FAULT takes a fault only while it holds none (R162). -/
def State.sdFault (s : State) (n code job c : Nat) : State :=
  let s := if s.reg (R.sdFault n) = 0 then s.setReg (R.sdFault n) (atFld 31 24 code ||| atFld 23 12 job ||| atFld 11 0 c)
    else s
  (s.markJob (fun w => R.sdJmap n w) job).raise (R.sdCause n) 0

def State.sdStray (s : State) (e : Nat) (a : Arrival) : State :=
  ((s.incCtr (R.sdStrayLo (e / 4))).raise (R.sdCause (e / 4)) 1).commitArrival a

def State.sdDisc (s : State) (e : Nat) (a : Arrival) : State := (s.incCtr (R.sdDiscLo (e / 4))).commitArrival a

/-- The chunk slots of a context are discarded: the bytes of every contribution accepted and not emitted count as
committed. -/
def State.dropChunks (s : State) (c : Nat) : State :=
  let s := ((s.ctx c).slots.flatMap (·.holds)).foldl State.commitArrival s
  { s with accepted := s.accepted.filter fun a => a.c != c }

/-- R158: a context enters FAILED; a later code does not replace the first (R157), and a FREE context has none. -/
def State.failCtx (s : State) (c code : Nat) : State :=
  let k := s.ctx c
  if k.st = .free ∨ k.st = .failed then s
  else
    let s := s.dropChunks c
    (s.setCtx c { k with st := .failed, code := code, slots := [], pend := none, outst := [] }).sdFault (c / 512) code
      k.job c

/-- Contexts of engine `e`. -/
def engineCtxs (e : Nat) : List Nat := (List.range 128).map (128 * e + ·)

/-- R131: an uncorrectable word in control memory fails every context of the engine. -/
def State.checkControl (s : State) (e : Nat) : State :=
  if s.ue.any fun w => w.1 == .ctl e then
    let s := (engineCtxs e).foldl (fun s c => s.failCtx c fcEccUe) s
    { s with ue := s.ue.filter fun w => w.1 != .ctl e }
  else s

/-- R131: the context whose window holds an uncorrectable word of context memory. -/
def State.ctxUe (s : State) (e w : Nat) : State := s.failCtx (128 * e + w / 0x10000) fcEccUe

/-! ### The engine's packets -/

/-- Whether a packet was delivered to engine `e` (R15, R53). -/
def State.atEngine (s : State) (e : Nat) (a : Arrival) : Bool := a.slot == s.engineSlot e && a.sub == e % 2

/-- The oldest packet at an engine, taken if it satisfies a predicate. -/
def State.takeEngine (s : State) (e : Nat) (p : Arrival → Bool) : Option (Arrival × State) :=
  match takeFirst (s.atEngine e) s.inbox with
  | some (a, r) => if p a then some (a, { s with inbox := r }) else none
  | none => none

/-! ### Descriptors and announces (R134 to R137) -/

/-- R137. -/
def laterSeq (x y : Nat) : Bool :=
  let d := (x + 2 ^ 32 - y % 2 ^ 32) % 2 ^ 32
  1 ≤ d && d < 2 ^ 31

/-- A descriptor or announce for another coll_seq of the context's job. -/
def State.ctxLater (s : State) (c seq : Nat) (p : Packet) : State :=
  let k := s.ctx c
  if laterSeq seq k.seq then
    match k.pend with
    | none => s.setCtx c { k with pend := some { seq := seq, items := [p] } }
    | some r => if r.seq = seq then s.setCtx c { k with pend := some { r with items := r.items ++ [p] } }
                else s.failCtx c fcDenied
  else s.failCtx c fcDenied

/-- The combined announce of a context (R136); the spec gives its addr no value. -/
def State.sendCombined (s : State) (c : Nat) (mm : Bool) : State :=
  let k := s.ctx c
  match k.desc with
  | none => s
  | some d =>
    let h : ChunkHdr := { ctx := d.outCtx, inIdx := d.outIdx, last := false, mm := mm, flags := 0, wtype := 0, seq := k.seq,
                          chunk := 0, elems := 0, crc := 0 }
    let body := d.digest ++ leBytes 8 k.ann.count.toNat ++ padTo 40 k.ann.tail
    let id := s.nextId
    let addr := Config.freeNat s.freeCtr % 2 ^ 48
    let s := (s.drawn).newMsg (.engine c) (some d.outDev)
    s.attachPkt (s.engineSlot (c / 128)) (some id) none
      { hdr := { PktHdr.zero opCollAnn with
                   dstDev := d.outDev, dstEp := d.outEp, srcDev := s.selfDev, srcEp := d.selfEp, flow := c,
                   msgBytes := 96, addr := addr },
        vc := 2, tc := d.outTc % 8, job := k.job, tag := 0, abt := false, data := chunkData h body }

/-- ACTIVE or FAILED once the descriptor and all announces are there. -/
def State.combine (s : State) (c : Nat) : State :=
  let k := s.ctx c
  match k.desc with
  | none => s
  | some d =>
    if k.st ≠ .configured ∨ !((List.range d.nIn).all fun i => k.ann.ins.contains i) then s
    else
      let mm := k.ann.anyMm || k.ann.digests.any (· != d.digest)
      let s := s.sendCombined c mm
      let k := s.ctx c
      if mm then State.failCtx (s.setCtx c { k with flags := k.flags ||| 16 }) c fcMismatch
      else s.setCtx c { k with st := .active, base := 0, nextIn := [], slots := [] }

/-- A descriptor for a context of its packet's job or a FREE one (R134, R135, R137). -/
def State.takeDesc (s : State) (c : Nat) (p : Packet) : State :=
  let k := s.ctx c
  let d := parseDesc p.data
  let bound : Ctx := if k.st = .free then { Ctx.reset with job := p.job, seq := d.collSeq } else k
  if k.st ≠ .free ∧ d.collSeq ≠ k.seq then s.ctxLater c d.collSeq p
  else if k.st ≠ .free ∧ k.desc.isSome then s.failCtx c fcDenied
  else
    let s := s.setCtx c { bound with st := .configured }
    if descRefused p.data p.job then s.failCtx c fcDenied
    else
      let s := s.setCtx c { bound with st := .configured, desc := some d }
      if bound.ann.ins.any fun i => d.nIn ≤ i then s.failCtx c fcPoisoned else s.combine c

/-- An announce with a right crc for a context of its packet's job or a FREE one (R136, R137). -/
def State.takeAnn (s : State) (c : Nat) (p : Packet) : State :=
  let h := chunkHdr p
  let b := chunkBody p
  let k := s.ctx c
  let k : Ctx := if k.st = .free then { Ctx.reset with st := .announcing, job := p.job, seq := h.seq } else k
  if h.seq ≠ k.seq then s.ctxLater c h.seq p
  else
    let s := s.setCtx c k
    if k.ann.ins.contains h.inIdx then s.failCtx c fcPoisoned
    else if (k.desc.map fun d => decide (d.nIn ≤ h.inIdx)).getD false then s.failCtx c fcPoisoned
    else
      let r : AnnRec := { ins := k.ann.ins ++ [h.inIdx], digests := k.ann.digests ++ [slice b 0 16],
                          anyMm := k.ann.anyMm || h.mm, count := k.ann.count + BitVec.ofNat 64 (leAt b 16 8),
                          tail := if h.inIdx = 0 then slice b 24 40 else k.ann.tail }
      (s.setCtx c { k with ann := r }).combine c

/-- A context returns to FREE and its pending record, if any, is promoted (R137, R138). -/
def State.freeCtx (s : State) (c : Nat) (pend : Option PendRec) : State :=
  let s := s.setCtx c Ctx.reset
  match pend with
  | none => s
  | some r => r.items.foldl (fun s p =>
      if (s.ctx c).st = .failed then s.incCtr (R.sdDiscLo (c / 512))
      else if p.hdr.op = opCollAnn then s.takeAnn c p
      else s.takeDesc c p) s

/-! ### ENGINE_WRITE (R132) -/

/-- A descriptor WRITE: stray for another job's context, discarded for a FAILED one. -/
def State.writeDesc (s : State) (e : Nat) (a : Arrival) (c : Nat) : State :=
  let k := s.ctx c
  if k.st ≠ .free ∧ k.job ≠ a.pkt.job then s.sdStray e a
  else if k.st = .failed then s.sdDisc e a
  else (s.takeDesc c a.pkt).commitArrival a

/-- Data for context memory: stored, or refused where a partly covered word is uncorrectable (log entry 25). -/
def State.writeCtxMem (s : State) (e off : Nat) (bs : List Byte) : State :=
  match s.uePartial (.ctx e) off bs.length with
  | some w => s.ctxUe e w
  | none => State.healed { s with ctxMem := wrBytes s.ctxMem (e * 2 ^ 23 + off) bs } (.ctx e) off bs.length

/-- ENGINE_WRITE: the oldest packet, where it is no announce, chunk or COMPLETE. -/
def State.engineWrite (s : State) (e : Nat) : State :=
  let s := s.checkControl e
  match s.takeEngine e fun a =>
      a.pkt.hdr.op != opCollAnn && a.pkt.hdr.op != opCollData && a.pkt.hdr.op != opComplete with
  | none => s
  | some (a, s) =>
    let h := a.pkt.hdr
    let n := a.pkt.data.length
    if h.op ≠ opWrite ∧ h.op ≠ opCircWrite then s.sdStray e a
    else if nbits h.addr 24 24 ≠ 0 then s.sdStray e a
    else if !nbit h.addr 23 then
      let off := nbits h.addr 0 23 + h.byteOff
      if 2 ^ 23 < off + n then s.sdStray e a else (s.writeCtxMem e off a.pkt.data).commitArrival a
    else if n ≠ 128 ∨ h.byteOff ≠ 0 ∨ nbits h.addr 14 9 ≠ 0 ∨ nbits h.addr 0 7 ≠ 0 then s.sdStray e a
    else s.writeDesc e a (128 * e + nbits h.addr 7 7)

/-! ### COLL_ANN_RECEIVE (R136, R140) -/

/-- COLL_ANN_RECEIVE: the oldest packet, where it is an announce. One whose ctx is another engine's is stray, as R143 has it for
a chunk (DESIGN CHOICE, log entry 141). -/
def State.engineAnn (s : State) (e : Nat) : State :=
  let s := s.checkControl e
  match s.takeEngine e fun a => a.pkt.hdr.op == opCollAnn with
  | none => s
  | some (a, s) =>
    let h := chunkHdr a.pkt
    let c := h.ctx
    let k := s.ctx c
    if c / 128 ≠ e then s.sdStray e a
    else if k.st ≠ .free ∧ k.job ≠ a.pkt.job then s.sdStray e a
    else if k.st = .failed then s.sdDisc e a
    else if !crcGood a.pkt then
      let s := if k.st = .free then s.setCtx c { Ctx.reset with st := .announcing, job := a.pkt.job, seq := h.seq } else s
      (s.failCtx c fcPoisoned).commitArrival a
    else (s.takeAnn c a.pkt).commitArrival a

/-! ### COLL_DATA_RECEIVE (R143) -/

/-- Program word `w` of an engine and its valid bit. -/
def State.progWord (s : State) (e w : Nat) : Nat := (mget 0 s.prog (1024 * e + w)).toNat
def State.progOk (s : State) (e w : Nat) : Bool := mget false s.progValid (1024 * e + w)

/-- The operations of the handler from a word, in order of execution, up to its END: none past an invalid word, past
word 1,023, or after 16 words without an END (R146). True in the second place where it reaches its END; the third is
the words it read. -/
def State.handlerOps (s : State) (e dtype : Nat) : Nat → Nat → List Nat × Bool × Nat
  | 0, _ => ([], false, 0)
  | f + 1, pc =>
    if 1023 < pc ∨ !s.progOk e pc then ([], false, 0)
    else match wordOps dtype (s.progWord e pc) with
    | none => ([], false, 1)
    | some ops =>
      let run := ops.takeWhile fun o => nbits o 24 8 != sopEnd
      if run.length < ops.length then (run, true, 1)
      else
        let r := State.handlerOps s e dtype f (pc + 1)
        (run ++ r.1, r.2.1, r.2.2 + 1)

/-- The record size of a raw context (R423), none where its handler has no record operation. -/
def State.recordSize (s : State) (e : Nat) (d : CtxDesc) : Option Nat :=
  ((s.handlerOps e d.dtype 16 d.handler).1.find? fun o => isRecordOp (nbits o 24 8)).map recordBytes

/-- Chunks a context keeps in flight, and the slot of a chunk (R143, R152; log entry 31). -/
def ways (dtype : Nat) : Nat := if dtype = dtRaw then 3 else 4
def slotOff (c dtype chunk : Nat) : Nat := 0x10000 * (c % 128) + 0x4000 * (chunk % ways dtype)

def chunkSlot (k : Ctx) (chunk : Nat) : Option ChunkSlot := k.slots.find? fun t => t.chunk == chunk

/-- Check 8. -/
def State.sizeOk (s : State) (e : Nat) (k : Ctx) (d : CtxDesc) (h : ChunkHdr) (n : Nat) : Bool :=
  let isLast := h.chunk + 1 == d.nChunks
  h.last == isLast &&
    (if d.dtype == dtRaw then
       match s.recordSize e d with
       | some r => h.elems * r ≤ 15296 && n == h.elems * r
       | none => true
     else
       (if isLast then 1 ≤ h.elems && h.elems ≤ d.chunkElems
            && ((chunkSlot k h.chunk).map fun t => t.elems == h.elems).getD true
        else h.elems == d.chunkElems)
       && n == elemByteCount h.wtype h.elems)

/-- Checks 2 to 8 of R143. -/
def State.dataOk (s : State) (e : Nat) (k : Ctx) (d : CtxDesc) (p : Packet) : Bool :=
  let h := chunkHdr p
  k.st == .active && h.seq == k.seq && crcGood p && h.inIdx < d.nIn
    && wireType d.dtype (d.inTypes.getD h.inIdx 3) == some h.wtype
    && h.chunk == mget 0 k.nextIn h.inIdx && h.chunk < d.nChunks && h.chunk < k.base + ways d.dtype
    && s.sizeOk e k d h (chunkBody p).length

/-- The chunk slot that takes its first contribution, filled with the init value (R148). -/
def State.openSlot (s : State) (c : Nat) (d : CtxDesc) (h : ChunkHdr) : State :=
  let k := s.ctx c
  let t : ChunkSlot := { chunk := h.chunk, handled := 0, elems := h.elems, recs := 0, recSize := 4, flags := 0, exact := [],
                         holds := [] }
  let s := s.setCtx c { k with slots := k.slots ++ [t] }
  if d.dtype = dtRaw then s
  else s.writeCtxMem (c / 128) (slotOff c d.dtype h.chunk)
    (elemBytes (accSize d.dtype) (List.replicate d.chunkElems (initValue d.dtype d.init)))

/-- COLL_DATA_RECEIVE: the oldest packet, where it is a chunk. -/
def State.engineData (s : State) (e : Nat) : State :=
  let s := s.checkControl e
  match s.takeEngine e fun a => a.pkt.hdr.op == opCollData with
  | none => s
  | some (a, s) =>
    let h := chunkHdr a.pkt
    let c := h.ctx
    let k := s.ctx c
    if c / 128 ≠ e ∨ k.st = .free ∨ k.job ≠ a.pkt.job then s.sdStray e a
    else if k.st = .failed then s.sdDisc e a
    else match k.desc with
    | none => (s.failCtx c fcPoisoned).commitArrival a
    | some d =>
      if !s.dataOk e k d a.pkt then (s.failCtx c fcPoisoned).commitArrival a
      else
        let s := if (chunkSlot k h.chunk).isSome then s else s.openSlot c d h
        let k := s.ctx c
        if k.st = .failed then s.commitArrival a
        else
          let s := s.setCtx c { k with
            nextIn := mset 0 k.nextIn h.inIdx (h.chunk + 1),
            slots := updFirst (fun t => t.chunk == h.chunk) (fun t => { t with holds := t.holds ++ [a] }) k.slots }
          let w : Accepted := { e := e, c := c, arr := a }
          { s with accepted := s.accepted ++ [w] }

/-! ### HANDLER_RUN (R146, R149 to R152) -/

/-- One operation of a handler. `size` is the record size the context has by then. -/
def State.runOp (s : State) (e c : Nat) (d : CtxDesc) (h : ChunkHdr) (body : List Byte) (op : Nat) (k : Work)
    (size : Option Nat) : OpRes :=
  let code := nbits op 24 8
  if code = sopNop then .ok k
  else if !opAllowed d.dtype code then .fault fcDenied
  else if isRecordOp code then
    if (size.map fun z => z != recordBytes op).getD false then .fault fcDenied
    else
      let l := if code = sopGather then nbits (d.k.getD 0 0).toNat 0 13 else 0
      let at3 := 0x10000 * (c % 128) + 0xC000
      if l * recordBytes op ≤ 15296 ∧ (s.ueIn (.ctx e) at3 (4 * l)).isSome then .fault fcEccUe
      else k.record op h.elems d.k body (elemsOf 4 l (rdBytes s.ctxMem (e * 2 ^ 23 + at3) (4 * l)))
  else .ok (k.arith code d.dtype (initValue d.dtype d.init)
    (operands d.dtype (d.inTypes.getD h.inIdx 0) h.elems body))

/-- The operations of a handler in order. -/
def State.runOps (s : State) (e c : Nat) (d : CtxDesc) (h : ChunkHdr) (body : List Byte) :
    List Nat → Work → Option Nat → OpRes × Option Nat
  | [], k, z => (.ok k, z)
  | op :: r, k, z =>
    match s.runOp e c d h body op k z with
    | .fault f => (.fault f, z)
    | .ok k => State.runOps s e c d h body r k (if isRecordOp (nbits op 24 8) then some (recordBytes op) else z)

/-- The handler of an accepted packet on its chunk slot. -/
def State.runHandler (s : State) (e c : Nat) (d : CtxDesc) (t : ChunkSlot) (p : Packet) : OpRes :=
  let h := chunkHdr p
  let off := slotOff c d.dtype h.chunk
  let used := if d.dtype = dtRaw then t.recs * t.recSize else accSize d.dtype * d.chunkElems
  let ops := s.handlerOps e d.dtype 16 d.handler
  if (s.ueIn (.prog e) (64 * d.handler) (64 * ops.2.2)).isSome || (s.ueIn (.ctx e) off used).isSome then .fault fcEccUe
  else
    let k : Work := { bytes := rdBytes s.ctxMem (e * 2 ^ 23 + off) used, recs := t.recs, recSize := t.recSize,
                      flags := t.flags ||| h.flags, exact := t.exact }
    match s.runOps e c d h (chunkBody p) ops.1 k none with
    | (.fault f, _) => .fault f
    | (.ok k, z) => if !ops.2.1 || (d.dtype == dtRaw && z.isNone) then .fault fcDenied else .ok k

/-- HANDLER_RUN: the handler of the packet accepted first. -/
def State.handlerRun (s : State) (e : Nat) : State :=
  let s := s.checkControl e
  match takeFirst (fun (a : Accepted) => a.e == e) s.accepted with
  | none => s
  | some (a, rest) =>
    let c := a.c
    let h := chunkHdr a.arr.pkt
    let k := s.ctx c
    match k.desc, chunkSlot k h.chunk with
    | some d, some t =>
      (match s.runHandler e c d t a.arr.pkt with
       | .fault f => State.failCtx { s with accepted := rest } c f
       | .ok w =>
         let off := slotOff c d.dtype h.chunk
         let s := State.healed { s with accepted := rest, ctxMem := wrBytes s.ctxMem (e * 2 ^ 23 + off) w.bytes } (.ctx e) off
           w.bytes.length
         s.setCtx c { k with
           flags := k.flags ||| w.flags.zeroExtend 5,
           slots := updFirst (fun t => t.chunk == h.chunk) (fun t =>
             { t with handled := t.handled + 1, recs := w.recs, recSize := w.recSize, flags := w.flags,
                      exact := w.exact }) k.slots })
    | _, _ => { s with accepted := rest }

/-! ### CHUNK_EMIT (R153 to R156) -/

/-- Whether a context can emit its lowest chunk. Fewer than four messages without COMPLETE is R153's bound; it is kept as it is
where the output context is raw, for which R156 allows a sender three (DESIGN CHOICE, log entry 142). -/
def State.emitReady (s : State) (c : Nat) : Bool :=
  let k := s.ctx c
  match k.desc with
  | none => false
  | some d =>
    k.st == .active && ((chunkSlot k k.base).map fun t => decide (d.nIn ≤ t.handled)).getD false && k.outst.length < 4
      && (s.freeSlot d.outDev).isSome

/-- Rounding mode codes of a descriptor (Table 6.1). -/
def roundOf (m : Nat) : Round := if m = 1 then .rtz else if m = 2 then .sr else .rne

/-- The elements of an outgoing chunk: bytes, count, wire type and flags. A final narrowing that gives infinity, from
whatever element, sets overflow (R150). -/
def State.emitData (s : State) (c : Nat) (d : CtxDesc) (t : ChunkSlot) : List Byte × Nat × Nat × BitVec 4 :=
  let off := (c / 128) * 2 ^ 23 + slotOff c d.dtype t.chunk
  if d.dtype = dtRaw then (rdBytes s.ctxMem off (t.recs * t.recSize), t.recs, 5, t.flags)
  else
    let size := accSize d.dtype
    let es := elemsOf size t.elems (rdBytes s.ctxMem off (size * t.elems))
    if d.final then
      let out := es.zipIdx.map fun x =>
        let r := srBits d.seed d.step d.collSeq (t.chunk * d.chunkElems + x.2)
        Fmt.f32.convert (Fmt.f64.decode x.1) (roundOf d.rmode) false r
      let ovf := out.any fun w => (Fmt.f32.decode w).isInf
      (elemBytes 4 out, t.elems, 0, t.flags ||| if ovf then flOverflow else 0)
    else
      let big := t.exact.any fun x => x.1 < t.elems && (x.2 < -(2 ^ 31) || 2 ^ 31 ≤ x.2)
      (elemBytes size es, t.elems, (wireType d.dtype 0).getD 0, t.flags ||| if big then flIovf else 0)

/-- The emission of the lowest chunk of a context. -/
def State.emit (s : State) (c : Nat) : State :=
  let k := s.ctx c
  match k.desc, chunkSlot k k.base with
  | some d, some t =>
    let e := c / 128
    let (body, count, wtype, flags) := s.emitData c d t
    let read := if d.dtype = dtRaw then t.recs * t.recSize else accSize d.dtype * t.elems
    if (s.ueIn (.ctx e) (slotOff c d.dtype t.chunk) read).isSome then s.failCtx c fcEccUe
    else match s.freeSlot d.outDev with
    | none => s
    | some slot =>
      let h : ChunkHdr := { ctx := d.outCtx, inIdx := d.outIdx, last := t.chunk + 1 == d.nChunks, mm := false, flags := flags,
                            wtype := wtype, seq := k.seq, chunk := t.chunk, elems := count, crc := 0 }
      let size := if wtype = 1 then 8 else 4
      let addr := if d.dtype = dtRaw then d.outAddr else (d.outAddr + t.chunk * d.chunkElems * size) % 2 ^ 48
      let id := s.nextId
      let s := (s.newMsg (.engine c) (some d.outDev)).openMsg id d.outDev slot
      let s := s.attachPkt (s.engineSlot e) (some id) none
        { hdr := { PktHdr.zero opCollData with
                     dstDev := d.outDev, dstEp := d.outEp, srcDev := s.selfDev, srcEp := d.selfEp, flow := c,
                     msgBytes := 32 + body.length, addr := addr },
          vc := 2, tc := d.outTc % 8, job := k.job, tag := 0, abt := false, data := chunkData h body }
      let s := t.holds.foldl State.commitArrival s
      s.setCtx c { k with base := k.base + 1, outst := k.outst ++ [id], flags := k.flags ||| flags.zeroExtend 5,
                          slots := k.slots.filter fun x => x.chunk != t.chunk }
  | _, _ => s

/-- CHUNK_EMIT: the next ready context in round robin by local index. -/
def State.chunkEmit (s : State) (e : Nat) : State :=
  let s := s.checkControl e
  match (rotated 128 (mget 0 s.rrEmit e)).find? fun i => s.emitReady (128 * e + i) with
  | none => s
  | some i => State.emit { s with rrEmit := mset 0 s.rrEmit e ((i + 1) % 128) } (128 * e + i)

/-! ### ENGINE_COMPLETE_RECEIVE (R138) -/

/-- A COMPLETE for a message of context `c`. -/
def State.ctxCompleted (s : State) (c id : Nat) : State :=
  let k := s.ctx c
  if !k.outst.contains id then s
  else
    let k := { k with outst := k.outst.filter (· != id) }
    let s := s.setCtx c k
    if k.st = .active ∧ k.outst = [] ∧ (k.desc.map fun d => decide (d.nChunks ≤ k.base)).getD false then s.freeCtx c k.pend
    else s

/-- ENGINE_COMPLETE_RECEIVE: the oldest packet, where it is a COMPLETE. One that matches no outstanding message is
ignored. The message is found among all that the device sent, so a COMPLETE that reaches another engine than the one whose
context sent the message (self_ep may name any) completes it there (DESIGN CHOICE, log entry 135). -/
def State.engineComplete (s : State) (e : Nat) : State :=
  let s := s.checkControl e
  match s.takeEngine e fun a => a.pkt.hdr.op == opComplete with
  | none => s
  | some (a, s) =>
    match s.messageOf a.pkt.hdr with
    | none => s
    | some m =>
      let s := s.closeMsg m
      match m.owner with
      | .engine c => s.ctxCompleted c m.id
      | o => s.ownerDone o

/-! ### SDn commands (R159, R162) -/

/-- Contexts of stream die `n` that a job holds. -/
def State.jobCtxs (s : State) (n job : Nat) : List Nat :=
  ((List.range 512).map (512 * n + ·)).filter fun c => (s.ctx c).st != .free && (s.ctx c).job == job

/-- A write to SDn_JOBCMD. -/
def State.writeSdJobcmd (s : State) (n : Nat) (w : Word) : State :=
  let cmd := wfld w 31 30
  let code := wfld w 23 16
  let job := wfld w 11 0
  if cmd = 1 then
    (if code = 0 ∨ 0x0B < code then s else (s.jobCtxs n job).foldl (fun s c => s.failCtx c code) s)
  else if cmd = 2 then
    (s.jobCtxs n job).foldl (fun s c => (s.dropChunks c).freeCtx c none) s
  else s

/-- A program word stored; it is marked valid by R144 and R316. -/
def State.storeProg (s : State) (e w v : Nat) : State :=
  let ok := progWordOk v
  let s := { s with prog := mset 0 s.prog (1024 * e + w) (BitVec.ofNat 512 v),
                    progValid := mset false s.progValid (1024 * e + w) ok }
  let s := s.healed (.prog e) (64 * w) 64
  if ok then s else s.raise (R.sdCause (e / 4)) 2

/-- A write to SDn_PROGCMD (Table 6.13). -/
def State.writeProgcmd (s : State) (n : Nat) (v : Word) : State :=
  let rd := wbit v 0
  let wr := wbit v 1
  let e := 4 * n + s.fld (R.sdProgsel n) 31 30
  let w := s.fld (R.sdProgsel n) 9 0
  if !rd && !wr then s
  else if rd && wr then s.raise (R.sdCause n) 2
  else
    let s := if wr then
        s.storeProg e w (leNat ((List.range 16).flatMap fun k => leBytes 4 (s.reg (R.sdProgdata n k)).toNat))
      else (List.range 16).foldl (fun s k =>
        s.setReg (R.sdProgdata n k) (BitVec.ofNat 32 (nbits (s.progWord e w) (32 * k) 32))) s
    s.setReg (R.sdProgval n) (atFld 0 0 (bnat (s.progOk e w)))

/-- A read or write of SDn_CMDATA: the addressed word, then the next address (Table 6.15), 0 of the same engine after the last
(DESIGN CHOICE, log entry 143). An uncorrectable word returns no data the spec states. -/
def State.accessCmdata (s : State) (n : Nat) (write : Bool) (v : Word) : State :=
  let sel := s.reg (R.sdCmsel n)
  let e := 4 * n + wfld sel 31 30
  let a := 4 * wfld sel 22 2
  let s :=
    if write then s.writeCtxMem e a (leBytes 4 v.toNat)
    else match s.ueIn (.ctx e) a 4 with
      | some w => State.ctxUe (State.drawn { s with busData := Config.freeWord s.freeCtr }) e w
      | none => { s with busData := BitVec.ofNat 32 (leNat (rdBytes s.ctxMem (e * 2 ^ 23 + a) 4)) }
  s.setReg (R.sdCmsel n) (setFld sel 22 2 (a / 4 + 1))

end Sys2Proof.Machine
end

