-- ==== Sys2Proof/Machine/BlockWrite.lean ====
section
/-!
DEFINITION. Register writes by block (R8 to R11, R22; the register maps R76, R114, R129, R162, R196, R227, R253, R267,
R291, R312, R313): what a write to each register of a block does. A register without an action of its own stores the
value by its access type; unlisted offsets ignore it.
-/

namespace Sys2Proof.Machine

/-- A write to a cause register: its records clear once every cause bit that guards them is clear. -/
def State.writeCause (s : State) (r : Reg) (w : Word) (guards : List Nat) (records : List Reg) : State :=
  let s := s.writeReg r w
  if guards.any fun b => s.bit r b then s else records.foldl (fun s q => s.setReg q 0) s

def State.writePortCause (s : State) (n : Nat) (w : Word) : State :=
  s.writeCause (R.portCause n) w [0, 3] [R.portFault n]

def State.writeSdCause (s : State) (n : Nat) (w : Word) : State := s.writeCause (R.sdCause n) w [0] [R.sdFault n]

def State.writeMemcause (s : State) (n : Nat) (w : Word) : State :=
  s.writeCause (R.tdMemcause n) w [1, 2] [R.tdMemfault0 n, R.tdMemfault1 n, R.tdMemfault2 n]

def State.writeSemcause (s : State) (n : Nat) (w : Word) : State :=
  s.writeCause (R.tdSemcause n) w [0] [R.tdSemfault0 n, R.tdSemfault1 n, R.tdSemfault2 n]

def State.writeCollcause (s : State) (n : Nat) (w : Word) : State :=
  s.writeCause (R.tdCollcause n) w [0] [R.tdCollfault n]

def State.writeCoreCause (s : State) (u : Nat) (w : Word) : State :=
  s.writeCause (R.tdCCause u) w [0] [R.tdCFault0 u, R.tdCFault1 u, R.tdCFault2 u, R.tdCFault3 u]

def State.writeTimeCause (s : State) (w : Word) : State := s.writeCause R.timeCause w [3] [R.timeFault]

def State.writeDspCause (s : State) (w : Word) : State := s.writeCause R.dspCause w [1, 2] [R.dspFault]

def State.writeXbarCause (s : State) (w : Word) : State := s.writeCause R.xbarCause w [1] [R.xbarFault]

/-- A register of a map that only stores. -/
def State.storeAt (s : State) (r : Option Reg) (w : Word) : State :=
  match r with
  | some r => s.writeReg r w
  | none => s

/-- The XBAR window (R65, R68, R71, R76). -/
def State.writeXbarWin (s : State) (o : Nat) (w : Word) : State :=
  if o = 0x0 then s.writeXbarCtl w
  else if o = 0x4 then s.writeCpmin w
  else if o = 0x18 then s.writeXbarCause w
  else if 0x400 ≤ o ∧ o < 0x600 then s.writeOutctl ((o - 0x400) / 4) w
  else if 0x10000 ≤ o ∧ o < 0x18000 then s.writeMcg ((o - 0x10000) / 0x20) ((o - 0x10000) % 0x20) w
  else s.storeAt (regAtXbar o) w

/-- The BPM window (R286, R290, R291). -/
def State.writeBpmWin (s : State) (o : Nat) (w : Word) : State :=
  if o = 0x0 then s.writeBpmCtl w
  else if o = 0x8 then s.writeBpmReq w
  else match regAtBpm o with
  | none => s
  | some r => if 0x100 ≤ o ∧ (o - 0x100) % 0x40 ≠ 0x14 then s.writePoolReg r w else s.writeReg r w

/-- A write to TIME_CTL: a parent that is no longer valid leaves the unit without usable ECHOs (R302), and a device without
a parent does not keep locked (R300); a root shows it while it is loaded (R304). -/
def State.writeTimeCtl (s : State) (w : Word) : State :=
  let had := s.parentLane.isSome
  let s := s.writeReg R.timeCtl w
  let s := if s.parentLane.isNone then s.setTime { s.time with locked := false } else s
  if had && s.parentLane.isNone && !s.isRoot then s.enterHoldover else s

/-- The TIME window (R304, R305, R312). -/
def State.writeTimeWin (s : State) (o : Nat) (w : Word) : State :=
  if o = 0x0 then s.writeTimeCtl w
  else if o = 0x20 then s.writeTimeCmd w
  else if o = 0x30 then s.writeTimeCause w
  else if 0x1000 ≤ o ∧ o < 0x3000 then
    let b := (o - 0x1000) / 0x80
    let p := (o - 0x1000) % 0x80
    if p = 0 then s.writeShutCfg b w
    else match regAtTime o with
    | some r => if p = 0x8 then s.writeReg r w else s.writeShutReg b r w
    | none => s
  else s.storeAt (regAtTime o) w

/-- The window of port die `n` (R78, R86, R101, R104, R108, R114, R127, R129). The device ID and the salt are one for
the device. -/
def State.writePortWin (s : State) (n o : Nat) (w : Word) : State :=
  if o < 0x18 ∧ o % 4 = 0 then s.writeSlotcfg n (o / 4) w
  else if o = 0x20 then s.writePortCause n w
  else if o = 0x28 then s.writeReg (R.portSelf 0) w
  else if o = 0x2c then s.writeReg (R.portSaltLo 0) w
  else if o = 0x30 then s.writeReg (R.portSaltHi 0) w
  else if o = 0x44 then s.writeTblcmd n w
  else if 0x100 ≤ o ∧ o < 0x700 ∧ (o - 0x100) % 0x40 = 0 then
    let l := (o - 0x100) / 0x40
    s.watchLink (s.writePortCfg n l w) n l
  else if 0x800 ≤ o ∧ o < 0xe00 ∧ (o - 0x800) % 0x40 = 0x3c then s.writeEthCtl n ((o - 0x800) / 0x40) w
  else if o = 0x22800 then s.writeHistsel n w
  else if o = 0x22804 then s.writeHistclr n w
  else s.storeAt (regAtPort n o) w

/-- The window of stream die `n` (R144, R159, R162). -/
def State.writeSdWin (s : State) (n o : Nat) (w : Word) : State :=
  if o = 0x0 then s.writeSdCause n w
  else if o = 0x8 then s.writeSdJobcmd n w
  else if o = 0x14 then s.writeProgcmd n w
  else if o = 0x84 then s.accessCmdata n true w
  else s.storeAt (regAtSd n o) w

/-- The core window of core `u` at offset `p` of its block. -/
def State.writeCoreWin (s : State) (u p : Nat) (r : Option Reg) (w : Word) : State :=
  if p = 0x4 then s.writeStart u w
  else if p = 0x8 then s.writeCoreCmd u w
  else if p = 0x10 then s.writeCoreCause u w
  else s.storeAt r w

/-- The window of tile die `n` (R196, R204, R205, R227, R253, R267, R276, R280, R291, R313). -/
def State.writeTdWin (s : State) (n o : Nat) (w : Word) : State :=
  if o = 0x0 then s.writeMemcause n w
  else if o = 0x20 then s.writeAtuInv n w
  else if o = 0x30 then s.writePgcmd n w
  else if 0x100 ≤ o ∧ o < 0x300 then s.storeAt (regAtTd 0 o) w
  else if 0x80000 ≤ o ∧ o < 0xc0000 then
    s.writeCoreWin (4 * n + (o - 0x80000) / 0x10000) (o % 0x10000) (regAtTd n o) w
  else if o = 0xc0000 then s.writeCollcause n w
  else if o = 0xc0008 then s.writeColljobcmd n w
  else if 0xd0000 ≤ o ∧ o < 0xd0400 ∧ o % 0x100 = 0x0 then
    let u := 4 * n + (o - 0xd0000) / 0x100
    (s.writeReg (R.tdCMflag u) w).clearSticky u (BitVec.ofNat 5 (w.toNat % 8 * 4))
  else if 0xd0000 ≤ o ∧ o < 0xd0400 ∧ o % 0x100 = 0x4 then
    let u := 4 * n + (o - 0xd0000) / 0x100
    (s.writeReg (R.tdCVflag u) w).clearSticky u (BitVec.ofNat 5 (w.toNat % 4))
  else if o = 0xe0000 then s.writeSemcause n w
  else if o = 0xe0014 then s.writeSemdata n w
  else s.storeAt (regAtTd n o) w

end Sys2Proof.Machine
end

