-- ==== Sys2Proof/Machine/Mailbox.lean ====
section
/-!
DEFINITION. Mailboxes and events (spec/15_management_interface.md, R352, R355 to R359, R366): doorbells, the start of a
command, its checks in the order of Table 15.6, and its answer.
-/

namespace Sys2Proof.Machine

/-! ### Device states and events (R352, R366) -/

/-- Table 15.4. -/
def DevState.code : DevState → Nat
  | .off => 0 | .rom => 1 | .loaded => 2 | .configured => 3 | .running => 4 | .draining => 5 | .faulted => 6

/-- Table 14.1. -/
def JobState.code : JobState → Nat
  | .off => 0 | .ready => 1 | .running => 2 | .eval => 3 | .draining => 4 | .failed => 5

/-- A change of the device state, with its event. -/
def State.setDev (s : State) (d : DevState) : State := State.raise { s with dev := d } R.devEvent 0

/-- An event of a job slot: its bit in the map, then the event bit. -/
def State.slotEvent (s : State) (bit slot : Nat) : State :=
  (s.raise (if slot < 32 then R.devEvjob0 else R.devEvjob1) (slot % 32)).raise R.devEvent bit

def evJob : Nat := 1
def evDrain : Nat := 2
def evMirror : Nat := 3

/-! ### Mailbox memory and doorbells (R355, R356) -/

def mbxAddr (m o : Nat) : Nat := 4096 * m + o

/-- `n` bytes of mailbox `m` from offset `o`, as a number. -/
def State.mbxNum (s : State) (m o n : Nat) : Nat := leNat (rdBytes s.mbx (mbxAddr m o) n)

/-- The argument area of a mailbox: bytes from 16 on. -/
def State.argNum (s : State) (m o n : Nat) : Nat := s.mbxNum m (16 + o) n
def State.argBytes (s : State) (m o n : Nat) : List Byte := rdBytes s.mbx (mbxAddr m (16 + o)) n
def State.argLength (s : State) (m : Nat) : Nat := s.mbxNum m 4 4

def State.mbxBusy (s : State) (m : Nat) : Bool := s.bit R.devMbxBusy m
def State.mbxDone (s : State) (m : Nat) : Bool := s.bit R.devMbxDone m

/-- Saturating count in a 32-bit register. -/
def State.countSat (s : State) (r : Reg) : State := if s.reg r = 0xFFFFFFFF then s else s.count r

/-- A doorbell for mailbox m. -/
def State.ringBell (s : State) (m : Nat) : State :=
  if s.mbxBusy m || s.mbxDone m then s.countSat R.devMbxDberr
  else
    let s := s.raise R.devMbxBusy m
    { s with mgmt := { s.mgmt with doorbells := s.mgmt.doorbells ++ [m] } }

/-- A write to DEV_MBX_DB: its doorbells ring in ascending order. -/
def State.writeMbxDb (s : State) (w : Word) : State := (setBits 16 w.toNat).foldl State.ringBell s

/-- A controller's write of mailbox memory, ignored while the mailbox is busy. -/
def State.writeMbx (s : State) (o : Nat) (w : Word) : State :=
  if s.mbxBusy (o / 4096) then s else { s with mbx := wrBytes s.mbx o (leBytes 4 w.toNat) }

/-- Opcodes of Table 15.7. -/
def mbxOps : List Nat :=
  [0x0001, 0x0002, 0x0003, 0x0004, 0x0010, 0x0011, 0x0012, 0x0013, 0x0014, 0x0015, 0x0020, 0x0021, 0x0022, 0x0023, 0x0030,
   0x0031, 0x0032, 0x0033, 0x0034, 0x0035, 0x0036, 0x0040, 0x0041, 0x0042, 0x0043, 0x0050, 0x0051]

/-- Whether a mailbox is served: not in OFF, and not between the start of the management cores and Hyzacia's first
answer. -/
def State.mbxServed (s : State) : Bool := s.dev != .off && !(s.dev == .rom && s.sec.phase == .started)

/-- The start of the command in mailbox m: its doorbell rings now unless it rang before, and it is the next to start
(R357). None where it is not, or where the opcode is not one that `is` takes. -/
def State.mbxStart (s : State) (m : Nat) (is : Nat → Bool) : Option State :=
  let s := if s.mbxBusy m || s.mbxDone m then s else s.ringBell m
  match s.mgmt.doorbells with
  | h :: rest =>
    if h = m ∧ m < 16 ∧ s.mbxServed ∧ is (s.mbxNum m 0 2) then
      some { s with mgmt := { s.mgmt with doorbells := rest } }
    else none
  | [] => none

/-! ### Answers (R356, R358) -/

def stOk : Nat := 0
def stBadOpcode : Nat := 1
def stBadArg : Nat := 2
def stBadState : Nat := 3
def stBusy : Nat := 4
def stDenied : Nat := 5
def stFaulted : Nat := 6

/-- The end of a command: results, status, detail and rlength written, busy cleared and done set in one step. -/
def State.reply (s : State) (m status detail : Nat) (res : List Byte) : State :=
  let res := res.take 4080
  let head := leBytes 2 status ++ leBytes 2 detail ++ leBytes 4 res.length
  let mbx := wrBytes (wrBytes s.mbx (mbxAddr m 8) head) (mbxAddr m 16) res
  let s := { s with mbx := mbx, mgmt := { s.mgmt with running := s.mgmt.running.filter fun r => r.m != m } }
  (s.lower R.devMbxBusy m).raise R.devMbxDone m

def State.ok (s : State) (m : Nat) (res : List Byte) : State := s.reply m stOk 0 res

/-- BAD_STATE: counted, with the device's and the slot's state. -/
def State.badState (s : State) (m slotCode : Nat) : State :=
  (s.countSat R.devBadstate).reply m stBadState (s.dev.code + 256 * slotCode) []

/-- A command that does not end at its start. -/
def State.keepRunning (s : State) (m op : Nat) (excl : Bool) : State :=
  { s with mgmt := { s.mgmt with running := s.mgmt.running ++ [{ m := m, op := op, exclusive := excl }] } }

/-- Whether an exclusive command is in progress (R357). -/
def State.exclusive (s : State) : Bool := s.mgmt.running.any fun r => r.exclusive

/-- What the checks of Table 15.6 find for a command. -/
structure Checks where
  /-- BAD_ARG before the state is looked at: offset of the first bad field -/
  arg : Option Nat
  /-- the device states that accept it -/
  states : List DevState
  /-- the job slot it is judged by, with the slot states that accept it -/
  slot : Option (Nat × List JobState)
  /-- its further conditions of Table 15.7 -/
  more : Bool
  excl : Bool
  /-- another reason for BUSY -/
  busy : Bool
  /-- BAD_ARG that depends on the configuration: its detail -/
  conf : Option Nat
  denied : Bool

def devAll : List DevState := [.rom, .loaded, .configured, .running, .draining, .faulted]
def devFw : List DevState := [.loaded, .configured, .running, .draining]

/-- Checks of a command without special conditions. -/
def Checks.plain (arg : Option Nat) (states : List DevState) : Checks :=
  { arg := arg, states := states, slot := none, more := true, excl := false, busy := false, conf := none, denied := false }

/-- The first field that fails, by rising offset; `(offset, bad)`. -/
def firstBad (fs : List (Nat × Bool)) : Option Nat := (fs.find? fun f => f.2).map (·.1)

/-- A command's checks in the order of Table 15.6, and its work where all hold. In FAULTED the mailbox block itself answers
with BAD_STATE what it does not serve (R359). -/
def State.checked (s : State) (m : Nat) (c : Checks) (go : State → State) : State :=
  let slotCode := match c.slot with
    | some (j, _) => (s.job j).st.code
    | none => 0
  if s.dev = .faulted ∧ !c.states.contains .faulted then s.badState m slotCode
  else match c.arg with
  | some d => s.reply m stBadArg d []
  | none =>
    let slotOk := match c.slot with
      | some (j, sts) => sts.contains (s.job j).st
      | none => true
    if !c.states.contains s.dev || !slotOk || !c.more then s.badState m slotCode
    else if s.exclusive || (c.excl && !s.mgmt.running.isEmpty) || c.busy then s.reply m stBusy 0 []
    else match c.conf with
    | some d => s.reply m stBadArg d []
    | none => if c.denied then s.reply m stDenied 0 [] else go s

/-- The row of an opcode: the command in mailbox m starts, is checked, and does its work. -/
def State.command (s : State) (m op : Nat) (chk : State → Checks) (go : State → State) : State :=
  match s.mbxStart m (· == op) with
  | none => s
  | some s => s.checked m (chk s) go

/-- BAD_OPCODE. -/
def State.badOpcode (s : State) (m : Nat) : State :=
  match s.mbxStart m fun op => !mbxOps.contains op with
  | none => s
  | some s => s.reply m stBadOpcode 0 []

/-- DOORBELL_IGNORED. -/
def State.doorbellIgnored (s : State) (m : Nat) : State :=
  if m < 16 ∧ (s.mbxBusy m ∨ s.mbxDone m) then s.ringBell m else s

end Sys2Proof.Machine
end

