-- ==== Sys2Proof/Machine/Jobs.lean ====
section
/-!
DEFINITION. Job slots (spec/14_steps_and_serving.md, R325 to R332; spec/07_collectives.md, R192;
spec/15_management_interface.md, R360, R363): job faults and notices, begins, drains, checkpoint mirrors, and the
servicing of fault causes by Hyzacia.
-/

namespace Sys2Proof.Machine

def State.updJob (s : State) (j : Nat) (f : Job → Job) : State := s.setJob j (f (s.job j))

/-- A job slot enters a state; the time of a change goes to the contact sheet (R367). -/
def State.jobState (s : State) (j : Nat) (st : JobState) : State :=
  s.updJob j fun k => { k with st := st, changed := (if k.st = st then k.changed else s.time.now) }

/-- A step counter written; the tallies of a slot clear when it changes (R386). -/
def State.setStep (s : State) (j : Nat) (step : Dword) : State :=
  s.updJob j fun k => { k with step := step, changed := (if k.step = step then k.changed else s.time.now),
                               tally := (if k.step = step then k.tally else []) }

/-- The cores of a slot's core mask, in ascending order. -/
def State.jobCores (s : State) (j : Nat) : List Nat := (setBits 80 (s.job j).cores).filter s.hasCore

/-! ### Notices between devices (R363) -/

/-- The devices that the rank map of a job slot names. -/
def State.jobDevices (s : State) (j : Nat) : List Nat :=
  let ranks := wfld (s.active.word 1 0 j 1) 20 0
  let devs := (List.range (cdiv ranks 1024)).flatMap fun b =>
    let e := s.active.word 2 j b 0
    let perDev := wfld e 30 20
    if !wbit e 31 || perDev == 0 then []
    else
      let q := wfld e 9 0
      let last := q + min 1023 (ranks - 1 - 1024 * b)
      (List.range (last / perDev + 1 - q / perDev)).map fun i => wfld e 19 10 + q / perDev + i
  (devs.filter (· < 1024)).dedup

/-- An MGMT_MSG to a device of a job. -/
def State.sendMgmt (s : State) (job dev : Nat) (body : List Byte) : State :=
  s.attachPkt s.mgmtSlot none none
    { hdr := { PktHdr.zero opMgmtMsg with dstDev := dev, dstEp := 1023, srcDev := s.selfDev, srcEp := 1023 },
      vc := 3, tc := ownClass, job := job, tag := 0, abt := false, data := body }

/-- Table 15.10. -/
def State.mgmtBody (s : State) (j type code : Nat) : List Byte :=
  leBytes 1 type ++ leBytes 1 code ++ leBytes 2 (s.job j).job ++ leBytes 2 s.selfDev ++ leBytes 2 0
    ++ leBytes 8 (s.job j).step.toNat ++ leBytes 8 s.time.now.toNat ++ leBytes 8 0

/-- A message to every device of a job but this one. -/
def State.sendToJob (s : State) (j : Nat) (body : List Byte) : State :=
  (s.jobDevices j).foldl (fun s d => if d = s.selfDev then s else s.sendMgmt (s.job j).job d body) s

/-! ### Checkpoint mirrors (R331, R332) -/

/-- A mirror ends: its mailbox is answered and the event set. -/
def State.endMirror (s : State) (j : Nat) (code : Nat) (res : List Byte) : State :=
  match (s.job j).mirror with
  | none => s
  | some m =>
    let own := s.msgs.filter fun x => x.owner == .mirror j
    let s := own.foldl (fun s x => s.dropMsg x.id) s
    let s := (s.updJob j fun k => { k with mirror := none }).slotEvent evMirror j
    if code = 0 then s.ok m.mbx res else s.reply m.mbx stFaulted code []

/-! ### Job faults (R192, R327) -/

/-- A code recorded under R327: the first one is kept, and a slot at work or at a boundary moves to FAILED
in every device state, as R327 and Table 14.1 say: that in CONFIGURED every slot is OFF or READY (R352) is read of the slots as
they enter that state (DEDUCED, log entry 66). -/
def State.recordJobFault (s : State) (j code : Nat) : State :=
  let s := s.updJob j fun k => { k with code := if k.code = 0 then code else k.code }
  let st := (s.job j).st
  if st = .ready ∨ st = .running ∨ st = .eval then (s.jobState j .failed).slotEvent evJob j else s

/-- What a device does for a notice (R192, R283, R363): contexts fail and collectives are aborted on every die; where a
slot holds the job, pager work is aborted, the code is recorded, and a mirror of the job ends. -/
def State.applyNotice (s : State) (job code : Nat) : State :=
  let s := (List.range 8).foldl (fun s n => s.writeSdJobcmd n (atFld 31 30 1 ||| atFld 23 16 code ||| atFld 11 0 job)) s
  let s := (List.range s.tiles).foldl (fun s n => s.abortColls n job code) s
  match s.slotOfJob job with
  | none => s
  | some j =>
    let s := (List.range s.tiles).foldl (fun s n => s.abortPager n j) s
    (s.recordJobFault j code).endMirror j code []

/-- Hyzacia records a job-ending fault of a job: applied here, and sent to the job's devices (R192, R107). Every fault
it records sends its notice, also where the slot keeps an earlier code. A job that no slot holds has no devices. -/
def State.jobFault (s : State) (job code : Nat) : State :=
  let old := s.slotOfJob job
  let s := s.applyNotice job code
  match old with
  | none => s
  | some j => s.sendToJob j (s.mgmtBody j 1 code)

/-- JOB_FAULT_NOTICE: the first firmware message that is no ballot. Types that Table 15.10 does not list are
discarded. -/
def State.jobFaultNotice (s : State) : State :=
  if !s.firmware then s
  else match s.takeArrival s.mgmtSlot fun a => a.pkt.hdr.op == opMgmtMsg && a.unit == 0 && leAt a.pkt.data 0 1 != 2 with
  | none => s
  | some (a, s) =>
    let b := a.pkt.data
    let code := leAt b 1 1
    if leAt b 0 1 ≠ 1 ∨ code = 0 ∨ 0x0B < code then s
    else s.applyNotice (leAt b 2 2 % 4096) code

/-! ### Servicing fault causes (R365, R192, R107, R74) -/

/-- Jobs marked in a map of 128 words. -/
def State.marked (s : State) (word : Nat → Reg) : List Nat :=
  (List.range 128).flatMap fun w => (setBits 32 (s.reg (word w)).toNat).map (32 * w + ·)

def State.clearMarks (s : State) (word : Nat → Reg) : State := (List.range 128).foldl (fun s w => s.setReg (word w) 0) s

/-- A place at which a job-ending fault waits for Hyzacia. -/
inductive FaultSite where
  | core (u : Nat)
  | sd (n : Nat)
  | mem (n : Nat)
  | sem (n : Nat)
  | coll (n : Nat)
  | time
  | dsp
  deriving DecidableEq, Repr

/-- Whether a notice for a fault of a unit of tile die n is still to be sent. -/
def State.owes (s : State) (k : OwedAt) (n : Nat) : Bool := s.owed.any fun o => o.site == k && o.n == n

/-- The sites whose cause is set, or that owe a notice. What the scrub or a move by Hyzacia found has no job, and an aborted
collective ends a job only where it ended with POISONED by its own checks or by its done result: the other codes come from
faults recorded elsewhere, or end no job. Hyzacia takes every fault that ends a job, also one that the record register of its
unit does not hold (log entry 131). -/
def State.faultSites (s : State) : List FaultSite :=
  ((List.range (4 * s.tiles)).filter fun u => s.bit (R.tdCCause u) 0).map .core
    ++ ((List.range 8).filter fun n => s.bit (R.sdCause n) 0).map .sd
    ++ ((List.range s.tiles).filter fun n => s.bit (R.tdMemcause n) 1 || s.bit (R.tdMemcause n) 2 || s.owes .mem n).map .mem
    ++ ((List.range s.tiles).filter fun n => s.bit (R.tdSemcause n) 0 || s.owes .sem n).map .sem
    ++ ((List.range s.tiles).filter fun n => s.bit (R.tdCollcause n) 0 || s.owes .coll n).map .coll
    ++ (if s.bit R.timeCause 3 then [.time] else [])
    ++ (if s.bit R.dspCause 1 || s.bit R.dspCause 2 then [.dsp] else [])

/-- The code with which a context of a job failed on a stream die. -/
def State.ctxCode (s : State) (n job : Nat) : Nat :=
  match (s.jobCtxs n job).find? fun c => (s.ctx c).st == .failed with
  | some c => (s.ctx c).code
  | none => fcDenied

/-- Hyzacia faults the jobs of the faults that a unit of tile die n met (R192). -/
def State.settle (s : State) (k : OwedAt) (n : Nat) : State :=
  let mine (o : Owed) : Bool := o.site == k && o.n == n
  (s.owed.filter mine).foldl (fun s o => s.jobFault o.job o.code) { s with owed := s.owed.filter fun o => !mine o }

/-- One site handled: its leaf cleared, and each job it names faulted. -/
def State.serviceSite (s : State) (f : FaultSite) : State :=
  let all : Word := 0xFFFFFFFF
  match f with
  | .core u =>
    let code := s.fld (R.tdCFault0 u) 31 24
    let job := s.fld (R.tdCJob u) 11 0
    (s.writeCoreCause u 1).jobFault job code
  | .sd n =>
    let jobs := (s.marked fun w => R.sdJmap n w).map fun j => (j, s.ctxCode n j)
    let s := (s.clearMarks fun w => R.sdJmap n w).writeSdCause n 1
    jobs.foldl (fun s p => s.jobFault p.1 p.2) s
  | .mem n =>
    (s.writeMemcause n 6).settle .mem n
  | .sem n =>
    (s.writeSemcause n all).settle .sem n
  | .coll n =>
    (s.writeCollcause n 1).settle .coll n
  | .time =>
    let code := s.fld R.timeFault 31 24
    let jobs := s.marked R.timeJmap
    let s := (s.clearMarks R.timeJmap).writeTimeCause 8
    jobs.foldl (fun s j => s.jobFault j code) s
  | .dsp =>
    let jobs := s.dsp.unserved
    let s := (s.writeDspCause 6)
    let s := { s with dsp := { s.dsp with unserved := [] } }
    jobs.foldl (fun s p => s.jobFault p.1 p.2) s

/-- Hyzacia clears every leaf of summary bits 2 to 9 that asks nothing more of it (R365): all but the ones that
JOB_FAULT_SERVICE, XBAR_JMAP_SERVICE and PORT_JMAP_SERVICE handle. -/
def State.clearLeaves (s : State) : State :=
  let s := s.writeXbarCause 0x1F
  let s := s.writeReg R.bpmCause 0xF
  let s := s.writeTimeCause 0x17
  let s := s.writeDspCause 1
  let s := s.writeReg R.secCause 0x3F
  let s := (List.range s.ports).foldl (fun s n => (s.writePortCause n 0x76).writeReg (R.portSchcause n) 2) s
  let s := (List.range 8).foldl (fun s n => s.writeSdCause n 6) s
  let s := (List.range s.tiles).foldl (fun s n => (s.writeMemcause n 1).writeCollcause n 6) s
  (List.range (4 * s.tiles)).foldl (fun s u => s.writeCoreCause u 6) s

/-- JOB_FAULT_SERVICE: one of the sites; where several wait, which comes first is a free choice. Where none waits,
Hyzacia clears the leaves that end no job: R365 says that it does, not when (log entry 67). -/
def State.jobFaultService (s : State) : State :=
  if !s.firmware then s
  else
    let sites := s.faultSites
    if sites.isEmpty then s.clearLeaves
    else match sites[Config.freeNat s.freeCtr % sites.length]? with
    | some f => (State.serviceSite (if sites.length = 1 then s else s.drawn) f)
    | none => s

/-- XBAR_JMAP_SERVICE (R74). -/
def State.xbarJmapService (s : State) : State :=
  if !(s.firmware && s.bit R.xbarCause 5) then s
  else
    let jobs := s.marked R.xbarJmap
    let s := (s.clearMarks R.xbarJmap).writeXbarCause (oneBit 5)
    jobs.foldl (fun s j => s.jobFault j fcPoisoned) s

/-- PORT_JMAP_SERVICE (R107, R96, R125): LINK_LOST on the down and police causes, DENIED where only xlate_err is set. -/
def State.portJmapService (s : State) (n : Nat) : State :=
  let lost := s.bit (R.portCause n) 0 || s.bit (R.portSchcause n) 0
  if !s.firmware || s.ports ≤ n || !(lost || s.bit (R.portCause n) 3) then s
  else
    let code := if lost then fcLinkLost else fcDenied
    let jobs := s.marked fun w => R.portJmap n w
    let s := (s.clearMarks fun w => R.portJmap n w).writePortCause n 9
    let s := s.lower (R.portSchcause n) 0
    jobs.foldl (fun s j => s.jobFault j code) s

/-! ### Begins (R325, R330, R360) -/

/-- The step value and the seed written into every core of a job. -/
def State.writeStepSeed (s : State) (j : Nat) (step : Dword) : State :=
  let seed := (s.job j).seed.toNat
  (s.jobCores j).foldl (fun s u =>
    (((s.setReg (R.tdCStepLo u) (BitVec.ofNat 32 step.toNat)).setReg (R.tdCStepHi u) (BitVec.ofNat 32 (step.toNat / 2 ^ 32))).setReg
      (R.tdCSeedLo u) (BitVec.ofNat 32 seed)).setReg (R.tdCSeedHi u) (BitVec.ofNat 32 (seed / 2 ^ 32))) s

/-- Whether a start of a core would be accepted (R204). -/
def State.startable (s : State) (u : Nat) : Bool :=
  ((s.core u).st == .idle || (s.core u).st == .halted) && s.qempty u

/-- Starts in order up to the first one refused; whether all were accepted. -/
def State.startAll (s : State) : List (Nat × Nat) → State × Bool
  | [] => (s, true)
  | (u, pc) :: r => if s.startable u then State.startAll (s.startCore u pc) r else (s.startCore u pc, false)

/-- The groups of a job that are OFF start in order (R337), each its cores in ascending order, up to the first core that refuses
(log entry 108): its group stays OFF. Whether all started. -/
def State.startGroups (s : State) : List Nat → State × Bool
  | [] => (s, true)
  | g :: r =>
    let m := s.groupModel g
    match s.startAll ((s.groupRec g).cores.map fun u => (u, (s.modelRec m).prog)) with
    | (s, true) => State.startGroups (s.groupStarted g m) r
    | (s, false) => (s, false)

/-- A begin step, or with `eval` a begin evaluation: what it starts is `starts`, core and header word. -/
def State.beginJob (s : State) (m j : Nat) (eval : Bool) (starts : List (Nat × Nat)) : State :=
  let k := s.job j
  let s := s.updJob j fun k => { k with code := 0, incomplete := false }
  let s := s.writeStepSeed j (if eval then k.step + BitVec.ofNat 64 (2 ^ 63) else k.step)
  let s := s.jobState j (if eval then .eval else .running)
  let (s, good) := s.startAll starts
  let groups := (s.jobGroups k.job).filter fun g => (s.group g).st == .off
  let (s, good) := if good then s.startGroups groups else (s, false)
  if good then s.ok m (leBytes 8 k.step.toNat)
  else (s.jobFault k.job fcDenied).reply m stFaulted fcDenied []

/-! ### Drains (R328, R329) -/

/-- Whether every core of a job has stopped. -/
def State.coresStopped (s : State) (j : Nat) : Bool :=
  (s.jobCores j).all fun u => (s.core u).st != .running && (s.core u).st != .waiting

/-- A drain begins: DRAINING, and EXIT to the job's idle groups. -/
def State.startDrain (s : State) (j : Nat) (mbx : Option Nat) (limit : Nat) : State :=
  let st := (s.job j).st
  let s := (s.jobState j .draining).updJob j fun k =>
    { k with drain := some { fromSt := st, mbx := mbx, limit := limit, released := false } }
  (s.jobGroups (s.job j).job).foldl (fun s g => s.exitGroup g) s

/-- DRAIN_LIMIT_EXPIRY: every core still at work is stopped, and the step is incomplete if one was. -/
def State.drainLimit (s : State) (j : Nat) : State :=
  let k := s.job j
  if k.st ≠ .draining ∨ k.drain.isNone ∨ s.coresStopped j then s
  else
    let s := (s.jobCores j).foldl (fun s u =>
      if (s.core u).st = .running ∨ (s.core u).st = .waiting then s.stopCore u else s) s
    s.updJob j fun k => { k with incomplete := true }

/-- Step 3: open collectives of the job end with DENIED. -/
def State.drainColls (s : State) (j : Nat) : State :=
  let job := (s.job j).job
  let openOnes := s.colls.any fun c => c.job == job
  let s := (List.range s.tiles).foldl (fun s n => s.abortColls n job fcDenied) s
  if openOnes then s.updJob j fun k => { k with incomplete := true } else s

/-- Steps 4 to 6: faulted cores cleared, semaphores zeroed, contexts freed, remote-home pages released. -/
def State.drainRelease (s : State) (j : Nat) : State :=
  let cores := s.jobCores j
  let s := cores.foldl (fun s u => if (s.core u).st = .faulted then s.clearCore u else s) s
  let s := { s with sems := mfilter (fun a => !cores.contains (a / 1024)) s.sems }
  let job := (s.job j).job
  let s := (List.range 8).foldl (fun s n => s.writeSdJobcmd n (atFld 31 30 2 ||| atFld 11 0 job)) s
  (List.range s.tiles).foldl (fun s n => s.releaseJob n j) (s.dropCached j)

/-- Step 7: the job's marks are cleared. -/
def State.clearJobMarks (s : State) (job : Nat) : State :=
  let off (s : State) (word : Nat → Reg) : State := s.lower (word (job / 32)) (job % 32)
  let s := (List.range s.ports).foldl (fun s n => off s fun w => R.portJmap n w) s
  let s := (List.range 8).foldl (fun s n => off s fun w => R.sdJmap n w) s
  off (off s R.timeJmap) R.xbarJmap

/-- Step 8: every shutter of the job is disabled and enabled again. -/
def State.renewShutters (s : State) (job : Nat) : State :=
  (List.range 64).foldl (fun s b =>
    let w := s.reg (R.timeShutCfg b)
    if wbit w 31 && wfld w 11 0 == job then (s.writeShutCfg b (w &&& ~~~(oneBit 31))).writeShutCfg b w else s) s

/-- Steps 9 and 10. -/
def State.endDrain (s : State) (j : Nat) (d : DrainRun) : State :=
  let k := s.job j
  let s :=
    if d.fromSt = .running ∧ k.code = 0 ∧ !k.incomplete then
      (s.setStep j (k.step + 1)).updJob j fun k => { k with evals := 0 }
    else if d.fromSt = .eval then s.updJob j fun k => { k with evals := k.evals + 1 }
    else s
  let s := (s.jobState j .ready).updJob j fun k => { k with drain := none }
  let s := (s.jobGroups k.job).foldl (fun s g => s.groupOff g) s
  let s := s.slotEvent evDrain j
  match d.mbx with
  | some m => s.ok m (leBytes 1 (bnat k.incomplete) ++ leBytes 7 0 ++ leBytes 8 (s.job j).step.toNat)
  | none => s

/-- A device drain (DEV_STOP): slots that have to be drained and are not yet, and its end once every slot is OFF or
READY and no mirror is in progress. -/
def State.deviceDrain (s : State) : State :=
  match s.mgmt.devStop with
  | none => s
  | some (m, limit) =>
    let s := (List.range 64).foldl (fun s j =>
      let st := (s.job j).st
      if st = .running ∨ st = .eval ∨ st = .failed then s.startDrain j none limit else s) s
    let quiet := (List.range 64).all fun j =>
      ((s.job j).st == .off || (s.job j).st == .ready) && (s.job j).mirror.isNone
    if quiet then
      let s := { s with mgmt := { s.mgmt with devStop := none } }
      (s.setDev .configured).ok m []
    else s

/-- DRAIN_COMPLETE: with every core stopped, steps 3 to 10 as far as they can go: step 4 needs every queue of the cores
empty, and step 7 no page of any tile die in progress. -/
def State.drainComplete (s : State) (j : Nat) : State :=
  let k := s.job j
  match k.drain with
  | none => s
  | some d =>
    if !s.coresStopped j then s
    else
      let s := if d.released then s else s.drainColls j
      if !d.released && !((s.jobCores j).all fun u => s.qempty u) then s
      else
        let s := if d.released then s else s.drainRelease j
        let d := { d with released := true }
        if (List.range s.tiles).any fun n => s.pagerBusy n then s.updJob j fun k => { k with drain := some d }
        else
          let s := s.clearJobMarks k.job
          let s := if d.fromSt = .failed ∨ (s.job j).incomplete then s.renewShutters k.job else s
          (s.endDrain j d).deviceDrain

/-! ### The mirror at work (R331, R332) -/

/-- Table 14.3. -/
def State.mirrorHeader (s : State) (j half valid : Nat) : List Byte :=
  let k := s.job j
  let rank := match s.jobCores j with
    | u :: _ => s.fld (R.tdCRank u) 19 0
    | [] => 0
  let b := leBytes 4 0x4D525258 ++ leBytes 2 k.job ++ leBytes 1 half ++ leBytes 1 valid ++ leBytes 8 k.step.toNat
    ++ leBytes 4 k.pages ++ leBytes 4 rank ++ leBytes 8 s.time.now.toNat ++ zeros 28
  b ++ leBytes 4 (crc32c b).toNat

/-- Device-virtual address of a mirror half at the partner. -/
def Job.halfVa (k : Job) (h : Nat) : Nat := k.mbase + h * (k.pages + 1) * 2 ^ 21

/-- A WRITE message to the mirror partner, from a slot and an endpoint. -/
def State.mirrorWrite (s : State) (j slot ep : Nat) (o : Owner) (va : Nat) (bs : List Byte) : State :=
  let k := s.job j
  s.sendParts slot o none (some j)
    { PktHdr.zero opWrite with srcDev := s.selfDev, srcEp := ep, dstRank := k.partner, addr := va, msgBytes := bs.length }
    0 ownClass k.job (messageParts bs)

/-- The pages a region list names, up to `want`; none where the list cannot be read, which is recorded with the job as of the
pager of tile die 0 (log entry 130). `fuel` bounds its entries. -/
def State.regionPages (s : State) (j : Nat) : Nat → Nat → Nat → State × Except Nat (List Nat)
  | 0, _, _ => (s, .ok [])
  | f + 1, at_, want =>
    if want = 0 then (s, .ok [])
    else match s.vaRange 0 j at_ 16 false with
    | (s, .ok ps) =>
      (match s.readPieces ps with
       | .error a => (s.dpaUe a (s.job j).job 5, .error fcEccUe)
       | .ok b =>
         let n := min want (leAt b 8 8)
         match State.regionPages s j f (at_ + 16) (want - n) with
         | (s, .ok r) => (s, .ok ((List.range n).map (fun i => leAt b 0 8 + i * 2 ^ 21) ++ r))
         | (s, .error c) => (s, .error c))
    | (s, .ue a) => (s.dpaUe a (s.job j).job 5, .error fcEccUe)
    | (s, _) => (s.vaDenied 0 (s.job j).job 5 at_, .error fcDenied)

/-- One page sent by the pager of the die that owns its frame, or the code that refuses it, which is recorded with the job
(R271, R275). -/
def State.mirrorPage (s : State) (j half i va : Nat) : State × Option Nat :=
  match s.vaRange 0 j va 0x200000 false with
  | (s, .ok ps) =>
    let rh := ((s.leafOf j va).map leafRh).getD true
    let n := dpaDie ((ps.head?.map (·.1)).getD 0)
    let ep := s.reg (R.tdPgep n j)
    if rh || va % 2 ^ 21 != 0 || !wbit ep 31 then (s.vaDenied n (s.job j).job 5 va, some fcDenied)
    else (match s.readPieces ps with
      | .error a => (s.dpaUe a (s.job j).job 5, some fcEccUe)
      | .ok bs =>
        (s.mirrorWrite j (s.tileSlot n) (wfld ep 9 0) (.mirror j) ((s.job j).halfVa half + (i + 1) * 2 ^ 21) bs, none))
  | (s, .ue a) => (s.dpaUe a (s.job j).job 5, some fcEccUe)
  | (s, _) => (s.vaDenied 0 (s.job j).job 5 va, some fcDenied)

/-- Pages sent in order up to the first that is refused. -/
def State.mirrorPages (s : State) (j half : Nat) : List (Nat × Nat) → State × Option Nat
  | [] => (s, none)
  | (va, i) :: r =>
    match s.mirrorPage j half i va with
    | (s, none) => State.mirrorPages s j half r
    | (s, some c) => (s, some c)

/-- A fault during a mirror is a job-ending fault; it ends the mirror. -/
def State.failMirror (s : State) (j code : Nat) : State := s.jobFault (s.job j).job code

/-- JOB_MIRROR at work: the header with valid = 0, then every page. -/
def State.startMirror (s : State) (m j : Nat) : State :=
  let k := s.job j
  let h := k.mhalf
  let s := s.updJob j fun k => { k with mirror := some { mbx := m, half := h, outst := 0 } }
  let s := s.mirrorWrite j s.mgmtSlot 1023 (.mirror j) (k.halfVa h) (s.mirrorHeader j h 0)
  match s.regionPages j 256 k.rlist k.pages with
  | (s, .error c) => s.failMirror j c
  | (s, .ok vas) =>
    match s.mirrorPages j h vas.zipIdx with
    | (s, some c) => s.failMirror j c
    | (s, none) => s.updJob j fun k => { k with mirror := some { mbx := m, half := h, outst := vas.length + 1 } }

/-- MIRROR_COMPLETE: every message has its COMPLETE. -/
def State.mirrorComplete (s : State) (j : Nat) : State :=
  let k := s.job j
  match k.mirror with
  | none => s
  | some r =>
    if r.outst ≠ 0 then s
    else
      let s := s.mirrorWrite j s.mgmtSlot 1023 .served (k.halfVa r.half) (s.mirrorHeader j r.half 1)
      let s := s.updJob j fun k => { k with mvalid := true, mstep := k.step, mhalf := 1 - r.half }
      (s.endMirror j 0 (leBytes 1 r.half ++ leBytes 7 0 ++ leBytes 8 k.step.toNat)).deviceDrain

end Sys2Proof.Machine
end

