-- ==== Sys2Proof/Machine/Security.lean ====
section
/-!
DEFINITION. Boot, identity, measurement, attestation, and votes (spec/16_boot_security_faults.md, R370 to R387). The physically
unclonable function, the key pair made from its seed, and signing are constants without a body (Config.lean,
FalconKeys.lean): a claim holds whatever they compute; a signature that the device makes is valid (R380).
-/

namespace Sys2Proof.Machine

/-! ### The staging window -/

def State.bar2Bytes (s : State) (o n : Nat) : List Byte := rdBytes s.bar2 o n
def State.writeBar2 (s : State) (o : Nat) (bs : List Byte) : State := { s with bar2 := wrBytes s.bar2 o bs }

/-- Where the contact sheet begins: staged data end before it (R362). -/
def stageEnd : Nat := 0xFFF000

/-! ### Measurement (R379) -/

def State.setSec (s : State) (c : Sec) : State := { s with sec := c }

/-- extend(type, d). -/
def State.extend (s : State) (type : Nat) (d : List Byte) : State :=
  let c := s.sec
  let c := { c with acc := shake512 (c.acc ++ leBytes 4 type ++ d) }
  let n := s.reg R.secLogcnt
  let s : State :=
    if n.toNat < 1024 then s.setSec { c with log := c.log ++ [(type, s.time.now, d)] }
    else (s.setSec { c with truncated := true }).raise R.secCause 2
  s.count R.secLogcnt

/-- What GET_MEASURE writes. -/
def State.measureBytes (s : State) : List Byte :=
  leBytes 4 (s.reg R.secLogcnt).toNat ++ leBytes 4 (bnat s.sec.truncated) ++ leBytes 8 0
    ++ (s.sec.log.zipIdx.flatMap fun e =>
          leBytes 4 e.2 ++ leBytes 4 e.1.1 ++ leBytes 8 e.1.2.1.toNat ++ padTo 64 e.1.2.2)
    ++ s.sec.acc

/-! ### Identity (R377, R378, Table 16.4) -/

/-- DEV_ID. -/
def State.devId (s : State) : Word :=
  let v : Nat := match s.variant with
    | .xb4020 => 0
    | .xb4016n => 1
    | .xb4010s => 2
  atFld 27 20 s.tiles ||| atFld 19 12 s.ports ||| atFld 11 8 1 ||| atFld 3 0 v

/-- The seed a helper record gives, where it is whole. -/
def helperSeed (h : List Byte) : Option (List Byte) :=
  if leAt h 0 4 ≠ 0x48554C50 ∨ !allZero (slice h 1060 3036) then none
  else match Config.pufSeed (slice h 4 1024) with
    | some seed => if shake256 32 (padTo 32 seed) = slice h 1028 32 then some (padTo 32 seed) else none
    | none => none

/-- A helper record taken by the SEC block: without a seed no identity is derived. -/
def State.takeHelper (s : State) (h : List Byte) : State :=
  let s := s.setSec { s.sec with helper := h }
  if (helperSeed h).isNone then s.raise R.secCause 1 else s

/-- IDENTITY_KEY_READY: the key pair is held and the digest of its public key shown. -/
def State.identityReady (s : State) : State :=
  match helperSeed s.sec.helper with
  | none => s
  | some seed =>
    let pk := falconKeys.key seed
    let d := shake256 32 pk
    let s := (List.range 8).foldl (fun s w => s.setReg (R.secIddig w) (BitVec.ofNat 32 (leAt d (4 * w) 4))) s
    (s.setSec { s.sec with pubkey := pk }).setReg R.secIdstat 1

/-! ### Images (R371 to R376, Tables 16.1 and 16.2) -/

/-- The code of the first check of Table 16.2 that an image fails, 0 where all hold. -/
def State.imageCheck (s : State) (img : List Byte) : Nat :=
  let bodyLen := leAt img 8 4
  let entry := leAt img 12 4
  let key := leAt img 6 1
  let vars := leAt img 7 1
  let body := img.drop 4096
  let pubkey := slice img 96 1793
  if leAt img 0 4 ≠ 0x48595A49 ∨ leAt img 4 2 ≠ 1 then 1
  else if bodyLen % 64 ≠ 0 ∨ bodyLen < 64 ∨ 16764928 < bodyLen ∨ bodyLen ≤ entry ∨ entry % 4 ≠ 0
      ∨ img.length ≠ 4096 + bodyLen ∨ vars / 8 ≠ 0 ∨ !allZero (slice img 28 4) ∨ !allZero (slice img 1889 159)
      ∨ !allZero (slice img 3328 768) then 2
  else if !nbit vars (wfld s.devId 3 0) then 3
  else if 3 < key ∨ shake256 32 pubkey ≠ padTo 32 (Config.romKeyDigest key) then 4
  else if !falconVerify pubkey (shake512 (slice img 0 2048)) (slice img 2048 1280) then 5
  else if shake512 body ≠ slice img 32 64 then 6
  else 0

/-- SEC_BOOTSTAT after an image was checked. -/
def State.bootStat (s : State) (staged : Bool) (code : Nat) : State :=
  let n := s.fld R.secBootstat 7 0
  let w := atFld 25 24 s.sec.mode ||| atFld 16 16 (bnat staged) ||| atFld 15 8 code ||| atFld 7 0 (min 255 (n + 1))
  let s := s.setReg R.secBootstat w
  if code = 0 then s else s.raise R.secCause 0

/-- An image that passed: its body is in management-die memory, the log is extended with entries 1 to 4 and the management
cores start at `entry`; the watchdog is armed (R376). -/
def State.startImage (s : State) (staged : Bool) (img : List Byte) : State :=
  let key := leAt img 6 1
  let s := s.extend 1 ((List.range 64).map Config.romDigest)
  let s := s.extend 2 (shake512 (slice img 0 2048))
  let s := s.extend 3 (slice img 32 64)
  let s := s.extend 4 (shake512 (leBytes 4 s.devId.toNat ++ leBytes 1 s.sec.mode ++ leBytes 1 key ++ leBytes 2 0))
  let s := s.setSec { s.sec with phase := .started, key := key, fwVersion := BitVec.ofNat 32 (leAt img 16 4),
                                 buildTag := BitVec.ofNat 64 (leAt img 20 8), staged := staged,
                                 image := img.drop 4096, entry := leAt img 12 4 }
  { s with mgmt := { s.mgmt with watchdogOn := true } }

/-- IMAGE_CHECK_COMPLETE: an image from flash. -/
def State.flashChecked (s : State) (sfdpOk : Bool) (img : List Byte) : State :=
  if s.dev ≠ .rom ∨ s.sec.phase ≠ .flash then s
  else
    let code := if sfdpOk then s.imageCheck img else 7
    let s := s.bootStat false code
    if code = 0 then s.startImage false img else s.setSec { s.sec with phase := .waiting }

/-- LOAD_IMAGE at work. -/
def State.loadImage (s : State) (m : Nat) : State :=
  let img := s.bar2Bytes 0x1000 (s.argNum m 0 4)
  let s := if s.bit R.secIdstat 0 then s else s.takeHelper (s.bar2Bytes 0 4096)
  let code := s.imageCheck img
  let s := s.bootStat true code
  if code = 0 then (s.startImage true img).ok m (leBytes 4 0) else s.reply m stDenied 0 (leBytes 4 code)

/-- Slot 0 of the standard handlers, words 0 to 6 (R147, Table 6.8). -/
def standardOps : List Nat :=
  [0x10000000, 0x11000000, 0x12000000, 0x13000000, 0x14000000, 0x15000000, 0x23300000]

/-- The standard handlers in the program store of every engine; slot 1 of each is END. -/
def State.loadStandard (s : State) : State :=
  (List.range 32).foldl (fun s e => standardOps.zipIdx.foldl (fun s w =>
    s.storeProg e w.2 (0x01000000 * 2 ^ 192 + w.1 * 2 ^ 128)) s) s

/-- HYZACIA_FIRST_ANSWER. -/
def State.firstAnswer (s : State) : State :=
  if s.dev = .rom ∧ s.sec.phase = .started then (s.setSec { s.sec with phase := .done }).loadStandard.setDev .loaded else s

/-! ### Attestation (R380, Table 16.5) -/

/-- The report without its signature. -/
def State.reportBytes (s : State) (nonce : List Byte) : List Byte :=
  leBytes 4 0x41545354 ++ leBytes 2 1 ++ leBytes 2 (bnat s.sec.truncated + 2 * bnat s.sec.staged)
    ++ leBytes 4 s.devId.toNat ++ leBytes 2 s.selfDev ++ leBytes 1 s.sec.mode ++ leBytes 1 s.sec.key
    ++ leBytes 4 s.sec.fwVersion.toNat ++ leBytes 8 s.sec.buildTag.toNat ++ leBytes 4 (s.reg R.secLogcnt).toNat
    ++ leBytes 8 s.time.now.toNat ++ padTo 32 nonce ++ padTo 64 s.sec.acc ++ padTo 1793 s.sec.pubkey ++ leBytes 7 0

/-- GET_ATTEST at work. -/
def State.attest (s : State) (m : Nat) : State :=
  let r := s.reportBytes (s.argBytes m 0 32)
  let seed := (helperSeed s.sec.helper).getD []
  let sig := falconKeys.sign s.freeCtr seed (shake512 r)
  ((s.drawn).writeBar2 (s.argNum m 32 4) (r ++ sig)).ok m (leBytes 4 3216)

/-! ### Votes (R383 to R386) -/

/-- A roster record as Table 16.7 lays it out. -/
def rosterOf (b : List Byte) : Roster :=
  { q := leAt b 2 1, n := leAt b 3 1, job := leAt b 4 2 % 4096, keys := (List.range 16).map fun i => slice b (8 + 32 * i) 32 }

/-- The bytes of a roster record for a slot. -/
def Roster.bytes (r : Roster) (slot : Nat) : List Byte :=
  leBytes 1 0 ++ leBytes 1 slot ++ leBytes 1 r.q ++ leBytes 1 r.n ++ leBytes 2 r.job ++ leBytes 2 0
    ++ (List.range 16).flatMap fun i => r.keys.getD i (zeros 32)

/-- The first bad field of a roster record. -/
def rosterBad (b : List Byte) (len : Nat) : Option Nat :=
  let n := leAt b 3 1
  firstBad ([(0, len != 520 || leAt b 0 1 != 0), (1, 63 < leAt b 1 1), (2, leAt b 2 1 == 0 || n < leAt b 2 1),
    (3, n == 0 || 16 < n), (4, leAt b 4 2 / 4096 != 0), (6, leAt b 6 2 != 0)]
    ++ (List.range 16).map fun i => (8 + 32 * i, n ≤ i && !allZero (slice b (8 + 32 * i) 32)))

/-- The first bad field of a ballot record. -/
def ballotBad (b : List Byte) (len : Nat) : Option Nat :=
  firstBad [(0, len != 3096), (1, 15 < leAt b 1 1), (2, leAt b 2 2 / 4096 != 0), (4, leAt b 4 2 / 1024 != 0),
    (6, leAt b 6 2 != 0), (1809, !allZero (slice b 1809 7))]

/-- The job slot for which a ballot passes every check of Table 16.8. -/
def State.ballotSlot (s : State) (b : List Byte) : Option Nat :=
  match s.slotOfJob (leAt b 2 2 % 4096) with
  | none => none
  | some j =>
    let r := (s.job j).roster
    let i := leAt b 1 1
    let key := slice b 16 1793
    if r.n = 0 ∨ r.n ≤ i ∨ shake256 32 key ≠ r.keys.getD i [] then none
    else if !falconVerify key (shake512 (slice b 0 1816)) (slice b 1816 1280) then none
    else if leAt b 8 8 ≠ (s.job j).step.toNat then none
    else some j

/-- Quorum: the device is expelled from the job, which fails here (R386). -/
def State.expel (s : State) (j target : Nat) : State :=
  let job := (s.job j).job
  let s := match leastBelow 16 fun e => !s.bit (R.secExpel e) 31 with
    | some e => s.setReg (R.secExpel e) (oneBit 31 ||| atFld 21 12 target ||| atFld 11 0 job)
    | none => s.raise R.secCause 5
  (s.raise R.secCause 4).recordJobFault j fcDenied

/-- A ballot counted, once for each manager and target. -/
def State.countBallot (s : State) (j : Nat) (b : List Byte) : State :=
  let v := (leAt b 4 2 % 1024, leAt b 1 1)
  let k := s.job j
  if k.tally.contains v then s
  else
    let s := s.setJob j { k with tally := k.tally ++ [v] }
    let n := countWhere (fun t => t.1 == v.1) (k.tally ++ [v])
    if n = k.roster.q then s.expel j v.1 else s

/-- VOTE with a ballot at work: counted and sent to every other device of the job, or refused. -/
def State.voteBallot (s : State) (m : Nat) : State :=
  let b := s.argBytes m 0 3096
  match s.ballotSlot b with
  | none => (s.raise R.secCause 3).reply m stDenied 0 []
  | some j => ((s.countBallot j b).sendToJob j (s.mgmtBody j 2 0 ++ b)).ok m []

/-- BALLOT_RECEIVE: a ballot from another device; while an exclusive command runs it waits (R387). -/
def State.ballotReceive (s : State) : State :=
  if !s.firmware || s.exclusive then s
  else match s.takeArrival s.mgmtSlot fun a => a.pkt.hdr.op == opMgmtMsg && a.unit == 0 && leAt a.pkt.data 0 1 == 2 with
  | none => s
  | some (a, s) =>
    let b := slice a.pkt.data 32 3096
    match s.ballotSlot b with
    | some j => s.countBallot j b
    | none => s.raise R.secCause 3

end Sys2Proof.Machine
end

