-- ==== Sys2Proof/Machine/CfgParts.lean ====
section
/-!
DEFINITION. Configuration sets (spec/14_steps_and_serving.md, R333, R336, R345; spec/15_management_interface.md, R361, Tables
15.8 and 15.9; spec/01_organisation.md, R17): records of the parts, their layout checks, CFG_WRITE, CFG_READ and CFG_COPY,
and the checks of a whole set at SWAP.
-/

namespace Sys2Proof.Machine

/-! ### Parts and records (Table 15.8) -/

def partCount : Nat := 13
def isListPart (p : Nat) : Bool := 7 ≤ p && p ≤ 10
def hasSlotArg (p : Nat) : Bool := p == 2 || p == 3

def recSize (p : Nat) : Nat :=
  if p ≤ 4 then 32 else if p = 5 then 64 else if p = 11 ∨ p = 12 then 32 else 8

/-- Records of a part that is no register list. -/
def recCount (p : Nat) : Nat :=
  if p ≤ 4 then tblSize p else if p = 5 ∨ p = 6 then 64 else if p = 11 then 256 else if p = 12 then 80 else 0

/-- A record of a part as its bytes. -/
def CfgSet.recBytes (c : CfgSet) (p slot i : Nat) : List Byte :=
  if p ≤ 4 then (List.range 8).flatMap fun w => leBytes 4 (c.word p slot i w).toNat
  else if p = 5 then mget (zeros 64) c.jobs i
  else if p = 6 then mget (zeros 8) c.roots i
  else if p = 11 then mget (zeros 32) c.models i
  else mget (zeros 32) c.groups i

/-- The register list of a part. -/
def CfgSet.list (c : CfgSet) (p : Nat) : List (Nat × Word) := mget [] c.lists p

/-- Records `first` to `first + n - 1` of a part, as CFG_READ returns them. -/
def CfgSet.readPart (c : CfgSet) (p slot first n : Nat) : List Byte :=
  if isListPart p then (((c.list p).drop first).take n).flatMap fun e => leBytes 4 e.1 ++ leBytes 4 e.2.toNat
  else (List.range n).flatMap fun i => c.recBytes p slot (first + i)

/-- A record written into a set. -/
def CfgSet.writeRec (c : CfgSet) (p slot i : Nat) (b : List Byte) : CfgSet :=
  if p ≤ 4 then c.setEntry p slot i ((List.range 8).map fun w => BitVec.ofNat 32 (leAt b (4 * w) 4))
  else if p = 5 then { c with jobs := mset (zeros 64) c.jobs i b }
  else if p = 6 then { c with roots := mset (zeros 8) c.roots i b }
  else if p = 11 then { c with models := mset (zeros 32) c.models i b }
  else { c with groups := mset (zeros 32) c.groups i b }

/-- `n` records written from index `first`; a register list is replaced whole. -/
def CfgSet.writePart (c : CfgSet) (p slot first n : Nat) (b : List Byte) : CfgSet :=
  if isListPart p then
    let pairs := (List.range n).map fun i => (leAt b (8 * i) 4, BitVec.ofNat 32 (leAt b (8 * i + 4) 4))
    { c with lists := mset [] c.lists p pairs }
  else (List.range n).foldl (fun c i => c.writeRec p slot (first + i) (slice b (recSize p * i) (recSize p))) c

/-! ### Job slot records (Table 15.9) -/

structure JobRec where
  valid : Bool
  job : Nat
  det : Bool
  stepGiven : Bool
  partner : Nat
  seed : Nat
  step : Nat
  mbase : Nat
  pages : Nat
  rlist : Nat
  cores : Nat
  deriving DecidableEq, Repr

def parseJob (b : List Byte) : JobRec :=
  { valid := nbit (leAt b 0 2) 15, job := leAt b 0 2 % 4096, det := nbit (leAt b 2 1) 0, stepGiven := nbit (leAt b 2 1) 1,
    partner := leAt b 4 4 % 2 ^ 20, seed := leAt b 8 8, step := leAt b 16 8, mbase := leAt b 24 8 % 2 ^ 48,
    pages := leAt b 32 4, rlist := leAt b 36 8 % 2 ^ 48, cores := leAt b 48 10 }

def CfgSet.jobRec (c : CfgSet) (j : Nat) : JobRec := parseJob (c.recBytes 5 0 j)

/-! ### Layout checks (R361) -/

/-- Offset in the record of the first field that breaks its table's layout: reserved bits, and for a record in use the
ranges its table states. -/
def recBad (p : Nat) (b : List Byte) : Option Nat :=
  let n o k := leAt b o k
  if p ≤ 4 then
    firstBad ((List.range 8).map fun w =>
      let v := n (4 * w) 4
      (4 * w, BitVec.ofNat 32 v &&& ~~~(tblMask p w) ≠ 0
        || (w == 1 && nbit (n 0 4) 31 && (match p with
          | 1 => v % 2 ^ 21 == 0 || 2 ^ 20 < v % 2 ^ 21
          | 4 => v % 512 < 8 || 256 < v % 512
          | _ => false))
        || (p == 2 && w == 0 && nbit v 31 && (v / 2 ^ 20 % 2 ^ 11 == 0 || 1024 < v / 2 ^ 20 % 2 ^ 11))))
  else if p = 5 then
    firstBad [(0, n 0 2 / 4096 % 8 ≠ 0), (2, 4 ≤ n 2 1), (3, n 3 1 ≠ 0), (4, 2 ^ 20 ≤ n 4 4),
      (24, 2 ^ 48 ≤ n 24 8 || (n 32 4 ≠ 0 && n 24 8 % 2 ^ 21 ≠ 0)), (32, 65536 < n 32 4), (36, 2 ^ 48 ≤ n 36 8),
      (44, n 44 4 ≠ 0), (58, n 58 6 ≠ 0)]
  else if p = 6 then firstBad [(0, n 0 8 / 2 % 2 ^ 11 ≠ 0 || 2 ^ 40 ≤ n 0 8)]
  else if p = 11 then
    let r := parseModel b
    firstBad [(0, 4 ≤ n 0 1), (1, r.valid && r.fixed && 80 ≤ r.fixGrp), (2, 4096 ≤ n 2 2), (4, 2 ^ 18 ≤ n 4 4),
      (8, 2 ^ 48 ≤ n 8 8), (16, r.valid && (r.quantum == 0 || 64 < r.quantum)),
      (17, r.valid && (r.maxBatch == 0 || 64 < r.maxBatch)), (20, r.valid && (r.qlimit == 0 || 4096 < r.qlimit))]
  else
    let r := parseGroup b
    firstBad [(0, 2 ≤ n 0 1), (2, 4096 ≤ n 2 2), (14, 1024 ≤ n 14 2), (16, r.valid && r.cb % 4096 != 0),
      (21, !allZero (slice b 21 11))]

/-- Whether a BAR0 offset names a register of a list part. -/
def listReg (v : Variant) (p a : Nat) : Bool :=
  match windowOf a with
  | none => false
  | some (w, o) =>
    match if w.populated v then w.reg o else none with
    | none => false
    | some r =>
      match w with
      | .bpm => p == 7 && 0x100 ≤ o && o < 0x300
      | .xbar => p == 8 && (o == 0x4 || o == 0x8 || o == 0x14 || (0x40 ≤ o && o < 0x60) || (0x100 ≤ o && o < 0x300)
          || 0x10000 ≤ o)
      | .port _ => p == 9 && r.rw ≠ 0 && !(0x40 ≤ o && o < 0x80)
      | .time => p == 10 && r.rw ≠ 0
      | _ => false

/-- The first bad field of the records of a CFG_WRITE, counted from the first record. -/
def recsBad (v : Variant) (p n : Nat) (b : List Byte) : Option Nat :=
  (List.range n).findSome? fun i =>
    let r := slice b (recSize p * i) (recSize p)
    (if isListPart p then (if listReg v p (leAt r 0 4) then none else some 0) else recBad p r).map (recSize p * i + ·)

/-! ### CFG_WRITE, CFG_READ, CFG_COPY -/

/-- The checks both commands share: part, slot, first, count and the staged range. -/
def cfgArgs (p slot pad first n off : Nat) (one staged lists : Bool) : List (Nat × Bool) :=
  [(0, partCount ≤ p), (1, one), (2, (if hasSlotArg p then 63 else 0) < slot), (3, pad != 0),
   (4, if isListPart p then lists && first != 0 else recCount p ≤ first),
   (8, if isListPart p then 16384 < n else recCount p < first + n),
   (12, staged && stageEnd < off + recSize p * n)]

/-- The checks of CFG_WRITE. -/
def State.cfgWriteChecks (s : State) (m : Nat) : Checks :=
  let p := s.argNum m 0 1
  let fl := s.argNum m 1 1
  let n := s.argNum m 8 4
  let off := s.argNum m 12 4
  let need := 16 + (if nbit fl 0 then 0 else recSize p * n)
  let arg := firstBad ((0, s.argLength m != need || 4080 < need)
    :: cfgArgs p (s.argNum m 2 1) (s.argNum m 3 1) (s.argNum m 4 4) n off (2 ≤ fl) (nbit fl 0) true)
  let data := if nbit fl 0 then s.bar2Bytes off (recSize p * n) else s.argBytes m 16 (recSize p * n)
  { Checks.plain arg devFw with
    conf := if arg.isSome then none else (recsBad s.variant p n data).map (16 + ·) }

/-- CFG_WRITE at work: the shadow set takes the records. -/
def State.cfgWrite (s : State) (m : Nat) : State :=
  let p := s.argNum m 0 1
  let n := s.argNum m 8 4
  let len := recSize p * n
  let data := if nbit (s.argNum m 1 1) 0 then s.bar2Bytes (s.argNum m 12 4) len else s.argBytes m 16 len
  let sh := s.shadow.writePart p (s.argNum m 2 1) (s.argNum m 4 4) n data
  State.ok { s with shadow := sh } m []

def State.cfgReadChecks (s : State) (m : Nat) : Checks :=
  Checks.plain
    (firstBad ((0, s.argLength m != 16)
      :: cfgArgs (s.argNum m 0 1) (s.argNum m 2 1) (s.argNum m 3 1) (s.argNum m 4 4) (s.argNum m 8 4) (s.argNum m 12 4)
        (2 ≤ s.argNum m 1 1) true false)) devFw

/-- CFG_READ at work: the records go to the staging window. -/
def State.cfgRead (s : State) (m : Nat) : State :=
  let c := if s.argNum m 1 1 = 0 then s.active else s.shadow
  let b := c.readPart (s.argNum m 0 1) (s.argNum m 2 1) (s.argNum m 4 4) (s.argNum m 8 4)
  (s.writeBar2 (s.argNum m 12 4) b).ok m (leBytes 4 b.length)

/-- CFG_COPY at work. -/
def State.cfgCopy (s : State) (m : Nat) : State := State.ok { s with shadow := s.active } m []

/-! ### The checks of a set at SWAP (R334) -/

/-- R17: a valid route entry that names a slot with no client. -/
def State.routeBad (s : State) (c : CfgSet) : Bool :=
  (List.range 1024).any fun d =>
    let w := c.word 0 0 d 0
    let hops := wfld w 3 0
    wbit w 31 && hops ≤ 8 && (List.range hops).any fun i =>
      !s.populatedSlot (nbits (c.word 0 0 d (1 + i / 2)).toNat (16 * (i % 2) + 2) 7)

/-- R361: endpoint 1,023 of a valid job slot names the firmware. -/
def endpointBad (c : CfgSet) : Bool :=
  (List.range 64).any fun j => (c.jobRec j).valid && c.endpoint j 1023 != some (2, 0)

/-- The arrangement a set gives a port slot. -/
def State.slotCfgIn (s : State) (c : CfgSet) (j : Nat) : Word :=
  let r := R.portSlotcfg (j / 6) (j % 6)
  match (c.list 9).reverse.find? fun e => e.1 == r.addr with
  | some e => r.written (s.reg r) e.2
  | none => s.reg r

/-- Payload rate of a subport in units of 0.1 Gbit/s: 1.6 Tbit/s of a slot in fabric mode, 800 Gbit/s in Ethernet mode
(mode 1), shared by its subports (Table 4.1). -/
def payloadRate (mode split : Nat) : Nat := (if mode = 1 then 8000 else 16000) / max 1 (splitPorts split)

/-- Whether a circuit entry of a set counts as valid under the arrangements of the set (R100). -/
def State.circuitCounts (s : State) (c : CfgSet) (w : Word) : Bool :=
  wbit w 31 && s.isPortSlot (wfld w 13 7) && wfld w 15 14 < splitPorts (wfld (s.slotCfgIn c (wfld w 13 7)) 1 0)

/-- R17 and R118 for the circuit entries of a set. -/
def State.circuitsBad (s : State) (c : CfgSet) : Bool :=
  let ids := (List.range 256).filter fun i => wbit (c.word 4 0 i 0) 31
  let counts i := s.circuitCounts c (c.word 4 0 i 0)
  let key i := (wfld (c.word 4 0 i 0) 6 0, wfld (c.word 4 0 i 0) 13 7, wfld (c.word 4 0 i 0) 15 14)
  ids.any fun i =>
    let k := key i
    let cfg := s.slotCfgIn c k.2.1
    let rates := ((ids.filter fun x => (key x).2 == k.2).map fun x => wfld (c.word 4 0 x 1) 31 16).sum
    !s.populatedSlot k.1 || !s.populatedSlot k.2.1 || (counts i && ids.any (fun x => x != i && key x == k))
      || (counts i && 9 * payloadRate (wfld cfg 5 4) (wfld cfg 1 0) < 10 * rates)

/-- R384: a roster that names a job other than its slot's. -/
def rosterJobBad (c : CfgSet) : Bool :=
  (List.range 64).any fun j =>
    let r := mget Roster.empty c.rosters j
    (c.jobRec j).valid && r.n != 0 && r.job != (c.jobRec j).job

/-- A register list written in order. -/
def State.writeList (s : State) (l : List (Nat × Word)) (f : State → Nat → Word → State) : State :=
  l.foldl (fun s e => f s e.1 e.2) s

/-- R286: the carving of a set. -/
def State.carvingBad (s : State) (c : CfgSet) : Bool :=
  !((s.lower R.bpmCtl 0).writeList (c.list 7) fun s a w => s.writeBpmWin (a - 0x200000) w).carvingLegal

/-- R60 for the crossbar minimum, whose reserved bits have no effect (R8), R17 for the members of multicast groups. -/
def State.xbarListBad (s : State) (c : CfgSet) : Bool :=
  (c.list 8).any fun e =>
    let o := e.1 - 0x100000
    if o = 0x4 then wfld e.2 6 0 < 8 || 64 < wfld e.2 6 0
    else 0x10000 ≤ o && o % 0x20 < 0x10 && (List.range 32).any fun b => wbit e.2 b && !s.populatedSlot (32 * (o % 0x20 / 4) + b)

/-- The models a group may serve. -/
def serves (c : CfgSet) (g m : Nat) : Bool :=
  let r := c.model m
  r.valid && (if r.fixed then r.fixGrp == g else r.groups.contains g)

/-- R336 and R345 for the models: a model's job is that of every group that may serve it, and a det job has fixed models. -/
def modelsBad (c : CfgSet) : Bool :=
  (List.range 256).any fun m =>
    let r := c.model m
    r.valid && (((List.range 80).any fun g => (c.group g).valid && serves c g m && (c.group g).job != r.job)
      || (!r.fixed && (List.range 64).any fun j => (c.jobRec j).valid && (c.jobRec j).det && (c.jobRec j).job == r.job)
      || (recBad 11 (c.recBytes 11 0 m)).isSome)

/-- R336 for the groups. -/
def State.groupsBad (s : State) (c : CfgSet) : Bool :=
  (List.range 80).any fun g =>
    let r := c.group g
    r.valid && (r.cores.any (fun u => !s.hasCore u) || !(c.model r.init).valid || (recBad 12 (c.recBytes 12 0 g)).isSome
      || (List.range 80).any fun h => h != g && (c.group h).valid && (c.group h).cores.any r.cores.contains)

/-- The first part of the shadow set that fails a check. -/
def State.setBad (s : State) : Option Nat :=
  let c := s.shadow
  firstBad [(0, s.routeBad c), (3, endpointBad c), (4, s.circuitsBad c), (5, rosterJobBad c), (7, s.carvingBad c),
    (8, s.xbarListBad c), (11, modelsBad c), (12, s.groupsBad c)]

end Sys2Proof.Machine
end

