-- ==== Sys2Proof/Machine/Swap.lean ====
section
/-!
DEFINITION. SWAP (spec/14_steps_and_serving.md, R333 to R335, Table 14.4; spec/04_links_and_routing.md, R78, R422;
spec/16_boot_security_faults.md, R379, R384, R387): what an accepted SWAP applies, from the top of Table 14.4 to its end.
-/

namespace Sys2Proof.Machine

/-! ### Conditions (R334) -/

/-- R334, first list. -/
def State.swapReady (s : State) : Bool :=
  ((List.range 64).all fun j => ((s.job j).st == .off || (s.job j).st == .ready) && (s.job j).mirror.isNone)
    && s.bit R.dspCtl 1
    && ((List.range 80).all fun g => (s.group g).st != .busy && (s.group g).st != .switching)
    && s.xbarEmpty

/-! ### The measurement log (Table 16.4) -/

/-- A set as CFG_READ returns it, parts 0 to 12 in order; parts 2 and 3 slot by slot. -/
def CfgSet.allBytes (c : CfgSet) : List Byte :=
  (List.range partCount).flatMap fun p =>
    if isListPart p then c.readPart p 0 0 (c.list p).length
    else (List.range (if hasSlotArg p then 64 else 1)).flatMap fun slot => c.readPart p slot 0 (recCount p)

/-! ### Job slots (R335, R384, R422) -/

/-- The lowest rank of a job slot that translates to this device and to an endpoint of `eps` (those that name
the core), with that endpoint. -/
def CfgSet.rankOf (c : CfgSet) (self slot : Nat) (eps : List Nat) : Option (Nat × Nat) :=
  let j0 := c.word 1 0 slot 0
  let ranks := wfld (c.word 1 0 slot 1) 20 0
  if !wbit j0 31 then none
  else (List.range (cdiv ranks 1024)).findSome? fun b =>
    let e := c.word 2 slot b 0
    let per := wfld e 30 20
    if !wbit e 31 || self < wfld e 19 10 then none
    else
      let found := eps.filterMap fun ep =>
        let q := (self - wfld e 19 10) * per + ep
        if ep < per ∧ wfld e 9 0 ≤ q ∧ q - wfld e 9 0 < 1024 ∧ 1024 * b + (q - wfld e 9 0) < ranks then
          some (1024 * b + (q - wfld e 9 0), ep)
        else none
      found.foldl (fun a r => match a with
        | some x => if r.1 < x.1 then some r else some x
        | none => some r) none

/-- TDn_Cc_JOB and TDn_Cc_RANK of a core that a job slot has. -/
def State.giveCore (s : State) (j job : Nat) (eps : List (Nat × Nat)) (u : Nat) : State :=
  let s := s.setReg (R.tdCJob u) (atFld 21 16 j ||| atFld 11 0 job)
  let w : Word := match s.active.rankOf s.selfDev j ((eps.filter fun e => e.2 == u).map (·.1)) with
    | some (r, ep) => oneBit 31 ||| atFld 29 20 ep ||| atFld 19 0 r
    | none => 0
  s.setReg (R.tdCRank u) w

/-- The endpoints of a job slot that name tile cores: endpoint and core. -/
def CfgSet.coreEps (c : CfgSet) (slot : Nat) : List (Nat × Nat) :=
  (List.range 1024).filterMap fun ep => match c.endpoint slot ep with
    | some (0, u) => some (ep, u)
    | _ => none

/-- One job slot brought to the active set: the slot's state, counter and parameters, its roster, its cores. -/
def State.applySlot (s : State) (j : Nat) : State :=
  let r := s.active.jobRec j
  let k := s.job j
  if !r.valid then (if k.st = .off then s else s.setJob j { Job.reset with changed := s.time.now })
  else
    let same := k.st ≠ .off ∧ k.job = r.job
    let k' := if same then k else { Job.reset with st := .ready, job := r.job, changed := s.time.now }
    let step := if same ∧ !r.stepGiven then k.step else BitVec.ofNat 64 r.step
    let roster := mget Roster.empty s.active.rosters j
    let s := s.setJob j
      { k' with seed := BitVec.ofNat 64 r.seed, det := r.det, partner := r.partner, mbase := r.mbase, pages := r.pages,
                rlist := r.rlist, cores := r.cores, roster := roster }
    let s := if (s.job j).step = step then s else s.setStep j step
    let s := if roster.n = 0 then s else s.extend 0x12 (shake512 (roster.bytes j))
    (s.jobCores j).foldl (fun s u => s.giveCore j r.job (s.active.coreEps j) u) s

/-- Entries of SEC_EXPELe whose job no slot holds any longer. -/
def State.dropExpels (s : State) : State :=
  (List.range 16).foldl (fun s e =>
    let w := s.reg (R.secExpel e)
    if wbit w 31 && (s.slotOfJob (wfld w 11 0)).isNone then s.setReg (R.secExpel e) 0 else s) s

/-! ### Page table roots (R276) -/

def State.applyRoots (s : State) : State :=
  let s := (List.range 64).foldl (fun s j =>
    let b := s.active.recBytes 6 0 j
    let hi := BitVec.ofNat 32 (leAt b 4 4)
    (s.setReg (R.tdAtuRootLo 0 j) (BitVec.ofNat 32 (leAt b 0 4))).setReg (R.tdAtuRootHi 0 j) hi) s
  { s with atu := [] }

/-! ### Pools and crossbar (R286, R65, R68) -/

def State.applyPools (s : State) : State :=
  let s := (s.writeBpmCtl 0).writeList (s.active.list 7) fun s a w => s.writeBpmWin (a - 0x200000) w
  s.writeBpmCtl 1

def State.applyXbar (s : State) : State :=
  let s := (s.writeXbarCtl 0).writeList (s.active.list 8) fun s a w => s.writeXbarWin (a - 0x100000) w
  s.writeXbarCtl 1

/-! ### Ports (R78, R104) -/

/-- A control register of a subport whose up_req a changed arrangement holds at 0 while the list is written: port die,
lane, Ethernet or fabric. -/
abbrev SubCtl := Nat × Nat × Bool

def SubCtl.reg (c : SubCtl) : Reg := if c.2.2 then R.portECtl c.1 c.2.1 else R.portPCfg c.1 c.2.1

/-- Port slots whose arrangement or lane mode the list changes (R335). A list that changes only the lane order or the
polarity of a slot with a subport up changes nothing: R78 ignores that write. -/
def State.changedSlots (s : State) (l : List (Nat × Word)) : List Nat :=
  (List.range (6 * s.ports)).filter fun j =>
    let r := R.portSlotcfg (j / 6) (j % 6)
    l.any fun e => e.1 == r.addr && (wfld e.2 1 0 != s.fld r 1 0 || wfld e.2 5 4 != s.fld r 5 4)

/-- The subport control registers of some port slots. -/
def slotCtls (js : List Nat) : List SubCtl :=
  js.flatMap fun j => (List.range 4).flatMap fun x => [(j / 6, 4 * (j % 6) + x, false), (j / 6, 4 * (j % 6) + x, true)]

def State.writePortAt (s : State) (a : Nat) (w : Word) : State :=
  match windowOf a with
  | some (.port n, o) => s.writePortWin n o w
  | _ => s

/-- The last value a list gives a register. -/
def lastIn (l : List (Nat × Word)) (a : Nat) : Option Word := (l.reverse.find? fun e => e.1 == a).map (·.2)

/-- The list of part 9: subports of a changed slot go down before it and train again after it. -/
def State.applyPorts (s : State) : State :=
  let l := s.active.list 9
  let ctls := slotCtls (s.changedSlots l)
  let want := ctls.map fun c => (c, (lastIn l c.reg.addr).getD (s.reg c.reg))
  let s := ctls.foldl (fun s c => if s.bit c.reg 0 then s.writePortAt c.reg.addr (s.reg c.reg &&& ~~~1) else s) s
  let held (a : Nat) : Bool := ctls.any fun c => c.reg.addr == a
  let s := s.writeList l fun s a w => s.writePortAt a (if held a then w &&& ~~~1 else w)
  want.foldl (fun s p =>
    let c := p.1
    let fits := match s.subportAt c.1 c.2.1 with
      | some (j, _) => s.slotMode j == (if c.2.2 then 1 else 0)
      | none => false
    if wbit p.2 0 && fits then s.writePortAt c.reg.addr p.2 else s) s

/-! ### Time and shutters (R305) -/

/-- Shutters whose registers the list changes. -/
def State.changedShutters (s : State) (l : List (Nat × Word)) : List Nat :=
  (List.range 64).filter fun b =>
    l.any fun e =>
      let o := e.1 - 0x20000
      0x1000 ≤ o && (o - 0x1000) / 0x80 == b
        && match regAtTime o with
           | some r => r.written (s.reg r) e.2 != s.reg r
           | none => false

/-- The list of part 10: a changed shutter is disabled before it and enabled after it. -/
def State.applyTime (s : State) : State :=
  let l := s.active.list 10
  let bs := s.changedShutters l
  let want := bs.map fun b => (b, (lastIn l (R.timeShutCfg b).addr).getD (s.reg (R.timeShutCfg b)))
  let s := bs.foldl (fun s b => s.writeShutCfg b (s.reg (R.timeShutCfg b) &&& ~~~(oneBit 31))) s
  let held (a : Nat) : Bool := bs.any fun b => (R.timeShutCfg b).addr == a
  let s := s.writeList l fun s a w => s.writeTimeWin (a - 0x20000) (if held a then w &&& ~~~(oneBit 31) else w)
  want.foldl (fun s p => if wbit p.2 31 then s.writeShutCfg p.1 p.2 else s) s

/-! ### The end of a SWAP -/

/-- Every circuit bucket starts full (R123). -/
def State.fillCircuits (s : State) : State :=
  let ids := (List.range 256).filter fun id => (s.circuit id).isSome
  { s with circT := ids.foldl (fun m id => mset 0 m id (fullTokens (s.circBurst id))) [] }

/-- Queued requests are freed under reason 5, and a group that the new table does not hold forgets its model. -/
def State.applyServing (s : State) : State :=
  let q := s.dsp.queue
  let s := q.foldl (fun s r => s.dropBuffer r.handle 5) (s.setDsp { s.dsp with queue := [] })
  let s := (List.range 80).foldl (fun s g =>
    if (s.groupRec g).valid then s else (s.groupOff g).setGroup g Group.reset) s
  s.refreshReady

/-- An accepted SWAP. -/
def State.applySwap (s : State) : State :=
  let s := s.extend 0x11 (shake512 s.shadow.allBytes)
  let s := { s with active := s.shadow, shadow := s.active }
  let s := ((List.range 64).foldl State.applySlot s).dropExpels
  let s := ((s.applyRoots.applyPools).applyXbar).applyPorts
  let s := s.syncCircuits.applyTime
  let s := s.fillCircuits.applyServing
  if s.dev = .loaded then s.setDev .configured else s

/-- The checks of SWAP. -/
def State.swapChecks (s : State) (m : Nat) : Checks :=
  let arg := if s.argLength m = 0 then none else some 0
  { Checks.plain arg [.loaded, .configured, .running] with
    more := s.swapReady, excl := true,
    conf := if s.swapReady then s.setBad.map (0x8000 + ·) else none }

/-- SWAP at work. -/
def State.swap (s : State) (m : Nat) : State := s.applySwap.ok m []

end Sys2Proof.Machine
end

