-- ==== Sys2Proof/Machine/MbxWork.lean ====
section
/-!
DEFINITION. The work of the mailbox commands that are no configuration command (spec/15_management_interface.md, R359, R360,
R362, R368; spec/16_boot_security_faults.md, R381, R382): information, job commands, program and memory moves, reads from other
devices, tests, running and stopping the device. Argument checks stand beside the work they guard.
-/

namespace Sys2Proof.Machine

/-- A check of the argument size alone. -/
def State.lengthBad (s : State) (m n : Nat) : Nat × Bool := (0, s.argLength m != n)

/-! ### Information -/

/-- GET_INFO's result. -/
def State.infoBytes (s : State) : List Byte :=
  leBytes 4 s.devId.toNat ++ leBytes 1 s.dev.code ++ leBytes 1 s.sec.mode ++ leBytes 2 s.selfDev
    ++ leBytes 4 s.sec.fwVersion.toNat ++ leBytes 8 s.sec.buildTag.toNat ++ leBytes 2 s.variant.tdp
    ++ leBytes 2 s.power.limit ++ leBytes 8 0

/-- GET_FAULT at work. The spec names 52 bytes of detail and does not say what they hold: free while a fault is held. -/
def State.getFault (s : State) (m : Nat) : State :=
  if s.reg R.devFault = 0 then s.ok m (zeros 64)
  else
    let detail := leBytes 52 (Config.freeNat s.freeCtr)
    (s.drawn).ok m (leBytes 4 (s.reg R.devFault).toNat ++ leBytes 8 s.mgmt.faultTime.toNat ++ detail)

/-- R368. -/
def State.contactBad (s : State) (dpa : Nat) : Bool :=
  dpa != 0 && (dpa % 4096 != 0 || !(s.dpaValid dpa && dpaRow dpa == some 0))

def State.setContact (s : State) (m : Nat) : State :=
  State.ok { s with mgmt := { s.mgmt with contactDpa := s.argNum m 0 8 } } m []

def State.setPower (s : State) (m : Nat) : State :=
  let w := s.argNum m 0 2
  State.ok { s with power := { s.power with limit := w } } m (leBytes 2 w)

def State.getMeasure (s : State) (m : Nat) : State :=
  let b := s.measureBytes
  (s.writeBar2 (s.argNum m 0 4) b).ok m (leBytes 4 b.length)

/-- Length of the measurement log as GET_MEASURE writes it. -/
def State.measureLength (s : State) : Nat := 80 + 80 * s.sec.log.length

/-! ### SELF_TEST (R381, Table 16.6) -/

/-- A memory whose tested keys hold free contents. -/
def overwrite [DecidableEq α] (d : α) (tested : Nat → Bool) (m : SMap α) (vs : List α) : SMap α :=
  (vs.zipIdx.filter fun e => tested e.2).foldl (fun m e => mset d m e.2 e.1) (mfilter (fun k => !tested k) m)

/-- A cell held at a crosspoint or in the pool dies after the test of those memories: another header (Table 3.1) and another
payload, as long as before. -/
def Cell.tested (c : Cell) (vs : List Nat) : Cell :=
  let b := (vs.drop (256 * c.pid)).map (BitVec.ofNat 8)
  let h := leNat (b.take 16)
  { c with dst := nbits h 121 7, src := nbits h 114 7, sub := nbits h 112 2, tc := nbits h 109 3, vc := nbits h 106 3,
           mcast := nbit h 105, sop := nbit h 104, eop := nbit h 103, cellIdx := nbits h 97 6, len := nbits h 89 8,
           job := nbits h 77 12, mgroup := nbits h 67 10, pktTag := nbits h 51 16, pktCells := nbits h 45 6,
           ts := nbits h 21 24, brw := nbit h 20, abt := nbit h 19, hcrc := BitVec.ofNat 16 h,
           data := (List.range c.data.length).map fun i => b.getD (16 + i) 0 }

/-- A descriptor or announce of a pending record after the test: other bytes, as many as before. -/
def Packet.tested (p : Packet) (b : List Byte) : Packet := { p with data := (List.range p.data.length).map fun i => b.getD i 0 }

/-- What the test leaves of the bookkeeping of one chunk slot: other values, and the slot in use or not, but for the packets it
holds. -/
def testedSlot (old : Option ChunkSlot) (w : List Nat) : Option ChunkSlot :=
  if old.isSome || nbit (w.getD 0 0) 0 then
    some { chunk := w.getD 1 0 % 65536, handled := w.getD 2 0 % 65, elems := w.getD 3 0 % 4096, recs := w.getD 4 0 % 4096,
           recSize := w.getD 5 0 % 256, flags := BitVec.ofNat 4 (w.getD 6 0),
           exact := ((List.range 4096).map fun i => (i, ((w.getD (16 + i) 0 : Nat) : Int) - 2 ^ 63)).filter fun e => e.2 != 0,
           holds := (old.map (·.holds)).getD [] }
  else none

/-- What the test of a control memory leaves of a context: its descriptor, announce record, pending record, per-input
counters and output bookkeeping are other values (R131, R137, R381). The packets a chunk slot holds are none of it. -/
def Ctx.tested (k : Ctx) (c : Nat) (vs : List Nat) : Ctx :=
  let w := vs.drop (65536 * c)
  let b := w.map (BitVec.ofNat 8)
  let later (p : PendRec) : PendRec :=
    { seq := w.getD 132 0 % 2 ^ 32, items := p.items.zipIdx.map fun i => i.1.tested (b.drop (1536 + 256 * i.2)) }
  { k with desc := k.desc.map fun _ => parseDesc (b.take 128),
           ann := { ins := (List.range 64).filter fun i => nbit (w.getD 128 0) i,
                    digests := (List.range (w.getD 129 0 % 64)).map fun i => slice b (512 + 16 * i) 16,
                    anyMm := nbit (w.getD 130 0) 0, count := BitVec.ofNat 64 (w.getD 131 0), tail := slice b 136 40 },
           pend := k.pend.map later,
           base := w.getD 133 0 % 65536, outst := (w.drop 176).take (w.getD 134 0 % 5),
           nextIn := ((List.range 64).map fun i => (i, w.getD (192 + i) 0 % 65536)).filter fun e => e.2 != 0,
           slots := (List.range 4).filterMap fun i => testedSlot k.slots[i]? (w.drop (32768 + 8192 * i)) }

/-- A DPA of a tile die that exists, in a row of Table 11.2. -/
def State.inRow (s : State) (r a : Nat) : Bool := dpaDie a < s.tiles && dpaRow a == some r

/-- The test of the tile-die SRAM: local store, die store, accumulators and semaphores. -/
def State.testTiles (s : State) (vs : List Nat) : State :=
  let n := s.tiles
  let s := (List.range (4 * n)).foldl State.foldCore s
  { s with ls := overwrite 0 (fun a => a < 4 * n * lsSize) s.ls (vs.map (BitVec.ofNat 8)),
           dpa := overwrite 0 (s.inRow 1) s.dpa (vs.map (BitVec.ofNat 8)),
           acc := overwrite 0 (fun _ => true) s.acc (vs.map (BitVec.ofNat 32)),
           accFlags := overwrite 0 (fun _ => true) s.accFlags (vs.map (BitVec.ofNat 3)),
           sems := overwrite 0 (fun k => k < 1024 * (4 * n)) s.sems (vs.map (BitVec.ofNat 32)) }

/-- The test of the crosspoint SRAM and the pool dies. -/
def State.testCrosspoints (s : State) (vs : List Nat) : State :=
  { s with xbar := { s.xbar with xq := s.xbar.xq.map fun e => { e with cell := e.cell.tested vs } } }

/-- The test of the stream-die memories: context memory, program store and control memory. -/
def State.testStreams (s : State) (vs : List Nat) : State :=
  let s : State := { s with ctxMem := overwrite 0 (fun _ => true) s.ctxMem (vs.map (BitVec.ofNat 8)) }
  let s : State := { s with prog := overwrite 0 (fun k => k < 1024 * 32) s.prog (vs.map (BitVec.ofNat 512)), progValid := [] }
  { s with ctxs := s.ctxs.map fun e => (e.1, e.2.tested e.1 vs) }

/-- The memories that the tests of a mask overwrite: what they leave there is not stated, a free value. -/
def State.testMemories (s : State) (mask : Nat) : State :=
  let vs := Config.freeNats s.freeCtr
  let s := if nbit mask 0 then s.testTiles vs else s
  let s := if nbit mask 1 then { s with dpa := overwrite 0 (s.inRow 0) s.dpa (vs.map (BitVec.ofNat 8)) } else s
  let s := if nbit mask 2 then s.testCrosspoints vs else s
  let s := if nbit mask 3 then s.testStreams vs else s
  let tested (w : MemSpace × Nat) : Bool := match w.1 with
    | .dpa => (nbit mask 0 && dpaRow w.2 == some 1) || (nbit mask 1 && dpaRow w.2 == some 0)
    | .ls _ | .acc _ => nbit mask 0
    | .ctx _ | .ctl _ | .prog _ => nbit mask 3
  State.drawn { s with ue := s.ue.filter fun w => !tested w }

def State.selfTest (s : State) (m : Nat) : State :=
  let mask := s.argNum m 0 4
  let s := (s.keepRunning m 0x0013 true).testMemories mask
  { s with mgmt := { s.mgmt with selfTest := some (m, mask) } }

/-- SELF_TEST_COMPLETE: the result of the tests that ran. -/
def State.selfTestDone (s : State) (failed tile port stream : Nat) (xbar : Bool) : State :=
  match s.mgmt.selfTest with
  | none => s
  | some (m, mask) =>
    let s := { s with mgmt := { s.mgmt with selfTest := none } }
    s.ok m (leBytes 4 mask ++ leBytes 4 (failed &&& mask) ++ leBytes 3 (tile % 2 ^ s.tiles)
      ++ leBytes 2 (port % 2 ^ s.ports) ++ leBytes 1 (stream % 256) ++ leBytes 1 (bnat xbar) ++ leBytes 1 0)

/-! ### LINK_TEST (R382) -/

/-- The subports a mask selects. -/
def State.testLanes (s : State) (m : Nat) : List Nat := setBits 288 (s.argNum m 0 36)

/-- The first bit of the mask that is no first lane of a fabric subport. -/
def State.laneBad (s : State) (m : Nat) : Option Nat :=
  ((s.testLanes m).find? fun l =>
    match s.subportAt (l / 24) (l % 24) with
    | some (j, _) => s.slotMode j != 0
    | none => true).map (· / 8)

def State.linkTest (s : State) (m : Nat) : State :=
  let lanes := s.testLanes m
  let s := s.keepRunning m 0x0014 true
  let s := lanes.foldl (fun s l =>
    let k := s.link (l / 24) (l % 24)
    s.setLink (l / 24) (l % 24) { k with testBad := k.st != .up }) s
  { s with mgmt := { s.mgmt with linkTest := some (m, lanes) } }

/-- Whether a subport passed: UP throughout, no error, the peer check on and met. -/
def State.lanePassed (s : State) (l : Nat) : Bool :=
  let k := s.link (l / 24) (l % 24)
  let p := s.reg (R.portPPeer (l / 24) (l % 24))
  k.st == .up && !k.testBad && wbit p 31 && wfld p 19 10 == k.peerDev && wfld p 8 0 == k.peerLane

/-- LINK_TEST_COMPLETE. -/
def State.linkTestDone (s : State) : State :=
  match s.mgmt.linkTest with
  | none => s
  | some (m, lanes) =>
    let s := { s with mgmt := { s.mgmt with linkTest := none } }
    s.ok m (leBytes 36 (bitsNat ((List.range 288).map fun l => lanes.contains l && s.lanePassed l)))

/-! ### Votes (R384) -/

/-- VOTE with a roster: it goes into the shadow set. -/
def State.voteRoster (s : State) (m : Nat) : State :=
  let b := s.argBytes m 0 520
  State.ok { s with shadow := { s.shadow with rosters := mset Roster.empty s.shadow.rosters (leAt b 1 1) (rosterOf b) } } m []

/-! ### Job commands (R326, R360, R363) -/

/-- The job slot that a command names in byte 0. -/
def State.argSlot (s : State) (m : Nat) : Nat := s.argNum m 0 1

/-- Entries of a begin: core and header word. -/
def State.beginEntries (s : State) (m : Nat) : List (Nat × Nat) :=
  (List.range (min (s.argNum m 2 2) 1018)).map fun i => (s.argNum m (8 + 4 * i) 1, s.argNum m (9 + 4 * i) 3)

def noStart : Nat := 0x3FFFF

/-- The checks of JOB_BEGIN and JOB_EVAL. -/
def State.beginChecks (s : State) (m : Nat) : Checks :=
  let j := s.argSlot m
  let es := (s.beginEntries m).zipIdx.flatMap fun e =>
    [(8 + 4 * e.2, !s.hasCore e.1.1), (9 + 4 * e.2, noStart < e.1.2)]
  let n := s.argNum m 2 2
  { Checks.plain (firstBad ([(0, s.argLength m != 8 + 4 * n || 4080 < 8 + 4 * n || 63 < j), (1, s.argNum m 1 1 != 0),
      (4, noStart < s.argNum m 4 4)] ++ es)) [.running] with
    slot := some (j, [.ready]), more := (s.job j).mirror.isNone }

/-- The cores a begin starts, in ascending order, with their header words. Where several entries name one core, which of
them counts is not stated. -/
def State.beginStarts (s : State) (m : Nat) : List (Nat × Nat) :=
  let es := s.beginEntries m
  let pc := s.argNum m 4 4
  (((s.jobCores (s.argSlot m)).filter fun u => (s.groupOf u).isNone).map fun u =>
    let mine := es.filter fun e => e.1 == u
    (u, ((mine[Config.freeNat (s.freeCtr + u) % mine.length]?).map (·.2)).getD pc)).filter fun e => e.2 != noStart

/-- Whether two entries of a begin name one core. -/
def State.doubleEntries (s : State) (m : Nat) : Bool := !((s.beginEntries m).map (·.1)).Nodup

def State.beginCommand (s : State) (m : Nat) (eval : Bool) : State :=
  let starts := s.beginStarts m
  let s := if s.doubleEntries m then { s with freeCtr := s.freeCtr + 80 } else s
  s.beginJob m (s.argSlot m) eval starts

/-- JOB_FAIL at work: applied here, and sent to the devices of the job. -/
def State.jobFail (s : State) (m : Nat) : State :=
  let j := s.argSlot m
  let code := s.argNum m 1 1
  let s := s.applyNotice (s.job j).job code
  (s.sendToJob j (s.mgmtBody j 1 code)).ok m []

/-- The leaf of the page a JOB_RELEASE names, where it is a remote-home page. -/
def State.remoteLeaf (s : State) (j va : Nat) : Option Nat :=
  (s.leafOf j va).filter leafRh

/-- An uncorrectable table entry on the way to that leaf (R271). -/
def State.releaseUe (s : State) (j va : Nat) : Option Nat := if (s.poolFrame j va).isSome then none else s.walkUe j va

/-- JOB_RELEASE at work (R280): the slot is invalidated on every tile die and the pager of the owning die is told. -/
def State.jobRelease (s : State) (m : Nat) : State :=
  let j := s.argSlot m
  let va := s.argNum m 8 8
  match s.releaseUe j va with
  | some w => (s.dpaUe w (s.slotJob j) 5).reply m stFaulted fcEccUe []
  | none =>
    let s := s.dropCached j
    match s.remoteLeaf j va with
    | some e => (s.releasePage (dpaDie (leafFrame e)) j va).ok m []
    | none => s.ok m []

/-! ### LOAD_SPROG (R362, R379) -/

def State.sprogBad (s : State) (m : Nat) : Option Nat :=
  let first := s.argNum m 4 2
  let n := s.argNum m 6 2
  firstBad [s.lengthBad m 12, (1, 15 < s.argNum m 1 1), (2, s.argNum m 2 2 != 0), (4, first < 7 || 1023 < first),
    (6, 1024 < first + n), (8, stageEnd < s.argNum m 8 4 + 64 * n)]

/-- LOAD_SPROG at work: the words go to every selected engine; the result counts the words stored invalid. -/
def State.loadSprog (s : State) (m : Nat) : State :=
  let first := s.argNum m 4 2
  let n := s.argNum m 6 2
  let data := s.bar2Bytes (s.argNum m 8 4) (64 * n)
  let es := (setBits 8 (s.argNum m 0 1)).flatMap fun d => (setBits 4 (s.argNum m 1 1)).map fun e => 4 * d + e
  let words := (List.range n).map fun i => leAt data (64 * i) 64
  let s := es.foldl (fun s e => words.zipIdx.foldl (fun s w => s.storeProg e (first + w.2) w.1) s) s
  let invalid := es.length * countWhere (fun w => !progWordOk w) words
  let s := s.extend 0x10 (shake512 (s.argBytes m 0 2 ++ s.argBytes m 4 4 ++ data))
  s.ok m (leBytes 2 (min invalid 0xFFFF))

/-! ### MEM_WRITE and MEM_READ (R362) -/

def State.memChecks (s : State) (m : Nat) (states : List DevState) : Checks :=
  let sp := s.argNum m 0 1
  let u := s.argNum m 1 1
  let n := s.argNum m 4 4
  { Checks.plain (firstBad [(0, s.argLength m != 20 || 2 < sp), (1, (sp == 1 && !s.hasCore u) || (sp == 2 && 63 < u)),
      (2, s.argNum m 2 2 != 0), (4, n == 0 || 16707584 < n), (16, stageEnd < s.argNum m 16 4 + n)]) states with
    more := sp != 1 || (s.core u).st == .idle || (s.core u).st == .halted }

/-- An uncorrectable word that a move meets: HBM and die store record it (R271), with no job, since it is no job fault
(R362). The agents of TDn_MEMFAULT0 do not list Hyzacia: the agent field is free (log entry 62). -/
def State.memAccessUe (s : State) (sp : MemSpace) (w : Nat) : State :=
  match sp with
  | .dpa => (s.dpaFound w (Config.freeNat s.freeCtr % 8)).drawn
  | _ => s

/-- A virtual address of a move that R274 refuses: recorded with the slot's job and the va (R275), on tile die 0 as of a free
agent (log entry 62); no job fault (R362). -/
def State.memAccessDenied (s : State) (j va : Nat) : State :=
  (s.memRecord 0 fcDenied (s.slotJob j) (Config.freeNat s.freeCtr % 8) 0 va).drawn

/-- Where a piece of a move lies: its memory and address there, or the code of what refuses the address. -/
def State.memPlace (s : State) (sp u a n : Nat) (write : Bool) : State × Except Nat (MemSpace × Nat) :=
  if sp = 0 then (s, if s.dpaSpan a n then .ok (.dpa, a) else .error fcDenied)
  else if sp = 1 then (s, if a + n ≤ lsSize then .ok (.ls u, a) else .error fcDenied)
  else if 2 ^ 48 < a + n then (s.memAccessDenied u a, .error fcDenied)
  else match s.translateVa 0 u a write with
    | (s, .ok d) => (s, .ok (.dpa, d))
    | (s, .ue w) => (s.memAccessUe .dpa w, .error fcEccUe)
    | (s, _) => (s.memAccessDenied u a, .error fcDenied)

/-- The uncorrectable words a piece meets: every one it touches for a read, those it covers in part for a write. Words
of local store that a later write replaced do not count. -/
def State.badWords (s : State) (sp : MemSpace) (a n : Nat) (write : Bool) : List Nat :=
  let bad : List Nat := match sp with
    | .ls u => s.lsBad u (s.core u).lsw (s.lastCycle u)
    | _ => (s.ue.filter fun w => w.1 == sp).map (·.2)
  bad.filter fun w => a / 8 ≤ w / 8 && w / 8 ≤ (a + n - 1) / 8 && !(write && a ≤ w / 8 * 8 && w / 8 * 8 + 8 ≤ a + n)

/-- The first uncorrectable word a piece meets. -/
def State.firstBadWord (s : State) (sp : MemSpace) (a n : Nat) (write : Bool) : Option Nat :=
  (s.badWords sp a n write).foldl (fun (m : Option Nat) w => some (min w (m.getD w))) none

def State.putPlace (s : State) (sp : MemSpace) (a : Nat) (bs : List Byte) : State :=
  match sp with
  | .ls u => s.lsPut u a bs
  | _ => s.writeDpa a bs

def State.getPlace (s : State) (sp : MemSpace) (a n : Nat) : List Byte :=
  match sp with
  | .ls u => s.lsNow u a n
  | _ => rdBytes s.dpa a n

/-- A move to memory, piece by piece in order; the code of the fault that ends it, 0 for none. -/
def State.memPut (s : State) (sp u : Nat) : List (Nat × Nat) → List Byte → State × Nat
  | [], _ => (s, 0)
  | (a, n) :: r, bs =>
    match s.memPlace sp u a n true with
    | (s, .error c) => (s, c)
    | (s, .ok (p, d)) =>
      match s.firstBadWord p d n true with
      | some w => ((s.putPlace p d (bs.take (w / 8 * 8 - d))).memAccessUe p w, fcEccUe)
      | none => State.memPut (s.putPlace p d (bs.take n)) sp u r (bs.drop n)

/-- A move from memory: the bytes before the fault that ends it, and its code. -/
def State.memGet (s : State) (sp u : Nat) : List (Nat × Nat) → State × List Byte × Nat
  | [] => (s, [], 0)
  | (a, n) :: r =>
    match s.memPlace sp u a n false with
    | (s, .error c) => (s, [], c)
    | (s, .ok (p, d)) =>
      match s.firstBadWord p d n false with
      | some w => (s.memAccessUe p w, s.getPlace p d (w / 8 * 8 - d), fcEccUe)
      | none =>
        match State.memGet s sp u r with
        | (s', bs, c) => (s', s.getPlace p d n ++ bs, c)

def State.memPieces (s : State) (m : Nat) : List (Nat × Nat) :=
  vaPieces (s.argNum m 4 4 / 2 ^ 21 + 2) (s.argNum m 8 8) (s.argNum m 4 4)

/-- MEM_WRITE at work: what comes before a fault stays written. -/
def State.memWrite (s : State) (m : Nat) : State :=
  let data := s.bar2Bytes (s.argNum m 16 4) (s.argNum m 4 4)
  match s.memPut (s.argNum m 0 1) (s.argNum m 1 1) (s.memPieces m) data with
  | (s, 0) => s.ok m []
  | (s, c) => s.reply m stFaulted c []

/-- MEM_READ at work. Whether a read that faults leaves the bytes before the fault in the staging window is not stated. -/
def State.memRead (s : State) (m : Nat) : State :=
  let off := s.argNum m 16 4
  match s.memGet (s.argNum m 0 1) (s.argNum m 1 1) (s.memPieces m) with
  | (s, bs, 0) => (s.writeBar2 off bs).ok m []
  | (s, bs, c) =>
    State.reply (if Config.freeBit s.freeCtr then s.drawn.writeBar2 off bs else s.drawn) m stFaulted c []

/-! ### FABRIC_READ (R362, R284) -/

def State.fabricReadChecks (s : State) (m : Nat) : Checks :=
  let j := s.argSlot m
  let rank := s.argNum m 4 4
  let n := s.argNum m 8 4
  { Checks.plain (firstBad [(0, s.argLength m != 24 || 63 < j), (1, s.argNum m 1 3 != 0), (4, 2 ^ 20 ≤ rank),
      (8, n == 0 || 16777216 < n), (12, 2 ^ 48 ≤ s.argNum m 12 8), (20, stageEnd < s.argNum m 20 4 + n)]) [.running] with
    busy := s.mgmt.fabricRead.isSome,
    conf := if (s.active.translate j rank).isNone then some 4 else none }

/-- FABRIC_READ at work: one READ_REQ to the rank. -/
def State.fabricReadStart (s : State) (m : Nat) : State :=
  let j := s.argSlot m
  let job := wfld (s.active.word 1 0 j 0) 11 0
  let va := s.argNum m 12 8
  let flow := Config.readFlow s.nextId % 4096
  let r : FabricRead :=
    { m := m, off := s.argNum m 20 4, len := s.argNum m 8 4, got := 0, job := job, va := va, flow := flow }
  let h := { PktHdr.zero opReadReq with srcDev := s.selfDev, srcEp := 1023, dstRank := s.argNum m 4 4, flow := flow,
                                        addr := va, msgBytes := s.argNum m 8 4 }
  let s := (s.keepRunning m 0x0043 false).attachPkt s.mgmtSlot none (some j)
    { hdr := h, vc := 0, tc := ownClass, job := job, tag := 0, abt := false, data := [] }
  { s with mgmt := { s.mgmt with fabricRead := some r } }

/-- READ_RSP at the management die: data of the read in progress go to its staging buffer, others are discarded; both
count as committed. -/
def State.readRsp (s : State) : State :=
  match s.takeArrival s.mgmtSlot fun a => a.pkt.hdr.op == opReadRsp && a.unit == 0 with
  | none => s
  | some (a, s) =>
    let h := a.pkt.hdr
    let s := s.commitArrival a
    match s.mgmt.fabricRead with
    | none => s
    | some r =>
      if !s.firmware || r.job ≠ a.pkt.job || r.va ≠ h.addr || r.flow ≠ h.flow || r.len < h.byteOff + a.pkt.data.length then s
      else
        let s := s.writeBar2 (r.off + h.byteOff) a.pkt.data
        let got := r.got + a.pkt.data.length
        let left := if got < r.len then some { r with got := got } else none
        let s := { s with mgmt := { s.mgmt with fabricRead := left } }
        if got < r.len then s else s.ok r.m []

/-- FABRIC_READ_TIMEOUT: 100 ms have passed. -/
def State.fabricReadLate (s : State) : State :=
  match s.mgmt.fabricRead with
  | none => s
  | some r => State.reply { s with mgmt := { s.mgmt with fabricRead := none } } r.m stFaulted 0 []

/-! ### DEV_STOP -/

/-- DEV_STOP at work: the dispatcher pauses, DRAINING, and every slot that has to be drained is. -/
def State.stopDevice (s : State) (m : Nat) : State :=
  let s := ((s.keepRunning m 0x0051 false).raise R.dspCtl 1).setDev .draining
  State.deviceDrain { s with mgmt := { s.mgmt with devStop := some (m, s.argNum m 0 2) } }

end Sys2Proof.Machine
end

