-- ==== Sys2Proof/Machine/Read.lean ====
section
/-!
DEFINITION. What BAR0 reads return (spec/00_scope.md, R8 to R11; spec/01_organisation.md, R16, R22, R23;
spec/15_management_interface.md, R349, R364, R369; the register maps): fields that show other state, 64-bit counters and their
latched high words, the interrupt tree. A register without a field of this kind returns its stored word.
-/

namespace Sys2Proof.Machine

def CoreState.code : CoreState → Nat
  | .idle => 0 | .running => 1 | .waiting => 2 | .halted => 3 | .faulted => 4

def CtxState.code : CtxState → Nat
  | .free => 0 | .announcing => 1 | .configured => 2 | .active => 3 | .failed => 4

def EthState.code : EthState → Nat
  | .down => 0 | .training => 1 | .up => 2

def GroupState.code : GroupState → Nat
  | .off => 0 | .idle => 1 | .busy => 2 | .switching => 3 | .faulted => 4

/-! ### Counters (R23) -/

/-- The core whose core window, matrix block or tile counters an offset of a tile die lies in, and the offset there. -/
def coreOffset (n o : Nat) : Option (Nat × Nat × Nat) :=
  if 0x80000 ≤ o ∧ o < 0xc0000 then some (0, 4 * n + (o - 0x80000) / 0x10000, o % 0x10000)
  else if 0xd0000 ≤ o ∧ o < 0xd0400 then some (1, 4 * n + (o - 0xd0000) / 0x100, o % 0x100)
  else if 0xd1000 ≤ o ∧ o < 0xd1400 then some (2, 4 * n + (o - 0xd1000) / 0x100, o % 0x100)
  else none

/-- A stored 64-bit counter by the BAR0 address of its low word. -/
def State.stored64 (s : State) (a : Nat) : Dword := mget 0 s.cnt a

/-- 64-bit values of a tile die by the offset of their low word. -/
def State.tdCounter (s : State) (n o : Nat) : Option Dword :=
  let a := tdBase n + o
  if o = 0x10 ∨ o = 0x40 ∨ o = 0x48 ∨ o = 0xc0010 then some (s.stored64 a)
  else match coreOffset n o with
  | some (0, u, p) =>
    if p = 0x28 then some (BitVec.ofNat 64 (s.core u).cyc)
    else if 0x40 ≤ p ∧ p < 0x78 ∧ p % 8 = 0 then some (s.stored64 a)
    else none
  | some (2, u, p) =>
    if p = 0x8 then some (s.stored64 a + BitVec.ofNat 64 ((s.core u).tilesRead false))
    else if p = 0x10 then some (s.stored64 a + BitVec.ofNat 64 ((s.core u).tilesRead true))
    else none
  | _ => none

/-- 64-bit values of a port die. -/
def State.portCounter (s : State) (n o : Nat) : Option Dword :=
  let a := portBase n + o
  if 0x100 ≤ o ∧ o < 0x700 ∧ ((o - 0x100) % 0x40 = 0x30 ∨ (o - 0x100) % 0x40 = 0x38) then some (s.stored64 a)
  else if 0x800 ≤ o ∧ o < 0xe00 ∧ (o - 0x800) % 0x40 = 0x34 then some (s.stored64 a)
  else if 0x800 ≤ o ∧ o < 0xe00 ∧ (o - 0x800) % 0x40 = 0x2c then
    let l := (o - 0x800) / 0x40
    some (mget 0 s.ethDrop (16 * lk n l + s.fld (R.portEDropsel n l) 3 0))
  else none

/-- 64-bit values of the DEV window. -/
def State.devCounter (s : State) (o : Nat) : Option Dword :=
  if 0x1000 ≤ o ∧ o < 0x1800 ∧ o % 0x20 = 0x4 then some (s.job ((o - 0x1000) / 0x20)).step
  else if 0x1000 ≤ o ∧ o < 0x1800 ∧ o % 0x20 = 0xc then some (s.job ((o - 0x1000) / 0x20)).mstep
  else if o = 0x2024 then some (mget 0 s.dsp.drops (s.fld R.dspDropsel 3 0))
  else if o = 0x202c ∨ o = 0x2034 then some (s.stored64 o)
  else none

/-- The flush count that XBAR_FLQSEL selects. -/
def State.flushCount (s : State) : Dword :=
  let w := s.reg R.xbarFlqsel
  mget 0 s.xbar.flq (flqKey (wfld w 18 12) (wfld w 11 5) (wfld w 4 3) (wfld w 2 0))

/-- The 64-bit counter whose low word stands at a BAR0 address. -/
def State.counterAt (s : State) (a : Nat) : Option Dword :=
  match windowOf a with
  | none => none
  | some (w, o) =>
    if !w.populated s.variant then none
    else match w with
    | .dev => s.devCounter o
    | .time => if o = 0x10 then some s.time.now else if o = 0x38 then some (s.stored64 a) else none
    | .xbar => if o = 0x24 then some s.flushCount else if o = 0x2c then some (s.stored64 a) else none
    | .port n => s.portCounter n o
    | .sd _ => if o = 0x28 ∨ o = 0x30 then some (s.stored64 a) else none
    | .td n => s.tdCounter n o
    | _ => none

/-! ### The interrupt tree (R364, Table 15.11) -/

/-- TDn_IRQ. -/
def State.tdIrq (s : State) (n : Nat) : Nat :=
  bitsNat ([s.reg (R.tdMemcause n) != 0, s.reg (R.tdSemcause n) != 0, s.reg (R.tdCollcause n) != 0]
    ++ (List.range 4).map fun c => s.reg (R.tdCCause (4 * n + c)) != 0)

def State.irqPort (s : State) : Nat :=
  bitsNat ((List.range s.ports).map fun n => s.reg (R.portCause n) != 0 || s.reg (R.portSchcause n) != 0)
def State.irqSd (s : State) : Nat := bitsNat ((List.range 8).map fun n => s.reg (R.sdCause n) != 0)
def State.irqTd (s : State) : Nat := bitsNat ((List.range s.tiles).map fun n => s.tdIrq n != 0)

/-- DEV_IRQ_SUMMARY. -/
def State.irqSummary (s : State) : Nat :=
  bitsNat [s.reg R.devMbxDone != 0, s.reg R.devEvent != 0, s.reg R.xbarCause != 0, s.reg R.bpmCause != 0,
    s.reg R.timeCause != 0, s.reg R.dspCause != 0, s.reg R.secCause != 0, s.irqPort != 0, s.irqSd != 0, s.irqTd != 0]

/-- Whether IRQ_N is driven low: by the device (R364), or, once an instruction has taken the pins, by the pin's cell of the
boundary register (R351; log entry 91). -/
def State.irqAsserted (s : State) : Bool :=
  if s.jtag.pinsTaken then !s.jtag.outputsZ && s.jtag.bsr.getD Config.irqCell false
  else s.dev != .off && (s.irqSummary &&& (s.reg R.devIrqEn).toNat) != 0

/-! ### Fields that show other state -/

/-- DEV_JOBj_STAT (Table 14.12). -/
def Job.statWord (k : Job) : Word :=
  BitVec.ofNat 32 (pack [(3, k.st.code), (1, bnat k.det), (1, bnat k.incomplete), (1, bnat k.mirror.isSome),
    (1, bnat k.mvalid), (1, k.mhalf), (8, k.code), (4, 0), (12, k.job)])

/-- The DEV window (Tables 0.3, 14.12, 14.13, 15.15). -/
def State.devView (s : State) (o : Nat) : Option Word :=
  let j := (o - 0x1000) / 0x20
  if o = 0x0 then some s.devId
  else if o = 0x4 then some (BitVec.ofNat 32 s.dev.code)
  else if o = 0x10 then some (BitVec.ofNat 32 s.irqSummary)
  else if o = 0x18 then some (BitVec.ofNat 32 s.irqPort)
  else if o = 0x1c then some (BitVec.ofNat 32 s.irqSd)
  else if o = 0x20 then some (BitVec.ofNat 32 s.irqTd)
  else if 0x1000 ≤ o ∧ o < 0x1800 ∧ o % 0x20 = 0x0 then some (s.job j).statWord
  else if 0x1000 ≤ o ∧ o < 0x1800 ∧ o % 0x20 = 0x14 then some (s.job j).evals
  else if o = 0x2010 then
    let m := s.fld R.dspQsel 7 0
    some (BitVec.ofNat 32 (pack [(1, bnat (s.dsp.ready.contains m)), (8, 0), (7, s.dsp.deficitOf m), (3, 0),
      (13, (s.dsp.of m).length)]))
  else if o = 0x2018 then
    let k := s.group (s.fld R.dspGsel 6 0)
    some (BitVec.ofNat 32 (pack [(3, k.st.code), (6, 0), (7, k.conts.length), (8, k.model.getD 0), (8, 0)]))
  else if o = 0x201c then some (BitVec.ofNat 32 s.dsp.queue.length)
  else none

/-- TIME_STAT and the shutters' STAT and GEN (Tables 12.7, 12.8). -/
def State.timeView (s : State) (o : Nat) : Option Word :=
  let b := (o - 0x1000) / 0x80
  if o = 0x24 then
    let locked := if s.isRoot then s.time.loaded else s.time.locked
    some (BitVec.ofNat 32 (bitsNat [s.time.loaded, locked, s.time.holdover]))
  else if 0x1000 ≤ o ∧ o < 0x3000 ∧ o % 0x80 = 0xc then some (atFld 31 29 (s.shutter b).st.code)
  else if 0x1000 ≤ o ∧ o < 0x3000 ∧ o % 0x80 = 0x10 then some (BitVec.ofNat 32 (s.shutter b).gen)
  else none

/-- SEC_MEASw. -/
def State.secView (s : State) (o : Nat) : Option Word :=
  if 0x40 ≤ o ∧ o < 0x80 then some (BitVec.ofNat 32 (leAt s.sec.acc (o - 0x40) 4)) else none

/-- XBAR_CTL.empty, XBAR_POOLFREE, XBAR_OUTCTLn.client. -/
def State.xbarView (s : State) (o : Nat) : Option Word :=
  if o = 0x0 then some (atFld 1 1 (bnat s.xbarEmpty) ||| atFld 0 0 (bnat s.xbarOn))
  else if o = 0xc then some (BitVec.ofNat 32 s.xbar.free)
  else if 0x400 ≤ o ∧ o < 0x600 then
    let j := (o - 0x400) / 4
    some (setFld (s.reg (R.xbarOutctl j)) 8 8 (bnat (s.populatedSlot j)))
  else none

/-- BPM_POOLk_FREE. -/
def State.bpmView (s : State) (o : Nat) : Option Word :=
  if 0x100 ≤ o ∧ o < 0x300 ∧ (o - 0x100) % 0x40 = 0x18 then
    some (BitVec.ofNat 32 (s.poolFreeShown ((o - 0x100) / 0x40)))
  else none

/-- The device-wide registers, PORTn_Pl_STAT and PORTn_El_CTL.state. -/
def State.portView (s : State) (n o : Nat) : Option Word :=
  if o = 0x28 then some (s.reg (R.portSelf 0))
  else if o = 0x2c then some (s.reg (R.portSaltLo 0))
  else if o = 0x30 then some (s.reg (R.portSaltHi 0))
  else if 0x100 ≤ o ∧ o < 0x700 ∧ (o - 0x100) % 0x40 = 0x8 then
    let k := s.link n ((o - 0x100) / 0x40)
    some (atFld 31 29 k.st.code ||| atFld 19 10 k.peerDev ||| atFld 8 0 k.peerLane)
  else if 0x800 ≤ o ∧ o < 0xe00 ∧ (o - 0x800) % 0x40 = 0x3c then
    let l := (o - 0x800) / 0x40
    some (setFld (s.reg (R.portECtl n l)) 31 29 (s.eth n l).st.code)
  else none

/-- The context that SDn_CTXSEL selects, where it is of this die. -/
def State.shownCtx (s : State) (n : Nat) : Option Ctx :=
  let c := s.fld (R.sdCtxsel n) 11 0
  if c / 512 = n then some (s.ctx c) else none

/-- SDn_CTXSTAT, SDn_CTXBASE and SDn_CTXSEQ. -/
def State.sdView (s : State) (n o : Nat) : Option Word :=
  if o = 0x1c then
    some (match s.shownCtx n with
      | some k => BitVec.ofNat 32 (pack [(3, k.st.code), (1, bnat k.pend.isSome), (8, k.code), (5, k.flags.toNat),
          (3, k.outst.length), (12, k.job)])
      | none => 0)
  else if o = 0x20 then some (((s.shownCtx n).map fun k => BitVec.ofNat 32 k.base).getD 0)
  else if o = 0x24 then some (((s.shownCtx n).map fun k => BitVec.ofNat 32 k.seq).getD 0)
  else none

/-- The core window of core u (Table 8.14). -/
def State.coreView (s : State) (u p : Nat) : Option Word :=
  let k := s.core u
  if p = 0xc then some (atFld 31 29 k.st.code ||| atFld 28 28 (bnat (s.qempty u)) ||| atFld 17 0 k.pc)
  else if p = 0x78 then
    some (BitVec.ofNat 32 (k.mq.length + 2 ^ 8 * k.vq0.length + 2 ^ 16 * k.vq1.length + 2 ^ 24 * k.dq0.length))
  else if p = 0x7c then some (BitVec.ofNat 32 (k.dq1.length + 2 ^ 8 * k.cq.length))
  else if 0x80 ≤ p ∧ p < 0xc0 ∧ p % 4 = 0 then some (mget 0 k.c ((p - 0x80) / 4))
  else if 0xc0 ≤ p ∧ p < 0xd8 ∧ p % 4 = 0 then
    let l := (p - 0xc0) / 4
    some (atFld 31 24 (mget LoopLevel.reset k.levels l).index ||| atFld 23 0 (mget 0 k.lc l))
  else if p = 0xe0 then
    let act := bitsNat ((List.range 6).map fun l => (mget LoopLevel.reset k.levels l).active)
    some (BitVec.ofNat 32 (bitsNat ((List.range 8).map fun i => mget false k.k i) + 256 * act))
  else none

/-- The matrix and vector registers of core u (Table 9.14). -/
def State.mvView (s : State) (u p : Nat) : Option Word :=
  let sel := s.reg (R.tdCAccsel u)
  let slot := wfld sel 6 1
  let bank := wbit sel 0
  if p = 0x0 then some (s.mflag u)
  else if p = 0x4 then some (s.vflag u)
  else if p = 0x1c then
    some (atFld 4 4 (bnat (s.activeBank u slot == bank)) ||| atFld 2 0 (s.bankFlags u slot bank).toNat)
  else if p = 0x20 then some ((s.bankNow u slot bank).getD (wfld sel 19 7) 0)
  else if p = 0x24 then some (BitVec.ofNat 32 (bitsNat ((List.range 32).map fun i => s.activeBank u i)))
  else if p = 0x28 then some (BitVec.ofNat 32 (bitsNat ((List.range 32).map fun i => s.activeBank u (32 + i))))
  else none

/-- The window of a tile die. -/
def State.tdView (s : State) (n o : Nat) : Option Word :=
  if o = 0x24 then some (atFld 0 0 (bnat (s.atuBusy.any fun b => b.1 == n)))
  else if o = 0x3c then
    some (BitVec.ofNat 32 (pack [(1, bnat (s.pagerBusy n)), (4, countWhere (fun w => w.n == n) s.wbs),
      (4, s.activeFetches n)]))
  else if 0x100 ≤ o ∧ o < 0x300 then (regAtTd 0 o).map s.reg
  else if o = 0xc000c then some (BitVec.ofNat 32 (countWhere (fun c => c.n == n) s.colls))
  else if o = 0xe0014 then some (s.sem (4 * n + s.fld (R.tdSemsel n) 11 10) (s.fld (R.tdSemsel n) 9 0))
  else if o = 0xf0000 then some (BitVec.ofNat 32 (s.tdIrq n))
  else match coreOffset n o with
  | some (0, u, p) => s.coreView u p
  | some (1, u, p) => s.mvView u p
  | _ => none

/-- The fields of a window that are computed when they are read. -/
def State.windowView (s : State) (w : Window) (o : Nat) : Option Word :=
  match w with
  | .dev => s.devView o
  | .mbx => if o % 4 = 0 then some (BitVec.ofNat 32 (leNat (rdBytes s.mbx o 4))) else none
  | .time => s.timeView o
  | .sec => s.secView o
  | .xbar => s.xbarView o
  | .bpm => s.bpmView o
  | .port n => s.portView n o
  | .sd n => s.sdView n o
  | .td n => s.tdView n o

/-- A 32-bit BAR0 read, with the high words as latched before: what no window answers and an address that is no multiple
of 4 read as ones (R10, R16, R349), an offset that no register has as zero. -/
def State.bar0 (s : State) (a : Nat) : Word :=
  match windowOf a with
  | none => onesWord
  | some (w, o) =>
    if !s.answers w || a % 4 != 0 then onesWord
    else match s.counterAt a with
    | some c => c.setWidth 32
    | none =>
      match s.windowView w o with
      | some v => v
      | none =>
        if 4 ≤ a && (s.counterAt (a - 4)).isSome then mget 0 s.latch a
        else match w.reg o with
        | some r => s.reg r
        | none => 0

/-! ### The PCIe configuration space (R348, Table 15.1) -/

/-- Device ID. -/
def Variant.pcieId : Variant → Nat
  | .xb4020 => 0x4020 | .xb4016n => 0x4016 | .xb4010s => 0x4010

/-- The writable bits of a configuration word: the command register, the two 64-bit BARs of 128 MiB and 16 MiB, the
interrupt line, the device control of the PCI Express capability, and the masks and severities of Advanced Error Reporting.
PMCSR has none: D0 only. The status words of error reporting clear by writing 1 and no row reports an error. The places are
those of the PCI Express headers (PRESUMED, log entry 65). -/
def pcieMask (o : Nat) : Word :=
  if o = 0x04 then 0x547
  else if o = 0x10 then 0xF8000000 else if o = 0x18 then 0xFF000000
  else if o = 0x14 ∨ o = 0x1C then 0xFFFFFFFF
  else if o = 0x3C then 0xFF
  else if o = 0x58 then 0xFF
  else if o = 0x108 ∨ o = 0x10C ∨ o = 0x114 then 0xFFFFFFFF
  else 0

/-- The word of link control and status: the speed and the width that the link trained to, of those of Table 15.1. -/
def pcieLinkWord : Word :=
  atFld 25 20 (2 ^ (Config.pcieLink / 5 % 3)) ||| atFld 19 16 (1 + Config.pcieLink % 5)

/-- What a configuration word holds beside its writable bits. The chain of capabilities is that of power management at 0x40
and of PCI Express at 0x50; the latter names payloads of 256 bytes, a link of 32 GT/s and four lanes, every speed below it,
and no Function Level Reset. -/
def State.pcieFixed (s : State) (o : Nat) : Word :=
  if o = 0x00 then BitVec.ofNat 32 (s.variant.pcieId * 2 ^ 16 + 0x1F8C)
  else if o = 0x04 then 0x100000
  else if o = 0x08 then BitVec.ofNat 32 (0x120000 * 2 ^ 8 + wfld s.devId 11 4)
  else if o = 0x10 then 0x4 else if o = 0x18 then 0xC
  else if o = 0x34 then 0x40
  else if o = 0x40 then 0x5001
  else if o = 0x50 then 0x20010
  else if o = 0x54 then 0x8001
  else if o = 0x5C then 0x45
  else if o = 0x60 then pcieLinkWord
  else if o = 0x7C then 0x3E
  else if o = 0x80 then 0x5
  else if o = 0x100 then 0x20001
  else 0

/-- A configuration read. -/
def State.pcieRead (s : State) (o : Nat) : Word := s.pcieFixed o ||| (mget 0 s.pcie.cfg o &&& pcieMask o)

/-- A configuration write. -/
def State.pcieWrite (s : State) (o : Nat) (w : Word) : State :=
  if pcieMask o = 0 then s else { s with pcie := { cfg := mset 0 s.pcie.cfg o (w &&& pcieMask o) } }

/-! ### The bus -/

/-- Where the staging window begins in the model's address operand: behind the 128 MiB of BAR0. -/
def bar2Base : Nat := 0x8000000

/-- Where the configuration space begins in it, behind the 16 MiB of BAR2. -/
def cfgBase : Nat := 0x9000000

/-- Whether an address is one of the staging window. -/
def inBar2 (a : Nat) : Bool := bar2Base ≤ a && a < cfgBase

/-- A read: of BAR0, where another width or an unaligned address gives ones (R10), of up to four bytes of the staging window,
or of a word of the configuration space. -/
def State.busRead (s : State) (a width : Nat) : Word :=
  if inBar2 a then
    if s.dev = .off then onesWord
    else BitVec.ofNat 32 (leNat (rdBytes s.bar2 (a - bar2Base) (min (min width 4) (cfgBase - a))))
  else if width ≠ 4 then onesWord
  else if cfgBase ≤ a then
    if s.dev = .off ∨ a % 4 ≠ 0 ∨ cfgBase + 0x1000 ≤ a then onesWord else s.pcieRead (a - cfgBase)
  else s.bar0 a

/-- COUNTER_LOW_READ: the low word returned and the high word latched, from one sample; in BAR0 outside every window the read
returns ones (R11). -/
def State.readCounter (s : State) (a : Nat) : State :=
  match windowOf a with
  | none => if s.dev = .off ∨ bar2Base ≤ a then s else { s with busData := onesWord }
  | some (w, _) =>
    s.onRead w (s.counterAt a).isSome
      (match s.counterAt a with
       | some c => { s with busData := c.setWidth 32, latch := mset 0 s.latch (a + 4) ((c >>> 32).setWidth 32) }
       | none => s)

end Sys2Proof.Machine
end

