-- ==== Sys2Proof/Machine/Device.lean ====
section
/-!
DEFINITION. The device as a whole (spec/15_management_interface.md, R350 to R354, R364 to R368; spec/16_boot_security_faults.md,
R370 to R376; spec/17_package_and_electrical.md, R403 to R406, R416 to R420): resets, device faults, the contact sheet, the
I3C target, the test access port, power and temperature.
-/

namespace Sys2Proof.Machine

/-! ### Full reset (R3, R354, R404 to R406, R419) -/

/-- The device in OFF: nothing is kept but what the pins hold, the commands that wait and the model's own numbers. -/
def State.fullReset (s : State) : State :=
  { State.resetOf s.variant with
    pending := s.pending, dev := .off, nextId := s.nextId, freeCtr := s.freeCtr,
    i3c := { (State.resetOf s.variant).i3c with staticAddr := s.i3c.staticAddr, id := s.i3c.id },
    power := { (State.resetOf s.variant).power with pwrOk := s.power.pwrOk, tripped := s.power.tripped } }

/-- PWR_OK falls: a reset, and the end of a thermal trip (R405, R419). -/
def State.pwrFalls (s : State) : State :=
  State.fullReset { s with power := { s.power with pwrOk := false, tripped := false } }

/-- FULL_RESET: RST_N, or with `pwr` PWR_OK, low for some nanoseconds. Between 100 ns and 1 µs the device resets or
not. In OFF a low RST_N changes nothing. -/
def State.lowPulse (s : State) (pwr : Bool) (ns : Nat) : State :=
  if ns < 100 ∨ (s.dev = .off ∧ pwr = false) then s
  else if 1000 ≤ ns then (if pwr then s.pwrFalls else s.fullReset)
  else if Config.freeBit s.freeCtr then (if pwr then s.drawn.pwrFalls else s.drawn.fullReset)
  else s.drawn

/-- RAIL_UNDERVOLTAGE: for 1 µs or more it acts as PWR_OK falling. -/
def State.undervoltage (s : State) (ns : Nat) : State := if !s.power.pwrOk || ns < 1000 then s else s.pwrFalls

/-- Whether the push-pull outputs are at high impedance: in OFF (R405), or by HIGHZ (R351). -/
def State.outputsHighZ (s : State) : Bool := s.dev == .off || s.jtag.outputsZ

/-- PWR_OK_RISING: I3C_ID is sampled. -/
def State.powerUp (s : State) (id : Nat) : State :=
  if s.dev ≠ .off then s
  else
    { s with power := { s.power with pwrOk := true, tripped := s.power.tripped && s.power.pwrOk },
             i3c := { s.i3c with id := id % 8, staticAddr := 0x30 + id % 8, dynAddr := none } }

/-- RESET_RELEASE: BOOT_MODE is sampled; in flash mode the ROM takes the helper record from flash. -/
def State.releaseReset (s : State) (bootMode : Nat) (helper : List Byte) : State :=
  if s.dev ≠ .off ∨ !s.power.pwrOk ∨ s.power.tripped then s
  else
    let mode := bootMode % 4
    let s := State.setField { s with dev := .rom } R.secBootstat 25 24 mode
    if mode = 0 then (s.setSec { s.sec with mode := mode, phase := .flash }).takeHelper (padTo 4096 helper)
    else s.setSec { s.sec with mode := mode, phase := .waiting }

/-- A write to DEV_RSTCTL: 0xA5 and then 0x5A, with no other write of it between, is a full reset. -/
def State.writeRstctl (s : State) (w : Word) : State :=
  if s.dev = .off then s
  else if s.mgmt.rstArmed && w == 0x5A then s.fullReset
  else { s with mgmt := { s.mgmt with rstArmed := w == 0xA5 } }

/-! ### Device faults (R353) -/

/-- Every tile core that runs is stopped. -/
def State.stopCores (s : State) : State :=
  (List.range (4 * s.tiles)).foldl (fun s u =>
    if (s.core u).st = .running ∨ (s.core u).st = .waiting then s.stopCore u else s) s

/-- Every fabric subport goes to DOWN (R104); what software wrote stays in its control registers. -/
def State.dropLinks (s : State) : State :=
  (List.range s.ports).foldl (fun s n => (s.dieSubports n).foldl (fun s p =>
    let r := R.portPCfg n p.1
    let w := s.reg r
    if s.slotMode p.2.1 ≠ 0 then s
    else (s.watchLink (s.writePortCfg n p.1 (w &&& ~~~1)) n p.1).setReg r w) s) s

/-- Entry to FAULTED. A self test that runs ends with FAULTED; commands in progress never complete. -/
def State.deviceFault (s : State) (source die : Nat) : State :=
  let code := if source = 2 then fcEccUe else 0
  let s := match s.mgmt.selfTest with
    | some (m, _) => s.reply m stFaulted code []
    | none => s
  let s := s.setReg R.devFault (atFld 31 24 code ||| atFld 23 16 source ||| atFld 15 8 (if source = 4 then die else 0))
  let s := { s with mgmt := { s.mgmt with running := [], fabricRead := none, linkTest := none, selfTest := none,
                                          devStop := none, faultTime := s.time.now, watchdogOn := false } }
  let s := (s.stopCores).dropLinks
  (s.raise R.dspCtl 1).setDev .faulted

/-- Whether the management cores run an image. -/
def State.coresRun (s : State) : Bool := s.firmware || (s.dev == .rom && s.sec.phase == .started)

/-- DEVICE_FAULT: 2 an uncorrectable error of management SRAM, 3 an internal check of Hyzacia, 4 a die that does not
answer. -/
def State.faultEvent (s : State) (source die : Nat) : State :=
  if s.dev = .off ∨ s.dev = .faulted then s
  else if source = 2 ∨ ((source = 3 ∨ source = 4) ∧ s.coresRun) then s.deviceFault source die
  else s

/-- WATCHDOG_EXPIRY: 100 ms without a heartbeat. -/
def State.watchdog (s : State) : State :=
  if s.coresRun && s.mgmt.watchdogOn then s.deviceFault 1 0 else s

/-- HEARTBEAT. -/
def State.heartbeat (s : State) : State := if s.coresRun then s.count R.devHeartbeat else s

/-! ### Telemetry (R350, R364, R367) -/

/-- Byte 1 of Table 15.2. -/
def State.teleFlags (s : State) : Nat :=
  let p := s.power
  bitsNat [p.throttling || p.clamped || p.arith < 16 || p.xbar < 16, s.irqAsserted, s.fld R.devFault 23 16 == 1]

/-- Table 15.2; the three supply currents are measured and free in this model. -/
def State.teleBlock (s : State) (draw : Nat) : List Byte :=
  leBytes 1 s.dev.code ++ leBytes 1 s.teleFlags ++ leBytes 2 (imod s.power.temp16 16) ++ leBytes 2 s.power.watts
    ++ leBytes 6 (Config.freeNat draw) ++ leBytes 4 s.irqSummary ++ leBytes 4 (s.reg R.devFault).toNat
    ++ leBytes 8 s.time.now.toNat ++ leBytes 2 s.power.limit ++ zeros 34

/-- I3C_TELEMETRY_REFRESH. -/
def State.refreshTele (s : State) : State :=
  if s.dev = .off then s
  else State.drawn { s with i3c := { s.i3c with block := s.teleBlock s.freeCtr } }

/-- One job slot's 32 bytes of the contact sheet. -/
def State.sheetSlot (s : State) (j : Nat) : List Byte :=
  let k := s.job j
  leBytes 1 k.st.code ++ leBytes 1 k.code
    ++ leBytes 1 (bitsNat [k.det, k.incomplete, k.mirror.isSome, k.mvalid]) ++ leBytes 1 0 ++ leBytes 2 k.job
    ++ leBytes 2 (if k.st = .off then 0 else countWhere (fun c => c.job == k.job) s.colls)
    ++ leBytes 8 k.step.toNat ++ leBytes 8 k.changed.toNat ++ leBytes 4 k.mstep.toNat ++ leBytes 4 0

/-- One core's 8 bytes. -/
def State.sheetCore (s : State) (u : Nat) : List Byte :=
  if !s.hasCore u then zeros 8
  else
    let k := s.core u
    leBytes 1 k.st.code ++ leBytes 1 (bitsNat [s.qempty u, k.safelight]) ++ leBytes 1 (s.fld (R.tdCJob u) 21 16) ++ leBytes 1 0
      ++ leBytes 4 k.pc

/-- Flushed cells of the output slots of a port die. -/
def State.dieFlushed (s : State) (n : Nat) : Nat :=
  ((s.xbar.flq.filter fun e => e.1 / 32 % 128 / 6 == n).map fun e => e.2.toNat).sum

/-- The subport whose first lane is `l` is UP: a fabric link, or an Ethernet link (R77, R109). -/
def State.laneUp (s : State) (n l : Nat) : Bool :=
  match s.subportAt n l with
  | some (j, _) => if s.slotMode j = 1 then (s.eth n l).st == .up else (s.link n l).st == .up
  | none => false

/-- One port die's 24 bytes. -/
def State.sheetPort (s : State) (n : Nat) : List Byte :=
  if s.ports ≤ n then zeros 24
  else
    let ls := List.range 24
    let failed (l : Nat) : Bool := (s.subportAt n l).isSome && (s.link n l).st == .failed
    leBytes 4 (bitsNat (ls.map (s.laneUp n))) ++ leBytes 4 (bitsNat (ls.map failed)) ++ leBytes 4 ((ls.map fun l => (s.reg (R.portPRetrains n l)).toNat).sum)
      ++ leBytes 4 ((ls.map fun l => (s.ctr (R.portPCrcfailLo n l)).toNat).sum) ++ leBytes 4 (s.dieFlushed n) ++ leBytes 4 0

/-- One stream die's 16 bytes. -/
def State.sheetStream (s : State) (n : Nat) : List Byte :=
  let cnt (st : CtxState) : Nat := countWhere (fun e => e.1 / 512 == n && e.2.st == st) s.ctxs
  leBytes 2 (cnt .active) ++ leBytes 2 (cnt .failed) ++ leBytes 4 (s.ctr (R.sdStrayLo n)).toNat
    ++ leBytes 4 (s.ctr (R.sdDiscLo n)).toNat ++ leBytes 4 0

/-- Bytes 0 to 4,091 of the contact sheet (Table 15.12). -/
def State.sheetBody (s : State) (seq : Nat) : List Byte :=
  leBytes 4 0x53484354 ++ leBytes 4 seq ++ leBytes 8 s.time.now.toNat ++ leBytes 1 s.dev.code ++ leBytes 1 0
    ++ leBytes 2 s.selfDev ++ leBytes 4 s.irqSummary ++ leBytes 2 (imod s.power.temp16 16) ++ leBytes 2 s.power.watts
    ++ leBytes 2 s.power.limit ++ leBytes 1 s.teleFlags ++ leBytes 1 0 ++ leBytes 4 (s.reg R.devFault).toNat
    ++ leBytes 4 (s.reg R.devBadstate).toNat ++ zeros 24
    ++ (List.range 64).flatMap s.sheetSlot ++ (List.range 80).flatMap s.sheetCore ++ (List.range 16).flatMap s.sheetPort
    ++ (List.range 8).flatMap s.sheetStream ++ zeros 828

/-- CONTACT_SHEET_REFRESH: seq ends at the next even number, and crc covers the sheet as it then stands. -/
def State.refreshSheet (s : State) : State :=
  if !s.firmware then s
  else
    let seq := (s.mgmt.sheetSeq + 2) % 2 ^ 32
    let b := s.sheetBody seq
    let b := b ++ leBytes 4 (crc32c b).toNat
    let s := State.writeBar2 { s with mgmt := { s.mgmt with sheetSeq := seq } } stageEnd b
    if s.mgmt.contactDpa = 0 then s else s.writeDpa s.mgmt.contactDpa b

/-! ### The I3C target (R350) -/

def State.setI3c (s : State) (c : I3c) : State := if s.dev = .off then s else { s with i3c := c }

/-- A private read: bytes from the offset, 0xFF past the block. -/
def State.i3cRead (s : State) (n : Nat) : State :=
  s.setI3c { s.i3c with reply := (List.range n).map fun i => s.i3c.block.getD (s.i3c.offset + i) 0xFF }

/-- The PID: manufacturer, device ID of Table 15.1, I3C_ID. -/
def State.i3cPid (s : State) : Nat :=
  0x52D * 2 ^ 33 + s.variant.pcieId * 2 ^ 16 + s.i3c.id % 8 * 2 ^ 12

def State.i3cReply (s : State) (bs : List Byte) : State := s.setI3c { s.i3c with reply := bs }

/-- An answer whose contents the spec does not give: free bytes. -/
def State.i3cFree (s : State) (n : Nat) : State :=
  if s.dev = .off then s else s.drawn.i3cReply (beBytes n (Config.freeNat s.freeCtr))

/-- A dynamic address given to a target that has none. -/
def State.i3cAssign (s : State) (a : Nat) : State :=
  if s.i3c.dynAddr.isSome then s else s.setI3c { s.i3c with dynAddr := some (a % 128) }

/-! ### The test access port (R351) -/

/-- Whether an instruction takes the pins from the device. -/
def JtagIr.takesPins : JtagIr → Bool
  | .bypass | .idcode | .samplePreload => false
  | .extest | .extestPulse | .extestTrain | .highz | .clamp => true

/-- An instruction with a data register of its own: IDCODE the device's code, BYPASS, HIGHZ and CLAMP one bit. -/
def State.jtagSelect (s : State) (ir : JtagIr) (dr : List Bool) : State :=
  { s with jtag := { s.jtag with ir := ir, dr := dr, pinsTaken := s.jtag.pinsTaken || ir.takesPins, outputsZ := ir == .highz } }

/-- An instruction that selects the boundary register, which takes the pins as they are: its cells are those of the BSDL, which
the spec does not give, so their number and what they hold are free (DESIGN CHOICE, log entry 91). -/
def State.jtagBoundary (s : State) (ir : JtagIr) : State :=
  let cells := (List.range Config.boundaryLength).map fun i => nbit (Config.freeNat s.freeCtr) i
  (State.jtagSelect { s with jtag := { s.jtag with bsr := cells } } ir cells).drawn

/-! ### Power and temperature (R25, R416 to R420) -/

def State.setPowerState (s : State) (p : Power) : State := { s with power := p }

/-- POWER_MEASURE. -/
def State.measurePower (s : State) (w : Nat) : State :=
  if s.firmware then s.setPowerState { s.power with watts := w } else s

def deg (c : Int) : Int := 16 * c

/-- One step down: the arithmetic clock first, then the crossbar clock. -/
def Power.slower (p : Power) : Power :=
  if 8 < p.arith then { p with arith := p.arith - 1 }
  else if 8 < p.xbar then { p with xbar := p.xbar - 1 }
  else p

/-- One step up, in the reverse order. -/
def Power.faster (p : Power) : Power :=
  if p.xbar < 16 then { p with xbar := p.xbar + 1 }
  else if p.arith < 16 then { p with arith := p.arith + 1 }
  else p

/-- THROTTLE_STEP with the highest sensor reading, which tj shows in every state but OFF (R416); Hyzacia steps the clocks
where it runs (R417). -/
def State.throttleStep (s : State) (t : Int) : State :=
  if s.dev = .off then s
  else if !s.firmware then s.setPowerState { s.power with temp16 := t }
  else
    let p := { s.power with temp16 := t }
    if deg 95 ≤ t ∨ p.limit < p.watts then
      let s := if p.throttling then s else s.raise R.devEvent 5
      s.setPowerState { (if p.clamped then p else p.slower) with throttling := true }
    else if t ≤ deg 92 ∧ p.watts < p.limit then
      let p := if p.clamped then p else p.faster
      s.setPowerState { p with throttling := p.arith < 16 || p.xbar < 16 }
    else s.setPowerState p

/-- THERMAL_CLAMP: at 103 °C. -/
def State.thermalClamp (s : State) (t : Int) : State :=
  if s.dev = .off ∨ t < deg 103 then s
  else s.setPowerState { s.power with temp16 := t, clamped := true, arith := min 8 s.power.arith, xbar := min 8 s.power.xbar }

/-- THERMAL_CLAMP_RELEASE: at 100 °C. -/
def State.clampRelease (s : State) (t : Int) : State :=
  if !s.power.clamped || deg 100 < t then s else s.setPowerState { s.power with temp16 := t, clamped := false }

/-- THERM_TRIP: at 110 °C, in OFF too; the trip holds until PWR_OK falls (R419). -/
def State.thermTrip (s : State) (t : Int) : State :=
  if (s.dev = .off ∧ s.power.pwrOk = false) ∨ t < deg 110 then s
  else State.fullReset { s with power := { s.power with tripped := true } }

end Sys2Proof.Machine
end

