-- ==== Sys2Proof/Machine/BusWrite.lean ====
section
/-!
DEFINITION. BAR0 writes (spec/00_scope.md, R8 to R11; spec/01_organisation.md, R16, R22; spec/15_management_interface.md, R349,
R354 to R356, R369): the write of any register by its address. Addresses from 128 MiB on stand for the staging window,
BAR2, and behind it the 4 KiB of the PCIe configuration space (log entry 7).
-/

namespace Sys2Proof.Machine

/-- The DEV window (R347, R354, R356, R369). -/
def State.writeDevWin (s : State) (o : Nat) (w : Word) : State :=
  if o = 0x8 then s.writeRstctl w
  else if o = 0x30 then s.writeMbxDb w
  else if o = 0x2004 then s.writeDspCause w
  else s.storeAt (regAtDev o) w

/-- A write at an offset of a window. -/
def State.writeWindow (s : State) (w : Window) (o : Nat) (v : Word) : State :=
  match w with
  | .dev => s.writeDevWin o v
  | .mbx => s.writeMbx o v
  | .time => s.writeTimeWin o v
  | .sec => s.storeAt (regAtSec o) v
  | .xbar => s.writeXbarWin o v
  | .bpm => s.writeBpmWin o v
  | .port n => s.writePortWin n o v
  | .sd n => s.writeSdWin n o v
  | .td n => s.writeTdWin n o v

/-- REGISTER_WRITE. BAR0 takes 32 bits at an aligned address and ignores every other write (R10), and so does the
configuration space; the staging window is memory and takes up to four bytes anywhere (log entry 7). -/
def State.busWrite (s : State) (a width : Nat) (v : Word) : State :=
  if s.dev = .off then s
  else if inBar2 a then s.writeBar2 (a - bar2Base) ((leBytes 4 v.toNat).take (min width (cfgBase - a)))
  else if width ≠ 4 ∨ a % 4 ≠ 0 then s
  else if cfgBase ≤ a then (if a < cfgBase + 0x1000 then s.pcieWrite (a - cfgBase) v else s)
  else match windowOf a with
  | none => s
  | some (w, o) => if s.answers w then s.writeWindow w o v else s

end Sys2Proof.Machine
end

