-- ==== Sys2Proof/Machine/DeviceCmds.lean ====
section
/-!
DEFINITION. Meanings of the device's own commands (spec/01_organisation.md, R22, R23; spec/15_management_interface.md, R349
to R354, R367; spec/16_boot_security_faults.md, R371 to R378; spec/17_package_and_electrical.md, R403 to R405, R417 to R420): one
definition per row of the table.
-/

namespace Sys2Proof.Machine

/-! ### BAR0 -/

/-- REGISTER_WRITE (R8 to R11, R16, R22). -/
def execRegisterWrite (addr width : Nat) (w : Word) (s : State) : Res := .next (s.busWrite addr width w)

/-- COUNTER_LOW_READ (R23). -/
def execCounterLowRead (addr : Nat) (s : State) : Res := .next (s.readCounter addr)

/-! ### Resets and boot -/

/-- DEV_RSTCTL (R354). -/
def execDevRstctl (w : Word) (s : State) : Res := .next (s.writeRstctl w)

/-- FULL_RESET (R3, R404, R405, R419): RST_N low, or PWR_OK low. -/
def execFullReset (pulse : LowPulse) (s : State) : Res := .next (s.lowPulse pulse.pwrOk pulse.ns)

/-- RAIL_UNDERVOLTAGE (R405). -/
def execRailUndervoltage (lowNs : Nat) (s : State) : Res := .next (s.undervoltage lowNs)

/-- PWR_OK_RISING (R350, R403). -/
def execPwrOkRising (id : Nat) (s : State) : Res := .next (s.powerUp id)

/-- RESET_RELEASE (R371, R377, R403). -/
def execResetRelease (bootMode : Nat) (helper : List Byte) (s : State) : Res := .next (s.releaseReset bootMode helper)

/-- IMAGE_CHECK_COMPLETE (R372, R375, R376). -/
def execImageCheckComplete (sfdpOk : Bool) (image : List Byte) (s : State) : Res := .next (s.flashChecked sfdpOk image)

/-- IDENTITY_KEY_READY (R378). -/
def execIdentityKeyReady (s : State) : Res := .next (if s.dev = .off then s else s.identityReady)

/-- HYZACIA_FIRST_ANSWER (R376). -/
def execHyzaciaFirstAnswer (s : State) : Res := .next s.firstAnswer

/-! ### Device faults and telemetry -/

/-- CONTACT_SHEET_REFRESH (R367). -/
def execContactSheetRefresh (s : State) : Res := .next s.refreshSheet

/-- HEARTBEAT (R369). -/
def execHeartbeat (s : State) : Res := .next s.heartbeat

/-- WATCHDOG_EXPIRY (R353). -/
def execWatchdogExpiry (s : State) : Res := .next s.watchdog

/-- DEVICE_FAULT (R353). -/
def execDeviceFault (source die : Nat) (s : State) : Res := .next (s.faultEvent source die)

/-- PCIE_LINK_RESET (R349, R404): the endpoint's configuration space goes to reset, and everything else keeps running. -/
def execPcieLinkReset (s : State) : Res := .next { s with pcie := Pcie.reset }

/-! ### I3C (R350) -/

/-- I3C_TELEMETRY_REFRESH (R350). -/
def execI3cTelemetryRefresh (s : State) : Res := .next s.refreshTele

/-- I3C_PRIVATE_WRITE (R350). -/
def execI3cPrivateWrite (offset : Nat) (s : State) : Res := .next (s.setI3c { s.i3c with offset := offset % 256 })

/-- I3C_PRIVATE_READ (R350). -/
def execI3cPrivateRead (count : Nat) (s : State) : Res := .next (s.i3cRead count)

/-- ENTDAA (R350). -/
def execEntdaa (addr : Nat) (s : State) : Res := .next (s.i3cAssign addr)

/-- SETDASA (R350). -/
def execSetdasa (addr : Nat) (s : State) : Res := .next (s.i3cAssign addr)

/-- RSTDAA (R350). -/
def execRstdaa (s : State) : Res := .next (s.setI3c { s.i3c with dynAddr := none })

/-- GETPID (R350). -/
def execGetpid (s : State) : Res := .next (s.i3cReply (beBytes 6 s.i3cPid))

/-- GETBCR (R350). -/
def execGetbcr (s : State) : Res := .next (s.i3cReply [0])

/-- GETDCR (R350). -/
def execGetdcr (s : State) : Res := .next (s.i3cReply [0])

/-- GETSTATUS (R350). -/
def execGetstatus (s : State) : Res := .next (s.i3cFree 2)

/-- GETMWL (R350). -/
def execGetmwl (s : State) : Res := .next (s.i3cFree 2)

/-- GETMRL (R350). -/
def execGetmrl (s : State) : Res := .next (s.i3cFree 2)

/-- ENEC (R350). -/
def execEnec (events : Nat) (s : State) : Res := .next (s.setI3c { s.i3c with events := s.i3c.events ||| events % 256 })

/-- DISEC (R350). -/
def execDisec (events : Nat) (s : State) : Res :=
  .next (s.setI3c { s.i3c with events := s.i3c.events &&& (255 - events % 256) })

/-! ### JTAG (R351) -/

/-- BYPASS (R351), and every opcode that names no instruction. -/
def execBypass (_opcode : Nat) (s : State) : Res := .next (s.jtagSelect .bypass [false])

/-- IDCODE (R351). -/
def execIdcode (s : State) : Res := .next (s.jtagSelect .idcode (bitList 32 s.variant.idcode))

/-- SAMPLE/PRELOAD (R351). -/
def execSamplePreload (s : State) : Res := .next (s.jtagBoundary .samplePreload)

/-- EXTEST (R351). -/
def execExtest (s : State) : Res := .next (s.jtagBoundary .extest)

/-- EXTEST_PULSE (R351). -/
def execExtestPulse (s : State) : Res := .next (s.jtagBoundary .extestPulse)

/-- EXTEST_TRAIN (R351). -/
def execExtestTrain (s : State) : Res := .next (s.jtagBoundary .extestTrain)

/-- HIGHZ (R351). -/
def execHighz (s : State) : Res := .next (s.jtagSelect .highz [false])

/-- CLAMP (R351). -/
def execClamp (s : State) : Res := .next (s.jtagSelect .clamp [false])

/-! ### Power and temperature -/

/-- POWER_MEASURE (R420). -/
def execPowerMeasure (watts : Nat) (s : State) : Res := .next (s.measurePower watts)

/-- THROTTLE_STEP (R25, R366, R417). -/
def execThrottleStep (temp16 : Int) (s : State) : Res := .next (s.throttleStep temp16)

/-- THERMAL_CLAMP (R418). -/
def execThermalClamp (temp16 : Int) (s : State) : Res := .next (s.thermalClamp temp16)

/-- THERMAL_CLAMP_RELEASE (R418). -/
def execThermalClampRelease (temp16 : Int) (s : State) : Res := .next (s.clampRelease temp16)

/-- THERM_TRIP (R419). -/
def execThermTrip (temp16 : Int) (s : State) : Res := .next (s.thermTrip temp16)

end Sys2Proof.Machine
end

