-- ==== Sys2Proof/Machine/DispatcherCmds.lean ====
section
/-!
DEFINITION. Meanings of the serving dispatcher's commands (spec/14_steps_and_serving.md): one definition per row of the
table.
-/

namespace Sys2Proof.Machine

/-- REQUEST_DESCRIPTOR (R338). -/
def execRequestDescriptor (s : State) : Res := .next s.takeRequest

/-- REQUEST_AGE_DROP (R338). -/
def execRequestAgeDrop (m : Nat) (s : State) : Res := .next (s.requestAgeDrop m)

/-- MODEL_WAIT_EXPIRY (R339). -/
def execModelWaitExpiry (m : Nat) (s : State) : Res := .next (s.modelWaitExpiry m)

/-- DISPATCH (R339, R340, R342, R344). -/
def execDispatch (s : State) : Res := .next s.dispatchAll

/-- SWITCH_HALTED (R344). -/
def execSwitchHalted (g : Nat) (s : State) : Res := .next (if g < 80 then s.switchHalted g else s)

/-- BATCH_COMPLETION (R341, R342). -/
def execBatchCompletion (s : State) : Res := .next s.batchCompletion

end Sys2Proof.Machine
end

