-- ==== Sys2Proof/Machine/EthCmds.lean ====
section
/-!
DEFINITION. Meanings of the commands of Ethernet subports (spec/04_links_and_routing.md, R108 to R113): one definition
per row of the table.
-/

namespace Sys2Proof.Machine

/-- ETH_UP_REQ (R108, R109): a write of PORTn_El_CTL.up_req = 1. -/
def execEthUpReq (n l : Nat) (w : Word) (s : State) : Res :=
  .next (s.onWrite (.port n) (l < 24 && wbit w 0) (s.writeEthCtl n l w))

/-- ETH_DOWN_REQ (R109): a write of PORTn_El_CTL.up_req = 0. -/
def execEthDownReq (n l : Nat) (w : Word) (s : State) : Res :=
  .next (s.onWrite (.port n) (l < 24 && !wbit w 0) (s.writeEthCtl n l w))

/-- ETH_TRAINING_COMPLETE (R109). -/
def execEthTrainingComplete (n l : Nat) (s : State) : Res := .next (s.ethTrained n l)

/-- ETH_LINK_FAULT (R109): a lane loses lock or alignment, or the FEC loses lock. -/
def execEthLinkFault (n l : Nat) (s : State) : Res := .next (s.ethLost n l)

/-- ETH_FAULT_SEQUENCE_TIMEOUT (R109): fault sequences have arrived for 1 ms. -/
def execEthFaultSequenceTimeout (n l : Nat) (s : State) : Res := .next (s.ethLost n l)

/-- FRAME_RECEIVE (R2, R66, R108, R110 to R112, R290). -/
def execFrameReceive (n l : Nat) (f : List Byte) (s : State) : Res := .next (s.receiveFrame n l f)

/-- RESPONSE_TRANSMIT (R113). -/
def execResponseTransmit (n l : Nat) (s : State) : Res := .next (s.transmitResponse n l)

end Sys2Proof.Machine
end

