-- ==== Sys2Proof/Machine/MbxCmds.lean ====
section
/-!
DEFINITION. Meanings of the mailbox commands and of what Hyzacia does by itself for jobs (spec/14_steps_and_serving.md,
spec/15_management_interface.md, spec/16_boot_security_faults.md): one definition per row of the table. A mailbox row starts the
command that waits in mailbox `m` when its opcode is the row's (log entry 6).
-/

namespace Sys2Proof.Machine

/-! ### What Hyzacia does by itself -/

/-- XBAR_JMAP_SERVICE (R74). -/
def execXbarJmapService (s : State) : Res := .next s.xbarJmapService.deviceDrain

/-- PORT_JMAP_SERVICE (R107, R96, R125). -/
def execPortJmapService (n : Nat) (s : State) : Res := .next (s.portJmapService n).deviceDrain

/-- JOB_FAULT_SERVICE (R192, R327, R365). -/
def execJobFaultService (s : State) : Res := .next s.jobFaultService.deviceDrain

/-- JOB_FAULT_NOTICE (R192, R327, R363). -/
def execJobFaultNotice (s : State) : Res := .next s.jobFaultNotice.deviceDrain

/-- BALLOT_RECEIVE (R385 to R387). -/
def execBallotReceive (s : State) : Res := .next s.ballotReceive.deviceDrain

/-- READ_RSP (R284, R362). -/
def execReadRsp (s : State) : Res := .next s.readRsp

/-- DRAIN_LIMIT_EXPIRY (R328 step 2). -/
def execDrainLimitExpiry (slot : Nat) (s : State) : Res := .next (if s.firmware then s.drainLimit slot else s)

/-- DRAIN_COMPLETE (R328 steps 3 to 10, R329). -/
def execDrainComplete (slot : Nat) (s : State) : Res := .next (if s.firmware then s.drainComplete slot else s)

/-- MIRROR_COMPLETE (R332). -/
def execMirrorComplete (slot : Nat) (s : State) : Res := .next (if s.firmware then s.mirrorComplete slot else s)

/-- SELF_TEST_COMPLETE (R381). -/
def execSelfTestComplete (failed tile port stream : Nat) (xbar : Bool) (s : State) : Res :=
  .next (if s.firmware then s.selfTestDone failed tile port stream xbar else s)

/-- LINK_TEST_COMPLETE (R382). -/
def execLinkTestComplete (s : State) : Res := .next (if s.firmware then s.linkTestDone else s)

/-- FABRIC_READ_TIMEOUT (R362). -/
def execFabricReadTimeout (s : State) : Res := .next (if s.firmware then s.fabricReadLate else s)

/-! ### Mailbox commands -/

/-- GET_INFO (R359). -/
def execGetInfo (m : Nat) (s : State) : Res :=
  .next (s.command m 0x0001 (fun s => Checks.plain (firstBad [s.lengthBad m 0]) devAll) fun s => s.ok m s.infoBytes)

/-- GET_FAULT (R359). -/
def execGetFault (m : Nat) (s : State) : Res :=
  .next (s.command m 0x0002 (fun s => Checks.plain (firstBad [s.lengthBad m 0]) devAll) fun s => s.getFault m)

/-- SET_CONTACT (R368). -/
def execSetContact (m : Nat) (s : State) : Res :=
  .next (s.command m 0x0003
    (fun s => Checks.plain (firstBad [s.lengthBad m 8, (0, s.contactBad (s.argNum m 0 8))]) devFw) fun s => s.setContact m)

/-- SET_POWER (R25, R420). -/
def execSetPower (m : Nat) (s : State) : Res :=
  .next (s.command m 0x0004
    (fun s => Checks.plain
      (firstBad [s.lengthBad m 2, (0, s.argNum m 0 2 < 400 || s.variant.tdp < s.argNum m 0 2)]) devFw)
    fun s => s.setPower m)

/-- LOAD_IMAGE (R373, R375, R376): it waits while the ROM still checks the image in flash. -/
def execLoadImage (m : Nat) (s : State) : Res :=
  .next (if s.dev = .rom ∧ s.sec.phase = .flash then s
    else s.command m 0x0010
      (fun s =>
        let n := s.argNum m 0 4
        { Checks.plain (firstBad [s.lengthBad m 4, (0, n < 4096 || 0xFFE000 < n)]) [.rom] with excl := true })
      fun s => s.loadImage m)

/-- GET_MEASURE (R379). -/
def execGetMeasure (m : Nat) (s : State) : Res :=
  .next (s.command m 0x0011
    (fun s =>
      { Checks.plain (firstBad [s.lengthBad m 4]) devFw with
        conf := if stageEnd < s.argNum m 0 4 + s.measureLength then some 0 else none })
    fun s => s.getMeasure m)

/-- GET_ATTEST (R380). -/
def execGetAttest (m : Nat) (s : State) : Res :=
  .next (s.command m 0x0012
    (fun s =>
      { Checks.plain (firstBad [s.lengthBad m 36, (32, stageEnd < s.argNum m 32 4 + 3216)]) devFw with
        denied := !s.bit R.secIdstat 0 })
    fun s => s.attest m)

/-- SELF_TEST (R381). -/
def execSelfTest (m : Nat) (s : State) : Res :=
  .next (s.command m 0x0013
    (fun s => { Checks.plain (firstBad [s.lengthBad m 4, (0, 0x3F < s.argNum m 0 4)]) [.loaded] with excl := true })
    fun s => s.selfTest m)

/-- LINK_TEST (R382). -/
def execLinkTest (m : Nat) (s : State) : Res :=
  .next (s.command m 0x0014
    (fun s =>
      { Checks.plain (firstBad [s.lengthBad m 36]) [.configured] with excl := true, conf := s.laneBad m })
    fun s => s.linkTest m)

/-- VOTE with a roster (R383, R384); a record of neither kind is refused here. -/
def execVoteRoster (m : Nat) (s : State) : Res :=
  .next (if s.argNum m 0 1 = 1 then s
    else s.command m 0x0015
      (fun s => Checks.plain (rosterBad (s.argBytes m 0 520) (s.argLength m)) [.configured, .running]) fun s => s.voteRoster m)

/-- VOTE with a ballot (R383, R385, R386). -/
def execVoteBallot (m : Nat) (s : State) : Res :=
  .next (if s.argNum m 0 1 ≠ 1 then s
    else (s.command m 0x0015
      (fun s => Checks.plain (ballotBad (s.argBytes m 0 3096) (s.argLength m)) [.configured, .running])
      fun s => s.voteBallot m).deviceDrain)

/-- CFG_WRITE (R333, R361). -/
def execCfgWrite (m : Nat) (s : State) : Res :=
  .next (s.command m 0x0020 (fun s => s.cfgWriteChecks m) fun s => s.cfgWrite m)

/-- CFG_READ (R359, R361). -/
def execCfgRead (m : Nat) (s : State) : Res :=
  .next (s.command m 0x0021 (fun s => s.cfgReadChecks m) fun s => s.cfgRead m)

/-- CFG_COPY (R359). -/
def execCfgCopy (m : Nat) (s : State) : Res :=
  .next (s.command m 0x0022 (fun s => { Checks.plain (firstBad [s.lengthBad m 0]) devFw with excl := true })
    fun s => s.cfgCopy m)

/-- SWAP (R334, R335). -/
def execSwap (m : Nat) (s : State) : Res := .next (s.command m 0x0023 (fun s => s.swapChecks m) fun s => s.swap m)

/-- JOB_BEGIN (R325, R327, R337, R360). -/
def execJobBegin (m : Nat) (s : State) : Res :=
  .next (s.command m 0x0030 (fun s => s.beginChecks m) fun s => s.beginCommand m false)

/-- JOB_EVAL (R330, R360). -/
def execJobEval (m : Nat) (s : State) : Res :=
  .next (s.command m 0x0031 (fun s => s.beginChecks m) fun s => s.beginCommand m true)

/-- JOB_DRAIN (R328 step 1). -/
def execJobDrain (m : Nat) (s : State) : Res :=
  .next (s.command m 0x0032
    (fun s =>
      { Checks.plain (firstBad [(0, s.argLength m != 4 || 63 < s.argSlot m), (1, s.argNum m 1 1 != 0)]) [.running] with
        slot := some (s.argSlot m, [.running, .eval, .failed]) })
    fun s => (s.keepRunning m 0x0032 false).startDrain (s.argSlot m) (some m) (s.argNum m 2 2))

/-- JOB_SET_STEP (R325). -/
def execJobSetStep (m : Nat) (s : State) : Res :=
  .next (s.command m 0x0033
    (fun s =>
      { Checks.plain (firstBad [(0, s.argLength m != 16 || 63 < s.argSlot m), (1, s.argNum m 1 7 != 0)])
          [.configured, .running] with
        slot := some (s.argSlot m, [.ready]) })
    fun s => (s.setStep (s.argSlot m) (BitVec.ofNat 64 (s.argNum m 8 8))).ok m [])

/-- JOB_MIRROR (R331, R332). -/
def execJobMirror (m : Nat) (s : State) : Res :=
  .next (s.command m 0x0034
    (fun s =>
      { Checks.plain (firstBad [(0, s.argLength m != 1 || 63 < s.argSlot m)]) [.running] with
        slot := some (s.argSlot m, [.ready]), more := (s.job (s.argSlot m)).mirror.isNone })
    fun s => (s.keepRunning m 0x0034 false).startMirror m (s.argSlot m))

/-- JOB_FAIL (R327, R363). -/
def execJobFail (m : Nat) (s : State) : Res :=
  .next (s.command m 0x0035
    (fun s =>
      { Checks.plain (firstBad [(0, s.argLength m != 2 || 63 < s.argSlot m),
          (1, s.argNum m 1 1 == 0 || 0x0B < s.argNum m 1 1)]) [.running, .draining] with
        slot := some (s.argSlot m, [.ready, .running, .eval, .draining, .failed]) })
    fun s => (s.jobFail m).deviceDrain)

/-- JOB_RELEASE (R280). -/
def execJobRelease (m : Nat) (s : State) : Res :=
  .next (s.command m 0x0036
    (fun s =>
      { Checks.plain (firstBad [(0, s.argLength m != 16 || 63 < s.argSlot m), (1, s.argNum m 1 7 != 0),
          (8, 2 ^ 48 ≤ s.argNum m 8 8)]) [.running] with
        slot := some (s.argSlot m, [.ready, .running, .eval]),
        conf := if (s.releaseUe (s.argSlot m) (s.argNum m 8 8)).isNone && (s.remoteLeaf (s.argSlot m) (s.argNum m 8 8)).isNone then some 8
          else none })
    fun s => s.jobRelease m)

/-- LOAD_SPROG (R144, R316, R362). -/
def execLoadSprog (m : Nat) (s : State) : Res :=
  .next (s.command m 0x0040 (fun s => Checks.plain (s.sprogBad m) [.loaded, .configured, .running]) fun s => s.loadSprog m)

/-- MEM_WRITE (R362). -/
def execMemWrite (m : Nat) (s : State) : Res :=
  .next (s.command m 0x0041 (fun s => s.memChecks m [.loaded, .configured, .running]) fun s => s.memWrite m)

/-- MEM_READ (R362). -/
def execMemRead (m : Nat) (s : State) : Res :=
  .next (s.command m 0x0042 (fun s => s.memChecks m devFw) fun s => s.memRead m)

/-- FABRIC_READ (R284, R357, R362). -/
def execFabricRead (m : Nat) (s : State) : Res :=
  .next (s.command m 0x0043 (fun s => s.fabricReadChecks m) fun s => s.fabricReadStart m)

/-- DEV_RUN (R352). -/
def execDevRun (m : Nat) (s : State) : Res :=
  .next (s.command m 0x0050
    (fun s => { Checks.plain (firstBad [s.lengthBad m 0]) [.configured] with excl := true })
    fun s => (s.setDev .running).ok m [])

/-- DEV_STOP (R359). -/
def execDevStop (m : Nat) (s : State) : Res :=
  .next (s.command m 0x0051 (fun s => Checks.plain (firstBad [s.lengthBad m 2]) [.running]) fun s => s.stopDevice m)

/-- BAD_OPCODE (R358). -/
def execBadOpcode (m : Nat) (s : State) : Res := .next (s.badOpcode m)

/-- DOORBELL_IGNORED (R356). -/
def execDoorbellIgnored (m : Nat) (s : State) : Res := .next (s.doorbellIgnored m)

end Sys2Proof.Machine
end

