-- ==== Sys2Proof/Machine/MemoryCmds.lean ====
section
/-!
DEFINITION. Meanings of the semaphores', the memory's, the pools' and fabric time's commands
(spec/11_memory_and_pools.md, spec/12_synchronisation.md): one definition per row of the table.
-/

namespace Sys2Proof.Machine

/-! ### Semaphores, memory and pools -/

/-- SEM_ADD (R20, R292, R295, R297). -/
def execSemAdd (u : Nat) (s : State) : Res := .next (s.receiveSemAdd u)

/-- SEMDATA_WRITE (R313). -/
def execSemdataWrite (n : Nat) (w : Word) (s : State) : Res := .next (s.onWrite (.td n) true (s.writeSemdata n w))

/-- WRITE (R274, R275, R277, R284). -/
def execWrite (n : Nat) (s : State) : Res := .next (s.inboundWrite n)

/-- READ_REQ (R284). -/
def execReadReq (n : Nat) (s : State) : Res := .next (s.inboundReadReq n)

/-- PAGE_FETCH (R279). -/
def execPageFetch (n : Nat) (s : State) : Res := .next (s.servePage n)

/-- PAGE_DATA (R278, R279). -/
def execPageData (n : Nat) (s : State) : Res := .next (s.pageData n)

/-- PAGE_WB (R280, R282). -/
def execPageWb (n : Nat) (s : State) : Res := .next (s.pageWb n)

/-- PAGE_RELEASE (R280): TDn_PGCMD with cmd 1. -/
def execPageRelease (n : Nat) (w : Word) (s : State) : Res :=
  .next (s.onWrite (.td n) (wfld w 31 30 == 1) (s.writePgcmd n w))

/-- RELEASE_JOB (R281): TDn_PGCMD with cmd 2. -/
def execReleaseJob (n : Nat) (w : Word) (s : State) : Res :=
  .next (s.onWrite (.td n) (wfld w 31 30 == 2) (s.writePgcmd n w))

/-- PAGER_ABORT_JOB (R283): TDn_PGCMD with cmd 3. -/
def execPagerAbortJob (n : Nat) (w : Word) (s : State) : Res :=
  .next (s.onWrite (.td n) (wfld w 31 30 == 3) (s.writePgcmd n w))

/-- ATU_INV (R276). -/
def execAtuInv (n : Nat) (w : Word) (s : State) : Res := .next (s.onWrite (.td n) true (s.writeAtuInv n w))

/-- ATU_INV_COMPLETE (R276). -/
def execAtuInvComplete (n : Nat) (s : State) : Res := .next (s.atuInvDone n)

/-- PATROL_SCRUB (R269, R271, R272). -/
def execPatrolScrub (n corrected : Nat) (decayed : List (MemSpace × Nat)) (s : State) : Res :=
  .next (if s.dev = .off then s else s.scrub n corrected decayed)

/-- BPM_ENABLE (R285, R286). -/
def execBpmEnable (w : Word) (s : State) : Res := .next (s.onWrite .bpm (wbit w 0) (s.writeBpmCtl w))

/-- BPM_ALLOCATE (R287, R290). -/
def execBpmAllocate (size : Nat) (s : State) : Res := .next (s.onWrite .bpm true (s.requestAlloc size))

/-- BPM_FREE (R288, R290). -/
def execBpmFree (h : Word) (s : State) : Res := .next (s.onWrite .bpm true (s.requestFree h))

/-- MINFREE_READ (R9, R349). -/
def execMinfreeRead (k : Nat) (s : State) : Res := .next (s.onRead .bpm (k < 8) (s.readMinfree k))

/-! ### Fabric time and shutters -/

/-- TIME_SYNC_SEND (R301). -/
def execTimeSyncSend (n l : Nat) (s : State) : Res := .next (s.sendSync n l)

/-- TIME_EPOCH_SEND (R301). -/
def execTimeEpochSend (n l : Nat) (s : State) : Res := .next (s.sendEpoch n l)

/-- TIME_SYNC_RECEIVE (R299, R301). -/
def execTimeSyncReceive (n l t1 : Nat) (s : State) : Res := .next (s.receiveSync n l t1)

/-- TIME_EPOCH_RECEIVE (R301). -/
def execTimeEpochReceive (n l hi : Nat) (s : State) : Res := .next (s.receiveEpoch n l hi)

/-- TIME_ECHO_RECEIVE (R302). -/
def execTimeEchoReceive (n l : Nat) (d : Int) (void : Bool) (t3 : Nat) (s : State) : Res :=
  .next (s.receiveEcho n l d void t3)

/-- TIME_HOLDOVER (R302). -/
def execTimeHoldover (s : State) : Res := .next s.timeSilent

/-- TIME_LOAD (R304): TIME_CMD with load set. -/
def execTimeLoad (w : Word) (s : State) : Res := .next (s.onWrite .time (wbit w 0) (s.writeTimeCmd w))

/-- TIME_ARM (R304): TIME_CMD with arm set. -/
def execTimeArm (w : Word) (s : State) : Res := .next (s.onWrite .time (wbit w 1) (s.writeTimeCmd w))

/-- FT_SYNC_EDGE (R304, R411). -/
def execFtSyncEdge (ns : Nat) (s : State) : Res := .next (if s.dev = .off then s else s.ftSync ns)

/-- SHUTTER_ENABLE (R305). -/
def execShutterEnable (b : Nat) (w : Word) (s : State) : Res :=
  .next (s.onWrite .time (b < 64 && wbit w 31) (s.writeShutCfg b w))

/-- SHUTTER_DISABLE (R307). -/
def execShutterDisable (b : Nat) (w : Word) (s : State) : Res :=
  .next (s.onWrite .time (b < 64 && !wbit w 31) (s.writeShutCfg b w))

/-- LOCAL_ARRIVAL (R306). -/
def execLocalArrival (s : State) : Res := .next s.localArrival

/-- ARRIVE_FLIT (R306). -/
def execArriveFlit (n l b gen : Nat) (s : State) : Res := .next (s.arriveChild n l b gen)

/-- RELEASE_FLIT (R307, R308). -/
def execReleaseFlit (n l b gen t : Nat) (s : State) : Res := .next (s.receiveRelease n l b gen t)

/-- SHUTTER_RELEASE (R307, R308, R311). -/
def execShutterRelease (b : Nat) (s : State) : Res := .next (s.shutterDue b)

end Sys2Proof.Machine
end

