-- ==== Sys2Proof/Machine/StreamCmds.lean ====
section
/-!
DEFINITION. Meanings of the stream engines' commands (spec/06_stream_engines.md, spec/13_stream_macro_ops.md): one
definition per row of the table. Engines 0 to 31 exist on every assembly.
-/

namespace Sys2Proof.Machine

/-- A stream engine at work: in FAULTED it stands still (R353), and it stalls while the crossbar is disabled (R66). -/
def State.engineDoes (s : State) (e : Nat) (t : State) : State :=
  if e < 32 ∧ s.dev ≠ .faulted ∧ s.xbarOn = true then t else s

/-- ENGINE_WRITE (R132 to R135, R137). -/
def execEngineWrite (e : Nat) (s : State) : Res := .next (s.engineDoes e (s.engineWrite e))

/-- COLL_ANN_RECEIVE (R136, R137, R140). -/
def execCollAnnReceive (e : Nat) (s : State) : Res := .next (s.engineDoes e (s.engineAnn e))

/-- COLL_DATA_RECEIVE (R139 to R143, R157, R160). -/
def execCollDataReceive (e : Nat) (s : State) : Res := .next (s.engineDoes e (s.engineData e))

/-- HANDLER_RUN (R142, R145, R146, R148 to R152, R317, R423). -/
def execHandlerRun (e : Nat) (s : State) : Res := .next (s.engineDoes e (s.handlerRun e))

/-- CHUNK_EMIT (R150, R153 to R156). -/
def execChunkEmit (e : Nat) (s : State) : Res := .next (s.engineDoes e (s.chunkEmit e))

/-- ENGINE_COMPLETE_RECEIVE (R135, R137, R138). -/
def execEngineCompleteReceive (e : Nat) (s : State) : Res := .next (s.engineDoes e (s.engineComplete e))

/-- SD_JOB_FAIL (R158, R159): SDn_JOBCMD with cmd 1. -/
def execSdJobFail (n : Nat) (w : Word) (s : State) : Res :=
  .next (s.onWrite (.sd n) (n < 8 && wfld w 31 30 == 1) (s.writeSdJobcmd n w))

/-- SD_JOB_FREE (R159): SDn_JOBCMD with cmd 2. -/
def execSdJobFree (n : Nat) (w : Word) (s : State) : Res :=
  .next (s.onWrite (.sd n) (n < 8 && wfld w 31 30 == 2) (s.writeSdJobcmd n w))

/-- SD_PROG_WRITE (R144, R316): SDn_PROGCMD with bit 1 set. -/
def execSdProgWrite (n : Nat) (w : Word) (s : State) : Res :=
  .next (s.onWrite (.sd n) (n < 8 && wbit w 1) (s.writeProgcmd n w))

/-- SD_PROG_READ (R162): SDn_PROGCMD with bit 0 set. -/
def execSdProgRead (n : Nat) (w : Word) (s : State) : Res :=
  .next (s.onWrite (.sd n) (n < 8 && wbit w 0) (s.writeProgcmd n w))

/-- SD_CMDATA_ACCESS (R162). -/
def execSdCmdataAccess (n : Nat) (write : Bool) (w : Word) (s : State) : Res :=
  .next (if write then s.onWrite (.sd n) (n < 8) (s.accessCmdata n true w)
    else s.onRead (.sd n) (n < 8) (s.accessCmdata n false w))

end Sys2Proof.Machine
end

