-- ==== Sys2Proof/Machine/Dispatch.lean ====
section
/-!
DEFINITION. The dispatcher of the commands: one arm per row of spec/opcode_table.json, each one direct call of the
command's meaning. The queue of waiting commands is no concern of a meaning.
-/

namespace Sys2Proof.Machine

open Sys2Proof

def exec (i : Instr) (s : State) : Host.Outcome State Fault Refusal :=
  match i with
  | .registerWrite addr width value => Sys2Proof.Machine.execRegisterWrite addr width value s
  | .counterLowRead addr => Sys2Proof.Machine.execCounterLowRead addr s
  | .minfreeRead k => Sys2Proof.Machine.execMinfreeRead k s
  | .xbarEnable value => Sys2Proof.Machine.execXbarEnable value s
  | .xbarDisable value => Sys2Proof.Machine.execXbarDisable value s
  | .xbarCpminWrite value => Sys2Proof.Machine.execXbarCpminWrite value s
  | .mcgWrite g off value => Sys2Proof.Machine.execMcgWrite g off value s
  | .cellSend i_ => Sys2Proof.Machine.execCellSend i_ s
  | .poolGrant => Sys2Proof.Machine.execPoolGrant s
  | .storedCopyCreditGrant i_ g => Sys2Proof.Machine.execStoredCopyCreditGrant i_ g s
  | .cellLeave j bufferUe => Sys2Proof.Machine.execCellLeave j bufferUe s
  | .outputDown j sub => Sys2Proof.Machine.execOutputDown j sub s
  | .flushDone j sub => Sys2Proof.Machine.execFlushDone j sub s
  | .outputUp j sub => Sys2Proof.Machine.execOutputUp j sub s
  | .xbarJmapService => Sys2Proof.Machine.execXbarJmapService s
  | .slotcfgWrite n k value => Sys2Proof.Machine.execSlotcfgWrite n k value s
  | .flitReceive n l f => Sys2Proof.Machine.execFlitReceive n l f s
  | .replayRequest n l ack => Sys2Proof.Machine.execReplayRequest n l ack s
  | .ackControlFlit n l => Sys2Proof.Machine.execAckControlFlit n l s
  | .flitTransmit n l => Sys2Proof.Machine.execFlitTransmit n l s
  | .packetInject i_ => Sys2Proof.Machine.execPacketInject i_ s
  | .packetForward n l vc => Sys2Proof.Machine.execPacketForward n l vc s
  | .packetDeliver n l vc => Sys2Proof.Machine.execPacketDeliver n l vc s
  | .throttleLevelUpdate n l tc => Sys2Proof.Machine.execThrottleLevelUpdate n l tc s
  | .trackerCount => Sys2Proof.Machine.execTrackerCount s
  | .complete => Sys2Proof.Machine.execComplete s
  | .messageSlotGrant dev => Sys2Proof.Machine.execMessageSlotGrant dev s
  | .tblcmdWrite n value => Sys2Proof.Machine.execTblcmdWrite n value s
  | .tblcmdRead n value => Sys2Proof.Machine.execTblcmdRead n value s
  | .linkUpReq n l value => Sys2Proof.Machine.execLinkUpReq n l value s
  | .linkDownReq n l value => Sys2Proof.Machine.execLinkDownReq n l value s
  | .trainingComplete n l peerDev peerLane => Sys2Proof.Machine.execTrainingComplete n l peerDev peerLane s
  | .retrainTrigger n l => Sys2Proof.Machine.execRetrainTrigger n l s
  | .retrainComplete n l => Sys2Proof.Machine.execRetrainComplete n l s
  | .retrainTimeout n l => Sys2Proof.Machine.execRetrainTimeout n l s
  | .portJmapService n => Sys2Proof.Machine.execPortJmapService n s
  | .egressCellTake j sub => Sys2Proof.Machine.execEgressCellTake j sub s
  | .ethUpReq n l value => Sys2Proof.Machine.execEthUpReq n l value s
  | .ethDownReq n l value => Sys2Proof.Machine.execEthDownReq n l value s
  | .ethTrainingComplete n l => Sys2Proof.Machine.execEthTrainingComplete n l s
  | .ethLinkFault n l => Sys2Proof.Machine.execEthLinkFault n l s
  | .ethFaultSequenceTimeout n l => Sys2Proof.Machine.execEthFaultSequenceTimeout n l s
  | .frameReceive n l frame => Sys2Proof.Machine.execFrameReceive n l frame s
  | .responseTransmit n l => Sys2Proof.Machine.execResponseTransmit n l s
  | .egressSelect n l => Sys2Proof.Machine.execEgressSelect n l s
  | .bucketRefresh n => Sys2Proof.Machine.execBucketRefresh n s
  | .telemetrySample n => Sys2Proof.Machine.execTelemetrySample n s
  | .ringRecordWrite n => Sys2Proof.Machine.execRingRecordWrite n s
  | .histselWrite n value => Sys2Proof.Machine.execHistselWrite n value s
  | .histclr n value => Sys2Proof.Machine.execHistclr n value s
  | .engineWrite e => Sys2Proof.Machine.execEngineWrite e s
  | .collAnnReceive e => Sys2Proof.Machine.execCollAnnReceive e s
  | .collDataReceive e => Sys2Proof.Machine.execCollDataReceive e s
  | .handlerRun e => Sys2Proof.Machine.execHandlerRun e s
  | .chunkEmit e => Sys2Proof.Machine.execChunkEmit e s
  | .engineCompleteReceive e => Sys2Proof.Machine.execEngineCompleteReceive e s
  | .sdJobFail n value => Sys2Proof.Machine.execSdJobFail n value s
  | .sdJobFree n value => Sys2Proof.Machine.execSdJobFree n value s
  | .sdProgWrite n value => Sys2Proof.Machine.execSdProgWrite n value s
  | .sdProgRead n value => Sys2Proof.Machine.execSdProgRead n value s
  | .sdCmdataAccess n write value => Sys2Proof.Machine.execSdCmdataAccess n write value s
  | .collAccept u => Sys2Proof.Machine.execCollAccept u s
  | .collControlAnnounce n => Sys2Proof.Machine.execCollControlAnnounce n s
  | .collAnnounceReceive n => Sys2Proof.Machine.execCollAnnounceReceive n s
  | .collRelease n => Sys2Proof.Machine.execCollRelease n s
  | .collChunkSend n => Sys2Proof.Machine.execCollChunkSend n s
  | .landingChunk n => Sys2Proof.Machine.execLandingChunk n s
  | .collDoneSend n => Sys2Proof.Machine.execCollDoneSend n s
  | .collDoneResult n => Sys2Proof.Machine.execCollDoneResult n s
  | .collJobAbort n value => Sys2Proof.Machine.execCollJobAbort n value s
  | .coreStart u value => Sys2Proof.Machine.execCoreStart u value s
  | .coreStop u value => Sys2Proof.Machine.execCoreStop u value s
  | .coreClear u value => Sys2Proof.Machine.execCoreClear u value s
  | .xcwDispatch u cycles => Sys2Proof.Machine.execXcwDispatch u cycles s
  | .haltHoldEnd u => Sys2Proof.Machine.execHaltHoldEnd u s
  | .mma u => Sys2Proof.Machine.execMma u s
  | .mms u => Sys2Proof.Machine.execMms u s
  | .close u => Sys2Proof.Machine.execClose u s
  | .vecAdd u => Sys2Proof.Machine.execVecAdd u s
  | .vecSub u => Sys2Proof.Machine.execVecSub u s
  | .vecMul u => Sys2Proof.Machine.execVecMul u s
  | .div u => Sys2Proof.Machine.execDiv u s
  | .vecMin u => Sys2Proof.Machine.execVecMin u s
  | .vecMax u => Sys2Proof.Machine.execVecMax u s
  | .abs u => Sys2Proof.Machine.execAbs u s
  | .sqrt u => Sys2Proof.Machine.execSqrt u s
  | .rcp u => Sys2Proof.Machine.execRcp u s
  | .exp2 u => Sys2Proof.Machine.execExp2 u s
  | .log2 u => Sys2Proof.Machine.execLog2 u s
  | .cvt u => Sys2Proof.Machine.execCvt u s
  | .sum u => Sys2Proof.Machine.execSum u s
  | .sumsq u => Sys2Proof.Machine.execSumsq u s
  | .meanvar u => Sys2Proof.Machine.execMeanvar u s
  | .amax u => Sys2Proof.Machine.execAmax u s
  | .opt u => Sys2Proof.Machine.execOpt u s
  | .thin u => Sys2Proof.Machine.execThin u s
  | .drain u => Sys2Proof.Machine.execDrain u s
  | .mov u => Sys2Proof.Machine.execMov u s
  | .fill u => Sys2Proof.Machine.execFill u s
  | .dmaGet u eng => Sys2Proof.Machine.execDmaGet u eng s
  | .dmaPut u eng => Sys2Proof.Machine.execDmaPut u eng s
  | .dmaSend u eng => Sys2Proof.Machine.execDmaSend u eng s
  | .dmaSignal u eng => Sys2Proof.Machine.execDmaSignal u eng s
  | .dmaComplete u eng => Sys2Proof.Machine.execDmaComplete u eng s
  | .semAdd u => Sys2Proof.Machine.execSemAdd u s
  | .semdataWrite n value => Sys2Proof.Machine.execSemdataWrite n value s
  | .write n => Sys2Proof.Machine.execWrite n s
  | .readReq n => Sys2Proof.Machine.execReadReq n s
  | .readRsp => Sys2Proof.Machine.execReadRsp s
  | .pageFetch n => Sys2Proof.Machine.execPageFetch n s
  | .pageData n => Sys2Proof.Machine.execPageData n s
  | .pageWb n => Sys2Proof.Machine.execPageWb n s
  | .pageRelease n value => Sys2Proof.Machine.execPageRelease n value s
  | .releaseJob n value => Sys2Proof.Machine.execReleaseJob n value s
  | .pagerAbortJob n value => Sys2Proof.Machine.execPagerAbortJob n value s
  | .atuInv n value => Sys2Proof.Machine.execAtuInv n value s
  | .atuInvComplete n => Sys2Proof.Machine.execAtuInvComplete n s
  | .patrolScrub n corrected decayed => Sys2Proof.Machine.execPatrolScrub n corrected decayed s
  | .bpmEnable value => Sys2Proof.Machine.execBpmEnable value s
  | .bpmAllocate size => Sys2Proof.Machine.execBpmAllocate size s
  | .bpmFree handle => Sys2Proof.Machine.execBpmFree handle s
  | .timeSyncSend n l => Sys2Proof.Machine.execTimeSyncSend n l s
  | .timeEpochSend n l => Sys2Proof.Machine.execTimeEpochSend n l s
  | .timeSyncReceive n l t1 => Sys2Proof.Machine.execTimeSyncReceive n l t1 s
  | .timeEpochReceive n l hi => Sys2Proof.Machine.execTimeEpochReceive n l hi s
  | .timeEchoReceive n l d void t3 => Sys2Proof.Machine.execTimeEchoReceive n l d void t3 s
  | .timeHoldover => Sys2Proof.Machine.execTimeHoldover s
  | .timeLoad value => Sys2Proof.Machine.execTimeLoad value s
  | .timeArm value => Sys2Proof.Machine.execTimeArm value s
  | .ftSyncEdge nsSinceLast => Sys2Proof.Machine.execFtSyncEdge nsSinceLast s
  | .shutterEnable b value => Sys2Proof.Machine.execShutterEnable b value s
  | .shutterDisable b value => Sys2Proof.Machine.execShutterDisable b value s
  | .localArrival => Sys2Proof.Machine.execLocalArrival s
  | .arriveFlit n l b gen => Sys2Proof.Machine.execArriveFlit n l b gen s
  | .releaseFlit n l b gen t => Sys2Proof.Machine.execReleaseFlit n l b gen t s
  | .shutterRelease b => Sys2Proof.Machine.execShutterRelease b s
  | .jobFaultService => Sys2Proof.Machine.execJobFaultService s
  | .jobFaultNotice => Sys2Proof.Machine.execJobFaultNotice s
  | .ballotReceive => Sys2Proof.Machine.execBallotReceive s
  | .requestDescriptor => Sys2Proof.Machine.execRequestDescriptor s
  | .requestAgeDrop model => Sys2Proof.Machine.execRequestAgeDrop model s
  | .modelWaitExpiry model => Sys2Proof.Machine.execModelWaitExpiry model s
  | .dispatch => Sys2Proof.Machine.execDispatch s
  | .switchHalted g => Sys2Proof.Machine.execSwitchHalted g s
  | .batchCompletion => Sys2Proof.Machine.execBatchCompletion s
  | .getInfo m => Sys2Proof.Machine.execGetInfo m s
  | .getFault m => Sys2Proof.Machine.execGetFault m s
  | .setContact m => Sys2Proof.Machine.execSetContact m s
  | .setPower m => Sys2Proof.Machine.execSetPower m s
  | .loadImage m => Sys2Proof.Machine.execLoadImage m s
  | .getMeasure m => Sys2Proof.Machine.execGetMeasure m s
  | .getAttest m => Sys2Proof.Machine.execGetAttest m s
  | .selfTest m => Sys2Proof.Machine.execSelfTest m s
  | .selfTestComplete failed tileDies portDies streamDies xbarFailed => Sys2Proof.Machine.execSelfTestComplete failed tileDies portDies streamDies xbarFailed s
  | .linkTest m => Sys2Proof.Machine.execLinkTest m s
  | .linkTestComplete => Sys2Proof.Machine.execLinkTestComplete s
  | .voteRoster m => Sys2Proof.Machine.execVoteRoster m s
  | .voteBallot m => Sys2Proof.Machine.execVoteBallot m s
  | .cfgWrite m => Sys2Proof.Machine.execCfgWrite m s
  | .cfgRead m => Sys2Proof.Machine.execCfgRead m s
  | .cfgCopy m => Sys2Proof.Machine.execCfgCopy m s
  | .swap m => Sys2Proof.Machine.execSwap m s
  | .jobBegin m => Sys2Proof.Machine.execJobBegin m s
  | .jobEval m => Sys2Proof.Machine.execJobEval m s
  | .jobDrain m => Sys2Proof.Machine.execJobDrain m s
  | .drainLimitExpiry slot => Sys2Proof.Machine.execDrainLimitExpiry slot s
  | .drainComplete slot => Sys2Proof.Machine.execDrainComplete slot s
  | .jobSetStep m => Sys2Proof.Machine.execJobSetStep m s
  | .jobMirror m => Sys2Proof.Machine.execJobMirror m s
  | .mirrorComplete slot => Sys2Proof.Machine.execMirrorComplete slot s
  | .jobFail m => Sys2Proof.Machine.execJobFail m s
  | .jobRelease m => Sys2Proof.Machine.execJobRelease m s
  | .loadSprog m => Sys2Proof.Machine.execLoadSprog m s
  | .memWrite m => Sys2Proof.Machine.execMemWrite m s
  | .memRead m => Sys2Proof.Machine.execMemRead m s
  | .fabricRead m => Sys2Proof.Machine.execFabricRead m s
  | .fabricReadTimeout => Sys2Proof.Machine.execFabricReadTimeout s
  | .devRun m => Sys2Proof.Machine.execDevRun m s
  | .devStop m => Sys2Proof.Machine.execDevStop m s
  | .devRstctl value => Sys2Proof.Machine.execDevRstctl value s
  | .contactSheetRefresh => Sys2Proof.Machine.execContactSheetRefresh s
  | .heartbeat => Sys2Proof.Machine.execHeartbeat s
  | .watchdogExpiry => Sys2Proof.Machine.execWatchdogExpiry s
  | .deviceFault source die => Sys2Proof.Machine.execDeviceFault source die s
  | .pcieLinkReset => Sys2Proof.Machine.execPcieLinkReset s
  | .i3cTelemetryRefresh => Sys2Proof.Machine.execI3cTelemetryRefresh s
  | .i3cPrivateWrite offset => Sys2Proof.Machine.execI3cPrivateWrite offset s
  | .i3cPrivateRead count => Sys2Proof.Machine.execI3cPrivateRead count s
  | .entdaa addr => Sys2Proof.Machine.execEntdaa addr s
  | .setdasa addr => Sys2Proof.Machine.execSetdasa addr s
  | .rstdaa => Sys2Proof.Machine.execRstdaa s
  | .getpid => Sys2Proof.Machine.execGetpid s
  | .getbcr => Sys2Proof.Machine.execGetbcr s
  | .getdcr => Sys2Proof.Machine.execGetdcr s
  | .getstatus => Sys2Proof.Machine.execGetstatus s
  | .getmwl => Sys2Proof.Machine.execGetmwl s
  | .getmrl => Sys2Proof.Machine.execGetmrl s
  | .enec events => Sys2Proof.Machine.execEnec events s
  | .disec events => Sys2Proof.Machine.execDisec events s
  | .bypass opcode => Sys2Proof.Machine.execBypass opcode s
  | .idcode => Sys2Proof.Machine.execIdcode s
  | .samplePreload => Sys2Proof.Machine.execSamplePreload s
  | .extest => Sys2Proof.Machine.execExtest s
  | .extestPulse => Sys2Proof.Machine.execExtestPulse s
  | .extestTrain => Sys2Proof.Machine.execExtestTrain s
  | .highz => Sys2Proof.Machine.execHighz s
  | .clamp => Sys2Proof.Machine.execClamp s
  | .fullReset pulse => Sys2Proof.Machine.execFullReset pulse s
  | .railUndervoltage lowNs => Sys2Proof.Machine.execRailUndervoltage lowNs s
  | .resetRelease bootMode helper => Sys2Proof.Machine.execResetRelease bootMode helper s
  | .imageCheckComplete sfdpOk image => Sys2Proof.Machine.execImageCheckComplete sfdpOk image s
  | .identityKeyReady => Sys2Proof.Machine.execIdentityKeyReady s
  | .hyzaciaFirstAnswer => Sys2Proof.Machine.execHyzaciaFirstAnswer s
  | .powerMeasure watts => Sys2Proof.Machine.execPowerMeasure watts s
  | .throttleStep temp16 => Sys2Proof.Machine.execThrottleStep temp16 s
  | .thermalClamp temp16 => Sys2Proof.Machine.execThermalClamp temp16 s
  | .thermalClampRelease temp16 => Sys2Proof.Machine.execThermalClampRelease temp16 s
  | .thermTrip temp16 => Sys2Proof.Machine.execThermTrip temp16 s
  | .pwrOkRising i3cId => Sys2Proof.Machine.execPwrOkRising i3cId s
  | .badOpcode m => Sys2Proof.Machine.execBadOpcode m s
  | .doorbellIgnored m => Sys2Proof.Machine.execDoorbellIgnored m s

end Sys2Proof.Machine
end

