-- ==== Sys2Proof/Safety.lean ====
section
/-!
DEFINITION. What the statements mean by a run that goes on, by a command that leaves the rest of the state alone, the
invariant that every step is to keep (sparse data in canonical form), and a mailbox command that is asked for and answered.
-/

namespace Sys2Proof.Machine

/-- A step answers a next state. -/
def Answers (o : Host.Outcome State Fault Refusal) : Prop := ∃ t, o = .next t

/-- A step answers a next state, of which `p` holds. -/
def Completes (o : Host.Outcome State Fault Refusal) (p : State → Prop) : Prop := ∃ t, o = .next t ∧ p t

/-- The parts of the state, one name per field of `State`. -/
inductive Field where
  | pending | variant | dev | regs | cnt | latch | busData | dpa | ls | acc | accFlags | accBank1 | sems | ctxMem
  | prog | progValid | bar2 | mbx | ue | xbar | links | egress | eths | shpT | circT | polT | ethDrop | hist
  | sampleN | ring | attach | msgs | msgSeq | inbox | commits | trackers | ctxs | accepted | rrEmit | cores | colls
  | owed | fetches | wbs | atu | atuBusy | poolUsed | time | shutters | jobs | active | shadow | dsp | mgmt | sec | power
  | i3c | jtag | pcie | nextId | freeCtr
  deriving DecidableEq, Repr

/-- The two states hold the same in a part. -/
def State.sameAt (s t : State) : Field → Prop
  | .pending => t.pending = s.pending
  | .variant => t.variant = s.variant
  | .dev => t.dev = s.dev
  | .regs => t.regs = s.regs
  | .cnt => t.cnt = s.cnt
  | .latch => t.latch = s.latch
  | .busData => t.busData = s.busData
  | .dpa => t.dpa = s.dpa
  | .ls => t.ls = s.ls
  | .acc => t.acc = s.acc
  | .accFlags => t.accFlags = s.accFlags
  | .accBank1 => t.accBank1 = s.accBank1
  | .sems => t.sems = s.sems
  | .ctxMem => t.ctxMem = s.ctxMem
  | .prog => t.prog = s.prog
  | .progValid => t.progValid = s.progValid
  | .bar2 => t.bar2 = s.bar2
  | .mbx => t.mbx = s.mbx
  | .ue => t.ue = s.ue
  | .xbar => t.xbar = s.xbar
  | .links => t.links = s.links
  | .egress => t.egress = s.egress
  | .eths => t.eths = s.eths
  | .shpT => t.shpT = s.shpT
  | .circT => t.circT = s.circT
  | .polT => t.polT = s.polT
  | .ethDrop => t.ethDrop = s.ethDrop
  | .hist => t.hist = s.hist
  | .sampleN => t.sampleN = s.sampleN
  | .ring => t.ring = s.ring
  | .attach => t.attach = s.attach
  | .msgs => t.msgs = s.msgs
  | .msgSeq => t.msgSeq = s.msgSeq
  | .inbox => t.inbox = s.inbox
  | .commits => t.commits = s.commits
  | .trackers => t.trackers = s.trackers
  | .ctxs => t.ctxs = s.ctxs
  | .accepted => t.accepted = s.accepted
  | .rrEmit => t.rrEmit = s.rrEmit
  | .cores => t.cores = s.cores
  | .colls => t.colls = s.colls
  | .owed => t.owed = s.owed
  | .fetches => t.fetches = s.fetches
  | .wbs => t.wbs = s.wbs
  | .atu => t.atu = s.atu
  | .atuBusy => t.atuBusy = s.atuBusy
  | .poolUsed => t.poolUsed = s.poolUsed
  | .time => t.time = s.time
  | .shutters => t.shutters = s.shutters
  | .jobs => t.jobs = s.jobs
  | .active => t.active = s.active
  | .shadow => t.shadow = s.shadow
  | .dsp => t.dsp = s.dsp
  | .mgmt => t.mgmt = s.mgmt
  | .sec => t.sec = s.sec
  | .power => t.power = s.power
  | .i3c => t.i3c = s.i3c
  | .jtag => t.jtag = s.jtag
  | .pcie => t.pcie = s.pcie
  | .nextId => t.nextId = s.nextId
  | .freeCtr => t.freeCtr = s.freeCtr

/-- `t` differs from `s` at most in the parts listed: every other part of the state is as it was. -/
structure Changes (w : List Field) (s t : State) : Prop where
  elsewhere : ∀ f, f ∉ w → s.sameAt t f

/-- Every part of the state but the queue and the variant. -/
def Field.others : List Field :=
  [.dev, .regs, .cnt, .latch, .busData, .dpa, .ls, .acc, .accFlags, .accBank1, .sems, .ctxMem, .prog, .progValid, .bar2,
    .mbx, .ue, .xbar, .links, .egress, .eths, .shpT, .circT, .polT, .ethDrop, .hist, .sampleN, .ring, .attach, .msgs,
    .msgSeq, .inbox, .commits, .trackers, .ctxs, .accepted, .rrEmit, .cores, .colls, .owed, .fetches, .wbs, .atu,
    .atuBusy, .poolUsed, .time, .shutters, .jobs, .active, .shadow, .dsp, .mgmt, .sec, .power, .i3c, .jtag, .pcie, .nextId, .freeCtr]

/-- The parts of the state that a command may change; every other part it leaves as it is. -/
def touches : Instr → List Field
  | .registerWrite .. | .devRstctl .. | .fullReset .. | .railUndervoltage .. | .thermTrip .. =>
    Field.others
  | .counterLowRead .. => [.latch, .busData]
  | .minfreeRead .. => [.regs, .busData]
  | .xbarEnable .. | .xbarDisable .. | .mcgWrite .. | .slotcfgWrite .. => [.regs, .xbar]
  | .xbarCpminWrite .. | .flushDone .. | .throttleLevelUpdate .. | .histselWrite .. | .heartbeat => [.regs]
  | .cellSend .. => [.regs, .xbar, .links, .egress, .nextId]
  | .poolGrant | .storedCopyCreditGrant .. => [.xbar]
  | .cellLeave .. => [.regs, .cnt, .xbar, .egress, .inbox, .commits]
  | .outputDown .. | .linkUpReq .. => [.regs, .xbar, .links, .egress, .freeCtr]
  | .outputUp .. => [.regs, .shpT, .circT]
  | .xbarJmapService | .portJmapService .. | .jobFaultService | .jobFail .. =>
    [.dev, .regs, .cnt, .dpa, .sems, .mbx, .ue, .attach, .msgs, .commits, .ctxs, .accepted, .cores, .colls, .owed,
      .fetches, .wbs, .jobs, .dsp, .mgmt, .nextId, .freeCtr]
  | .flitReceive .. => [.regs, .cnt, .xbar, .links, .polT, .commits, .time, .shutters, .nextId]
  | .replayRequest .. | .ackControlFlit .. | .retrainComplete .. | .timeSyncSend .. | .timeEpochSend .. => [.links]
  | .flitTransmit .. => [.links, .egress]
  | .packetInject .. => [.regs, .xbar, .attach, .msgs, .msgSeq, .commits, .cores, .nextId, .freeCtr]
  | .packetForward .. | .packetDeliver .. => [.regs, .xbar, .links, .polT, .commits, .nextId]
  | .trackerCount => [.regs, .sems, .attach, .commits, .trackers, .owed, .nextId]
  | .complete => [.regs, .cnt, .dpa, .ue, .attach, .msgs, .inbox, .cores, .colls, .owed, .fetches, .wbs, .jobs, .nextId]
  | .messageSlotGrant .. => [.msgs, .msgSeq]
  | .tblcmdWrite .. | .tblcmdRead .. => [.regs, .xbar, .active, .shadow]
  | .linkDownReq .. | .trainingComplete .. | .retrainTimeout .. =>
    [.regs, .xbar, .links, .egress, .time, .shutters, .freeCtr]
  | .retrainTrigger .. => [.regs, .links, .time, .shutters]
  | .egressCellTake .. => [.regs, .xbar, .egress]
  | .ethUpReq .. | .ethDownReq .. | .ethLinkFault .. | .ethFaultSequenceTimeout .. =>
    [.regs, .xbar, .links, .egress, .eths, .poolUsed, .dsp, .freeCtr]
  | .ethTrainingComplete .. => [.eths]
  | .frameReceive .. => [.regs, .cnt, .dpa, .ue, .eths, .ethDrop, .poolUsed, .dsp]
  | .responseTransmit .. => [.regs, .eths, .poolUsed]
  | .egressSelect .. => [.regs, .egress, .eths, .shpT, .circT, .ethDrop, .poolUsed]
  | .bucketRefresh .. => [.shpT, .circT, .polT]
  | .telemetrySample .. => [.regs, .hist, .sampleN, .ring]
  | .ringRecordWrite .. => [.regs, .dpa, .ue, .ring]
  | .histclr .. => [.hist]
  | .engineWrite .. =>
    [.regs, .cnt, .ctxMem, .ue, .attach, .msgs, .inbox, .commits, .ctxs, .accepted, .nextId, .freeCtr]
  | .collAnnReceive .. => [.regs, .cnt, .ue, .attach, .msgs, .inbox, .commits, .ctxs, .accepted, .nextId, .freeCtr]
  | .collDataReceive .. => [.regs, .cnt, .ctxMem, .ue, .inbox, .commits, .ctxs, .accepted]
  | .handlerRun .. => [.regs, .ctxMem, .ue, .commits, .ctxs, .accepted]
  | .chunkEmit .. => [.regs, .ue, .attach, .msgs, .msgSeq, .commits, .ctxs, .accepted, .rrEmit, .nextId]
  | .engineCompleteReceive .. =>
    [.regs, .cnt, .dpa, .ue, .attach, .msgs, .inbox, .commits, .ctxs, .accepted, .cores, .colls, .owed, .fetches,
      .wbs, .jobs, .nextId, .freeCtr]
  | .sdJobFail .. | .sdJobFree .. => [.regs, .cnt, .attach, .msgs, .commits, .ctxs, .accepted, .nextId, .freeCtr]
  | .sdProgWrite .. | .sdProgRead .. => [.regs, .prog, .progValid, .ue]
  | .sdCmdataAccess .. => [.regs, .busData, .ctxMem, .ue, .commits, .ctxs, .accepted, .freeCtr]
  | .collAccept .. =>
    [.regs, .cnt, .sems, .attach, .msgs, .cores, .colls, .owed, .atu, .poolUsed, .dsp, .nextId, .freeCtr]
  | .collControlAnnounce .. | .collDoneSend .. => [.attach, .msgs, .colls, .nextId]
  | .collAnnounceReceive .. => [.regs, .sems, .inbox, .commits, .cores, .colls, .owed]
  | .collRelease .. => [.regs, .sems, .attach, .inbox, .commits, .cores, .colls, .owed, .atu, .nextId, .freeCtr]
  | .collChunkSend .. => [.regs, .attach, .msgs, .colls, .owed, .atu, .nextId, .freeCtr]
  | .landingChunk .. => [.regs, .cnt, .dpa, .sems, .ue, .inbox, .commits, .colls, .owed, .atu, .freeCtr]
  | .collDoneResult .. => [.regs, .sems, .attach, .inbox, .commits, .cores, .colls, .owed, .nextId]
  | .collJobAbort .. => [.regs, .sems, .attach, .msgs, .cores, .colls, .owed]
  | .coreStart .. => [.regs, .cnt, .ls, .acc, .accFlags, .accBank1, .ue, .cores, .poolUsed, .dsp]
  | .coreStop .. | .coreClear .. => [.regs, .cnt, .cores]
  | .xcwDispatch .. => [.regs, .cnt, .sems, .cores, .poolUsed, .time, .dsp]
  | .haltHoldEnd .. => [.regs, .cnt, .cores, .poolUsed, .dsp]
  | .mma .. | .mms .. | .close .. | .vecAdd .. | .vecSub .. | .vecMul .. | .div .. | .vecMin .. | .vecMax ..
    | .abs .. | .sqrt .. | .rcp .. | .exp2 .. | .log2 .. | .cvt .. | .sum .. | .sumsq .. | .meanvar ..
    | .amax .. | .opt .. | .thin .. | .drain .. | .mov .. | .fill .. => [.cores]
  | .dmaGet .. | .dmaPut .. | .dmaSend .. | .dmaSignal .. =>
    [.regs, .cnt, .dpa, .ue, .attach, .msgs, .cores, .owed, .fetches, .atu, .poolUsed, .dsp, .nextId, .freeCtr]
  | .dmaComplete .. => [.regs, .sems, .cores, .owed]
  | .semAdd .. => [.regs, .sems, .inbox, .commits, .owed]
  | .semdataWrite .. => [.sems]
  | .write .. | .pageWb .. => [.regs, .dpa, .ue, .inbox, .commits, .owed, .atu, .freeCtr]
  | .readReq .. | .pageFetch .. => [.regs, .attach, .msgs, .inbox, .owed, .atu, .nextId, .freeCtr]
  | .readRsp => [.regs, .bar2, .mbx, .inbox, .commits, .mgmt]
  | .pageData .. => [.regs, .cnt, .dpa, .ue, .attach, .inbox, .commits, .cores, .owed, .fetches, .nextId]
  | .pageRelease .. | .releaseJob .. | .pagerAbortJob .. =>
    [.regs, .cnt, .dpa, .ue, .attach, .msgs, .cores, .owed, .fetches, .wbs, .nextId]
  | .atuInv .. => [.atuBusy]
  | .atuInvComplete .. => [.atu, .atuBusy]
  | .patrolScrub .. => [.regs, .cnt, .ue, .cores]
  | .bpmEnable .. | .bpmAllocate .. => [.regs, .poolUsed]
  | .bpmFree .. => [.regs, .poolUsed, .freeCtr]
  | .timeSyncReceive .. => [.links, .time]
  | .timeEpochReceive .. => [.time]
  | .timeEchoReceive .. | .timeHoldover | .timeLoad .. | .timeArm .. => [.regs, .time]
  | .ftSyncEdge .. => [.regs, .cnt, .time]
  | .shutterEnable .. | .shutterDisable .. => [.regs, .links, .shutters]
  | .localArrival => [.regs, .sems, .links, .owed, .time, .shutters, .freeCtr]
  | .arriveFlit .. | .releaseFlit .. | .shutterRelease .. => [.regs, .sems, .links, .owed, .shutters]
  | .jobFaultNotice =>
    [.dev, .regs, .cnt, .dpa, .sems, .mbx, .ue, .attach, .msgs, .inbox, .commits, .ctxs, .accepted, .cores,
      .colls, .owed, .fetches, .wbs, .jobs, .dsp, .mgmt, .nextId, .freeCtr]
  | .ballotReceive => [.dev, .regs, .dpa, .sems, .mbx, .ue, .inbox, .owed, .jobs, .dsp, .mgmt]
  | .requestDescriptor | .requestAgeDrop .. => [.regs, .poolUsed, .dsp]
  | .modelWaitExpiry .. => [.dsp]
  | .dispatch => [.regs, .cnt, .dpa, .sems, .ue, .owed, .poolUsed, .dsp]
  | .switchHalted .. => [.regs, .cnt, .dpa, .ls, .acc, .accFlags, .accBank1, .sems, .ue, .cores, .owed, .poolUsed, .dsp]
  | .batchCompletion => [.regs, .dpa, .sems, .ue, .eths, .inbox, .commits, .owed, .poolUsed, .dsp]
  | .getInfo .. | .setContact .. | .selfTestComplete .. | .linkTestComplete | .fabricReadTimeout | .badOpcode .. =>
    [.regs, .mbx, .mgmt]
  | .getFault .. => [.regs, .mbx, .mgmt, .freeCtr]
  | .setPower .. => [.regs, .mbx, .mgmt, .power]
  | .loadImage .. => [.regs, .mbx, .mgmt, .sec]
  | .getMeasure .. | .cfgRead .. => [.regs, .bar2, .mbx, .mgmt]
  | .getAttest .. => [.regs, .bar2, .mbx, .mgmt, .freeCtr]
  | .selfTest .. =>
    [.regs, .cnt, .dpa, .ls, .acc, .accFlags, .accBank1, .sems, .ctxMem, .prog, .progValid, .mbx, .ue, .xbar,
      .ctxs, .cores, .mgmt, .freeCtr]
  | .linkTest .. => [.regs, .mbx, .links, .mgmt]
  | .voteRoster .. | .cfgWrite .. | .cfgCopy .. => [.regs, .mbx, .shadow, .mgmt]
  | .voteBallot .. => [.dev, .regs, .dpa, .sems, .mbx, .ue, .attach, .owed, .jobs, .dsp, .mgmt, .nextId]
  | .swap .. =>
    [.dev, .regs, .mbx, .xbar, .links, .egress, .eths, .shpT, .circT, .hist, .atu, .poolUsed, .time, .shutters,
      .jobs, .active, .shadow, .dsp, .mgmt, .sec, .freeCtr]
  | .jobBegin .. | .jobEval .. =>
    [.regs, .cnt, .dpa, .ls, .acc, .accFlags, .accBank1, .sems, .mbx, .ue, .attach, .msgs, .commits, .ctxs,
      .accepted, .cores, .colls, .owed, .fetches, .wbs, .poolUsed, .jobs, .dsp, .mgmt, .nextId, .freeCtr]
  | .jobDrain .. => [.regs, .dpa, .sems, .mbx, .ue, .owed, .jobs, .dsp, .mgmt]
  | .drainLimitExpiry .. => [.regs, .cnt, .cores, .jobs]
  | .drainComplete .. =>
    [.dev, .regs, .cnt, .dpa, .sems, .mbx, .ue, .links, .attach, .msgs, .commits, .ctxs, .accepted, .cores,
      .colls, .owed, .fetches, .wbs, .atu, .poolUsed, .shutters, .jobs, .dsp, .mgmt, .nextId, .freeCtr]
  | .jobSetStep .. => [.regs, .mbx, .jobs, .mgmt]
  | .jobMirror .. =>
    [.regs, .cnt, .dpa, .sems, .mbx, .ue, .attach, .msgs, .commits, .ctxs, .accepted, .cores, .colls, .owed,
      .fetches, .wbs, .atu, .jobs, .mgmt, .nextId, .freeCtr]
  | .mirrorComplete .. => [.dev, .regs, .dpa, .sems, .mbx, .ue, .attach, .msgs, .owed, .jobs, .dsp, .mgmt, .nextId]
  | .jobRelease .. =>
    [.regs, .cnt, .dpa, .mbx, .ue, .attach, .msgs, .cores, .owed, .fetches, .wbs, .atu, .mgmt, .nextId]
  | .loadSprog .. => [.regs, .prog, .progValid, .mbx, .ue, .mgmt, .sec]
  | .memWrite .. => [.regs, .dpa, .mbx, .ue, .cores, .atu, .mgmt, .freeCtr]
  | .memRead .. => [.regs, .bar2, .mbx, .atu, .mgmt, .freeCtr]
  | .fabricRead .. => [.regs, .mbx, .attach, .mgmt, .nextId]
  | .devRun .. => [.dev, .regs, .mbx, .mgmt]
  | .devStop .. => [.dev, .regs, .dpa, .sems, .mbx, .ue, .owed, .jobs, .dsp, .mgmt]
  | .contactSheetRefresh => [.dpa, .bar2, .ue, .mgmt]
  | .watchdogExpiry | .deviceFault .. =>
    [.dev, .regs, .cnt, .mbx, .xbar, .links, .egress, .cores, .time, .shutters, .mgmt, .freeCtr]
  | .pcieLinkReset => [.pcie]
  | .i3cTelemetryRefresh | .getstatus | .getmwl | .getmrl => [.i3c, .freeCtr]
  | .i3cPrivateWrite .. | .i3cPrivateRead .. | .entdaa .. | .setdasa .. | .rstdaa | .getpid | .getbcr | .getdcr
    | .enec .. | .disec .. => [.i3c]
  | .bypass .. | .idcode | .highz | .clamp => [.jtag]
  | .samplePreload | .extest | .extestPulse | .extestTrain => [.jtag, .freeCtr]
  | .resetRelease .. => [.dev, .regs, .sec]
  | .imageCheckComplete .. => [.regs, .mgmt, .sec]
  | .identityKeyReady => [.regs, .sec]
  | .hyzaciaFirstAnswer => [.dev, .regs, .prog, .progValid, .ue, .sec]
  | .powerMeasure .. | .thermalClamp .. | .thermalClampRelease .. => [.power]
  | .throttleStep .. => [.regs, .power]
  | .pwrOkRising .. => [.power, .i3c]
  | .doorbellIgnored .. => [.regs, .mgmt]

/-- Every sparse memory of the device is in canonical form: the byte memories (log entry 3), the accumulator memories with
their flags and active banks, the semaphores, the 64-bit counters, and the program stores with the words that are valid. -/
def State.memoriesWf (s : State) : Bool :=
  memWf s.dpa && memWf s.ls && memWf s.ctxMem && memWf s.bar2 && memWf s.mbx && mwf 0 s.acc && mwf 0 s.sems && mwf 0 s.cnt
    && mwf 0 s.accFlags && mwf false s.accBank1 && mwf 0 s.prog && mwf false s.progValid

/-- Mailbox `m` holds command `op` with `len` argument bytes, its doorbell has rung, it is the next to start and it is
served; no other command is in progress. -/
def State.asked (s : State) (m op len : Nat) : Bool :=
  decide (m < 16) && s.mgmt.doorbells == [m] && s.mbxBusy m && !s.mbxDone m && s.mgmt.running.isEmpty
    && s.mgmt.devStop.isNone && s.mbxServed && s.mbxNum m 0 2 == op && s.argLength m == len

/-- The command in mailbox `m` has ended: busy is clear, done is set, and status, detail and results stand in its memory. -/
def State.answered (s : State) (m status detail : Nat) (res : List Byte) : Prop :=
  s.mbxBusy m = false ∧ s.mbxDone m = true ∧ s.mbxNum m 8 2 = status ∧ s.mbxNum m 10 2 = detail
    ∧ s.mbxNum m 12 4 = res.length ∧ s.argBytes m 0 res.length = res

end Sys2Proof.Machine
end

