-- ==== Sys2Proof/Certificates/Slice0/Obligations.lean ====
section
/-!
DEFINITION. The statements for the provers. Each docstring says what its statement says and which rules of spec/ it rests
on; "here" marks a hypothesis that narrows the case.
-/

open Sys2Proof Sys2Proof.Machine

/-! ### The whole machine -/

/-- A step takes the command at the front of the queue and does what `exec` says with the queue's rest. -/
def Obligations.StepRunsTheFrontCommand : Prop :=
  ∀ (c : Instr) (rest : List Instr) (s : State), s.pending = c :: rest → step s = exec c { s with pending := rest }

/-- With an empty queue one tick of 160 ps passes: that the step on an empty queue is that tick, and one cycle in the
cores that stand still, is the model's choice (log entry 5). A counter not loaded stands still; a held one stays while
the hold is absorbed; one without a correction goes on by one; none goes back (R299). Where every core runs, waits or
has nothing left to run, nothing but fabric time changes. -/
def Obligations.EmptyQueuePassesOneTick : Prop :=
  ∀ s : State, s.pending = [] → Completes (step s) fun t =>
    Changes [.regs, .cnt, .cores, .poolUsed, .time, .dsp] s t
      ∧ (∃ d ≤ 3, t.time.now = s.time.now + BitVec.ofNat 64 d)
      ∧ (s.time.loaded = false → t.time = s.time)
      ∧ ((∀ e ∈ s.cores, (s.core e.1).st = .running ∨ (s.core e.1).st = .waiting
          ∨ (s.qempty e.1 = true ∧ (s.core e.1).fault = none)) → t = { s with time := t.time })
      ∧ (s.time.loaded = true → 0 < s.time.hold → t.time.now = s.time.now ∧ t.time.hold = s.time.hold - 1)
      ∧ (s.time.loaded = true → s.time.hold = 0 → s.time.trim = 0 → s.time.phase = 0
          → -2 < s.time.adjust → s.time.adjust < 2 → t.time.now = s.time.now + 1)

/-- What the spec says of the device right after the release of reset: ROM state, crossbar off with 16 minimum credits
and grants of 4, every subport DOWN, every context FREE, core IDLE, shutter OFF, job slot OFF, serving group OFF,
fabric time zero and not loaded, both clocks nominal. -/
def Obligations.ResetIsAsTheSpecSays : Prop :=
  State.reset.dev = .rom ∧ State.reset.xbarOn = false ∧ State.reset.fld R.xbarCpmin 6 0 = 16
    ∧ State.reset.fld R.xbarPoolcfg 3 0 = 4
    ∧ (∀ n l, (State.reset.link n l).st = .down) ∧ (∀ n l, (State.reset.eth n l).st = .down)
    ∧ (∀ c, (State.reset.ctx c).st = .free) ∧ (∀ u, (State.reset.core u).st = .idle)
    ∧ (∀ b, (State.reset.shutter b).st = .off) ∧ (∀ j, (State.reset.job j).st = .off)
    ∧ (∀ g, (State.reset.group g).st = .off) ∧ State.reset.time.now = 0 ∧ State.reset.time.loaded = false
    ∧ State.reset.power.arith = 16 ∧ State.reset.power.xbar = 16

/-- The sparse memories of the reset state, the same that a step keeps so, are in canonical form. -/
def Obligations.ResetMemoriesAreCanonical : Prop := State.reset.memoriesWf = true

/-- Every step that answers a next state keeps every sparse memory in canonical form: HBM, local store, control memory,
staging window and mailbox memory, the accumulators with their flags and active banks, the semaphores, the 64-bit
counters, and the program stores with their valid words. -/
def Obligations.StepKeepsMemoriesCanonical : Prop :=
  ∀ s t : State, s.memoriesWf = true → step s = .next t → t.memoriesWf = true

/-- Every command completes, and changes at most the parts that `touches` lists for it; none touches the queue of
those that wait, nor the assembly the device is (R5). -/
def Obligations.EveryCommandChangesOnlyItsParts : Prop :=
  ∀ (c : Instr) (s : State), Completes (exec c s) fun t =>
    t.pending = s.pending ∧ t.variant = s.variant ∧ Changes (touches c) s t

/-! ### Registers of BAR0 -/

/-- A 32-bit write of an aligned register that only stores (XBAR_POOLCFG, XBAR_TCCAPc, PORTn_TBLSEL, PORTn_Pl_THR,
SDn_CMSEL, TDn_SEMSEL, TDn_Cc_RANK, TDn_Cc_SPTHR, DEV_IRQ_EN) completes: RW bits take the written value, reserved bits
ignore it (R8), a read returns the new word (R22), and no other register and no other part of the state changes.

A write to BAR0 of another width or at an address that is not a multiple of 4 is ignored, and such a read returns
0xFFFF_FFFF (R10). The windows PORTn for n ≥ P and TDn for n ≥ T belong to no die: reads there return 0xFFFF_FFFF, and
writes are ignored (R16). It is the same at the addresses of BAR0 that lie in no window of Table 0.7 (R11). A counter
read of either kind returns 0xFFFF_FFFF as well.

Reading the low word of fabric time returns its low half and latches its high half, and the high word then reads as
latched however the counter goes on, so that the pair is one sample (R23). The same latch serves every 64-bit counter. -/
def Obligations.RegistersAreReadAndWritten : Prop :=
  (∀ (s : State) (r : Reg) (v : Word), s.dev ≠ .off → s.dev ≠ .rom →
      (r = R.devIrqEn ∨ r = R.xbarPoolcfg ∨ (∃ c < 8, r = R.xbarTccap c)
        ∨ (∃ n < s.ports, r = R.portTblsel n ∨ ∃ l < 24, r = R.portPThr n l)
        ∨ (∃ n < 8, r = R.sdCmsel n) ∨ (∃ n < s.tiles, r = R.tdSemsel n)
        ∨ (∃ u, s.hasCore u = true ∧ (r = R.tdCRank u ∨ r = R.tdCSpthr u))) →
      Completes (exec (.registerWrite r.addr 4 v) s) fun t =>
        Changes [.regs] s t ∧ t.reg r = ((s.reg r &&& ~~~r.rw) ||| (v &&& r.rw)) ∧ t.bar0 r.addr = t.reg r
          ∧ ∀ q : Reg, q.addr ≠ r.addr → t.reg q = s.reg q)
  ∧ (∀ (s : State) (a w : Nat) (v : Word),
      let nobody : Prop := (∃ n < 16, s.ports ≤ n ∧ 0x1000000 + n * 0x40000 ≤ a ∧ a < 0x1000000 + (n + 1) * 0x40000)
        ∨ (∃ n < 24, s.tiles ≤ n ∧ 0x3000000 + n * 0x100000 ≤ a ∧ a < 0x3000000 + (n + 1) * 0x100000)
      let noWindow : Prop := (0x40000 ≤ a ∧ a < 0x100000) ∨ (0x300000 ≤ a ∧ a < 0x1000000) ∨ (0x1400000 ≤ a ∧ a < 0x2000000)
        ∨ (0x2200000 ≤ a ∧ a < 0x3000000) ∨ (0x4800000 ≤ a ∧ a < 0x8000000)
      (nobody ∨ noWindow → s.bar0 a = 0xFFFFFFFF ∧ s.busRead a w = 0xFFFFFFFF ∧ exec (.registerWrite a w v) s = .next s)
      ∧ (a < 0x8000000 → w ≠ 4 ∨ a % 4 ≠ 0 → s.busRead a w = 0xFFFFFFFF ∧ exec (.registerWrite a w v) s = .next s)
      ∧ (nobody ∨ noWindow → s.dev ≠ .off →
          Completes (exec (.counterLowRead a) s) fun t => t = { s with busData := 0xFFFFFFFF }))
  ∧ (∀ s : State,
      (s.dev ≠ .off → s.dev ≠ .rom → Completes (exec (.counterLowRead 0x20010) s) fun t =>
          Changes [.busData, .latch] s t ∧ t.busData = s.time.now.setWidth 32
            ∧ ∀ u : State, u.latch = t.latch → u.dev = t.dev → u.bar0 0x20014 = (s.time.now >>> 32).setWidth 32)
      ∧ ∀ (w : Window) (o a : Nat) (c : Dword), windowOf a = some (w, o) → s.answers w = true → s.counterAt a = some c →
          Completes (exec (.counterLowRead a) s) fun t =>
            t = { s with busData := c.setWidth 32, latch := mset 0 s.latch (a + 4) ((c >>> 32).setWidth 32) })

/-! ### JTAG and I3C -/

/-- The JTAG instructions (R351): each becomes the current one. IDCODE selects the device's 32-bit code, BYPASS, HIGHZ
and CLAMP the one-bit bypass register, SAMPLE/PRELOAD and the three EXTESTs the boundary register. EXTEST, EXTEST_PULSE,
EXTEST_TRAIN, HIGHZ and CLAMP take the pins and keep them; HIGHZ alone puts the outputs at high impedance. Nothing but
the test access port changes.

The I3C target outside OFF (R350): what each common command answers or changes. ENTDAA and SETDASA give a target
without one a dynamic address, RSTDAA takes it away; GETPID answers the PID of 48 bits, GETBCR and GETDCR 0x00;
GETSTATUS, GETMWL and GETMRL two bytes that the spec leaves open; ENEC and DISEC set and clear enable bits.

The telemetry block over I3C, outside OFF (R350, Table 15.2): a refresh writes 64 bytes, among them the state code,
the power, DEV_FAULT, the fabric time and the limit in force; a private write sets the read offset; a private read
returns bytes from it, and 0xFF past byte 63.

The model's choice: the test access port acts in OFF too, and the length of the boundary register and what its cells take
are free (log entry 91); a private read leaves the read offset, the PID
comes most significant byte first, and GETSTATUS, GETMWL and GETMRL answer two bytes (log entry 116). -/
def Obligations.JtagAndI3cAnswer : Prop :=
  (∀ (s : State) (op : Nat),
      let keeps (t : State) (ir : JtagIr) : Prop := t = { s with jtag := t.jtag } ∧ t.jtag.ir = ir ∧ t.jtag.bsr = s.jtag.bsr
      let boundary (t : State) (ir : JtagIr) : Prop := t = { s with jtag := t.jtag, freeCtr := s.freeCtr + 1 } ∧ t.jtag.ir = ir
        ∧ t.jtag.dr = t.jtag.bsr ∧ t.jtag.bsr.length = Config.boundaryLength ∧ t.jtag.outputsZ = false
      Completes (exec (.bypass op) s) (fun t => keeps t .bypass ∧ t.jtag.dr.length = 1
        ∧ t.jtag.pinsTaken = s.jtag.pinsTaken ∧ t.jtag.outputsZ = false)
      ∧ Completes (exec .idcode s) (fun t => keeps t .idcode ∧ t.jtag.dr.length = 32
        ∧ bitsNat t.jtag.dr = (match s.variant with | .xb4020 => 0x14020B47 | .xb4016n => 0x14016B47 | .xb4010s => 0x14010B47)
        ∧ t.jtag.pinsTaken = s.jtag.pinsTaken ∧ t.jtag.outputsZ = false)
      ∧ Completes (exec .samplePreload s) (fun t => boundary t .samplePreload ∧ t.jtag.pinsTaken = s.jtag.pinsTaken)
      ∧ Completes (exec .extest s) (fun t => boundary t .extest ∧ t.jtag.pinsTaken = true)
      ∧ Completes (exec .extestPulse s) (fun t => boundary t .extestPulse ∧ t.jtag.pinsTaken = true)
      ∧ Completes (exec .extestTrain s) (fun t => boundary t .extestTrain ∧ t.jtag.pinsTaken = true)
      ∧ Completes (exec .highz s) (fun t => keeps t .highz ∧ t.jtag.dr.length = 1 ∧ t.jtag.pinsTaken = true
        ∧ t.jtag.outputsZ = true)
      ∧ Completes (exec .clamp s) (fun t => keeps t .clamp ∧ t.jtag.dr.length = 1 ∧ t.jtag.pinsTaken = true
        ∧ t.jtag.outputsZ = false))
  ∧ (∀ (s : State) (a e : Nat), s.dev ≠ .off →
      (s.i3c.dynAddr = none → ∀ c ∈ [Instr.entdaa a, .setdasa a],
        Completes (exec c s) fun t => t = { s with i3c := { s.i3c with dynAddr := some (a % 128) } })
      ∧ Completes (exec .rstdaa s) (fun t => t = { s with i3c := { s.i3c with dynAddr := none } })
      ∧ Completes (exec .getpid s) (fun t => t = { s with i3c := { s.i3c with reply := t.i3c.reply } }
        ∧ t.i3c.reply.length = 6
        ∧ beNat t.i3c.reply = 0x52D * 2 ^ 33 + s.i3c.id % 8 * 2 ^ 12
            + 2 ^ 16 * (match s.variant with | .xb4020 => 0x4020 | .xb4016n => 0x4016 | .xb4010s => 0x4010))
      ∧ (∀ c ∈ [Instr.getbcr, .getdcr], Completes (exec c s) fun t => t = { s with i3c := { s.i3c with reply := [0] } })
      ∧ (∀ c ∈ [Instr.getstatus, .getmwl, .getmrl], Completes (exec c s) fun t =>
          t = { s with i3c := { s.i3c with reply := t.i3c.reply }, freeCtr := s.freeCtr + 1 } ∧ t.i3c.reply.length = 2)
      ∧ Completes (exec (.enec e) s) (fun t => t = { s with i3c := { s.i3c with events := t.i3c.events } }
        ∧ ∀ i < 8, t.i3c.events.testBit i = (s.i3c.events.testBit i || e.testBit i))
      ∧ Completes (exec (.disec e) s) (fun t => t = { s with i3c := { s.i3c with events := t.i3c.events } }
        ∧ ∀ i < 8, t.i3c.events.testBit i = (s.i3c.events.testBit i && !e.testBit i)))
  ∧ (∀ s : State, s.dev ≠ .off →
      Completes (exec .i3cTelemetryRefresh s) (fun t =>
        t = { s with i3c := { s.i3c with block := t.i3c.block }, freeCtr := s.freeCtr + 1 }
        ∧ t.i3c.block.length = 64 ∧ leAt t.i3c.block 0 1 = s.dev.code ∧ leAt t.i3c.block 4 2 = s.power.watts % 2 ^ 16
        ∧ leAt t.i3c.block 12 4 = s.irqSummary % 2 ^ 32 ∧ leAt t.i3c.block 16 4 = (s.reg R.devFault).toNat
        ∧ leAt t.i3c.block 20 8 = s.time.now.toNat ∧ leAt t.i3c.block 28 2 = s.power.limit % 2 ^ 16
        ∧ leAt t.i3c.block 30 34 = 0)
      ∧ (∀ o, Completes (exec (.i3cPrivateWrite o) s) fun t => t = { s with i3c := { s.i3c with offset := o % 256 } })
      ∧ (s.i3c.block.length = 64 → ∀ n, Completes (exec (.i3cPrivateRead n) s) fun t =>
          t = { s with i3c := { s.i3c with reply := t.i3c.reply } } ∧ t.i3c.reply.length = n
          ∧ ∀ i < n, t.i3c.reply[i]? = some (if s.i3c.offset + i < 64 then s.i3c.block.getD (s.i3c.offset + i) 0 else 0xFF)))

/-! ### Reset, boot, device faults, power -/

/-- Every full reset keeps nothing (R3): RST_N or PWR_OK low for 1 µs or more (R404), a supply rail low for 1 µs or
more while PWR_OK is high (R405), 110 °C (R419), and the two writes 0x0000_00A5 and 0x0000_005A to DEV_RSTCTL with no
other between (R354). The device is OFF with its outputs at high impedance (R405), and all else at its reset values, the
power limit, the clocks and their flags and the I3C target among it, but what the pins hold: PWR_OK, the trip and I3C_ID with
the static address it gives, and the model's own counters of free values and numbers. A thermal trip also acts on a device held in reset with its power good, and no release of reset
starts a tripped device. PWR_OK that falls ends the trip. A pulse below 100 ns does nothing, and a reset of the PCIe
link resets the configuration space and leaves all the rest running (R349). -/
def Obligations.FullResetKeepsNothing : Prop :=
  ∀ (s : State) (p : Bool) (ns : Nat) (c : Int),
    let off (pwrOk tripped : Bool) (t : State) : Prop := t.dev = .off ∧ t.variant = s.variant ∧ t.pending = s.pending
      ∧ Changes [.pending, .dev, .nextId, .freeCtr, .i3c, .power] (State.resetOf s.variant) t ∧ t.outputsHighZ = true
      ∧ t.power = { (State.resetOf s.variant).power with pwrOk := pwrOk, tripped := tripped }
      ∧ t.i3c = { (State.resetOf s.variant).i3c with staticAddr := s.i3c.staticAddr, id := s.i3c.id }
    let ok := s.power.pwrOk
    let trip := s.power.tripped
    (s.dev ≠ .off → 1000 ≤ ns → Completes (exec (.fullReset ⟨p, ns⟩) s) (off (ok && !p) (trip && !p)))
    ∧ (s.dev ≠ .off → ns < 100 → exec (.fullReset ⟨p, ns⟩) s = .next s)
    ∧ (s.dev ≠ .off → 1000 ≤ ns → ok = true → Completes (exec (.railUndervoltage ns) s) (off false false))
    ∧ (s.dev ≠ .off → 16 * 110 ≤ c → Completes (exec (.thermTrip c) s) (off ok true))
    ∧ (s.dev ≠ .off → Completes (exec (.devRstctl 0xA5) s) fun t => Changes [.mgmt] s t ∧ t.mgmt.rstArmed = true)
    ∧ (s.dev ≠ .off → s.mgmt.rstArmed = true → Completes (exec (.devRstctl 0x5A) s) (off ok trip))
    ∧ (s.dev ≠ .off → ∀ w : Word, w ≠ 0xA5 → (w = 0x5A → s.mgmt.rstArmed = false) → Completes (exec (.devRstctl w) s) fun t =>
        Changes [.mgmt] s t ∧ t.mgmt.rstArmed = false)
    ∧ (s.dev ≠ .off → exec .pcieLinkReset s = .next { s with pcie := Pcie.reset })
    ∧ (s.dev = .off → 1000 ≤ ns → Completes (exec (.fullReset ⟨true, ns⟩) s) (off false false))
    ∧ (s.dev = .off → ok = true → 16 * 110 ≤ c → Completes (exec (.thermTrip c) s) (off true true))
    ∧ (∀ (u : State) (mode : Nat) (h : List Byte), u.dev = .off → u.power.tripped = true →
        exec (.resetRelease mode h) u = .next u)

/-- The start of the device. PWR_OK rising ends a thermal trip and samples I3C_ID: the static address is 0x30 + I3C_ID (R350, R403). The end
of reset samples BOOT_MODE (R371, R403): the device is in ROM, in flash mode checking an image, otherwise waiting for
LOAD_IMAGE. An image from flash that fails its checks leaves it in ROM with SEC_CAUSE.boot_fail set, waiting (R372);
the first answer of Hyzacia makes it LOADED, with event 0 of a changed device state (R366, R376). The identity key is
the one of the helper record's seed, and its digest stands in SEC_IDDIG (R378); generating it is a constant without a
body (log entry 60). -/
def Obligations.BootFollowsThePins : Prop :=
  ∀ (s : State) (id mode : Nat) (h img : List Byte) (b : Bool),
    (s.dev = .off → Completes (exec (.pwrOkRising id) s) fun t => t.dev = .off ∧ t.power.pwrOk = true
      ∧ t.power.tripped = (s.power.tripped && s.power.pwrOk) ∧ t.i3c.staticAddr = 0x30 + id % 8 ∧ Changes [.power, .i3c] s t)
    ∧ (s.dev = .off → s.power.pwrOk = true → s.power.tripped = false →
        Completes (exec (.resetRelease mode h) s) fun t => t.dev = .rom ∧ t.sec.mode = mode % 4
          ∧ t.fld R.secBootstat 25 24 = mode % 4 ∧ t.sec.phase = (if mode % 4 = 0 then .flash else .waiting)
          ∧ Changes [.dev, .regs, .sec] s t)
    ∧ (s.dev = .rom → s.sec.phase = .flash → (b = false ∨ s.imageCheck img ≠ 0) →
        Completes (exec (.imageCheckComplete b img) s) fun t => t.dev = .rom ∧ t.sec.phase = .waiting
          ∧ t.bit R.secCause 0 = true ∧ t.fld R.secBootstat 15 8 = (if b then s.imageCheck img else 7)
          ∧ Changes [.regs, .sec] s t)
    ∧ (s.dev = .rom → s.sec.phase = .flash → b = true → s.imageCheck img = 0 →
        Completes (exec (.imageCheckComplete b img) s) fun t => t.dev = .rom ∧ t.sec.phase = .started
          ∧ t.fld R.secBootstat 15 8 = 0 ∧ t.mgmt.watchdogOn = true ∧ t.reg R.secLogcnt = s.reg R.secLogcnt + 4)
    ∧ (s.dev = .rom → s.sec.phase = .started → Completes (exec .hyzaciaFirstAnswer s) fun t => t.dev = .loaded
          ∧ t.sec.phase = .done ∧ t.bit R.devEvent 0 = true ∧ Changes [.dev, .regs, .sec, .prog, .progValid, .ue] s t)
    ∧ (s.dev ≠ .off → ∀ seed, helperSeed s.sec.helper = some seed → Completes (exec .identityKeyReady s) fun t =>
          t.sec.pubkey = falconKeys.key seed ∧ t.reg R.secIdstat = 1
          ∧ (∀ w < 8, t.reg (R.secIddig w) = BitVec.ofNat 32 (leAt (shake256 32 t.sec.pubkey) (4 * w) 4))
          ∧ Changes [.regs, .sec] s t)

/-- A device fault (R353, Table 15.5): 100 ms without a heartbeat while the management cores run, an uncorrectable
error of management SRAM, an internal check, a die that does not answer. The device is FAULTED, DEV_FAULT shows
source, code and die, no core waits and each that runs stops with its hold, no command is in progress, and the
watchdog rests. A heartbeat counts and does nothing else. -/
def Obligations.DeviceFaultStopsTheDevice : Prop :=
  ∀ (s : State) (die : Nat), s.dev ≠ .off → s.dev ≠ .faulted →
    let stopped (t : State) : Prop := t.dev = .faulted ∧ t.bit R.devEvent 0 = true ∧ t.mgmt.running = []
      ∧ t.mgmt.watchdogOn = false ∧ t.mgmt.faultTime = s.time.now
      ∧ ∀ u < 4 * s.tiles, (t.core u).st ≠ .waiting ∧ ((t.core u).st = .running → (t.core u).stopping = true)
    (Completes (exec (.deviceFault 2 die) s) fun t => stopped t ∧ t.fld R.devFault 23 16 = 2 ∧ t.fld R.devFault 31 24 = 0x0A)
    ∧ (s.firmware = true → Completes (exec (.deviceFault 3 die) s) fun t => stopped t ∧ t.fld R.devFault 23 16 = 3)
    ∧ (s.firmware = true → Completes (exec (.deviceFault 4 die) s) fun t => stopped t ∧ t.fld R.devFault 23 16 = 4
        ∧ t.fld R.devFault 15 8 = die % 256)
    ∧ (s.firmware = true → s.mgmt.watchdogOn = true → Completes (exec .watchdogExpiry s) fun t =>
        stopped t ∧ t.fld R.devFault 23 16 = 1)
    ∧ (s.firmware = true → Completes (exec .heartbeat s) fun t =>
        t.reg R.devHeartbeat = s.reg R.devHeartbeat + 1 ∧ Changes [.regs] s t)

/-- Clocks in sixteenths of nominal. Too hot (95 °C) or above the power limit, THROTTLE_STEP lowers the arithmetic
clock by one down to 8, then the crossbar clock; at 92 °C or below and under the limit it raises them in the reverse
order (R417). At 103 °C the hardware sets both to 8 and holds them, until 100 °C releases them (R418). A measurement
is stored (R420). -/
def Obligations.ClocksFollowHeatAndPower : Prop :=
  ∀ (s : State) (c : Int) (w : Nat),
    (s.firmware = true → s.power.clamped = false → (16 * 95 ≤ c ∨ s.power.limit < s.power.watts) →
      Completes (exec (.throttleStep c) s) fun t => t.power.throttling = true ∧ Changes [.regs, .power] s t
        ∧ (8 < s.power.arith → t.power.arith = s.power.arith - 1 ∧ t.power.xbar = s.power.xbar)
        ∧ (s.power.arith ≤ 8 → 8 < s.power.xbar → t.power.arith = s.power.arith ∧ t.power.xbar = s.power.xbar - 1))
    ∧ (s.firmware = true → s.power.clamped = false → c ≤ 16 * 92 → s.power.watts < s.power.limit →
      Completes (exec (.throttleStep c) s) fun t => Changes [.power] s t
        ∧ (s.power.xbar < 16 → t.power.xbar = s.power.xbar + 1 ∧ t.power.arith = s.power.arith)
        ∧ (16 ≤ s.power.xbar → s.power.arith < 16 → t.power.arith = s.power.arith + 1 ∧ t.power.xbar = s.power.xbar))
    ∧ (s.dev ≠ .off → 16 * 103 ≤ c → 8 ≤ s.power.arith → 8 ≤ s.power.xbar →
      Completes (exec (.thermalClamp c) s) fun t => t.power.clamped = true ∧ t.power.arith = 8 ∧ t.power.xbar = 8
        ∧ Changes [.power] s t)
    ∧ (s.power.clamped = true → c ≤ 16 * 100 → Completes (exec (.thermalClampRelease c) s) fun t =>
        t.power.clamped = false ∧ t.power.arith = s.power.arith ∧ t.power.xbar = s.power.xbar ∧ Changes [.power] s t)
    ∧ (s.firmware = true → Completes (exec (.powerMeasure w) s) fun t => t = { s with power := { s.power with watts := w } })

/-- No step takes a clock out of the range from 8 to 16 sixteenths of nominal (R417, R418). -/
def Obligations.StepKeepsClocksInRange : Prop :=
  ∀ s t : State, (8 ≤ s.power.arith ∧ s.power.arith ≤ 16 ∧ 8 ≤ s.power.xbar ∧ s.power.xbar ≤ 16) → step s = .next t →
    8 ≤ t.power.arith ∧ t.power.arith ≤ 16 ∧ 8 ≤ t.power.xbar ∧ t.power.xbar ≤ 16

/-- CONTACT_SHEET_REFRESH (R367, Table 15.12): 4 KiB at 0xFF_F000 of BAR2, with the magic number, the next even
sequence number, fabric time and device state, and a CRC-32C over the 4,092 bytes before it; and the same sheet in HBM
at the DPA of SET_CONTACT. Every other byte of BAR2 stays. -/
def Obligations.ContactSheetIsRefreshed : Prop :=
  ∀ s : State, s.firmware = true → Completes (exec .contactSheetRefresh s) fun t =>
    let b := rdBytes t.bar2 0xFFF000 4096
    leAt b 0 4 = 0x53484354 ∧ leAt b 4 4 = (s.mgmt.sheetSeq + 2) % 2 ^ 32 ∧ leAt b 8 8 = s.time.now.toNat
      ∧ leAt b 16 1 = s.dev.code ∧ leAt b 4092 4 = (crc32c (b.take 4092)).toNat
      ∧ (∀ a, a < 0xFFF000 ∨ 0x1000000 ≤ a → rdByte t.bar2 a = rdByte s.bar2 a)
      ∧ (s.mgmt.contactDpa = 0 → Changes [.bar2, .mgmt] s t)
      ∧ (s.mgmt.contactDpa ≠ 0 → rdBytes t.dpa s.mgmt.contactDpa 4096 = b)

/-! ### Mailboxes -/

/-- How a command ends before its work (R356 to R359, Table 15.6): an opcode that Table 15.7 does not list is answered
BAD_OPCODE; a wrong length BAD_ARG, with the detail 0 as the model's choice (log entry 111); a device state that does not accept the command BAD_STATE,
counted, with the state in the detail; an exclusive command in progress makes another one BUSY. A doorbell of a busy
or done mailbox counts. -/
def Obligations.MailboxCommandsAreCheckedInOrder : Prop :=
  ∀ (s : State) (m n : Nat),
    (∀ op, ¬ (op ∈ mbxOps) → s.asked m op n = true → Completes (exec (.badOpcode m) s) fun t =>
        t.answered m 1 0 [] ∧ Changes [.regs, .mbx, .mgmt] s t)
    ∧ (s.asked m 0x0003 n = true → s.firmware = true → n ≠ 8 → Completes (exec (.setContact m) s) fun t =>
        t.answered m 2 0 [] ∧ Changes [.regs, .mbx, .mgmt] s t ∧ t.mgmt.contactDpa = s.mgmt.contactDpa)
    ∧ (s.asked m 0x0050 0 = true → s.dev = .loaded → Completes (exec (.devRun m) s) fun t =>
        t.answered m 3 2 [] ∧ t.dev = .loaded ∧ t.reg R.devBadstate = (if s.reg R.devBadstate = 0xFFFFFFFF then 0xFFFFFFFF
          else s.reg R.devBadstate + 1))
    ∧ (s.mgmt.doorbells = [m] → m < 16 → s.mbxBusy m = true → s.firmware = true → s.mbxNum m 0 2 = 0x0001 →
        s.argLength m = 0 → s.exclusive = true → Completes (exec (.getInfo m) s) fun t => t.answered m 4 0 [])
    ∧ (m < 16 → (s.mbxBusy m = true ∨ s.mbxDone m = true) → s.reg R.devMbxDberr ≠ 0xFFFFFFFF →
        Completes (exec (.doorbellIgnored m) s) fun t =>
          Changes [.regs] s t ∧ t.reg R.devMbxDberr = s.reg R.devMbxDberr + 1)

/-- Information (R359): GET_INFO answers 32 bytes with DEV_ID, the state, the device ID and the power limit; GET_FAULT
64 bytes, zero where DEV_FAULT is zero, else with DEV_FAULT and the time of the fault. Both answer in every state from
ROM on.

SET_CONTACT names the DPA of the contact sheet (R368), SET_POWER the power limit, from 400 W to the TDP, which it
answers (R25, R420); a limit outside is BAD_ARG and changes no limit. -/
def Obligations.InformationIsAnswered : Prop :=
  (∀ (s : State) (m : Nat),
      (s.asked m 0x0001 0 = true → Completes (exec (.getInfo m) s) fun t => Changes [.regs, .mbx, .mgmt] s t
        ∧ ∃ b, t.answered m 0 0 b ∧ b.length = 32 ∧ leAt b 0 4 = s.devId.toNat ∧ leAt b 4 1 = s.dev.code
          ∧ leAt b 6 2 = s.selfDev ∧ leAt b 22 2 = s.power.limit % 2 ^ 16)
      ∧ (s.asked m 0x0002 0 = true → s.reg R.devFault = 0 → Completes (exec (.getFault m) s) fun t =>
          t.answered m 0 0 (List.replicate 64 0))
      ∧ (s.asked m 0x0002 0 = true → s.reg R.devFault ≠ 0 → Completes (exec (.getFault m) s) fun t =>
          ∃ b, t.answered m 0 0 b ∧ b.length = 64 ∧ leAt b 0 4 = (s.reg R.devFault).toNat
            ∧ leAt b 4 8 = s.mgmt.faultTime.toNat))
  ∧ (∀ (s : State) (m : Nat), s.firmware = true →
      (s.asked m 0x0003 8 = true → s.contactBad (s.argNum m 0 8) = false → Completes (exec (.setContact m) s) fun t =>
        t.answered m 0 0 [] ∧ t.mgmt.contactDpa = s.argNum m 0 8 ∧ Changes [.regs, .mbx, .mgmt] s t)
      ∧ (s.asked m 0x0004 2 = true → 400 ≤ s.argNum m 0 2 → s.argNum m 0 2 ≤ s.variant.tdp →
          Completes (exec (.setPower m) s) fun t => t.answered m 0 0 (leBytes 2 (s.argNum m 0 2))
            ∧ t.power = { s.power with limit := s.argNum m 0 2 } ∧ Changes [.regs, .mbx, .mgmt, .power] s t)
      ∧ (s.asked m 0x0004 2 = true → (s.argNum m 0 2 < 400 ∨ s.variant.tdp < s.argNum m 0 2) →
          Completes (exec (.setPower m) s) fun t => t.answered m 2 0 [] ∧ t.power = s.power))

/-- GET_MEASURE writes the measurement log into the staging window, the number of entries first and the accumulator
last (R379); GET_ATTEST writes a report of 3,216 bytes with the nonce it was given, whose signature over the SHAKE256
digest of the bytes before it verifies under the key that IDENTITY_KEY_READY took, and is DENIED without an identity
(R380). Staging bytes outside stay. The layout of the report, that its signature is valid and that two reports of
one content carry different signatures are the spec's; which of the valid signatures it is comes from a constant without a
body, which every report asks with a new number (log entry 60). -/
def Obligations.MeasurementsAreReported : Prop :=
  ∀ (s : State) (m : Nat), s.firmware = true → s.sec.acc.length = 64 →
    (s.asked m 0x0011 4 = true → s.argNum m 0 4 + s.measureLength ≤ 0xFFF000 → Completes (exec (.getMeasure m) s) fun t =>
      let o := s.argNum m 0 4
      let b := rdBytes t.bar2 o s.measureLength
      t.answered m 0 0 (leBytes 4 s.measureLength) ∧ leAt b 0 4 = (s.reg R.secLogcnt).toNat
        ∧ b.drop (s.measureLength - 64) = s.sec.acc ∧ Changes [.regs, .bar2, .mbx, .mgmt] s t
        ∧ ∀ a, a < o ∨ o + s.measureLength ≤ a → rdByte t.bar2 a = rdByte s.bar2 a)
    ∧ (s.asked m 0x0012 36 = true → s.argNum m 32 4 + 3216 ≤ 0xFFF000 → s.bit R.secIdstat 0 = true →
        Completes (exec (.getAttest m) s) fun t =>
          let o := s.argNum m 32 4
          let b := rdBytes t.bar2 o 3216
          t.answered m 0 0 (leBytes 4 3216) ∧ leAt b 0 4 = 0x41545354 ∧ leAt b 8 4 = s.devId.toNat
            ∧ slice b 40 32 = s.argBytes m 0 32 ∧ slice b 72 64 = s.sec.acc
            ∧ (∀ seed, helperSeed s.sec.helper = some seed → s.sec.pubkey = falconKeys.key seed →
                slice b 136 1793 = s.sec.pubkey
                  ∧ falconVerify s.sec.pubkey (shake512 (b.take 1936)) (slice b 1936 1280) = true)
            ∧ ∀ a, a < o ∨ o + 3216 ≤ a → rdByte t.bar2 a = rdByte s.bar2 a)
    ∧ (∀ u : State, let reports (x : State) : Prop := x.firmware = true ∧ x.asked m 0x0012 36 = true
          ∧ x.argNum m 32 4 + 3216 ≤ 0xFFF000 ∧ x.bit R.secIdstat 0 = true ∧ x.freeCtr < 2 ^ 320
        reports s → reports u → s.freeCtr ≠ u.freeCtr → u.sec.helper = s.sec.helper →
        Completes (exec (.getAttest m) s) fun t => s.freeCtr < t.freeCtr ∧ Completes (exec (.getAttest m) u) fun x =>
          let b := rdBytes t.bar2 (s.argNum m 32 4) 3216
          let d := rdBytes x.bar2 (u.argNum m 32 4) 3216
          b.take 1936 = d.take 1936 → slice b 1936 1280 ≠ slice d 1936 1280)
    ∧ (s.asked m 0x0012 36 = true → s.argNum m 32 4 + 3216 ≤ 0xFFF000 → s.bit R.secIdstat 0 = false →
        Completes (exec (.getAttest m) s) fun t => t.answered m 5 0 [] ∧ Changes [.regs, .mbx, .mgmt] s t)

/-- LOAD_IMAGE in ROM (R373, R375, R376): an image that passes every check is measured and started, and the answer is
OK with code 0; one that fails is DENIED with the code of the first check it fails, the device stays in ROM. That OK
comes while the device is still in ROM, before the first answer of Hyzacia, is the model's choice (log entry 110). -/
def Obligations.ImageIsLoadedOrDenied : Prop :=
  ∀ (s : State) (m : Nat), s.asked m 0x0010 4 = true → s.dev = .rom → s.sec.phase = .waiting →
    4096 ≤ s.argNum m 0 4 → s.argNum m 0 4 ≤ 0xFFE000 →
    let code := s.imageCheck (rdBytes s.bar2 0x1000 (s.argNum m 0 4))
    Completes (exec (.loadImage m) s) fun t =>
      t.dev = .rom ∧ t.fld R.secBootstat 15 8 = code ∧ t.answered m (if code = 0 then 0 else 5) 0 (leBytes 4 code)
        ∧ t.sec.phase = (if code = 0 then .started else .waiting) ∧ Changes [.regs, .mbx, .sec, .mgmt] s t
        ∧ (code = 0 → t.reg R.secLogcnt = s.reg R.secLogcnt + 4 ∧ t.mgmt.watchdogOn = true ∧ t.sec.staged = true)
        ∧ (code ≠ 0 → t.bit R.secCause 0 = true)

/-- DEV_RUN takes a configured device to RUNNING, with an event (R352, R366). DEV_STOP takes a running one to DRAINING
with the dispatcher paused, and where no slot is at work and no mirror is in progress, at once to CONFIGURED (R359).

SELF_TEST runs in LOADED until its end answers which tests of the mask failed (R381); LINK_TEST runs in CONFIGURED
until its end answers the lanes that passed: UP throughout, no error, the expected peer (R382). Both keep the mailbox
busy. -/
def Obligations.DeviceRunsStopsAndTests : Prop :=
  (∀ (s : State) (m : Nat),
      (s.asked m 0x0050 0 = true → s.dev = .configured → Completes (exec (.devRun m) s) fun t =>
        t.answered m 0 0 [] ∧ t.dev = .running ∧ t.bit R.devEvent 0 = true ∧ Changes [.dev, .regs, .mbx, .mgmt] s t)
      ∧ (s.asked m 0x0051 2 = true → s.dev = .running →
          (∀ j < 64, ((s.job j).st = .off ∨ (s.job j).st = .ready) ∧ (s.job j).mirror = none) →
          Completes (exec (.devStop m) s) fun t => t.answered m 0 0 [] ∧ t.dev = .configured ∧ t.bit R.dspCtl 1 = true)
      ∧ (s.asked m 0x0051 2 = true → s.dev = .running → (∃ j < 64, (s.job j).st = .draining) →
          Completes (exec (.devStop m) s) fun t => t.dev = .draining ∧ t.mbxBusy m = true ∧ t.bit R.dspCtl 1 = true
            ∧ t.mgmt.devStop = some (m, s.argNum m 0 2)))
  ∧ (∀ (s : State) (m f td pd sd : Nat) (x : Bool) (lanes : List Nat),
      (s.asked m 0x0013 4 = true → s.dev = .loaded → s.argNum m 0 4 ≤ 0x3F → Completes (exec (.selfTest m) s) fun t =>
        t.mbxBusy m = true ∧ t.mgmt.selfTest = some (m, s.argNum m 0 4)
          ∧ t.mgmt.running = [{ m := m, op := 0x0013, exclusive := true }])
      ∧ (∀ mask, m < 16 → mask ≤ 0x3F → s.firmware = true → s.mgmt.selfTest = some (m, mask) →
          Completes (exec (.selfTestComplete f td pd sd x) s) fun t =>
            t.mgmt.selfTest = none ∧ Changes [.regs, .mbx, .mgmt] s t
              ∧ ∃ b, t.answered m 0 0 b ∧ b.length = 16 ∧ leAt b 0 4 = mask ∧ leAt b 4 4 = f &&& mask)
      ∧ (s.asked m 0x0014 36 = true → s.dev = .configured → s.laneBad m = none → Completes (exec (.linkTest m) s) fun t =>
          t.mbxBusy m = true ∧ t.mgmt.linkTest = some (m, setBits 288 (s.argNum m 0 36)) ∧ Changes [.regs, .links, .mgmt] s t)
      ∧ (m < 16 → s.firmware = true → s.mgmt.linkTest = some (m, lanes) → Completes (exec .linkTestComplete s) fun t =>
          t.mgmt.linkTest = none ∧ Changes [.regs, .mbx, .mgmt] s t ∧ ∃ b, t.answered m 0 0 b ∧ b.length = 36
            ∧ ∀ l < 288, nbit (leNat b) l = (lanes.contains l && s.lanePassed l)))

/-- CFG_WRITE puts records into the shadow set (R333, R361): here job slot records (part 5), models (part 11) and
groups (part 12), in the argument area; read back they are the bytes written, and the active set does not change. VOTE
with a roster puts it into the shadow set (R384).

CFG_READ returns records of the active or the shadow set in the staging window, CFG_COPY makes the shadow set a copy
of the active one (R359, R361); neither changes the active set. -/
def Obligations.ConfigurationIsWrittenReadAndCopied : Prop :=
  (∀ (s : State) (m p i : Nat), s.firmware = true →
      (p = 5 ∨ p = 11 ∨ p = 12) → i < recCount p →
      (s.asked m 0x0020 (16 + recSize p) = true → s.argNum m 0 1 = p → s.argNum m 1 1 = 0 → s.argNum m 2 2 = 0 →
          s.argNum m 4 4 = i → s.argNum m 8 4 = 1 → recBad p (s.argBytes m 16 (recSize p)) = none →
          Completes (exec (.cfgWrite m) s) fun t => t.answered m 0 0 [] ∧ Changes [.regs, .mbx, .mgmt, .shadow] s t
            ∧ t.shadow.readPart p 0 i 1 = s.argBytes m 16 (recSize p)
            ∧ ∀ k, k ≠ i → t.shadow.readPart p 0 k 1 = s.shadow.readPart p 0 k 1)
      ∧ (s.asked m 0x0015 520 = true → (s.dev = .configured ∨ s.dev = .running) → s.argNum m 0 1 = 0 →
          rosterBad (s.argBytes m 0 520) 520 = none → Completes (exec (.voteRoster m) s) fun t =>
            t.answered m 0 0 [] ∧ Changes [.regs, .mbx, .mgmt, .shadow] s t
              ∧ mget Roster.empty t.shadow.rosters (s.argNum m 1 1) = rosterOf (s.argBytes m 0 520)))
  ∧ (∀ (s : State) (m p n : Nat), s.firmware = true →
      (s.asked m 0x0021 16 = true → s.argNum m 0 1 = p → p < 13 → p < 7 ∨ 10 < p → s.argNum m 1 1 ≤ 1 → s.argNum m 2 2 = 0 →
          s.argNum m 4 4 = 0 → s.argNum m 8 4 = n → n ≤ recCount p → s.argNum m 12 4 + recSize p * n ≤ 0xFFF000 →
          Completes (exec (.cfgRead m) s) fun t =>
            let c := if s.argNum m 1 1 = 0 then s.active else s.shadow
            let b := c.readPart p 0 0 n
            t.answered m 0 0 (leBytes 4 b.length) ∧ rdBytes t.bar2 (s.argNum m 12 4) b.length = b
              ∧ Changes [.regs, .bar2, .mbx, .mgmt] s t)
      ∧ (s.asked m 0x0022 0 = true → Completes (exec (.cfgCopy m) s) fun t =>
          t.answered m 0 0 [] ∧ t.shadow = s.active ∧ t.active = s.active ∧ Changes [.regs, .mbx, .mgmt, .shadow] s t))

/-- SWAP (R333, R334): where every slot is OFF or READY without a mirror, the dispatcher is paused, no group is busy
or switching, the crossbar is empty and the shadow set passes its checks, the two sets change places, and a LOADED
device is CONFIGURED. Here the register lists of the shadow set name only registers of their parts, as CFG_WRITE takes
them (R361). A set that fails a check is BAD_ARG with the part, and nothing is applied. -/
def Obligations.SwapExchangesTheSets : Prop :=
  ∀ (s : State) (m : Nat), s.asked m 0x0023 0 = true → (s.dev = .loaded ∨ s.dev = .configured ∨ s.dev = .running) →
    s.swapReady = true → (∀ p, 7 ≤ p → p ≤ 10 → ∀ e ∈ s.shadow.list p, listReg s.variant p e.1 = true) →
    (s.setBad = none → Completes (exec (.swap m) s) fun t => t.answered m 0 0 [] ∧ t.active = s.shadow
      ∧ t.shadow = s.active ∧ t.dev = (if s.dev = .loaded then .configured else s.dev))
    ∧ (∀ p, s.setBad = some p → Completes (exec (.swap m) s) fun t => t.answered m 2 (0x8000 + p) []
        ∧ Changes [.regs, .mbx, .mgmt] s t)

/-- JOB_BEGIN starts a step of a READY slot (R325, R360): it is RUNNING, its step counter goes into every core of its
core mask, and the answer is the step. JOB_EVAL is the same with EVAL and bit 63 of the cores' step set (R330). Here
no entry is listed, no core is to start and no group serves the job. -/
def Obligations.JobsBegin : Prop :=
  ∀ (s : State) (m j : Nat), s.dev = .running → s.argNum m 0 1 = j → j < 64 → s.argNum m 1 1 = 0 → s.argNum m 2 2 = 0 →
    s.argNum m 4 4 = noStart → (s.job j).st = .ready → (s.job j).mirror = none → s.jobGroups (s.job j).job = [] →
    let k := s.job j
    let begun (t : State) (st : JobState) (step : Nat) : Prop :=
      t.answered m 0 0 (leBytes 8 k.step.toNat) ∧ (t.job j).st = st ∧ (t.job j).code = 0 ∧ (t.job j).step = k.step
        ∧ (∀ u ∈ s.jobCores j, t.reg (R.tdCStepLo u) = BitVec.ofNat 32 step
            ∧ t.reg (R.tdCStepHi u) = BitVec.ofNat 32 (step / 2 ^ 32)
            ∧ t.reg (R.tdCSeedLo u) = BitVec.ofNat 32 k.seed.toNat)
        ∧ (∀ i, i ≠ j → t.job i = s.job i) ∧ Changes [.regs, .mbx, .mgmt, .jobs] s t
    (s.asked m 0x0030 8 = true → Completes (exec (.jobBegin m) s) fun t => begun t .running k.step.toNat)
    ∧ (s.asked m 0x0031 8 = true → k.step.toNat < 2 ^ 63 → Completes (exec (.jobEval m) s) fun t =>
        begun t .eval (k.step.toNat + 2 ^ 63))

/-- A drain (R328, R329). JOB_DRAIN makes the slot DRAINING and keeps its mailbox busy; its limit stops every core
that still works and makes the step incomplete; it completes, here with nothing of the job left, with the slot READY,
the step counter one higher after a step of training that did not fail, and the answer; an incomplete step keeps its
number, and the answer says that it is incomplete. R328 step 9 does not say when the code of the slot is read for this:
that it is read at the drain's end is the model's reading (log entry 108). -/
def Obligations.JobsDrain : Prop :=
  ∀ (s : State) (m j : Nat),
    (s.asked m 0x0032 4 = true → s.dev = .running → s.argNum m 0 1 = j → j < 64 → s.argNum m 1 1 = 0 →
        ((s.job j).st = .running ∨ (s.job j).st = .eval ∨ (s.job j).st = .failed) → Completes (exec (.jobDrain m) s) fun t =>
          (t.job j).st = .draining ∧ t.mbxBusy m = true
            ∧ (t.job j).drain = some { fromSt := (s.job j).st, mbx := some m, limit := s.argNum m 2 2, released := false })
    ∧ (s.firmware = true → (s.job j).st = .draining → (s.job j).drain ≠ none → s.coresStopped j = false →
        Completes (exec (.drainLimitExpiry j) s) fun t => (t.job j).incomplete = true
          ∧ ∀ u ∈ s.jobCores j, (t.core u).st ≠ .waiting ∧ ((t.core u).st = .running → (t.core u).stopping = true))
    ∧ (∀ d, s.firmware = true → (s.job j).drain = some d → d.released = true → d.mbx = some m → m < 16 →
        s.coresStopped j = true → (∀ n < s.tiles, s.pagerBusy n = false) → s.mgmt.devStop = none →
        s.jobGroups (s.job j).job = [] → d.fromSt ≠ .failed → (s.job j).incomplete = false →
        Completes (exec (.drainComplete j) s) fun t =>
          let step := if d.fromSt = .running ∧ (s.job j).code = 0 then (s.job j).step + 1 else (s.job j).step
          (t.job j).st = .ready ∧ (t.job j).drain = none ∧ (t.job j).step = step
            ∧ (t.job j).evals = (if d.fromSt = .running ∧ (s.job j).code = 0 then 0
                else if d.fromSt = .eval then (s.job j).evals + 1 else (s.job j).evals)
            ∧ t.answered m 0 0 (leBytes 8 0 ++ leBytes 8 step.toNat) ∧ t.bit R.devEvent 2 = true)
    ∧ (∀ d, s.firmware = true → (s.job j).drain = some d → d.released = true → d.mbx = some m → m < 16 →
        s.coresStopped j = true → (∀ n < s.tiles, s.pagerBusy n = false) → s.mgmt.devStop = none →
        s.jobGroups (s.job j).job = [] → (s.job j).incomplete = true →
        Completes (exec (.drainComplete j) s) fun t =>
          (t.job j).st = .ready ∧ (t.job j).drain = none ∧ (t.job j).step = (s.job j).step
            ∧ t.answered m 0 0 (leBytes 8 1 ++ leBytes 8 (s.job j).step.toNat) ∧ t.bit R.devEvent 2 = true)

/-- JOB_SET_STEP sets the step counter of a READY slot (R325); JOB_RELEASE invalidates the slot's translations of the
page and ends OK (R280), at once by the model's choice, or FAULTED with ECC_UE at a table entry with an uncorrectable word,
which is recorded (R271; log entry 114); JOB_FAIL records its code, the first of a step
being kept, and moves the slot to FAILED (R327, R363).

A checkpoint mirror (R331, R332). JOB_MIRROR of a READY slot sends the header with valid = 0 and keeps the mailbox busy,
then each page as one message of WRITE packets from the tile die that owns its frame to the page's place in the half at
the partner. The clause on pages takes a region list of one region, tables and frames of this device without
uncorrectable words, cold ATUs and a BPM that is off. MIRROR_COMPLETE, once no message of the mirror awaits COMPLETE, makes
the half the valid one and answers it with the step. That every page is sent as JOB_MIRROR starts, that die 0 reads the
list, and that no pages leave the headers alone are the model's choice (log entry 109). -/
def Obligations.SlotsAreSetReleasedFailedMirrored : Prop :=
  (∀ (s : State) (m j : Nat), s.argNum m 0 1 = j → j < 64 →
      (s.asked m 0x0033 16 = true → (s.dev = .configured ∨ s.dev = .running) → s.argNum m 1 7 = 0 → (s.job j).st = .ready →
          Completes (exec (.jobSetStep m) s) fun t => t.answered m 0 0 []
            ∧ (t.job j).step = BitVec.ofNat 64 (s.argNum m 8 8) ∧ (t.job j).st = .ready
            ∧ (∀ i, i ≠ j → t.job i = s.job i) ∧ Changes [.regs, .mbx, .mgmt, .jobs] s t)
      ∧ (s.asked m 0x0036 16 = true → s.dev = .running → s.argNum m 1 7 = 0 → s.argNum m 8 8 < 2 ^ 48 →
          ((s.job j).st = .ready ∨ (s.job j).st = .running ∨ (s.job j).st = .eval) →
          s.remoteLeaf j (s.argNum m 8 8) ≠ none → Completes (exec (.jobRelease m) s) fun t =>
            t.answered m 0 0 [] ∧ (∀ e ∈ t.atu, e.slot ≠ j) ∧ t.jobs = s.jobs)
      ∧ (∀ a, s.asked m 0x0036 16 = true → s.dev = .running → s.argNum m 1 7 = 0 → s.argNum m 8 8 < 2 ^ 48 →
          ((s.job j).st = .ready ∨ (s.job j).st = .running ∨ (s.job j).st = .eval) →
          s.poolFrame j (s.argNum m 8 8) = none → s.walkUe j (s.argNum m 8 8) = some a → Completes (exec (.jobRelease m) s) fun t =>
            t.answered m 6 0x0A [] ∧ t.jobs = s.jobs ∧ t.bit (R.tdMemcause (dpaDie a)) 2 = true
              ∧ (s.reg (R.tdMemfault0 (dpaDie a)) = 0 → t.fld (R.tdMemfault0 (dpaDie a)) 31 24 = 0x0A))
      ∧ (s.asked m 0x0035 2 = true → s.dev = .running → 1 ≤ s.argNum m 1 1 → s.argNum m 1 1 ≤ 0x0B →
          ((s.job j).st = .ready ∨ (s.job j).st = .running ∨ (s.job j).st = .eval) → s.slotOfJob (s.job j).job = some j →
          (s.job j).mirror = none → Completes (exec (.jobFail m) s) fun t => t.answered m 0 0 []
            ∧ (t.job j).st = .failed ∧ t.bit R.devEvent 1 = true
            ∧ (t.job j).code = (if (s.job j).code = 0 then s.argNum m 1 1 else (s.job j).code)))
  ∧ (∀ (s : State) (m j : Nat),
      (s.asked m 0x0034 1 = true → s.dev = .running → s.argNum m 0 1 = j → j < 64 → (s.job j).st = .ready →
          (s.job j).mirror = none → (s.job j).pages = 0 → Completes (exec (.jobMirror m) s) fun t =>
            t.mbxBusy m = true ∧ (t.job j).st = .ready
              ∧ (t.job j).mirror = some { mbx := m, half := (s.job j).mhalf, outst := 1 }
              ∧ ∃ p ∈ t.attach, p.src = s.mgmtSlot ∧ p.xlate = some j ∧ p.pkt.hdr.op = opWrite
                  ∧ p.pkt.hdr.dstRank = (s.job j).partner ∧ p.pkt.data.take 4 = leBytes 4 0x4D525258)
      ∧ (∀ (n va x : Nat) (f : Nat → Nat), s.asked m 0x0034 1 = true → s.dev = .running → s.argNum m 0 1 = j → j < 64 →
          (s.job j).st = .ready → (s.job j).mirror = none → (s.job j).pages = n → 1 ≤ n → s.ue = [] → s.atu = [] →
          s.bit R.bpmCtl 0 = false → (s.job j).rlist % 2 ^ 21 + 16 ≤ 2 ^ 21 → s.walk j (s.job j).rlist false = .ok x →
          leAt (rdBytes s.dpa x 16) 0 8 = va → n ≤ leAt (rdBytes s.dpa x 16) 8 8 → va % 2 ^ 21 = 0 →
          (∀ i < n, s.walk j (va + i * 2 ^ 21) false = .ok (f i) ∧ (s.leafOf j (va + i * 2 ^ 21)).map leafRh = some false
            ∧ s.bit (R.tdPgep (dpaDie (f i)) j) 31 = true) →
          Completes (exec (.jobMirror m) s) fun t =>
            let k := s.job j
            let place (i : Nat) := k.halfVa k.mhalf + (i + 1) * 2 ^ 21
            t.mbxBusy m = true ∧ (t.job j).st = .ready ∧ (t.job j).mirror = some { mbx := m, half := k.mhalf, outst := n + 1 }
              ∧ ∃ h ps, t.attach = s.attach ++ h :: ps
                ∧ h.pkt.data.take 4 = leBytes 4 0x4D525258 ∧ leAt h.pkt.data 7 1 = 0 ∧ h.pkt.hdr.addr = k.halfVa k.mhalf
                ∧ (∀ q ∈ ps, ∃ i < n, q.src = s.tileSlot (dpaDie (f i)) ∧ q.xlate = some j ∧ q.pkt.hdr.op = opWrite
                    ∧ q.pkt.hdr.dstRank = k.partner ∧ q.pkt.hdr.addr = place i ∧ q.pkt.hdr.msgBytes = 2 ^ 21)
                ∧ ∀ i < n, (ps.filter fun q => q.pkt.hdr.addr == place i).flatMap (·.pkt.data) = rdBytes s.dpa (f i) (2 ^ 21))
      ∧ (∀ r, s.firmware = true → (s.job j).mirror = some r → r.outst = 0 → r.mbx = m → m < 16 → s.mgmt.devStop = none →
          Completes (exec (.mirrorComplete j) s) fun t =>
            (t.job j).mirror = none ∧ (t.job j).mvalid = true ∧ (t.job j).mstep = (s.job j).step
              ∧ (t.job j).mhalf = 1 - r.half ∧ t.bit R.devEvent 3 = true
              ∧ t.answered m 0 0 (leBytes 1 r.half ++ leBytes 7 0 ++ leBytes 8 (s.job j).step.toNat)))

/-- LOAD_SPROG stores program words in the program stores of the engines it selects (R144, R362): here one word into
one engine, valid as R144 says, with the count of invalid words as the answer and one more entry in the measurement
log.

MEM_WRITE and MEM_READ of HBM (R362): the bytes go from the staging window to the DPA and back, every byte outside
stays, and a range that is no DPA is answered FAULTED with DENIED. Here the range holds no uncorrectable word.

The staging window on the bus (R348): a write of up to four bytes stores them, and a read returns them. That the operand
of the register commands reaches the window at 0x0800_0000 is the model's choice (log entry 7). -/
def Obligations.ProgramsAreLoadedAndMemoryMoved : Prop :=
  (∀ (s : State) (m d e : Nat), (s.dev = .loaded ∨ s.dev = .configured ∨ s.dev = .running) → d < 8 → e < 4 →
      s.asked m 0x0040 12 = true → s.argNum m 0 1 = 2 ^ d → s.argNum m 1 1 = 2 ^ e → s.argNum m 2 2 = 0 →
      7 ≤ s.argNum m 4 2 → s.argNum m 4 2 < 1024 → s.argNum m 6 2 = 1 → s.argNum m 8 4 + 64 ≤ 0xFFF000 →
      Completes (exec (.loadSprog m) s) fun t =>
        let w := leNat (rdBytes s.bar2 (s.argNum m 8 4) 64)
        t.prog = (s.storeProg (4 * d + e) (s.argNum m 4 2) w).prog
          ∧ t.progValid = (s.storeProg (4 * d + e) (s.argNum m 4 2) w).progValid
          ∧ t.answered m 0 0 (leBytes 2 (if progWordOk w then 0 else 1))
          ∧ t.reg R.secLogcnt = s.reg R.secLogcnt + 1 ∧ Changes [.regs, .mbx, .mgmt, .sec, .prog, .progValid, .ue] s t)
  ∧ (∀ (s : State) (m : Nat), (s.dev = .loaded ∨ s.dev = .configured ∨ s.dev = .running) → s.argNum m 0 1 = 0 →
      s.argNum m 2 2 = 0 → s.ue = [] →
      let n := s.argNum m 4 4
      let a := s.argNum m 8 8
      let o := s.argNum m 16 4
      1 ≤ n → n ≤ 16707584 → o + n ≤ 0xFFF000 → a % 2 ^ 21 + n ≤ 2 ^ 21 →
      (s.asked m 0x0041 20 = true → s.dpaSpan a n = true → Completes (exec (.memWrite m) s) fun t =>
          t.answered m 0 0 [] ∧ rdBytes t.dpa a n = rdBytes s.bar2 o n
            ∧ (∀ x, x < a ∨ a + n ≤ x → rdByte t.dpa x = rdByte s.dpa x) ∧ Changes [.regs, .mbx, .mgmt, .dpa, .ue] s t)
      ∧ (s.asked m 0x0042 20 = true → s.dpaSpan a n = true → Completes (exec (.memRead m) s) fun t =>
          t.answered m 0 0 [] ∧ rdBytes t.bar2 o n = rdBytes s.dpa a n
            ∧ (∀ x, x < o ∨ o + n ≤ x → rdByte t.bar2 x = rdByte s.bar2 x) ∧ Changes [.regs, .mbx, .mgmt, .bar2] s t)
      ∧ (s.asked m 0x0041 20 = true → s.dpaSpan a n = false → Completes (exec (.memWrite m) s) fun t =>
          t.answered m 6 0x0B [] ∧ t.dpa = s.dpa))
  ∧ (∀ (s : State) (x w : Nat) (v : Word), s.dev ≠ .off → w ≤ 4 → x + w ≤ 0x1000000 →
      Completes (exec (.registerWrite (0x8000000 + x) w v) s) fun t => Changes [.bar2] s t
        ∧ rdBytes t.bar2 x w = (leBytes 4 v.toNat).take w ∧ (∀ y, y < x ∨ x + w ≤ y → rdByte t.bar2 y = rdByte s.bar2 y)
        ∧ (x < 0x1000000 → (t.busRead (0x8000000 + x) w).toNat = v.toNat % 2 ^ (8 * w)))

/-- FABRIC_READ (R284, R357, R362): it sends one READ_REQ from the management die to the rank, and its mailbox stays
busy until the data are there; READ_RSP puts its bytes into the staging window and answers OK once the last has come;
after 100 ms without them the answer is FAULTED. -/
def Obligations.FabricReadsAreServed : Prop :=
  ∀ (s : State) (m : Nat),
    (s.asked m 0x0043 24 = true → s.dev = .running → s.argNum m 0 1 < 64 → s.argNum m 1 3 = 0 → s.argNum m 4 4 < 2 ^ 20 →
        1 ≤ s.argNum m 8 4 → s.argNum m 8 4 ≤ 16777216 → s.argNum m 12 8 < 2 ^ 48 →
        s.argNum m 20 4 + s.argNum m 8 4 ≤ 0xFFF000 → s.mgmt.fabricRead = none →
        s.active.translate (s.argNum m 0 1) (s.argNum m 4 4) ≠ none → Completes (exec (.fabricRead m) s) fun t =>
          t.mbxBusy m = true ∧ Changes [.regs, .mgmt, .attach, .nextId, .freeCtr] s t
            ∧ (∃ r, t.mgmt.fabricRead = some r ∧ r.m = m ∧ r.len = s.argNum m 8 4 ∧ r.got = 0 ∧ r.va = s.argNum m 12 8)
            ∧ ∃ p ∈ t.attach, p.src = s.mgmtSlot ∧ p.xlate = some (s.argNum m 0 1) ∧ p.pkt.hdr.op = opReadReq
                ∧ p.pkt.hdr.dstRank = s.argNum m 4 4 ∧ p.pkt.hdr.addr = s.argNum m 12 8
                ∧ p.pkt.hdr.msgBytes = s.argNum m 8 4)
    ∧ (∀ r a rest, s.firmware = true → s.mgmt.fabricRead = some r → s.inbox = a :: rest → a.slot = s.mgmtSlot →
        a.pkt.hdr.op = opReadRsp → a.unit = 0 → r.job = a.pkt.job → r.va = a.pkt.hdr.addr → r.flow = a.pkt.hdr.flow →
        r.m < 16 → r.got + a.pkt.data.length = r.len → a.pkt.hdr.byteOff + a.pkt.data.length ≤ r.len →
        Completes (exec .readRsp s) fun t =>
          rdBytes t.bar2 (r.off + a.pkt.hdr.byteOff) a.pkt.data.length = a.pkt.data ∧ t.inbox = rest
            ∧ t.mgmt.fabricRead = none ∧ t.answered r.m 0 0 [])
    ∧ (∀ r, s.firmware = true → s.mgmt.fabricRead = some r → r.m < 16 → Completes (exec .fabricReadTimeout s) fun t =>
        t.mgmt.fabricRead = none ∧ t.answered r.m 6 0 [] ∧ Changes [.regs, .mbx, .mgmt] s t)

/-! ### Job faults and votes -/

/-- Hyzacia serves the job maps (R74, R96, R107, R125): it clears the map and the causes that led to it, and the marked
job's slot fails with POISONED for aborted packets, LINK_LOST for a link that is down or a policer that dropped, DENIED
where only xlate_err is set; a code that the slot already holds stays (R327).

Job-ending faults. The service of a core's fault, and a notice from another device (Table 15.10), give the job's slot
the code, where it has none, and move a slot that is READY, RUNNING or EVAL to FAILED (R192, R327, R363), in every device
state (log entry 66). A fault of a tile die that its record register did not take is served too: the model keeps it in a
list of its own (log entry 131). -/
def Obligations.JobMapsAndFaultsAreServed : Prop :=
  (∀ (s : State) (job j n : Nat), s.firmware = true → s.mgmt.devStop = none → s.slotOfJob job = some j →
      (s.job j).st = .running → (s.job j).mirror = none →
      let failed (t : State) (code : Nat) : Prop := (t.job j).st = .failed
        ∧ (t.job j).code = (if (s.job j).code = 0 then code else (s.job j).code) ∧ t.bit R.devEvent 1 = true
      let cleared (t : State) : Prop := (∀ w < 128, t.reg (R.portJmap n w) = 0) ∧ t.bit (R.portCause n) 0 = false
        ∧ t.bit (R.portCause n) 3 = false ∧ t.bit (R.portSchcause n) 0 = false
      (s.bit R.xbarCause 5 = true → s.marked (fun w => R.xbarJmap w) = [job] →
        Completes (exec .xbarJmapService s) fun t => failed t 0x09 ∧ t.bit R.xbarCause 5 = false
          ∧ ∀ w < 128, t.reg (R.xbarJmap w) = 0)
      ∧ (n < s.ports → (s.bit (R.portCause n) 0 = true ∨ s.bit (R.portSchcause n) 0 = true) →
          s.marked (fun w => R.portJmap n w) = [job] →
          Completes (exec (.portJmapService n) s) fun t => failed t 0x07 ∧ cleared t)
      ∧ (n < s.ports → s.bit (R.portCause n) 0 = false → s.bit (R.portSchcause n) 0 = false →
          s.bit (R.portCause n) 3 = true → s.marked (fun w => R.portJmap n w) = [job] →
          Completes (exec (.portJmapService n) s) fun t => failed t 0x0B ∧ cleared t))
  ∧ (∀ (s : State) (j : Nat), s.firmware = true → s.mgmt.devStop = none → (s.job j).code = 0 →
      ((s.job j).st = .ready ∨ (s.job j).st = .running ∨ (s.job j).st = .eval) →
      (∀ o n, s.owed = [o] → o.n = n → s.slotOfJob o.job = some j →
        ((o.site = .mem ∧ s.faultSites = [.mem n]) ∨ (o.site = .sem ∧ s.faultSites = [.sem n])
          ∨ (o.site = .coll ∧ s.faultSites = [.coll n])) → Completes (exec .jobFaultService s) fun t =>
          (t.job j).st = .failed ∧ (t.job j).code = o.code)
      ∧ (∀ u, s.faultSites = [.core u] → s.slotOfJob (s.fld (R.tdCJob u) 11 0) = some j →
        Completes (exec .jobFaultService s) fun t =>
          (t.job j).st = .failed ∧ (t.job j).code = s.fld (R.tdCFault0 u) 31 24)
      ∧ (∀ a rest, s.inbox = a :: rest → a.slot = s.mgmtSlot → a.unit = 0 → a.pkt.hdr.op = opMgmtMsg → leAt a.pkt.data 0 1 = 1 →
          0 < leAt a.pkt.data 1 1 → leAt a.pkt.data 1 1 ≤ 0x0B → s.slotOfJob (leAt a.pkt.data 2 2 % 4096) = some j →
          Completes (exec .jobFaultNotice s) fun t =>
            (t.job j).st = .failed ∧ (t.job j).code = leAt a.pkt.data 1 1))

/-- Ballots (R385, R386). A ballot that passes the checks of Table 16.8 is counted once; at the quorum its target is
expelled in a free SEC_EXPEL entry, and the job's slot, where a step is at work, fails here with DENIED unless it holds
an earlier code (R327); another ballot is refused. A ballot from the mailbox is answered too. -/
def Obligations.BallotsAreCounted : Prop :=
  ∀ (s : State) (j : Nat) (b : List Byte),
    let v := (leAt b 4 2 % 1024, leAt b 1 1)
    let k := s.job j
    let n := countWhere (fun x => x.1 == v.1) (k.tally ++ [v])
    (∀ a rest, s.firmware = true → s.exclusive = false → s.mgmt.devStop = none → s.inbox = a :: rest → a.slot = s.mgmtSlot →
      a.unit = 0 → a.pkt.hdr.op = opMgmtMsg → leAt a.pkt.data 0 1 = 2 → slice a.pkt.data 32 3096 = b →
      (s.ballotSlot b = some j → v ∉ k.tally → n ≠ k.roster.q → Completes (exec .ballotReceive s) fun t =>
        t.job j = { k with tally := k.tally ++ [v] } ∧ Changes [.inbox, .jobs] s t)
      ∧ (s.ballotSlot b = some j → v ∈ k.tally → Completes (exec .ballotReceive s) fun t => t = { s with inbox := rest })
      ∧ (s.ballotSlot b = some j → v ∉ k.tally → n = k.roster.q → s.bit (R.secExpel 0) 31 = false →
          Completes (exec .ballotReceive s) fun t => t.bit (R.secExpel 0) 31 = true ∧ t.fld (R.secExpel 0) 21 12 = v.1
            ∧ t.fld (R.secExpel 0) 11 0 = k.job % 4096 ∧ t.bit R.secCause 4 = true
            ∧ (t.job j).code = (if k.code = 0 then 0x0B else k.code)
            ∧ (k.st = .running ∨ k.st = .eval → (t.job j).st = .failed ∧ t.bit R.devEvent 1 = true))
      ∧ (s.ballotSlot b = none → Completes (exec .ballotReceive s) fun t => t.jobs = s.jobs ∧ t.bit R.secCause 3 = true))
    ∧ (∀ m, s.asked m 0x0015 3096 = true → s.argBytes m 0 3096 = b → s.argNum m 0 1 = 1 → ballotBad b 3096 = none →
        (s.dev = .configured ∨ s.dev = .running) →
        (s.ballotSlot b = some j → v ∉ k.tally → n ≠ k.roster.q → Completes (exec (.voteBallot m) s) fun t =>
          t.answered m stOk 0 [] ∧ (t.job j).tally = k.tally ++ [v])
        ∧ (s.ballotSlot b = none → Completes (exec (.voteBallot m) s) fun t =>
            t.answered m stDenied 0 [] ∧ t.jobs = s.jobs ∧ t.bit R.secCause 3 = true))

/-! ### The crossbar -/

/-- Enabling the crossbar (R60, R61): every crosspoint of two clients starts with min_cells minimum credits and no
borrowed one, and BCAP shows what the minimum leaves of 1,310,720 buffers. Disabling works on an empty crossbar; on another it sets
cfg_err and changes nothing (R65, R66). A minimum outside 8 to 64 is refused (R60).

Multicast groups (R68): a disabled group takes its member words, of which bits of slots without a client read 0, and
its control word; the member words of an enabled group do not change. A control word changes nothing else but that
borrowed credits of an empty queue go back (R64). -/
def Obligations.CrossbarAndMulticastAreConfigured : Prop :=
  (∀ (s : State) (w : Word), s.dev ≠ .off → s.dev ≠ .rom →
      (s.xbarOn = false → w.getLsbD 0 = true → Completes (exec (.xbarEnable w) s) fun t => t.xbarOn = true
        ∧ t.reg R.xbarBcap = BitVec.ofNat 32 (1310720 - s.fld R.xbarCpmin 6 0 * s.clients ^ 2)
        ∧ (∀ i j, s.populatedSlot i = true → s.populatedSlot j = true → t.xbar.minAt i j = s.fld R.xbarCpmin 6 0)
        ∧ (∀ i j c, t.xbar.brwCrAt i j c = 0)
        ∧ Changes [.regs, .xbar] s t)
      ∧ (s.xbarOn = true → w.getLsbD 0 = false → s.xbarEmpty = true → Completes (exec (.xbarDisable w) s) fun t =>
          t.xbarOn = false ∧ Changes [.regs] s t)
      ∧ (s.xbarOn = true → w.getLsbD 0 = false → s.xbarEmpty = false → Completes (exec (.xbarDisable w) s) fun t =>
          t.xbarOn = true ∧ t.bit R.xbarCause 3 = true ∧ Changes [.regs] s t)
      ∧ (∀ v : Word, (8 ≤ v.toNat % 128 ∧ v.toNat % 128 ≤ 64 → Completes (exec (.xbarCpminWrite v) s) fun t =>
            t.fld R.xbarCpmin 6 0 = v.toNat % 128 ∧ Changes [.regs] s t)
          ∧ (v.toNat % 128 < 8 ∨ 64 < v.toNat % 128 → Completes (exec (.xbarCpminWrite v) s) fun t =>
            t.reg R.xbarCpmin = s.reg R.xbarCpmin ∧ t.bit R.xbarCause 3 = true ∧ Changes [.regs] s t)))
  ∧ (∀ (s : State) (g : Nat) (w : Word), s.dev ≠ .off → s.dev ≠ .rom → g < 1024 →
      (s.bit (R.xbarMcgCtl g) 0 = false → Completes (exec (.mcgWrite g 0 w) s) fun t => Changes [.regs] s t
        ∧ ∀ b < 32, (t.reg (R.xbarMcgMem0 g)).getLsbD b = (w.getLsbD b && s.populatedSlot b))
      ∧ (s.bit (R.xbarMcgCtl g) 0 = false → Completes (exec (.mcgWrite g 4 w) s) fun t => Changes [.regs] s t
        ∧ ∀ b < 32, (t.reg (R.xbarMcgMem1 g)).getLsbD b = (w.getLsbD b && s.populatedSlot (32 + b)))
      ∧ (s.bit (R.xbarMcgCtl g) 0 = false → Completes (exec (.mcgWrite g 8 w) s) fun t => Changes [.regs] s t
        ∧ ∀ b < 32, (t.reg (R.xbarMcgMem2 g)).getLsbD b = (w.getLsbD b && s.populatedSlot (64 + b)))
      ∧ (s.bit (R.xbarMcgCtl g) 0 = false → Completes (exec (.mcgWrite g 12 w) s) fun t => Changes [.regs] s t
        ∧ ∀ b < 32, (t.reg (R.xbarMcgMem3 g)).getLsbD b = (w.getLsbD b && s.populatedSlot (96 + b)))
      ∧ (s.bit (R.xbarMcgCtl g) 0 = false → Completes (exec (.mcgWrite g 0x10 w) s) fun t => Changes [.regs, .xbar] s t
        ∧ t.xbar = { s.xbar with brwCr := t.xbar.brwCr, brw := t.xbar.brw, free := t.xbar.free }
        ∧ (s.xbar.brwCr = [] → t.xbar = s.xbar) ∧ t.fld (R.xbarMcgCtl g) 3 0 = w.toNat % 16)
      ∧ (s.bit (R.xbarMcgCtl g) 0 = true → ∀ off < 16, exec (.mcgWrite g off w) s = .next s))

/-- CELL_SEND of a unicast cell for which input i holds a credit (R58, R59): the cell enters the queue of its
crosspoint behind all others with its data, a valid CRC and the kind of its credit, and waits at the input no longer;
a minimum credit is spent where it used one.

The pool arbiter grants a request that the pool, the output's cap and the class's cap allow: grant_cells borrowed
credits for that queue, taken from the pool (R63). Stored-copy credits are granted in the same batches (R70; the
condition that a cell waits is the model's, log entry 17). -/
def Obligations.CellsEnterOnCredit : Prop :=
  (∀ (s : State) (i : Nat) (e : XIn) (j : Nat) (k : Credit), s.xbarOn = true → s.choose i = some e → e.cell.mcast = false →
      s.sendAct e = .send j k →
      Completes (exec (.cellSend i) s) fun t =>
        (∃ q, t.xbar.xq = s.xbar.xq ++ [q] ∧ q.i = i ∧ q.j = j ∧ q.cell.dst = j ∧ q.cell.data = e.cell.data
          ∧ q.cell.brw = (k == .borrowed) ∧ q.cell.hcrc = q.cell.crc)
        ∧ t.xbar.xin.length + 1 = s.xbar.xin.length
        ∧ t.xbar.minAt i j = (if k = .minimum then s.xbar.minAt i j - 1 else s.xbar.minAt i j))
  ∧ (∀ s : State,
      (∀ k, s.borrowRequests = [k] → s.grantable k = true → Completes (exec .poolGrant s) fun t =>
        mget 0 t.xbar.brwCr k = mget 0 s.xbar.brwCr k + s.grantCells ∧ mget 0 t.xbar.brw k = mget 0 s.xbar.brw k + s.grantCells
          ∧ t.xbar.free + s.grantCells = s.xbar.free ∧ Changes [.xbar] s t)
      ∧ (∀ i g e, s.xbarOn = true → s.bit (R.xbarMcgCtl g) 0 = true → s.mcStored g = true → e ∈ s.xbar.xin → e.i = i →
          e.cell.mcast = true → e.cell.mgroup = g → mget 0 s.xbar.scCr (1024 * i + g) = 0 →
          s.xbar.mc + s.grantCells ≤ s.fld R.xbarMccap 20 0 → s.grantCells ≤ s.xbar.free →
          s.pointersFree (s.mcMembers g) = true → Completes (exec (.storedCopyCreditGrant i g) s) fun t =>
            mget 0 t.xbar.scCr (1024 * i + g) = s.grantCells ∧ t.xbar.mc = s.xbar.mc + s.grantCells
              ∧ t.xbar.free + s.grantCells = s.xbar.free ∧ Changes [.xbar] s t))

/-- CELL_LEAVE (R57, R64). At a client output, a whole packet of one cell is handed to the client; at a port output
the cell goes to the port die. Either way it has left its crosspoint, and its minimum credit is back at the input. -/
def Obligations.CellsLeaveTheirCrosspoint : Prop :=
  ∀ (s : State) (j : Nat) (e : XEntry), e ∈ s.xbar.xq → e.ptr = none → e.res = false → e.cell.brw = false →
    e.cell.abt = false → e.cell.sop = true → s.xbar.aborted = [] → s.xbar.commits = [] →
    (s.isPortSlot j = false → s.xbar.pick j = some e → e.j = j → e.cell.eop = true → s.xbar.reasm = [] →
      Completes (exec (.cellLeave j false) s) fun t =>
        (∃ a, t.inbox = s.inbox ++ [a] ∧ a.slot = j ∧ a.sub = e.cell.sub ∧ a.pkt.data = e.cell.data.drop 32
          ∧ a.pkt.hdr = hdrOfBytes e.cell.data ∧ a.pkt.job = e.cell.job)
        ∧ t.xbar.xq.length + 1 = s.xbar.xq.length ∧ t.xbar.minAt e.i e.j = s.xbar.minAt e.i e.j + 1)
    ∧ (s.isPortSlot j = true → s.portPick j = some e → e.j = j → Completes (exec (.cellLeave j false) s) fun t =>
        (∃ c, t.xbar.xout = s.xbar.xout ++ [(j, c)] ∧ c.data = e.cell.data)
        ∧ t.xbar.xq.length + 1 = s.xbar.xq.length ∧ t.xbar.minAt e.i e.j = s.xbar.minAt e.i e.j + 1)

/-- The down state of an output subport (R71 to R73): entering it flushes the subport's queues and sets its flush bit;
the end of the flush clears that bit and sets flush_done; it returns to up with every shaper bucket full (R122, R123). -/
def Obligations.OutputsGoDownAndUp : Prop :=
  ∀ (s : State) (j sub : Nat), s.isPortSlot j = true → sub < s.subports j →
    (s.outDown j sub = false → Completes (exec (.outputDown j sub) s) fun t => t.outDown j sub = true
      ∧ t.bit (R.xbarOutctl j) (4 + sub) = true ∧ (∀ e ∈ t.xbar.xq, ¬(e.j = j ∧ e.cell.sub = sub))
      ∧ ∀ c ∈ t.xbar.commits, ¬(c.j = j ∧ c.sub = sub))
    ∧ (s.bit (R.xbarOutctl j) (4 + sub) = true → Completes (exec (.flushDone j sub) s) fun t =>
        t.bit (R.xbarOutctl j) (4 + sub) = false ∧ t.bit R.xbarCause 4 = true ∧ Changes [.regs] s t)
    ∧ (s.outDown j sub = true → s.bit (R.xbarOutctl j) (4 + sub) = false → Completes (exec (.outputUp j sub) s) fun t =>
        t.outDown j sub = false ∧ Changes [.regs, .shpT, .circT] s t
          ∧ ∀ c < 8, mget 0x8000 t.shpT (8 * lk (j / 6) (s.firstLane j sub) + c)
              = 2 * (s.fld (R.portSShpb (j / 6) (s.firstLane j sub) c) 23 0 : Nat))

/-! ### Links, routing, messages -/

/-- Port slots and tables. SLOTCFG is stored while no subport of the slot is requested up, and is ignored with a cfg_err
otherwise; a split of 3, or of 2 in Ethernet mode, sets cfg_err and holds the slot disabled: it has no subport (R78). A
stored SLOTCFG changes nothing else but that borrowed credits of an empty queue go back (R64). TBLCMD writes an entry from
TBLDATA, keeping the bits of its layout, or reads it there (R101). -/
def Obligations.PortsAreConfigured : Prop :=
  ∀ (s : State) (n k : Nat) (w : Word), s.dev ≠ .off → s.dev ≠ .rom → n < s.ports →
    let busy := ∃ x < 4, s.bit (R.portPCfg n (4 * k + x)) 0 = true ∨ s.bit (R.portECtl n (4 * k + x)) 0 = true
    let sel := s.reg (R.portTblsel n)
    let tb := wfld sel 30 28
    let idx := wfld sel 9 0
    (k < 6 → ¬busy → Completes (exec (.slotcfgWrite n k w) s) fun t =>
      t.reg (R.portSlotcfg n k) &&& 0xFF73 = w &&& 0xFF73 ∧ Changes [.regs, .xbar] s t
        ∧ t.xbar = { s.xbar with brwCr := t.xbar.brwCr, brw := t.xbar.brw, free := t.xbar.free }
        ∧ (s.xbar.brwCr = [] → t.xbar = s.xbar)
        ∧ (wfld w 1 0 = 3 ∨ (wfld w 1 0 = 2 ∧ wfld w 5 4 = 1) → t.bit (R.portCause n) 5 = true))
    ∧ (∀ u : State, n < u.ports → k < 6 → (u.fld (R.portSlotcfg n k) 1 0 = 3
        ∨ (u.fld (R.portSlotcfg n k) 1 0 = 2 ∧ u.fld (R.portSlotcfg n k) 5 4 = 1)) → u.subports (6 * n + k) = 0)
    ∧ (k < 6 → busy → Completes (exec (.slotcfgWrite n k w) s) fun t =>
        t.reg (R.portSlotcfg n k) = s.reg (R.portSlotcfg n k) ∧ t.bit (R.portCause n) 5 = true ∧ Changes [.regs] s t)
    ∧ (idx < tblSize tb → wbit sel 31 = true → Completes (exec (.tblcmdWrite n 2) s) fun t => Changes [.shadow] s t
        ∧ ∀ i < 8, t.shadow.word tb (wfld sel 21 16) idx i = s.reg (R.portTbldata n i) &&& tblMask tb i)
    ∧ (idx < tblSize tb → Completes (exec (.tblcmdRead n 1) s) fun t => Changes [.regs] s t
        ∧ ∀ i < 8, t.reg (R.portTbldata n i)
            = (if wbit sel 31 then s.shadow else s.active).word tb (wfld sel 21 16) idx i)

/-- The states of a fabric subport (R85, R86, R104 to R106): up_req with credit counts in range starts training, with others
it sets cfg_err and starts none; a FAULTED device trains no link (R353; that it stores the other fields is the model's choice,
log entry 85);
training ends UP, the peer's identity stored and the whole count of each pair to return, or FAILED where the expected
peer is another; a retrain counts; it ends UP, or FAILED at its timeout; a subport whose up_req is cleared is DOWN. -/
def Obligations.LinkStatesFollow : Prop :=
  ∀ (s : State) (n l j sub : Nat) (w : Word) (pd pl : Nat), s.dev ≠ .off → s.dev ≠ .rom →
    s.subportAt n l = some (j, sub) → s.slotMode j = 0 →
    let k := s.link n l
    let p := s.reg (R.portPPeer n l)
    (w.getLsbD 0 = true → s.creditLimits n j l = false → Completes (exec (.linkUpReq n l w) s) fun t =>
      t.bit (R.portCause n) 5 = true ∧ t.links = s.links ∧ Changes [.regs] s t)
    ∧ (w.getLsbD 0 = true → s.dev = .faulted → s.creditLimits n j l = true → Completes (exec (.linkUpReq n l w) s) fun t =>
      t.links = s.links ∧ Changes [.regs] s t)
    ∧ (s.dev ≠ .faulted →
    (w.getLsbD 0 = true → k.st = .down → s.creditLimits n j l = true → Completes (exec (.linkUpReq n l w) s) fun t =>
      (t.link n l).st = .training ∧ Changes [.regs, .links] s t)
    ∧ (w.getLsbD 0 = false → k.st ≠ .down → Completes (exec (.linkDownReq n l w) s) fun t =>
        (t.link n l).st = .down ∧ t.bit (R.portPCfg n l) 0 = false)
    ∧ (k.st = .training → pd < 1024 → pl < 512 → (wbit p 31 = false ∨ (wfld p 19 10 = pd ∧ wfld p 8 0 = pl)) →
        Completes (exec (.trainingComplete n l pd pl) s) fun t => (t.link n l).st = .up ∧ (t.link n l).peerDev = pd
          ∧ (t.link n l).peerLane = pl ∧ (∀ key < 10, mget 0 (t.link n l).crdRet key = s.crdCount n l key)
          ∧ Changes [.links] s t)
    ∧ (k.st = .training → wbit p 31 = true → wfld p 19 10 ≠ pd → Completes (exec (.trainingComplete n l pd pl) s) fun t =>
        (t.link n l).st = .failed ∧ t.bit (R.portCause n) 2 = true ∧ t.bit (R.portCause n) 0 = true)
    ∧ (k.st = .up → Completes (exec (.retrainTrigger n l) s) fun t => (t.link n l).st = .retraining
        ∧ t.reg (R.portPRetrains n l) = s.reg (R.portPRetrains n l) + 1 ∧ t.bit (R.portCause n) 1 = true)
    ∧ (k.st = .retraining → Completes (exec (.retrainComplete n l) s) fun t =>
        t = s.setLink n l { k with st := .up })
    ∧ (k.st = .retraining → Completes (exec (.retrainTimeout n l) s) fun t => (t.link n l).st = .failed
        ∧ t.bit (R.portCause n) 0 = true ∧ t.bit R.devEvent 4 = true ∧ t.outDown j sub = true))

/-- Flits that arrive and leave (R83 to R85, R88). The expected data flit is accepted; a flit with a wrong CRC is
counted and answered with a replay request; a replay request sends everything after its ack again; control flits leave
first, then what is to be sent again, then a cell that has credit, else an idle flit; a cell sent spends one credit
and stays in the replay buffer. -/
def Obligations.FlitsAreExchanged : Prop :=
  ∀ (s : State) (n l j sub : Nat) (f : Flit), s.subportAt n l = some (j, sub) → s.slotMode j = 0 → (s.link n l).st = .up →
    let k := s.link n l
    (f.crc = flitCrc f → f.ftype = 0 → f.seq = k.rxSeq → Completes (exec (.flitReceive n l f) s) fun t =>
      (t.link n l).rxSeq = (k.rxSeq + 1) % 4096 ∧ (t.link n l).discarding = false ∧ (t.link n l).ackNew = true)
    ∧ (f.crc ≠ flitCrc f → k.reqsNoProgress + 1 < 8 → Completes (exec (.flitReceive n l f) s) fun t =>
        (t.link n l).ctlOut = k.ctlOut ++ [plainFlit 3] ∧ (t.link n l).rxSeq = k.rxSeq
          ∧ t.ctr (R.portPCrcfailLo n l) = s.ctr (R.portPCrcfailLo n l) + 1)
    ∧ (∀ a r, k.replay = a :: r → a.seq < 4096 → Completes (exec (.replayRequest n l a.seq) s) fun t =>
        (t.link n l).replay = r ∧ (t.link n l).resend = r ∧ Changes [.links] s t)
    ∧ (k.ackNew = true → Completes (exec (.ackControlFlit n l) s) fun t =>
        t = s.setLink n l { k with ctlOut := k.ctlOut ++ [plainFlit 2] })
    ∧ (∀ g r, k.ctlOut = g :: r → Completes (exec (.flitTransmit n l) s) fun t => (t.link n l).ctlOut = r
        ∧ (∃ x, (t.link n l).lastTx = some x ∧ x.ftype = g.ftype ∧ x.ack = (k.rxSeq + 4095) % 4096 ∧ x.crc = flitCrc x)
        ∧ Changes [.links] s t)
    ∧ (∀ c, k.ctlOut = [] → k.resend = [] → k.replay.length < s.replaySize j → (s.egr n l).nextTx k = some c →
        Completes (exec (.flitTransmit n l) s) fun t => (t.link n l).txSeq = (k.txSeq + 1) % 4096
          ∧ (t.link n l).replay = k.replay ++ [flitOfCell k.peerDev k.txSeq c]
          ∧ mget 0 (t.link n l).txCr (2 * c.vc + bnat c.dl) + 1 = mget 0 k.txCr (2 * c.vc + bnat c.dl)
          ∧ Changes [.links, .egress] s t)
    ∧ (∀ g r, k.ctlOut = [] → k.resend = g :: r → Completes (exec (.flitTransmit n l) s) fun t => Changes [.links] s t
        ∧ (t.link n l).resend = r ∧ (t.link n l).replay = k.replay ∧ (t.link n l).txSeq = k.txSeq
        ∧ ∃ x, (t.link n l).lastTx = some x ∧ x.ftype = g.ftype ∧ x.seq = g.seq ∧ x.payload = g.payload ∧ x.crc = flitCrc x)
    ∧ (k.ctlOut = [] → k.resend = [] → ((s.egr n l).nextTx k = none ∨ s.replaySize j ≤ k.replay.length) →
        Completes (exec (.flitTransmit n l) s) fun t => Changes [.links] s t
          ∧ (t.link n l).replay = k.replay ∧ (t.link n l).txSeq = k.txSeq
        ∧ ∃ x, (t.link n l).lastTx = some x ∧ x.ftype = 1 ∧ x.crc = flitCrc x)

/-- Packets are injected and routed (R90, R95, R97 to R99). The packet of a client that translates, has its slot and
is routed to a port slot enters the crossbar there, cut into cells that carry its header and data in order, as does a
packet that waits on a link: for another device on its hop, for this device at the unit its endpoint names. While the
crossbar is disabled the packet waits (R66). -/
def Obligations.PacketsAreRouted : Prop :=
  ∀ (s : State) (i n l j sub j' sub' vc : Nat) (o : OutPkt) (h : PktHdr) (f : Flit) (circ : Option Nat) (d : Dest) (u : Nat),
    (s.xbarOn = true → s.attach = [o] → o.src = i → o.msg = none → o.sig = none →
      s.injectAct o = .go h none (.hop j' sub' circ) → Completes (exec (.packetInject i) s) fun t =>
        t.attach = [] ∧ Changes [.attach, .xbar, .nextId] s t
          ∧ ∃ es, t.xbar.xin = s.xbar.xin ++ es ∧ (∀ e ∈ es, e.i = i ∧ e.cell.dst = j' ∧ e.cell.sub = sub'
              ∧ e.cell.mcast = false ∧ e.cell.hcrc = e.cell.crc)
            ∧ ((h.bytes ++ o.pkt.data).length ≤ 15360 → es.flatMap (·.cell.data) = h.bytes ++ o.pkt.data))
    ∧ (s.xbarOn = true → s.subportAt n l = some (j, sub) → (s.link n l).rxWait = [f] → (s.link n l).rxDec = [] →
        (s.link n l).rxCut = [] → (s.link n l).rxHeld = [] → f.vc = vc → f.sop = true → f.eop = true →
        (hdrOfBytes f.payload).dstDev ≠ s.selfDev → s.decideRx j f = .hop j' sub' circ →
        Completes (exec (.packetForward n l vc) s) fun t =>
          (t.link n l).rxWait = [] ∧ (t.link n l).rxDec = [] ∧ Changes [.links, .xbar, .nextId] s t
            ∧ ∃ e, t.xbar.xin = s.xbar.xin ++ [e] ∧ e.i = j ∧ e.cell.dst = j' ∧ e.cell.sub = sub' ∧ e.cell.job = f.job)
    ∧ (s.xbarOn = true → s.subportAt n l = some (j, sub) → (s.link n l).rxWait = [f] → (s.link n l).rxDec = [] →
        (s.link n l).rxCut = [] → (s.link n l).rxHeld = [] → f.vc = vc → f.sop = true → f.eop = true →
        (hdrOfBytes f.payload).dstDev = s.selfDev → s.decideRx j f = .unit d u → d.mcast = false →
        Completes (exec (.packetDeliver n l vc) s) fun t =>
          (t.link n l).rxWait = [] ∧ (t.link n l).rxDec = [] ∧ Changes [.links, .xbar, .nextId] s t
            ∧ ∃ e, t.xbar.xin = s.xbar.xin ++ [e] ∧ e.i = j ∧ e.cell.dst = d.dst ∧ e.cell.ep = (hdrOfBytes f.payload).dstEp)
    ∧ (s.xbarOn = false → exec (.packetInject i) s = .next s ∧ exec (.packetForward n l vc) s = .next s
        ∧ exec (.packetDeliver n l vc) s = .next s)

/-- Messages (R93, R94). The bytes of a message count in its tracker; the last of them sends a COMPLETE to its source. Of the
commitments of one unit and cycle those from the lowest source slot are counted first (R20; that one fabric tick is one cycle
is the model's choice, log entry 63). A COMPLETE that names an open message closes it (of a fan-out message, that of the
addressed device: the model's choice, log entry 152); a message that waits for a slot takes the lowest free one with the
slot's next number. -/
def Obligations.MessagesAreTracked : Prop :=
  ∀ s : State,
    (∀ c d, s.commits = [c, d] → s.nextCommit
        = if d.slot = c.slot ∧ d.at_ = c.at_ ∧ d.src < c.src then some (d, [c]) else some (c, [d]))
    ∧ (∀ c rest, s.nextCommit = some (c, rest) → s.trackers = [] → c.target = none → c.isAdd = false → c.bytes ≠ c.hdr.msgBytes →
      Completes (exec .trackerCount s) fun t => t.commits = rest ∧ Changes [.commits, .trackers] s t
        ∧ ∃ k, t.trackers = [k] ∧ k.count = c.bytes ∧ k.srcDev = c.hdr.srcDev ∧ k.seq = c.hdr.msgSeq)
    ∧ (∀ c rest, s.nextCommit = some (c, rest) → s.trackers = [] → c.target = none → c.isAdd = false → c.hdr.sig = false →
        c.bytes = c.hdr.msgBytes → Completes (exec .trackerCount s) fun t => t.commits = rest ∧ t.trackers = []
          ∧ ∃ p, t.attach = s.attach ++ [p] ∧ p.src = c.slot ∧ p.pkt.hdr.op = opComplete ∧ p.pkt.hdr.dstDev = c.hdr.srcDev
            ∧ p.pkt.hdr.dstEp = c.hdr.srcEp ∧ p.pkt.hdr.msgSlot = c.hdr.msgSlot ∧ p.pkt.hdr.msgSeq = c.hdr.msgSeq)
    ∧ (∀ a rest m, s.inbox = a :: rest → a.slot = s.mgmtSlot → a.pkt.hdr.op = opComplete → s.messageOf a.pkt.hdr = some m →
        m.owner = .served → Completes (exec .complete s) fun t => t.inbox = rest ∧ Changes [.inbox, .msgs] s t
          ∧ t.msgs = s.msgs.filter fun o => o.id != m.id)
    ∧ (∀ m rest k dev, s.msgs = m :: rest → m.waiting = true → m.dstDev = some dev → s.freeSlot dev = some k →
        Completes (exec (.messageSlotGrant dev) s) fun t => Changes [.msgs, .msgSeq] s t
          ∧ t.msgs = { m with slot := some k, seq := mget 0 s.msgSeq (16 * dev + k), waiting := false } :: rest
          ∧ mget 0 t.msgSeq (16 * dev + k) = (mget 0 s.msgSeq (16 * dev + k) + 1) % 4096)

/-! ### Scheduling, telemetry, Ethernet -/

/-- EGRESS_SELECT serves an eligible MGMT packet before every other (R117), puts it behind the packets already
selected, and selects nothing where no queue has an eligible head packet (R116).

BUCKET_REFRESH adds each shaper's and policer's rate to its tokens, up to the burst (R123; tokens in half bytes).

The throttle level of a class (R102) rises to the number of thresholds that the depth reaches, and falls by one below
the last threshold less the hysteresis; what counts in the depth beside queue and buffer is the model's choice (log
entries 122 and 123). EGRESS_CELL_TAKE moves the next cell that left toward a subport into its FIFO
(R424). -/
def Obligations.EgressSelectsAndIsShaped : Prop :=
  (∀ (s : State) (n l j sub : Nat), s.subportAt n l = some (j, sub) → s.slotMode j = 0 →
      (∀ i < 128, ∀ c < 8, ∀ h, s.eligibleHead n l j sub i c = some h → h.vc = 3 →
        Completes (exec (.egressSelect n l) s) fun t => Changes [.egress] s t
          ∧ ∃ q, q.vc = 3 ∧ (t.egr n l).sel = (s.egr n l).sel ++ [q.pid] ∧ s.eligibleHead n l j sub q.i q.tc = some q
            ∧ (t.egr n l).inProg = (s.egr n l).inProg ++ [(⟨j, sub, q.tc, q.i, q.pid⟩, none)])
      ∧ ((∀ i c, s.eligibleHead n l j sub i c = none) → Completes (exec (.egressSelect n l) s) fun t =>
          (t.egr n l).sel = (s.egr n l).sel ∧ (t.egr n l).inProg = (s.egr n l).inProg ∧ Changes [.egress] s t))
  ∧ (∀ (s : State) (n l j sub : Nat), s.dev ≠ .off → s.subportAt n l = some (j, sub) →
      Completes (exec (.bucketRefresh n) s) fun t => Changes [.shpT, .circT, .polT] s t
        ∧ (∀ c < 8, t.shpTokens n l c
            = min (s.shpTokens n l c + (s.fld (R.portSShpr n l c) 15 0 : Nat)) (2 * (s.fld (R.portSShpb n l c) 23 0 : Nat)))
        ∧ (∀ js < 64, t.polTokens n js
            = min (s.polTokens n js + (s.fld (R.portPolcfg n js) 15 0 : Nat)) (2 * (s.fld (R.portPolb n js) 23 0 : Nat)))
        ∧ ∀ m k, m ≠ n → k < 24 → ∀ c < 8, t.shpTokens m k c = s.shpTokens m k c)
  ∧ (∀ (s : State) (n l j sub tc : Nat), s.subportAt n l = some (j, sub) →
      (tc < 8 →
        let d := s.depth n l j sub tc
        let th (i : Nat) : Nat := 16 * s.fld (R.portPThr n l) (8 * i + 7) (8 * i)
        let reached := ([0, 1, 2].filter fun i => th i ≤ d).length
        let cur := s.throttle n l tc
        Completes (exec (.throttleLevelUpdate n l tc) s) fun t => Changes [.regs] s t
          ∧ t.throttle n l tc = (if cur < reached then reached
              else if 0 < cur ∧ reached < cur ∧ d + 16 * s.fld (R.portPThr n l) 31 24 < th (cur - 1) then cur - 1 else cur)
          ∧ ∀ c < 8, c ≠ tc → t.throttle n l c = s.throttle n l c)
      ∧ (∀ c rest, s.xbar.xout = (j, c) :: rest → c.sub = sub → c.inLane = none → (s.link n l).st = .up →
          Completes (exec (.egressCellTake j sub) s) fun t => t.xbar.xout = rest
            ∧ (t.egr n l).fifo = (s.egr n l).fifo ++ [c] ∧ Changes [.xbar, .egress] s t))

/-- Telemetry (R126 to R128). A sample counts the depth of each class of each subport in its bin (what the depth counts
beside queue and buffer is the model's choice, log entries 122 and 123), and the number of samples, which R128 divides, goes on
by one modulo 32,768, counted from reset (the model's choice, log entry 126); HISTSEL latches the
bins of a histogram (zero for lanes 24 to 31, which no die has: the model's choice, log entry 127), HISTCLR clears
those of the die and no other; a ring record goes to its place in the ring and
nowhere else, and waits while the crossbar is disabled (R66; that it crosses in one step is the model's choice, log
entry 55). -/
def Obligations.TelemetryIsKept : Prop :=
  ∀ (s : State) (n : Nat) (w : Word), n < s.ports →
    (∀ l j sub c, s.dev ≠ .off → s.subportAt n l = some (j, sub) → c < 8 → Completes (exec (.telemetrySample n) s) fun t =>
      let key := histKey n l c 0 (histBin (s.depth n l j sub c))
      mget 0 t.hist key = mget 0 s.hist key + 1 ∧ mget 0 t.sampleN n = (mget 0 s.sampleN n + 1) % 32768
        ∧ Changes [.regs, .hist, .sampleN, .ring] s t)
    ∧ (s.dev ≠ .off → s.dev ≠ .rom → Completes (exec (.histselWrite n w) s) fun t => Changes [.regs] s t ∧ ∀ b < 16,
        let x := if 24 ≤ w.toNat / 256 % 32 then 0
          else mget 0 s.hist (histKey n (w.toNat / 256 % 32) (w.toNat % 8) (w.toNat / 8192 % 2) b)
        t.reg (R.portHistbinLo n b) = x.setWidth 32 ∧ t.reg (R.portHistbinHi n b) = (x >>> 32).setWidth 32)
    ∧ (s.dev ≠ .off → s.dev ≠ .rom → w.getLsbD 0 = true → Completes (exec (.histclr n w) s) fun t => Changes [.hist] s t
        ∧ ∀ m l c kind b, l < 24 → c < 8 → kind < 2 → b < 16 → mget 0 t.hist (histKey m l c kind b)
            = (if m = n then 0 else mget 0 s.hist (histKey m l c kind b)))
    ∧ (∀ r rest, s.ring = r :: rest → r.n = n → r.bytes.length = 64 →
        let z := s.fld (R.portRingCfg n) 12 8
        let a := s.reg64 (R.portRingBaseLo n) (R.portRingBaseHi n) + 64 * (r.seq % 2 ^ (if z < 6 ∨ 20 < z then 6 else z))
        (s.xbarOn = false → exec (.ringRecordWrite n) s = .next s)
        ∧ (s.recordPasses r a = true → s.dpaSpan a 64 = true → s.ue = [] → Completes (exec (.ringRecordWrite n) s) fun t =>
          t.ring = rest ∧ rdBytes t.dpa a 64 = r.bytes
            ∧ (∀ x, x < a ∨ a + 64 ≤ x → rdByte t.dpa x = rdByte s.dpa x) ∧ Changes [.ring, .dpa, .ue] s t))

/-- Ethernet subports (R109): up_req in an Ethernet-mode slot starts training, which ends UP; a lost lock, fault
sequences for 1 ms or a cleared up_req leave UP, with every response buffer given up and eth_down set. -/
def Obligations.EthernetStatesFollow : Prop :=
  ∀ (s : State) (n l j sub : Nat) (w : Word), s.dev ≠ .off → s.dev ≠ .rom → s.subportAt n l = some (j, sub) →
    s.slotMode j = 1 →
    let left (t : State) (st : EthState) : Prop := (t.eth n l).st = st ∧ (t.eth n l).resp = [] ∧ (t.eth n l).wait = []
      ∧ t.bit (R.portCause n) 6 = true
    (w.getLsbD 0 = true → (s.eth n l).st = .down → Completes (exec (.ethUpReq n l w) s) fun t =>
      (t.eth n l).st = .training ∧ t.bit (R.portECtl n l) 0 = true ∧ Changes [.regs, .eths] s t)
    ∧ ((s.eth n l).st = .training → Completes (exec (.ethTrainingComplete n l) s) fun t =>
        t = s.setEth n l { s.eth n l with st := .up })
    ∧ ((s.eth n l).st = .up → Completes (exec (.ethLinkFault n l) s) fun t => left t .training)
    ∧ ((s.eth n l).st = .up → Completes (exec (.ethFaultSequenceTimeout n l) s) fun t => left t .training)
    ∧ (w.getLsbD 0 = false → (s.eth n l).st = .up → Completes (exec (.ethDownReq n l w) s) fun t =>
        left t .down ∧ t.bit (R.portECtl n l) 0 = false)

/-- A frame that fails one of the checks 0 to 4 of Table 4.12 is discarded and counted under that reason; an accepted
serving datagram takes the buffer that R290 gives it, which holds the header length h, the first lane, the response headers
at bytes 80 - h to 79 and the payload from byte 80; its descriptor goes to the dispatcher with model, buffer, lane
and the port die's time (R21), and it is counted (R110, R112; the bytes here without uncorrectable words). A response that EGRESS_SELECT takes enters the FIFO as a whole frame, built
from its buffer, here without uncorrectable words (R113, R115, R116); RESPONSE_TRANSMIT sends the first frame of the FIFO,
and its buffer is freed (R113). -/
def Obligations.FramesAreServed : Prop :=
  ∀ (s : State) (n l j sub : Nat) (f : List Byte), s.subportAt n l = some (j, sub) → s.slotMode j = 1 →
    (s.eth n l).st = .up →
    let r := parseFrame f
    (∀ x, 64 ≤ f.length → s.ethCheckLow n l r = some x → Completes (exec (.frameReceive n l f) s) fun t =>
      Changes [.ethDrop] s t
        ∧ mget 0 t.ethDrop (16 * lk n l + x) = mget 0 s.ethDrop (16 * lk n l + x) + 1)
    ∧ (∀ h, 64 ≤ f.length → s.ethCheckLow n l r = none → r.etype ≠ etArp → s.naReply n l r = none →
        s.ethCheckHigh n l r = none → s.xbarOn = true → (s.allocate (80 + (r.ulen - 8))).2 = .ok h →
        Completes (exec (.frameReceive n l f) s) fun t =>
          t.dsp = { s.dsp with inbox := s.dsp.inbox
            ++ [{ model := leAt r.udp 3 1, handle := h, lane := 24 * n + l, time := s.replica (portDie n) }] }
          ∧ t.ctr (R.portEAcceptLo n l) = s.ctr (R.portEAcceptLo n l) + 1
          ∧ (∃ k i, h = handleOf k i ∧ (k, i) ∉ s.poolUsed ∧ t.poolUsed = s.poolUsed ++ [(k, i)])
          ∧ (s.ue = [] →
              let a := s.bufferAddr h
              let hl := r.respHead.length
              rdBytes t.dpa a 3 = leBytes 1 hl ++ leBytes 2 (24 * n + l) ∧ rdBytes t.dpa (a + 80 - hl) hl = r.respHead
                ∧ rdBytes t.dpa (a + 80) (r.ulen - 8) = r.udp
                ∧ ∀ x, x < a ∨ a + 80 + (r.ulen - 8) ≤ x → rdByte t.dpa x = rdByte s.dpa x))
    ∧ (s.ue = [] → Completes (exec (.egressSelect n l) s) fun t =>
        ((t.eth n l).resp = (s.eth n l).resp
          ∨ ∃ w ∈ (s.eth n l).wait,
              let a := s.bufferAddr w.handle
              let b := rdBytes s.dpa a 96
              s.xbarOn = true ∧ (t.eth n l).wait.length + 1 = (s.eth n l).wait.length
                ∧ (t.eth n l).resp = (s.eth n l).resp ++ [⟨w.handle, w.ts,
                    s.responseFrame n l (leAt b 0 1) (rdBytes s.dpa a (96 + leAt b 90 2))⟩])
        ∧ (t.eth n l).lastTx = (s.eth n l).lastTx ∧ t.dpa = s.dpa)
    ∧ (∀ x rest, (s.eth n l).resp = x :: rest → s.bit R.bpmCtl 0 = true →
        handleIndex x.handle < s.poolCount (handlePool x.handle) → (handlePool x.handle, handleIndex x.handle) ∈ s.poolUsed →
        Completes (exec (.responseTransmit n l) s) fun t => (t.eth n l).resp = rest
          ∧ (t.eth n l).lastTx = x.frame
          ∧ (handlePool x.handle, handleIndex x.handle) ∉ t.poolUsed ∧ Changes [.eths, .poolUsed] s t)

/-! ### Stream engines -/

/-- What an engine does with the oldest packet delivered to it (R132 to R138, R143, R160). Data go to context memory;
a descriptor makes a FREE context CONFIGURED or, where R134 refuses it, FAILED with DENIED; another opcode is a stray.
An announce is recorded; the last one missing sends the combined announce and makes the context ACTIVE, or FAILED with
MISMATCH where an announce had mm = 1 or another digest; a wrong crc fails it with POISONED. A chunk that passes the checks of
R143 waits for its handler, one that does not poisons the context. A COMPLETE closes its message, also one that a context of
another engine sent (the model's choice, log entry 135), and the last one frees the context. While the crossbar is disabled the
engine stalls (R66): that its arrivals wait too is the model's choice (log entry 129). -/
def Obligations.EnginesTakeTheirPackets : Prop :=
  ∀ (s : State) (e : Nat) (a : Arrival) (rest : List Arrival),
    (s.xbarOn = false → ∀ c ∈ [Instr.engineWrite e, .collAnnReceive e, .collDataReceive e, .engineCompleteReceive e],
      exec c s = .next s) ∧
    (s.xbarOn = true → e < 32 → s.dev ≠ .faulted → s.ue = [] → s.inbox = a :: rest → s.atEngine e a = true →
    let p := a.pkt
    let h := chunkHdr p
    let failed (t : State) (c code : Nat) : Prop := t.inbox = rest ∧ (t.ctx c).st = .failed ∧ (t.ctx c).code = code
    (p.hdr.op = opWrite → p.hdr.addr < 2 ^ 23 → p.hdr.addr + p.hdr.byteOff + p.data.length ≤ 2 ^ 23 →
      Completes (exec (.engineWrite e) s) fun t =>
        let o := e * 2 ^ 23 + p.hdr.addr + p.hdr.byteOff
        t.inbox = rest ∧ rdBytes t.ctxMem o p.data.length = p.data
          ∧ (∀ x, x < o ∨ o + p.data.length ≤ x → rdByte t.ctxMem x = rdByte s.ctxMem x)
          ∧ Changes [.inbox, .ctxMem, .ue, .commits] s t)
    ∧ (∀ i < 128, let c := 128 * e + i
        p.hdr.op = opWrite → p.hdr.addr = 2 ^ 23 + 128 * i → p.hdr.byteOff = 0 → p.data.length = 128 → (s.ctx c).st = .free →
        let d := parseDesc p.data
        (descRefused p.data p.job = false → Completes (exec (.engineWrite e) s) fun t => t.inbox = rest
          ∧ t.ctx c = { Ctx.reset with st := .configured, job := p.job, seq := d.collSeq, desc := some d }
          ∧ (∀ x, x ≠ c → t.ctx x = s.ctx x) ∧ Changes [.inbox, .ctxs, .commits] s t)
        ∧ (descRefused p.data p.job = true → Completes (exec (.engineWrite e) s) fun t => failed t c 0x0B))
    ∧ (p.hdr.op ∉ [opWrite, opCircWrite, opCollAnn, opCollData, opComplete] → Completes (exec (.engineWrite e) s) fun t =>
        t.inbox = rest ∧ t.ctr (R.sdStrayLo (e / 4)) = s.ctr (R.sdStrayLo (e / 4)) + 1 ∧ t.bit (R.sdCause (e / 4)) 1 = true
          ∧ t.ctxs = s.ctxs)
    ∧ (p.hdr.op = opCollAnn → h.ctx / 128 = e →
        let k := s.ctx h.ctx
        let b := chunkBody p
        (k.st = .free → crcGood p = true → Completes (exec (.collAnnReceive e) s) fun t => t.inbox = rest
          ∧ (let r : AnnRec := ⟨[h.inIdx], [slice b 0 16], h.mm, BitVec.ofNat 64 (leAt b 16 8), if h.inIdx = 0 then slice b 24 40 else []⟩
             t.ctx h.ctx = { Ctx.reset with st := .announcing, job := p.job, seq := h.seq, ann := r }))
        ∧ (k.st ≠ .failed → (k.st = .free ∨ k.job = p.job) → crcGood p = false → Completes (exec (.collAnnReceive e) s) fun t =>
            failed t h.ctx 0x09)
        ∧ (∀ d, k.st = .configured → k.job = p.job → k.seq = h.seq → k.desc = some d → h.inIdx < d.nIn → h.inIdx ∉ k.ann.ins →
            crcGood p = true →
            let missing : Prop := ∃ i < d.nIn, i ≠ h.inIdx ∧ i ∉ k.ann.ins
            let agree : Prop := h.mm = false ∧ k.ann.anyMm = false ∧ slice b 0 16 = d.digest ∧ ∀ x ∈ k.ann.digests, x = d.digest
            let count : Dword := k.ann.count + BitVec.ofNat 64 (leAt b 16 8)
            (missing → Completes (exec (.collAnnReceive e) s) fun t => t.inbox = rest ∧ t.attach = s.attach
              ∧ t.ctx h.ctx = { k with ann := ⟨k.ann.ins ++ [h.inIdx], k.ann.digests ++ [slice b 0 16], k.ann.anyMm || h.mm, count,
                                               if h.inIdx = 0 then slice b 24 40 else k.ann.tail⟩ })
            ∧ (¬missing → agree → Completes (exec (.collAnnReceive e) s) fun t => t.inbox = rest
              ∧ (t.ctx h.ctx).st = .active ∧ (t.ctx h.ctx).base = 0 ∧ ∃ q, t.attach = s.attach ++ [q] ∧ q.pkt.hdr.op = opCollAnn
                ∧ q.pkt.hdr.dstDev = d.outDev ∧ q.pkt.hdr.dstEp = d.outEp ∧ q.pkt.job = k.job
                ∧ (q.pkt.data.drop 32).take (d.digest.length + 8) = d.digest ++ leBytes 8 count.toNat)
            ∧ (¬missing → ¬agree → Completes (exec (.collAnnReceive e) s) fun t => failed t h.ctx 0x08)))
    ∧ (p.hdr.op = opCollData → h.ctx / 128 = e →
        let k := s.ctx h.ctx
        ∀ d, k.desc = some d → k.job = p.job → k.st ≠ .free → k.st ≠ .failed →
        (s.dataOk e k d p = true → Completes (exec (.collDataReceive e) s) fun t => t.inbox = rest
          ∧ t.accepted = s.accepted ++ [{ e := e, c := h.ctx, arr := a }] ∧ mget 0 (t.ctx h.ctx).nextIn h.inIdx = h.chunk + 1
          ∧ Changes [.inbox, .ctxMem, .ue, .ctxs, .accepted] s t)
        ∧ (s.dataOk e k d p = false → Completes (exec (.collDataReceive e) s) fun t => failed t h.ctx 0x09))
    ∧ (∀ m c, p.hdr.op = opComplete → s.messageOf p.hdr = some m → m.owner = .engine c → m.id ∈ (s.ctx c).outst →
        Completes (exec (.engineCompleteReceive e) s) fun t => t.inbox = rest ∧ t.msgs = s.msgs.filter (·.id != m.id)
          ∧ ((s.ctx c).outst.filter (· != m.id) ≠ [] → t.ctx c = { s.ctx c with outst := (s.ctx c).outst.filter (· != m.id) })
          ∧ (∀ d, (s.ctx c).outst = [m.id] → (s.ctx c).st = .active → (s.ctx c).desc = some d → d.nChunks ≤ (s.ctx c).base →
              (s.ctx c).pend = none → t.ctx c = Ctx.reset)))

/-- Handlers and emission (R142, R146, R149, R153 to R155). The handler of the packet accepted first works on its
chunk slot: what it answers stands there, and the slot counts the contribution; a fault of the handler fails the
context. The standard handler with ADD on I32 adds each element modulo 2^32. A context whose lowest chunk has every
contribution emits it to its output, with four at most on the way. While the crossbar is disabled both wait (R66). -/
def Obligations.HandlersRunAndChunksLeave : Prop :=
  ∀ (s : State) (e c : Nat) (d : CtxDesc) (t0 : ChunkSlot),
    (s.xbarOn = false → exec (.handlerRun e) s = .next s ∧ exec (.chunkEmit e) s = .next s) ∧
    (s.xbarOn = true → e < 32 → s.dev ≠ .faulted → s.ue = [] →
    let k := s.ctx c
    k.desc = some d →
    (∀ arr rest, let h := chunkHdr arr.pkt
      let o := e * 2 ^ 23 + slotOff c d.dtype h.chunk
      s.accepted = { e := e, c := c, arr := arr } :: rest → chunkSlot k h.chunk = some t0 →
      (∀ w, s.runHandler e c d t0 arr.pkt = .ok w → Completes (exec (.handlerRun e) s) fun t =>
        t.accepted = rest ∧ rdBytes t.ctxMem o w.bytes.length = w.bytes ∧ Changes [.accepted, .ctxMem, .ue, .ctxs] s t
          ∧ (∀ x, x < o ∨ o + w.bytes.length ≤ x → rdByte t.ctxMem x = rdByte s.ctxMem x)
          ∧ chunkSlot (t.ctx c) h.chunk = some ⟨t0.chunk, t0.handled + 1, t0.elems, w.recs, w.recSize, w.flags, w.exact, t0.holds⟩)
      ∧ (∀ f, s.runHandler e c d t0 arr.pkt = .fault f → k.st = .active → Completes (exec (.handlerRun e) s) fun t =>
          t.accepted = rest.filter (·.c != c) ∧ (t.ctx c).st = .failed ∧ (t.ctx c).code = f)
      ∧ (d.dtype = dtI32 → d.inTypes.getD h.inIdx 0 = 0 → d.handler < 1024 → s.progOk e d.handler = true →
          s.progWord e d.handler = 0x01000000 * 2 ^ 192 + 0x10000000 * 2 ^ 128 → h.elems ≤ d.chunkElems →
          Completes (exec (.handlerRun e) s) fun t => ∀ i < h.elems,
            leNat (rdBytes t.ctxMem (o + 4 * i) 4)
              = (leNat (rdBytes s.ctxMem (o + 4 * i) 4) + leAt arr.pkt.data (32 + 4 * i) 4) % 2 ^ 32))
    ∧ (∀ i < 128, c = 128 * e + i → s.emitReady c = true → (∀ x < 128, x ≠ i → s.emitReady (128 * e + x) = false) →
        chunkSlot k k.base = some t0 → Completes (exec (.chunkEmit e) s) fun t =>
          (t.ctx c).base = k.base + 1 ∧ (t.ctx c).outst = k.outst ++ [s.nextId] ∧ (t.ctx c).outst.length ≤ 4
            ∧ mget 0 t.rrEmit e = (i + 1) % 128
            ∧ ∃ q, t.attach = s.attach ++ [q] ∧ q.pkt.hdr.op = opCollData ∧ q.pkt.hdr.dstDev = d.outDev ∧ q.pkt.hdr.dstEp = d.outEp
              ∧ q.pkt.job = k.job ∧ (d.dtype = dtI32 → d.final = false →
                q.pkt.data.drop 32 = rdBytes s.ctxMem (e * 2 ^ 23 + slotOff c dtI32 t0.chunk) (4 * t0.elems))))

/-- The registers of a stream die (R158, R159, R144, R162). JOBCMD fails or frees every context of a job on the die
and no other; PROGCMD stores the program word of PROGDATA and shows its valid bit, or reads it; CMDATA writes and
reads the word of context memory that CMSEL names, which goes on to the next. -/
def Obligations.StreamDieRegistersAct : Prop :=
  ∀ (s : State) (n : Nat) (w : Word), n < 8 → s.dev ≠ .off → s.dev ≠ .rom →
    let job := wfld w 11 0
    let mine (c : Nat) : Prop := c / 512 = n ∧ (s.ctx c).job = job ∧ (s.ctx c).st ≠ .free
    (wfld w 31 30 = 1 → 0 < wfld w 23 16 → wfld w 23 16 ≤ 0x0B → Completes (exec (.sdJobFail n w) s) fun t =>
      (∀ c, mine c → (t.ctx c).st = .failed ∧ ((s.ctx c).st ≠ .failed → (t.ctx c).code = wfld w 23 16))
        ∧ ∀ c, ¬mine c → t.ctx c = s.ctx c)
    ∧ (wfld w 31 30 = 2 → Completes (exec (.sdJobFree n w) s) fun t =>
        (∀ c, mine c → t.ctx c = Ctx.reset) ∧ ∀ c, ¬mine c → t.ctx c = s.ctx c)
    ∧ (let e := 4 * n + s.fld (R.sdProgsel n) 31 30
       let x := s.fld (R.sdProgsel n) 9 0
       (w.getLsbD 1 = true → w.getLsbD 0 = false → Completes (exec (.sdProgWrite n w) s) fun t =>
          (∀ i < 16, nbits (t.progWord e x) (32 * i) 32 = (s.reg (R.sdProgdata n i)).toNat)
            ∧ t.progOk e x = progWordOk (t.progWord e x) ∧ t.fld (R.sdProgval n) 0 0 = bnat (t.progOk e x)
            ∧ (∀ f y, y < 1024 → (f ≠ e ∨ y ≠ x) → t.progWord f y = s.progWord f y)
            ∧ Changes [.regs, .prog, .progValid, .ue] s t)
        ∧ (w.getLsbD 1 = false → w.getLsbD 0 = true → Completes (exec (.sdProgRead n w) s) fun t =>
            (∀ i < 16, (t.reg (R.sdProgdata n i)).toNat = nbits (s.progWord e x) (32 * i) 32) ∧ Changes [.regs] s t))
    ∧ (let e := 4 * n + s.fld (R.sdCmsel n) 31 30
       let x := s.fld (R.sdCmsel n) 22 2
       let o := e * 2 ^ 23 + 4 * x
       s.ue = [] →
       Completes (exec (.sdCmdataAccess n true w) s) (fun t => rdBytes t.ctxMem o 4 = leBytes 4 w.toNat
          ∧ (∀ y, y < o ∨ o + 4 ≤ y → rdByte t.ctxMem y = rdByte s.ctxMem y) ∧ t.fld (R.sdCmsel n) 22 2 = (x + 1) % 2 ^ 21
          ∧ Changes [.regs, .ctxMem, .ue] s t)
       ∧ Completes (exec (.sdCmdataAccess n false w) s) (fun t => t.busData.toNat = leNat (rdBytes s.ctxMem o 4)
          ∧ t.fld (R.sdCmsel n) 22 2 = (x + 1) % 2 ^ 21 ∧ Changes [.regs, .busData] s t))

/-! ### Collectives -/

/-- How a collective opens (R163, R168, R177, R179, R180). The command at the head of CQ with a readable plan opens a
collective that sends its images and data-tree announces, with mm where its own checks fail; a core without a rank
gets DENIED. The control announce follows once; a combined announce of a data tree is recorded, one with a wrong crc
ends the collective with POISONED and leaves its job to be told (R192). The control root's announce starts the data
phase, of an ALL_TO_ALL with the counts of its blocks (R182), unless the digests, the steps or mm say MISMATCH; a lead
hands it on. While the crossbar is disabled no collective
opens and none announces (R66). The model's choice: an image or announce with an invalid target word is not counted and
not sent (log entry 104), descriptor and plan are read as local store stands when the command is taken (log entry 32), and
a sequencer stalls as the engines of R66 do (log entry 129). -/
def Obligations.CollectivesOpen : Prop :=
  ∀ (s : State) (u n : Nat),
    (s.xbarOn = false → exec (.collAccept u) s = .next s ∧ exec (.collControlAnnounce n) s = .next s)
    ∧ (∀ c0 rest, s.xbarOn = true → (s.core u).cq = c0 :: rest → s.hasCore u = true → s.collRoom u = true → s.ue = [] → (s.core u).decays = [] →
      let s1 := s.setCore u { s.core u with cq := rest }
      let d := parseColl (s.lsNow u (dmaDesc c0.slot.toNat) 128)
      (∀ s2 p, s.bit (R.tdCRank u) 31 = true → s1.readPlan u d = (s2, .ok p) → p.ctlLeaf.valid = true →
        Completes (exec (.collAccept u) s) fun t => (t.core u).cq = rest
          ∧ ∃ x ps, t.colls = s.colls ++ [x] ∧ x.core = u ∧ x.n = u / 4 ∧ x.desc = d ∧ x.plan = p ∧ x.phase = .announce
            ∧ (x.mm = !d.passes (s2.coreJob u) (wfld (s2.active.word 1 0 (s2.coreSlot u) 1) 20 0) p (s2.job (s2.coreSlot u)).det)
            ∧ t.attach = s.attach ++ ps ∧ x.annOutst = ps.length
            ∧ ps.length = countWhere (·.1.valid) p.images + countWhere (·.valid) p.leaves
            ∧ ∀ q ∈ ps, q.src = s.tileSlot (u / 4) ∧ (q.pkt.hdr.op = opWrite ∨ q.pkt.hdr.op = opCollAnn))
      ∧ (s.bit (R.tdCRank u) 31 = false → Completes (exec (.collAccept u) s) fun t => (t.core u).cq = rest
          ∧ t.colls = s.colls ∧ t.attach = s.attach ∧ t.bit (R.tdCollcause (u / 4)) 0 = true
          ∧ (s.reg (R.tdCollfault (u / 4)) = 0 → t.fld (R.tdCollfault (u / 4)) 31 24 = 0x0B)
          ∧ ((s.sem u d.sem).toNat < 2 ^ 32 - 1 → t.sem u d.sem = s.sem u d.sem + 1)))
    ∧ (∀ c, s.xbarOn = true → s.colls = [c] → c.n = n → c.mayAnnounce = true →
        Completes (exec (.collControlAnnounce n) s) fun t =>
        t.colls = [{ c with annSent := true }] ∧ ∃ q, t.attach = s.attach ++ [q] ∧ q.pkt.hdr.op = opCollAnn
          ∧ q.pkt.hdr.dstDev = c.plan.ctlLeaf.dev ∧ q.pkt.hdr.dstEp = c.plan.ctlLeaf.ep ∧ q.pkt.job = c.job
          ∧ q.pkt.data.drop 32 = s.announceBody c.core c.desc c.desc.self c.desc.count)
    ∧ (∀ c a rest, s.colls = [c] → s.inbox = a :: rest → a.slot = s.tileSlot n → a.pkt.hdr.op = opCollAnn →
        s.collFor n a = some c →
        let h := chunkHdr a.pkt
        let b := chunkBody a.pkt
        (∀ x, c.desc.treeOf h.seq = some x → x ≠ c.desc.trees →
          (crcGood a.pkt = true → Completes (exec (.collAnnounceReceive n) s) fun t => t.inbox = rest
            ∧ t.colls = [{ c with trees := c.trees ++ [x], mm := c.mm || h.mm }] ∧ Changes [.inbox, .colls, .commits] s t)
          ∧ (crcGood a.pkt = false → Completes (exec (.collAnnounceReceive n) s) fun t => t.inbox = rest ∧ t.colls = []
              ∧ t.bit (R.tdCollcause n) 1 = true ∧ (⟨.coll, n, c.job, 0x09⟩ : Owed) ∈ t.owed))
        ∧ (c.desc.treeOf h.seq = some c.desc.trees → crcGood a.pkt = true → c.phase = .announce →
            let fits : Prop := h.mm = false ∧ slice b 0 16 = collDigest c.desc
              ∧ leAt b 32 8 = s.reg64 (R.tdCStepLo c.core) (R.tdCStepHi c.core)
            (fits → Completes (exec (.collRelease n) s) fun t => t.inbox = rest
              ∧ (∃ counts w, t.colls = [{ c with phase := .released, total := BitVec.ofNat 64 (leAt b 16 8),
                                                 streams := c.streamsOf counts, doneWord := w }]
                ∧ (c.desc.op = cAllToAll → counts.length = c.desc.size ∧ (c.desc.vcount = true → ∀ x ∈ counts, x ≤ c.desc.maxCount))
                ∧ (c.desc.op ≠ cAllToAll ∨ c.desc.vcount = false → w = c.doneWord
                    ∧ counts = if c.desc.op = cAllToAll then List.replicate c.desc.size c.desc.count else []))
              ∧ ∃ qs, t.attach = s.attach ++ qs ∧ qs.map (·.pkt.hdr.dstEp) = if c.plan.lead then c.plan.locals else [])
            ∧ (¬fits → Completes (exec (.collRelease n) s) fun t => t.inbox = rest ∧ t.colls = []
                ∧ (s.reg (R.tdCollfault (c.core / 4)) = 0 → t.fld (R.tdCollfault (c.core / 4)) 31 24 = 0x08))))

/-- How a collective moves its data and ends (R181 to R184, R190, R191, R193). The next stream in round robin that can
send sends one chunk, and the turn goes on to the stream behind it; a landing chunk is stored where its va translates
and gives chunk_sem 1, one for no open collective is a stray. With every chunk sent and landed the done word goes to
the control root; the done result writes the record, gives sem 1 and ends the collective, and where it says POISONED the
job is left to be told (R192); COLLJOBCMD ends every collective of a job on the die, and none of them sends more: no packet
of theirs waits in the attachment any longer (which packets are sent by then is the model's choice, log entry 153). While the crossbar is disabled no
chunk and no done word is sent (R66, log entry 129). -/
def Obligations.CollectivesMoveAndEnd : Prop :=
  ∀ (s : State) (n : Nat) (c : Coll),
    (s.xbarOn = false → exec (.collChunkSend n) s = .next s ∧ exec (.collDoneSend n) s = .next s)
    ∧ (∀ pre st r, s.xbarOn = true → s.colls = [c] → c.n = n → c.streams = pre ++ st :: r → (∀ x ∈ pre, c.canSend x = false) → c.canSend st = true →
      Completes (exec (.collChunkSend n) s) fun t =>
      (∃ w, t.colls = [{ c with streams := r ++ pre ++ [{ st with next := st.next + 1, outst := st.outst + 1 }], doneWord := w }])
        ∧ ∃ q, t.attach = s.attach ++ [q] ∧ q.pkt.hdr.op = opCollData ∧ q.pkt.job = c.job ∧ q.src = s.tileSlot (c.core / 4))
    ∧ (∀ a rest, s.inbox = a :: rest → a.slot = s.tileSlot n → a.pkt.hdr.op = opCollData →
        (∀ j x, s.colls = [c] → s.collFor n a = some c → c.isDone a = false → crcGood a.pkt = true → s.active.jobSlot a.pkt.job = some j →
          s.ue = [] → s.atu = [] →
          let va := a.pkt.hdr.addr
          let bs := chunkBody a.pkt
          let i := c.desc.chunkSem % 1024
          0 < bs.length → va % 2 ^ 21 + bs.length ≤ 2 ^ 21 → s.walk j va true = .ok x → Completes (exec (.landingChunk n) s) fun t =>
            t.inbox = rest ∧ rdBytes t.dpa x bs.length = bs ∧ (∀ y, y < x ∨ x + bs.length ≤ y → rdByte t.dpa y = rdByte s.dpa y)
              ∧ (c.desc.chunkSem.testBit 15 = true → (s.sem c.core i).toNat < 2 ^ 32 - 1 → t.sem c.core i = s.sem c.core i + 1))
        ∧ (s.collFor n a = none → Completes (exec (.landingChunk n) s) fun t => t.inbox = rest ∧ t.dpa = s.dpa
            ∧ t.ctr (R.tdCollstrayLo n) = s.ctr (R.tdCollstrayLo n) + 1 ∧ t.bit (R.tdCollcause n) 2 = true)
        ∧ (s.colls = [c] → s.collFor n a = some c → c.isDone a = true → crcGood a.pkt = true → c.phase = .done →
            (∀ x ∈ (s.core c.core).lsw, x.vis ≤ (s.core c.core).cyc) → c.desc.recAddr + 32 ≤ lsSize →
            let w := leAt (chunkBody a.pkt) 0 4
            let code := if w.testBit 9 then 0x0B else if w.testBit 8 then 0x09 else 0
            Completes (exec (.collDoneResult n) s) fun t => t.inbox = rest ∧ t.colls = []
              ∧ (code = 0x09 → (⟨.coll, n, c.job, 0x09⟩ : Owed) ∈ t.owed)
              ∧ (code ≠ 0x09 → (s.sem c.core c.desc.sem).toNat < 2 ^ 32 - 1 → t.owed = s.owed)
              ∧ t.lsNow c.core c.desc.recAddr 32 = leBytes 1 code ++ leBytes 1 0 ++ leBytes 2 (w % 65536) ++ leBytes 4 c.desc.seq
                  ++ leBytes 8 c.total.toNat ++ leBytes 8 (s.replica (tileDie (c.core / 4))).toNat ++ leBytes 8 0
              ∧ ((s.sem c.core c.desc.sem).toNat < 2 ^ 32 - 1 → t.sem c.core c.desc.sem = s.sem c.core c.desc.sem + 1)))
    ∧ (s.xbarOn = true → s.colls = [c] → c.n = n → c.mayFinish = true → Completes (exec (.collDoneSend n) s) fun t =>
        t.colls = [{ c with phase := .done, doneSent := true }] ∧ ∃ q, t.attach = s.attach ++ [q] ∧ q.pkt.hdr.op = opCollData
          ∧ q.pkt.hdr.dstDev = c.plan.ctlLeaf.dev ∧ q.pkt.hdr.dstEp = c.plan.ctlLeaf.ep ∧ q.pkt.data.drop 32 = leBytes 4 c.doneWord.toNat)
    ∧ (∀ w : Word, s.dev ≠ .off → s.dev ≠ .rom → n < s.tiles → wfld w 31 30 = 1 → 0 < wfld w 23 16 → wfld w 23 16 ≤ 0x0B →
        Completes (exec (.collJobAbort n w) s) fun t => (∀ x ∈ t.colls, ¬(x.n = n ∧ x.job = wfld w 11 0))
          ∧ (∀ x ∈ t.colls, x ∈ s.colls)
          ∧ (∀ x ∈ s.colls, x.n = n → x.job = wfld w 11 0 → ∀ m ∈ t.msgs, m.ofColl x.id = true → ∀ p ∈ t.attach, p.msg ≠ some m.id)
          ∧ (∀ p ∈ t.attach, p ∈ s.attach) ∧ ((∀ x ∈ s.colls, ¬(x.n = n ∧ x.job = wfld w 11 0)) → t = s))

/-! ### Tile cores -/

/-- Start, stop and clear (R203 to R205, R200). A start of an IDLE or HALTED core with empty queues runs the program
whose header is good, from the word after it, with every register at its start value; a bad header faults with DENIED;
a core in another state records cmd_err. A stop lets the word being held finish its hold and dispatches nothing more,
or halts a waiting core at once, whose cycles of waiting STALL6 counts (R207); the end of the hold is HALTED; a clear
makes a FAULTED core IDLE at once where qempty = 1, and is remembered until then where qempty = 0. -/
def Obligations.CoresStartAndStop : Prop :=
  ∀ (s : State) (u : Nat) (w : Word), s.hasCore u = true →
    let k := s.core u
    let halted (t : State) : Prop := (t.core u).st = .halted ∧ t.bit (R.tdCCause u) 2 = true
    let err (t : State) : Prop := t.bit (R.tdCCause u) 1 = true ∧ t.cores = s.cores ∧ Changes [.regs] s t
    (s.dev ≠ .off → s.dev ≠ .rom →
      (w.getLsbD 31 = true → (k.st = .idle ∨ k.st = .halted) → s.qempty u = true → s.ue = [] → k.decays = [] →
        let pc := wfld w 17 0
        let h := leNat (s.lsNow u (64 * pc) 64)
        (headerOk pc h = true → Completes (exec (.coreStart u w) s) fun t =>
          t.core u = { Core.reset with st := .running, pc := pc + 1, hdrPc := pc, count := nbits h 446 18,
                                       safelight := s.bit (R.tdCCtl u) 0 })
        ∧ (headerOk pc h = false → Completes (exec (.coreStart u w) s) fun t => (t.core u).st = .faulted
            ∧ t.bit (R.tdCCause u) 0 = true
            ∧ (s.reg (R.tdCFault0 u) = 0 → t.fld (R.tdCFault0 u) 31 24 = 0x0B ∧ t.fld (R.tdCFault0 u) 17 0 = pc)))
      ∧ (w.getLsbD 31 = true → k.st ≠ .idle → k.st ≠ .halted → Completes (exec (.coreStart u w) s) err)
      ∧ (w.getLsbD 1 = true → w.getLsbD 0 = false → k.st = .running → k.blocked = false → Completes (exec (.coreStop u w) s) fun t =>
          t.core u = { k with stopping := true } ∧ Changes [.cores] s t ∧ ∀ v, v ≠ u → t.core v = s.core v)
      ∧ (w.getLsbD 1 = true → w.getLsbD 0 = false → (k.st = .waiting ∨ (k.st = .running ∧ k.blocked = true)) → k.fault = none →
        Completes (exec (.coreStop u w) s) fun t => halted t ∧ Changes [.regs, .cnt, .cores] s t
          ∧ (k.st = .waiting → t.ctr (R.tdCStallLo u 6) = s.ctr (R.tdCStallLo u 6) + BitVec.ofNat 64 (k.clock - k.cyc)))
      ∧ (w.getLsbD 1 = true → w.getLsbD 0 = false → k.st ≠ .running → k.st ≠ .waiting → Completes (exec (.coreStop u w) s) err)
      ∧ (w.getLsbD 1 = false → w.getLsbD 0 = true → k.st = .faulted → s.qempty u = true → Completes (exec (.coreClear u w) s) fun t =>
          t.core u = { k with st := .idle, clearing := false } ∧ Changes [.cores] s t)
      ∧ (w.getLsbD 1 = false → w.getLsbD 0 = true → k.st = .faulted → s.qempty u = false → Completes (exec (.coreClear u w) s) fun t =>
          t.core u = { k with clearing := true } ∧ Changes [.cores] s t)
      ∧ (w.getLsbD 1 = false → w.getLsbD 0 = true → k.st ≠ .faulted → Completes (exec (.coreClear u w) s) err))
    ∧ (∀ cycles, k.stopping = true → exec (.xcwDispatch u cycles) s = .next s)
    ∧ (k.st = .running → (k.halting = true ∨ k.stopping = true) → k.fault = none → Completes (exec (.haltHoldEnd u) s) fun t =>
        halted t ∧ (t.core u).cyc = k.holdTo ∧ Changes [.regs, .cores] s t)

/-- Dispatch of words with one slot (R207, R208, R217, R218, R220, R293, R294, R296). CSET, branches, loops and HALT act as
Tables 8.2 and 8.9 say; ADD and SUB act on the core's semaphore, SUB below 0 faults with UNDERFLOW; a wait below its
count makes the core WAITING; an MMA goes to MQ with its addresses; a word that breaks R198 faults with DENIED.
Cycles, words and pc go on as said. A waiting core goes on waiting until a test finds the count; the word then dispatches,
and STALL6 counts the cycles of WAITING, which ended 2 cycles before. -/
def Obligations.WordsDispatch : Prop :=
  ∀ (s : State) (u cycles : Nat), s.hasCore u = true → s.ue = [] →
    let k := s.core u
    let w := s.fetchWord u k.ready
    let run := exec (.xcwDispatch u cycles) s
    k.halting = false → k.stopping = false → k.fault = none → k.mq = [] → k.vq0 = [] → k.vq1 = [] → k.started = [] →
    k.decays = [] → k.hdrPc < k.pc → k.pc ≤ k.hdrPc + k.count →
    (∀ y, let at_ := max (k.ready + cycles) (k.cyc + 3)
      k.st = .waiting → s.fetchWord u at_ = y * 2 ^ 448 → y < 2 ^ 32 → syncOk y = true → syOp y = 1 →
      ((s.sem u (sySem y)).toNat < syN y → Completes run fun t => t = s.setCore u { k with ready := k.ready + cycles })
      ∧ (syN y ≤ (s.sem u (sySem y)).toNat → Completes run fun t => (t.core u).st = .running ∧ (t.core u).words = k.words + 1
          ∧ (t.core u).cyc = at_ ∧ (t.core u).ready = at_ + 1
          ∧ t.ctr (R.tdCStallLo u 6) = s.ctr (R.tdCStallLo u 6) + BitVec.ofNat 64 (at_ - 2 - k.cyc)
          ∧ Changes [.cnt, .cores] s t)) ∧
    (k.st = .running →
    let done (t : State) (hold : Nat) : Prop := (t.core u).words = k.words + 1 ∧ (t.core u).cyc = k.ready
      ∧ (t.core u).ready = k.ready + hold ∧ (t.core u).st = .running
    let faulted (t : State) (code : Nat) : Prop := (t.core u).st = .faulted ∧ t.bit (R.tdCCause u) 0 = true
      ∧ (s.reg (R.tdCFault0 u) = 0 → t.fld (R.tdCFault0 u) 31 24 = code)
    (w < 2 ^ 64 → ctlOk k k.pc w = true →
      (scOp w = scCset → Completes run fun t => done t (holdOf w) ∧ (t.core u).ctr (scC w) = BitVec.ofNat 32 (scImm w)
        ∧ (∀ i, i ≠ scC w → (t.core u).ctr i = k.ctr i) ∧ Changes [.cores] s t
        ∧ (lpOp w = 0 → activeLevels k = [] → (t.core u).pc = k.pc + 1))
      ∧ (scOp w = scJmp → Completes run fun t => done t (holdOf w + 2) ∧ (t.core u).pc = scImm w)
      ∧ (scOp w = scBr → lpOp w = 0 → activeLevels k = [] → Completes run fun t =>
          done t (holdOf w + if k.cmp (scK w) then 2 else 0) ∧ (t.core u).pc = (if k.cmp (scK w) then scImm w else k.pc + 1))
      ∧ (scOp w = scHalt → lpOp w = 0 → Completes run fun t => done t (holdOf w) ∧ (t.core u).halting = true)
      ∧ (scOp w = 0 → lpOp w = 1 → k.loopCount (lpLvl w) ≠ 0 → Completes run fun t => done t (holdOf w) ∧ (t.core u).pc = k.pc + 1
          ∧ (t.core u).level (lpLvl w) = ⟨true, 0, k.loopCount (lpLvl w), k.pc + 1, lpEnd w⟩))
    ∧ (∀ y, w = y * 2 ^ 448 → y < 2 ^ 32 → syncOk y = true →
        let i := sySem y
        let v := (s.sem u i).toNat
        (syOp y = 2 → v + syN y < 2 ^ 32 → Completes run fun t => (t.sem u i).toNat = v + syN y ∧ done t 1 ∧ Changes [.cores, .sems] s t)
        ∧ (syOp y = 3 → syN y ≤ v → Completes run fun t => (t.sem u i).toNat = v - syN y ∧ done t 1 ∧ Changes [.cores, .sems] s t)
        ∧ (syOp y = 3 → v < syN y → Completes run fun t => t.sems = s.sems ∧ faulted t 0x04)
        ∧ (syOp y = 1 → v < syN y → Completes run fun t => (t.core u).st = .waiting ∧ (t.core u).pc = k.pc ∧ Changes [.cores] s t)
        ∧ (syOp y = 1 → syN y ≤ v → Completes run fun t => done t 1 ∧ Changes [.cores] s t)
        ∧ (syOp y = 4 → Completes run fun t => done t 1 ∧ t.time = { s.time with arrivals := s.time.arrivals ++ [(u, syN y, i)] }))
    ∧ (∀ m, w = m * 2 ^ 64 → m < 2 ^ 64 → matOk m = true → matOp m = matMma →
        k.inWindow (matGa m) (k.addr (matGa m)) (matExtA m) = true → k.inWindow (matGb m) (k.addr (matGb m)) (matExtB m) = true →
        Completes run fun t => done t 1 ∧ ∃ c, (t.core u).mq = [c] ∧ c.bits = m ∧ c.d = k.ready ∧ c.word = k.pc
          ∧ (c.a : Int) = k.addr (matGa m) ∧ (c.b : Int) = k.addr (matGb m))
    ∧ (isNsm w = false → wTag w ≠ 0 → Completes run fun t => faulted t 0x0B))

/-- Every matrix and vector command at the head of its queue starts at max(D + 1, the queue's next free cycle) (R209), and
nothing outside the core changes. Where nothing else of the core is under way it writes at its latency (Table 8.8) what it
computes from local store and the accumulators as they stand. MMA adds to each element of the active bank, or to +0 where z = 1,
the products of row and column in groups of 16 K indices (R233), each element entering the array as its format and scale say (how
an F32 near the end of its range and a NaN enter is the model's reading, log entries 40 and 41); MMS does so for the tile that
its record decodes to (R258; here one tile), at the tile's cost (R263); a CLOSE flips the active bank at S + 10 (R236), which
TDn_Cc_ACCMAP then shows (R253). An elementwise command, CVT, OPT and THIN of one block (R243, R245, R249, R251), a reduction of
any length over 128 lanes (R247), a DRAIN of the shadow bank two rows a cycle (R239), MOV and FILL write the results of their
operations. The sticky flags and the flags of a bank are not stated here. -/
def Obligations.MatrixAndVectorCommandsStart : Prop :=
  ∀ (s : State) (u : Nat) (c : QCmd) (r : List QCmd), s.ue = [] →
    let k := s.core u
    k.safelight = false → k.decays = [] → k.fault = none →
    let st := k.startAt c
    let started (t : State) (q : Nat) : Prop := (t.core u).queue q = r ∧ (t.core u).st = k.st ∧ Changes [.cores] s t
      ∧ (t.core u).started.length = k.started.length + 1 ∧ (∀ v, v ≠ u → t.core v = s.core v)
      ∧ ∃ y, (t.core u).started.getLast? = some y ∧ y.cmd = c ∧ y.s = st
    let fresh : Prop := k.started = [] ∧ k.lsw = [] ∧ k.accw = [] ∧ k.flips = []
    let wrote (t : State) (ws : List (Nat × Nat × List Byte)) : Prop :=
      (t.core u).lsw.map (fun w => (w.vis, w.addr, w.bytes)) = ws
    let v := c.bits
    let mem (a m : Nat) : List Byte := rdBytes s.ls (lsAt u a) m
    -- the matrix commands
    let K := matK v
    let slot := matSlot v
    let active := mget false s.accBank1 (64 * u + slot)
    let old (i j : Nat) : Nat := if matZ v then 0 else (mget 0 s.acc (bankKey u slot active * 8192 + (64 * i + j))).toNat
    let holds (t : State) (z : Nat → Nat → Nat) : Prop := ∀ i < 128, ∀ j < 64,
      (t.bankUnder u (t.core u).accw slot active)[64 * i + j]? = some (BitVec.ofNat 32 (z i j))
    let element (base h i : Nat) : Nat := if h = 1 then nbits (leAt (mem (base + i / 2) 1) 0 1) (4 * (i % 2)) 4
      else leAt (mem (base + h / 2 * i) (h / 2)) 0 (h / 2)
    let enters (f w sc : Nat) : XV := if scaledFmt f then scaleOf (matValue f (matRne v) w).1 sc else (matValue f (matRne v) w).1
    let rowA (i k : Nat) : XV := let h := matHalves (matFa v)
      enters (matFa v) (element c.a h (K * i + k)) (leAt (mem (c.a + 128 * K * h / 2 + K / 32 * i + k / 32) 1) 0 1)
    let colB (k j : Nat) : XV := let h := matHalves (matFb v)
      enters (matFb v) (element c.b h (64 * k + j)) (leAt (mem (c.b + 64 * K * h / 2 + 64 * (k / 32) + j) 1) 0 1)
    let tile := spTile c mem c.a
    let record := spRd c mem c.a 64
    let density := leAt record 2 2 % 2 ^ 14
    let dense := spDense v (s.fld (R.tdCSpthr u) 13 0) (leAt record 0 1 % 2) density
    let hb := matHalves (matFb v) / 2
    (k.mq = c :: r → c.q = 0 →
      (matOp v = matMma → Completes (exec (.mma u) s) fun t => started t 0 ∧ (fresh → matOk v = true →
        holds t (fun i j => (List.range (groupsOf v)).foldl (fun acc g =>
          (dotGroup acc ((List.range (min 16 (K - 16 * g))).map fun x => dotTerm (rowA i (16 * g + x)) (colB (16 * g + x) j))).1
            % 2 ^ 32) (old i j))
        ∧ (t.core u).accw.map (·.vis) = (List.range (groupsOf v)).map fun g => st + matCycles v * (g + 1) + 10))
      ∧ (matOp v = matMms → Completes (exec (.mms u) s) fun t => started t 0 ∧ (fresh → matOk v = true → K = 64 →
        holds t (fun i j => (List.range 4).foldl (fun acc g => (dotGroup acc ((List.range 16).map fun x =>
          dotTerm (matValue (matFa v) false ((tile.getD i []).getD (16 * g + x) 0)).1
            (matValue (matFb v) false (leAt (mem (c.b + hb * (64 * (16 * g + x) + j)) hb) 0 hb)).1)).1) (old i j))
        ∧ (t.core u).accw.map (·.vis) = [st + spCost v density dense + 10]))
      ∧ (matOp v = matClose → Completes (exec (.close u) s) fun t => started t 0
        ∧ (fresh → ∃ f, (t.core u).flips = [f] ∧ f.slot = slot ∧ f.cyc = st + 10
            ∧ t.activeBank u slot = (s.activeBank u slot != decide (st + 10 ≤ (t.core u).clock)))))
    ∧ (
    -- the vector commands
    let op := vecOp v
    let n := vecN v
    let fmt := vecFmt v
    let from_ := vecAux v
    let mode := roundMode (vecRm v)
    let word (lo hi : Reg) : Dword := BitVec.ofNat 64 (s.reg64 lo hi)
    let draw (x : Nat) : Nat := srBits (word (R.tdCSeedLo u) (R.tdCSeedHi u)) (word (R.tdCStepLo u) (R.tdCStepHi u)) c.ca.toNat
      (c.ca1.toNat * 2 ^ 21 + x)
    let xs := words32 n (mem c.a (4 * n))
    let ys := words32 n (mem c.b (4 * n))
    let elementwise : List (Nat × Nat × List Byte) :=
      let bs := if isBinary op then (if vecBs v then List.replicate n (leAt (mem c.b 4) 0 4) else ys) else List.replicate n 0
      [(st + 5, c.dst, elemBytes 4 ((xs.zip bs).map fun z => (f32Op op z.1 z.2).1))]
    let converted : List (Nat × Nat × List Byte) :=
      let h := if from_ = 5 then 32 else 16
      let zs : List XV :=
        if isScaledVec from_ then (List.range n).map fun i =>
          blockValue (blockFmt from_) ((mem (c.a + h * cdiv n 32) (cdiv n 32)).getD (i / 32) 0).toNat
            ((unpackCodes from_ (32 * cdiv n 32) (mem c.a (h * cdiv n 32))).getD i 0)
        else (elemsOf (vecBytes from_) n (mem c.a (vecBytes from_ * n))).map (vecValue from_)
      let m := if (vecFloat from_).isNone && !isScaledVec from_ && !isScaledVec fmt then Round.rne else mode
      placeElems c.dst fmt n 0 (encodeElems fmt zs m (vecSat v) draw) (st + 7)
    let reduced : List (Nat × Nat × List Byte) :=
      let lanes := (List.range (cdiv n 128)).foldl (fun l j =>
        (lanesStep op l (words32 (cutLen n 128 j) (mem (c.a + 512 * j) (4 * cutLen n 128 j)))).val) (List.replicate 128 ⟨0, 0, 0⟩)
      [(st + cdiv n 128 + 12, c.dst, (reduceResult op n lanes).val)]
    let optimized : List (Nat × Nat × List Byte) :=
      let par := parseOpt (mem (64 * from_) 64)
      let d := c.dst + n + n / 32
      let out := ((xs.zip ys).zip ((momentsOf n (mem c.dst n) (mem (c.dst + n) (n / 32))).zip
        (momentsOf n (mem d n) (mem (d + n) (n / 32))))).map fun q => (optElement par q.1.1 q.1.2 q.2.1 q.2.2).val
      let blocks (zs : List Nat) (o : Nat) : List (Nat × List Nat) := (chunks 32 n zs).zipIdx.map fun b =>
        encodeBlock .e4m3 mode b.1 ((List.range 32).map fun i => draw (2 * (32 * b.2 + i) + o))
      let stored (a : Nat) (bs : List (Nat × List Nat)) : List (Nat × Nat × List Byte) :=
        [(st + 10, a, packCodes 5 (bs.flatMap (·.2))), (st + 10, a + n, bs.map fun x => BitVec.ofNat 8 x.1)]
      [(st + 10, c.a, elemBytes 4 (out.map (·.1)))] ++ stored c.dst (blocks (out.map (·.2.1)) 0)
        ++ stored d (blocks (out.map (·.2.2)) 1)
    let thinned : List (Nat × Nat × List Byte) :=
      let z := thinBlock xs ys
      [(st + 9, c.dst, z.1), (st + 9, c.b, elemBytes 4 z.2)]
    let drained : List (Nat × Nat × List Byte) :=
      let b := s.bankBase u (from_ % 64) (!mget false s.accBank1 (64 * u + from_ % 64))
      (List.range 64).flatMap fun j => placeElems c.dst fmt 8192 (128 * j) (encodeElems fmt
        (((b.drop (128 * j)).take 128).map fun w => Fmt.f32.decode w.toNat) mode (vecSat v) fun i => draw (128 * j + i)) (st + j + 7)
    (k.vq0 = c :: r → c.q = 1 →
      (∀ x ∈ [(Instr.vecAdd u, vAdd), (.vecSub u, vSub), (.vecMul u, vMul), (.div u, vDiv), (.vecMin u, vMin), (.vecMax u, vMax),
          (.abs u, vAbs), (.sqrt u, vSqrt), (.rcp u, vRcp), (.exp2 u, vExp2), (.log2 u, vLog2)],
          op = x.2 → Completes (exec x.1 s) fun t => started t 1 ∧ (fresh → n ≤ 128 → wrote t elementwise))
      ∧ (∀ x ∈ [(Instr.sum u, vSum), (.sumsq u, vSumsq), (.meanvar u, vMeanvar), (.amax u, vAmax)],
          op = x.2 → Completes (exec x.1 s) fun t => started t 1 ∧ (fresh → wrote t reduced))
      ∧ (op = vCvt → Completes (exec (.cvt u) s) fun t => started t 1 ∧ (fresh → n ≤ 128 → wrote t converted))
      ∧ (op = vOpt → Completes (exec (.opt u) s) fun t => started t 1 ∧ (fresh → n ≤ 128 → wrote t optimized))
      ∧ (op = vThin → Completes (exec (.thin u) s) fun t => started t 1 ∧ (fresh → n ≤ 64 → wrote t thinned))
      ∧ (op = vDrain → Completes (exec (.drain u) s) fun t => started t 1 ∧ (fresh → wrote t drained)))
    ∧ (k.vq1 = c :: r → c.q = 2 →
      (op = vMov → Completes (exec (.mov u) s) fun t => started t 2 ∧ (fresh → n ≤ 64 → wrote t [(st + 4, c.dst, mem c.a n)]))
      ∧ (op = vFill → Completes (exec (.fill u) s) fun t => started t 2
          ∧ (fresh → n ≤ 64 → wrote t [(st + 4, c.dst, (List.replicate (n / 4) (mem c.a 4)).flatten)]))))

/-- DMA commands (R209, R213, R225, R226, R295). A GET brings the bytes its va translates to into local store, a PUT
stores those of local store there, a SEND cuts them into WRITEs to its rank, a SIGNAL is one SEM_ADD; a descriptor
outside Table 8.10 faults the core with DENIED; the end of a command adds 1 to its done_sem. While the crossbar is
disabled no command starts (R66). The model's choice: a GET or a PUT moves its bytes in the step it starts in (log entry
100), and the engine reads local store with every write made so far (log entry 32). -/
def Obligations.DmaMovesAndSignals : Prop :=
  ∀ (s : State) (u eng : Nat), s.hasCore u = true → eng < 2 →
    let k := s.core u
    (s.xbarOn = false → ∀ x ∈ [Instr.dmaGet u eng, .dmaPut u eng, .dmaSend u eng, .dmaSignal u eng], exec x s = .next s)
    ∧ (∀ c r a, s.xbarOn = true → s.ue = [] → s.atu = [] → k.decays = [] → k.dma = [] → k.dq eng = c :: r →
      let d := dmaDescOf (s.lsNow u (dmaDesc c.slot.toNat) 64) c.slot.toNat c.ls
      let o := DmaOp.of c eng d
      let left (t : State) (x : DmaOp) : Prop := (t.core u).dma = [x] ∧ (t.core u).dq eng = r
      let onePage : Prop := d.va % 2 ^ 21 + d.len ≤ 2 ^ 21
      (d.bad = false →
        (d.kind = dkGet → onePage → s.walk (s.coreSlot u) d.va false = .ok a → (∀ x ∈ k.lsw, x.vis ≤ k.cyc) →
          Completes (exec (.dmaGet u eng) s) fun t => left t { o with finished := true } ∧ t.lsNow u d.ls d.len = rdBytes s.dpa a d.len
            ∧ t.dpa = s.dpa ∧ ∀ v, v ≠ u → t.core v = s.core v)
        ∧ (d.kind = dkPut → onePage → s.walk (s.coreSlot u) d.va true = .ok a → Completes (exec (.dmaPut u eng) s) fun t =>
            left t { o with finished := true } ∧ rdBytes t.dpa a d.len = s.lsNow u d.ls d.len
              ∧ ∀ x, (x < a ∨ a + d.len ≤ x) → rdByte t.dpa x = rdByte s.dpa x)
        ∧ (d.kind = dkSend → s.bit (R.tdCRank u) 31 = true → d.rsig = false → Completes (exec (.dmaSend u eng) s) fun t => left t o
            ∧ ∃ qs, t.attach = s.attach ++ qs ∧ qs.flatMap (·.pkt.data) = s.lsNow u d.ls d.len
              ∧ ∀ q ∈ qs, q.src = s.tileSlot (u / 4) ∧ q.pkt.hdr.op = opWrite ∧ q.pkt.hdr.dstRank = d.rank ∧ q.pkt.hdr.addr = d.va
                ∧ q.pkt.hdr.msgBytes = d.len ∧ q.pkt.tc = d.tc ∧ q.pkt.job = s.coreJob u)
        ∧ (d.kind = dkSignal → s.bit (R.tdCRank u) 31 = true → Completes (exec (.dmaSignal u eng) s) fun t => left t o
            ∧ ∃ q, t.attach = s.attach ++ [q] ∧ q.src = s.tileSlot (u / 4) ∧ q.pkt.hdr.op = opSemAdd ∧ q.pkt.hdr.dstRank = d.rank
              ∧ q.pkt.hdr.addr = d.rsem ∧ q.pkt.data = leBytes 4 d.radd ∧ q.sig = some (u, c.ord)))
      ∧ (∀ x ∈ [(Instr.dmaGet u eng, dkGet), (.dmaPut u eng, dkPut), (.dmaSend u eng, dkSend), (.dmaSignal u eng, dkSignal)],
          d.kind = x.2 → d.bad = true → Completes (exec x.1 s) fun t => (t.core u).st = .faulted ∧ t.bit (R.tdCCause u) 0 = true
            ∧ t.dpa = s.dpa ∧ t.attach = s.attach
            ∧ (s.reg (R.tdCFault0 u) = 0 → k.fault = none → k.started = [] → k.mq = [] → k.vq0 = [] → k.vq1 = [] →
                t.fld (R.tdCFault0 u) 31 24 = 0x0B ∧ t.fld (R.tdCFault0 u) 23 21 = 5)))
    ∧ (∀ o rest i, k.dma = o :: rest → o.eng = eng → o.finished = true → o.ended = false → o.done = some i →
        (s.sem u i).toNat < 2 ^ 32 - 1 → Completes (exec (.dmaComplete u eng) s) fun t =>
          (t.core u).dma = rest ∧ t.sem u i = s.sem u i + 1 ∧ Changes [.cores, .sems] s t)

/-! ### Memory, pools, semaphores -/

/-- WRITE and PAGE_WB store where their va translates (R274, R284, R280): the data go to the DPA of the walk and every
byte outside stays; a refused translation stores nothing and records DENIED (R275). Here the range lies in one page,
no word is uncorrectable and no older translation is cached. -/
def Obligations.PacketsWriteWhereTheyTranslate : Prop :=
  ∀ (s : State) (n j d : Nat) (a : Arrival) (rest : List Arrival), s.inbox = a :: rest → a.slot = s.tileSlot n → n < s.tiles →
    s.active.jobSlot a.pkt.job = some j → s.ue = [] → s.atu = [] →
    let va := a.pkt.hdr.addr + a.pkt.hdr.byteOff
    let len := a.pkt.data.length
    0 < len → va % 2 ^ 21 + len ≤ 2 ^ 21 →
    let stored (t : State) : Prop := t.inbox = rest ∧ rdBytes t.dpa d len = a.pkt.data
      ∧ (∀ x, x < d ∨ d + len ≤ x → rdByte t.dpa x = rdByte s.dpa x) ∧ Changes [.inbox, .dpa, .ue, .atu, .commits] s t
    (a.pkt.hdr.op = opWrite → s.walk j va true = .ok d → Completes (exec (.write n) s) stored)
    ∧ (a.pkt.hdr.op = opPageWb → s.walk j va true = .ok d → (∀ e, s.leafOf j va = some e → leafRh e = false) →
        Completes (exec (.pageWb n) s) stored)
    ∧ (a.pkt.hdr.op = opWrite → s.walk j va true = .deny → Completes (exec (.write n) s) fun t =>
        t.inbox = rest ∧ t.dpa = s.dpa ∧ t.bit (R.tdMemcause n) 1 = true)

/-- READ_REQ and PAGE_FETCH are answered with the bytes that their va translates to (R279, R284): one READ_RSP
message, and the whole page as PAGE_DATA, to the device that asked. No byte of memory changes. While the crossbar is
disabled no request is answered (R66). That the answer carries the request's addr is the model's choice (log entry 88), and
so is that the request waits (log entry 129). -/
def Obligations.RequestsAreAnsweredWithMemory : Prop :=
  ∀ (s : State) (n j d : Nat) (a : Arrival) (rest : List Arrival), s.inbox = a :: rest → a.slot = s.tileSlot n → n < s.tiles →
    s.active.jobSlot a.pkt.job = some j → s.ue = [] → s.atu = [] → s.walk j a.pkt.hdr.addr false = .ok d →
    (s.xbarOn = false → exec (.readReq n) s = .next s ∧ exec (.pageFetch n) s = .next s)
    ∧ (s.xbarOn = true → a.pkt.hdr.op = opReadReq → 0 < a.pkt.hdr.msgBytes → a.pkt.hdr.msgBytes ≤ 15328 →
      a.pkt.hdr.addr % 2 ^ 21 + a.pkt.hdr.msgBytes ≤ 2 ^ 21 → Completes (exec (.readReq n) s) fun t =>
        t.inbox = rest ∧ t.dpa = s.dpa ∧ ∃ p, t.attach = s.attach ++ [p] ∧ p.src = s.tileSlot n ∧ p.pkt.hdr.op = opReadRsp
          ∧ p.pkt.hdr.dstDev = a.pkt.hdr.srcDev ∧ p.pkt.hdr.dstEp = a.pkt.hdr.srcEp ∧ p.pkt.hdr.addr = a.pkt.hdr.addr
          ∧ p.pkt.data = rdBytes s.dpa d a.pkt.hdr.msgBytes)
    ∧ (s.xbarOn = true → a.pkt.hdr.op = opPageFetch → a.pkt.hdr.addr % 2 ^ 21 = 0 →
        (s.leafOf j a.pkt.hdr.addr).map leafRh = some false →
        Completes (exec (.pageFetch n) s) fun t => t.inbox = rest ∧ t.dpa = s.dpa
          ∧ ∃ ps, t.attach = s.attach ++ ps ∧ (∀ p ∈ ps, p.src = s.tileSlot n ∧ p.pkt.hdr.op = opPageData
              ∧ p.pkt.hdr.dstDev = a.pkt.hdr.srcDev ∧ p.pkt.hdr.msgBytes = 0x200000)
            ∧ ps.flatMap (·.pkt.data) = rdBytes s.dpa d 0x200000)

/-- Remote-home pages at the die that owns the frame (R278 to R283). PAGE_DATA is stored in the frame, or refused with
DENIED where its place is no valid DPA (R273); the last of it makes the page PRESENT and counts the fetch. A release of a read-only page makes it ABSENT, one at a time or for every
page of the job; an abort ends every fetch and write-back of the job on the die. -/
def Obligations.PagesAreFetchedAndReleased : Prop :=
  ∀ (s : State) (n slot : Nat) (w : Word), s.dev ≠ .off → s.dev ≠ .rom → n < s.tiles →
    (∀ a rest f, s.inbox = a :: rest → a.slot = s.tileSlot n → a.pkt.hdr.op = opPageData → s.fetches = [f] → f.n = n →
      f.active = true → f.va = a.pkt.hdr.addr → wfld (s.active.word 1 0 f.slot 0) 11 0 = a.pkt.job → s.wbs = [] →
      s.ue = [] → (s.dpaSpan (f.frame + a.pkt.hdr.byteOff) a.pkt.data.length = true → f.got + a.pkt.data.length < 0x200000 →
        Completes (exec (.pageData n) s) fun t =>
          t.inbox = rest ∧ t.fetches = [{ f with got := f.got + a.pkt.data.length }]
            ∧ rdBytes t.dpa (f.frame + a.pkt.hdr.byteOff) a.pkt.data.length = a.pkt.data
            ∧ Changes [.inbox, .dpa, .ue, .fetches, .commits] s t)
      ∧ (s.dpaSpan (f.frame + a.pkt.hdr.byteOff) a.pkt.data.length = false → Completes (exec (.pageData n) s) fun t =>
          t.inbox = rest ∧ t.bit (R.tdMemcause n) 1 = true ∧ Changes [.regs, .inbox, .owed, .commits] s t
            ∧ (s.reg (R.tdMemfault0 n) = 0 → t.fld (R.tdMemfault0 n) 31 24 = 0x0B ∧ t.fld (R.tdMemfault0 n) 11 9 = 5)))
    ∧ (∀ a rest f, s.inbox = a :: rest → a.slot = s.tileSlot n → a.pkt.hdr.op = opPageData → s.fetches = [f] → f.n = n →
        f.active = true → f.va = a.pkt.hdr.addr → wfld (s.active.word 1 0 f.slot 0) 11 0 = a.pkt.job → s.wbs = [] →
        s.ue = [] → s.dpaSpan (f.frame + a.pkt.hdr.byteOff) a.pkt.data.length = true →
        f.got + a.pkt.data.length = 0x200000 → Completes (exec (.pageData n) s) fun t =>
          t.fetches = [] ∧ leafRs (t.dpaDword f.leafAt) = 2 ∧ t.ctr (R.tdPgfetchLo n) = s.ctr (R.tdPgfetchLo n) + 1)
    ∧ (∀ x, let va := s.reg64 (R.tdPgvaLo n) (R.tdPgvaHi n)
        let e := s.dpaDword x
        wfld w 31 30 = 1 → wfld w 5 0 = slot → s.leafAddr slot (va - va % 2 ^ 21) = some x →
        leafOk e = true → leafRh e = true → leafRs e = 2 → leafWr e = false → dpaDie (leafFrame e) = n → s.wbs = [] →
        s.fetches = [] → Completes (exec (.pageRelease n w) s) fun t =>
          leafRs (t.dpaDword x) = 0 ∧ (∀ y, y < x ∨ x + 8 ≤ y → rdByte t.dpa y = rdByte s.dpa y) ∧ Changes [.dpa, .ue] s t)
    ∧ (∀ va x, let e := s.dpaDword x
        wfld w 31 30 = 2 → wfld w 5 0 = slot → s.remotePages n slot = [va] → va % 2 ^ 21 = 0 → s.leafAddr slot va = some x →
        leafOk e = true → leafRh e = true → leafRs e = 2 → leafWr e = false → dpaDie (leafFrame e) = n → s.wbs = [] →
        s.fetches = [] → Completes (exec (.releaseJob n w) s) fun t => leafRs (t.dpaDword x) = 0)
    ∧ (wfld w 31 30 = 3 → wfld w 5 0 = slot → Completes (exec (.pagerAbortJob n w) s) fun t =>
        (∀ f ∈ t.fetches, ¬(f.n = n ∧ f.slot = slot)) ∧ ∀ b ∈ t.wbs, ¬(b.n = n ∧ b.slot = slot))

/-- ATU_INV of a slot (R276) is busy until its end, from which on the die holds no translation of the slot. Corrected errors
are counted, which Hyzacia announces where it runs (R366), and the patrol scrub records uncorrectable words (R271,
R272); that one row brings the corrections of every read is the model's (log entry 56). -/
def Obligations.TranslationsAreInvalidated : Prop :=
  ∀ (s : State) (n slot : Nat) (w : Word), s.dev ≠ .off → s.dev ≠ .rom → n < s.tiles →
    (w.getLsbD 31 = true → w.getLsbD 30 = false → wfld w 5 0 = slot → Completes (exec (.atuInv n w) s) fun t =>
      t.atuBusy = s.atuBusy ++ [(n, slot)] ∧ Changes [.atuBusy] s t)
    ∧ (∀ rest, slot < 64 → s.atuBusy = (n, slot) :: rest → Completes (exec (.atuInvComplete n) s) fun t =>
        t.atuBusy = rest ∧ (∀ e, e ∈ t.atu ↔ e ∈ s.atu ∧ ¬(e.n = n ∧ e.slot = slot)) ∧ Changes [.atu, .atuBusy] s t)
    ∧ (∀ k, 0 < k → s.ue = [] → Completes (exec (.patrolScrub n k []) s) fun t =>
        t.ctr (R.tdEccCeLo n) = s.ctr (R.tdEccCeLo n) + BitVec.ofNat 64 k ∧ t.bit (R.tdMemcause n) 0 = true
          ∧ (s.firmware = true → t.bit R.devEvent 6 = true) ∧ Changes [.regs, .cnt] s t)
    ∧ (∀ a, s.bit (R.tdScrub n) 31 = true → s.ue = [] → dpaDie a = n → dpaRow a = some 0 → s.reg (R.tdMemfault0 n) = 0 →
        Completes (exec (.patrolScrub n 0 [(.dpa, a)]) s) fun t => t.bit (R.tdMemcause n) 2 = true
          ∧ t.fld (R.tdMemfault0 n) 31 24 = 0x0A ∧ t.fld (R.tdMemfault0 n) 11 9 = 6 ∧ t.dpa = s.dpa)

/-- The buffer pool manager (R286 to R290, R9). Enabling a legal carving starts with every buffer free; an illegal one
is refused. An allocation takes the lowest free buffer of the smallest pool that fits, POOL_EMPTY where it has none,
DENIED where none fits. A free gives the buffer back; where the pool does not exist, the index is not below count or
the buffer is free already it has no effect and counts in FREEERR. MINFREE reads and starts again at the free count that
FREE shows. That a free counts as an error while the BPM is disabled, and that FREE shows 0 then, is the model's choice
(log entry 86). What BPM_RSP shows after a free is the model's (log entry 59), and no clause here says it. -/
def Obligations.BuffersAreAllocatedAndFreed : Prop :=
  ∀ (s : State) (w h : Word) (size k i : Nat), s.dev ≠ .off → s.dev ≠ .rom →
    (w.getLsbD 0 = true → s.bit R.bpmCtl 0 = false → s.carvingLegal = true → Completes (exec (.bpmEnable w) s) fun t =>
      t.bit R.bpmCtl 0 = true ∧ t.poolUsed = [] ∧ (∀ p < 8, t.reg (R.bpmPoolMinfree p) = BitVec.ofNat 32 (s.poolCount p))
        ∧ Changes [.regs, .poolUsed] s t)
    ∧ (w.getLsbD 0 = true → s.bit R.bpmCtl 0 = false → s.carvingLegal = false → Completes (exec (.bpmEnable w) s) fun t =>
        t.bit R.bpmCtl 0 = false ∧ t.bit R.bpmCause 3 = true ∧ Changes [.regs] s t)
    ∧ (s.bit R.bpmCtl 0 = true → 0 < size → k < 8 → size ≤ 256 * 4 ^ k → s.poolCount k ≠ 0 →
        (∀ p < k, s.poolCount p = 0 ∨ 256 * 4 ^ p < size) →
        (i < s.poolCount k → (k, i) ∉ s.poolUsed → (∀ x < i, (k, x) ∈ s.poolUsed) →
          Completes (exec (.bpmAllocate size) s) fun t => t.poolUsed = s.poolUsed ++ [(k, i)]
            ∧ t.fld R.bpmRsp 23 21 = k ∧ t.fld R.bpmRsp 16 0 = i % 2 ^ 17 ∧ t.fld R.bpmRsp 31 24 = 0)
        ∧ ((∀ x < s.poolCount k, (k, x) ∈ s.poolUsed) → Completes (exec (.bpmAllocate size) s) fun t =>
            t.poolUsed = s.poolUsed ∧ t.fld R.bpmRsp 31 24 = 0x06 ∧ t.bit R.bpmCause 0 = true))
    ∧ ((∀ p < 8, s.poolCount p = 0 ∨ 256 * 4 ^ p < size) → Completes (exec (.bpmAllocate size) s) fun t =>
        t.poolUsed = s.poolUsed ∧ t.fld R.bpmRsp 31 24 = 0x0B)
    ∧ (s.bit R.bpmCtl 0 = true → handleIndex h < s.poolCount (handlePool h) → (handlePool h, handleIndex h) ∈ s.poolUsed →
        Completes (exec (.bpmFree h) s) fun t => Changes [.regs, .poolUsed] s t
          ∧ ∀ b, b ∈ t.poolUsed ↔ b ∈ s.poolUsed ∧ b ≠ (handlePool h, handleIndex h))
    ∧ (¬(s.bit R.bpmCtl 0 = true ∧ handleIndex h < s.poolCount (handlePool h) ∧ (handlePool h, handleIndex h) ∈ s.poolUsed) →
        Completes (exec (.bpmFree h) s) fun t => t.poolUsed = s.poolUsed ∧ t.bit R.bpmCause 1 = true ∧ Changes [.regs, .freeCtr] s t
        ∧ (s.reg R.bpmFreeerr ≠ 0xFFFFFFFF → t.reg R.bpmFreeerr = s.reg R.bpmFreeerr + 1))
    ∧ (k < 8 → Completes (exec (.minfreeRead k) s) fun t => t.busData = s.reg (R.bpmPoolMinfree k)
        ∧ t.reg (R.bpmPoolMinfree k) = BitVec.ofNat 32 (if s.bit R.bpmCtl 0 then s.poolFree k else 0)
        ∧ Changes [.regs, .busData] s t)

/-- Semaphores (R20, R292, R295, R297, R313). A SEM_ADD outside a message adds its operand at once, and one that would
pass 2^32 - 1 leaves the semaphore and records OVERFLOW; one that belongs to a message waits for its tracker. Of those
that arrived together the one of the lowest source slot comes first (that one fabric tick is one cycle of R20 is the
model's, log entry 63). One for an endpoint that is no core, or with an addr of 1024 or more, is discarded at the
destination NI and counts as ep_err. SEMDATA writes the selected semaphore of a core that is idle or halted, and is
ignored otherwise. No other semaphore changes. -/
def Obligations.SemaphoresAreUpdated : Prop :=
  ∀ (s : State) (u : Nat) (a : Arrival) (rest : List Arrival) (n : Nat) (w : Word),
    (s.inbox = a :: rest → a.slot = s.tileSlot (u / 4) → a.pkt.hdr.op = opSemAdd → a.unit = u → a.pkt.hdr.addr < 1024 →
      (∀ b ∈ rest, b.at_ = a.at_ → a.src ≤ b.src) →
      let v := leAt a.pkt.data 0 4
      (a.pkt.hdr.msgBytes = 0 → (s.sem u a.pkt.hdr.addr).toNat + v < 2 ^ 32 → Completes (exec (.semAdd u) s) fun t =>
        (t.sem u a.pkt.hdr.addr).toNat = (s.sem u a.pkt.hdr.addr).toNat + v ∧ t.inbox = rest ∧ Changes [.inbox, .sems] s t
          ∧ ∀ x i, i < 1024 → (x ≠ u ∨ i ≠ a.pkt.hdr.addr) → t.sem x i = s.sem x i)
      ∧ (a.pkt.hdr.msgBytes = 0 → 2 ^ 32 ≤ (s.sem u a.pkt.hdr.addr).toNat + v → Completes (exec (.semAdd u) s) fun t =>
          t.sems = s.sems ∧ t.bit (R.tdSemcause (u / 4)) 0 = true ∧ t.inbox = rest
            ∧ (s.reg (R.tdSemfault0 (u / 4)) = 0 → t.fld (R.tdSemfault0 (u / 4)) 31 24 = 0x03))
      ∧ (a.pkt.hdr.msgBytes ≠ 0 → Completes (exec (.semAdd u) s) fun t => t.sems = s.sems ∧ t.inbox = rest
          ∧ ∃ c, t.commits = s.commits ++ [c] ∧ c.target = some (u, a.pkt.hdr.addr, v)))
    ∧ (∀ b, s.inbox = [a, b] → (∀ x ∈ [a, b], x.slot = s.tileSlot (u / 4) ∧ x.pkt.hdr.op = opSemAdd ∧ x.unit = u) →
        b.at_ = a.at_ → b.src < a.src → b.pkt.hdr.msgBytes = 0 → b.pkt.hdr.addr < 1024 →
        (s.sem u b.pkt.hdr.addr).toNat + leAt b.pkt.data 0 4 < 2 ^ 32 → Completes (exec (.semAdd u) s) fun t => t.inbox = [a]
          ∧ (t.sem u b.pkt.hdr.addr).toNat = (s.sem u b.pkt.hdr.addr).toNat + leAt b.pkt.data 0 4)
    ∧ (∀ l j sub x kind y f, let h := hdrOfBytes f.payload
        s.xbarOn = true → s.subportAt n l = some (j, sub) → (s.link n l).rxWait = [f] → (s.link n l).rxDec = [] →
        (s.link n l).rxCut = [] → (s.link n l).rxHeld = [] → f.vc = 0 → f.sop = true → f.eop = true → h.op = opSemAdd →
        h.dstDev = s.selfDev → s.expelled f.job h.srcDev = false → s.active.jobSlot f.job = some x →
        s.active.endpoint x h.dstEp = some (kind, y) → ((kind = 0 ∧ y / 4 < s.tiles ∧ 1024 ≤ h.addr) ∨ (kind = 1 ∧ y < 32)) →
        Completes (exec (.packetDeliver n l 0) s) fun t => t.bit (R.portCause n) 4 = true ∧ (t.link n l).rxWait = []
          ∧ Changes [.regs, .links, .commits, .nextId] s t)
    ∧ (s.dev ≠ .off → s.dev ≠ .rom → n < s.tiles →
        let c := 4 * n + s.fld (R.tdSemsel n) 11 10
        let i := s.fld (R.tdSemsel n) 9 0
        ((s.core c).st = .idle ∨ (s.core c).st = .halted) → Completes (exec (.semdataWrite n w) s) fun t =>
          t.sem c i = w ∧ Changes [.sems] s t ∧ ∀ x y, y < 1024 → (x ≠ c ∨ y ≠ i) → t.sem x y = s.sem x y)
    ∧ (s.dev ≠ .off → s.dev ≠ .rom → n < s.tiles → (s.core (4 * n + s.fld (R.tdSemsel n) 11 10)).st ≠ .idle →
        (s.core (4 * n + s.fld (R.tdSemsel n) 11 10)).st ≠ .halted → exec (.semdataWrite n w) s = .next s)

/-! ### Fabric time, shutters, serving -/

/-- Time flits (R301, Table 12.2). A loaded device sends SYNC and EPOCH from a subport in UP and answers a SYNC with
an ECHO of the difference and its own time; a device not loaded keeps the parent's EPOCH and starts its counter at the
value that EPOCH and SYNC spell. TIME_CMD on the root loads TIME_SET, unless the counter would decrease, or arms it
for the next edge of FT_SYNC, which also captures the counter where pps_en is set (R304).

R302: an ECHO that is not void and in range gives θ = ((T4 − T3) − D − asym), in half ticks. From twice
TIME_CFG.step_ticks on the counter skips or is held by θ/2 and lock is lost; below it the counter is corrected in
single ticks, and eight ECHOs with |θ| of at most 4 lock it. 16 silent periods enter holdover.

The model's choice: θ/2 is rounded down and a new θ replaces a correction under way (log entry 79); an armed load takes
TIME_SET as it stands at the edge (log entry 80). -/
def Obligations.TimeIsDistributedAndDisciplined : Prop :=
  (∀ (s : State) (n l t1 hi : Nat) (w : Word),
      let sent (t : State) (v : Nat) : Prop := ∃ a c x y, (t.link n l).lastTx
        = some { timeFlit v with ack := a, crdSel := c, crdCnt := x, crc := y }
      (s.timeOn = true → s.subUp n l = true →
        (s.time.loaded = true → Completes (exec (.timeSyncSend n l) s) fun t =>
          sent t (tvalSync s.time.now.toNat) ∧ (t.link n l).syncs = (s.link n l).syncs + 1 ∧ Changes [.links] s t)
        ∧ (s.time.loaded = true → 256 ≤ (s.link n l).syncs → Completes (exec (.timeEpochSend n l) s) fun t =>
            sent t (tvalEpoch s.time.now.toNat) ∧ (t.link n l).syncs = (s.link n l).syncs - 256 ∧ Changes [.links] s t)
        ∧ (∀ d : Int, s.time.loaded = true → t1 < 2 ^ 55 → s.time.now.toNat < 2 ^ 55 → (s.time.now.toNat : Int) - t1 = d →
            -(2 ^ 26 : Int) < d → d < 2 ^ 26 → Completes (exec (.timeSyncReceive n l t1) s) fun t =>
              sent t (tvalEcho d s.time.now.toNat) ∧ Changes [.links] s t)
        ∧ (∀ (e : Nat) (v : Dword), s.time.loaded = false → s.fromParent n l = true → s.time.epoch = some e → e < 2 ^ 48 →
            t1 < 2 ^ 55 → v.toNat % 2 ^ 55 = t1 → ((v.toNat : Int) - (e * 2 ^ 16 : Nat)).natAbs < 2 ^ 54 →
            Completes (exec (.timeSyncReceive n l t1) s) fun t =>
              t.time.now = v ∧ t.time.loaded = true ∧ t.time.epoch = none ∧ Changes [.time] s t)
        ∧ (s.time.loaded = false → s.fromParent n l = true → Completes (exec (.timeEpochReceive n l hi) s) fun t =>
            t = { s with time := { s.time with epoch := some (hi % 2 ^ 48) } }))
      ∧ (s.dev ≠ .off → s.dev ≠ .rom →
          let v := s.reg64 R.timeSetLo R.timeSetHi
          let err (t : State) : Prop := t.time = s.time ∧ t.bit R.timeCause 4 = true ∧ Changes [.regs] s t
          (w.getLsbD 0 = true → w.getLsbD 1 = false → s.isRoot = true → (s.time.loaded = false ∨ s.time.now.toNat ≤ v) →
            Completes (exec (.timeLoad w) s) fun t => t.time.now.toNat = v ∧ t.time.loaded = true ∧ Changes [.time] s t)
          ∧ (w.getLsbD 0 = true → w.getLsbD 1 = false → s.isRoot = true → s.time.loaded = true → v < s.time.now.toNat →
              Completes (exec (.timeLoad w) s) err)
          ∧ (w.getLsbD 0 = true → (w.getLsbD 1 = true ∨ s.isRoot = false) → Completes (exec (.timeLoad w) s) err)
          ∧ (w.getLsbD 0 = false → w.getLsbD 1 = true → s.isRoot = true → Completes (exec (.timeArm w) s) fun t =>
              t = { s with time := { s.time with armed := true } }))
      ∧ (∀ ns, s.dev ≠ .off → 1000 ≤ ns → s.bit R.timeCtl 3 = true → Completes (exec (.ftSyncEdge ns) s) fun t =>
          t.ctr R.timePpscapLo = s.time.now ∧ (s.time.armed = false → Changes [.cnt] s t)
            ∧ (s.time.armed = true → s.time.loaded = false → t.time.now.toNat = s.reg64 R.timeSetLo R.timeSetHi
                ∧ t.time.loaded = true ∧ t.time.armed = false ∧ Changes [.cnt, .time] s t)))
  ∧ (∀ (s : State) (n l t3 : Nat) (d : Int), s.time.loaded = true →
      (s.fromParent n l = true → s.subUp n l = true →
        let dba := sext 28 (s.time.now.toNat + 2 ^ 28 - t3 % 2 ^ 28)
        let th := dba - d - sext 16 (s.fld R.timeAsym 15 0)
        let lim := 2 * s.fld R.timeCfg 15 0
        dba.natAbs < 2 ^ 26 →
        (lim ≤ th.natAbs → Completes (exec (.timeEchoReceive n l d false t3) s) fun t =>
          t.time.now = s.time.now + (if th < 0 then BitVec.ofNat 64 (th.natAbs / 2) else 0)
            ∧ (0 ≤ th → t.time.hold = th.natAbs / 2) ∧ t.time.locked = false ∧ t.bit R.timeCause 1 = true
            ∧ t.reg R.timeOfs = BitVec.ofInt 32 th ∧ Changes [.regs, .time] s t)
        ∧ (th.natAbs < lim → Completes (exec (.timeEchoReceive n l d false t3) s) fun t =>
            t.time.now = s.time.now ∧ t.time.adjust = th ∧ t.time.good = (if th.natAbs ≤ 4 then s.time.good + 1 else 0)
              ∧ (t.time.locked = true ↔ s.time.locked = true ∨ (th.natAbs ≤ 4 ∧ 7 ≤ s.time.good)) ∧ t.time.holdover = false
              ∧ t.reg R.timeOfs = BitVec.ofInt 32 th ∧ Changes [.regs, .time] s t)
        ∧ Completes (exec (.timeEchoReceive n l d true t3) s) (fun t => t = s))
      ∧ (s.timeOn = true → s.parentLane.isSome = true → s.time.holdover = false → Completes (exec .timeHoldover s) fun t =>
          t.time = { s.time with locked := false, holdover := true } ∧ t.bit R.timeCause 0 = true
            ∧ Changes [.regs, .time] s t))

/-- Shutters (R305 to R310). Enabling enters COLLECT and clearing en enters OFF; an arrival for the open generation of
a participant or a child is kept, a third one before the release fails the shutter with BARRIER_OVERRUN; the last
arrival at the root arms it with T = now + LEAD; a RELEASE arms a SENT shutter with its T, or releases it at once and
counts it late where T has passed; at T the generation goes on by one and the semaphore that the participant named
receives 1. That a RELEASE is taken from any subport in UP is the model's choice (log entry 81). -/
def Obligations.ShuttersCollectArmAndRelease : Prop :=
  ∀ (s : State) (b : Nat) (w : Word), b < 64 →
    let h := s.shutter b
    let failed (t : State) (code : Nat) : Prop := (t.shutter b).st = .failed ∧ t.bit R.timeCause 3 = true
      ∧ (s.reg R.timeFault = 0 → t.fld R.timeFault 31 24 = code ∧ t.fld R.timeFault 5 0 = b)
    (s.dev ≠ .off → s.dev ≠ .rom → w.getLsbD 31 = true → s.bit (R.timeShutCfg b) 31 = false → s.shutLocals b ≠ [] →
      Completes (exec (.shutterEnable b w) s) fun t => t.shutter b = { Shutter.reset with st := .collect }
        ∧ t.bit (R.timeShutCfg b) 31 = true ∧ Changes [.regs, .shutters] s t)
    ∧ (s.dev ≠ .off → s.dev ≠ .rom → w.getLsbD 31 = false → s.bit (R.timeShutCfg b) 31 = true →
        Completes (exec (.shutterDisable b w) s) fun t => (t.shutter b).st = .off ∧ t.bit (R.timeShutCfg b) 31 = false
          ∧ Changes [.regs, .shutters] s t ∧ ∀ x, x ≠ b → t.shutter x = s.shutter x)
    ∧ (∀ u sem, s.time.arrivals = [(u, b, sem)] → h.st = .collect → u ∈ s.shutLocals b →
        s.fld (R.tdCJob u) 11 0 = s.shutJob b →
        ((flagsOf h.locals u).ag = false → Completes (exec .localArrival s) fun t => t.time.arrivals = []
          ∧ (flagsOf (t.shutter b).locals u).ag = true ∧ (flagsOf (t.shutter b).locals u).sem = sem
          ∧ (s.bit (R.timeShutCfg b) 30 = true → s.shutLocals b = [u] → s.shutChildren b = [] → (t.shutter b).st = .armed
              ∧ (t.shutter b).t = s.time.now + BitVec.ofNat 64 (s.reg (R.timeShutLead b)).toNat))
        ∧ ((flagsOf h.locals u).ag = true → (flagsOf h.locals u).ag1 = true → Completes (exec .localArrival s) fun t =>
            failed t 0x05))
    ∧ (∀ n l gen, s.subUp n l = true → lk n l ∈ s.shutChildren b → h.st = .collect →
        (gen % 4 = h.gen % 4 → (flagsOf h.childs (lk n l)).ag = false → Completes (exec (.arriveFlit n l b gen) s) fun t =>
          (flagsOf (t.shutter b).childs (lk n l)).ag = true)
        ∧ (gen % 4 = (h.gen + 2) % 4 → Completes (exec (.arriveFlit n l b gen) s) fun t => failed t 0x05)
        ∧ (gen % 4 = (h.gen + 3) % 4 → Completes (exec (.arriveFlit n l b gen) s) fun t => failed t 0x0B))
    ∧ (∀ n l gen x T : Nat, s.subUp n l = true → h.st = .sent → T % 2 ^ 47 = x % 2 ^ 47 →
        ((T : Int) - s.time.now.toNat).natAbs < 2 ^ 46 →
        (gen % 4 = h.gen % 4 → s.time.now.toNat ≤ T → Completes (exec (.releaseFlit n l b gen x) s) fun t =>
          t.shutter b = { h with st := .armed, t := BitVec.ofNat 64 T })
        ∧ (gen % 4 = h.gen % 4 → T < s.time.now.toNat → Completes (exec (.releaseFlit n l b gen x) s) fun t =>
            (t.shutter b).gen = (h.gen + 1) % 2 ^ 32 ∧ t.bit R.timeCause 2 = true
              ∧ (s.reg R.timeLate ≠ 0xFFFFFFFF → t.reg R.timeLate = s.reg R.timeLate + 1))
        ∧ (gen % 4 ≠ h.gen % 4 → Completes (exec (.releaseFlit n l b gen x) s) fun t => failed t 0x0B))
    ∧ (h.st = .armed → h.t.toNat ≤ s.time.now.toNat → Completes (exec (.shutterRelease b) s) fun t =>
        (t.shutter b).gen = (h.gen + 1) % 2 ^ 32
          ∧ ∀ u, s.shutLocals b = [u] → (flagsOf h.locals u).ag = true → (s.sem u (flagsOf h.locals u).sem).toNat < 2 ^ 32 - 1 →
              t.sem u (flagsOf h.locals u).sem = s.sem u (flagsOf h.locals u).sem + 1)

/-- The serving queues (R338, Table 14.9, R339). A descriptor is queued, or its datagram is dropped and counted under
the first reason that applies: 0 disabled, 1 unknown model, 2 model queue full, 3 queue full; the request at the head
that waited longer than age_ms is dropped under reason 4. A model whose oldest request waited wait_us is ready.

DISPATCH (R339, R340): with the one free group active on the only model in the ready list, its one request becomes a
batch: the group is BUSY with it, its descriptor stands in the control block, and DSP_BATCH counts. With pause set
nothing is assigned, nor while the crossbar is disabled (R66), which is the model's choice (log entry 129). -/
def Obligations.RequestsAreQueuedAndDispatched : Prop :=
  (∀ (s : State) (r : Request) (rest : List Request),
      let e := s.modelRec r.model
      let full : Prop := e.qlimit ≤ (s.dsp.of r.model).length
      (s.dsp.inbox = r :: rest →
        let dropped (x : Nat) : Prop := Completes (exec .requestDescriptor s) fun t => t.dsp.inbox = rest
          ∧ t.dsp.queue = s.dsp.queue ∧ mget 0 t.dsp.drops x = mget 0 s.dsp.drops x + 1 ∧ t.bit R.dspCause 0 = true
        (s.bit R.dspCtl 0 = true → e.valid = true → ¬full → s.dsp.queue.length < 65536 →
          Completes (exec .requestDescriptor s) fun t =>
            t.dsp.inbox = rest ∧ t.dsp.queue = s.dsp.queue ++ [r] ∧ t.dsp.drops = s.dsp.drops ∧ Changes [.dsp] s t)
        ∧ (s.bit R.dspCtl 0 = false → dropped 0)
        ∧ (s.bit R.dspCtl 0 = true → e.valid = false → dropped 1)
        ∧ (s.bit R.dspCtl 0 = true → e.valid = true → full → dropped 2)
        ∧ (s.bit R.dspCtl 0 = true → e.valid = true → ¬full → 65536 ≤ s.dsp.queue.length → dropped 3))
      ∧ (s.dsp.queue = r :: rest →
          (0 < e.ageMs → 6250000 * e.ageMs < s.age r → Completes (exec (.requestAgeDrop r.model) s) fun t =>
            t.dsp.queue = rest ∧ mget 0 t.dsp.drops 4 = mget 0 s.dsp.drops 4 + 1)
          ∧ ((e.ageMs = 0 ∨ s.age r ≤ 6250000 * e.ageMs) → Completes (exec (.requestAgeDrop r.model) s) fun t =>
              t.dsp.queue = s.dsp.queue ∧ t.dsp.drops = s.dsp.drops ∧ Changes [.dsp] s t)
          ∧ (e.valid = true → r.model < 256 → 6250 * e.waitUs ≤ s.age r → Completes (exec (.modelWaitExpiry r.model) s) fun t =>
              r.model ∈ t.dsp.ready ∧ t.dsp.queue = s.dsp.queue ∧ Changes [.dsp] s t)))
  ∧ (∀ (s : State) (g m : Nat) (r : Request),
      let e := s.modelRec m
      let k := s.group g
      let cb := (s.groupRec g).cb
      (s.bit R.dspCtl 1 = true ∨ s.xbarOn = false → Completes (exec .dispatch s) fun t => t = s)
      ∧ (s.xbarOn = true → s.bit R.dspCtl 1 = false → s.dsp.queue = [r] → r.model = m → s.dsp.ready = [m] → s.dsp.stale = [] → e.valid = true →
          e.fixed = true → e.fixGrp = g → e.ageMs = 0 → e.maxBatch = 1 → 1 ≤ e.quantum → g < 80 → s.groupFree g = true →
          (∀ x < 80, x ≠ g → s.groupFree x = false) → k.model = some m → k.conts = [] → s.dpaSpan cb 72 = true →
          Completes (exec .dispatch s) fun t => (t.group g).st = .busy ∧ (t.group g).open_ = some (k.seq, m, [⟨r.handle, false, r.lane⟩])
            ∧ t.dsp.queue = [] ∧ t.ctr R.dspBatchLo = s.ctr R.dspBatchLo + 1
            ∧ rdBytes t.dpa cb 72 = leBytes 4 k.seq ++ leBytes 1 0 ++ leBytes 1 m ++ leBytes 1 1 ++ leBytes 1 0 ++ leBytes 8 e.params
                ++ leBytes 8 s.time.now.toNat ++ zeros 40 ++ leBytes 4 r.handle.toNat ++ leBytes 1 0 ++ leBytes 1 0 ++ leBytes 2 r.lane
            ∧ ∀ x, (x < cb ∨ cb + 72 ≤ x) → rdByte t.dpa x = rdByte s.dpa x))

/-- The other end of a batch (R341, R344). A completion message that names the open batch makes the group IDLE and
frees each buffer it asks no response and no continuation for; one that does not faults a BUSY group. A SWITCHING
group whose core has halted starts the next model's program, with the crossbar enabled, and is BUSY with the batch held
for it, under the sequence number 0, which is the model's choice (log entry 106). -/
def Obligations.BatchesCompleteAndModelsSwitch : Prop :=
  ∀ (s : State) (g m seq : Nat) (es : List BatchEntry),
    (∀ a rest, s.inbox = a :: rest → a.slot = s.mgmtSlot → a.unit = 1 → a.pkt.hdr.op = opWrite → a.pkt.hdr.addr = 0x1000 * g →
      (s.group g).st = .busy → (s.group g).open_ = some (seq, m, es) →
      (completionOk seq es a.pkt.data = true → Completes (exec .batchCompletion s) fun t =>
        t.inbox = rest ∧ (t.group g).st = .idle ∧ (t.group g).open_ = none ∧ (∀ x, x ≠ g → t.group x = s.group x)
          ∧ ∀ x, es = [x] → leAt a.pkt.data 14 1 = 0 → s.bit R.bpmCtl 0 = true →
              handleIndex x.handle < s.poolCount (handlePool x.handle) → (handlePool x.handle, handleIndex x.handle) ∉ t.poolUsed)
      ∧ (completionOk seq es a.pkt.data = false → (s.groupRec g).valid = true → Completes (exec .batchCompletion s) fun t =>
          (t.group g).st = .faulted ∧ t.bit R.dspCause 1 = true ∧ t.bit R.dspCause 2 = true
            ∧ (s.reg R.dspFault = 0 → t.fld R.dspFault 31 24 = 0x0B)))
    ∧ (∀ u, s.xbarOn = true → g < 80 → (s.group g).st = .switching → (s.group g).next = some (m, es) → (s.groupRec g).cores = [u] →
        (s.core u).st = .halted → s.qempty u = true → s.ue = [] → (s.core u).decays = [] →
        let pc := (s.modelRec m).prog
        headerOk pc (leNat (s.lsNow u (64 * pc) 64)) = true → Completes (exec (.switchHalted g) s) fun t =>
          (t.group g).st = .busy ∧ (t.group g).model = some m ∧ (t.group g).open_ = some (0, m, es) ∧ (t.group g).next = none
            ∧ (t.core u).st = .running ∧ (t.core u).pc = pc + 1 ∧ t.ctr R.dspSwitchLo = s.ctr R.dspSwitchLo + 1)
end

