-- ==== Sys2Proof/Laws/Changes.lean ====
section
/-!
SUPPORT. The calculus of `Changes`: what a composition of operations may change. One lemma per operation of the model, in
the files Laws/Changes*.lean, is proved with it.
-/

namespace Sys2Proof.Machine

/-- Every part of `v` is listed in `w`. -/
def within (v w : List Field) : Bool := v.all fun f => w.contains f

theorem mem_of_within {v w : List Field} (h : within v w = true) {f : Field} (hf : f ∈ v) : f ∈ w := by
  have := List.all_eq_true.mp h f hf
  simpa using this

theorem State.sameAt_refl (s : State) (f : Field) : s.sameAt s f := by cases f <;> rfl

theorem State.sameAt_trans {s t u : State} {f : Field} (h : s.sameAt t f) (k : t.sameAt u f) : s.sameAt u f := by
  cases f <;> exact Eq.trans k h

theorem Changes.refl (w : List Field) (s : State) : Changes w s s := ⟨fun f _ => s.sameAt_refl f⟩

theorem Changes.trans {w : List Field} {s t u : State} (h : Changes w s t) (k : Changes w t u) : Changes w s u :=
  ⟨fun f hf => State.sameAt_trans (h.elsewhere f hf) (k.elsewhere f hf)⟩

theorem Changes.mono {v w : List Field} {s t : State} (h : Changes v s t) (k : within v w = true) : Changes w s t :=
  ⟨fun f hf => h.elsewhere f fun m => hf (mem_of_within k m)⟩

theorem Changes.step {v w : List Field} {s t u : State} (h : Changes w s t) (k : Changes v t u) (m : within v w = true) :
    Changes w s u :=
  h.trans (k.mono m)

theorem Changes.ite {w : List Field} {s a b : State} {c : Prop} [Decidable c] (h : Changes w s a) (k : Changes w s b) :
    Changes w s (if c then a else b) := by
  split <;> assumption

theorem Changes.foldl {w : List Field} {s t : State} {g : State → α → State} {l : List α} (h : Changes w s t)
    (k : ∀ u a, Changes w u (g u a)) : Changes w s (l.foldl g t) := by
  induction l generalizing t with
  | nil => exact h
  | cons a l ih => exact ih (h.trans (k t a))

theorem Changes.of_fst {w : List Field} {s t : State} {p : State × α} {a : α} (h : Changes w s p.1) (e : p = (t, a)) :
    Changes w s t := by
  rw [e] at h; exact h

theorem Changes.of_snd {w : List Field} {s t : State} {p : α × State} {a : α} (h : Changes w s p.2) (e : p = (a, t)) :
    Changes w s t := by
  rw [e] at h; exact h

theorem Changes.mkFst {w : List Field} {s t : State} {a : α} (h : Changes w s t) : Changes w s (t, a).1 := h

theorem Changes.iteFst {w : List Field} {s : State} {a b : State × α} {c : Prop} [Decidable c] (h : Changes w s a.1)
    (k : Changes w s b.1) : Changes w s (if c then a else b).1 := by
  split <;> assumption

theorem Changes.foldlFst {w : List Field} {s : State} {p : State × α} {g : State × α → β → State × α} {l : List β}
    (h : Changes w s p.1) (k : ∀ q b, Changes w q.1 (g q b).1) : Changes w s (l.foldl g p).1 := by
  induction l generalizing p with
  | nil => exact h
  | cons b l ih => exact ih (h.trans (k p b))

theorem Changes.pending {s : State} {v : _} : Changes [.pending] s { s with pending := v } := by
  constructor; intro f hf; cases f <;> first | rfl | exact absurd (by simp) hf

theorem Changes.variant {s : State} {v : _} : Changes [.variant] s { s with variant := v } := by
  constructor; intro f hf; cases f <;> first | rfl | exact absurd (by simp) hf

theorem Changes.dev {s : State} {v : _} : Changes [.dev] s { s with dev := v } := by
  constructor; intro f hf; cases f <;> first | rfl | exact absurd (by simp) hf

theorem Changes.regs {s : State} {v : _} : Changes [.regs] s { s with regs := v } := by
  constructor; intro f hf; cases f <;> first | rfl | exact absurd (by simp) hf

theorem Changes.cnt {s : State} {v : _} : Changes [.cnt] s { s with cnt := v } := by
  constructor; intro f hf; cases f <;> first | rfl | exact absurd (by simp) hf

theorem Changes.latch {s : State} {v : _} : Changes [.latch] s { s with latch := v } := by
  constructor; intro f hf; cases f <;> first | rfl | exact absurd (by simp) hf

theorem Changes.busData {s : State} {v : _} : Changes [.busData] s { s with busData := v } := by
  constructor; intro f hf; cases f <;> first | rfl | exact absurd (by simp) hf

theorem Changes.dpa {s : State} {v : _} : Changes [.dpa] s { s with dpa := v } := by
  constructor; intro f hf; cases f <;> first | rfl | exact absurd (by simp) hf

theorem Changes.ls {s : State} {v : _} : Changes [.ls] s { s with ls := v } := by
  constructor; intro f hf; cases f <;> first | rfl | exact absurd (by simp) hf

theorem Changes.acc {s : State} {v : _} : Changes [.acc] s { s with acc := v } := by
  constructor; intro f hf; cases f <;> first | rfl | exact absurd (by simp) hf

theorem Changes.accFlags {s : State} {v : _} : Changes [.accFlags] s { s with accFlags := v } := by
  constructor; intro f hf; cases f <;> first | rfl | exact absurd (by simp) hf

theorem Changes.accBank1 {s : State} {v : _} : Changes [.accBank1] s { s with accBank1 := v } := by
  constructor; intro f hf; cases f <;> first | rfl | exact absurd (by simp) hf

theorem Changes.sems {s : State} {v : _} : Changes [.sems] s { s with sems := v } := by
  constructor; intro f hf; cases f <;> first | rfl | exact absurd (by simp) hf

theorem Changes.ctxMem {s : State} {v : _} : Changes [.ctxMem] s { s with ctxMem := v } := by
  constructor; intro f hf; cases f <;> first | rfl | exact absurd (by simp) hf

theorem Changes.prog {s : State} {v : _} : Changes [.prog] s { s with prog := v } := by
  constructor; intro f hf; cases f <;> first | rfl | exact absurd (by simp) hf

theorem Changes.progValid {s : State} {v : _} : Changes [.progValid] s { s with progValid := v } := by
  constructor; intro f hf; cases f <;> first | rfl | exact absurd (by simp) hf

theorem Changes.bar2 {s : State} {v : _} : Changes [.bar2] s { s with bar2 := v } := by
  constructor; intro f hf; cases f <;> first | rfl | exact absurd (by simp) hf

theorem Changes.mbx {s : State} {v : _} : Changes [.mbx] s { s with mbx := v } := by
  constructor; intro f hf; cases f <;> first | rfl | exact absurd (by simp) hf

theorem Changes.ue {s : State} {v : _} : Changes [.ue] s { s with ue := v } := by
  constructor; intro f hf; cases f <;> first | rfl | exact absurd (by simp) hf

theorem Changes.xbar {s : State} {v : _} : Changes [.xbar] s { s with xbar := v } := by
  constructor; intro f hf; cases f <;> first | rfl | exact absurd (by simp) hf

theorem Changes.links {s : State} {v : _} : Changes [.links] s { s with links := v } := by
  constructor; intro f hf; cases f <;> first | rfl | exact absurd (by simp) hf

theorem Changes.egress {s : State} {v : _} : Changes [.egress] s { s with egress := v } := by
  constructor; intro f hf; cases f <;> first | rfl | exact absurd (by simp) hf

theorem Changes.eths {s : State} {v : _} : Changes [.eths] s { s with eths := v } := by
  constructor; intro f hf; cases f <;> first | rfl | exact absurd (by simp) hf

theorem Changes.shpT {s : State} {v : _} : Changes [.shpT] s { s with shpT := v } := by
  constructor; intro f hf; cases f <;> first | rfl | exact absurd (by simp) hf

theorem Changes.circT {s : State} {v : _} : Changes [.circT] s { s with circT := v } := by
  constructor; intro f hf; cases f <;> first | rfl | exact absurd (by simp) hf

theorem Changes.polT {s : State} {v : _} : Changes [.polT] s { s with polT := v } := by
  constructor; intro f hf; cases f <;> first | rfl | exact absurd (by simp) hf

theorem Changes.ethDrop {s : State} {v : _} : Changes [.ethDrop] s { s with ethDrop := v } := by
  constructor; intro f hf; cases f <;> first | rfl | exact absurd (by simp) hf

theorem Changes.hist {s : State} {v : _} : Changes [.hist] s { s with hist := v } := by
  constructor; intro f hf; cases f <;> first | rfl | exact absurd (by simp) hf

theorem Changes.sampleN {s : State} {v : _} : Changes [.sampleN] s { s with sampleN := v } := by
  constructor; intro f hf; cases f <;> first | rfl | exact absurd (by simp) hf

theorem Changes.ring {s : State} {v : _} : Changes [.ring] s { s with ring := v } := by
  constructor; intro f hf; cases f <;> first | rfl | exact absurd (by simp) hf

theorem Changes.attach {s : State} {v : _} : Changes [.attach] s { s with attach := v } := by
  constructor; intro f hf; cases f <;> first | rfl | exact absurd (by simp) hf

theorem Changes.msgs {s : State} {v : _} : Changes [.msgs] s { s with msgs := v } := by
  constructor; intro f hf; cases f <;> first | rfl | exact absurd (by simp) hf

theorem Changes.msgSeq {s : State} {v : _} : Changes [.msgSeq] s { s with msgSeq := v } := by
  constructor; intro f hf; cases f <;> first | rfl | exact absurd (by simp) hf

theorem Changes.inbox {s : State} {v : _} : Changes [.inbox] s { s with inbox := v } := by
  constructor; intro f hf; cases f <;> first | rfl | exact absurd (by simp) hf

theorem Changes.commits {s : State} {v : _} : Changes [.commits] s { s with commits := v } := by
  constructor; intro f hf; cases f <;> first | rfl | exact absurd (by simp) hf

theorem Changes.trackers {s : State} {v : _} : Changes [.trackers] s { s with trackers := v } := by
  constructor; intro f hf; cases f <;> first | rfl | exact absurd (by simp) hf

theorem Changes.ctxs {s : State} {v : _} : Changes [.ctxs] s { s with ctxs := v } := by
  constructor; intro f hf; cases f <;> first | rfl | exact absurd (by simp) hf

theorem Changes.accepted {s : State} {v : _} : Changes [.accepted] s { s with accepted := v } := by
  constructor; intro f hf; cases f <;> first | rfl | exact absurd (by simp) hf

theorem Changes.rrEmit {s : State} {v : _} : Changes [.rrEmit] s { s with rrEmit := v } := by
  constructor; intro f hf; cases f <;> first | rfl | exact absurd (by simp) hf

theorem Changes.cores {s : State} {v : _} : Changes [.cores] s { s with cores := v } := by
  constructor; intro f hf; cases f <;> first | rfl | exact absurd (by simp) hf

theorem Changes.colls {s : State} {v : _} : Changes [.colls] s { s with colls := v } := by
  constructor; intro f hf; cases f <;> first | rfl | exact absurd (by simp) hf

theorem Changes.owed {s : State} {v : _} : Changes [.owed] s { s with owed := v } := by
  constructor; intro f hf; cases f <;> first | rfl | exact absurd (by simp) hf

theorem Changes.fetches {s : State} {v : _} : Changes [.fetches] s { s with fetches := v } := by
  constructor; intro f hf; cases f <;> first | rfl | exact absurd (by simp) hf

theorem Changes.wbs {s : State} {v : _} : Changes [.wbs] s { s with wbs := v } := by
  constructor; intro f hf; cases f <;> first | rfl | exact absurd (by simp) hf

theorem Changes.atu {s : State} {v : _} : Changes [.atu] s { s with atu := v } := by
  constructor; intro f hf; cases f <;> first | rfl | exact absurd (by simp) hf

theorem Changes.atuBusy {s : State} {v : _} : Changes [.atuBusy] s { s with atuBusy := v } := by
  constructor; intro f hf; cases f <;> first | rfl | exact absurd (by simp) hf

theorem Changes.poolUsed {s : State} {v : _} : Changes [.poolUsed] s { s with poolUsed := v } := by
  constructor; intro f hf; cases f <;> first | rfl | exact absurd (by simp) hf

theorem Changes.time {s : State} {v : _} : Changes [.time] s { s with time := v } := by
  constructor; intro f hf; cases f <;> first | rfl | exact absurd (by simp) hf

theorem Changes.shutters {s : State} {v : _} : Changes [.shutters] s { s with shutters := v } := by
  constructor; intro f hf; cases f <;> first | rfl | exact absurd (by simp) hf

theorem Changes.jobs {s : State} {v : _} : Changes [.jobs] s { s with jobs := v } := by
  constructor; intro f hf; cases f <;> first | rfl | exact absurd (by simp) hf

theorem Changes.active {s : State} {v : _} : Changes [.active] s { s with active := v } := by
  constructor; intro f hf; cases f <;> first | rfl | exact absurd (by simp) hf

theorem Changes.shadow {s : State} {v : _} : Changes [.shadow] s { s with shadow := v } := by
  constructor; intro f hf; cases f <;> first | rfl | exact absurd (by simp) hf

theorem Changes.dsp {s : State} {v : _} : Changes [.dsp] s { s with dsp := v } := by
  constructor; intro f hf; cases f <;> first | rfl | exact absurd (by simp) hf

theorem Changes.mgmt {s : State} {v : _} : Changes [.mgmt] s { s with mgmt := v } := by
  constructor; intro f hf; cases f <;> first | rfl | exact absurd (by simp) hf

theorem Changes.sec {s : State} {v : _} : Changes [.sec] s { s with sec := v } := by
  constructor; intro f hf; cases f <;> first | rfl | exact absurd (by simp) hf

theorem Changes.power {s : State} {v : _} : Changes [.power] s { s with power := v } := by
  constructor; intro f hf; cases f <;> first | rfl | exact absurd (by simp) hf

theorem Changes.i3c {s : State} {v : _} : Changes [.i3c] s { s with i3c := v } := by
  constructor; intro f hf; cases f <;> first | rfl | exact absurd (by simp) hf

theorem Changes.jtag {s : State} {v : _} : Changes [.jtag] s { s with jtag := v } := by
  constructor; intro f hf; cases f <;> first | rfl | exact absurd (by simp) hf

theorem Changes.pcie {s : State} {v : _} : Changes [.pcie] s { s with pcie := v } := by
  constructor; intro f hf; cases f <;> first | rfl | exact absurd (by simp) hf

theorem Changes.nextId {s : State} {v : _} : Changes [.nextId] s { s with nextId := v } := by
  constructor; intro f hf; cases f <;> first | rfl | exact absurd (by simp) hf

theorem Changes.freeCtr {s : State} {v : _} : Changes [.freeCtr] s { s with freeCtr := v } := by
  constructor; intro f hf; cases f <;> first | rfl | exact absurd (by simp) hf

theorem Changes.acc_accFlags {s : State} {v0 v1 : _} :
    Changes [.acc, .accFlags] s { s with acc := v0, accFlags := v1 } := by
  constructor; intro f hf; cases f <;> first | rfl | exact absurd (by simp) hf

theorem Changes.ctxMem_accepted {s : State} {v0 v1 : _} :
    Changes [.ctxMem, .accepted] s { s with ctxMem := v0, accepted := v1 } := by
  constructor; intro f hf; cases f <;> first | rfl | exact absurd (by simp) hf

theorem Changes.power_i3c {s : State} {v0 v1 : _} :
    Changes [.power, .i3c] s { s with power := v0, i3c := v1 } := by
  constructor; intro f hf; cases f <;> first | rfl | exact absurd (by simp) hf

theorem Changes.attach_msgs {s : State} {v0 v1 : _} :
    Changes [.attach, .msgs] s { s with attach := v0, msgs := v1 } := by
  constructor; intro f hf; cases f <;> first | rfl | exact absurd (by simp) hf

theorem Changes.prog_progValid {s : State} {v0 v1 : _} :
    Changes [.prog, .progValid] s { s with prog := v0, progValid := v1 } := by
  constructor; intro f hf; cases f <;> first | rfl | exact absurd (by simp) hf

theorem Changes.mbx_mgmt {s : State} {v0 v1 : _} :
    Changes [.mbx, .mgmt] s { s with mbx := v0, mgmt := v1 } := by
  constructor; intro f hf; cases f <;> first | rfl | exact absurd (by simp) hf

theorem Changes.msgs_msgSeq {s : State} {v0 v1 : _} :
    Changes [.msgs, .msgSeq] s { s with msgs := v0, msgSeq := v1 } := by
  constructor; intro f hf; cases f <;> first | rfl | exact absurd (by simp) hf

theorem Changes.latch_busData {s : State} {v0 v1 : _} :
    Changes [.latch, .busData] s { s with latch := v0, busData := v1 } := by
  constructor; intro f hf; cases f <;> first | rfl | exact absurd (by simp) hf

theorem Changes.active_shadow {s : State} {v0 v1 : _} :
    Changes [.active, .shadow] s { s with active := v0, shadow := v1 } := by
  constructor; intro f hf; cases f <;> first | rfl | exact absurd (by simp) hf

theorem Changes.hist_sampleN {s : State} {v0 v1 : _} :
    Changes [.hist, .sampleN] s { s with hist := v0, sampleN := v1 } := by
  constructor; intro f hf; cases f <;> first | rfl | exact absurd (by simp) hf

theorem Changes.atu_atuBusy {s : State} {v0 v1 : _} :
    Changes [.atu, .atuBusy] s { s with atu := v0, atuBusy := v1 } := by
  constructor; intro f hf; cases f <;> first | rfl | exact absurd (by simp) hf

theorem Changes.shpT_circT_polT {s : State} {v0 v1 v2 : _} :
    Changes [.shpT, .circT, .polT] s { s with shpT := v0, circT := v1, polT := v2 } := by
  constructor; intro f hf; cases f <;> first | rfl | exact absurd (by simp) hf

theorem Changes.dpa_ls_acc_accFlags_sems {s : State} {v0 v1 v2 v3 v4 : _} :
    Changes [.dpa, .ls, .acc, .accFlags, .sems] s { s with dpa := v0, ls := v1, acc := v2, accFlags := v3, sems := v4 } := by
  constructor; intro f hf; cases f <;> first | rfl | exact absurd (by simp) hf

end Sys2Proof.Machine
end

