-- ==== Sys2Proof/Laws/Maps.lean ====
section
/-!
SUPPORT. The laws of sparse data: what is read after a write, and that every write keeps the canonical form.
-/

namespace Sys2Proof.Machine

/-- Every key of a map is larger than `k`. -/
def mabove (k : Nat) (m : SMap α) : Prop := ∀ p ∈ m, k < p.1

/-! ### Reading after writing -/

theorem mget_merase (d : α) (m : SMap α) (k j : Nat) : mget d (merase m k) j = if k = j then d else mget d m j := by
  induction m with
  | nil => simp [merase, mget]
  | cons p r ih =>
    obtain ⟨a, v⟩ := p
    by_cases h : a = k
    · subst h
      simp only [merase, if_true, ih, mget]
      split <;> simp_all
    · simp only [merase, if_neg h, mget, ih]
      split
      · subst_vars
        simp [Ne.symm h]
      · rfl

theorem mget_mins (d : α) (m : SMap α) (k j : Nat) (v : α) (h : ∀ p ∈ m, p.1 ≠ k) :
    mget d (mins k v m) j = if k = j then v else mget d m j := by
  induction m with
  | nil => simp [mins, mget]
  | cons p r ih =>
    obtain ⟨a, w⟩ := p
    have ha : a ≠ k := h (a, w) (by simp)
    have hr : ∀ p ∈ r, p.1 ≠ k := fun p hp => h p (by simp [hp])
    simp only [mins]
    split
    · simp [mget]
    · simp only [mget, ih hr]
      split
      · subst_vars
        simp [Ne.symm ha]
      · rfl

theorem merase_ne (m : SMap α) (k : Nat) : ∀ p ∈ merase m k, p.1 ≠ k := by
  induction m with
  | nil => simp [merase]
  | cons q r ih =>
    obtain ⟨a, v⟩ := q
    simp only [merase]
    split
    · exact ih
    · intro p hp
      rcases List.mem_cons.mp hp with rfl | hp
      · assumption
      · exact ih p hp

/-- A read after a write: the written key holds the value, and every other key what it held. -/
theorem mget_mset [DecidableEq α] (d : α) (m : SMap α) (k j : Nat) (v : α) :
    mget d (mset d m k v) j = if k = j then v else mget d m j := by
  unfold mset
  split
  · subst_vars
    exact mget_merase ..
  · rw [mget_mins _ _ _ _ _ (merase_ne m k), mget_merase]
    split <;> rfl

@[simp] theorem mget_mset_same [DecidableEq α] (d : α) (m : SMap α) (k : Nat) (v : α) : mget d (mset d m k v) k = v := by
  simp [mget_mset]

theorem mget_mset_other [DecidableEq α] (d : α) (m : SMap α) {k j : Nat} (v : α) (h : k ≠ j) :
    mget d (mset d m k v) j = mget d m j := by
  simp [mget_mset, h]

/-- The other keys, read with a default of their own (registers have their own reset values). -/
theorem mget_mset_default [DecidableEq α] (d e : α) (m : SMap α) {k j : Nat} (v : α) (h : k ≠ j) :
    mget e (mset d m k v) j = mget e m j := by
  unfold mset
  split
  · rw [mget_merase, if_neg h]
  · rw [mget_mins _ _ _ _ _ (merase_ne m k), if_neg h, mget_merase, if_neg h]

/-! ### The canonical form -/

/-- The canonical form, with the order of keys said of all later ones. -/
theorem mwf_cons [DecidableEq α] {d : α} {a : Nat} {v : α} {r : SMap α} :
    mwf d ((a, v) :: r) = true ↔ v ≠ d ∧ mabove a r ∧ mwf d r = true := by
  induction r generalizing a v with
  | nil => simp [mwf, mabove]
  | cons q r ih =>
    obtain ⟨b, w⟩ := q
    constructor
    · intro h
      simp only [mwf, List.head?_cons, Option.all_some, Bool.and_eq_true, decide_eq_true_eq, bne_iff_ne, ne_eq] at h
      obtain ⟨⟨hv, hab⟩, hr⟩ := h
      have hr' : mwf d ((b, w) :: r) = true := by simp [mwf, hr]
      refine ⟨hv, ?_, hr'⟩
      intro p hp
      rcases List.mem_cons.mp hp with rfl | hp
      · exact hab
      · exact Nat.lt_trans hab ((ih.mp hr').2.1 p hp)
    · rintro ⟨hv, hab, hr⟩
      have hlt : a < b := hab (b, w) (by simp)
      have : mwf d ((a, v) :: (b, w) :: r) = (v != d && decide (a < b) && mwf d ((b, w) :: r)) := rfl
      rw [this, hr]
      simp [hv, hlt]

theorem mabove_merase {m : SMap α} {a : Nat} (h : mabove a m) (k : Nat) : mabove a (merase m k) := by
  induction m with
  | nil => exact h
  | cons q r ih =>
    obtain ⟨b, w⟩ := q
    have hr : mabove a r := fun p hp => h p (by simp [hp])
    simp only [merase]
    split
    · exact ih hr
    · intro p hp
      rcases List.mem_cons.mp hp with rfl | hp
      · exact h _ (by simp)
      · exact ih hr p hp

theorem mwf_merase [DecidableEq α] {d : α} {m : SMap α} (h : mwf d m = true) (k : Nat) : mwf d (merase m k) = true := by
  induction m with
  | nil => exact h
  | cons q r ih =>
    obtain ⟨b, w⟩ := q
    obtain ⟨hw, hb, hr⟩ := mwf_cons.mp h
    simp only [merase]
    split
    · exact ih hr
    · exact mwf_cons.mpr ⟨hw, mabove_merase hb k, ih hr⟩

theorem mabove_mins {m : SMap α} {a k : Nat} {v : α} (h : mabove a m) (hk : a < k) : mabove a (mins k v m) := by
  induction m with
  | nil =>
    intro p hp
    simp only [mins, List.mem_cons, List.not_mem_nil, or_false] at hp
    subst hp
    exact hk
  | cons q r ih =>
    obtain ⟨b, w⟩ := q
    have hr : mabove a r := fun p hp => h p (by simp [hp])
    simp only [mins]
    split
    · intro p hp
      rcases List.mem_cons.mp hp with rfl | hp
      · exact hk
      · exact h p hp
    · intro p hp
      rcases List.mem_cons.mp hp with rfl | hp
      · exact h _ (by simp)
      · exact ih hr p hp

theorem mwf_mins [DecidableEq α] {d : α} {m : SMap α} {k : Nat} {v : α} (h : mwf d m = true) (hv : v ≠ d)
    (hk : ∀ p ∈ m, p.1 ≠ k) : mwf d (mins k v m) = true := by
  induction m with
  | nil => simp [mins, mwf, hv]
  | cons q r ih =>
    obtain ⟨b, w⟩ := q
    obtain ⟨hw, hb, hr⟩ := mwf_cons.mp h
    have hbk : b ≠ k := hk (b, w) (by simp)
    simp only [mins]
    split
    · rename_i hlt
      refine mwf_cons.mpr ⟨hv, ?_, h⟩
      intro p hp
      rcases List.mem_cons.mp hp with rfl | hp
      · exact hlt
      · exact Nat.lt_trans hlt (hb p hp)
    · exact mwf_cons.mpr ⟨hw, mabove_mins hb (by omega), ih hr fun p hp => hk p (by simp [hp])⟩

/-- Every write keeps the canonical form. -/
theorem mwf_mset [DecidableEq α] {d : α} {m : SMap α} (h : mwf d m = true) (k : Nat) (v : α) :
    mwf d (mset d m k v) = true := by
  unfold mset
  split
  · exact mwf_merase h k
  · rename_i hv
    exact mwf_mins (mwf_merase h k) hv (merase_ne m k)

theorem mwf_mfilter [DecidableEq α] {d : α} {m : SMap α} (h : mwf d m = true) (p : Nat → Bool) :
    mwf d (mfilter p m) = true := by
  induction m with
  | nil => exact h
  | cons q r ih =>
    obtain ⟨b, w⟩ := q
    obtain ⟨hw, hb, hr⟩ := mwf_cons.mp h
    have := ih hr
    simp only [mfilter, List.filter_cons] at this ⊢
    split
    · exact mwf_cons.mpr ⟨hw, fun x hx => hb x (List.mem_of_mem_filter hx), this⟩
    · exact this

theorem mwf_foldl_mset [DecidableEq α] {d : α} {m : SMap α} (h : mwf d m = true) (l : List β) (k : β → Nat) (v : β → α) :
    mwf d (l.foldl (fun m b => mset d m (k b) (v b)) m) = true := by
  induction l generalizing m with
  | nil => exact h
  | cons b l ih => exact ih (mwf_mset h _ _)

/-! ### Bytes -/

theorem memWf_wrBytes {m : Mem} (h : memWf m = true) (a : Nat) (bs : List Byte) : memWf (wrBytes m a bs) = true := by
  induction bs generalizing m a with
  | nil => exact h
  | cons b r ih => exact ih (mwf_mset h a b) (a + 1)

/-- A byte outside the stored ones is as it was. -/
theorem rdByte_wrBytes_outside (m : Mem) (a : Nat) (bs : List Byte) (x : Nat) (h : x < a ∨ a + bs.length ≤ x) :
    rdByte (wrBytes m a bs) x = rdByte m x := by
  induction bs generalizing m a with
  | nil => rfl
  | cons b r ih =>
    have hx : a ≠ x := by
      rcases h with h | h
      · omega
      · simp only [List.length_cons] at h; omega
    have h' : x < a + 1 ∨ a + 1 + r.length ≤ x := by
      rcases h with h | h
      · left; omega
      · right; simp only [List.length_cons] at h; omega
    rw [wrBytes, ih _ _ h']
    exact mget_mset_other _ _ _ hx

/-- A stored byte reads as it was stored. -/
theorem rdByte_wrBytes_inside (m : Mem) (a : Nat) (bs : List Byte) (i : Nat) (h : i < bs.length) :
    rdByte (wrBytes m a bs) (a + i) = bs[i] := by
  induction bs generalizing m a i with
  | nil => simp at h
  | cons b r ih =>
    cases i with
    | zero =>
      rw [wrBytes, rdByte_wrBytes_outside _ _ _ _ (Or.inl (by omega))]
      exact mget_mset_same ..
    | succ i =>
      have : a + (i + 1) = a + 1 + i := by omega
      rw [wrBytes, this, ih _ _ _ (by simpa using h)]
      rfl

theorem length_rdBytes (m : Mem) (a n : Nat) : (rdBytes m a n).length = n := by
  induction n generalizing a with
  | zero => rfl
  | succ n ih => simp [rdBytes, ih]

/-- Bytes read back where they were stored. -/
theorem rdBytes_wrBytes_same (m : Mem) (a : Nat) (bs : List Byte) : rdBytes (wrBytes m a bs) a bs.length = bs := by
  induction bs generalizing m a with
  | nil => rfl
  | cons b r ih =>
    rw [List.length_cons, rdBytes, wrBytes]
    refine congrArg₂ _ ?_ (ih _ _)
    rw [rdByte_wrBytes_outside _ _ _ _ (Or.inl (by omega))]
    exact mget_mset_same ..

end Sys2Proof.Machine
end

