-- ==== Sys2Proof/Laws/KeepsWf.lean ====
section
/-!
SUPPORT. The calculus of `KeepsWf`: an operation that keeps every memory in canonical form. One lemma per operation that
writes a memory, in the files Laws/KeepsWf*.lean, is proved with it; the others keep the form because they change none.
-/

namespace Sys2Proof.Machine

/-- If the memories of `s` are in canonical form, so are those of `t`. -/
structure KeepsWf (s t : State) : Prop where
  keep : s.memoriesWf = true → t.memoriesWf = true

theorem KeepsWf.refl (s : State) : KeepsWf s s := ⟨id⟩

theorem KeepsWf.trans {s t u : State} (h : KeepsWf s t) (k : KeepsWf t u) : KeepsWf s u := ⟨fun x => k.keep (h.keep x)⟩

theorem KeepsWf.ite {s a b : State} {c : Prop} [Decidable c] (h : KeepsWf s a) (k : KeepsWf s b) :
    KeepsWf s (if c then a else b) := by
  split <;> assumption

theorem KeepsWf.foldl {s t : State} {g : State → α → State} {l : List α} (h : KeepsWf s t)
    (k : ∀ u a, KeepsWf u (g u a)) : KeepsWf s (l.foldl g t) := by
  induction l generalizing t with
  | nil => exact h
  | cons a l ih => exact ih (h.trans (k t a))

theorem KeepsWf.of_fst {s t : State} {p : State × α} {a : α} (h : KeepsWf s p.1) (e : p = (t, a)) : KeepsWf s t := by
  rw [e] at h; exact h

theorem KeepsWf.of_snd {s t : State} {p : α × State} {a : α} (h : KeepsWf s p.2) (e : p = (a, t)) : KeepsWf s t := by
  rw [e] at h; exact h

theorem KeepsWf.mkFst {s t : State} {a : α} (h : KeepsWf s t) : KeepsWf s (t, a).1 := h

theorem KeepsWf.iteFst {s : State} {a b : State × α} {c : Prop} [Decidable c] (h : KeepsWf s a.1) (k : KeepsWf s b.1) :
    KeepsWf s (if c then a else b).1 := by
  split <;> assumption

theorem KeepsWf.foldlFst {s : State} {p : State × α} {g : State × α → β → State × α} {l : List β} (h : KeepsWf s p.1)
    (k : ∀ q b, KeepsWf q.1 (g q b).1) : KeepsWf s (l.foldl g p).1 := by
  induction l generalizing p with
  | nil => exact h
  | cons b l ih => exact ih (h.trans (k p b))

/-- The parts that hold a memory. -/
def memoryFields : List Field := [.dpa, .ls, .ctxMem, .bar2, .mbx, .acc, .sems, .cnt, .accFlags, .accBank1, .prog, .progValid]

/-- An operation that changes no memory keeps their form. -/
theorem KeepsWf.of_changes {w : List Field} {s t : State} (h : Changes w s t)
    (k : (memoryFields.any fun f => w.contains f) = false) : KeepsWf s t := by
  have hn : ∀ f ∈ memoryFields, f ∉ w := by
    intro f hf hw
    have : (memoryFields.any fun f => w.contains f) = true := by
      rw [List.any_eq_true]
      exact ⟨f, hf, by simpa using hw⟩
    rw [k] at this
    cases this
  have h0 : t.dpa = s.dpa := h.elsewhere .dpa (hn _ (by simp [memoryFields]))
  have h1 : t.ls = s.ls := h.elsewhere .ls (hn _ (by simp [memoryFields]))
  have h2 : t.ctxMem = s.ctxMem := h.elsewhere .ctxMem (hn _ (by simp [memoryFields]))
  have h3 : t.bar2 = s.bar2 := h.elsewhere .bar2 (hn _ (by simp [memoryFields]))
  have h4 : t.mbx = s.mbx := h.elsewhere .mbx (hn _ (by simp [memoryFields]))
  have h5 : t.acc = s.acc := h.elsewhere .acc (hn _ (by simp [memoryFields]))
  have h6 : t.sems = s.sems := h.elsewhere .sems (hn _ (by simp [memoryFields]))
  have h7 : t.cnt = s.cnt := h.elsewhere .cnt (hn _ (by simp [memoryFields]))
  have h8 : t.accFlags = s.accFlags := h.elsewhere .accFlags (hn _ (by simp [memoryFields]))
  have h9 : t.accBank1 = s.accBank1 := h.elsewhere .accBank1 (hn _ (by simp [memoryFields]))
  have h10 : t.prog = s.prog := h.elsewhere .prog (hn _ (by simp [memoryFields]))
  have h11 : t.progValid = s.progValid := h.elsewhere .progValid (hn _ (by simp [memoryFields]))
  constructor
  intro x
  unfold State.memoriesWf at x ⊢
  rw [h0, h1, h2, h3, h4, h5, h6, h7, h8, h9, h10, h11]
  exact x

theorem KeepsWf.dpa {s : State} {v : _} (h : memWf s.dpa = true → memWf v = true) : KeepsWf s { s with dpa := v } := by
  constructor
  intro x
  simp only [State.memoriesWf, Bool.and_eq_true] at x ⊢
  simp_all

theorem KeepsWf.ls {s : State} {v : _} (h : memWf s.ls = true → memWf v = true) : KeepsWf s { s with ls := v } := by
  constructor
  intro x
  simp only [State.memoriesWf, Bool.and_eq_true] at x ⊢
  simp_all

theorem KeepsWf.ctxMem {s : State} {v : _} (h : memWf s.ctxMem = true → memWf v = true) : KeepsWf s { s with ctxMem := v } := by
  constructor
  intro x
  simp only [State.memoriesWf, Bool.and_eq_true] at x ⊢
  simp_all

theorem KeepsWf.bar2 {s : State} {v : _} (h : memWf s.bar2 = true → memWf v = true) : KeepsWf s { s with bar2 := v } := by
  constructor
  intro x
  simp only [State.memoriesWf, Bool.and_eq_true] at x ⊢
  simp_all

theorem KeepsWf.mbx {s : State} {v : _} (h : memWf s.mbx = true → memWf v = true) : KeepsWf s { s with mbx := v } := by
  constructor
  intro x
  simp only [State.memoriesWf, Bool.and_eq_true] at x ⊢
  simp_all

theorem KeepsWf.acc {s : State} {v : _} (h : mwf 0 s.acc = true → mwf 0 v = true) : KeepsWf s { s with acc := v } := by
  constructor
  intro x
  simp only [State.memoriesWf, Bool.and_eq_true] at x ⊢
  simp_all

theorem KeepsWf.sems {s : State} {v : _} (h : mwf 0 s.sems = true → mwf 0 v = true) : KeepsWf s { s with sems := v } := by
  constructor
  intro x
  simp only [State.memoriesWf, Bool.and_eq_true] at x ⊢
  simp_all

theorem KeepsWf.cnt {s : State} {v : _} (h : mwf 0 s.cnt = true → mwf 0 v = true) : KeepsWf s { s with cnt := v } := by
  constructor
  intro x
  simp only [State.memoriesWf, Bool.and_eq_true] at x ⊢
  simp_all

theorem KeepsWf.accFlags {s : State} {v : _} (h : mwf 0 s.accFlags = true → mwf 0 v = true) : KeepsWf s { s with accFlags := v } := by
  constructor
  intro x
  simp only [State.memoriesWf, Bool.and_eq_true] at x ⊢
  simp_all

theorem KeepsWf.accBank1 {s : State} {v : _} (h : mwf false s.accBank1 = true → mwf false v = true) : KeepsWf s { s with accBank1 := v } := by
  constructor
  intro x
  simp only [State.memoriesWf, Bool.and_eq_true] at x ⊢
  simp_all

theorem KeepsWf.prog {s : State} {v : _} (h : mwf 0 s.prog = true → mwf 0 v = true) : KeepsWf s { s with prog := v } := by
  constructor
  intro x
  simp only [State.memoriesWf, Bool.and_eq_true] at x ⊢
  simp_all

theorem KeepsWf.progValid {s : State} {v : _} (h : mwf false s.progValid = true → mwf false v = true) : KeepsWf s { s with progValid := v } := by
  constructor
  intro x
  simp only [State.memoriesWf, Bool.and_eq_true] at x ⊢
  simp_all

theorem KeepsWf.mbx_mgmt {s : State} {v0 v1 : _} (h : memWf s.mbx = true → memWf v0 = true) :
    KeepsWf s { s with mbx := v0, mgmt := v1 } := by
  constructor
  intro x
  simp only [State.memoriesWf, Bool.and_eq_true] at x ⊢
  simp_all

theorem KeepsWf.ctxMem_accepted {s : State} {v0 v1 : _} (h : memWf s.ctxMem = true → memWf v0 = true) :
    KeepsWf s { s with ctxMem := v0, accepted := v1 } := by
  constructor
  intro x
  simp only [State.memoriesWf, Bool.and_eq_true] at x ⊢
  simp_all

end Sys2Proof.Machine
end

