-- ==== Sys2Proof/Laws/Ops.lean ====
section
/-!
SUPPORT. What each operation of Machine/Ops.lean may change (`_changes`), and that those which write a memory keep its
canonical form (`_wf`).
-/

namespace Sys2Proof.Machine

theorem State.setReg_changes (s : State) (r : Reg) (w : Word) :
    Changes [.regs] s (State.setReg s r w) := by
  unfold State.setReg
  refine Changes.step ?_ Changes.regs (by decide)
  exact Changes.refl _ _

theorem State.writeReg_changes (s : State) (r : Reg) (w : Word) :
    Changes [.regs] s (State.writeReg s r w) := by
  unfold State.writeReg
  refine Changes.step ?_ (State.setReg_changes ..) (by decide)
  exact Changes.refl _ _

theorem State.raise_changes (s : State) (r : Reg) (i : Nat) :
    Changes [.regs] s (State.raise s r i) := by
  unfold State.raise
  refine Changes.step ?_ (State.setReg_changes ..) (by decide)
  exact Changes.refl _ _

theorem State.lower_changes (s : State) (r : Reg) (i : Nat) :
    Changes [.regs] s (State.lower s r i) := by
  unfold State.lower
  refine Changes.step ?_ (State.setReg_changes ..) (by decide)
  exact Changes.refl _ _

theorem State.setField_changes (s : State) (r : Reg) (hi : Nat) (lo : Nat) (v : Nat) :
    Changes [.regs] s (State.setField s r hi lo v) := by
  unfold State.setField
  refine Changes.step ?_ (State.setReg_changes ..) (by decide)
  exact Changes.refl _ _

theorem State.count_changes (s : State) (r : Reg) :
    Changes [.regs] s (State.count s r) := by
  unfold State.count
  refine Changes.step ?_ (State.setReg_changes ..) (by decide)
  exact Changes.refl _ _

theorem State.addCtr_changes (s : State) (r : Reg) (n : Nat) :
    Changes [.cnt] s (State.addCtr s r n) := by
  unfold State.addCtr
  refine Changes.step ?_ Changes.cnt (by decide)
  exact Changes.refl _ _

theorem State.incCtr_changes (s : State) (r : Reg) :
    Changes [.cnt] s (State.incCtr s r) := by
  unfold State.incCtr
  refine Changes.step ?_ (State.addCtr_changes ..) (by decide)
  exact Changes.refl _ _

theorem State.markJob_changes (s : State) (word : Nat → Reg) (job : Nat) :
    Changes [.regs] s (State.markJob s word job) := by
  unfold State.markJob
  refine Changes.step ?_ (State.raise_changes ..) (by decide)
  exact Changes.refl _ _

theorem State.onWrite_changes {v : List Field} {s₀ s t : State} (h₀ : Changes v s₀ s) (h : Changes v s₀ t) (w : Window)
    (isIt : Bool) :
    Changes v s₀ (State.onWrite s w isIt t) := by
  unfold State.onWrite
  exact Changes.ite h h₀

theorem State.onRead_changes {v : List Field} {s₀ s t : State} (b : within [.busData] v = true) (h₀ : Changes v s₀ s)
    (h : Changes v s₀ t) (w : Window) (isIt : Bool) : Changes v s₀ (State.onRead s w isIt t) := by
  unfold State.onRead
  exact Changes.ite h₀ (Changes.ite (Changes.step h₀ Changes.busData b) (Changes.ite h h₀))

theorem State.drawn_changes (s : State) :
    Changes [.freeCtr] s (State.drawn s) := by
  unfold State.drawn
  refine Changes.step ?_ Changes.freeCtr (by decide)
  exact Changes.refl _ _

theorem State.numbered_changes (s : State) :
    Changes [.nextId] s (State.numbered s) := by
  unfold State.numbered
  refine Changes.step ?_ Changes.nextId (by decide)
  exact Changes.refl _ _

theorem State.setLink_changes (s : State) (n : Nat) (l : Nat) (k : Link) :
    Changes [.links] s (State.setLink s n l k) := by
  unfold State.setLink
  refine Changes.step ?_ Changes.links (by decide)
  exact Changes.refl _ _

theorem State.setEgr_changes (s : State) (n : Nat) (l : Nat) (k : Egress) :
    Changes [.egress] s (State.setEgr s n l k) := by
  unfold State.setEgr
  refine Changes.step ?_ Changes.egress (by decide)
  exact Changes.refl _ _

theorem State.setEth_changes (s : State) (n : Nat) (l : Nat) (k : Eth) :
    Changes [.eths] s (State.setEth s n l k) := by
  unfold State.setEth
  refine Changes.step ?_ Changes.eths (by decide)
  exact Changes.refl _ _

theorem State.setCore_changes (s : State) (u : Nat) (k : Core) :
    Changes [.cores] s (State.setCore s u k) := by
  unfold State.setCore
  refine Changes.step ?_ Changes.cores (by decide)
  exact Changes.refl _ _

theorem State.setCtx_changes (s : State) (c : Nat) (k : Ctx) :
    Changes [.ctxs] s (State.setCtx s c k) := by
  unfold State.setCtx
  refine Changes.step ?_ Changes.ctxs (by decide)
  exact Changes.refl _ _

theorem State.setShutter_changes (s : State) (b : Nat) (k : Shutter) :
    Changes [.shutters] s (State.setShutter s b k) := by
  unfold State.setShutter
  refine Changes.step ?_ Changes.shutters (by decide)
  exact Changes.refl _ _

theorem State.setJob_changes (s : State) (j : Nat) (k : Job) :
    Changes [.jobs] s (State.setJob s j k) := by
  unfold State.setJob
  refine Changes.step ?_ Changes.jobs (by decide)
  exact Changes.refl _ _

theorem State.setGroup_changes (s : State) (g : Nat) (k : Group) :
    Changes [.dsp] s (State.setGroup s g k) := by
  unfold State.setGroup
  refine Changes.step ?_ Changes.dsp (by decide)
  exact Changes.refl _ _

theorem State.setSem_changes (s : State) (u : Nat) (i : Nat) (w : Word) :
    Changes [.sems] s (State.setSem s u i w) := by
  unfold State.setSem
  refine Changes.step ?_ Changes.sems (by decide)
  exact Changes.refl _ _

/-! ### Canonical form -/

theorem State.addCtr_wf (s : State) (r : Reg) (n : Nat) :
    KeepsWf s (State.addCtr s r n) := by
  unfold State.addCtr
  refine KeepsWf.trans ?_ (KeepsWf.cnt fun h => mwf_mset h _ _)
  exact KeepsWf.refl _

theorem State.incCtr_wf (s : State) (r : Reg) :
    KeepsWf s (State.incCtr s r) := by
  unfold State.incCtr
  refine KeepsWf.trans ?_ (State.addCtr_wf ..)
  exact KeepsWf.refl _

theorem State.onWrite_wf {s₀ s t : State} (h₀ : KeepsWf s₀ s) (h : KeepsWf s₀ t) (w : Window) (isIt : Bool) :
    KeepsWf s₀ (State.onWrite s w isIt t) := by
  unfold State.onWrite
  exact KeepsWf.ite h h₀

theorem State.onRead_wf {s₀ s t : State} (h₀ : KeepsWf s₀ s) (h : KeepsWf s₀ t) (w : Window) (isIt : Bool) :
    KeepsWf s₀ (State.onRead s w isIt t) := by
  unfold State.onRead
  exact KeepsWf.ite h₀ (KeepsWf.ite (h₀.trans (KeepsWf.of_changes Changes.busData (by decide))) (KeepsWf.ite h h₀))

theorem State.setSem_wf (s : State) (u : Nat) (i : Nat) (w : Word) :
    KeepsWf s (State.setSem s u i w) := by
  unfold State.setSem
  refine KeepsWf.trans ?_ (KeepsWf.sems fun h => mwf_mset h _ _)
  exact KeepsWf.refl _

end Sys2Proof.Machine
end

