-- ==== Sys2Proof/Laws/Fabric.lean ====
section
/-!
SUPPORT. What each operation of Machine/Fabric.lean may change (`_changes`), and that those which write a memory keep its
canonical form (`_wf`).
-/

namespace Sys2Proof.Machine

theorem State.portFault_changes (s : State) (n : Nat) (code : Nat) (job : Nat) (lane : Nat) :
    Changes [.regs] s (State.portFault s n code job lane) := by
  unfold State.portFault
  refine Changes.ite ?_ ?_
  · refine Changes.step ?_ (State.setReg_changes ..) (by decide)
    exact Changes.refl _ _
  · exact Changes.refl _ _

theorem State.portMark_changes (s : State) (n : Nat) (job : Nat) :
    Changes [.regs] s (State.portMark s n job) := by
  unfold State.portMark
  refine Changes.step ?_ (State.markJob_changes ..) (by decide)
  exact Changes.refl _ _

theorem State.xlateFail_changes (s : State) (n : Nat) (job : Nat) :
    Changes [.regs] s (State.xlateFail s n job) := by
  unfold State.xlateFail
  refine Changes.step ?_ (State.raise_changes ..) (by decide)
  refine Changes.step ?_ (State.portFault_changes ..) (by decide)
  refine Changes.step ?_ (State.portMark_changes ..) (by decide)
  exact Changes.refl _ _

theorem State.hopDown_changes (s : State) (n : Nat) (job : Nat) :
    Changes [.regs] s (State.hopDown s n job) := by
  unfold State.hopDown
  refine Changes.step ?_ (State.raise_changes ..) (by decide)
  refine Changes.step ?_ (State.portMark_changes ..) (by decide)
  exact Changes.refl _ _

theorem State.commitBytes_changes (s : State) (slot : Nat) (src : Nat) (h : PktHdr) (ep : Nat) (job : Nat) (tc : Nat)
    (n : Nat) :
    Changes [.commits] s (State.commitBytes s slot src h ep job tc n) := by
  unfold State.commitBytes
  refine Changes.ite ?_ ?_
  · exact Changes.refl _ _
  · refine Changes.step ?_ Changes.commits (by decide)
    exact Changes.refl _ _

theorem State.commitArrival_changes (s : State) (a : Arrival) :
    Changes [.commits] s (State.commitArrival s a) := by
  unfold State.commitArrival
  refine Changes.step ?_ (State.commitBytes_changes ..) (by decide)
  exact Changes.refl _ _

theorem State.attachPkt_changes (s : State) (src : Nat) (msg : Option Nat) (xlate : Option Nat) (p : Packet) :
    Changes [.attach, .nextId] s (State.attachPkt s src msg xlate p) := by
  unfold State.attachPkt
  extract_lets a0
  clear_value a0
  refine Changes.step ?_ (State.numbered_changes ..) (by decide)
  refine Changes.step ?_ Changes.attach (by decide)
  exact Changes.refl _ _

theorem State.newMsg_changes (s : State) (o : Owner) (dev : Option Nat) :
    Changes [.msgs, .nextId] s (State.newMsg s o dev) := by
  unfold State.newMsg
  extract_lets a0
  clear_value a0
  refine Changes.step ?_ (State.numbered_changes ..) (by decide)
  refine Changes.step ?_ Changes.msgs (by decide)
  exact Changes.refl _ _

theorem State.openMsg_changes (s : State) (id : Nat) (dev : Nat) (slot : Nat) :
    Changes [.msgs, .msgSeq] s (State.openMsg s id dev slot) := by
  unfold State.openMsg
  extract_lets a0
  clear_value a0
  refine Changes.step ?_ Changes.msgs_msgSeq (by decide)
  exact Changes.refl _ _

theorem State.dropMsg_changes (s : State) (id : Nat) :
    Changes [.attach, .msgs] s (State.dropMsg s id) := by
  unfold State.dropMsg
  refine Changes.step ?_ Changes.attach_msgs (by decide)
  exact Changes.refl _ _

theorem State.queueResponse_changes (s : State) (n : Nat) (l : Nat) (hd : Word) :
    Changes [.eths] s (State.queueResponse s n l hd) := by
  unfold State.queueResponse
  extract_lets a0
  clear_value a0
  refine Changes.step ?_ (State.setEth_changes ..) (by decide)
  exact Changes.refl _ _

end Sys2Proof.Machine
end

