-- ==== Sys2Proof/Laws/Xbar.lean ====
section
/-!
SUPPORT. What each operation of Machine/Xbar.lean may change (`_changes`), and that those which write a memory keep its
canonical form (`_wf`).
-/

namespace Sys2Proof.Machine

theorem State.returnIdle_changes (s : State) (i : Nat) (j : Nat) (c : Nat) :
    Changes [.xbar] s (State.returnIdle s i j c) := by
  unfold State.returnIdle
  refine Changes.ite ?_ ?_
  · exact Changes.refl _ _
  · extract_lets a4 a5 a6
    clear_value a4
    clear_value a5
    clear_value a6
    refine Changes.step ?_ Changes.xbar (by decide)
    exact Changes.refl _ _

theorem State.returnAllIdle_changes (s : State) :
    Changes [.xbar] s (State.returnAllIdle s) := by
  unfold State.returnAllIdle
  refine Changes.foldl ?_ (fun u0 x1 => ?_)
  · exact Changes.refl _ _
  · refine Changes.step ?_ (State.returnIdle_changes ..) (by decide)
    exact Changes.refl _ _

theorem State.depart_changes (s : State) (e : XEntry) :
    Changes [.xbar] s (State.depart s e) := by
  unfold State.depart
  extract_lets a0 a1 a2
  clear_value a0
  clear_value a1
  clear_value a2
  split
  · split
    · exact Changes.refl _ _
    · refine Changes.ite ?_ ?_
      · refine Changes.step ?_ Changes.xbar (by decide)
        exact Changes.refl _ _
      · refine Changes.step ?_ Changes.xbar (by decide)
        exact Changes.refl _ _
  · refine Changes.ite ?_ ?_
    · refine Changes.ite ?_ ?_
      · refine Changes.step ?_ Changes.xbar (by decide)
        exact Changes.refl _ _
      · refine Changes.step ?_ Changes.xbar (by decide)
        exact Changes.refl _ _
    · refine Changes.ite ?_ ?_
      · refine Changes.step ?_ Changes.xbar (by decide)
        exact Changes.refl _ _
      · refine Changes.ite ?_ ?_
        · refine Changes.step ?_ Changes.xbar (by decide)
          exact Changes.refl _ _
        · refine Changes.step ?_ Changes.xbar (by decide)
          exact Changes.refl _ _

theorem State.purge_changes (s : State) (p : XEntry → Bool) :
    Changes [.xbar] s (State.purge s p) := by
  unfold State.purge
  extract_lets a0 a1 a2
  clear_value a0
  clear_value a1
  have h3 : Changes [.xbar] s a2 := by
    unfold a2
    refine Changes.step ?_ Changes.xbar (by decide)
    exact Changes.refl _ _
  clear_value a2
  refine Changes.foldl ?_ (fun u7 x8 => ?_)
  · assumption
  · refine Changes.step ?_ (State.depart_changes ..) (by decide)
    exact Changes.refl _ _

theorem State.countFlush_changes (s : State) (i : Nat) (j : Nat) (sub : Nat) (tc : Nat) :
    Changes [.xbar] s (State.countFlush s i j sub tc) := by
  unfold State.countFlush
  extract_lets a0 a1
  clear_value a0
  clear_value a1
  refine Changes.step ?_ Changes.xbar (by decide)
  exact Changes.refl _ _

theorem State.returnLinkCredit_changes (s : State) (e : XIn) :
    Changes [.links] s (State.returnLinkCredit s e) := by
  unfold State.returnLinkCredit
  split
  · exact Changes.refl _ _
  · extract_lets a7 a8 a9
    clear_value a7
    clear_value a8
    clear_value a9
    refine Changes.step ?_ (State.setLink_changes ..) (by decide)
    exact Changes.refl _ _

theorem State.syncCircuit_changes (s : State) (id : Nat) :
    Changes [.xbar] s (State.syncCircuit s id) := by
  unfold State.syncCircuit
  extract_lets a0 a1 a2 a3 a4
  clear_value a0
  clear_value a1
  clear_value a2
  clear_value a3
  clear_value a4
  refine Changes.ite ?_ ?_
  · refine Changes.step ?_ Changes.xbar (by decide)
    exact Changes.refl _ _
  · refine Changes.step ?_ Changes.xbar (by decide)
    exact Changes.refl _ _

theorem State.syncCircuits_changes (s : State) :
    Changes [.xbar] s (State.syncCircuits s) := by
  unfold State.syncCircuits
  refine Changes.ite ?_ ?_
  · refine Changes.foldl ?_ (fun u0 x1 => ?_)
    · exact Changes.refl _ _
    · refine Changes.step ?_ (State.syncCircuit_changes ..) (by decide)
      exact Changes.refl _ _
  · exact Changes.refl _ _

theorem State.enableXbar_changes (s : State) :
    Changes [.regs, .xbar] s (State.enableXbar s) := by
  unfold State.enableXbar
  extract_lets a0 a1 a2 a3
  clear_value a0
  clear_value a1
  have h0 : Changes [.regs, .xbar] s a2 := by
    unfold a2
    refine Changes.step ?_ (State.raise_changes ..) (by decide)
    refine Changes.step ?_ (State.setReg_changes ..) (by decide)
    exact Changes.refl _ _
  clear_value a2
  clear_value a3
  refine Changes.step ?_ (State.syncCircuits_changes ..) (by decide)
  refine Changes.step ?_ Changes.xbar (by decide)
  assumption

theorem State.writeXbarCtl_changes (s : State) (w : Word) :
    Changes [.regs, .xbar] s (State.writeXbarCtl s w) := by
  unfold State.writeXbarCtl
  refine Changes.ite ?_ ?_
  · refine Changes.ite ?_ ?_
    · exact Changes.refl _ _
    · refine Changes.step ?_ (State.enableXbar_changes ..) (by decide)
      exact Changes.refl _ _
  · refine Changes.ite ?_ ?_
    · refine Changes.ite ?_ ?_
      · refine Changes.step ?_ (State.lower_changes ..) (by decide)
        exact Changes.refl _ _
      · refine Changes.step ?_ (State.raise_changes ..) (by decide)
        exact Changes.refl _ _
    · exact Changes.refl _ _

theorem State.writeCpmin_changes (s : State) (w : Word) :
    Changes [.regs] s (State.writeCpmin s w) := by
  unfold State.writeCpmin
  extract_lets a0
  clear_value a0
  refine Changes.ite ?_ ?_
  · refine Changes.step ?_ (State.setReg_changes ..) (by decide)
    exact Changes.refl _ _
  · refine Changes.step ?_ (State.raise_changes ..) (by decide)
    exact Changes.refl _ _

theorem State.setMcg_changes (s : State) (g : Nat) (off : Nat) (w : Word) :
    Changes [.regs] s (State.setMcg s g off w) := by
  unfold State.setMcg
  refine Changes.ite ?_ ?_
  · exact Changes.refl _ _
  · refine Changes.ite ?_ ?_
    · refine Changes.ite ?_ ?_
      · refine Changes.step ?_ (State.setField_changes ..) (by decide)
        exact Changes.refl _ _
      · refine Changes.step ?_ (State.writeReg_changes ..) (by decide)
        exact Changes.refl _ _
    · refine Changes.ite ?_ ?_
      · exact Changes.refl _ _
      · extract_lets a0 a1 a2
        clear_value a0
        clear_value a1
        clear_value a2
        refine Changes.ite ?_ ?_
        · refine Changes.step ?_ (State.writeReg_changes ..) (by decide)
          exact Changes.refl _ _
        · refine Changes.ite ?_ ?_
          · refine Changes.step ?_ (State.writeReg_changes ..) (by decide)
            exact Changes.refl _ _
          · refine Changes.ite ?_ ?_
            · refine Changes.step ?_ (State.writeReg_changes ..) (by decide)
              exact Changes.refl _ _
            · refine Changes.step ?_ (State.writeReg_changes ..) (by decide)
              exact Changes.refl _ _

theorem State.writeMcg_changes (s : State) (g : Nat) (off : Nat) (w : Word) :
    Changes [.regs, .xbar] s (State.writeMcg s g off w) := by
  unfold State.writeMcg
  refine Changes.ite ?_ ?_
  · refine Changes.step ?_ (State.returnAllIdle_changes ..) (by decide)
    refine Changes.step ?_ (State.setMcg_changes ..) (by decide)
    exact Changes.refl _ _
  · refine Changes.step ?_ (State.setMcg_changes ..) (by decide)
    exact Changes.refl _ _

theorem State.unselect_changes (s : State) (p : XCommit → Bool) (pid : Nat) :
    Changes [.egress] s (State.unselect s p pid) := by
  unfold State.unselect
  extract_lets a0
  refine Changes.step ?_ Changes.egress (by decide)
  exact Changes.refl _ _

theorem State.queueEmptied_changes (s : State) (j : Nat) (sub : Nat) (tc : Nat) (i : Nat) :
    Changes [.egress] s (State.queueEmptied s j sub tc i) := by
  unfold State.queueEmptied
  extract_lets a0 a1 a2 a3 a4
  clear_value a0
  clear_value a1
  clear_value a2
  clear_value a4
  refine Changes.ite ?_ ?_
  · refine Changes.step ?_ (State.setEgr_changes ..) (by decide)
    exact Changes.refl _ _
  · exact Changes.refl _ _

theorem State.settleMarks_changes (s : State) :
    Changes [.xbar] s (State.settleMarks s) := by
  unfold State.settleMarks
  refine Changes.step ?_ Changes.xbar (by decide)
  exact Changes.refl _ _

theorem State.abortPacket_changes (s : State) (pid : Nat) :
    Changes [.xbar, .egress] s (State.abortPacket s pid) := by
  unfold State.abortPacket
  refine Changes.ite ?_ ?_
  · refine Changes.ite ?_ ?_
    · exact Changes.refl _ _
    · refine Changes.step ?_ Changes.xbar (by decide)
      exact Changes.refl _ _
  · extract_lets a0 a1 a2 a3 a4
    clear_value a0
    clear_value a1
    have h5 : Changes [.xbar, .egress] s a2 := by
      unfold a2
      refine Changes.step ?_ (State.unselect_changes ..) (by decide)
      refine Changes.step ?_ (State.purge_changes ..) (by decide)
      exact Changes.refl _ _
    clear_value a2
    have h6 : Changes [.xbar, .egress] s a3 := by
      unfold a3
      refine Changes.foldl ?_ (fun u7 x8 => ?_)
      · assumption
      · refine Changes.step ?_ (State.queueEmptied_changes ..) (by decide)
        exact Changes.refl _ _
    clear_value a3
    clear_value a4
    refine Changes.ite ?_ ?_
    · assumption
    · refine Changes.step ?_ Changes.xbar (by decide)
      assumption

theorem State.forgetPacket_changes (s : State) (pid : Nat) :
    Changes [.xbar] s (State.forgetPacket s pid) := by
  unfold State.forgetPacket
  refine Changes.step ?_ Changes.xbar (by decide)
  exact Changes.refl _ _

theorem State.returnIdles_changes (s : State) (i : Nat) (c : Nat) (js : List Nat) :
    Changes [.xbar] s (State.returnIdles s i c js) := by
  unfold State.returnIdles
  refine Changes.foldl ?_ (fun u0 x1 => ?_)
  · exact Changes.refl _ _
  · refine Changes.step ?_ (State.returnIdle_changes ..) (by decide)
    exact Changes.refl _ _

theorem State.dropWaiting_changes (s : State) (e : XIn) :
    Changes [.xbar, .links] s (State.dropWaiting s e) := by
  unfold State.dropWaiting
  split
  · extract_lets js x0 s1 s2 s3
    have h1 : Changes [.xbar, .links] s s1 := Changes.xbar.mono (by decide)
    clear_value s1
    have h2 : Changes [.xbar, .links] s s2 := h1.step (State.returnLinkCredit_changes ..) (by decide)
    clear_value s2
    have h3 : Changes [.xbar, .links] s s3 :=
      Changes.ite ((h2.step (State.forgetPacket_changes ..) (by decide)).step (State.settleMarks_changes ..) (by decide)) h2
    exact h3.step (State.returnIdles_changes ..) (by decide)
  · exact Changes.refl _ _

theorem State.advance_changes (s : State) (e : XIn) :
    Changes [.xbar, .links] s (State.advance s e) := by
  unfold State.advance
  extract_lets a0 a1 a2 a3 a4
  clear_value a0
  clear_value a1
  clear_value a2
  clear_value a3
  have h0 : Changes [.xbar, .links] s a4 := by
    unfold a4
    refine Changes.ite ?_ ?_
    · refine Changes.step ?_ (State.dropWaiting_changes ..) (by decide)
      exact Changes.refl _ _
    · refine Changes.step ?_ Changes.xbar (by decide)
      exact Changes.refl _ _
  clear_value a4
  refine Changes.step ?_ (State.returnIdle_changes ..) (by decide)
  assumption

theorem State.noteStart_changes (s : State) (e : XIn) (js : List Nat) :
    Changes [.xbar] s (State.noteStart s e js) := by
  unfold State.noteStart
  refine Changes.ite ?_ ?_
  · extract_lets a0 a1
    clear_value a0
    clear_value a1
    refine Changes.step ?_ Changes.xbar (by decide)
    exact Changes.refl _ _
  · exact Changes.refl _ _

theorem State.markLost_changes (s : State) (j : Nat) (sub : Nat) (job : Nat) :
    Changes [.regs] s (State.markLost s j sub job) := by
  unfold State.markLost
  refine Changes.ite ?_ ?_
  · split
    · refine Changes.step ?_ (State.hopDown_changes ..) (by decide)
      exact Changes.refl _ _
    · refine Changes.step ?_ (State.hopDown_changes ..) (by decide)
      exact Changes.refl _ _
    · exact Changes.refl _ _
  · exact Changes.refl _ _

theorem State.sendCell_changes (s : State) (i : Nat) :
    Changes [.regs, .xbar, .links, .egress, .nextId] s (State.sendCell s i) := by
  unfold State.sendCell
  refine Changes.ite ?_ ?_
  · exact Changes.refl _ _
  · split
    · exact Changes.refl _ _
    · split
      · exact Changes.refl _ _
      · refine Changes.step ?_ (State.dropWaiting_changes ..) (by decide)
        exact Changes.refl _ _
      · refine Changes.step ?_ (State.dropWaiting_changes ..) (by decide)
        exact Changes.refl _ _
      · extract_lets a4 a5 a6 a7
        have h8 : Changes [.regs, .xbar, .links, .egress, .nextId] s a4 := by
          unfold a4
          refine Changes.step ?_ (State.abortPacket_changes ..) (by decide)
          refine Changes.step ?_ (State.raise_changes ..) (by decide)
          exact Changes.refl _ _
        clear_value a4
        clear_value a6
        clear_value a7
        refine Changes.ite ?_ ?_
        · refine Changes.step ?_ Changes.xbar (by decide)
          assumption
        · refine Changes.step ?_ (State.dropWaiting_changes ..) (by decide)
          assumption
      · refine Changes.step ?_ (State.advance_changes ..) (by decide)
        refine Changes.step ?_ (State.markLost_changes ..) (by decide)
        refine Changes.step ?_ (State.countFlush_changes ..) (by decide)
        exact Changes.refl _ _
      · refine Changes.step ?_ (State.advance_changes ..) (by decide)
        refine Changes.step ?_ (State.raise_changes ..) (by decide)
        exact Changes.refl _ _
      · extract_lets a21 a22 a23 a24
        clear_value a21
        clear_value a22
        clear_value a23
        have h25 : Changes [.regs, .xbar, .links, .egress, .nextId] s a24 := by
          unfold a24
          refine Changes.step ?_ Changes.xbar (by decide)
          exact Changes.refl _ _
        clear_value a24
        refine Changes.step ?_ (State.advance_changes ..) (by decide)
        refine Changes.step ?_ (State.noteStart_changes ..) (by decide)
        assumption
      · extract_lets a30 a31 a32 a33 a34 a35 a36 a37 a38 a39
        clear_value a30
        clear_value a31
        clear_value a32
        clear_value a33
        clear_value a34
        clear_value a35
        clear_value a36
        clear_value a37
        have h40 : Changes [.regs, .xbar, .links, .egress, .nextId] s a38 := by
          unfold a38
          refine Changes.ite ?_ ?_
          · exact Changes.refl _ _
          · refine Changes.step ?_ (State.numbered_changes ..) (by decide)
            refine Changes.step ?_ Changes.xbar (by decide)
            exact Changes.refl _ _
        clear_value a38
        have h41 : Changes [.regs, .xbar, .links, .egress, .nextId] s a39 := by
          unfold a39
          refine Changes.foldl ?_ (fun u42 x43 => ?_)
          · assumption
          · refine Changes.ite ?_ ?_
            · refine Changes.step ?_ (State.markLost_changes ..) (by decide)
              refine Changes.step ?_ (State.countFlush_changes ..) (by decide)
              exact Changes.refl _ _
            · refine Changes.step ?_ (State.raise_changes ..) (by decide)
              exact Changes.refl _ _
        clear_value a39
        refine Changes.step ?_ (State.dropWaiting_changes ..) (by decide)
        refine Changes.step ?_ (State.noteStart_changes ..) (by decide)
        assumption

theorem State.grantOne_changes (s : State) :
    Changes [.xbar] s (State.grantOne s) := by
  unfold State.grantOne
  split
  · exact Changes.refl _ _
  · extract_lets a7 a8
    clear_value a7
    clear_value a8
    refine Changes.step ?_ Changes.xbar (by decide)
    exact Changes.refl _ _

theorem State.grantStored_changes (s : State) (i : Nat) (g : Nat) :
    Changes [.xbar] s (State.grantStored s i g) := by
  unfold State.grantStored
  extract_lets a0 a1
  clear_value a0
  clear_value a1
  refine Changes.ite ?_ ?_
  · refine Changes.step ?_ Changes.xbar (by decide)
    exact Changes.refl _ _
  · exact Changes.refl _ _

theorem State.takeEntry_changes (s : State) (e : XEntry) :
    Changes [.xbar] s (State.takeEntry s e) := by
  unfold State.takeEntry
  split
  · refine Changes.step ?_ (State.depart_changes ..) (by decide)
    refine Changes.step ?_ Changes.xbar (by decide)
    exact Changes.refl _ _
  · exact Changes.refl _ _

theorem State.noteCommit_changes (s : State) (e : XEntry) :
    Changes [.xbar] s (State.noteCommit s e) := by
  unfold State.noteCommit
  extract_lets c rest x k
  refine Changes.ite ?_ (Changes.ite Changes.xbar (Changes.refl _ _))
  exact Changes.trans Changes.xbar (State.settleMarks_changes ..)

theorem State.discardAborted_changes (s : State) (j : Nat) (cells : List Cell) :
    Changes [.regs, .cnt, .commits] s (State.discardAborted s j cells) := by
  unfold State.discardAborted
  split
  · exact Changes.refl _ _
  · extract_lets a10 a11
    have h12 : Changes [.regs, .cnt, .commits] s a10 := by
      unfold a10
      refine Changes.step ?_ (State.raise_changes ..) (by decide)
      refine Changes.step ?_ (State.markJob_changes ..) (by decide)
      refine Changes.step ?_ (State.incCtr_changes ..) (by decide)
      exact Changes.refl _ _
    clear_value a10
    clear_value a11
    refine Changes.step ?_ (State.commitBytes_changes ..) (by decide)
    assumption

theorem State.toClient_changes (s : State) (j : Nat) (c : Cell) :
    Changes [.regs, .cnt, .xbar, .inbox, .commits] s (State.toClient s j c) := by
  unfold State.toClient
  extract_lets a4 a5 a6 a7 a8 a9 a10 a11
  clear_value a5
  clear_value a6
  clear_value a7
  have h12 : Changes [.regs, .cnt, .xbar, .inbox, .commits] s a8 := by
    unfold a8
    refine Changes.step ?_ Changes.xbar (by decide)
    exact Changes.refl _ _
  clear_value a8
  clear_value a9
  clear_value a10
  clear_value a11
  refine Changes.ite ?_ ?_
  · refine Changes.step ?_ Changes.xbar (by decide)
    exact Changes.refl _ _
  · refine Changes.ite ?_ ?_
    · refine Changes.step ?_ (State.discardAborted_changes ..) (by decide)
      assumption
    · refine Changes.step ?_ Changes.inbox (by decide)
      assumption

theorem State.bufferError_changes (s : State) (e : XEntry) :
    Changes [.regs, .xbar, .egress] s (State.bufferError s e) := by
  unfold State.bufferError
  extract_lets a0
  have h1 : Changes [.regs, .xbar, .egress] s a0 := by
    unfold a0
    refine Changes.ite ?_ ?_
    · refine Changes.step ?_ (State.setReg_changes ..) (by decide)
      exact Changes.refl _ _
    · exact Changes.refl _ _
  clear_value a0
  refine Changes.step ?_ (State.abortPacket_changes ..) (by decide)
  refine Changes.step ?_ (State.raise_changes ..) (by decide)
  assumption

theorem State.discardEntry_changes (s : State) (e : XEntry) :
    Changes [.xbar, .egress] s (State.discardEntry s e) := by
  unfold State.discardEntry
  refine Changes.step ?_ (State.settleMarks_changes ..) (by decide)
  refine Changes.step ?_ (State.queueEmptied_changes ..) (by decide)
  refine Changes.step ?_ (State.unselect_changes ..) (by decide)
  refine Changes.step ?_ (State.takeEntry_changes ..) (by decide)
  exact Changes.refl _ _

theorem State.leave_changes {v : List Field} (hv : within [.regs, .xbar, .egress] v = true) {out : State → Cell → State}
    {s₀ s : State} (h₀ : Changes v s₀ s) (ho : ∀ t c, Changes v t (out t c)) (e : XEntry) (ue : Bool) :
    Changes v s₀ (State.leave s e ue out) := by
  have hm : ∀ {w : List Field}, within w [.regs, .xbar, .egress] = true → within w v = true := by
    intro w h
    rw [within, List.all_eq_true] at h ⊢
    intro f hf
    have := h f hf
    simpa using mem_of_within hv (by simpa using this)
  unfold State.leave
  extract_lets c begun whole s1 s2 bad s3
  have h1 : Changes v s₀ s1 := h₀.step (State.bufferError_changes ..) (hm (by decide))
  have h2 : Changes v s₀ s2 := Changes.ite h1 h₀
  have h3 : Changes v s₀ s3 :=
    (h2.step (State.takeEntry_changes ..) (hm (by decide))).step (State.noteCommit_changes ..) (hm (by decide))
  have drop : ∀ {t : State}, Changes v s₀ t → Changes v s₀ (t.discardEntry e) :=
    fun h => h.step (State.discardEntry_changes ..) (hm (by decide))
  clear_value s1 s2 s3
  refine Changes.ite (drop h₀) (Changes.ite ?_ (Changes.ite (Changes.ite h1 (drop h1)) (Changes.ite ?_ ?_)))
  · exact (h₀.step (State.takeEntry_changes ..) (hm (by decide))).step (State.raise_changes ..) (hm (by decide))
  · exact h2.step (State.takeEntry_changes ..) (hm (by decide))
  · exact h3.trans (ho _ _)

theorem State.leaveCell_changes (s : State) (j : Nat) (ue : Bool) :
    Changes [.regs, .cnt, .xbar, .egress, .inbox, .commits] s (State.leaveCell s j ue) := by
  unfold State.leaveCell
  refine Changes.ite ?_ ?_
  · split
    · refine State.leave_changes (v := [.regs, .cnt, .xbar, .egress, .inbox, .commits]) (by decide) ?_ (fun _ _ => ?_) _ _
      · exact Changes.refl _ _
      · refine Changes.step ?_ Changes.xbar (by decide)
        exact Changes.refl _ _
    · exact Changes.refl _ _
  · split
    · extract_lets a14 a15
      clear_value a14
      have h16 : Changes [.regs, .cnt, .xbar, .egress, .inbox, .commits] s a15 := by
        unfold a15
        refine Changes.step ?_ Changes.xbar (by decide)
        exact Changes.refl _ _
      clear_value a15
      refine State.leave_changes (v := [.regs, .cnt, .xbar, .egress, .inbox, .commits]) (by decide) ?_ (fun _ _ => ?_) _ _
      · assumption
      · refine Changes.step ?_ (State.toClient_changes ..) (by decide)
        exact Changes.refl _ _
    · exact Changes.refl _ _

theorem State.schedDown_changes (s : State) (n : Nat) (l : Nat) :
    Changes [.egress, .freeCtr] s (State.schedDown s n l) := by
  unfold State.schedDown
  extract_lets g cuts gone s1
  have h1 : Changes [.egress, .freeCtr] s s1 :=
    Changes.ite (Changes.refl _ _) ((Changes.refl _ s).step (State.drawn_changes ..) (by decide))
  exact h1.step (State.setEgr_changes ..) (by decide)

theorem State.dropTarget_changes (s : State) (e : XIn) (j : Nat) :
    Changes [.xbar, .links] s (State.dropTarget s e j) := by
  unfold State.dropTarget
  refine Changes.ite ?_ ?_
  · refine Changes.step ?_ (State.dropWaiting_changes ..) (by decide)
    exact Changes.refl _ _
  · extract_lets a0 a1
    clear_value a1
    refine Changes.step ?_ (State.returnIdle_changes ..) (by decide)
    refine Changes.step ?_ Changes.xbar (by decide)
    exact Changes.refl _ _

theorem State.outputDown_changes (s : State) (j : Nat) (sub : Nat) :
    Changes [.regs, .xbar, .links, .egress, .freeCtr] s (State.outputDown s j sub) := by
  unfold State.outputDown
  refine Changes.ite (Changes.refl _ _) ?_
  extract_lets s1 mine out s2 s3 waits s4 x0 s5
  have h1 : Changes [.regs, .xbar, .links, .egress, .freeCtr] s s1 :=
    ((Changes.refl _ s).step (State.raise_changes ..) (by decide)).step (State.raise_changes ..) (by decide)
  clear_value s1
  have h2 : Changes [.regs, .xbar, .links, .egress, .freeCtr] s s2 := h1.step (State.purge_changes ..) (by decide)
  clear_value s2
  have h3 : Changes [.regs, .xbar, .links, .egress, .freeCtr] s s3 :=
    h2.foldl fun _ _ => (State.countFlush_changes ..).mono (by decide)
  clear_value s3
  have h4 : Changes [.regs, .xbar, .links, .egress, .freeCtr] s s4 :=
    h3.foldl fun u _ => ((Changes.refl _ u).step (State.countFlush_changes ..) (by decide)).step
        (State.dropTarget_changes ..)
      (by decide)
  clear_value s4
  have h5 : Changes [.regs, .xbar, .links, .egress, .freeCtr] s s5 := h4.step Changes.xbar (by decide)
  clear_value s5
  exact ((h5.step (State.returnAllIdle_changes ..) (by decide)).step (State.settleMarks_changes ..) (by decide)).step
    (State.schedDown_changes ..) (by decide)

theorem State.flushDone_changes (s : State) (j : Nat) (sub : Nat) :
    Changes [.regs] s (State.flushDone s j sub) := by
  unfold State.flushDone
  refine Changes.ite ?_ ?_
  · refine Changes.step ?_ (State.raise_changes ..) (by decide)
    refine Changes.step ?_ (State.lower_changes ..) (by decide)
    exact Changes.refl _ _
  · exact Changes.refl _ _

theorem State.outputUp_changes (s : State) (j : Nat) (sub : Nat) :
    Changes [.regs, .shpT, .circT] s (State.outputUp s j sub) := by
  unfold State.outputUp
  refine Changes.ite ?_ ?_
  · exact Changes.refl _ _
  · extract_lets a0 a1 a2 a3 a4
    have h5 : Changes [.regs, .shpT, .circT] s a0 := by
      unfold a0
      refine Changes.step ?_ (State.lower_changes ..) (by decide)
      exact Changes.refl _ _
    clear_value a0
    clear_value a1
    clear_value a2
    have h3 : Changes [.regs, .shpT, .circT] s a4 := by
      unfold a4
      refine Changes.step ?_ Changes.shpT (by decide)
      assumption
    clear_value a4
    refine Changes.step ?_ Changes.circT (by decide)
    assumption

/-! ### Canonical form -/

theorem State.discardAborted_wf (s : State) (j : Nat) (cells : List Cell) :
    KeepsWf s (State.discardAborted s j cells) := by
  unfold State.discardAborted
  split
  · exact KeepsWf.refl _
  · extract_lets a4 a5 a6
    have h7 : KeepsWf s a4 := by
      unfold a4
      refine KeepsWf.trans ?_ (KeepsWf.of_changes (State.raise_changes ..) (by decide))
      refine KeepsWf.trans ?_ (KeepsWf.of_changes (State.markJob_changes ..) (by decide))
      refine KeepsWf.trans ?_ (State.incCtr_wf ..)
      exact KeepsWf.refl _
    clear_value a4
    clear_value a5
    clear_value a6
    refine KeepsWf.trans ?_ (KeepsWf.of_changes (State.commitBytes_changes ..) (by decide))
    assumption

theorem State.toClient_wf (s : State) (j : Nat) (c : Cell) :
    KeepsWf s (State.toClient s j c) := by
  unfold State.toClient
  extract_lets a0 a1 a2 a3 a4 a5 a6 a7
  clear_value a1
  clear_value a2
  clear_value a3
  have h8 : KeepsWf s a4 := by
    unfold a4
    refine KeepsWf.trans ?_ (KeepsWf.of_changes Changes.xbar (by decide))
    exact KeepsWf.refl _
  clear_value a4
  clear_value a5
  clear_value a6
  clear_value a7
  refine KeepsWf.ite ?_ ?_
  · refine KeepsWf.trans ?_ (KeepsWf.of_changes Changes.xbar (by decide))
    exact KeepsWf.refl _
  · refine KeepsWf.ite ?_ ?_
    · refine KeepsWf.trans ?_ (State.discardAborted_wf ..)
      assumption
    · refine KeepsWf.trans ?_ (KeepsWf.of_changes Changes.inbox (by decide))
      assumption

theorem State.leave_wf {out : State → Cell → State} {s₀ s : State} (h₀ : KeepsWf s₀ s) (ho : ∀ t c, KeepsWf t (out t c))
    (e : XEntry) (ue : Bool) : KeepsWf s₀ (State.leave s e ue out) := by
  have ht : ∀ t, KeepsWf t (t.takeEntry e) := fun _ => KeepsWf.of_changes (State.takeEntry_changes ..) (by decide)
  have hb : ∀ t, KeepsWf t (t.bufferError e) := fun _ => KeepsWf.of_changes (State.bufferError_changes ..) (by decide)
  have hn : ∀ t, KeepsWf t (t.noteCommit e) := fun _ => KeepsWf.of_changes (State.noteCommit_changes ..) (by decide)
  have hd : ∀ t, KeepsWf t (t.discardEntry e) := fun _ => KeepsWf.of_changes (State.discardEntry_changes ..) (by decide)
  unfold State.leave
  extract_lets c begun whole s1 s2 bad s3
  have h1 : KeepsWf s₀ s1 := h₀.trans (hb _)
  have h2 : KeepsWf s₀ s2 := KeepsWf.ite h1 h₀
  have h3 : KeepsWf s₀ s3 := (h2.trans (ht _)).trans (hn _)
  clear_value s1 s2 s3
  refine KeepsWf.ite (h₀.trans (hd _)) (KeepsWf.ite ?_ (KeepsWf.ite (KeepsWf.ite h1 (h1.trans (hd _))) (KeepsWf.ite ?_ ?_)))
  · exact (h₀.trans (ht _)).trans (KeepsWf.of_changes (State.raise_changes ..) (by decide))
  · exact h2.trans (ht _)
  · exact h3.trans (ho _ _)

theorem State.leaveCell_wf (s : State) (j : Nat) (ue : Bool) :
    KeepsWf s (State.leaveCell s j ue) := by
  unfold State.leaveCell
  refine KeepsWf.ite ?_ ?_
  · split
    · refine State.leave_wf ?_ (fun _ _ => ?_) _ _
      · exact KeepsWf.refl _
      · refine KeepsWf.trans ?_ (KeepsWf.of_changes Changes.xbar (by decide))
        exact KeepsWf.refl _
    · exact KeepsWf.refl _
  · split
    · extract_lets a17 a18
      clear_value a17
      have h19 : KeepsWf s a18 := by
        unfold a18
        refine KeepsWf.trans ?_ (KeepsWf.of_changes Changes.xbar (by decide))
        exact KeepsWf.refl _
      clear_value a18
      refine State.leave_wf ?_ (fun _ _ => ?_) _ _
      · assumption
      · refine KeepsWf.trans ?_ (State.toClient_wf ..)
        exact KeepsWf.refl _
    · exact KeepsWf.refl _

end Sys2Proof.Machine
end

