-- ==== Sys2Proof/Laws/Links.lean ====
section
/-!
SUPPORT. What each operation of Machine/Links.lean may change (`_changes`), and that those which write a memory keep its
canonical form (`_wf`).
-/

namespace Sys2Proof.Machine

theorem State.sendFlit_changes (s : State) (n : Nat) (l : Nat) (j : Nat) (k : Link) (f : Flit) (bad : Bool) :
    Changes [.links] s (State.sendFlit s n l j k f bad) := by
  unfold State.sendFlit
  split
  · extract_lets a16 a17 a18
    clear_value a16
    clear_value a17
    clear_value a18
    refine Changes.step ?_ (State.setLink_changes ..) (by decide)
    exact Changes.refl _ _

theorem State.fromLane_changes (s : State) (n : Nat) (l : Nat) (j : Nat) :
    Changes [.links] s (State.fromLane s n l j) := by
  unfold State.fromLane
  extract_lets a0 a1
  clear_value a0
  clear_value a1
  refine Changes.step ?_ (State.setLink_changes ..) (by decide)
  exact Changes.refl _ _

theorem State.takeCell_changes (s : State) (j : Nat) (sub : Nat) :
    Changes [.regs, .xbar, .egress] s (State.takeCell s j sub) := by
  unfold State.takeCell
  refine Changes.ite ?_ ?_
  · exact Changes.refl _ _
  · split
    · exact Changes.refl _ _
    · extract_lets a9 a10 a11 a12 a13 a14 a15
      clear_value a9
      clear_value a10
      clear_value a11
      have h16 : Changes [.regs, .xbar, .egress] s a12 := by
        unfold a12
        refine Changes.step ?_ Changes.xbar (by decide)
        exact Changes.refl _ _
      clear_value a12
      clear_value a13
      clear_value a14
      clear_value a15
      split
      · refine Changes.step ?_ (State.hopDown_changes ..) (by decide)
        refine Changes.step ?_ (State.setEgr_changes ..) (by decide)
        assumption
      · refine Changes.step ?_ (State.hopDown_changes ..) (by decide)
        refine Changes.step ?_ (State.setEgr_changes ..) (by decide)
        assumption
      · refine Changes.step ?_ (State.setEgr_changes ..) (by decide)
        assumption

theorem State.takeAll_changes (s : State) (j : Nat) (sub : Nat) :
    Changes [.regs, .xbar, .egress] s (State.takeAll s j sub) := by
  unfold State.takeAll
  refine Changes.foldl ?_ (fun u0 x1 => ?_)
  · exact Changes.refl _ _
  · refine Changes.step ?_ (State.takeCell_changes ..) (by decide)
    exact Changes.refl _ _

theorem State.outputCut_changes (s : State) (j : Nat) (sub : Nat) :
    Changes [.regs, .xbar, .links, .egress, .freeCtr] s (State.outputCut s j sub) := by
  unfold State.outputCut
  refine Changes.ite ?_ ?_
  · exact Changes.refl _ _
  · refine Changes.step ?_ (State.outputDown_changes ..) (by decide)
    refine Changes.step ?_ (State.takeAll_changes ..) (by decide)
    exact Changes.refl _ _

theorem State.writeOutctl_changes (s : State) (j : Nat) (w : Word) :
    Changes [.regs, .xbar, .links, .egress, .shpT, .circT, .freeCtr] s (State.writeOutctl s j w) := by
  unfold State.writeOutctl
  refine Changes.ite (Changes.refl _ _) ((Changes.refl _ _).foldl fun u sub => Changes.ite ?_ ?_)
  · exact (Changes.refl _ u).step (State.outputCut_changes ..) (by decide)
  · exact (Changes.refl _ u).step (State.outputUp_changes ..) (by decide)

theorem State.cutReceived_changes (s : State) (n : Nat) (l : Nat) (j : Nat) :
    Changes [.xbar, .freeCtr] s (State.cutReceived s n l j) := by
  unfold State.cutReceived
  extract_lets k mine waiting cand firsts ends s1 queues x0 s2
  have h1 : Changes [.xbar, .freeCtr] s s1 :=
    Changes.ite (Changes.refl _ _) ((Changes.refl _ s).step (State.drawn_changes ..) (by decide))
  have h2 : Changes [.xbar, .freeCtr] s s2 := h1.step Changes.xbar (by decide)
  exact h2.foldl fun _ _ => (State.returnIdles_changes ..).mono (by decide)

theorem State.flushLink_changes (s : State) (n : Nat) (l : Nat) (j : Nat) (sub : Nat) (st : LinkState) :
    Changes [.regs, .xbar, .links, .egress, .freeCtr] s (State.flushLink s n l j sub st).1 := by
  unfold State.flushLink
  extract_lets jobs s1 s2 x0 s3 k x1 s4 s5
  have h1 : Changes [.regs, .xbar, .links, .egress, .freeCtr] s s1 :=
    (Changes.refl _ s).step (State.cutReceived_changes ..) (by decide)
  clear_value s1
  have h2 : Changes [.regs, .xbar, .links, .egress, .freeCtr] s s2 := h1.step (State.outputDown_changes ..) (by decide)
  clear_value s2
  have h3 : Changes [.regs, .xbar, .links, .egress, .freeCtr] s s3 := h2.step (State.setEgr_changes ..) (by decide)
  clear_value s3
  have h4 : Changes [.regs, .xbar, .links, .egress, .freeCtr] s s4 := h3.step (State.setLink_changes ..) (by decide)
  clear_value s4
  have h5 : Changes [.regs, .xbar, .links, .egress, .freeCtr] s s5 := h4.step (State.takeAll_changes ..) (by decide)
  clear_value s5
  exact h5.foldl fun _ _ => (State.portMark_changes ..).mono (by decide)

theorem State.linkLost_changes (s : State) (n : Nat) (l : Nat) :
    Changes [.regs] s (State.linkLost s n l) := by
  unfold State.linkLost
  refine Changes.step ?_ (State.raise_changes ..) (by decide)
  refine Changes.step ?_ (State.portFault_changes ..) (by decide)
  exact Changes.refl _ _

theorem State.failLink_changes (s : State) (n : Nat) (l : Nat) (j : Nat) (sub : Nat) :
    Changes [.regs, .xbar, .links, .egress, .freeCtr] s (State.failLink s n l j sub) := by
  unfold State.failLink
  split
  · rename_i y2 y3 y4 y5
    have h6 : Changes [.regs, .xbar, .links, .egress, .freeCtr] s y3 := by
      refine Changes.of_fst ?_ y5
      refine Changes.step ?_ (State.flushLink_changes ..) (by decide)
      exact Changes.refl _ _
    refine Changes.step ?_ (State.raise_changes ..) (by decide)
    refine Changes.step ?_ (State.linkLost_changes ..) (by decide)
    assumption

theorem State.retrain_changes (s : State) (n : Nat) (l : Nat) :
    Changes [.regs, .links] s (State.retrain s n l) := by
  unfold State.retrain
  extract_lets a1 a2
  clear_value a1
  have h3 : Changes [.regs, .links] s a2 := by
    unfold a2
    refine Changes.step ?_ (State.setLink_changes ..) (by decide)
    exact Changes.refl _ _
  clear_value a2
  refine Changes.ite ?_ ?_
  · refine Changes.step ?_ (State.raise_changes ..) (by decide)
    refine Changes.step ?_ (State.raise_changes ..) (by decide)
    refine Changes.step ?_ (State.count_changes ..) (by decide)
    assumption
  · exact Changes.refl _ _

theorem State.writePortCfg_changes (s : State) (n : Nat) (l : Nat) (w : Word) :
    Changes [.regs, .xbar, .links, .egress, .freeCtr] s (State.writePortCfg s n l w) := by
  have flush : ∀ (t : State) (j sub : Nat), Changes [.regs, .xbar, .links, .egress, .freeCtr] s t →
      Changes [.regs, .xbar, .links, .egress, .freeCtr] s
        (if (t.flushLink n l j sub .down).2.isEmpty then (t.flushLink n l j sub .down).1
         else (t.flushLink n l j sub .down).1.linkLost n l) := by
    intro t j sub h
    have h1 := h.step (State.flushLink_changes t n l j sub .down) (by decide)
    exact Changes.ite h1 (h1.step (State.linkLost_changes ..) (by decide))
  unfold State.writePortCfg
  extract_lets k s1
  have h1 : Changes [.regs, .xbar, .links, .egress, .freeCtr] s s1 :=
    (Changes.refl _ s).step (State.writeReg_changes ..) (by decide)
  have cause : ∀ {t : State}, Changes [.regs, .xbar, .links, .egress, .freeCtr] s t →
      Changes [.regs, .xbar, .links, .egress, .freeCtr] s (t.raise (R.portCause n) 5) :=
    fun h => h.step (State.raise_changes ..) (by decide)
  refine Changes.ite ?_ ?_
  · split
    · exact cause (Changes.refl _ _)
    · refine Changes.ite (cause (Changes.refl _ _)) (Changes.ite (cause h1) (Changes.ite ?_ h1))
      exact h1.step (State.setLink_changes ..) (by decide)
  · split
    · exact h1
    · refine Changes.ite h1 (Changes.ite (h1.step (State.setLink_changes ..) (by decide)) ?_)
      exact flush s1 _ _ h1

theorem State.trained_changes (s : State) (n : Nat) (l : Nat) (peerDev : Nat) (peerLane : Nat) :
    Changes [.regs, .xbar, .links, .egress, .freeCtr] s (State.trained s n l peerDev peerLane) := by
  unfold State.trained
  extract_lets a0 a1 a2 a3 a4
  clear_value a0
  clear_value a1
  have h4 : Changes [.regs, .xbar, .links, .egress, .freeCtr] s a2 := by
    unfold a2
    refine Changes.step ?_ (State.setLink_changes ..) (by decide)
    exact Changes.refl _ _
  clear_value a2
  clear_value a3
  clear_value a4
  split
  · exact Changes.refl _ _
  · refine Changes.ite ?_ ?_
    · exact Changes.refl _ _
    · refine Changes.ite ?_ ?_
      · refine Changes.step ?_ (State.failLink_changes ..) (by decide)
        refine Changes.step ?_ (State.raise_changes ..) (by decide)
        assumption
      · refine Changes.step ?_ (State.setLink_changes ..) (by decide)
        assumption

theorem State.writeSlotcfg_changes (s : State) (n : Nat) (k : Nat) (w : Word) :
    Changes [.regs, .xbar] s (State.writeSlotcfg s n k w) := by
  unfold State.writeSlotcfg
  extract_lets a0 a1 a2 a3
  clear_value a0
  have h4 : Changes [.regs, .xbar] s a1 := by
    unfold a1
    refine Changes.step ?_ (State.writeReg_changes ..) (by decide)
    exact Changes.refl _ _
  clear_value a1
  have h5 : Changes [.regs, .xbar] s a2 := by
    unfold a2
    refine Changes.step ?_ (State.returnAllIdle_changes ..) (by decide)
    assumption
  clear_value a2
  clear_value a3
  refine Changes.ite ?_ ?_
  · refine Changes.step ?_ (State.raise_changes ..) (by decide)
    exact Changes.refl _ _
  · refine Changes.ite ?_ ?_
    · refine Changes.step ?_ (State.raise_changes ..) (by decide)
      assumption
    · assumption

theorem State.askReplay_changes (s : State) (n : Nat) (l : Nat) :
    Changes [.regs, .cnt, .links] s (State.askReplay s n l) := by
  unfold State.askReplay
  extract_lets a2 a3 a4 a5 a6 a7
  clear_value a2
  clear_value a3
  have h14 : Changes [.regs, .cnt, .links] s a4 := by
    unfold a4
    refine Changes.step ?_ (State.setLink_changes ..) (by decide)
    exact Changes.refl _ _
  clear_value a4
  have h13 : Changes [.regs, .cnt, .links] s a5 := by
    unfold a5
    refine Changes.step ?_ (State.incCtr_changes ..) (by decide)
    assumption
  clear_value a5
  clear_value a6
  have h2 : Changes [.regs, .cnt, .links] s a7 := by
    unfold a7
    refine Changes.step ?_ (State.setLink_changes ..) (by decide)
    assumption
  clear_value a7
  refine Changes.ite ?_ ?_
  · refine Changes.step ?_ (State.retrain_changes ..) (by decide)
    assumption
  · assumption

theorem State.freeRxBuffer_changes (s : State) (n : Nat) (l : Nat) (f : Flit) :
    Changes [.links] s (State.freeRxBuffer s n l f) := by
  unfold State.freeRxBuffer
  extract_lets a0 a1
  clear_value a0
  clear_value a1
  refine Changes.step ?_ (State.setLink_changes ..) (by decide)
  exact Changes.refl _ _

theorem State.placeFlit_changes (s : State) (n : Nat) (l : Nat) (j : Nat) (d0 : RxDec) (f : Flit) :
    Changes [.xbar, .links, .commits] s (State.placeFlit s n l j d0 f) := by
  unfold State.placeFlit
  extract_lets a0 a1 a2 a3 a4 a5 a6 a7
  clear_value a0
  clear_value a1
  have h14 : Changes [.xbar, .links, .commits] s a2 := by
    unfold a2
    refine Changes.step ?_ (State.freeRxBuffer_changes ..) (by decide)
    exact Changes.refl _ _
  clear_value a2
  clear_value a3
  clear_value a4
  have h11 : Changes [.xbar, .links, .commits] s a5 := by
    unfold a5
    refine Changes.ite ?_ ?_
    · refine Changes.ite ?_ ?_
      · refine Changes.step ?_ (State.commitBytes_changes ..) (by decide)
        assumption
      · assumption
    · refine Changes.step ?_ Changes.xbar (by decide)
      exact Changes.refl _ _
  clear_value a5
  clear_value a6
  refine Changes.ite ?_ ?_
  · refine Changes.step ?_ (State.setLink_changes ..) (by decide)
    assumption
  · refine Changes.step ?_ (State.setLink_changes ..) (by decide)
    assumption

theorem State.police_changes (s : State) (n : Nat) (l : Nat) (f : Flit) :
    Changes [.regs, .polT] s (State.police s n l f).1 := by
  unfold State.police
  split
  · refine Changes.mkFst ?_
    exact Changes.refl _ _
  · extract_lets a7 a8 a9 a10
    clear_value a7
    clear_value a8
    clear_value a9
    have h12 : Changes [.regs, .polT] s a10 := by
      unfold a10
      refine Changes.ite ?_ ?_
      · exact Changes.refl _ _
      · refine Changes.step ?_ (State.count_changes ..) (by decide)
        exact Changes.refl _ _
    clear_value a10
    refine Changes.iteFst ?_ ?_
    · refine Changes.mkFst ?_
      exact Changes.refl _ _
    · refine Changes.iteFst ?_ ?_
      · refine Changes.mkFst ?_
        refine Changes.step ?_ Changes.polT (by decide)
        exact Changes.refl _ _
      · refine Changes.iteFst ?_ ?_
        · refine Changes.mkFst ?_
          refine Changes.step ?_ (State.raise_changes ..) (by decide)
          refine Changes.step ?_ (State.portMark_changes ..) (by decide)
          assumption
        · refine Changes.mkFst ?_
          assumption

theorem State.acceptData_changes (s : State) (n : Nat) (l : Nat) (j : Nat) (f : Flit) :
    Changes [.regs, .xbar, .links, .polT, .commits, .nextId] s (State.acceptData s n l j f) := by
  unfold State.acceptData
  extract_lets a3
  clear_value a3
  split
  · rename_i y13 y14 y15 y16
    have h17 : Changes [.regs, .xbar, .links, .polT, .commits, .nextId] s y14 := by
      refine Changes.of_fst ?_ y16
      refine Changes.iteFst ?_ ?_
      · refine Changes.step ?_ (State.police_changes ..) (by decide)
        exact Changes.refl _ _
      · refine Changes.mkFst ?_
        exact Changes.refl _ _
    extract_lets a18 a19 a20 a21
    clear_value a18
    clear_value a19
    have h22 : Changes [.regs, .xbar, .links, .polT, .commits, .nextId] s a20 := by
      unfold a20
      refine Changes.ite ?_ ?_
      · refine Changes.step ?_ (State.setLink_changes ..) (by decide)
        assumption
      · refine Changes.ite ?_ ?_
        · assumption
        · refine Changes.ite ?_ ?_
          · refine Changes.step ?_ (State.setLink_changes ..) (by decide)
            assumption
          · refine Changes.step ?_ (State.numbered_changes ..) (by decide)
            refine Changes.step ?_ (State.setLink_changes ..) (by decide)
            assumption
    clear_value a20
    clear_value a21
    split
    · refine Changes.ite ?_ ?_
      · refine Changes.step ?_ (State.setLink_changes ..) (by decide)
        assumption
      · refine Changes.step ?_ (State.placeFlit_changes ..) (by decide)
        assumption
    · refine Changes.step ?_ (State.setLink_changes ..) (by decide)
      assumption

theorem State.receiveFlit_changes (s : State) (n : Nat) (l : Nat) (f : Flit) :
    Changes [.regs, .cnt, .xbar, .links, .polT, .commits, .nextId] s (State.receiveFlit s n l f) := by
  unfold State.receiveFlit
  split
  · exact Changes.refl _ _
  · extract_lets st s1 k k1 k2 k3
    refine Changes.ite (Changes.refl _ _) ?_
    have h1 : Changes [.regs, .cnt, .xbar, .links, .polT, .commits, .nextId] s s1 :=
      (Changes.refl _ s).step (State.fromLane_changes ..) (by decide)
    have setL : ∀ (k : Link), Changes [.regs, .cnt, .xbar, .links, .polT, .commits, .nextId] s (s1.setLink n l k) :=
      fun _ => h1.step (State.setLink_changes ..) (by decide)
    clear_value s1
    refine Changes.ite ?_ (Changes.ite (setL _) (Changes.ite (setL _) (Changes.ite (setL _) (Changes.ite ?_
      (Changes.ite (setL _) ?_)))))
    · exact ((h1.step (State.incCtr_changes ..) (by decide)).step (State.setLink_changes ..) (by decide)).step
        (State.askReplay_changes ..) (by decide)
    · exact (setL _).step (State.acceptData_changes ..) (by decide)
    · exact (setL _).step (State.askReplay_changes ..) (by decide)

theorem State.replayFrom_changes (s : State) (n : Nat) (l : Nat) (ack : Nat) :
    Changes [.links] s (State.replayFrom s n l ack) := by
  unfold State.replayFrom
  extract_lets a0 a1
  clear_value a0
  clear_value a1
  refine Changes.ite ?_ ?_
  · refine Changes.step ?_ (State.setLink_changes ..) (by decide)
    exact Changes.refl _ _
  · exact Changes.refl _ _

theorem State.transmitFlit_changes (s : State) (n : Nat) (l : Nat) :
    Changes [.links, .egress] s (State.transmitFlit s n l) := by
  unfold State.transmitFlit
  split
  · exact Changes.refl _ _
  · extract_lets a6 a7 a8
    clear_value a6
    clear_value a8
    refine Changes.ite ?_ ?_
    · exact Changes.refl _ _
    · split
      · refine Changes.step ?_ (State.sendFlit_changes ..) (by decide)
        exact Changes.refl _ _
      · refine Changes.ite ?_ ?_
        · exact Changes.refl _ _
        · split
          · refine Changes.step ?_ (State.sendFlit_changes ..) (by decide)
            exact Changes.refl _ _
          · split
            · refine Changes.step ?_ (State.sendFlit_changes ..) (by decide)
              exact Changes.refl _ _
            · extract_lets a26 a27 a28 a29 a30
              clear_value a26
              clear_value a27
              have h31 : Changes [.links, .egress] s a28 := by
                unfold a28
                refine Changes.step ?_ (State.setEgr_changes ..) (by decide)
                exact Changes.refl _ _
              clear_value a28
              clear_value a29
              clear_value a30
              refine Changes.step ?_ (State.sendFlit_changes ..) (by decide)
              assumption

theorem State.ackControl_changes (s : State) (n : Nat) (l : Nat) :
    Changes [.links] s (State.ackControl s n l) := by
  unfold State.ackControl
  extract_lets a0
  clear_value a0
  refine Changes.ite ?_ ?_
  · refine Changes.step ?_ (State.setLink_changes ..) (by decide)
    exact Changes.refl _ _
  · exact Changes.refl _ _

/-! ### Canonical form -/

theorem State.askReplay_wf (s : State) (n : Nat) (l : Nat) :
    KeepsWf s (State.askReplay s n l) := by
  unfold State.askReplay
  extract_lets a0 a1 a2 a3 a4 a5
  clear_value a0
  clear_value a1
  have h6 : KeepsWf s a2 := by
    unfold a2
    refine KeepsWf.trans ?_ (KeepsWf.of_changes (State.setLink_changes ..) (by decide))
    exact KeepsWf.refl _
  clear_value a2
  have h7 : KeepsWf s a3 := by
    unfold a3
    refine KeepsWf.trans ?_ (State.incCtr_wf ..)
    assumption
  clear_value a3
  clear_value a4
  have h20 : KeepsWf s a5 := by
    unfold a5
    refine KeepsWf.trans ?_ (KeepsWf.of_changes (State.setLink_changes ..) (by decide))
    assumption
  clear_value a5
  refine KeepsWf.ite ?_ ?_
  · refine KeepsWf.trans ?_ (KeepsWf.of_changes (State.retrain_changes ..) (by decide))
    assumption
  · assumption

theorem State.receiveFlit_wf (s : State) (n : Nat) (l : Nat) (f : Flit) :
    KeepsWf s (State.receiveFlit s n l f) := by
  unfold State.receiveFlit
  split
  · exact KeepsWf.refl _
  · extract_lets a14 a15 a16 a17 a18 a19
    clear_value a14
    have h21 : KeepsWf s a15 := by
      unfold a15
      refine KeepsWf.trans ?_ (KeepsWf.of_changes (State.fromLane_changes ..) (by decide))
      exact KeepsWf.refl _
    clear_value a15
    clear_value a16
    clear_value a17
    clear_value a18
    clear_value a19
    refine KeepsWf.ite ?_ ?_
    · exact KeepsWf.refl _
    · refine KeepsWf.ite ?_ ?_
      · refine KeepsWf.trans ?_ (State.askReplay_wf ..)
        refine KeepsWf.trans ?_ (KeepsWf.of_changes (State.setLink_changes ..) (by decide))
        refine KeepsWf.trans ?_ (State.incCtr_wf ..)
        assumption
      · refine KeepsWf.ite ?_ ?_
        · refine KeepsWf.trans ?_ (KeepsWf.of_changes (State.setLink_changes ..) (by decide))
          assumption
        · refine KeepsWf.ite ?_ ?_
          · refine KeepsWf.trans ?_ (KeepsWf.of_changes (State.setLink_changes ..) (by decide))
            assumption
          · refine KeepsWf.ite ?_ ?_
            · refine KeepsWf.trans ?_ (KeepsWf.of_changes (State.setLink_changes ..) (by decide))
              assumption
            · refine KeepsWf.ite ?_ ?_
              · refine KeepsWf.trans ?_ (KeepsWf.of_changes (State.acceptData_changes ..) (by decide))
                refine KeepsWf.trans ?_ (KeepsWf.of_changes (State.setLink_changes ..) (by decide))
                assumption
              · refine KeepsWf.ite ?_ ?_
                · refine KeepsWf.trans ?_ (KeepsWf.of_changes (State.setLink_changes ..) (by decide))
                  assumption
                · refine KeepsWf.trans ?_ (State.askReplay_wf ..)
                  refine KeepsWf.trans ?_ (KeepsWf.of_changes (State.setLink_changes ..) (by decide))
                  assumption

end Sys2Proof.Machine
end

