-- ==== Sys2Proof/Laws/Ni.lean ====
section
/-!
SUPPORT. What each operation of Machine/Ni.lean may change (`_changes`), and that those which write a memory keep its
canonical form (`_wf`).
-/

namespace Sys2Proof.Machine

theorem State.endDma_changes (s : State) (u : Nat) (ord : Nat) :
    Changes [.cores] s (State.endDma s u ord) := by
  unfold State.endDma
  extract_lets a0
  clear_value a0
  refine Changes.step ?_ (State.setCore_changes ..) (by decide)
  exact Changes.refl _ _

theorem State.dmaDone_changes (s : State) (u : Nat) (ord : Nat) :
    Changes [.cores] s (State.dmaDone s u ord) := by
  unfold State.dmaDone
  extract_lets a1
  clear_value a1
  refine Changes.step ?_ (State.setCore_changes ..) (by decide)
  exact Changes.refl _ _

theorem State.signalled_changes (s : State) (o : OutPkt) (entered : Bool) :
    Changes [.cores] s (State.signalled s o entered) := by
  unfold State.signalled
  split
  · refine Changes.ite ?_ ?_
    · refine Changes.step ?_ (State.dmaDone_changes ..) (by decide)
      exact Changes.refl _ _
    · refine Changes.step ?_ (State.endDma_changes ..) (by decide)
      exact Changes.refl _ _
  · exact Changes.refl _ _

theorem State.failMsg_changes (s : State) (id : Nat) :
    Changes [.attach, .msgs, .cores] s (State.failMsg s id) := by
  unfold State.failMsg
  split
  · extract_lets a3
    have h4 : Changes [.attach, .msgs, .cores] s a3 := by
      unfold a3
      refine Changes.step ?_ (State.dropMsg_changes ..) (by decide)
      exact Changes.refl _ _
    clear_value a3
    split
    · refine Changes.step ?_ (State.endDma_changes ..) (by decide)
      assumption
    · assumption
  · exact Changes.refl _ _

theorem State.enterXbar_changes (s : State) (src : Nat) (p : Packet) (d : Dest) (ep : Nat) (circ : Option Nat) :
    Changes [.xbar, .nextId] s (State.enterXbar s src p d ep circ) := by
  unfold State.enterXbar
  extract_lets a0 a1
  clear_value a0
  clear_value a1
  refine Changes.step ?_ (State.numbered_changes ..) (by decide)
  refine Changes.step ?_ Changes.xbar (by decide)
  exact Changes.refl _ _

theorem State.applyInject_changes (s : State) (o : OutPkt) (d : Decision) :
    Changes [.regs, .xbar, .attach, .msgs, .commits, .cores, .nextId, .freeCtr] s (State.applyInject s o d) := by
  unfold State.applyInject
  extract_lets a0 a1 a2 a3 a4 a5 a6
  clear_value a0
  clear_value a1
  have h2 : Changes [.regs, .xbar, .attach, .msgs, .commits, .cores, .nextId, .freeCtr] s a2 := by
    unfold a2
    refine Changes.step ?_ (State.signalled_changes ..) (by decide)
    exact Changes.refl _ _
  clear_value a2
  clear_value a3
  have h2 : Changes [.regs, .xbar, .attach, .msgs, .commits, .cores, .nextId, .freeCtr] s a4 := by
    unfold a4
    refine Changes.step ?_ (State.drawn_changes ..) (by decide)
    refine Changes.step ?_ (State.xlateFail_changes ..) (by decide)
    assumption
  clear_value a4
  clear_value a5
  have h0 : Changes [.regs, .xbar, .attach, .msgs, .commits, .cores, .nextId, .freeCtr] s a6 := by
    unfold a6
    refine Changes.step ?_ (State.drawn_changes ..) (by decide)
    refine Changes.step ?_ (State.raise_changes ..) (by decide)
    assumption
  clear_value a6
  split
  · refine Changes.step ?_ (State.enterXbar_changes ..) (by decide)
    assumption
  · refine Changes.step ?_ (State.enterXbar_changes ..) (by decide)
    assumption
  · split
    · refine Changes.step ?_ (State.failMsg_changes ..) (by decide)
      assumption
    · assumption
  · refine Changes.step ?_ (State.commitBytes_changes ..) (by decide)
    refine Changes.step ?_ (State.drawn_changes ..) (by decide)
    refine Changes.step ?_ (State.xlateFail_changes ..) (by decide)
    refine Changes.step ?_ (State.raise_changes ..) (by decide)
    assumption
  · refine Changes.ite ?_ ?_
    · refine Changes.step ?_ (State.commitBytes_changes ..) (by decide)
      assumption
    · assumption
  · refine Changes.step ?_ (State.hopDown_changes ..) (by decide)
    assumption

theorem State.inject_changes (s : State) (i : Nat) :
    Changes [.regs, .xbar, .attach, .msgs, .msgSeq, .commits, .cores, .nextId, .freeCtr] s (State.inject s i) := by
  unfold State.inject
  refine Changes.ite ?_ ?_
  · exact Changes.refl _ _
  · extract_lets a0 a1
    clear_value a0
    have h8 : Changes [.regs, .xbar, .attach, .msgs, .msgSeq, .commits, .cores, .nextId, .freeCtr] s a1 := by
      unfold a1
      refine Changes.foldl ?_ (fun u11 x12 => ?_)
      · exact Changes.refl _ _
      · split
        · extract_lets a20
          refine Changes.step ?_ Changes.msgs (by decide)
          exact Changes.refl _ _
        · exact Changes.refl _ _
    clear_value a1
    split
    · assumption
    · extract_lets a13 a14 a15
      clear_value a13
      have h16 : Changes [.regs, .xbar, .attach, .msgs, .msgSeq, .commits, .cores, .nextId, .freeCtr] s a14 := by
        unfold a14
        refine Changes.step ?_ Changes.attach (by decide)
        assumption
      clear_value a14
      clear_value a15
      split
      · extract_lets a11
        have h12 : Changes [.regs, .xbar, .attach, .msgs, .msgSeq, .commits, .cores, .nextId, .freeCtr] s a11 := by
          unfold a11
          split
          · rename_i y1 y2 y3 y4 y5 y6 y7
            refine Changes.step ?_ (State.openMsg_changes ..) (by decide)
            assumption
          · rename_i y19 y20 y21 y22 y23 y24
            assumption
        clear_value a11
        refine Changes.step ?_ (State.applyInject_changes ..) (by decide)
        assumption
      · refine Changes.step ?_ (State.applyInject_changes ..) (by decide)
        assumption

theorem State.grantSlot_changes (s : State) (dev : Nat) :
    Changes [.msgs, .msgSeq] s (State.grantSlot s dev) := by
  unfold State.grantSlot
  split
  · refine Changes.step ?_ (State.openMsg_changes ..) (by decide)
    exact Changes.refl _ _
  · exact Changes.refl _ _

theorem State.decided_changes (s : State) (n : Nat) (l : Nat) (j : Nat) (f : Flit) (d : Decision) :
    Changes [.regs, .xbar, .links, .polT, .commits, .nextId] s (State.decided s n l j f d) := by
  unfold State.decided
  extract_lets a0 a1
  clear_value a0
  clear_value a1
  split
  · rename_i y3 y4 y5 y6
    have h7 : Changes [.regs, .xbar, .links, .polT, .commits, .nextId] s y4 := by
      refine Changes.of_fst ?_ y6
      refine Changes.iteFst ?_ ?_
      · refine Changes.step ?_ (State.police_changes ..) (by decide)
        exact Changes.refl _ _
      · refine Changes.mkFst ?_
        exact Changes.refl _ _
    extract_lets a2 a3 a4
    clear_value a2
    split
    · rename_i y13 y14 y15 y16
      have h17 : Changes [.regs, .xbar, .links, .polT, .commits, .nextId] s y14 := by
        refine Changes.of_fst ?_ y16
        refine Changes.iteFst ?_ ?_
        · refine Changes.mkFst ?_
          assumption
        · split
          · refine Changes.mkFst ?_
            assumption
          · refine Changes.mkFst ?_
            assumption
          · refine Changes.mkFst ?_
            refine Changes.step ?_ (State.xlateFail_changes ..) (by decide)
            assumption
          · refine Changes.mkFst ?_
            refine Changes.step ?_ (State.xlateFail_changes ..) (by decide)
            refine Changes.step ?_ (State.raise_changes ..) (by decide)
            assumption
          · refine Changes.mkFst ?_
            refine Changes.step ?_ (State.raise_changes ..) (by decide)
            assumption
          · refine Changes.mkFst ?_
            refine Changes.step ?_ (State.hopDown_changes ..) (by decide)
            assumption
      extract_lets a50
      clear_value a50
      split
      · extract_lets a59
        have h60 : Changes [.regs, .xbar, .links, .polT, .commits, .nextId] s a59 := by
          unfold a59
          refine Changes.step ?_ (State.numbered_changes ..) (by decide)
          refine Changes.step ?_ (State.setLink_changes ..) (by decide)
          assumption
        clear_value a59
        refine Changes.foldl ?_ (fun u17 x18 => ?_)
        · assumption
        · refine Changes.step ?_ (State.placeFlit_changes ..) (by decide)
          exact Changes.refl _ _

theorem State.moveHeld_changes (s : State) (n : Nat) (l : Nat) (j : Nat) (d : RxDec) :
    Changes [.xbar, .links, .commits] s (State.moveHeld s n l j d) := by
  unfold State.moveHeld
  extract_lets a0
  clear_value a0
  split
  · refine Changes.foldl ?_ (fun u5 x6 => ?_)
    · refine Changes.step ?_ (State.setLink_changes ..) (by decide)
      exact Changes.refl _ _
    · refine Changes.step ?_ (State.placeFlit_changes ..) (by decide)
      exact Changes.refl _ _

theorem State.strayFlit_changes (s : State) (n : Nat) (l : Nat) (f : Flit) :
    Changes [.regs, .links] s (State.strayFlit s n l f) := by
  unfold State.strayFlit
  extract_lets a0 a1
  clear_value a0
  have h5 : Changes [.regs, .links] s a1 := by
    unfold a1
    refine Changes.step ?_ (State.setLink_changes ..) (by decide)
    exact Changes.refl _ _
  clear_value a1
  refine Changes.step ?_ (State.raise_changes ..) (by decide)
  refine Changes.step ?_ (State.freeRxBuffer_changes ..) (by decide)
  assumption

theorem State.decidePacket_changes (s : State) (n : Nat) (l : Nat) (vc : Nat) (here : Bool) :
    Changes [.regs, .xbar, .links, .polT, .commits, .nextId] s (State.decidePacket s n l vc here) := by
  unfold State.decidePacket
  split
  · extract_lets a32
    refine Changes.ite ?_ ?_
    · exact Changes.refl _ _
    · split
      · refine Changes.ite ?_ ?_
        · refine Changes.step ?_ (State.moveHeld_changes ..) (by decide)
          exact Changes.refl _ _
        · exact Changes.refl _ _
      · refine Changes.ite ?_ ?_
        · refine Changes.step ?_ (State.strayFlit_changes ..) (by decide)
          exact Changes.refl _ _
        · refine Changes.ite ?_ ?_
          · refine Changes.step ?_ (State.decided_changes ..) (by decide)
            exact Changes.refl _ _
          · exact Changes.refl _ _
  · exact Changes.refl _ _

theorem State.setCfg_changes (s : State) (shadow : Bool) (c : CfgSet) :
    Changes [.active, .shadow] s (State.setCfg s shadow c) := by
  unfold State.setCfg
  refine Changes.ite ?_ ?_
  · refine Changes.step ?_ Changes.shadow (by decide)
    exact Changes.refl _ _
  · refine Changes.step ?_ Changes.active (by decide)
    exact Changes.refl _ _

theorem State.writeTblcmd_changes (s : State) (n : Nat) (w : Word) :
    Changes [.regs, .xbar, .active, .shadow] s (State.writeTblcmd s n w) := by
  unfold State.writeTblcmd
  extract_lets a0 a1 a2 a3 a4 a5 a6 a7 a8
  clear_value a0
  clear_value a1
  clear_value a2
  clear_value a3
  clear_value a4
  clear_value a5
  clear_value a6
  clear_value a7
  have h14 : Changes [.regs, .xbar, .active, .shadow] s a8 := by
    unfold a8
    refine Changes.step ?_ (State.setCfg_changes ..) (by decide)
    exact Changes.refl _ _
  clear_value a8
  refine Changes.ite ?_ ?_
  · exact Changes.refl _ _
  · refine Changes.ite ?_ ?_
    · refine Changes.step ?_ (State.raise_changes ..) (by decide)
      exact Changes.refl _ _
    · refine Changes.ite ?_ ?_
      · refine Changes.ite ?_ ?_
        · refine Changes.step ?_ (State.syncCircuit_changes ..) (by decide)
          assumption
        · assumption
      · refine Changes.foldl ?_ (fun u15 x16 => ?_)
        · exact Changes.refl _ _
        · refine Changes.step ?_ (State.setReg_changes ..) (by decide)
          exact Changes.refl _ _

end Sys2Proof.Machine
end

