-- ==== Sys2Proof/Laws/MemSys.lean ====
section
/-!
SUPPORT. What each operation of Machine/MemSys.lean may change (`_changes`), and that those which write a memory keep its
canonical form (`_wf`).
-/

namespace Sys2Proof.Machine

theorem State.healed_changes (s : State) (sp : MemSpace) (a : Nat) (n : Nat) :
    Changes [.ue] s (State.healed s sp a n) := by
  unfold State.healed
  refine Changes.step ?_ Changes.ue (by decide)
  exact Changes.refl _ _

theorem State.memRecord_changes (s : State) (n : Nat) (code : Nat) (job : Nat) (agent : Nat) (kind : Nat) (addr : Nat) :
    Changes [.regs] s (State.memRecord s n code job agent kind addr) := by
  unfold State.memRecord
  extract_lets a0
  have h1 : Changes [.regs] s a0 := by
    unfold a0
    refine Changes.ite ?_ ?_
    · refine Changes.step ?_ (State.setReg_changes ..) (by decide)
      refine Changes.step ?_ (State.setReg_changes ..) (by decide)
      refine Changes.step ?_ (State.setReg_changes ..) (by decide)
      exact Changes.refl _ _
    · exact Changes.refl _ _
  clear_value a0
  refine Changes.step ?_ (State.raise_changes ..) (by decide)
  assumption

theorem State.owe_changes (s : State) (o : Owed) :
    Changes [.owed] s (State.owe s o) := by
  unfold State.owe
  refine Changes.ite ?_ ?_
  · exact Changes.refl _ _
  · refine Changes.step ?_ Changes.owed (by decide)
    exact Changes.refl _ _

theorem State.memFault_changes (s : State) (n : Nat) (code : Nat) (job : Nat) (agent : Nat) (kind : Nat) (addr : Nat) :
    Changes [.regs, .owed] s (State.memFault s n code job agent kind addr) := by
  unfold State.memFault
  refine Changes.step ?_ (State.owe_changes ..) (by decide)
  refine Changes.step ?_ (State.memRecord_changes ..) (by decide)
  exact Changes.refl _ _

theorem State.dpaUe_changes (s : State) (a : Nat) (job : Nat) (agent : Nat) :
    Changes [.regs, .owed] s (State.dpaUe s a job agent) := by
  unfold State.dpaUe
  refine Changes.step ?_ (State.memFault_changes ..) (by decide)
  exact Changes.refl _ _

theorem State.dpaFound_changes (s : State) (a : Nat) (agent : Nat) :
    Changes [.regs] s (State.dpaFound s a agent) := by
  unfold State.dpaFound
  refine Changes.step ?_ (State.memRecord_changes ..) (by decide)
  exact Changes.refl _ _

theorem State.translateVa_changes (s : State) (n : Nat) (j : Nat) (va : Nat) (write : Bool) :
    Changes [.atu, .freeCtr] s (State.translateVa s n j va write).1 := by
  unfold State.translateVa
  extract_lets a0 a1 a2 a3
  clear_value a0
  clear_value a1
  clear_value a2
  split
  · refine Changes.iteFst ?_ ?_
    · refine Changes.mkFst ?_
      exact Changes.refl _ _
    · refine Changes.iteFst ?_ ?_
      · refine Changes.mkFst ?_
        refine Changes.step ?_ (State.drawn_changes ..) (by decide)
        exact Changes.refl _ _
      · refine Changes.mkFst ?_
        refine Changes.step ?_ (State.drawn_changes ..) (by decide)
        exact Changes.refl _ _
  · split
    · refine Changes.iteFst ?_ ?_
      · refine Changes.mkFst ?_
        refine Changes.step ?_ Changes.atu (by decide)
        exact Changes.refl _ _
      · refine Changes.mkFst ?_
        exact Changes.refl _ _
    · refine Changes.mkFst ?_
      exact Changes.refl _ _

theorem State.translateRange_changes (s : State) (n j : Nat) (write : Bool) (ps acc : List (Nat × Nat)) :
    Changes [.atu, .freeCtr] s (State.translateRange s n j write ps acc).1 := by
  induction ps generalizing s acc with
  | nil => exact Changes.refl _ _
  | cons p r ih =>
    have h := State.translateVa_changes s n j p.1 write
    unfold State.translateRange
    split
    · rename_i t a e
      rw [e] at h
      exact h.trans (ih ..)
    all_goals
      rename_i e
      rw [e] at h
      exact h

theorem State.vaRange_changes (s : State) (n j va len : Nat) (write : Bool) :
    Changes [.atu, .freeCtr] s (State.vaRange s n j va len write).1 :=
  State.translateRange_changes ..

theorem State.writePieces_changes {s t : State} {ps : List (Nat × Nat)} {bs : List Byte}
    (h : State.writePieces s ps bs = .ok t) : Changes [.dpa, .ue] s t := by
  unfold State.writePieces at h
  split at h
  · cases h
  · cases h
    refine Changes.foldlFst (Changes.refl _ _) (fun q b => ?_)
    refine Changes.mkFst ?_
    refine Changes.step ?_ (State.healed_changes ..) (by decide)
    exact Changes.step (Changes.refl _ _) Changes.dpa (by decide)

theorem State.writeGood_changes (s : State) (a : Nat) (bs : List Byte) :
    Changes [.dpa, .ue] s (State.writeGood s a bs) := by
  unfold State.writeGood
  extract_lets a0 a1 a2
  clear_value a0
  clear_value a1
  clear_value a2
  refine Changes.step ?_ (State.healed_changes ..) (by decide)
  refine Changes.step ?_ Changes.dpa (by decide)
  exact Changes.refl _ _

theorem State.writeWords_changes (s : State) (ps : List (Nat × Nat)) (bs : List Byte) :
    Changes [.dpa, .ue] s (State.writeWords s ps bs).1 := by
  unfold State.writeWords
  extract_lets a0
  clear_value a0
  refine Changes.mkFst ?_
  refine Changes.foldlFst ?_ (fun u3 x4 => ?_)
  · refine Changes.mkFst ?_
    exact Changes.refl _ _
  · refine Changes.mkFst ?_
    refine Changes.step ?_ (State.writeGood_changes ..) (by decide)
    exact Changes.refl _ _

theorem State.writeDpa_changes (s : State) (a : Nat) (bs : List Byte) :
    Changes [.dpa, .ue] s (State.writeDpa s a bs) := by
  unfold State.writeDpa
  refine Changes.step ?_ (State.healed_changes ..) (by decide)
  refine Changes.step ?_ Changes.dpa (by decide)
  exact Changes.refl _ _

theorem State.vaDenied_changes (s : State) (n : Nat) (job : Nat) (agent : Nat) (va : Nat) :
    Changes [.regs, .owed] s (State.vaDenied s n job agent va) := by
  unfold State.vaDenied
  refine Changes.step ?_ (State.memFault_changes ..) (by decide)
  exact Changes.refl _ _

theorem State.takeArrival_changes {s t : State} {slot : Nat} {p : Arrival → Bool} {a : Arrival}
    (h : State.takeArrival s slot p = some (a, t)) : Changes [.inbox] s t := by
  unfold State.takeArrival at h
  rw [Option.map_eq_some_iff] at h
  obtain ⟨q, _, hq⟩ := h
  cases hq
  exact Changes.inbox

theorem State.storeArrival_changes (s : State) (n : Nat) (a : Arrival) (home : Bool) :
    Changes [.regs, .dpa, .ue, .owed, .atu, .freeCtr] s (State.storeArrival s n a home) := by
  unfold State.storeArrival
  extract_lets a0 a1 a2 a3
  clear_value a0
  clear_value a1
  clear_value a2
  clear_value a3
  split
  · refine Changes.step ?_ (State.vaDenied_changes ..) (by decide)
    exact Changes.refl _ _
  · split
    · rename_i y10 y11 y12 y13
      have h14 : Changes [.regs, .dpa, .ue, .owed, .atu, .freeCtr] s y11 := by
        refine Changes.of_fst ?_ y13
        refine Changes.step ?_ (State.vaRange_changes ..) (by decide)
        exact Changes.refl _ _
      extract_lets a15
      clear_value a15
      refine Changes.ite ?_ ?_
      · refine Changes.step ?_ (State.vaDenied_changes ..) (by decide)
        assumption
      · split
        · rename_i y18 y19 y20
          have h21 : Changes [.regs, .dpa, .ue, .owed, .atu, .freeCtr] s y19 := by
            refine Changes.of_fst ?_ y20
            refine Changes.step ?_ (State.writeWords_changes ..) (by decide)
            assumption
          assumption
        · rename_i y0 y1 y2 y3
          have h4 : Changes [.regs, .dpa, .ue, .owed, .atu, .freeCtr] s y1 := by
            refine Changes.of_fst ?_ y3
            refine Changes.step ?_ (State.writeWords_changes ..) (by decide)
            assumption
          refine Changes.step ?_ (State.dpaUe_changes ..) (by decide)
          assumption
    · rename_i y4 y5 y6 y7
      have h8 : Changes [.regs, .dpa, .ue, .owed, .atu, .freeCtr] s y5 := by
        refine Changes.of_fst ?_ y7
        refine Changes.step ?_ (State.vaRange_changes ..) (by decide)
        exact Changes.refl _ _
      refine Changes.step ?_ (State.vaDenied_changes ..) (by decide)
      assumption
    · rename_i y16 y17 y18 y19 y20
      have h21 : Changes [.regs, .dpa, .ue, .owed, .atu, .freeCtr] s y17 := by
        refine Changes.of_fst ?_ y20
        refine Changes.step ?_ (State.vaRange_changes ..) (by decide)
        exact Changes.refl _ _
      refine Changes.step ?_ (State.vaDenied_changes ..) (by decide)
      assumption
    · rename_i y0 y1 y2 y3
      have h4 : Changes [.regs, .dpa, .ue, .owed, .atu, .freeCtr] s y1 := by
        refine Changes.of_fst ?_ y3
        refine Changes.step ?_ (State.vaRange_changes ..) (by decide)
        exact Changes.refl _ _
      refine Changes.step ?_ (State.dpaUe_changes ..) (by decide)
      assumption

theorem State.sendParts_changes (s : State) (slot : Nat) (o : Owner) (dev : Option Nat) (xlate : Option Nat)
    (h : PktHdr) (vc : Nat) (tc : Nat) (job : Nat) (parts : List (Nat × List Byte)) :
    Changes [.attach, .msgs, .nextId] s (State.sendParts s slot o dev xlate h vc tc job parts) := by
  unfold State.sendParts
  extract_lets a0 a1
  clear_value a0
  have h2 : Changes [.attach, .msgs, .nextId] s a1 := by
    unfold a1
    refine Changes.step ?_ (State.newMsg_changes ..) (by decide)
    exact Changes.refl _ _
  clear_value a1
  refine Changes.foldl ?_ (fun u3 x4 => ?_)
  · assumption
  · refine Changes.step ?_ (State.attachPkt_changes ..) (by decide)
    exact Changes.refl _ _

theorem State.inboundWrite_changes (s : State) (n : Nat) :
    Changes [.regs, .dpa, .ue, .inbox, .commits, .owed, .atu, .freeCtr] s (State.inboundWrite s n) := by
  unfold State.inboundWrite
  split
  · exact Changes.refl _ _
  · rename_i y5 y6 y7 y8
    have h9 : Changes [.regs, .dpa, .ue, .inbox, .commits, .owed, .atu, .freeCtr] s y7 := by
      refine Changes.step ?_ (State.takeArrival_changes y8) (by decide)
      exact Changes.refl _ _
    refine Changes.step ?_ (State.commitArrival_changes ..) (by decide)
    refine Changes.step ?_ (State.storeArrival_changes ..) (by decide)
    assumption

theorem State.sendAborted_changes (s : State) (n : Nat) (a : Arrival) (job : Nat) (bs : List (Option Byte)) :
    Changes [.attach, .msgs, .nextId] s (State.sendAborted s n a job bs) := by
  unfold State.sendAborted
  extract_lets a5 a6 a7 a8
  clear_value a5
  clear_value a6
  clear_value a7
  have h14 : Changes [.attach, .msgs, .nextId] s a8 := by
    unfold a8
    refine Changes.step ?_ (State.newMsg_changes ..) (by decide)
    exact Changes.refl _ _
  clear_value a8
  refine Changes.foldl ?_ (fun u20 x21 => ?_)
  · assumption
  · extract_lets a22
    clear_value a22
    refine Changes.step ?_ (State.attachPkt_changes ..) (by decide)
    exact Changes.refl _ _

theorem State.inboundReadReq_changes (s : State) (n : Nat) :
    Changes [.regs, .attach, .msgs, .inbox, .owed, .atu, .nextId, .freeCtr] s (State.inboundReadReq s n) := by
  unfold State.inboundReadReq
  split
  · exact Changes.refl _ _
  · rename_i y2 y3 y4 y5
    have h6 : Changes [.regs, .attach, .msgs, .inbox, .owed, .atu, .nextId, .freeCtr] s y4 := by
      refine Changes.step ?_ (State.takeArrival_changes y5) (by decide)
      exact Changes.refl _ _
    extract_lets a11 a12
    clear_value a11
    clear_value a12
    refine Changes.ite ?_ ?_
    · assumption
    · split
      · refine Changes.step ?_ (State.vaDenied_changes ..) (by decide)
        assumption
      · split
        · rename_i y5 y6 y7 y8
          have h9 : Changes [.regs, .attach, .msgs, .inbox, .owed, .atu, .nextId, .freeCtr] s y6 := by
            refine Changes.of_fst ?_ y8
            refine Changes.step ?_ (State.vaRange_changes ..) (by decide)
            assumption
          split
          · refine Changes.step ?_ (State.sendParts_changes ..) (by decide)
            assumption
          · refine Changes.step ?_ (State.sendAborted_changes ..) (by decide)
            refine Changes.step ?_ (State.dpaUe_changes ..) (by decide)
            assumption
        · rename_i y24 y25 y26 y27
          have h28 : Changes [.regs, .attach, .msgs, .inbox, .owed, .atu, .nextId, .freeCtr] s y25 := by
            refine Changes.of_fst ?_ y27
            refine Changes.step ?_ (State.vaRange_changes ..) (by decide)
            assumption
          refine Changes.step ?_ (State.vaDenied_changes ..) (by decide)
          assumption
        · rename_i y0 y1 y2 y3 y4
          have h5 : Changes [.regs, .attach, .msgs, .inbox, .owed, .atu, .nextId, .freeCtr] s y1 := by
            refine Changes.of_fst ?_ y4
            refine Changes.step ?_ (State.vaRange_changes ..) (by decide)
            assumption
          refine Changes.step ?_ (State.vaDenied_changes ..) (by decide)
          assumption
        · rename_i y5 y6 y7 y8
          have h9 : Changes [.regs, .attach, .msgs, .inbox, .owed, .atu, .nextId, .freeCtr] s y6 := by
            refine Changes.of_fst ?_ y8
            refine Changes.step ?_ (State.vaRange_changes ..) (by decide)
            assumption
          refine Changes.step ?_ (State.dpaUe_changes ..) (by decide)
          assumption

theorem State.putReported_changes (s : State) (a : Nat) (bs : List Byte) (job : Nat) (agent : Nat) :
    Changes [.regs, .dpa, .ue, .owed] s (State.putReported s a bs job agent) := by
  unfold State.putReported
  split
  · rename_i y7 y8 y9
    have h10 : Changes [.regs, .dpa, .ue, .owed] s y8 := by
      refine Changes.of_fst ?_ y9
      refine Changes.step ?_ (State.writeWords_changes ..) (by decide)
      exact Changes.refl _ _
    assumption
  · rename_i y13 y14 y15 y16
    have h17 : Changes [.regs, .dpa, .ue, .owed] s y14 := by
      refine Changes.of_fst ?_ y16
      refine Changes.step ?_ (State.writeWords_changes ..) (by decide)
      exact Changes.refl _ _
    refine Changes.step ?_ (State.dpaUe_changes ..) (by decide)
    assumption

theorem State.setRs_changes (s : State) (slot : Nat) (leafAt : Nat) (rs : Nat) :
    Changes [.regs, .dpa, .ue, .owed] s (State.setRs s slot leafAt rs) := by
  unfold State.setRs
  refine Changes.step ?_ (State.putReported_changes ..) (by decide)
  exact Changes.refl _ _

theorem State.refuseStalled_changes (s : State) (u : Nat) (eng : Nat) :
    Changes [.cores] s (State.refuseStalled s u eng) := by
  unfold State.refuseStalled
  extract_lets a0
  clear_value a0
  refine Changes.step ?_ (State.setCore_changes ..) (by decide)
  exact Changes.refl _ _

theorem State.startFetch_changes (s : State) (f : Fetch) :
    Changes [.regs, .dpa, .ue, .attach, .cores, .owed, .fetches, .nextId] s (State.startFetch s f) := by
  unfold State.startFetch
  extract_lets a0 a1 a2 a3
  clear_value a0
  clear_value a1
  have h9 : Changes [.regs, .dpa, .ue, .attach, .cores, .owed, .fetches, .nextId] s a2 := by
    unfold a2
    refine Changes.step ?_ (State.setRs_changes ..) (by decide)
    refine Changes.step ?_ Changes.fetches (by decide)
    exact Changes.refl _ _
  clear_value a2
  clear_value a3
  refine Changes.ite ?_ ?_
  · refine Changes.foldl ?_ (fun u22 x23 => ?_)
    · refine Changes.step ?_ (State.vaDenied_changes ..) (by decide)
      refine Changes.step ?_ Changes.fetches (by decide)
      exact Changes.refl _ _
    · refine Changes.step ?_ (State.refuseStalled_changes ..) (by decide)
      exact Changes.refl _ _
  · refine Changes.step ?_ (State.attachPkt_changes ..) (by decide)
    assumption

theorem State.startFetches_changes (n fuel : Nat) (s : State) :
    Changes [.regs, .dpa, .ue, .attach, .cores, .owed, .fetches, .nextId] s (State.startFetches n fuel s) := by
  induction fuel generalizing s with
  | zero => exact Changes.refl _ _
  | succ fuel ih =>
    unfold State.startFetches
    split
    · refine Changes.trans ?_ (ih ..)
      refine Changes.step ?_ (State.startFetch_changes ..) (by decide)
      exact Changes.refl _ _
    · exact Changes.refl _ _

theorem State.nextFetch_changes (s : State) (n : Nat) :
    Changes [.regs, .dpa, .ue, .attach, .cores, .owed, .fetches, .nextId] s (State.nextFetch s n) := by
  unfold State.nextFetch
  refine Changes.step ?_ (State.startFetches_changes ..) (by decide)
  exact Changes.refl _ _

theorem State.touchPage_changes (s : State) (slot : Nat) (va : Nat) (leafAt : Nat) (u : Nat) (eng : Nat) :
    Changes [.regs, .dpa, .ue, .attach, .cores, .owed, .fetches, .nextId] s (State.touchPage s slot va leafAt u eng) := by
  unfold State.touchPage
  extract_lets a0 a1 a2 a3 a4
  clear_value a0
  clear_value a1
  clear_value a2
  clear_value a4
  refine Changes.ite ?_ ?_
  · refine Changes.step ?_ Changes.fetches (by decide)
    exact Changes.refl _ _
  · refine Changes.step ?_ (State.nextFetch_changes ..) (by decide)
    refine Changes.step ?_ Changes.fetches (by decide)
    exact Changes.refl _ _

theorem State.servePage_changes (s : State) (n : Nat) :
    Changes [.regs, .attach, .msgs, .inbox, .owed, .atu, .nextId, .freeCtr] s (State.servePage s n) := by
  unfold State.servePage
  split
  · exact Changes.refl _ _
  · rename_i y2 y3 y4 y5
    have h6 : Changes [.regs, .attach, .msgs, .inbox, .owed, .atu, .nextId, .freeCtr] s y4 := by
      refine Changes.step ?_ (State.takeArrival_changes y5) (by decide)
      exact Changes.refl _ _
    extract_lets a7 a8
    clear_value a7
    clear_value a8
    split
    · refine Changes.step ?_ (State.vaDenied_changes ..) (by decide)
      assumption
    · split
      · rename_i y4 y5 y6 y7
        have h8 : Changes [.regs, .attach, .msgs, .inbox, .owed, .atu, .nextId, .freeCtr] s y5 := by
          refine Changes.of_fst ?_ y7
          refine Changes.step ?_ (State.vaRange_changes ..) (by decide)
          assumption
        extract_lets a0 a1 a2 a3
        clear_value a0
        clear_value a1
        have h8 : Changes [.regs, .attach, .msgs, .inbox, .owed, .atu, .nextId, .freeCtr] s a2 := by
          unfold a2
          split
          · refine Changes.step ?_ (State.dpaUe_changes ..) (by decide)
            assumption
          · assumption
        clear_value a2
        clear_value a3
        refine Changes.ite ?_ ?_
        · refine Changes.step ?_ (State.vaDenied_changes ..) (by decide)
          assumption
        · refine Changes.step ?_ (State.sendParts_changes ..) (by decide)
          assumption
      · rename_i y2 y3 y4 y5
        have h6 : Changes [.regs, .attach, .msgs, .inbox, .owed, .atu, .nextId, .freeCtr] s y3 := by
          refine Changes.of_fst ?_ y5
          refine Changes.step ?_ (State.vaRange_changes ..) (by decide)
          assumption
        refine Changes.step ?_ (State.vaDenied_changes ..) (by decide)
        assumption
      · rename_i y6 y7 y8 y9 y10
        have h11 : Changes [.regs, .attach, .msgs, .inbox, .owed, .atu, .nextId, .freeCtr] s y7 := by
          refine Changes.of_fst ?_ y10
          refine Changes.step ?_ (State.vaRange_changes ..) (by decide)
          assumption
        refine Changes.step ?_ (State.vaDenied_changes ..) (by decide)
        assumption
      · rename_i y21 y22 y23 y24
        have h25 : Changes [.regs, .attach, .msgs, .inbox, .owed, .atu, .nextId, .freeCtr] s y22 := by
          refine Changes.of_fst ?_ y24
          refine Changes.step ?_ (State.vaRange_changes ..) (by decide)
          assumption
        refine Changes.step ?_ (State.dpaUe_changes ..) (by decide)
        assumption

theorem State.pageData_changes (s : State) (n : Nat) :
    Changes [.regs, .cnt, .dpa, .ue, .attach, .inbox, .commits, .cores, .owed, .fetches, .nextId] s
        (State.pageData s n) := by
  unfold State.pageData
  split
  · exact Changes.refl _ _
  · rename_i a t ha
    have h0 : Changes [.regs, .cnt, .dpa, .ue, .attach, .inbox, .commits, .cores, .owed, .fetches, .nextId] s t :=
      (State.takeArrival_changes ha).mono (by decide)
    extract_lets h mine s1
    refine Changes.step ?_ (State.commitArrival_changes ..) (by decide)
    unfold s1
    split
    · exact h0
    · extract_lets at_ s2 got s3
      have h2 : Changes [.regs, .cnt, .dpa, .ue, .attach, .inbox, .commits, .cores, .owed, .fetches, .nextId] s s2 :=
        h0.step (State.putReported_changes ..) (by decide)
      clear_value s2
      have h3 : Changes [.regs, .cnt, .dpa, .ue, .attach, .inbox, .commits, .cores, .owed, .fetches, .nextId] s s3 :=
        h2.step Changes.fetches (by decide)
      clear_value s3
      refine Changes.ite (h0.step (State.memFault_changes ..) (by decide)) (Changes.ite (h2.step Changes.fetches
          (by decide)) ?_)
      exact ((h3.step (State.setRs_changes ..) (by decide)).step (State.incCtr_changes ..) (by decide)).step
        (State.nextFetch_changes ..) (by decide)

theorem State.pageWb_changes (s : State) (n : Nat) :
    Changes [.regs, .dpa, .ue, .inbox, .commits, .owed, .atu, .freeCtr] s (State.pageWb s n) := by
  unfold State.pageWb
  split
  · exact Changes.refl _ _
  · rename_i y5 y6 y7 y8
    have h9 : Changes [.regs, .dpa, .ue, .inbox, .commits, .owed, .atu, .freeCtr] s y7 := by
      refine Changes.step ?_ (State.takeArrival_changes y8) (by decide)
      exact Changes.refl _ _
    refine Changes.step ?_ (State.commitArrival_changes ..) (by decide)
    refine Changes.step ?_ (State.storeArrival_changes ..) (by decide)
    assumption

theorem State.releaseDone_changes (s : State) (n : Nat) (slot : Nat) (va : Nat) (leafAt : Nat) (wrote : Bool) :
    Changes [.regs, .cnt, .dpa, .ue, .attach, .cores, .owed, .fetches, .wbs, .nextId] s
        (State.releaseDone s n slot va leafAt wrote) := by
  unfold State.releaseDone
  extract_lets a0 a1 a2
  have h3 : Changes [.regs, .cnt, .dpa, .ue, .attach, .cores, .owed, .fetches, .wbs, .nextId] s a0 := by
    unfold a0
    refine Changes.step ?_ (State.setRs_changes ..) (by decide)
    exact Changes.refl _ _
  clear_value a0
  have h9 : Changes [.regs, .cnt, .dpa, .ue, .attach, .cores, .owed, .fetches, .wbs, .nextId] s a1 := by
    unfold a1
    refine Changes.ite ?_ ?_
    · refine Changes.step ?_ (State.incCtr_changes ..) (by decide)
      assumption
    · assumption
  clear_value a1
  have h12 : Changes [.regs, .cnt, .dpa, .ue, .attach, .cores, .owed, .fetches, .wbs, .nextId] s a2 := by
    unfold a2
    refine Changes.step ?_ Changes.wbs (by decide)
    assumption
  clear_value a2
  refine Changes.step ?_ (State.nextFetch_changes ..) (by decide)
  assumption

theorem State.releasePage_changes (s : State) (n : Nat) (slot : Nat) (va : Nat) :
    Changes [.regs, .cnt, .dpa, .ue, .attach, .msgs, .cores, .owed, .fetches, .wbs, .nextId] s
        (State.releasePage s n slot va) := by
  unfold State.releasePage
  extract_lets a4 a5 a6 a7
  clear_value a4
  clear_value a5
  clear_value a6
  clear_value a7
  split
  · split
    · refine Changes.step ?_ (State.dpaUe_changes ..) (by decide)
      exact Changes.refl _ _
    · exact Changes.refl _ _
  · extract_lets a25 a26 a27 a28
    clear_value a25
    clear_value a26
    clear_value a27
    have h29 : Changes [.regs, .cnt, .dpa, .ue, .attach, .msgs, .cores, .owed, .fetches, .wbs, .nextId] s a28 := by
      unfold a28
      refine Changes.step ?_ Changes.wbs (by decide)
      exact Changes.refl _ _
    clear_value a28
    refine Changes.ite ?_ ?_
    · exact Changes.refl _ _
    · refine Changes.ite ?_ ?_
      · refine Changes.step ?_ (State.releaseDone_changes ..) (by decide)
        exact Changes.refl _ _
      · refine Changes.ite ?_ ?_
        · refine Changes.step ?_ (State.vaDenied_changes ..) (by decide)
          exact Changes.refl _ _
        · split
          · refine Changes.step ?_ (State.sendParts_changes ..) (by decide)
            refine Changes.step ?_ (State.dpaUe_changes ..) (by decide)
            exact Changes.refl _ _
          · refine Changes.step ?_ (State.sendParts_changes ..) (by decide)
            assumption

theorem State.releaseJob_changes (s : State) (n : Nat) (slot : Nat) :
    Changes [.regs, .cnt, .dpa, .ue, .attach, .msgs, .cores, .owed, .fetches, .wbs, .nextId] s
        (State.releaseJob s n slot) := by
  unfold State.releaseJob
  refine Changes.foldl ?_ (fun u0 x1 => ?_)
  · exact Changes.refl _ _
  · refine Changes.step ?_ (State.releasePage_changes ..) (by decide)
    exact Changes.refl _ _

theorem State.endStalled_changes (s : State) (u : Nat) (eng : Nat) :
    Changes [.cores] s (State.endStalled s u eng) := by
  unfold State.endStalled
  extract_lets a0 a1
  clear_value a0
  refine Changes.step ?_ (State.setCore_changes ..) (by decide)
  exact Changes.refl _ _

theorem State.abortPager_changes (s : State) (n : Nat) (slot : Nat) :
    Changes [.regs, .dpa, .ue, .attach, .msgs, .cores, .owed, .fetches, .wbs, .nextId] s (State.abortPager s n slot) := by
  unfold State.abortPager
  extract_lets a0 a1 a2 a3 a4
  clear_value a0
  have h5 : Changes [.regs, .dpa, .ue, .attach, .msgs, .cores, .owed, .fetches, .wbs, .nextId] s a1 := by
    unfold a1
    refine Changes.step ?_ Changes.fetches (by decide)
    exact Changes.refl _ _
  clear_value a1
  have h16 : Changes [.regs, .dpa, .ue, .attach, .msgs, .cores, .owed, .fetches, .wbs, .nextId] s a2 := by
    unfold a2
    refine Changes.foldl ?_ (fun u17 x18 => ?_)
    · assumption
    · extract_lets a19
      have h20 : Changes [.regs, .dpa, .ue, .attach, .msgs, .cores, .owed, .fetches, .wbs, .nextId] u17 a19 := by
        unfold a19
        refine Changes.ite ?_ ?_
        · refine Changes.step ?_ (State.setRs_changes ..) (by decide)
          exact Changes.refl _ _
        · exact Changes.refl _ _
      clear_value a19
      refine Changes.foldl ?_ (fun u2 x3 => ?_)
      · assumption
      · refine Changes.step ?_ (State.endStalled_changes ..) (by decide)
        exact Changes.refl _ _
  clear_value a2
  clear_value a3
  have h4 : Changes [.regs, .dpa, .ue, .attach, .msgs, .cores, .owed, .fetches, .wbs, .nextId] s a4 := by
    unfold a4
    refine Changes.foldl ?_ (fun u5 x6 => ?_)
    · assumption
    · refine Changes.step ?_ (State.dropMsg_changes ..) (by decide)
      exact Changes.refl _ _
  clear_value a4
  refine Changes.step ?_ (State.nextFetch_changes ..) (by decide)
  refine Changes.step ?_ Changes.wbs (by decide)
  assumption

theorem State.writePgcmd_changes (s : State) (n : Nat) (w : Word) :
    Changes [.regs, .cnt, .dpa, .ue, .attach, .msgs, .cores, .owed, .fetches, .wbs, .nextId] s (State.writePgcmd s n w) := by
  unfold State.writePgcmd
  extract_lets a0 a1
  clear_value a0
  clear_value a1
  refine Changes.ite ?_ ?_
  · exact Changes.refl _ _
  · refine Changes.ite ?_ ?_
    · refine Changes.step ?_ (State.releasePage_changes ..) (by decide)
      exact Changes.refl _ _
    · refine Changes.ite ?_ ?_
      · refine Changes.step ?_ (State.releaseJob_changes ..) (by decide)
        exact Changes.refl _ _
      · refine Changes.ite ?_ ?_
        · refine Changes.step ?_ (State.abortPager_changes ..) (by decide)
          exact Changes.refl _ _
        · exact Changes.refl _ _

theorem State.writeAtuInv_changes (s : State) (n : Nat) (w : Word) :
    Changes [.atuBusy] s (State.writeAtuInv s n w) := by
  unfold State.writeAtuInv
  refine Changes.ite ?_ ?_
  · refine Changes.step ?_ Changes.atuBusy (by decide)
    exact Changes.refl _ _
  · exact Changes.refl _ _

theorem State.atuInvDone_changes (s : State) (n : Nat) :
    Changes [.atu, .atuBusy] s (State.atuInvDone s n) := by
  unfold State.atuInvDone
  split
  · exact Changes.refl _ _
  · refine Changes.step ?_ Changes.atu_atuBusy (by decide)
    exact Changes.refl _ _

theorem State.dropCached_changes (s : State) (slot : Nat) :
    Changes [.atu] s (State.dropCached s slot) := by
  unfold State.dropCached
  refine Changes.step ?_ Changes.atu (by decide)
  exact Changes.refl _ _

theorem State.writeBpmCtl_changes (s : State) (w : Word) :
    Changes [.regs, .poolUsed] s (State.writeBpmCtl s w) := by
  unfold State.writeBpmCtl
  refine Changes.ite ?_ ?_
  · refine Changes.step ?_ (State.lower_changes ..) (by decide)
    exact Changes.refl _ _
  · refine Changes.ite ?_ ?_
    · exact Changes.refl _ _
    · refine Changes.ite ?_ ?_
      · refine Changes.step ?_ (State.raise_changes ..) (by decide)
        exact Changes.refl _ _
      · extract_lets a0
        have h1 : Changes [.regs, .poolUsed] s a0 := by
          unfold a0
          refine Changes.step ?_ (State.raise_changes ..) (by decide)
          refine Changes.step ?_ Changes.poolUsed (by decide)
          exact Changes.refl _ _
        clear_value a0
        refine Changes.foldl ?_ (fun u5 x6 => ?_)
        · assumption
        · refine Changes.step ?_ (State.setReg_changes ..) (by decide)
          exact Changes.refl _ _

theorem State.writePoolReg_changes (s : State) (r : Reg) (w : Word) :
    Changes [.regs] s (State.writePoolReg s r w) := by
  unfold State.writePoolReg
  refine Changes.ite ?_ ?_
  · exact Changes.refl _ _
  · refine Changes.step ?_ (State.writeReg_changes ..) (by decide)
    exact Changes.refl _ _

theorem State.allocate_changes (s : State) (size : Nat) :
    Changes [.regs, .poolUsed] s (State.allocate s size).1 := by
  unfold State.allocate
  split
  · refine Changes.mkFst ?_
    exact Changes.refl _ _
  · split
    · extract_lets a7 a8
      clear_value a7
      have h9 : Changes [.regs, .poolUsed] s a8 := by
        unfold a8
        refine Changes.ite ?_ ?_
        · exact Changes.refl _ _
        · refine Changes.step ?_ (State.count_changes ..) (by decide)
          exact Changes.refl _ _
      clear_value a8
      refine Changes.mkFst ?_
      refine Changes.step ?_ (State.raise_changes ..) (by decide)
      assumption
    · extract_lets a21 a22 a23 a24
      have h25 : Changes [.regs, .poolUsed] s a21 := by
        unfold a21
        refine Changes.step ?_ Changes.poolUsed (by decide)
        exact Changes.refl _ _
      have h2 : Changes [.regs, .poolUsed] s a23 := by
        unfold a23
        refine Changes.ite ?_ ?_
        · refine Changes.step ?_ (State.setReg_changes ..) (by decide)
          assumption
        · assumption
      have h3 : Changes [.regs, .poolUsed] s a24 := by
        unfold a24
        refine Changes.ite ?_ ?_
        · refine Changes.step ?_ (State.raise_changes ..) (by decide)
          assumption
        · assumption
      clear_value a24
      refine Changes.mkFst ?_
      assumption

theorem State.freeBuffer_changes (s : State) (h : Word) :
    Changes [.regs, .poolUsed] s (State.freeBuffer s h) := by
  unfold State.freeBuffer
  extract_lets a0 a1
  clear_value a0
  have h7 : Changes [.regs, .poolUsed] s a1 := by
    unfold a1
    refine Changes.ite ?_ ?_
    · exact Changes.refl _ _
    · refine Changes.step ?_ (State.count_changes ..) (by decide)
      exact Changes.refl _ _
  clear_value a1
  refine Changes.ite ?_ ?_
  · refine Changes.step ?_ Changes.poolUsed (by decide)
    exact Changes.refl _ _
  · refine Changes.step ?_ (State.raise_changes ..) (by decide)
    assumption

theorem State.requestAlloc_changes (s : State) (size : Nat) :
    Changes [.regs, .poolUsed] s (State.requestAlloc s size) := by
  unfold State.requestAlloc
  split
  · rename_i y0 y1 y2 y3
    have h4 : Changes [.regs, .poolUsed] s y1 := by
      refine Changes.of_fst ?_ y3
      refine Changes.step ?_ (State.allocate_changes ..) (by decide)
      exact Changes.refl _ _
    refine Changes.step ?_ (State.setReg_changes ..) (by decide)
    assumption
  · rename_i y10 y11 y12
    have h13 : Changes [.regs, .poolUsed] s y11 := by
      refine Changes.of_fst ?_ y12
      refine Changes.step ?_ (State.allocate_changes ..) (by decide)
      exact Changes.refl _ _
    refine Changes.step ?_ (State.setReg_changes ..) (by decide)
    assumption
  · rename_i y14 y15 y16
    have h17 : Changes [.regs, .poolUsed] s y15 := by
      refine Changes.of_fst ?_ y16
      refine Changes.step ?_ (State.allocate_changes ..) (by decide)
      exact Changes.refl _ _
    refine Changes.step ?_ (State.setReg_changes ..) (by decide)
    assumption

theorem State.requestFree_changes (s : State) (h : Word) :
    Changes [.regs, .poolUsed, .freeCtr] s (State.requestFree s h) := by
  unfold State.requestFree
  extract_lets a0
  clear_value a0
  refine Changes.ite ?_ ?_
  · refine Changes.step ?_ (State.setReg_changes ..) (by decide)
    refine Changes.step ?_ (State.freeBuffer_changes ..) (by decide)
    exact Changes.refl _ _
  · refine Changes.step ?_ (State.drawn_changes ..) (by decide)
    refine Changes.step ?_ (State.setReg_changes ..) (by decide)
    refine Changes.step ?_ (State.freeBuffer_changes ..) (by decide)
    exact Changes.refl _ _

theorem State.writeBpmReq_changes (s : State) (w : Word) :
    Changes [.regs, .poolUsed, .freeCtr] s (State.writeBpmReq s w) := by
  unfold State.writeBpmReq
  refine Changes.ite ?_ ?_
  · refine Changes.step ?_ (State.requestAlloc_changes ..) (by decide)
    exact Changes.refl _ _
  · refine Changes.ite ?_ ?_
    · refine Changes.step ?_ (State.requestFree_changes ..) (by decide)
      exact Changes.refl _ _
    · exact Changes.refl _ _

theorem State.readMinfree_changes (s : State) (k : Nat) :
    Changes [.regs, .busData] s (State.readMinfree s k) := by
  unfold State.readMinfree
  extract_lets a0
  have h1 : Changes [.regs, .busData] s a0 := by
    unfold a0
    refine Changes.step ?_ Changes.busData (by decide)
    exact Changes.refl _ _
  clear_value a0
  refine Changes.step ?_ (State.setReg_changes ..) (by decide)
  assumption

/-! ### Canonical form -/

theorem State.writePieces_wf {s t : State} {ps : List (Nat × Nat)} {bs : List Byte}
    (h : State.writePieces s ps bs = .ok t) : KeepsWf s t := by
  unfold State.writePieces at h
  split at h
  · cases h
  · cases h
    refine KeepsWf.foldlFst (KeepsWf.refl _) (fun q b => ?_)
    refine KeepsWf.mkFst ?_
    refine KeepsWf.trans ?_ (KeepsWf.of_changes (State.healed_changes ..) (by decide))
    exact KeepsWf.dpa fun h => memWf_wrBytes h _ _

theorem State.writeGood_wf (s : State) (a : Nat) (bs : List Byte) :
    KeepsWf s (State.writeGood s a bs) := by
  unfold State.writeGood
  extract_lets a1 a2 a3
  clear_value a1
  clear_value a2
  clear_value a3
  refine KeepsWf.trans ?_ (KeepsWf.of_changes (State.healed_changes ..) (by decide))
  refine KeepsWf.trans ?_ (KeepsWf.dpa fun h => memWf_wrBytes h _ _)
  exact KeepsWf.refl _

theorem State.writeWords_wf (s : State) (ps : List (Nat × Nat)) (bs : List Byte) :
    KeepsWf s (State.writeWords s ps bs).1 := by
  unfold State.writeWords
  extract_lets a0
  clear_value a0
  refine KeepsWf.mkFst ?_
  refine KeepsWf.foldlFst ?_ (fun u4 x5 => ?_)
  · refine KeepsWf.mkFst ?_
    exact KeepsWf.refl _
  · refine KeepsWf.mkFst ?_
    refine KeepsWf.trans ?_ (State.writeGood_wf ..)
    exact KeepsWf.refl _

theorem State.writeDpa_wf (s : State) (a : Nat) (bs : List Byte) :
    KeepsWf s (State.writeDpa s a bs) := by
  unfold State.writeDpa
  refine KeepsWf.trans ?_ (KeepsWf.of_changes (State.healed_changes ..) (by decide))
  refine KeepsWf.trans ?_ (KeepsWf.dpa fun h => memWf_wrBytes h _ _)
  exact KeepsWf.refl _

theorem State.storeArrival_wf (s : State) (n : Nat) (a : Arrival) (home : Bool) :
    KeepsWf s (State.storeArrival s n a home) := by
  unfold State.storeArrival
  extract_lets a0 a1 a2 a3
  clear_value a0
  clear_value a1
  clear_value a2
  clear_value a3
  split
  · refine KeepsWf.trans ?_ (KeepsWf.of_changes (State.vaDenied_changes ..) (by decide))
    exact KeepsWf.refl _
  · split
    · rename_i y5 y6 y7 y8
      have h9 : KeepsWf s y6 := by
        refine KeepsWf.of_fst ?_ y8
        refine KeepsWf.trans ?_ (KeepsWf.of_changes (State.vaRange_changes ..) (by decide))
        exact KeepsWf.refl _
      extract_lets a4
      clear_value a4
      refine KeepsWf.ite ?_ ?_
      · refine KeepsWf.trans ?_ (KeepsWf.of_changes (State.vaDenied_changes ..) (by decide))
        assumption
      · split
        · rename_i y2 y3 y4
          have h5 : KeepsWf s y3 := by
            refine KeepsWf.of_fst ?_ y4
            refine KeepsWf.trans ?_ (State.writeWords_wf ..)
            assumption
          assumption
        · rename_i y6 y7 y8 y9
          have h10 : KeepsWf s y7 := by
            refine KeepsWf.of_fst ?_ y9
            refine KeepsWf.trans ?_ (State.writeWords_wf ..)
            assumption
          refine KeepsWf.trans ?_ (KeepsWf.of_changes (State.dpaUe_changes ..) (by decide))
          assumption
    · rename_i y18 y19 y20 y21
      have h22 : KeepsWf s y19 := by
        refine KeepsWf.of_fst ?_ y21
        refine KeepsWf.trans ?_ (KeepsWf.of_changes (State.vaRange_changes ..) (by decide))
        exact KeepsWf.refl _
      refine KeepsWf.trans ?_ (KeepsWf.of_changes (State.vaDenied_changes ..) (by decide))
      assumption
    · rename_i y27 y28 y29 y30 y31
      have h32 : KeepsWf s y28 := by
        refine KeepsWf.of_fst ?_ y31
        refine KeepsWf.trans ?_ (KeepsWf.of_changes (State.vaRange_changes ..) (by decide))
        exact KeepsWf.refl _
      refine KeepsWf.trans ?_ (KeepsWf.of_changes (State.vaDenied_changes ..) (by decide))
      assumption
    · rename_i y2 y3 y4 y5
      have h6 : KeepsWf s y3 := by
        refine KeepsWf.of_fst ?_ y5
        refine KeepsWf.trans ?_ (KeepsWf.of_changes (State.vaRange_changes ..) (by decide))
        exact KeepsWf.refl _
      refine KeepsWf.trans ?_ (KeepsWf.of_changes (State.dpaUe_changes ..) (by decide))
      assumption

theorem State.inboundWrite_wf (s : State) (n : Nat) :
    KeepsWf s (State.inboundWrite s n) := by
  unfold State.inboundWrite
  split
  · exact KeepsWf.refl _
  · rename_i y2 y3 y4 y5
    have h10 : KeepsWf s y4 := by
      refine KeepsWf.trans ?_ (KeepsWf.of_changes (State.takeArrival_changes y5) (by decide))
      exact KeepsWf.refl _
    refine KeepsWf.trans ?_ (KeepsWf.of_changes (State.commitArrival_changes ..) (by decide))
    refine KeepsWf.trans ?_ (State.storeArrival_wf ..)
    assumption

theorem State.putReported_wf (s : State) (a : Nat) (bs : List Byte) (job : Nat) (agent : Nat) :
    KeepsWf s (State.putReported s a bs job agent) := by
  unfold State.putReported
  split
  · rename_i y6 y7 y8
    have h9 : KeepsWf s y7 := by
      refine KeepsWf.of_fst ?_ y8
      refine KeepsWf.trans ?_ (State.writeWords_wf ..)
      exact KeepsWf.refl _
    assumption
  · rename_i y0 y1 y2 y3
    have h4 : KeepsWf s y1 := by
      refine KeepsWf.of_fst ?_ y3
      refine KeepsWf.trans ?_ (State.writeWords_wf ..)
      exact KeepsWf.refl _
    refine KeepsWf.trans ?_ (KeepsWf.of_changes (State.dpaUe_changes ..) (by decide))
    assumption

theorem State.setRs_wf (s : State) (slot : Nat) (leafAt : Nat) (rs : Nat) :
    KeepsWf s (State.setRs s slot leafAt rs) := by
  unfold State.setRs
  refine KeepsWf.trans ?_ (State.putReported_wf ..)
  exact KeepsWf.refl _

theorem State.startFetch_wf (s : State) (f : Fetch) :
    KeepsWf s (State.startFetch s f) := by
  unfold State.startFetch
  extract_lets a0 a1 a2 a3
  clear_value a0
  clear_value a1
  have h5 : KeepsWf s a2 := by
    unfold a2
    refine KeepsWf.trans ?_ (State.setRs_wf ..)
    refine KeepsWf.trans ?_ (KeepsWf.of_changes Changes.fetches (by decide))
    exact KeepsWf.refl _
  clear_value a2
  clear_value a3
  refine KeepsWf.ite ?_ ?_
  · refine KeepsWf.foldl ?_ (fun u0 x1 => ?_)
    · refine KeepsWf.trans ?_ (KeepsWf.of_changes (State.vaDenied_changes ..) (by decide))
      refine KeepsWf.trans ?_ (KeepsWf.of_changes Changes.fetches (by decide))
      exact KeepsWf.refl _
    · refine KeepsWf.trans ?_ (KeepsWf.of_changes (State.refuseStalled_changes ..) (by decide))
      exact KeepsWf.refl _
  · refine KeepsWf.trans ?_ (KeepsWf.of_changes (State.attachPkt_changes ..) (by decide))
    assumption

theorem State.startFetches_wf (n fuel : Nat) (s : State) : KeepsWf s (State.startFetches n fuel s) := by
  induction fuel generalizing s with
  | zero => exact KeepsWf.refl _
  | succ fuel ih =>
    unfold State.startFetches
    split
    · refine KeepsWf.trans ?_ (ih ..)
      exact State.startFetch_wf ..
    · exact KeepsWf.refl _

theorem State.nextFetch_wf (s : State) (n : Nat) :
    KeepsWf s (State.nextFetch s n) := by
  unfold State.nextFetch
  refine KeepsWf.trans ?_ (State.startFetches_wf ..)
  exact KeepsWf.refl _

theorem State.touchPage_wf (s : State) (slot : Nat) (va : Nat) (leafAt : Nat) (u : Nat) (eng : Nat) :
    KeepsWf s (State.touchPage s slot va leafAt u eng) := by
  unfold State.touchPage
  extract_lets a0 a1 a2 a3 a4
  clear_value a0
  clear_value a1
  clear_value a2
  clear_value a4
  refine KeepsWf.ite ?_ ?_
  · refine KeepsWf.trans ?_ (KeepsWf.of_changes Changes.fetches (by decide))
    exact KeepsWf.refl _
  · refine KeepsWf.trans ?_ (State.nextFetch_wf ..)
    refine KeepsWf.trans ?_ (KeepsWf.of_changes Changes.fetches (by decide))
    exact KeepsWf.refl _

theorem State.pageData_wf (s : State) (n : Nat) :
    KeepsWf s (State.pageData s n) := by
  unfold State.pageData
  split
  · exact KeepsWf.refl _
  · rename_i y13 y14 y15 y16
    have h17 : KeepsWf s y15 := by
      refine KeepsWf.trans ?_ (KeepsWf.of_changes (State.takeArrival_changes y16) (by decide))
      exact KeepsWf.refl _
    extract_lets a23 a24 a25
    clear_value a23
    have h26 : KeepsWf s a25 := by
      unfold a25
      split
      · assumption
      · extract_lets a12 a13 a14 a15
        clear_value a12
        have h21 : KeepsWf s a13 := by
          unfold a13
          refine KeepsWf.trans ?_ (State.putReported_wf ..)
          assumption
        clear_value a13
        clear_value a14
        have h5 : KeepsWf s a15 := by
          unfold a15
          refine KeepsWf.trans ?_ (KeepsWf.of_changes Changes.fetches (by decide))
          assumption
        clear_value a15
        refine KeepsWf.ite ?_ ?_
        · refine KeepsWf.trans ?_ (KeepsWf.of_changes (State.memFault_changes ..) (by decide))
          assumption
        · refine KeepsWf.ite ?_ ?_
          · refine KeepsWf.trans ?_ (KeepsWf.of_changes Changes.fetches (by decide))
            assumption
          · refine KeepsWf.trans ?_ (State.nextFetch_wf ..)
            refine KeepsWf.trans ?_ (State.incCtr_wf ..)
            refine KeepsWf.trans ?_ (State.setRs_wf ..)
            assumption
    clear_value a25
    refine KeepsWf.trans ?_ (KeepsWf.of_changes (State.commitArrival_changes ..) (by decide))
    assumption

theorem State.pageWb_wf (s : State) (n : Nat) :
    KeepsWf s (State.pageWb s n) := by
  unfold State.pageWb
  split
  · exact KeepsWf.refl _
  · rename_i y16 y17 y18 y19
    have h20 : KeepsWf s y18 := by
      refine KeepsWf.trans ?_ (KeepsWf.of_changes (State.takeArrival_changes y19) (by decide))
      exact KeepsWf.refl _
    refine KeepsWf.trans ?_ (KeepsWf.of_changes (State.commitArrival_changes ..) (by decide))
    refine KeepsWf.trans ?_ (State.storeArrival_wf ..)
    assumption

theorem State.releaseDone_wf (s : State) (n : Nat) (slot : Nat) (va : Nat) (leafAt : Nat) (wrote : Bool) :
    KeepsWf s (State.releaseDone s n slot va leafAt wrote) := by
  unfold State.releaseDone
  extract_lets a0 a1 a2
  have h3 : KeepsWf s a0 := by
    unfold a0
    refine KeepsWf.trans ?_ (State.setRs_wf ..)
    exact KeepsWf.refl _
  clear_value a0
  have h4 : KeepsWf s a1 := by
    unfold a1
    refine KeepsWf.ite ?_ ?_
    · refine KeepsWf.trans ?_ (State.incCtr_wf ..)
      assumption
    · assumption
  clear_value a1
  have h4 : KeepsWf s a2 := by
    unfold a2
    refine KeepsWf.trans ?_ (KeepsWf.of_changes Changes.wbs (by decide))
    assumption
  clear_value a2
  refine KeepsWf.trans ?_ (State.nextFetch_wf ..)
  assumption

theorem State.releasePage_wf (s : State) (n : Nat) (slot : Nat) (va : Nat) :
    KeepsWf s (State.releasePage s n slot va) := by
  unfold State.releasePage
  extract_lets a0 a1 a2 a3
  clear_value a0
  clear_value a1
  clear_value a2
  clear_value a3
  split
  · split
    · refine KeepsWf.trans ?_ (KeepsWf.of_changes (State.dpaUe_changes ..) (by decide))
      exact KeepsWf.refl _
    · exact KeepsWf.refl _
  · extract_lets a17 a18 a19 a20
    clear_value a17
    clear_value a18
    clear_value a19
    have h23 : KeepsWf s a20 := by
      unfold a20
      refine KeepsWf.trans ?_ (KeepsWf.of_changes Changes.wbs (by decide))
      exact KeepsWf.refl _
    clear_value a20
    refine KeepsWf.ite ?_ ?_
    · exact KeepsWf.refl _
    · refine KeepsWf.ite ?_ ?_
      · refine KeepsWf.trans ?_ (State.releaseDone_wf ..)
        exact KeepsWf.refl _
      · refine KeepsWf.ite ?_ ?_
        · refine KeepsWf.trans ?_ (KeepsWf.of_changes (State.vaDenied_changes ..) (by decide))
          exact KeepsWf.refl _
        · split
          · refine KeepsWf.trans ?_ (KeepsWf.of_changes (State.sendParts_changes ..) (by decide))
            refine KeepsWf.trans ?_ (KeepsWf.of_changes (State.dpaUe_changes ..) (by decide))
            exact KeepsWf.refl _
          · refine KeepsWf.trans ?_ (KeepsWf.of_changes (State.sendParts_changes ..) (by decide))
            assumption

theorem State.releaseJob_wf (s : State) (n : Nat) (slot : Nat) :
    KeepsWf s (State.releaseJob s n slot) := by
  unfold State.releaseJob
  refine KeepsWf.foldl ?_ (fun u0 x1 => ?_)
  · exact KeepsWf.refl _
  · refine KeepsWf.trans ?_ (State.releasePage_wf ..)
    exact KeepsWf.refl _

theorem State.abortPager_wf (s : State) (n : Nat) (slot : Nat) :
    KeepsWf s (State.abortPager s n slot) := by
  unfold State.abortPager
  extract_lets a0 a1 a2 a3 a4
  clear_value a0
  have h5 : KeepsWf s a1 := by
    unfold a1
    refine KeepsWf.trans ?_ (KeepsWf.of_changes Changes.fetches (by decide))
    exact KeepsWf.refl _
  clear_value a1
  have h7 : KeepsWf s a2 := by
    unfold a2
    refine KeepsWf.foldl ?_ (fun u8 x9 => ?_)
    · assumption
    · extract_lets a10
      have h11 : KeepsWf u8 a10 := by
        unfold a10
        refine KeepsWf.ite ?_ ?_
        · refine KeepsWf.trans ?_ (State.setRs_wf ..)
          exact KeepsWf.refl _
        · exact KeepsWf.refl _
      clear_value a10
      refine KeepsWf.foldl ?_ (fun u21 x22 => ?_)
      · assumption
      · refine KeepsWf.trans ?_ (KeepsWf.of_changes (State.endStalled_changes ..) (by decide))
        exact KeepsWf.refl _
  clear_value a2
  clear_value a3
  have h24 : KeepsWf s a4 := by
    unfold a4
    refine KeepsWf.foldl ?_ (fun u25 x26 => ?_)
    · assumption
    · refine KeepsWf.trans ?_ (KeepsWf.of_changes (State.dropMsg_changes ..) (by decide))
      exact KeepsWf.refl _
  clear_value a4
  refine KeepsWf.trans ?_ (State.nextFetch_wf ..)
  refine KeepsWf.trans ?_ (KeepsWf.of_changes Changes.wbs (by decide))
  assumption

theorem State.writePgcmd_wf (s : State) (n : Nat) (w : Word) :
    KeepsWf s (State.writePgcmd s n w) := by
  unfold State.writePgcmd
  extract_lets a0 a1
  clear_value a0
  clear_value a1
  refine KeepsWf.ite ?_ ?_
  · exact KeepsWf.refl _
  · refine KeepsWf.ite ?_ ?_
    · refine KeepsWf.trans ?_ (State.releasePage_wf ..)
      exact KeepsWf.refl _
    · refine KeepsWf.ite ?_ ?_
      · refine KeepsWf.trans ?_ (State.releaseJob_wf ..)
        exact KeepsWf.refl _
      · refine KeepsWf.ite ?_ ?_
        · refine KeepsWf.trans ?_ (State.abortPager_wf ..)
          exact KeepsWf.refl _
        · exact KeepsWf.refl _

end Sys2Proof.Machine
end

