-- ==== Sys2Proof/Laws/Groups.lean ====
section
/-!
SUPPORT. What each operation of Machine/Groups.lean may change (`_changes`), and that those which write a memory keep its
canonical form (`_wf`).
-/

namespace Sys2Proof.Machine

theorem State.countDrop_changes (s : State) (reason : Nat) :
    Changes [.regs, .dsp] s (State.countDrop s reason) := by
  unfold State.countDrop
  refine Changes.step ?_ (State.raise_changes ..) (by decide)
  refine Changes.step ?_ Changes.dsp (by decide)
  exact Changes.refl _ _

theorem State.dropBuffer_changes (s : State) (h : Word) (reason : Nat) :
    Changes [.regs, .poolUsed, .dsp] s (State.dropBuffer s h reason) := by
  unfold State.dropBuffer
  refine Changes.step ?_ (State.countDrop_changes ..) (by decide)
  refine Changes.step ?_ (State.freeBuffer_changes ..) (by decide)
  exact Changes.refl _ _

theorem State.dspFault_changes (s : State) (code : Nat) (job : Nat) (g : Nat) :
    Changes [.regs] s (State.dspFault s code job g) := by
  unfold State.dspFault
  refine Changes.ite ?_ ?_
  · refine Changes.step ?_ (State.setReg_changes ..) (by decide)
    exact Changes.refl _ _
  · exact Changes.refl _ _

theorem State.faultGroup_changes (s : State) (g : Nat) (code : Nat) :
    Changes [.regs, .poolUsed, .dsp] s (State.faultGroup s g code) := by
  unfold State.faultGroup
  extract_lets a0 a1 a2 a3 a4 a5
  clear_value a0
  clear_value a1
  have h0 : Changes [.regs, .poolUsed, .dsp] s a2 := by
    unfold a2
    refine Changes.foldl ?_ (fun u5 x6 => ?_)
    · exact Changes.refl _ _
    · refine Changes.step ?_ (State.dropBuffer_changes ..) (by decide)
      exact Changes.refl _ _
  clear_value a2
  have h7 : Changes [.regs, .poolUsed, .dsp] s a3 := by
    unfold a3
    refine Changes.step ?_ (State.setGroup_changes ..) (by decide)
    assumption
  clear_value a3
  have h10 : Changes [.regs, .poolUsed, .dsp] s a4 := by
    unfold a4
    refine Changes.step ?_ (State.raise_changes ..) (by decide)
    refine Changes.step ?_ (State.dspFault_changes ..) (by decide)
    assumption
  clear_value a4
  clear_value a5
  refine Changes.step ?_ Changes.dsp (by decide)
  assumption

theorem State.coreFaultGroup_changes (s : State) (u : Nat) (code : Nat) :
    Changes [.regs, .poolUsed, .dsp] s (State.coreFaultGroup s u code) := by
  unfold State.coreFaultGroup
  split
  · extract_lets a4
    clear_value a4
    refine Changes.ite ?_ ?_
    · refine Changes.step ?_ (State.faultGroup_changes ..) (by decide)
      exact Changes.refl _ _
    · exact Changes.refl _ _
  · exact Changes.refl _ _

end Sys2Proof.Machine
end

