-- ==== Sys2Proof/Laws/Messages.lean ====
section
/-!
SUPPORT. What each operation of Machine/Messages.lean may change (`_changes`), and that those which write a memory keep its
canonical form (`_wf`).
-/

namespace Sys2Proof.Machine

theorem State.semFault_changes (s : State) (u : Nat) (i : Nat) (source : Nat) (operand : Nat) :
    Changes [.regs, .owed] s (State.semFault s u i source operand) := by
  unfold State.semFault
  extract_lets a0 a1
  clear_value a0
  have h0 : Changes [.regs, .owed] s a1 := by
    unfold a1
    refine Changes.ite ?_ ?_
    · refine Changes.step ?_ (State.setReg_changes ..) (by decide)
      refine Changes.step ?_ (State.setReg_changes ..) (by decide)
      refine Changes.step ?_ (State.setReg_changes ..) (by decide)
      exact Changes.refl _ _
    · exact Changes.refl _ _
  clear_value a1
  refine Changes.step ?_ (State.owe_changes ..) (by decide)
  refine Changes.step ?_ (State.raise_changes ..) (by decide)
  assumption

theorem State.semUpdate_changes (s : State) (u : Nat) (i : Nat) (source : Nat) (operand : Nat) :
    Changes [.regs, .sems, .owed] s (State.semUpdate s u i source operand) := by
  unfold State.semUpdate
  extract_lets a0
  clear_value a0
  refine Changes.ite ?_ ?_
  · refine Changes.step ?_ (State.semFault_changes ..) (by decide)
    exact Changes.refl _ _
  · refine Changes.step ?_ (State.setSem_changes ..) (by decide)
    exact Changes.refl _ _

theorem State.receiveSemAdd_changes (s : State) (u : Nat) :
    Changes [.regs, .sems, .inbox, .commits, .owed] s (State.receiveSemAdd s u) := by
  unfold State.receiveSemAdd
  split
  · exact Changes.refl _ _
  · rename_i y3 y4 y5 y6
    have h7 : Changes [.regs, .sems, .inbox, .commits, .owed] s y5 := by
      refine Changes.step ?_ (State.takeArrival_changes y6) (by decide)
      exact Changes.refl _ _
    extract_lets a8 a9 a10
    clear_value a8
    clear_value a9
    clear_value a10
    refine Changes.ite ?_ ?_
    · refine Changes.step ?_ (State.semUpdate_changes ..) (by decide)
      assumption
    · refine Changes.step ?_ Changes.commits (by decide)
      assumption

theorem State.writeSemdata_changes (s : State) (n : Nat) (w : Word) :
    Changes [.sems] s (State.writeSemdata s n w) := by
  unfold State.writeSemdata
  extract_lets a0
  clear_value a0
  refine Changes.ite ?_ ?_
  · refine Changes.step ?_ (State.setSem_changes ..) (by decide)
    exact Changes.refl _ _
  · exact Changes.refl _ _

theorem State.trackerCount_changes (s : State) :
    Changes [.regs, .sems, .attach, .commits, .trackers, .owed, .nextId] s (State.trackerCount s) := by
  unfold State.trackerCount
  split
  · exact Changes.refl _ _
  · extract_lets a6 a7 a8 a9
    clear_value a7
    have h1 : Changes [.regs, .sems, .attach, .commits, .trackers, .owed, .nextId] s a9 := by
      unfold a9
      refine Changes.step ?_ Changes.commits (by decide)
      exact Changes.refl _ _
    clear_value a9
    refine Changes.ite ?_ ?_
    · refine Changes.step ?_ Changes.trackers (by decide)
      assumption
    · split
      · rename_i y27 y28 y29 y30
        have h31 : Changes [.regs, .sems, .attach, .commits, .trackers, .owed, .nextId] s y28 := by
          refine Changes.of_fst ?_ y30
          split
          · refine Changes.mkFst ?_
            refine Changes.step ?_ (State.semUpdate_changes ..) (by decide)
            assumption
          · refine Changes.mkFst ?_
            assumption
        refine Changes.ite ?_ ?_
        · refine Changes.step ?_ Changes.trackers (by decide)
          assumption
        · refine Changes.step ?_ (State.attachPkt_changes ..) (by decide)
          refine Changes.step ?_ Changes.trackers (by decide)
          assumption

theorem State.updColl_changes (s : State) (id : Nat) (f : Coll → Coll) :
    Changes [.colls] s (State.updColl s id f) := by
  unfold State.updColl
  refine Changes.step ?_ Changes.colls (by decide)
  exact Changes.refl _ _

theorem State.ownerDone_changes (s : State) (o : Owner) :
    Changes [.regs, .cnt, .dpa, .ue, .attach, .cores, .colls, .owed, .fetches, .wbs, .jobs, .nextId] s
        (State.ownerDone s o) := by
  unfold State.ownerDone
  split
  · refine Changes.step ?_ (State.dmaDone_changes ..) (by decide)
    exact Changes.refl _ _
  · split
    · refine Changes.step ?_ (State.releaseDone_changes ..) (by decide)
      exact Changes.refl _ _
    · exact Changes.refl _ _
  · exact Changes.refl _ _
  · refine Changes.step ?_ (State.updColl_changes ..) (by decide)
    exact Changes.refl _ _
  · refine Changes.step ?_ (State.updColl_changes ..) (by decide)
    exact Changes.refl _ _
  · exact Changes.refl _ _
  · exact Changes.refl _ _
  · extract_lets a25
    clear_value a25
    refine Changes.step ?_ (State.setJob_changes ..) (by decide)
    exact Changes.refl _ _

theorem State.closeMsg_changes (s : State) (m : Msg) :
    Changes [.msgs] s (State.closeMsg s m) := by
  unfold State.closeMsg
  refine Changes.step ?_ Changes.msgs (by decide)
  exact Changes.refl _ _

theorem State.receiveComplete_changes (s : State) :
    Changes [.regs, .cnt, .dpa, .ue, .attach, .msgs, .inbox, .cores, .colls, .owed, .fetches, .wbs, .jobs, .nextId] s
        (State.receiveComplete s) := by
  unfold State.receiveComplete
  extract_lets a0
  split
  · exact Changes.refl _ _
  · extract_lets a12
    have h13 : Changes [.regs, .cnt, .dpa, .ue, .attach, .msgs, .inbox, .cores, .colls, .owed, .fetches, .wbs, .jobs,
        .nextId] s a12 := by
      unfold a12
      refine Changes.step ?_ Changes.inbox (by decide)
      exact Changes.refl _ _
    clear_value a12
    split
    · assumption
    · refine Changes.step ?_ (State.ownerDone_changes ..) (by decide)
      refine Changes.step ?_ (State.closeMsg_changes ..) (by decide)
      assumption

/-! ### Canonical form -/

theorem State.semUpdate_wf (s : State) (u : Nat) (i : Nat) (source : Nat) (operand : Nat) :
    KeepsWf s (State.semUpdate s u i source operand) := by
  unfold State.semUpdate
  extract_lets a0
  clear_value a0
  refine KeepsWf.ite ?_ ?_
  · refine KeepsWf.trans ?_ (KeepsWf.of_changes (State.semFault_changes ..) (by decide))
    exact KeepsWf.refl _
  · refine KeepsWf.trans ?_ (State.setSem_wf ..)
    exact KeepsWf.refl _

theorem State.receiveSemAdd_wf (s : State) (u : Nat) :
    KeepsWf s (State.receiveSemAdd s u) := by
  unfold State.receiveSemAdd
  split
  · exact KeepsWf.refl _
  · rename_i y3 y4 y5 y6
    have h7 : KeepsWf s y5 := by
      refine KeepsWf.trans ?_ (KeepsWf.of_changes (State.takeArrival_changes y6) (by decide))
      exact KeepsWf.refl _
    extract_lets a0 a1 a2
    clear_value a0
    clear_value a1
    clear_value a2
    refine KeepsWf.ite ?_ ?_
    · refine KeepsWf.trans ?_ (State.semUpdate_wf ..)
      assumption
    · refine KeepsWf.trans ?_ (KeepsWf.of_changes Changes.commits (by decide))
      assumption

theorem State.writeSemdata_wf (s : State) (n : Nat) (w : Word) :
    KeepsWf s (State.writeSemdata s n w) := by
  unfold State.writeSemdata
  extract_lets a0
  clear_value a0
  refine KeepsWf.ite ?_ ?_
  · refine KeepsWf.trans ?_ (State.setSem_wf ..)
    exact KeepsWf.refl _
  · exact KeepsWf.refl _

theorem State.trackerCount_wf (s : State) :
    KeepsWf s (State.trackerCount s) := by
  unfold State.trackerCount
  split
  · exact KeepsWf.refl _
  · extract_lets a17 a18 a19 a20
    clear_value a18
    have h20 : KeepsWf s a20 := by
      unfold a20
      refine KeepsWf.trans ?_ (KeepsWf.of_changes Changes.commits (by decide))
      exact KeepsWf.refl _
    clear_value a20
    refine KeepsWf.ite ?_ ?_
    · refine KeepsWf.trans ?_ (KeepsWf.of_changes Changes.trackers (by decide))
      assumption
    · split
      · rename_i y31 y32 y33 y34
        have h35 : KeepsWf s y32 := by
          refine KeepsWf.of_fst ?_ y34
          split
          · refine KeepsWf.mkFst ?_
            refine KeepsWf.trans ?_ (State.semUpdate_wf ..)
            assumption
          · refine KeepsWf.mkFst ?_
            assumption
        refine KeepsWf.ite ?_ ?_
        · refine KeepsWf.trans ?_ (KeepsWf.of_changes Changes.trackers (by decide))
          assumption
        · refine KeepsWf.trans ?_ (KeepsWf.of_changes (State.attachPkt_changes ..) (by decide))
          refine KeepsWf.trans ?_ (KeepsWf.of_changes Changes.trackers (by decide))
          assumption

theorem State.ownerDone_wf (s : State) (o : Owner) :
    KeepsWf s (State.ownerDone s o) := by
  unfold State.ownerDone
  split
  · refine KeepsWf.trans ?_ (KeepsWf.of_changes (State.dmaDone_changes ..) (by decide))
    exact KeepsWf.refl _
  · split
    · refine KeepsWf.trans ?_ (State.releaseDone_wf ..)
      exact KeepsWf.refl _
    · exact KeepsWf.refl _
  · exact KeepsWf.refl _
  · refine KeepsWf.trans ?_ (KeepsWf.of_changes (State.updColl_changes ..) (by decide))
    exact KeepsWf.refl _
  · refine KeepsWf.trans ?_ (KeepsWf.of_changes (State.updColl_changes ..) (by decide))
    exact KeepsWf.refl _
  · exact KeepsWf.refl _
  · exact KeepsWf.refl _
  · extract_lets a25
    clear_value a25
    refine KeepsWf.trans ?_ (KeepsWf.of_changes (State.setJob_changes ..) (by decide))
    exact KeepsWf.refl _

theorem State.receiveComplete_wf (s : State) :
    KeepsWf s (State.receiveComplete s) := by
  unfold State.receiveComplete
  extract_lets a3
  split
  · exact KeepsWf.refl _
  · extract_lets a15
    have h16 : KeepsWf s a15 := by
      unfold a15
      refine KeepsWf.trans ?_ (KeepsWf.of_changes Changes.inbox (by decide))
      exact KeepsWf.refl _
    clear_value a15
    split
    · assumption
    · refine KeepsWf.trans ?_ (State.ownerDone_wf ..)
      refine KeepsWf.trans ?_ (KeepsWf.of_changes (State.closeMsg_changes ..) (by decide))
      assumption

end Sys2Proof.Machine
end

