-- ==== Sys2Proof/Laws/CoreMem.lean ====
section
/-!
SUPPORT. What each operation of Machine/CoreMem.lean may change (`_changes`), and that those which write a memory keep its
canonical form (`_wf`).
-/

namespace Sys2Proof.Machine

theorem State.lsPut_changes (s : State) (u : Nat) (a : Nat) (bs : List Byte) :
    Changes [.cores] s (State.lsPut s u a bs) := by
  unfold State.lsPut
  extract_lets a0 a1 a2
  clear_value a0
  clear_value a1
  clear_value a2
  refine Changes.step ?_ (State.setCore_changes ..) (by decide)
  exact Changes.refl _ _

theorem State.clearSticky_changes (s : State) (u : Nat) (bits : BitVec 5) :
    Changes [.cores] s (State.clearSticky s u bits) := by
  unfold State.clearSticky
  extract_lets a0
  clear_value a0
  refine Changes.step ?_ (State.setCore_changes ..) (by decide)
  exact Changes.refl _ _

theorem State.foldCore_changes (s : State) (u : Nat) :
    Changes [.regs, .cnt, .ls, .acc, .accFlags, .accBank1, .ue, .cores] s (State.foldCore s u) := by
  unfold State.foldCore
  extract_lets a1 a2 a3 a4 a5 a6 a7 a8 a9 a10 a11
  clear_value a1
  clear_value a2
  clear_value a3
  have h13 : Changes [.regs, .cnt, .ls, .acc, .accFlags, .accBank1, .ue, .cores] s a4 := by
    unfold a4
    refine Changes.foldl ?_ (fun u21 x22 => ?_)
    · exact Changes.refl _ _
    · refine Changes.step ?_ (State.healed_changes ..) (by decide)
      refine Changes.step ?_ Changes.ls (by decide)
      exact Changes.refl _ _
  clear_value a4
  have h23 : Changes [.regs, .cnt, .ls, .acc, .accFlags, .accBank1, .ue, .cores] s a5 := by
    unfold a5
    refine Changes.foldl ?_ (fun u26 x27 => ?_)
    · assumption
    · extract_lets a28 a29 a30
      clear_value a28
      clear_value a29
      clear_value a30
      refine Changes.step ?_ (State.healed_changes ..) (by decide)
      refine Changes.step ?_ Changes.acc_accFlags (by decide)
      exact Changes.refl _ _
  clear_value a5
  have h31 : Changes [.regs, .cnt, .ls, .acc, .accFlags, .accBank1, .ue, .cores] s a6 := by
    unfold a6
    refine Changes.foldl ?_ (fun u32 x33 => ?_)
    · assumption
    · extract_lets a34
      clear_value a34
      refine Changes.step ?_ Changes.accBank1 (by decide)
      exact Changes.refl _ _
  clear_value a6
  have h35 : Changes [.regs, .cnt, .ls, .acc, .accFlags, .accBank1, .ue, .cores] s a7 := by
    unfold a7
    refine Changes.step ?_ (State.setReg_changes ..) (by decide)
    assumption
  clear_value a7
  have h36 : Changes [.regs, .cnt, .ls, .acc, .accFlags, .accBank1, .ue, .cores] s a8 := by
    unfold a8
    refine Changes.step ?_ (State.setReg_changes ..) (by decide)
    assumption
  clear_value a8
  have h37 : Changes [.regs, .cnt, .ls, .acc, .accFlags, .accBank1, .ue, .cores] s a9 := by
    unfold a9
    refine Changes.step ?_ (State.addCtr_changes ..) (by decide)
    assumption
  clear_value a9
  have h38 : Changes [.regs, .cnt, .ls, .acc, .accFlags, .accBank1, .ue, .cores] s a10 := by
    unfold a10
    refine Changes.step ?_ (State.addCtr_changes ..) (by decide)
    assumption
  clear_value a10
  have h39 : Changes [.regs, .cnt, .ls, .acc, .accFlags, .accBank1, .ue, .cores] s a11 := by
    unfold a11
    refine Changes.step ?_ Changes.ue (by decide)
    assumption
  clear_value a11
  refine Changes.step ?_ (State.setCore_changes ..) (by decide)
  assumption

theorem State.decay_changes (s : State) (w : MemSpace × Nat) :
    Changes [.ue, .cores] s (State.decay s w) := by
  unfold State.decay
  extract_lets a0
  split
  · unfold a0
    extract_lets a12
    clear_value a12
    refine Changes.step ?_ (State.setCore_changes ..) (by decide)
    exact Changes.refl _ _
  · unfold a0
    extract_lets a17
    clear_value a17
    refine Changes.step ?_ (State.setCore_changes ..) (by decide)
    exact Changes.refl _ _
  · refine Changes.ite ?_ ?_
    · exact Changes.refl _ _
    · refine Changes.step ?_ Changes.ue (by decide)
      exact Changes.refl _ _

theorem State.corrected_changes (s : State) (n : Nat) (k : Nat) :
    Changes [.regs, .cnt] s (State.corrected s n k) := by
  unfold State.corrected
  refine Changes.ite ?_ ?_
  · exact Changes.refl _ _
  · extract_lets a0
    have h4 : Changes [.regs, .cnt] s a0 := by
      unfold a0
      refine Changes.step ?_ (State.raise_changes ..) (by decide)
      refine Changes.step ?_ (State.addCtr_changes ..) (by decide)
      exact Changes.refl _ _
    clear_value a0
    refine Changes.ite ?_ ?_
    · refine Changes.step ?_ (State.raise_changes ..) (by decide)
      assumption
    · assumption

theorem State.scrub_changes (s : State) (n : Nat) (corrected : Nat) (decayed : List (MemSpace × Nat)) :
    Changes [.regs, .cnt, .ue, .cores] s (State.scrub s n corrected decayed) := by
  unfold State.scrub
  extract_lets a0 a1 a2
  have h3 : Changes [.regs, .cnt, .ue, .cores] s a0 := by
    unfold a0
    refine Changes.foldl ?_ (fun u4 x5 => ?_)
    · exact Changes.refl _ _
    · refine Changes.step ?_ (State.decay_changes ..) (by decide)
      exact Changes.refl _ _
  clear_value a0
  have h6 : Changes [.regs, .cnt, .ue, .cores] s a1 := by
    unfold a1
    refine Changes.step ?_ (State.corrected_changes ..) (by decide)
    assumption
  clear_value a1
  clear_value a2
  refine Changes.ite ?_ ?_
  · assumption
  · refine Changes.ite ?_ ?_
    · assumption
    · refine Changes.foldl ?_ (fun u7 x8 => ?_)
      · assumption
      · refine Changes.step ?_ (State.dpaFound_changes ..) (by decide)
        exact Changes.refl _ _

/-! ### Canonical form -/

theorem State.foldCore_wf (s : State) (u : Nat) : KeepsWf s (State.foldCore s u) := by
  unfold State.foldCore
  extract_lets k bad badAcc s1 s2 s3 s4 s5 s6 s7 s8
  have h1 : KeepsWf s s1 := by
    refine KeepsWf.foldl (KeepsWf.refl _) fun t w => ?_
    refine KeepsWf.trans ?_ (KeepsWf.of_changes (State.healed_changes ..) (by decide))
    exact KeepsWf.ls fun h => memWf_wrBytes h _ _
  clear_value s1
  have h2 : KeepsWf s s2 := by
    refine KeepsWf.foldl h1 fun t w => ?_
    refine KeepsWf.trans ?_ (KeepsWf.of_changes (State.healed_changes ..) (by decide))
    refine KeepsWf.trans (KeepsWf.acc (v := w.vals.zipIdx.foldl (fun m p => mset 0 m
        (bankKey u w.slot w.bank * 8192 + p.2) p.1) t.acc)
      fun h => mwf_foldl_mset h _ _ _) ?_
    exact KeepsWf.accFlags fun h => mwf_mset h _ _
  clear_value s2
  have h3 : KeepsWf s s3 :=
    KeepsWf.foldl h2 fun _ _ => KeepsWf.accBank1 fun h => mwf_mset h _ _
  clear_value s3
  have h4 : KeepsWf s s4 := h3.trans (KeepsWf.of_changes (State.setReg_changes ..) (by decide))
  clear_value s4
  have h5 : KeepsWf s s5 := h4.trans (KeepsWf.of_changes (State.setReg_changes ..) (by decide))
  clear_value s5
  have h6 : KeepsWf s s6 := h5.trans (State.addCtr_wf ..)
  clear_value s6
  have h7 : KeepsWf s s7 := h6.trans (State.addCtr_wf ..)
  clear_value s7
  have h8 : KeepsWf s s8 := h7.trans (KeepsWf.of_changes Changes.ue (by decide))
  exact h8.trans (KeepsWf.of_changes (State.setCore_changes ..) (by decide))

theorem State.corrected_wf (s : State) (n : Nat) (k : Nat) :
    KeepsWf s (State.corrected s n k) := by
  unfold State.corrected
  refine KeepsWf.ite ?_ ?_
  · exact KeepsWf.refl _
  · extract_lets a6
    have h7 : KeepsWf s a6 := by
      unfold a6
      refine KeepsWf.trans ?_ (KeepsWf.of_changes (State.raise_changes ..) (by decide))
      refine KeepsWf.trans ?_ (State.addCtr_wf ..)
      exact KeepsWf.refl _
    clear_value a6
    refine KeepsWf.ite ?_ ?_
    · refine KeepsWf.trans ?_ (KeepsWf.of_changes (State.raise_changes ..) (by decide))
      assumption
    · assumption

theorem State.scrub_wf (s : State) (n : Nat) (corrected : Nat) (decayed : List (MemSpace × Nat)) :
    KeepsWf s (State.scrub s n corrected decayed) := by
  unfold State.scrub
  extract_lets a0 a1 a2
  have h3 : KeepsWf s a0 := by
    unfold a0
    refine KeepsWf.foldl ?_ (fun u4 x5 => ?_)
    · exact KeepsWf.refl _
    · refine KeepsWf.trans ?_ (KeepsWf.of_changes (State.decay_changes ..) (by decide))
      exact KeepsWf.refl _
  clear_value a0
  have h6 : KeepsWf s a1 := by
    unfold a1
    refine KeepsWf.trans ?_ (State.corrected_wf ..)
    assumption
  clear_value a1
  clear_value a2
  refine KeepsWf.ite ?_ ?_
  · assumption
  · refine KeepsWf.ite ?_ ?_
    · assumption
    · refine KeepsWf.foldl ?_ (fun u7 x8 => ?_)
      · assumption
      · refine KeepsWf.trans ?_ (KeepsWf.of_changes (State.dpaFound_changes ..) (by decide))
        exact KeepsWf.refl _

end Sys2Proof.Machine
end

