-- ==== Sys2Proof/Laws/Time.lean ====
section
/-!
SUPPORT. What each operation of Machine/Time.lean may change (`_changes`), and that those which write a memory keep its
canonical form (`_wf`).
-/

namespace Sys2Proof.Machine

theorem State.sendStamped_changes (s : State) (n : Nat) (l : Nat) (v : Nat) :
    Changes [.links] s (State.sendStamped s n l v) := by
  unfold State.sendStamped
  refine Changes.step ?_ (State.sendFlit_changes ..) (by decide)
  exact Changes.refl _ _

theorem State.queueTime_changes (s : State) (lane : Nat) (v : Nat) :
    Changes [.links] s (State.queueTime s lane v) := by
  unfold State.queueTime
  extract_lets a0 a1 a2
  clear_value a0
  clear_value a1
  clear_value a2
  refine Changes.ite ?_ ?_
  · refine Changes.step ?_ (State.setLink_changes ..) (by decide)
    exact Changes.refl _ _
  · exact Changes.refl _ _

theorem State.setTime_changes (s : State) (t : FabricTime) :
    Changes [.time] s (State.setTime s t) := by
  unfold State.setTime
  refine Changes.step ?_ Changes.time (by decide)
  exact Changes.refl _ _

theorem State.sendSync_changes (s : State) (n : Nat) (l : Nat) :
    Changes [.links] s (State.sendSync s n l) := by
  unfold State.sendSync
  refine Changes.ite ?_ ?_
  · extract_lets a0
    clear_value a0
    refine Changes.step ?_ (State.sendStamped_changes ..) (by decide)
    refine Changes.step ?_ (State.setLink_changes ..) (by decide)
    exact Changes.refl _ _
  · exact Changes.refl _ _

theorem State.sendEpoch_changes (s : State) (n : Nat) (l : Nat) :
    Changes [.links] s (State.sendEpoch s n l) := by
  unfold State.sendEpoch
  refine Changes.ite ?_ ?_
  · extract_lets a0
    clear_value a0
    refine Changes.step ?_ (State.sendStamped_changes ..) (by decide)
    refine Changes.step ?_ (State.setLink_changes ..) (by decide)
    exact Changes.refl _ _
  · exact Changes.refl _ _

theorem State.loadTime_changes (s : State) (v : Dword) :
    Changes [.time] s (State.loadTime s v) := by
  unfold State.loadTime
  refine Changes.step ?_ (State.setTime_changes ..) (by decide)
  exact Changes.refl _ _

theorem State.receiveSync_changes (s : State) (n : Nat) (l : Nat) (t1 : Nat) :
    Changes [.links, .time] s (State.receiveSync s n l t1) := by
  unfold State.receiveSync
  refine Changes.ite ?_ ?_
  · exact Changes.refl _ _
  · refine Changes.ite ?_ ?_
    · extract_lets a0 a1
      clear_value a0
      clear_value a1
      refine Changes.step ?_ (State.sendStamped_changes ..) (by decide)
      exact Changes.refl _ _
    · refine Changes.ite ?_ ?_
      · split
        · extract_lets a3 a4
          have h5 : Changes [.links, .time] s a3 := by
            unfold a3
            refine Changes.step ?_ (State.loadTime_changes ..) (by decide)
            exact Changes.refl _ _
          clear_value a3
          clear_value a4
          refine Changes.step ?_ (State.setTime_changes ..) (by decide)
          assumption
        · exact Changes.refl _ _
      · exact Changes.refl _ _

theorem State.receiveEpoch_changes (s : State) (n : Nat) (l : Nat) (hi : Nat) :
    Changes [.time] s (State.receiveEpoch s n l hi) := by
  unfold State.receiveEpoch
  refine Changes.ite ?_ ?_
  · refine Changes.step ?_ (State.setTime_changes ..) (by decide)
    exact Changes.refl _ _
  · exact Changes.refl _ _

theorem State.enterHoldover_changes (s : State) :
    Changes [.regs, .time] s (State.enterHoldover s) := by
  unfold State.enterHoldover
  refine Changes.ite ?_ ?_
  · refine Changes.step ?_ (State.raise_changes ..) (by decide)
    refine Changes.step ?_ (State.setTime_changes ..) (by decide)
    exact Changes.refl _ _
  · exact Changes.refl _ _

theorem State.receiveEcho_changes (s : State) (n : Nat) (l : Nat) (d : Int) (void : Bool) (t3 : Nat) :
    Changes [.regs, .time] s (State.receiveEcho s n l d void t3) := by
  unfold State.receiveEcho
  refine Changes.ite ?_ ?_
  · exact Changes.refl _ _
  · extract_lets a0 a1 a2 a3 a4 a5 a6 a7
    clear_value a0
    clear_value a1
    have h6 : Changes [.regs, .time] s a2 := by
      unfold a2
      refine Changes.step ?_ (State.setReg_changes ..) (by decide)
      refine Changes.step ?_ (State.setReg_changes ..) (by decide)
      exact Changes.refl _ _
    clear_value a2
    clear_value a3
    clear_value a4
    clear_value a5
    clear_value a6
    clear_value a7
    refine Changes.ite ?_ ?_
    · exact Changes.refl _ _
    · refine Changes.ite ?_ ?_
      · refine Changes.step ?_ (State.raise_changes ..) (by decide)
        refine Changes.step ?_ (State.setTime_changes ..) (by decide)
        assumption
      · refine Changes.step ?_ (State.setTime_changes ..) (by decide)
        assumption

theorem State.timeSilent_changes (s : State) :
    Changes [.regs, .time] s (State.timeSilent s) := by
  unfold State.timeSilent
  refine Changes.ite ?_ ?_
  · refine Changes.step ?_ (State.enterHoldover_changes ..) (by decide)
    exact Changes.refl _ _
  · exact Changes.refl _ _

theorem State.loadSet_changes (s : State) :
    Changes [.regs, .time] s (State.loadSet s) := by
  unfold State.loadSet
  extract_lets a0
  clear_value a0
  refine Changes.ite ?_ ?_
  · refine Changes.step ?_ (State.raise_changes ..) (by decide)
    exact Changes.refl _ _
  · refine Changes.step ?_ (State.loadTime_changes ..) (by decide)
    exact Changes.refl _ _

theorem State.writeTimeCmd_changes (s : State) (w : Word) :
    Changes [.regs, .time] s (State.writeTimeCmd s w) := by
  unfold State.writeTimeCmd
  extract_lets a0 a1 a2
  clear_value a0
  clear_value a1
  clear_value a2
  refine Changes.ite ?_ ?_
  · exact Changes.refl _ _
  · refine Changes.ite ?_ ?_
    · refine Changes.step ?_ (State.raise_changes ..) (by decide)
      exact Changes.refl _ _
    · refine Changes.ite ?_ ?_
      · refine Changes.step ?_ (State.loadSet_changes ..) (by decide)
        exact Changes.refl _ _
      · refine Changes.step ?_ (State.setTime_changes ..) (by decide)
        exact Changes.refl _ _

theorem State.ftSync_changes (s : State) (ns : Nat) :
    Changes [.regs, .cnt, .time] s (State.ftSync s ns) := by
  unfold State.ftSync
  refine Changes.ite ?_ ?_
  · exact Changes.refl _ _
  · extract_lets a0 a1
    have h2 : Changes [.regs, .cnt, .time] s a0 := by
      unfold a0
      refine Changes.step ?_ Changes.cnt (by decide)
      exact Changes.refl _ _
    clear_value a0
    clear_value a1
    refine Changes.ite ?_ ?_
    · refine Changes.step ?_ (State.loadSet_changes ..) (by decide)
      refine Changes.step ?_ (State.setTime_changes ..) (by decide)
      assumption
    · assumption

theorem State.tick_changes (s : State) :
    Changes [.time] s (State.tick s) := by
  unfold State.tick
  extract_lets a0 a1 a2
  clear_value a0
  clear_value a1
  clear_value a2
  refine Changes.ite ?_ ?_
  · exact Changes.refl _ _
  · refine Changes.ite ?_ ?_
    · refine Changes.step ?_ (State.setTime_changes ..) (by decide)
      exact Changes.refl _ _
    · split
      · split
        · refine Changes.step ?_ (State.setTime_changes ..) (by decide)
          exact Changes.refl _ _

theorem State.timeFault_changes (s : State) (b : Nat) (code : Nat) (job : Nat) :
    Changes [.regs] s (State.timeFault s b code job) := by
  unfold State.timeFault
  extract_lets a0
  have h1 : Changes [.regs] s a0 := by
    unfold a0
    refine Changes.ite ?_ ?_
    · refine Changes.step ?_ (State.setReg_changes ..) (by decide)
      exact Changes.refl _ _
    · exact Changes.refl _ _
  clear_value a0
  refine Changes.step ?_ (State.raise_changes ..) (by decide)
  refine Changes.step ?_ (State.markJob_changes ..) (by decide)
  assumption

theorem State.failShutter_changes (s : State) (b : Nat) (code : Nat) :
    Changes [.regs, .shutters] s (State.failShutter s b code) := by
  unfold State.failShutter
  extract_lets a0
  clear_value a0
  split
  · exact Changes.refl _ _
  · exact Changes.refl _ _
  · refine Changes.step ?_ (State.timeFault_changes ..) (by decide)
    refine Changes.step ?_ (State.setShutter_changes ..) (by decide)
    exact Changes.refl _ _

theorem State.collect_changes (s : State) (b : Nat) :
    Changes [.links, .shutters] s (State.collect s b) := by
  unfold State.collect
  extract_lets a2 a3 a4
  clear_value a2
  clear_value a3
  have h15 : Changes [.links, .shutters] s a4 := by
    unfold a4
    refine Changes.step ?_ (State.setShutter_changes ..) (by decide)
    exact Changes.refl _ _
  clear_value a4
  refine Changes.ite ?_ ?_
  · exact Changes.refl _ _
  · refine Changes.ite ?_ ?_
    · refine Changes.foldl ?_ (fun u2 x3 => ?_)
      · refine Changes.step ?_ (State.setShutter_changes ..) (by decide)
        exact Changes.refl _ _
      · refine Changes.step ?_ (State.queueTime_changes ..) (by decide)
        exact Changes.refl _ _
    · split
      · refine Changes.step ?_ (State.queueTime_changes ..) (by decide)
        assumption
      · assumption

theorem State.release_changes (s : State) (b : Nat) :
    Changes [.regs, .sems, .links, .owed, .shutters] s (State.release s b) := by
  unfold State.release
  extract_lets a0 a1 a2
  clear_value a0
  have h3 : Changes [.regs, .sems, .links, .owed, .shutters] s a1 := by
    unfold a1
    refine Changes.foldl ?_ (fun u4 x5 => ?_)
    · exact Changes.refl _ _
    · extract_lets a6
      clear_value a6
      refine Changes.ite ?_ ?_
      · refine Changes.step ?_ (State.semUpdate_changes ..) (by decide)
        exact Changes.refl _ _
      · exact Changes.refl _ _
  clear_value a1
  refine Changes.step ?_ (State.collect_changes ..) (by decide)
  refine Changes.step ?_ (State.setShutter_changes ..) (by decide)
  assumption

theorem State.shutterDue_changes (s : State) (b : Nat) :
    Changes [.regs, .sems, .links, .owed, .shutters] s (State.shutterDue s b) := by
  unfold State.shutterDue
  extract_lets a0
  clear_value a0
  refine Changes.ite ?_ ?_
  · refine Changes.step ?_ (State.release_changes ..) (by decide)
    exact Changes.refl _ _
  · exact Changes.refl _ _

theorem State.lateRelease_changes (s : State) (b : Nat) :
    Changes [.regs, .sems, .links, .owed, .shutters] s (State.lateRelease s b) := by
  unfold State.lateRelease
  extract_lets a0
  have h1 : Changes [.regs, .sems, .links, .owed, .shutters] s a0 := by
    unfold a0
    refine Changes.ite ?_ ?_
    · exact Changes.refl _ _
    · refine Changes.step ?_ (State.count_changes ..) (by decide)
      exact Changes.refl _ _
  clear_value a0
  refine Changes.step ?_ (State.release_changes ..) (by decide)
  refine Changes.step ?_ (State.raise_changes ..) (by decide)
  assumption

theorem State.enableShutter_changes (s : State) (b : Nat) (w : Word) :
    Changes [.regs, .links, .shutters] s (State.enableShutter s b w) := by
  unfold State.enableShutter
  extract_lets a0 a1
  have h2 : Changes [.regs, .links, .shutters] s a0 := by
    unfold a0
    refine Changes.step ?_ (State.writeReg_changes ..) (by decide)
    exact Changes.refl _ _
  clear_value a0
  clear_value a1
  refine Changes.step ?_ (State.collect_changes ..) (by decide)
  refine Changes.step ?_ (State.setShutter_changes ..) (by decide)
  assumption

theorem State.writeShutCfg_changes (s : State) (b : Nat) (w : Word) :
    Changes [.regs, .links, .shutters] s (State.writeShutCfg s b w) := by
  unfold State.writeShutCfg
  refine Changes.ite ?_ ?_
  · refine Changes.ite ?_ ?_
    · exact Changes.refl _ _
    · refine Changes.step ?_ (State.setShutter_changes ..) (by decide)
      refine Changes.step ?_ (State.lower_changes ..) (by decide)
      exact Changes.refl _ _
  · refine Changes.ite ?_ ?_
    · refine Changes.step ?_ (State.enableShutter_changes ..) (by decide)
      exact Changes.refl _ _
    · refine Changes.step ?_ (State.writeReg_changes ..) (by decide)
      exact Changes.refl _ _

theorem State.writeShutReg_changes (s : State) (b : Nat) (r : Reg) (w : Word) :
    Changes [.regs] s (State.writeShutReg s b r w) := by
  unfold State.writeShutReg
  refine Changes.ite ?_ ?_
  · exact Changes.refl _ _
  · refine Changes.step ?_ (State.writeReg_changes ..) (by decide)
    exact Changes.refl _ _

theorem State.arriveLocal_changes (s : State) (u : Nat) (b : Nat) (sem : Nat) :
    Changes [.regs, .sems, .links, .owed, .shutters] s (State.arriveLocal s u b sem) := by
  unfold State.arriveLocal
  extract_lets a0 a1 a2 a3
  have h4 : Changes [.regs, .sems, .links, .owed, .shutters] s a0 := by
    unfold a0
    refine Changes.step ?_ (State.shutterDue_changes ..) (by decide)
    exact Changes.refl _ _
  clear_value a0
  clear_value a1
  clear_value a2
  clear_value a3
  split
  · refine Changes.step ?_ (State.timeFault_changes ..) (by decide)
    assumption
  · assumption
  · refine Changes.ite ?_ ?_
    · refine Changes.step ?_ (State.failShutter_changes ..) (by decide)
      assumption
    · refine Changes.ite ?_ ?_
      · refine Changes.step ?_ (State.collect_changes ..) (by decide)
        refine Changes.step ?_ (State.setShutter_changes ..) (by decide)
        assumption
      · refine Changes.ite ?_ ?_
        · refine Changes.step ?_ (State.setShutter_changes ..) (by decide)
          assumption
        · refine Changes.step ?_ (State.failShutter_changes ..) (by decide)
          assumption

theorem State.localArrival_changes (s : State) :
    Changes [.regs, .sems, .links, .owed, .time, .shutters, .freeCtr] s (State.localArrival s) := by
  unfold State.localArrival
  split
  · exact Changes.refl _ _
  · split
    · exact Changes.refl _ _
    · refine Changes.step ?_ (State.arriveLocal_changes ..) (by decide)
      refine Changes.step ?_ (State.drawn_changes ..) (by decide)
      refine Changes.step ?_ (State.setTime_changes ..) (by decide)
      exact Changes.refl _ _

theorem State.arriveChild_changes (s0 : State) (n : Nat) (l : Nat) (b : Nat) (gen : Nat) :
    Changes [.regs, .sems, .links, .owed, .shutters] s0 (State.arriveChild s0 n l b gen) := by
  unfold State.arriveChild
  extract_lets a0 a1 a2 a3 a4
  have h5 : Changes [.regs, .sems, .links, .owed, .shutters] s0 a0 := by
    unfold a0
    refine Changes.ite ?_ ?_
    · exact Changes.refl _ _
    · refine Changes.step ?_ (State.shutterDue_changes ..) (by decide)
      exact Changes.refl _ _
  clear_value a0
  clear_value a1
  clear_value a2
  clear_value a3
  clear_value a4
  refine Changes.ite ?_ ?_
  · assumption
  · split
    · assumption
    · assumption
    · refine Changes.ite ?_ ?_
      · refine Changes.step ?_ (State.failShutter_changes ..) (by decide)
        assumption
      · refine Changes.ite ?_ ?_
        · refine Changes.step ?_ (State.collect_changes ..) (by decide)
          refine Changes.step ?_ (State.setShutter_changes ..) (by decide)
          assumption
        · refine Changes.ite ?_ ?_
          · refine Changes.step ?_ (State.setShutter_changes ..) (by decide)
            assumption
          · refine Changes.ite ?_ ?_
            · refine Changes.step ?_ (State.failShutter_changes ..) (by decide)
              assumption
            · refine Changes.step ?_ (State.failShutter_changes ..) (by decide)
              assumption

theorem State.receiveRelease_changes (s0 : State) (n : Nat) (l : Nat) (b : Nat) (gen : Nat) (t : Nat) :
    Changes [.regs, .sems, .links, .owed, .shutters] s0 (State.receiveRelease s0 n l b gen t) := by
  unfold State.receiveRelease
  extract_lets a0 a1 a2 a3 a4
  have h5 : Changes [.regs, .sems, .links, .owed, .shutters] s0 a0 := by
    unfold a0
    refine Changes.ite ?_ ?_
    · exact Changes.refl _ _
    · refine Changes.step ?_ (State.shutterDue_changes ..) (by decide)
      exact Changes.refl _ _
  clear_value a0
  clear_value a1
  clear_value a2
  have h18 : Changes [.regs, .sems, .links, .owed, .shutters] s0 a3 := by
    unfold a3
    refine Changes.step ?_ (State.setShutter_changes ..) (by decide)
    assumption
  clear_value a3
  have h19 : Changes [.regs, .sems, .links, .owed, .shutters] s0 a4 := by
    unfold a4
    refine Changes.foldl ?_ (fun u20 x21 => ?_)
    · assumption
    · refine Changes.step ?_ (State.queueTime_changes ..) (by decide)
      exact Changes.refl _ _
  clear_value a4
  refine Changes.ite ?_ ?_
  · assumption
  · split
    · assumption
    · assumption
    · refine Changes.ite ?_ ?_
      · refine Changes.step ?_ (State.failShutter_changes ..) (by decide)
        assumption
      · refine Changes.ite ?_ ?_
        · refine Changes.step ?_ (State.lateRelease_changes ..) (by decide)
          assumption
        · assumption
    · refine Changes.step ?_ (State.failShutter_changes ..) (by decide)
      assumption

theorem State.shuttersLost_changes (s : State) (lane : Nat) :
    Changes [.regs, .shutters] s (State.shuttersLost s lane) := by
  unfold State.shuttersLost
  refine Changes.foldl ?_ (fun u0 x1 => ?_)
  · exact Changes.refl _ _
  · refine Changes.ite ?_ ?_
    · refine Changes.step ?_ (State.failShutter_changes ..) (by decide)
      exact Changes.refl _ _
    · exact Changes.refl _ _

theorem State.watchLink_changes (s : State) (s' : State) (n : Nat) (l : Nat) :
    Changes [.regs, .time, .shutters] s' (State.watchLink s s' n l) := by
  unfold State.watchLink
  extract_lets a5 a6 a7
  clear_value a5
  clear_value a6
  have h8 : Changes [.regs, .time, .shutters] s' a7 := by
    unfold a7
    refine Changes.ite ?_ ?_
    · refine Changes.step ?_ (State.enterHoldover_changes ..) (by decide)
      exact Changes.refl _ _
    · exact Changes.refl _ _
  clear_value a7
  refine Changes.ite ?_ ?_
  · refine Changes.step ?_ (State.shuttersLost_changes ..) (by decide)
    assumption
  · assumption

/-! ### Canonical form -/

theorem State.ftSync_wf (s : State) (ns : Nat) :
    KeepsWf s (State.ftSync s ns) := by
  unfold State.ftSync
  refine KeepsWf.ite ?_ ?_
  · exact KeepsWf.refl _
  · extract_lets a0 a1
    have h2 : KeepsWf s a0 := by
      unfold a0
      refine KeepsWf.trans ?_ (KeepsWf.cnt fun h => mwf_mset h _ _)
      exact KeepsWf.refl _
    clear_value a0
    clear_value a1
    refine KeepsWf.ite ?_ ?_
    · refine KeepsWf.trans ?_ (KeepsWf.of_changes (State.loadSet_changes ..) (by decide))
      refine KeepsWf.trans ?_ (KeepsWf.of_changes (State.setTime_changes ..) (by decide))
      assumption
    · assumption

theorem State.release_wf (s : State) (b : Nat) :
    KeepsWf s (State.release s b) := by
  unfold State.release
  extract_lets a0 a1 a2
  clear_value a0
  have h3 : KeepsWf s a1 := by
    unfold a1
    refine KeepsWf.foldl ?_ (fun u4 x5 => ?_)
    · exact KeepsWf.refl _
    · extract_lets a6
      clear_value a6
      refine KeepsWf.ite ?_ ?_
      · refine KeepsWf.trans ?_ (State.semUpdate_wf ..)
        exact KeepsWf.refl _
      · exact KeepsWf.refl _
  clear_value a1
  refine KeepsWf.trans ?_ (KeepsWf.of_changes (State.collect_changes ..) (by decide))
  refine KeepsWf.trans ?_ (KeepsWf.of_changes (State.setShutter_changes ..) (by decide))
  assumption

theorem State.shutterDue_wf (s : State) (b : Nat) :
    KeepsWf s (State.shutterDue s b) := by
  unfold State.shutterDue
  extract_lets a2
  clear_value a2
  refine KeepsWf.ite ?_ ?_
  · refine KeepsWf.trans ?_ (State.release_wf ..)
    exact KeepsWf.refl _
  · exact KeepsWf.refl _

theorem State.lateRelease_wf (s : State) (b : Nat) :
    KeepsWf s (State.lateRelease s b) := by
  unfold State.lateRelease
  extract_lets a0
  have h1 : KeepsWf s a0 := by
    unfold a0
    refine KeepsWf.ite ?_ ?_
    · exact KeepsWf.refl _
    · refine KeepsWf.trans ?_ (KeepsWf.of_changes (State.count_changes ..) (by decide))
      exact KeepsWf.refl _
  clear_value a0
  refine KeepsWf.trans ?_ (State.release_wf ..)
  refine KeepsWf.trans ?_ (KeepsWf.of_changes (State.raise_changes ..) (by decide))
  assumption

theorem State.arriveLocal_wf (s : State) (u : Nat) (b : Nat) (sem : Nat) :
    KeepsWf s (State.arriveLocal s u b sem) := by
  unfold State.arriveLocal
  extract_lets a0 a1 a2 a3
  have h4 : KeepsWf s a0 := by
    unfold a0
    refine KeepsWf.trans ?_ (State.shutterDue_wf ..)
    exact KeepsWf.refl _
  clear_value a0
  clear_value a1
  clear_value a2
  clear_value a3
  split
  · refine KeepsWf.trans ?_ (KeepsWf.of_changes (State.timeFault_changes ..) (by decide))
    assumption
  · assumption
  · refine KeepsWf.ite ?_ ?_
    · refine KeepsWf.trans ?_ (KeepsWf.of_changes (State.failShutter_changes ..) (by decide))
      assumption
    · refine KeepsWf.ite ?_ ?_
      · refine KeepsWf.trans ?_ (KeepsWf.of_changes (State.collect_changes ..) (by decide))
        refine KeepsWf.trans ?_ (KeepsWf.of_changes (State.setShutter_changes ..) (by decide))
        assumption
      · refine KeepsWf.ite ?_ ?_
        · refine KeepsWf.trans ?_ (KeepsWf.of_changes (State.setShutter_changes ..) (by decide))
          assumption
        · refine KeepsWf.trans ?_ (KeepsWf.of_changes (State.failShutter_changes ..) (by decide))
          assumption

theorem State.localArrival_wf (s : State) :
    KeepsWf s (State.localArrival s) := by
  unfold State.localArrival
  split
  · exact KeepsWf.refl _
  · split
    · exact KeepsWf.refl _
    · refine KeepsWf.trans ?_ (State.arriveLocal_wf ..)
      refine KeepsWf.trans ?_ (KeepsWf.of_changes (State.drawn_changes ..) (by decide))
      refine KeepsWf.trans ?_ (KeepsWf.of_changes (State.setTime_changes ..) (by decide))
      exact KeepsWf.refl _

theorem State.arriveChild_wf (s0 : State) (n : Nat) (l : Nat) (b : Nat) (gen : Nat) :
    KeepsWf s0 (State.arriveChild s0 n l b gen) := by
  unfold State.arriveChild
  extract_lets a0 a1 a2 a3 a4
  have h5 : KeepsWf s0 a0 := by
    unfold a0
    refine KeepsWf.ite ?_ ?_
    · exact KeepsWf.refl _
    · refine KeepsWf.trans ?_ (State.shutterDue_wf ..)
      exact KeepsWf.refl _
  clear_value a0
  clear_value a1
  clear_value a2
  clear_value a3
  clear_value a4
  refine KeepsWf.ite ?_ ?_
  · assumption
  · split
    · assumption
    · assumption
    · refine KeepsWf.ite ?_ ?_
      · refine KeepsWf.trans ?_ (KeepsWf.of_changes (State.failShutter_changes ..) (by decide))
        assumption
      · refine KeepsWf.ite ?_ ?_
        · refine KeepsWf.trans ?_ (KeepsWf.of_changes (State.collect_changes ..) (by decide))
          refine KeepsWf.trans ?_ (KeepsWf.of_changes (State.setShutter_changes ..) (by decide))
          assumption
        · refine KeepsWf.ite ?_ ?_
          · refine KeepsWf.trans ?_ (KeepsWf.of_changes (State.setShutter_changes ..) (by decide))
            assumption
          · refine KeepsWf.ite ?_ ?_
            · refine KeepsWf.trans ?_ (KeepsWf.of_changes (State.failShutter_changes ..) (by decide))
              assumption
            · refine KeepsWf.trans ?_ (KeepsWf.of_changes (State.failShutter_changes ..) (by decide))
              assumption

theorem State.receiveRelease_wf (s0 : State) (n : Nat) (l : Nat) (b : Nat) (gen : Nat) (t : Nat) :
    KeepsWf s0 (State.receiveRelease s0 n l b gen t) := by
  unfold State.receiveRelease
  extract_lets a0 a1 a2 a3 a4
  have h5 : KeepsWf s0 a0 := by
    unfold a0
    refine KeepsWf.ite ?_ ?_
    · exact KeepsWf.refl _
    · refine KeepsWf.trans ?_ (State.shutterDue_wf ..)
      exact KeepsWf.refl _
  clear_value a0
  clear_value a1
  clear_value a2
  have h6 : KeepsWf s0 a3 := by
    unfold a3
    refine KeepsWf.trans ?_ (KeepsWf.of_changes (State.setShutter_changes ..) (by decide))
    assumption
  clear_value a3
  have h14 : KeepsWf s0 a4 := by
    unfold a4
    refine KeepsWf.foldl ?_ (fun u15 x16 => ?_)
    · assumption
    · refine KeepsWf.trans ?_ (KeepsWf.of_changes (State.queueTime_changes ..) (by decide))
      exact KeepsWf.refl _
  clear_value a4
  refine KeepsWf.ite ?_ ?_
  · assumption
  · split
    · assumption
    · assumption
    · refine KeepsWf.ite ?_ ?_
      · refine KeepsWf.trans ?_ (KeepsWf.of_changes (State.failShutter_changes ..) (by decide))
        assumption
      · refine KeepsWf.ite ?_ ?_
        · refine KeepsWf.trans ?_ (State.lateRelease_wf ..)
          assumption
        · assumption
    · refine KeepsWf.trans ?_ (KeepsWf.of_changes (State.failShutter_changes ..) (by decide))
      assumption

end Sys2Proof.Machine
end

