-- ==== Sys2Proof/Laws/Timeline.lean ====
section
/-!
SUPPORT. What each operation of Machine/Timeline.lean may change (`_changes`), and that those which write a memory keep its
canonical form (`_wf`).
-/

namespace Sys2Proof.Machine

theorem State.replay_changes (s : State) (u : Nat) :
    Changes [.cores] s (State.replay s u) := by
  unfold State.replay
  extract_lets a0 a1 a2 a3 a4 a5 a6
  clear_value a0
  clear_value a1
  clear_value a2
  clear_value a3
  clear_value a4
  clear_value a6
  refine Changes.step ?_ (State.setCore_changes ..) (by decide)
  exact Changes.refl _ _

end Sys2Proof.Machine
end

