-- ==== Sys2Proof/Laws/Control.lean ====
section
/-!
SUPPORT. What each operation of Machine/Control.lean may change (`_changes`), and that those which write a memory keep its
canonical form (`_wf`).
-/

namespace Sys2Proof.Machine

theorem State.startCmd_changes (s : State) (u : Nat) (q : Nat) (is : Nat → Bool) :
    Changes [.cores] s (State.startCmd s u q is) := by
  unfold State.startCmd
  extract_lets a0
  clear_value a0
  split
  · exact Changes.refl _ _
  · refine Changes.ite ?_ ?_
    · exact Changes.refl _ _
    · extract_lets a6 a7 a8 a9 a10 a11
      clear_value a6
      clear_value a7
      clear_value a8
      have h12 : Changes [.cores] s a9 := by
        unfold a9
        refine Changes.step ?_ (State.replay_changes ..) (by decide)
        refine Changes.step ?_ (State.setCore_changes ..) (by decide)
        exact Changes.refl _ _
      clear_value a9
      clear_value a10
      clear_value a11
      refine Changes.step ?_ (State.setCore_changes ..) (by decide)
      assumption

theorem State.startMat_changes (s : State) (u : Nat) (op : Nat) :
    Changes [.cores] s (State.startMat s u op) := by
  unfold State.startMat
  refine Changes.step ?_ (State.startCmd_changes ..) (by decide)
  exact Changes.refl _ _

theorem State.startVec_changes (s : State) (u : Nat) (op : Nat) :
    Changes [.cores] s (State.startVec s u op) := by
  unfold State.startVec
  refine Changes.step ?_ (State.startCmd_changes ..) (by decide)
  exact Changes.refl _ _

theorem State.startUpTo_changes (u t fuel : Nat) (s : State) :
    Changes [.cores] s (State.startUpTo u t fuel s) := by
  induction fuel generalizing s with
  | zero => exact Changes.refl _ _
  | succ fuel ih =>
    unfold State.startUpTo
    split
    · refine Changes.trans ?_ (ih ..)
      refine Changes.step ?_ (State.startCmd_changes ..) (by decide)
      exact Changes.refl _ _
    · exact Changes.refl _ _

theorem State.startDue_changes (s : State) (u : Nat) (t : Nat) :
    Changes [.cores] s (State.startDue s u t) := by
  unfold State.startDue
  extract_lets a0
  clear_value a0
  refine Changes.step ?_ (State.startUpTo_changes ..) (by decide)
  exact Changes.refl _ _

theorem State.recordCoreFault_changes (s : State) (u : Nat) (f : CoreFault) :
    Changes [.regs] s (State.recordCoreFault s u f) := by
  unfold State.recordCoreFault
  extract_lets a0
  have h1 : Changes [.regs] s a0 := by
    unfold a0
    refine Changes.ite ?_ ?_
    · refine Changes.step ?_ (State.setReg_changes ..) (by decide)
      refine Changes.step ?_ (State.setReg_changes ..) (by decide)
      refine Changes.step ?_ (State.setReg_changes ..) (by decide)
      refine Changes.step ?_ (State.setReg_changes ..) (by decide)
      exact Changes.refl _ _
    · exact Changes.refl _ _
  clear_value a0
  refine Changes.step ?_ (State.raise_changes ..) (by decide)
  assumption

theorem State.enterFault_changes (s : State) (u : Nat) (f : CoreFault) (all : Bool) (keep : Option Nat) :
    Changes [.regs, .cnt, .cores, .poolUsed, .dsp] s (State.enterFault s u f all keep) := by
  unfold State.enterFault
  extract_lets a0 a1 a2 a3 a4 a5
  clear_value a0
  have h6 : Changes [.regs, .cnt, .cores, .poolUsed, .dsp] s a1 := by
    unfold a1
    refine Changes.step ?_ (State.startDue_changes ..) (by decide)
    exact Changes.refl _ _
  clear_value a1
  clear_value a2
  clear_value a3
  have h7 : Changes [.regs, .cnt, .cores, .poolUsed, .dsp] s a4 := by
    unfold a4
    refine Changes.ite ?_ ?_
    · refine Changes.step ?_ (State.addCtr_changes ..) (by decide)
      assumption
    · assumption
  clear_value a4
  have h17 : Changes [.regs, .cnt, .cores, .poolUsed, .dsp] s a5 := by
    unfold a5
    refine Changes.step ?_ (State.replay_changes ..) (by decide)
    refine Changes.step ?_ (State.setCore_changes ..) (by decide)
    assumption
  clear_value a5
  refine Changes.ite ?_ ?_
  · refine Changes.step ?_ (State.coreFaultGroup_changes ..) (by decide)
    refine Changes.step ?_ (State.recordCoreFault_changes ..) (by decide)
    exact Changes.refl _ _
  · refine Changes.step ?_ (State.coreFaultGroup_changes ..) (by decide)
    refine Changes.step ?_ (State.recordCoreFault_changes ..) (by decide)
    assumption

theorem State.takeFault_changes (s : State) (u : Nat) (t : Nat) :
    Changes [.regs, .cnt, .cores, .poolUsed, .dsp] s (State.takeFault s u t) := by
  unfold State.takeFault
  extract_lets a0
  clear_value a0
  split
  · exact Changes.refl _ _
  · refine Changes.ite ?_ ?_
    · exact Changes.refl _ _
    · refine Changes.ite ?_ ?_
      · refine Changes.step ?_ (State.enterFault_changes ..) (by decide)
        refine Changes.step ?_ (State.replay_changes ..) (by decide)
        refine Changes.step ?_ (State.setCore_changes ..) (by decide)
        exact Changes.refl _ _
      · refine Changes.step ?_ (State.enterFault_changes ..) (by decide)
        exact Changes.refl _ _

theorem State.asyncFault_changes (s : State) (u : Nat) (d : Nat) (code : Nat) (pc : Nat) :
    Changes [.regs, .cnt, .cores, .poolUsed, .dsp] s (State.asyncFault s u d code pc) := by
  unfold State.asyncFault
  extract_lets a0
  clear_value a0
  refine Changes.step ?_ (State.enterFault_changes ..) (by decide)
  exact Changes.refl _ _

theorem State.wordFault_changes (s : State) (u : Nat) (t : Nat) (code : Nat) (slot : Nat) (ag : Nat) (addr : Nat) :
    Changes [.regs, .cnt, .cores, .poolUsed, .dsp] s (State.wordFault s u t code slot ag addr) := by
  unfold State.wordFault
  extract_lets a0
  clear_value a0
  refine Changes.step ?_ (State.enterFault_changes ..) (by decide)
  exact Changes.refl _ _

theorem State.cmdErr_changes (s : State) (u : Nat) :
    Changes [.regs] s (State.cmdErr s u) := by
  unfold State.cmdErr
  refine Changes.step ?_ (State.raise_changes ..) (by decide)
  exact Changes.refl _ _

theorem State.startCore_changes (s : State) (u : Nat) (pc : Nat) :
    Changes [.regs, .cnt, .ls, .acc, .accFlags, .accBank1, .ue, .cores, .poolUsed, .dsp] s (State.startCore s u pc) := by
  unfold State.startCore
  extract_lets a0 a1 a2 a3 a4 a5
  clear_value a0
  have h6 : Changes [.regs, .cnt, .ls, .acc, .accFlags, .accBank1, .ue, .cores, .poolUsed, .dsp] s a1 := by
    unfold a1
    refine Changes.step ?_ (State.foldCore_changes ..) (by decide)
    exact Changes.refl _ _
  clear_value a1
  clear_value a2
  clear_value a3
  clear_value a4
  have h0 : Changes [.regs, .cnt, .ls, .acc, .accFlags, .accBank1, .ue, .cores, .poolUsed, .dsp] s a5 := by
    unfold a5
    refine Changes.step ?_ (State.setCore_changes ..) (by decide)
    assumption
  clear_value a5
  refine Changes.ite ?_ ?_
  · refine Changes.step ?_ (State.cmdErr_changes ..) (by decide)
    exact Changes.refl _ _
  · refine Changes.ite ?_ ?_
    · refine Changes.step ?_ (State.wordFault_changes ..) (by decide)
      refine Changes.step ?_ (State.setCore_changes ..) (by decide)
      assumption
    · refine Changes.ite ?_ ?_
      · assumption
      · refine Changes.step ?_ (State.wordFault_changes ..) (by decide)
        refine Changes.step ?_ (State.setCore_changes ..) (by decide)
        assumption

theorem State.writeStart_changes (s : State) (u : Nat) (w : Word) :
    Changes [.regs, .cnt, .ls, .acc, .accFlags, .accBank1, .ue, .cores, .poolUsed, .dsp] s (State.writeStart s u w) := by
  unfold State.writeStart
  refine Changes.ite ?_ ?_
  · refine Changes.step ?_ (State.startCore_changes ..) (by decide)
    exact Changes.refl _ _
  · exact Changes.refl _ _

theorem State.enterHalted_changes (s : State) (u : Nat) (t : Nat) :
    Changes [.regs, .cores] s (State.enterHalted s u t) := by
  unfold State.enterHalted
  extract_lets a0
  clear_value a0
  refine Changes.step ?_ (State.raise_changes ..) (by decide)
  refine Changes.step ?_ (State.setCore_changes ..) (by decide)
  exact Changes.refl _ _

theorem State.stopCore_changes (s : State) (u : Nat) :
    Changes [.regs, .cnt, .cores] s (State.stopCore s u) := by
  unfold State.stopCore
  extract_lets a1
  clear_value a1
  refine Changes.ite ?_ ?_
  · refine Changes.step ?_ (State.cmdErr_changes ..) (by decide)
    exact Changes.refl _ _
  · refine Changes.ite ?_ ?_
    · refine Changes.step ?_ (State.enterHalted_changes ..) (by decide)
      refine Changes.step ?_ (State.addCtr_changes ..) (by decide)
      exact Changes.refl _ _
    · refine Changes.ite ?_ ?_
      · refine Changes.step ?_ (State.enterHalted_changes ..) (by decide)
        exact Changes.refl _ _
      · refine Changes.step ?_ (State.setCore_changes ..) (by decide)
        exact Changes.refl _ _

theorem State.settleClear_changes (s : State) (u : Nat) :
    Changes [.cores] s (State.settleClear s u) := by
  unfold State.settleClear
  extract_lets a0
  clear_value a0
  refine Changes.ite ?_ ?_
  · refine Changes.step ?_ (State.setCore_changes ..) (by decide)
    exact Changes.refl _ _
  · exact Changes.refl _ _

theorem State.clearCore_changes (s : State) (u : Nat) :
    Changes [.regs, .cores] s (State.clearCore s u) := by
  unfold State.clearCore
  extract_lets a0
  clear_value a0
  refine Changes.ite ?_ ?_
  · refine Changes.step ?_ (State.cmdErr_changes ..) (by decide)
    exact Changes.refl _ _
  · refine Changes.step ?_ (State.settleClear_changes ..) (by decide)
    refine Changes.step ?_ (State.setCore_changes ..) (by decide)
    exact Changes.refl _ _

theorem State.writeCoreCmd_changes (s : State) (u : Nat) (w : Word) :
    Changes [.regs, .cnt, .cores] s (State.writeCoreCmd s u w) := by
  unfold State.writeCoreCmd
  refine Changes.ite ?_ ?_
  · exact Changes.refl _ _
  · extract_lets a3
    have h4 : Changes [.regs, .cnt, .cores] s a3 := by
      unfold a3
      refine Changes.ite ?_ ?_
      · refine Changes.step ?_ (State.stopCore_changes ..) (by decide)
        exact Changes.refl _ _
      · exact Changes.refl _ _
    clear_value a3
    refine Changes.ite ?_ ?_
    · refine Changes.step ?_ (State.clearCore_changes ..) (by decide)
      assumption
    · assumption

theorem State.coreTick_changes (s : State) (u : Nat) :
    Changes [.regs, .cnt, .cores, .poolUsed, .dsp] s (State.coreTick s u) := by
  unfold State.coreTick
  extract_lets a0 a1
  clear_value a0
  have h2 : Changes [.regs, .cnt, .cores, .poolUsed, .dsp] s a1 := by
    unfold a1
    refine Changes.step ?_ (State.replay_changes ..) (by decide)
    refine Changes.step ?_ (State.setCore_changes ..) (by decide)
    exact Changes.refl _ _
  clear_value a1
  refine Changes.ite ?_ ?_
  · exact Changes.refl _ _
  · refine Changes.step ?_ (State.settleClear_changes ..) (by decide)
    refine Changes.step ?_ (State.takeFault_changes ..) (by decide)
    assumption

theorem State.syncSlot_changes (s : State) (u : Nat) (y : Nat) :
    Changes [.sems, .time] s (State.syncSlot s u y) := by
  unfold State.syncSlot
  extract_lets a0 a1 a2 a3 a4
  clear_value a0
  clear_value a1
  clear_value a2
  clear_value a3
  clear_value a4
  refine Changes.ite ?_ ?_
  · refine Changes.ite ?_ ?_
    · exact Changes.refl _ _
    · refine Changes.step ?_ (State.setSem_changes ..) (by decide)
      exact Changes.refl _ _
  · refine Changes.ite ?_ ?_
    · refine Changes.ite ?_ ?_
      · exact Changes.refl _ _
      · refine Changes.step ?_ (State.setSem_changes ..) (by decide)
        exact Changes.refl _ _
    · refine Changes.ite ?_ ?_
      · refine Changes.step ?_ Changes.time (by decide)
        exact Changes.refl _ _
      · refine Changes.ite ?_ ?_
        · refine Changes.step ?_ (State.setSem_changes ..) (by decide)
          exact Changes.refl _ _
        · refine Changes.ite ?_ ?_
          · refine Changes.step ?_ (State.setSem_changes ..) (by decide)
            exact Changes.refl _ _
          · exact Changes.refl _ _

theorem State.dispatchWord_changes (s : State) (u : Nat) (t : Nat) (w : Nat) :
    Changes [.regs, .cnt, .sems, .cores, .poolUsed, .time, .dsp] s (State.dispatchWord s u t w) := by
  unfold State.dispatchWord
  extract_lets a0 a1 a2
  clear_value a0
  clear_value a1
  clear_value a2
  split
  · refine Changes.step ?_ (State.wordFault_changes ..) (by decide)
    exact Changes.refl _ _
  · split
    · refine Changes.step ?_ (State.wordFault_changes ..) (by decide)
      exact Changes.refl _ _
    · extract_lets a8 a9 a10 a11 a12 a13 a14 a15 a16 a17 a18 a19
      clear_value a8
      clear_value a9
      clear_value a10
      clear_value a11
      clear_value a12
      clear_value a13
      have h7 : Changes [.regs, .cnt, .sems, .cores, .poolUsed, .time, .dsp] s a14 := by
        unfold a14
        refine Changes.step ?_ (State.setCore_changes ..) (by decide)
        exact Changes.refl _ _
      clear_value a14
      clear_value a15
      clear_value a16
      have h9 : Changes [.regs, .cnt, .sems, .cores, .poolUsed, .time, .dsp] s a17 := by
        unfold a17
        refine Changes.step ?_ (State.syncSlot_changes ..) (by decide)
        assumption
      clear_value a17
      have h11 : Changes [.regs, .cnt, .sems, .cores, .poolUsed, .time, .dsp] s a18 := by
        unfold a18
        refine Changes.ite ?_ ?_
        · refine Changes.step ?_ (State.replay_changes ..) (by decide)
          assumption
        · assumption
      clear_value a18
      clear_value a19
      split
      · refine Changes.step ?_ (State.enterFault_changes ..) (by decide)
        assumption
      · refine Changes.step ?_ (State.setCore_changes ..) (by decide)
        assumption

theorem State.countStalls_changes (s : State) (u : Nat) (qs : List Nat) (n : Nat) :
    Changes [.cnt] s (State.countStalls s u qs n) := by
  unfold State.countStalls
  refine Changes.foldl ?_ (fun u0 x1 => ?_)
  · exact Changes.refl _ _
  · refine Changes.step ?_ (State.addCtr_changes ..) (by decide)
    exact Changes.refl _ _

theorem State.refresh_changes (s : State) (u : Nat) :
    Changes [.cores] s (State.refresh s u) := by
  unfold State.refresh
  refine Changes.ite ?_ ?_
  · exact Changes.refl _ _
  · refine Changes.step ?_ (State.replay_changes ..) (by decide)
    exact Changes.refl _ _

theorem State.dispatchBy_changes (s : State) (u : Nat) (t : Nat) (last : Nat) (w : Nat) :
    Changes [.regs, .cnt, .sems, .cores, .poolUsed, .time, .dsp] s (State.dispatchBy s u t last w) := by
  unfold State.dispatchBy
  extract_lets k full cand go fin stop upTo s1
  refine Changes.ite (Changes.refl _ _) ?_
  have h1 : Changes [.regs, .cnt, .sems, .cores, .poolUsed, .time, .dsp] s s1 :=
    (Changes.refl _ s).foldl fun _ _ => (State.countStalls_changes ..).mono (by decide)
  clear_value s1
  refine Changes.ite ?_ (Changes.ite (h1.step (State.dispatchWord_changes ..) (by decide))
    (h1.step (State.setCore_changes ..) (by decide)))
  exact (h1.step (State.setCore_changes ..) (by decide)).step (State.takeFault_changes ..) (by decide)

theorem State.resume_changes (s : State) (u : Nat) (t : Nat) :
    Changes [.cnt, .cores] s (State.resume s u t) := by
  unfold State.resume
  extract_lets a0
  clear_value a0
  refine Changes.step ?_ (State.addCtr_changes ..) (by decide)
  refine Changes.step ?_ (State.setCore_changes ..) (by decide)
  exact Changes.refl _ _

theorem State.dispatchNext_changes (s : State) (u : Nat) (cycles : Nat) :
    Changes [.regs, .cnt, .sems, .cores, .poolUsed, .time, .dsp] s (State.dispatchNext s u cycles) := by
  unfold State.dispatchNext
  extract_lets k run t0 t w y waits fault s1
  refine Changes.ite (Changes.refl _ _) ?_
  have h1 : Changes [.regs, .cnt, .sems, .cores, .poolUsed, .time, .dsp] s s1 :=
    Changes.ite ((Changes.refl _ s).step (State.resume_changes ..) (by decide)) (Changes.refl _ _)
  have err : ∀ c a b d, Changes [.regs, .cnt, .sems, .cores, .poolUsed, .time, .dsp] s (s1.wordFault u t c a b d) :=
    fun _ _ _ _ => h1.step (State.wordFault_changes ..) (by decide)
  clear_value s1
  refine Changes.ite (h1.step (State.takeFault_changes ..) (by decide)) (Changes.ite (err ..) (Changes.ite (err ..)
    (Changes.ite (Changes.ite ?_ ?_) ?_)))
  · exact h1.step (State.setCore_changes ..) (by decide)
  · exact h1.step (State.setCore_changes ..) (by decide)
  · exact h1.step (State.dispatchBy_changes ..) (by decide)

theorem State.dispatch_changes (s : State) (u : Nat) (cycles : Nat) :
    Changes [.regs, .cnt, .sems, .cores, .poolUsed, .time, .dsp] s (State.dispatch s u cycles) := by
  unfold State.dispatch
  extract_lets a0
  clear_value a0
  refine Changes.ite ?_ ?_
  · exact Changes.refl _ _
  · refine Changes.step ?_ (State.dispatchNext_changes ..) (by decide)
    refine Changes.step ?_ (State.refresh_changes ..) (by decide)
    exact Changes.refl _ _

theorem State.holdEnd_changes (s : State) (u : Nat) :
    Changes [.regs, .cnt, .cores, .poolUsed, .dsp] s (State.holdEnd s u) := by
  unfold State.holdEnd
  extract_lets a0
  clear_value a0
  refine Changes.ite ?_ ?_
  · split
    · refine Changes.ite ?_ ?_
      · refine Changes.step ?_ (State.enterFault_changes ..) (by decide)
        exact Changes.refl _ _
      · refine Changes.step ?_ (State.enterHalted_changes ..) (by decide)
        exact Changes.refl _ _
    · refine Changes.step ?_ (State.enterHalted_changes ..) (by decide)
      exact Changes.refl _ _
  · exact Changes.refl _ _

theorem State.passTime_changes (s : State) :
    Changes [.regs, .cnt, .cores, .poolUsed, .time, .dsp] s (State.passTime s) := by
  unfold State.passTime
  refine Changes.step ?_ (State.tick_changes ..) (by decide)
  refine Changes.foldl ?_ (fun u1 x2 => ?_)
  · exact Changes.refl _ _
  · refine Changes.step ?_ (State.coreTick_changes ..) (by decide)
    exact Changes.refl _ _

/-! ### Canonical form -/

theorem State.enterFault_wf (s : State) (u : Nat) (f : CoreFault) (all : Bool) (keep : Option Nat) :
    KeepsWf s (State.enterFault s u f all keep) := by
  unfold State.enterFault
  extract_lets a0 a1 a2 a3 a4 a5
  clear_value a0
  have h7 : KeepsWf s a1 := by
    unfold a1
    refine KeepsWf.trans ?_ (KeepsWf.of_changes (State.startDue_changes ..) (by decide))
    exact KeepsWf.refl _
  clear_value a1
  clear_value a2
  clear_value a3
  have h1 : KeepsWf s a4 := by
    unfold a4
    refine KeepsWf.ite ?_ ?_
    · refine KeepsWf.trans ?_ (State.addCtr_wf ..)
      assumption
    · assumption
  clear_value a4
  have h0 : KeepsWf s a5 := by
    unfold a5
    refine KeepsWf.trans ?_ (KeepsWf.of_changes (State.replay_changes ..) (by decide))
    refine KeepsWf.trans ?_ (KeepsWf.of_changes (State.setCore_changes ..) (by decide))
    assumption
  clear_value a5
  refine KeepsWf.ite ?_ ?_
  · refine KeepsWf.trans ?_ (KeepsWf.of_changes (State.coreFaultGroup_changes ..) (by decide))
    refine KeepsWf.trans ?_ (KeepsWf.of_changes (State.recordCoreFault_changes ..) (by decide))
    exact KeepsWf.refl _
  · refine KeepsWf.trans ?_ (KeepsWf.of_changes (State.coreFaultGroup_changes ..) (by decide))
    refine KeepsWf.trans ?_ (KeepsWf.of_changes (State.recordCoreFault_changes ..) (by decide))
    assumption

theorem State.takeFault_wf (s : State) (u : Nat) (t : Nat) :
    KeepsWf s (State.takeFault s u t) := by
  unfold State.takeFault
  extract_lets a6
  clear_value a6
  split
  · exact KeepsWf.refl _
  · refine KeepsWf.ite ?_ ?_
    · exact KeepsWf.refl _
    · refine KeepsWf.ite ?_ ?_
      · refine KeepsWf.trans ?_ (State.enterFault_wf ..)
        refine KeepsWf.trans ?_ (KeepsWf.of_changes (State.replay_changes ..) (by decide))
        refine KeepsWf.trans ?_ (KeepsWf.of_changes (State.setCore_changes ..) (by decide))
        exact KeepsWf.refl _
      · refine KeepsWf.trans ?_ (State.enterFault_wf ..)
        exact KeepsWf.refl _

theorem State.asyncFault_wf (s : State) (u : Nat) (d : Nat) (code : Nat) (pc : Nat) :
    KeepsWf s (State.asyncFault s u d code pc) := by
  unfold State.asyncFault
  extract_lets a0
  clear_value a0
  refine KeepsWf.trans ?_ (State.enterFault_wf ..)
  exact KeepsWf.refl _

theorem State.wordFault_wf (s : State) (u : Nat) (t : Nat) (code : Nat) (slot : Nat) (ag : Nat) (addr : Nat) :
    KeepsWf s (State.wordFault s u t code slot ag addr) := by
  unfold State.wordFault
  extract_lets a0
  clear_value a0
  refine KeepsWf.trans ?_ (State.enterFault_wf ..)
  exact KeepsWf.refl _

theorem State.startCore_wf (s : State) (u : Nat) (pc : Nat) :
    KeepsWf s (State.startCore s u pc) := by
  unfold State.startCore
  extract_lets a0 a1 a2 a3 a4 a5
  clear_value a0
  have h6 : KeepsWf s a1 := by
    unfold a1
    refine KeepsWf.trans ?_ (State.foldCore_wf ..)
    exact KeepsWf.refl _
  clear_value a1
  clear_value a2
  clear_value a3
  clear_value a4
  have h12 : KeepsWf s a5 := by
    unfold a5
    refine KeepsWf.trans ?_ (KeepsWf.of_changes (State.setCore_changes ..) (by decide))
    assumption
  clear_value a5
  refine KeepsWf.ite ?_ ?_
  · refine KeepsWf.trans ?_ (KeepsWf.of_changes (State.cmdErr_changes ..) (by decide))
    exact KeepsWf.refl _
  · refine KeepsWf.ite ?_ ?_
    · refine KeepsWf.trans ?_ (State.wordFault_wf ..)
      refine KeepsWf.trans ?_ (KeepsWf.of_changes (State.setCore_changes ..) (by decide))
      assumption
    · refine KeepsWf.ite ?_ ?_
      · assumption
      · refine KeepsWf.trans ?_ (State.wordFault_wf ..)
        refine KeepsWf.trans ?_ (KeepsWf.of_changes (State.setCore_changes ..) (by decide))
        assumption

theorem State.writeStart_wf (s : State) (u : Nat) (w : Word) :
    KeepsWf s (State.writeStart s u w) := by
  unfold State.writeStart
  refine KeepsWf.ite ?_ ?_
  · refine KeepsWf.trans ?_ (State.startCore_wf ..)
    exact KeepsWf.refl _
  · exact KeepsWf.refl _

theorem State.stopCore_wf (s : State) (u : Nat) :
    KeepsWf s (State.stopCore s u) := by
  unfold State.stopCore
  extract_lets a0
  clear_value a0
  refine KeepsWf.ite ?_ ?_
  · refine KeepsWf.trans ?_ (KeepsWf.of_changes (State.cmdErr_changes ..) (by decide))
    exact KeepsWf.refl _
  · refine KeepsWf.ite ?_ ?_
    · refine KeepsWf.trans ?_ (KeepsWf.of_changes (State.enterHalted_changes ..) (by decide))
      refine KeepsWf.trans ?_ (State.addCtr_wf ..)
      exact KeepsWf.refl _
    · refine KeepsWf.ite ?_ ?_
      · refine KeepsWf.trans ?_ (KeepsWf.of_changes (State.enterHalted_changes ..) (by decide))
        exact KeepsWf.refl _
      · refine KeepsWf.trans ?_ (KeepsWf.of_changes (State.setCore_changes ..) (by decide))
        exact KeepsWf.refl _

theorem State.writeCoreCmd_wf (s : State) (u : Nat) (w : Word) :
    KeepsWf s (State.writeCoreCmd s u w) := by
  unfold State.writeCoreCmd
  refine KeepsWf.ite ?_ ?_
  · exact KeepsWf.refl _
  · extract_lets a0
    have h1 : KeepsWf s a0 := by
      unfold a0
      refine KeepsWf.ite ?_ ?_
      · refine KeepsWf.trans ?_ (State.stopCore_wf ..)
        exact KeepsWf.refl _
      · exact KeepsWf.refl _
    clear_value a0
    refine KeepsWf.ite ?_ ?_
    · refine KeepsWf.trans ?_ (KeepsWf.of_changes (State.clearCore_changes ..) (by decide))
      assumption
    · assumption

theorem State.coreTick_wf (s : State) (u : Nat) :
    KeepsWf s (State.coreTick s u) := by
  unfold State.coreTick
  extract_lets a0 a1
  clear_value a0
  have h2 : KeepsWf s a1 := by
    unfold a1
    refine KeepsWf.trans ?_ (KeepsWf.of_changes (State.replay_changes ..) (by decide))
    refine KeepsWf.trans ?_ (KeepsWf.of_changes (State.setCore_changes ..) (by decide))
    exact KeepsWf.refl _
  clear_value a1
  refine KeepsWf.ite ?_ ?_
  · exact KeepsWf.refl _
  · refine KeepsWf.trans ?_ (KeepsWf.of_changes (State.settleClear_changes ..) (by decide))
    refine KeepsWf.trans ?_ (State.takeFault_wf ..)
    assumption

theorem State.syncSlot_wf (s : State) (u : Nat) (y : Nat) :
    KeepsWf s (State.syncSlot s u y) := by
  unfold State.syncSlot
  extract_lets a0 a1 a2 a3 a4
  clear_value a0
  clear_value a1
  clear_value a2
  clear_value a3
  clear_value a4
  refine KeepsWf.ite ?_ ?_
  · refine KeepsWf.ite ?_ ?_
    · exact KeepsWf.refl _
    · refine KeepsWf.trans ?_ (State.setSem_wf ..)
      exact KeepsWf.refl _
  · refine KeepsWf.ite ?_ ?_
    · refine KeepsWf.ite ?_ ?_
      · exact KeepsWf.refl _
      · refine KeepsWf.trans ?_ (State.setSem_wf ..)
        exact KeepsWf.refl _
    · refine KeepsWf.ite ?_ ?_
      · refine KeepsWf.trans ?_ (KeepsWf.of_changes Changes.time (by decide))
        exact KeepsWf.refl _
      · refine KeepsWf.ite ?_ ?_
        · refine KeepsWf.trans ?_ (State.setSem_wf ..)
          exact KeepsWf.refl _
        · refine KeepsWf.ite ?_ ?_
          · refine KeepsWf.trans ?_ (State.setSem_wf ..)
            exact KeepsWf.refl _
          · exact KeepsWf.refl _

theorem State.dispatchWord_wf (s : State) (u : Nat) (t : Nat) (w : Nat) :
    KeepsWf s (State.dispatchWord s u t w) := by
  unfold State.dispatchWord
  extract_lets a0 a1 a2
  clear_value a0
  clear_value a1
  clear_value a2
  split
  · refine KeepsWf.trans ?_ (State.wordFault_wf ..)
    exact KeepsWf.refl _
  · split
    · refine KeepsWf.trans ?_ (State.wordFault_wf ..)
      exact KeepsWf.refl _
    · extract_lets a22 a23 a24 a25 a26 a27 a28 a29 a30 a31 a32 a33
      clear_value a22
      clear_value a23
      clear_value a24
      clear_value a25
      clear_value a26
      clear_value a27
      have h10 : KeepsWf s a28 := by
        unfold a28
        refine KeepsWf.trans ?_ (KeepsWf.of_changes (State.setCore_changes ..) (by decide))
        exact KeepsWf.refl _
      clear_value a28
      clear_value a29
      clear_value a30
      have h1 : KeepsWf s a31 := by
        unfold a31
        refine KeepsWf.trans ?_ (State.syncSlot_wf ..)
        assumption
      clear_value a31
      have h6 : KeepsWf s a32 := by
        unfold a32
        refine KeepsWf.ite ?_ ?_
        · refine KeepsWf.trans ?_ (KeepsWf.of_changes (State.replay_changes ..) (by decide))
          assumption
        · assumption
      clear_value a32
      clear_value a33
      split
      · refine KeepsWf.trans ?_ (State.enterFault_wf ..)
        assumption
      · refine KeepsWf.trans ?_ (KeepsWf.of_changes (State.setCore_changes ..) (by decide))
        assumption

theorem State.countStalls_wf (s : State) (u : Nat) (qs : List Nat) (n : Nat) :
    KeepsWf s (State.countStalls s u qs n) := by
  unfold State.countStalls
  refine KeepsWf.foldl ?_ (fun u0 x1 => ?_)
  · exact KeepsWf.refl _
  · refine KeepsWf.trans ?_ (State.addCtr_wf ..)
    exact KeepsWf.refl _

theorem State.dispatchBy_wf (s : State) (u : Nat) (t : Nat) (last : Nat) (w : Nat) :
    KeepsWf s (State.dispatchBy s u t last w) := by
  unfold State.dispatchBy
  extract_lets a0 a1 a2 a3 a4 a5 a6 a7
  clear_value a0
  clear_value a2
  clear_value a3
  clear_value a4
  clear_value a5
  clear_value a6
  have h13 : KeepsWf s a7 := by
    unfold a7
    refine KeepsWf.foldl ?_ (fun u14 x15 => ?_)
    · exact KeepsWf.refl _
    · refine KeepsWf.trans ?_ (State.countStalls_wf ..)
      exact KeepsWf.refl _
  clear_value a7
  refine KeepsWf.ite ?_ ?_
  · exact KeepsWf.refl _
  · refine KeepsWf.ite ?_ ?_
    · refine KeepsWf.trans ?_ (State.takeFault_wf ..)
      refine KeepsWf.trans ?_ (KeepsWf.of_changes (State.setCore_changes ..) (by decide))
      assumption
    · refine KeepsWf.ite ?_ ?_
      · refine KeepsWf.trans ?_ (State.dispatchWord_wf ..)
        assumption
      · refine KeepsWf.trans ?_ (KeepsWf.of_changes (State.setCore_changes ..) (by decide))
        assumption

theorem State.resume_wf (s : State) (u : Nat) (t : Nat) :
    KeepsWf s (State.resume s u t) := by
  unfold State.resume
  extract_lets a0
  clear_value a0
  refine KeepsWf.trans ?_ (State.addCtr_wf ..)
  refine KeepsWf.trans ?_ (KeepsWf.of_changes (State.setCore_changes ..) (by decide))
  exact KeepsWf.refl _

theorem State.dispatchNext_wf (s : State) (u : Nat) (cycles : Nat) :
    KeepsWf s (State.dispatchNext s u cycles) := by
  unfold State.dispatchNext
  extract_lets a0 a1 a2 a3 a4 a5 a6 a7 a8
  clear_value a0
  clear_value a1
  clear_value a2
  clear_value a3
  clear_value a4
  clear_value a5
  clear_value a6
  clear_value a7
  have h5 : KeepsWf s a8 := by
    unfold a8
    refine KeepsWf.ite ?_ ?_
    · refine KeepsWf.trans ?_ (State.resume_wf ..)
      exact KeepsWf.refl _
    · exact KeepsWf.refl _
  clear_value a8
  refine KeepsWf.ite ?_ ?_
  · exact KeepsWf.refl _
  · refine KeepsWf.ite ?_ ?_
    · refine KeepsWf.trans ?_ (State.takeFault_wf ..)
      assumption
    · refine KeepsWf.ite ?_ ?_
      · refine KeepsWf.trans ?_ (State.wordFault_wf ..)
        assumption
      · refine KeepsWf.ite ?_ ?_
        · refine KeepsWf.trans ?_ (State.wordFault_wf ..)
          assumption
        · refine KeepsWf.ite ?_ ?_
          · refine KeepsWf.ite ?_ ?_
            · refine KeepsWf.trans ?_ (KeepsWf.of_changes (State.setCore_changes ..) (by decide))
              assumption
            · refine KeepsWf.trans ?_ (KeepsWf.of_changes (State.setCore_changes ..) (by decide))
              assumption
          · refine KeepsWf.trans ?_ (State.dispatchBy_wf ..)
            assumption

theorem State.dispatch_wf (s : State) (u : Nat) (cycles : Nat) :
    KeepsWf s (State.dispatch s u cycles) := by
  unfold State.dispatch
  extract_lets a9
  clear_value a9
  refine KeepsWf.ite ?_ ?_
  · exact KeepsWf.refl _
  · refine KeepsWf.trans ?_ (State.dispatchNext_wf ..)
    refine KeepsWf.trans ?_ (KeepsWf.of_changes (State.refresh_changes ..) (by decide))
    exact KeepsWf.refl _

theorem State.holdEnd_wf (s : State) (u : Nat) :
    KeepsWf s (State.holdEnd s u) := by
  unfold State.holdEnd
  extract_lets a0
  clear_value a0
  refine KeepsWf.ite ?_ ?_
  · split
    · refine KeepsWf.ite ?_ ?_
      · refine KeepsWf.trans ?_ (State.enterFault_wf ..)
        exact KeepsWf.refl _
      · refine KeepsWf.trans ?_ (KeepsWf.of_changes (State.enterHalted_changes ..) (by decide))
        exact KeepsWf.refl _
    · refine KeepsWf.trans ?_ (KeepsWf.of_changes (State.enterHalted_changes ..) (by decide))
      exact KeepsWf.refl _
  · exact KeepsWf.refl _

theorem State.passTime_wf (s : State) :
    KeepsWf s (State.passTime s) := by
  unfold State.passTime
  refine KeepsWf.trans ?_ (KeepsWf.of_changes (State.tick_changes ..) (by decide))
  refine KeepsWf.foldl ?_ (fun u0 x1 => ?_)
  · exact KeepsWf.refl _
  · refine KeepsWf.trans ?_ (State.coreTick_wf ..)
    exact KeepsWf.refl _

end Sys2Proof.Machine
end

