-- ==== Sys2Proof/Laws/Dma.lean ====
section
/-!
SUPPORT. What each operation of Machine/Dma.lean may change (`_changes`), and that those which write a memory keep its
canonical form (`_wf`).
-/

namespace Sys2Proof.Machine

theorem State.dmaStarted_changes (s : State) (u : Nat) (eng : Nat) (o : DmaOp) :
    Changes [.cores] s (State.dmaStarted s u eng o) := by
  unfold State.dmaStarted
  refine Changes.step ?_ (State.setCore_changes ..) (by decide)
  exact Changes.refl _ _

theorem State.dmaFault_changes (s : State) (u : Nat) (eng : Nat) (o : DmaOp) (code : Nat) :
    Changes [.regs, .cnt, .cores, .poolUsed, .dsp] s (State.dmaFault s u eng o code) := by
  unfold State.dmaFault
  refine Changes.step ?_ (State.asyncFault_changes ..) (by decide)
  refine Changes.step ?_ (State.dmaStarted_changes ..) (by decide)
  exact Changes.refl _ _

theorem State.dmaMove_changes (s : State) (u : Nat) (eng : Nat) (c : DCmd) (d : DmaDesc) :
    Changes [.regs, .cnt, .dpa, .ue, .attach, .cores, .owed, .fetches, .atu, .poolUsed, .dsp, .nextId, .freeCtr] s
        (State.dmaMove s u eng c d) := by
  unfold State.dmaMove
  extract_lets a0
  clear_value a0
  split
  · rename_i y0 y1 y2 y3 y4
    have h5 : Changes [.regs, .cnt, .dpa, .ue, .attach, .cores, .owed, .fetches, .atu, .poolUsed, .dsp, .nextId,
        .freeCtr] s y1 := by
      refine Changes.of_fst ?_ y4
      refine Changes.step ?_ (State.vaRange_changes ..) (by decide)
      exact Changes.refl _ _
    extract_lets a17
    have h18 : Changes [.regs, .cnt, .dpa, .ue, .attach, .cores, .owed, .fetches, .atu, .poolUsed, .dsp, .nextId,
        .freeCtr] s a17 := by
      unfold a17
      refine Changes.step ?_ (State.touchPage_changes ..) (by decide)
      refine Changes.step ?_ (State.dmaStarted_changes ..) (by decide)
      assumption
    clear_value a17
    refine Changes.ite ?_ ?_
    · refine Changes.step ?_ (State.dmaFault_changes ..) (by decide)
      assumption
    · assumption
  · rename_i y28 y29 y30 y31
    have h32 : Changes [.regs, .cnt, .dpa, .ue, .attach, .cores, .owed, .fetches, .atu, .poolUsed, .dsp, .nextId,
        .freeCtr] s y29 := by
      refine Changes.of_fst ?_ y31
      refine Changes.step ?_ (State.vaRange_changes ..) (by decide)
      exact Changes.refl _ _
    refine Changes.step ?_ (State.dmaStarted_changes ..) (by decide)
    refine Changes.step ?_ (State.dpaUe_changes ..) (by decide)
    assumption
  · rename_i y33 y34 y35 y36
    have h37 : Changes [.regs, .cnt, .dpa, .ue, .attach, .cores, .owed, .fetches, .atu, .poolUsed, .dsp, .nextId,
        .freeCtr] s y34 := by
      refine Changes.of_fst ?_ y36
      refine Changes.step ?_ (State.vaRange_changes ..) (by decide)
      exact Changes.refl _ _
    refine Changes.step ?_ (State.dmaFault_changes ..) (by decide)
    refine Changes.step ?_ (State.vaDenied_changes ..) (by decide)
    assumption
  · rename_i y38 y39 y40 y41
    have h42 : Changes [.regs, .cnt, .dpa, .ue, .attach, .cores, .owed, .fetches, .atu, .poolUsed, .dsp, .nextId,
        .freeCtr] s y39 := by
      refine Changes.of_fst ?_ y41
      refine Changes.step ?_ (State.vaRange_changes ..) (by decide)
      exact Changes.refl _ _
    refine Changes.ite ?_ ?_
    · split
      · refine Changes.step ?_ (State.dmaStarted_changes ..) (by decide)
        refine Changes.step ?_ (State.dpaUe_changes ..) (by decide)
        assumption
      · extract_lets a49
        clear_value a49
        refine Changes.ite ?_ ?_
        · refine Changes.step ?_ (State.dmaFault_changes ..) (by decide)
          assumption
        · refine Changes.step ?_ (State.dmaStarted_changes ..) (by decide)
          refine Changes.step ?_ (State.lsPut_changes ..) (by decide)
          assumption
    · refine Changes.ite ?_ ?_
      · refine Changes.step ?_ (State.dmaFault_changes ..) (by decide)
        assumption
      · split
        · refine Changes.step ?_ (State.dmaStarted_changes ..) (by decide)
          refine Changes.step ?_ (State.dpaUe_changes ..) (by decide)
          assumption
        · rename_i y53 y54 y55
          have h56 : Changes [.regs, .cnt, .dpa, .ue, .attach, .cores, .owed, .fetches, .atu, .poolUsed, .dsp, .nextId,
              .freeCtr] s y54 := by
            refine Changes.step ?_ (State.writePieces_changes y55) (by decide)
            assumption
          refine Changes.step ?_ (State.dmaStarted_changes ..) (by decide)
          assumption

theorem State.dmaSend_changes (s : State) (u : Nat) (eng : Nat) (c : DCmd) (d : DmaDesc) :
    Changes [.regs, .cnt, .attach, .msgs, .cores, .poolUsed, .dsp, .nextId, .freeCtr] s (State.dmaSend s u eng c d) := by
  unfold State.dmaSend
  extract_lets a0 a1 a2 a3 a4 a5 a6 a7 a8 a9
  clear_value a0
  clear_value a1
  clear_value a2
  clear_value a3
  clear_value a4
  have h0 : Changes [.regs, .cnt, .attach, .msgs, .cores, .poolUsed, .dsp, .nextId, .freeCtr] s a5 := by
    unfold a5
    refine Changes.step ?_ (State.dmaStarted_changes ..) (by decide)
    exact Changes.refl _ _
  clear_value a5
  clear_value a6
  clear_value a7
  clear_value a8
  have h14 : Changes [.regs, .cnt, .attach, .msgs, .cores, .poolUsed, .dsp, .nextId, .freeCtr] s a9 := by
    unfold a9
    refine Changes.step ?_ (State.sendParts_changes ..) (by decide)
    assumption
  clear_value a9
  refine Changes.ite ?_ ?_
  · refine Changes.step ?_ (State.dmaStarted_changes ..) (by decide)
    refine Changes.step ?_ (State.drawn_changes ..) (by decide)
    refine Changes.step ?_ (State.xlateFail_changes ..) (by decide)
    exact Changes.refl _ _
  · refine Changes.ite ?_ ?_
    · refine Changes.step ?_ (State.numbered_changes ..) (by decide)
      refine Changes.step ?_ Changes.attach (by decide)
      assumption
    · refine Changes.ite ?_ ?_
      · refine Changes.step ?_ (State.dmaFault_changes ..) (by decide)
        exact Changes.refl _ _
      · refine Changes.ite ?_ ?_
        · refine Changes.step ?_ (State.attachPkt_changes ..) (by decide)
          assumption
        · assumption

theorem State.dmaRun_changes (s : State) (u : Nat) (eng : Nat) (kind : Nat) :
    Changes [.regs, .cnt, .dpa, .ue, .attach, .msgs, .cores, .owed, .fetches, .atu, .poolUsed, .dsp, .nextId,
        .freeCtr] s (State.dmaRun s u eng kind) := by
  unfold State.dmaRun
  refine Changes.ite ?_ ?_
  · exact Changes.refl _ _
  · split
    · exact Changes.refl _ _
    · extract_lets a15 a16
      clear_value a15
      clear_value a16
      refine Changes.ite ?_ ?_
      · refine Changes.step ?_ (State.dmaFault_changes ..) (by decide)
        exact Changes.refl _ _
      · refine Changes.ite ?_ ?_
        · exact Changes.refl _ _
        · refine Changes.ite ?_ ?_
          · refine Changes.step ?_ (State.dmaFault_changes ..) (by decide)
            exact Changes.refl _ _
          · refine Changes.ite ?_ ?_
            · refine Changes.step ?_ (State.dmaMove_changes ..) (by decide)
              exact Changes.refl _ _
            · refine Changes.step ?_ (State.dmaSend_changes ..) (by decide)
              exact Changes.refl _ _

theorem State.dmaComplete_changes (s : State) (u : Nat) (eng : Nat) :
    Changes [.regs, .sems, .cores, .owed] s (State.dmaComplete s u eng) := by
  unfold State.dmaComplete
  extract_lets a0
  clear_value a0
  split
  · exact Changes.refl _ _
  · refine Changes.ite ?_ ?_
    · exact Changes.refl _ _
    · extract_lets a7 a8 a9
      clear_value a7
      have h10 : Changes [.regs, .sems, .cores, .owed] s a8 := by
        unfold a8
        refine Changes.step ?_ (State.refresh_changes ..) (by decide)
        refine Changes.step ?_ (State.setCore_changes ..) (by decide)
        exact Changes.refl _ _
      clear_value a8
      have h11 : Changes [.regs, .sems, .cores, .owed] s a9 := by
        unfold a9
        split
        · refine Changes.step ?_ (State.semUpdate_changes ..) (by decide)
          assumption
        · assumption
      clear_value a9
      refine Changes.step ?_ (State.settleClear_changes ..) (by decide)
      assumption

/-! ### Canonical form -/

theorem State.dmaFault_wf (s : State) (u : Nat) (eng : Nat) (o : DmaOp) (code : Nat) :
    KeepsWf s (State.dmaFault s u eng o code) := by
  unfold State.dmaFault
  refine KeepsWf.trans ?_ (State.asyncFault_wf ..)
  refine KeepsWf.trans ?_ (KeepsWf.of_changes (State.dmaStarted_changes ..) (by decide))
  exact KeepsWf.refl _

theorem State.dmaMove_wf (s : State) (u : Nat) (eng : Nat) (c : DCmd) (d : DmaDesc) :
    KeepsWf s (State.dmaMove s u eng c d) := by
  unfold State.dmaMove
  extract_lets a0
  clear_value a0
  split
  · rename_i y0 y1 y2 y3 y4
    have h5 : KeepsWf s y1 := by
      refine KeepsWf.of_fst ?_ y4
      refine KeepsWf.trans ?_ (KeepsWf.of_changes (State.vaRange_changes ..) (by decide))
      exact KeepsWf.refl _
    extract_lets a1
    have h2 : KeepsWf s a1 := by
      unfold a1
      refine KeepsWf.trans ?_ (State.touchPage_wf ..)
      refine KeepsWf.trans ?_ (KeepsWf.of_changes (State.dmaStarted_changes ..) (by decide))
      assumption
    clear_value a1
    refine KeepsWf.ite ?_ ?_
    · refine KeepsWf.trans ?_ (State.dmaFault_wf ..)
      assumption
    · assumption
  · rename_i y20 y21 y22 y23
    have h25 : KeepsWf s y21 := by
      refine KeepsWf.of_fst ?_ y23
      refine KeepsWf.trans ?_ (KeepsWf.of_changes (State.vaRange_changes ..) (by decide))
      exact KeepsWf.refl _
    refine KeepsWf.trans ?_ (KeepsWf.of_changes (State.dmaStarted_changes ..) (by decide))
    refine KeepsWf.trans ?_ (KeepsWf.of_changes (State.dpaUe_changes ..) (by decide))
    assumption
  · rename_i y26 y27 y28 y29
    have h30 : KeepsWf s y27 := by
      refine KeepsWf.of_fst ?_ y29
      refine KeepsWf.trans ?_ (KeepsWf.of_changes (State.vaRange_changes ..) (by decide))
      exact KeepsWf.refl _
    refine KeepsWf.trans ?_ (State.dmaFault_wf ..)
    refine KeepsWf.trans ?_ (KeepsWf.of_changes (State.vaDenied_changes ..) (by decide))
    assumption
  · rename_i y39 y40 y41 y42
    have h43 : KeepsWf s y40 := by
      refine KeepsWf.of_fst ?_ y42
      refine KeepsWf.trans ?_ (KeepsWf.of_changes (State.vaRange_changes ..) (by decide))
      exact KeepsWf.refl _
    refine KeepsWf.ite ?_ ?_
    · split
      · refine KeepsWf.trans ?_ (KeepsWf.of_changes (State.dmaStarted_changes ..) (by decide))
        refine KeepsWf.trans ?_ (KeepsWf.of_changes (State.dpaUe_changes ..) (by decide))
        assumption
      · extract_lets a50
        clear_value a50
        refine KeepsWf.ite ?_ ?_
        · refine KeepsWf.trans ?_ (State.dmaFault_wf ..)
          assumption
        · refine KeepsWf.trans ?_ (KeepsWf.of_changes (State.dmaStarted_changes ..) (by decide))
          refine KeepsWf.trans ?_ (KeepsWf.of_changes (State.lsPut_changes ..) (by decide))
          assumption
    · refine KeepsWf.ite ?_ ?_
      · refine KeepsWf.trans ?_ (State.dmaFault_wf ..)
        assumption
      · split
        · refine KeepsWf.trans ?_ (KeepsWf.of_changes (State.dmaStarted_changes ..) (by decide))
          refine KeepsWf.trans ?_ (KeepsWf.of_changes (State.dpaUe_changes ..) (by decide))
          assumption
        · rename_i y54 y55 y56
          have h57 : KeepsWf s y55 := by
            refine KeepsWf.trans ?_ (State.writePieces_wf y56)
            assumption
          refine KeepsWf.trans ?_ (KeepsWf.of_changes (State.dmaStarted_changes ..) (by decide))
          assumption

theorem State.dmaSend_wf (s : State) (u : Nat) (eng : Nat) (c : DCmd) (d : DmaDesc) :
    KeepsWf s (State.dmaSend s u eng c d) := by
  unfold State.dmaSend
  extract_lets a1 a2 a3 a4 a5 a6 a7 a8 a9 a10
  clear_value a1
  clear_value a2
  clear_value a3
  clear_value a4
  clear_value a5
  have h6 : KeepsWf s a6 := by
    unfold a6
    refine KeepsWf.trans ?_ (KeepsWf.of_changes (State.dmaStarted_changes ..) (by decide))
    exact KeepsWf.refl _
  clear_value a6
  clear_value a7
  clear_value a8
  clear_value a9
  have h16 : KeepsWf s a10 := by
    unfold a10
    refine KeepsWf.trans ?_ (KeepsWf.of_changes (State.sendParts_changes ..) (by decide))
    assumption
  clear_value a10
  refine KeepsWf.ite ?_ ?_
  · refine KeepsWf.trans ?_ (KeepsWf.of_changes (State.dmaStarted_changes ..) (by decide))
    refine KeepsWf.trans ?_ (KeepsWf.of_changes (State.drawn_changes ..) (by decide))
    refine KeepsWf.trans ?_ (KeepsWf.of_changes (State.xlateFail_changes ..) (by decide))
    exact KeepsWf.refl _
  · refine KeepsWf.ite ?_ ?_
    · refine KeepsWf.trans ?_ (KeepsWf.of_changes (State.numbered_changes ..) (by decide))
      refine KeepsWf.trans ?_ (KeepsWf.of_changes Changes.attach (by decide))
      assumption
    · refine KeepsWf.ite ?_ ?_
      · refine KeepsWf.trans ?_ (State.dmaFault_wf ..)
        exact KeepsWf.refl _
      · refine KeepsWf.ite ?_ ?_
        · refine KeepsWf.trans ?_ (KeepsWf.of_changes (State.attachPkt_changes ..) (by decide))
          assumption
        · assumption

theorem State.dmaRun_wf (s : State) (u : Nat) (eng : Nat) (kind : Nat) :
    KeepsWf s (State.dmaRun s u eng kind) := by
  unfold State.dmaRun
  refine KeepsWf.ite ?_ ?_
  · exact KeepsWf.refl _
  · split
    · exact KeepsWf.refl _
    · extract_lets a10 a11
      clear_value a10
      clear_value a11
      refine KeepsWf.ite ?_ ?_
      · refine KeepsWf.trans ?_ (State.dmaFault_wf ..)
        exact KeepsWf.refl _
      · refine KeepsWf.ite ?_ ?_
        · exact KeepsWf.refl _
        · refine KeepsWf.ite ?_ ?_
          · refine KeepsWf.trans ?_ (State.dmaFault_wf ..)
            exact KeepsWf.refl _
          · refine KeepsWf.ite ?_ ?_
            · refine KeepsWf.trans ?_ (State.dmaMove_wf ..)
              exact KeepsWf.refl _
            · refine KeepsWf.trans ?_ (State.dmaSend_wf ..)
              exact KeepsWf.refl _

theorem State.dmaComplete_wf (s : State) (u : Nat) (eng : Nat) :
    KeepsWf s (State.dmaComplete s u eng) := by
  unfold State.dmaComplete
  extract_lets a0
  clear_value a0
  split
  · exact KeepsWf.refl _
  · refine KeepsWf.ite ?_ ?_
    · exact KeepsWf.refl _
    · extract_lets a7 a8 a9
      clear_value a7
      have h10 : KeepsWf s a8 := by
        unfold a8
        refine KeepsWf.trans ?_ (KeepsWf.of_changes (State.refresh_changes ..) (by decide))
        refine KeepsWf.trans ?_ (KeepsWf.of_changes (State.setCore_changes ..) (by decide))
        exact KeepsWf.refl _
      clear_value a8
      have h11 : KeepsWf s a9 := by
        unfold a9
        split
        · refine KeepsWf.trans ?_ (State.semUpdate_wf ..)
          assumption
        · assumption
      clear_value a9
      refine KeepsWf.trans ?_ (KeepsWf.of_changes (State.settleClear_changes ..) (by decide))
      assumption

end Sys2Proof.Machine
end

