-- ==== Sys2Proof/Laws/Collective.lean ====
section
/-!
SUPPORT. What each operation of Machine/Collective.lean may change (`_changes`), and that those which write a memory keep its
canonical form (`_wf`).
-/

namespace Sys2Proof.Machine

theorem State.collMsg_changes (s : State) (u : Nat) (o : Owner) (d : CollDesc) (job : Nat) (slot : Nat)
    (dest : Target ⊕ Nat) (op : Nat) (addr : Nat) (data : List Byte) :
    Changes [.attach, .msgs, .nextId] s (State.collMsg s u o d job slot dest op addr data) := by
  unfold State.collMsg
  extract_lets a3 a4 a5 a6
  clear_value a3
  clear_value a4
  clear_value a5
  clear_value a6
  split
  · refine Changes.step ?_ (State.sendParts_changes ..) (by decide)
    exact Changes.refl _ _
  · refine Changes.step ?_ (State.sendParts_changes ..) (by decide)
    exact Changes.refl _ _

theorem State.sendAnnounce_changes (s : State) (u : Nat) (o : Owner) (d : CollDesc) (job : Nat) (slot : Nat) (m : Nat)
    (mm : Bool) (tree : Nat) (count : Nat) (t : Target) :
    Changes [.attach, .msgs, .nextId] s (State.sendAnnounce s u o d job slot m mm tree count t) := by
  unfold State.sendAnnounce
  extract_lets a0 a1 a2
  clear_value a0
  clear_value a1
  clear_value a2
  refine Changes.step ?_ (State.collMsg_changes ..) (by decide)
  exact Changes.refl _ _

theorem State.endMember_changes (s : State) (u : Nat) (job : Nat) (d : CollDesc) (code : Nat) (done : Nat) (total : Dword) :
    Changes [.regs, .sems, .cores, .owed] s (State.endMember s u job d code done total) := by
  unfold State.endMember
  extract_lets a0 a1 a2 a3 a4
  clear_value a0
  clear_value a1
  have h5 : Changes [.regs, .sems, .cores, .owed] s a2 := by
    unfold a2
    refine Changes.ite ?_ ?_
    · refine Changes.step ?_ (State.lsPut_changes ..) (by decide)
      exact Changes.refl _ _
    · exact Changes.refl _ _
  clear_value a2
  have h5 : Changes [.regs, .sems, .cores, .owed] s a3 := by
    unfold a3
    refine Changes.step ?_ (State.semUpdate_changes ..) (by decide)
    assumption
  clear_value a3
  have h6 : Changes [.regs, .sems, .cores, .owed] s a4 := by
    unfold a4
    refine Changes.ite ?_ ?_
    · refine Changes.step ?_ (State.setReg_changes ..) (by decide)
      assumption
    · assumption
  clear_value a4
  refine Changes.ite ?_ ?_
  · assumption
  · refine Changes.step ?_ (State.raise_changes ..) (by decide)
    assumption

theorem State.endColl_changes (s : State) (c : Coll) (code : Nat) (done : Nat) :
    Changes [.regs, .sems, .cores, .colls, .owed] s (State.endColl s c code done) := by
  unfold State.endColl
  have h1 : Changes [.regs, .sems, .cores, .colls, .owed] s { s with colls := s.colls.filter fun o => o.id != c.id } :=
    Changes.colls.mono (by decide)
  exact (h1.step (State.endMember_changes ..) (by decide)).step (State.settleClear_changes ..) (by decide)

theorem State.endPoisoned_changes (s : State) (c : Coll) (done : Nat) :
    Changes [.regs, .sems, .cores, .colls, .owed] s (State.endPoisoned s c done) := by
  unfold State.endPoisoned
  refine Changes.step ?_ (State.endColl_changes ..) (by decide)
  refine Changes.step ?_ (State.owe_changes ..) (by decide)
  exact Changes.refl _ _

theorem State.readVa_changes (s : State) (u : Nat) (va : Nat) (n : Nat) :
    Changes [.regs, .owed, .atu, .freeCtr] s (State.readVa s u va n).1 := by
  unfold State.readVa
  split
  · rename_i y0 y1 y2 y3
    have h4 : Changes [.regs, .owed, .atu, .freeCtr] s y1 := by
      refine Changes.of_fst ?_ y3
      refine Changes.step ?_ (State.vaRange_changes ..) (by decide)
      exact Changes.refl _ _
    split
    · refine Changes.mkFst ?_
      assumption
    · refine Changes.mkFst ?_
      refine Changes.step ?_ (State.dpaUe_changes ..) (by decide)
      assumption
  · rename_i y12 y13 y14 y15
    have h16 : Changes [.regs, .owed, .atu, .freeCtr] s y13 := by
      refine Changes.of_fst ?_ y15
      refine Changes.step ?_ (State.vaRange_changes ..) (by decide)
      exact Changes.refl _ _
    refine Changes.mkFst ?_
    refine Changes.step ?_ (State.vaDenied_changes ..) (by decide)
    assumption
  · rename_i y17 y18 y19 y20 y21
    have h22 : Changes [.regs, .owed, .atu, .freeCtr] s y18 := by
      refine Changes.of_fst ?_ y21
      refine Changes.step ?_ (State.vaRange_changes ..) (by decide)
      exact Changes.refl _ _
    refine Changes.mkFst ?_
    refine Changes.step ?_ (State.vaDenied_changes ..) (by decide)
    assumption
  · rename_i y28 y29 y30 y31
    have h32 : Changes [.regs, .owed, .atu, .freeCtr] s y29 := by
      refine Changes.of_fst ?_ y31
      refine Changes.step ?_ (State.vaRange_changes ..) (by decide)
      exact Changes.refl _ _
    refine Changes.mkFst ?_
    refine Changes.step ?_ (State.dpaUe_changes ..) (by decide)
    assumption

theorem State.readPlan_changes (s : State) (u : Nat) (d : CollDesc) :
    Changes [.regs, .owed, .atu, .freeCtr] s (State.readPlan s u d).1 := by
  unfold State.readPlan
  split
  · rename_i y7 y8 y9 y10
    have h11 : Changes [.regs, .owed, .atu, .freeCtr] s y8 := by
      refine Changes.of_fst ?_ y10
      refine Changes.step ?_ (State.readVa_changes ..) (by decide)
      exact Changes.refl _ _
    refine Changes.mkFst ?_
    assumption
  · rename_i y23 y24 y25 y26
    have h27 : Changes [.regs, .owed, .atu, .freeCtr] s y24 := by
      refine Changes.of_fst ?_ y26
      refine Changes.step ?_ (State.readVa_changes ..) (by decide)
      exact Changes.refl _ _
    split
    · rename_i y1 y2 y3 y4
      have h5 : Changes [.regs, .owed, .atu, .freeCtr] s y2 := by
        refine Changes.of_fst ?_ y4
        refine Changes.step ?_ (State.readVa_changes ..) (by decide)
        assumption
      refine Changes.mkFst ?_
      assumption
    · rename_i y17 y18 y19 y20
      have h21 : Changes [.regs, .owed, .atu, .freeCtr] s y18 := by
        refine Changes.of_fst ?_ y20
        refine Changes.step ?_ (State.readVa_changes ..) (by decide)
        assumption
      refine Changes.mkFst ?_
      assumption

theorem State.openColl_changes (s : State) (u : Nat) (id : Nat) (d : CollDesc) (p : Plan) (mm : Bool) (m : Nat) :
    Changes [.attach, .msgs, .colls, .nextId] s (State.openColl s u id d p mm m) := by
  unfold State.openColl
  extract_lets a0 a1 a2 a3 a4 a5 a6 a7 a8
  clear_value a0
  clear_value a1
  clear_value a2
  clear_value a3
  clear_value a4
  clear_value a5
  clear_value a6
  have h1 : Changes [.attach, .msgs, .colls, .nextId] s a7 := by
    unfold a7
    refine Changes.step ?_ Changes.colls (by decide)
    exact Changes.refl _ _
  clear_value a7
  have h2 : Changes [.attach, .msgs, .colls, .nextId] s a8 := by
    unfold a8
    refine Changes.foldl ?_ (fun u8 x9 => ?_)
    · assumption
    · refine Changes.step ?_ (State.collMsg_changes ..) (by decide)
      exact Changes.refl _ _
  clear_value a8
  refine Changes.foldl ?_ (fun u0 x1 => ?_)
  · assumption
  · refine Changes.step ?_ (State.sendAnnounce_changes ..) (by decide)
    exact Changes.refl _ _

theorem State.collAccept_changes (s : State) (u : Nat) :
    Changes [.regs, .cnt, .sems, .attach, .msgs, .cores, .colls, .owed, .atu, .poolUsed, .dsp, .nextId, .freeCtr] s
        (State.collAccept s u) := by
  unfold State.collAccept
  extract_lets a0
  clear_value a0
  split
  · exact Changes.refl _ _
  · refine Changes.ite ?_ ?_
    · exact Changes.refl _ _
    · extract_lets a12 a13 a14 a15
      have h16 : Changes [.regs, .cnt, .sems, .attach, .msgs, .cores, .colls, .owed, .atu, .poolUsed, .dsp, .nextId,
          .freeCtr] s a12 := by
        unfold a12
        refine Changes.step ?_ (State.setCore_changes ..) (by decide)
        exact Changes.refl _ _
      clear_value a12
      clear_value a13
      clear_value a14
      clear_value a15
      refine Changes.ite ?_ ?_
      · refine Changes.step ?_ (State.asyncFault_changes ..) (by decide)
        assumption
      · refine Changes.ite ?_ ?_
        · refine Changes.step ?_ (State.endMember_changes ..) (by decide)
          assumption
        · split
          · rename_i y0 y1 y2 y3
            have h6 : Changes [.regs, .cnt, .sems, .attach, .msgs, .cores, .colls, .owed, .atu, .poolUsed, .dsp, .nextId,
                .freeCtr] s y1 := by
              refine Changes.of_fst ?_ y3
              refine Changes.step ?_ (State.readPlan_changes ..) (by decide)
              assumption
            refine Changes.step ?_ (State.endMember_changes ..) (by decide)
            assumption
          · rename_i y12 y13 y14 y15
            have h16 : Changes [.regs, .cnt, .sems, .attach, .msgs, .cores, .colls, .owed, .atu, .poolUsed, .dsp, .nextId,
                .freeCtr] s y13 := by
              refine Changes.of_fst ?_ y15
              refine Changes.step ?_ (State.readPlan_changes ..) (by decide)
              assumption
            refine Changes.ite ?_ ?_
            · refine Changes.step ?_ (State.endMember_changes ..) (by decide)
              assumption
            · extract_lets a11 a12 a13 a14
              clear_value a11
              clear_value a12
              clear_value a13
              clear_value a14
              refine Changes.step ?_ (State.openColl_changes ..) (by decide)
              refine Changes.step ?_ (State.numbered_changes ..) (by decide)
              assumption

theorem State.controlAnnounce_changes (s : State) (n : Nat) :
    Changes [.attach, .msgs, .colls, .nextId] s (State.controlAnnounce s n) := by
  unfold State.controlAnnounce
  split
  · exact Changes.refl _ _
  · extract_lets a6
    have h7 : Changes [.attach, .msgs, .colls, .nextId] s a6 := by
      unfold a6
      refine Changes.step ?_ (State.updColl_changes ..) (by decide)
      exact Changes.refl _ _
    clear_value a6
    refine Changes.step ?_ (State.sendAnnounce_changes ..) (by decide)
    assumption

theorem State.forwardLocal_changes (s : State) (c : Coll) (a : Arrival) :
    Changes [.attach, .nextId] s (State.forwardLocal s c a) := by
  unfold State.forwardLocal
  refine Changes.ite ?_ ?_
  · exact Changes.refl _ _
  · refine Changes.foldl ?_ (fun u0 x1 => ?_)
    · exact Changes.refl _ _
    · refine Changes.step ?_ (State.attachPkt_changes ..) (by decide)
      exact Changes.refl _ _

theorem State.collPoisoned_changes (s : State) (c : Coll) :
    Changes [.regs, .sems, .cores, .colls, .owed] s (State.collPoisoned s c) := by
  unfold State.collPoisoned
  refine Changes.step ?_ (State.endPoisoned_changes ..) (by decide)
  refine Changes.step ?_ (State.raise_changes ..) (by decide)
  exact Changes.refl _ _

theorem State.takeAnnounce_changes {s t : State} {n : Nat} {ctl : Bool} {a : Arrival}
    (h : State.takeAnnounce s n ctl = some (a, t)) : Changes [.inbox] s t :=
  State.takeArrival_changes h

theorem State.announceReceive_changes (s : State) (n : Nat) :
    Changes [.regs, .sems, .inbox, .commits, .cores, .colls, .owed] s (State.announceReceive s n) := by
  unfold State.announceReceive
  split
  · exact Changes.refl _ _
  · rename_i y3 y4 y5 y6
    have h7 : Changes [.regs, .sems, .inbox, .commits, .cores, .colls, .owed] s y5 := by
      refine Changes.step ?_ (State.takeAnnounce_changes y6) (by decide)
      exact Changes.refl _ _
    extract_lets a8 a9
    have h10 : Changes [.regs, .sems, .inbox, .commits, .cores, .colls, .owed] s a8 := by
      unfold a8
      refine Changes.step ?_ (State.commitArrival_changes ..) (by decide)
      assumption
    clear_value a8
    clear_value a9
    split
    · assumption
    · refine Changes.ite ?_ ?_
      · refine Changes.step ?_ (State.collPoisoned_changes ..) (by decide)
        assumption
      · refine Changes.step ?_ (State.updColl_changes ..) (by decide)
        assumption

theorem State.blockCounts_changes (s : State) (c : Coll) :
    Changes [.regs, .colls, .owed, .atu, .freeCtr] s (State.blockCounts s c).1 := by
  unfold State.blockCounts
  extract_lets a0
  clear_value a0
  refine Changes.iteFst ?_ ?_
  · refine Changes.mkFst ?_
    exact Changes.refl _ _
  · refine Changes.iteFst ?_ ?_
    · refine Changes.mkFst ?_
      exact Changes.refl _ _
    · refine Changes.foldlFst ?_ (fun u11 x12 => ?_)
      · refine Changes.mkFst ?_
        exact Changes.refl _ _
      · split
        · rename_i y0 y1 y2 y3
          have h6 : Changes [.regs, .colls, .owed, .atu, .freeCtr] u11.1 y1 := by
            refine Changes.of_fst ?_ y3
            refine Changes.step ?_ (State.readVa_changes ..) (by decide)
            exact Changes.refl _ _
          refine Changes.mkFst ?_
          assumption
        · rename_i y17 y18 y19 y20
          have h21 : Changes [.regs, .colls, .owed, .atu, .freeCtr] u11.1 y18 := by
            refine Changes.of_fst ?_ y20
            refine Changes.step ?_ (State.readVa_changes ..) (by decide)
            exact Changes.refl _ _
          refine Changes.mkFst ?_
          refine Changes.step ?_ (State.updColl_changes ..) (by decide)
          assumption

theorem State.collRelease_changes (s : State) (n : Nat) :
    Changes [.regs, .sems, .attach, .inbox, .commits, .cores, .colls, .owed, .atu, .nextId, .freeCtr] s
        (State.collRelease s n) := by
  unfold State.collRelease
  split
  · exact Changes.refl _ _
  · rename_i y7 y8 y9 y10
    have h11 : Changes [.regs, .sems, .attach, .inbox, .commits, .cores, .colls, .owed, .atu, .nextId, .freeCtr] s y9 := by
      refine Changes.step ?_ (State.takeAnnounce_changes y10) (by decide)
      exact Changes.refl _ _
    extract_lets a22 a23
    have h24 : Changes [.regs, .sems, .attach, .inbox, .commits, .cores, .colls, .owed, .atu, .nextId, .freeCtr] s a22 := by
      unfold a22
      refine Changes.step ?_ (State.commitArrival_changes ..) (by decide)
      assumption
    clear_value a22
    clear_value a23
    split
    · assumption
    · refine Changes.ite ?_ ?_
      · refine Changes.step ?_ (State.collPoisoned_changes ..) (by decide)
        assumption
      · extract_lets a35 a36 a37
        have h38 : Changes [.regs, .sems, .attach, .inbox, .commits, .cores, .colls, .owed, .atu, .nextId,
            .freeCtr] s a35 := by
          unfold a35
          refine Changes.step ?_ (State.forwardLocal_changes ..) (by decide)
          assumption
        clear_value a35
        clear_value a36
        refine Changes.ite ?_ ?_
        · assumption
        · refine Changes.ite ?_ ?_
          · refine Changes.step ?_ (State.endColl_changes ..) (by decide)
            assumption
          · refine Changes.step ?_ (State.updColl_changes ..) (by decide)
            unfold a37
            refine Changes.step ?_ (State.blockCounts_changes ..) (by decide)
            assumption

theorem State.readBytes_changes (s : State) (u : Nat) (va : Nat) (n : Nat) :
    Changes [.regs, .owed, .atu, .freeCtr] s (State.readBytes s u va n).1 := by
  unfold State.readBytes
  refine Changes.foldlFst ?_ (fun u4 x5 => ?_)
  · refine Changes.mkFst ?_
    exact Changes.refl _ _
  · extract_lets a4
    have h5 : Changes [.regs, .owed, .atu, .freeCtr] u4.1 a4 := by
      unfold a4
      exact Changes.refl _ _
    clear_value a4
    split
    · rename_i y7 y8 y9 y10
      have h11 : Changes [.regs, .owed, .atu, .freeCtr] u4.1 y8 := by
        refine Changes.of_fst ?_ y10
        refine Changes.step ?_ (State.vaRange_changes ..) (by decide)
        assumption
      extract_lets a17 a18 a19
      clear_value a17
      have h20 : Changes [.regs, .owed, .atu, .freeCtr] u4.1 a18 := by
        unfold a18
        refine Changes.foldl ?_ (fun u21 x22 => ?_)
        · assumption
        · refine Changes.step ?_ (State.dpaUe_changes ..) (by decide)
          exact Changes.refl _ _
      clear_value a18
      clear_value a19
      refine Changes.mkFst ?_
      assumption
    · rename_i y23 y24 y25 y26
      have h27 : Changes [.regs, .owed, .atu, .freeCtr] u4.1 y24 := by
        refine Changes.of_fst ?_ y26
        refine Changes.step ?_ (State.vaRange_changes ..) (by decide)
        assumption
      refine Changes.mkFst ?_
      refine Changes.step ?_ (State.dpaUe_changes ..) (by decide)
      assumption
    · rename_i y28 y29 y30 y31 y32 y33
      have h34 : Changes [.regs, .owed, .atu, .freeCtr] u4.1 y29 := by
        refine Changes.of_fst ?_ y33
        refine Changes.step ?_ (State.vaRange_changes ..) (by decide)
        assumption
      refine Changes.mkFst ?_
      refine Changes.step ?_ (State.vaDenied_changes ..) (by decide)
      assumption

theorem State.readElems_changes (s : State) (c : Coll) (va : Nat) (size : Nat) (n : Nat) :
    Changes [.regs, .colls, .owed, .atu, .freeCtr] s (State.readElems s c va size n).1 := by
  unfold State.readElems
  extract_lets a0 a1 a2 a3
  clear_value a1
  clear_value a2
  have h6 : Changes [.regs, .colls, .owed, .atu, .freeCtr] s a3 := by
    unfold a3
    refine Changes.ite ?_ ?_
    · unfold a0
      refine Changes.step ?_ (State.readBytes_changes ..) (by decide)
      exact Changes.refl _ _
    · refine Changes.step ?_ (State.updColl_changes ..) (by decide)
      unfold a0
      refine Changes.step ?_ (State.readBytes_changes ..) (by decide)
      exact Changes.refl _ _
  clear_value a3
  refine Changes.mkFst ?_
  assumption

theorem State.sendTreeChunk_changes (s : State) (c : Coll) (t : CollStream) :
    Changes [.regs, .attach, .msgs, .colls, .owed, .atu, .nextId, .freeCtr] s (State.sendTreeChunk s c t) := by
  unfold State.sendTreeChunk
  extract_lets a0 a1 a2 a3 a4 a5 a6
  clear_value a0
  clear_value a1
  clear_value a2
  clear_value a3
  clear_value a4
  clear_value a6
  refine Changes.step ?_ (State.collMsg_changes ..) (by decide)
  unfold a5
  refine Changes.iteFst ?_ ?_
  · refine Changes.step ?_ (State.readElems_changes ..) (by decide)
    exact Changes.refl _ _
  · refine Changes.step ?_ (State.readElems_changes ..) (by decide)
    exact Changes.refl _ _

theorem State.sendLandingChunk_changes (s : State) (c : Coll) (t : CollStream) :
    Changes [.regs, .attach, .msgs, .colls, .owed, .atu, .nextId, .freeCtr] s (State.sendLandingChunk s c t) := by
  unfold State.sendLandingChunk
  extract_lets a0 a1 a2 a3 a4 a5 a6 a7 a8 a9 a10
  clear_value a0
  clear_value a1
  clear_value a2
  clear_value a3
  clear_value a4
  clear_value a5
  clear_value a6
  clear_value a7
  clear_value a9
  clear_value a10
  refine Changes.step ?_ (State.collMsg_changes ..) (by decide)
  unfold a8
  refine Changes.iteFst ?_ ?_
  · refine Changes.mkFst ?_
    exact Changes.refl _ _
  · refine Changes.step ?_ (State.readElems_changes ..) (by decide)
    exact Changes.refl _ _

theorem State.chunkSend_changes (s : State) (n : Nat) :
    Changes [.regs, .attach, .msgs, .colls, .owed, .atu, .nextId, .freeCtr] s (State.chunkSend s n) := by
  unfold State.chunkSend
  split
  · exact Changes.refl _ _
  · split
    · exact Changes.refl _ _
    · extract_lets a12
      have h13 : Changes [.regs, .attach, .msgs, .colls, .owed, .atu, .nextId, .freeCtr] s a12 := by
        unfold a12
        refine Changes.step ?_ (State.updColl_changes ..) (by decide)
        exact Changes.refl _ _
      clear_value a12
      refine Changes.ite ?_ ?_
      · refine Changes.step ?_ (State.sendTreeChunk_changes ..) (by decide)
        assumption
      · refine Changes.step ?_ (State.sendLandingChunk_changes ..) (by decide)
        assumption

theorem State.landBytes_changes (s : State) (n : Nat) (a : Arrival) (body : List Byte) :
    Changes [.regs, .dpa, .ue, .owed, .atu, .freeCtr] s (State.landBytes s n a body).1 := by
  unfold State.landBytes
  extract_lets a0 a1
  clear_value a0
  clear_value a1
  split
  · refine Changes.mkFst ?_
    refine Changes.step ?_ (State.vaDenied_changes ..) (by decide)
    exact Changes.refl _ _
  · split
    · rename_i y12 y13 y14 y15
      have h16 : Changes [.regs, .dpa, .ue, .owed, .atu, .freeCtr] s y13 := by
        refine Changes.of_fst ?_ y15
        refine Changes.step ?_ (State.vaRange_changes ..) (by decide)
        exact Changes.refl _ _
      split
      · rename_i y7 y8 y9
        have h12 : Changes [.regs, .dpa, .ue, .owed, .atu, .freeCtr] s y8 := by
          refine Changes.step ?_ (State.writePieces_changes y9) (by decide)
          assumption
        refine Changes.mkFst ?_
        assumption
      · refine Changes.mkFst ?_
        refine Changes.step ?_ (State.dpaUe_changes ..) (by decide)
        assumption
    · rename_i y9 y10 y11 y12
      have h13 : Changes [.regs, .dpa, .ue, .owed, .atu, .freeCtr] s y10 := by
        refine Changes.of_fst ?_ y12
        refine Changes.step ?_ (State.vaRange_changes ..) (by decide)
        exact Changes.refl _ _
      refine Changes.mkFst ?_
      refine Changes.step ?_ (State.vaDenied_changes ..) (by decide)
      assumption
    · rename_i y6 y7 y8 y9 y10
      have h11 : Changes [.regs, .dpa, .ue, .owed, .atu, .freeCtr] s y7 := by
        refine Changes.of_fst ?_ y10
        refine Changes.step ?_ (State.vaRange_changes ..) (by decide)
        exact Changes.refl _ _
      refine Changes.mkFst ?_
      refine Changes.step ?_ (State.vaDenied_changes ..) (by decide)
      assumption
    · rename_i y14 y15 y16 y17
      have h18 : Changes [.regs, .dpa, .ue, .owed, .atu, .freeCtr] s y15 := by
        refine Changes.of_fst ?_ y17
        refine Changes.step ?_ (State.vaRange_changes ..) (by decide)
        exact Changes.refl _ _
      refine Changes.mkFst ?_
      refine Changes.step ?_ (State.dpaUe_changes ..) (by decide)
      assumption

theorem State.landingChunk_changes (s : State) (n : Nat) :
    Changes [.regs, .cnt, .dpa, .sems, .ue, .inbox, .commits, .colls, .owed, .atu, .freeCtr] s (State.landingChunk s n) := by
  unfold State.landingChunk
  split
  · exact Changes.refl _ _
  · rename_i y4 y5 y6 y7
    have h8 : Changes [.regs, .cnt, .dpa, .sems, .ue, .inbox, .commits, .colls, .owed, .atu, .freeCtr] s y6 := by
      refine Changes.step ?_ (State.takeArrival_changes y7) (by decide)
      exact Changes.refl _ _
    extract_lets a10 a11
    clear_value a10
    have h2 : Changes [.regs, .cnt, .dpa, .sems, .ue, .inbox, .commits, .colls, .owed, .atu, .freeCtr] s a11 := by
      unfold a11
      split
      · refine Changes.step ?_ (State.raise_changes ..) (by decide)
        refine Changes.step ?_ (State.incCtr_changes ..) (by decide)
        assumption
      · extract_lets a24 a25
        have h26 : Changes [.regs, .cnt, .dpa, .sems, .ue, .inbox, .commits, .colls, .owed, .atu, .freeCtr] s a24 := by
          unfold a24
          refine Changes.step ?_ (State.updColl_changes ..) (by decide)
          assumption
        clear_value a24
        have h27 : Changes [.regs, .cnt, .dpa, .sems, .ue, .inbox, .commits, .colls, .owed, .atu, .freeCtr] s a25 := by
          unfold a25
          refine Changes.step ?_ (State.updColl_changes ..) (by decide)
          assumption
        clear_value a25
        refine Changes.ite ?_ ?_
        · refine Changes.step ?_ (State.raise_changes ..) (by decide)
          refine Changes.step ?_ (State.updColl_changes ..) (by decide)
          assumption
        · split
          · rename_i y28 y29 y30
            have h31 : Changes [.regs, .cnt, .dpa, .sems, .ue, .inbox, .commits, .colls, .owed, .atu, .freeCtr] s y29 := by
              refine Changes.of_fst ?_ y30
              refine Changes.step ?_ (State.landBytes_changes ..) (by decide)
              assumption
            refine Changes.ite ?_ ?_
            · refine Changes.step ?_ (State.semUpdate_changes ..) (by decide)
              assumption
            · assumption
          · rename_i y32 y33 y34
            have h35 : Changes [.regs, .cnt, .dpa, .sems, .ue, .inbox, .commits, .colls, .owed, .atu, .freeCtr] s y33 := by
              refine Changes.of_fst ?_ y34
              refine Changes.step ?_ (State.landBytes_changes ..) (by decide)
              assumption
            refine Changes.step ?_ (State.updColl_changes ..) (by decide)
            assumption
    clear_value a11
    refine Changes.step ?_ (State.commitArrival_changes ..) (by decide)
    assumption

theorem State.doneSend_changes (s : State) (n : Nat) :
    Changes [.attach, .msgs, .colls, .nextId] s (State.doneSend s n) := by
  unfold State.doneSend
  split
  · exact Changes.refl _ _
  · extract_lets a17 a18 a19
    have h20 : Changes [.attach, .msgs, .colls, .nextId] s a17 := by
      unfold a17
      refine Changes.step ?_ (State.updColl_changes ..) (by decide)
      exact Changes.refl _ _
    clear_value a17
    clear_value a18
    clear_value a19
    refine Changes.step ?_ (State.collMsg_changes ..) (by decide)
    assumption

theorem State.doneResult_changes (s : State) (n : Nat) :
    Changes [.regs, .sems, .attach, .inbox, .commits, .cores, .colls, .owed, .nextId] s (State.doneResult s n) := by
  unfold State.doneResult
  split
  · exact Changes.refl _ _
  · rename_i y2 y3 y4 y5
    have h6 : Changes [.regs, .sems, .attach, .inbox, .commits, .cores, .colls, .owed, .nextId] s y4 := by
      refine Changes.step ?_ (State.takeArrival_changes y5) (by decide)
      exact Changes.refl _ _
    extract_lets a6 a7
    have h8 : Changes [.regs, .sems, .attach, .inbox, .commits, .cores, .colls, .owed, .nextId] s a6 := by
      unfold a6
      refine Changes.step ?_ (State.commitArrival_changes ..) (by decide)
      assumption
    clear_value a6
    clear_value a7
    split
    · assumption
    · refine Changes.ite ?_ ?_
      · refine Changes.step ?_ (State.collPoisoned_changes ..) (by decide)
        assumption
      · extract_lets a19
        have h20 : Changes [.regs, .sems, .attach, .inbox, .commits, .cores, .colls, .owed, .nextId] s a19 := by
          unfold a19
          refine Changes.step ?_ (State.forwardLocal_changes ..) (by decide)
          assumption
        clear_value a19
        refine Changes.ite ?_ ?_
        · assumption
        · refine Changes.ite ?_ ?_
          · refine Changes.step ?_ (State.endPoisoned_changes ..) (by decide)
            assumption
          · refine Changes.step ?_ (State.endColl_changes ..) (by decide)
            assumption

theorem State.stopSending_changes (s : State) (id : Nat) :
    Changes [.attach, .msgs] s (State.stopSending s id) := by
  unfold State.stopSending
  refine Changes.foldl ?_ (fun u0 x1 => ?_)
  · exact Changes.refl _ _
  · refine Changes.step ?_ (State.dropMsg_changes ..) (by decide)
    exact Changes.refl _ _

theorem State.abortColls_changes (s : State) (n : Nat) (job : Nat) (code : Nat) :
    Changes [.regs, .sems, .attach, .msgs, .cores, .colls, .owed] s (State.abortColls s n job code) := by
  unfold State.abortColls
  refine Changes.foldl ?_ (fun u0 x1 => ?_)
  · exact Changes.refl _ _
  · refine Changes.step ?_ (State.endColl_changes ..) (by decide)
    refine Changes.step ?_ (State.stopSending_changes ..) (by decide)
    exact Changes.refl _ _

theorem State.writeColljobcmd_changes (s : State) (n : Nat) (w : Word) :
    Changes [.regs, .sems, .attach, .msgs, .cores, .colls, .owed] s (State.writeColljobcmd s n w) := by
  unfold State.writeColljobcmd
  extract_lets a0
  clear_value a0
  refine Changes.ite ?_ ?_
  · refine Changes.step ?_ (State.abortColls_changes ..) (by decide)
    exact Changes.refl _ _
  · exact Changes.refl _ _

/-! ### Canonical form -/

theorem State.endMember_wf (s : State) (u : Nat) (job : Nat) (d : CollDesc) (code : Nat) (done : Nat) (total : Dword) :
    KeepsWf s (State.endMember s u job d code done total) := by
  unfold State.endMember
  extract_lets a0 a1 a2 a3 a4
  clear_value a0
  clear_value a1
  have h0 : KeepsWf s a2 := by
    unfold a2
    refine KeepsWf.ite ?_ ?_
    · refine KeepsWf.trans ?_ (KeepsWf.of_changes (State.lsPut_changes ..) (by decide))
      exact KeepsWf.refl _
    · exact KeepsWf.refl _
  clear_value a2
  have h0 : KeepsWf s a3 := by
    unfold a3
    refine KeepsWf.trans ?_ (State.semUpdate_wf ..)
    assumption
  clear_value a3
  have h7 : KeepsWf s a4 := by
    unfold a4
    refine KeepsWf.ite ?_ ?_
    · refine KeepsWf.trans ?_ (KeepsWf.of_changes (State.setReg_changes ..) (by decide))
      assumption
    · assumption
  clear_value a4
  refine KeepsWf.ite ?_ ?_
  · assumption
  · refine KeepsWf.trans ?_ (KeepsWf.of_changes (State.raise_changes ..) (by decide))
    assumption

theorem State.endColl_wf (s : State) (c : Coll) (code : Nat) (done : Nat) :
    KeepsWf s (State.endColl s c code done) := by
  unfold State.endColl
  refine KeepsWf.trans ?_ (KeepsWf.of_changes (State.settleClear_changes ..) (by decide))
  refine KeepsWf.trans ?_ (State.endMember_wf ..)
  refine KeepsWf.trans ?_ (KeepsWf.of_changes Changes.colls (by decide))
  exact KeepsWf.refl _

theorem State.endPoisoned_wf (s : State) (c : Coll) (done : Nat) :
    KeepsWf s (State.endPoisoned s c done) := by
  unfold State.endPoisoned
  refine KeepsWf.trans ?_ (State.endColl_wf ..)
  refine KeepsWf.trans ?_ (KeepsWf.of_changes (State.owe_changes ..) (by decide))
  exact KeepsWf.refl _

theorem State.collAccept_wf (s : State) (u : Nat) :
    KeepsWf s (State.collAccept s u) := by
  unfold State.collAccept
  extract_lets a0
  clear_value a0
  split
  · exact KeepsWf.refl _
  · refine KeepsWf.ite ?_ ?_
    · exact KeepsWf.refl _
    · extract_lets a24 a25 a26 a27
      have h28 : KeepsWf s a24 := by
        unfold a24
        refine KeepsWf.trans ?_ (KeepsWf.of_changes (State.setCore_changes ..) (by decide))
        exact KeepsWf.refl _
      clear_value a24
      clear_value a25
      clear_value a26
      clear_value a27
      refine KeepsWf.ite ?_ ?_
      · refine KeepsWf.trans ?_ (State.asyncFault_wf ..)
        assumption
      · refine KeepsWf.ite ?_ ?_
        · refine KeepsWf.trans ?_ (State.endMember_wf ..)
          assumption
        · split
          · rename_i y0 y1 y2 y3
            have h4 : KeepsWf s y1 := by
              refine KeepsWf.of_fst ?_ y3
              refine KeepsWf.trans ?_ (KeepsWf.of_changes (State.readPlan_changes ..) (by decide))
              assumption
            refine KeepsWf.trans ?_ (State.endMember_wf ..)
            assumption
          · rename_i y32 y33 y34 y35
            have h36 : KeepsWf s y33 := by
              refine KeepsWf.of_fst ?_ y35
              refine KeepsWf.trans ?_ (KeepsWf.of_changes (State.readPlan_changes ..) (by decide))
              assumption
            refine KeepsWf.ite ?_ ?_
            · refine KeepsWf.trans ?_ (State.endMember_wf ..)
              assumption
            · extract_lets a53 a54 a55 a56
              clear_value a53
              clear_value a54
              clear_value a55
              clear_value a56
              refine KeepsWf.trans ?_ (KeepsWf.of_changes (State.openColl_changes ..) (by decide))
              refine KeepsWf.trans ?_ (KeepsWf.of_changes (State.numbered_changes ..) (by decide))
              assumption

theorem State.collPoisoned_wf (s : State) (c : Coll) :
    KeepsWf s (State.collPoisoned s c) := by
  unfold State.collPoisoned
  refine KeepsWf.trans ?_ (State.endPoisoned_wf ..)
  refine KeepsWf.trans ?_ (KeepsWf.of_changes (State.raise_changes ..) (by decide))
  exact KeepsWf.refl _

theorem State.announceReceive_wf (s : State) (n : Nat) :
    KeepsWf s (State.announceReceive s n) := by
  unfold State.announceReceive
  split
  · exact KeepsWf.refl _
  · rename_i y2 y3 y4 y5
    have h6 : KeepsWf s y4 := by
      refine KeepsWf.trans ?_ (KeepsWf.of_changes (State.takeAnnounce_changes y5) (by decide))
      exact KeepsWf.refl _
    extract_lets a21 a22
    have h23 : KeepsWf s a21 := by
      unfold a21
      refine KeepsWf.trans ?_ (KeepsWf.of_changes (State.commitArrival_changes ..) (by decide))
      assumption
    clear_value a21
    clear_value a22
    split
    · assumption
    · refine KeepsWf.ite ?_ ?_
      · refine KeepsWf.trans ?_ (State.collPoisoned_wf ..)
        assumption
      · refine KeepsWf.trans ?_ (KeepsWf.of_changes (State.updColl_changes ..) (by decide))
        assumption

theorem State.collRelease_wf (s : State) (n : Nat) :
    KeepsWf s (State.collRelease s n) := by
  unfold State.collRelease
  split
  · exact KeepsWf.refl _
  · rename_i y10 y11 y12 y13
    have h14 : KeepsWf s y12 := by
      refine KeepsWf.trans ?_ (KeepsWf.of_changes (State.takeAnnounce_changes y13) (by decide))
      exact KeepsWf.refl _
    extract_lets a29 a30
    have h31 : KeepsWf s a29 := by
      unfold a29
      refine KeepsWf.trans ?_ (KeepsWf.of_changes (State.commitArrival_changes ..) (by decide))
      assumption
    clear_value a29
    clear_value a30
    split
    · assumption
    · refine KeepsWf.ite ?_ ?_
      · refine KeepsWf.trans ?_ (State.collPoisoned_wf ..)
        assumption
      · extract_lets a22 a23 a24
        have h25 : KeepsWf s a22 := by
          unfold a22
          refine KeepsWf.trans ?_ (KeepsWf.of_changes (State.forwardLocal_changes ..) (by decide))
          assumption
        clear_value a22
        clear_value a23
        refine KeepsWf.ite ?_ ?_
        · assumption
        · refine KeepsWf.ite ?_ ?_
          · refine KeepsWf.trans ?_ (State.endColl_wf ..)
            assumption
          · refine KeepsWf.trans ?_ (KeepsWf.of_changes (State.updColl_changes ..) (by decide))
            unfold a24
            refine KeepsWf.trans ?_ (KeepsWf.of_changes (State.blockCounts_changes ..) (by decide))
            assumption

theorem State.landBytes_wf (s : State) (n : Nat) (a : Arrival) (body : List Byte) :
    KeepsWf s (State.landBytes s n a body).1 := by
  unfold State.landBytes
  extract_lets a0 a1
  clear_value a0
  clear_value a1
  split
  · refine KeepsWf.mkFst ?_
    refine KeepsWf.trans ?_ (KeepsWf.of_changes (State.vaDenied_changes ..) (by decide))
    exact KeepsWf.refl _
  · split
    · rename_i y27 y28 y29 y30
      have h31 : KeepsWf s y28 := by
        refine KeepsWf.of_fst ?_ y30
        refine KeepsWf.trans ?_ (KeepsWf.of_changes (State.vaRange_changes ..) (by decide))
        exact KeepsWf.refl _
      split
      · rename_i y45 y46 y47
        have h48 : KeepsWf s y46 := by
          refine KeepsWf.trans ?_ (State.writePieces_wf y47)
          assumption
        refine KeepsWf.mkFst ?_
        assumption
      · refine KeepsWf.mkFst ?_
        refine KeepsWf.trans ?_ (KeepsWf.of_changes (State.dpaUe_changes ..) (by decide))
        assumption
    · rename_i y57 y58 y59 y60
      have h61 : KeepsWf s y58 := by
        refine KeepsWf.of_fst ?_ y60
        refine KeepsWf.trans ?_ (KeepsWf.of_changes (State.vaRange_changes ..) (by decide))
        exact KeepsWf.refl _
      refine KeepsWf.mkFst ?_
      refine KeepsWf.trans ?_ (KeepsWf.of_changes (State.vaDenied_changes ..) (by decide))
      assumption
    · rename_i y62 y63 y64 y65 y66
      have h67 : KeepsWf s y63 := by
        refine KeepsWf.of_fst ?_ y66
        refine KeepsWf.trans ?_ (KeepsWf.of_changes (State.vaRange_changes ..) (by decide))
        exact KeepsWf.refl _
      refine KeepsWf.mkFst ?_
      refine KeepsWf.trans ?_ (KeepsWf.of_changes (State.vaDenied_changes ..) (by decide))
      assumption
    · rename_i y68 y69 y70 y71
      have h72 : KeepsWf s y69 := by
        refine KeepsWf.of_fst ?_ y71
        refine KeepsWf.trans ?_ (KeepsWf.of_changes (State.vaRange_changes ..) (by decide))
        exact KeepsWf.refl _
      refine KeepsWf.mkFst ?_
      refine KeepsWf.trans ?_ (KeepsWf.of_changes (State.dpaUe_changes ..) (by decide))
      assumption

theorem State.landingChunk_wf (s : State) (n : Nat) :
    KeepsWf s (State.landingChunk s n) := by
  unfold State.landingChunk
  split
  · exact KeepsWf.refl _
  · rename_i y7 y8 y9 y10
    have h11 : KeepsWf s y9 := by
      refine KeepsWf.trans ?_ (KeepsWf.of_changes (State.takeArrival_changes y10) (by decide))
      exact KeepsWf.refl _
    extract_lets a20 a21
    clear_value a20
    have h26 : KeepsWf s a21 := by
      unfold a21
      split
      · refine KeepsWf.trans ?_ (KeepsWf.of_changes (State.raise_changes ..) (by decide))
        refine KeepsWf.trans ?_ (State.incCtr_wf ..)
        assumption
      · extract_lets a42 a43
        have h44 : KeepsWf s a42 := by
          unfold a42
          refine KeepsWf.trans ?_ (KeepsWf.of_changes (State.updColl_changes ..) (by decide))
          assumption
        clear_value a42
        have h52 : KeepsWf s a43 := by
          unfold a43
          refine KeepsWf.trans ?_ (KeepsWf.of_changes (State.updColl_changes ..) (by decide))
          assumption
        clear_value a43
        refine KeepsWf.ite ?_ ?_
        · refine KeepsWf.trans ?_ (KeepsWf.of_changes (State.raise_changes ..) (by decide))
          refine KeepsWf.trans ?_ (KeepsWf.of_changes (State.updColl_changes ..) (by decide))
          assumption
        · split
          · rename_i y73 y74 y75
            have h76 : KeepsWf s y74 := by
              refine KeepsWf.of_fst ?_ y75
              refine KeepsWf.trans ?_ (State.landBytes_wf ..)
              assumption
            refine KeepsWf.ite ?_ ?_
            · refine KeepsWf.trans ?_ (State.semUpdate_wf ..)
              assumption
            · assumption
          · rename_i y77 y78 y79
            have h80 : KeepsWf s y78 := by
              refine KeepsWf.of_fst ?_ y79
              refine KeepsWf.trans ?_ (State.landBytes_wf ..)
              assumption
            refine KeepsWf.trans ?_ (KeepsWf.of_changes (State.updColl_changes ..) (by decide))
            assumption
    clear_value a21
    refine KeepsWf.trans ?_ (KeepsWf.of_changes (State.commitArrival_changes ..) (by decide))
    assumption

theorem State.doneResult_wf (s : State) (n : Nat) :
    KeepsWf s (State.doneResult s n) := by
  unfold State.doneResult
  split
  · exact KeepsWf.refl _
  · rename_i y4 y5 y6 y7
    have h8 : KeepsWf s y6 := by
      refine KeepsWf.trans ?_ (KeepsWf.of_changes (State.takeArrival_changes y7) (by decide))
      exact KeepsWf.refl _
    extract_lets a1 a2
    have h3 : KeepsWf s a1 := by
      unfold a1
      refine KeepsWf.trans ?_ (KeepsWf.of_changes (State.commitArrival_changes ..) (by decide))
      assumption
    clear_value a1
    clear_value a2
    split
    · assumption
    · refine KeepsWf.ite ?_ ?_
      · refine KeepsWf.trans ?_ (State.collPoisoned_wf ..)
        assumption
      · extract_lets a9
        have h10 : KeepsWf s a9 := by
          unfold a9
          refine KeepsWf.trans ?_ (KeepsWf.of_changes (State.forwardLocal_changes ..) (by decide))
          assumption
        clear_value a9
        refine KeepsWf.ite ?_ ?_
        · assumption
        · refine KeepsWf.ite ?_ ?_
          · refine KeepsWf.trans ?_ (State.endPoisoned_wf ..)
            assumption
          · refine KeepsWf.trans ?_ (State.endColl_wf ..)
            assumption

theorem State.abortColls_wf (s : State) (n : Nat) (job : Nat) (code : Nat) :
    KeepsWf s (State.abortColls s n job code) := by
  unfold State.abortColls
  refine KeepsWf.foldl ?_ (fun u0 x1 => ?_)
  · exact KeepsWf.refl _
  · refine KeepsWf.trans ?_ (State.endColl_wf ..)
    refine KeepsWf.trans ?_ (KeepsWf.of_changes (State.stopSending_changes ..) (by decide))
    exact KeepsWf.refl _

theorem State.writeColljobcmd_wf (s : State) (n : Nat) (w : Word) :
    KeepsWf s (State.writeColljobcmd s n w) := by
  unfold State.writeColljobcmd
  extract_lets a0
  clear_value a0
  refine KeepsWf.ite ?_ ?_
  · refine KeepsWf.trans ?_ (State.abortColls_wf ..)
    exact KeepsWf.refl _
  · exact KeepsWf.refl _

end Sys2Proof.Machine
end

