-- ==== Sys2Proof/Laws/Dispatcher.lean ====
section
/-!
SUPPORT. What each operation of Machine/Dispatcher.lean may change (`_changes`), and that those which write a memory keep its
canonical form (`_wf`).
-/

namespace Sys2Proof.Machine

theorem State.setDsp_changes (s : State) (d : Dispatcher) :
    Changes [.dsp] s (State.setDsp s d) := by
  unfold State.setDsp
  refine Changes.step ?_ Changes.dsp (by decide)
  exact Changes.refl _ _

theorem State.refreshReady_changes (s : State) :
    Changes [.dsp] s (State.refreshReady s) := by
  unfold State.refreshReady
  extract_lets a0 a1 a2 a3
  clear_value a0
  clear_value a1
  clear_value a2
  clear_value a3
  refine Changes.step ?_ (State.setDsp_changes ..) (by decide)
  exact Changes.refl _ _

theorem State.takeRequest_changes (s : State) :
    Changes [.regs, .poolUsed, .dsp] s (State.takeRequest s) := by
  unfold State.takeRequest
  split
  · exact Changes.refl _ _
  · extract_lets a4 a5 a6 a7
    clear_value a4
    have h10 : Changes [.regs, .poolUsed, .dsp] s a5 := by
      unfold a5
      refine Changes.step ?_ (State.setDsp_changes ..) (by decide)
      exact Changes.refl _ _
    clear_value a5
    clear_value a6
    clear_value a7
    refine Changes.ite ?_ ?_
    · refine Changes.step ?_ (State.dropBuffer_changes ..) (by decide)
      assumption
    · refine Changes.ite ?_ ?_
      · refine Changes.step ?_ (State.dropBuffer_changes ..) (by decide)
        assumption
      · refine Changes.ite ?_ ?_
        · refine Changes.step ?_ (State.dropBuffer_changes ..) (by decide)
          assumption
        · refine Changes.ite ?_ ?_
          · refine Changes.step ?_ (State.dropBuffer_changes ..) (by decide)
            assumption
          · refine Changes.step ?_ (State.refreshReady_changes ..) (by decide)
            refine Changes.step ?_ (State.setDsp_changes ..) (by decide)
            assumption

theorem State.dropAged_changes (s : State) (m : Nat) :
    Changes [.regs, .poolUsed, .dsp] s (State.dropAged s m) := by
  unfold State.dropAged
  extract_lets a8 a9
  clear_value a8
  clear_value a9
  split
  · exact Changes.refl _ _
  · refine Changes.ite ?_ ?_
    · exact Changes.refl _ _
    · split
      · refine Changes.step ?_ (State.dropBuffer_changes ..) (by decide)
        refine Changes.step ?_ (State.setDsp_changes ..) (by decide)
        exact Changes.refl _ _
      · exact Changes.refl _ _

theorem State.requestAgeDrop_changes (s : State) (m : Nat) :
    Changes [.regs, .poolUsed, .dsp] s (State.requestAgeDrop s m) := by
  unfold State.requestAgeDrop
  refine Changes.step ?_ (State.refreshReady_changes ..) (by decide)
  refine Changes.step ?_ (State.dropAged_changes ..) (by decide)
  exact Changes.refl _ _

theorem State.modelWaitExpiry_changes (s : State) (m : Nat) :
    Changes [.dsp] s (State.modelWaitExpiry s m) := by
  unfold State.modelWaitExpiry
  refine Changes.ite ?_ ?_
  · refine Changes.step ?_ (State.refreshReady_changes ..) (by decide)
    exact Changes.refl _ _
  · exact Changes.refl _ _

theorem State.dropAllAged_changes (s : State) :
    Changes [.regs, .poolUsed, .dsp] s (State.dropAllAged s) := by
  unfold State.dropAllAged
  refine Changes.foldl ?_ (fun u0 x1 => ?_)
  · exact Changes.refl _ _
  · refine Changes.step ?_ (State.dropAged_changes ..) (by decide)
    exact Changes.refl _ _

theorem State.descriptorDenied_changes (s : State) (g : Nat) :
    Changes [.regs, .owed] s (State.descriptorDenied s g) := by
  unfold State.descriptorDenied
  extract_lets a0
  clear_value a0
  refine Changes.step ?_ (State.memFault_changes ..) (by decide)
  exact Changes.refl _ _

theorem State.sendDescriptor_changes (s : State) (g : Nat) (op : Nat) (model : Nat) (n : Nat) (params : Nat)
    (entries : List BatchEntry) :
    Changes [.regs, .dpa, .sems, .ue, .owed, .dsp] s (State.sendDescriptor s g op model n params entries) := by
  unfold State.sendDescriptor
  extract_lets r k e bs s1 s2
  have h1 : Changes [.regs, .dpa, .sems, .ue, .owed, .dsp] s s1 := (Changes.refl _ s).step (State.setGroup_changes ..)
      (by decide)
  clear_value s1
  have h2 : Changes [.regs, .dpa, .sems, .ue, .owed, .dsp] s s2 := h1.step (State.writeDpa_changes ..) (by decide)
  clear_value s2
  refine Changes.ite (h1.step (State.descriptorDenied_changes ..) (by decide)) ?_
  split
  · exact h2.step (State.semUpdate_changes ..) (by decide)
  · exact h2

theorem State.sendBatch_changes (s : State) (g : Nat) (m : Nat) (es : List BatchEntry) :
    Changes [.regs, .dpa, .sems, .ue, .owed, .dsp] s (State.sendBatch s g m es) := by
  unfold State.sendBatch
  extract_lets a0 a1 a2
  clear_value a0
  have h3 : Changes [.regs, .dpa, .sems, .ue, .owed, .dsp] s a1 := by
    unfold a1
    refine Changes.step ?_ (State.sendDescriptor_changes ..) (by decide)
    exact Changes.refl _ _
  clear_value a1
  clear_value a2
  refine Changes.step ?_ (State.setGroup_changes ..) (by decide)
  assumption

theorem State.sendExit_changes (s : State) (g : Nat) :
    Changes [.regs, .dpa, .sems, .ue, .owed, .dsp] s (State.sendExit s g) := by
  unfold State.sendExit
  extract_lets a0
  clear_value a0
  refine Changes.step ?_ (State.sendDescriptor_changes ..) (by decide)
  exact Changes.refl _ _

theorem State.takeEntries_changes (s : State) (m : Nat) (g : Nat) (b : Nat) :
    Changes [.dsp] s (State.takeEntries s m g b).1 := by
  unfold State.takeEntries
  extract_lets a0 a1 a2 a3 a4 a5
  clear_value a0
  clear_value a1
  clear_value a2
  have h0 : Changes [.dsp] s a3 := by
    unfold a3
    refine Changes.step ?_ (State.setGroup_changes ..) (by decide)
    exact Changes.refl _ _
  clear_value a3
  clear_value a4
  have h6 : Changes [.dsp] s a5 := by
    unfold a5
    refine Changes.step ?_ (State.setDsp_changes ..) (by decide)
    assumption
  clear_value a5
  refine Changes.mkFst ?_
  assumption

theorem State.assign_changes (s : State) (g : Nat) (m : Nat) (b : Nat) :
    Changes [.regs, .cnt, .dpa, .sems, .ue, .owed, .dsp] s (State.assign s g m b) := by
  unfold State.assign
  split
  · rename_i y0 y1 y2 y3
    have h4 : Changes [.regs, .cnt, .dpa, .sems, .ue, .owed, .dsp] s y1 := by
      refine Changes.of_fst ?_ y3
      refine Changes.step ?_ (State.takeEntries_changes ..) (by decide)
      exact Changes.refl _ _
    extract_lets a5 a6 a7
    have h8 : Changes [.regs, .cnt, .dpa, .sems, .ue, .owed, .dsp] s a5 := by
      unfold a5
      refine Changes.step ?_ (State.incCtr_changes ..) (by decide)
      assumption
    clear_value a5
    have h3 : Changes [.regs, .cnt, .dpa, .sems, .ue, .owed, .dsp] s a6 := by
      unfold a6
      refine Changes.step ?_ (State.sendExit_changes ..) (by decide)
      assumption
    clear_value a6
    clear_value a7
    refine Changes.ite ?_ ?_
    · refine Changes.step ?_ (State.sendBatch_changes ..) (by decide)
      assumption
    · refine Changes.step ?_ (State.setGroup_changes ..) (by decide)
      assumption

theorem State.dispatchLoop_changes (f passes : Nat) (s : State) :
    Changes [.regs, .cnt, .dpa, .sems, .ue, .owed, .dsp] s (State.dispatchLoop f passes s) := by
  induction f generalizing passes s with
  | zero => exact Changes.refl _ _
  | succ f ih =>
    unfold State.dispatchLoop
    refine Changes.ite ?_ ?_
    · exact Changes.refl _ _
    · split
      · exact Changes.refl _ _
      · extract_lets a7 a8 a9 a10 a11
        clear_value a7
        clear_value a8
        clear_value a9
        have h12 : Changes [.regs, .cnt, .dpa, .sems, .ue, .owed, .dsp] s a10 := by
          unfold a10
          refine Changes.step ?_ (State.setDsp_changes ..) (by decide)
          exact Changes.refl _ _
        clear_value a10
        clear_value a11
        split
        · refine Changes.trans ?_ (ih ..)
          refine Changes.step ?_ (State.setDsp_changes ..) (by decide)
          assumption
        · extract_lets a25 a26 a27 a28 a29 a30 a31
          clear_value a25
          clear_value a26
          have h32 : Changes [.regs, .cnt, .dpa, .sems, .ue, .owed, .dsp] s a27 := by
            unfold a27
            refine Changes.step ?_ (State.assign_changes ..) (by decide)
            assumption
          clear_value a27
          have h38 : Changes [.regs, .cnt, .dpa, .sems, .ue, .owed, .dsp] s a28 := by
            unfold a28
            refine Changes.step ?_ (State.setDsp_changes ..) (by decide)
            assumption
          clear_value a28
          clear_value a29
          clear_value a30
          have h39 : Changes [.regs, .cnt, .dpa, .sems, .ue, .owed, .dsp] s a31 := by
            unfold a31
            refine Changes.ite ?_ ?_
            · refine Changes.step ?_ (State.setDsp_changes ..) (by decide)
              assumption
            · refine Changes.ite ?_ ?_
              · refine Changes.step ?_ (State.setDsp_changes ..) (by decide)
                assumption
              · assumption
          clear_value a31
          refine Changes.ite ?_ ?_
          · refine Changes.trans ?_ (ih ..)
            refine Changes.step ?_ (State.setDsp_changes ..) (by decide)
            assumption
          · refine Changes.trans ?_ (ih ..)
            assumption

theorem State.dispatchAll_changes (s : State) :
    Changes [.regs, .cnt, .dpa, .sems, .ue, .owed, .poolUsed, .dsp] s (State.dispatchAll s) := by
  unfold State.dispatchAll
  refine Changes.ite ?_ ?_
  · exact Changes.refl _ _
  · extract_lets a0 a1
    have h2 : Changes [.regs, .cnt, .dpa, .sems, .ue, .owed, .poolUsed, .dsp] s a0 := by
      unfold a0
      refine Changes.step ?_ (State.refreshReady_changes ..) (by decide)
      refine Changes.step ?_ (State.dropAllAged_changes ..) (by decide)
      exact Changes.refl _ _
    clear_value a0
    clear_value a1
    refine Changes.step ?_ (State.dispatchLoop_changes ..) (by decide)
    assumption

theorem State.startGroupCores_changes (s : State) (g : Nat) (m : Nat) :
    Changes [.regs, .cnt, .ls, .acc, .accFlags, .accBank1, .ue, .cores, .poolUsed, .dsp] s
        (State.startGroupCores s g m) := by
  unfold State.startGroupCores
  refine Changes.foldl ?_ (fun u0 x1 => ?_)
  · exact Changes.refl _ _
  · refine Changes.step ?_ (State.startCore_changes ..) (by decide)
    exact Changes.refl _ _

theorem State.groupStarted_changes (s : State) (g : Nat) (m : Nat) :
    Changes [.dsp] s (State.groupStarted s g m) := by
  unfold State.groupStarted
  refine Changes.step ?_ (State.setGroup_changes ..) (by decide)
  exact Changes.refl _ _

theorem State.switchHalted_changes (s : State) (g : Nat) :
    Changes [.regs, .cnt, .dpa, .ls, .acc, .accFlags, .accBank1, .sems, .ue, .cores, .owed, .poolUsed, .dsp] s
        (State.switchHalted s g) := by
  unfold State.switchHalted
  extract_lets a0 a1
  clear_value a0
  have h2 : Changes [.regs, .cnt, .dpa, .ls, .acc, .accFlags, .accBank1, .sems, .ue, .cores, .owed, .poolUsed,
      .dsp] s a1 := by
    unfold a1
    refine Changes.step ?_ (State.setGroup_changes ..) (by decide)
    exact Changes.refl _ _
  clear_value a1
  split
  · exact Changes.refl _ _
  · refine Changes.ite ?_ ?_
    · exact Changes.refl _ _
    · extract_lets a10
      have h11 : Changes [.regs, .cnt, .dpa, .ls, .acc, .accFlags, .accBank1, .sems, .ue, .cores, .owed, .poolUsed,
          .dsp] s a10 := by
        unfold a10
        refine Changes.step ?_ (State.startGroupCores_changes ..) (by decide)
        assumption
      clear_value a10
      refine Changes.ite ?_ ?_
      · assumption
      · refine Changes.step ?_ (State.incCtr_changes ..) (by decide)
        refine Changes.step ?_ (State.sendBatch_changes ..) (by decide)
        assumption

theorem State.completeEntry_changes (s : State) (g : Nat) (m : Nat) (x3 : BatchEntry) (b : List Byte) :
    Changes [.regs, .eths, .poolUsed, .dsp] s (State.completeEntry s g m x3 b) := by
  unfold State.completeEntry
  extract_lets lane flags s1
  have h1 : Changes [.regs, .eths, .poolUsed, .dsp] s s1 :=
    Changes.ite ((Changes.refl _ s).step (State.freeBuffer_changes ..) (by decide))
      (Changes.ite ((Changes.refl _ s).step (State.queueResponse_changes ..) (by decide))
        ((Changes.refl _ s).step (State.dropBuffer_changes ..) (by decide)))
  clear_value s1
  refine Changes.ite h1 ?_
  have h2 := h1.step (State.allocate_changes s1 (poolSize (handlePool x3.handle))) (by decide)
  split <;> (rename_i e; rw [e] at h2)
  · exact h2.step (State.setGroup_changes ..) (by decide)
  · exact h2.step (State.countDrop_changes ..) (by decide)
  · exact h2

theorem State.refuseCompletion_changes (s : State) (g : Nat) :
    Changes [.regs, .poolUsed, .dsp] s (State.refuseCompletion s g) := by
  unfold State.refuseCompletion
  extract_lets a4
  have h5 : Changes [.regs, .poolUsed, .dsp] s a4 := by
    unfold a4
    refine Changes.step ?_ (State.raise_changes ..) (by decide)
    exact Changes.refl _ _
  clear_value a4
  refine Changes.ite ?_ ?_
  · refine Changes.step ?_ (State.faultGroup_changes ..) (by decide)
    assumption
  · refine Changes.step ?_ (State.dspFault_changes ..) (by decide)
    assumption

theorem State.exitGroup_changes (s : State) (g : Nat) :
    Changes [.regs, .dpa, .sems, .ue, .owed, .dsp] s (State.exitGroup s g) := by
  unfold State.exitGroup
  extract_lets a0 a1 a2
  clear_value a0
  have h3 : Changes [.regs, .dpa, .sems, .ue, .owed, .dsp] s a1 := by
    unfold a1
    refine Changes.step ?_ (State.sendExit_changes ..) (by decide)
    exact Changes.refl _ _
  clear_value a1
  clear_value a2
  refine Changes.ite ?_ ?_
  · refine Changes.step ?_ (State.setGroup_changes ..) (by decide)
    assumption
  · exact Changes.refl _ _

theorem State.batchCompletion_changes (s : State) :
    Changes [.regs, .dpa, .sems, .ue, .eths, .inbox, .commits, .owed, .poolUsed, .dsp] s (State.batchCompletion s) := by
  unfold State.batchCompletion
  split
  · exact Changes.refl _ _
  · rename_i y2 y3 y4 y5
    have h6 : Changes [.regs, .dpa, .sems, .ue, .eths, .inbox, .commits, .owed, .poolUsed, .dsp] s y4 := by
      refine Changes.step ?_ (State.takeArrival_changes y5) (by decide)
      exact Changes.refl _ _
    extract_lets a7 a8 a9 a10 a11
    have h12 : Changes [.regs, .dpa, .sems, .ue, .eths, .inbox, .commits, .owed, .poolUsed, .dsp] s a7 := by
      unfold a7
      refine Changes.step ?_ (State.commitArrival_changes ..) (by decide)
      assumption
    clear_value a7
    clear_value a8
    clear_value a9
    clear_value a10
    have h0 : Changes [.regs, .dpa, .sems, .ue, .eths, .inbox, .commits, .owed, .poolUsed, .dsp] s a11 := by
      unfold a11
      refine Changes.step ?_ (State.setGroup_changes ..) (by decide)
      assumption
    clear_value a11
    split
    · refine Changes.step ?_ (State.refuseCompletion_changes ..) (by decide)
      assumption
    · refine Changes.ite ?_ ?_
      · refine Changes.step ?_ (State.refuseCompletion_changes ..) (by decide)
        assumption
      · extract_lets a33 a34
        have h35 : Changes [.regs, .dpa, .sems, .ue, .eths, .inbox, .commits, .owed, .poolUsed, .dsp] s a33 := by
          unfold a33
          refine Changes.foldl ?_ (fun u36 x37 => ?_)
          · assumption
          · refine Changes.step ?_ (State.completeEntry_changes ..) (by decide)
            exact Changes.refl _ _
        clear_value a33
        have h40 : Changes [.regs, .dpa, .sems, .ue, .eths, .inbox, .commits, .owed, .poolUsed, .dsp] s a34 := by
          unfold a34
          refine Changes.ite ?_ ?_
          · refine Changes.step ?_ (State.exitGroup_changes ..) (by decide)
            assumption
          · assumption
        clear_value a34
        refine Changes.step ?_ (State.refreshReady_changes ..) (by decide)
        assumption

theorem State.groupOff_changes (s : State) (g : Nat) :
    Changes [.regs, .poolUsed, .dsp] s (State.groupOff s g) := by
  unfold State.groupOff
  extract_lets a0 a1
  clear_value a0
  have h2 : Changes [.regs, .poolUsed, .dsp] s a1 := by
    unfold a1
    refine Changes.foldl ?_ (fun u3 x4 => ?_)
    · exact Changes.refl _ _
    · refine Changes.step ?_ (State.dropBuffer_changes ..) (by decide)
      exact Changes.refl _ _
  clear_value a1
  refine Changes.step ?_ (State.setGroup_changes ..) (by decide)
  assumption

/-! ### Canonical form -/

theorem State.sendDescriptor_wf (s : State) (g : Nat) (op : Nat) (model : Nat) (n : Nat) (params : Nat)
    (entries : List BatchEntry) :
    KeepsWf s (State.sendDescriptor s g op model n params entries) := by
  unfold State.sendDescriptor
  extract_lets a0 a1 a2 a3 a4 a5
  clear_value a0
  clear_value a1
  clear_value a3
  have h6 : KeepsWf s a4 := by
    unfold a4
    refine KeepsWf.trans ?_ (KeepsWf.of_changes (State.setGroup_changes ..) (by decide))
    exact KeepsWf.refl _
  clear_value a4
  have h0 : KeepsWf s a5 := by
    unfold a5
    refine KeepsWf.trans ?_ (State.writeDpa_wf ..)
    assumption
  clear_value a5
  refine KeepsWf.ite ?_ ?_
  · refine KeepsWf.trans ?_ (KeepsWf.of_changes (State.descriptorDenied_changes ..) (by decide))
    assumption
  · split
    · refine KeepsWf.trans ?_ (State.semUpdate_wf ..)
      assumption
    · assumption

theorem State.sendBatch_wf (s : State) (g : Nat) (m : Nat) (es : List BatchEntry) :
    KeepsWf s (State.sendBatch s g m es) := by
  unfold State.sendBatch
  extract_lets a0 a1 a2
  clear_value a0
  have h3 : KeepsWf s a1 := by
    unfold a1
    refine KeepsWf.trans ?_ (State.sendDescriptor_wf ..)
    exact KeepsWf.refl _
  clear_value a1
  clear_value a2
  refine KeepsWf.trans ?_ (KeepsWf.of_changes (State.setGroup_changes ..) (by decide))
  assumption

theorem State.sendExit_wf (s : State) (g : Nat) :
    KeepsWf s (State.sendExit s g) := by
  unfold State.sendExit
  extract_lets a1
  clear_value a1
  refine KeepsWf.trans ?_ (State.sendDescriptor_wf ..)
  exact KeepsWf.refl _

theorem State.assign_wf (s : State) (g : Nat) (m : Nat) (b : Nat) :
    KeepsWf s (State.assign s g m b) := by
  unfold State.assign
  split
  · rename_i y0 y1 y2 y3
    have h4 : KeepsWf s y1 := by
      refine KeepsWf.of_fst ?_ y3
      refine KeepsWf.trans ?_ (KeepsWf.of_changes (State.takeEntries_changes ..) (by decide))
      exact KeepsWf.refl _
    extract_lets a5 a6 a7
    have h8 : KeepsWf s a5 := by
      unfold a5
      refine KeepsWf.trans ?_ (State.incCtr_wf ..)
      assumption
    clear_value a5
    have h16 : KeepsWf s a6 := by
      unfold a6
      refine KeepsWf.trans ?_ (State.sendExit_wf ..)
      assumption
    clear_value a6
    clear_value a7
    refine KeepsWf.ite ?_ ?_
    · refine KeepsWf.trans ?_ (State.sendBatch_wf ..)
      assumption
    · refine KeepsWf.trans ?_ (KeepsWf.of_changes (State.setGroup_changes ..) (by decide))
      assumption

theorem State.dispatchLoop_wf (f passes : Nat) (s : State) :
    KeepsWf s (State.dispatchLoop f passes s) := by
  induction f generalizing passes s with
  | zero => exact KeepsWf.refl _
  | succ f ih =>
    unfold State.dispatchLoop
    refine KeepsWf.ite ?_ ?_
    · exact KeepsWf.refl _
    · split
      · exact KeepsWf.refl _
      · extract_lets a11 a12 a13 a14 a15
        clear_value a11
        clear_value a12
        clear_value a13
        have h17 : KeepsWf s a14 := by
          unfold a14
          refine KeepsWf.trans ?_ (KeepsWf.of_changes (State.setDsp_changes ..) (by decide))
          exact KeepsWf.refl _
        clear_value a14
        clear_value a15
        split
        · refine KeepsWf.trans ?_ (ih ..)
          refine KeepsWf.trans ?_ (KeepsWf.of_changes (State.setDsp_changes ..) (by decide))
          assumption
        · extract_lets a20 a21 a22 a23 a24 a25 a26
          clear_value a20
          clear_value a21
          have h33 : KeepsWf s a22 := by
            unfold a22
            refine KeepsWf.trans ?_ (State.assign_wf ..)
            assumption
          clear_value a22
          have h34 : KeepsWf s a23 := by
            unfold a23
            refine KeepsWf.trans ?_ (KeepsWf.of_changes (State.setDsp_changes ..) (by decide))
            assumption
          clear_value a23
          clear_value a24
          clear_value a25
          have h36 : KeepsWf s a26 := by
            unfold a26
            refine KeepsWf.ite ?_ ?_
            · refine KeepsWf.trans ?_ (KeepsWf.of_changes (State.setDsp_changes ..) (by decide))
              assumption
            · refine KeepsWf.ite ?_ ?_
              · refine KeepsWf.trans ?_ (KeepsWf.of_changes (State.setDsp_changes ..) (by decide))
                assumption
              · assumption
          clear_value a26
          refine KeepsWf.ite ?_ ?_
          · refine KeepsWf.trans ?_ (ih ..)
            refine KeepsWf.trans ?_ (KeepsWf.of_changes (State.setDsp_changes ..) (by decide))
            assumption
          · refine KeepsWf.trans ?_ (ih ..)
            assumption

theorem State.dispatchAll_wf (s : State) :
    KeepsWf s (State.dispatchAll s) := by
  unfold State.dispatchAll
  refine KeepsWf.ite ?_ ?_
  · exact KeepsWf.refl _
  · extract_lets a15 a16
    have h17 : KeepsWf s a15 := by
      unfold a15
      refine KeepsWf.trans ?_ (KeepsWf.of_changes (State.refreshReady_changes ..) (by decide))
      refine KeepsWf.trans ?_ (KeepsWf.of_changes (State.dropAllAged_changes ..) (by decide))
      exact KeepsWf.refl _
    clear_value a15
    clear_value a16
    refine KeepsWf.trans ?_ (State.dispatchLoop_wf ..)
    assumption

theorem State.startGroupCores_wf (s : State) (g : Nat) (m : Nat) :
    KeepsWf s (State.startGroupCores s g m) := by
  unfold State.startGroupCores
  refine KeepsWf.foldl ?_ (fun u0 x1 => ?_)
  · exact KeepsWf.refl _
  · refine KeepsWf.trans ?_ (State.startCore_wf ..)
    exact KeepsWf.refl _

theorem State.switchHalted_wf (s : State) (g : Nat) :
    KeepsWf s (State.switchHalted s g) := by
  unfold State.switchHalted
  extract_lets a0 a1
  clear_value a0
  have h0 : KeepsWf s a1 := by
    unfold a1
    refine KeepsWf.trans ?_ (KeepsWf.of_changes (State.setGroup_changes ..) (by decide))
    exact KeepsWf.refl _
  clear_value a1
  split
  · exact KeepsWf.refl _
  · refine KeepsWf.ite ?_ ?_
    · exact KeepsWf.refl _
    · extract_lets a15
      have h16 : KeepsWf s a15 := by
        unfold a15
        refine KeepsWf.trans ?_ (State.startGroupCores_wf ..)
        assumption
      clear_value a15
      refine KeepsWf.ite ?_ ?_
      · assumption
      · refine KeepsWf.trans ?_ (State.incCtr_wf ..)
        refine KeepsWf.trans ?_ (State.sendBatch_wf ..)
        assumption

theorem State.exitGroup_wf (s : State) (g : Nat) :
    KeepsWf s (State.exitGroup s g) := by
  unfold State.exitGroup
  extract_lets a1 a2 a3
  clear_value a1
  have h4 : KeepsWf s a2 := by
    unfold a2
    refine KeepsWf.trans ?_ (State.sendExit_wf ..)
    exact KeepsWf.refl _
  clear_value a2
  clear_value a3
  refine KeepsWf.ite ?_ ?_
  · refine KeepsWf.trans ?_ (KeepsWf.of_changes (State.setGroup_changes ..) (by decide))
    assumption
  · exact KeepsWf.refl _

theorem State.batchCompletion_wf (s : State) :
    KeepsWf s (State.batchCompletion s) := by
  unfold State.batchCompletion
  split
  · exact KeepsWf.refl _
  · rename_i y4 y5 y6 y7
    have h8 : KeepsWf s y6 := by
      refine KeepsWf.trans ?_ (KeepsWf.of_changes (State.takeArrival_changes y7) (by decide))
      exact KeepsWf.refl _
    extract_lets a27 a28 a29 a30 a31
    have h32 : KeepsWf s a27 := by
      unfold a27
      refine KeepsWf.trans ?_ (KeepsWf.of_changes (State.commitArrival_changes ..) (by decide))
      assumption
    clear_value a27
    clear_value a28
    clear_value a29
    clear_value a30
    have h35 : KeepsWf s a31 := by
      unfold a31
      refine KeepsWf.trans ?_ (KeepsWf.of_changes (State.setGroup_changes ..) (by decide))
      assumption
    clear_value a31
    split
    · refine KeepsWf.trans ?_ (KeepsWf.of_changes (State.refuseCompletion_changes ..) (by decide))
      assumption
    · refine KeepsWf.ite ?_ ?_
      · refine KeepsWf.trans ?_ (KeepsWf.of_changes (State.refuseCompletion_changes ..) (by decide))
        assumption
      · extract_lets a44 a45
        have h46 : KeepsWf s a44 := by
          unfold a44
          refine KeepsWf.foldl ?_ (fun u47 x48 => ?_)
          · assumption
          · refine KeepsWf.trans ?_ (KeepsWf.of_changes (State.completeEntry_changes ..) (by decide))
            exact KeepsWf.refl _
        clear_value a44
        have h49 : KeepsWf s a45 := by
          unfold a45
          refine KeepsWf.ite ?_ ?_
          · refine KeepsWf.trans ?_ (State.exitGroup_wf ..)
            assumption
          · assumption
        clear_value a45
        refine KeepsWf.trans ?_ (KeepsWf.of_changes (State.refreshReady_changes ..) (by decide))
        assumption

end Sys2Proof.Machine
end

