-- ==== Sys2Proof/Laws/Ethernet.lean ====
section
/-!
SUPPORT. What each operation of Machine/Ethernet.lean may change (`_changes`), and that those which write a memory keep its
canonical form (`_wf`).
-/

namespace Sys2Proof.Machine

theorem State.ethLeaveUp_changes (s : State) (n : Nat) (l : Nat) (j : Nat) (sub : Nat) (st : EthState) :
    Changes [.regs, .xbar, .links, .egress, .eths, .poolUsed, .dsp, .freeCtr] s (State.ethLeaveUp s n l j sub st) := by
  unfold State.ethLeaveUp
  extract_lets a0 a1 a2
  clear_value a0
  have h5 : Changes [.regs, .xbar, .links, .egress, .eths, .poolUsed, .dsp, .freeCtr] s a1 := by
    unfold a1
    refine Changes.step ?_ (State.outputDown_changes ..) (by decide)
    exact Changes.refl _ _
  clear_value a1
  have h1 : Changes [.regs, .xbar, .links, .egress, .eths, .poolUsed, .dsp, .freeCtr] s a2 := by
    unfold a2
    refine Changes.foldl ?_ (fun u0 x1 => ?_)
    · assumption
    · refine Changes.step ?_ (State.dropBuffer_changes ..) (by decide)
      exact Changes.refl _ _
  clear_value a2
  refine Changes.step ?_ (State.raise_changes ..) (by decide)
  refine Changes.step ?_ (State.setEth_changes ..) (by decide)
  assumption

theorem State.writeEthCtl_changes (s : State) (n : Nat) (l : Nat) (w : Word) :
    Changes [.regs, .xbar, .links, .egress, .eths, .poolUsed, .dsp, .freeCtr] s (State.writeEthCtl s n l w) := by
  unfold State.writeEthCtl
  extract_lets a3 a4
  clear_value a3
  have h6 : Changes [.regs, .xbar, .links, .egress, .eths, .poolUsed, .dsp, .freeCtr] s a4 := by
    unfold a4
    refine Changes.step ?_ (State.writeReg_changes ..) (by decide)
    exact Changes.refl _ _
  clear_value a4
  refine Changes.ite ?_ ?_
  · split
    · refine Changes.step ?_ (State.raise_changes ..) (by decide)
      exact Changes.refl _ _
    · refine Changes.ite ?_ ?_
      · refine Changes.step ?_ (State.raise_changes ..) (by decide)
        exact Changes.refl _ _
      · refine Changes.ite ?_ ?_
        · refine Changes.step ?_ (State.setEth_changes ..) (by decide)
          assumption
        · assumption
  · split
    · assumption
    · refine Changes.ite ?_ ?_
      · refine Changes.step ?_ (State.ethLeaveUp_changes ..) (by decide)
        assumption
      · refine Changes.step ?_ (State.setEth_changes ..) (by decide)
        assumption

theorem State.ethTrained_changes (s : State) (n : Nat) (l : Nat) :
    Changes [.eths] s (State.ethTrained s n l) := by
  unfold State.ethTrained
  extract_lets a0
  clear_value a0
  refine Changes.ite ?_ ?_
  · refine Changes.step ?_ (State.setEth_changes ..) (by decide)
    exact Changes.refl _ _
  · exact Changes.refl _ _

theorem State.ethLost_changes (s : State) (n : Nat) (l : Nat) :
    Changes [.regs, .xbar, .links, .egress, .eths, .poolUsed, .dsp, .freeCtr] s (State.ethLost s n l) := by
  unfold State.ethLost
  split
  · refine Changes.ite ?_ ?_
    · refine Changes.step ?_ (State.ethLeaveUp_changes ..) (by decide)
      exact Changes.refl _ _
    · exact Changes.refl _ _
  · exact Changes.refl _ _

theorem State.ethSend_changes (s : State) (n : Nat) (l : Nat) (f : List Byte) :
    Changes [.eths] s (State.ethSend s n l f) := by
  unfold State.ethSend
  refine Changes.step ?_ (State.setEth_changes ..) (by decide)
  exact Changes.refl _ _

theorem State.ethDiscard_changes (s : State) (n : Nat) (l : Nat) (reason : Nat) :
    Changes [.ethDrop] s (State.ethDiscard s n l reason) := by
  unfold State.ethDiscard
  extract_lets a0
  clear_value a0
  refine Changes.step ?_ Changes.ethDrop (by decide)
  exact Changes.refl _ _

theorem State.acceptDatagram_changes (s : State) (n : Nat) (l : Nat) (r : Rx) :
    Changes [.regs, .cnt, .dpa, .ue, .ethDrop, .poolUsed, .dsp] s (State.acceptDatagram s n l r) := by
  unfold State.acceptDatagram
  extract_lets a0 a1 a2
  clear_value a0
  clear_value a1
  clear_value a2
  split
  · rename_i y3 y4 y5 y6
    have h7 : Changes [.regs, .cnt, .dpa, .ue, .ethDrop, .poolUsed, .dsp] s y4 := by
      refine Changes.of_fst ?_ y6
      refine Changes.iteFst ?_ ?_
      · refine Changes.step ?_ (State.allocate_changes ..) (by decide)
        exact Changes.refl _ _
      · refine Changes.mkFst ?_
        exact Changes.refl _ _
    extract_lets a8 a9 a10 a11 a12
    clear_value a8
    clear_value a9
    have h13 : Changes [.regs, .cnt, .dpa, .ue, .ethDrop, .poolUsed, .dsp] s a10 := by
      unfold a10
      split
      · rename_i y14 y15 y16
        have h17 : Changes [.regs, .cnt, .dpa, .ue, .ethDrop, .poolUsed, .dsp] s y15 := by
          refine Changes.step ?_ (State.writePieces_changes y16) (by decide)
          assumption
        assumption
      · refine Changes.step ?_ (State.dpaFound_changes ..) (by decide)
        assumption
    clear_value a10
    clear_value a11
    clear_value a12
    refine Changes.step ?_ (State.incCtr_changes ..) (by decide)
    refine Changes.step ?_ Changes.dsp (by decide)
    assumption
  · rename_i y21 y22 y23 y24 y25
    have h26 : Changes [.regs, .cnt, .dpa, .ue, .ethDrop, .poolUsed, .dsp] s y22 := by
      refine Changes.of_fst ?_ y25
      refine Changes.iteFst ?_ ?_
      · refine Changes.step ?_ (State.allocate_changes ..) (by decide)
        exact Changes.refl _ _
      · refine Changes.mkFst ?_
        exact Changes.refl _ _
    refine Changes.step ?_ (State.ethDiscard_changes ..) (by decide)
    assumption

theorem State.receiveFrame_changes (s : State) (n : Nat) (l : Nat) (f : List Byte) :
    Changes [.regs, .cnt, .dpa, .ue, .eths, .ethDrop, .poolUsed, .dsp] s (State.receiveFrame s n l f) := by
  unfold State.receiveFrame
  split
  · exact Changes.refl _ _
  · refine Changes.ite ?_ ?_
    · exact Changes.refl _ _
    · extract_lets a7
      clear_value a7
      split
      · refine Changes.step ?_ (State.ethDiscard_changes ..) (by decide)
        exact Changes.refl _ _
      · refine Changes.ite ?_ ?_
        · split
          · refine Changes.step ?_ (State.ethSend_changes ..) (by decide)
            exact Changes.refl _ _
          · refine Changes.step ?_ (State.ethDiscard_changes ..) (by decide)
            exact Changes.refl _ _
        · split
          · refine Changes.step ?_ (State.ethSend_changes ..) (by decide)
            exact Changes.refl _ _
          · split
            · refine Changes.step ?_ (State.ethDiscard_changes ..) (by decide)
              exact Changes.refl _ _
            · refine Changes.step ?_ (State.acceptDatagram_changes ..) (by decide)
              exact Changes.refl _ _

theorem State.buildResponse_changes {s t : State} {n l : Nat} {hd : Word} (h : State.buildResponse s n l hd = .error t) :
    Changes [.regs, .eths, .ethDrop, .poolUsed] s t := by
  unfold State.buildResponse at h
  extract_lets a at h
  split at h
  · cases h
    exact ((Changes.refl _ s).step (State.dpaFound_changes ..) (by decide)).step (State.freeBuffer_changes ..) (by decide)
  · extract_lets k ipLen at h
    split at h
    · cases h
      exact ((Changes.refl _ s).step (State.ethDiscard_changes ..) (by decide)).step (State.freeBuffer_changes ..)
          (by decide)
    · split at h
      · cases h
        exact ((Changes.refl _ s).step (State.dpaFound_changes ..) (by decide)).step (State.freeBuffer_changes ..)
            (by decide)
      · cases h

theorem State.takeResponse_changes (s : State) (n : Nat) (l : Nat) (r : RespWait) (rest : List RespWait) :
    Changes [.regs, .eths, .ethDrop, .poolUsed] s (State.takeResponse s n l r rest) := by
  unfold State.takeResponse
  extract_lets x0 s1
  have h1 : Changes [.regs, .eths, .ethDrop, .poolUsed] s s1 := (Changes.refl _ s).step (State.setEth_changes ..) (by decide)
  clear_value s1
  split
  · next e => exact h1.step (State.buildResponse_changes e) (by decide)
  · exact h1.step (State.setEth_changes ..) (by decide)

theorem State.transmitResponse_changes (s : State) (n : Nat) (l : Nat) :
    Changes [.regs, .eths, .poolUsed] s (State.transmitResponse s n l) := by
  unfold State.transmitResponse
  extract_lets a0
  clear_value a0
  split
  · exact Changes.refl _ _
  · refine Changes.ite ?_ ?_
    · exact Changes.refl _ _
    · refine Changes.step ?_ (State.freeBuffer_changes ..) (by decide)
      refine Changes.step ?_ (State.ethSend_changes ..) (by decide)
      refine Changes.step ?_ (State.setEth_changes ..) (by decide)
      exact Changes.refl _ _

theorem State.updateThrottle_changes (s : State) (n : Nat) (l : Nat) (tc : Nat) :
    Changes [.regs] s (State.updateThrottle s n l tc) := by
  unfold State.updateThrottle
  split
  · exact Changes.refl _ _
  · refine Changes.ite ?_ ?_
    · exact Changes.refl _ _
    · extract_lets a8 a9 a10 a11 a12 a13
      clear_value a8
      clear_value a9
      clear_value a11
      clear_value a12
      clear_value a13
      refine Changes.step ?_ (State.setField_changes ..) (by decide)
      exact Changes.refl _ _

/-! ### Canonical form -/

theorem State.acceptDatagram_wf (s : State) (n : Nat) (l : Nat) (r : Rx) :
    KeepsWf s (State.acceptDatagram s n l r) := by
  unfold State.acceptDatagram
  extract_lets a0 a1 a2
  clear_value a0
  clear_value a1
  clear_value a2
  split
  · rename_i y3 y4 y5 y6
    have h7 : KeepsWf s y4 := by
      refine KeepsWf.of_fst ?_ y6
      refine KeepsWf.iteFst ?_ ?_
      · refine KeepsWf.trans ?_ (KeepsWf.of_changes (State.allocate_changes ..) (by decide))
        exact KeepsWf.refl _
      · refine KeepsWf.mkFst ?_
        exact KeepsWf.refl _
    extract_lets a8 a9 a10 a11 a12
    clear_value a8
    clear_value a9
    have h13 : KeepsWf s a10 := by
      unfold a10
      split
      · rename_i y14 y15 y16
        have h17 : KeepsWf s y15 := by
          refine KeepsWf.trans ?_ (State.writePieces_wf y16)
          assumption
        assumption
      · refine KeepsWf.trans ?_ (KeepsWf.of_changes (State.dpaFound_changes ..) (by decide))
        assumption
    clear_value a10
    clear_value a11
    clear_value a12
    refine KeepsWf.trans ?_ (State.incCtr_wf ..)
    refine KeepsWf.trans ?_ (KeepsWf.of_changes Changes.dsp (by decide))
    assumption
  · rename_i y21 y22 y23 y24 y25
    have h26 : KeepsWf s y22 := by
      refine KeepsWf.of_fst ?_ y25
      refine KeepsWf.iteFst ?_ ?_
      · refine KeepsWf.trans ?_ (KeepsWf.of_changes (State.allocate_changes ..) (by decide))
        exact KeepsWf.refl _
      · refine KeepsWf.mkFst ?_
        exact KeepsWf.refl _
    refine KeepsWf.trans ?_ (KeepsWf.of_changes (State.ethDiscard_changes ..) (by decide))
    assumption

theorem State.receiveFrame_wf (s : State) (n : Nat) (l : Nat) (f : List Byte) :
    KeepsWf s (State.receiveFrame s n l f) := by
  unfold State.receiveFrame
  split
  · exact KeepsWf.refl _
  · refine KeepsWf.ite ?_ ?_
    · exact KeepsWf.refl _
    · extract_lets a9
      clear_value a9
      split
      · refine KeepsWf.trans ?_ (KeepsWf.of_changes (State.ethDiscard_changes ..) (by decide))
        exact KeepsWf.refl _
      · refine KeepsWf.ite ?_ ?_
        · split
          · refine KeepsWf.trans ?_ (KeepsWf.of_changes (State.ethSend_changes ..) (by decide))
            exact KeepsWf.refl _
          · refine KeepsWf.trans ?_ (KeepsWf.of_changes (State.ethDiscard_changes ..) (by decide))
            exact KeepsWf.refl _
        · split
          · refine KeepsWf.trans ?_ (KeepsWf.of_changes (State.ethSend_changes ..) (by decide))
            exact KeepsWf.refl _
          · split
            · refine KeepsWf.trans ?_ (KeepsWf.of_changes (State.ethDiscard_changes ..) (by decide))
              exact KeepsWf.refl _
            · refine KeepsWf.trans ?_ (State.acceptDatagram_wf ..)
              exact KeepsWf.refl _

end Sys2Proof.Machine
end

