-- ==== Sys2Proof/Laws/Sched.lean ====
section
/-!
SUPPORT. What each operation of Machine/Sched.lean may change (`_changes`), and that those which write a memory keep its
canonical form (`_wf`).
-/

namespace Sys2Proof.Machine

theorem State.took_changes (s : State) (n : Nat) (l : Nat) (j : Nat) (sub : Nat) (g : Egress) (h : HeadPkt) :
    Changes [.regs, .egress, .eths, .ethDrop, .poolUsed] s (State.took s n l j sub g h) := by
  unfold State.took
  refine Changes.ite ?_ ?_
  · split
    · refine Changes.step ?_ (State.takeResponse_changes ..) (by decide)
      refine Changes.step ?_ (State.setEgr_changes ..) (by decide)
      exact Changes.refl _ _
    · exact Changes.refl _ _
  · refine Changes.step ?_ (State.setEgr_changes ..) (by decide)
    exact Changes.refl _ _

theorem State.egressSelect_changes (s : State) (n : Nat) (l : Nat) :
    Changes [.regs, .egress, .eths, .shpT, .circT, .ethDrop, .poolUsed] s (State.egressSelect s n l) := by
  unfold State.egressSelect
  split
  · exact Changes.refl _ _
  · refine Changes.ite ?_ ?_
    · exact Changes.refl _ _
    · extract_lets a6 a7 a8
      clear_value a7
      clear_value a8
      split
      · unfold a6
        refine Changes.step ?_ (State.queueEmptied_changes ..) (by decide)
        refine Changes.step ?_ (State.took_changes ..) (by decide)
        exact Changes.refl _ _
      · split
        · extract_lets a18
          have h19 : Changes [.regs, .egress, .eths, .shpT, .circT, .ethDrop, .poolUsed] s a18 := by
            unfold a18
            refine Changes.step ?_ Changes.circT (by decide)
            exact Changes.refl _ _
          clear_value a18
          unfold a6
          refine Changes.step ?_ (State.queueEmptied_changes ..) (by decide)
          refine Changes.step ?_ (State.took_changes ..) (by decide)
          assumption
        · split
          · refine Changes.step ?_ (State.setEgr_changes ..) (by decide)
            exact Changes.refl _ _
          · split
            · refine Changes.step ?_ (State.setEgr_changes ..) (by decide)
              exact Changes.refl _ _
            · extract_lets a33 a34 a35 a36
              clear_value a33
              have h37 : Changes [.regs, .egress, .eths, .shpT, .circT, .ethDrop, .poolUsed] s a34 := by
                unfold a34
                refine Changes.ite ?_ ?_
                · refine Changes.step ?_ Changes.shpT (by decide)
                  exact Changes.refl _ _
                · exact Changes.refl _ _
              clear_value a34
              have h38 : Changes [.regs, .egress, .eths, .shpT, .circT, .ethDrop, .poolUsed] s a35 := by
                unfold a35
                refine Changes.step ?_ (State.took_changes ..) (by decide)
                assumption
              clear_value a35
              clear_value a36
              refine Changes.ite ?_ ?_
              · refine Changes.step ?_ (State.setEgr_changes ..) (by decide)
                assumption
              · refine Changes.step ?_ (State.setEgr_changes ..) (by decide)
                assumption

theorem State.refreshBuckets_changes (s : State) (n : Nat) :
    Changes [.shpT, .circT, .polT] s (State.refreshBuckets s n) := by
  unfold State.refreshBuckets
  refine Changes.ite ?_ ?_
  · exact Changes.refl _ _
  · extract_lets a12 a13 a14 a15
    clear_value a12
    clear_value a13
    clear_value a14
    clear_value a15
    refine Changes.step ?_ Changes.shpT_circT_polT (by decide)
    exact Changes.refl _ _

theorem State.skipRecords_changes (s : State) (n : Nat) :
    Changes [.regs, .ring] s (State.skipRecords s n) := by
  unfold State.skipRecords
  extract_lets a0 a1 a2
  clear_value a0
  clear_value a1
  clear_value a2
  refine Changes.ite ?_ ?_
  · exact Changes.refl _ _
  · refine Changes.step ?_ (State.raise_changes ..) (by decide)
    refine Changes.step ?_ (State.setReg_changes ..) (by decide)
    refine Changes.step ?_ Changes.ring (by decide)
    exact Changes.refl _ _

theorem State.sample_changes (s : State) (n : Nat) :
    Changes [.regs, .hist, .sampleN, .ring] s (State.sample s n) := by
  unfold State.sample
  refine Changes.ite ?_ ?_
  · exact Changes.refl _ _
  · extract_lets a3 a4 a5 a6 a7 a8 a9
    have h10 : Changes [.regs, .hist, .sampleN, .ring] s a3 := by
      unfold a3
      refine Changes.step ?_ (State.skipRecords_changes ..) (by decide)
      exact Changes.refl _ _
    clear_value a3
    clear_value a4
    clear_value a6
    clear_value a7
    clear_value a8
    have h0 : Changes [.regs, .hist, .sampleN, .ring] s a9 := by
      unfold a9
      refine Changes.step ?_ Changes.hist_sampleN (by decide)
      assumption
    clear_value a9
    refine Changes.ite ?_ ?_
    · refine Changes.foldl ?_ (fun u6 x8 => ?_)
      · assumption
      · extract_lets a11
        clear_value a11
        refine Changes.step ?_ (State.count_changes ..) (by decide)
        refine Changes.step ?_ Changes.ring (by decide)
        exact Changes.refl _ _
    · assumption

theorem State.writeRecord_changes (s : State) (n : Nat) :
    Changes [.regs, .dpa, .ue, .ring] s (State.writeRecord s n) := by
  unfold State.writeRecord
  split
  · exact Changes.refl _ _
  · extract_lets a6
    clear_value a6
    refine Changes.ite ?_ ?_
    · exact Changes.refl _ _
    · refine Changes.ite ?_ ?_
      · refine Changes.step ?_ (State.memRecord_changes ..) (by decide)
        refine Changes.step ?_ Changes.ring (by decide)
        exact Changes.refl _ _
      · refine Changes.ite ?_ ?_
        · exact Changes.refl _ _
        · split
          · rename_i y7 y8 y9
            have h10 : Changes [.regs, .dpa, .ue, .ring] s y8 := by
              refine Changes.step ?_ (State.writePieces_changes y9) (by decide)
              refine Changes.step ?_ Changes.ring (by decide)
              exact Changes.refl _ _
            assumption
          · refine Changes.step ?_ (State.dpaFound_changes ..) (by decide)
            refine Changes.step ?_ Changes.ring (by decide)
            exact Changes.refl _ _

theorem State.writeHistsel_changes (s : State) (n : Nat) (w : Word) :
    Changes [.regs] s (State.writeHistsel s n w) := by
  unfold State.writeHistsel
  extract_lets a0 a1
  have h2 : Changes [.regs] s a0 := by
    unfold a0
    refine Changes.step ?_ (State.writeReg_changes ..) (by decide)
    exact Changes.refl _ _
  clear_value a0
  clear_value a1
  refine Changes.foldl ?_ (fun u22 x23 => ?_)
  · assumption
  · extract_lets a24
    clear_value a24
    refine Changes.step ?_ (State.setReg_changes ..) (by decide)
    refine Changes.step ?_ (State.setReg_changes ..) (by decide)
    exact Changes.refl _ _

theorem State.writeHistclr_changes (s : State) (n : Nat) (w : Word) :
    Changes [.hist] s (State.writeHistclr s n w) := by
  unfold State.writeHistclr
  refine Changes.ite ?_ ?_
  · refine Changes.step ?_ Changes.hist (by decide)
    exact Changes.refl _ _
  · exact Changes.refl _ _

/-! ### Canonical form -/

theorem State.writeRecord_wf (s : State) (n : Nat) :
    KeepsWf s (State.writeRecord s n) := by
  unfold State.writeRecord
  split
  · exact KeepsWf.refl _
  · extract_lets a6
    clear_value a6
    refine KeepsWf.ite ?_ ?_
    · exact KeepsWf.refl _
    · refine KeepsWf.ite ?_ ?_
      · refine KeepsWf.trans ?_ (KeepsWf.of_changes (State.memRecord_changes ..) (by decide))
        refine KeepsWf.trans ?_ (KeepsWf.of_changes Changes.ring (by decide))
        exact KeepsWf.refl _
      · refine KeepsWf.ite ?_ ?_
        · exact KeepsWf.refl _
        · split
          · rename_i y7 y8 y9
            have h10 : KeepsWf s y8 := by
              refine KeepsWf.trans ?_ (State.writePieces_wf y9)
              refine KeepsWf.trans ?_ (KeepsWf.of_changes Changes.ring (by decide))
              exact KeepsWf.refl _
            assumption
          · refine KeepsWf.trans ?_ (KeepsWf.of_changes (State.dpaFound_changes ..) (by decide))
            refine KeepsWf.trans ?_ (KeepsWf.of_changes Changes.ring (by decide))
            exact KeepsWf.refl _

end Sys2Proof.Machine
end

