-- ==== Sys2Proof/Laws/Stream.lean ====
section
/-!
SUPPORT. What each operation of Machine/Stream.lean may change (`_changes`), and that those which write a memory keep its
canonical form (`_wf`).
-/

namespace Sys2Proof.Machine

theorem State.sdFault_changes (s : State) (n : Nat) (code : Nat) (job : Nat) (c : Nat) :
    Changes [.regs] s (State.sdFault s n code job c) := by
  unfold State.sdFault
  extract_lets a0
  have h1 : Changes [.regs] s a0 := by
    unfold a0
    refine Changes.ite ?_ ?_
    · refine Changes.step ?_ (State.setReg_changes ..) (by decide)
      exact Changes.refl _ _
    · exact Changes.refl _ _
  clear_value a0
  refine Changes.step ?_ (State.raise_changes ..) (by decide)
  refine Changes.step ?_ (State.markJob_changes ..) (by decide)
  assumption

theorem State.sdStray_changes (s : State) (e : Nat) (a : Arrival) :
    Changes [.regs, .cnt, .commits] s (State.sdStray s e a) := by
  unfold State.sdStray
  refine Changes.step ?_ (State.commitArrival_changes ..) (by decide)
  refine Changes.step ?_ (State.raise_changes ..) (by decide)
  refine Changes.step ?_ (State.incCtr_changes ..) (by decide)
  exact Changes.refl _ _

theorem State.sdDisc_changes (s : State) (e : Nat) (a : Arrival) :
    Changes [.cnt, .commits] s (State.sdDisc s e a) := by
  unfold State.sdDisc
  refine Changes.step ?_ (State.commitArrival_changes ..) (by decide)
  refine Changes.step ?_ (State.incCtr_changes ..) (by decide)
  exact Changes.refl _ _

theorem State.dropChunks_changes (s : State) (c : Nat) :
    Changes [.commits, .accepted] s (State.dropChunks s c) := by
  unfold State.dropChunks
  extract_lets a0
  have h1 : Changes [.commits, .accepted] s a0 := by
    unfold a0
    refine Changes.foldl ?_ (fun u2 x3 => ?_)
    · exact Changes.refl _ _
    · refine Changes.step ?_ (State.commitArrival_changes ..) (by decide)
      exact Changes.refl _ _
  clear_value a0
  refine Changes.step ?_ Changes.accepted (by decide)
  assumption

theorem State.failCtx_changes (s : State) (c : Nat) (code : Nat) :
    Changes [.regs, .commits, .ctxs, .accepted] s (State.failCtx s c code) := by
  unfold State.failCtx
  extract_lets a0 a1
  clear_value a0
  have h0 : Changes [.regs, .commits, .ctxs, .accepted] s a1 := by
    unfold a1
    refine Changes.step ?_ (State.dropChunks_changes ..) (by decide)
    exact Changes.refl _ _
  clear_value a1
  refine Changes.ite ?_ ?_
  · exact Changes.refl _ _
  · refine Changes.step ?_ (State.sdFault_changes ..) (by decide)
    refine Changes.step ?_ (State.setCtx_changes ..) (by decide)
    assumption

theorem State.checkControl_changes (s : State) (e : Nat) :
    Changes [.regs, .ue, .commits, .ctxs, .accepted] s (State.checkControl s e) := by
  unfold State.checkControl
  refine Changes.ite ?_ ?_
  · extract_lets a1
    have h2 : Changes [.regs, .ue, .commits, .ctxs, .accepted] s a1 := by
      unfold a1
      refine Changes.foldl ?_ (fun u0 x1 => ?_)
      · exact Changes.refl _ _
      · refine Changes.step ?_ (State.failCtx_changes ..) (by decide)
        exact Changes.refl _ _
    clear_value a1
    refine Changes.step ?_ Changes.ue (by decide)
    assumption
  · exact Changes.refl _ _

theorem State.ctxUe_changes (s : State) (e : Nat) (w : Nat) :
    Changes [.regs, .commits, .ctxs, .accepted] s (State.ctxUe s e w) := by
  unfold State.ctxUe
  refine Changes.step ?_ (State.failCtx_changes ..) (by decide)
  exact Changes.refl _ _

theorem State.takeEngine_changes {s t : State} {e : Nat} {p : Arrival → Bool} {a : Arrival}
    (h : State.takeEngine s e p = some (a, t)) : Changes [.inbox] s t := by
  unfold State.takeEngine at h
  split at h
  · split at h
    · cases h
      exact Changes.inbox
    · cases h
  · cases h

theorem State.ctxLater_changes (s : State) (c : Nat) (seq : Nat) (p : Packet) :
    Changes [.regs, .commits, .ctxs, .accepted] s (State.ctxLater s c seq p) := by
  unfold State.ctxLater
  extract_lets a0
  clear_value a0
  refine Changes.ite ?_ ?_
  · split
    · refine Changes.step ?_ (State.setCtx_changes ..) (by decide)
      exact Changes.refl _ _
    · refine Changes.ite ?_ ?_
      · refine Changes.step ?_ (State.setCtx_changes ..) (by decide)
        exact Changes.refl _ _
      · refine Changes.step ?_ (State.failCtx_changes ..) (by decide)
        exact Changes.refl _ _
  · refine Changes.step ?_ (State.failCtx_changes ..) (by decide)
    exact Changes.refl _ _

theorem State.sendCombined_changes (s : State) (c : Nat) (mm : Bool) :
    Changes [.attach, .msgs, .nextId, .freeCtr] s (State.sendCombined s c mm) := by
  unfold State.sendCombined
  extract_lets a0 a1 a2 a3
  clear_value a0
  clear_value a1
  clear_value a2
  clear_value a3
  split
  · exact Changes.refl _ _
  · extract_lets a12 a13 a14
    clear_value a12
    clear_value a13
    have h15 : Changes [.attach, .msgs, .nextId, .freeCtr] s a14 := by
      unfold a14
      refine Changes.step ?_ (State.newMsg_changes ..) (by decide)
      refine Changes.step ?_ (State.drawn_changes ..) (by decide)
      exact Changes.refl _ _
    clear_value a14
    refine Changes.step ?_ (State.attachPkt_changes ..) (by decide)
    assumption

theorem State.combine_changes (s : State) (c : Nat) :
    Changes [.regs, .attach, .msgs, .commits, .ctxs, .accepted, .nextId, .freeCtr] s (State.combine s c) := by
  unfold State.combine
  extract_lets a0
  clear_value a0
  split
  · exact Changes.refl _ _
  · refine Changes.ite ?_ ?_
    · exact Changes.refl _ _
    · extract_lets a2 a3 a4
      clear_value a2
      have h5 : Changes [.regs, .attach, .msgs, .commits, .ctxs, .accepted, .nextId, .freeCtr] s a3 := by
        unfold a3
        refine Changes.step ?_ (State.sendCombined_changes ..) (by decide)
        exact Changes.refl _ _
      clear_value a3
      clear_value a4
      refine Changes.ite ?_ ?_
      · refine Changes.step ?_ (State.failCtx_changes ..) (by decide)
        refine Changes.step ?_ (State.setCtx_changes ..) (by decide)
        assumption
      · refine Changes.step ?_ (State.setCtx_changes ..) (by decide)
        assumption

theorem State.takeDesc_changes (s : State) (c : Nat) (p : Packet) :
    Changes [.regs, .attach, .msgs, .commits, .ctxs, .accepted, .nextId, .freeCtr] s (State.takeDesc s c p) := by
  unfold State.takeDesc
  extract_lets a0 a1 a2 a3 a4 a5
  clear_value a0
  clear_value a1
  clear_value a2
  clear_value a3
  have h11 : Changes [.regs, .attach, .msgs, .commits, .ctxs, .accepted, .nextId, .freeCtr] s a4 := by
    unfold a4
    refine Changes.step ?_ (State.setCtx_changes ..) (by decide)
    exact Changes.refl _ _
  clear_value a4
  have h6 : Changes [.regs, .attach, .msgs, .commits, .ctxs, .accepted, .nextId, .freeCtr] s a5 := by
    unfold a5
    refine Changes.step ?_ (State.setCtx_changes ..) (by decide)
    assumption
  clear_value a5
  refine Changes.ite ?_ ?_
  · refine Changes.step ?_ (State.ctxLater_changes ..) (by decide)
    exact Changes.refl _ _
  · refine Changes.ite ?_ ?_
    · refine Changes.step ?_ (State.failCtx_changes ..) (by decide)
      exact Changes.refl _ _
    · refine Changes.ite ?_ ?_
      · refine Changes.step ?_ (State.failCtx_changes ..) (by decide)
        assumption
      · refine Changes.ite ?_ ?_
        · refine Changes.step ?_ (State.failCtx_changes ..) (by decide)
          assumption
        · refine Changes.step ?_ (State.combine_changes ..) (by decide)
          assumption

theorem State.takeAnn_changes (s : State) (c : Nat) (p : Packet) :
    Changes [.regs, .attach, .msgs, .commits, .ctxs, .accepted, .nextId, .freeCtr] s (State.takeAnn s c p) := by
  unfold State.takeAnn
  extract_lets a0 a1 a2 a3 a4 a5 a6
  clear_value a0
  clear_value a1
  clear_value a2
  clear_value a3
  clear_value a4
  have h7 : Changes [.regs, .attach, .msgs, .commits, .ctxs, .accepted, .nextId, .freeCtr] s a5 := by
    unfold a5
    refine Changes.step ?_ (State.setCtx_changes ..) (by decide)
    exact Changes.refl _ _
  clear_value a5
  clear_value a6
  refine Changes.ite ?_ ?_
  · refine Changes.step ?_ (State.ctxLater_changes ..) (by decide)
    exact Changes.refl _ _
  · refine Changes.ite ?_ ?_
    · refine Changes.step ?_ (State.failCtx_changes ..) (by decide)
      assumption
    · refine Changes.ite ?_ ?_
      · refine Changes.step ?_ (State.failCtx_changes ..) (by decide)
        assumption
      · refine Changes.step ?_ (State.combine_changes ..) (by decide)
        refine Changes.step ?_ (State.setCtx_changes ..) (by decide)
        assumption

theorem State.freeCtx_changes (s : State) (c : Nat) (pend : Option PendRec) :
    Changes [.regs, .cnt, .attach, .msgs, .commits, .ctxs, .accepted, .nextId, .freeCtr] s (State.freeCtx s c pend) := by
  unfold State.freeCtx
  extract_lets a0
  have h1 : Changes [.regs, .cnt, .attach, .msgs, .commits, .ctxs, .accepted, .nextId, .freeCtr] s a0 := by
    unfold a0
    refine Changes.step ?_ (State.setCtx_changes ..) (by decide)
    exact Changes.refl _ _
  clear_value a0
  split
  · assumption
  · refine Changes.foldl ?_ (fun u11 x12 => ?_)
    · assumption
    · refine Changes.ite ?_ ?_
      · refine Changes.step ?_ (State.incCtr_changes ..) (by decide)
        exact Changes.refl _ _
      · refine Changes.ite ?_ ?_
        · refine Changes.step ?_ (State.takeAnn_changes ..) (by decide)
          exact Changes.refl _ _
        · refine Changes.step ?_ (State.takeDesc_changes ..) (by decide)
          exact Changes.refl _ _

theorem State.writeDesc_changes (s : State) (e : Nat) (a : Arrival) (c : Nat) :
    Changes [.regs, .cnt, .attach, .msgs, .commits, .ctxs, .accepted, .nextId, .freeCtr] s (State.writeDesc s e a c) := by
  unfold State.writeDesc
  extract_lets a0
  clear_value a0
  refine Changes.ite ?_ ?_
  · refine Changes.step ?_ (State.sdStray_changes ..) (by decide)
    exact Changes.refl _ _
  · refine Changes.ite ?_ ?_
    · refine Changes.step ?_ (State.sdDisc_changes ..) (by decide)
      exact Changes.refl _ _
    · refine Changes.step ?_ (State.commitArrival_changes ..) (by decide)
      refine Changes.step ?_ (State.takeDesc_changes ..) (by decide)
      exact Changes.refl _ _

theorem State.writeCtxMem_changes (s : State) (e : Nat) (off : Nat) (bs : List Byte) :
    Changes [.regs, .ctxMem, .ue, .commits, .ctxs, .accepted] s (State.writeCtxMem s e off bs) := by
  unfold State.writeCtxMem
  split
  · refine Changes.step ?_ (State.ctxUe_changes ..) (by decide)
    exact Changes.refl _ _
  · refine Changes.step ?_ (State.healed_changes ..) (by decide)
    refine Changes.step ?_ Changes.ctxMem (by decide)
    exact Changes.refl _ _

theorem State.engineWrite_changes (s : State) (e : Nat) :
    Changes [.regs, .cnt, .ctxMem, .ue, .attach, .msgs, .inbox, .commits, .ctxs, .accepted, .nextId, .freeCtr] s
        (State.engineWrite s e) := by
  unfold State.engineWrite
  extract_lets a0
  have h1 : Changes [.regs, .cnt, .ctxMem, .ue, .attach, .msgs, .inbox, .commits, .ctxs, .accepted, .nextId,
      .freeCtr] s a0 := by
    unfold a0
    refine Changes.step ?_ (State.checkControl_changes ..) (by decide)
    exact Changes.refl _ _
  clear_value a0
  split
  · assumption
  · rename_i y4 y5 y6 y7
    have h8 : Changes [.regs, .cnt, .ctxMem, .ue, .attach, .msgs, .inbox, .commits, .ctxs, .accepted, .nextId,
        .freeCtr] s y6 := by
      refine Changes.step ?_ (State.takeEngine_changes y7) (by decide)
      assumption
    extract_lets a20 a21 a22
    clear_value a20
    clear_value a21
    clear_value a22
    refine Changes.ite ?_ ?_
    · refine Changes.step ?_ (State.sdStray_changes ..) (by decide)
      assumption
    · refine Changes.ite ?_ ?_
      · refine Changes.step ?_ (State.sdStray_changes ..) (by decide)
        assumption
      · refine Changes.ite ?_ ?_
        · refine Changes.ite ?_ ?_
          · refine Changes.step ?_ (State.sdStray_changes ..) (by decide)
            assumption
          · refine Changes.step ?_ (State.commitArrival_changes ..) (by decide)
            refine Changes.step ?_ (State.writeCtxMem_changes ..) (by decide)
            assumption
        · refine Changes.ite ?_ ?_
          · refine Changes.step ?_ (State.sdStray_changes ..) (by decide)
            assumption
          · refine Changes.step ?_ (State.writeDesc_changes ..) (by decide)
            assumption

theorem State.engineAnn_changes (s : State) (e : Nat) :
    Changes [.regs, .cnt, .ue, .attach, .msgs, .inbox, .commits, .ctxs, .accepted, .nextId, .freeCtr] s
        (State.engineAnn s e) := by
  unfold State.engineAnn
  extract_lets a0 a1
  have h2 : Changes [.regs, .cnt, .ue, .attach, .msgs, .inbox, .commits, .ctxs, .accepted, .nextId, .freeCtr] s a0 := by
    unfold a0
    refine Changes.step ?_ (State.checkControl_changes ..) (by decide)
    exact Changes.refl _ _
  clear_value a0
  clear_value a1
  split
  · assumption
  · rename_i y11 y12 y13 y14
    have h15 : Changes [.regs, .cnt, .ue, .attach, .msgs, .inbox, .commits, .ctxs, .accepted, .nextId, .freeCtr] s y13 := by
      refine Changes.step ?_ (State.takeEngine_changes y14) (by decide)
      assumption
    extract_lets a16 a17 a18 a19
    clear_value a16
    clear_value a17
    clear_value a18
    have h1 : Changes [.regs, .cnt, .ue, .attach, .msgs, .inbox, .commits, .ctxs, .accepted, .nextId, .freeCtr] s a19 := by
      unfold a19
      refine Changes.ite ?_ ?_
      · refine Changes.step ?_ (State.setCtx_changes ..) (by decide)
        assumption
      · assumption
    clear_value a19
    refine Changes.ite ?_ ?_
    · refine Changes.step ?_ (State.sdStray_changes ..) (by decide)
      assumption
    · refine Changes.ite ?_ ?_
      · refine Changes.step ?_ (State.sdStray_changes ..) (by decide)
        assumption
      · refine Changes.ite ?_ ?_
        · refine Changes.step ?_ (State.sdDisc_changes ..) (by decide)
          assumption
        · refine Changes.ite ?_ ?_
          · refine Changes.step ?_ (State.commitArrival_changes ..) (by decide)
            refine Changes.step ?_ (State.failCtx_changes ..) (by decide)
            assumption
          · refine Changes.step ?_ (State.commitArrival_changes ..) (by decide)
            refine Changes.step ?_ (State.takeAnn_changes ..) (by decide)
            assumption

theorem State.openSlot_changes (s : State) (c : Nat) (d : CtxDesc) (h : ChunkHdr) :
    Changes [.regs, .ctxMem, .ue, .commits, .ctxs, .accepted] s (State.openSlot s c d h) := by
  unfold State.openSlot
  extract_lets a0 a1 a2
  clear_value a0
  clear_value a1
  have h3 : Changes [.regs, .ctxMem, .ue, .commits, .ctxs, .accepted] s a2 := by
    unfold a2
    refine Changes.step ?_ (State.setCtx_changes ..) (by decide)
    exact Changes.refl _ _
  clear_value a2
  refine Changes.ite ?_ ?_
  · assumption
  · refine Changes.step ?_ (State.writeCtxMem_changes ..) (by decide)
    assumption

theorem State.engineData_changes (s : State) (e : Nat) :
    Changes [.regs, .cnt, .ctxMem, .ue, .inbox, .commits, .ctxs, .accepted] s (State.engineData s e) := by
  unfold State.engineData
  extract_lets a0
  have h1 : Changes [.regs, .cnt, .ctxMem, .ue, .inbox, .commits, .ctxs, .accepted] s a0 := by
    unfold a0
    refine Changes.step ?_ (State.checkControl_changes ..) (by decide)
    exact Changes.refl _ _
  clear_value a0
  split
  · assumption
  · rename_i y5 y6 y7 y8
    have h9 : Changes [.regs, .cnt, .ctxMem, .ue, .inbox, .commits, .ctxs, .accepted] s y7 := by
      refine Changes.step ?_ (State.takeEngine_changes y8) (by decide)
      assumption
    extract_lets a19 a20 a21 a22
    clear_value a19
    clear_value a20
    clear_value a21
    clear_value a22
    refine Changes.ite ?_ ?_
    · refine Changes.step ?_ (State.sdStray_changes ..) (by decide)
      assumption
    · refine Changes.ite ?_ ?_
      · refine Changes.step ?_ (State.sdDisc_changes ..) (by decide)
        assumption
      · split
        · refine Changes.step ?_ (State.commitArrival_changes ..) (by decide)
          refine Changes.step ?_ (State.failCtx_changes ..) (by decide)
          assumption
        · refine Changes.ite ?_ ?_
          · refine Changes.step ?_ (State.commitArrival_changes ..) (by decide)
            refine Changes.step ?_ (State.failCtx_changes ..) (by decide)
            assumption
          · extract_lets a12 a13 a14
            have h15 : Changes [.regs, .cnt, .ctxMem, .ue, .inbox, .commits, .ctxs, .accepted] s a12 := by
              unfold a12
              refine Changes.ite ?_ ?_
              · assumption
              · refine Changes.step ?_ (State.openSlot_changes ..) (by decide)
                assumption
            clear_value a12
            clear_value a13
            have h19 : Changes [.regs, .cnt, .ctxMem, .ue, .inbox, .commits, .ctxs, .accepted] s a14 := by
              unfold a14
              refine Changes.step ?_ (State.setCtx_changes ..) (by decide)
              assumption
            clear_value a14
            refine Changes.ite ?_ ?_
            · refine Changes.step ?_ (State.commitArrival_changes ..) (by decide)
              assumption
            · refine Changes.step ?_ Changes.accepted (by decide)
              assumption

theorem State.handlerRun_changes (s : State) (e : Nat) :
    Changes [.regs, .ctxMem, .ue, .commits, .ctxs, .accepted] s (State.handlerRun s e) := by
  unfold State.handlerRun
  extract_lets a0
  have h2 : Changes [.regs, .ctxMem, .ue, .commits, .ctxs, .accepted] s a0 := by
    unfold a0
    refine Changes.step ?_ (State.checkControl_changes ..) (by decide)
    exact Changes.refl _ _
  clear_value a0
  split
  · assumption
  · extract_lets a16 a17 a18
    clear_value a16
    clear_value a17
    clear_value a18
    split
    · split
      · refine Changes.step ?_ (State.failCtx_changes ..) (by decide)
        refine Changes.step ?_ Changes.accepted (by decide)
        assumption
      · extract_lets a7 a8
        clear_value a7
        have h9 : Changes [.regs, .ctxMem, .ue, .commits, .ctxs, .accepted] s a8 := by
          unfold a8
          refine Changes.step ?_ (State.healed_changes ..) (by decide)
          refine Changes.step ?_ Changes.ctxMem_accepted (by decide)
          assumption
        clear_value a8
        refine Changes.step ?_ (State.setCtx_changes ..) (by decide)
        assumption
    · refine Changes.step ?_ Changes.accepted (by decide)
      assumption

theorem State.emit_changes (s : State) (c : Nat) :
    Changes [.regs, .attach, .msgs, .msgSeq, .commits, .ctxs, .accepted, .nextId] s (State.emit s c) := by
  unfold State.emit
  extract_lets a0 a1 a2 a3
  clear_value a0
  clear_value a1
  clear_value a2
  clear_value a3
  split
  · split
    · extract_lets a8 a9 a10 a11
      clear_value a8
      clear_value a9
      clear_value a10
      clear_value a11
      refine Changes.ite ?_ ?_
      · refine Changes.step ?_ (State.failCtx_changes ..) (by decide)
        exact Changes.refl _ _
      · split
        · exact Changes.refl _ _
        · extract_lets a30 a31 a32
          have h33 : Changes [.regs, .attach, .msgs, .msgSeq, .commits, .ctxs, .accepted, .nextId] s a30 := by
            unfold a30
            refine Changes.step ?_ (State.openMsg_changes ..) (by decide)
            refine Changes.step ?_ (State.newMsg_changes ..) (by decide)
            exact Changes.refl _ _
          clear_value a30
          have h4 : Changes [.regs, .attach, .msgs, .msgSeq, .commits, .ctxs, .accepted, .nextId] s a31 := by
            unfold a31
            refine Changes.step ?_ (State.attachPkt_changes ..) (by decide)
            assumption
          clear_value a31
          have h5 : Changes [.regs, .attach, .msgs, .msgSeq, .commits, .ctxs, .accepted, .nextId] s a32 := by
            unfold a32
            refine Changes.foldl ?_ (fun u6 x7 => ?_)
            · assumption
            · refine Changes.step ?_ (State.commitArrival_changes ..) (by decide)
              exact Changes.refl _ _
          clear_value a32
          refine Changes.step ?_ (State.setCtx_changes ..) (by decide)
          assumption
  · exact Changes.refl _ _

theorem State.chunkEmit_changes (s : State) (e : Nat) :
    Changes [.regs, .ue, .attach, .msgs, .msgSeq, .commits, .ctxs, .accepted, .rrEmit, .nextId] s (State.chunkEmit s e) := by
  unfold State.chunkEmit
  extract_lets a0
  have h1 : Changes [.regs, .ue, .attach, .msgs, .msgSeq, .commits, .ctxs, .accepted, .rrEmit, .nextId] s a0 := by
    unfold a0
    refine Changes.step ?_ (State.checkControl_changes ..) (by decide)
    exact Changes.refl _ _
  clear_value a0
  split
  · assumption
  · refine Changes.step ?_ (State.emit_changes ..) (by decide)
    refine Changes.step ?_ Changes.rrEmit (by decide)
    assumption

theorem State.ctxCompleted_changes (s : State) (c : Nat) (id : Nat) :
    Changes [.regs, .cnt, .attach, .msgs, .commits, .ctxs, .accepted, .nextId, .freeCtr] s (State.ctxCompleted s c id) := by
  unfold State.ctxCompleted
  extract_lets a0 a1 a2
  clear_value a0
  clear_value a1
  have h3 : Changes [.regs, .cnt, .attach, .msgs, .commits, .ctxs, .accepted, .nextId, .freeCtr] s a2 := by
    unfold a2
    refine Changes.step ?_ (State.setCtx_changes ..) (by decide)
    exact Changes.refl _ _
  clear_value a2
  refine Changes.ite ?_ ?_
  · exact Changes.refl _ _
  · refine Changes.ite ?_ ?_
    · refine Changes.step ?_ (State.freeCtx_changes ..) (by decide)
      assumption
    · assumption

theorem State.engineComplete_changes (s : State) (e : Nat) :
    Changes [.regs, .cnt, .dpa, .ue, .attach, .msgs, .inbox, .commits, .ctxs, .accepted, .cores, .colls, .owed, .fetches,
        .wbs, .jobs, .nextId, .freeCtr] s (State.engineComplete s e) := by
  unfold State.engineComplete
  extract_lets a0
  have h1 : Changes [.regs, .cnt, .dpa, .ue, .attach, .msgs, .inbox, .commits, .ctxs, .accepted, .cores, .colls, .owed,
      .fetches, .wbs, .jobs, .nextId, .freeCtr] s a0 := by
    unfold a0
    refine Changes.step ?_ (State.checkControl_changes ..) (by decide)
    exact Changes.refl _ _
  clear_value a0
  split
  · assumption
  · rename_i y4 y5 y6 y7
    have h8 : Changes [.regs, .cnt, .dpa, .ue, .attach, .msgs, .inbox, .commits, .ctxs, .accepted, .cores, .colls, .owed,
        .fetches, .wbs, .jobs, .nextId, .freeCtr] s y6 := by
      refine Changes.step ?_ (State.takeEngine_changes y7) (by decide)
      assumption
    split
    · assumption
    · extract_lets a14
      have h15 : Changes [.regs, .cnt, .dpa, .ue, .attach, .msgs, .inbox, .commits, .ctxs, .accepted, .cores, .colls,
          .owed, .fetches, .wbs, .jobs, .nextId, .freeCtr] s a14 := by
        unfold a14
        refine Changes.step ?_ (State.closeMsg_changes ..) (by decide)
        assumption
      clear_value a14
      split
      · refine Changes.step ?_ (State.ctxCompleted_changes ..) (by decide)
        assumption
      · refine Changes.step ?_ (State.ownerDone_changes ..) (by decide)
        assumption

theorem State.writeSdJobcmd_changes (s : State) (n : Nat) (w : Word) :
    Changes [.regs, .cnt, .attach, .msgs, .commits, .ctxs, .accepted, .nextId, .freeCtr] s (State.writeSdJobcmd s n w) := by
  unfold State.writeSdJobcmd
  extract_lets a0 a1 a2
  clear_value a0
  clear_value a1
  clear_value a2
  refine Changes.ite ?_ ?_
  · refine Changes.ite ?_ ?_
    · exact Changes.refl _ _
    · refine Changes.foldl ?_ (fun u8 x9 => ?_)
      · exact Changes.refl _ _
      · refine Changes.step ?_ (State.failCtx_changes ..) (by decide)
        exact Changes.refl _ _
  · refine Changes.ite ?_ ?_
    · refine Changes.foldl ?_ (fun u4 x5 => ?_)
      · exact Changes.refl _ _
      · refine Changes.step ?_ (State.freeCtx_changes ..) (by decide)
        refine Changes.step ?_ (State.dropChunks_changes ..) (by decide)
        exact Changes.refl _ _
    · exact Changes.refl _ _

theorem State.storeProg_changes (s : State) (e : Nat) (w : Nat) (v : Nat) :
    Changes [.regs, .prog, .progValid, .ue] s (State.storeProg s e w v) := by
  unfold State.storeProg
  extract_lets a0 a1 a2
  clear_value a0
  have h3 : Changes [.regs, .prog, .progValid, .ue] s a1 := by
    unfold a1
    refine Changes.step ?_ Changes.prog_progValid (by decide)
    exact Changes.refl _ _
  clear_value a1
  have h5 : Changes [.regs, .prog, .progValid, .ue] s a2 := by
    unfold a2
    refine Changes.step ?_ (State.healed_changes ..) (by decide)
    assumption
  clear_value a2
  refine Changes.ite ?_ ?_
  · assumption
  · refine Changes.step ?_ (State.raise_changes ..) (by decide)
    assumption

theorem State.writeProgcmd_changes (s : State) (n : Nat) (v : Word) :
    Changes [.regs, .prog, .progValid, .ue] s (State.writeProgcmd s n v) := by
  unfold State.writeProgcmd
  extract_lets a0 a1 a2 a3 a4
  clear_value a0
  clear_value a1
  clear_value a2
  clear_value a3
  have h6 : Changes [.regs, .prog, .progValid, .ue] s a4 := by
    unfold a4
    refine Changes.ite ?_ ?_
    · refine Changes.step ?_ (State.storeProg_changes ..) (by decide)
      exact Changes.refl _ _
    · refine Changes.foldl ?_ (fun u14 x15 => ?_)
      · exact Changes.refl _ _
      · refine Changes.step ?_ (State.setReg_changes ..) (by decide)
        exact Changes.refl _ _
  clear_value a4
  refine Changes.ite ?_ ?_
  · exact Changes.refl _ _
  · refine Changes.ite ?_ ?_
    · refine Changes.step ?_ (State.raise_changes ..) (by decide)
      exact Changes.refl _ _
    · refine Changes.step ?_ (State.setReg_changes ..) (by decide)
      assumption

theorem State.accessCmdata_changes (s : State) (n : Nat) (write : Bool) (v : Word) :
    Changes [.regs, .busData, .ctxMem, .ue, .commits, .ctxs, .accepted, .freeCtr] s (State.accessCmdata s n write v) := by
  unfold State.accessCmdata
  extract_lets a0 a1 a2 a3
  clear_value a0
  clear_value a1
  clear_value a2
  have h11 : Changes [.regs, .busData, .ctxMem, .ue, .commits, .ctxs, .accepted, .freeCtr] s a3 := by
    unfold a3
    refine Changes.ite ?_ ?_
    · refine Changes.step ?_ (State.writeCtxMem_changes ..) (by decide)
      exact Changes.refl _ _
    · split
      · refine Changes.step ?_ (State.ctxUe_changes ..) (by decide)
        refine Changes.step ?_ (State.drawn_changes ..) (by decide)
        refine Changes.step ?_ Changes.busData (by decide)
        exact Changes.refl _ _
      · refine Changes.step ?_ Changes.busData (by decide)
        exact Changes.refl _ _
  clear_value a3
  refine Changes.step ?_ (State.setReg_changes ..) (by decide)
  assumption

/-! ### Canonical form -/

theorem State.sdStray_wf (s : State) (e : Nat) (a : Arrival) :
    KeepsWf s (State.sdStray s e a) := by
  unfold State.sdStray
  refine KeepsWf.trans ?_ (KeepsWf.of_changes (State.commitArrival_changes ..) (by decide))
  refine KeepsWf.trans ?_ (KeepsWf.of_changes (State.raise_changes ..) (by decide))
  refine KeepsWf.trans ?_ (State.incCtr_wf ..)
  exact KeepsWf.refl _

theorem State.sdDisc_wf (s : State) (e : Nat) (a : Arrival) :
    KeepsWf s (State.sdDisc s e a) := by
  unfold State.sdDisc
  refine KeepsWf.trans ?_ (KeepsWf.of_changes (State.commitArrival_changes ..) (by decide))
  refine KeepsWf.trans ?_ (State.incCtr_wf ..)
  exact KeepsWf.refl _

theorem State.freeCtx_wf (s : State) (c : Nat) (pend : Option PendRec) :
    KeepsWf s (State.freeCtx s c pend) := by
  unfold State.freeCtx
  extract_lets a0
  have h0 : KeepsWf s a0 := by
    unfold a0
    refine KeepsWf.trans ?_ (KeepsWf.of_changes (State.setCtx_changes ..) (by decide))
    exact KeepsWf.refl _
  clear_value a0
  split
  · assumption
  · refine KeepsWf.foldl ?_ (fun u8 x9 => ?_)
    · assumption
    · refine KeepsWf.ite ?_ ?_
      · refine KeepsWf.trans ?_ (State.incCtr_wf ..)
        exact KeepsWf.refl _
      · refine KeepsWf.ite ?_ ?_
        · refine KeepsWf.trans ?_ (KeepsWf.of_changes (State.takeAnn_changes ..) (by decide))
          exact KeepsWf.refl _
        · refine KeepsWf.trans ?_ (KeepsWf.of_changes (State.takeDesc_changes ..) (by decide))
          exact KeepsWf.refl _

theorem State.writeDesc_wf (s : State) (e : Nat) (a : Arrival) (c : Nat) :
    KeepsWf s (State.writeDesc s e a c) := by
  unfold State.writeDesc
  extract_lets a0
  clear_value a0
  refine KeepsWf.ite ?_ ?_
  · refine KeepsWf.trans ?_ (State.sdStray_wf ..)
    exact KeepsWf.refl _
  · refine KeepsWf.ite ?_ ?_
    · refine KeepsWf.trans ?_ (State.sdDisc_wf ..)
      exact KeepsWf.refl _
    · refine KeepsWf.trans ?_ (KeepsWf.of_changes (State.commitArrival_changes ..) (by decide))
      refine KeepsWf.trans ?_ (KeepsWf.of_changes (State.takeDesc_changes ..) (by decide))
      exact KeepsWf.refl _

theorem State.writeCtxMem_wf (s : State) (e : Nat) (off : Nat) (bs : List Byte) :
    KeepsWf s (State.writeCtxMem s e off bs) := by
  unfold State.writeCtxMem
  split
  · refine KeepsWf.trans ?_ (KeepsWf.of_changes (State.ctxUe_changes ..) (by decide))
    exact KeepsWf.refl _
  · refine KeepsWf.trans ?_ (KeepsWf.of_changes (State.healed_changes ..) (by decide))
    refine KeepsWf.trans ?_ (KeepsWf.ctxMem fun h => memWf_wrBytes h _ _)
    exact KeepsWf.refl _

theorem State.engineWrite_wf (s : State) (e : Nat) :
    KeepsWf s (State.engineWrite s e) := by
  unfold State.engineWrite
  extract_lets a0
  have h1 : KeepsWf s a0 := by
    unfold a0
    refine KeepsWf.trans ?_ (KeepsWf.of_changes (State.checkControl_changes ..) (by decide))
    exact KeepsWf.refl _
  clear_value a0
  split
  · assumption
  · rename_i y4 y6 y7 y8
    have h9 : KeepsWf s y7 := by
      refine KeepsWf.trans ?_ (KeepsWf.of_changes (State.takeEngine_changes y8) (by decide))
      assumption
    extract_lets a4 a5 a6
    clear_value a4
    clear_value a5
    clear_value a6
    refine KeepsWf.ite ?_ ?_
    · refine KeepsWf.trans ?_ (State.sdStray_wf ..)
      assumption
    · refine KeepsWf.ite ?_ ?_
      · refine KeepsWf.trans ?_ (State.sdStray_wf ..)
        assumption
      · refine KeepsWf.ite ?_ ?_
        · refine KeepsWf.ite ?_ ?_
          · refine KeepsWf.trans ?_ (State.sdStray_wf ..)
            assumption
          · refine KeepsWf.trans ?_ (KeepsWf.of_changes (State.commitArrival_changes ..) (by decide))
            refine KeepsWf.trans ?_ (State.writeCtxMem_wf ..)
            assumption
        · refine KeepsWf.ite ?_ ?_
          · refine KeepsWf.trans ?_ (State.sdStray_wf ..)
            assumption
          · refine KeepsWf.trans ?_ (State.writeDesc_wf ..)
            assumption

theorem State.engineAnn_wf (s : State) (e : Nat) :
    KeepsWf s (State.engineAnn s e) := by
  unfold State.engineAnn
  extract_lets a0 a1
  have h5 : KeepsWf s a0 := by
    unfold a0
    refine KeepsWf.trans ?_ (KeepsWf.of_changes (State.checkControl_changes ..) (by decide))
    exact KeepsWf.refl _
  clear_value a0
  clear_value a1
  split
  · assumption
  · rename_i y9 y10 y11 y12
    have h13 : KeepsWf s y11 := by
      refine KeepsWf.trans ?_ (KeepsWf.of_changes (State.takeEngine_changes y12) (by decide))
      assumption
    extract_lets a2 a3 a4 a5
    clear_value a2
    clear_value a3
    clear_value a4
    have h6 : KeepsWf s a5 := by
      unfold a5
      refine KeepsWf.ite ?_ ?_
      · refine KeepsWf.trans ?_ (KeepsWf.of_changes (State.setCtx_changes ..) (by decide))
        assumption
      · assumption
    clear_value a5
    refine KeepsWf.ite ?_ ?_
    · refine KeepsWf.trans ?_ (State.sdStray_wf ..)
      assumption
    · refine KeepsWf.ite ?_ ?_
      · refine KeepsWf.trans ?_ (State.sdStray_wf ..)
        assumption
      · refine KeepsWf.ite ?_ ?_
        · refine KeepsWf.trans ?_ (State.sdDisc_wf ..)
          assumption
        · refine KeepsWf.ite ?_ ?_
          · refine KeepsWf.trans ?_ (KeepsWf.of_changes (State.commitArrival_changes ..) (by decide))
            refine KeepsWf.trans ?_ (KeepsWf.of_changes (State.failCtx_changes ..) (by decide))
            assumption
          · refine KeepsWf.trans ?_ (KeepsWf.of_changes (State.commitArrival_changes ..) (by decide))
            refine KeepsWf.trans ?_ (KeepsWf.of_changes (State.takeAnn_changes ..) (by decide))
            assumption

theorem State.openSlot_wf (s : State) (c : Nat) (d : CtxDesc) (h : ChunkHdr) :
    KeepsWf s (State.openSlot s c d h) := by
  unfold State.openSlot
  extract_lets a0 a1 a2
  clear_value a0
  clear_value a1
  have h3 : KeepsWf s a2 := by
    unfold a2
    refine KeepsWf.trans ?_ (KeepsWf.of_changes (State.setCtx_changes ..) (by decide))
    exact KeepsWf.refl _
  clear_value a2
  refine KeepsWf.ite ?_ ?_
  · assumption
  · refine KeepsWf.trans ?_ (State.writeCtxMem_wf ..)
    assumption

theorem State.engineData_wf (s : State) (e : Nat) :
    KeepsWf s (State.engineData s e) := by
  unfold State.engineData
  extract_lets a0
  have h1 : KeepsWf s a0 := by
    unfold a0
    refine KeepsWf.trans ?_ (KeepsWf.of_changes (State.checkControl_changes ..) (by decide))
    exact KeepsWf.refl _
  clear_value a0
  split
  · assumption
  · rename_i y4 y5 y6 y7
    have h8 : KeepsWf s y6 := by
      refine KeepsWf.trans ?_ (KeepsWf.of_changes (State.takeEngine_changes y7) (by decide))
      assumption
    extract_lets a9 a10 a11 a12
    clear_value a9
    clear_value a10
    clear_value a11
    clear_value a12
    refine KeepsWf.ite ?_ ?_
    · refine KeepsWf.trans ?_ (State.sdStray_wf ..)
      assumption
    · refine KeepsWf.ite ?_ ?_
      · refine KeepsWf.trans ?_ (State.sdDisc_wf ..)
        assumption
      · split
        · refine KeepsWf.trans ?_ (KeepsWf.of_changes (State.commitArrival_changes ..) (by decide))
          refine KeepsWf.trans ?_ (KeepsWf.of_changes (State.failCtx_changes ..) (by decide))
          assumption
        · refine KeepsWf.ite ?_ ?_
          · refine KeepsWf.trans ?_ (KeepsWf.of_changes (State.commitArrival_changes ..) (by decide))
            refine KeepsWf.trans ?_ (KeepsWf.of_changes (State.failCtx_changes ..) (by decide))
            assumption
          · extract_lets a10 a11 a12
            have h16 : KeepsWf s a10 := by
              unfold a10
              refine KeepsWf.ite ?_ ?_
              · assumption
              · refine KeepsWf.trans ?_ (State.openSlot_wf ..)
                assumption
            clear_value a10
            clear_value a11
            have h19 : KeepsWf s a12 := by
              unfold a12
              refine KeepsWf.trans ?_ (KeepsWf.of_changes (State.setCtx_changes ..) (by decide))
              assumption
            clear_value a12
            refine KeepsWf.ite ?_ ?_
            · refine KeepsWf.trans ?_ (KeepsWf.of_changes (State.commitArrival_changes ..) (by decide))
              assumption
            · refine KeepsWf.trans ?_ (KeepsWf.of_changes Changes.accepted (by decide))
              assumption

theorem State.handlerRun_wf (s : State) (e : Nat) :
    KeepsWf s (State.handlerRun s e) := by
  unfold State.handlerRun
  extract_lets a0
  have h1 : KeepsWf s a0 := by
    unfold a0
    refine KeepsWf.trans ?_ (KeepsWf.of_changes (State.checkControl_changes ..) (by decide))
    exact KeepsWf.refl _
  clear_value a0
  split
  · assumption
  · extract_lets a17 a18 a19
    clear_value a17
    clear_value a18
    clear_value a19
    split
    · split
      · refine KeepsWf.trans ?_ (KeepsWf.of_changes (State.failCtx_changes ..) (by decide))
        refine KeepsWf.trans ?_ (KeepsWf.of_changes Changes.accepted (by decide))
        assumption
      · extract_lets a10 a11
        clear_value a10
        have h12 : KeepsWf s a11 := by
          unfold a11
          refine KeepsWf.trans ?_ (KeepsWf.of_changes (State.healed_changes ..) (by decide))
          refine KeepsWf.trans ?_ (KeepsWf.ctxMem_accepted fun h => memWf_wrBytes h _ _)
          assumption
        clear_value a11
        refine KeepsWf.trans ?_ (KeepsWf.of_changes (State.setCtx_changes ..) (by decide))
        assumption
    · refine KeepsWf.trans ?_ (KeepsWf.of_changes Changes.accepted (by decide))
      assumption

theorem State.ctxCompleted_wf (s : State) (c : Nat) (id : Nat) :
    KeepsWf s (State.ctxCompleted s c id) := by
  unfold State.ctxCompleted
  extract_lets a0 a1 a2
  clear_value a0
  clear_value a1
  have h3 : KeepsWf s a2 := by
    unfold a2
    refine KeepsWf.trans ?_ (KeepsWf.of_changes (State.setCtx_changes ..) (by decide))
    exact KeepsWf.refl _
  clear_value a2
  refine KeepsWf.ite ?_ ?_
  · exact KeepsWf.refl _
  · refine KeepsWf.ite ?_ ?_
    · refine KeepsWf.trans ?_ (State.freeCtx_wf ..)
      assumption
    · assumption

theorem State.engineComplete_wf (s : State) (e : Nat) :
    KeepsWf s (State.engineComplete s e) := by
  unfold State.engineComplete
  extract_lets a0
  have h1 : KeepsWf s a0 := by
    unfold a0
    refine KeepsWf.trans ?_ (KeepsWf.of_changes (State.checkControl_changes ..) (by decide))
    exact KeepsWf.refl _
  clear_value a0
  split
  · assumption
  · rename_i y6 y7 y8 y9
    have h10 : KeepsWf s y8 := by
      refine KeepsWf.trans ?_ (KeepsWf.of_changes (State.takeEngine_changes y9) (by decide))
      assumption
    split
    · assumption
    · extract_lets a17
      have h18 : KeepsWf s a17 := by
        unfold a17
        refine KeepsWf.trans ?_ (KeepsWf.of_changes (State.closeMsg_changes ..) (by decide))
        assumption
      clear_value a17
      split
      · refine KeepsWf.trans ?_ (State.ctxCompleted_wf ..)
        assumption
      · refine KeepsWf.trans ?_ (State.ownerDone_wf ..)
        assumption

theorem State.writeSdJobcmd_wf (s : State) (n : Nat) (w : Word) :
    KeepsWf s (State.writeSdJobcmd s n w) := by
  unfold State.writeSdJobcmd
  extract_lets a0 a1 a2
  clear_value a0
  clear_value a1
  clear_value a2
  refine KeepsWf.ite ?_ ?_
  · refine KeepsWf.ite ?_ ?_
    · exact KeepsWf.refl _
    · refine KeepsWf.foldl ?_ (fun u6 x7 => ?_)
      · exact KeepsWf.refl _
      · refine KeepsWf.trans ?_ (KeepsWf.of_changes (State.failCtx_changes ..) (by decide))
        exact KeepsWf.refl _
  · refine KeepsWf.ite ?_ ?_
    · refine KeepsWf.foldl ?_ (fun u20 x21 => ?_)
      · exact KeepsWf.refl _
      · refine KeepsWf.trans ?_ (State.freeCtx_wf ..)
        refine KeepsWf.trans ?_ (KeepsWf.of_changes (State.dropChunks_changes ..) (by decide))
        exact KeepsWf.refl _
    · exact KeepsWf.refl _

theorem State.storeProg_wf (s : State) (e : Nat) (w : Nat) (v : Nat) : KeepsWf s (State.storeProg s e w v) := by
  unfold State.storeProg
  extract_lets ok s1 s2
  have h1 : KeepsWf s s1 :=
    (KeepsWf.prog fun h => mwf_mset h _ _).trans (KeepsWf.progValid fun h => mwf_mset h _ _)
  have h2 : KeepsWf s s2 := h1.trans (KeepsWf.of_changes (State.healed_changes ..) (by decide))
  exact KeepsWf.ite h2 (h2.trans (KeepsWf.of_changes (State.raise_changes ..) (by decide)))

theorem State.writeProgcmd_wf (s : State) (n : Nat) (v : Word) :
    KeepsWf s (State.writeProgcmd s n v) := by
  unfold State.writeProgcmd
  extract_lets a0 a1 a2 a3 a4
  clear_value a0
  clear_value a1
  clear_value a2
  clear_value a3
  have h8 : KeepsWf s a4 := by
    unfold a4
    refine KeepsWf.ite ?_ ?_
    · refine KeepsWf.trans ?_ (State.storeProg_wf ..)
      exact KeepsWf.refl _
    · refine KeepsWf.foldl ?_ (fun u0 x1 => ?_)
      · exact KeepsWf.refl _
      · refine KeepsWf.trans ?_ (KeepsWf.of_changes (State.setReg_changes ..) (by decide))
        exact KeepsWf.refl _
  clear_value a4
  refine KeepsWf.ite ?_ ?_
  · exact KeepsWf.refl _
  · refine KeepsWf.ite ?_ ?_
    · refine KeepsWf.trans ?_ (KeepsWf.of_changes (State.raise_changes ..) (by decide))
      exact KeepsWf.refl _
    · refine KeepsWf.trans ?_ (KeepsWf.of_changes (State.setReg_changes ..) (by decide))
      assumption

theorem State.accessCmdata_wf (s : State) (n : Nat) (write : Bool) (v : Word) :
    KeepsWf s (State.accessCmdata s n write v) := by
  unfold State.accessCmdata
  extract_lets a2 a3 a4 a5
  clear_value a2
  clear_value a3
  clear_value a4
  have h6 : KeepsWf s a5 := by
    unfold a5
    refine KeepsWf.ite ?_ ?_
    · refine KeepsWf.trans ?_ (State.writeCtxMem_wf ..)
      exact KeepsWf.refl _
    · split
      · refine KeepsWf.trans ?_ (KeepsWf.of_changes (State.ctxUe_changes ..) (by decide))
        refine KeepsWf.trans ?_ (KeepsWf.of_changes (State.drawn_changes ..) (by decide))
        refine KeepsWf.trans ?_ (KeepsWf.of_changes Changes.busData (by decide))
        exact KeepsWf.refl _
      · refine KeepsWf.trans ?_ (KeepsWf.of_changes Changes.busData (by decide))
        exact KeepsWf.refl _
  clear_value a5
  refine KeepsWf.trans ?_ (KeepsWf.of_changes (State.setReg_changes ..) (by decide))
  assumption

end Sys2Proof.Machine
end

