-- ==== Sys2Proof/Laws/BlockWrite.lean ====
section
/-!
SUPPORT. What each operation of Machine/BlockWrite.lean may change (`_changes`), and that those which write a memory keep its
canonical form (`_wf`).
-/

namespace Sys2Proof.Machine

theorem State.writeCause_changes (s : State) (r : Reg) (w : Word) (guards : List Nat) (records : List Reg) :
    Changes [.regs] s (State.writeCause s r w guards records) := by
  unfold State.writeCause
  extract_lets a0
  have h1 : Changes [.regs] s a0 := by
    unfold a0
    refine Changes.step ?_ (State.writeReg_changes ..) (by decide)
    exact Changes.refl _ _
  clear_value a0
  refine Changes.ite ?_ ?_
  · assumption
  · refine Changes.foldl ?_ (fun u0 x1 => ?_)
    · assumption
    · refine Changes.step ?_ (State.setReg_changes ..) (by decide)
      exact Changes.refl _ _

theorem State.writePortCause_changes (s : State) (n : Nat) (w : Word) :
    Changes [.regs] s (State.writePortCause s n w) := by
  unfold State.writePortCause
  refine Changes.step ?_ (State.writeCause_changes ..) (by decide)
  exact Changes.refl _ _

theorem State.writeSdCause_changes (s : State) (n : Nat) (w : Word) :
    Changes [.regs] s (State.writeSdCause s n w) := by
  unfold State.writeSdCause
  refine Changes.step ?_ (State.writeCause_changes ..) (by decide)
  exact Changes.refl _ _

theorem State.writeMemcause_changes (s : State) (n : Nat) (w : Word) :
    Changes [.regs] s (State.writeMemcause s n w) := by
  unfold State.writeMemcause
  refine Changes.step ?_ (State.writeCause_changes ..) (by decide)
  exact Changes.refl _ _

theorem State.writeSemcause_changes (s : State) (n : Nat) (w : Word) :
    Changes [.regs] s (State.writeSemcause s n w) := by
  unfold State.writeSemcause
  refine Changes.step ?_ (State.writeCause_changes ..) (by decide)
  exact Changes.refl _ _

theorem State.writeCollcause_changes (s : State) (n : Nat) (w : Word) :
    Changes [.regs] s (State.writeCollcause s n w) := by
  unfold State.writeCollcause
  refine Changes.step ?_ (State.writeCause_changes ..) (by decide)
  exact Changes.refl _ _

theorem State.writeCoreCause_changes (s : State) (u : Nat) (w : Word) :
    Changes [.regs] s (State.writeCoreCause s u w) := by
  unfold State.writeCoreCause
  refine Changes.step ?_ (State.writeCause_changes ..) (by decide)
  exact Changes.refl _ _

theorem State.writeTimeCause_changes (s : State) (w : Word) :
    Changes [.regs] s (State.writeTimeCause s w) := by
  unfold State.writeTimeCause
  refine Changes.step ?_ (State.writeCause_changes ..) (by decide)
  exact Changes.refl _ _

theorem State.writeDspCause_changes (s : State) (w : Word) :
    Changes [.regs] s (State.writeDspCause s w) := by
  unfold State.writeDspCause
  refine Changes.step ?_ (State.writeCause_changes ..) (by decide)
  exact Changes.refl _ _

theorem State.writeXbarCause_changes (s : State) (w : Word) :
    Changes [.regs] s (State.writeXbarCause s w) := by
  unfold State.writeXbarCause
  refine Changes.step ?_ (State.writeCause_changes ..) (by decide)
  exact Changes.refl _ _

theorem State.storeAt_changes (s : State) (r : Option Reg) (w : Word) :
    Changes [.regs] s (State.storeAt s r w) := by
  unfold State.storeAt
  split
  · refine Changes.step ?_ (State.writeReg_changes ..) (by decide)
    exact Changes.refl _ _
  · exact Changes.refl _ _

theorem State.writeXbarWin_changes (s : State) (o : Nat) (w : Word) :
    Changes [.regs, .xbar, .links, .egress, .shpT, .circT, .freeCtr] s (State.writeXbarWin s o w) := by
  unfold State.writeXbarWin
  refine Changes.ite ?_ ?_
  · refine Changes.step ?_ (State.writeXbarCtl_changes ..) (by decide)
    exact Changes.refl _ _
  · refine Changes.ite ?_ ?_
    · refine Changes.step ?_ (State.writeCpmin_changes ..) (by decide)
      exact Changes.refl _ _
    · refine Changes.ite ?_ ?_
      · refine Changes.step ?_ (State.writeXbarCause_changes ..) (by decide)
        exact Changes.refl _ _
      · refine Changes.ite ?_ ?_
        · refine Changes.step ?_ (State.writeOutctl_changes ..) (by decide)
          exact Changes.refl _ _
        · refine Changes.ite ?_ ?_
          · refine Changes.step ?_ (State.writeMcg_changes ..) (by decide)
            exact Changes.refl _ _
          · refine Changes.step ?_ (State.storeAt_changes ..) (by decide)
            exact Changes.refl _ _

theorem State.writeBpmWin_changes (s : State) (o : Nat) (w : Word) :
    Changes [.regs, .poolUsed, .freeCtr] s (State.writeBpmWin s o w) := by
  unfold State.writeBpmWin
  refine Changes.ite ?_ ?_
  · refine Changes.step ?_ (State.writeBpmCtl_changes ..) (by decide)
    exact Changes.refl _ _
  · refine Changes.ite ?_ ?_
    · refine Changes.step ?_ (State.writeBpmReq_changes ..) (by decide)
      exact Changes.refl _ _
    · split
      · exact Changes.refl _ _
      · refine Changes.ite ?_ ?_
        · refine Changes.step ?_ (State.writePoolReg_changes ..) (by decide)
          exact Changes.refl _ _
        · refine Changes.step ?_ (State.writeReg_changes ..) (by decide)
          exact Changes.refl _ _

theorem State.writeTimeCtl_changes (s : State) (w : Word) :
    Changes [.regs, .time] s (State.writeTimeCtl s w) := by
  unfold State.writeTimeCtl
  extract_lets a0 a1 a2 a3
  clear_value a0
  have h4 : Changes [.regs, .time] s a1 := by
    unfold a1
    refine Changes.step ?_ (State.writeReg_changes ..) (by decide)
    exact Changes.refl _ _
  clear_value a1
  clear_value a2
  have h5 : Changes [.regs, .time] s a3 := by
    unfold a3
    refine Changes.ite ?_ ?_
    · refine Changes.step ?_ (State.setTime_changes ..) (by decide)
      assumption
    · assumption
  clear_value a3
  refine Changes.ite ?_ ?_
  · refine Changes.step ?_ (State.enterHoldover_changes ..) (by decide)
    assumption
  · assumption

theorem State.writeTimeWin_changes (s : State) (o : Nat) (w : Word) :
    Changes [.regs, .links, .time, .shutters] s (State.writeTimeWin s o w) := by
  unfold State.writeTimeWin
  refine Changes.ite ?_ ?_
  · refine Changes.step ?_ (State.writeTimeCtl_changes ..) (by decide)
    exact Changes.refl _ _
  · refine Changes.ite ?_ ?_
    · refine Changes.step ?_ (State.writeTimeCmd_changes ..) (by decide)
      exact Changes.refl _ _
    · refine Changes.ite ?_ ?_
      · refine Changes.step ?_ (State.writeTimeCause_changes ..) (by decide)
        exact Changes.refl _ _
      · refine Changes.ite ?_ ?_
        · extract_lets a0 a1
          clear_value a0
          clear_value a1
          refine Changes.ite ?_ ?_
          · refine Changes.step ?_ (State.writeShutCfg_changes ..) (by decide)
            exact Changes.refl _ _
          · split
            · refine Changes.ite ?_ ?_
              · refine Changes.step ?_ (State.writeReg_changes ..) (by decide)
                exact Changes.refl _ _
              · refine Changes.step ?_ (State.writeShutReg_changes ..) (by decide)
                exact Changes.refl _ _
            · exact Changes.refl _ _
        · refine Changes.step ?_ (State.storeAt_changes ..) (by decide)
          exact Changes.refl _ _

theorem State.writePortWin_changes (s : State) (n : Nat) (o : Nat) (w : Word) :
    Changes [.regs, .xbar, .links, .egress, .eths, .hist, .poolUsed, .time, .shutters, .active, .shadow, .dsp,
        .freeCtr] s (State.writePortWin s n o w) := by
  unfold State.writePortWin
  refine Changes.ite ?_ ?_
  · refine Changes.step ?_ (State.writeSlotcfg_changes ..) (by decide)
    exact Changes.refl _ _
  · refine Changes.ite ?_ ?_
    · refine Changes.step ?_ (State.writePortCause_changes ..) (by decide)
      exact Changes.refl _ _
    · refine Changes.ite ?_ ?_
      · refine Changes.step ?_ (State.writeReg_changes ..) (by decide)
        exact Changes.refl _ _
      · refine Changes.ite ?_ ?_
        · refine Changes.step ?_ (State.writeReg_changes ..) (by decide)
          exact Changes.refl _ _
        · refine Changes.ite ?_ ?_
          · refine Changes.step ?_ (State.writeReg_changes ..) (by decide)
            exact Changes.refl _ _
          · refine Changes.ite ?_ ?_
            · refine Changes.step ?_ (State.writeTblcmd_changes ..) (by decide)
              exact Changes.refl _ _
            · refine Changes.ite ?_ ?_
              · extract_lets a0
                clear_value a0
                refine Changes.step ?_ (State.watchLink_changes ..) (by decide)
                refine Changes.step ?_ (State.writePortCfg_changes ..) (by decide)
                exact Changes.refl _ _
              · refine Changes.ite ?_ ?_
                · refine Changes.step ?_ (State.writeEthCtl_changes ..) (by decide)
                  exact Changes.refl _ _
                · refine Changes.ite ?_ ?_
                  · refine Changes.step ?_ (State.writeHistsel_changes ..) (by decide)
                    exact Changes.refl _ _
                  · refine Changes.ite ?_ ?_
                    · refine Changes.step ?_ (State.writeHistclr_changes ..) (by decide)
                      exact Changes.refl _ _
                    · refine Changes.step ?_ (State.storeAt_changes ..) (by decide)
                      exact Changes.refl _ _

theorem State.writeSdWin_changes (s : State) (n : Nat) (o : Nat) (w : Word) :
    Changes [.regs, .cnt, .busData, .ctxMem, .prog, .progValid, .ue, .attach, .msgs, .commits, .ctxs, .accepted, .nextId,
        .freeCtr] s (State.writeSdWin s n o w) := by
  unfold State.writeSdWin
  refine Changes.ite ?_ ?_
  · refine Changes.step ?_ (State.writeSdCause_changes ..) (by decide)
    exact Changes.refl _ _
  · refine Changes.ite ?_ ?_
    · refine Changes.step ?_ (State.writeSdJobcmd_changes ..) (by decide)
      exact Changes.refl _ _
    · refine Changes.ite ?_ ?_
      · refine Changes.step ?_ (State.writeProgcmd_changes ..) (by decide)
        exact Changes.refl _ _
      · refine Changes.ite ?_ ?_
        · refine Changes.step ?_ (State.accessCmdata_changes ..) (by decide)
          exact Changes.refl _ _
        · refine Changes.step ?_ (State.storeAt_changes ..) (by decide)
          exact Changes.refl _ _

theorem State.writeCoreWin_changes (s : State) (u : Nat) (p : Nat) (r : Option Reg) (w : Word) :
    Changes [.regs, .cnt, .ls, .acc, .accFlags, .accBank1, .ue, .cores, .poolUsed, .dsp] s
        (State.writeCoreWin s u p r w) := by
  unfold State.writeCoreWin
  refine Changes.ite ?_ ?_
  · refine Changes.step ?_ (State.writeStart_changes ..) (by decide)
    exact Changes.refl _ _
  · refine Changes.ite ?_ ?_
    · refine Changes.step ?_ (State.writeCoreCmd_changes ..) (by decide)
      exact Changes.refl _ _
    · refine Changes.ite ?_ ?_
      · refine Changes.step ?_ (State.writeCoreCause_changes ..) (by decide)
        exact Changes.refl _ _
      · refine Changes.step ?_ (State.storeAt_changes ..) (by decide)
        exact Changes.refl _ _

theorem State.writeTdWin_changes (s : State) (n : Nat) (o : Nat) (w : Word) :
    Changes [.regs, .cnt, .dpa, .ls, .acc, .accFlags, .accBank1, .sems, .ue, .attach, .msgs, .cores, .colls, .owed,
        .fetches, .wbs, .atuBusy, .poolUsed, .dsp, .nextId] s (State.writeTdWin s n o w) := by
  unfold State.writeTdWin
  refine Changes.ite ?_ ?_
  · refine Changes.step ?_ (State.writeMemcause_changes ..) (by decide)
    exact Changes.refl _ _
  · refine Changes.ite ?_ ?_
    · refine Changes.step ?_ (State.writeAtuInv_changes ..) (by decide)
      exact Changes.refl _ _
    · refine Changes.ite ?_ ?_
      · refine Changes.step ?_ (State.writePgcmd_changes ..) (by decide)
        exact Changes.refl _ _
      · refine Changes.ite ?_ ?_
        · refine Changes.step ?_ (State.storeAt_changes ..) (by decide)
          exact Changes.refl _ _
        · refine Changes.ite ?_ ?_
          · refine Changes.step ?_ (State.writeCoreWin_changes ..) (by decide)
            exact Changes.refl _ _
          · refine Changes.ite ?_ ?_
            · refine Changes.step ?_ (State.writeCollcause_changes ..) (by decide)
              exact Changes.refl _ _
            · refine Changes.ite ?_ ?_
              · refine Changes.step ?_ (State.writeColljobcmd_changes ..) (by decide)
                exact Changes.refl _ _
              · refine Changes.ite ?_ ?_
                · extract_lets a0
                  clear_value a0
                  refine Changes.step ?_ (State.clearSticky_changes ..) (by decide)
                  refine Changes.step ?_ (State.writeReg_changes ..) (by decide)
                  exact Changes.refl _ _
                · refine Changes.ite ?_ ?_
                  · extract_lets a1
                    clear_value a1
                    refine Changes.step ?_ (State.clearSticky_changes ..) (by decide)
                    refine Changes.step ?_ (State.writeReg_changes ..) (by decide)
                    exact Changes.refl _ _
                  · refine Changes.ite ?_ ?_
                    · refine Changes.step ?_ (State.writeSemcause_changes ..) (by decide)
                      exact Changes.refl _ _
                    · refine Changes.ite ?_ ?_
                      · refine Changes.step ?_ (State.writeSemdata_changes ..) (by decide)
                        exact Changes.refl _ _
                      · refine Changes.step ?_ (State.storeAt_changes ..) (by decide)
                        exact Changes.refl _ _

/-! ### Canonical form -/

theorem State.writeSdWin_wf (s : State) (n : Nat) (o : Nat) (w : Word) :
    KeepsWf s (State.writeSdWin s n o w) := by
  unfold State.writeSdWin
  refine KeepsWf.ite ?_ ?_
  · refine KeepsWf.trans ?_ (KeepsWf.of_changes (State.writeSdCause_changes ..) (by decide))
    exact KeepsWf.refl _
  · refine KeepsWf.ite ?_ ?_
    · refine KeepsWf.trans ?_ (State.writeSdJobcmd_wf ..)
      exact KeepsWf.refl _
    · refine KeepsWf.ite ?_ ?_
      · refine KeepsWf.trans ?_ (State.writeProgcmd_wf ..)
        exact KeepsWf.refl _
      · refine KeepsWf.ite ?_ ?_
        · refine KeepsWf.trans ?_ (State.accessCmdata_wf ..)
          exact KeepsWf.refl _
        · refine KeepsWf.trans ?_ (KeepsWf.of_changes (State.storeAt_changes ..) (by decide))
          exact KeepsWf.refl _

theorem State.writeCoreWin_wf (s : State) (u : Nat) (p : Nat) (r : Option Reg) (w : Word) :
    KeepsWf s (State.writeCoreWin s u p r w) := by
  unfold State.writeCoreWin
  refine KeepsWf.ite ?_ ?_
  · refine KeepsWf.trans ?_ (State.writeStart_wf ..)
    exact KeepsWf.refl _
  · refine KeepsWf.ite ?_ ?_
    · refine KeepsWf.trans ?_ (State.writeCoreCmd_wf ..)
      exact KeepsWf.refl _
    · refine KeepsWf.ite ?_ ?_
      · refine KeepsWf.trans ?_ (KeepsWf.of_changes (State.writeCoreCause_changes ..) (by decide))
        exact KeepsWf.refl _
      · refine KeepsWf.trans ?_ (KeepsWf.of_changes (State.storeAt_changes ..) (by decide))
        exact KeepsWf.refl _

theorem State.writeTdWin_wf (s : State) (n : Nat) (o : Nat) (w : Word) :
    KeepsWf s (State.writeTdWin s n o w) := by
  unfold State.writeTdWin
  refine KeepsWf.ite ?_ ?_
  · refine KeepsWf.trans ?_ (KeepsWf.of_changes (State.writeMemcause_changes ..) (by decide))
    exact KeepsWf.refl _
  · refine KeepsWf.ite ?_ ?_
    · refine KeepsWf.trans ?_ (KeepsWf.of_changes (State.writeAtuInv_changes ..) (by decide))
      exact KeepsWf.refl _
    · refine KeepsWf.ite ?_ ?_
      · refine KeepsWf.trans ?_ (State.writePgcmd_wf ..)
        exact KeepsWf.refl _
      · refine KeepsWf.ite ?_ ?_
        · refine KeepsWf.trans ?_ (KeepsWf.of_changes (State.storeAt_changes ..) (by decide))
          exact KeepsWf.refl _
        · refine KeepsWf.ite ?_ ?_
          · refine KeepsWf.trans ?_ (State.writeCoreWin_wf ..)
            exact KeepsWf.refl _
          · refine KeepsWf.ite ?_ ?_
            · refine KeepsWf.trans ?_ (KeepsWf.of_changes (State.writeCollcause_changes ..) (by decide))
              exact KeepsWf.refl _
            · refine KeepsWf.ite ?_ ?_
              · refine KeepsWf.trans ?_ (State.writeColljobcmd_wf ..)
                exact KeepsWf.refl _
              · refine KeepsWf.ite ?_ ?_
                · extract_lets a0
                  clear_value a0
                  refine KeepsWf.trans ?_ (KeepsWf.of_changes (State.clearSticky_changes ..) (by decide))
                  refine KeepsWf.trans ?_ (KeepsWf.of_changes (State.writeReg_changes ..) (by decide))
                  exact KeepsWf.refl _
                · refine KeepsWf.ite ?_ ?_
                  · extract_lets a1
                    clear_value a1
                    refine KeepsWf.trans ?_ (KeepsWf.of_changes (State.clearSticky_changes ..) (by decide))
                    refine KeepsWf.trans ?_ (KeepsWf.of_changes (State.writeReg_changes ..) (by decide))
                    exact KeepsWf.refl _
                  · refine KeepsWf.ite ?_ ?_
                    · refine KeepsWf.trans ?_ (KeepsWf.of_changes (State.writeSemcause_changes ..) (by decide))
                      exact KeepsWf.refl _
                    · refine KeepsWf.ite ?_ ?_
                      · refine KeepsWf.trans ?_ (State.writeSemdata_wf ..)
                        exact KeepsWf.refl _
                      · refine KeepsWf.trans ?_ (KeepsWf.of_changes (State.storeAt_changes ..) (by decide))
                        exact KeepsWf.refl _

end Sys2Proof.Machine
end

