-- ==== Sys2Proof/Laws/Mailbox.lean ====
section
/-!
SUPPORT. What each operation of Machine/Mailbox.lean may change (`_changes`), and that those which write a memory keep its
canonical form (`_wf`).
-/

namespace Sys2Proof.Machine

theorem State.setDev_changes (s : State) (d : DevState) :
    Changes [.dev, .regs] s (State.setDev s d) := by
  unfold State.setDev
  refine Changes.step ?_ (State.raise_changes ..) (by decide)
  refine Changes.step ?_ Changes.dev (by decide)
  exact Changes.refl _ _

theorem State.slotEvent_changes (s : State) (bit : Nat) (slot : Nat) :
    Changes [.regs] s (State.slotEvent s bit slot) := by
  unfold State.slotEvent
  refine Changes.step ?_ (State.raise_changes ..) (by decide)
  refine Changes.step ?_ (State.raise_changes ..) (by decide)
  exact Changes.refl _ _

theorem State.countSat_changes (s : State) (r : Reg) :
    Changes [.regs] s (State.countSat s r) := by
  unfold State.countSat
  refine Changes.ite ?_ ?_
  · exact Changes.refl _ _
  · refine Changes.step ?_ (State.count_changes ..) (by decide)
    exact Changes.refl _ _

theorem State.ringBell_changes (s : State) (m : Nat) :
    Changes [.regs, .mgmt] s (State.ringBell s m) := by
  unfold State.ringBell
  refine Changes.ite ?_ ?_
  · refine Changes.step ?_ (State.countSat_changes ..) (by decide)
    exact Changes.refl _ _
  · extract_lets a0 a1
    have h7 : Changes [.regs, .mgmt] s a0 := by
      unfold a0
      refine Changes.step ?_ (State.raise_changes ..) (by decide)
      exact Changes.refl _ _
    clear_value a0
    clear_value a1
    refine Changes.step ?_ Changes.mgmt (by decide)
    assumption

theorem State.writeMbxDb_changes (s : State) (w : Word) :
    Changes [.regs, .mgmt] s (State.writeMbxDb s w) := by
  unfold State.writeMbxDb
  refine Changes.foldl ?_ (fun u0 x1 => ?_)
  · exact Changes.refl _ _
  · refine Changes.step ?_ (State.ringBell_changes ..) (by decide)
    exact Changes.refl _ _

theorem State.writeMbx_changes (s : State) (o : Nat) (w : Word) :
    Changes [.mbx] s (State.writeMbx s o w) := by
  unfold State.writeMbx
  refine Changes.ite ?_ ?_
  · exact Changes.refl _ _
  · refine Changes.step ?_ Changes.mbx (by decide)
    exact Changes.refl _ _

theorem State.mbxStart_changes {s t : State} {m : Nat} {is : Nat → Bool} (h : State.mbxStart s m is = some t) :
    Changes [.regs, .mgmt] s t := by
  unfold State.mbxStart at h
  extract_lets s1 at h
  have h1 : Changes [.regs, .mgmt] s s1 := by
    unfold s1
    exact Changes.ite (Changes.refl _ _) (Changes.step (Changes.refl _ _) (State.ringBell_changes ..) (by decide))
  clear_value s1
  split at h
  · split at h
    · cases h
      exact Changes.step h1 Changes.mgmt (by decide)
    · cases h
  · cases h

theorem State.reply_changes (s : State) (m : Nat) (status : Nat) (detail : Nat) (res : List Byte) :
    Changes [.regs, .mbx, .mgmt] s (State.reply s m status detail res) := by
  unfold State.reply
  extract_lets a2 a3 a4 a5 a6
  clear_value a2
  clear_value a3
  clear_value a4
  clear_value a5
  have h8 : Changes [.regs, .mbx, .mgmt] s a6 := by
    unfold a6
    refine Changes.step ?_ Changes.mbx_mgmt (by decide)
    exact Changes.refl _ _
  clear_value a6
  refine Changes.step ?_ (State.raise_changes ..) (by decide)
  refine Changes.step ?_ (State.lower_changes ..) (by decide)
  assumption

theorem State.ok_changes (s : State) (m : Nat) (res : List Byte) :
    Changes [.regs, .mbx, .mgmt] s (State.ok s m res) := by
  unfold State.ok
  refine Changes.step ?_ (State.reply_changes ..) (by decide)
  exact Changes.refl _ _

theorem State.badState_changes (s : State) (m : Nat) (slotCode : Nat) :
    Changes [.regs, .mbx, .mgmt] s (State.badState s m slotCode) := by
  unfold State.badState
  refine Changes.step ?_ (State.reply_changes ..) (by decide)
  refine Changes.step ?_ (State.countSat_changes ..) (by decide)
  exact Changes.refl _ _

theorem State.keepRunning_changes (s : State) (m : Nat) (op : Nat) (excl : Bool) :
    Changes [.mgmt] s (State.keepRunning s m op excl) := by
  unfold State.keepRunning
  refine Changes.step ?_ Changes.mgmt (by decide)
  exact Changes.refl _ _

theorem State.checked_changes {v : List Field} (hv : within [.regs, .mbx, .mgmt] v = true) {s₀ s : State}
    (h₀ : Changes v s₀ s) {go : State → State} (hg : ∀ t, Changes v t (go t)) (m : Nat) (c : Checks) :
    Changes v s₀ (State.checked s m c go) := by
  unfold State.checked
  extract_lets code ok
  have hr : ∀ st d, Changes v s₀ (s.reply m st d []) := fun _ _ => h₀.step (State.reply_changes ..) hv
  have hb : Changes v s₀ (s.badState m code) := h₀.step (State.badState_changes ..) hv
  refine Changes.ite hb ?_
  split
  · exact hr _ _
  · refine Changes.ite hb (Changes.ite (hr _ _) ?_)
    split
    · exact hr _ _
    · exact Changes.ite (hr _ _) (h₀.trans (hg _))

theorem State.command_changes {v : List Field} (hv : within [.regs, .mbx, .mgmt] v = true) {s₀ s : State}
    (h₀ : Changes v s₀ s) {go : State → State} (hg : ∀ t, Changes v t (go t)) (m op : Nat) (chk : State → Checks) :
    Changes v s₀ (State.command s m op chk go) := by
  unfold State.command
  split
  · exact h₀
  · rename_i t ht
    refine State.checked_changes hv (h₀.step (State.mbxStart_changes ht) ?_) hg _ _
    simp only [within, List.all_cons, List.all_nil, Bool.and_true, Bool.and_eq_true] at hv ⊢
    exact ⟨hv.1, hv.2.2⟩

theorem State.badOpcode_changes (s : State) (m : Nat) :
    Changes [.regs, .mbx, .mgmt] s (State.badOpcode s m) := by
  unfold State.badOpcode
  split
  · exact Changes.refl _ _
  · rename_i y2 y3 y4
    have h5 : Changes [.regs, .mbx, .mgmt] s y3 := by
      refine Changes.step ?_ (State.mbxStart_changes y4) (by decide)
      exact Changes.refl _ _
    refine Changes.step ?_ (State.reply_changes ..) (by decide)
    assumption

theorem State.doorbellIgnored_changes (s : State) (m : Nat) :
    Changes [.regs, .mgmt] s (State.doorbellIgnored s m) := by
  unfold State.doorbellIgnored
  refine Changes.ite ?_ ?_
  · refine Changes.step ?_ (State.ringBell_changes ..) (by decide)
    exact Changes.refl _ _
  · exact Changes.refl _ _

/-! ### Canonical form -/

theorem State.writeMbx_wf (s : State) (o : Nat) (w : Word) :
    KeepsWf s (State.writeMbx s o w) := by
  unfold State.writeMbx
  refine KeepsWf.ite ?_ ?_
  · exact KeepsWf.refl _
  · refine KeepsWf.trans ?_ (KeepsWf.mbx fun h => memWf_wrBytes h _ _)
    exact KeepsWf.refl _

theorem State.reply_wf (s : State) (m status detail : Nat) (res : List Byte) :
    KeepsWf s (State.reply s m status detail res) := by
  unfold State.reply
  extract_lets r head mbx g s1
  have h1 : KeepsWf s s1 := KeepsWf.mbx_mgmt fun h => memWf_wrBytes (memWf_wrBytes h _ _) _ _
  clear_value s1
  refine KeepsWf.trans ?_ (KeepsWf.of_changes (State.raise_changes ..) (by decide))
  exact h1.trans (KeepsWf.of_changes (State.lower_changes ..) (by decide))

theorem State.ok_wf (s : State) (m : Nat) (res : List Byte) :
    KeepsWf s (State.ok s m res) := by
  unfold State.ok
  refine KeepsWf.trans ?_ (State.reply_wf ..)
  exact KeepsWf.refl _

theorem State.badState_wf (s : State) (m : Nat) (slotCode : Nat) :
    KeepsWf s (State.badState s m slotCode) := by
  unfold State.badState
  refine KeepsWf.trans ?_ (State.reply_wf ..)
  refine KeepsWf.trans ?_ (KeepsWf.of_changes (State.countSat_changes ..) (by decide))
  exact KeepsWf.refl _

theorem State.checked_wf {s₀ s : State} (h₀ : KeepsWf s₀ s) {go : State → State} (hg : ∀ t, KeepsWf t (go t)) (m : Nat)
    (c : Checks) : KeepsWf s₀ (State.checked s m c go) := by
  unfold State.checked
  extract_lets code ok
  have hr : ∀ st d, KeepsWf s₀ (s.reply m st d []) := fun _ _ => h₀.trans (State.reply_wf ..)
  have hb : KeepsWf s₀ (s.badState m code) := h₀.trans (State.badState_wf ..)
  refine KeepsWf.ite hb ?_
  split
  · exact hr _ _
  · refine KeepsWf.ite hb (KeepsWf.ite (hr _ _) ?_)
    split
    · exact hr _ _
    · exact KeepsWf.ite (hr _ _) (h₀.trans (hg _))

theorem State.command_wf {s₀ s : State} (h₀ : KeepsWf s₀ s) {go : State → State} (hg : ∀ t, KeepsWf t (go t)) (m op : Nat)
    (chk : State → Checks) : KeepsWf s₀ (State.command s m op chk go) := by
  unfold State.command
  split
  · exact h₀
  · rename_i t ht
    exact State.checked_wf (h₀.trans (KeepsWf.of_changes (State.mbxStart_changes ht) (by decide))) hg _ _

theorem State.badOpcode_wf (s : State) (m : Nat) :
    KeepsWf s (State.badOpcode s m) := by
  unfold State.badOpcode
  split
  · exact KeepsWf.refl _
  · rename_i y2 y3 y4
    have h5 : KeepsWf s y3 := by
      refine KeepsWf.trans ?_ (KeepsWf.of_changes (State.mbxStart_changes y4) (by decide))
      exact KeepsWf.refl _
    refine KeepsWf.trans ?_ (State.reply_wf ..)
    assumption

end Sys2Proof.Machine
end

