-- ==== Sys2Proof/Laws/State.lean ====
section
/-!
SUPPORT. The updates of the state, one lemma per field: what `setReg`, `setCore` and the other record updates of
Machine/Ops.lean leave as it was; and what is read after each of them.
-/

namespace Sys2Proof.Machine

/-! ### Bits and registers -/

theorem getLsbD_oneBit {i j : Nat} (hi : i < 32) : (oneBit i).getLsbD j = decide (j = i) := by
  unfold oneBit
  have : BitVec.ofNat 32 (2 ^ i) = BitVec.twoPow 32 i := by
    apply BitVec.eq_of_toNat_eq
    simp [BitVec.toNat_twoPow]
  rw [this, BitVec.getLsbD_twoPow]
  by_cases h : j = i
  · subst h; simp [hi]
  · have h' : ¬ i = j := fun x => h x.symm
    simp [h, h']

theorem wbit_eq (w : Word) (i : Nat) : wbit w i = w.getLsbD i := by
  unfold wbit nbit BitVec.getLsbD
  rw [Nat.testBit, Nat.shiftRight_eq_div_pow, Nat.one_and_eq_mod_two]
  rcases Nat.mod_two_eq_zero_or_one (w.toNat / 2 ^ i) with h | h <;> simp [h]

@[simp] theorem State.reg_setReg_same (s : State) (r : Reg) (w : Word) : (s.setReg r w).reg r = w :=
  mget_mset_same ..

theorem State.reg_setReg_other (s : State) {r q : Reg} (w : Word) (h : r.addr ≠ q.addr) :
    (s.setReg r w).reg q = s.reg q :=
  mget_mset_default _ _ _ _ h

theorem State.reg_writeReg_same (s : State) (r : Reg) (w : Word) : (s.writeReg r w).reg r = r.written (s.reg r) w :=
  s.reg_setReg_same r _

theorem State.reg_writeReg_other (s : State) {r q : Reg} (w : Word) (h : r.addr ≠ q.addr) :
    (s.writeReg r w).reg q = s.reg q :=
  s.reg_setReg_other _ h

/-- A software write, bit by bit (R8): RW bits take the value, W1C bits written 1 clear, all others stay. -/
theorem Reg.getLsbD_written (r : Reg) (old w : Word) (i : Nat) :
    (r.written old w).getLsbD i
      = (((old.getLsbD i && !r.rw.getLsbD i) || (w.getLsbD i && r.rw.getLsbD i)) && !(w.getLsbD i && r.w1c.getLsbD i)) := by
  unfold Reg.written
  by_cases h : i < 32
  · simp [h]
  · have hw : ∀ x : Word, x.getLsbD i = false := fun x => BitVec.getLsbD_of_ge x i (by omega)
    simp [hw]

theorem State.bit_raise_same (s : State) (r : Reg) {i : Nat} (h : i < 32) : (s.raise r i).bit r i = true := by
  unfold State.bit State.raise
  rw [State.reg_setReg_same, wbit_eq]
  simp [getLsbD_oneBit h]

theorem State.bit_lower_same (s : State) (r : Reg) {i : Nat} (h : i < 32) : (s.lower r i).bit r i = false := by
  unfold State.bit State.lower
  rw [State.reg_setReg_same, wbit_eq]
  simp [getLsbD_oneBit h, h]

theorem State.bit_raise_other (s : State) (r : Reg) {i j : Nat} (hi : i < 32) (h : j ≠ i) :
    (s.raise r i).bit r j = s.bit r j := by
  unfold State.bit State.raise
  rw [State.reg_setReg_same, wbit_eq, wbit_eq]
  simp [getLsbD_oneBit hi, h]

theorem State.bit_lower_other (s : State) (r : Reg) {i j : Nat} (hi : i < 32) (h : j ≠ i) :
    (s.lower r i).bit r j = s.bit r j := by
  unfold State.bit State.lower
  rw [State.reg_setReg_same, wbit_eq, wbit_eq]
  by_cases hj : j < 32
  · rw [BitVec.getLsbD_and, BitVec.getLsbD_not, getLsbD_oneBit hi]
    simp [h, hj]
  · have hw : ∀ x : Word, x.getLsbD j = false := fun x => BitVec.getLsbD_of_ge x j (by omega)
    simp [hw]

theorem State.reg_raise_other (s : State) {r q : Reg} (i : Nat) (h : r.addr ≠ q.addr) : (s.raise r i).reg q = s.reg q :=
  s.reg_setReg_other _ h

theorem State.reg_lower_other (s : State) {r q : Reg} (i : Nat) (h : r.addr ≠ q.addr) : (s.lower r i).reg q = s.reg q :=
  s.reg_setReg_other _ h

theorem State.ctr_addCtr_same (s : State) (r : Reg) (n : Nat) : (s.addCtr r n).ctr r = s.ctr r + BitVec.ofNat 64 n :=
  mget_mset_same ..

theorem State.ctr_addCtr_other (s : State) {r q : Reg} (n : Nat) (h : r.addr ≠ q.addr) : (s.addCtr r n).ctr q = s.ctr q :=
  mget_mset_default _ _ _ _ h

/-! ### Records by index -/

@[simp] theorem State.core_setCore_same (s : State) (i : Nat) (k : Core) : (s.setCore i k).core i = k :=
  mget_mset_same ..

theorem State.core_setCore_other (s : State) {i j : Nat} (k : Core) (h : i ≠ j) : (s.setCore i k).core j = s.core j :=
  mget_mset_other _ _ _ h

@[simp] theorem State.ctx_setCtx_same (s : State) (i : Nat) (k : Ctx) : (s.setCtx i k).ctx i = k :=
  mget_mset_same ..

theorem State.ctx_setCtx_other (s : State) {i j : Nat} (k : Ctx) (h : i ≠ j) : (s.setCtx i k).ctx j = s.ctx j :=
  mget_mset_other _ _ _ h

@[simp] theorem State.shutter_setShutter_same (s : State) (i : Nat) (k : Shutter) : (s.setShutter i k).shutter i = k :=
  mget_mset_same ..

theorem State.shutter_setShutter_other (s : State) {i j : Nat} (k : Shutter) (h : i ≠ j) : (s.setShutter i k).shutter j = s.shutter j :=
  mget_mset_other _ _ _ h

@[simp] theorem State.job_setJob_same (s : State) (i : Nat) (k : Job) : (s.setJob i k).job i = k :=
  mget_mset_same ..

theorem State.job_setJob_other (s : State) {i j : Nat} (k : Job) (h : i ≠ j) : (s.setJob i k).job j = s.job j :=
  mget_mset_other _ _ _ h

@[simp] theorem State.group_setGroup_same (s : State) (i : Nat) (k : Group) : (s.setGroup i k).group i = k :=
  mget_mset_same ..

theorem State.group_setGroup_other (s : State) {i j : Nat} (k : Group) (h : i ≠ j) : (s.setGroup i k).group j = s.group j :=
  mget_mset_other _ _ _ h

@[simp] theorem State.link_setLink_same (s : State) (n l : Nat) (k : Link) : (s.setLink n l k).link n l = k :=
  mget_mset_same ..

theorem State.link_setLink_other (s : State) {n l n' l' : Nat} (k : Link) (h : lk n l ≠ lk n' l') :
    (s.setLink n l k).link n' l' = s.link n' l' :=
  mget_mset_other _ _ _ h

@[simp] theorem State.egr_setEgr_same (s : State) (n l : Nat) (k : Egress) : (s.setEgr n l k).egr n l = k :=
  mget_mset_same ..

theorem State.egr_setEgr_other (s : State) {n l n' l' : Nat} (k : Egress) (h : lk n l ≠ lk n' l') :
    (s.setEgr n l k).egr n' l' = s.egr n' l' :=
  mget_mset_other _ _ _ h

@[simp] theorem State.eth_setEth_same (s : State) (n l : Nat) (k : Eth) : (s.setEth n l k).eth n l = k :=
  mget_mset_same ..

theorem State.eth_setEth_other (s : State) {n l n' l' : Nat} (k : Eth) (h : lk n l ≠ lk n' l') :
    (s.setEth n l k).eth n' l' = s.eth n' l' :=
  mget_mset_other _ _ _ h

@[simp] theorem State.sem_setSem_same (s : State) (u i : Nat) (w : Word) : (s.setSem u i w).sem u i = w :=
  mget_mset_same ..

theorem State.sem_setSem_other (s : State) {u i u' i' : Nat} (w : Word) (h : 1024 * u + i ≠ 1024 * u' + i') :
    (s.setSem u i w).sem u' i' = s.sem u' i' :=
  mget_mset_other _ _ _ h

/-! ### One lemma per field per update -/

@[simp] theorem State.setReg_pending (s : State) (r : Reg) (w : Word) : (s.setReg r w).pending = s.pending := rfl
@[simp] theorem State.setReg_variant (s : State) (r : Reg) (w : Word) : (s.setReg r w).variant = s.variant := rfl
@[simp] theorem State.setReg_dev (s : State) (r : Reg) (w : Word) : (s.setReg r w).dev = s.dev := rfl
@[simp] theorem State.setReg_cnt (s : State) (r : Reg) (w : Word) : (s.setReg r w).cnt = s.cnt := rfl
@[simp] theorem State.setReg_latch (s : State) (r : Reg) (w : Word) : (s.setReg r w).latch = s.latch := rfl
@[simp] theorem State.setReg_busData (s : State) (r : Reg) (w : Word) : (s.setReg r w).busData = s.busData := rfl
@[simp] theorem State.setReg_dpa (s : State) (r : Reg) (w : Word) : (s.setReg r w).dpa = s.dpa := rfl
@[simp] theorem State.setReg_ls (s : State) (r : Reg) (w : Word) : (s.setReg r w).ls = s.ls := rfl
@[simp] theorem State.setReg_acc (s : State) (r : Reg) (w : Word) : (s.setReg r w).acc = s.acc := rfl
@[simp] theorem State.setReg_accFlags (s : State) (r : Reg) (w : Word) : (s.setReg r w).accFlags = s.accFlags := rfl
@[simp] theorem State.setReg_accBank1 (s : State) (r : Reg) (w : Word) : (s.setReg r w).accBank1 = s.accBank1 := rfl
@[simp] theorem State.setReg_sems (s : State) (r : Reg) (w : Word) : (s.setReg r w).sems = s.sems := rfl
@[simp] theorem State.setReg_ctxMem (s : State) (r : Reg) (w : Word) : (s.setReg r w).ctxMem = s.ctxMem := rfl
@[simp] theorem State.setReg_prog (s : State) (r : Reg) (w : Word) : (s.setReg r w).prog = s.prog := rfl
@[simp] theorem State.setReg_progValid (s : State) (r : Reg) (w : Word) : (s.setReg r w).progValid = s.progValid := rfl
@[simp] theorem State.setReg_bar2 (s : State) (r : Reg) (w : Word) : (s.setReg r w).bar2 = s.bar2 := rfl
@[simp] theorem State.setReg_mbx (s : State) (r : Reg) (w : Word) : (s.setReg r w).mbx = s.mbx := rfl
@[simp] theorem State.setReg_ue (s : State) (r : Reg) (w : Word) : (s.setReg r w).ue = s.ue := rfl
@[simp] theorem State.setReg_xbar (s : State) (r : Reg) (w : Word) : (s.setReg r w).xbar = s.xbar := rfl
@[simp] theorem State.setReg_links (s : State) (r : Reg) (w : Word) : (s.setReg r w).links = s.links := rfl
@[simp] theorem State.setReg_egress (s : State) (r : Reg) (w : Word) : (s.setReg r w).egress = s.egress := rfl
@[simp] theorem State.setReg_eths (s : State) (r : Reg) (w : Word) : (s.setReg r w).eths = s.eths := rfl
@[simp] theorem State.setReg_shpT (s : State) (r : Reg) (w : Word) : (s.setReg r w).shpT = s.shpT := rfl
@[simp] theorem State.setReg_circT (s : State) (r : Reg) (w : Word) : (s.setReg r w).circT = s.circT := rfl
@[simp] theorem State.setReg_polT (s : State) (r : Reg) (w : Word) : (s.setReg r w).polT = s.polT := rfl
@[simp] theorem State.setReg_ethDrop (s : State) (r : Reg) (w : Word) : (s.setReg r w).ethDrop = s.ethDrop := rfl
@[simp] theorem State.setReg_hist (s : State) (r : Reg) (w : Word) : (s.setReg r w).hist = s.hist := rfl
@[simp] theorem State.setReg_sampleN (s : State) (r : Reg) (w : Word) : (s.setReg r w).sampleN = s.sampleN := rfl
@[simp] theorem State.setReg_ring (s : State) (r : Reg) (w : Word) : (s.setReg r w).ring = s.ring := rfl
@[simp] theorem State.setReg_attach (s : State) (r : Reg) (w : Word) : (s.setReg r w).attach = s.attach := rfl
@[simp] theorem State.setReg_msgs (s : State) (r : Reg) (w : Word) : (s.setReg r w).msgs = s.msgs := rfl
@[simp] theorem State.setReg_msgSeq (s : State) (r : Reg) (w : Word) : (s.setReg r w).msgSeq = s.msgSeq := rfl
@[simp] theorem State.setReg_inbox (s : State) (r : Reg) (w : Word) : (s.setReg r w).inbox = s.inbox := rfl
@[simp] theorem State.setReg_commits (s : State) (r : Reg) (w : Word) : (s.setReg r w).commits = s.commits := rfl
@[simp] theorem State.setReg_trackers (s : State) (r : Reg) (w : Word) : (s.setReg r w).trackers = s.trackers := rfl
@[simp] theorem State.setReg_ctxs (s : State) (r : Reg) (w : Word) : (s.setReg r w).ctxs = s.ctxs := rfl
@[simp] theorem State.setReg_accepted (s : State) (r : Reg) (w : Word) : (s.setReg r w).accepted = s.accepted := rfl
@[simp] theorem State.setReg_rrEmit (s : State) (r : Reg) (w : Word) : (s.setReg r w).rrEmit = s.rrEmit := rfl
@[simp] theorem State.setReg_cores (s : State) (r : Reg) (w : Word) : (s.setReg r w).cores = s.cores := rfl
@[simp] theorem State.setReg_colls (s : State) (r : Reg) (w : Word) : (s.setReg r w).colls = s.colls := rfl
@[simp] theorem State.setReg_owed (s : State) (r : Reg) (w : Word) : (s.setReg r w).owed = s.owed := rfl
@[simp] theorem State.setReg_fetches (s : State) (r : Reg) (w : Word) : (s.setReg r w).fetches = s.fetches := rfl
@[simp] theorem State.setReg_wbs (s : State) (r : Reg) (w : Word) : (s.setReg r w).wbs = s.wbs := rfl
@[simp] theorem State.setReg_atu (s : State) (r : Reg) (w : Word) : (s.setReg r w).atu = s.atu := rfl
@[simp] theorem State.setReg_atuBusy (s : State) (r : Reg) (w : Word) : (s.setReg r w).atuBusy = s.atuBusy := rfl
@[simp] theorem State.setReg_poolUsed (s : State) (r : Reg) (w : Word) : (s.setReg r w).poolUsed = s.poolUsed := rfl
@[simp] theorem State.setReg_time (s : State) (r : Reg) (w : Word) : (s.setReg r w).time = s.time := rfl
@[simp] theorem State.setReg_shutters (s : State) (r : Reg) (w : Word) : (s.setReg r w).shutters = s.shutters := rfl
@[simp] theorem State.setReg_jobs (s : State) (r : Reg) (w : Word) : (s.setReg r w).jobs = s.jobs := rfl
@[simp] theorem State.setReg_active (s : State) (r : Reg) (w : Word) : (s.setReg r w).active = s.active := rfl
@[simp] theorem State.setReg_shadow (s : State) (r : Reg) (w : Word) : (s.setReg r w).shadow = s.shadow := rfl
@[simp] theorem State.setReg_dsp (s : State) (r : Reg) (w : Word) : (s.setReg r w).dsp = s.dsp := rfl
@[simp] theorem State.setReg_mgmt (s : State) (r : Reg) (w : Word) : (s.setReg r w).mgmt = s.mgmt := rfl
@[simp] theorem State.setReg_sec (s : State) (r : Reg) (w : Word) : (s.setReg r w).sec = s.sec := rfl
@[simp] theorem State.setReg_power (s : State) (r : Reg) (w : Word) : (s.setReg r w).power = s.power := rfl
@[simp] theorem State.setReg_i3c (s : State) (r : Reg) (w : Word) : (s.setReg r w).i3c = s.i3c := rfl
@[simp] theorem State.setReg_jtag (s : State) (r : Reg) (w : Word) : (s.setReg r w).jtag = s.jtag := rfl
@[simp] theorem State.setReg_pcie (s : State) (r : Reg) (w : Word) : (s.setReg r w).pcie = s.pcie := rfl
@[simp] theorem State.setReg_nextId (s : State) (r : Reg) (w : Word) : (s.setReg r w).nextId = s.nextId := rfl
@[simp] theorem State.setReg_freeCtr (s : State) (r : Reg) (w : Word) : (s.setReg r w).freeCtr = s.freeCtr := rfl

@[simp] theorem State.addCtr_pending (s : State) (r : Reg) (n : Nat) : (s.addCtr r n).pending = s.pending := rfl
@[simp] theorem State.addCtr_variant (s : State) (r : Reg) (n : Nat) : (s.addCtr r n).variant = s.variant := rfl
@[simp] theorem State.addCtr_dev (s : State) (r : Reg) (n : Nat) : (s.addCtr r n).dev = s.dev := rfl
@[simp] theorem State.addCtr_regs (s : State) (r : Reg) (n : Nat) : (s.addCtr r n).regs = s.regs := rfl
@[simp] theorem State.addCtr_latch (s : State) (r : Reg) (n : Nat) : (s.addCtr r n).latch = s.latch := rfl
@[simp] theorem State.addCtr_busData (s : State) (r : Reg) (n : Nat) : (s.addCtr r n).busData = s.busData := rfl
@[simp] theorem State.addCtr_dpa (s : State) (r : Reg) (n : Nat) : (s.addCtr r n).dpa = s.dpa := rfl
@[simp] theorem State.addCtr_ls (s : State) (r : Reg) (n : Nat) : (s.addCtr r n).ls = s.ls := rfl
@[simp] theorem State.addCtr_acc (s : State) (r : Reg) (n : Nat) : (s.addCtr r n).acc = s.acc := rfl
@[simp] theorem State.addCtr_accFlags (s : State) (r : Reg) (n : Nat) : (s.addCtr r n).accFlags = s.accFlags := rfl
@[simp] theorem State.addCtr_accBank1 (s : State) (r : Reg) (n : Nat) : (s.addCtr r n).accBank1 = s.accBank1 := rfl
@[simp] theorem State.addCtr_sems (s : State) (r : Reg) (n : Nat) : (s.addCtr r n).sems = s.sems := rfl
@[simp] theorem State.addCtr_ctxMem (s : State) (r : Reg) (n : Nat) : (s.addCtr r n).ctxMem = s.ctxMem := rfl
@[simp] theorem State.addCtr_prog (s : State) (r : Reg) (n : Nat) : (s.addCtr r n).prog = s.prog := rfl
@[simp] theorem State.addCtr_progValid (s : State) (r : Reg) (n : Nat) : (s.addCtr r n).progValid = s.progValid := rfl
@[simp] theorem State.addCtr_bar2 (s : State) (r : Reg) (n : Nat) : (s.addCtr r n).bar2 = s.bar2 := rfl
@[simp] theorem State.addCtr_mbx (s : State) (r : Reg) (n : Nat) : (s.addCtr r n).mbx = s.mbx := rfl
@[simp] theorem State.addCtr_ue (s : State) (r : Reg) (n : Nat) : (s.addCtr r n).ue = s.ue := rfl
@[simp] theorem State.addCtr_xbar (s : State) (r : Reg) (n : Nat) : (s.addCtr r n).xbar = s.xbar := rfl
@[simp] theorem State.addCtr_links (s : State) (r : Reg) (n : Nat) : (s.addCtr r n).links = s.links := rfl
@[simp] theorem State.addCtr_egress (s : State) (r : Reg) (n : Nat) : (s.addCtr r n).egress = s.egress := rfl
@[simp] theorem State.addCtr_eths (s : State) (r : Reg) (n : Nat) : (s.addCtr r n).eths = s.eths := rfl
@[simp] theorem State.addCtr_shpT (s : State) (r : Reg) (n : Nat) : (s.addCtr r n).shpT = s.shpT := rfl
@[simp] theorem State.addCtr_circT (s : State) (r : Reg) (n : Nat) : (s.addCtr r n).circT = s.circT := rfl
@[simp] theorem State.addCtr_polT (s : State) (r : Reg) (n : Nat) : (s.addCtr r n).polT = s.polT := rfl
@[simp] theorem State.addCtr_ethDrop (s : State) (r : Reg) (n : Nat) : (s.addCtr r n).ethDrop = s.ethDrop := rfl
@[simp] theorem State.addCtr_hist (s : State) (r : Reg) (n : Nat) : (s.addCtr r n).hist = s.hist := rfl
@[simp] theorem State.addCtr_sampleN (s : State) (r : Reg) (n : Nat) : (s.addCtr r n).sampleN = s.sampleN := rfl
@[simp] theorem State.addCtr_ring (s : State) (r : Reg) (n : Nat) : (s.addCtr r n).ring = s.ring := rfl
@[simp] theorem State.addCtr_attach (s : State) (r : Reg) (n : Nat) : (s.addCtr r n).attach = s.attach := rfl
@[simp] theorem State.addCtr_msgs (s : State) (r : Reg) (n : Nat) : (s.addCtr r n).msgs = s.msgs := rfl
@[simp] theorem State.addCtr_msgSeq (s : State) (r : Reg) (n : Nat) : (s.addCtr r n).msgSeq = s.msgSeq := rfl
@[simp] theorem State.addCtr_inbox (s : State) (r : Reg) (n : Nat) : (s.addCtr r n).inbox = s.inbox := rfl
@[simp] theorem State.addCtr_commits (s : State) (r : Reg) (n : Nat) : (s.addCtr r n).commits = s.commits := rfl
@[simp] theorem State.addCtr_trackers (s : State) (r : Reg) (n : Nat) : (s.addCtr r n).trackers = s.trackers := rfl
@[simp] theorem State.addCtr_ctxs (s : State) (r : Reg) (n : Nat) : (s.addCtr r n).ctxs = s.ctxs := rfl
@[simp] theorem State.addCtr_accepted (s : State) (r : Reg) (n : Nat) : (s.addCtr r n).accepted = s.accepted := rfl
@[simp] theorem State.addCtr_rrEmit (s : State) (r : Reg) (n : Nat) : (s.addCtr r n).rrEmit = s.rrEmit := rfl
@[simp] theorem State.addCtr_cores (s : State) (r : Reg) (n : Nat) : (s.addCtr r n).cores = s.cores := rfl
@[simp] theorem State.addCtr_colls (s : State) (r : Reg) (n : Nat) : (s.addCtr r n).colls = s.colls := rfl
@[simp] theorem State.addCtr_owed (s : State) (r : Reg) (n : Nat) : (s.addCtr r n).owed = s.owed := rfl
@[simp] theorem State.addCtr_fetches (s : State) (r : Reg) (n : Nat) : (s.addCtr r n).fetches = s.fetches := rfl
@[simp] theorem State.addCtr_wbs (s : State) (r : Reg) (n : Nat) : (s.addCtr r n).wbs = s.wbs := rfl
@[simp] theorem State.addCtr_atu (s : State) (r : Reg) (n : Nat) : (s.addCtr r n).atu = s.atu := rfl
@[simp] theorem State.addCtr_atuBusy (s : State) (r : Reg) (n : Nat) : (s.addCtr r n).atuBusy = s.atuBusy := rfl
@[simp] theorem State.addCtr_poolUsed (s : State) (r : Reg) (n : Nat) : (s.addCtr r n).poolUsed = s.poolUsed := rfl
@[simp] theorem State.addCtr_time (s : State) (r : Reg) (n : Nat) : (s.addCtr r n).time = s.time := rfl
@[simp] theorem State.addCtr_shutters (s : State) (r : Reg) (n : Nat) : (s.addCtr r n).shutters = s.shutters := rfl
@[simp] theorem State.addCtr_jobs (s : State) (r : Reg) (n : Nat) : (s.addCtr r n).jobs = s.jobs := rfl
@[simp] theorem State.addCtr_active (s : State) (r : Reg) (n : Nat) : (s.addCtr r n).active = s.active := rfl
@[simp] theorem State.addCtr_shadow (s : State) (r : Reg) (n : Nat) : (s.addCtr r n).shadow = s.shadow := rfl
@[simp] theorem State.addCtr_dsp (s : State) (r : Reg) (n : Nat) : (s.addCtr r n).dsp = s.dsp := rfl
@[simp] theorem State.addCtr_mgmt (s : State) (r : Reg) (n : Nat) : (s.addCtr r n).mgmt = s.mgmt := rfl
@[simp] theorem State.addCtr_sec (s : State) (r : Reg) (n : Nat) : (s.addCtr r n).sec = s.sec := rfl
@[simp] theorem State.addCtr_power (s : State) (r : Reg) (n : Nat) : (s.addCtr r n).power = s.power := rfl
@[simp] theorem State.addCtr_i3c (s : State) (r : Reg) (n : Nat) : (s.addCtr r n).i3c = s.i3c := rfl
@[simp] theorem State.addCtr_jtag (s : State) (r : Reg) (n : Nat) : (s.addCtr r n).jtag = s.jtag := rfl
@[simp] theorem State.addCtr_pcie (s : State) (r : Reg) (n : Nat) : (s.addCtr r n).pcie = s.pcie := rfl
@[simp] theorem State.addCtr_nextId (s : State) (r : Reg) (n : Nat) : (s.addCtr r n).nextId = s.nextId := rfl
@[simp] theorem State.addCtr_freeCtr (s : State) (r : Reg) (n : Nat) : (s.addCtr r n).freeCtr = s.freeCtr := rfl

@[simp] theorem State.setLink_pending (s : State) (n l : Nat) (k : Link) : (s.setLink n l k).pending = s.pending := rfl
@[simp] theorem State.setLink_variant (s : State) (n l : Nat) (k : Link) : (s.setLink n l k).variant = s.variant := rfl
@[simp] theorem State.setLink_dev (s : State) (n l : Nat) (k : Link) : (s.setLink n l k).dev = s.dev := rfl
@[simp] theorem State.setLink_regs (s : State) (n l : Nat) (k : Link) : (s.setLink n l k).regs = s.regs := rfl
@[simp] theorem State.setLink_cnt (s : State) (n l : Nat) (k : Link) : (s.setLink n l k).cnt = s.cnt := rfl
@[simp] theorem State.setLink_latch (s : State) (n l : Nat) (k : Link) : (s.setLink n l k).latch = s.latch := rfl
@[simp] theorem State.setLink_busData (s : State) (n l : Nat) (k : Link) : (s.setLink n l k).busData = s.busData := rfl
@[simp] theorem State.setLink_dpa (s : State) (n l : Nat) (k : Link) : (s.setLink n l k).dpa = s.dpa := rfl
@[simp] theorem State.setLink_ls (s : State) (n l : Nat) (k : Link) : (s.setLink n l k).ls = s.ls := rfl
@[simp] theorem State.setLink_acc (s : State) (n l : Nat) (k : Link) : (s.setLink n l k).acc = s.acc := rfl
@[simp] theorem State.setLink_accFlags (s : State) (n l : Nat) (k : Link) : (s.setLink n l k).accFlags = s.accFlags := rfl
@[simp] theorem State.setLink_accBank1 (s : State) (n l : Nat) (k : Link) : (s.setLink n l k).accBank1 = s.accBank1 := rfl
@[simp] theorem State.setLink_sems (s : State) (n l : Nat) (k : Link) : (s.setLink n l k).sems = s.sems := rfl
@[simp] theorem State.setLink_ctxMem (s : State) (n l : Nat) (k : Link) : (s.setLink n l k).ctxMem = s.ctxMem := rfl
@[simp] theorem State.setLink_prog (s : State) (n l : Nat) (k : Link) : (s.setLink n l k).prog = s.prog := rfl
@[simp] theorem State.setLink_progValid (s : State) (n l : Nat) (k : Link) : (s.setLink n l k).progValid = s.progValid := rfl
@[simp] theorem State.setLink_bar2 (s : State) (n l : Nat) (k : Link) : (s.setLink n l k).bar2 = s.bar2 := rfl
@[simp] theorem State.setLink_mbx (s : State) (n l : Nat) (k : Link) : (s.setLink n l k).mbx = s.mbx := rfl
@[simp] theorem State.setLink_ue (s : State) (n l : Nat) (k : Link) : (s.setLink n l k).ue = s.ue := rfl
@[simp] theorem State.setLink_xbar (s : State) (n l : Nat) (k : Link) : (s.setLink n l k).xbar = s.xbar := rfl
@[simp] theorem State.setLink_egress (s : State) (n l : Nat) (k : Link) : (s.setLink n l k).egress = s.egress := rfl
@[simp] theorem State.setLink_eths (s : State) (n l : Nat) (k : Link) : (s.setLink n l k).eths = s.eths := rfl
@[simp] theorem State.setLink_shpT (s : State) (n l : Nat) (k : Link) : (s.setLink n l k).shpT = s.shpT := rfl
@[simp] theorem State.setLink_circT (s : State) (n l : Nat) (k : Link) : (s.setLink n l k).circT = s.circT := rfl
@[simp] theorem State.setLink_polT (s : State) (n l : Nat) (k : Link) : (s.setLink n l k).polT = s.polT := rfl
@[simp] theorem State.setLink_ethDrop (s : State) (n l : Nat) (k : Link) : (s.setLink n l k).ethDrop = s.ethDrop := rfl
@[simp] theorem State.setLink_hist (s : State) (n l : Nat) (k : Link) : (s.setLink n l k).hist = s.hist := rfl
@[simp] theorem State.setLink_sampleN (s : State) (n l : Nat) (k : Link) : (s.setLink n l k).sampleN = s.sampleN := rfl
@[simp] theorem State.setLink_ring (s : State) (n l : Nat) (k : Link) : (s.setLink n l k).ring = s.ring := rfl
@[simp] theorem State.setLink_attach (s : State) (n l : Nat) (k : Link) : (s.setLink n l k).attach = s.attach := rfl
@[simp] theorem State.setLink_msgs (s : State) (n l : Nat) (k : Link) : (s.setLink n l k).msgs = s.msgs := rfl
@[simp] theorem State.setLink_msgSeq (s : State) (n l : Nat) (k : Link) : (s.setLink n l k).msgSeq = s.msgSeq := rfl
@[simp] theorem State.setLink_inbox (s : State) (n l : Nat) (k : Link) : (s.setLink n l k).inbox = s.inbox := rfl
@[simp] theorem State.setLink_commits (s : State) (n l : Nat) (k : Link) : (s.setLink n l k).commits = s.commits := rfl
@[simp] theorem State.setLink_trackers (s : State) (n l : Nat) (k : Link) : (s.setLink n l k).trackers = s.trackers := rfl
@[simp] theorem State.setLink_ctxs (s : State) (n l : Nat) (k : Link) : (s.setLink n l k).ctxs = s.ctxs := rfl
@[simp] theorem State.setLink_accepted (s : State) (n l : Nat) (k : Link) : (s.setLink n l k).accepted = s.accepted := rfl
@[simp] theorem State.setLink_rrEmit (s : State) (n l : Nat) (k : Link) : (s.setLink n l k).rrEmit = s.rrEmit := rfl
@[simp] theorem State.setLink_cores (s : State) (n l : Nat) (k : Link) : (s.setLink n l k).cores = s.cores := rfl
@[simp] theorem State.setLink_colls (s : State) (n l : Nat) (k : Link) : (s.setLink n l k).colls = s.colls := rfl
@[simp] theorem State.setLink_owed (s : State) (n l : Nat) (k : Link) : (s.setLink n l k).owed = s.owed := rfl
@[simp] theorem State.setLink_fetches (s : State) (n l : Nat) (k : Link) : (s.setLink n l k).fetches = s.fetches := rfl
@[simp] theorem State.setLink_wbs (s : State) (n l : Nat) (k : Link) : (s.setLink n l k).wbs = s.wbs := rfl
@[simp] theorem State.setLink_atu (s : State) (n l : Nat) (k : Link) : (s.setLink n l k).atu = s.atu := rfl
@[simp] theorem State.setLink_atuBusy (s : State) (n l : Nat) (k : Link) : (s.setLink n l k).atuBusy = s.atuBusy := rfl
@[simp] theorem State.setLink_poolUsed (s : State) (n l : Nat) (k : Link) : (s.setLink n l k).poolUsed = s.poolUsed := rfl
@[simp] theorem State.setLink_time (s : State) (n l : Nat) (k : Link) : (s.setLink n l k).time = s.time := rfl
@[simp] theorem State.setLink_shutters (s : State) (n l : Nat) (k : Link) : (s.setLink n l k).shutters = s.shutters := rfl
@[simp] theorem State.setLink_jobs (s : State) (n l : Nat) (k : Link) : (s.setLink n l k).jobs = s.jobs := rfl
@[simp] theorem State.setLink_active (s : State) (n l : Nat) (k : Link) : (s.setLink n l k).active = s.active := rfl
@[simp] theorem State.setLink_shadow (s : State) (n l : Nat) (k : Link) : (s.setLink n l k).shadow = s.shadow := rfl
@[simp] theorem State.setLink_dsp (s : State) (n l : Nat) (k : Link) : (s.setLink n l k).dsp = s.dsp := rfl
@[simp] theorem State.setLink_mgmt (s : State) (n l : Nat) (k : Link) : (s.setLink n l k).mgmt = s.mgmt := rfl
@[simp] theorem State.setLink_sec (s : State) (n l : Nat) (k : Link) : (s.setLink n l k).sec = s.sec := rfl
@[simp] theorem State.setLink_power (s : State) (n l : Nat) (k : Link) : (s.setLink n l k).power = s.power := rfl
@[simp] theorem State.setLink_i3c (s : State) (n l : Nat) (k : Link) : (s.setLink n l k).i3c = s.i3c := rfl
@[simp] theorem State.setLink_jtag (s : State) (n l : Nat) (k : Link) : (s.setLink n l k).jtag = s.jtag := rfl
@[simp] theorem State.setLink_pcie (s : State) (n l : Nat) (k : Link) : (s.setLink n l k).pcie = s.pcie := rfl
@[simp] theorem State.setLink_nextId (s : State) (n l : Nat) (k : Link) : (s.setLink n l k).nextId = s.nextId := rfl
@[simp] theorem State.setLink_freeCtr (s : State) (n l : Nat) (k : Link) : (s.setLink n l k).freeCtr = s.freeCtr := rfl

@[simp] theorem State.setEgr_pending (s : State) (n l : Nat) (k : Egress) : (s.setEgr n l k).pending = s.pending := rfl
@[simp] theorem State.setEgr_variant (s : State) (n l : Nat) (k : Egress) : (s.setEgr n l k).variant = s.variant := rfl
@[simp] theorem State.setEgr_dev (s : State) (n l : Nat) (k : Egress) : (s.setEgr n l k).dev = s.dev := rfl
@[simp] theorem State.setEgr_regs (s : State) (n l : Nat) (k : Egress) : (s.setEgr n l k).regs = s.regs := rfl
@[simp] theorem State.setEgr_cnt (s : State) (n l : Nat) (k : Egress) : (s.setEgr n l k).cnt = s.cnt := rfl
@[simp] theorem State.setEgr_latch (s : State) (n l : Nat) (k : Egress) : (s.setEgr n l k).latch = s.latch := rfl
@[simp] theorem State.setEgr_busData (s : State) (n l : Nat) (k : Egress) : (s.setEgr n l k).busData = s.busData := rfl
@[simp] theorem State.setEgr_dpa (s : State) (n l : Nat) (k : Egress) : (s.setEgr n l k).dpa = s.dpa := rfl
@[simp] theorem State.setEgr_ls (s : State) (n l : Nat) (k : Egress) : (s.setEgr n l k).ls = s.ls := rfl
@[simp] theorem State.setEgr_acc (s : State) (n l : Nat) (k : Egress) : (s.setEgr n l k).acc = s.acc := rfl
@[simp] theorem State.setEgr_accFlags (s : State) (n l : Nat) (k : Egress) : (s.setEgr n l k).accFlags = s.accFlags := rfl
@[simp] theorem State.setEgr_accBank1 (s : State) (n l : Nat) (k : Egress) : (s.setEgr n l k).accBank1 = s.accBank1 := rfl
@[simp] theorem State.setEgr_sems (s : State) (n l : Nat) (k : Egress) : (s.setEgr n l k).sems = s.sems := rfl
@[simp] theorem State.setEgr_ctxMem (s : State) (n l : Nat) (k : Egress) : (s.setEgr n l k).ctxMem = s.ctxMem := rfl
@[simp] theorem State.setEgr_prog (s : State) (n l : Nat) (k : Egress) : (s.setEgr n l k).prog = s.prog := rfl
@[simp] theorem State.setEgr_progValid (s : State) (n l : Nat) (k : Egress) : (s.setEgr n l k).progValid = s.progValid := rfl
@[simp] theorem State.setEgr_bar2 (s : State) (n l : Nat) (k : Egress) : (s.setEgr n l k).bar2 = s.bar2 := rfl
@[simp] theorem State.setEgr_mbx (s : State) (n l : Nat) (k : Egress) : (s.setEgr n l k).mbx = s.mbx := rfl
@[simp] theorem State.setEgr_ue (s : State) (n l : Nat) (k : Egress) : (s.setEgr n l k).ue = s.ue := rfl
@[simp] theorem State.setEgr_xbar (s : State) (n l : Nat) (k : Egress) : (s.setEgr n l k).xbar = s.xbar := rfl
@[simp] theorem State.setEgr_links (s : State) (n l : Nat) (k : Egress) : (s.setEgr n l k).links = s.links := rfl
@[simp] theorem State.setEgr_eths (s : State) (n l : Nat) (k : Egress) : (s.setEgr n l k).eths = s.eths := rfl
@[simp] theorem State.setEgr_shpT (s : State) (n l : Nat) (k : Egress) : (s.setEgr n l k).shpT = s.shpT := rfl
@[simp] theorem State.setEgr_circT (s : State) (n l : Nat) (k : Egress) : (s.setEgr n l k).circT = s.circT := rfl
@[simp] theorem State.setEgr_polT (s : State) (n l : Nat) (k : Egress) : (s.setEgr n l k).polT = s.polT := rfl
@[simp] theorem State.setEgr_ethDrop (s : State) (n l : Nat) (k : Egress) : (s.setEgr n l k).ethDrop = s.ethDrop := rfl
@[simp] theorem State.setEgr_hist (s : State) (n l : Nat) (k : Egress) : (s.setEgr n l k).hist = s.hist := rfl
@[simp] theorem State.setEgr_sampleN (s : State) (n l : Nat) (k : Egress) : (s.setEgr n l k).sampleN = s.sampleN := rfl
@[simp] theorem State.setEgr_ring (s : State) (n l : Nat) (k : Egress) : (s.setEgr n l k).ring = s.ring := rfl
@[simp] theorem State.setEgr_attach (s : State) (n l : Nat) (k : Egress) : (s.setEgr n l k).attach = s.attach := rfl
@[simp] theorem State.setEgr_msgs (s : State) (n l : Nat) (k : Egress) : (s.setEgr n l k).msgs = s.msgs := rfl
@[simp] theorem State.setEgr_msgSeq (s : State) (n l : Nat) (k : Egress) : (s.setEgr n l k).msgSeq = s.msgSeq := rfl
@[simp] theorem State.setEgr_inbox (s : State) (n l : Nat) (k : Egress) : (s.setEgr n l k).inbox = s.inbox := rfl
@[simp] theorem State.setEgr_commits (s : State) (n l : Nat) (k : Egress) : (s.setEgr n l k).commits = s.commits := rfl
@[simp] theorem State.setEgr_trackers (s : State) (n l : Nat) (k : Egress) : (s.setEgr n l k).trackers = s.trackers := rfl
@[simp] theorem State.setEgr_ctxs (s : State) (n l : Nat) (k : Egress) : (s.setEgr n l k).ctxs = s.ctxs := rfl
@[simp] theorem State.setEgr_accepted (s : State) (n l : Nat) (k : Egress) : (s.setEgr n l k).accepted = s.accepted := rfl
@[simp] theorem State.setEgr_rrEmit (s : State) (n l : Nat) (k : Egress) : (s.setEgr n l k).rrEmit = s.rrEmit := rfl
@[simp] theorem State.setEgr_cores (s : State) (n l : Nat) (k : Egress) : (s.setEgr n l k).cores = s.cores := rfl
@[simp] theorem State.setEgr_colls (s : State) (n l : Nat) (k : Egress) : (s.setEgr n l k).colls = s.colls := rfl
@[simp] theorem State.setEgr_owed (s : State) (n l : Nat) (k : Egress) : (s.setEgr n l k).owed = s.owed := rfl
@[simp] theorem State.setEgr_fetches (s : State) (n l : Nat) (k : Egress) : (s.setEgr n l k).fetches = s.fetches := rfl
@[simp] theorem State.setEgr_wbs (s : State) (n l : Nat) (k : Egress) : (s.setEgr n l k).wbs = s.wbs := rfl
@[simp] theorem State.setEgr_atu (s : State) (n l : Nat) (k : Egress) : (s.setEgr n l k).atu = s.atu := rfl
@[simp] theorem State.setEgr_atuBusy (s : State) (n l : Nat) (k : Egress) : (s.setEgr n l k).atuBusy = s.atuBusy := rfl
@[simp] theorem State.setEgr_poolUsed (s : State) (n l : Nat) (k : Egress) : (s.setEgr n l k).poolUsed = s.poolUsed := rfl
@[simp] theorem State.setEgr_time (s : State) (n l : Nat) (k : Egress) : (s.setEgr n l k).time = s.time := rfl
@[simp] theorem State.setEgr_shutters (s : State) (n l : Nat) (k : Egress) : (s.setEgr n l k).shutters = s.shutters := rfl
@[simp] theorem State.setEgr_jobs (s : State) (n l : Nat) (k : Egress) : (s.setEgr n l k).jobs = s.jobs := rfl
@[simp] theorem State.setEgr_active (s : State) (n l : Nat) (k : Egress) : (s.setEgr n l k).active = s.active := rfl
@[simp] theorem State.setEgr_shadow (s : State) (n l : Nat) (k : Egress) : (s.setEgr n l k).shadow = s.shadow := rfl
@[simp] theorem State.setEgr_dsp (s : State) (n l : Nat) (k : Egress) : (s.setEgr n l k).dsp = s.dsp := rfl
@[simp] theorem State.setEgr_mgmt (s : State) (n l : Nat) (k : Egress) : (s.setEgr n l k).mgmt = s.mgmt := rfl
@[simp] theorem State.setEgr_sec (s : State) (n l : Nat) (k : Egress) : (s.setEgr n l k).sec = s.sec := rfl
@[simp] theorem State.setEgr_power (s : State) (n l : Nat) (k : Egress) : (s.setEgr n l k).power = s.power := rfl
@[simp] theorem State.setEgr_i3c (s : State) (n l : Nat) (k : Egress) : (s.setEgr n l k).i3c = s.i3c := rfl
@[simp] theorem State.setEgr_jtag (s : State) (n l : Nat) (k : Egress) : (s.setEgr n l k).jtag = s.jtag := rfl
@[simp] theorem State.setEgr_pcie (s : State) (n l : Nat) (k : Egress) : (s.setEgr n l k).pcie = s.pcie := rfl
@[simp] theorem State.setEgr_nextId (s : State) (n l : Nat) (k : Egress) : (s.setEgr n l k).nextId = s.nextId := rfl
@[simp] theorem State.setEgr_freeCtr (s : State) (n l : Nat) (k : Egress) : (s.setEgr n l k).freeCtr = s.freeCtr := rfl

@[simp] theorem State.setEth_pending (s : State) (n l : Nat) (k : Eth) : (s.setEth n l k).pending = s.pending := rfl
@[simp] theorem State.setEth_variant (s : State) (n l : Nat) (k : Eth) : (s.setEth n l k).variant = s.variant := rfl
@[simp] theorem State.setEth_dev (s : State) (n l : Nat) (k : Eth) : (s.setEth n l k).dev = s.dev := rfl
@[simp] theorem State.setEth_regs (s : State) (n l : Nat) (k : Eth) : (s.setEth n l k).regs = s.regs := rfl
@[simp] theorem State.setEth_cnt (s : State) (n l : Nat) (k : Eth) : (s.setEth n l k).cnt = s.cnt := rfl
@[simp] theorem State.setEth_latch (s : State) (n l : Nat) (k : Eth) : (s.setEth n l k).latch = s.latch := rfl
@[simp] theorem State.setEth_busData (s : State) (n l : Nat) (k : Eth) : (s.setEth n l k).busData = s.busData := rfl
@[simp] theorem State.setEth_dpa (s : State) (n l : Nat) (k : Eth) : (s.setEth n l k).dpa = s.dpa := rfl
@[simp] theorem State.setEth_ls (s : State) (n l : Nat) (k : Eth) : (s.setEth n l k).ls = s.ls := rfl
@[simp] theorem State.setEth_acc (s : State) (n l : Nat) (k : Eth) : (s.setEth n l k).acc = s.acc := rfl
@[simp] theorem State.setEth_accFlags (s : State) (n l : Nat) (k : Eth) : (s.setEth n l k).accFlags = s.accFlags := rfl
@[simp] theorem State.setEth_accBank1 (s : State) (n l : Nat) (k : Eth) : (s.setEth n l k).accBank1 = s.accBank1 := rfl
@[simp] theorem State.setEth_sems (s : State) (n l : Nat) (k : Eth) : (s.setEth n l k).sems = s.sems := rfl
@[simp] theorem State.setEth_ctxMem (s : State) (n l : Nat) (k : Eth) : (s.setEth n l k).ctxMem = s.ctxMem := rfl
@[simp] theorem State.setEth_prog (s : State) (n l : Nat) (k : Eth) : (s.setEth n l k).prog = s.prog := rfl
@[simp] theorem State.setEth_progValid (s : State) (n l : Nat) (k : Eth) : (s.setEth n l k).progValid = s.progValid := rfl
@[simp] theorem State.setEth_bar2 (s : State) (n l : Nat) (k : Eth) : (s.setEth n l k).bar2 = s.bar2 := rfl
@[simp] theorem State.setEth_mbx (s : State) (n l : Nat) (k : Eth) : (s.setEth n l k).mbx = s.mbx := rfl
@[simp] theorem State.setEth_ue (s : State) (n l : Nat) (k : Eth) : (s.setEth n l k).ue = s.ue := rfl
@[simp] theorem State.setEth_xbar (s : State) (n l : Nat) (k : Eth) : (s.setEth n l k).xbar = s.xbar := rfl
@[simp] theorem State.setEth_links (s : State) (n l : Nat) (k : Eth) : (s.setEth n l k).links = s.links := rfl
@[simp] theorem State.setEth_egress (s : State) (n l : Nat) (k : Eth) : (s.setEth n l k).egress = s.egress := rfl
@[simp] theorem State.setEth_shpT (s : State) (n l : Nat) (k : Eth) : (s.setEth n l k).shpT = s.shpT := rfl
@[simp] theorem State.setEth_circT (s : State) (n l : Nat) (k : Eth) : (s.setEth n l k).circT = s.circT := rfl
@[simp] theorem State.setEth_polT (s : State) (n l : Nat) (k : Eth) : (s.setEth n l k).polT = s.polT := rfl
@[simp] theorem State.setEth_ethDrop (s : State) (n l : Nat) (k : Eth) : (s.setEth n l k).ethDrop = s.ethDrop := rfl
@[simp] theorem State.setEth_hist (s : State) (n l : Nat) (k : Eth) : (s.setEth n l k).hist = s.hist := rfl
@[simp] theorem State.setEth_sampleN (s : State) (n l : Nat) (k : Eth) : (s.setEth n l k).sampleN = s.sampleN := rfl
@[simp] theorem State.setEth_ring (s : State) (n l : Nat) (k : Eth) : (s.setEth n l k).ring = s.ring := rfl
@[simp] theorem State.setEth_attach (s : State) (n l : Nat) (k : Eth) : (s.setEth n l k).attach = s.attach := rfl
@[simp] theorem State.setEth_msgs (s : State) (n l : Nat) (k : Eth) : (s.setEth n l k).msgs = s.msgs := rfl
@[simp] theorem State.setEth_msgSeq (s : State) (n l : Nat) (k : Eth) : (s.setEth n l k).msgSeq = s.msgSeq := rfl
@[simp] theorem State.setEth_inbox (s : State) (n l : Nat) (k : Eth) : (s.setEth n l k).inbox = s.inbox := rfl
@[simp] theorem State.setEth_commits (s : State) (n l : Nat) (k : Eth) : (s.setEth n l k).commits = s.commits := rfl
@[simp] theorem State.setEth_trackers (s : State) (n l : Nat) (k : Eth) : (s.setEth n l k).trackers = s.trackers := rfl
@[simp] theorem State.setEth_ctxs (s : State) (n l : Nat) (k : Eth) : (s.setEth n l k).ctxs = s.ctxs := rfl
@[simp] theorem State.setEth_accepted (s : State) (n l : Nat) (k : Eth) : (s.setEth n l k).accepted = s.accepted := rfl
@[simp] theorem State.setEth_rrEmit (s : State) (n l : Nat) (k : Eth) : (s.setEth n l k).rrEmit = s.rrEmit := rfl
@[simp] theorem State.setEth_cores (s : State) (n l : Nat) (k : Eth) : (s.setEth n l k).cores = s.cores := rfl
@[simp] theorem State.setEth_colls (s : State) (n l : Nat) (k : Eth) : (s.setEth n l k).colls = s.colls := rfl
@[simp] theorem State.setEth_owed (s : State) (n l : Nat) (k : Eth) : (s.setEth n l k).owed = s.owed := rfl
@[simp] theorem State.setEth_fetches (s : State) (n l : Nat) (k : Eth) : (s.setEth n l k).fetches = s.fetches := rfl
@[simp] theorem State.setEth_wbs (s : State) (n l : Nat) (k : Eth) : (s.setEth n l k).wbs = s.wbs := rfl
@[simp] theorem State.setEth_atu (s : State) (n l : Nat) (k : Eth) : (s.setEth n l k).atu = s.atu := rfl
@[simp] theorem State.setEth_atuBusy (s : State) (n l : Nat) (k : Eth) : (s.setEth n l k).atuBusy = s.atuBusy := rfl
@[simp] theorem State.setEth_poolUsed (s : State) (n l : Nat) (k : Eth) : (s.setEth n l k).poolUsed = s.poolUsed := rfl
@[simp] theorem State.setEth_time (s : State) (n l : Nat) (k : Eth) : (s.setEth n l k).time = s.time := rfl
@[simp] theorem State.setEth_shutters (s : State) (n l : Nat) (k : Eth) : (s.setEth n l k).shutters = s.shutters := rfl
@[simp] theorem State.setEth_jobs (s : State) (n l : Nat) (k : Eth) : (s.setEth n l k).jobs = s.jobs := rfl
@[simp] theorem State.setEth_active (s : State) (n l : Nat) (k : Eth) : (s.setEth n l k).active = s.active := rfl
@[simp] theorem State.setEth_shadow (s : State) (n l : Nat) (k : Eth) : (s.setEth n l k).shadow = s.shadow := rfl
@[simp] theorem State.setEth_dsp (s : State) (n l : Nat) (k : Eth) : (s.setEth n l k).dsp = s.dsp := rfl
@[simp] theorem State.setEth_mgmt (s : State) (n l : Nat) (k : Eth) : (s.setEth n l k).mgmt = s.mgmt := rfl
@[simp] theorem State.setEth_sec (s : State) (n l : Nat) (k : Eth) : (s.setEth n l k).sec = s.sec := rfl
@[simp] theorem State.setEth_power (s : State) (n l : Nat) (k : Eth) : (s.setEth n l k).power = s.power := rfl
@[simp] theorem State.setEth_i3c (s : State) (n l : Nat) (k : Eth) : (s.setEth n l k).i3c = s.i3c := rfl
@[simp] theorem State.setEth_jtag (s : State) (n l : Nat) (k : Eth) : (s.setEth n l k).jtag = s.jtag := rfl
@[simp] theorem State.setEth_pcie (s : State) (n l : Nat) (k : Eth) : (s.setEth n l k).pcie = s.pcie := rfl
@[simp] theorem State.setEth_nextId (s : State) (n l : Nat) (k : Eth) : (s.setEth n l k).nextId = s.nextId := rfl
@[simp] theorem State.setEth_freeCtr (s : State) (n l : Nat) (k : Eth) : (s.setEth n l k).freeCtr = s.freeCtr := rfl

@[simp] theorem State.setCore_pending (s : State) (u : Nat) (k : Core) : (s.setCore u k).pending = s.pending := rfl
@[simp] theorem State.setCore_variant (s : State) (u : Nat) (k : Core) : (s.setCore u k).variant = s.variant := rfl
@[simp] theorem State.setCore_dev (s : State) (u : Nat) (k : Core) : (s.setCore u k).dev = s.dev := rfl
@[simp] theorem State.setCore_regs (s : State) (u : Nat) (k : Core) : (s.setCore u k).regs = s.regs := rfl
@[simp] theorem State.setCore_cnt (s : State) (u : Nat) (k : Core) : (s.setCore u k).cnt = s.cnt := rfl
@[simp] theorem State.setCore_latch (s : State) (u : Nat) (k : Core) : (s.setCore u k).latch = s.latch := rfl
@[simp] theorem State.setCore_busData (s : State) (u : Nat) (k : Core) : (s.setCore u k).busData = s.busData := rfl
@[simp] theorem State.setCore_dpa (s : State) (u : Nat) (k : Core) : (s.setCore u k).dpa = s.dpa := rfl
@[simp] theorem State.setCore_ls (s : State) (u : Nat) (k : Core) : (s.setCore u k).ls = s.ls := rfl
@[simp] theorem State.setCore_acc (s : State) (u : Nat) (k : Core) : (s.setCore u k).acc = s.acc := rfl
@[simp] theorem State.setCore_accFlags (s : State) (u : Nat) (k : Core) : (s.setCore u k).accFlags = s.accFlags := rfl
@[simp] theorem State.setCore_accBank1 (s : State) (u : Nat) (k : Core) : (s.setCore u k).accBank1 = s.accBank1 := rfl
@[simp] theorem State.setCore_sems (s : State) (u : Nat) (k : Core) : (s.setCore u k).sems = s.sems := rfl
@[simp] theorem State.setCore_ctxMem (s : State) (u : Nat) (k : Core) : (s.setCore u k).ctxMem = s.ctxMem := rfl
@[simp] theorem State.setCore_prog (s : State) (u : Nat) (k : Core) : (s.setCore u k).prog = s.prog := rfl
@[simp] theorem State.setCore_progValid (s : State) (u : Nat) (k : Core) : (s.setCore u k).progValid = s.progValid := rfl
@[simp] theorem State.setCore_bar2 (s : State) (u : Nat) (k : Core) : (s.setCore u k).bar2 = s.bar2 := rfl
@[simp] theorem State.setCore_mbx (s : State) (u : Nat) (k : Core) : (s.setCore u k).mbx = s.mbx := rfl
@[simp] theorem State.setCore_ue (s : State) (u : Nat) (k : Core) : (s.setCore u k).ue = s.ue := rfl
@[simp] theorem State.setCore_xbar (s : State) (u : Nat) (k : Core) : (s.setCore u k).xbar = s.xbar := rfl
@[simp] theorem State.setCore_links (s : State) (u : Nat) (k : Core) : (s.setCore u k).links = s.links := rfl
@[simp] theorem State.setCore_egress (s : State) (u : Nat) (k : Core) : (s.setCore u k).egress = s.egress := rfl
@[simp] theorem State.setCore_eths (s : State) (u : Nat) (k : Core) : (s.setCore u k).eths = s.eths := rfl
@[simp] theorem State.setCore_shpT (s : State) (u : Nat) (k : Core) : (s.setCore u k).shpT = s.shpT := rfl
@[simp] theorem State.setCore_circT (s : State) (u : Nat) (k : Core) : (s.setCore u k).circT = s.circT := rfl
@[simp] theorem State.setCore_polT (s : State) (u : Nat) (k : Core) : (s.setCore u k).polT = s.polT := rfl
@[simp] theorem State.setCore_ethDrop (s : State) (u : Nat) (k : Core) : (s.setCore u k).ethDrop = s.ethDrop := rfl
@[simp] theorem State.setCore_hist (s : State) (u : Nat) (k : Core) : (s.setCore u k).hist = s.hist := rfl
@[simp] theorem State.setCore_sampleN (s : State) (u : Nat) (k : Core) : (s.setCore u k).sampleN = s.sampleN := rfl
@[simp] theorem State.setCore_ring (s : State) (u : Nat) (k : Core) : (s.setCore u k).ring = s.ring := rfl
@[simp] theorem State.setCore_attach (s : State) (u : Nat) (k : Core) : (s.setCore u k).attach = s.attach := rfl
@[simp] theorem State.setCore_msgs (s : State) (u : Nat) (k : Core) : (s.setCore u k).msgs = s.msgs := rfl
@[simp] theorem State.setCore_msgSeq (s : State) (u : Nat) (k : Core) : (s.setCore u k).msgSeq = s.msgSeq := rfl
@[simp] theorem State.setCore_inbox (s : State) (u : Nat) (k : Core) : (s.setCore u k).inbox = s.inbox := rfl
@[simp] theorem State.setCore_commits (s : State) (u : Nat) (k : Core) : (s.setCore u k).commits = s.commits := rfl
@[simp] theorem State.setCore_trackers (s : State) (u : Nat) (k : Core) : (s.setCore u k).trackers = s.trackers := rfl
@[simp] theorem State.setCore_ctxs (s : State) (u : Nat) (k : Core) : (s.setCore u k).ctxs = s.ctxs := rfl
@[simp] theorem State.setCore_accepted (s : State) (u : Nat) (k : Core) : (s.setCore u k).accepted = s.accepted := rfl
@[simp] theorem State.setCore_rrEmit (s : State) (u : Nat) (k : Core) : (s.setCore u k).rrEmit = s.rrEmit := rfl
@[simp] theorem State.setCore_colls (s : State) (u : Nat) (k : Core) : (s.setCore u k).colls = s.colls := rfl
@[simp] theorem State.setCore_owed (s : State) (u : Nat) (k : Core) : (s.setCore u k).owed = s.owed := rfl
@[simp] theorem State.setCore_fetches (s : State) (u : Nat) (k : Core) : (s.setCore u k).fetches = s.fetches := rfl
@[simp] theorem State.setCore_wbs (s : State) (u : Nat) (k : Core) : (s.setCore u k).wbs = s.wbs := rfl
@[simp] theorem State.setCore_atu (s : State) (u : Nat) (k : Core) : (s.setCore u k).atu = s.atu := rfl
@[simp] theorem State.setCore_atuBusy (s : State) (u : Nat) (k : Core) : (s.setCore u k).atuBusy = s.atuBusy := rfl
@[simp] theorem State.setCore_poolUsed (s : State) (u : Nat) (k : Core) : (s.setCore u k).poolUsed = s.poolUsed := rfl
@[simp] theorem State.setCore_time (s : State) (u : Nat) (k : Core) : (s.setCore u k).time = s.time := rfl
@[simp] theorem State.setCore_shutters (s : State) (u : Nat) (k : Core) : (s.setCore u k).shutters = s.shutters := rfl
@[simp] theorem State.setCore_jobs (s : State) (u : Nat) (k : Core) : (s.setCore u k).jobs = s.jobs := rfl
@[simp] theorem State.setCore_active (s : State) (u : Nat) (k : Core) : (s.setCore u k).active = s.active := rfl
@[simp] theorem State.setCore_shadow (s : State) (u : Nat) (k : Core) : (s.setCore u k).shadow = s.shadow := rfl
@[simp] theorem State.setCore_dsp (s : State) (u : Nat) (k : Core) : (s.setCore u k).dsp = s.dsp := rfl
@[simp] theorem State.setCore_mgmt (s : State) (u : Nat) (k : Core) : (s.setCore u k).mgmt = s.mgmt := rfl
@[simp] theorem State.setCore_sec (s : State) (u : Nat) (k : Core) : (s.setCore u k).sec = s.sec := rfl
@[simp] theorem State.setCore_power (s : State) (u : Nat) (k : Core) : (s.setCore u k).power = s.power := rfl
@[simp] theorem State.setCore_i3c (s : State) (u : Nat) (k : Core) : (s.setCore u k).i3c = s.i3c := rfl
@[simp] theorem State.setCore_jtag (s : State) (u : Nat) (k : Core) : (s.setCore u k).jtag = s.jtag := rfl
@[simp] theorem State.setCore_pcie (s : State) (u : Nat) (k : Core) : (s.setCore u k).pcie = s.pcie := rfl
@[simp] theorem State.setCore_nextId (s : State) (u : Nat) (k : Core) : (s.setCore u k).nextId = s.nextId := rfl
@[simp] theorem State.setCore_freeCtr (s : State) (u : Nat) (k : Core) : (s.setCore u k).freeCtr = s.freeCtr := rfl

@[simp] theorem State.setCtx_pending (s : State) (c : Nat) (k : Ctx) : (s.setCtx c k).pending = s.pending := rfl
@[simp] theorem State.setCtx_variant (s : State) (c : Nat) (k : Ctx) : (s.setCtx c k).variant = s.variant := rfl
@[simp] theorem State.setCtx_dev (s : State) (c : Nat) (k : Ctx) : (s.setCtx c k).dev = s.dev := rfl
@[simp] theorem State.setCtx_regs (s : State) (c : Nat) (k : Ctx) : (s.setCtx c k).regs = s.regs := rfl
@[simp] theorem State.setCtx_cnt (s : State) (c : Nat) (k : Ctx) : (s.setCtx c k).cnt = s.cnt := rfl
@[simp] theorem State.setCtx_latch (s : State) (c : Nat) (k : Ctx) : (s.setCtx c k).latch = s.latch := rfl
@[simp] theorem State.setCtx_busData (s : State) (c : Nat) (k : Ctx) : (s.setCtx c k).busData = s.busData := rfl
@[simp] theorem State.setCtx_dpa (s : State) (c : Nat) (k : Ctx) : (s.setCtx c k).dpa = s.dpa := rfl
@[simp] theorem State.setCtx_ls (s : State) (c : Nat) (k : Ctx) : (s.setCtx c k).ls = s.ls := rfl
@[simp] theorem State.setCtx_acc (s : State) (c : Nat) (k : Ctx) : (s.setCtx c k).acc = s.acc := rfl
@[simp] theorem State.setCtx_accFlags (s : State) (c : Nat) (k : Ctx) : (s.setCtx c k).accFlags = s.accFlags := rfl
@[simp] theorem State.setCtx_accBank1 (s : State) (c : Nat) (k : Ctx) : (s.setCtx c k).accBank1 = s.accBank1 := rfl
@[simp] theorem State.setCtx_sems (s : State) (c : Nat) (k : Ctx) : (s.setCtx c k).sems = s.sems := rfl
@[simp] theorem State.setCtx_ctxMem (s : State) (c : Nat) (k : Ctx) : (s.setCtx c k).ctxMem = s.ctxMem := rfl
@[simp] theorem State.setCtx_prog (s : State) (c : Nat) (k : Ctx) : (s.setCtx c k).prog = s.prog := rfl
@[simp] theorem State.setCtx_progValid (s : State) (c : Nat) (k : Ctx) : (s.setCtx c k).progValid = s.progValid := rfl
@[simp] theorem State.setCtx_bar2 (s : State) (c : Nat) (k : Ctx) : (s.setCtx c k).bar2 = s.bar2 := rfl
@[simp] theorem State.setCtx_mbx (s : State) (c : Nat) (k : Ctx) : (s.setCtx c k).mbx = s.mbx := rfl
@[simp] theorem State.setCtx_ue (s : State) (c : Nat) (k : Ctx) : (s.setCtx c k).ue = s.ue := rfl
@[simp] theorem State.setCtx_xbar (s : State) (c : Nat) (k : Ctx) : (s.setCtx c k).xbar = s.xbar := rfl
@[simp] theorem State.setCtx_links (s : State) (c : Nat) (k : Ctx) : (s.setCtx c k).links = s.links := rfl
@[simp] theorem State.setCtx_egress (s : State) (c : Nat) (k : Ctx) : (s.setCtx c k).egress = s.egress := rfl
@[simp] theorem State.setCtx_eths (s : State) (c : Nat) (k : Ctx) : (s.setCtx c k).eths = s.eths := rfl
@[simp] theorem State.setCtx_shpT (s : State) (c : Nat) (k : Ctx) : (s.setCtx c k).shpT = s.shpT := rfl
@[simp] theorem State.setCtx_circT (s : State) (c : Nat) (k : Ctx) : (s.setCtx c k).circT = s.circT := rfl
@[simp] theorem State.setCtx_polT (s : State) (c : Nat) (k : Ctx) : (s.setCtx c k).polT = s.polT := rfl
@[simp] theorem State.setCtx_ethDrop (s : State) (c : Nat) (k : Ctx) : (s.setCtx c k).ethDrop = s.ethDrop := rfl
@[simp] theorem State.setCtx_hist (s : State) (c : Nat) (k : Ctx) : (s.setCtx c k).hist = s.hist := rfl
@[simp] theorem State.setCtx_sampleN (s : State) (c : Nat) (k : Ctx) : (s.setCtx c k).sampleN = s.sampleN := rfl
@[simp] theorem State.setCtx_ring (s : State) (c : Nat) (k : Ctx) : (s.setCtx c k).ring = s.ring := rfl
@[simp] theorem State.setCtx_attach (s : State) (c : Nat) (k : Ctx) : (s.setCtx c k).attach = s.attach := rfl
@[simp] theorem State.setCtx_msgs (s : State) (c : Nat) (k : Ctx) : (s.setCtx c k).msgs = s.msgs := rfl
@[simp] theorem State.setCtx_msgSeq (s : State) (c : Nat) (k : Ctx) : (s.setCtx c k).msgSeq = s.msgSeq := rfl
@[simp] theorem State.setCtx_inbox (s : State) (c : Nat) (k : Ctx) : (s.setCtx c k).inbox = s.inbox := rfl
@[simp] theorem State.setCtx_commits (s : State) (c : Nat) (k : Ctx) : (s.setCtx c k).commits = s.commits := rfl
@[simp] theorem State.setCtx_trackers (s : State) (c : Nat) (k : Ctx) : (s.setCtx c k).trackers = s.trackers := rfl
@[simp] theorem State.setCtx_accepted (s : State) (c : Nat) (k : Ctx) : (s.setCtx c k).accepted = s.accepted := rfl
@[simp] theorem State.setCtx_rrEmit (s : State) (c : Nat) (k : Ctx) : (s.setCtx c k).rrEmit = s.rrEmit := rfl
@[simp] theorem State.setCtx_cores (s : State) (c : Nat) (k : Ctx) : (s.setCtx c k).cores = s.cores := rfl
@[simp] theorem State.setCtx_colls (s : State) (c : Nat) (k : Ctx) : (s.setCtx c k).colls = s.colls := rfl
@[simp] theorem State.setCtx_owed (s : State) (c : Nat) (k : Ctx) : (s.setCtx c k).owed = s.owed := rfl
@[simp] theorem State.setCtx_fetches (s : State) (c : Nat) (k : Ctx) : (s.setCtx c k).fetches = s.fetches := rfl
@[simp] theorem State.setCtx_wbs (s : State) (c : Nat) (k : Ctx) : (s.setCtx c k).wbs = s.wbs := rfl
@[simp] theorem State.setCtx_atu (s : State) (c : Nat) (k : Ctx) : (s.setCtx c k).atu = s.atu := rfl
@[simp] theorem State.setCtx_atuBusy (s : State) (c : Nat) (k : Ctx) : (s.setCtx c k).atuBusy = s.atuBusy := rfl
@[simp] theorem State.setCtx_poolUsed (s : State) (c : Nat) (k : Ctx) : (s.setCtx c k).poolUsed = s.poolUsed := rfl
@[simp] theorem State.setCtx_time (s : State) (c : Nat) (k : Ctx) : (s.setCtx c k).time = s.time := rfl
@[simp] theorem State.setCtx_shutters (s : State) (c : Nat) (k : Ctx) : (s.setCtx c k).shutters = s.shutters := rfl
@[simp] theorem State.setCtx_jobs (s : State) (c : Nat) (k : Ctx) : (s.setCtx c k).jobs = s.jobs := rfl
@[simp] theorem State.setCtx_active (s : State) (c : Nat) (k : Ctx) : (s.setCtx c k).active = s.active := rfl
@[simp] theorem State.setCtx_shadow (s : State) (c : Nat) (k : Ctx) : (s.setCtx c k).shadow = s.shadow := rfl
@[simp] theorem State.setCtx_dsp (s : State) (c : Nat) (k : Ctx) : (s.setCtx c k).dsp = s.dsp := rfl
@[simp] theorem State.setCtx_mgmt (s : State) (c : Nat) (k : Ctx) : (s.setCtx c k).mgmt = s.mgmt := rfl
@[simp] theorem State.setCtx_sec (s : State) (c : Nat) (k : Ctx) : (s.setCtx c k).sec = s.sec := rfl
@[simp] theorem State.setCtx_power (s : State) (c : Nat) (k : Ctx) : (s.setCtx c k).power = s.power := rfl
@[simp] theorem State.setCtx_i3c (s : State) (c : Nat) (k : Ctx) : (s.setCtx c k).i3c = s.i3c := rfl
@[simp] theorem State.setCtx_jtag (s : State) (c : Nat) (k : Ctx) : (s.setCtx c k).jtag = s.jtag := rfl
@[simp] theorem State.setCtx_pcie (s : State) (c : Nat) (k : Ctx) : (s.setCtx c k).pcie = s.pcie := rfl
@[simp] theorem State.setCtx_nextId (s : State) (c : Nat) (k : Ctx) : (s.setCtx c k).nextId = s.nextId := rfl
@[simp] theorem State.setCtx_freeCtr (s : State) (c : Nat) (k : Ctx) : (s.setCtx c k).freeCtr = s.freeCtr := rfl

@[simp] theorem State.setShutter_pending (s : State) (b : Nat) (k : Shutter) : (s.setShutter b k).pending = s.pending := rfl
@[simp] theorem State.setShutter_variant (s : State) (b : Nat) (k : Shutter) : (s.setShutter b k).variant = s.variant := rfl
@[simp] theorem State.setShutter_dev (s : State) (b : Nat) (k : Shutter) : (s.setShutter b k).dev = s.dev := rfl
@[simp] theorem State.setShutter_regs (s : State) (b : Nat) (k : Shutter) : (s.setShutter b k).regs = s.regs := rfl
@[simp] theorem State.setShutter_cnt (s : State) (b : Nat) (k : Shutter) : (s.setShutter b k).cnt = s.cnt := rfl
@[simp] theorem State.setShutter_latch (s : State) (b : Nat) (k : Shutter) : (s.setShutter b k).latch = s.latch := rfl
@[simp] theorem State.setShutter_busData (s : State) (b : Nat) (k : Shutter) : (s.setShutter b k).busData = s.busData := rfl
@[simp] theorem State.setShutter_dpa (s : State) (b : Nat) (k : Shutter) : (s.setShutter b k).dpa = s.dpa := rfl
@[simp] theorem State.setShutter_ls (s : State) (b : Nat) (k : Shutter) : (s.setShutter b k).ls = s.ls := rfl
@[simp] theorem State.setShutter_acc (s : State) (b : Nat) (k : Shutter) : (s.setShutter b k).acc = s.acc := rfl
@[simp] theorem State.setShutter_accFlags (s : State) (b : Nat) (k : Shutter) : (s.setShutter b k).accFlags = s.accFlags := rfl
@[simp] theorem State.setShutter_accBank1 (s : State) (b : Nat) (k : Shutter) : (s.setShutter b k).accBank1 = s.accBank1 := rfl
@[simp] theorem State.setShutter_sems (s : State) (b : Nat) (k : Shutter) : (s.setShutter b k).sems = s.sems := rfl
@[simp] theorem State.setShutter_ctxMem (s : State) (b : Nat) (k : Shutter) : (s.setShutter b k).ctxMem = s.ctxMem := rfl
@[simp] theorem State.setShutter_prog (s : State) (b : Nat) (k : Shutter) : (s.setShutter b k).prog = s.prog := rfl
@[simp] theorem State.setShutter_progValid (s : State) (b : Nat) (k : Shutter) : (s.setShutter b k).progValid = s.progValid := rfl
@[simp] theorem State.setShutter_bar2 (s : State) (b : Nat) (k : Shutter) : (s.setShutter b k).bar2 = s.bar2 := rfl
@[simp] theorem State.setShutter_mbx (s : State) (b : Nat) (k : Shutter) : (s.setShutter b k).mbx = s.mbx := rfl
@[simp] theorem State.setShutter_ue (s : State) (b : Nat) (k : Shutter) : (s.setShutter b k).ue = s.ue := rfl
@[simp] theorem State.setShutter_xbar (s : State) (b : Nat) (k : Shutter) : (s.setShutter b k).xbar = s.xbar := rfl
@[simp] theorem State.setShutter_links (s : State) (b : Nat) (k : Shutter) : (s.setShutter b k).links = s.links := rfl
@[simp] theorem State.setShutter_egress (s : State) (b : Nat) (k : Shutter) : (s.setShutter b k).egress = s.egress := rfl
@[simp] theorem State.setShutter_eths (s : State) (b : Nat) (k : Shutter) : (s.setShutter b k).eths = s.eths := rfl
@[simp] theorem State.setShutter_shpT (s : State) (b : Nat) (k : Shutter) : (s.setShutter b k).shpT = s.shpT := rfl
@[simp] theorem State.setShutter_circT (s : State) (b : Nat) (k : Shutter) : (s.setShutter b k).circT = s.circT := rfl
@[simp] theorem State.setShutter_polT (s : State) (b : Nat) (k : Shutter) : (s.setShutter b k).polT = s.polT := rfl
@[simp] theorem State.setShutter_ethDrop (s : State) (b : Nat) (k : Shutter) : (s.setShutter b k).ethDrop = s.ethDrop := rfl
@[simp] theorem State.setShutter_hist (s : State) (b : Nat) (k : Shutter) : (s.setShutter b k).hist = s.hist := rfl
@[simp] theorem State.setShutter_sampleN (s : State) (b : Nat) (k : Shutter) : (s.setShutter b k).sampleN = s.sampleN := rfl
@[simp] theorem State.setShutter_ring (s : State) (b : Nat) (k : Shutter) : (s.setShutter b k).ring = s.ring := rfl
@[simp] theorem State.setShutter_attach (s : State) (b : Nat) (k : Shutter) : (s.setShutter b k).attach = s.attach := rfl
@[simp] theorem State.setShutter_msgs (s : State) (b : Nat) (k : Shutter) : (s.setShutter b k).msgs = s.msgs := rfl
@[simp] theorem State.setShutter_msgSeq (s : State) (b : Nat) (k : Shutter) : (s.setShutter b k).msgSeq = s.msgSeq := rfl
@[simp] theorem State.setShutter_inbox (s : State) (b : Nat) (k : Shutter) : (s.setShutter b k).inbox = s.inbox := rfl
@[simp] theorem State.setShutter_commits (s : State) (b : Nat) (k : Shutter) : (s.setShutter b k).commits = s.commits := rfl
@[simp] theorem State.setShutter_trackers (s : State) (b : Nat) (k : Shutter) : (s.setShutter b k).trackers = s.trackers := rfl
@[simp] theorem State.setShutter_ctxs (s : State) (b : Nat) (k : Shutter) : (s.setShutter b k).ctxs = s.ctxs := rfl
@[simp] theorem State.setShutter_accepted (s : State) (b : Nat) (k : Shutter) : (s.setShutter b k).accepted = s.accepted := rfl
@[simp] theorem State.setShutter_rrEmit (s : State) (b : Nat) (k : Shutter) : (s.setShutter b k).rrEmit = s.rrEmit := rfl
@[simp] theorem State.setShutter_cores (s : State) (b : Nat) (k : Shutter) : (s.setShutter b k).cores = s.cores := rfl
@[simp] theorem State.setShutter_colls (s : State) (b : Nat) (k : Shutter) : (s.setShutter b k).colls = s.colls := rfl
@[simp] theorem State.setShutter_owed (s : State) (b : Nat) (k : Shutter) : (s.setShutter b k).owed = s.owed := rfl
@[simp] theorem State.setShutter_fetches (s : State) (b : Nat) (k : Shutter) : (s.setShutter b k).fetches = s.fetches := rfl
@[simp] theorem State.setShutter_wbs (s : State) (b : Nat) (k : Shutter) : (s.setShutter b k).wbs = s.wbs := rfl
@[simp] theorem State.setShutter_atu (s : State) (b : Nat) (k : Shutter) : (s.setShutter b k).atu = s.atu := rfl
@[simp] theorem State.setShutter_atuBusy (s : State) (b : Nat) (k : Shutter) : (s.setShutter b k).atuBusy = s.atuBusy := rfl
@[simp] theorem State.setShutter_poolUsed (s : State) (b : Nat) (k : Shutter) : (s.setShutter b k).poolUsed = s.poolUsed := rfl
@[simp] theorem State.setShutter_time (s : State) (b : Nat) (k : Shutter) : (s.setShutter b k).time = s.time := rfl
@[simp] theorem State.setShutter_jobs (s : State) (b : Nat) (k : Shutter) : (s.setShutter b k).jobs = s.jobs := rfl
@[simp] theorem State.setShutter_active (s : State) (b : Nat) (k : Shutter) : (s.setShutter b k).active = s.active := rfl
@[simp] theorem State.setShutter_shadow (s : State) (b : Nat) (k : Shutter) : (s.setShutter b k).shadow = s.shadow := rfl
@[simp] theorem State.setShutter_dsp (s : State) (b : Nat) (k : Shutter) : (s.setShutter b k).dsp = s.dsp := rfl
@[simp] theorem State.setShutter_mgmt (s : State) (b : Nat) (k : Shutter) : (s.setShutter b k).mgmt = s.mgmt := rfl
@[simp] theorem State.setShutter_sec (s : State) (b : Nat) (k : Shutter) : (s.setShutter b k).sec = s.sec := rfl
@[simp] theorem State.setShutter_power (s : State) (b : Nat) (k : Shutter) : (s.setShutter b k).power = s.power := rfl
@[simp] theorem State.setShutter_i3c (s : State) (b : Nat) (k : Shutter) : (s.setShutter b k).i3c = s.i3c := rfl
@[simp] theorem State.setShutter_jtag (s : State) (b : Nat) (k : Shutter) : (s.setShutter b k).jtag = s.jtag := rfl
@[simp] theorem State.setShutter_pcie (s : State) (b : Nat) (k : Shutter) : (s.setShutter b k).pcie = s.pcie := rfl
@[simp] theorem State.setShutter_nextId (s : State) (b : Nat) (k : Shutter) : (s.setShutter b k).nextId = s.nextId := rfl
@[simp] theorem State.setShutter_freeCtr (s : State) (b : Nat) (k : Shutter) : (s.setShutter b k).freeCtr = s.freeCtr := rfl

@[simp] theorem State.setJob_pending (s : State) (j : Nat) (k : Job) : (s.setJob j k).pending = s.pending := rfl
@[simp] theorem State.setJob_variant (s : State) (j : Nat) (k : Job) : (s.setJob j k).variant = s.variant := rfl
@[simp] theorem State.setJob_dev (s : State) (j : Nat) (k : Job) : (s.setJob j k).dev = s.dev := rfl
@[simp] theorem State.setJob_regs (s : State) (j : Nat) (k : Job) : (s.setJob j k).regs = s.regs := rfl
@[simp] theorem State.setJob_cnt (s : State) (j : Nat) (k : Job) : (s.setJob j k).cnt = s.cnt := rfl
@[simp] theorem State.setJob_latch (s : State) (j : Nat) (k : Job) : (s.setJob j k).latch = s.latch := rfl
@[simp] theorem State.setJob_busData (s : State) (j : Nat) (k : Job) : (s.setJob j k).busData = s.busData := rfl
@[simp] theorem State.setJob_dpa (s : State) (j : Nat) (k : Job) : (s.setJob j k).dpa = s.dpa := rfl
@[simp] theorem State.setJob_ls (s : State) (j : Nat) (k : Job) : (s.setJob j k).ls = s.ls := rfl
@[simp] theorem State.setJob_acc (s : State) (j : Nat) (k : Job) : (s.setJob j k).acc = s.acc := rfl
@[simp] theorem State.setJob_accFlags (s : State) (j : Nat) (k : Job) : (s.setJob j k).accFlags = s.accFlags := rfl
@[simp] theorem State.setJob_accBank1 (s : State) (j : Nat) (k : Job) : (s.setJob j k).accBank1 = s.accBank1 := rfl
@[simp] theorem State.setJob_sems (s : State) (j : Nat) (k : Job) : (s.setJob j k).sems = s.sems := rfl
@[simp] theorem State.setJob_ctxMem (s : State) (j : Nat) (k : Job) : (s.setJob j k).ctxMem = s.ctxMem := rfl
@[simp] theorem State.setJob_prog (s : State) (j : Nat) (k : Job) : (s.setJob j k).prog = s.prog := rfl
@[simp] theorem State.setJob_progValid (s : State) (j : Nat) (k : Job) : (s.setJob j k).progValid = s.progValid := rfl
@[simp] theorem State.setJob_bar2 (s : State) (j : Nat) (k : Job) : (s.setJob j k).bar2 = s.bar2 := rfl
@[simp] theorem State.setJob_mbx (s : State) (j : Nat) (k : Job) : (s.setJob j k).mbx = s.mbx := rfl
@[simp] theorem State.setJob_ue (s : State) (j : Nat) (k : Job) : (s.setJob j k).ue = s.ue := rfl
@[simp] theorem State.setJob_xbar (s : State) (j : Nat) (k : Job) : (s.setJob j k).xbar = s.xbar := rfl
@[simp] theorem State.setJob_links (s : State) (j : Nat) (k : Job) : (s.setJob j k).links = s.links := rfl
@[simp] theorem State.setJob_egress (s : State) (j : Nat) (k : Job) : (s.setJob j k).egress = s.egress := rfl
@[simp] theorem State.setJob_eths (s : State) (j : Nat) (k : Job) : (s.setJob j k).eths = s.eths := rfl
@[simp] theorem State.setJob_shpT (s : State) (j : Nat) (k : Job) : (s.setJob j k).shpT = s.shpT := rfl
@[simp] theorem State.setJob_circT (s : State) (j : Nat) (k : Job) : (s.setJob j k).circT = s.circT := rfl
@[simp] theorem State.setJob_polT (s : State) (j : Nat) (k : Job) : (s.setJob j k).polT = s.polT := rfl
@[simp] theorem State.setJob_ethDrop (s : State) (j : Nat) (k : Job) : (s.setJob j k).ethDrop = s.ethDrop := rfl
@[simp] theorem State.setJob_hist (s : State) (j : Nat) (k : Job) : (s.setJob j k).hist = s.hist := rfl
@[simp] theorem State.setJob_sampleN (s : State) (j : Nat) (k : Job) : (s.setJob j k).sampleN = s.sampleN := rfl
@[simp] theorem State.setJob_ring (s : State) (j : Nat) (k : Job) : (s.setJob j k).ring = s.ring := rfl
@[simp] theorem State.setJob_attach (s : State) (j : Nat) (k : Job) : (s.setJob j k).attach = s.attach := rfl
@[simp] theorem State.setJob_msgs (s : State) (j : Nat) (k : Job) : (s.setJob j k).msgs = s.msgs := rfl
@[simp] theorem State.setJob_msgSeq (s : State) (j : Nat) (k : Job) : (s.setJob j k).msgSeq = s.msgSeq := rfl
@[simp] theorem State.setJob_inbox (s : State) (j : Nat) (k : Job) : (s.setJob j k).inbox = s.inbox := rfl
@[simp] theorem State.setJob_commits (s : State) (j : Nat) (k : Job) : (s.setJob j k).commits = s.commits := rfl
@[simp] theorem State.setJob_trackers (s : State) (j : Nat) (k : Job) : (s.setJob j k).trackers = s.trackers := rfl
@[simp] theorem State.setJob_ctxs (s : State) (j : Nat) (k : Job) : (s.setJob j k).ctxs = s.ctxs := rfl
@[simp] theorem State.setJob_accepted (s : State) (j : Nat) (k : Job) : (s.setJob j k).accepted = s.accepted := rfl
@[simp] theorem State.setJob_rrEmit (s : State) (j : Nat) (k : Job) : (s.setJob j k).rrEmit = s.rrEmit := rfl
@[simp] theorem State.setJob_cores (s : State) (j : Nat) (k : Job) : (s.setJob j k).cores = s.cores := rfl
@[simp] theorem State.setJob_colls (s : State) (j : Nat) (k : Job) : (s.setJob j k).colls = s.colls := rfl
@[simp] theorem State.setJob_owed (s : State) (j : Nat) (k : Job) : (s.setJob j k).owed = s.owed := rfl
@[simp] theorem State.setJob_fetches (s : State) (j : Nat) (k : Job) : (s.setJob j k).fetches = s.fetches := rfl
@[simp] theorem State.setJob_wbs (s : State) (j : Nat) (k : Job) : (s.setJob j k).wbs = s.wbs := rfl
@[simp] theorem State.setJob_atu (s : State) (j : Nat) (k : Job) : (s.setJob j k).atu = s.atu := rfl
@[simp] theorem State.setJob_atuBusy (s : State) (j : Nat) (k : Job) : (s.setJob j k).atuBusy = s.atuBusy := rfl
@[simp] theorem State.setJob_poolUsed (s : State) (j : Nat) (k : Job) : (s.setJob j k).poolUsed = s.poolUsed := rfl
@[simp] theorem State.setJob_time (s : State) (j : Nat) (k : Job) : (s.setJob j k).time = s.time := rfl
@[simp] theorem State.setJob_shutters (s : State) (j : Nat) (k : Job) : (s.setJob j k).shutters = s.shutters := rfl
@[simp] theorem State.setJob_active (s : State) (j : Nat) (k : Job) : (s.setJob j k).active = s.active := rfl
@[simp] theorem State.setJob_shadow (s : State) (j : Nat) (k : Job) : (s.setJob j k).shadow = s.shadow := rfl
@[simp] theorem State.setJob_dsp (s : State) (j : Nat) (k : Job) : (s.setJob j k).dsp = s.dsp := rfl
@[simp] theorem State.setJob_mgmt (s : State) (j : Nat) (k : Job) : (s.setJob j k).mgmt = s.mgmt := rfl
@[simp] theorem State.setJob_sec (s : State) (j : Nat) (k : Job) : (s.setJob j k).sec = s.sec := rfl
@[simp] theorem State.setJob_power (s : State) (j : Nat) (k : Job) : (s.setJob j k).power = s.power := rfl
@[simp] theorem State.setJob_i3c (s : State) (j : Nat) (k : Job) : (s.setJob j k).i3c = s.i3c := rfl
@[simp] theorem State.setJob_jtag (s : State) (j : Nat) (k : Job) : (s.setJob j k).jtag = s.jtag := rfl
@[simp] theorem State.setJob_pcie (s : State) (j : Nat) (k : Job) : (s.setJob j k).pcie = s.pcie := rfl
@[simp] theorem State.setJob_nextId (s : State) (j : Nat) (k : Job) : (s.setJob j k).nextId = s.nextId := rfl
@[simp] theorem State.setJob_freeCtr (s : State) (j : Nat) (k : Job) : (s.setJob j k).freeCtr = s.freeCtr := rfl

@[simp] theorem State.setGroup_pending (s : State) (g : Nat) (k : Group) : (s.setGroup g k).pending = s.pending := rfl
@[simp] theorem State.setGroup_variant (s : State) (g : Nat) (k : Group) : (s.setGroup g k).variant = s.variant := rfl
@[simp] theorem State.setGroup_dev (s : State) (g : Nat) (k : Group) : (s.setGroup g k).dev = s.dev := rfl
@[simp] theorem State.setGroup_regs (s : State) (g : Nat) (k : Group) : (s.setGroup g k).regs = s.regs := rfl
@[simp] theorem State.setGroup_cnt (s : State) (g : Nat) (k : Group) : (s.setGroup g k).cnt = s.cnt := rfl
@[simp] theorem State.setGroup_latch (s : State) (g : Nat) (k : Group) : (s.setGroup g k).latch = s.latch := rfl
@[simp] theorem State.setGroup_busData (s : State) (g : Nat) (k : Group) : (s.setGroup g k).busData = s.busData := rfl
@[simp] theorem State.setGroup_dpa (s : State) (g : Nat) (k : Group) : (s.setGroup g k).dpa = s.dpa := rfl
@[simp] theorem State.setGroup_ls (s : State) (g : Nat) (k : Group) : (s.setGroup g k).ls = s.ls := rfl
@[simp] theorem State.setGroup_acc (s : State) (g : Nat) (k : Group) : (s.setGroup g k).acc = s.acc := rfl
@[simp] theorem State.setGroup_accFlags (s : State) (g : Nat) (k : Group) : (s.setGroup g k).accFlags = s.accFlags := rfl
@[simp] theorem State.setGroup_accBank1 (s : State) (g : Nat) (k : Group) : (s.setGroup g k).accBank1 = s.accBank1 := rfl
@[simp] theorem State.setGroup_sems (s : State) (g : Nat) (k : Group) : (s.setGroup g k).sems = s.sems := rfl
@[simp] theorem State.setGroup_ctxMem (s : State) (g : Nat) (k : Group) : (s.setGroup g k).ctxMem = s.ctxMem := rfl
@[simp] theorem State.setGroup_prog (s : State) (g : Nat) (k : Group) : (s.setGroup g k).prog = s.prog := rfl
@[simp] theorem State.setGroup_progValid (s : State) (g : Nat) (k : Group) : (s.setGroup g k).progValid = s.progValid := rfl
@[simp] theorem State.setGroup_bar2 (s : State) (g : Nat) (k : Group) : (s.setGroup g k).bar2 = s.bar2 := rfl
@[simp] theorem State.setGroup_mbx (s : State) (g : Nat) (k : Group) : (s.setGroup g k).mbx = s.mbx := rfl
@[simp] theorem State.setGroup_ue (s : State) (g : Nat) (k : Group) : (s.setGroup g k).ue = s.ue := rfl
@[simp] theorem State.setGroup_xbar (s : State) (g : Nat) (k : Group) : (s.setGroup g k).xbar = s.xbar := rfl
@[simp] theorem State.setGroup_links (s : State) (g : Nat) (k : Group) : (s.setGroup g k).links = s.links := rfl
@[simp] theorem State.setGroup_egress (s : State) (g : Nat) (k : Group) : (s.setGroup g k).egress = s.egress := rfl
@[simp] theorem State.setGroup_eths (s : State) (g : Nat) (k : Group) : (s.setGroup g k).eths = s.eths := rfl
@[simp] theorem State.setGroup_shpT (s : State) (g : Nat) (k : Group) : (s.setGroup g k).shpT = s.shpT := rfl
@[simp] theorem State.setGroup_circT (s : State) (g : Nat) (k : Group) : (s.setGroup g k).circT = s.circT := rfl
@[simp] theorem State.setGroup_polT (s : State) (g : Nat) (k : Group) : (s.setGroup g k).polT = s.polT := rfl
@[simp] theorem State.setGroup_ethDrop (s : State) (g : Nat) (k : Group) : (s.setGroup g k).ethDrop = s.ethDrop := rfl
@[simp] theorem State.setGroup_hist (s : State) (g : Nat) (k : Group) : (s.setGroup g k).hist = s.hist := rfl
@[simp] theorem State.setGroup_sampleN (s : State) (g : Nat) (k : Group) : (s.setGroup g k).sampleN = s.sampleN := rfl
@[simp] theorem State.setGroup_ring (s : State) (g : Nat) (k : Group) : (s.setGroup g k).ring = s.ring := rfl
@[simp] theorem State.setGroup_attach (s : State) (g : Nat) (k : Group) : (s.setGroup g k).attach = s.attach := rfl
@[simp] theorem State.setGroup_msgs (s : State) (g : Nat) (k : Group) : (s.setGroup g k).msgs = s.msgs := rfl
@[simp] theorem State.setGroup_msgSeq (s : State) (g : Nat) (k : Group) : (s.setGroup g k).msgSeq = s.msgSeq := rfl
@[simp] theorem State.setGroup_inbox (s : State) (g : Nat) (k : Group) : (s.setGroup g k).inbox = s.inbox := rfl
@[simp] theorem State.setGroup_commits (s : State) (g : Nat) (k : Group) : (s.setGroup g k).commits = s.commits := rfl
@[simp] theorem State.setGroup_trackers (s : State) (g : Nat) (k : Group) : (s.setGroup g k).trackers = s.trackers := rfl
@[simp] theorem State.setGroup_ctxs (s : State) (g : Nat) (k : Group) : (s.setGroup g k).ctxs = s.ctxs := rfl
@[simp] theorem State.setGroup_accepted (s : State) (g : Nat) (k : Group) : (s.setGroup g k).accepted = s.accepted := rfl
@[simp] theorem State.setGroup_rrEmit (s : State) (g : Nat) (k : Group) : (s.setGroup g k).rrEmit = s.rrEmit := rfl
@[simp] theorem State.setGroup_cores (s : State) (g : Nat) (k : Group) : (s.setGroup g k).cores = s.cores := rfl
@[simp] theorem State.setGroup_colls (s : State) (g : Nat) (k : Group) : (s.setGroup g k).colls = s.colls := rfl
@[simp] theorem State.setGroup_owed (s : State) (g : Nat) (k : Group) : (s.setGroup g k).owed = s.owed := rfl
@[simp] theorem State.setGroup_fetches (s : State) (g : Nat) (k : Group) : (s.setGroup g k).fetches = s.fetches := rfl
@[simp] theorem State.setGroup_wbs (s : State) (g : Nat) (k : Group) : (s.setGroup g k).wbs = s.wbs := rfl
@[simp] theorem State.setGroup_atu (s : State) (g : Nat) (k : Group) : (s.setGroup g k).atu = s.atu := rfl
@[simp] theorem State.setGroup_atuBusy (s : State) (g : Nat) (k : Group) : (s.setGroup g k).atuBusy = s.atuBusy := rfl
@[simp] theorem State.setGroup_poolUsed (s : State) (g : Nat) (k : Group) : (s.setGroup g k).poolUsed = s.poolUsed := rfl
@[simp] theorem State.setGroup_time (s : State) (g : Nat) (k : Group) : (s.setGroup g k).time = s.time := rfl
@[simp] theorem State.setGroup_shutters (s : State) (g : Nat) (k : Group) : (s.setGroup g k).shutters = s.shutters := rfl
@[simp] theorem State.setGroup_jobs (s : State) (g : Nat) (k : Group) : (s.setGroup g k).jobs = s.jobs := rfl
@[simp] theorem State.setGroup_active (s : State) (g : Nat) (k : Group) : (s.setGroup g k).active = s.active := rfl
@[simp] theorem State.setGroup_shadow (s : State) (g : Nat) (k : Group) : (s.setGroup g k).shadow = s.shadow := rfl
@[simp] theorem State.setGroup_mgmt (s : State) (g : Nat) (k : Group) : (s.setGroup g k).mgmt = s.mgmt := rfl
@[simp] theorem State.setGroup_sec (s : State) (g : Nat) (k : Group) : (s.setGroup g k).sec = s.sec := rfl
@[simp] theorem State.setGroup_power (s : State) (g : Nat) (k : Group) : (s.setGroup g k).power = s.power := rfl
@[simp] theorem State.setGroup_i3c (s : State) (g : Nat) (k : Group) : (s.setGroup g k).i3c = s.i3c := rfl
@[simp] theorem State.setGroup_jtag (s : State) (g : Nat) (k : Group) : (s.setGroup g k).jtag = s.jtag := rfl
@[simp] theorem State.setGroup_pcie (s : State) (g : Nat) (k : Group) : (s.setGroup g k).pcie = s.pcie := rfl
@[simp] theorem State.setGroup_nextId (s : State) (g : Nat) (k : Group) : (s.setGroup g k).nextId = s.nextId := rfl
@[simp] theorem State.setGroup_freeCtr (s : State) (g : Nat) (k : Group) : (s.setGroup g k).freeCtr = s.freeCtr := rfl

@[simp] theorem State.setSem_pending (s : State) (u i : Nat) (w : Word) : (s.setSem u i w).pending = s.pending := rfl
@[simp] theorem State.setSem_variant (s : State) (u i : Nat) (w : Word) : (s.setSem u i w).variant = s.variant := rfl
@[simp] theorem State.setSem_dev (s : State) (u i : Nat) (w : Word) : (s.setSem u i w).dev = s.dev := rfl
@[simp] theorem State.setSem_regs (s : State) (u i : Nat) (w : Word) : (s.setSem u i w).regs = s.regs := rfl
@[simp] theorem State.setSem_cnt (s : State) (u i : Nat) (w : Word) : (s.setSem u i w).cnt = s.cnt := rfl
@[simp] theorem State.setSem_latch (s : State) (u i : Nat) (w : Word) : (s.setSem u i w).latch = s.latch := rfl
@[simp] theorem State.setSem_busData (s : State) (u i : Nat) (w : Word) : (s.setSem u i w).busData = s.busData := rfl
@[simp] theorem State.setSem_dpa (s : State) (u i : Nat) (w : Word) : (s.setSem u i w).dpa = s.dpa := rfl
@[simp] theorem State.setSem_ls (s : State) (u i : Nat) (w : Word) : (s.setSem u i w).ls = s.ls := rfl
@[simp] theorem State.setSem_acc (s : State) (u i : Nat) (w : Word) : (s.setSem u i w).acc = s.acc := rfl
@[simp] theorem State.setSem_accFlags (s : State) (u i : Nat) (w : Word) : (s.setSem u i w).accFlags = s.accFlags := rfl
@[simp] theorem State.setSem_accBank1 (s : State) (u i : Nat) (w : Word) : (s.setSem u i w).accBank1 = s.accBank1 := rfl
@[simp] theorem State.setSem_ctxMem (s : State) (u i : Nat) (w : Word) : (s.setSem u i w).ctxMem = s.ctxMem := rfl
@[simp] theorem State.setSem_prog (s : State) (u i : Nat) (w : Word) : (s.setSem u i w).prog = s.prog := rfl
@[simp] theorem State.setSem_progValid (s : State) (u i : Nat) (w : Word) : (s.setSem u i w).progValid = s.progValid := rfl
@[simp] theorem State.setSem_bar2 (s : State) (u i : Nat) (w : Word) : (s.setSem u i w).bar2 = s.bar2 := rfl
@[simp] theorem State.setSem_mbx (s : State) (u i : Nat) (w : Word) : (s.setSem u i w).mbx = s.mbx := rfl
@[simp] theorem State.setSem_ue (s : State) (u i : Nat) (w : Word) : (s.setSem u i w).ue = s.ue := rfl
@[simp] theorem State.setSem_xbar (s : State) (u i : Nat) (w : Word) : (s.setSem u i w).xbar = s.xbar := rfl
@[simp] theorem State.setSem_links (s : State) (u i : Nat) (w : Word) : (s.setSem u i w).links = s.links := rfl
@[simp] theorem State.setSem_egress (s : State) (u i : Nat) (w : Word) : (s.setSem u i w).egress = s.egress := rfl
@[simp] theorem State.setSem_eths (s : State) (u i : Nat) (w : Word) : (s.setSem u i w).eths = s.eths := rfl
@[simp] theorem State.setSem_shpT (s : State) (u i : Nat) (w : Word) : (s.setSem u i w).shpT = s.shpT := rfl
@[simp] theorem State.setSem_circT (s : State) (u i : Nat) (w : Word) : (s.setSem u i w).circT = s.circT := rfl
@[simp] theorem State.setSem_polT (s : State) (u i : Nat) (w : Word) : (s.setSem u i w).polT = s.polT := rfl
@[simp] theorem State.setSem_ethDrop (s : State) (u i : Nat) (w : Word) : (s.setSem u i w).ethDrop = s.ethDrop := rfl
@[simp] theorem State.setSem_hist (s : State) (u i : Nat) (w : Word) : (s.setSem u i w).hist = s.hist := rfl
@[simp] theorem State.setSem_sampleN (s : State) (u i : Nat) (w : Word) : (s.setSem u i w).sampleN = s.sampleN := rfl
@[simp] theorem State.setSem_ring (s : State) (u i : Nat) (w : Word) : (s.setSem u i w).ring = s.ring := rfl
@[simp] theorem State.setSem_attach (s : State) (u i : Nat) (w : Word) : (s.setSem u i w).attach = s.attach := rfl
@[simp] theorem State.setSem_msgs (s : State) (u i : Nat) (w : Word) : (s.setSem u i w).msgs = s.msgs := rfl
@[simp] theorem State.setSem_msgSeq (s : State) (u i : Nat) (w : Word) : (s.setSem u i w).msgSeq = s.msgSeq := rfl
@[simp] theorem State.setSem_inbox (s : State) (u i : Nat) (w : Word) : (s.setSem u i w).inbox = s.inbox := rfl
@[simp] theorem State.setSem_commits (s : State) (u i : Nat) (w : Word) : (s.setSem u i w).commits = s.commits := rfl
@[simp] theorem State.setSem_trackers (s : State) (u i : Nat) (w : Word) : (s.setSem u i w).trackers = s.trackers := rfl
@[simp] theorem State.setSem_ctxs (s : State) (u i : Nat) (w : Word) : (s.setSem u i w).ctxs = s.ctxs := rfl
@[simp] theorem State.setSem_accepted (s : State) (u i : Nat) (w : Word) : (s.setSem u i w).accepted = s.accepted := rfl
@[simp] theorem State.setSem_rrEmit (s : State) (u i : Nat) (w : Word) : (s.setSem u i w).rrEmit = s.rrEmit := rfl
@[simp] theorem State.setSem_cores (s : State) (u i : Nat) (w : Word) : (s.setSem u i w).cores = s.cores := rfl
@[simp] theorem State.setSem_colls (s : State) (u i : Nat) (w : Word) : (s.setSem u i w).colls = s.colls := rfl
@[simp] theorem State.setSem_owed (s : State) (u i : Nat) (w : Word) : (s.setSem u i w).owed = s.owed := rfl
@[simp] theorem State.setSem_fetches (s : State) (u i : Nat) (w : Word) : (s.setSem u i w).fetches = s.fetches := rfl
@[simp] theorem State.setSem_wbs (s : State) (u i : Nat) (w : Word) : (s.setSem u i w).wbs = s.wbs := rfl
@[simp] theorem State.setSem_atu (s : State) (u i : Nat) (w : Word) : (s.setSem u i w).atu = s.atu := rfl
@[simp] theorem State.setSem_atuBusy (s : State) (u i : Nat) (w : Word) : (s.setSem u i w).atuBusy = s.atuBusy := rfl
@[simp] theorem State.setSem_poolUsed (s : State) (u i : Nat) (w : Word) : (s.setSem u i w).poolUsed = s.poolUsed := rfl
@[simp] theorem State.setSem_time (s : State) (u i : Nat) (w : Word) : (s.setSem u i w).time = s.time := rfl
@[simp] theorem State.setSem_shutters (s : State) (u i : Nat) (w : Word) : (s.setSem u i w).shutters = s.shutters := rfl
@[simp] theorem State.setSem_jobs (s : State) (u i : Nat) (w : Word) : (s.setSem u i w).jobs = s.jobs := rfl
@[simp] theorem State.setSem_active (s : State) (u i : Nat) (w : Word) : (s.setSem u i w).active = s.active := rfl
@[simp] theorem State.setSem_shadow (s : State) (u i : Nat) (w : Word) : (s.setSem u i w).shadow = s.shadow := rfl
@[simp] theorem State.setSem_dsp (s : State) (u i : Nat) (w : Word) : (s.setSem u i w).dsp = s.dsp := rfl
@[simp] theorem State.setSem_mgmt (s : State) (u i : Nat) (w : Word) : (s.setSem u i w).mgmt = s.mgmt := rfl
@[simp] theorem State.setSem_sec (s : State) (u i : Nat) (w : Word) : (s.setSem u i w).sec = s.sec := rfl
@[simp] theorem State.setSem_power (s : State) (u i : Nat) (w : Word) : (s.setSem u i w).power = s.power := rfl
@[simp] theorem State.setSem_i3c (s : State) (u i : Nat) (w : Word) : (s.setSem u i w).i3c = s.i3c := rfl
@[simp] theorem State.setSem_jtag (s : State) (u i : Nat) (w : Word) : (s.setSem u i w).jtag = s.jtag := rfl
@[simp] theorem State.setSem_pcie (s : State) (u i : Nat) (w : Word) : (s.setSem u i w).pcie = s.pcie := rfl
@[simp] theorem State.setSem_nextId (s : State) (u i : Nat) (w : Word) : (s.setSem u i w).nextId = s.nextId := rfl
@[simp] theorem State.setSem_freeCtr (s : State) (u i : Nat) (w : Word) : (s.setSem u i w).freeCtr = s.freeCtr := rfl

@[simp] theorem State.drawn_pending (s : State) : (s.drawn).pending = s.pending := rfl
@[simp] theorem State.drawn_variant (s : State) : (s.drawn).variant = s.variant := rfl
@[simp] theorem State.drawn_dev (s : State) : (s.drawn).dev = s.dev := rfl
@[simp] theorem State.drawn_regs (s : State) : (s.drawn).regs = s.regs := rfl
@[simp] theorem State.drawn_cnt (s : State) : (s.drawn).cnt = s.cnt := rfl
@[simp] theorem State.drawn_latch (s : State) : (s.drawn).latch = s.latch := rfl
@[simp] theorem State.drawn_busData (s : State) : (s.drawn).busData = s.busData := rfl
@[simp] theorem State.drawn_dpa (s : State) : (s.drawn).dpa = s.dpa := rfl
@[simp] theorem State.drawn_ls (s : State) : (s.drawn).ls = s.ls := rfl
@[simp] theorem State.drawn_acc (s : State) : (s.drawn).acc = s.acc := rfl
@[simp] theorem State.drawn_accFlags (s : State) : (s.drawn).accFlags = s.accFlags := rfl
@[simp] theorem State.drawn_accBank1 (s : State) : (s.drawn).accBank1 = s.accBank1 := rfl
@[simp] theorem State.drawn_sems (s : State) : (s.drawn).sems = s.sems := rfl
@[simp] theorem State.drawn_ctxMem (s : State) : (s.drawn).ctxMem = s.ctxMem := rfl
@[simp] theorem State.drawn_prog (s : State) : (s.drawn).prog = s.prog := rfl
@[simp] theorem State.drawn_progValid (s : State) : (s.drawn).progValid = s.progValid := rfl
@[simp] theorem State.drawn_bar2 (s : State) : (s.drawn).bar2 = s.bar2 := rfl
@[simp] theorem State.drawn_mbx (s : State) : (s.drawn).mbx = s.mbx := rfl
@[simp] theorem State.drawn_ue (s : State) : (s.drawn).ue = s.ue := rfl
@[simp] theorem State.drawn_xbar (s : State) : (s.drawn).xbar = s.xbar := rfl
@[simp] theorem State.drawn_links (s : State) : (s.drawn).links = s.links := rfl
@[simp] theorem State.drawn_egress (s : State) : (s.drawn).egress = s.egress := rfl
@[simp] theorem State.drawn_eths (s : State) : (s.drawn).eths = s.eths := rfl
@[simp] theorem State.drawn_shpT (s : State) : (s.drawn).shpT = s.shpT := rfl
@[simp] theorem State.drawn_circT (s : State) : (s.drawn).circT = s.circT := rfl
@[simp] theorem State.drawn_polT (s : State) : (s.drawn).polT = s.polT := rfl
@[simp] theorem State.drawn_ethDrop (s : State) : (s.drawn).ethDrop = s.ethDrop := rfl
@[simp] theorem State.drawn_hist (s : State) : (s.drawn).hist = s.hist := rfl
@[simp] theorem State.drawn_sampleN (s : State) : (s.drawn).sampleN = s.sampleN := rfl
@[simp] theorem State.drawn_ring (s : State) : (s.drawn).ring = s.ring := rfl
@[simp] theorem State.drawn_attach (s : State) : (s.drawn).attach = s.attach := rfl
@[simp] theorem State.drawn_msgs (s : State) : (s.drawn).msgs = s.msgs := rfl
@[simp] theorem State.drawn_msgSeq (s : State) : (s.drawn).msgSeq = s.msgSeq := rfl
@[simp] theorem State.drawn_inbox (s : State) : (s.drawn).inbox = s.inbox := rfl
@[simp] theorem State.drawn_commits (s : State) : (s.drawn).commits = s.commits := rfl
@[simp] theorem State.drawn_trackers (s : State) : (s.drawn).trackers = s.trackers := rfl
@[simp] theorem State.drawn_ctxs (s : State) : (s.drawn).ctxs = s.ctxs := rfl
@[simp] theorem State.drawn_accepted (s : State) : (s.drawn).accepted = s.accepted := rfl
@[simp] theorem State.drawn_rrEmit (s : State) : (s.drawn).rrEmit = s.rrEmit := rfl
@[simp] theorem State.drawn_cores (s : State) : (s.drawn).cores = s.cores := rfl
@[simp] theorem State.drawn_colls (s : State) : (s.drawn).colls = s.colls := rfl
@[simp] theorem State.drawn_owed (s : State) : (s.drawn).owed = s.owed := rfl
@[simp] theorem State.drawn_fetches (s : State) : (s.drawn).fetches = s.fetches := rfl
@[simp] theorem State.drawn_wbs (s : State) : (s.drawn).wbs = s.wbs := rfl
@[simp] theorem State.drawn_atu (s : State) : (s.drawn).atu = s.atu := rfl
@[simp] theorem State.drawn_atuBusy (s : State) : (s.drawn).atuBusy = s.atuBusy := rfl
@[simp] theorem State.drawn_poolUsed (s : State) : (s.drawn).poolUsed = s.poolUsed := rfl
@[simp] theorem State.drawn_time (s : State) : (s.drawn).time = s.time := rfl
@[simp] theorem State.drawn_shutters (s : State) : (s.drawn).shutters = s.shutters := rfl
@[simp] theorem State.drawn_jobs (s : State) : (s.drawn).jobs = s.jobs := rfl
@[simp] theorem State.drawn_active (s : State) : (s.drawn).active = s.active := rfl
@[simp] theorem State.drawn_shadow (s : State) : (s.drawn).shadow = s.shadow := rfl
@[simp] theorem State.drawn_dsp (s : State) : (s.drawn).dsp = s.dsp := rfl
@[simp] theorem State.drawn_mgmt (s : State) : (s.drawn).mgmt = s.mgmt := rfl
@[simp] theorem State.drawn_sec (s : State) : (s.drawn).sec = s.sec := rfl
@[simp] theorem State.drawn_power (s : State) : (s.drawn).power = s.power := rfl
@[simp] theorem State.drawn_i3c (s : State) : (s.drawn).i3c = s.i3c := rfl
@[simp] theorem State.drawn_jtag (s : State) : (s.drawn).jtag = s.jtag := rfl
@[simp] theorem State.drawn_pcie (s : State) : (s.drawn).pcie = s.pcie := rfl
@[simp] theorem State.drawn_nextId (s : State) : (s.drawn).nextId = s.nextId := rfl

@[simp] theorem State.numbered_pending (s : State) : (s.numbered).pending = s.pending := rfl
@[simp] theorem State.numbered_variant (s : State) : (s.numbered).variant = s.variant := rfl
@[simp] theorem State.numbered_dev (s : State) : (s.numbered).dev = s.dev := rfl
@[simp] theorem State.numbered_regs (s : State) : (s.numbered).regs = s.regs := rfl
@[simp] theorem State.numbered_cnt (s : State) : (s.numbered).cnt = s.cnt := rfl
@[simp] theorem State.numbered_latch (s : State) : (s.numbered).latch = s.latch := rfl
@[simp] theorem State.numbered_busData (s : State) : (s.numbered).busData = s.busData := rfl
@[simp] theorem State.numbered_dpa (s : State) : (s.numbered).dpa = s.dpa := rfl
@[simp] theorem State.numbered_ls (s : State) : (s.numbered).ls = s.ls := rfl
@[simp] theorem State.numbered_acc (s : State) : (s.numbered).acc = s.acc := rfl
@[simp] theorem State.numbered_accFlags (s : State) : (s.numbered).accFlags = s.accFlags := rfl
@[simp] theorem State.numbered_accBank1 (s : State) : (s.numbered).accBank1 = s.accBank1 := rfl
@[simp] theorem State.numbered_sems (s : State) : (s.numbered).sems = s.sems := rfl
@[simp] theorem State.numbered_ctxMem (s : State) : (s.numbered).ctxMem = s.ctxMem := rfl
@[simp] theorem State.numbered_prog (s : State) : (s.numbered).prog = s.prog := rfl
@[simp] theorem State.numbered_progValid (s : State) : (s.numbered).progValid = s.progValid := rfl
@[simp] theorem State.numbered_bar2 (s : State) : (s.numbered).bar2 = s.bar2 := rfl
@[simp] theorem State.numbered_mbx (s : State) : (s.numbered).mbx = s.mbx := rfl
@[simp] theorem State.numbered_ue (s : State) : (s.numbered).ue = s.ue := rfl
@[simp] theorem State.numbered_xbar (s : State) : (s.numbered).xbar = s.xbar := rfl
@[simp] theorem State.numbered_links (s : State) : (s.numbered).links = s.links := rfl
@[simp] theorem State.numbered_egress (s : State) : (s.numbered).egress = s.egress := rfl
@[simp] theorem State.numbered_eths (s : State) : (s.numbered).eths = s.eths := rfl
@[simp] theorem State.numbered_shpT (s : State) : (s.numbered).shpT = s.shpT := rfl
@[simp] theorem State.numbered_circT (s : State) : (s.numbered).circT = s.circT := rfl
@[simp] theorem State.numbered_polT (s : State) : (s.numbered).polT = s.polT := rfl
@[simp] theorem State.numbered_ethDrop (s : State) : (s.numbered).ethDrop = s.ethDrop := rfl
@[simp] theorem State.numbered_hist (s : State) : (s.numbered).hist = s.hist := rfl
@[simp] theorem State.numbered_sampleN (s : State) : (s.numbered).sampleN = s.sampleN := rfl
@[simp] theorem State.numbered_ring (s : State) : (s.numbered).ring = s.ring := rfl
@[simp] theorem State.numbered_attach (s : State) : (s.numbered).attach = s.attach := rfl
@[simp] theorem State.numbered_msgs (s : State) : (s.numbered).msgs = s.msgs := rfl
@[simp] theorem State.numbered_msgSeq (s : State) : (s.numbered).msgSeq = s.msgSeq := rfl
@[simp] theorem State.numbered_inbox (s : State) : (s.numbered).inbox = s.inbox := rfl
@[simp] theorem State.numbered_commits (s : State) : (s.numbered).commits = s.commits := rfl
@[simp] theorem State.numbered_trackers (s : State) : (s.numbered).trackers = s.trackers := rfl
@[simp] theorem State.numbered_ctxs (s : State) : (s.numbered).ctxs = s.ctxs := rfl
@[simp] theorem State.numbered_accepted (s : State) : (s.numbered).accepted = s.accepted := rfl
@[simp] theorem State.numbered_rrEmit (s : State) : (s.numbered).rrEmit = s.rrEmit := rfl
@[simp] theorem State.numbered_cores (s : State) : (s.numbered).cores = s.cores := rfl
@[simp] theorem State.numbered_colls (s : State) : (s.numbered).colls = s.colls := rfl
@[simp] theorem State.numbered_owed (s : State) : (s.numbered).owed = s.owed := rfl
@[simp] theorem State.numbered_fetches (s : State) : (s.numbered).fetches = s.fetches := rfl
@[simp] theorem State.numbered_wbs (s : State) : (s.numbered).wbs = s.wbs := rfl
@[simp] theorem State.numbered_atu (s : State) : (s.numbered).atu = s.atu := rfl
@[simp] theorem State.numbered_atuBusy (s : State) : (s.numbered).atuBusy = s.atuBusy := rfl
@[simp] theorem State.numbered_poolUsed (s : State) : (s.numbered).poolUsed = s.poolUsed := rfl
@[simp] theorem State.numbered_time (s : State) : (s.numbered).time = s.time := rfl
@[simp] theorem State.numbered_shutters (s : State) : (s.numbered).shutters = s.shutters := rfl
@[simp] theorem State.numbered_jobs (s : State) : (s.numbered).jobs = s.jobs := rfl
@[simp] theorem State.numbered_active (s : State) : (s.numbered).active = s.active := rfl
@[simp] theorem State.numbered_shadow (s : State) : (s.numbered).shadow = s.shadow := rfl
@[simp] theorem State.numbered_dsp (s : State) : (s.numbered).dsp = s.dsp := rfl
@[simp] theorem State.numbered_mgmt (s : State) : (s.numbered).mgmt = s.mgmt := rfl
@[simp] theorem State.numbered_sec (s : State) : (s.numbered).sec = s.sec := rfl
@[simp] theorem State.numbered_power (s : State) : (s.numbered).power = s.power := rfl
@[simp] theorem State.numbered_i3c (s : State) : (s.numbered).i3c = s.i3c := rfl
@[simp] theorem State.numbered_jtag (s : State) : (s.numbered).jtag = s.jtag := rfl
@[simp] theorem State.numbered_pcie (s : State) : (s.numbered).pcie = s.pcie := rfl
@[simp] theorem State.numbered_freeCtr (s : State) : (s.numbered).freeCtr = s.freeCtr := rfl

end Sys2Proof.Machine
end

