-- ==== Sys2Proof/Laws/Answers.lean ====
section
/-!
SUPPORT. How a mailbox command starts, passes its checks and is answered: a waiting command that is asked for starts with
its doorbell taken, and `reply` leaves the mailbox answered.
-/

namespace Sys2Proof.Machine

/-- Bytes of a memory that a store leaves alone. -/
theorem rdBytes_wrBytes_outside (m : Mem) (a : Nat) (bs : List Byte) (x n : Nat) (h : x + n ≤ a ∨ a + bs.length ≤ x) :
    rdBytes (wrBytes m a bs) x n = rdBytes m x n := by
  induction n generalizing x with
  | zero => rfl
  | succ n ih =>
    simp only [rdBytes]
    rw [rdByte_wrBytes_outside m a bs x (by omega), ih (x + 1) (by omega)]

theorem wrBytes_append (m : Mem) (a : Nat) (bs cs : List Byte) :
    wrBytes m a (bs ++ cs) = wrBytes (wrBytes m a bs) (a + bs.length) cs := by
  induction bs generalizing m a with
  | nil => rfl
  | cons b r ih => simp [wrBytes, ih, Nat.add_assoc, Nat.add_comm 1]

/-- Part of the bytes that a store wrote. -/
theorem rdBytes_wrBytes_part (m : Mem) (a : Nat) (bs cs ds : List Byte) :
    rdBytes (wrBytes m a (bs ++ cs ++ ds)) (a + bs.length) cs.length = cs := by
  rw [wrBytes_append, rdBytes_wrBytes_outside _ _ _ _ _ (by simp; omega), wrBytes_append, rdBytes_wrBytes_same]

/-- The state in which a command that is asked for does its work: its doorbell is taken. -/
def State.begun (s : State) : State := { s with mgmt := { s.mgmt with doorbells := [] } }

theorem State.asked_iff (s : State) (m op len : Nat) :
    s.asked m op len = true ↔ m < 16 ∧ s.mgmt.doorbells = [m] ∧ s.mbxBusy m = true ∧ s.mbxDone m = false
      ∧ s.mgmt.running = [] ∧ s.mgmt.devStop = none ∧ s.mbxServed = true ∧ s.mbxNum m 0 2 = op ∧ s.argLength m = len := by
  simp [State.asked, and_assoc]

theorem State.mbxStart_of_asked {s : State} {m op len : Nat} (h : s.asked m op len = true) (is : Nat → Bool)
    (hi : is op = true) : s.mbxStart m is = some s.begun := by
  obtain ⟨hm, hd, hb, hn, -, -, hs, ho, -⟩ := (s.asked_iff m op len).1 h
  simp [State.mbxStart, hb, hd, hm, hs, ho, hi, State.begun]

theorem State.command_of_asked {s : State} {m op len : Nat} (h : s.asked m op len = true) (chk : State → Checks)
    (go : State → State) : s.command m op chk go = s.begun.checked m (chk s.begun) go := by
  rw [State.command, State.mbxStart_of_asked h _ (by simp)]

/-- The work of a command whose checks all hold. -/
theorem State.checked_passes {s : State} {m : Nat} {c : Checks} {go : State → State} (ha : c.arg = none)
    (hs : s.dev ∈ c.states) (hj : ∀ j sts, c.slot = some (j, sts) → (s.job j).st ∈ sts) (hm : c.more = true)
    (hr : s.mgmt.running = []) (hb : c.busy = false) (hc : c.conf = none) (hd : c.denied = false) :
    s.checked m c go = go s := by
  have he : s.exclusive = false := by simp [State.exclusive, hr]
  unfold State.checked
  rw [if_neg (by
    rintro ⟨h1, h2⟩
    rw [h1] at hs
    simp [hs] at h2)]
  simp only [ha, hm, he, hr, hb, hc, hd]
  cases hsl : c.slot with
  | none => simp [hs]
  | some p => simp [hs, hj p.1 p.2 hsl]

theorem State.reply_answered (s : State) {m st d : Nat} {res : List Byte} (hm : m < 16) (hst : st < 65536) (hd : d < 65536)
    (hr : res.length ≤ 4080) : (s.reply m st d res).answered m st d res := by
  have ht : res.take 4080 = res := List.take_of_length_le hr
  have haddr : R.devMbxBusy.addr ≠ R.devMbxDone.addr := by decide
  have hmbx : (s.reply m st d res).mbx
      = wrBytes (wrBytes s.mbx (mbxAddr m 8) (leBytes 2 st ++ leBytes 2 d ++ leBytes 4 res.length)) (mbxAddr m 16) res := by
    simp [State.reply, ht, State.raise, State.lower, State.setReg]
  refine ⟨?_, ?_, ?_, ?_, ?_, ?_⟩
  · unfold State.mbxBusy State.reply
    simp only []
    rw [State.bit, State.reg_raise_other _ _ haddr.symm]
    exact State.bit_lower_same _ _ (by omega)
  · exact State.bit_raise_same _ _ (by omega)
  · have e := rdBytes_wrBytes_part s.mbx (mbxAddr m 8) [] (leBytes 2 st) (leBytes 2 d ++ leBytes 4 res.length)
    simp only [List.nil_append, List.length_nil, Nat.add_zero, length_leBytes, ← List.append_assoc] at e
    rw [State.mbxNum, hmbx, rdBytes_wrBytes_outside _ _ _ _ _ (by unfold mbxAddr; omega), e, leNat_leBytes]
    omega
  · have e := rdBytes_wrBytes_part s.mbx (mbxAddr m 8) (leBytes 2 st) (leBytes 2 d) (leBytes 4 res.length)
    simp only [length_leBytes] at e
    rw [State.mbxNum, hmbx, rdBytes_wrBytes_outside _ _ _ _ _ (by unfold mbxAddr; omega)]
    have : mbxAddr m 10 = mbxAddr m 8 + 2 := rfl
    rw [this, e, leNat_leBytes]
    omega
  · have e := rdBytes_wrBytes_part s.mbx (mbxAddr m 8) (leBytes 2 st ++ leBytes 2 d) (leBytes 4 res.length) []
    simp only [List.append_nil, List.length_append, length_leBytes] at e
    rw [State.mbxNum, hmbx, rdBytes_wrBytes_outside _ _ _ _ _ (by unfold mbxAddr; omega)]
    have : mbxAddr m 12 = mbxAddr m 8 + (2 + 2) := rfl
    rw [this, e, leNat_leBytes]
    omega
  · rw [State.argBytes, hmbx]
    exact rdBytes_wrBytes_same ..

/-- An answer stands until the mailbox's memory or its busy and done bits change. -/
theorem State.answered_of_eq {s t : State} {m st d : Nat} {res : List Byte} (h : s.answered m st d res)
    (hx : t.mbx = s.mbx) (hb : t.reg R.devMbxBusy = s.reg R.devMbxBusy) (hd : t.reg R.devMbxDone = s.reg R.devMbxDone) :
    t.answered m st d res := by
  unfold State.answered State.mbxBusy State.mbxDone State.mbxNum State.argBytes State.bit at *
  rw [hx, hb, hd]
  exact h

end Sys2Proof.Machine
end

