-- ==== Sys2Proof/Laws/Jobs.lean ====
section
/-!
SUPPORT. What each operation of Machine/Jobs.lean may change (`_changes`), and that those which write a memory keep its
canonical form (`_wf`).
-/

namespace Sys2Proof.Machine

theorem State.updJob_changes (s : State) (j : Nat) (f : Job → Job) :
    Changes [.jobs] s (State.updJob s j f) := by
  unfold State.updJob
  refine Changes.step ?_ (State.setJob_changes ..) (by decide)
  exact Changes.refl _ _

theorem State.jobState_changes (s : State) (j : Nat) (st : JobState) :
    Changes [.jobs] s (State.jobState s j st) := by
  unfold State.jobState
  refine Changes.step ?_ (State.updJob_changes ..) (by decide)
  exact Changes.refl _ _

theorem State.setStep_changes (s : State) (j : Nat) (step : Dword) :
    Changes [.jobs] s (State.setStep s j step) := by
  unfold State.setStep
  refine Changes.step ?_ (State.updJob_changes ..) (by decide)
  exact Changes.refl _ _

theorem State.sendMgmt_changes (s : State) (job : Nat) (dev : Nat) (body : List Byte) :
    Changes [.attach, .nextId] s (State.sendMgmt s job dev body) := by
  unfold State.sendMgmt
  refine Changes.step ?_ (State.attachPkt_changes ..) (by decide)
  exact Changes.refl _ _

theorem State.sendToJob_changes (s : State) (j : Nat) (body : List Byte) :
    Changes [.attach, .nextId] s (State.sendToJob s j body) := by
  unfold State.sendToJob
  refine Changes.foldl ?_ (fun u0 x1 => ?_)
  · exact Changes.refl _ _
  · refine Changes.ite ?_ ?_
    · exact Changes.refl _ _
    · refine Changes.step ?_ (State.sendMgmt_changes ..) (by decide)
      exact Changes.refl _ _

theorem State.endMirror_changes (s : State) (j : Nat) (code : Nat) (res : List Byte) :
    Changes [.regs, .mbx, .attach, .msgs, .jobs, .mgmt] s (State.endMirror s j code res) := by
  unfold State.endMirror
  split
  · exact Changes.refl _ _
  · extract_lets a9 a10 a11
    clear_value a9
    have h12 : Changes [.regs, .mbx, .attach, .msgs, .jobs, .mgmt] s a10 := by
      unfold a10
      refine Changes.foldl ?_ (fun u13 x14 => ?_)
      · exact Changes.refl _ _
      · refine Changes.step ?_ (State.dropMsg_changes ..) (by decide)
        exact Changes.refl _ _
    clear_value a10
    have h3 : Changes [.regs, .mbx, .attach, .msgs, .jobs, .mgmt] s a11 := by
      unfold a11
      refine Changes.step ?_ (State.slotEvent_changes ..) (by decide)
      refine Changes.step ?_ (State.updJob_changes ..) (by decide)
      assumption
    clear_value a11
    refine Changes.ite ?_ ?_
    · refine Changes.step ?_ (State.ok_changes ..) (by decide)
      assumption
    · refine Changes.step ?_ (State.reply_changes ..) (by decide)
      assumption

theorem State.recordJobFault_changes (s : State) (j : Nat) (code : Nat) :
    Changes [.regs, .jobs] s (State.recordJobFault s j code) := by
  unfold State.recordJobFault
  extract_lets a0 a1 a2
  have h3 : Changes [.regs, .jobs] s a0 := by
    unfold a0
    refine Changes.step ?_ (State.updJob_changes ..) (by decide)
    exact Changes.refl _ _
  clear_value a0
  clear_value a1
  refine Changes.ite ?_ ?_
  · refine Changes.step ?_ (State.slotEvent_changes ..) (by decide)
    refine Changes.step ?_ (State.jobState_changes ..) (by decide)
    assumption
  · assumption

theorem State.applyNotice_changes (s : State) (job : Nat) (code : Nat) :
    Changes [.regs, .cnt, .dpa, .sems, .mbx, .ue, .attach, .msgs, .commits, .ctxs, .accepted, .cores, .colls, .owed,
        .fetches, .wbs, .jobs, .mgmt, .nextId, .freeCtr] s (State.applyNotice s job code) := by
  unfold State.applyNotice
  extract_lets a0 a1
  have h2 : Changes [.regs, .cnt, .dpa, .sems, .mbx, .ue, .attach, .msgs, .commits, .ctxs, .accepted, .cores, .colls,
      .owed, .fetches, .wbs, .jobs, .mgmt, .nextId, .freeCtr] s a0 := by
    unfold a0
    refine Changes.foldl ?_ (fun u3 x4 => ?_)
    · exact Changes.refl _ _
    · refine Changes.step ?_ (State.writeSdJobcmd_changes ..) (by decide)
      exact Changes.refl _ _
  clear_value a0
  have h7 : Changes [.regs, .cnt, .dpa, .sems, .mbx, .ue, .attach, .msgs, .commits, .ctxs, .accepted, .cores, .colls,
      .owed, .fetches, .wbs, .jobs, .mgmt, .nextId, .freeCtr] s a1 := by
    unfold a1
    refine Changes.foldl ?_ (fun u10 x11 => ?_)
    · assumption
    · refine Changes.step ?_ (State.abortColls_changes ..) (by decide)
      exact Changes.refl _ _
  clear_value a1
  split
  · assumption
  · extract_lets a20
    have h21 : Changes [.regs, .cnt, .dpa, .sems, .mbx, .ue, .attach, .msgs, .commits, .ctxs, .accepted, .cores, .colls,
        .owed, .fetches, .wbs, .jobs, .mgmt, .nextId, .freeCtr] s a20 := by
      unfold a20
      refine Changes.foldl ?_ (fun u22 x23 => ?_)
      · assumption
      · refine Changes.step ?_ (State.abortPager_changes ..) (by decide)
        exact Changes.refl _ _
    clear_value a20
    refine Changes.step ?_ (State.endMirror_changes ..) (by decide)
    refine Changes.step ?_ (State.recordJobFault_changes ..) (by decide)
    assumption

theorem State.jobFault_changes (s : State) (job : Nat) (code : Nat) :
    Changes [.regs, .cnt, .dpa, .sems, .mbx, .ue, .attach, .msgs, .commits, .ctxs, .accepted, .cores, .colls, .owed,
        .fetches, .wbs, .jobs, .mgmt, .nextId, .freeCtr] s (State.jobFault s job code) := by
  unfold State.jobFault
  extract_lets a0 a1
  clear_value a0
  have h2 : Changes [.regs, .cnt, .dpa, .sems, .mbx, .ue, .attach, .msgs, .commits, .ctxs, .accepted, .cores, .colls,
      .owed, .fetches, .wbs, .jobs, .mgmt, .nextId, .freeCtr] s a1 := by
    unfold a1
    refine Changes.step ?_ (State.applyNotice_changes ..) (by decide)
    exact Changes.refl _ _
  clear_value a1
  split
  · assumption
  · refine Changes.step ?_ (State.sendToJob_changes ..) (by decide)
    assumption

theorem State.jobFaultNotice_changes (s : State) :
    Changes [.regs, .cnt, .dpa, .sems, .mbx, .ue, .attach, .msgs, .inbox, .commits, .ctxs, .accepted, .cores, .colls,
        .owed, .fetches, .wbs, .jobs, .mgmt, .nextId, .freeCtr] s (State.jobFaultNotice s) := by
  unfold State.jobFaultNotice
  refine Changes.ite ?_ ?_
  · exact Changes.refl _ _
  · split
    · exact Changes.refl _ _
    · rename_i y2 y3 y4 y5
      have h6 : Changes [.regs, .cnt, .dpa, .sems, .mbx, .ue, .attach, .msgs, .inbox, .commits, .ctxs, .accepted, .cores,
          .colls, .owed, .fetches, .wbs, .jobs, .mgmt, .nextId, .freeCtr] s y4 := by
        refine Changes.step ?_ (State.takeArrival_changes y5) (by decide)
        exact Changes.refl _ _
      extract_lets a8 a9
      clear_value a8
      clear_value a9
      refine Changes.ite ?_ ?_
      · assumption
      · refine Changes.step ?_ (State.applyNotice_changes ..) (by decide)
        assumption

theorem State.clearMarks_changes (s : State) (word : Nat → Reg) :
    Changes [.regs] s (State.clearMarks s word) := by
  unfold State.clearMarks
  refine Changes.foldl ?_ (fun u0 x1 => ?_)
  · exact Changes.refl _ _
  · refine Changes.step ?_ (State.setReg_changes ..) (by decide)
    exact Changes.refl _ _

theorem State.settle_changes (s : State) (k : OwedAt) (n : Nat) :
    Changes [.regs, .cnt, .dpa, .sems, .mbx, .ue, .attach, .msgs, .commits, .ctxs, .accepted, .cores, .colls, .owed,
        .fetches, .wbs, .jobs, .mgmt, .nextId, .freeCtr] s (State.settle s k n) := by
  unfold State.settle
  extract_lets a0
  refine Changes.foldl ?_ (fun u1 x2 => ?_)
  · refine Changes.step ?_ Changes.owed (by decide)
    exact Changes.refl _ _
  · refine Changes.step ?_ (State.jobFault_changes ..) (by decide)
    exact Changes.refl _ _

theorem State.serviceSite_changes (s : State) (f : FaultSite) :
    Changes [.regs, .cnt, .dpa, .sems, .mbx, .ue, .attach, .msgs, .commits, .ctxs, .accepted, .cores, .colls, .owed,
        .fetches, .wbs, .jobs, .dsp, .mgmt, .nextId, .freeCtr] s (State.serviceSite s f) := by
  unfold State.serviceSite
  extract_lets a0 a1 a2 a3 a4 a5 a6 a7
  clear_value a0
  clear_value a1
  clear_value a2
  have h8 : Changes [.regs, .cnt, .dpa, .sems, .mbx, .ue, .attach, .msgs, .commits, .ctxs, .accepted, .cores, .colls,
      .owed, .fetches, .wbs, .jobs, .dsp, .mgmt, .nextId, .freeCtr] s a3 := by
    unfold a3
    refine Changes.step ?_ (State.writeTimeCause_changes ..) (by decide)
    refine Changes.step ?_ (State.clearMarks_changes ..) (by decide)
    exact Changes.refl _ _
  clear_value a3
  clear_value a4
  have h9 : Changes [.regs, .cnt, .dpa, .sems, .mbx, .ue, .attach, .msgs, .commits, .ctxs, .accepted, .cores, .colls,
      .owed, .fetches, .wbs, .jobs, .dsp, .mgmt, .nextId, .freeCtr] s a5 := by
    unfold a5
    refine Changes.step ?_ (State.writeDspCause_changes ..) (by decide)
    exact Changes.refl _ _
  clear_value a5
  clear_value a6
  have h0 : Changes [.regs, .cnt, .dpa, .sems, .mbx, .ue, .attach, .msgs, .commits, .ctxs, .accepted, .cores, .colls,
      .owed, .fetches, .wbs, .jobs, .dsp, .mgmt, .nextId, .freeCtr] s a7 := by
    unfold a7
    refine Changes.step ?_ Changes.dsp (by decide)
    assumption
  clear_value a7
  split
  · extract_lets a11 a12
    clear_value a11
    clear_value a12
    refine Changes.step ?_ (State.jobFault_changes ..) (by decide)
    refine Changes.step ?_ (State.writeCoreCause_changes ..) (by decide)
    exact Changes.refl _ _
  · extract_lets a20 a21
    clear_value a20
    have h22 : Changes [.regs, .cnt, .dpa, .sems, .mbx, .ue, .attach, .msgs, .commits, .ctxs, .accepted, .cores, .colls,
        .owed, .fetches, .wbs, .jobs, .dsp, .mgmt, .nextId, .freeCtr] s a21 := by
      unfold a21
      refine Changes.step ?_ (State.writeSdCause_changes ..) (by decide)
      refine Changes.step ?_ (State.clearMarks_changes ..) (by decide)
      exact Changes.refl _ _
    clear_value a21
    refine Changes.foldl ?_ (fun u5 x6 => ?_)
    · assumption
    · refine Changes.step ?_ (State.jobFault_changes ..) (by decide)
      exact Changes.refl _ _
  · refine Changes.step ?_ (State.settle_changes ..) (by decide)
    refine Changes.step ?_ (State.writeMemcause_changes ..) (by decide)
    exact Changes.refl _ _
  · refine Changes.step ?_ (State.settle_changes ..) (by decide)
    refine Changes.step ?_ (State.writeSemcause_changes ..) (by decide)
    exact Changes.refl _ _
  · refine Changes.step ?_ (State.settle_changes ..) (by decide)
    refine Changes.step ?_ (State.writeCollcause_changes ..) (by decide)
    exact Changes.refl _ _
  · refine Changes.foldl ?_ (fun u13 x14 => ?_)
    · assumption
    · refine Changes.step ?_ (State.jobFault_changes ..) (by decide)
      exact Changes.refl _ _
  · refine Changes.foldl ?_ (fun u7 x8 => ?_)
    · assumption
    · refine Changes.step ?_ (State.jobFault_changes ..) (by decide)
      exact Changes.refl _ _

theorem State.clearLeaves_changes (s : State) :
    Changes [.regs] s (State.clearLeaves s) := by
  unfold State.clearLeaves
  extract_lets a0 a1 a2 a3 a4 a5 a6 a7
  have h8 : Changes [.regs] s a0 := by
    unfold a0
    refine Changes.step ?_ (State.writeXbarCause_changes ..) (by decide)
    exact Changes.refl _ _
  clear_value a0
  have h10 : Changes [.regs] s a1 := by
    unfold a1
    refine Changes.step ?_ (State.writeReg_changes ..) (by decide)
    assumption
  clear_value a1
  have h11 : Changes [.regs] s a2 := by
    unfold a2
    refine Changes.step ?_ (State.writeTimeCause_changes ..) (by decide)
    assumption
  clear_value a2
  have h1 : Changes [.regs] s a3 := by
    unfold a3
    refine Changes.step ?_ (State.writeDspCause_changes ..) (by decide)
    assumption
  clear_value a3
  have h0 : Changes [.regs] s a4 := by
    unfold a4
    refine Changes.step ?_ (State.writeReg_changes ..) (by decide)
    assumption
  clear_value a4
  have h1 : Changes [.regs] s a5 := by
    unfold a5
    refine Changes.foldl ?_ (fun u2 x3 => ?_)
    · assumption
    · refine Changes.step ?_ (State.writeReg_changes ..) (by decide)
      refine Changes.step ?_ (State.writePortCause_changes ..) (by decide)
      exact Changes.refl _ _
  clear_value a5
  have h10 : Changes [.regs] s a6 := by
    unfold a6
    refine Changes.foldl ?_ (fun u17 x18 => ?_)
    · assumption
    · refine Changes.step ?_ (State.writeSdCause_changes ..) (by decide)
      exact Changes.refl _ _
  clear_value a6
  have h19 : Changes [.regs] s a7 := by
    unfold a7
    refine Changes.foldl ?_ (fun u20 x21 => ?_)
    · assumption
    · refine Changes.step ?_ (State.writeCollcause_changes ..) (by decide)
      refine Changes.step ?_ (State.writeMemcause_changes ..) (by decide)
      exact Changes.refl _ _
  clear_value a7
  refine Changes.foldl ?_ (fun u24 x25 => ?_)
  · assumption
  · refine Changes.step ?_ (State.writeCoreCause_changes ..) (by decide)
    exact Changes.refl _ _

theorem State.jobFaultService_changes (s : State) :
    Changes [.regs, .cnt, .dpa, .sems, .mbx, .ue, .attach, .msgs, .commits, .ctxs, .accepted, .cores, .colls, .owed,
        .fetches, .wbs, .jobs, .dsp, .mgmt, .nextId, .freeCtr] s (State.jobFaultService s) := by
  unfold State.jobFaultService
  refine Changes.ite ?_ ?_
  · exact Changes.refl _ _
  · extract_lets a1
    clear_value a1
    refine Changes.ite ?_ ?_
    · refine Changes.step ?_ (State.clearLeaves_changes ..) (by decide)
      exact Changes.refl _ _
    · split
      · refine Changes.step ?_ (State.serviceSite_changes ..) (by decide)
        refine Changes.ite ?_ ?_
        · exact Changes.refl _ _
        · refine Changes.step ?_ (State.drawn_changes ..) (by decide)
          exact Changes.refl _ _
      · exact Changes.refl _ _

theorem State.xbarJmapService_changes (s : State) :
    Changes [.regs, .cnt, .dpa, .sems, .mbx, .ue, .attach, .msgs, .commits, .ctxs, .accepted, .cores, .colls, .owed,
        .fetches, .wbs, .jobs, .mgmt, .nextId, .freeCtr] s (State.xbarJmapService s) := by
  unfold State.xbarJmapService
  refine Changes.ite ?_ ?_
  · exact Changes.refl _ _
  · extract_lets a0 a1
    clear_value a0
    have h2 : Changes [.regs, .cnt, .dpa, .sems, .mbx, .ue, .attach, .msgs, .commits, .ctxs, .accepted, .cores, .colls,
        .owed, .fetches, .wbs, .jobs, .mgmt, .nextId, .freeCtr] s a1 := by
      unfold a1
      refine Changes.step ?_ (State.writeXbarCause_changes ..) (by decide)
      refine Changes.step ?_ (State.clearMarks_changes ..) (by decide)
      exact Changes.refl _ _
    clear_value a1
    refine Changes.foldl ?_ (fun u13 x14 => ?_)
    · assumption
    · refine Changes.step ?_ (State.jobFault_changes ..) (by decide)
      exact Changes.refl _ _

theorem State.portJmapService_changes (s : State) (n : Nat) :
    Changes [.regs, .cnt, .dpa, .sems, .mbx, .ue, .attach, .msgs, .commits, .ctxs, .accepted, .cores, .colls, .owed,
        .fetches, .wbs, .jobs, .mgmt, .nextId, .freeCtr] s (State.portJmapService s n) := by
  unfold State.portJmapService
  extract_lets a0 a1 a2 a3 a4
  clear_value a0
  clear_value a1
  clear_value a2
  have h8 : Changes [.regs, .cnt, .dpa, .sems, .mbx, .ue, .attach, .msgs, .commits, .ctxs, .accepted, .cores, .colls,
      .owed, .fetches, .wbs, .jobs, .mgmt, .nextId, .freeCtr] s a3 := by
    unfold a3
    refine Changes.step ?_ (State.writePortCause_changes ..) (by decide)
    refine Changes.step ?_ (State.clearMarks_changes ..) (by decide)
    exact Changes.refl _ _
  clear_value a3
  have h15 : Changes [.regs, .cnt, .dpa, .sems, .mbx, .ue, .attach, .msgs, .commits, .ctxs, .accepted, .cores, .colls,
      .owed, .fetches, .wbs, .jobs, .mgmt, .nextId, .freeCtr] s a4 := by
    unfold a4
    refine Changes.step ?_ (State.lower_changes ..) (by decide)
    assumption
  clear_value a4
  refine Changes.ite ?_ ?_
  · exact Changes.refl _ _
  · refine Changes.foldl ?_ (fun u16 x17 => ?_)
    · assumption
    · refine Changes.step ?_ (State.jobFault_changes ..) (by decide)
      exact Changes.refl _ _

theorem State.writeStepSeed_changes (s : State) (j : Nat) (step : Dword) :
    Changes [.regs] s (State.writeStepSeed s j step) := by
  unfold State.writeStepSeed
  extract_lets a0
  clear_value a0
  refine Changes.foldl ?_ (fun u1 x2 => ?_)
  · exact Changes.refl _ _
  · refine Changes.step ?_ (State.setReg_changes ..) (by decide)
    refine Changes.step ?_ (State.setReg_changes ..) (by decide)
    refine Changes.step ?_ (State.setReg_changes ..) (by decide)
    refine Changes.step ?_ (State.setReg_changes ..) (by decide)
    exact Changes.refl _ _

theorem State.startAll_changes (s : State) (l : List (Nat × Nat)) :
    Changes [.regs, .cnt, .ls, .acc, .accFlags, .accBank1, .ue, .cores, .poolUsed, .dsp] s (State.startAll s l).1 := by
  induction l generalizing s with
  | nil => exact Changes.refl _ _
  | cons p l ih =>
    unfold State.startAll
    refine Changes.iteFst ?_ ?_
    · refine Changes.trans ?_ (ih ..)
      refine Changes.step ?_ (State.startCore_changes ..) (by decide)
      exact Changes.refl _ _
    · refine Changes.mkFst ?_
      refine Changes.step ?_ (State.startCore_changes ..) (by decide)
      exact Changes.refl _ _

theorem State.startGroups_changes (s : State) (l : List Nat) :
    Changes [.regs, .cnt, .ls, .acc, .accFlags, .accBank1, .ue, .cores, .poolUsed, .dsp] s (State.startGroups s l).1 := by
  induction l generalizing s with
  | nil => exact Changes.refl _ _
  | cons p l ih =>
    unfold State.startGroups
    extract_lets a0
    clear_value a0
    split
    · rename_i y1 y2 y3
      have h4 : Changes [.regs, .cnt, .ls, .acc, .accFlags, .accBank1, .ue, .cores, .poolUsed, .dsp] s y2 := by
        refine Changes.of_fst ?_ y3
        refine Changes.step ?_ (State.startAll_changes ..) (by decide)
        exact Changes.refl _ _
      refine Changes.trans ?_ (ih ..)
      refine Changes.step ?_ (State.groupStarted_changes ..) (by decide)
      assumption
    · rename_i y8 y9 y10
      have h11 : Changes [.regs, .cnt, .ls, .acc, .accFlags, .accBank1, .ue, .cores, .poolUsed, .dsp] s y9 := by
        refine Changes.of_fst ?_ y10
        refine Changes.step ?_ (State.startAll_changes ..) (by decide)
        exact Changes.refl _ _
      refine Changes.mkFst ?_
      assumption

theorem State.beginJob_changes (s : State) (m : Nat) (j : Nat) (eval : Bool) (starts : List (Nat × Nat)) :
    Changes [.regs, .cnt, .dpa, .ls, .acc, .accFlags, .accBank1, .sems, .mbx, .ue, .attach, .msgs, .commits, .ctxs,
        .accepted, .cores, .colls, .owed, .fetches, .wbs, .poolUsed, .jobs, .dsp, .mgmt, .nextId, .freeCtr] s
        (State.beginJob s m j eval starts) := by
  unfold State.beginJob
  extract_lets a0 a1 a2 a3
  clear_value a0
  have h4 : Changes [.regs, .cnt, .dpa, .ls, .acc, .accFlags, .accBank1, .sems, .mbx, .ue, .attach, .msgs, .commits, .ctxs,
      .accepted, .cores, .colls, .owed, .fetches, .wbs, .poolUsed, .jobs, .dsp, .mgmt, .nextId, .freeCtr] s a1 := by
    unfold a1
    refine Changes.step ?_ (State.updJob_changes ..) (by decide)
    exact Changes.refl _ _
  clear_value a1
  have h3 : Changes [.regs, .cnt, .dpa, .ls, .acc, .accFlags, .accBank1, .sems, .mbx, .ue, .attach, .msgs, .commits, .ctxs,
      .accepted, .cores, .colls, .owed, .fetches, .wbs, .poolUsed, .jobs, .dsp, .mgmt, .nextId, .freeCtr] s a2 := by
    unfold a2
    refine Changes.step ?_ (State.writeStepSeed_changes ..) (by decide)
    assumption
  clear_value a2
  have h7 : Changes [.regs, .cnt, .dpa, .ls, .acc, .accFlags, .accBank1, .sems, .mbx, .ue, .attach, .msgs, .commits, .ctxs,
      .accepted, .cores, .colls, .owed, .fetches, .wbs, .poolUsed, .jobs, .dsp, .mgmt, .nextId, .freeCtr] s a3 := by
    unfold a3
    refine Changes.step ?_ (State.jobState_changes ..) (by decide)
    assumption
  clear_value a3
  split
  · rename_i y5 y6 y7 y8
    have h9 : Changes [.regs, .cnt, .dpa, .ls, .acc, .accFlags, .accBank1, .sems, .mbx, .ue, .attach, .msgs, .commits,
        .ctxs, .accepted, .cores, .colls, .owed, .fetches, .wbs, .poolUsed, .jobs, .dsp, .mgmt, .nextId, .freeCtr] s y6 := by
      refine Changes.of_fst ?_ y8
      refine Changes.step ?_ (State.startAll_changes ..) (by decide)
      assumption
    extract_lets a0
    clear_value a0
    split
    · rename_i y1 y2 y3 y4
      have h5 : Changes [.regs, .cnt, .dpa, .ls, .acc, .accFlags, .accBank1, .sems, .mbx, .ue, .attach, .msgs, .commits,
          .ctxs, .accepted, .cores, .colls, .owed, .fetches, .wbs, .poolUsed, .jobs, .dsp, .mgmt, .nextId,
          .freeCtr] s y2 := by
        refine Changes.of_fst ?_ y4
        refine Changes.iteFst ?_ ?_
        · refine Changes.step ?_ (State.startGroups_changes ..) (by decide)
          assumption
        · refine Changes.mkFst ?_
          assumption
      refine Changes.ite ?_ ?_
      · refine Changes.step ?_ (State.ok_changes ..) (by decide)
        assumption
      · refine Changes.step ?_ (State.reply_changes ..) (by decide)
        refine Changes.step ?_ (State.jobFault_changes ..) (by decide)
        assumption

theorem State.startDrain_changes (s : State) (j : Nat) (mbx : Option Nat) (limit : Nat) :
    Changes [.regs, .dpa, .sems, .ue, .owed, .jobs, .dsp] s (State.startDrain s j mbx limit) := by
  unfold State.startDrain
  extract_lets a0 a1
  clear_value a0
  have h2 : Changes [.regs, .dpa, .sems, .ue, .owed, .jobs, .dsp] s a1 := by
    unfold a1
    refine Changes.step ?_ (State.updJob_changes ..) (by decide)
    refine Changes.step ?_ (State.jobState_changes ..) (by decide)
    exact Changes.refl _ _
  clear_value a1
  refine Changes.foldl ?_ (fun u6 x7 => ?_)
  · assumption
  · refine Changes.step ?_ (State.exitGroup_changes ..) (by decide)
    exact Changes.refl _ _

theorem State.drainLimit_changes (s : State) (j : Nat) :
    Changes [.regs, .cnt, .cores, .jobs] s (State.drainLimit s j) := by
  unfold State.drainLimit
  extract_lets a0 a1
  clear_value a0
  have h2 : Changes [.regs, .cnt, .cores, .jobs] s a1 := by
    unfold a1
    refine Changes.foldl ?_ (fun u3 x4 => ?_)
    · exact Changes.refl _ _
    · refine Changes.ite ?_ ?_
      · refine Changes.step ?_ (State.stopCore_changes ..) (by decide)
        exact Changes.refl _ _
      · exact Changes.refl _ _
  clear_value a1
  refine Changes.ite ?_ ?_
  · exact Changes.refl _ _
  · refine Changes.step ?_ (State.updJob_changes ..) (by decide)
    assumption

theorem State.drainColls_changes (s : State) (j : Nat) :
    Changes [.regs, .sems, .attach, .msgs, .cores, .colls, .owed, .jobs] s (State.drainColls s j) := by
  unfold State.drainColls
  extract_lets a0 a1 a2
  clear_value a0
  clear_value a1
  have h3 : Changes [.regs, .sems, .attach, .msgs, .cores, .colls, .owed, .jobs] s a2 := by
    unfold a2
    refine Changes.foldl ?_ (fun u4 x5 => ?_)
    · exact Changes.refl _ _
    · refine Changes.step ?_ (State.abortColls_changes ..) (by decide)
      exact Changes.refl _ _
  clear_value a2
  refine Changes.ite ?_ ?_
  · refine Changes.step ?_ (State.updJob_changes ..) (by decide)
    assumption
  · assumption

theorem State.drainRelease_changes (s : State) (j : Nat) :
    Changes [.regs, .cnt, .dpa, .sems, .ue, .attach, .msgs, .commits, .ctxs, .accepted, .cores, .owed, .fetches, .wbs,
        .atu, .nextId, .freeCtr] s (State.drainRelease s j) := by
  unfold State.drainRelease
  extract_lets a0 a1 a2 a3 a4
  clear_value a0
  have h10 : Changes [.regs, .cnt, .dpa, .sems, .ue, .attach, .msgs, .commits, .ctxs, .accepted, .cores, .owed, .fetches,
      .wbs, .atu, .nextId, .freeCtr] s a1 := by
    unfold a1
    refine Changes.foldl ?_ (fun u11 x12 => ?_)
    · exact Changes.refl _ _
    · refine Changes.ite ?_ ?_
      · refine Changes.step ?_ (State.clearCore_changes ..) (by decide)
        exact Changes.refl _ _
      · exact Changes.refl _ _
  clear_value a1
  have h13 : Changes [.regs, .cnt, .dpa, .sems, .ue, .attach, .msgs, .commits, .ctxs, .accepted, .cores, .owed, .fetches,
      .wbs, .atu, .nextId, .freeCtr] s a2 := by
    unfold a2
    refine Changes.step ?_ Changes.sems (by decide)
    assumption
  clear_value a2
  clear_value a3
  have h17 : Changes [.regs, .cnt, .dpa, .sems, .ue, .attach, .msgs, .commits, .ctxs, .accepted, .cores, .owed, .fetches,
      .wbs, .atu, .nextId, .freeCtr] s a4 := by
    unfold a4
    refine Changes.foldl ?_ (fun u21 x22 => ?_)
    · assumption
    · refine Changes.step ?_ (State.writeSdJobcmd_changes ..) (by decide)
      exact Changes.refl _ _
  clear_value a4
  refine Changes.foldl ?_ (fun u23 x24 => ?_)
  · refine Changes.step ?_ (State.dropCached_changes ..) (by decide)
    assumption
  · refine Changes.step ?_ (State.releaseJob_changes ..) (by decide)
    exact Changes.refl _ _

theorem State.clearJobMarks_changes (s : State) (job : Nat) :
    Changes [.regs] s (State.clearJobMarks s job) := by
  unfold State.clearJobMarks
  refine Changes.step ?_ (State.lower_changes ..) (by decide)
  refine Changes.step ?_ (State.lower_changes ..) (by decide)
  refine Changes.foldl ?_ (fun _ _ => State.lower_changes ..)
  exact Changes.foldl (Changes.refl _ _) (fun _ _ => State.lower_changes ..)

theorem State.renewShutters_changes (s : State) (job : Nat) :
    Changes [.regs, .links, .shutters] s (State.renewShutters s job) := by
  unfold State.renewShutters
  refine Changes.foldl ?_ (fun u0 x1 => ?_)
  · exact Changes.refl _ _
  · extract_lets a2
    clear_value a2
    refine Changes.ite ?_ ?_
    · refine Changes.step ?_ (State.writeShutCfg_changes ..) (by decide)
      refine Changes.step ?_ (State.writeShutCfg_changes ..) (by decide)
      exact Changes.refl _ _
    · exact Changes.refl _ _

theorem State.endDrain_changes (s : State) (j : Nat) (d : DrainRun) :
    Changes [.regs, .mbx, .poolUsed, .jobs, .dsp, .mgmt] s (State.endDrain s j d) := by
  unfold State.endDrain
  extract_lets a0 a1 a2 a3 a4
  clear_value a0
  have h5 : Changes [.regs, .mbx, .poolUsed, .jobs, .dsp, .mgmt] s a1 := by
    unfold a1
    refine Changes.ite ?_ ?_
    · refine Changes.step ?_ (State.updJob_changes ..) (by decide)
      refine Changes.step ?_ (State.setStep_changes ..) (by decide)
      exact Changes.refl _ _
    · refine Changes.ite ?_ ?_
      · refine Changes.step ?_ (State.updJob_changes ..) (by decide)
        exact Changes.refl _ _
      · exact Changes.refl _ _
  clear_value a1
  have h16 : Changes [.regs, .mbx, .poolUsed, .jobs, .dsp, .mgmt] s a2 := by
    unfold a2
    refine Changes.step ?_ (State.updJob_changes ..) (by decide)
    refine Changes.step ?_ (State.jobState_changes ..) (by decide)
    assumption
  clear_value a2
  have h9 : Changes [.regs, .mbx, .poolUsed, .jobs, .dsp, .mgmt] s a3 := by
    unfold a3
    refine Changes.foldl ?_ (fun u17 x18 => ?_)
    · assumption
    · refine Changes.step ?_ (State.groupOff_changes ..) (by decide)
      exact Changes.refl _ _
  clear_value a3
  have h24 : Changes [.regs, .mbx, .poolUsed, .jobs, .dsp, .mgmt] s a4 := by
    unfold a4
    refine Changes.step ?_ (State.slotEvent_changes ..) (by decide)
    assumption
  clear_value a4
  split
  · refine Changes.step ?_ (State.ok_changes ..) (by decide)
    assumption
  · assumption

theorem State.deviceDrain_changes (s : State) :
    Changes [.dev, .regs, .dpa, .sems, .mbx, .ue, .owed, .jobs, .dsp, .mgmt] s (State.deviceDrain s) := by
  unfold State.deviceDrain
  split
  · exact Changes.refl _ _
  · extract_lets a12 a13 a14 a15
    have h16 : Changes [.dev, .regs, .dpa, .sems, .mbx, .ue, .owed, .jobs, .dsp, .mgmt] s a12 := by
      unfold a12
      refine Changes.foldl ?_ (fun u18 x19 => ?_)
      · exact Changes.refl _ _
      · extract_lets a20
        refine Changes.ite ?_ ?_
        · refine Changes.step ?_ (State.startDrain_changes ..) (by decide)
          exact Changes.refl _ _
        · exact Changes.refl _ _
    clear_value a12
    clear_value a13
    clear_value a14
    have h25 : Changes [.dev, .regs, .dpa, .sems, .mbx, .ue, .owed, .jobs, .dsp, .mgmt] s a15 := by
      unfold a15
      refine Changes.step ?_ Changes.mgmt (by decide)
      assumption
    clear_value a15
    refine Changes.ite ?_ ?_
    · refine Changes.step ?_ (State.ok_changes ..) (by decide)
      refine Changes.step ?_ (State.setDev_changes ..) (by decide)
      assumption
    · assumption

theorem State.drainComplete_changes (s : State) (j : Nat) :
    Changes [.dev, .regs, .cnt, .dpa, .sems, .mbx, .ue, .links, .attach, .msgs, .commits, .ctxs, .accepted, .cores, .colls,
        .owed, .fetches, .wbs, .atu, .poolUsed, .shutters, .jobs, .dsp, .mgmt, .nextId, .freeCtr] s
        (State.drainComplete s j) := by
  unfold State.drainComplete
  extract_lets a0
  clear_value a0
  split
  · exact Changes.refl _ _
  · refine Changes.ite ?_ ?_
    · exact Changes.refl _ _
    · extract_lets a6 a7 a8 a9 a10
      have h11 : Changes [.dev, .regs, .cnt, .dpa, .sems, .mbx, .ue, .links, .attach, .msgs, .commits, .ctxs, .accepted,
          .cores, .colls, .owed, .fetches, .wbs, .atu, .poolUsed, .shutters, .jobs, .dsp, .mgmt, .nextId,
          .freeCtr] s a6 := by
        unfold a6
        refine Changes.ite ?_ ?_
        · exact Changes.refl _ _
        · refine Changes.step ?_ (State.drainColls_changes ..) (by decide)
          exact Changes.refl _ _
      clear_value a6
      have h0 : Changes [.dev, .regs, .cnt, .dpa, .sems, .mbx, .ue, .links, .attach, .msgs, .commits, .ctxs, .accepted,
          .cores, .colls, .owed, .fetches, .wbs, .atu, .poolUsed, .shutters, .jobs, .dsp, .mgmt, .nextId,
          .freeCtr] s a7 := by
        unfold a7
        refine Changes.ite ?_ ?_
        · assumption
        · refine Changes.step ?_ (State.drainRelease_changes ..) (by decide)
          assumption
      clear_value a7
      clear_value a8
      have h7 : Changes [.dev, .regs, .cnt, .dpa, .sems, .mbx, .ue, .links, .attach, .msgs, .commits, .ctxs, .accepted,
          .cores, .colls, .owed, .fetches, .wbs, .atu, .poolUsed, .shutters, .jobs, .dsp, .mgmt, .nextId,
          .freeCtr] s a9 := by
        unfold a9
        refine Changes.step ?_ (State.clearJobMarks_changes ..) (by decide)
        assumption
      clear_value a9
      have h8 : Changes [.dev, .regs, .cnt, .dpa, .sems, .mbx, .ue, .links, .attach, .msgs, .commits, .ctxs, .accepted,
          .cores, .colls, .owed, .fetches, .wbs, .atu, .poolUsed, .shutters, .jobs, .dsp, .mgmt, .nextId,
          .freeCtr] s a10 := by
        unfold a10
        refine Changes.ite ?_ ?_
        · refine Changes.step ?_ (State.renewShutters_changes ..) (by decide)
          assumption
        · assumption
      clear_value a10
      refine Changes.ite ?_ ?_
      · assumption
      · refine Changes.ite ?_ ?_
        · refine Changes.step ?_ (State.updJob_changes ..) (by decide)
          assumption
        · refine Changes.step ?_ (State.deviceDrain_changes ..) (by decide)
          refine Changes.step ?_ (State.endDrain_changes ..) (by decide)
          assumption

theorem State.mirrorWrite_changes (s : State) (j : Nat) (slot : Nat) (ep : Nat) (o : Owner) (va : Nat) (bs : List Byte) :
    Changes [.attach, .msgs, .nextId] s (State.mirrorWrite s j slot ep o va bs) := by
  unfold State.mirrorWrite
  extract_lets a0 a1
  clear_value a0
  clear_value a1
  refine Changes.step ?_ (State.sendParts_changes ..) (by decide)
  exact Changes.refl _ _

theorem State.regionPages_changes (s : State) (j f a want : Nat) :
    Changes [.regs, .owed, .atu, .freeCtr] s (State.regionPages s j f a want).1 := by
  induction f generalizing s a want with
  | zero => exact Changes.refl _ _
  | succ f ih =>
    unfold State.regionPages
    refine Changes.iteFst ?_ ?_
    · refine Changes.mkFst ?_
      exact Changes.refl _ _
    · split
      · rename_i y4 y5 y6 y7
        have h8 : Changes [.regs, .owed, .atu, .freeCtr] s y5 := by
          refine Changes.of_fst ?_ y7
          refine Changes.step ?_ (State.vaRange_changes ..) (by decide)
          exact Changes.refl _ _
        split
        · refine Changes.mkFst ?_
          refine Changes.step ?_ (State.dpaUe_changes ..) (by decide)
          assumption
        · extract_lets a16
          clear_value a16
          split
          · rename_i y17 y18 y19 y20
            have h21 : Changes [.regs, .owed, .atu, .freeCtr] s y18 := by
              refine Changes.of_fst ?_ y20
              refine Changes.trans ?_ (ih ..)
              assumption
            refine Changes.mkFst ?_
            assumption
          · rename_i y22 y23 y24 y25
            have h26 : Changes [.regs, .owed, .atu, .freeCtr] s y23 := by
              refine Changes.of_fst ?_ y25
              refine Changes.trans ?_ (ih ..)
              assumption
            refine Changes.mkFst ?_
            assumption
      · rename_i y27 y28 y29 y30
        have h31 : Changes [.regs, .owed, .atu, .freeCtr] s y28 := by
          refine Changes.of_fst ?_ y30
          refine Changes.step ?_ (State.vaRange_changes ..) (by decide)
          exact Changes.refl _ _
        refine Changes.mkFst ?_
        refine Changes.step ?_ (State.dpaUe_changes ..) (by decide)
        assumption
      · rename_i y32 y33 y34 y35 y36 y37
        have h38 : Changes [.regs, .owed, .atu, .freeCtr] s y33 := by
          refine Changes.of_fst ?_ y37
          refine Changes.step ?_ (State.vaRange_changes ..) (by decide)
          exact Changes.refl _ _
        refine Changes.mkFst ?_
        refine Changes.step ?_ (State.vaDenied_changes ..) (by decide)
        assumption

theorem State.mirrorPage_changes (s : State) (j : Nat) (half : Nat) (i : Nat) (va : Nat) :
    Changes [.regs, .attach, .msgs, .owed, .atu, .nextId, .freeCtr] s (State.mirrorPage s j half i va).1 := by
  unfold State.mirrorPage
  split
  · rename_i y1 y2 y3 y4
    have h5 : Changes [.regs, .attach, .msgs, .owed, .atu, .nextId, .freeCtr] s y2 := by
      refine Changes.of_fst ?_ y4
      refine Changes.step ?_ (State.vaRange_changes ..) (by decide)
      exact Changes.refl _ _
    extract_lets a4 a5 a6
    clear_value a4
    clear_value a5
    clear_value a6
    refine Changes.iteFst ?_ ?_
    · refine Changes.mkFst ?_
      refine Changes.step ?_ (State.vaDenied_changes ..) (by decide)
      assumption
    · split
      · refine Changes.mkFst ?_
        refine Changes.step ?_ (State.dpaUe_changes ..) (by decide)
        assumption
      · refine Changes.mkFst ?_
        refine Changes.step ?_ (State.mirrorWrite_changes ..) (by decide)
        assumption
  · rename_i y3 y4 y5 y6
    have h7 : Changes [.regs, .attach, .msgs, .owed, .atu, .nextId, .freeCtr] s y4 := by
      refine Changes.of_fst ?_ y6
      refine Changes.step ?_ (State.vaRange_changes ..) (by decide)
      exact Changes.refl _ _
    refine Changes.mkFst ?_
    refine Changes.step ?_ (State.dpaUe_changes ..) (by decide)
    assumption
  · rename_i y9 y10 y11 y12 y13 y14
    have h15 : Changes [.regs, .attach, .msgs, .owed, .atu, .nextId, .freeCtr] s y10 := by
      refine Changes.of_fst ?_ y14
      refine Changes.step ?_ (State.vaRange_changes ..) (by decide)
      exact Changes.refl _ _
    refine Changes.mkFst ?_
    refine Changes.step ?_ (State.vaDenied_changes ..) (by decide)
    assumption

theorem State.mirrorPages_changes (s : State) (j half : Nat) (l : List (Nat × Nat)) :
    Changes [.regs, .attach, .msgs, .owed, .atu, .nextId, .freeCtr] s (State.mirrorPages s j half l).1 := by
  induction l generalizing s with
  | nil => exact Changes.refl _ _
  | cons p l ih =>
    unfold State.mirrorPages
    split
    · rename_i y0 y1 y2
      have h3 : Changes [.regs, .attach, .msgs, .owed, .atu, .nextId, .freeCtr] s y1 := by
        refine Changes.of_fst ?_ y2
        refine Changes.step ?_ (State.mirrorPage_changes ..) (by decide)
        exact Changes.refl _ _
      refine Changes.trans ?_ (ih ..)
      assumption
    · rename_i y8 y9 y10 y11
      have h12 : Changes [.regs, .attach, .msgs, .owed, .atu, .nextId, .freeCtr] s y9 := by
        refine Changes.of_fst ?_ y11
        refine Changes.step ?_ (State.mirrorPage_changes ..) (by decide)
        exact Changes.refl _ _
      refine Changes.mkFst ?_
      assumption

theorem State.failMirror_changes (s : State) (j : Nat) (code : Nat) :
    Changes [.regs, .cnt, .dpa, .sems, .mbx, .ue, .attach, .msgs, .commits, .ctxs, .accepted, .cores, .colls, .owed,
        .fetches, .wbs, .jobs, .mgmt, .nextId, .freeCtr] s (State.failMirror s j code) := by
  unfold State.failMirror
  refine Changes.step ?_ (State.jobFault_changes ..) (by decide)
  exact Changes.refl _ _

theorem State.startMirror_changes (s : State) (m : Nat) (j : Nat) :
    Changes [.regs, .cnt, .dpa, .sems, .mbx, .ue, .attach, .msgs, .commits, .ctxs, .accepted, .cores, .colls, .owed,
        .fetches, .wbs, .atu, .jobs, .mgmt, .nextId, .freeCtr] s (State.startMirror s m j) := by
  unfold State.startMirror
  extract_lets a0 a1 a2 a3
  clear_value a0
  clear_value a1
  have h4 : Changes [.regs, .cnt, .dpa, .sems, .mbx, .ue, .attach, .msgs, .commits, .ctxs, .accepted, .cores, .colls,
      .owed, .fetches, .wbs, .atu, .jobs, .mgmt, .nextId, .freeCtr] s a2 := by
    unfold a2
    refine Changes.step ?_ (State.updJob_changes ..) (by decide)
    exact Changes.refl _ _
  clear_value a2
  have h3 : Changes [.regs, .cnt, .dpa, .sems, .mbx, .ue, .attach, .msgs, .commits, .ctxs, .accepted, .cores, .colls,
      .owed, .fetches, .wbs, .atu, .jobs, .mgmt, .nextId, .freeCtr] s a3 := by
    unfold a3
    refine Changes.step ?_ (State.mirrorWrite_changes ..) (by decide)
    assumption
  clear_value a3
  split
  · rename_i y39 y40 y41 y42
    have h43 : Changes [.regs, .cnt, .dpa, .sems, .mbx, .ue, .attach, .msgs, .commits, .ctxs, .accepted, .cores, .colls,
        .owed, .fetches, .wbs, .atu, .jobs, .mgmt, .nextId, .freeCtr] s y40 := by
      refine Changes.of_fst ?_ y42
      refine Changes.step ?_ (State.regionPages_changes ..) (by decide)
      assumption
    refine Changes.step ?_ (State.failMirror_changes ..) (by decide)
    assumption
  · rename_i y44 y45 y46 y47
    have h48 : Changes [.regs, .cnt, .dpa, .sems, .mbx, .ue, .attach, .msgs, .commits, .ctxs, .accepted, .cores, .colls,
        .owed, .fetches, .wbs, .atu, .jobs, .mgmt, .nextId, .freeCtr] s y45 := by
      refine Changes.of_fst ?_ y47
      refine Changes.step ?_ (State.regionPages_changes ..) (by decide)
      assumption
    split
    · rename_i y49 y50 y51 y52
      have h53 : Changes [.regs, .cnt, .dpa, .sems, .mbx, .ue, .attach, .msgs, .commits, .ctxs, .accepted, .cores, .colls,
          .owed, .fetches, .wbs, .atu, .jobs, .mgmt, .nextId, .freeCtr] s y50 := by
        refine Changes.of_fst ?_ y52
        refine Changes.step ?_ (State.mirrorPages_changes ..) (by decide)
        assumption
      refine Changes.step ?_ (State.failMirror_changes ..) (by decide)
      assumption
    · rename_i y54 y55 y56
      have h57 : Changes [.regs, .cnt, .dpa, .sems, .mbx, .ue, .attach, .msgs, .commits, .ctxs, .accepted, .cores, .colls,
          .owed, .fetches, .wbs, .atu, .jobs, .mgmt, .nextId, .freeCtr] s y55 := by
        refine Changes.of_fst ?_ y56
        refine Changes.step ?_ (State.mirrorPages_changes ..) (by decide)
        assumption
      refine Changes.step ?_ (State.updJob_changes ..) (by decide)
      assumption

theorem State.mirrorComplete_changes (s : State) (j : Nat) :
    Changes [.dev, .regs, .dpa, .sems, .mbx, .ue, .attach, .msgs, .owed, .jobs, .dsp, .mgmt, .nextId] s
        (State.mirrorComplete s j) := by
  unfold State.mirrorComplete
  extract_lets a0
  clear_value a0
  split
  · exact Changes.refl _ _
  · refine Changes.ite ?_ ?_
    · exact Changes.refl _ _
    · extract_lets a0 a1
      have h2 : Changes [.dev, .regs, .dpa, .sems, .mbx, .ue, .attach, .msgs, .owed, .jobs, .dsp, .mgmt, .nextId] s a0 := by
        unfold a0
        refine Changes.step ?_ (State.mirrorWrite_changes ..) (by decide)
        exact Changes.refl _ _
      clear_value a0
      have h9 : Changes [.dev, .regs, .dpa, .sems, .mbx, .ue, .attach, .msgs, .owed, .jobs, .dsp, .mgmt, .nextId] s a1 := by
        unfold a1
        refine Changes.step ?_ (State.updJob_changes ..) (by decide)
        assumption
      clear_value a1
      refine Changes.step ?_ (State.deviceDrain_changes ..) (by decide)
      refine Changes.step ?_ (State.endMirror_changes ..) (by decide)
      assumption

/-! ### Canonical form -/

theorem State.endMirror_wf (s : State) (j : Nat) (code : Nat) (res : List Byte) :
    KeepsWf s (State.endMirror s j code res) := by
  unfold State.endMirror
  split
  · exact KeepsWf.refl _
  · extract_lets a5 a6 a7
    clear_value a5
    have h8 : KeepsWf s a6 := by
      unfold a6
      refine KeepsWf.foldl ?_ (fun u9 x10 => ?_)
      · exact KeepsWf.refl _
      · refine KeepsWf.trans ?_ (KeepsWf.of_changes (State.dropMsg_changes ..) (by decide))
        exact KeepsWf.refl _
    clear_value a6
    have h2 : KeepsWf s a7 := by
      unfold a7
      refine KeepsWf.trans ?_ (KeepsWf.of_changes (State.slotEvent_changes ..) (by decide))
      refine KeepsWf.trans ?_ (KeepsWf.of_changes (State.updJob_changes ..) (by decide))
      assumption
    clear_value a7
    refine KeepsWf.ite ?_ ?_
    · refine KeepsWf.trans ?_ (State.ok_wf ..)
      assumption
    · refine KeepsWf.trans ?_ (State.reply_wf ..)
      assumption

theorem State.applyNotice_wf (s : State) (job : Nat) (code : Nat) :
    KeepsWf s (State.applyNotice s job code) := by
  unfold State.applyNotice
  extract_lets a0 a1
  have h3 : KeepsWf s a0 := by
    unfold a0
    refine KeepsWf.foldl ?_ (fun u4 x5 => ?_)
    · exact KeepsWf.refl _
    · refine KeepsWf.trans ?_ (State.writeSdJobcmd_wf ..)
      exact KeepsWf.refl _
  clear_value a0
  have h1 : KeepsWf s a1 := by
    unfold a1
    refine KeepsWf.foldl ?_ (fun u4 x5 => ?_)
    · assumption
    · refine KeepsWf.trans ?_ (State.abortColls_wf ..)
      exact KeepsWf.refl _
  clear_value a1
  split
  · assumption
  · extract_lets a11
    have h12 : KeepsWf s a11 := by
      unfold a11
      refine KeepsWf.foldl ?_ (fun u13 x14 => ?_)
      · assumption
      · refine KeepsWf.trans ?_ (State.abortPager_wf ..)
        exact KeepsWf.refl _
    clear_value a11
    refine KeepsWf.trans ?_ (State.endMirror_wf ..)
    refine KeepsWf.trans ?_ (KeepsWf.of_changes (State.recordJobFault_changes ..) (by decide))
    assumption

theorem State.jobFault_wf (s : State) (job : Nat) (code : Nat) :
    KeepsWf s (State.jobFault s job code) := by
  unfold State.jobFault
  extract_lets a0 a1
  clear_value a0
  have h2 : KeepsWf s a1 := by
    unfold a1
    refine KeepsWf.trans ?_ (State.applyNotice_wf ..)
    exact KeepsWf.refl _
  clear_value a1
  split
  · assumption
  · refine KeepsWf.trans ?_ (KeepsWf.of_changes (State.sendToJob_changes ..) (by decide))
    assumption

theorem State.jobFaultNotice_wf (s : State) :
    KeepsWf s (State.jobFaultNotice s) := by
  unfold State.jobFaultNotice
  refine KeepsWf.ite ?_ ?_
  · exact KeepsWf.refl _
  · split
    · exact KeepsWf.refl _
    · rename_i y11 y12 y13 y14
      have h15 : KeepsWf s y13 := by
        refine KeepsWf.trans ?_ (KeepsWf.of_changes (State.takeArrival_changes y14) (by decide))
        exact KeepsWf.refl _
      extract_lets a16 a17
      clear_value a16
      clear_value a17
      refine KeepsWf.ite ?_ ?_
      · assumption
      · refine KeepsWf.trans ?_ (State.applyNotice_wf ..)
        assumption

theorem State.settle_wf (s : State) (k : OwedAt) (n : Nat) :
    KeepsWf s (State.settle s k n) := by
  unfold State.settle
  extract_lets a0
  refine KeepsWf.foldl ?_ (fun u1 x2 => ?_)
  · refine KeepsWf.trans ?_ (KeepsWf.of_changes Changes.owed (by decide))
    exact KeepsWf.refl _
  · refine KeepsWf.trans ?_ (State.jobFault_wf ..)
    exact KeepsWf.refl _

theorem State.serviceSite_wf (s : State) (f : FaultSite) :
    KeepsWf s (State.serviceSite s f) := by
  unfold State.serviceSite
  extract_lets a0 a1 a2 a3 a4 a5 a6 a7
  clear_value a0
  clear_value a1
  clear_value a2
  have h8 : KeepsWf s a3 := by
    unfold a3
    refine KeepsWf.trans ?_ (KeepsWf.of_changes (State.writeTimeCause_changes ..) (by decide))
    refine KeepsWf.trans ?_ (KeepsWf.of_changes (State.clearMarks_changes ..) (by decide))
    exact KeepsWf.refl _
  clear_value a3
  clear_value a4
  have h9 : KeepsWf s a5 := by
    unfold a5
    refine KeepsWf.trans ?_ (KeepsWf.of_changes (State.writeDspCause_changes ..) (by decide))
    exact KeepsWf.refl _
  clear_value a5
  clear_value a6
  have h10 : KeepsWf s a7 := by
    unfold a7
    refine KeepsWf.trans ?_ (KeepsWf.of_changes Changes.dsp (by decide))
    assumption
  clear_value a7
  split
  · extract_lets a13 a14
    clear_value a13
    clear_value a14
    refine KeepsWf.trans ?_ (State.jobFault_wf ..)
    refine KeepsWf.trans ?_ (KeepsWf.of_changes (State.writeCoreCause_changes ..) (by decide))
    exact KeepsWf.refl _
  · extract_lets a17 a18
    clear_value a17
    have h19 : KeepsWf s a18 := by
      unfold a18
      refine KeepsWf.trans ?_ (KeepsWf.of_changes (State.writeSdCause_changes ..) (by decide))
      refine KeepsWf.trans ?_ (KeepsWf.of_changes (State.clearMarks_changes ..) (by decide))
      exact KeepsWf.refl _
    clear_value a18
    refine KeepsWf.foldl ?_ (fun u6 x7 => ?_)
    · assumption
    · refine KeepsWf.trans ?_ (State.jobFault_wf ..)
      exact KeepsWf.refl _
  · refine KeepsWf.trans ?_ (State.settle_wf ..)
    refine KeepsWf.trans ?_ (KeepsWf.of_changes (State.writeMemcause_changes ..) (by decide))
    exact KeepsWf.refl _
  · refine KeepsWf.trans ?_ (State.settle_wf ..)
    refine KeepsWf.trans ?_ (KeepsWf.of_changes (State.writeSemcause_changes ..) (by decide))
    exact KeepsWf.refl _
  · refine KeepsWf.trans ?_ (State.settle_wf ..)
    refine KeepsWf.trans ?_ (KeepsWf.of_changes (State.writeCollcause_changes ..) (by decide))
    exact KeepsWf.refl _
  · refine KeepsWf.foldl ?_ (fun u16 x17 => ?_)
    · assumption
    · refine KeepsWf.trans ?_ (State.jobFault_wf ..)
      exact KeepsWf.refl _
  · refine KeepsWf.foldl ?_ (fun u19 x20 => ?_)
    · assumption
    · refine KeepsWf.trans ?_ (State.jobFault_wf ..)
      exact KeepsWf.refl _

theorem State.jobFaultService_wf (s : State) :
    KeepsWf s (State.jobFaultService s) := by
  unfold State.jobFaultService
  refine KeepsWf.ite ?_ ?_
  · exact KeepsWf.refl _
  · extract_lets a1
    clear_value a1
    refine KeepsWf.ite ?_ ?_
    · refine KeepsWf.trans ?_ (KeepsWf.of_changes (State.clearLeaves_changes ..) (by decide))
      exact KeepsWf.refl _
    · split
      · refine KeepsWf.trans ?_ (State.serviceSite_wf ..)
        refine KeepsWf.ite ?_ ?_
        · exact KeepsWf.refl _
        · refine KeepsWf.trans ?_ (KeepsWf.of_changes (State.drawn_changes ..) (by decide))
          exact KeepsWf.refl _
      · exact KeepsWf.refl _

theorem State.xbarJmapService_wf (s : State) :
    KeepsWf s (State.xbarJmapService s) := by
  unfold State.xbarJmapService
  refine KeepsWf.ite ?_ ?_
  · exact KeepsWf.refl _
  · extract_lets a0 a1
    clear_value a0
    have h2 : KeepsWf s a1 := by
      unfold a1
      refine KeepsWf.trans ?_ (KeepsWf.of_changes (State.writeXbarCause_changes ..) (by decide))
      refine KeepsWf.trans ?_ (KeepsWf.of_changes (State.clearMarks_changes ..) (by decide))
      exact KeepsWf.refl _
    clear_value a1
    refine KeepsWf.foldl ?_ (fun u7 x8 => ?_)
    · assumption
    · refine KeepsWf.trans ?_ (State.jobFault_wf ..)
      exact KeepsWf.refl _

theorem State.portJmapService_wf (s : State) (n : Nat) :
    KeepsWf s (State.portJmapService s n) := by
  unfold State.portJmapService
  extract_lets a0 a1 a2 a3 a4
  clear_value a0
  clear_value a1
  clear_value a2
  have h7 : KeepsWf s a3 := by
    unfold a3
    refine KeepsWf.trans ?_ (KeepsWf.of_changes (State.writePortCause_changes ..) (by decide))
    refine KeepsWf.trans ?_ (KeepsWf.of_changes (State.clearMarks_changes ..) (by decide))
    exact KeepsWf.refl _
  clear_value a3
  have h0 : KeepsWf s a4 := by
    unfold a4
    refine KeepsWf.trans ?_ (KeepsWf.of_changes (State.lower_changes ..) (by decide))
    assumption
  clear_value a4
  refine KeepsWf.ite ?_ ?_
  · exact KeepsWf.refl _
  · refine KeepsWf.foldl ?_ (fun u5 x6 => ?_)
    · assumption
    · refine KeepsWf.trans ?_ (State.jobFault_wf ..)
      exact KeepsWf.refl _

theorem State.startAll_wf (s : State) (l : List (Nat × Nat)) :
    KeepsWf s (State.startAll s l).1 := by
  induction l generalizing s with
  | nil => exact KeepsWf.refl _
  | cons p l ih =>
    unfold State.startAll
    refine KeepsWf.iteFst ?_ ?_
    · refine KeepsWf.trans ?_ (ih ..)
      refine KeepsWf.trans ?_ (State.startCore_wf ..)
      exact KeepsWf.refl _
    · refine KeepsWf.mkFst ?_
      refine KeepsWf.trans ?_ (State.startCore_wf ..)
      exact KeepsWf.refl _

theorem State.startGroups_wf (s : State) (l : List Nat) :
    KeepsWf s (State.startGroups s l).1 := by
  induction l generalizing s with
  | nil => exact KeepsWf.refl _
  | cons p l ih =>
    unfold State.startGroups
    extract_lets a0
    clear_value a0
    split
    · rename_i y1 y2 y3
      have h4 : KeepsWf s y2 := by
        refine KeepsWf.of_fst ?_ y3
        refine KeepsWf.trans ?_ (State.startAll_wf ..)
        exact KeepsWf.refl _
      refine KeepsWf.trans ?_ (ih ..)
      refine KeepsWf.trans ?_ (KeepsWf.of_changes (State.groupStarted_changes ..) (by decide))
      assumption
    · rename_i y5 y6 y7
      have h8 : KeepsWf s y6 := by
        refine KeepsWf.of_fst ?_ y7
        refine KeepsWf.trans ?_ (State.startAll_wf ..)
        exact KeepsWf.refl _
      refine KeepsWf.mkFst ?_
      assumption

theorem State.beginJob_wf (s : State) (m : Nat) (j : Nat) (eval : Bool) (starts : List (Nat × Nat)) :
    KeepsWf s (State.beginJob s m j eval starts) := by
  unfold State.beginJob
  extract_lets a0 a1 a2 a3
  clear_value a0
  have h4 : KeepsWf s a1 := by
    unfold a1
    refine KeepsWf.trans ?_ (KeepsWf.of_changes (State.updJob_changes ..) (by decide))
    exact KeepsWf.refl _
  clear_value a1
  have h5 : KeepsWf s a2 := by
    unfold a2
    refine KeepsWf.trans ?_ (KeepsWf.of_changes (State.writeStepSeed_changes ..) (by decide))
    assumption
  clear_value a2
  have h8 : KeepsWf s a3 := by
    unfold a3
    refine KeepsWf.trans ?_ (KeepsWf.of_changes (State.jobState_changes ..) (by decide))
    assumption
  clear_value a3
  split
  · rename_i y21 y22 y23 y24
    have h25 : KeepsWf s y22 := by
      refine KeepsWf.of_fst ?_ y24
      refine KeepsWf.trans ?_ (State.startAll_wf ..)
      assumption
    extract_lets a26
    clear_value a26
    split
    · rename_i y27 y28 y29 y30
      have h31 : KeepsWf s y28 := by
        refine KeepsWf.of_fst ?_ y30
        refine KeepsWf.iteFst ?_ ?_
        · refine KeepsWf.trans ?_ (State.startGroups_wf ..)
          assumption
        · refine KeepsWf.mkFst ?_
          assumption
      refine KeepsWf.ite ?_ ?_
      · refine KeepsWf.trans ?_ (State.ok_wf ..)
        assumption
      · refine KeepsWf.trans ?_ (State.reply_wf ..)
        refine KeepsWf.trans ?_ (State.jobFault_wf ..)
        assumption

theorem State.startDrain_wf (s : State) (j : Nat) (mbx : Option Nat) (limit : Nat) :
    KeepsWf s (State.startDrain s j mbx limit) := by
  unfold State.startDrain
  extract_lets a0 a1
  clear_value a0
  have h2 : KeepsWf s a1 := by
    unfold a1
    refine KeepsWf.trans ?_ (KeepsWf.of_changes (State.updJob_changes ..) (by decide))
    refine KeepsWf.trans ?_ (KeepsWf.of_changes (State.jobState_changes ..) (by decide))
    exact KeepsWf.refl _
  clear_value a1
  refine KeepsWf.foldl ?_ (fun u9 x10 => ?_)
  · assumption
  · refine KeepsWf.trans ?_ (State.exitGroup_wf ..)
    exact KeepsWf.refl _

theorem State.drainLimit_wf (s : State) (j : Nat) :
    KeepsWf s (State.drainLimit s j) := by
  unfold State.drainLimit
  extract_lets a0 a1
  clear_value a0
  have h2 : KeepsWf s a1 := by
    unfold a1
    refine KeepsWf.foldl ?_ (fun u3 x4 => ?_)
    · exact KeepsWf.refl _
    · refine KeepsWf.ite ?_ ?_
      · refine KeepsWf.trans ?_ (State.stopCore_wf ..)
        exact KeepsWf.refl _
      · exact KeepsWf.refl _
  clear_value a1
  refine KeepsWf.ite ?_ ?_
  · exact KeepsWf.refl _
  · refine KeepsWf.trans ?_ (KeepsWf.of_changes (State.updJob_changes ..) (by decide))
    assumption

theorem State.drainColls_wf (s : State) (j : Nat) :
    KeepsWf s (State.drainColls s j) := by
  unfold State.drainColls
  extract_lets a0 a1 a2
  clear_value a0
  clear_value a1
  have h3 : KeepsWf s a2 := by
    unfold a2
    refine KeepsWf.foldl ?_ (fun u4 x5 => ?_)
    · exact KeepsWf.refl _
    · refine KeepsWf.trans ?_ (State.abortColls_wf ..)
      exact KeepsWf.refl _
  clear_value a2
  refine KeepsWf.ite ?_ ?_
  · refine KeepsWf.trans ?_ (KeepsWf.of_changes (State.updJob_changes ..) (by decide))
    assumption
  · assumption

theorem State.drainRelease_wf (s : State) (j : Nat) :
    KeepsWf s (State.drainRelease s j) := by
  unfold State.drainRelease
  extract_lets a0 a1 a2 a3 a4
  clear_value a0
  have h5 : KeepsWf s a1 := by
    unfold a1
    refine KeepsWf.foldl ?_ (fun u6 x7 => ?_)
    · exact KeepsWf.refl _
    · refine KeepsWf.ite ?_ ?_
      · refine KeepsWf.trans ?_ (KeepsWf.of_changes (State.clearCore_changes ..) (by decide))
        exact KeepsWf.refl _
      · exact KeepsWf.refl _
  clear_value a1
  have h1 : KeepsWf s a2 := by
    unfold a2
    refine KeepsWf.trans ?_ (KeepsWf.sems fun h => mwf_mfilter h _)
    assumption
  clear_value a2
  clear_value a3
  have h16 : KeepsWf s a4 := by
    unfold a4
    refine KeepsWf.foldl ?_ (fun u18 x19 => ?_)
    · assumption
    · refine KeepsWf.trans ?_ (State.writeSdJobcmd_wf ..)
      exact KeepsWf.refl _
  clear_value a4
  refine KeepsWf.foldl ?_ (fun u20 x21 => ?_)
  · refine KeepsWf.trans ?_ (KeepsWf.of_changes (State.dropCached_changes ..) (by decide))
    assumption
  · refine KeepsWf.trans ?_ (State.releaseJob_wf ..)
    exact KeepsWf.refl _

theorem State.endDrain_wf (s : State) (j : Nat) (d : DrainRun) :
    KeepsWf s (State.endDrain s j d) := by
  unfold State.endDrain
  extract_lets a0 a1 a2 a3 a4
  clear_value a0
  have h8 : KeepsWf s a1 := by
    unfold a1
    refine KeepsWf.ite ?_ ?_
    · refine KeepsWf.trans ?_ (KeepsWf.of_changes (State.updJob_changes ..) (by decide))
      refine KeepsWf.trans ?_ (KeepsWf.of_changes (State.setStep_changes ..) (by decide))
      exact KeepsWf.refl _
    · refine KeepsWf.ite ?_ ?_
      · refine KeepsWf.trans ?_ (KeepsWf.of_changes (State.updJob_changes ..) (by decide))
        exact KeepsWf.refl _
      · exact KeepsWf.refl _
  clear_value a1
  have h17 : KeepsWf s a2 := by
    unfold a2
    refine KeepsWf.trans ?_ (KeepsWf.of_changes (State.updJob_changes ..) (by decide))
    refine KeepsWf.trans ?_ (KeepsWf.of_changes (State.jobState_changes ..) (by decide))
    assumption
  clear_value a2
  have h11 : KeepsWf s a3 := by
    unfold a3
    refine KeepsWf.foldl ?_ (fun u12 x13 => ?_)
    · assumption
    · refine KeepsWf.trans ?_ (KeepsWf.of_changes (State.groupOff_changes ..) (by decide))
      exact KeepsWf.refl _
  clear_value a3
  have h14 : KeepsWf s a4 := by
    unfold a4
    refine KeepsWf.trans ?_ (KeepsWf.of_changes (State.slotEvent_changes ..) (by decide))
    assumption
  clear_value a4
  split
  · refine KeepsWf.trans ?_ (State.ok_wf ..)
    assumption
  · assumption

theorem State.deviceDrain_wf (s : State) :
    KeepsWf s (State.deviceDrain s) := by
  unfold State.deviceDrain
  split
  · exact KeepsWf.refl _
  · extract_lets a8 a9 a10 a11
    have h12 : KeepsWf s a8 := by
      unfold a8
      refine KeepsWf.foldl ?_ (fun u13 x14 => ?_)
      · exact KeepsWf.refl _
      · extract_lets a15
        refine KeepsWf.ite ?_ ?_
        · refine KeepsWf.trans ?_ (State.startDrain_wf ..)
          exact KeepsWf.refl _
        · exact KeepsWf.refl _
    clear_value a8
    clear_value a9
    clear_value a10
    have h22 : KeepsWf s a11 := by
      unfold a11
      refine KeepsWf.trans ?_ (KeepsWf.of_changes Changes.mgmt (by decide))
      assumption
    clear_value a11
    refine KeepsWf.ite ?_ ?_
    · refine KeepsWf.trans ?_ (State.ok_wf ..)
      refine KeepsWf.trans ?_ (KeepsWf.of_changes (State.setDev_changes ..) (by decide))
      assumption
    · assumption

theorem State.drainComplete_wf (s : State) (j : Nat) :
    KeepsWf s (State.drainComplete s j) := by
  unfold State.drainComplete
  extract_lets a0
  clear_value a0
  split
  · exact KeepsWf.refl _
  · refine KeepsWf.ite ?_ ?_
    · exact KeepsWf.refl _
    · extract_lets a8 a9 a10 a11 a12
      have h13 : KeepsWf s a8 := by
        unfold a8
        refine KeepsWf.ite ?_ ?_
        · exact KeepsWf.refl _
        · refine KeepsWf.trans ?_ (State.drainColls_wf ..)
          exact KeepsWf.refl _
      clear_value a8
      have h0 : KeepsWf s a9 := by
        unfold a9
        refine KeepsWf.ite ?_ ?_
        · assumption
        · refine KeepsWf.trans ?_ (State.drainRelease_wf ..)
          assumption
      clear_value a9
      clear_value a10
      have h5 : KeepsWf s a11 := by
        unfold a11
        refine KeepsWf.trans ?_ (KeepsWf.of_changes (State.clearJobMarks_changes ..) (by decide))
        assumption
      clear_value a11
      have h1 : KeepsWf s a12 := by
        unfold a12
        refine KeepsWf.ite ?_ ?_
        · refine KeepsWf.trans ?_ (KeepsWf.of_changes (State.renewShutters_changes ..) (by decide))
          assumption
        · assumption
      clear_value a12
      refine KeepsWf.ite ?_ ?_
      · assumption
      · refine KeepsWf.ite ?_ ?_
        · refine KeepsWf.trans ?_ (KeepsWf.of_changes (State.updJob_changes ..) (by decide))
          assumption
        · refine KeepsWf.trans ?_ (State.deviceDrain_wf ..)
          refine KeepsWf.trans ?_ (State.endDrain_wf ..)
          assumption

theorem State.failMirror_wf (s : State) (j : Nat) (code : Nat) :
    KeepsWf s (State.failMirror s j code) := by
  unfold State.failMirror
  refine KeepsWf.trans ?_ (State.jobFault_wf ..)
  exact KeepsWf.refl _

theorem State.startMirror_wf (s : State) (m : Nat) (j : Nat) :
    KeepsWf s (State.startMirror s m j) := by
  unfold State.startMirror
  extract_lets a0 a1 a2 a3
  clear_value a0
  clear_value a1
  have h4 : KeepsWf s a2 := by
    unfold a2
    refine KeepsWf.trans ?_ (KeepsWf.of_changes (State.updJob_changes ..) (by decide))
    exact KeepsWf.refl _
  clear_value a2
  have h6 : KeepsWf s a3 := by
    unfold a3
    refine KeepsWf.trans ?_ (KeepsWf.of_changes (State.mirrorWrite_changes ..) (by decide))
    assumption
  clear_value a3
  split
  · rename_i y20 y21 y22 y23
    have h24 : KeepsWf s y21 := by
      refine KeepsWf.of_fst ?_ y23
      refine KeepsWf.trans ?_ (KeepsWf.of_changes (State.regionPages_changes ..) (by decide))
      assumption
    refine KeepsWf.trans ?_ (State.failMirror_wf ..)
    assumption
  · rename_i y25 y26 y27 y28
    have h29 : KeepsWf s y26 := by
      refine KeepsWf.of_fst ?_ y28
      refine KeepsWf.trans ?_ (KeepsWf.of_changes (State.regionPages_changes ..) (by decide))
      assumption
    split
    · rename_i y30 y31 y32 y33
      have h34 : KeepsWf s y31 := by
        refine KeepsWf.of_fst ?_ y33
        refine KeepsWf.trans ?_ (KeepsWf.of_changes (State.mirrorPages_changes ..) (by decide))
        assumption
      refine KeepsWf.trans ?_ (State.failMirror_wf ..)
      assumption
    · rename_i y35 y36 y37
      have h38 : KeepsWf s y36 := by
        refine KeepsWf.of_fst ?_ y37
        refine KeepsWf.trans ?_ (KeepsWf.of_changes (State.mirrorPages_changes ..) (by decide))
        assumption
      refine KeepsWf.trans ?_ (KeepsWf.of_changes (State.updJob_changes ..) (by decide))
      assumption

theorem State.mirrorComplete_wf (s : State) (j : Nat) :
    KeepsWf s (State.mirrorComplete s j) := by
  unfold State.mirrorComplete
  extract_lets a0
  clear_value a0
  split
  · exact KeepsWf.refl _
  · refine KeepsWf.ite ?_ ?_
    · exact KeepsWf.refl _
    · extract_lets a7 a8
      have h9 : KeepsWf s a7 := by
        unfold a7
        refine KeepsWf.trans ?_ (KeepsWf.of_changes (State.mirrorWrite_changes ..) (by decide))
        exact KeepsWf.refl _
      clear_value a7
      have h10 : KeepsWf s a8 := by
        unfold a8
        refine KeepsWf.trans ?_ (KeepsWf.of_changes (State.updJob_changes ..) (by decide))
        assumption
      clear_value a8
      refine KeepsWf.trans ?_ (State.deviceDrain_wf ..)
      refine KeepsWf.trans ?_ (State.endMirror_wf ..)
      assumption

end Sys2Proof.Machine
end

