-- ==== Sys2Proof/Laws/Security.lean ====
section
/-!
SUPPORT. What each operation of Machine/Security.lean may change (`_changes`), and that those which write a memory keep its
canonical form (`_wf`).
-/

namespace Sys2Proof.Machine

theorem State.writeBar2_changes (s : State) (o : Nat) (bs : List Byte) :
    Changes [.bar2] s (State.writeBar2 s o bs) := by
  unfold State.writeBar2
  refine Changes.step ?_ Changes.bar2 (by decide)
  exact Changes.refl _ _

theorem State.setSec_changes (s : State) (c : Sec) :
    Changes [.sec] s (State.setSec s c) := by
  unfold State.setSec
  refine Changes.step ?_ Changes.sec (by decide)
  exact Changes.refl _ _

theorem State.extend_changes (s : State) (type : Nat) (d : List Byte) :
    Changes [.regs, .sec] s (State.extend s type d) := by
  unfold State.extend
  extract_lets a0 a1 a2 a3
  clear_value a0
  clear_value a1
  clear_value a2
  have h4 : Changes [.regs, .sec] s a3 := by
    unfold a3
    refine Changes.ite ?_ ?_
    · refine Changes.step ?_ (State.setSec_changes ..) (by decide)
      exact Changes.refl _ _
    · refine Changes.step ?_ (State.raise_changes ..) (by decide)
      refine Changes.step ?_ (State.setSec_changes ..) (by decide)
      exact Changes.refl _ _
  clear_value a3
  refine Changes.step ?_ (State.count_changes ..) (by decide)
  assumption

theorem State.takeHelper_changes (s : State) (h : List Byte) :
    Changes [.regs, .sec] s (State.takeHelper s h) := by
  unfold State.takeHelper
  extract_lets a0 a1
  clear_value a0
  have h2 : Changes [.regs, .sec] s a1 := by
    unfold a1
    refine Changes.step ?_ (State.setSec_changes ..) (by decide)
    exact Changes.refl _ _
  clear_value a1
  refine Changes.ite ?_ ?_
  · refine Changes.step ?_ (State.raise_changes ..) (by decide)
    assumption
  · assumption

theorem State.identityReady_changes (s : State) :
    Changes [.regs, .sec] s (State.identityReady s) := by
  unfold State.identityReady
  split
  · exact Changes.refl _ _
  · extract_lets a5 a6 a7 a8
    clear_value a5
    clear_value a6
    have h9 : Changes [.regs, .sec] s a7 := by
      unfold a7
      refine Changes.foldl ?_ (fun u10 x11 => ?_)
      · exact Changes.refl _ _
      · refine Changes.step ?_ (State.setReg_changes ..) (by decide)
        exact Changes.refl _ _
    clear_value a7
    clear_value a8
    refine Changes.step ?_ (State.setReg_changes ..) (by decide)
    refine Changes.step ?_ (State.setSec_changes ..) (by decide)
    assumption

theorem State.bootStat_changes (s : State) (staged : Bool) (code : Nat) :
    Changes [.regs] s (State.bootStat s staged code) := by
  unfold State.bootStat
  extract_lets a0 a1 a2
  clear_value a0
  clear_value a1
  have h3 : Changes [.regs] s a2 := by
    unfold a2
    refine Changes.step ?_ (State.setReg_changes ..) (by decide)
    exact Changes.refl _ _
  clear_value a2
  refine Changes.ite ?_ ?_
  · assumption
  · refine Changes.step ?_ (State.raise_changes ..) (by decide)
    assumption

theorem State.startImage_changes (s : State) (staged : Bool) (img : List Byte) :
    Changes [.regs, .mgmt, .sec] s (State.startImage s staged img) := by
  unfold State.startImage
  extract_lets a0 a1 a2 a3 a4 a5 a6 a7
  clear_value a0
  have h0 : Changes [.regs, .mgmt, .sec] s a1 := by
    unfold a1
    refine Changes.step ?_ (State.extend_changes ..) (by decide)
    exact Changes.refl _ _
  clear_value a1
  have h8 : Changes [.regs, .mgmt, .sec] s a2 := by
    unfold a2
    refine Changes.step ?_ (State.extend_changes ..) (by decide)
    assumption
  clear_value a2
  have h1 : Changes [.regs, .mgmt, .sec] s a3 := by
    unfold a3
    refine Changes.step ?_ (State.extend_changes ..) (by decide)
    assumption
  clear_value a3
  have h3 : Changes [.regs, .mgmt, .sec] s a4 := by
    unfold a4
    refine Changes.step ?_ (State.extend_changes ..) (by decide)
    assumption
  clear_value a4
  clear_value a5
  have h10 : Changes [.regs, .mgmt, .sec] s a6 := by
    unfold a6
    refine Changes.step ?_ (State.setSec_changes ..) (by decide)
    assumption
  clear_value a6
  clear_value a7
  refine Changes.step ?_ Changes.mgmt (by decide)
  assumption

theorem State.flashChecked_changes (s : State) (sfdpOk : Bool) (img : List Byte) :
    Changes [.regs, .mgmt, .sec] s (State.flashChecked s sfdpOk img) := by
  unfold State.flashChecked
  refine Changes.ite ?_ ?_
  · exact Changes.refl _ _
  · extract_lets a2 a3 a4
    clear_value a2
    have h7 : Changes [.regs, .mgmt, .sec] s a3 := by
      unfold a3
      refine Changes.step ?_ (State.bootStat_changes ..) (by decide)
      exact Changes.refl _ _
    clear_value a3
    clear_value a4
    refine Changes.ite ?_ ?_
    · refine Changes.step ?_ (State.startImage_changes ..) (by decide)
      assumption
    · refine Changes.step ?_ (State.setSec_changes ..) (by decide)
      assumption

theorem State.loadImage_changes (s : State) (m : Nat) :
    Changes [.regs, .mbx, .mgmt, .sec] s (State.loadImage s m) := by
  unfold State.loadImage
  extract_lets a0 a1 a2 a3
  clear_value a0
  have h4 : Changes [.regs, .mbx, .mgmt, .sec] s a1 := by
    unfold a1
    refine Changes.ite ?_ ?_
    · exact Changes.refl _ _
    · refine Changes.step ?_ (State.takeHelper_changes ..) (by decide)
      exact Changes.refl _ _
  clear_value a1
  clear_value a2
  have h0 : Changes [.regs, .mbx, .mgmt, .sec] s a3 := by
    unfold a3
    refine Changes.step ?_ (State.bootStat_changes ..) (by decide)
    assumption
  clear_value a3
  refine Changes.ite ?_ ?_
  · refine Changes.step ?_ (State.ok_changes ..) (by decide)
    refine Changes.step ?_ (State.startImage_changes ..) (by decide)
    assumption
  · refine Changes.step ?_ (State.reply_changes ..) (by decide)
    assumption

theorem State.loadStandard_changes (s : State) :
    Changes [.regs, .prog, .progValid, .ue] s (State.loadStandard s) := by
  unfold State.loadStandard
  refine Changes.foldl ?_ (fun u0 x1 => ?_)
  · exact Changes.refl _ _
  · refine Changes.foldl ?_ (fun u5 x6 => ?_)
    · exact Changes.refl _ _
    · refine Changes.step ?_ (State.storeProg_changes ..) (by decide)
      exact Changes.refl _ _

theorem State.firstAnswer_changes (s : State) :
    Changes [.dev, .regs, .prog, .progValid, .ue, .sec] s (State.firstAnswer s) := by
  unfold State.firstAnswer
  refine Changes.ite ?_ ?_
  · refine Changes.step ?_ (State.setDev_changes ..) (by decide)
    refine Changes.step ?_ (State.loadStandard_changes ..) (by decide)
    refine Changes.step ?_ (State.setSec_changes ..) (by decide)
    exact Changes.refl _ _
  · exact Changes.refl _ _

theorem State.attest_changes (s : State) (m : Nat) :
    Changes [.regs, .bar2, .mbx, .mgmt, .freeCtr] s (State.attest s m) := by
  unfold State.attest
  extract_lets a0 a1 a2
  clear_value a0
  clear_value a1
  clear_value a2
  refine Changes.step ?_ (State.ok_changes ..) (by decide)
  refine Changes.step ?_ (State.writeBar2_changes ..) (by decide)
  refine Changes.step ?_ (State.drawn_changes ..) (by decide)
  exact Changes.refl _ _

theorem State.expel_changes (s : State) (j : Nat) (target : Nat) :
    Changes [.regs, .jobs] s (State.expel s j target) := by
  unfold State.expel
  extract_lets a0 a1
  clear_value a0
  have h2 : Changes [.regs, .jobs] s a1 := by
    unfold a1
    split
    · refine Changes.step ?_ (State.setReg_changes ..) (by decide)
      exact Changes.refl _ _
    · refine Changes.step ?_ (State.raise_changes ..) (by decide)
      exact Changes.refl _ _
  clear_value a1
  refine Changes.step ?_ (State.recordJobFault_changes ..) (by decide)
  refine Changes.step ?_ (State.raise_changes ..) (by decide)
  assumption

theorem State.countBallot_changes (s : State) (j : Nat) (b : List Byte) :
    Changes [.regs, .jobs] s (State.countBallot s j b) := by
  unfold State.countBallot
  extract_lets a0 a1 a2 a3
  clear_value a0
  clear_value a1
  have h7 : Changes [.regs, .jobs] s a2 := by
    unfold a2
    refine Changes.step ?_ (State.setJob_changes ..) (by decide)
    exact Changes.refl _ _
  clear_value a2
  clear_value a3
  refine Changes.ite ?_ ?_
  · exact Changes.refl _ _
  · refine Changes.ite ?_ ?_
    · refine Changes.step ?_ (State.expel_changes ..) (by decide)
      assumption
    · assumption

theorem State.voteBallot_changes (s : State) (m : Nat) :
    Changes [.regs, .mbx, .attach, .jobs, .mgmt, .nextId] s (State.voteBallot s m) := by
  unfold State.voteBallot
  extract_lets a0
  clear_value a0
  split
  · refine Changes.step ?_ (State.reply_changes ..) (by decide)
    refine Changes.step ?_ (State.raise_changes ..) (by decide)
    exact Changes.refl _ _
  · refine Changes.step ?_ (State.ok_changes ..) (by decide)
    refine Changes.step ?_ (State.sendToJob_changes ..) (by decide)
    refine Changes.step ?_ (State.countBallot_changes ..) (by decide)
    exact Changes.refl _ _

theorem State.ballotReceive_changes (s : State) :
    Changes [.regs, .inbox, .jobs] s (State.ballotReceive s) := by
  unfold State.ballotReceive
  refine Changes.ite ?_ ?_
  · exact Changes.refl _ _
  · split
    · exact Changes.refl _ _
    · rename_i y4 y5 y6 y7
      have h8 : Changes [.regs, .inbox, .jobs] s y6 := by
        refine Changes.step ?_ (State.takeArrival_changes y7) (by decide)
        exact Changes.refl _ _
      extract_lets a12
      clear_value a12
      split
      · refine Changes.step ?_ (State.countBallot_changes ..) (by decide)
        assumption
      · refine Changes.step ?_ (State.raise_changes ..) (by decide)
        assumption

/-! ### Canonical form -/

theorem State.writeBar2_wf (s : State) (o : Nat) (bs : List Byte) :
    KeepsWf s (State.writeBar2 s o bs) := by
  unfold State.writeBar2
  refine KeepsWf.trans ?_ (KeepsWf.bar2 fun h => memWf_wrBytes h _ _)
  exact KeepsWf.refl _

theorem State.loadImage_wf (s : State) (m : Nat) :
    KeepsWf s (State.loadImage s m) := by
  unfold State.loadImage
  extract_lets a0 a1 a2 a3
  clear_value a0
  have h4 : KeepsWf s a1 := by
    unfold a1
    refine KeepsWf.ite ?_ ?_
    · exact KeepsWf.refl _
    · refine KeepsWf.trans ?_ (KeepsWf.of_changes (State.takeHelper_changes ..) (by decide))
      exact KeepsWf.refl _
  clear_value a1
  clear_value a2
  have h0 : KeepsWf s a3 := by
    unfold a3
    refine KeepsWf.trans ?_ (KeepsWf.of_changes (State.bootStat_changes ..) (by decide))
    assumption
  clear_value a3
  refine KeepsWf.ite ?_ ?_
  · refine KeepsWf.trans ?_ (State.ok_wf ..)
    refine KeepsWf.trans ?_ (KeepsWf.of_changes (State.startImage_changes ..) (by decide))
    assumption
  · refine KeepsWf.trans ?_ (State.reply_wf ..)
    assumption

theorem State.loadStandard_wf (s : State) :
    KeepsWf s (State.loadStandard s) := by
  unfold State.loadStandard
  refine KeepsWf.foldl ?_ (fun u0 x1 => ?_)
  · exact KeepsWf.refl _
  · refine KeepsWf.foldl ?_ (fun u0 x1 => ?_)
    · exact KeepsWf.refl _
    · refine KeepsWf.trans ?_ (State.storeProg_wf ..)
      exact KeepsWf.refl _

theorem State.firstAnswer_wf (s : State) :
    KeepsWf s (State.firstAnswer s) := by
  unfold State.firstAnswer
  refine KeepsWf.ite ?_ ?_
  · refine KeepsWf.trans ?_ (KeepsWf.of_changes (State.setDev_changes ..) (by decide))
    refine KeepsWf.trans ?_ (State.loadStandard_wf ..)
    refine KeepsWf.trans ?_ (KeepsWf.of_changes (State.setSec_changes ..) (by decide))
    exact KeepsWf.refl _
  · exact KeepsWf.refl _

theorem State.attest_wf (s : State) (m : Nat) :
    KeepsWf s (State.attest s m) := by
  unfold State.attest
  extract_lets a0 a1 a2
  clear_value a0
  clear_value a1
  clear_value a2
  refine KeepsWf.trans ?_ (State.ok_wf ..)
  refine KeepsWf.trans ?_ (State.writeBar2_wf ..)
  refine KeepsWf.trans ?_ (KeepsWf.of_changes (State.drawn_changes ..) (by decide))
  exact KeepsWf.refl _

theorem State.voteBallot_wf (s : State) (m : Nat) :
    KeepsWf s (State.voteBallot s m) := by
  unfold State.voteBallot
  extract_lets a1
  clear_value a1
  split
  · refine KeepsWf.trans ?_ (State.reply_wf ..)
    refine KeepsWf.trans ?_ (KeepsWf.of_changes (State.raise_changes ..) (by decide))
    exact KeepsWf.refl _
  · refine KeepsWf.trans ?_ (State.ok_wf ..)
    refine KeepsWf.trans ?_ (KeepsWf.of_changes (State.sendToJob_changes ..) (by decide))
    refine KeepsWf.trans ?_ (KeepsWf.of_changes (State.countBallot_changes ..) (by decide))
    exact KeepsWf.refl _

end Sys2Proof.Machine
end

