-- ==== Sys2Proof/Laws/CfgParts.lean ====
section
/-!
SUPPORT. What each operation of Machine/CfgParts.lean may change (`_changes`), and that those which write a memory keep its
canonical form (`_wf`).
-/

namespace Sys2Proof.Machine

theorem State.cfgWrite_changes (s : State) (m : Nat) :
    Changes [.regs, .mbx, .shadow, .mgmt] s (State.cfgWrite s m) := by
  unfold State.cfgWrite
  extract_lets a0 a1 a2 a3 a4
  clear_value a0
  clear_value a1
  clear_value a2
  clear_value a3
  clear_value a4
  refine Changes.step ?_ (State.ok_changes ..) (by decide)
  refine Changes.step ?_ Changes.shadow (by decide)
  exact Changes.refl _ _

theorem State.cfgRead_changes (s : State) (m : Nat) :
    Changes [.regs, .bar2, .mbx, .mgmt] s (State.cfgRead s m) := by
  unfold State.cfgRead
  extract_lets a5 a6
  clear_value a5
  clear_value a6
  refine Changes.step ?_ (State.ok_changes ..) (by decide)
  refine Changes.step ?_ (State.writeBar2_changes ..) (by decide)
  exact Changes.refl _ _

theorem State.cfgCopy_changes (s : State) (m : Nat) :
    Changes [.regs, .mbx, .shadow, .mgmt] s (State.cfgCopy s m) := by
  unfold State.cfgCopy
  refine Changes.step ?_ (State.ok_changes ..) (by decide)
  refine Changes.step ?_ Changes.shadow (by decide)
  exact Changes.refl _ _

theorem State.writeList_changes {v : List Field} {s₀ s : State} (h₀ : Changes v s₀ s)
    {f : State → Nat → Word → State} (h : ∀ t a w, Changes v t (f t a w)) (l : List (Nat × Word)) :
    Changes v s₀ (State.writeList s l f) := by
  unfold State.writeList
  exact Changes.foldl h₀ fun _ _ => h _ _ _

/-! ### Canonical form -/

theorem State.cfgWrite_wf (s : State) (m : Nat) :
    KeepsWf s (State.cfgWrite s m) := by
  unfold State.cfgWrite
  extract_lets a0 a1 a2 a3 a4
  clear_value a0
  clear_value a1
  clear_value a2
  clear_value a3
  clear_value a4
  refine KeepsWf.trans ?_ (State.ok_wf ..)
  refine KeepsWf.trans ?_ (KeepsWf.of_changes Changes.shadow (by decide))
  exact KeepsWf.refl _

theorem State.cfgRead_wf (s : State) (m : Nat) :
    KeepsWf s (State.cfgRead s m) := by
  unfold State.cfgRead
  extract_lets a0 a1
  clear_value a0
  clear_value a1
  refine KeepsWf.trans ?_ (State.ok_wf ..)
  refine KeepsWf.trans ?_ (State.writeBar2_wf ..)
  exact KeepsWf.refl _

theorem State.cfgCopy_wf (s : State) (m : Nat) :
    KeepsWf s (State.cfgCopy s m) := by
  unfold State.cfgCopy
  refine KeepsWf.trans ?_ (State.ok_wf ..)
  refine KeepsWf.trans ?_ (KeepsWf.of_changes Changes.shadow (by decide))
  exact KeepsWf.refl _

theorem State.writeList_wf {s₀ s : State} (h₀ : KeepsWf s₀ s) {f : State → Nat → Word → State}
    (h : ∀ t a w, KeepsWf t (f t a w)) (l : List (Nat × Word)) : KeepsWf s₀ (State.writeList s l f) := by
  unfold State.writeList
  exact KeepsWf.foldl h₀ fun _ _ => h _ _ _

end Sys2Proof.Machine
end

