-- ==== Sys2Proof/Laws/Swap.lean ====
section
/-!
SUPPORT. What each operation of Machine/Swap.lean may change (`_changes`), and that those which write a memory keep its
canonical form (`_wf`).
-/

namespace Sys2Proof.Machine

theorem State.giveCore_changes (s : State) (j : Nat) (job : Nat) (eps : List (Nat × Nat)) (u : Nat) :
    Changes [.regs] s (State.giveCore s j job eps u) := by
  unfold State.giveCore
  extract_lets a0 a1
  have h2 : Changes [.regs] s a0 := by
    unfold a0
    refine Changes.step ?_ (State.setReg_changes ..) (by decide)
    exact Changes.refl _ _
  clear_value a0
  clear_value a1
  refine Changes.step ?_ (State.setReg_changes ..) (by decide)
  assumption

theorem State.applySlot_changes (s : State) (j : Nat) :
    Changes [.regs, .jobs, .sec] s (State.applySlot s j) := by
  unfold State.applySlot
  extract_lets a0 a1 a2 a3 a4 a5 a6 a7 a8 a9
  clear_value a0
  clear_value a1
  clear_value a2
  clear_value a4
  clear_value a5
  clear_value a6
  have h13 : Changes [.regs, .jobs, .sec] s a7 := by
    unfold a7
    refine Changes.step ?_ (State.setJob_changes ..) (by decide)
    exact Changes.refl _ _
  clear_value a7
  have h6 : Changes [.regs, .jobs, .sec] s a8 := by
    unfold a8
    refine Changes.ite ?_ ?_
    · assumption
    · refine Changes.step ?_ (State.setStep_changes ..) (by decide)
      assumption
  clear_value a8
  have h0 : Changes [.regs, .jobs, .sec] s a9 := by
    unfold a9
    refine Changes.ite ?_ ?_
    · assumption
    · refine Changes.step ?_ (State.extend_changes ..) (by decide)
      assumption
  clear_value a9
  refine Changes.ite ?_ ?_
  · refine Changes.ite ?_ ?_
    · exact Changes.refl _ _
    · refine Changes.step ?_ (State.setJob_changes ..) (by decide)
      exact Changes.refl _ _
  · refine Changes.foldl ?_ (fun u13 x14 => ?_)
    · assumption
    · refine Changes.step ?_ (State.giveCore_changes ..) (by decide)
      exact Changes.refl _ _

theorem State.dropExpels_changes (s : State) :
    Changes [.regs] s (State.dropExpels s) := by
  unfold State.dropExpels
  refine Changes.foldl ?_ (fun u10 x11 => ?_)
  · exact Changes.refl _ _
  · extract_lets a12
    clear_value a12
    refine Changes.ite ?_ ?_
    · refine Changes.step ?_ (State.setReg_changes ..) (by decide)
      exact Changes.refl _ _
    · exact Changes.refl _ _

theorem State.applyRoots_changes (s : State) :
    Changes [.regs, .atu] s (State.applyRoots s) := by
  unfold State.applyRoots
  extract_lets a0
  have h1 : Changes [.regs, .atu] s a0 := by
    unfold a0
    refine Changes.foldl ?_ (fun u2 x3 => ?_)
    · exact Changes.refl _ _
    · extract_lets a4 a5
      clear_value a4
      clear_value a5
      refine Changes.step ?_ (State.setReg_changes ..) (by decide)
      refine Changes.step ?_ (State.setReg_changes ..) (by decide)
      exact Changes.refl _ _
  clear_value a0
  refine Changes.step ?_ Changes.atu (by decide)
  assumption

theorem State.applyPools_changes (s : State) :
    Changes [.regs, .poolUsed, .freeCtr] s (State.applyPools s) := by
  unfold State.applyPools
  extract_lets a0
  have h1 : Changes [.regs, .poolUsed, .freeCtr] s a0 := by
    unfold a0
    refine State.writeList_changes ?_ (fun _ _ _ => ?_) _
    · refine Changes.step ?_ (State.writeBpmCtl_changes ..) (by decide)
      exact Changes.refl _ _
    · refine Changes.step ?_ (State.writeBpmWin_changes ..) (by decide)
      exact Changes.refl _ _
  clear_value a0
  refine Changes.step ?_ (State.writeBpmCtl_changes ..) (by decide)
  assumption

theorem State.applyXbar_changes (s : State) :
    Changes [.regs, .xbar, .links, .egress, .shpT, .circT, .freeCtr] s (State.applyXbar s) := by
  unfold State.applyXbar
  extract_lets a0
  have h1 : Changes [.regs, .xbar, .links, .egress, .shpT, .circT, .freeCtr] s a0 := by
    unfold a0
    refine State.writeList_changes ?_ (fun _ _ _ => ?_) _
    · refine Changes.step ?_ (State.writeXbarCtl_changes ..) (by decide)
      exact Changes.refl _ _
    · refine Changes.step ?_ (State.writeXbarWin_changes ..) (by decide)
      exact Changes.refl _ _
  clear_value a0
  refine Changes.step ?_ (State.writeXbarCtl_changes ..) (by decide)
  assumption

theorem State.writePortAt_changes (s : State) (a : Nat) (w : Word) :
    Changes [.regs, .xbar, .links, .egress, .eths, .hist, .poolUsed, .time, .shutters, .active, .shadow, .dsp,
        .freeCtr] s (State.writePortAt s a w) := by
  unfold State.writePortAt
  split
  · refine Changes.step ?_ (State.writePortWin_changes ..) (by decide)
    exact Changes.refl _ _
  · exact Changes.refl _ _

theorem State.applyPorts_changes (s : State) :
    Changes [.regs, .xbar, .links, .egress, .eths, .hist, .poolUsed, .time, .shutters, .active, .shadow, .dsp,
        .freeCtr] s (State.applyPorts s) := by
  unfold State.applyPorts
  extract_lets a0 a1 a2 a3 a4 a5
  clear_value a0
  clear_value a1
  clear_value a2
  have h6 : Changes [.regs, .xbar, .links, .egress, .eths, .hist, .poolUsed, .time, .shutters, .active, .shadow, .dsp,
      .freeCtr] s a3 := by
    unfold a3
    refine Changes.foldl ?_ (fun u7 x8 => ?_)
    · exact Changes.refl _ _
    · refine Changes.ite ?_ ?_
      · refine Changes.step ?_ (State.writePortAt_changes ..) (by decide)
        exact Changes.refl _ _
      · exact Changes.refl _ _
  clear_value a3
  have h5 : Changes [.regs, .xbar, .links, .egress, .eths, .hist, .poolUsed, .time, .shutters, .active, .shadow, .dsp,
      .freeCtr] s a5 := by
    unfold a5
    refine State.writeList_changes ?_ (fun _ _ _ => ?_) _
    · assumption
    · refine Changes.step ?_ (State.writePortAt_changes ..) (by decide)
      exact Changes.refl _ _
  clear_value a5
  refine Changes.foldl ?_ (fun u0 x1 => ?_)
  · assumption
  · extract_lets a2 a3
    clear_value a2
    clear_value a3
    refine Changes.ite ?_ ?_
    · refine Changes.step ?_ (State.writePortAt_changes ..) (by decide)
      exact Changes.refl _ _
    · exact Changes.refl _ _

theorem State.applyTime_changes (s : State) :
    Changes [.regs, .links, .time, .shutters] s (State.applyTime s) := by
  unfold State.applyTime
  extract_lets a0 a1 a2 a3 a4 a5
  clear_value a0
  clear_value a1
  clear_value a2
  have h10 : Changes [.regs, .links, .time, .shutters] s a3 := by
    unfold a3
    refine Changes.foldl ?_ (fun u11 x12 => ?_)
    · exact Changes.refl _ _
    · refine Changes.step ?_ (State.writeShutCfg_changes ..) (by decide)
      exact Changes.refl _ _
  clear_value a3
  have h15 : Changes [.regs, .links, .time, .shutters] s a5 := by
    unfold a5
    refine State.writeList_changes ?_ (fun _ _ _ => ?_) _
    · assumption
    · refine Changes.step ?_ (State.writeTimeWin_changes ..) (by decide)
      exact Changes.refl _ _
  clear_value a5
  refine Changes.foldl ?_ (fun u3 x4 => ?_)
  · assumption
  · refine Changes.ite ?_ ?_
    · refine Changes.step ?_ (State.writeShutCfg_changes ..) (by decide)
      exact Changes.refl _ _
    · exact Changes.refl _ _

theorem State.fillCircuits_changes (s : State) :
    Changes [.circT] s (State.fillCircuits s) := by
  unfold State.fillCircuits
  extract_lets a0
  clear_value a0
  refine Changes.step ?_ Changes.circT (by decide)
  exact Changes.refl _ _

theorem State.applyServing_changes (s : State) :
    Changes [.regs, .poolUsed, .dsp] s (State.applyServing s) := by
  unfold State.applyServing
  refine Changes.step ?_ (State.refreshReady_changes ..) (by decide)
  refine Changes.foldl ?_ (fun _ _ => ?_)
  · refine Changes.foldl ?_ (fun _ _ => ?_)
    · exact Changes.step (Changes.refl _ _) (State.setDsp_changes ..) (by decide)
    · exact Changes.step (Changes.refl _ _) (State.dropBuffer_changes ..) (by decide)
  · refine Changes.ite (Changes.refl _ _) ?_
    refine Changes.step ?_ (State.setGroup_changes ..) (by decide)
    exact Changes.step (Changes.refl _ _) (State.groupOff_changes ..) (by decide)

theorem State.applySwap_changes (s : State) :
    Changes
      [.dev, .regs, .xbar, .links, .egress, .eths, .shpT, .circT, .hist, .atu, .poolUsed, .time, .shutters, .jobs, .active,
          .shadow, .dsp, .sec, .freeCtr] s (State.applySwap s) := by
  unfold State.applySwap
  extract_lets s1 s2 s3 s4 s5 s6
  have h1 : Changes [.regs, .sec] s s1 := State.extend_changes ..
  clear_value s1
  have h2 : Changes [.active, .shadow] s1 s2 := Changes.active_shadow
  clear_value s2
  have h6 : Changes
      [.dev, .regs, .xbar, .links, .egress, .eths, .shpT, .circT, .hist, .atu, .poolUsed, .time, .shutters, .jobs, .active,
        .shadow, .dsp, .sec, .freeCtr] s s6 := by
    refine Changes.step ?_ (State.applyServing_changes ..) (by decide)
    refine Changes.step ?_ (State.fillCircuits_changes ..) (by decide)
    refine Changes.step ?_ (State.applyTime_changes ..) (by decide)
    refine Changes.step ?_ (State.syncCircuits_changes ..) (by decide)
    refine Changes.step ?_ (State.applyPorts_changes ..) (by decide)
    refine Changes.step ?_ (State.applyXbar_changes ..) (by decide)
    refine Changes.step ?_ (State.applyPools_changes ..) (by decide)
    refine Changes.step ?_ (State.applyRoots_changes ..) (by decide)
    refine Changes.step ?_ (State.dropExpels_changes ..) (by decide)
    refine Changes.foldl ?_ fun _ _ => Changes.step (Changes.refl _ _) (State.applySlot_changes ..) (by decide)
    exact Changes.step (Changes.step (Changes.refl _ _) h1 (by decide)) h2 (by decide)
  exact Changes.ite (Changes.step h6 (State.setDev_changes ..) (by decide)) h6

theorem State.swap_changes (s : State) (m : Nat) :
    Changes [.dev, .regs, .mbx, .xbar, .links, .egress, .eths, .shpT, .circT, .hist, .atu, .poolUsed, .time, .shutters,
        .jobs, .active, .shadow, .dsp, .mgmt, .sec, .freeCtr] s (State.swap s m) := by
  unfold State.swap
  refine Changes.step ?_ (State.ok_changes ..) (by decide)
  refine Changes.step ?_ (State.applySwap_changes ..) (by decide)
  exact Changes.refl _ _

/-! ### Canonical form -/

theorem State.swap_wf (s : State) (m : Nat) :
    KeepsWf s (State.swap s m) := by
  unfold State.swap
  refine KeepsWf.trans ?_ (State.ok_wf ..)
  refine KeepsWf.trans ?_ (KeepsWf.of_changes (State.applySwap_changes ..) (by decide))
  exact KeepsWf.refl _

end Sys2Proof.Machine
end

