-- ==== Sys2Proof/Laws/MbxWork.lean ====
section
/-!
SUPPORT. What each operation of Machine/MbxWork.lean may change (`_changes`), and that those which write a memory keep its
canonical form (`_wf`).
-/

namespace Sys2Proof.Machine

theorem State.getFault_changes (s : State) (m : Nat) :
    Changes [.regs, .mbx, .mgmt, .freeCtr] s (State.getFault s m) := by
  unfold State.getFault
  refine Changes.ite ?_ ?_
  · refine Changes.step ?_ (State.ok_changes ..) (by decide)
    exact Changes.refl _ _
  · extract_lets a0
    clear_value a0
    refine Changes.step ?_ (State.ok_changes ..) (by decide)
    refine Changes.step ?_ (State.drawn_changes ..) (by decide)
    exact Changes.refl _ _

theorem State.setContact_changes (s : State) (m : Nat) :
    Changes [.regs, .mbx, .mgmt] s (State.setContact s m) := by
  unfold State.setContact
  refine Changes.step ?_ (State.ok_changes ..) (by decide)
  refine Changes.step ?_ Changes.mgmt (by decide)
  exact Changes.refl _ _

theorem State.setPower_changes (s : State) (m : Nat) :
    Changes [.regs, .mbx, .mgmt, .power] s (State.setPower s m) := by
  unfold State.setPower
  extract_lets a0 a1
  clear_value a0
  clear_value a1
  refine Changes.step ?_ (State.ok_changes ..) (by decide)
  refine Changes.step ?_ Changes.power (by decide)
  exact Changes.refl _ _

theorem State.getMeasure_changes (s : State) (m : Nat) :
    Changes [.regs, .bar2, .mbx, .mgmt] s (State.getMeasure s m) := by
  unfold State.getMeasure
  extract_lets a1
  clear_value a1
  refine Changes.step ?_ (State.ok_changes ..) (by decide)
  refine Changes.step ?_ (State.writeBar2_changes ..) (by decide)
  exact Changes.refl _ _

theorem State.testTiles_changes (s : State) (vs : List Nat) :
    Changes [.regs, .cnt, .dpa, .ls, .acc, .accFlags, .accBank1, .sems, .ue, .cores] s (State.testTiles s vs) := by
  unfold State.testTiles
  extract_lets a0 a1
  clear_value a0
  have h0 : Changes [.regs, .cnt, .dpa, .ls, .acc, .accFlags, .accBank1, .sems, .ue, .cores] s a1 := by
    unfold a1
    refine Changes.foldl ?_ (fun u3 x4 => ?_)
    · exact Changes.refl _ _
    · refine Changes.step ?_ (State.foldCore_changes ..) (by decide)
      exact Changes.refl _ _
  clear_value a1
  refine Changes.step ?_ Changes.dpa_ls_acc_accFlags_sems (by decide)
  assumption

theorem State.testCrosspoints_changes (s : State) (vs : List Nat) :
    Changes [.xbar] s (State.testCrosspoints s vs) := by
  unfold State.testCrosspoints
  refine Changes.step ?_ Changes.xbar (by decide)
  exact Changes.refl _ _

theorem State.testStreams_changes (s : State) (vs : List Nat) :
    Changes [.ctxMem, .prog, .progValid, .ctxs] s (State.testStreams s vs) := by
  unfold State.testStreams
  extract_lets a0 a1
  have h2 : Changes [.ctxMem, .prog, .progValid, .ctxs] s a0 := by
    unfold a0
    refine Changes.step ?_ Changes.ctxMem (by decide)
    exact Changes.refl _ _
  clear_value a0
  have h5 : Changes [.ctxMem, .prog, .progValid, .ctxs] s a1 := by
    unfold a1
    refine Changes.step ?_ Changes.prog_progValid (by decide)
    assumption
  clear_value a1
  refine Changes.step ?_ Changes.ctxs (by decide)
  assumption

theorem State.testMemories_changes (s : State) (mask : Nat) :
    Changes [.regs, .cnt, .dpa, .ls, .acc, .accFlags, .accBank1, .sems, .ctxMem, .prog, .progValid, .ue, .xbar, .ctxs,
        .cores, .freeCtr] s (State.testMemories s mask) := by
  unfold State.testMemories
  extract_lets a0 a1 a2 a3 a4 a5
  clear_value a0
  have h3 : Changes [.regs, .cnt, .dpa, .ls, .acc, .accFlags, .accBank1, .sems, .ctxMem, .prog, .progValid, .ue, .xbar,
      .ctxs, .cores, .freeCtr] s a1 := by
    unfold a1
    refine Changes.ite ?_ ?_
    · refine Changes.step ?_ (State.testTiles_changes ..) (by decide)
      exact Changes.refl _ _
    · exact Changes.refl _ _
  clear_value a1
  have h5 : Changes [.regs, .cnt, .dpa, .ls, .acc, .accFlags, .accBank1, .sems, .ctxMem, .prog, .progValid, .ue, .xbar,
      .ctxs, .cores, .freeCtr] s a2 := by
    unfold a2
    refine Changes.ite ?_ ?_
    · refine Changes.step ?_ Changes.dpa (by decide)
      assumption
    · assumption
  clear_value a2
  have h6 : Changes [.regs, .cnt, .dpa, .ls, .acc, .accFlags, .accBank1, .sems, .ctxMem, .prog, .progValid, .ue, .xbar,
      .ctxs, .cores, .freeCtr] s a3 := by
    unfold a3
    refine Changes.ite ?_ ?_
    · refine Changes.step ?_ (State.testCrosspoints_changes ..) (by decide)
      assumption
    · assumption
  clear_value a3
  have h7 : Changes [.regs, .cnt, .dpa, .ls, .acc, .accFlags, .accBank1, .sems, .ctxMem, .prog, .progValid, .ue, .xbar,
      .ctxs, .cores, .freeCtr] s a4 := by
    unfold a4
    refine Changes.ite ?_ ?_
    · refine Changes.step ?_ (State.testStreams_changes ..) (by decide)
      assumption
    · assumption
  clear_value a4
  refine Changes.step ?_ (State.drawn_changes ..) (by decide)
  refine Changes.step ?_ Changes.ue (by decide)
  assumption

theorem State.selfTest_changes (s : State) (m : Nat) :
    Changes [.regs, .cnt, .dpa, .ls, .acc, .accFlags, .accBank1, .sems, .ctxMem, .prog, .progValid, .ue, .xbar, .ctxs,
        .cores, .mgmt, .freeCtr] s (State.selfTest s m) := by
  unfold State.selfTest
  extract_lets a0 a1 a2
  clear_value a0
  have h4 : Changes [.regs, .cnt, .dpa, .ls, .acc, .accFlags, .accBank1, .sems, .ctxMem, .prog, .progValid, .ue, .xbar,
      .ctxs, .cores, .mgmt, .freeCtr] s a1 := by
    unfold a1
    refine Changes.step ?_ (State.testMemories_changes ..) (by decide)
    refine Changes.step ?_ (State.keepRunning_changes ..) (by decide)
    exact Changes.refl _ _
  clear_value a1
  clear_value a2
  refine Changes.step ?_ Changes.mgmt (by decide)
  assumption

theorem State.selfTestDone_changes (s : State) (failed : Nat) (tile : Nat) (port : Nat) (stream : Nat) (xbar : Bool) :
    Changes [.regs, .mbx, .mgmt] s (State.selfTestDone s failed tile port stream xbar) := by
  unfold State.selfTestDone
  split
  · exact Changes.refl _ _
  · extract_lets a7 a8
    clear_value a7
    have h11 : Changes [.regs, .mbx, .mgmt] s a8 := by
      unfold a8
      refine Changes.step ?_ Changes.mgmt (by decide)
      exact Changes.refl _ _
    clear_value a8
    refine Changes.step ?_ (State.ok_changes ..) (by decide)
    assumption

theorem State.linkTest_changes (s : State) (m : Nat) :
    Changes [.links, .mgmt] s (State.linkTest s m) := by
  unfold State.linkTest
  extract_lets a0 a1 a2 a3
  clear_value a0
  have h4 : Changes [.links, .mgmt] s a1 := by
    unfold a1
    refine Changes.step ?_ (State.keepRunning_changes ..) (by decide)
    exact Changes.refl _ _
  clear_value a1
  have h14 : Changes [.links, .mgmt] s a2 := by
    unfold a2
    refine Changes.foldl ?_ (fun u15 x16 => ?_)
    · assumption
    · extract_lets a17
      clear_value a17
      refine Changes.step ?_ (State.setLink_changes ..) (by decide)
      exact Changes.refl _ _
  clear_value a2
  clear_value a3
  refine Changes.step ?_ Changes.mgmt (by decide)
  assumption

theorem State.linkTestDone_changes (s : State) :
    Changes [.regs, .mbx, .mgmt] s (State.linkTestDone s) := by
  unfold State.linkTestDone
  split
  · exact Changes.refl _ _
  · extract_lets a11 a12
    clear_value a11
    have h13 : Changes [.regs, .mbx, .mgmt] s a12 := by
      unfold a12
      refine Changes.step ?_ Changes.mgmt (by decide)
      exact Changes.refl _ _
    clear_value a12
    refine Changes.step ?_ (State.ok_changes ..) (by decide)
    assumption

theorem State.voteRoster_changes (s : State) (m : Nat) :
    Changes [.regs, .mbx, .shadow, .mgmt] s (State.voteRoster s m) := by
  unfold State.voteRoster
  extract_lets a0 a1
  clear_value a0
  clear_value a1
  refine Changes.step ?_ (State.ok_changes ..) (by decide)
  refine Changes.step ?_ Changes.shadow (by decide)
  exact Changes.refl _ _

theorem State.beginCommand_changes (s : State) (m : Nat) (eval : Bool) :
    Changes [.regs, .cnt, .dpa, .ls, .acc, .accFlags, .accBank1, .sems, .mbx, .ue, .attach, .msgs, .commits, .ctxs,
        .accepted, .cores, .colls, .owed, .fetches, .wbs, .poolUsed, .jobs, .dsp, .mgmt, .nextId, .freeCtr] s
        (State.beginCommand s m eval) := by
  unfold State.beginCommand
  extract_lets a0 a1
  clear_value a0
  have h2 : Changes [.regs, .cnt, .dpa, .ls, .acc, .accFlags, .accBank1, .sems, .mbx, .ue, .attach, .msgs, .commits, .ctxs,
      .accepted, .cores, .colls, .owed, .fetches, .wbs, .poolUsed, .jobs, .dsp, .mgmt, .nextId, .freeCtr] s a1 := by
    unfold a1
    refine Changes.ite ?_ ?_
    · refine Changes.step ?_ Changes.freeCtr (by decide)
      exact Changes.refl _ _
    · exact Changes.refl _ _
  clear_value a1
  refine Changes.step ?_ (State.beginJob_changes ..) (by decide)
  assumption

theorem State.jobFail_changes (s : State) (m : Nat) :
    Changes [.regs, .cnt, .dpa, .sems, .mbx, .ue, .attach, .msgs, .commits, .ctxs, .accepted, .cores, .colls, .owed,
        .fetches, .wbs, .jobs, .mgmt, .nextId, .freeCtr] s (State.jobFail s m) := by
  unfold State.jobFail
  extract_lets a0 a1 a2
  clear_value a0
  clear_value a1
  have h3 : Changes [.regs, .cnt, .dpa, .sems, .mbx, .ue, .attach, .msgs, .commits, .ctxs, .accepted, .cores, .colls,
      .owed, .fetches, .wbs, .jobs, .mgmt, .nextId, .freeCtr] s a2 := by
    unfold a2
    refine Changes.step ?_ (State.applyNotice_changes ..) (by decide)
    exact Changes.refl _ _
  clear_value a2
  refine Changes.step ?_ (State.ok_changes ..) (by decide)
  refine Changes.step ?_ (State.sendToJob_changes ..) (by decide)
  assumption

theorem State.jobRelease_changes (s : State) (m : Nat) :
    Changes [.regs, .cnt, .dpa, .mbx, .ue, .attach, .msgs, .cores, .owed, .fetches, .wbs, .atu, .mgmt, .nextId] s
        (State.jobRelease s m) := by
  unfold State.jobRelease
  extract_lets a0 a1 a2
  clear_value a0
  clear_value a1
  have h4 : Changes [.regs, .cnt, .dpa, .mbx, .ue, .attach, .msgs, .cores, .owed, .fetches, .wbs, .atu, .mgmt,
      .nextId] s a2 := by
    unfold a2
    refine Changes.step ?_ (State.dropCached_changes ..) (by decide)
    exact Changes.refl _ _
  clear_value a2
  split
  · refine Changes.step ?_ (State.reply_changes ..) (by decide)
    refine Changes.step ?_ (State.dpaUe_changes ..) (by decide)
    exact Changes.refl _ _
  · split
    · refine Changes.step ?_ (State.ok_changes ..) (by decide)
      refine Changes.step ?_ (State.releasePage_changes ..) (by decide)
      assumption
    · refine Changes.step ?_ (State.ok_changes ..) (by decide)
      assumption

theorem State.loadSprog_changes (s : State) (m : Nat) :
    Changes [.regs, .prog, .progValid, .mbx, .ue, .mgmt, .sec] s (State.loadSprog s m) := by
  unfold State.loadSprog
  extract_lets a0 a1 a2 a3 a4 a5 a6 a7
  clear_value a0
  clear_value a1
  clear_value a2
  clear_value a3
  clear_value a4
  have h8 : Changes [.regs, .prog, .progValid, .mbx, .ue, .mgmt, .sec] s a5 := by
    unfold a5
    refine Changes.foldl ?_ (fun u9 x10 => ?_)
    · exact Changes.refl _ _
    · refine Changes.foldl ?_ (fun u11 x12 => ?_)
      · exact Changes.refl _ _
      · refine Changes.step ?_ (State.storeProg_changes ..) (by decide)
        exact Changes.refl _ _
  clear_value a5
  clear_value a6
  have h13 : Changes [.regs, .prog, .progValid, .mbx, .ue, .mgmt, .sec] s a7 := by
    unfold a7
    refine Changes.step ?_ (State.extend_changes ..) (by decide)
    assumption
  clear_value a7
  refine Changes.step ?_ (State.ok_changes ..) (by decide)
  assumption

theorem State.memAccessUe_changes (s : State) (sp : MemSpace) (w : Nat) :
    Changes [.regs, .freeCtr] s (State.memAccessUe s sp w) := by
  unfold State.memAccessUe
  split
  · refine Changes.step ?_ (State.drawn_changes ..) (by decide)
    refine Changes.step ?_ (State.dpaFound_changes ..) (by decide)
    exact Changes.refl _ _
  · exact Changes.refl _ _

theorem State.memAccessDenied_changes (s : State) (j : Nat) (va : Nat) :
    Changes [.regs, .freeCtr] s (State.memAccessDenied s j va) := by
  unfold State.memAccessDenied
  refine Changes.step ?_ (State.drawn_changes ..) (by decide)
  refine Changes.step ?_ (State.memRecord_changes ..) (by decide)
  exact Changes.refl _ _

theorem State.memPlace_changes (s : State) (sp : Nat) (u : Nat) (a : Nat) (n : Nat) (write : Bool) :
    Changes [.regs, .atu, .freeCtr] s (State.memPlace s sp u a n write).1 := by
  unfold State.memPlace
  refine Changes.iteFst ?_ ?_
  · refine Changes.mkFst ?_
    exact Changes.refl _ _
  · refine Changes.iteFst ?_ ?_
    · refine Changes.mkFst ?_
      exact Changes.refl _ _
    · refine Changes.iteFst ?_ ?_
      · refine Changes.mkFst ?_
        refine Changes.step ?_ (State.memAccessDenied_changes ..) (by decide)
        exact Changes.refl _ _
      · split
        · rename_i y3 y4 y5 y6
          have h7 : Changes [.regs, .atu, .freeCtr] s y4 := by
            refine Changes.of_fst ?_ y6
            refine Changes.step ?_ (State.translateVa_changes ..) (by decide)
            exact Changes.refl _ _
          refine Changes.mkFst ?_
          assumption
        · rename_i y8 y9 y10 y11
          have h12 : Changes [.regs, .atu, .freeCtr] s y9 := by
            refine Changes.of_fst ?_ y11
            refine Changes.step ?_ (State.translateVa_changes ..) (by decide)
            exact Changes.refl _ _
          refine Changes.mkFst ?_
          refine Changes.step ?_ (State.memAccessUe_changes ..) (by decide)
          assumption
        · rename_i y13 y14 y15 y16 y17 y18
          have h19 : Changes [.regs, .atu, .freeCtr] s y14 := by
            refine Changes.of_fst ?_ y18
            refine Changes.step ?_ (State.translateVa_changes ..) (by decide)
            exact Changes.refl _ _
          refine Changes.mkFst ?_
          refine Changes.step ?_ (State.memAccessDenied_changes ..) (by decide)
          assumption

theorem State.putPlace_changes (s : State) (sp : MemSpace) (a : Nat) (bs : List Byte) :
    Changes [.dpa, .ue, .cores] s (State.putPlace s sp a bs) := by
  unfold State.putPlace
  split
  · refine Changes.step ?_ (State.lsPut_changes ..) (by decide)
    exact Changes.refl _ _
  · refine Changes.step ?_ (State.writeDpa_changes ..) (by decide)
    exact Changes.refl _ _

theorem State.memPut_changes (s : State) (sp u : Nat) (l : List (Nat × Nat)) (bs : List Byte) :
    Changes [.regs, .dpa, .ue, .cores, .atu, .freeCtr] s (State.memPut s sp u l bs).1 := by
  induction l generalizing s bs with
  | nil => exact Changes.refl _ _
  | cons p l ih =>
    unfold State.memPut
    split
    · rename_i y0 y1 y2 y3
      have h4 : Changes [.regs, .dpa, .ue, .cores, .atu, .freeCtr] s y1 := by
        refine Changes.of_fst ?_ y3
        refine Changes.step ?_ (State.memPlace_changes ..) (by decide)
        exact Changes.refl _ _
      refine Changes.mkFst ?_
      assumption
    · rename_i y5 y6 y7 y8 y9
      have h10 : Changes [.regs, .dpa, .ue, .cores, .atu, .freeCtr] s y6 := by
        refine Changes.of_fst ?_ y9
        refine Changes.step ?_ (State.memPlace_changes ..) (by decide)
        exact Changes.refl _ _
      split
      · refine Changes.mkFst ?_
        refine Changes.step ?_ (State.memAccessUe_changes ..) (by decide)
        refine Changes.step ?_ (State.putPlace_changes ..) (by decide)
        assumption
      · refine Changes.trans ?_ (ih ..)
        refine Changes.step ?_ (State.putPlace_changes ..) (by decide)
        assumption

theorem State.memGet_changes (s : State) (sp u : Nat) (l : List (Nat × Nat)) :
    Changes [.regs, .atu, .freeCtr] s (State.memGet s sp u l).1 := by
  induction l generalizing s with
  | nil => exact Changes.refl _ _
  | cons p l ih =>
    unfold State.memGet
    split
    · rename_i y0 y1 y2 y3
      have h4 : Changes [.regs, .atu, .freeCtr] s y1 := by
        refine Changes.of_fst ?_ y3
        refine Changes.step ?_ (State.memPlace_changes ..) (by decide)
        exact Changes.refl _ _
      refine Changes.mkFst ?_
      assumption
    · rename_i y7 y8 y9 y10 y11
      have h12 : Changes [.regs, .atu, .freeCtr] s y8 := by
        refine Changes.of_fst ?_ y11
        refine Changes.step ?_ (State.memPlace_changes ..) (by decide)
        exact Changes.refl _ _
      split
      · refine Changes.mkFst ?_
        refine Changes.step ?_ (State.memAccessUe_changes ..) (by decide)
        assumption
      · split
        · rename_i y18 y19 y20 y21 y22
          have h23 : Changes [.regs, .atu, .freeCtr] s y19 := by
            refine Changes.of_fst ?_ y22
            refine Changes.trans ?_ (ih ..)
            assumption
          refine Changes.mkFst ?_
          assumption

theorem State.memWrite_changes (s : State) (m : Nat) :
    Changes [.regs, .dpa, .mbx, .ue, .cores, .atu, .mgmt, .freeCtr] s (State.memWrite s m) := by
  unfold State.memWrite
  extract_lets a0
  clear_value a0
  split
  · rename_i y6 y7 y8
    have h9 : Changes [.regs, .dpa, .mbx, .ue, .cores, .atu, .mgmt, .freeCtr] s y7 := by
      refine Changes.of_fst ?_ y8
      refine Changes.step ?_ (State.memPut_changes ..) (by decide)
      exact Changes.refl _ _
    refine Changes.step ?_ (State.ok_changes ..) (by decide)
    assumption
  · rename_i y0 y1 y2 y3 y4
    have h5 : Changes [.regs, .dpa, .mbx, .ue, .cores, .atu, .mgmt, .freeCtr] s y1 := by
      refine Changes.of_fst ?_ y4
      refine Changes.step ?_ (State.memPut_changes ..) (by decide)
      exact Changes.refl _ _
    refine Changes.step ?_ (State.reply_changes ..) (by decide)
    assumption

theorem State.memRead_changes (s : State) (m : Nat) :
    Changes [.regs, .bar2, .mbx, .atu, .mgmt, .freeCtr] s (State.memRead s m) := by
  unfold State.memRead
  extract_lets a5
  clear_value a5
  split
  · rename_i y9 y10 y11 y12
    have h13 : Changes [.regs, .bar2, .mbx, .atu, .mgmt, .freeCtr] s y10 := by
      refine Changes.of_fst ?_ y12
      refine Changes.step ?_ (State.memGet_changes ..) (by decide)
      exact Changes.refl _ _
    refine Changes.step ?_ (State.ok_changes ..) (by decide)
    refine Changes.step ?_ (State.writeBar2_changes ..) (by decide)
    assumption
  · rename_i y4 y5 y6 y7 y8 y9
    have h10 : Changes [.regs, .bar2, .mbx, .atu, .mgmt, .freeCtr] s y5 := by
      refine Changes.of_fst ?_ y9
      refine Changes.step ?_ (State.memGet_changes ..) (by decide)
      exact Changes.refl _ _
    refine Changes.step ?_ (State.reply_changes ..) (by decide)
    refine Changes.ite ?_ ?_
    · refine Changes.step ?_ (State.writeBar2_changes ..) (by decide)
      refine Changes.step ?_ (State.drawn_changes ..) (by decide)
      assumption
    · refine Changes.step ?_ (State.drawn_changes ..) (by decide)
      assumption

theorem State.fabricReadStart_changes (s : State) (m : Nat) :
    Changes [.attach, .mgmt, .nextId] s (State.fabricReadStart s m) := by
  unfold State.fabricReadStart
  extract_lets a0 a1 a2 a3 a4 a5 a6 a7 a8
  clear_value a0
  clear_value a1
  clear_value a2
  clear_value a3
  clear_value a4
  clear_value a5
  clear_value a6
  have h0 : Changes [.attach, .mgmt, .nextId] s a7 := by
    unfold a7
    refine Changes.step ?_ (State.attachPkt_changes ..) (by decide)
    refine Changes.step ?_ (State.keepRunning_changes ..) (by decide)
    exact Changes.refl _ _
  clear_value a7
  clear_value a8
  refine Changes.step ?_ Changes.mgmt (by decide)
  assumption

theorem State.readRsp_changes (s : State) :
    Changes [.regs, .bar2, .mbx, .inbox, .commits, .mgmt] s (State.readRsp s) := by
  unfold State.readRsp
  split
  · exact Changes.refl _ _
  · rename_i y7 y8 y9 y10
    have h11 : Changes [.regs, .bar2, .mbx, .inbox, .commits, .mgmt] s y9 := by
      refine Changes.step ?_ (State.takeArrival_changes y10) (by decide)
      exact Changes.refl _ _
    extract_lets a12 a13
    clear_value a12
    have h0 : Changes [.regs, .bar2, .mbx, .inbox, .commits, .mgmt] s a13 := by
      unfold a13
      refine Changes.step ?_ (State.commitArrival_changes ..) (by decide)
      assumption
    clear_value a13
    split
    · assumption
    · refine Changes.ite ?_ ?_
      · assumption
      · extract_lets a21 a22 a23 a24 a25
        have h26 : Changes [.regs, .bar2, .mbx, .inbox, .commits, .mgmt] s a21 := by
          unfold a21
          refine Changes.step ?_ (State.writeBar2_changes ..) (by decide)
          assumption
        clear_value a21
        clear_value a22
        clear_value a23
        clear_value a24
        have h27 : Changes [.regs, .bar2, .mbx, .inbox, .commits, .mgmt] s a25 := by
          unfold a25
          refine Changes.step ?_ Changes.mgmt (by decide)
          assumption
        clear_value a25
        refine Changes.ite ?_ ?_
        · assumption
        · refine Changes.step ?_ (State.ok_changes ..) (by decide)
          assumption

theorem State.fabricReadLate_changes (s : State) :
    Changes [.regs, .mbx, .mgmt] s (State.fabricReadLate s) := by
  unfold State.fabricReadLate
  split
  · exact Changes.refl _ _
  · refine Changes.step ?_ (State.reply_changes ..) (by decide)
    refine Changes.step ?_ Changes.mgmt (by decide)
    exact Changes.refl _ _

theorem State.stopDevice_changes (s : State) (m : Nat) :
    Changes [.dev, .regs, .dpa, .sems, .mbx, .ue, .owed, .jobs, .dsp, .mgmt] s (State.stopDevice s m) := by
  unfold State.stopDevice
  extract_lets a0 a1
  have h2 : Changes [.dev, .regs, .dpa, .sems, .mbx, .ue, .owed, .jobs, .dsp, .mgmt] s a0 := by
    unfold a0
    refine Changes.step ?_ (State.setDev_changes ..) (by decide)
    refine Changes.step ?_ (State.raise_changes ..) (by decide)
    refine Changes.step ?_ (State.keepRunning_changes ..) (by decide)
    exact Changes.refl _ _
  clear_value a0
  clear_value a1
  refine Changes.step ?_ (State.deviceDrain_changes ..) (by decide)
  refine Changes.step ?_ Changes.mgmt (by decide)
  assumption

/-! ### Canonical form -/

theorem State.getFault_wf (s : State) (m : Nat) :
    KeepsWf s (State.getFault s m) := by
  unfold State.getFault
  refine KeepsWf.ite ?_ ?_
  · refine KeepsWf.trans ?_ (State.ok_wf ..)
    exact KeepsWf.refl _
  · extract_lets a2
    clear_value a2
    refine KeepsWf.trans ?_ (State.ok_wf ..)
    refine KeepsWf.trans ?_ (KeepsWf.of_changes (State.drawn_changes ..) (by decide))
    exact KeepsWf.refl _

theorem State.setContact_wf (s : State) (m : Nat) :
    KeepsWf s (State.setContact s m) := by
  unfold State.setContact
  refine KeepsWf.trans ?_ (State.ok_wf ..)
  refine KeepsWf.trans ?_ (KeepsWf.of_changes Changes.mgmt (by decide))
  exact KeepsWf.refl _

theorem State.setPower_wf (s : State) (m : Nat) :
    KeepsWf s (State.setPower s m) := by
  unfold State.setPower
  extract_lets a0 a1
  clear_value a0
  clear_value a1
  refine KeepsWf.trans ?_ (State.ok_wf ..)
  refine KeepsWf.trans ?_ (KeepsWf.of_changes Changes.power (by decide))
  exact KeepsWf.refl _

theorem State.getMeasure_wf (s : State) (m : Nat) :
    KeepsWf s (State.getMeasure s m) := by
  unfold State.getMeasure
  extract_lets a0
  clear_value a0
  refine KeepsWf.trans ?_ (State.ok_wf ..)
  refine KeepsWf.trans ?_ (State.writeBar2_wf ..)
  exact KeepsWf.refl _

theorem mwf_overwrite [DecidableEq α] {d : α} {m : SMap α} (h : mwf d m = true) (tested : Nat → Bool) (vs : List α) :
    mwf d (overwrite d tested m vs) = true := by
  unfold overwrite
  exact mwf_foldl_mset (mwf_mfilter h _) _ _ _

theorem State.testTiles_wf (s : State) (vs : List Nat) : KeepsWf s (State.testTiles s vs) := by
  unfold State.testTiles
  extract_lets n s1
  have h1 : KeepsWf s s1 := KeepsWf.foldl (KeepsWf.refl _) fun _ _ => State.foldCore_wf ..
  clear_value s1
  refine h1.trans ?_
  constructor
  intro x
  simp only [State.memoriesWf, Bool.and_eq_true] at x ⊢
  obtain ⟨⟨⟨⟨⟨⟨⟨⟨⟨⟨⟨hd, hl⟩, hc⟩, hb⟩, hm⟩, ha⟩, hs⟩, hn⟩, hf⟩, hk⟩, hp⟩, hv⟩ := x
  exact ⟨⟨⟨⟨⟨⟨⟨⟨⟨⟨⟨mwf_overwrite hd _ _, mwf_overwrite hl _ _⟩, hc⟩, hb⟩, hm⟩, mwf_overwrite ha _ _⟩, mwf_overwrite hs _ _⟩,
    hn⟩, mwf_overwrite hf _ _⟩, hk⟩, hp⟩, hv⟩

theorem State.testStreams_wf (s : State) (vs : List Nat) : KeepsWf s (State.testStreams s vs) := by
  unfold State.testStreams
  extract_lets s1 s2
  have h1 : KeepsWf s s1 := KeepsWf.ctxMem fun h => mwf_overwrite h _ _
  have h2 : KeepsWf s1 s2 := (KeepsWf.prog fun h => mwf_overwrite h _ _).trans (KeepsWf.progValid fun _ => rfl)
  exact (h1.trans h2).trans (KeepsWf.of_changes Changes.ctxs (by decide))

theorem State.testMemories_wf (s : State) (mask : Nat) : KeepsWf s (State.testMemories s mask) := by
  unfold State.testMemories
  extract_lets vs s1 s2 s3 s4 tested
  have h1 : KeepsWf s s1 := KeepsWf.ite (State.testTiles_wf ..) (KeepsWf.refl _)
  clear_value s1
  have h2 : KeepsWf s s2 := KeepsWf.ite (h1.trans (KeepsWf.dpa fun h => mwf_overwrite h _ _)) h1
  clear_value s2
  have h3 : KeepsWf s s3 :=
    KeepsWf.ite (h2.trans (KeepsWf.of_changes (State.testCrosspoints_changes ..) (by decide))) h2
  clear_value s3
  have h4 : KeepsWf s s4 := KeepsWf.ite (h3.trans (State.testStreams_wf ..)) h3
  clear_value s4
  refine KeepsWf.trans ?_ (KeepsWf.of_changes (State.drawn_changes ..) (by decide))
  exact h4.trans (KeepsWf.of_changes Changes.ue (by decide))

theorem State.selfTest_wf (s : State) (m : Nat) :
    KeepsWf s (State.selfTest s m) := by
  unfold State.selfTest
  extract_lets a0 a1 a2
  clear_value a0
  have h3 : KeepsWf s a1 := by
    unfold a1
    refine KeepsWf.trans ?_ (State.testMemories_wf ..)
    refine KeepsWf.trans ?_ (KeepsWf.of_changes (State.keepRunning_changes ..) (by decide))
    exact KeepsWf.refl _
  clear_value a1
  clear_value a2
  refine KeepsWf.trans ?_ (KeepsWf.of_changes Changes.mgmt (by decide))
  assumption

theorem State.selfTestDone_wf (s : State) (failed : Nat) (tile : Nat) (port : Nat) (stream : Nat) (xbar : Bool) :
    KeepsWf s (State.selfTestDone s failed tile port stream xbar) := by
  unfold State.selfTestDone
  split
  · exact KeepsWf.refl _
  · extract_lets a6 a7
    clear_value a6
    have h8 : KeepsWf s a7 := by
      unfold a7
      refine KeepsWf.trans ?_ (KeepsWf.of_changes Changes.mgmt (by decide))
      exact KeepsWf.refl _
    clear_value a7
    refine KeepsWf.trans ?_ (State.ok_wf ..)
    assumption

theorem State.linkTestDone_wf (s : State) :
    KeepsWf s (State.linkTestDone s) := by
  unfold State.linkTestDone
  split
  · exact KeepsWf.refl _
  · extract_lets a8 a9
    clear_value a8
    have h10 : KeepsWf s a9 := by
      unfold a9
      refine KeepsWf.trans ?_ (KeepsWf.of_changes Changes.mgmt (by decide))
      exact KeepsWf.refl _
    clear_value a9
    refine KeepsWf.trans ?_ (State.ok_wf ..)
    assumption

theorem State.voteRoster_wf (s : State) (m : Nat) :
    KeepsWf s (State.voteRoster s m) := by
  unfold State.voteRoster
  extract_lets a0 a1
  clear_value a0
  clear_value a1
  refine KeepsWf.trans ?_ (State.ok_wf ..)
  refine KeepsWf.trans ?_ (KeepsWf.of_changes Changes.shadow (by decide))
  exact KeepsWf.refl _

theorem State.beginCommand_wf (s : State) (m : Nat) (eval : Bool) :
    KeepsWf s (State.beginCommand s m eval) := by
  unfold State.beginCommand
  extract_lets a0 a1
  clear_value a0
  have h2 : KeepsWf s a1 := by
    unfold a1
    refine KeepsWf.ite ?_ ?_
    · refine KeepsWf.trans ?_ (KeepsWf.of_changes Changes.freeCtr (by decide))
      exact KeepsWf.refl _
    · exact KeepsWf.refl _
  clear_value a1
  refine KeepsWf.trans ?_ (State.beginJob_wf ..)
  assumption

theorem State.jobFail_wf (s : State) (m : Nat) :
    KeepsWf s (State.jobFail s m) := by
  unfold State.jobFail
  extract_lets a0 a1 a2
  clear_value a0
  clear_value a1
  have h3 : KeepsWf s a2 := by
    unfold a2
    refine KeepsWf.trans ?_ (State.applyNotice_wf ..)
    exact KeepsWf.refl _
  clear_value a2
  refine KeepsWf.trans ?_ (State.ok_wf ..)
  refine KeepsWf.trans ?_ (KeepsWf.of_changes (State.sendToJob_changes ..) (by decide))
  assumption

theorem State.jobRelease_wf (s : State) (m : Nat) :
    KeepsWf s (State.jobRelease s m) := by
  unfold State.jobRelease
  extract_lets a0 a1 a2
  clear_value a0
  clear_value a1
  have h3 : KeepsWf s a2 := by
    unfold a2
    refine KeepsWf.trans ?_ (KeepsWf.of_changes (State.dropCached_changes ..) (by decide))
    exact KeepsWf.refl _
  clear_value a2
  split
  · refine KeepsWf.trans ?_ (State.reply_wf ..)
    refine KeepsWf.trans ?_ (KeepsWf.of_changes (State.dpaUe_changes ..) (by decide))
    exact KeepsWf.refl _
  · split
    · refine KeepsWf.trans ?_ (State.ok_wf ..)
      refine KeepsWf.trans ?_ (State.releasePage_wf ..)
      assumption
    · refine KeepsWf.trans ?_ (State.ok_wf ..)
      assumption

theorem State.loadSprog_wf (s : State) (m : Nat) :
    KeepsWf s (State.loadSprog s m) := by
  unfold State.loadSprog
  extract_lets a0 a1 a2 a3 a4 a5 a6 a7
  clear_value a0
  clear_value a1
  clear_value a2
  clear_value a3
  clear_value a4
  have h0 : KeepsWf s a5 := by
    unfold a5
    refine KeepsWf.foldl ?_ (fun u1 x2 => ?_)
    · exact KeepsWf.refl _
    · refine KeepsWf.foldl ?_ (fun u3 x4 => ?_)
      · exact KeepsWf.refl _
      · refine KeepsWf.trans ?_ (State.storeProg_wf ..)
        exact KeepsWf.refl _
  clear_value a5
  clear_value a6
  have h8 : KeepsWf s a7 := by
    unfold a7
    refine KeepsWf.trans ?_ (KeepsWf.of_changes (State.extend_changes ..) (by decide))
    assumption
  clear_value a7
  refine KeepsWf.trans ?_ (State.ok_wf ..)
  assumption

theorem State.putPlace_wf (s : State) (sp : MemSpace) (a : Nat) (bs : List Byte) :
    KeepsWf s (State.putPlace s sp a bs) := by
  unfold State.putPlace
  split
  · refine KeepsWf.trans ?_ (KeepsWf.of_changes (State.lsPut_changes ..) (by decide))
    exact KeepsWf.refl _
  · refine KeepsWf.trans ?_ (State.writeDpa_wf ..)
    exact KeepsWf.refl _

theorem State.memPut_wf (s : State) (sp u : Nat) (l : List (Nat × Nat)) (bs : List Byte) :
    KeepsWf s (State.memPut s sp u l bs).1 := by
  induction l generalizing s bs with
  | nil => exact KeepsWf.refl _
  | cons p l ih =>
    unfold State.memPut
    split
    · rename_i y1 y2 y3 y4
      have h5 : KeepsWf s y2 := by
        refine KeepsWf.of_fst ?_ y4
        refine KeepsWf.trans ?_ (KeepsWf.of_changes (State.memPlace_changes ..) (by decide))
        exact KeepsWf.refl _
      refine KeepsWf.mkFst ?_
      assumption
    · rename_i y0 y1 y2 y3 y4
      have h5 : KeepsWf s y1 := by
        refine KeepsWf.of_fst ?_ y4
        refine KeepsWf.trans ?_ (KeepsWf.of_changes (State.memPlace_changes ..) (by decide))
        exact KeepsWf.refl _
      split
      · refine KeepsWf.mkFst ?_
        refine KeepsWf.trans ?_ (KeepsWf.of_changes (State.memAccessUe_changes ..) (by decide))
        refine KeepsWf.trans ?_ (State.putPlace_wf ..)
        assumption
      · refine KeepsWf.trans ?_ (ih ..)
        refine KeepsWf.trans ?_ (State.putPlace_wf ..)
        assumption

theorem State.memWrite_wf (s : State) (m : Nat) :
    KeepsWf s (State.memWrite s m) := by
  unfold State.memWrite
  extract_lets a0
  clear_value a0
  split
  · rename_i y6 y7 y8
    have h9 : KeepsWf s y7 := by
      refine KeepsWf.of_fst ?_ y8
      refine KeepsWf.trans ?_ (State.memPut_wf ..)
      exact KeepsWf.refl _
    refine KeepsWf.trans ?_ (State.ok_wf ..)
    assumption
  · rename_i y1 y2 y3 y4 y5
    have h6 : KeepsWf s y2 := by
      refine KeepsWf.of_fst ?_ y5
      refine KeepsWf.trans ?_ (State.memPut_wf ..)
      exact KeepsWf.refl _
    refine KeepsWf.trans ?_ (State.reply_wf ..)
    assumption

theorem State.memRead_wf (s : State) (m : Nat) :
    KeepsWf s (State.memRead s m) := by
  unfold State.memRead
  extract_lets a0
  clear_value a0
  split
  · rename_i y6 y7 y8 y9
    have h10 : KeepsWf s y7 := by
      refine KeepsWf.of_fst ?_ y9
      refine KeepsWf.trans ?_ (KeepsWf.of_changes (State.memGet_changes ..) (by decide))
      exact KeepsWf.refl _
    refine KeepsWf.trans ?_ (State.ok_wf ..)
    refine KeepsWf.trans ?_ (State.writeBar2_wf ..)
    assumption
  · rename_i y21 y22 y23 y24 y25 y26
    have h27 : KeepsWf s y22 := by
      refine KeepsWf.of_fst ?_ y26
      refine KeepsWf.trans ?_ (KeepsWf.of_changes (State.memGet_changes ..) (by decide))
      exact KeepsWf.refl _
    refine KeepsWf.trans ?_ (State.reply_wf ..)
    refine KeepsWf.ite ?_ ?_
    · refine KeepsWf.trans ?_ (State.writeBar2_wf ..)
      refine KeepsWf.trans ?_ (KeepsWf.of_changes (State.drawn_changes ..) (by decide))
      assumption
    · refine KeepsWf.trans ?_ (KeepsWf.of_changes (State.drawn_changes ..) (by decide))
      assumption

theorem State.readRsp_wf (s : State) :
    KeepsWf s (State.readRsp s) := by
  unfold State.readRsp
  split
  · exact KeepsWf.refl _
  · rename_i y13 y14 y15 y16
    have h17 : KeepsWf s y15 := by
      refine KeepsWf.trans ?_ (KeepsWf.of_changes (State.takeArrival_changes y16) (by decide))
      exact KeepsWf.refl _
    extract_lets a28 a29
    clear_value a28
    have h30 : KeepsWf s a29 := by
      unfold a29
      refine KeepsWf.trans ?_ (KeepsWf.of_changes (State.commitArrival_changes ..) (by decide))
      assumption
    clear_value a29
    split
    · assumption
    · refine KeepsWf.ite ?_ ?_
      · assumption
      · extract_lets a8 a9 a10 a11 a12
        have h13 : KeepsWf s a8 := by
          unfold a8
          refine KeepsWf.trans ?_ (State.writeBar2_wf ..)
          assumption
        clear_value a8
        clear_value a9
        clear_value a10
        clear_value a11
        have h14 : KeepsWf s a12 := by
          unfold a12
          refine KeepsWf.trans ?_ (KeepsWf.of_changes Changes.mgmt (by decide))
          assumption
        clear_value a12
        refine KeepsWf.ite ?_ ?_
        · assumption
        · refine KeepsWf.trans ?_ (State.ok_wf ..)
          assumption

theorem State.fabricReadLate_wf (s : State) :
    KeepsWf s (State.fabricReadLate s) := by
  unfold State.fabricReadLate
  split
  · exact KeepsWf.refl _
  · refine KeepsWf.trans ?_ (State.reply_wf ..)
    refine KeepsWf.trans ?_ (KeepsWf.of_changes Changes.mgmt (by decide))
    exact KeepsWf.refl _

theorem State.stopDevice_wf (s : State) (m : Nat) :
    KeepsWf s (State.stopDevice s m) := by
  unfold State.stopDevice
  extract_lets a0 a1
  have h2 : KeepsWf s a0 := by
    unfold a0
    refine KeepsWf.trans ?_ (KeepsWf.of_changes (State.setDev_changes ..) (by decide))
    refine KeepsWf.trans ?_ (KeepsWf.of_changes (State.raise_changes ..) (by decide))
    refine KeepsWf.trans ?_ (KeepsWf.of_changes (State.keepRunning_changes ..) (by decide))
    exact KeepsWf.refl _
  clear_value a0
  clear_value a1
  refine KeepsWf.trans ?_ (State.deviceDrain_wf ..)
  refine KeepsWf.trans ?_ (KeepsWf.of_changes Changes.mgmt (by decide))
  assumption

end Sys2Proof.Machine
end

