-- ==== Sys2Proof/Laws/Read.lean ====
section
/-!
SUPPORT. What each operation of Machine/Read.lean may change (`_changes`), and that those which write a memory keep its
canonical form (`_wf`).
-/

namespace Sys2Proof.Machine

theorem State.pcieWrite_changes (s : State) (o : Nat) (w : Word) :
    Changes [.pcie] s (State.pcieWrite s o w) := by
  unfold State.pcieWrite
  refine Changes.ite ?_ ?_
  · exact Changes.refl _ _
  · refine Changes.step ?_ Changes.pcie (by decide)
    exact Changes.refl _ _

theorem State.readCounter_changes (s : State) (a : Nat) :
    Changes [.latch, .busData] s (State.readCounter s a) := by
  unfold State.readCounter
  split
  · refine Changes.ite (Changes.refl _ _) (Changes.step (Changes.refl _ _) Changes.busData (by decide))
  · refine State.onRead_changes (by decide) ?_ ?_ _ _
    · exact Changes.refl _ _
    · split
      · refine Changes.step ?_ Changes.latch_busData (by decide)
        exact Changes.refl _ _
      · exact Changes.refl _ _

end Sys2Proof.Machine
end

