-- ==== Sys2Proof/Laws/Device.lean ====
section
/-!
SUPPORT. What each operation of Machine/Device.lean may change (`_changes`), and that those which write a memory keep its
canonical form (`_wf`).
-/

namespace Sys2Proof.Machine

theorem State.fullReset_changes (s : State) :
    Changes [.dev, .regs, .cnt, .latch, .busData, .dpa, .ls, .acc, .accFlags, .accBank1, .sems, .ctxMem, .prog, .progValid,
        .bar2, .mbx, .ue, .xbar, .links, .egress, .eths, .shpT, .circT, .polT, .ethDrop, .hist, .sampleN, .ring, .attach,
        .msgs, .msgSeq, .inbox, .commits, .trackers, .ctxs, .accepted, .rrEmit, .cores, .colls, .owed, .fetches, .wbs,
        .atu, .atuBusy, .poolUsed, .time, .shutters, .jobs, .active, .shadow, .dsp, .mgmt, .sec, .power, .i3c, .jtag,
        .pcie, .nextId, .freeCtr] s (State.fullReset s) := by
  constructor; intro f hf; cases f <;> first | rfl | exact absurd (by simp) hf

theorem State.pwrFalls_changes (s : State) :
    Changes [.dev, .regs, .cnt, .latch, .busData, .dpa, .ls, .acc, .accFlags, .accBank1, .sems, .ctxMem, .prog, .progValid,
        .bar2, .mbx, .ue, .xbar, .links, .egress, .eths, .shpT, .circT, .polT, .ethDrop, .hist, .sampleN, .ring, .attach,
        .msgs, .msgSeq, .inbox, .commits, .trackers, .ctxs, .accepted, .rrEmit, .cores, .colls, .owed, .fetches, .wbs,
        .atu, .atuBusy, .poolUsed, .time, .shutters, .jobs, .active, .shadow, .dsp, .mgmt, .sec, .power, .i3c, .jtag,
        .pcie, .nextId, .freeCtr] s (State.pwrFalls s) := by
  unfold State.pwrFalls
  refine Changes.step ?_ (State.fullReset_changes ..) (by decide)
  refine Changes.step ?_ Changes.power (by decide)
  exact Changes.refl _ _

theorem State.lowPulse_changes (s : State) (pwr : Bool) (ns : Nat) :
    Changes [.dev, .regs, .cnt, .latch, .busData, .dpa, .ls, .acc, .accFlags, .accBank1, .sems, .ctxMem, .prog, .progValid,
        .bar2, .mbx, .ue, .xbar, .links, .egress, .eths, .shpT, .circT, .polT, .ethDrop, .hist, .sampleN, .ring, .attach,
        .msgs, .msgSeq, .inbox, .commits, .trackers, .ctxs, .accepted, .rrEmit, .cores, .colls, .owed, .fetches, .wbs,
        .atu, .atuBusy, .poolUsed, .time, .shutters, .jobs, .active, .shadow, .dsp, .mgmt, .sec, .power, .i3c, .jtag,
        .pcie, .nextId, .freeCtr] s (State.lowPulse s pwr ns) := by
  unfold State.lowPulse
  refine Changes.ite ?_ ?_
  · exact Changes.refl _ _
  · refine Changes.ite ?_ ?_
    · refine Changes.ite ?_ ?_
      · refine Changes.step ?_ (State.pwrFalls_changes ..) (by decide)
        exact Changes.refl _ _
      · refine Changes.step ?_ (State.fullReset_changes ..) (by decide)
        exact Changes.refl _ _
    · refine Changes.ite ?_ ?_
      · refine Changes.ite ?_ ?_
        · refine Changes.step ?_ (State.pwrFalls_changes ..) (by decide)
          refine Changes.step ?_ (State.drawn_changes ..) (by decide)
          exact Changes.refl _ _
        · refine Changes.step ?_ (State.fullReset_changes ..) (by decide)
          refine Changes.step ?_ (State.drawn_changes ..) (by decide)
          exact Changes.refl _ _
      · refine Changes.step ?_ (State.drawn_changes ..) (by decide)
        exact Changes.refl _ _

theorem State.undervoltage_changes (s : State) (ns : Nat) :
    Changes [.dev, .regs, .cnt, .latch, .busData, .dpa, .ls, .acc, .accFlags, .accBank1, .sems, .ctxMem, .prog, .progValid,
        .bar2, .mbx, .ue, .xbar, .links, .egress, .eths, .shpT, .circT, .polT, .ethDrop, .hist, .sampleN, .ring, .attach,
        .msgs, .msgSeq, .inbox, .commits, .trackers, .ctxs, .accepted, .rrEmit, .cores, .colls, .owed, .fetches, .wbs,
        .atu, .atuBusy, .poolUsed, .time, .shutters, .jobs, .active, .shadow, .dsp, .mgmt, .sec, .power, .i3c, .jtag,
        .pcie, .nextId, .freeCtr] s (State.undervoltage s ns) := by
  unfold State.undervoltage
  refine Changes.ite ?_ ?_
  · exact Changes.refl _ _
  · refine Changes.step ?_ (State.pwrFalls_changes ..) (by decide)
    exact Changes.refl _ _

theorem State.powerUp_changes (s : State) (id : Nat) :
    Changes [.power, .i3c] s (State.powerUp s id) := by
  unfold State.powerUp
  refine Changes.ite ?_ ?_
  · exact Changes.refl _ _
  · refine Changes.step ?_ Changes.power_i3c (by decide)
    exact Changes.refl _ _

theorem State.releaseReset_changes (s : State) (bootMode : Nat) (helper : List Byte) :
    Changes [.dev, .regs, .sec] s (State.releaseReset s bootMode helper) := by
  unfold State.releaseReset
  refine Changes.ite ?_ ?_
  · exact Changes.refl _ _
  · extract_lets a0 a1 a2
    clear_value a0
    have h3 : Changes [.dev, .regs, .sec] s a1 := by
      unfold a1
      refine Changes.step ?_ (State.setField_changes ..) (by decide)
      refine Changes.step ?_ Changes.dev (by decide)
      exact Changes.refl _ _
    clear_value a1
    clear_value a2
    refine Changes.ite ?_ ?_
    · refine Changes.step ?_ (State.takeHelper_changes ..) (by decide)
      refine Changes.step ?_ (State.setSec_changes ..) (by decide)
      assumption
    · refine Changes.step ?_ (State.setSec_changes ..) (by decide)
      assumption

theorem State.writeRstctl_changes (s : State) (w : Word) :
    Changes [.dev, .regs, .cnt, .latch, .busData, .dpa, .ls, .acc, .accFlags, .accBank1, .sems, .ctxMem, .prog, .progValid,
        .bar2, .mbx, .ue, .xbar, .links, .egress, .eths, .shpT, .circT, .polT, .ethDrop, .hist, .sampleN, .ring, .attach,
        .msgs, .msgSeq, .inbox, .commits, .trackers, .ctxs, .accepted, .rrEmit, .cores, .colls, .owed, .fetches, .wbs,
        .atu, .atuBusy, .poolUsed, .time, .shutters, .jobs, .active, .shadow, .dsp, .mgmt, .sec, .power, .i3c, .jtag,
        .pcie, .nextId, .freeCtr] s (State.writeRstctl s w) := by
  unfold State.writeRstctl
  refine Changes.ite ?_ ?_
  · exact Changes.refl _ _
  · refine Changes.ite ?_ ?_
    · refine Changes.step ?_ (State.fullReset_changes ..) (by decide)
      exact Changes.refl _ _
    · refine Changes.step ?_ Changes.mgmt (by decide)
      exact Changes.refl _ _

theorem State.stopCores_changes (s : State) :
    Changes [.regs, .cnt, .cores] s (State.stopCores s) := by
  unfold State.stopCores
  refine Changes.foldl ?_ (fun u0 x1 => ?_)
  · exact Changes.refl _ _
  · refine Changes.ite ?_ ?_
    · refine Changes.step ?_ (State.stopCore_changes ..) (by decide)
      exact Changes.refl _ _
    · exact Changes.refl _ _

theorem State.dropLinks_changes (s : State) :
    Changes [.regs, .xbar, .links, .egress, .time, .shutters, .freeCtr] s (State.dropLinks s) := by
  unfold State.dropLinks
  refine Changes.foldl ?_ (fun u0 x1 => ?_)
  · exact Changes.refl _ _
  · refine Changes.foldl ?_ (fun u2 x3 => ?_)
    · exact Changes.refl _ _
    · extract_lets a4 a5
      clear_value a4
      clear_value a5
      refine Changes.ite ?_ ?_
      · exact Changes.refl _ _
      · refine Changes.step ?_ (State.setReg_changes ..) (by decide)
        refine Changes.step ?_ (State.watchLink_changes ..) (by decide)
        refine Changes.step ?_ (State.writePortCfg_changes ..) (by decide)
        exact Changes.refl _ _

theorem State.deviceFault_changes (s : State) (source : Nat) (die : Nat) :
    Changes [.dev, .regs, .cnt, .mbx, .xbar, .links, .egress, .cores, .time, .shutters, .mgmt, .freeCtr] s
        (State.deviceFault s source die) := by
  unfold State.deviceFault
  extract_lets a0 a1 a2 a3 a4 a5
  clear_value a0
  have h6 : Changes [.dev, .regs, .cnt, .mbx, .xbar, .links, .egress, .cores, .time, .shutters, .mgmt, .freeCtr] s a1 := by
    unfold a1
    split
    · refine Changes.step ?_ (State.reply_changes ..) (by decide)
      exact Changes.refl _ _
    · exact Changes.refl _ _
  clear_value a1
  have h13 : Changes [.dev, .regs, .cnt, .mbx, .xbar, .links, .egress, .cores, .time, .shutters, .mgmt, .freeCtr] s a2 := by
    unfold a2
    refine Changes.step ?_ (State.setReg_changes ..) (by decide)
    assumption
  clear_value a2
  clear_value a3
  have h14 : Changes [.dev, .regs, .cnt, .mbx, .xbar, .links, .egress, .cores, .time, .shutters, .mgmt, .freeCtr] s a4 := by
    unfold a4
    refine Changes.step ?_ Changes.mgmt (by decide)
    assumption
  clear_value a4
  have h15 : Changes [.dev, .regs, .cnt, .mbx, .xbar, .links, .egress, .cores, .time, .shutters, .mgmt, .freeCtr] s a5 := by
    unfold a5
    refine Changes.step ?_ (State.dropLinks_changes ..) (by decide)
    refine Changes.step ?_ (State.stopCores_changes ..) (by decide)
    assumption
  clear_value a5
  refine Changes.step ?_ (State.setDev_changes ..) (by decide)
  refine Changes.step ?_ (State.raise_changes ..) (by decide)
  assumption

theorem State.faultEvent_changes (s : State) (source : Nat) (die : Nat) :
    Changes [.dev, .regs, .cnt, .mbx, .xbar, .links, .egress, .cores, .time, .shutters, .mgmt, .freeCtr] s
        (State.faultEvent s source die) := by
  unfold State.faultEvent
  refine Changes.ite ?_ ?_
  · exact Changes.refl _ _
  · refine Changes.ite ?_ ?_
    · refine Changes.step ?_ (State.deviceFault_changes ..) (by decide)
      exact Changes.refl _ _
    · exact Changes.refl _ _

theorem State.watchdog_changes (s : State) :
    Changes [.dev, .regs, .cnt, .mbx, .xbar, .links, .egress, .cores, .time, .shutters, .mgmt, .freeCtr] s
        (State.watchdog s) := by
  unfold State.watchdog
  refine Changes.ite ?_ ?_
  · refine Changes.step ?_ (State.deviceFault_changes ..) (by decide)
    exact Changes.refl _ _
  · exact Changes.refl _ _

theorem State.heartbeat_changes (s : State) :
    Changes [.regs] s (State.heartbeat s) := by
  unfold State.heartbeat
  refine Changes.ite ?_ ?_
  · refine Changes.step ?_ (State.count_changes ..) (by decide)
    exact Changes.refl _ _
  · exact Changes.refl _ _

theorem State.refreshTele_changes (s : State) :
    Changes [.i3c, .freeCtr] s (State.refreshTele s) := by
  unfold State.refreshTele
  refine Changes.ite ?_ ?_
  · exact Changes.refl _ _
  · refine Changes.step ?_ (State.drawn_changes ..) (by decide)
    refine Changes.step ?_ Changes.i3c (by decide)
    exact Changes.refl _ _

theorem State.refreshSheet_changes (s : State) :
    Changes [.dpa, .bar2, .ue, .mgmt] s (State.refreshSheet s) := by
  unfold State.refreshSheet
  refine Changes.ite ?_ ?_
  · exact Changes.refl _ _
  · extract_lets a0 a1 a2 a3 a4
    clear_value a0
    clear_value a1
    clear_value a2
    clear_value a3
    have h5 : Changes [.dpa, .bar2, .ue, .mgmt] s a4 := by
      unfold a4
      refine Changes.step ?_ (State.writeBar2_changes ..) (by decide)
      refine Changes.step ?_ Changes.mgmt (by decide)
      exact Changes.refl _ _
    clear_value a4
    refine Changes.ite ?_ ?_
    · assumption
    · refine Changes.step ?_ (State.writeDpa_changes ..) (by decide)
      assumption

theorem State.setI3c_changes (s : State) (c : I3c) :
    Changes [.i3c] s (State.setI3c s c) := by
  unfold State.setI3c
  refine Changes.ite ?_ ?_
  · exact Changes.refl _ _
  · refine Changes.step ?_ Changes.i3c (by decide)
    exact Changes.refl _ _

theorem State.i3cRead_changes (s : State) (n : Nat) :
    Changes [.i3c] s (State.i3cRead s n) := by
  unfold State.i3cRead
  refine Changes.step ?_ (State.setI3c_changes ..) (by decide)
  exact Changes.refl _ _

theorem State.i3cReply_changes (s : State) (bs : List Byte) :
    Changes [.i3c] s (State.i3cReply s bs) := by
  unfold State.i3cReply
  refine Changes.step ?_ (State.setI3c_changes ..) (by decide)
  exact Changes.refl _ _

theorem State.i3cFree_changes (s : State) (n : Nat) :
    Changes [.i3c, .freeCtr] s (State.i3cFree s n) := by
  unfold State.i3cFree
  refine Changes.ite ?_ ?_
  · exact Changes.refl _ _
  · refine Changes.step ?_ (State.i3cReply_changes ..) (by decide)
    refine Changes.step ?_ (State.drawn_changes ..) (by decide)
    exact Changes.refl _ _

theorem State.i3cAssign_changes (s : State) (a : Nat) :
    Changes [.i3c] s (State.i3cAssign s a) := by
  unfold State.i3cAssign
  refine Changes.ite ?_ ?_
  · exact Changes.refl _ _
  · refine Changes.step ?_ (State.setI3c_changes ..) (by decide)
    exact Changes.refl _ _

theorem State.jtagSelect_changes (s : State) (ir : JtagIr) (dr : List Bool) :
    Changes [.jtag] s (State.jtagSelect s ir dr) := by
  unfold State.jtagSelect
  refine Changes.step ?_ Changes.jtag (by decide)
  exact Changes.refl _ _

theorem State.jtagBoundary_changes (s : State) (ir : JtagIr) :
    Changes [.jtag, .freeCtr] s (State.jtagBoundary s ir) := by
  unfold State.jtagBoundary
  extract_lets a0 a1
  clear_value a0
  clear_value a1
  refine Changes.step ?_ (State.drawn_changes ..) (by decide)
  refine Changes.step ?_ (State.jtagSelect_changes ..) (by decide)
  refine Changes.step ?_ Changes.jtag (by decide)
  exact Changes.refl _ _

theorem State.setPowerState_changes (s : State) (p : Power) :
    Changes [.power] s (State.setPowerState s p) := by
  unfold State.setPowerState
  refine Changes.step ?_ Changes.power (by decide)
  exact Changes.refl _ _

theorem State.measurePower_changes (s : State) (w : Nat) :
    Changes [.power] s (State.measurePower s w) := by
  unfold State.measurePower
  refine Changes.ite ?_ ?_
  · refine Changes.step ?_ (State.setPowerState_changes ..) (by decide)
    exact Changes.refl _ _
  · exact Changes.refl _ _

theorem State.throttleStep_changes (s : State) (t : Int) :
    Changes [.regs, .power] s (State.throttleStep s t) := by
  unfold State.throttleStep
  refine Changes.ite ?_ ?_
  · exact Changes.refl _ _
  · refine Changes.ite ?_ ?_
    · refine Changes.step ?_ (State.setPowerState_changes ..) (by decide)
      exact Changes.refl _ _
    · extract_lets a0 a1 a2 a3 a4
      have h5 : Changes [.regs, .power] s a2 := by
        unfold a2
        refine Changes.ite ?_ ?_
        · exact Changes.refl _ _
        · refine Changes.step ?_ (State.raise_changes ..) (by decide)
          exact Changes.refl _ _
      clear_value a2
      clear_value a3
      clear_value a4
      refine Changes.ite ?_ ?_
      · refine Changes.step ?_ (State.setPowerState_changes ..) (by decide)
        assumption
      · refine Changes.ite ?_ ?_
        · refine Changes.step ?_ (State.setPowerState_changes ..) (by decide)
          exact Changes.refl _ _
        · refine Changes.step ?_ (State.setPowerState_changes ..) (by decide)
          exact Changes.refl _ _

theorem State.thermalClamp_changes (s : State) (t : Int) :
    Changes [.power] s (State.thermalClamp s t) := by
  unfold State.thermalClamp
  refine Changes.ite ?_ ?_
  · exact Changes.refl _ _
  · refine Changes.step ?_ (State.setPowerState_changes ..) (by decide)
    exact Changes.refl _ _

theorem State.clampRelease_changes (s : State) (t : Int) :
    Changes [.power] s (State.clampRelease s t) := by
  unfold State.clampRelease
  refine Changes.ite ?_ ?_
  · exact Changes.refl _ _
  · refine Changes.step ?_ (State.setPowerState_changes ..) (by decide)
    exact Changes.refl _ _

theorem State.thermTrip_changes (s : State) (t : Int) :
    Changes [.dev, .regs, .cnt, .latch, .busData, .dpa, .ls, .acc, .accFlags, .accBank1, .sems, .ctxMem, .prog, .progValid,
        .bar2, .mbx, .ue, .xbar, .links, .egress, .eths, .shpT, .circT, .polT, .ethDrop, .hist, .sampleN, .ring, .attach,
        .msgs, .msgSeq, .inbox, .commits, .trackers, .ctxs, .accepted, .rrEmit, .cores, .colls, .owed, .fetches, .wbs,
        .atu, .atuBusy, .poolUsed, .time, .shutters, .jobs, .active, .shadow, .dsp, .mgmt, .sec, .power, .i3c, .jtag,
        .pcie, .nextId, .freeCtr] s (State.thermTrip s t) := by
  unfold State.thermTrip
  refine Changes.ite ?_ ?_
  · exact Changes.refl _ _
  · refine Changes.step ?_ (State.fullReset_changes ..) (by decide)
    refine Changes.step ?_ Changes.power (by decide)
    exact Changes.refl _ _

/-! ### Canonical form -/

theorem State.fullReset_wf (s : State) : KeepsWf s (State.fullReset s) := ⟨fun _ => rfl⟩

theorem State.pwrFalls_wf (s : State) :
    KeepsWf s (State.pwrFalls s) := by
  unfold State.pwrFalls
  refine KeepsWf.trans ?_ (State.fullReset_wf ..)
  refine KeepsWf.trans ?_ (KeepsWf.of_changes Changes.power (by decide))
  exact KeepsWf.refl _

theorem State.lowPulse_wf (s : State) (pwr : Bool) (ns : Nat) :
    KeepsWf s (State.lowPulse s pwr ns) := by
  unfold State.lowPulse
  refine KeepsWf.ite ?_ ?_
  · exact KeepsWf.refl _
  · refine KeepsWf.ite ?_ ?_
    · refine KeepsWf.ite ?_ ?_
      · refine KeepsWf.trans ?_ (State.pwrFalls_wf ..)
        exact KeepsWf.refl _
      · refine KeepsWf.trans ?_ (State.fullReset_wf ..)
        exact KeepsWf.refl _
    · refine KeepsWf.ite ?_ ?_
      · refine KeepsWf.ite ?_ ?_
        · refine KeepsWf.trans ?_ (State.pwrFalls_wf ..)
          refine KeepsWf.trans ?_ (KeepsWf.of_changes (State.drawn_changes ..) (by decide))
          exact KeepsWf.refl _
        · refine KeepsWf.trans ?_ (State.fullReset_wf ..)
          refine KeepsWf.trans ?_ (KeepsWf.of_changes (State.drawn_changes ..) (by decide))
          exact KeepsWf.refl _
      · refine KeepsWf.trans ?_ (KeepsWf.of_changes (State.drawn_changes ..) (by decide))
        exact KeepsWf.refl _

theorem State.undervoltage_wf (s : State) (ns : Nat) :
    KeepsWf s (State.undervoltage s ns) := by
  unfold State.undervoltage
  refine KeepsWf.ite ?_ ?_
  · exact KeepsWf.refl _
  · refine KeepsWf.trans ?_ (State.pwrFalls_wf ..)
    exact KeepsWf.refl _

theorem State.writeRstctl_wf (s : State) (w : Word) :
    KeepsWf s (State.writeRstctl s w) := by
  unfold State.writeRstctl
  refine KeepsWf.ite ?_ ?_
  · exact KeepsWf.refl _
  · refine KeepsWf.ite ?_ ?_
    · refine KeepsWf.trans ?_ (State.fullReset_wf ..)
      exact KeepsWf.refl _
    · refine KeepsWf.trans ?_ (KeepsWf.of_changes Changes.mgmt (by decide))
      exact KeepsWf.refl _

theorem State.stopCores_wf (s : State) :
    KeepsWf s (State.stopCores s) := by
  unfold State.stopCores
  refine KeepsWf.foldl ?_ (fun u0 x1 => ?_)
  · exact KeepsWf.refl _
  · refine KeepsWf.ite ?_ ?_
    · refine KeepsWf.trans ?_ (State.stopCore_wf ..)
      exact KeepsWf.refl _
    · exact KeepsWf.refl _

theorem State.deviceFault_wf (s : State) (source : Nat) (die : Nat) :
    KeepsWf s (State.deviceFault s source die) := by
  unfold State.deviceFault
  extract_lets a0 a1 a2 a3 a4 a5
  clear_value a0
  have h6 : KeepsWf s a1 := by
    unfold a1
    split
    · refine KeepsWf.trans ?_ (State.reply_wf ..)
      exact KeepsWf.refl _
    · exact KeepsWf.refl _
  clear_value a1
  have h6 : KeepsWf s a2 := by
    unfold a2
    refine KeepsWf.trans ?_ (KeepsWf.of_changes (State.setReg_changes ..) (by decide))
    assumption
  clear_value a2
  clear_value a3
  have h6 : KeepsWf s a4 := by
    unfold a4
    refine KeepsWf.trans ?_ (KeepsWf.of_changes Changes.mgmt (by decide))
    assumption
  clear_value a4
  have h7 : KeepsWf s a5 := by
    unfold a5
    refine KeepsWf.trans ?_ (KeepsWf.of_changes (State.dropLinks_changes ..) (by decide))
    refine KeepsWf.trans ?_ (State.stopCores_wf ..)
    assumption
  clear_value a5
  refine KeepsWf.trans ?_ (KeepsWf.of_changes (State.setDev_changes ..) (by decide))
  refine KeepsWf.trans ?_ (KeepsWf.of_changes (State.raise_changes ..) (by decide))
  assumption

theorem State.faultEvent_wf (s : State) (source : Nat) (die : Nat) :
    KeepsWf s (State.faultEvent s source die) := by
  unfold State.faultEvent
  refine KeepsWf.ite ?_ ?_
  · exact KeepsWf.refl _
  · refine KeepsWf.ite ?_ ?_
    · refine KeepsWf.trans ?_ (State.deviceFault_wf ..)
      exact KeepsWf.refl _
    · exact KeepsWf.refl _

theorem State.watchdog_wf (s : State) :
    KeepsWf s (State.watchdog s) := by
  unfold State.watchdog
  refine KeepsWf.ite ?_ ?_
  · refine KeepsWf.trans ?_ (State.deviceFault_wf ..)
    exact KeepsWf.refl _
  · exact KeepsWf.refl _

theorem State.refreshSheet_wf (s : State) :
    KeepsWf s (State.refreshSheet s) := by
  unfold State.refreshSheet
  refine KeepsWf.ite ?_ ?_
  · exact KeepsWf.refl _
  · extract_lets a0 a1 a2 a3 a4
    clear_value a0
    clear_value a1
    clear_value a2
    clear_value a3
    have h5 : KeepsWf s a4 := by
      unfold a4
      refine KeepsWf.trans ?_ (State.writeBar2_wf ..)
      refine KeepsWf.trans ?_ (KeepsWf.of_changes Changes.mgmt (by decide))
      exact KeepsWf.refl _
    clear_value a4
    refine KeepsWf.ite ?_ ?_
    · assumption
    · refine KeepsWf.trans ?_ (State.writeDpa_wf ..)
      assumption

theorem State.thermTrip_wf (s : State) (t : Int) :
    KeepsWf s (State.thermTrip s t) := by
  unfold State.thermTrip
  refine KeepsWf.ite ?_ ?_
  · exact KeepsWf.refl _
  · refine KeepsWf.trans ?_ (State.fullReset_wf ..)
    refine KeepsWf.trans ?_ (KeepsWf.of_changes Changes.power (by decide))
    exact KeepsWf.refl _

end Sys2Proof.Machine
end

