-- ==== Sys2Proof/Laws/BusWrite.lean ====
section
/-!
SUPPORT. What each operation of Machine/BusWrite.lean may change (`_changes`), and that those which write a memory keep its
canonical form (`_wf`).
-/

namespace Sys2Proof.Machine

theorem State.writeDevWin_changes (s : State) (o : Nat) (w : Word) :
    Changes [.dev, .regs, .cnt, .latch, .busData, .dpa, .ls, .acc, .accFlags, .accBank1, .sems, .ctxMem, .prog, .progValid,
        .bar2, .mbx, .ue, .xbar, .links, .egress, .eths, .shpT, .circT, .polT, .ethDrop, .hist, .sampleN, .ring, .attach,
        .msgs, .msgSeq, .inbox, .commits, .trackers, .ctxs, .accepted, .rrEmit, .cores, .colls, .owed, .fetches, .wbs,
        .atu, .atuBusy, .poolUsed, .time, .shutters, .jobs, .active, .shadow, .dsp, .mgmt, .sec, .power, .i3c, .jtag,
        .pcie, .nextId, .freeCtr] s (State.writeDevWin s o w) := by
  unfold State.writeDevWin
  refine Changes.ite ?_ ?_
  · refine Changes.step ?_ (State.writeRstctl_changes ..) (by decide)
    exact Changes.refl _ _
  · refine Changes.ite ?_ ?_
    · refine Changes.step ?_ (State.writeMbxDb_changes ..) (by decide)
      exact Changes.refl _ _
    · refine Changes.ite ?_ ?_
      · refine Changes.step ?_ (State.writeDspCause_changes ..) (by decide)
        exact Changes.refl _ _
      · refine Changes.step ?_ (State.storeAt_changes ..) (by decide)
        exact Changes.refl _ _

theorem State.writeWindow_changes (s : State) (w : Window) (o : Nat) (v : Word) :
    Changes [.dev, .regs, .cnt, .latch, .busData, .dpa, .ls, .acc, .accFlags, .accBank1, .sems, .ctxMem, .prog, .progValid,
        .bar2, .mbx, .ue, .xbar, .links, .egress, .eths, .shpT, .circT, .polT, .ethDrop, .hist, .sampleN, .ring, .attach,
        .msgs, .msgSeq, .inbox, .commits, .trackers, .ctxs, .accepted, .rrEmit, .cores, .colls, .owed, .fetches, .wbs,
        .atu, .atuBusy, .poolUsed, .time, .shutters, .jobs, .active, .shadow, .dsp, .mgmt, .sec, .power, .i3c, .jtag,
        .pcie, .nextId, .freeCtr] s (State.writeWindow s w o v) := by
  unfold State.writeWindow
  split
  · refine Changes.step ?_ (State.writeDevWin_changes ..) (by decide)
    exact Changes.refl _ _
  · refine Changes.step ?_ (State.writeMbx_changes ..) (by decide)
    exact Changes.refl _ _
  · refine Changes.step ?_ (State.writeTimeWin_changes ..) (by decide)
    exact Changes.refl _ _
  · refine Changes.step ?_ (State.storeAt_changes ..) (by decide)
    exact Changes.refl _ _
  · refine Changes.step ?_ (State.writeXbarWin_changes ..) (by decide)
    exact Changes.refl _ _
  · refine Changes.step ?_ (State.writeBpmWin_changes ..) (by decide)
    exact Changes.refl _ _
  · refine Changes.step ?_ (State.writePortWin_changes ..) (by decide)
    exact Changes.refl _ _
  · refine Changes.step ?_ (State.writeSdWin_changes ..) (by decide)
    exact Changes.refl _ _
  · refine Changes.step ?_ (State.writeTdWin_changes ..) (by decide)
    exact Changes.refl _ _

theorem State.busWrite_changes (s : State) (a : Nat) (width : Nat) (v : Word) :
    Changes [.dev, .regs, .cnt, .latch, .busData, .dpa, .ls, .acc, .accFlags, .accBank1, .sems, .ctxMem, .prog, .progValid,
        .bar2, .mbx, .ue, .xbar, .links, .egress, .eths, .shpT, .circT, .polT, .ethDrop, .hist, .sampleN, .ring, .attach,
        .msgs, .msgSeq, .inbox, .commits, .trackers, .ctxs, .accepted, .rrEmit, .cores, .colls, .owed, .fetches, .wbs,
        .atu, .atuBusy, .poolUsed, .time, .shutters, .jobs, .active, .shadow, .dsp, .mgmt, .sec, .power, .i3c, .jtag,
        .pcie, .nextId, .freeCtr] s (State.busWrite s a width v) := by
  unfold State.busWrite
  refine Changes.ite ?_ ?_
  · exact Changes.refl _ _
  · refine Changes.ite ?_ ?_
    · refine Changes.step ?_ (State.writeBar2_changes ..) (by decide)
      exact Changes.refl _ _
    · refine Changes.ite ?_ ?_
      · exact Changes.refl _ _
      · refine Changes.ite ?_ ?_
        · refine Changes.ite ?_ ?_
          · refine Changes.step ?_ (State.pcieWrite_changes ..) (by decide)
            exact Changes.refl _ _
          · exact Changes.refl _ _
        · split
          · exact Changes.refl _ _
          · refine Changes.ite ?_ ?_
            · refine Changes.step ?_ (State.writeWindow_changes ..) (by decide)
              exact Changes.refl _ _
            · exact Changes.refl _ _

/-! ### Canonical form -/

theorem State.writeDevWin_wf (s : State) (o : Nat) (w : Word) :
    KeepsWf s (State.writeDevWin s o w) := by
  unfold State.writeDevWin
  refine KeepsWf.ite ?_ ?_
  · refine KeepsWf.trans ?_ (State.writeRstctl_wf ..)
    exact KeepsWf.refl _
  · refine KeepsWf.ite ?_ ?_
    · refine KeepsWf.trans ?_ (KeepsWf.of_changes (State.writeMbxDb_changes ..) (by decide))
      exact KeepsWf.refl _
    · refine KeepsWf.ite ?_ ?_
      · refine KeepsWf.trans ?_ (KeepsWf.of_changes (State.writeDspCause_changes ..) (by decide))
        exact KeepsWf.refl _
      · refine KeepsWf.trans ?_ (KeepsWf.of_changes (State.storeAt_changes ..) (by decide))
        exact KeepsWf.refl _

theorem State.writeWindow_wf (s : State) (w : Window) (o : Nat) (v : Word) :
    KeepsWf s (State.writeWindow s w o v) := by
  unfold State.writeWindow
  split
  · refine KeepsWf.trans ?_ (State.writeDevWin_wf ..)
    exact KeepsWf.refl _
  · refine KeepsWf.trans ?_ (State.writeMbx_wf ..)
    exact KeepsWf.refl _
  · refine KeepsWf.trans ?_ (KeepsWf.of_changes (State.writeTimeWin_changes ..) (by decide))
    exact KeepsWf.refl _
  · refine KeepsWf.trans ?_ (KeepsWf.of_changes (State.storeAt_changes ..) (by decide))
    exact KeepsWf.refl _
  · refine KeepsWf.trans ?_ (KeepsWf.of_changes (State.writeXbarWin_changes ..) (by decide))
    exact KeepsWf.refl _
  · refine KeepsWf.trans ?_ (KeepsWf.of_changes (State.writeBpmWin_changes ..) (by decide))
    exact KeepsWf.refl _
  · refine KeepsWf.trans ?_ (KeepsWf.of_changes (State.writePortWin_changes ..) (by decide))
    exact KeepsWf.refl _
  · refine KeepsWf.trans ?_ (State.writeSdWin_wf ..)
    exact KeepsWf.refl _
  · refine KeepsWf.trans ?_ (State.writeTdWin_wf ..)
    exact KeepsWf.refl _

theorem State.busWrite_wf (s : State) (a : Nat) (width : Nat) (v : Word) :
    KeepsWf s (State.busWrite s a width v) := by
  unfold State.busWrite
  refine KeepsWf.ite ?_ ?_
  · exact KeepsWf.refl _
  · refine KeepsWf.ite ?_ ?_
    · refine KeepsWf.trans ?_ (State.writeBar2_wf ..)
      exact KeepsWf.refl _
    · refine KeepsWf.ite ?_ ?_
      · exact KeepsWf.refl _
      · refine KeepsWf.ite ?_ ?_
        · refine KeepsWf.ite ?_ ?_
          · refine KeepsWf.trans ?_ (KeepsWf.of_changes (State.pcieWrite_changes ..) (by decide))
            exact KeepsWf.refl _
          · exact KeepsWf.refl _
        · split
          · exact KeepsWf.refl _
          · refine KeepsWf.ite ?_ ?_
            · refine KeepsWf.trans ?_ (State.writeWindow_wf ..)
              exact KeepsWf.refl _
            · exact KeepsWf.refl _

end Sys2Proof.Machine
end

