-- ==== Sys2Proof/Laws/StreamCmds.lean ====
section
/-!
SUPPORT. What each operation of Machine/StreamCmds.lean may change (`_changes`), and that those which write a memory keep its
canonical form (`_wf`).
-/

namespace Sys2Proof.Machine

theorem State.engineDoes_changes {v : List Field} {s₀ s t : State} (h₀ : Changes v s₀ s) (h : Changes v s₀ t) (e : Nat) :
    Changes v s₀ (State.engineDoes s e t) := by
  unfold State.engineDoes
  exact Changes.ite h h₀

/-! ### Canonical form -/

theorem State.engineDoes_wf {s₀ s t : State} (h₀ : KeepsWf s₀ s) (h : KeepsWf s₀ t) (e : Nat) :
    KeepsWf s₀ (State.engineDoes s e t) := by
  unfold State.engineDoes
  exact KeepsWf.ite h h₀

end Sys2Proof.Machine
end

