-- ==== Sys2Proof/Laws/CommandFrames.lean ====
section
/-!
SUPPORT. What each command may change: one lemma for each meaning.
-/

namespace Sys2Proof.Machine

theorem execXbarEnable_changes (w : Word) (s : State) : ∃ t, execXbarEnable w s = .next t ∧ Changes [.regs,
    .xbar] s t := by
  refine ⟨_, rfl, ?_⟩
  refine State.onWrite_changes ?_ ?_ _ _
  · exact Changes.refl _ _
  · refine Changes.step ?_ (State.writeXbarCtl_changes ..) (by decide)
    exact Changes.refl _ _

theorem execXbarDisable_changes (w : Word) (s : State) : ∃ t, execXbarDisable w s = .next t ∧ Changes [.regs,
    .xbar] s t := by
  refine ⟨_, rfl, ?_⟩
  refine State.onWrite_changes ?_ ?_ _ _
  · exact Changes.refl _ _
  · refine Changes.step ?_ (State.writeXbarCtl_changes ..) (by decide)
    exact Changes.refl _ _

theorem execXbarCpminWrite_changes (w : Word) (s : State) : ∃ t, execXbarCpminWrite w s = .next t
    ∧ Changes [.regs] s t := by
  refine ⟨_, rfl, ?_⟩
  refine State.onWrite_changes ?_ ?_ _ _
  · exact Changes.refl _ _
  · refine Changes.step ?_ (State.writeCpmin_changes ..) (by decide)
    exact Changes.refl _ _

theorem execMcgWrite_changes (g : Nat) (off : Nat) (w : Word) (s : State) : ∃ t, execMcgWrite g off w s = .next t
    ∧ Changes [.regs, .xbar] s t := by
  refine ⟨_, rfl, ?_⟩
  refine State.onWrite_changes ?_ ?_ _ _
  · exact Changes.refl _ _
  · refine Changes.step ?_ (State.writeMcg_changes ..) (by decide)
    exact Changes.refl _ _

theorem execCellSend_changes (i : Nat) (s : State) : ∃ t, execCellSend i s = .next t ∧ Changes [.regs, .xbar, .links,
    .egress, .nextId] s t := by
  refine ⟨_, rfl, ?_⟩
  refine Changes.step ?_ (State.sendCell_changes ..) (by decide)
  exact Changes.refl _ _

theorem execPoolGrant_changes (s : State) : ∃ t, execPoolGrant s = .next t ∧ Changes [.xbar] s t := by
  refine ⟨_, rfl, ?_⟩
  refine Changes.step ?_ (State.grantOne_changes ..) (by decide)
  refine Changes.step ?_ (State.grantOne_changes ..) (by decide)
  exact Changes.refl _ _

theorem execStoredCopyCreditGrant_changes (i : Nat) (g : Nat) (s : State) : ∃ t,
    execStoredCopyCreditGrant i g s = .next t ∧ Changes [.xbar] s t := by
  refine ⟨_, rfl, ?_⟩
  refine Changes.step ?_ (State.grantStored_changes ..) (by decide)
  exact Changes.refl _ _

theorem execCellLeave_changes (j : Nat) (ue : Bool) (s : State) : ∃ t, execCellLeave j ue s = .next t
    ∧ Changes [.regs, .cnt, .xbar, .egress, .inbox, .commits] s t := by
  refine ⟨_, rfl, ?_⟩
  refine Changes.step ?_ (State.leaveCell_changes ..) (by decide)
  exact Changes.refl _ _

theorem execOutputDown_changes (j : Nat) (sub : Nat) (s : State) : ∃ t, execOutputDown j sub s = .next t
    ∧ Changes [.regs, .xbar, .links, .egress, .freeCtr] s t := by
  refine ⟨_, rfl, ?_⟩
  refine Changes.ite ?_ ?_
  · refine Changes.step ?_ (State.outputCut_changes ..) (by decide)
    exact Changes.refl _ _
  · exact Changes.refl _ _

theorem execFlushDone_changes (j : Nat) (sub : Nat) (s : State) : ∃ t, execFlushDone j sub s = .next t
    ∧ Changes [.regs] s t := by
  refine ⟨_, rfl, ?_⟩
  refine Changes.ite ?_ ?_
  · refine Changes.step ?_ (State.flushDone_changes ..) (by decide)
    exact Changes.refl _ _
  · exact Changes.refl _ _

theorem execOutputUp_changes (j : Nat) (sub : Nat) (s : State) : ∃ t, execOutputUp j sub s = .next t ∧ Changes [.regs,
    .shpT, .circT] s t := by
  refine ⟨_, rfl, ?_⟩
  refine Changes.ite ?_ ?_
  · refine Changes.step ?_ (State.outputUp_changes ..) (by decide)
    exact Changes.refl _ _
  · exact Changes.refl _ _

theorem execSlotcfgWrite_changes (n : Nat) (k : Nat) (w : Word) (s : State) : ∃ t,
    execSlotcfgWrite n k w s = .next t ∧ Changes [.regs, .xbar] s t := by
  refine ⟨_, rfl, ?_⟩
  refine State.onWrite_changes ?_ ?_ _ _
  · exact Changes.refl _ _
  · refine Changes.step ?_ (State.writeSlotcfg_changes ..) (by decide)
    exact Changes.refl _ _

theorem execFlitReceive_changes (n : Nat) (l : Nat) (f : Flit) (s : State) : ∃ t,
    execFlitReceive n l f s = .next t ∧ Changes [.regs, .cnt, .xbar, .links, .polT, .commits, .time, .shutters,
    .nextId] s t := by
  refine ⟨_, rfl, ?_⟩
  refine Changes.step ?_ (State.watchLink_changes ..) (by decide)
  refine Changes.step ?_ (State.receiveFlit_changes ..) (by decide)
  exact Changes.refl _ _

theorem execReplayRequest_changes (n : Nat) (l : Nat) (ack : Nat) (s : State) : ∃ t,
    execReplayRequest n l ack s = .next t ∧ Changes [.links] s t := by
  refine ⟨_, rfl, ?_⟩
  refine Changes.step ?_ (State.replayFrom_changes ..) (by decide)
  exact Changes.refl _ _

theorem execAckControlFlit_changes (n : Nat) (l : Nat) (s : State) : ∃ t, execAckControlFlit n l s = .next t
    ∧ Changes [.links] s t := by
  refine ⟨_, rfl, ?_⟩
  refine Changes.step ?_ (State.ackControl_changes ..) (by decide)
  exact Changes.refl _ _

theorem execFlitTransmit_changes (n : Nat) (l : Nat) (s : State) : ∃ t, execFlitTransmit n l s = .next t
    ∧ Changes [.links, .egress] s t := by
  refine ⟨_, rfl, ?_⟩
  refine Changes.step ?_ (State.transmitFlit_changes ..) (by decide)
  exact Changes.refl _ _

theorem execPacketInject_changes (i : Nat) (s : State) : ∃ t, execPacketInject i s = .next t ∧ Changes [.regs, .xbar,
    .attach, .msgs, .msgSeq, .commits, .cores, .nextId, .freeCtr] s t := by
  refine ⟨_, rfl, ?_⟩
  refine Changes.step ?_ (State.inject_changes ..) (by decide)
  exact Changes.refl _ _

theorem execPacketForward_changes (n : Nat) (l : Nat) (vc : Nat) (s : State) : ∃ t,
    execPacketForward n l vc s = .next t ∧ Changes [.regs, .xbar, .links, .polT, .commits, .nextId] s t := by
  refine ⟨_, rfl, ?_⟩
  refine Changes.step ?_ (State.decidePacket_changes ..) (by decide)
  exact Changes.refl _ _

theorem execPacketDeliver_changes (n : Nat) (l : Nat) (vc : Nat) (s : State) : ∃ t,
    execPacketDeliver n l vc s = .next t ∧ Changes [.regs, .xbar, .links, .polT, .commits, .nextId] s t := by
  refine ⟨_, rfl, ?_⟩
  refine Changes.step ?_ (State.decidePacket_changes ..) (by decide)
  exact Changes.refl _ _

theorem execThrottleLevelUpdate_changes (n : Nat) (l : Nat) (tc : Nat) (s : State) : ∃ t,
    execThrottleLevelUpdate n l tc s = .next t ∧ Changes [.regs] s t := by
  refine ⟨_, rfl, ?_⟩
  refine Changes.step ?_ (State.updateThrottle_changes ..) (by decide)
  exact Changes.refl _ _

theorem execTrackerCount_changes (s : State) : ∃ t, execTrackerCount s = .next t ∧ Changes [.regs, .sems, .attach,
    .commits, .trackers, .owed, .nextId] s t := by
  refine ⟨_, rfl, ?_⟩
  refine Changes.step ?_ (State.trackerCount_changes ..) (by decide)
  exact Changes.refl _ _

theorem execComplete_changes (s : State) : ∃ t, execComplete s = .next t ∧ Changes [.regs, .cnt, .dpa, .ue, .attach,
    .msgs, .inbox, .cores, .colls, .owed, .fetches, .wbs, .jobs, .nextId] s t := by
  refine ⟨_, rfl, ?_⟩
  refine Changes.step ?_ (State.receiveComplete_changes ..) (by decide)
  exact Changes.refl _ _

theorem execMessageSlotGrant_changes (dev : Nat) (s : State) : ∃ t, execMessageSlotGrant dev s = .next t
    ∧ Changes [.msgs, .msgSeq] s t := by
  refine ⟨_, rfl, ?_⟩
  refine Changes.step ?_ (State.grantSlot_changes ..) (by decide)
  exact Changes.refl _ _

theorem execTblcmdWrite_changes (n : Nat) (w : Word) (s : State) : ∃ t, execTblcmdWrite n w s = .next t
    ∧ Changes [.regs, .xbar, .active, .shadow] s t := by
  refine ⟨_, rfl, ?_⟩
  refine State.onWrite_changes ?_ ?_ _ _
  · exact Changes.refl _ _
  · refine Changes.step ?_ (State.writeTblcmd_changes ..) (by decide)
    exact Changes.refl _ _

theorem execTblcmdRead_changes (n : Nat) (w : Word) (s : State) : ∃ t, execTblcmdRead n w s = .next t
    ∧ Changes [.regs, .xbar, .active, .shadow] s t := by
  refine ⟨_, rfl, ?_⟩
  refine State.onWrite_changes ?_ ?_ _ _
  · exact Changes.refl _ _
  · refine Changes.step ?_ (State.writeTblcmd_changes ..) (by decide)
    exact Changes.refl _ _

theorem execLinkUpReq_changes (n : Nat) (l : Nat) (w : Word) (s : State) : ∃ t, execLinkUpReq n l w s = .next t
    ∧ Changes [.regs, .xbar, .links, .egress, .freeCtr] s t := by
  refine ⟨_, rfl, ?_⟩
  refine State.onWrite_changes ?_ ?_ _ _
  · exact Changes.refl _ _
  · refine Changes.step ?_ (State.writePortCfg_changes ..) (by decide)
    exact Changes.refl _ _

theorem execLinkDownReq_changes (n : Nat) (l : Nat) (w : Word) (s : State) : ∃ t,
    execLinkDownReq n l w s = .next t ∧ Changes [.regs, .xbar, .links, .egress, .time, .shutters, .freeCtr] s t := by
  refine ⟨_, rfl, ?_⟩
  refine State.onWrite_changes ?_ ?_ _ _
  · exact Changes.refl _ _
  · refine Changes.step ?_ (State.watchLink_changes ..) (by decide)
    refine Changes.step ?_ (State.writePortCfg_changes ..) (by decide)
    exact Changes.refl _ _

theorem execTrainingComplete_changes (n : Nat) (l : Nat) (peerDev : Nat) (peerLane : Nat) (s : State) : ∃ t,
    execTrainingComplete n l peerDev peerLane s = .next t ∧ Changes [.regs, .xbar, .links, .egress, .time, .shutters,
    .freeCtr] s t := by
  refine ⟨_, rfl, ?_⟩
  refine Changes.step ?_ (State.watchLink_changes ..) (by decide)
  refine Changes.step ?_ (State.trained_changes ..) (by decide)
  exact Changes.refl _ _

theorem execRetrainTrigger_changes (n : Nat) (l : Nat) (s : State) : ∃ t, execRetrainTrigger n l s = .next t
    ∧ Changes [.regs, .links, .time, .shutters] s t := by
  refine ⟨_, rfl, ?_⟩
  refine Changes.step ?_ (State.watchLink_changes ..) (by decide)
  refine Changes.step ?_ (State.retrain_changes ..) (by decide)
  exact Changes.refl _ _

theorem execRetrainComplete_changes (n : Nat) (l : Nat) (s : State) : ∃ t, execRetrainComplete n l s = .next t
    ∧ Changes [.links] s t := by
  refine ⟨_, rfl, ?_⟩
  refine Changes.ite ?_ ?_
  · refine Changes.step ?_ (State.setLink_changes ..) (by decide)
    exact Changes.refl _ _
  · exact Changes.refl _ _

theorem execRetrainTimeout_changes (n : Nat) (l : Nat) (s : State) : ∃ t, execRetrainTimeout n l s = .next t
    ∧ Changes [.regs, .xbar, .links, .egress, .time, .shutters, .freeCtr] s t := by
  refine ⟨_, rfl, ?_⟩
  split
  · refine Changes.ite ?_ ?_
    · refine Changes.step ?_ (State.watchLink_changes ..) (by decide)
      refine Changes.step ?_ (State.failLink_changes ..) (by decide)
      exact Changes.refl _ _
    · exact Changes.refl _ _
  · exact Changes.refl _ _

theorem execEgressCellTake_changes (j : Nat) (sub : Nat) (s : State) : ∃ t, execEgressCellTake j sub s = .next t
    ∧ Changes [.regs, .xbar, .egress] s t := by
  refine ⟨_, rfl, ?_⟩
  refine Changes.step ?_ (State.takeCell_changes ..) (by decide)
  exact Changes.refl _ _

theorem execEgressSelect_changes (n : Nat) (l : Nat) (s : State) : ∃ t, execEgressSelect n l s = .next t
    ∧ Changes [.regs, .egress, .eths, .shpT, .circT, .ethDrop, .poolUsed] s t := by
  refine ⟨_, rfl, ?_⟩
  refine Changes.step ?_ (State.egressSelect_changes ..) (by decide)
  exact Changes.refl _ _

theorem execBucketRefresh_changes (n : Nat) (s : State) : ∃ t, execBucketRefresh n s = .next t ∧ Changes [.shpT,
    .circT, .polT] s t := by
  refine ⟨_, rfl, ?_⟩
  refine Changes.ite ?_ ?_
  · exact Changes.refl _ _
  · refine Changes.step ?_ (State.refreshBuckets_changes ..) (by decide)
    exact Changes.refl _ _

theorem execTelemetrySample_changes (n : Nat) (s : State) : ∃ t, execTelemetrySample n s = .next t ∧ Changes [.regs,
    .hist, .sampleN, .ring] s t := by
  refine ⟨_, rfl, ?_⟩
  refine Changes.step ?_ (State.sample_changes ..) (by decide)
  exact Changes.refl _ _

theorem execRingRecordWrite_changes (n : Nat) (s : State) : ∃ t, execRingRecordWrite n s = .next t ∧ Changes [.regs,
    .dpa, .ue, .ring] s t := by
  refine ⟨_, rfl, ?_⟩
  refine Changes.step ?_ (State.writeRecord_changes ..) (by decide)
  exact Changes.refl _ _

theorem execHistselWrite_changes (n : Nat) (w : Word) (s : State) : ∃ t, execHistselWrite n w s = .next t
    ∧ Changes [.regs] s t := by
  refine ⟨_, rfl, ?_⟩
  refine State.onWrite_changes ?_ ?_ _ _
  · exact Changes.refl _ _
  · refine Changes.step ?_ (State.writeHistsel_changes ..) (by decide)
    exact Changes.refl _ _

theorem execHistclr_changes (n : Nat) (w : Word) (s : State) : ∃ t, execHistclr n w s = .next t
    ∧ Changes [.hist] s t := by
  refine ⟨_, rfl, ?_⟩
  refine State.onWrite_changes ?_ ?_ _ _
  · exact Changes.refl _ _
  · refine Changes.step ?_ (State.writeHistclr_changes ..) (by decide)
    exact Changes.refl _ _

theorem execCollAccept_changes (u : Nat) (s : State) : ∃ t, execCollAccept u s = .next t ∧ Changes [.regs, .cnt,
    .sems, .attach, .msgs, .cores, .colls, .owed, .atu, .poolUsed, .dsp, .nextId, .freeCtr] s t := by
  refine ⟨_, rfl, ?_⟩
  refine Changes.step ?_ (State.collAccept_changes ..) (by decide)
  exact Changes.refl _ _

theorem execCollControlAnnounce_changes (n : Nat) (s : State) : ∃ t, execCollControlAnnounce n s = .next t
    ∧ Changes [.attach, .msgs, .colls, .nextId] s t := by
  refine ⟨_, rfl, ?_⟩
  refine Changes.step ?_ (State.controlAnnounce_changes ..) (by decide)
  exact Changes.refl _ _

theorem execCollAnnounceReceive_changes (n : Nat) (s : State) : ∃ t, execCollAnnounceReceive n s = .next t
    ∧ Changes [.regs, .sems, .inbox, .commits, .cores, .colls, .owed] s t := by
  refine ⟨_, rfl, ?_⟩
  refine Changes.step ?_ (State.announceReceive_changes ..) (by decide)
  exact Changes.refl _ _

theorem execCollRelease_changes (n : Nat) (s : State) : ∃ t, execCollRelease n s = .next t ∧ Changes [.regs, .sems,
    .attach, .inbox, .commits, .cores, .colls, .owed, .atu, .nextId, .freeCtr] s t := by
  refine ⟨_, rfl, ?_⟩
  refine Changes.step ?_ (State.collRelease_changes ..) (by decide)
  exact Changes.refl _ _

theorem execCollChunkSend_changes (n : Nat) (s : State) : ∃ t, execCollChunkSend n s = .next t ∧ Changes [.regs,
    .attach, .msgs, .colls, .owed, .atu, .nextId, .freeCtr] s t := by
  refine ⟨_, rfl, ?_⟩
  refine Changes.step ?_ (State.chunkSend_changes ..) (by decide)
  exact Changes.refl _ _

theorem execLandingChunk_changes (n : Nat) (s : State) : ∃ t, execLandingChunk n s = .next t ∧ Changes [.regs, .cnt,
    .dpa, .sems, .ue, .inbox, .commits, .colls, .owed, .atu, .freeCtr] s t := by
  refine ⟨_, rfl, ?_⟩
  refine Changes.step ?_ (State.landingChunk_changes ..) (by decide)
  exact Changes.refl _ _

theorem execCollDoneSend_changes (n : Nat) (s : State) : ∃ t, execCollDoneSend n s = .next t ∧ Changes [.attach,
    .msgs, .colls, .nextId] s t := by
  refine ⟨_, rfl, ?_⟩
  refine Changes.step ?_ (State.doneSend_changes ..) (by decide)
  exact Changes.refl _ _

theorem execCollDoneResult_changes (n : Nat) (s : State) : ∃ t, execCollDoneResult n s = .next t ∧ Changes [.regs,
    .sems, .attach, .inbox, .commits, .cores, .colls, .owed, .nextId] s t := by
  refine ⟨_, rfl, ?_⟩
  refine Changes.step ?_ (State.doneResult_changes ..) (by decide)
  exact Changes.refl _ _

theorem execCollJobAbort_changes (n : Nat) (w : Word) (s : State) : ∃ t, execCollJobAbort n w s = .next t
    ∧ Changes [.regs, .sems, .attach, .msgs, .cores, .colls, .owed] s t := by
  refine ⟨_, rfl, ?_⟩
  refine State.onWrite_changes ?_ ?_ _ _
  · exact Changes.refl _ _
  · refine Changes.step ?_ (State.writeColljobcmd_changes ..) (by decide)
    exact Changes.refl _ _

theorem execCoreStart_changes (u : Nat) (w : Word) (s : State) : ∃ t, execCoreStart u w s = .next t ∧ Changes [.regs,
    .cnt, .ls, .acc, .accFlags, .accBank1, .ue, .cores, .poolUsed, .dsp] s t := by
  refine ⟨_, rfl, ?_⟩
  refine State.onWrite_changes ?_ ?_ _ _
  · exact Changes.refl _ _
  · refine Changes.step ?_ (State.writeStart_changes ..) (by decide)
    exact Changes.refl _ _

theorem execCoreStop_changes (u : Nat) (w : Word) (s : State) : ∃ t, execCoreStop u w s = .next t ∧ Changes [.regs,
    .cnt, .cores] s t := by
  refine ⟨_, rfl, ?_⟩
  refine State.onWrite_changes ?_ ?_ _ _
  · exact Changes.refl _ _
  · refine Changes.step ?_ (State.writeCoreCmd_changes ..) (by decide)
    exact Changes.refl _ _

theorem execCoreClear_changes (u : Nat) (w : Word) (s : State) : ∃ t, execCoreClear u w s = .next t ∧ Changes [.regs,
    .cnt, .cores] s t := by
  refine ⟨_, rfl, ?_⟩
  refine State.onWrite_changes ?_ ?_ _ _
  · exact Changes.refl _ _
  · refine Changes.step ?_ (State.writeCoreCmd_changes ..) (by decide)
    exact Changes.refl _ _

theorem execXcwDispatch_changes (u : Nat) (cycles : Nat) (s : State) : ∃ t, execXcwDispatch u cycles s = .next t
    ∧ Changes [.regs, .cnt, .sems, .cores, .poolUsed, .time, .dsp] s t := by
  refine ⟨_, rfl, ?_⟩
  refine Changes.ite ?_ ?_
  · refine Changes.step ?_ (State.dispatch_changes ..) (by decide)
    exact Changes.refl _ _
  · exact Changes.refl _ _

theorem execHaltHoldEnd_changes (u : Nat) (s : State) : ∃ t, execHaltHoldEnd u s = .next t ∧ Changes [.regs, .cnt,
    .cores, .poolUsed, .dsp] s t := by
  refine ⟨_, rfl, ?_⟩
  refine Changes.ite ?_ ?_
  · refine Changes.step ?_ (State.holdEnd_changes ..) (by decide)
    exact Changes.refl _ _
  · exact Changes.refl _ _

theorem execMma_changes (u : Nat) (s : State) : ∃ t, execMma u s = .next t ∧ Changes [.cores] s t := by
  refine ⟨_, rfl, ?_⟩
  refine Changes.step ?_ (State.startMat_changes ..) (by decide)
  exact Changes.refl _ _

theorem execMms_changes (u : Nat) (s : State) : ∃ t, execMms u s = .next t ∧ Changes [.cores] s t := by
  refine ⟨_, rfl, ?_⟩
  refine Changes.step ?_ (State.startMat_changes ..) (by decide)
  exact Changes.refl _ _

theorem execClose_changes (u : Nat) (s : State) : ∃ t, execClose u s = .next t ∧ Changes [.cores] s t := by
  refine ⟨_, rfl, ?_⟩
  refine Changes.step ?_ (State.startMat_changes ..) (by decide)
  exact Changes.refl _ _

theorem execVecAdd_changes (u : Nat) (s : State) : ∃ t, execVecAdd u s = .next t ∧ Changes [.cores] s t := by
  refine ⟨_, rfl, ?_⟩
  refine Changes.step ?_ (State.startVec_changes ..) (by decide)
  exact Changes.refl _ _

theorem execVecSub_changes (u : Nat) (s : State) : ∃ t, execVecSub u s = .next t ∧ Changes [.cores] s t := by
  refine ⟨_, rfl, ?_⟩
  refine Changes.step ?_ (State.startVec_changes ..) (by decide)
  exact Changes.refl _ _

theorem execVecMul_changes (u : Nat) (s : State) : ∃ t, execVecMul u s = .next t ∧ Changes [.cores] s t := by
  refine ⟨_, rfl, ?_⟩
  refine Changes.step ?_ (State.startVec_changes ..) (by decide)
  exact Changes.refl _ _

theorem execDiv_changes (u : Nat) (s : State) : ∃ t, execDiv u s = .next t ∧ Changes [.cores] s t := by
  refine ⟨_, rfl, ?_⟩
  refine Changes.step ?_ (State.startVec_changes ..) (by decide)
  exact Changes.refl _ _

theorem execVecMin_changes (u : Nat) (s : State) : ∃ t, execVecMin u s = .next t ∧ Changes [.cores] s t := by
  refine ⟨_, rfl, ?_⟩
  refine Changes.step ?_ (State.startVec_changes ..) (by decide)
  exact Changes.refl _ _

theorem execVecMax_changes (u : Nat) (s : State) : ∃ t, execVecMax u s = .next t ∧ Changes [.cores] s t := by
  refine ⟨_, rfl, ?_⟩
  refine Changes.step ?_ (State.startVec_changes ..) (by decide)
  exact Changes.refl _ _

theorem execAbs_changes (u : Nat) (s : State) : ∃ t, execAbs u s = .next t ∧ Changes [.cores] s t := by
  refine ⟨_, rfl, ?_⟩
  refine Changes.step ?_ (State.startVec_changes ..) (by decide)
  exact Changes.refl _ _

theorem execSqrt_changes (u : Nat) (s : State) : ∃ t, execSqrt u s = .next t ∧ Changes [.cores] s t := by
  refine ⟨_, rfl, ?_⟩
  refine Changes.step ?_ (State.startVec_changes ..) (by decide)
  exact Changes.refl _ _

theorem execRcp_changes (u : Nat) (s : State) : ∃ t, execRcp u s = .next t ∧ Changes [.cores] s t := by
  refine ⟨_, rfl, ?_⟩
  refine Changes.step ?_ (State.startVec_changes ..) (by decide)
  exact Changes.refl _ _

theorem execExp2_changes (u : Nat) (s : State) : ∃ t, execExp2 u s = .next t ∧ Changes [.cores] s t := by
  refine ⟨_, rfl, ?_⟩
  refine Changes.step ?_ (State.startVec_changes ..) (by decide)
  exact Changes.refl _ _

theorem execLog2_changes (u : Nat) (s : State) : ∃ t, execLog2 u s = .next t ∧ Changes [.cores] s t := by
  refine ⟨_, rfl, ?_⟩
  refine Changes.step ?_ (State.startVec_changes ..) (by decide)
  exact Changes.refl _ _

theorem execCvt_changes (u : Nat) (s : State) : ∃ t, execCvt u s = .next t ∧ Changes [.cores] s t := by
  refine ⟨_, rfl, ?_⟩
  refine Changes.step ?_ (State.startVec_changes ..) (by decide)
  exact Changes.refl _ _

theorem execSum_changes (u : Nat) (s : State) : ∃ t, execSum u s = .next t ∧ Changes [.cores] s t := by
  refine ⟨_, rfl, ?_⟩
  refine Changes.step ?_ (State.startVec_changes ..) (by decide)
  exact Changes.refl _ _

theorem execSumsq_changes (u : Nat) (s : State) : ∃ t, execSumsq u s = .next t ∧ Changes [.cores] s t := by
  refine ⟨_, rfl, ?_⟩
  refine Changes.step ?_ (State.startVec_changes ..) (by decide)
  exact Changes.refl _ _

theorem execMeanvar_changes (u : Nat) (s : State) : ∃ t, execMeanvar u s = .next t ∧ Changes [.cores] s t := by
  refine ⟨_, rfl, ?_⟩
  refine Changes.step ?_ (State.startVec_changes ..) (by decide)
  exact Changes.refl _ _

theorem execAmax_changes (u : Nat) (s : State) : ∃ t, execAmax u s = .next t ∧ Changes [.cores] s t := by
  refine ⟨_, rfl, ?_⟩
  refine Changes.step ?_ (State.startVec_changes ..) (by decide)
  exact Changes.refl _ _

theorem execOpt_changes (u : Nat) (s : State) : ∃ t, execOpt u s = .next t ∧ Changes [.cores] s t := by
  refine ⟨_, rfl, ?_⟩
  refine Changes.step ?_ (State.startVec_changes ..) (by decide)
  exact Changes.refl _ _

theorem execThin_changes (u : Nat) (s : State) : ∃ t, execThin u s = .next t ∧ Changes [.cores] s t := by
  refine ⟨_, rfl, ?_⟩
  refine Changes.step ?_ (State.startVec_changes ..) (by decide)
  exact Changes.refl _ _

theorem execDrain_changes (u : Nat) (s : State) : ∃ t, execDrain u s = .next t ∧ Changes [.cores] s t := by
  refine ⟨_, rfl, ?_⟩
  refine Changes.step ?_ (State.startVec_changes ..) (by decide)
  exact Changes.refl _ _

theorem execMov_changes (u : Nat) (s : State) : ∃ t, execMov u s = .next t ∧ Changes [.cores] s t := by
  refine ⟨_, rfl, ?_⟩
  refine Changes.step ?_ (State.startVec_changes ..) (by decide)
  exact Changes.refl _ _

theorem execFill_changes (u : Nat) (s : State) : ∃ t, execFill u s = .next t ∧ Changes [.cores] s t := by
  refine ⟨_, rfl, ?_⟩
  refine Changes.step ?_ (State.startVec_changes ..) (by decide)
  exact Changes.refl _ _

theorem execDmaGet_changes (u : Nat) (eng : Nat) (s : State) : ∃ t, execDmaGet u eng s = .next t ∧ Changes [.regs,
    .cnt, .dpa, .ue, .attach, .msgs, .cores, .owed, .fetches, .atu, .poolUsed, .dsp, .nextId, .freeCtr] s t := by
  refine ⟨_, rfl, ?_⟩
  refine Changes.step ?_ (State.dmaRun_changes ..) (by decide)
  exact Changes.refl _ _

theorem execDmaPut_changes (u : Nat) (eng : Nat) (s : State) : ∃ t, execDmaPut u eng s = .next t ∧ Changes [.regs,
    .cnt, .dpa, .ue, .attach, .msgs, .cores, .owed, .fetches, .atu, .poolUsed, .dsp, .nextId, .freeCtr] s t := by
  refine ⟨_, rfl, ?_⟩
  refine Changes.step ?_ (State.dmaRun_changes ..) (by decide)
  exact Changes.refl _ _

theorem execDmaSend_changes (u : Nat) (eng : Nat) (s : State) : ∃ t, execDmaSend u eng s = .next t ∧ Changes [.regs,
    .cnt, .dpa, .ue, .attach, .msgs, .cores, .owed, .fetches, .atu, .poolUsed, .dsp, .nextId, .freeCtr] s t := by
  refine ⟨_, rfl, ?_⟩
  refine Changes.step ?_ (State.dmaRun_changes ..) (by decide)
  exact Changes.refl _ _

theorem execDmaSignal_changes (u : Nat) (eng : Nat) (s : State) : ∃ t, execDmaSignal u eng s = .next t
    ∧ Changes [.regs, .cnt, .dpa, .ue, .attach, .msgs, .cores, .owed, .fetches, .atu, .poolUsed, .dsp, .nextId,
    .freeCtr] s t := by
  refine ⟨_, rfl, ?_⟩
  refine Changes.step ?_ (State.dmaRun_changes ..) (by decide)
  exact Changes.refl _ _

theorem execDmaComplete_changes (u : Nat) (eng : Nat) (s : State) : ∃ t, execDmaComplete u eng s = .next t
    ∧ Changes [.regs, .sems, .cores, .owed] s t := by
  refine ⟨_, rfl, ?_⟩
  refine Changes.step ?_ (State.dmaComplete_changes ..) (by decide)
  exact Changes.refl _ _

theorem execRegisterWrite_changes (addr : Nat) (width : Nat) (w : Word) (s : State) : ∃ t,
    execRegisterWrite addr width w s = .next t ∧ Changes [.dev, .regs, .cnt, .latch, .busData, .dpa, .ls, .acc,
    .accFlags, .accBank1, .sems, .ctxMem, .prog, .progValid, .bar2, .mbx, .ue, .xbar, .links, .egress, .eths, .shpT,
    .circT, .polT, .ethDrop, .hist, .sampleN, .ring, .attach, .msgs, .msgSeq, .inbox, .commits, .trackers, .ctxs,
    .accepted, .rrEmit, .cores, .colls, .owed, .fetches, .wbs, .atu, .atuBusy, .poolUsed, .time, .shutters, .jobs,
    .active, .shadow, .dsp, .mgmt, .sec, .power, .i3c, .jtag, .pcie, .nextId, .freeCtr] s t := by
  refine ⟨_, rfl, ?_⟩
  refine Changes.step ?_ (State.busWrite_changes ..) (by decide)
  exact Changes.refl _ _

theorem execCounterLowRead_changes (addr : Nat) (s : State) : ∃ t, execCounterLowRead addr s = .next t
    ∧ Changes [.latch, .busData] s t := by
  refine ⟨_, rfl, ?_⟩
  refine Changes.step ?_ (State.readCounter_changes ..) (by decide)
  exact Changes.refl _ _

theorem execDevRstctl_changes (w : Word) (s : State) : ∃ t, execDevRstctl w s = .next t ∧ Changes [.dev, .regs, .cnt,
    .latch, .busData, .dpa, .ls, .acc, .accFlags, .accBank1, .sems, .ctxMem, .prog, .progValid, .bar2, .mbx, .ue,
    .xbar, .links, .egress, .eths, .shpT, .circT, .polT, .ethDrop, .hist, .sampleN, .ring, .attach, .msgs, .msgSeq,
    .inbox, .commits, .trackers, .ctxs, .accepted, .rrEmit, .cores, .colls, .owed, .fetches, .wbs, .atu, .atuBusy,
    .poolUsed, .time, .shutters, .jobs, .active, .shadow, .dsp, .mgmt, .sec, .power, .i3c, .jtag, .pcie, .nextId,
    .freeCtr] s t := by
  refine ⟨_, rfl, ?_⟩
  refine Changes.step ?_ (State.writeRstctl_changes ..) (by decide)
  exact Changes.refl _ _

theorem execFullReset_changes (pulse : LowPulse) (s : State) : ∃ t, execFullReset pulse s = .next t ∧ Changes [.dev,
    .regs, .cnt, .latch, .busData, .dpa, .ls, .acc, .accFlags, .accBank1, .sems, .ctxMem, .prog, .progValid, .bar2,
    .mbx, .ue, .xbar, .links, .egress, .eths, .shpT, .circT, .polT, .ethDrop, .hist, .sampleN, .ring, .attach, .msgs,
    .msgSeq, .inbox, .commits, .trackers, .ctxs, .accepted, .rrEmit, .cores, .colls, .owed, .fetches, .wbs, .atu,
    .atuBusy, .poolUsed, .time, .shutters, .jobs, .active, .shadow, .dsp, .mgmt, .sec, .power, .i3c, .jtag, .pcie,
    .nextId, .freeCtr] s t := by
  refine ⟨_, rfl, ?_⟩
  refine Changes.step ?_ (State.lowPulse_changes ..) (by decide)
  exact Changes.refl _ _

theorem execRailUndervoltage_changes (lowNs : Nat) (s : State) : ∃ t, execRailUndervoltage lowNs s = .next t
    ∧ Changes [.dev, .regs, .cnt, .latch, .busData, .dpa, .ls, .acc, .accFlags, .accBank1, .sems, .ctxMem, .prog,
    .progValid, .bar2, .mbx, .ue, .xbar, .links, .egress, .eths, .shpT, .circT, .polT, .ethDrop, .hist, .sampleN,
    .ring, .attach, .msgs, .msgSeq, .inbox, .commits, .trackers, .ctxs, .accepted, .rrEmit, .cores, .colls, .owed,
    .fetches, .wbs, .atu, .atuBusy, .poolUsed, .time, .shutters, .jobs, .active, .shadow, .dsp, .mgmt, .sec, .power,
    .i3c, .jtag, .pcie, .nextId, .freeCtr] s t := by
  refine ⟨_, rfl, ?_⟩
  refine Changes.step ?_ (State.undervoltage_changes ..) (by decide)
  exact Changes.refl _ _

theorem execPwrOkRising_changes (id : Nat) (s : State) : ∃ t, execPwrOkRising id s = .next t ∧ Changes [.power,
    .i3c] s t := by
  refine ⟨_, rfl, ?_⟩
  refine Changes.step ?_ (State.powerUp_changes ..) (by decide)
  exact Changes.refl _ _

theorem execResetRelease_changes (bootMode : Nat) (helper : List Byte) (s : State) : ∃ t,
    execResetRelease bootMode helper s = .next t ∧ Changes [.dev, .regs, .sec] s t := by
  refine ⟨_, rfl, ?_⟩
  refine Changes.step ?_ (State.releaseReset_changes ..) (by decide)
  exact Changes.refl _ _

theorem execImageCheckComplete_changes (sfdpOk : Bool) (image : List Byte) (s : State) : ∃ t,
    execImageCheckComplete sfdpOk image s = .next t ∧ Changes [.regs, .mgmt, .sec] s t := by
  refine ⟨_, rfl, ?_⟩
  refine Changes.step ?_ (State.flashChecked_changes ..) (by decide)
  exact Changes.refl _ _

theorem execIdentityKeyReady_changes (s : State) : ∃ t, execIdentityKeyReady s = .next t ∧ Changes [.regs,
    .sec] s t := by
  refine ⟨_, rfl, ?_⟩
  refine Changes.ite ?_ ?_
  · exact Changes.refl _ _
  · refine Changes.step ?_ (State.identityReady_changes ..) (by decide)
    exact Changes.refl _ _

theorem execHyzaciaFirstAnswer_changes (s : State) : ∃ t, execHyzaciaFirstAnswer s = .next t ∧ Changes [.dev, .regs,
    .prog, .progValid, .ue, .sec] s t := by
  refine ⟨_, rfl, ?_⟩
  refine Changes.step ?_ (State.firstAnswer_changes ..) (by decide)
  exact Changes.refl _ _

theorem execContactSheetRefresh_changes (s : State) : ∃ t, execContactSheetRefresh s = .next t ∧ Changes [.dpa, .bar2,
    .ue, .mgmt] s t := by
  refine ⟨_, rfl, ?_⟩
  refine Changes.step ?_ (State.refreshSheet_changes ..) (by decide)
  exact Changes.refl _ _

theorem execHeartbeat_changes (s : State) : ∃ t, execHeartbeat s = .next t ∧ Changes [.regs] s t := by
  refine ⟨_, rfl, ?_⟩
  refine Changes.step ?_ (State.heartbeat_changes ..) (by decide)
  exact Changes.refl _ _

theorem execWatchdogExpiry_changes (s : State) : ∃ t, execWatchdogExpiry s = .next t ∧ Changes [.dev, .regs, .cnt,
    .mbx, .xbar, .links, .egress, .cores, .time, .shutters, .mgmt, .freeCtr] s t := by
  refine ⟨_, rfl, ?_⟩
  refine Changes.step ?_ (State.watchdog_changes ..) (by decide)
  exact Changes.refl _ _

theorem execDeviceFault_changes (source : Nat) (die : Nat) (s : State) : ∃ t,
    execDeviceFault source die s = .next t ∧ Changes [.dev, .regs, .cnt, .mbx, .xbar, .links, .egress, .cores, .time,
    .shutters, .mgmt, .freeCtr] s t := by
  refine ⟨_, rfl, ?_⟩
  refine Changes.step ?_ (State.faultEvent_changes ..) (by decide)
  exact Changes.refl _ _

theorem execPcieLinkReset_changes (s : State) : ∃ t, execPcieLinkReset s = .next t ∧ Changes [.pcie] s t := by
  refine ⟨_, rfl, ?_⟩
  refine Changes.step ?_ Changes.pcie (by decide)
  exact Changes.refl _ _

theorem execI3cTelemetryRefresh_changes (s : State) : ∃ t, execI3cTelemetryRefresh s = .next t ∧ Changes [.i3c,
    .freeCtr] s t := by
  refine ⟨_, rfl, ?_⟩
  refine Changes.step ?_ (State.refreshTele_changes ..) (by decide)
  exact Changes.refl _ _

theorem execI3cPrivateWrite_changes (offset : Nat) (s : State) : ∃ t, execI3cPrivateWrite offset s = .next t
    ∧ Changes [.i3c] s t := by
  refine ⟨_, rfl, ?_⟩
  refine Changes.step ?_ (State.setI3c_changes ..) (by decide)
  exact Changes.refl _ _

theorem execI3cPrivateRead_changes (count : Nat) (s : State) : ∃ t, execI3cPrivateRead count s = .next t
    ∧ Changes [.i3c] s t := by
  refine ⟨_, rfl, ?_⟩
  refine Changes.step ?_ (State.i3cRead_changes ..) (by decide)
  exact Changes.refl _ _

theorem execEntdaa_changes (addr : Nat) (s : State) : ∃ t, execEntdaa addr s = .next t ∧ Changes [.i3c] s t := by
  refine ⟨_, rfl, ?_⟩
  refine Changes.step ?_ (State.i3cAssign_changes ..) (by decide)
  exact Changes.refl _ _

theorem execSetdasa_changes (addr : Nat) (s : State) : ∃ t, execSetdasa addr s = .next t ∧ Changes [.i3c] s t := by
  refine ⟨_, rfl, ?_⟩
  refine Changes.step ?_ (State.i3cAssign_changes ..) (by decide)
  exact Changes.refl _ _

theorem execRstdaa_changes (s : State) : ∃ t, execRstdaa s = .next t ∧ Changes [.i3c] s t := by
  refine ⟨_, rfl, ?_⟩
  refine Changes.step ?_ (State.setI3c_changes ..) (by decide)
  exact Changes.refl _ _

theorem execGetpid_changes (s : State) : ∃ t, execGetpid s = .next t ∧ Changes [.i3c] s t := by
  refine ⟨_, rfl, ?_⟩
  refine Changes.step ?_ (State.i3cReply_changes ..) (by decide)
  exact Changes.refl _ _

theorem execGetbcr_changes (s : State) : ∃ t, execGetbcr s = .next t ∧ Changes [.i3c] s t := by
  refine ⟨_, rfl, ?_⟩
  refine Changes.step ?_ (State.i3cReply_changes ..) (by decide)
  exact Changes.refl _ _

theorem execGetdcr_changes (s : State) : ∃ t, execGetdcr s = .next t ∧ Changes [.i3c] s t := by
  refine ⟨_, rfl, ?_⟩
  refine Changes.step ?_ (State.i3cReply_changes ..) (by decide)
  exact Changes.refl _ _

theorem execGetstatus_changes (s : State) : ∃ t, execGetstatus s = .next t ∧ Changes [.i3c, .freeCtr] s t := by
  refine ⟨_, rfl, ?_⟩
  refine Changes.step ?_ (State.i3cFree_changes ..) (by decide)
  exact Changes.refl _ _

theorem execGetmwl_changes (s : State) : ∃ t, execGetmwl s = .next t ∧ Changes [.i3c, .freeCtr] s t := by
  refine ⟨_, rfl, ?_⟩
  refine Changes.step ?_ (State.i3cFree_changes ..) (by decide)
  exact Changes.refl _ _

theorem execGetmrl_changes (s : State) : ∃ t, execGetmrl s = .next t ∧ Changes [.i3c, .freeCtr] s t := by
  refine ⟨_, rfl, ?_⟩
  refine Changes.step ?_ (State.i3cFree_changes ..) (by decide)
  exact Changes.refl _ _

theorem execEnec_changes (events : Nat) (s : State) : ∃ t, execEnec events s = .next t ∧ Changes [.i3c] s t := by
  refine ⟨_, rfl, ?_⟩
  refine Changes.step ?_ (State.setI3c_changes ..) (by decide)
  exact Changes.refl _ _

theorem execDisec_changes (events : Nat) (s : State) : ∃ t, execDisec events s = .next t ∧ Changes [.i3c] s t := by
  refine ⟨_, rfl, ?_⟩
  refine Changes.step ?_ (State.setI3c_changes ..) (by decide)
  exact Changes.refl _ _

theorem execBypass_changes (_opcode : Nat) (s : State) : ∃ t, execBypass _opcode s = .next t ∧ Changes [.jtag] s t := by
  refine ⟨_, rfl, ?_⟩
  refine Changes.step ?_ (State.jtagSelect_changes ..) (by decide)
  exact Changes.refl _ _

theorem execIdcode_changes (s : State) : ∃ t, execIdcode s = .next t ∧ Changes [.jtag] s t := by
  refine ⟨_, rfl, ?_⟩
  refine Changes.step ?_ (State.jtagSelect_changes ..) (by decide)
  exact Changes.refl _ _

theorem execSamplePreload_changes (s : State) : ∃ t, execSamplePreload s = .next t ∧ Changes [.jtag, .freeCtr] s t := by
  refine ⟨_, rfl, ?_⟩
  refine Changes.step ?_ (State.jtagBoundary_changes ..) (by decide)
  exact Changes.refl _ _

theorem execExtest_changes (s : State) : ∃ t, execExtest s = .next t ∧ Changes [.jtag, .freeCtr] s t := by
  refine ⟨_, rfl, ?_⟩
  refine Changes.step ?_ (State.jtagBoundary_changes ..) (by decide)
  exact Changes.refl _ _

theorem execExtestPulse_changes (s : State) : ∃ t, execExtestPulse s = .next t ∧ Changes [.jtag, .freeCtr] s t := by
  refine ⟨_, rfl, ?_⟩
  refine Changes.step ?_ (State.jtagBoundary_changes ..) (by decide)
  exact Changes.refl _ _

theorem execExtestTrain_changes (s : State) : ∃ t, execExtestTrain s = .next t ∧ Changes [.jtag, .freeCtr] s t := by
  refine ⟨_, rfl, ?_⟩
  refine Changes.step ?_ (State.jtagBoundary_changes ..) (by decide)
  exact Changes.refl _ _

theorem execHighz_changes (s : State) : ∃ t, execHighz s = .next t ∧ Changes [.jtag] s t := by
  refine ⟨_, rfl, ?_⟩
  refine Changes.step ?_ (State.jtagSelect_changes ..) (by decide)
  exact Changes.refl _ _

theorem execClamp_changes (s : State) : ∃ t, execClamp s = .next t ∧ Changes [.jtag] s t := by
  refine ⟨_, rfl, ?_⟩
  refine Changes.step ?_ (State.jtagSelect_changes ..) (by decide)
  exact Changes.refl _ _

theorem execPowerMeasure_changes (watts : Nat) (s : State) : ∃ t, execPowerMeasure watts s = .next t
    ∧ Changes [.power] s t := by
  refine ⟨_, rfl, ?_⟩
  refine Changes.step ?_ (State.measurePower_changes ..) (by decide)
  exact Changes.refl _ _

theorem execThrottleStep_changes (temp16 : Int) (s : State) : ∃ t, execThrottleStep temp16 s = .next t
    ∧ Changes [.regs, .power] s t := by
  refine ⟨_, rfl, ?_⟩
  refine Changes.step ?_ (State.throttleStep_changes ..) (by decide)
  exact Changes.refl _ _

theorem execThermalClamp_changes (temp16 : Int) (s : State) : ∃ t, execThermalClamp temp16 s = .next t
    ∧ Changes [.power] s t := by
  refine ⟨_, rfl, ?_⟩
  refine Changes.step ?_ (State.thermalClamp_changes ..) (by decide)
  exact Changes.refl _ _

theorem execThermalClampRelease_changes (temp16 : Int) (s : State) : ∃ t,
    execThermalClampRelease temp16 s = .next t ∧ Changes [.power] s t := by
  refine ⟨_, rfl, ?_⟩
  refine Changes.step ?_ (State.clampRelease_changes ..) (by decide)
  exact Changes.refl _ _

theorem execThermTrip_changes (temp16 : Int) (s : State) : ∃ t, execThermTrip temp16 s = .next t ∧ Changes [.dev,
    .regs, .cnt, .latch, .busData, .dpa, .ls, .acc, .accFlags, .accBank1, .sems, .ctxMem, .prog, .progValid, .bar2,
    .mbx, .ue, .xbar, .links, .egress, .eths, .shpT, .circT, .polT, .ethDrop, .hist, .sampleN, .ring, .attach, .msgs,
    .msgSeq, .inbox, .commits, .trackers, .ctxs, .accepted, .rrEmit, .cores, .colls, .owed, .fetches, .wbs, .atu,
    .atuBusy, .poolUsed, .time, .shutters, .jobs, .active, .shadow, .dsp, .mgmt, .sec, .power, .i3c, .jtag, .pcie,
    .nextId, .freeCtr] s t := by
  refine ⟨_, rfl, ?_⟩
  refine Changes.step ?_ (State.thermTrip_changes ..) (by decide)
  exact Changes.refl _ _

theorem execRequestDescriptor_changes (s : State) : ∃ t, execRequestDescriptor s = .next t ∧ Changes [.regs,
    .poolUsed, .dsp] s t := by
  refine ⟨_, rfl, ?_⟩
  refine Changes.step ?_ (State.takeRequest_changes ..) (by decide)
  exact Changes.refl _ _

theorem execRequestAgeDrop_changes (m : Nat) (s : State) : ∃ t, execRequestAgeDrop m s = .next t ∧ Changes [.regs,
    .poolUsed, .dsp] s t := by
  refine ⟨_, rfl, ?_⟩
  refine Changes.step ?_ (State.requestAgeDrop_changes ..) (by decide)
  exact Changes.refl _ _

theorem execModelWaitExpiry_changes (m : Nat) (s : State) : ∃ t, execModelWaitExpiry m s = .next t
    ∧ Changes [.dsp] s t := by
  refine ⟨_, rfl, ?_⟩
  refine Changes.step ?_ (State.modelWaitExpiry_changes ..) (by decide)
  exact Changes.refl _ _

theorem execDispatch_changes (s : State) : ∃ t, execDispatch s = .next t ∧ Changes [.regs, .cnt, .dpa, .sems, .ue,
    .owed, .poolUsed, .dsp] s t := by
  refine ⟨_, rfl, ?_⟩
  refine Changes.step ?_ (State.dispatchAll_changes ..) (by decide)
  exact Changes.refl _ _

theorem execSwitchHalted_changes (g : Nat) (s : State) : ∃ t, execSwitchHalted g s = .next t ∧ Changes [.regs, .cnt,
    .dpa, .ls, .acc, .accFlags, .accBank1, .sems, .ue, .cores, .owed, .poolUsed, .dsp] s t := by
  refine ⟨_, rfl, ?_⟩
  refine Changes.ite ?_ ?_
  · refine Changes.step ?_ (State.switchHalted_changes ..) (by decide)
    exact Changes.refl _ _
  · exact Changes.refl _ _

theorem execBatchCompletion_changes (s : State) : ∃ t, execBatchCompletion s = .next t ∧ Changes [.regs, .dpa, .sems,
    .ue, .eths, .inbox, .commits, .owed, .poolUsed, .dsp] s t := by
  refine ⟨_, rfl, ?_⟩
  refine Changes.step ?_ (State.batchCompletion_changes ..) (by decide)
  exact Changes.refl _ _

theorem execEthUpReq_changes (n : Nat) (l : Nat) (w : Word) (s : State) : ∃ t, execEthUpReq n l w s = .next t
    ∧ Changes [.regs, .xbar, .links, .egress, .eths, .poolUsed, .dsp, .freeCtr] s t := by
  refine ⟨_, rfl, ?_⟩
  refine State.onWrite_changes ?_ ?_ _ _
  · exact Changes.refl _ _
  · refine Changes.step ?_ (State.writeEthCtl_changes ..) (by decide)
    exact Changes.refl _ _

theorem execEthDownReq_changes (n : Nat) (l : Nat) (w : Word) (s : State) : ∃ t, execEthDownReq n l w s = .next t
    ∧ Changes [.regs, .xbar, .links, .egress, .eths, .poolUsed, .dsp, .freeCtr] s t := by
  refine ⟨_, rfl, ?_⟩
  refine State.onWrite_changes ?_ ?_ _ _
  · exact Changes.refl _ _
  · refine Changes.step ?_ (State.writeEthCtl_changes ..) (by decide)
    exact Changes.refl _ _

theorem execEthTrainingComplete_changes (n : Nat) (l : Nat) (s : State) : ∃ t,
    execEthTrainingComplete n l s = .next t ∧ Changes [.eths] s t := by
  refine ⟨_, rfl, ?_⟩
  refine Changes.step ?_ (State.ethTrained_changes ..) (by decide)
  exact Changes.refl _ _

theorem execEthLinkFault_changes (n : Nat) (l : Nat) (s : State) : ∃ t, execEthLinkFault n l s = .next t
    ∧ Changes [.regs, .xbar, .links, .egress, .eths, .poolUsed, .dsp, .freeCtr] s t := by
  refine ⟨_, rfl, ?_⟩
  refine Changes.step ?_ (State.ethLost_changes ..) (by decide)
  exact Changes.refl _ _

theorem execEthFaultSequenceTimeout_changes (n : Nat) (l : Nat) (s : State) : ∃ t,
    execEthFaultSequenceTimeout n l s = .next t ∧ Changes [.regs, .xbar, .links, .egress, .eths, .poolUsed, .dsp,
    .freeCtr] s t := by
  refine ⟨_, rfl, ?_⟩
  refine Changes.step ?_ (State.ethLost_changes ..) (by decide)
  exact Changes.refl _ _

theorem execFrameReceive_changes (n : Nat) (l : Nat) (f : List Byte) (s : State) : ∃ t,
    execFrameReceive n l f s = .next t ∧ Changes [.regs, .cnt, .dpa, .ue, .eths, .ethDrop, .poolUsed, .dsp] s t := by
  refine ⟨_, rfl, ?_⟩
  refine Changes.step ?_ (State.receiveFrame_changes ..) (by decide)
  exact Changes.refl _ _

theorem execResponseTransmit_changes (n : Nat) (l : Nat) (s : State) : ∃ t, execResponseTransmit n l s = .next t
    ∧ Changes [.regs, .eths, .poolUsed] s t := by
  refine ⟨_, rfl, ?_⟩
  refine Changes.step ?_ (State.transmitResponse_changes ..) (by decide)
  exact Changes.refl _ _

theorem execXbarJmapService_changes (s : State) : ∃ t, execXbarJmapService s = .next t ∧ Changes [.dev, .regs, .cnt,
    .dpa, .sems, .mbx, .ue, .attach, .msgs, .commits, .ctxs, .accepted, .cores, .colls, .owed, .fetches, .wbs, .jobs,
    .dsp, .mgmt, .nextId, .freeCtr] s t := by
  refine ⟨_, rfl, ?_⟩
  refine Changes.step ?_ (State.deviceDrain_changes ..) (by decide)
  refine Changes.step ?_ (State.xbarJmapService_changes ..) (by decide)
  exact Changes.refl _ _

theorem execPortJmapService_changes (n : Nat) (s : State) : ∃ t, execPortJmapService n s = .next t ∧ Changes [.dev,
    .regs, .cnt, .dpa, .sems, .mbx, .ue, .attach, .msgs, .commits, .ctxs, .accepted, .cores, .colls, .owed, .fetches,
    .wbs, .jobs, .dsp, .mgmt, .nextId, .freeCtr] s t := by
  refine ⟨_, rfl, ?_⟩
  refine Changes.step ?_ (State.deviceDrain_changes ..) (by decide)
  refine Changes.step ?_ (State.portJmapService_changes ..) (by decide)
  exact Changes.refl _ _

theorem execJobFaultService_changes (s : State) : ∃ t, execJobFaultService s = .next t ∧ Changes [.dev, .regs, .cnt,
    .dpa, .sems, .mbx, .ue, .attach, .msgs, .commits, .ctxs, .accepted, .cores, .colls, .owed, .fetches, .wbs, .jobs,
    .dsp, .mgmt, .nextId, .freeCtr] s t := by
  refine ⟨_, rfl, ?_⟩
  refine Changes.step ?_ (State.deviceDrain_changes ..) (by decide)
  refine Changes.step ?_ (State.jobFaultService_changes ..) (by decide)
  exact Changes.refl _ _

theorem execJobFaultNotice_changes (s : State) : ∃ t, execJobFaultNotice s = .next t ∧ Changes [.dev, .regs, .cnt,
    .dpa, .sems, .mbx, .ue, .attach, .msgs, .inbox, .commits, .ctxs, .accepted, .cores, .colls, .owed, .fetches, .wbs,
    .jobs, .dsp, .mgmt, .nextId, .freeCtr] s t := by
  refine ⟨_, rfl, ?_⟩
  refine Changes.step ?_ (State.deviceDrain_changes ..) (by decide)
  refine Changes.step ?_ (State.jobFaultNotice_changes ..) (by decide)
  exact Changes.refl _ _

theorem execBallotReceive_changes (s : State) : ∃ t, execBallotReceive s = .next t ∧ Changes [.dev, .regs, .dpa,
    .sems, .mbx, .ue, .inbox, .owed, .jobs, .dsp, .mgmt] s t := by
  refine ⟨_, rfl, ?_⟩
  refine Changes.step ?_ (State.deviceDrain_changes ..) (by decide)
  refine Changes.step ?_ (State.ballotReceive_changes ..) (by decide)
  exact Changes.refl _ _

theorem execReadRsp_changes (s : State) : ∃ t, execReadRsp s = .next t ∧ Changes [.regs, .bar2, .mbx, .inbox,
    .commits, .mgmt] s t := by
  refine ⟨_, rfl, ?_⟩
  refine Changes.step ?_ (State.readRsp_changes ..) (by decide)
  exact Changes.refl _ _

theorem execDrainLimitExpiry_changes (slot : Nat) (s : State) : ∃ t, execDrainLimitExpiry slot s = .next t
    ∧ Changes [.regs, .cnt, .cores, .jobs] s t := by
  refine ⟨_, rfl, ?_⟩
  refine Changes.ite ?_ ?_
  · refine Changes.step ?_ (State.drainLimit_changes ..) (by decide)
    exact Changes.refl _ _
  · exact Changes.refl _ _

theorem execDrainComplete_changes (slot : Nat) (s : State) : ∃ t, execDrainComplete slot s = .next t ∧ Changes [.dev,
    .regs, .cnt, .dpa, .sems, .mbx, .ue, .links, .attach, .msgs, .commits, .ctxs, .accepted, .cores, .colls, .owed,
    .fetches, .wbs, .atu, .poolUsed, .shutters, .jobs, .dsp, .mgmt, .nextId, .freeCtr] s t := by
  refine ⟨_, rfl, ?_⟩
  refine Changes.ite ?_ ?_
  · refine Changes.step ?_ (State.drainComplete_changes ..) (by decide)
    exact Changes.refl _ _
  · exact Changes.refl _ _

theorem execMirrorComplete_changes (slot : Nat) (s : State) : ∃ t, execMirrorComplete slot s = .next t
    ∧ Changes [.dev, .regs, .dpa, .sems, .mbx, .ue, .attach, .msgs, .owed, .jobs, .dsp, .mgmt, .nextId] s t := by
  refine ⟨_, rfl, ?_⟩
  refine Changes.ite ?_ ?_
  · refine Changes.step ?_ (State.mirrorComplete_changes ..) (by decide)
    exact Changes.refl _ _
  · exact Changes.refl _ _

theorem execSelfTestComplete_changes (failed : Nat) (tile : Nat) (port : Nat) (stream : Nat) (xbar : Bool)
    (s : State) : ∃ t, execSelfTestComplete failed tile port stream xbar s = .next t ∧ Changes [.regs, .mbx,
    .mgmt] s t := by
  refine ⟨_, rfl, ?_⟩
  refine Changes.ite ?_ ?_
  · refine Changes.step ?_ (State.selfTestDone_changes ..) (by decide)
    exact Changes.refl _ _
  · exact Changes.refl _ _

theorem execLinkTestComplete_changes (s : State) : ∃ t, execLinkTestComplete s = .next t ∧ Changes [.regs, .mbx,
    .mgmt] s t := by
  refine ⟨_, rfl, ?_⟩
  refine Changes.ite ?_ ?_
  · refine Changes.step ?_ (State.linkTestDone_changes ..) (by decide)
    exact Changes.refl _ _
  · exact Changes.refl _ _

theorem execFabricReadTimeout_changes (s : State) : ∃ t, execFabricReadTimeout s = .next t ∧ Changes [.regs, .mbx,
    .mgmt] s t := by
  refine ⟨_, rfl, ?_⟩
  refine Changes.ite ?_ ?_
  · refine Changes.step ?_ (State.fabricReadLate_changes ..) (by decide)
    exact Changes.refl _ _
  · exact Changes.refl _ _

theorem execGetInfo_changes (m : Nat) (s : State) : ∃ t, execGetInfo m s = .next t ∧ Changes [.regs, .mbx,
    .mgmt] s t := by
  refine ⟨_, rfl, ?_⟩
  refine State.command_changes (v := [.regs, .mbx, .mgmt]) (by decide) ?_ (fun _ => ?_) _ _ _
  · exact Changes.refl _ _
  · refine Changes.step ?_ (State.ok_changes ..) (by decide)
    exact Changes.refl _ _

theorem execGetFault_changes (m : Nat) (s : State) : ∃ t, execGetFault m s = .next t ∧ Changes [.regs, .mbx, .mgmt,
    .freeCtr] s t := by
  refine ⟨_, rfl, ?_⟩
  refine State.command_changes (v := [.regs, .mbx, .mgmt, .freeCtr]) (by decide) ?_ (fun _ => ?_) _ _ _
  · exact Changes.refl _ _
  · refine Changes.step ?_ (State.getFault_changes ..) (by decide)
    exact Changes.refl _ _

theorem execSetContact_changes (m : Nat) (s : State) : ∃ t, execSetContact m s = .next t ∧ Changes [.regs, .mbx,
    .mgmt] s t := by
  refine ⟨_, rfl, ?_⟩
  refine State.command_changes (v := [.regs, .mbx, .mgmt]) (by decide) ?_ (fun _ => ?_) _ _ _
  · exact Changes.refl _ _
  · refine Changes.step ?_ (State.setContact_changes ..) (by decide)
    exact Changes.refl _ _

theorem execSetPower_changes (m : Nat) (s : State) : ∃ t, execSetPower m s = .next t ∧ Changes [.regs, .mbx, .mgmt,
    .power] s t := by
  refine ⟨_, rfl, ?_⟩
  refine State.command_changes (v := [.regs, .mbx, .mgmt, .power]) (by decide) ?_ (fun _ => ?_) _ _ _
  · exact Changes.refl _ _
  · refine Changes.step ?_ (State.setPower_changes ..) (by decide)
    exact Changes.refl _ _

theorem execLoadImage_changes (m : Nat) (s : State) : ∃ t, execLoadImage m s = .next t ∧ Changes [.regs, .mbx, .mgmt,
    .sec] s t := by
  refine ⟨_, rfl, ?_⟩
  refine Changes.ite ?_ ?_
  · exact Changes.refl _ _
  · refine State.command_changes (v := [.regs, .mbx, .mgmt, .sec]) (by decide) ?_ (fun _ => ?_) _ _ _
    · exact Changes.refl _ _
    · refine Changes.step ?_ (State.loadImage_changes ..) (by decide)
      exact Changes.refl _ _

theorem execGetMeasure_changes (m : Nat) (s : State) : ∃ t, execGetMeasure m s = .next t ∧ Changes [.regs, .bar2,
    .mbx, .mgmt] s t := by
  refine ⟨_, rfl, ?_⟩
  refine State.command_changes (v := [.regs, .bar2, .mbx, .mgmt]) (by decide) ?_ (fun _ => ?_) _ _ _
  · exact Changes.refl _ _
  · refine Changes.step ?_ (State.getMeasure_changes ..) (by decide)
    exact Changes.refl _ _

theorem execGetAttest_changes (m : Nat) (s : State) : ∃ t, execGetAttest m s = .next t ∧ Changes [.regs, .bar2, .mbx,
    .mgmt, .freeCtr] s t := by
  refine ⟨_, rfl, ?_⟩
  refine State.command_changes (v := [.regs, .bar2, .mbx, .mgmt, .freeCtr]) (by decide) ?_ (fun _ => ?_) _ _ _
  · exact Changes.refl _ _
  · refine Changes.step ?_ (State.attest_changes ..) (by decide)
    exact Changes.refl _ _

theorem execSelfTest_changes (m : Nat) (s : State) : ∃ t, execSelfTest m s = .next t ∧ Changes [.regs, .cnt, .dpa,
    .ls, .acc, .accFlags, .accBank1, .sems, .ctxMem, .prog, .progValid, .mbx, .ue, .xbar, .ctxs, .cores, .mgmt,
    .freeCtr] s t := by
  refine ⟨_, rfl, ?_⟩
  refine State.command_changes (v := [.regs, .cnt, .dpa, .ls, .acc, .accFlags, .accBank1, .sems, .ctxMem, .prog,
      .progValid, .mbx, .ue, .xbar, .ctxs, .cores, .mgmt, .freeCtr]) (by decide) ?_ (fun _ => ?_) _ _ _
  · exact Changes.refl _ _
  · refine Changes.step ?_ (State.selfTest_changes ..) (by decide)
    exact Changes.refl _ _

theorem execLinkTest_changes (m : Nat) (s : State) : ∃ t, execLinkTest m s = .next t ∧ Changes [.regs, .mbx, .links,
    .mgmt] s t := by
  refine ⟨_, rfl, ?_⟩
  refine State.command_changes (v := [.regs, .mbx, .links, .mgmt]) (by decide) ?_ (fun _ => ?_) _ _ _
  · exact Changes.refl _ _
  · refine Changes.step ?_ (State.linkTest_changes ..) (by decide)
    exact Changes.refl _ _

theorem execVoteRoster_changes (m : Nat) (s : State) : ∃ t, execVoteRoster m s = .next t ∧ Changes [.regs, .mbx,
    .shadow, .mgmt] s t := by
  refine ⟨_, rfl, ?_⟩
  refine Changes.ite ?_ ?_
  · exact Changes.refl _ _
  · refine State.command_changes (v := [.regs, .mbx, .shadow, .mgmt]) (by decide) ?_ (fun _ => ?_) _ _ _
    · exact Changes.refl _ _
    · refine Changes.step ?_ (State.voteRoster_changes ..) (by decide)
      exact Changes.refl _ _

theorem execVoteBallot_changes (m : Nat) (s : State) : ∃ t, execVoteBallot m s = .next t ∧ Changes [.dev, .regs, .dpa,
    .sems, .mbx, .ue, .attach, .owed, .jobs, .dsp, .mgmt, .nextId] s t := by
  refine ⟨_, rfl, ?_⟩
  refine Changes.ite ?_ ?_
  · exact Changes.refl _ _
  · refine Changes.step ?_ (State.deviceDrain_changes ..) (by decide)
    refine State.command_changes (v := [.dev, .regs, .dpa, .sems, .mbx, .ue, .attach, .owed, .jobs, .dsp, .mgmt,
        .nextId]) (by decide) ?_ (fun _ => ?_) _ _ _
    · exact Changes.refl _ _
    · refine Changes.step ?_ (State.voteBallot_changes ..) (by decide)
      exact Changes.refl _ _

theorem execCfgWrite_changes (m : Nat) (s : State) : ∃ t, execCfgWrite m s = .next t ∧ Changes [.regs, .mbx, .shadow,
    .mgmt] s t := by
  refine ⟨_, rfl, ?_⟩
  refine State.command_changes (v := [.regs, .mbx, .shadow, .mgmt]) (by decide) ?_ (fun _ => ?_) _ _ _
  · exact Changes.refl _ _
  · refine Changes.step ?_ (State.cfgWrite_changes ..) (by decide)
    exact Changes.refl _ _

theorem execCfgRead_changes (m : Nat) (s : State) : ∃ t, execCfgRead m s = .next t ∧ Changes [.regs, .bar2, .mbx,
    .mgmt] s t := by
  refine ⟨_, rfl, ?_⟩
  refine State.command_changes (v := [.regs, .bar2, .mbx, .mgmt]) (by decide) ?_ (fun _ => ?_) _ _ _
  · exact Changes.refl _ _
  · refine Changes.step ?_ (State.cfgRead_changes ..) (by decide)
    exact Changes.refl _ _

theorem execCfgCopy_changes (m : Nat) (s : State) : ∃ t, execCfgCopy m s = .next t ∧ Changes [.regs, .mbx, .shadow,
    .mgmt] s t := by
  refine ⟨_, rfl, ?_⟩
  refine State.command_changes (v := [.regs, .mbx, .shadow, .mgmt]) (by decide) ?_ (fun _ => ?_) _ _ _
  · exact Changes.refl _ _
  · refine Changes.step ?_ (State.cfgCopy_changes ..) (by decide)
    exact Changes.refl _ _

theorem execSwap_changes (m : Nat) (s : State) : ∃ t, execSwap m s = .next t ∧ Changes [.dev, .regs, .mbx, .xbar,
    .links, .egress, .eths, .shpT, .circT, .hist, .atu, .poolUsed, .time, .shutters, .jobs, .active, .shadow, .dsp,
    .mgmt, .sec, .freeCtr] s t := by
  refine ⟨_, rfl, ?_⟩
  refine State.command_changes (v := [.dev, .regs, .mbx, .xbar, .links, .egress, .eths, .shpT, .circT, .hist, .atu,
      .poolUsed, .time, .shutters, .jobs, .active, .shadow, .dsp, .mgmt, .sec, .freeCtr]) (by decide) ?_
      (fun _ => ?_) _ _ _
  · exact Changes.refl _ _
  · refine Changes.step ?_ (State.swap_changes ..) (by decide)
    exact Changes.refl _ _

theorem execJobBegin_changes (m : Nat) (s : State) : ∃ t, execJobBegin m s = .next t ∧ Changes [.regs, .cnt, .dpa,
    .ls, .acc, .accFlags, .accBank1, .sems, .mbx, .ue, .attach, .msgs, .commits, .ctxs, .accepted, .cores, .colls,
    .owed, .fetches, .wbs, .poolUsed, .jobs, .dsp, .mgmt, .nextId, .freeCtr] s t := by
  refine ⟨_, rfl, ?_⟩
  refine State.command_changes (v := [.regs, .cnt, .dpa, .ls, .acc, .accFlags, .accBank1, .sems, .mbx, .ue, .attach,
      .msgs, .commits, .ctxs, .accepted, .cores, .colls, .owed, .fetches, .wbs, .poolUsed, .jobs, .dsp, .mgmt,
      .nextId, .freeCtr]) (by decide) ?_ (fun _ => ?_) _ _ _
  · exact Changes.refl _ _
  · refine Changes.step ?_ (State.beginCommand_changes ..) (by decide)
    exact Changes.refl _ _

theorem execJobEval_changes (m : Nat) (s : State) : ∃ t, execJobEval m s = .next t ∧ Changes [.regs, .cnt, .dpa, .ls,
    .acc, .accFlags, .accBank1, .sems, .mbx, .ue, .attach, .msgs, .commits, .ctxs, .accepted, .cores, .colls, .owed,
    .fetches, .wbs, .poolUsed, .jobs, .dsp, .mgmt, .nextId, .freeCtr] s t := by
  refine ⟨_, rfl, ?_⟩
  refine State.command_changes (v := [.regs, .cnt, .dpa, .ls, .acc, .accFlags, .accBank1, .sems, .mbx, .ue, .attach,
      .msgs, .commits, .ctxs, .accepted, .cores, .colls, .owed, .fetches, .wbs, .poolUsed, .jobs, .dsp, .mgmt,
      .nextId, .freeCtr]) (by decide) ?_ (fun _ => ?_) _ _ _
  · exact Changes.refl _ _
  · refine Changes.step ?_ (State.beginCommand_changes ..) (by decide)
    exact Changes.refl _ _

theorem execJobDrain_changes (m : Nat) (s : State) : ∃ t, execJobDrain m s = .next t ∧ Changes [.regs, .dpa, .sems,
    .mbx, .ue, .owed, .jobs, .dsp, .mgmt] s t := by
  refine ⟨_, rfl, ?_⟩
  refine State.command_changes (v := [.regs, .dpa, .sems, .mbx, .ue, .owed, .jobs, .dsp, .mgmt]) (by decide) ?_
      (fun _ => ?_) _ _ _
  · exact Changes.refl _ _
  · refine Changes.step ?_ (State.startDrain_changes ..) (by decide)
    refine Changes.step ?_ (State.keepRunning_changes ..) (by decide)
    exact Changes.refl _ _

theorem execJobSetStep_changes (m : Nat) (s : State) : ∃ t, execJobSetStep m s = .next t ∧ Changes [.regs, .mbx,
    .jobs, .mgmt] s t := by
  refine ⟨_, rfl, ?_⟩
  refine State.command_changes (v := [.regs, .mbx, .jobs, .mgmt]) (by decide) ?_ (fun _ => ?_) _ _ _
  · exact Changes.refl _ _
  · refine Changes.step ?_ (State.ok_changes ..) (by decide)
    refine Changes.step ?_ (State.setStep_changes ..) (by decide)
    exact Changes.refl _ _

theorem execJobMirror_changes (m : Nat) (s : State) : ∃ t, execJobMirror m s = .next t ∧ Changes [.regs, .cnt, .dpa,
    .sems, .mbx, .ue, .attach, .msgs, .commits, .ctxs, .accepted, .cores, .colls, .owed, .fetches, .wbs, .atu, .jobs,
    .mgmt, .nextId, .freeCtr] s t := by
  refine ⟨_, rfl, ?_⟩
  refine State.command_changes (v := [.regs, .cnt, .dpa, .sems, .mbx, .ue, .attach, .msgs, .commits, .ctxs, .accepted,
      .cores, .colls, .owed, .fetches, .wbs, .atu, .jobs, .mgmt, .nextId, .freeCtr]) (by decide) ?_ (fun _ => ?_) _ _ _
  · exact Changes.refl _ _
  · refine Changes.step ?_ (State.startMirror_changes ..) (by decide)
    refine Changes.step ?_ (State.keepRunning_changes ..) (by decide)
    exact Changes.refl _ _

theorem execJobFail_changes (m : Nat) (s : State) : ∃ t, execJobFail m s = .next t ∧ Changes [.dev, .regs, .cnt, .dpa,
    .sems, .mbx, .ue, .attach, .msgs, .commits, .ctxs, .accepted, .cores, .colls, .owed, .fetches, .wbs, .jobs, .dsp,
    .mgmt, .nextId, .freeCtr] s t := by
  refine ⟨_, rfl, ?_⟩
  refine State.command_changes (v := [.dev, .regs, .cnt, .dpa, .sems, .mbx, .ue, .attach, .msgs, .commits, .ctxs,
      .accepted, .cores, .colls, .owed, .fetches, .wbs, .jobs, .dsp, .mgmt, .nextId, .freeCtr]) (by decide) ?_
      (fun _ => ?_) _ _ _
  · exact Changes.refl _ _
  · refine Changes.step ?_ (State.deviceDrain_changes ..) (by decide)
    refine Changes.step ?_ (State.jobFail_changes ..) (by decide)
    exact Changes.refl _ _

theorem execJobRelease_changes (m : Nat) (s : State) : ∃ t, execJobRelease m s = .next t ∧ Changes [.regs, .cnt, .dpa,
    .mbx, .ue, .attach, .msgs, .cores, .owed, .fetches, .wbs, .atu, .mgmt, .nextId] s t := by
  refine ⟨_, rfl, ?_⟩
  refine State.command_changes (v := [.regs, .cnt, .dpa, .mbx, .ue, .attach, .msgs, .cores, .owed, .fetches, .wbs,
      .atu, .mgmt, .nextId]) (by decide) ?_ (fun _ => ?_) _ _ _
  · exact Changes.refl _ _
  · refine Changes.step ?_ (State.jobRelease_changes ..) (by decide)
    exact Changes.refl _ _

theorem execLoadSprog_changes (m : Nat) (s : State) : ∃ t, execLoadSprog m s = .next t ∧ Changes [.regs, .prog,
    .progValid, .mbx, .ue, .mgmt, .sec] s t := by
  refine ⟨_, rfl, ?_⟩
  refine State.command_changes (v := [.regs, .prog, .progValid, .mbx, .ue, .mgmt, .sec]) (by decide) ?_
      (fun _ => ?_) _ _ _
  · exact Changes.refl _ _
  · refine Changes.step ?_ (State.loadSprog_changes ..) (by decide)
    exact Changes.refl _ _

theorem execMemWrite_changes (m : Nat) (s : State) : ∃ t, execMemWrite m s = .next t ∧ Changes [.regs, .dpa, .mbx,
    .ue, .cores, .atu, .mgmt, .freeCtr] s t := by
  refine ⟨_, rfl, ?_⟩
  refine State.command_changes (v := [.regs, .dpa, .mbx, .ue, .cores, .atu, .mgmt, .freeCtr]) (by decide) ?_
      (fun _ => ?_) _ _ _
  · exact Changes.refl _ _
  · refine Changes.step ?_ (State.memWrite_changes ..) (by decide)
    exact Changes.refl _ _

theorem execMemRead_changes (m : Nat) (s : State) : ∃ t, execMemRead m s = .next t ∧ Changes [.regs, .bar2, .mbx,
    .atu, .mgmt, .freeCtr] s t := by
  refine ⟨_, rfl, ?_⟩
  refine State.command_changes (v := [.regs, .bar2, .mbx, .atu, .mgmt, .freeCtr]) (by decide) ?_ (fun _ => ?_) _ _ _
  · exact Changes.refl _ _
  · refine Changes.step ?_ (State.memRead_changes ..) (by decide)
    exact Changes.refl _ _

theorem execFabricRead_changes (m : Nat) (s : State) : ∃ t, execFabricRead m s = .next t ∧ Changes [.regs, .mbx,
    .attach, .mgmt, .nextId] s t := by
  refine ⟨_, rfl, ?_⟩
  refine State.command_changes (v := [.regs, .mbx, .attach, .mgmt, .nextId]) (by decide) ?_ (fun _ => ?_) _ _ _
  · exact Changes.refl _ _
  · refine Changes.step ?_ (State.fabricReadStart_changes ..) (by decide)
    exact Changes.refl _ _

theorem execDevRun_changes (m : Nat) (s : State) : ∃ t, execDevRun m s = .next t ∧ Changes [.dev, .regs, .mbx,
    .mgmt] s t := by
  refine ⟨_, rfl, ?_⟩
  refine State.command_changes (v := [.dev, .regs, .mbx, .mgmt]) (by decide) ?_ (fun _ => ?_) _ _ _
  · exact Changes.refl _ _
  · refine Changes.step ?_ (State.ok_changes ..) (by decide)
    refine Changes.step ?_ (State.setDev_changes ..) (by decide)
    exact Changes.refl _ _

theorem execDevStop_changes (m : Nat) (s : State) : ∃ t, execDevStop m s = .next t ∧ Changes [.dev, .regs, .dpa,
    .sems, .mbx, .ue, .owed, .jobs, .dsp, .mgmt] s t := by
  refine ⟨_, rfl, ?_⟩
  refine State.command_changes (v := [.dev, .regs, .dpa, .sems, .mbx, .ue, .owed, .jobs, .dsp, .mgmt])
      (by decide) ?_ (fun _ => ?_) _ _ _
  · exact Changes.refl _ _
  · refine Changes.step ?_ (State.stopDevice_changes ..) (by decide)
    exact Changes.refl _ _

theorem execBadOpcode_changes (m : Nat) (s : State) : ∃ t, execBadOpcode m s = .next t ∧ Changes [.regs, .mbx,
    .mgmt] s t := by
  refine ⟨_, rfl, ?_⟩
  refine Changes.step ?_ (State.badOpcode_changes ..) (by decide)
  exact Changes.refl _ _

theorem execDoorbellIgnored_changes (m : Nat) (s : State) : ∃ t, execDoorbellIgnored m s = .next t ∧ Changes [.regs,
    .mgmt] s t := by
  refine ⟨_, rfl, ?_⟩
  refine Changes.step ?_ (State.doorbellIgnored_changes ..) (by decide)
  exact Changes.refl _ _

theorem execSemAdd_changes (u : Nat) (s : State) : ∃ t, execSemAdd u s = .next t ∧ Changes [.regs, .sems, .inbox,
    .commits, .owed] s t := by
  refine ⟨_, rfl, ?_⟩
  refine Changes.step ?_ (State.receiveSemAdd_changes ..) (by decide)
  exact Changes.refl _ _

theorem execSemdataWrite_changes (n : Nat) (w : Word) (s : State) : ∃ t, execSemdataWrite n w s = .next t
    ∧ Changes [.sems] s t := by
  refine ⟨_, rfl, ?_⟩
  refine State.onWrite_changes ?_ ?_ _ _
  · exact Changes.refl _ _
  · refine Changes.step ?_ (State.writeSemdata_changes ..) (by decide)
    exact Changes.refl _ _

theorem execWrite_changes (n : Nat) (s : State) : ∃ t, execWrite n s = .next t ∧ Changes [.regs, .dpa, .ue, .inbox,
    .commits, .owed, .atu, .freeCtr] s t := by
  refine ⟨_, rfl, ?_⟩
  refine Changes.step ?_ (State.inboundWrite_changes ..) (by decide)
  exact Changes.refl _ _

theorem execReadReq_changes (n : Nat) (s : State) : ∃ t, execReadReq n s = .next t ∧ Changes [.regs, .attach, .msgs,
    .inbox, .owed, .atu, .nextId, .freeCtr] s t := by
  refine ⟨_, rfl, ?_⟩
  refine Changes.step ?_ (State.inboundReadReq_changes ..) (by decide)
  exact Changes.refl _ _

theorem execPageFetch_changes (n : Nat) (s : State) : ∃ t, execPageFetch n s = .next t ∧ Changes [.regs, .attach,
    .msgs, .inbox, .owed, .atu, .nextId, .freeCtr] s t := by
  refine ⟨_, rfl, ?_⟩
  refine Changes.step ?_ (State.servePage_changes ..) (by decide)
  exact Changes.refl _ _

theorem execPageData_changes (n : Nat) (s : State) : ∃ t, execPageData n s = .next t ∧ Changes [.regs, .cnt, .dpa,
    .ue, .attach, .inbox, .commits, .cores, .owed, .fetches, .nextId] s t := by
  refine ⟨_, rfl, ?_⟩
  refine Changes.step ?_ (State.pageData_changes ..) (by decide)
  exact Changes.refl _ _

theorem execPageWb_changes (n : Nat) (s : State) : ∃ t, execPageWb n s = .next t ∧ Changes [.regs, .dpa, .ue, .inbox,
    .commits, .owed, .atu, .freeCtr] s t := by
  refine ⟨_, rfl, ?_⟩
  refine Changes.step ?_ (State.pageWb_changes ..) (by decide)
  exact Changes.refl _ _

theorem execPageRelease_changes (n : Nat) (w : Word) (s : State) : ∃ t, execPageRelease n w s = .next t
    ∧ Changes [.regs, .cnt, .dpa, .ue, .attach, .msgs, .cores, .owed, .fetches, .wbs, .nextId] s t := by
  refine ⟨_, rfl, ?_⟩
  refine State.onWrite_changes ?_ ?_ _ _
  · exact Changes.refl _ _
  · refine Changes.step ?_ (State.writePgcmd_changes ..) (by decide)
    exact Changes.refl _ _

theorem execReleaseJob_changes (n : Nat) (w : Word) (s : State) : ∃ t, execReleaseJob n w s = .next t
    ∧ Changes [.regs, .cnt, .dpa, .ue, .attach, .msgs, .cores, .owed, .fetches, .wbs, .nextId] s t := by
  refine ⟨_, rfl, ?_⟩
  refine State.onWrite_changes ?_ ?_ _ _
  · exact Changes.refl _ _
  · refine Changes.step ?_ (State.writePgcmd_changes ..) (by decide)
    exact Changes.refl _ _

theorem execPagerAbortJob_changes (n : Nat) (w : Word) (s : State) : ∃ t, execPagerAbortJob n w s = .next t
    ∧ Changes [.regs, .cnt, .dpa, .ue, .attach, .msgs, .cores, .owed, .fetches, .wbs, .nextId] s t := by
  refine ⟨_, rfl, ?_⟩
  refine State.onWrite_changes ?_ ?_ _ _
  · exact Changes.refl _ _
  · refine Changes.step ?_ (State.writePgcmd_changes ..) (by decide)
    exact Changes.refl _ _

theorem execAtuInv_changes (n : Nat) (w : Word) (s : State) : ∃ t, execAtuInv n w s = .next t
    ∧ Changes [.atuBusy] s t := by
  refine ⟨_, rfl, ?_⟩
  refine State.onWrite_changes ?_ ?_ _ _
  · exact Changes.refl _ _
  · refine Changes.step ?_ (State.writeAtuInv_changes ..) (by decide)
    exact Changes.refl _ _

theorem execAtuInvComplete_changes (n : Nat) (s : State) : ∃ t, execAtuInvComplete n s = .next t ∧ Changes [.atu,
    .atuBusy] s t := by
  refine ⟨_, rfl, ?_⟩
  refine Changes.step ?_ (State.atuInvDone_changes ..) (by decide)
  exact Changes.refl _ _

theorem execPatrolScrub_changes (n : Nat) (corrected : Nat) (decayed : List (MemSpace × Nat)) (s : State) : ∃ t,
    execPatrolScrub n corrected decayed s = .next t ∧ Changes [.regs, .cnt, .ue, .cores] s t := by
  refine ⟨_, rfl, ?_⟩
  refine Changes.ite ?_ ?_
  · exact Changes.refl _ _
  · refine Changes.step ?_ (State.scrub_changes ..) (by decide)
    exact Changes.refl _ _

theorem execBpmEnable_changes (w : Word) (s : State) : ∃ t, execBpmEnable w s = .next t ∧ Changes [.regs,
    .poolUsed] s t := by
  refine ⟨_, rfl, ?_⟩
  refine State.onWrite_changes ?_ ?_ _ _
  · exact Changes.refl _ _
  · refine Changes.step ?_ (State.writeBpmCtl_changes ..) (by decide)
    exact Changes.refl _ _

theorem execBpmAllocate_changes (size : Nat) (s : State) : ∃ t, execBpmAllocate size s = .next t ∧ Changes [.regs,
    .poolUsed] s t := by
  refine ⟨_, rfl, ?_⟩
  refine State.onWrite_changes ?_ ?_ _ _
  · exact Changes.refl _ _
  · refine Changes.step ?_ (State.requestAlloc_changes ..) (by decide)
    exact Changes.refl _ _

theorem execBpmFree_changes (h : Word) (s : State) : ∃ t, execBpmFree h s = .next t ∧ Changes [.regs, .poolUsed,
    .freeCtr] s t := by
  refine ⟨_, rfl, ?_⟩
  refine State.onWrite_changes ?_ ?_ _ _
  · exact Changes.refl _ _
  · refine Changes.step ?_ (State.requestFree_changes ..) (by decide)
    exact Changes.refl _ _

theorem execMinfreeRead_changes (k : Nat) (s : State) : ∃ t, execMinfreeRead k s = .next t ∧ Changes [.regs,
    .busData] s t := by
  refine ⟨_, rfl, ?_⟩
  refine State.onRead_changes (by decide) ?_ ?_ _ _
  · exact Changes.refl _ _
  · refine Changes.step ?_ (State.readMinfree_changes ..) (by decide)
    exact Changes.refl _ _

theorem execTimeSyncSend_changes (n : Nat) (l : Nat) (s : State) : ∃ t, execTimeSyncSend n l s = .next t
    ∧ Changes [.links] s t := by
  refine ⟨_, rfl, ?_⟩
  refine Changes.step ?_ (State.sendSync_changes ..) (by decide)
  exact Changes.refl _ _

theorem execTimeEpochSend_changes (n : Nat) (l : Nat) (s : State) : ∃ t, execTimeEpochSend n l s = .next t
    ∧ Changes [.links] s t := by
  refine ⟨_, rfl, ?_⟩
  refine Changes.step ?_ (State.sendEpoch_changes ..) (by decide)
  exact Changes.refl _ _

theorem execTimeSyncReceive_changes (n : Nat) (l : Nat) (t1 : Nat) (s : State) : ∃ t,
    execTimeSyncReceive n l t1 s = .next t ∧ Changes [.links, .time] s t := by
  refine ⟨_, rfl, ?_⟩
  refine Changes.step ?_ (State.receiveSync_changes ..) (by decide)
  exact Changes.refl _ _

theorem execTimeEpochReceive_changes (n : Nat) (l : Nat) (hi : Nat) (s : State) : ∃ t,
    execTimeEpochReceive n l hi s = .next t ∧ Changes [.time] s t := by
  refine ⟨_, rfl, ?_⟩
  refine Changes.step ?_ (State.receiveEpoch_changes ..) (by decide)
  exact Changes.refl _ _

theorem execTimeEchoReceive_changes (n : Nat) (l : Nat) (d : Int) (void : Bool) (t3 : Nat) (s : State) : ∃ t,
    execTimeEchoReceive n l d void t3 s = .next t ∧ Changes [.regs, .time] s t := by
  refine ⟨_, rfl, ?_⟩
  refine Changes.step ?_ (State.receiveEcho_changes ..) (by decide)
  exact Changes.refl _ _

theorem execTimeHoldover_changes (s : State) : ∃ t, execTimeHoldover s = .next t ∧ Changes [.regs, .time] s t := by
  refine ⟨_, rfl, ?_⟩
  refine Changes.step ?_ (State.timeSilent_changes ..) (by decide)
  exact Changes.refl _ _

theorem execTimeLoad_changes (w : Word) (s : State) : ∃ t, execTimeLoad w s = .next t ∧ Changes [.regs, .time] s t := by
  refine ⟨_, rfl, ?_⟩
  refine State.onWrite_changes ?_ ?_ _ _
  · exact Changes.refl _ _
  · refine Changes.step ?_ (State.writeTimeCmd_changes ..) (by decide)
    exact Changes.refl _ _

theorem execTimeArm_changes (w : Word) (s : State) : ∃ t, execTimeArm w s = .next t ∧ Changes [.regs, .time] s t := by
  refine ⟨_, rfl, ?_⟩
  refine State.onWrite_changes ?_ ?_ _ _
  · exact Changes.refl _ _
  · refine Changes.step ?_ (State.writeTimeCmd_changes ..) (by decide)
    exact Changes.refl _ _

theorem execFtSyncEdge_changes (ns : Nat) (s : State) : ∃ t, execFtSyncEdge ns s = .next t ∧ Changes [.regs, .cnt,
    .time] s t := by
  refine ⟨_, rfl, ?_⟩
  refine Changes.ite ?_ ?_
  · exact Changes.refl _ _
  · refine Changes.step ?_ (State.ftSync_changes ..) (by decide)
    exact Changes.refl _ _

theorem execShutterEnable_changes (b : Nat) (w : Word) (s : State) : ∃ t, execShutterEnable b w s = .next t
    ∧ Changes [.regs, .links, .shutters] s t := by
  refine ⟨_, rfl, ?_⟩
  refine State.onWrite_changes ?_ ?_ _ _
  · exact Changes.refl _ _
  · refine Changes.step ?_ (State.writeShutCfg_changes ..) (by decide)
    exact Changes.refl _ _

theorem execShutterDisable_changes (b : Nat) (w : Word) (s : State) : ∃ t, execShutterDisable b w s = .next t
    ∧ Changes [.regs, .links, .shutters] s t := by
  refine ⟨_, rfl, ?_⟩
  refine State.onWrite_changes ?_ ?_ _ _
  · exact Changes.refl _ _
  · refine Changes.step ?_ (State.writeShutCfg_changes ..) (by decide)
    exact Changes.refl _ _

theorem execLocalArrival_changes (s : State) : ∃ t, execLocalArrival s = .next t ∧ Changes [.regs, .sems, .links,
    .owed, .time, .shutters, .freeCtr] s t := by
  refine ⟨_, rfl, ?_⟩
  refine Changes.step ?_ (State.localArrival_changes ..) (by decide)
  exact Changes.refl _ _

theorem execArriveFlit_changes (n : Nat) (l : Nat) (b : Nat) (gen : Nat) (s : State) : ∃ t,
    execArriveFlit n l b gen s = .next t ∧ Changes [.regs, .sems, .links, .owed, .shutters] s t := by
  refine ⟨_, rfl, ?_⟩
  refine Changes.step ?_ (State.arriveChild_changes ..) (by decide)
  exact Changes.refl _ _

theorem execReleaseFlit_changes (n : Nat) (l : Nat) (b : Nat) (gen : Nat) (x : Nat) (s : State) : ∃ t,
    execReleaseFlit n l b gen x s = .next t ∧ Changes [.regs, .sems, .links, .owed, .shutters] s t := by
  refine ⟨_, rfl, ?_⟩
  refine Changes.step ?_ (State.receiveRelease_changes ..) (by decide)
  exact Changes.refl _ _

theorem execShutterRelease_changes (b : Nat) (s : State) : ∃ t, execShutterRelease b s = .next t ∧ Changes [.regs,
    .sems, .links, .owed, .shutters] s t := by
  refine ⟨_, rfl, ?_⟩
  refine Changes.step ?_ (State.shutterDue_changes ..) (by decide)
  exact Changes.refl _ _

theorem execEngineWrite_changes (e : Nat) (s : State) : ∃ t, execEngineWrite e s = .next t ∧ Changes [.regs, .cnt,
    .ctxMem, .ue, .attach, .msgs, .inbox, .commits, .ctxs, .accepted, .nextId, .freeCtr] s t := by
  refine ⟨_, rfl, ?_⟩
  refine State.engineDoes_changes ?_ ?_ _
  · exact Changes.refl _ _
  · refine Changes.step ?_ (State.engineWrite_changes ..) (by decide)
    exact Changes.refl _ _

theorem execCollAnnReceive_changes (e : Nat) (s : State) : ∃ t, execCollAnnReceive e s = .next t ∧ Changes [.regs,
    .cnt, .ue, .attach, .msgs, .inbox, .commits, .ctxs, .accepted, .nextId, .freeCtr] s t := by
  refine ⟨_, rfl, ?_⟩
  refine State.engineDoes_changes ?_ ?_ _
  · exact Changes.refl _ _
  · refine Changes.step ?_ (State.engineAnn_changes ..) (by decide)
    exact Changes.refl _ _

theorem execCollDataReceive_changes (e : Nat) (s : State) : ∃ t, execCollDataReceive e s = .next t ∧ Changes [.regs,
    .cnt, .ctxMem, .ue, .inbox, .commits, .ctxs, .accepted] s t := by
  refine ⟨_, rfl, ?_⟩
  refine State.engineDoes_changes ?_ ?_ _
  · exact Changes.refl _ _
  · refine Changes.step ?_ (State.engineData_changes ..) (by decide)
    exact Changes.refl _ _

theorem execHandlerRun_changes (e : Nat) (s : State) : ∃ t, execHandlerRun e s = .next t ∧ Changes [.regs, .ctxMem,
    .ue, .commits, .ctxs, .accepted] s t := by
  refine ⟨_, rfl, ?_⟩
  refine State.engineDoes_changes ?_ ?_ _
  · exact Changes.refl _ _
  · refine Changes.step ?_ (State.handlerRun_changes ..) (by decide)
    exact Changes.refl _ _

theorem execChunkEmit_changes (e : Nat) (s : State) : ∃ t, execChunkEmit e s = .next t ∧ Changes [.regs, .ue, .attach,
    .msgs, .msgSeq, .commits, .ctxs, .accepted, .rrEmit, .nextId] s t := by
  refine ⟨_, rfl, ?_⟩
  refine State.engineDoes_changes ?_ ?_ _
  · exact Changes.refl _ _
  · refine Changes.step ?_ (State.chunkEmit_changes ..) (by decide)
    exact Changes.refl _ _

theorem execEngineCompleteReceive_changes (e : Nat) (s : State) : ∃ t, execEngineCompleteReceive e s = .next t
    ∧ Changes [.regs, .cnt, .dpa, .ue, .attach, .msgs, .inbox, .commits, .ctxs, .accepted, .cores, .colls, .owed,
    .fetches, .wbs, .jobs, .nextId, .freeCtr] s t := by
  refine ⟨_, rfl, ?_⟩
  refine State.engineDoes_changes ?_ ?_ _
  · exact Changes.refl _ _
  · refine Changes.step ?_ (State.engineComplete_changes ..) (by decide)
    exact Changes.refl _ _

theorem execSdJobFail_changes (n : Nat) (w : Word) (s : State) : ∃ t, execSdJobFail n w s = .next t ∧ Changes [.regs,
    .cnt, .attach, .msgs, .commits, .ctxs, .accepted, .nextId, .freeCtr] s t := by
  refine ⟨_, rfl, ?_⟩
  refine State.onWrite_changes ?_ ?_ _ _
  · exact Changes.refl _ _
  · refine Changes.step ?_ (State.writeSdJobcmd_changes ..) (by decide)
    exact Changes.refl _ _

theorem execSdJobFree_changes (n : Nat) (w : Word) (s : State) : ∃ t, execSdJobFree n w s = .next t ∧ Changes [.regs,
    .cnt, .attach, .msgs, .commits, .ctxs, .accepted, .nextId, .freeCtr] s t := by
  refine ⟨_, rfl, ?_⟩
  refine State.onWrite_changes ?_ ?_ _ _
  · exact Changes.refl _ _
  · refine Changes.step ?_ (State.writeSdJobcmd_changes ..) (by decide)
    exact Changes.refl _ _

theorem execSdProgWrite_changes (n : Nat) (w : Word) (s : State) : ∃ t, execSdProgWrite n w s = .next t
    ∧ Changes [.regs, .prog, .progValid, .ue] s t := by
  refine ⟨_, rfl, ?_⟩
  refine State.onWrite_changes ?_ ?_ _ _
  · exact Changes.refl _ _
  · refine Changes.step ?_ (State.writeProgcmd_changes ..) (by decide)
    exact Changes.refl _ _

theorem execSdProgRead_changes (n : Nat) (w : Word) (s : State) : ∃ t, execSdProgRead n w s = .next t
    ∧ Changes [.regs, .prog, .progValid, .ue] s t := by
  refine ⟨_, rfl, ?_⟩
  refine State.onWrite_changes ?_ ?_ _ _
  · exact Changes.refl _ _
  · refine Changes.step ?_ (State.writeProgcmd_changes ..) (by decide)
    exact Changes.refl _ _

theorem execSdCmdataAccess_changes (n : Nat) (write : Bool) (w : Word) (s : State) : ∃ t,
    execSdCmdataAccess n write w s = .next t ∧ Changes [.regs, .busData, .ctxMem, .ue, .commits, .ctxs, .accepted,
    .freeCtr] s t := by
  refine ⟨_, rfl, ?_⟩
  refine Changes.ite ?_ ?_
  · refine State.onWrite_changes ?_ ?_ _ _
    · exact Changes.refl _ _
    · refine Changes.step ?_ (State.accessCmdata_changes ..) (by decide)
      exact Changes.refl _ _
  · refine State.onRead_changes (by decide) ?_ ?_ _ _
    · exact Changes.refl _ _
    · refine Changes.step ?_ (State.accessCmdata_changes ..) (by decide)
      exact Changes.refl _ _

end Sys2Proof.Machine
end

