-- ==== Sys2Proof/Laws/CommandWf.lean ====
section
/-!
SUPPORT. Every command keeps the canonical form of the memories: one lemma for each meaning.
-/

namespace Sys2Proof.Machine

theorem execXbarEnable_wf (w : Word) (s : State) : ∃ t, execXbarEnable w s = .next t ∧ KeepsWf s t := by
  refine ⟨_, rfl, ?_⟩
  refine State.onWrite_wf ?_ ?_ _ _
  · exact KeepsWf.refl _
  · refine KeepsWf.trans ?_ (KeepsWf.of_changes (State.writeXbarCtl_changes ..) (by decide))
    exact KeepsWf.refl _

theorem execXbarDisable_wf (w : Word) (s : State) : ∃ t, execXbarDisable w s = .next t ∧ KeepsWf s t := by
  refine ⟨_, rfl, ?_⟩
  refine State.onWrite_wf ?_ ?_ _ _
  · exact KeepsWf.refl _
  · refine KeepsWf.trans ?_ (KeepsWf.of_changes (State.writeXbarCtl_changes ..) (by decide))
    exact KeepsWf.refl _

theorem execXbarCpminWrite_wf (w : Word) (s : State) : ∃ t, execXbarCpminWrite w s = .next t ∧ KeepsWf s t := by
  refine ⟨_, rfl, ?_⟩
  refine State.onWrite_wf ?_ ?_ _ _
  · exact KeepsWf.refl _
  · refine KeepsWf.trans ?_ (KeepsWf.of_changes (State.writeCpmin_changes ..) (by decide))
    exact KeepsWf.refl _

theorem execMcgWrite_wf (g : Nat) (off : Nat) (w : Word) (s : State) : ∃ t, execMcgWrite g off w s = .next t
    ∧ KeepsWf s t := by
  refine ⟨_, rfl, ?_⟩
  refine State.onWrite_wf ?_ ?_ _ _
  · exact KeepsWf.refl _
  · refine KeepsWf.trans ?_ (KeepsWf.of_changes (State.writeMcg_changes ..) (by decide))
    exact KeepsWf.refl _

theorem execCellSend_wf (i : Nat) (s : State) : ∃ t, execCellSend i s = .next t ∧ KeepsWf s t := by
  refine ⟨_, rfl, ?_⟩
  refine KeepsWf.trans ?_ (KeepsWf.of_changes (State.sendCell_changes ..) (by decide))
  exact KeepsWf.refl _

theorem execPoolGrant_wf (s : State) : ∃ t, execPoolGrant s = .next t ∧ KeepsWf s t := by
  refine ⟨_, rfl, ?_⟩
  refine KeepsWf.trans ?_ (KeepsWf.of_changes (State.grantOne_changes ..) (by decide))
  refine KeepsWf.trans ?_ (KeepsWf.of_changes (State.grantOne_changes ..) (by decide))
  exact KeepsWf.refl _

theorem execStoredCopyCreditGrant_wf (i : Nat) (g : Nat) (s : State) : ∃ t,
    execStoredCopyCreditGrant i g s = .next t ∧ KeepsWf s t := by
  refine ⟨_, rfl, ?_⟩
  refine KeepsWf.trans ?_ (KeepsWf.of_changes (State.grantStored_changes ..) (by decide))
  exact KeepsWf.refl _

theorem execCellLeave_wf (j : Nat) (ue : Bool) (s : State) : ∃ t, execCellLeave j ue s = .next t ∧ KeepsWf s t := by
  refine ⟨_, rfl, ?_⟩
  refine KeepsWf.trans ?_ (State.leaveCell_wf ..)
  exact KeepsWf.refl _

theorem execOutputDown_wf (j : Nat) (sub : Nat) (s : State) : ∃ t, execOutputDown j sub s = .next t ∧ KeepsWf s t := by
  refine ⟨_, rfl, ?_⟩
  refine KeepsWf.ite ?_ ?_
  · refine KeepsWf.trans ?_ (KeepsWf.of_changes (State.outputCut_changes ..) (by decide))
    exact KeepsWf.refl _
  · exact KeepsWf.refl _

theorem execFlushDone_wf (j : Nat) (sub : Nat) (s : State) : ∃ t, execFlushDone j sub s = .next t ∧ KeepsWf s t := by
  refine ⟨_, rfl, ?_⟩
  refine KeepsWf.ite ?_ ?_
  · refine KeepsWf.trans ?_ (KeepsWf.of_changes (State.flushDone_changes ..) (by decide))
    exact KeepsWf.refl _
  · exact KeepsWf.refl _

theorem execOutputUp_wf (j : Nat) (sub : Nat) (s : State) : ∃ t, execOutputUp j sub s = .next t ∧ KeepsWf s t := by
  refine ⟨_, rfl, ?_⟩
  refine KeepsWf.ite ?_ ?_
  · refine KeepsWf.trans ?_ (KeepsWf.of_changes (State.outputUp_changes ..) (by decide))
    exact KeepsWf.refl _
  · exact KeepsWf.refl _

theorem execSlotcfgWrite_wf (n : Nat) (k : Nat) (w : Word) (s : State) : ∃ t, execSlotcfgWrite n k w s = .next t
    ∧ KeepsWf s t := by
  refine ⟨_, rfl, ?_⟩
  refine State.onWrite_wf ?_ ?_ _ _
  · exact KeepsWf.refl _
  · refine KeepsWf.trans ?_ (KeepsWf.of_changes (State.writeSlotcfg_changes ..) (by decide))
    exact KeepsWf.refl _

theorem execFlitReceive_wf (n : Nat) (l : Nat) (f : Flit) (s : State) : ∃ t, execFlitReceive n l f s = .next t
    ∧ KeepsWf s t := by
  refine ⟨_, rfl, ?_⟩
  refine KeepsWf.trans ?_ (KeepsWf.of_changes (State.watchLink_changes ..) (by decide))
  refine KeepsWf.trans ?_ (State.receiveFlit_wf ..)
  exact KeepsWf.refl _

theorem execReplayRequest_wf (n : Nat) (l : Nat) (ack : Nat) (s : State) : ∃ t,
    execReplayRequest n l ack s = .next t ∧ KeepsWf s t := by
  refine ⟨_, rfl, ?_⟩
  refine KeepsWf.trans ?_ (KeepsWf.of_changes (State.replayFrom_changes ..) (by decide))
  exact KeepsWf.refl _

theorem execAckControlFlit_wf (n : Nat) (l : Nat) (s : State) : ∃ t, execAckControlFlit n l s = .next t
    ∧ KeepsWf s t := by
  refine ⟨_, rfl, ?_⟩
  refine KeepsWf.trans ?_ (KeepsWf.of_changes (State.ackControl_changes ..) (by decide))
  exact KeepsWf.refl _

theorem execFlitTransmit_wf (n : Nat) (l : Nat) (s : State) : ∃ t, execFlitTransmit n l s = .next t ∧ KeepsWf s t := by
  refine ⟨_, rfl, ?_⟩
  refine KeepsWf.trans ?_ (KeepsWf.of_changes (State.transmitFlit_changes ..) (by decide))
  exact KeepsWf.refl _

theorem execPacketInject_wf (i : Nat) (s : State) : ∃ t, execPacketInject i s = .next t ∧ KeepsWf s t := by
  refine ⟨_, rfl, ?_⟩
  refine KeepsWf.trans ?_ (KeepsWf.of_changes (State.inject_changes ..) (by decide))
  exact KeepsWf.refl _

theorem execPacketForward_wf (n : Nat) (l : Nat) (vc : Nat) (s : State) : ∃ t,
    execPacketForward n l vc s = .next t ∧ KeepsWf s t := by
  refine ⟨_, rfl, ?_⟩
  refine KeepsWf.trans ?_ (KeepsWf.of_changes (State.decidePacket_changes ..) (by decide))
  exact KeepsWf.refl _

theorem execPacketDeliver_wf (n : Nat) (l : Nat) (vc : Nat) (s : State) : ∃ t,
    execPacketDeliver n l vc s = .next t ∧ KeepsWf s t := by
  refine ⟨_, rfl, ?_⟩
  refine KeepsWf.trans ?_ (KeepsWf.of_changes (State.decidePacket_changes ..) (by decide))
  exact KeepsWf.refl _

theorem execThrottleLevelUpdate_wf (n : Nat) (l : Nat) (tc : Nat) (s : State) : ∃ t,
    execThrottleLevelUpdate n l tc s = .next t ∧ KeepsWf s t := by
  refine ⟨_, rfl, ?_⟩
  refine KeepsWf.trans ?_ (KeepsWf.of_changes (State.updateThrottle_changes ..) (by decide))
  exact KeepsWf.refl _

theorem execTrackerCount_wf (s : State) : ∃ t, execTrackerCount s = .next t ∧ KeepsWf s t := by
  refine ⟨_, rfl, ?_⟩
  refine KeepsWf.trans ?_ (State.trackerCount_wf ..)
  exact KeepsWf.refl _

theorem execComplete_wf (s : State) : ∃ t, execComplete s = .next t ∧ KeepsWf s t := by
  refine ⟨_, rfl, ?_⟩
  refine KeepsWf.trans ?_ (State.receiveComplete_wf ..)
  exact KeepsWf.refl _

theorem execMessageSlotGrant_wf (dev : Nat) (s : State) : ∃ t, execMessageSlotGrant dev s = .next t ∧ KeepsWf s t := by
  refine ⟨_, rfl, ?_⟩
  refine KeepsWf.trans ?_ (KeepsWf.of_changes (State.grantSlot_changes ..) (by decide))
  exact KeepsWf.refl _

theorem execTblcmdWrite_wf (n : Nat) (w : Word) (s : State) : ∃ t, execTblcmdWrite n w s = .next t ∧ KeepsWf s t := by
  refine ⟨_, rfl, ?_⟩
  refine State.onWrite_wf ?_ ?_ _ _
  · exact KeepsWf.refl _
  · refine KeepsWf.trans ?_ (KeepsWf.of_changes (State.writeTblcmd_changes ..) (by decide))
    exact KeepsWf.refl _

theorem execTblcmdRead_wf (n : Nat) (w : Word) (s : State) : ∃ t, execTblcmdRead n w s = .next t ∧ KeepsWf s t := by
  refine ⟨_, rfl, ?_⟩
  refine State.onWrite_wf ?_ ?_ _ _
  · exact KeepsWf.refl _
  · refine KeepsWf.trans ?_ (KeepsWf.of_changes (State.writeTblcmd_changes ..) (by decide))
    exact KeepsWf.refl _

theorem execLinkUpReq_wf (n : Nat) (l : Nat) (w : Word) (s : State) : ∃ t, execLinkUpReq n l w s = .next t
    ∧ KeepsWf s t := by
  refine ⟨_, rfl, ?_⟩
  refine State.onWrite_wf ?_ ?_ _ _
  · exact KeepsWf.refl _
  · refine KeepsWf.trans ?_ (KeepsWf.of_changes (State.writePortCfg_changes ..) (by decide))
    exact KeepsWf.refl _

theorem execLinkDownReq_wf (n : Nat) (l : Nat) (w : Word) (s : State) : ∃ t, execLinkDownReq n l w s = .next t
    ∧ KeepsWf s t := by
  refine ⟨_, rfl, ?_⟩
  refine State.onWrite_wf ?_ ?_ _ _
  · exact KeepsWf.refl _
  · refine KeepsWf.trans ?_ (KeepsWf.of_changes (State.watchLink_changes ..) (by decide))
    refine KeepsWf.trans ?_ (KeepsWf.of_changes (State.writePortCfg_changes ..) (by decide))
    exact KeepsWf.refl _

theorem execTrainingComplete_wf (n : Nat) (l : Nat) (peerDev : Nat) (peerLane : Nat) (s : State) : ∃ t,
    execTrainingComplete n l peerDev peerLane s = .next t ∧ KeepsWf s t := by
  refine ⟨_, rfl, ?_⟩
  refine KeepsWf.trans ?_ (KeepsWf.of_changes (State.watchLink_changes ..) (by decide))
  refine KeepsWf.trans ?_ (KeepsWf.of_changes (State.trained_changes ..) (by decide))
  exact KeepsWf.refl _

theorem execRetrainTrigger_wf (n : Nat) (l : Nat) (s : State) : ∃ t, execRetrainTrigger n l s = .next t
    ∧ KeepsWf s t := by
  refine ⟨_, rfl, ?_⟩
  refine KeepsWf.trans ?_ (KeepsWf.of_changes (State.watchLink_changes ..) (by decide))
  refine KeepsWf.trans ?_ (KeepsWf.of_changes (State.retrain_changes ..) (by decide))
  exact KeepsWf.refl _

theorem execRetrainComplete_wf (n : Nat) (l : Nat) (s : State) : ∃ t, execRetrainComplete n l s = .next t
    ∧ KeepsWf s t := by
  refine ⟨_, rfl, ?_⟩
  refine KeepsWf.ite ?_ ?_
  · refine KeepsWf.trans ?_ (KeepsWf.of_changes (State.setLink_changes ..) (by decide))
    exact KeepsWf.refl _
  · exact KeepsWf.refl _

theorem execRetrainTimeout_wf (n : Nat) (l : Nat) (s : State) : ∃ t, execRetrainTimeout n l s = .next t
    ∧ KeepsWf s t := by
  refine ⟨_, rfl, ?_⟩
  split
  · refine KeepsWf.ite ?_ ?_
    · refine KeepsWf.trans ?_ (KeepsWf.of_changes (State.watchLink_changes ..) (by decide))
      refine KeepsWf.trans ?_ (KeepsWf.of_changes (State.failLink_changes ..) (by decide))
      exact KeepsWf.refl _
    · exact KeepsWf.refl _
  · exact KeepsWf.refl _

theorem execEgressCellTake_wf (j : Nat) (sub : Nat) (s : State) : ∃ t, execEgressCellTake j sub s = .next t
    ∧ KeepsWf s t := by
  refine ⟨_, rfl, ?_⟩
  refine KeepsWf.trans ?_ (KeepsWf.of_changes (State.takeCell_changes ..) (by decide))
  exact KeepsWf.refl _

theorem execEgressSelect_wf (n : Nat) (l : Nat) (s : State) : ∃ t, execEgressSelect n l s = .next t ∧ KeepsWf s t := by
  refine ⟨_, rfl, ?_⟩
  refine KeepsWf.trans ?_ (KeepsWf.of_changes (State.egressSelect_changes ..) (by decide))
  exact KeepsWf.refl _

theorem execBucketRefresh_wf (n : Nat) (s : State) : ∃ t, execBucketRefresh n s = .next t ∧ KeepsWf s t := by
  refine ⟨_, rfl, ?_⟩
  refine KeepsWf.ite ?_ ?_
  · exact KeepsWf.refl _
  · refine KeepsWf.trans ?_ (KeepsWf.of_changes (State.refreshBuckets_changes ..) (by decide))
    exact KeepsWf.refl _

theorem execTelemetrySample_wf (n : Nat) (s : State) : ∃ t, execTelemetrySample n s = .next t ∧ KeepsWf s t := by
  refine ⟨_, rfl, ?_⟩
  refine KeepsWf.trans ?_ (KeepsWf.of_changes (State.sample_changes ..) (by decide))
  exact KeepsWf.refl _

theorem execRingRecordWrite_wf (n : Nat) (s : State) : ∃ t, execRingRecordWrite n s = .next t ∧ KeepsWf s t := by
  refine ⟨_, rfl, ?_⟩
  refine KeepsWf.trans ?_ (State.writeRecord_wf ..)
  exact KeepsWf.refl _

theorem execHistselWrite_wf (n : Nat) (w : Word) (s : State) : ∃ t, execHistselWrite n w s = .next t ∧ KeepsWf s t := by
  refine ⟨_, rfl, ?_⟩
  refine State.onWrite_wf ?_ ?_ _ _
  · exact KeepsWf.refl _
  · refine KeepsWf.trans ?_ (KeepsWf.of_changes (State.writeHistsel_changes ..) (by decide))
    exact KeepsWf.refl _

theorem execHistclr_wf (n : Nat) (w : Word) (s : State) : ∃ t, execHistclr n w s = .next t ∧ KeepsWf s t := by
  refine ⟨_, rfl, ?_⟩
  refine State.onWrite_wf ?_ ?_ _ _
  · exact KeepsWf.refl _
  · refine KeepsWf.trans ?_ (KeepsWf.of_changes (State.writeHistclr_changes ..) (by decide))
    exact KeepsWf.refl _

theorem execCollAccept_wf (u : Nat) (s : State) : ∃ t, execCollAccept u s = .next t ∧ KeepsWf s t := by
  refine ⟨_, rfl, ?_⟩
  refine KeepsWf.trans ?_ (State.collAccept_wf ..)
  exact KeepsWf.refl _

theorem execCollControlAnnounce_wf (n : Nat) (s : State) : ∃ t, execCollControlAnnounce n s = .next t
    ∧ KeepsWf s t := by
  refine ⟨_, rfl, ?_⟩
  refine KeepsWf.trans ?_ (KeepsWf.of_changes (State.controlAnnounce_changes ..) (by decide))
  exact KeepsWf.refl _

theorem execCollAnnounceReceive_wf (n : Nat) (s : State) : ∃ t, execCollAnnounceReceive n s = .next t
    ∧ KeepsWf s t := by
  refine ⟨_, rfl, ?_⟩
  refine KeepsWf.trans ?_ (State.announceReceive_wf ..)
  exact KeepsWf.refl _

theorem execCollRelease_wf (n : Nat) (s : State) : ∃ t, execCollRelease n s = .next t ∧ KeepsWf s t := by
  refine ⟨_, rfl, ?_⟩
  refine KeepsWf.trans ?_ (State.collRelease_wf ..)
  exact KeepsWf.refl _

theorem execCollChunkSend_wf (n : Nat) (s : State) : ∃ t, execCollChunkSend n s = .next t ∧ KeepsWf s t := by
  refine ⟨_, rfl, ?_⟩
  refine KeepsWf.trans ?_ (KeepsWf.of_changes (State.chunkSend_changes ..) (by decide))
  exact KeepsWf.refl _

theorem execLandingChunk_wf (n : Nat) (s : State) : ∃ t, execLandingChunk n s = .next t ∧ KeepsWf s t := by
  refine ⟨_, rfl, ?_⟩
  refine KeepsWf.trans ?_ (State.landingChunk_wf ..)
  exact KeepsWf.refl _

theorem execCollDoneSend_wf (n : Nat) (s : State) : ∃ t, execCollDoneSend n s = .next t ∧ KeepsWf s t := by
  refine ⟨_, rfl, ?_⟩
  refine KeepsWf.trans ?_ (KeepsWf.of_changes (State.doneSend_changes ..) (by decide))
  exact KeepsWf.refl _

theorem execCollDoneResult_wf (n : Nat) (s : State) : ∃ t, execCollDoneResult n s = .next t ∧ KeepsWf s t := by
  refine ⟨_, rfl, ?_⟩
  refine KeepsWf.trans ?_ (State.doneResult_wf ..)
  exact KeepsWf.refl _

theorem execCollJobAbort_wf (n : Nat) (w : Word) (s : State) : ∃ t, execCollJobAbort n w s = .next t ∧ KeepsWf s t := by
  refine ⟨_, rfl, ?_⟩
  refine State.onWrite_wf ?_ ?_ _ _
  · exact KeepsWf.refl _
  · refine KeepsWf.trans ?_ (State.writeColljobcmd_wf ..)
    exact KeepsWf.refl _

theorem execCoreStart_wf (u : Nat) (w : Word) (s : State) : ∃ t, execCoreStart u w s = .next t ∧ KeepsWf s t := by
  refine ⟨_, rfl, ?_⟩
  refine State.onWrite_wf ?_ ?_ _ _
  · exact KeepsWf.refl _
  · refine KeepsWf.trans ?_ (State.writeStart_wf ..)
    exact KeepsWf.refl _

theorem execCoreStop_wf (u : Nat) (w : Word) (s : State) : ∃ t, execCoreStop u w s = .next t ∧ KeepsWf s t := by
  refine ⟨_, rfl, ?_⟩
  refine State.onWrite_wf ?_ ?_ _ _
  · exact KeepsWf.refl _
  · refine KeepsWf.trans ?_ (State.writeCoreCmd_wf ..)
    exact KeepsWf.refl _

theorem execCoreClear_wf (u : Nat) (w : Word) (s : State) : ∃ t, execCoreClear u w s = .next t ∧ KeepsWf s t := by
  refine ⟨_, rfl, ?_⟩
  refine State.onWrite_wf ?_ ?_ _ _
  · exact KeepsWf.refl _
  · refine KeepsWf.trans ?_ (State.writeCoreCmd_wf ..)
    exact KeepsWf.refl _

theorem execXcwDispatch_wf (u : Nat) (cycles : Nat) (s : State) : ∃ t, execXcwDispatch u cycles s = .next t
    ∧ KeepsWf s t := by
  refine ⟨_, rfl, ?_⟩
  refine KeepsWf.ite ?_ ?_
  · refine KeepsWf.trans ?_ (State.dispatch_wf ..)
    exact KeepsWf.refl _
  · exact KeepsWf.refl _

theorem execHaltHoldEnd_wf (u : Nat) (s : State) : ∃ t, execHaltHoldEnd u s = .next t ∧ KeepsWf s t := by
  refine ⟨_, rfl, ?_⟩
  refine KeepsWf.ite ?_ ?_
  · refine KeepsWf.trans ?_ (State.holdEnd_wf ..)
    exact KeepsWf.refl _
  · exact KeepsWf.refl _

theorem execMma_wf (u : Nat) (s : State) : ∃ t, execMma u s = .next t ∧ KeepsWf s t := by
  refine ⟨_, rfl, ?_⟩
  refine KeepsWf.trans ?_ (KeepsWf.of_changes (State.startMat_changes ..) (by decide))
  exact KeepsWf.refl _

theorem execMms_wf (u : Nat) (s : State) : ∃ t, execMms u s = .next t ∧ KeepsWf s t := by
  refine ⟨_, rfl, ?_⟩
  refine KeepsWf.trans ?_ (KeepsWf.of_changes (State.startMat_changes ..) (by decide))
  exact KeepsWf.refl _

theorem execClose_wf (u : Nat) (s : State) : ∃ t, execClose u s = .next t ∧ KeepsWf s t := by
  refine ⟨_, rfl, ?_⟩
  refine KeepsWf.trans ?_ (KeepsWf.of_changes (State.startMat_changes ..) (by decide))
  exact KeepsWf.refl _

theorem execVecAdd_wf (u : Nat) (s : State) : ∃ t, execVecAdd u s = .next t ∧ KeepsWf s t := by
  refine ⟨_, rfl, ?_⟩
  refine KeepsWf.trans ?_ (KeepsWf.of_changes (State.startVec_changes ..) (by decide))
  exact KeepsWf.refl _

theorem execVecSub_wf (u : Nat) (s : State) : ∃ t, execVecSub u s = .next t ∧ KeepsWf s t := by
  refine ⟨_, rfl, ?_⟩
  refine KeepsWf.trans ?_ (KeepsWf.of_changes (State.startVec_changes ..) (by decide))
  exact KeepsWf.refl _

theorem execVecMul_wf (u : Nat) (s : State) : ∃ t, execVecMul u s = .next t ∧ KeepsWf s t := by
  refine ⟨_, rfl, ?_⟩
  refine KeepsWf.trans ?_ (KeepsWf.of_changes (State.startVec_changes ..) (by decide))
  exact KeepsWf.refl _

theorem execDiv_wf (u : Nat) (s : State) : ∃ t, execDiv u s = .next t ∧ KeepsWf s t := by
  refine ⟨_, rfl, ?_⟩
  refine KeepsWf.trans ?_ (KeepsWf.of_changes (State.startVec_changes ..) (by decide))
  exact KeepsWf.refl _

theorem execVecMin_wf (u : Nat) (s : State) : ∃ t, execVecMin u s = .next t ∧ KeepsWf s t := by
  refine ⟨_, rfl, ?_⟩
  refine KeepsWf.trans ?_ (KeepsWf.of_changes (State.startVec_changes ..) (by decide))
  exact KeepsWf.refl _

theorem execVecMax_wf (u : Nat) (s : State) : ∃ t, execVecMax u s = .next t ∧ KeepsWf s t := by
  refine ⟨_, rfl, ?_⟩
  refine KeepsWf.trans ?_ (KeepsWf.of_changes (State.startVec_changes ..) (by decide))
  exact KeepsWf.refl _

theorem execAbs_wf (u : Nat) (s : State) : ∃ t, execAbs u s = .next t ∧ KeepsWf s t := by
  refine ⟨_, rfl, ?_⟩
  refine KeepsWf.trans ?_ (KeepsWf.of_changes (State.startVec_changes ..) (by decide))
  exact KeepsWf.refl _

theorem execSqrt_wf (u : Nat) (s : State) : ∃ t, execSqrt u s = .next t ∧ KeepsWf s t := by
  refine ⟨_, rfl, ?_⟩
  refine KeepsWf.trans ?_ (KeepsWf.of_changes (State.startVec_changes ..) (by decide))
  exact KeepsWf.refl _

theorem execRcp_wf (u : Nat) (s : State) : ∃ t, execRcp u s = .next t ∧ KeepsWf s t := by
  refine ⟨_, rfl, ?_⟩
  refine KeepsWf.trans ?_ (KeepsWf.of_changes (State.startVec_changes ..) (by decide))
  exact KeepsWf.refl _

theorem execExp2_wf (u : Nat) (s : State) : ∃ t, execExp2 u s = .next t ∧ KeepsWf s t := by
  refine ⟨_, rfl, ?_⟩
  refine KeepsWf.trans ?_ (KeepsWf.of_changes (State.startVec_changes ..) (by decide))
  exact KeepsWf.refl _

theorem execLog2_wf (u : Nat) (s : State) : ∃ t, execLog2 u s = .next t ∧ KeepsWf s t := by
  refine ⟨_, rfl, ?_⟩
  refine KeepsWf.trans ?_ (KeepsWf.of_changes (State.startVec_changes ..) (by decide))
  exact KeepsWf.refl _

theorem execCvt_wf (u : Nat) (s : State) : ∃ t, execCvt u s = .next t ∧ KeepsWf s t := by
  refine ⟨_, rfl, ?_⟩
  refine KeepsWf.trans ?_ (KeepsWf.of_changes (State.startVec_changes ..) (by decide))
  exact KeepsWf.refl _

theorem execSum_wf (u : Nat) (s : State) : ∃ t, execSum u s = .next t ∧ KeepsWf s t := by
  refine ⟨_, rfl, ?_⟩
  refine KeepsWf.trans ?_ (KeepsWf.of_changes (State.startVec_changes ..) (by decide))
  exact KeepsWf.refl _

theorem execSumsq_wf (u : Nat) (s : State) : ∃ t, execSumsq u s = .next t ∧ KeepsWf s t := by
  refine ⟨_, rfl, ?_⟩
  refine KeepsWf.trans ?_ (KeepsWf.of_changes (State.startVec_changes ..) (by decide))
  exact KeepsWf.refl _

theorem execMeanvar_wf (u : Nat) (s : State) : ∃ t, execMeanvar u s = .next t ∧ KeepsWf s t := by
  refine ⟨_, rfl, ?_⟩
  refine KeepsWf.trans ?_ (KeepsWf.of_changes (State.startVec_changes ..) (by decide))
  exact KeepsWf.refl _

theorem execAmax_wf (u : Nat) (s : State) : ∃ t, execAmax u s = .next t ∧ KeepsWf s t := by
  refine ⟨_, rfl, ?_⟩
  refine KeepsWf.trans ?_ (KeepsWf.of_changes (State.startVec_changes ..) (by decide))
  exact KeepsWf.refl _

theorem execOpt_wf (u : Nat) (s : State) : ∃ t, execOpt u s = .next t ∧ KeepsWf s t := by
  refine ⟨_, rfl, ?_⟩
  refine KeepsWf.trans ?_ (KeepsWf.of_changes (State.startVec_changes ..) (by decide))
  exact KeepsWf.refl _

theorem execThin_wf (u : Nat) (s : State) : ∃ t, execThin u s = .next t ∧ KeepsWf s t := by
  refine ⟨_, rfl, ?_⟩
  refine KeepsWf.trans ?_ (KeepsWf.of_changes (State.startVec_changes ..) (by decide))
  exact KeepsWf.refl _

theorem execDrain_wf (u : Nat) (s : State) : ∃ t, execDrain u s = .next t ∧ KeepsWf s t := by
  refine ⟨_, rfl, ?_⟩
  refine KeepsWf.trans ?_ (KeepsWf.of_changes (State.startVec_changes ..) (by decide))
  exact KeepsWf.refl _

theorem execMov_wf (u : Nat) (s : State) : ∃ t, execMov u s = .next t ∧ KeepsWf s t := by
  refine ⟨_, rfl, ?_⟩
  refine KeepsWf.trans ?_ (KeepsWf.of_changes (State.startVec_changes ..) (by decide))
  exact KeepsWf.refl _

theorem execFill_wf (u : Nat) (s : State) : ∃ t, execFill u s = .next t ∧ KeepsWf s t := by
  refine ⟨_, rfl, ?_⟩
  refine KeepsWf.trans ?_ (KeepsWf.of_changes (State.startVec_changes ..) (by decide))
  exact KeepsWf.refl _

theorem execDmaGet_wf (u : Nat) (eng : Nat) (s : State) : ∃ t, execDmaGet u eng s = .next t ∧ KeepsWf s t := by
  refine ⟨_, rfl, ?_⟩
  refine KeepsWf.trans ?_ (State.dmaRun_wf ..)
  exact KeepsWf.refl _

theorem execDmaPut_wf (u : Nat) (eng : Nat) (s : State) : ∃ t, execDmaPut u eng s = .next t ∧ KeepsWf s t := by
  refine ⟨_, rfl, ?_⟩
  refine KeepsWf.trans ?_ (State.dmaRun_wf ..)
  exact KeepsWf.refl _

theorem execDmaSend_wf (u : Nat) (eng : Nat) (s : State) : ∃ t, execDmaSend u eng s = .next t ∧ KeepsWf s t := by
  refine ⟨_, rfl, ?_⟩
  refine KeepsWf.trans ?_ (State.dmaRun_wf ..)
  exact KeepsWf.refl _

theorem execDmaSignal_wf (u : Nat) (eng : Nat) (s : State) : ∃ t, execDmaSignal u eng s = .next t ∧ KeepsWf s t := by
  refine ⟨_, rfl, ?_⟩
  refine KeepsWf.trans ?_ (State.dmaRun_wf ..)
  exact KeepsWf.refl _

theorem execDmaComplete_wf (u : Nat) (eng : Nat) (s : State) : ∃ t, execDmaComplete u eng s = .next t
    ∧ KeepsWf s t := by
  refine ⟨_, rfl, ?_⟩
  refine KeepsWf.trans ?_ (State.dmaComplete_wf ..)
  exact KeepsWf.refl _

theorem execRegisterWrite_wf (addr : Nat) (width : Nat) (w : Word) (s : State) : ∃ t,
    execRegisterWrite addr width w s = .next t ∧ KeepsWf s t := by
  refine ⟨_, rfl, ?_⟩
  refine KeepsWf.trans ?_ (State.busWrite_wf ..)
  exact KeepsWf.refl _

theorem execCounterLowRead_wf (addr : Nat) (s : State) : ∃ t, execCounterLowRead addr s = .next t ∧ KeepsWf s t := by
  refine ⟨_, rfl, ?_⟩
  refine KeepsWf.trans ?_ (KeepsWf.of_changes (State.readCounter_changes ..) (by decide))
  exact KeepsWf.refl _

theorem execDevRstctl_wf (w : Word) (s : State) : ∃ t, execDevRstctl w s = .next t ∧ KeepsWf s t := by
  refine ⟨_, rfl, ?_⟩
  refine KeepsWf.trans ?_ (State.writeRstctl_wf ..)
  exact KeepsWf.refl _

theorem execFullReset_wf (pulse : LowPulse) (s : State) : ∃ t, execFullReset pulse s = .next t ∧ KeepsWf s t := by
  refine ⟨_, rfl, ?_⟩
  refine KeepsWf.trans ?_ (State.lowPulse_wf ..)
  exact KeepsWf.refl _

theorem execRailUndervoltage_wf (lowNs : Nat) (s : State) : ∃ t, execRailUndervoltage lowNs s = .next t
    ∧ KeepsWf s t := by
  refine ⟨_, rfl, ?_⟩
  refine KeepsWf.trans ?_ (State.undervoltage_wf ..)
  exact KeepsWf.refl _

theorem execPwrOkRising_wf (id : Nat) (s : State) : ∃ t, execPwrOkRising id s = .next t ∧ KeepsWf s t := by
  refine ⟨_, rfl, ?_⟩
  refine KeepsWf.trans ?_ (KeepsWf.of_changes (State.powerUp_changes ..) (by decide))
  exact KeepsWf.refl _

theorem execResetRelease_wf (bootMode : Nat) (helper : List Byte) (s : State) : ∃ t,
    execResetRelease bootMode helper s = .next t ∧ KeepsWf s t := by
  refine ⟨_, rfl, ?_⟩
  refine KeepsWf.trans ?_ (KeepsWf.of_changes (State.releaseReset_changes ..) (by decide))
  exact KeepsWf.refl _

theorem execImageCheckComplete_wf (sfdpOk : Bool) (image : List Byte) (s : State) : ∃ t,
    execImageCheckComplete sfdpOk image s = .next t ∧ KeepsWf s t := by
  refine ⟨_, rfl, ?_⟩
  refine KeepsWf.trans ?_ (KeepsWf.of_changes (State.flashChecked_changes ..) (by decide))
  exact KeepsWf.refl _

theorem execIdentityKeyReady_wf (s : State) : ∃ t, execIdentityKeyReady s = .next t ∧ KeepsWf s t := by
  refine ⟨_, rfl, ?_⟩
  refine KeepsWf.ite ?_ ?_
  · exact KeepsWf.refl _
  · refine KeepsWf.trans ?_ (KeepsWf.of_changes (State.identityReady_changes ..) (by decide))
    exact KeepsWf.refl _

theorem execHyzaciaFirstAnswer_wf (s : State) : ∃ t, execHyzaciaFirstAnswer s = .next t ∧ KeepsWf s t := by
  refine ⟨_, rfl, ?_⟩
  refine KeepsWf.trans ?_ (State.firstAnswer_wf ..)
  exact KeepsWf.refl _

theorem execContactSheetRefresh_wf (s : State) : ∃ t, execContactSheetRefresh s = .next t ∧ KeepsWf s t := by
  refine ⟨_, rfl, ?_⟩
  refine KeepsWf.trans ?_ (State.refreshSheet_wf ..)
  exact KeepsWf.refl _

theorem execHeartbeat_wf (s : State) : ∃ t, execHeartbeat s = .next t ∧ KeepsWf s t := by
  refine ⟨_, rfl, ?_⟩
  refine KeepsWf.trans ?_ (KeepsWf.of_changes (State.heartbeat_changes ..) (by decide))
  exact KeepsWf.refl _

theorem execWatchdogExpiry_wf (s : State) : ∃ t, execWatchdogExpiry s = .next t ∧ KeepsWf s t := by
  refine ⟨_, rfl, ?_⟩
  refine KeepsWf.trans ?_ (State.watchdog_wf ..)
  exact KeepsWf.refl _

theorem execDeviceFault_wf (source : Nat) (die : Nat) (s : State) : ∃ t, execDeviceFault source die s = .next t
    ∧ KeepsWf s t := by
  refine ⟨_, rfl, ?_⟩
  refine KeepsWf.trans ?_ (State.faultEvent_wf ..)
  exact KeepsWf.refl _

theorem execPcieLinkReset_wf (s : State) : ∃ t, execPcieLinkReset s = .next t ∧ KeepsWf s t := by
  refine ⟨_, rfl, ?_⟩
  refine KeepsWf.trans ?_ (KeepsWf.of_changes Changes.pcie (by decide))
  exact KeepsWf.refl _

theorem execI3cTelemetryRefresh_wf (s : State) : ∃ t, execI3cTelemetryRefresh s = .next t ∧ KeepsWf s t := by
  refine ⟨_, rfl, ?_⟩
  refine KeepsWf.trans ?_ (KeepsWf.of_changes (State.refreshTele_changes ..) (by decide))
  exact KeepsWf.refl _

theorem execI3cPrivateWrite_wf (offset : Nat) (s : State) : ∃ t, execI3cPrivateWrite offset s = .next t
    ∧ KeepsWf s t := by
  refine ⟨_, rfl, ?_⟩
  refine KeepsWf.trans ?_ (KeepsWf.of_changes (State.setI3c_changes ..) (by decide))
  exact KeepsWf.refl _

theorem execI3cPrivateRead_wf (count : Nat) (s : State) : ∃ t, execI3cPrivateRead count s = .next t ∧ KeepsWf s t := by
  refine ⟨_, rfl, ?_⟩
  refine KeepsWf.trans ?_ (KeepsWf.of_changes (State.i3cRead_changes ..) (by decide))
  exact KeepsWf.refl _

theorem execEntdaa_wf (addr : Nat) (s : State) : ∃ t, execEntdaa addr s = .next t ∧ KeepsWf s t := by
  refine ⟨_, rfl, ?_⟩
  refine KeepsWf.trans ?_ (KeepsWf.of_changes (State.i3cAssign_changes ..) (by decide))
  exact KeepsWf.refl _

theorem execSetdasa_wf (addr : Nat) (s : State) : ∃ t, execSetdasa addr s = .next t ∧ KeepsWf s t := by
  refine ⟨_, rfl, ?_⟩
  refine KeepsWf.trans ?_ (KeepsWf.of_changes (State.i3cAssign_changes ..) (by decide))
  exact KeepsWf.refl _

theorem execRstdaa_wf (s : State) : ∃ t, execRstdaa s = .next t ∧ KeepsWf s t := by
  refine ⟨_, rfl, ?_⟩
  refine KeepsWf.trans ?_ (KeepsWf.of_changes (State.setI3c_changes ..) (by decide))
  exact KeepsWf.refl _

theorem execGetpid_wf (s : State) : ∃ t, execGetpid s = .next t ∧ KeepsWf s t := by
  refine ⟨_, rfl, ?_⟩
  refine KeepsWf.trans ?_ (KeepsWf.of_changes (State.i3cReply_changes ..) (by decide))
  exact KeepsWf.refl _

theorem execGetbcr_wf (s : State) : ∃ t, execGetbcr s = .next t ∧ KeepsWf s t := by
  refine ⟨_, rfl, ?_⟩
  refine KeepsWf.trans ?_ (KeepsWf.of_changes (State.i3cReply_changes ..) (by decide))
  exact KeepsWf.refl _

theorem execGetdcr_wf (s : State) : ∃ t, execGetdcr s = .next t ∧ KeepsWf s t := by
  refine ⟨_, rfl, ?_⟩
  refine KeepsWf.trans ?_ (KeepsWf.of_changes (State.i3cReply_changes ..) (by decide))
  exact KeepsWf.refl _

theorem execGetstatus_wf (s : State) : ∃ t, execGetstatus s = .next t ∧ KeepsWf s t := by
  refine ⟨_, rfl, ?_⟩
  refine KeepsWf.trans ?_ (KeepsWf.of_changes (State.i3cFree_changes ..) (by decide))
  exact KeepsWf.refl _

theorem execGetmwl_wf (s : State) : ∃ t, execGetmwl s = .next t ∧ KeepsWf s t := by
  refine ⟨_, rfl, ?_⟩
  refine KeepsWf.trans ?_ (KeepsWf.of_changes (State.i3cFree_changes ..) (by decide))
  exact KeepsWf.refl _

theorem execGetmrl_wf (s : State) : ∃ t, execGetmrl s = .next t ∧ KeepsWf s t := by
  refine ⟨_, rfl, ?_⟩
  refine KeepsWf.trans ?_ (KeepsWf.of_changes (State.i3cFree_changes ..) (by decide))
  exact KeepsWf.refl _

theorem execEnec_wf (events : Nat) (s : State) : ∃ t, execEnec events s = .next t ∧ KeepsWf s t := by
  refine ⟨_, rfl, ?_⟩
  refine KeepsWf.trans ?_ (KeepsWf.of_changes (State.setI3c_changes ..) (by decide))
  exact KeepsWf.refl _

theorem execDisec_wf (events : Nat) (s : State) : ∃ t, execDisec events s = .next t ∧ KeepsWf s t := by
  refine ⟨_, rfl, ?_⟩
  refine KeepsWf.trans ?_ (KeepsWf.of_changes (State.setI3c_changes ..) (by decide))
  exact KeepsWf.refl _

theorem execBypass_wf (_opcode : Nat) (s : State) : ∃ t, execBypass _opcode s = .next t ∧ KeepsWf s t := by
  refine ⟨_, rfl, ?_⟩
  refine KeepsWf.trans ?_ (KeepsWf.of_changes (State.jtagSelect_changes ..) (by decide))
  exact KeepsWf.refl _

theorem execIdcode_wf (s : State) : ∃ t, execIdcode s = .next t ∧ KeepsWf s t := by
  refine ⟨_, rfl, ?_⟩
  refine KeepsWf.trans ?_ (KeepsWf.of_changes (State.jtagSelect_changes ..) (by decide))
  exact KeepsWf.refl _

theorem execSamplePreload_wf (s : State) : ∃ t, execSamplePreload s = .next t ∧ KeepsWf s t := by
  refine ⟨_, rfl, ?_⟩
  refine KeepsWf.trans ?_ (KeepsWf.of_changes (State.jtagBoundary_changes ..) (by decide))
  exact KeepsWf.refl _

theorem execExtest_wf (s : State) : ∃ t, execExtest s = .next t ∧ KeepsWf s t := by
  refine ⟨_, rfl, ?_⟩
  refine KeepsWf.trans ?_ (KeepsWf.of_changes (State.jtagBoundary_changes ..) (by decide))
  exact KeepsWf.refl _

theorem execExtestPulse_wf (s : State) : ∃ t, execExtestPulse s = .next t ∧ KeepsWf s t := by
  refine ⟨_, rfl, ?_⟩
  refine KeepsWf.trans ?_ (KeepsWf.of_changes (State.jtagBoundary_changes ..) (by decide))
  exact KeepsWf.refl _

theorem execExtestTrain_wf (s : State) : ∃ t, execExtestTrain s = .next t ∧ KeepsWf s t := by
  refine ⟨_, rfl, ?_⟩
  refine KeepsWf.trans ?_ (KeepsWf.of_changes (State.jtagBoundary_changes ..) (by decide))
  exact KeepsWf.refl _

theorem execHighz_wf (s : State) : ∃ t, execHighz s = .next t ∧ KeepsWf s t := by
  refine ⟨_, rfl, ?_⟩
  refine KeepsWf.trans ?_ (KeepsWf.of_changes (State.jtagSelect_changes ..) (by decide))
  exact KeepsWf.refl _

theorem execClamp_wf (s : State) : ∃ t, execClamp s = .next t ∧ KeepsWf s t := by
  refine ⟨_, rfl, ?_⟩
  refine KeepsWf.trans ?_ (KeepsWf.of_changes (State.jtagSelect_changes ..) (by decide))
  exact KeepsWf.refl _

theorem execPowerMeasure_wf (watts : Nat) (s : State) : ∃ t, execPowerMeasure watts s = .next t ∧ KeepsWf s t := by
  refine ⟨_, rfl, ?_⟩
  refine KeepsWf.trans ?_ (KeepsWf.of_changes (State.measurePower_changes ..) (by decide))
  exact KeepsWf.refl _

theorem execThrottleStep_wf (temp16 : Int) (s : State) : ∃ t, execThrottleStep temp16 s = .next t ∧ KeepsWf s t := by
  refine ⟨_, rfl, ?_⟩
  refine KeepsWf.trans ?_ (KeepsWf.of_changes (State.throttleStep_changes ..) (by decide))
  exact KeepsWf.refl _

theorem execThermalClamp_wf (temp16 : Int) (s : State) : ∃ t, execThermalClamp temp16 s = .next t ∧ KeepsWf s t := by
  refine ⟨_, rfl, ?_⟩
  refine KeepsWf.trans ?_ (KeepsWf.of_changes (State.thermalClamp_changes ..) (by decide))
  exact KeepsWf.refl _

theorem execThermalClampRelease_wf (temp16 : Int) (s : State) : ∃ t, execThermalClampRelease temp16 s = .next t
    ∧ KeepsWf s t := by
  refine ⟨_, rfl, ?_⟩
  refine KeepsWf.trans ?_ (KeepsWf.of_changes (State.clampRelease_changes ..) (by decide))
  exact KeepsWf.refl _

theorem execThermTrip_wf (temp16 : Int) (s : State) : ∃ t, execThermTrip temp16 s = .next t ∧ KeepsWf s t := by
  refine ⟨_, rfl, ?_⟩
  refine KeepsWf.trans ?_ (State.thermTrip_wf ..)
  exact KeepsWf.refl _

theorem execRequestDescriptor_wf (s : State) : ∃ t, execRequestDescriptor s = .next t ∧ KeepsWf s t := by
  refine ⟨_, rfl, ?_⟩
  refine KeepsWf.trans ?_ (KeepsWf.of_changes (State.takeRequest_changes ..) (by decide))
  exact KeepsWf.refl _

theorem execRequestAgeDrop_wf (m : Nat) (s : State) : ∃ t, execRequestAgeDrop m s = .next t ∧ KeepsWf s t := by
  refine ⟨_, rfl, ?_⟩
  refine KeepsWf.trans ?_ (KeepsWf.of_changes (State.requestAgeDrop_changes ..) (by decide))
  exact KeepsWf.refl _

theorem execModelWaitExpiry_wf (m : Nat) (s : State) : ∃ t, execModelWaitExpiry m s = .next t ∧ KeepsWf s t := by
  refine ⟨_, rfl, ?_⟩
  refine KeepsWf.trans ?_ (KeepsWf.of_changes (State.modelWaitExpiry_changes ..) (by decide))
  exact KeepsWf.refl _

theorem execDispatch_wf (s : State) : ∃ t, execDispatch s = .next t ∧ KeepsWf s t := by
  refine ⟨_, rfl, ?_⟩
  refine KeepsWf.trans ?_ (State.dispatchAll_wf ..)
  exact KeepsWf.refl _

theorem execSwitchHalted_wf (g : Nat) (s : State) : ∃ t, execSwitchHalted g s = .next t ∧ KeepsWf s t := by
  refine ⟨_, rfl, ?_⟩
  refine KeepsWf.ite ?_ ?_
  · refine KeepsWf.trans ?_ (State.switchHalted_wf ..)
    exact KeepsWf.refl _
  · exact KeepsWf.refl _

theorem execBatchCompletion_wf (s : State) : ∃ t, execBatchCompletion s = .next t ∧ KeepsWf s t := by
  refine ⟨_, rfl, ?_⟩
  refine KeepsWf.trans ?_ (State.batchCompletion_wf ..)
  exact KeepsWf.refl _

theorem execEthUpReq_wf (n : Nat) (l : Nat) (w : Word) (s : State) : ∃ t, execEthUpReq n l w s = .next t
    ∧ KeepsWf s t := by
  refine ⟨_, rfl, ?_⟩
  refine State.onWrite_wf ?_ ?_ _ _
  · exact KeepsWf.refl _
  · refine KeepsWf.trans ?_ (KeepsWf.of_changes (State.writeEthCtl_changes ..) (by decide))
    exact KeepsWf.refl _

theorem execEthDownReq_wf (n : Nat) (l : Nat) (w : Word) (s : State) : ∃ t, execEthDownReq n l w s = .next t
    ∧ KeepsWf s t := by
  refine ⟨_, rfl, ?_⟩
  refine State.onWrite_wf ?_ ?_ _ _
  · exact KeepsWf.refl _
  · refine KeepsWf.trans ?_ (KeepsWf.of_changes (State.writeEthCtl_changes ..) (by decide))
    exact KeepsWf.refl _

theorem execEthTrainingComplete_wf (n : Nat) (l : Nat) (s : State) : ∃ t, execEthTrainingComplete n l s = .next t
    ∧ KeepsWf s t := by
  refine ⟨_, rfl, ?_⟩
  refine KeepsWf.trans ?_ (KeepsWf.of_changes (State.ethTrained_changes ..) (by decide))
  exact KeepsWf.refl _

theorem execEthLinkFault_wf (n : Nat) (l : Nat) (s : State) : ∃ t, execEthLinkFault n l s = .next t ∧ KeepsWf s t := by
  refine ⟨_, rfl, ?_⟩
  refine KeepsWf.trans ?_ (KeepsWf.of_changes (State.ethLost_changes ..) (by decide))
  exact KeepsWf.refl _

theorem execEthFaultSequenceTimeout_wf (n : Nat) (l : Nat) (s : State) : ∃ t,
    execEthFaultSequenceTimeout n l s = .next t ∧ KeepsWf s t := by
  refine ⟨_, rfl, ?_⟩
  refine KeepsWf.trans ?_ (KeepsWf.of_changes (State.ethLost_changes ..) (by decide))
  exact KeepsWf.refl _

theorem execFrameReceive_wf (n : Nat) (l : Nat) (f : List Byte) (s : State) : ∃ t,
    execFrameReceive n l f s = .next t ∧ KeepsWf s t := by
  refine ⟨_, rfl, ?_⟩
  refine KeepsWf.trans ?_ (State.receiveFrame_wf ..)
  exact KeepsWf.refl _

theorem execResponseTransmit_wf (n : Nat) (l : Nat) (s : State) : ∃ t, execResponseTransmit n l s = .next t
    ∧ KeepsWf s t := by
  refine ⟨_, rfl, ?_⟩
  refine KeepsWf.trans ?_ (KeepsWf.of_changes (State.transmitResponse_changes ..) (by decide))
  exact KeepsWf.refl _

theorem execXbarJmapService_wf (s : State) : ∃ t, execXbarJmapService s = .next t ∧ KeepsWf s t := by
  refine ⟨_, rfl, ?_⟩
  refine KeepsWf.trans ?_ (State.deviceDrain_wf ..)
  refine KeepsWf.trans ?_ (State.xbarJmapService_wf ..)
  exact KeepsWf.refl _

theorem execPortJmapService_wf (n : Nat) (s : State) : ∃ t, execPortJmapService n s = .next t ∧ KeepsWf s t := by
  refine ⟨_, rfl, ?_⟩
  refine KeepsWf.trans ?_ (State.deviceDrain_wf ..)
  refine KeepsWf.trans ?_ (State.portJmapService_wf ..)
  exact KeepsWf.refl _

theorem execJobFaultService_wf (s : State) : ∃ t, execJobFaultService s = .next t ∧ KeepsWf s t := by
  refine ⟨_, rfl, ?_⟩
  refine KeepsWf.trans ?_ (State.deviceDrain_wf ..)
  refine KeepsWf.trans ?_ (State.jobFaultService_wf ..)
  exact KeepsWf.refl _

theorem execJobFaultNotice_wf (s : State) : ∃ t, execJobFaultNotice s = .next t ∧ KeepsWf s t := by
  refine ⟨_, rfl, ?_⟩
  refine KeepsWf.trans ?_ (State.deviceDrain_wf ..)
  refine KeepsWf.trans ?_ (State.jobFaultNotice_wf ..)
  exact KeepsWf.refl _

theorem execBallotReceive_wf (s : State) : ∃ t, execBallotReceive s = .next t ∧ KeepsWf s t := by
  refine ⟨_, rfl, ?_⟩
  refine KeepsWf.trans ?_ (State.deviceDrain_wf ..)
  refine KeepsWf.trans ?_ (KeepsWf.of_changes (State.ballotReceive_changes ..) (by decide))
  exact KeepsWf.refl _

theorem execReadRsp_wf (s : State) : ∃ t, execReadRsp s = .next t ∧ KeepsWf s t := by
  refine ⟨_, rfl, ?_⟩
  refine KeepsWf.trans ?_ (State.readRsp_wf ..)
  exact KeepsWf.refl _

theorem execDrainLimitExpiry_wf (slot : Nat) (s : State) : ∃ t, execDrainLimitExpiry slot s = .next t
    ∧ KeepsWf s t := by
  refine ⟨_, rfl, ?_⟩
  refine KeepsWf.ite ?_ ?_
  · refine KeepsWf.trans ?_ (State.drainLimit_wf ..)
    exact KeepsWf.refl _
  · exact KeepsWf.refl _

theorem execDrainComplete_wf (slot : Nat) (s : State) : ∃ t, execDrainComplete slot s = .next t ∧ KeepsWf s t := by
  refine ⟨_, rfl, ?_⟩
  refine KeepsWf.ite ?_ ?_
  · refine KeepsWf.trans ?_ (State.drainComplete_wf ..)
    exact KeepsWf.refl _
  · exact KeepsWf.refl _

theorem execMirrorComplete_wf (slot : Nat) (s : State) : ∃ t, execMirrorComplete slot s = .next t ∧ KeepsWf s t := by
  refine ⟨_, rfl, ?_⟩
  refine KeepsWf.ite ?_ ?_
  · refine KeepsWf.trans ?_ (State.mirrorComplete_wf ..)
    exact KeepsWf.refl _
  · exact KeepsWf.refl _

theorem execSelfTestComplete_wf (failed : Nat) (tile : Nat) (port : Nat) (stream : Nat) (xbar : Bool) (s : State)
    : ∃ t, execSelfTestComplete failed tile port stream xbar s = .next t ∧ KeepsWf s t := by
  refine ⟨_, rfl, ?_⟩
  refine KeepsWf.ite ?_ ?_
  · refine KeepsWf.trans ?_ (State.selfTestDone_wf ..)
    exact KeepsWf.refl _
  · exact KeepsWf.refl _

theorem execLinkTestComplete_wf (s : State) : ∃ t, execLinkTestComplete s = .next t ∧ KeepsWf s t := by
  refine ⟨_, rfl, ?_⟩
  refine KeepsWf.ite ?_ ?_
  · refine KeepsWf.trans ?_ (State.linkTestDone_wf ..)
    exact KeepsWf.refl _
  · exact KeepsWf.refl _

theorem execFabricReadTimeout_wf (s : State) : ∃ t, execFabricReadTimeout s = .next t ∧ KeepsWf s t := by
  refine ⟨_, rfl, ?_⟩
  refine KeepsWf.ite ?_ ?_
  · refine KeepsWf.trans ?_ (State.fabricReadLate_wf ..)
    exact KeepsWf.refl _
  · exact KeepsWf.refl _

theorem execGetInfo_wf (m : Nat) (s : State) : ∃ t, execGetInfo m s = .next t ∧ KeepsWf s t := by
  refine ⟨_, rfl, ?_⟩
  refine State.command_wf ?_ (fun _ => ?_) _ _ _
  · exact KeepsWf.refl _
  · refine KeepsWf.trans ?_ (State.ok_wf ..)
    exact KeepsWf.refl _

theorem execGetFault_wf (m : Nat) (s : State) : ∃ t, execGetFault m s = .next t ∧ KeepsWf s t := by
  refine ⟨_, rfl, ?_⟩
  refine State.command_wf ?_ (fun _ => ?_) _ _ _
  · exact KeepsWf.refl _
  · refine KeepsWf.trans ?_ (State.getFault_wf ..)
    exact KeepsWf.refl _

theorem execSetContact_wf (m : Nat) (s : State) : ∃ t, execSetContact m s = .next t ∧ KeepsWf s t := by
  refine ⟨_, rfl, ?_⟩
  refine State.command_wf ?_ (fun _ => ?_) _ _ _
  · exact KeepsWf.refl _
  · refine KeepsWf.trans ?_ (State.setContact_wf ..)
    exact KeepsWf.refl _

theorem execSetPower_wf (m : Nat) (s : State) : ∃ t, execSetPower m s = .next t ∧ KeepsWf s t := by
  refine ⟨_, rfl, ?_⟩
  refine State.command_wf ?_ (fun _ => ?_) _ _ _
  · exact KeepsWf.refl _
  · refine KeepsWf.trans ?_ (State.setPower_wf ..)
    exact KeepsWf.refl _

theorem execLoadImage_wf (m : Nat) (s : State) : ∃ t, execLoadImage m s = .next t ∧ KeepsWf s t := by
  refine ⟨_, rfl, ?_⟩
  refine KeepsWf.ite ?_ ?_
  · exact KeepsWf.refl _
  · refine State.command_wf ?_ (fun _ => ?_) _ _ _
    · exact KeepsWf.refl _
    · refine KeepsWf.trans ?_ (State.loadImage_wf ..)
      exact KeepsWf.refl _

theorem execGetMeasure_wf (m : Nat) (s : State) : ∃ t, execGetMeasure m s = .next t ∧ KeepsWf s t := by
  refine ⟨_, rfl, ?_⟩
  refine State.command_wf ?_ (fun _ => ?_) _ _ _
  · exact KeepsWf.refl _
  · refine KeepsWf.trans ?_ (State.getMeasure_wf ..)
    exact KeepsWf.refl _

theorem execGetAttest_wf (m : Nat) (s : State) : ∃ t, execGetAttest m s = .next t ∧ KeepsWf s t := by
  refine ⟨_, rfl, ?_⟩
  refine State.command_wf ?_ (fun _ => ?_) _ _ _
  · exact KeepsWf.refl _
  · refine KeepsWf.trans ?_ (State.attest_wf ..)
    exact KeepsWf.refl _

theorem execSelfTest_wf (m : Nat) (s : State) : ∃ t, execSelfTest m s = .next t ∧ KeepsWf s t := by
  refine ⟨_, rfl, ?_⟩
  refine State.command_wf ?_ (fun _ => ?_) _ _ _
  · exact KeepsWf.refl _
  · refine KeepsWf.trans ?_ (State.selfTest_wf ..)
    exact KeepsWf.refl _

theorem execLinkTest_wf (m : Nat) (s : State) : ∃ t, execLinkTest m s = .next t ∧ KeepsWf s t := by
  refine ⟨_, rfl, ?_⟩
  refine State.command_wf ?_ (fun _ => ?_) _ _ _
  · exact KeepsWf.refl _
  · refine KeepsWf.trans ?_ (KeepsWf.of_changes (State.linkTest_changes ..) (by decide))
    exact KeepsWf.refl _

theorem execVoteRoster_wf (m : Nat) (s : State) : ∃ t, execVoteRoster m s = .next t ∧ KeepsWf s t := by
  refine ⟨_, rfl, ?_⟩
  refine KeepsWf.ite ?_ ?_
  · exact KeepsWf.refl _
  · refine State.command_wf ?_ (fun _ => ?_) _ _ _
    · exact KeepsWf.refl _
    · refine KeepsWf.trans ?_ (State.voteRoster_wf ..)
      exact KeepsWf.refl _

theorem execVoteBallot_wf (m : Nat) (s : State) : ∃ t, execVoteBallot m s = .next t ∧ KeepsWf s t := by
  refine ⟨_, rfl, ?_⟩
  refine KeepsWf.ite ?_ ?_
  · exact KeepsWf.refl _
  · refine KeepsWf.trans ?_ (State.deviceDrain_wf ..)
    refine State.command_wf ?_ (fun _ => ?_) _ _ _
    · exact KeepsWf.refl _
    · refine KeepsWf.trans ?_ (State.voteBallot_wf ..)
      exact KeepsWf.refl _

theorem execCfgWrite_wf (m : Nat) (s : State) : ∃ t, execCfgWrite m s = .next t ∧ KeepsWf s t := by
  refine ⟨_, rfl, ?_⟩
  refine State.command_wf ?_ (fun _ => ?_) _ _ _
  · exact KeepsWf.refl _
  · refine KeepsWf.trans ?_ (State.cfgWrite_wf ..)
    exact KeepsWf.refl _

theorem execCfgRead_wf (m : Nat) (s : State) : ∃ t, execCfgRead m s = .next t ∧ KeepsWf s t := by
  refine ⟨_, rfl, ?_⟩
  refine State.command_wf ?_ (fun _ => ?_) _ _ _
  · exact KeepsWf.refl _
  · refine KeepsWf.trans ?_ (State.cfgRead_wf ..)
    exact KeepsWf.refl _

theorem execCfgCopy_wf (m : Nat) (s : State) : ∃ t, execCfgCopy m s = .next t ∧ KeepsWf s t := by
  refine ⟨_, rfl, ?_⟩
  refine State.command_wf ?_ (fun _ => ?_) _ _ _
  · exact KeepsWf.refl _
  · refine KeepsWf.trans ?_ (State.cfgCopy_wf ..)
    exact KeepsWf.refl _

theorem execSwap_wf (m : Nat) (s : State) : ∃ t, execSwap m s = .next t ∧ KeepsWf s t := by
  refine ⟨_, rfl, ?_⟩
  refine State.command_wf ?_ (fun _ => ?_) _ _ _
  · exact KeepsWf.refl _
  · refine KeepsWf.trans ?_ (State.swap_wf ..)
    exact KeepsWf.refl _

theorem execJobBegin_wf (m : Nat) (s : State) : ∃ t, execJobBegin m s = .next t ∧ KeepsWf s t := by
  refine ⟨_, rfl, ?_⟩
  refine State.command_wf ?_ (fun _ => ?_) _ _ _
  · exact KeepsWf.refl _
  · refine KeepsWf.trans ?_ (State.beginCommand_wf ..)
    exact KeepsWf.refl _

theorem execJobEval_wf (m : Nat) (s : State) : ∃ t, execJobEval m s = .next t ∧ KeepsWf s t := by
  refine ⟨_, rfl, ?_⟩
  refine State.command_wf ?_ (fun _ => ?_) _ _ _
  · exact KeepsWf.refl _
  · refine KeepsWf.trans ?_ (State.beginCommand_wf ..)
    exact KeepsWf.refl _

theorem execJobDrain_wf (m : Nat) (s : State) : ∃ t, execJobDrain m s = .next t ∧ KeepsWf s t := by
  refine ⟨_, rfl, ?_⟩
  refine State.command_wf ?_ (fun _ => ?_) _ _ _
  · exact KeepsWf.refl _
  · refine KeepsWf.trans ?_ (State.startDrain_wf ..)
    refine KeepsWf.trans ?_ (KeepsWf.of_changes (State.keepRunning_changes ..) (by decide))
    exact KeepsWf.refl _

theorem execJobSetStep_wf (m : Nat) (s : State) : ∃ t, execJobSetStep m s = .next t ∧ KeepsWf s t := by
  refine ⟨_, rfl, ?_⟩
  refine State.command_wf ?_ (fun _ => ?_) _ _ _
  · exact KeepsWf.refl _
  · refine KeepsWf.trans ?_ (State.ok_wf ..)
    refine KeepsWf.trans ?_ (KeepsWf.of_changes (State.setStep_changes ..) (by decide))
    exact KeepsWf.refl _

theorem execJobMirror_wf (m : Nat) (s : State) : ∃ t, execJobMirror m s = .next t ∧ KeepsWf s t := by
  refine ⟨_, rfl, ?_⟩
  refine State.command_wf ?_ (fun _ => ?_) _ _ _
  · exact KeepsWf.refl _
  · refine KeepsWf.trans ?_ (State.startMirror_wf ..)
    refine KeepsWf.trans ?_ (KeepsWf.of_changes (State.keepRunning_changes ..) (by decide))
    exact KeepsWf.refl _

theorem execJobFail_wf (m : Nat) (s : State) : ∃ t, execJobFail m s = .next t ∧ KeepsWf s t := by
  refine ⟨_, rfl, ?_⟩
  refine State.command_wf ?_ (fun _ => ?_) _ _ _
  · exact KeepsWf.refl _
  · refine KeepsWf.trans ?_ (State.deviceDrain_wf ..)
    refine KeepsWf.trans ?_ (State.jobFail_wf ..)
    exact KeepsWf.refl _

theorem execJobRelease_wf (m : Nat) (s : State) : ∃ t, execJobRelease m s = .next t ∧ KeepsWf s t := by
  refine ⟨_, rfl, ?_⟩
  refine State.command_wf ?_ (fun _ => ?_) _ _ _
  · exact KeepsWf.refl _
  · refine KeepsWf.trans ?_ (State.jobRelease_wf ..)
    exact KeepsWf.refl _

theorem execLoadSprog_wf (m : Nat) (s : State) : ∃ t, execLoadSprog m s = .next t ∧ KeepsWf s t := by
  refine ⟨_, rfl, ?_⟩
  refine State.command_wf ?_ (fun _ => ?_) _ _ _
  · exact KeepsWf.refl _
  · refine KeepsWf.trans ?_ (State.loadSprog_wf ..)
    exact KeepsWf.refl _

theorem execMemWrite_wf (m : Nat) (s : State) : ∃ t, execMemWrite m s = .next t ∧ KeepsWf s t := by
  refine ⟨_, rfl, ?_⟩
  refine State.command_wf ?_ (fun _ => ?_) _ _ _
  · exact KeepsWf.refl _
  · refine KeepsWf.trans ?_ (State.memWrite_wf ..)
    exact KeepsWf.refl _

theorem execMemRead_wf (m : Nat) (s : State) : ∃ t, execMemRead m s = .next t ∧ KeepsWf s t := by
  refine ⟨_, rfl, ?_⟩
  refine State.command_wf ?_ (fun _ => ?_) _ _ _
  · exact KeepsWf.refl _
  · refine KeepsWf.trans ?_ (State.memRead_wf ..)
    exact KeepsWf.refl _

theorem execFabricRead_wf (m : Nat) (s : State) : ∃ t, execFabricRead m s = .next t ∧ KeepsWf s t := by
  refine ⟨_, rfl, ?_⟩
  refine State.command_wf ?_ (fun _ => ?_) _ _ _
  · exact KeepsWf.refl _
  · refine KeepsWf.trans ?_ (KeepsWf.of_changes (State.fabricReadStart_changes ..) (by decide))
    exact KeepsWf.refl _

theorem execDevRun_wf (m : Nat) (s : State) : ∃ t, execDevRun m s = .next t ∧ KeepsWf s t := by
  refine ⟨_, rfl, ?_⟩
  refine State.command_wf ?_ (fun _ => ?_) _ _ _
  · exact KeepsWf.refl _
  · refine KeepsWf.trans ?_ (State.ok_wf ..)
    refine KeepsWf.trans ?_ (KeepsWf.of_changes (State.setDev_changes ..) (by decide))
    exact KeepsWf.refl _

theorem execDevStop_wf (m : Nat) (s : State) : ∃ t, execDevStop m s = .next t ∧ KeepsWf s t := by
  refine ⟨_, rfl, ?_⟩
  refine State.command_wf ?_ (fun _ => ?_) _ _ _
  · exact KeepsWf.refl _
  · refine KeepsWf.trans ?_ (State.stopDevice_wf ..)
    exact KeepsWf.refl _

theorem execBadOpcode_wf (m : Nat) (s : State) : ∃ t, execBadOpcode m s = .next t ∧ KeepsWf s t := by
  refine ⟨_, rfl, ?_⟩
  refine KeepsWf.trans ?_ (State.badOpcode_wf ..)
  exact KeepsWf.refl _

theorem execDoorbellIgnored_wf (m : Nat) (s : State) : ∃ t, execDoorbellIgnored m s = .next t ∧ KeepsWf s t := by
  refine ⟨_, rfl, ?_⟩
  refine KeepsWf.trans ?_ (KeepsWf.of_changes (State.doorbellIgnored_changes ..) (by decide))
  exact KeepsWf.refl _

theorem execSemAdd_wf (u : Nat) (s : State) : ∃ t, execSemAdd u s = .next t ∧ KeepsWf s t := by
  refine ⟨_, rfl, ?_⟩
  refine KeepsWf.trans ?_ (State.receiveSemAdd_wf ..)
  exact KeepsWf.refl _

theorem execSemdataWrite_wf (n : Nat) (w : Word) (s : State) : ∃ t, execSemdataWrite n w s = .next t ∧ KeepsWf s t := by
  refine ⟨_, rfl, ?_⟩
  refine State.onWrite_wf ?_ ?_ _ _
  · exact KeepsWf.refl _
  · refine KeepsWf.trans ?_ (State.writeSemdata_wf ..)
    exact KeepsWf.refl _

theorem execWrite_wf (n : Nat) (s : State) : ∃ t, execWrite n s = .next t ∧ KeepsWf s t := by
  refine ⟨_, rfl, ?_⟩
  refine KeepsWf.trans ?_ (State.inboundWrite_wf ..)
  exact KeepsWf.refl _

theorem execReadReq_wf (n : Nat) (s : State) : ∃ t, execReadReq n s = .next t ∧ KeepsWf s t := by
  refine ⟨_, rfl, ?_⟩
  refine KeepsWf.trans ?_ (KeepsWf.of_changes (State.inboundReadReq_changes ..) (by decide))
  exact KeepsWf.refl _

theorem execPageFetch_wf (n : Nat) (s : State) : ∃ t, execPageFetch n s = .next t ∧ KeepsWf s t := by
  refine ⟨_, rfl, ?_⟩
  refine KeepsWf.trans ?_ (KeepsWf.of_changes (State.servePage_changes ..) (by decide))
  exact KeepsWf.refl _

theorem execPageData_wf (n : Nat) (s : State) : ∃ t, execPageData n s = .next t ∧ KeepsWf s t := by
  refine ⟨_, rfl, ?_⟩
  refine KeepsWf.trans ?_ (State.pageData_wf ..)
  exact KeepsWf.refl _

theorem execPageWb_wf (n : Nat) (s : State) : ∃ t, execPageWb n s = .next t ∧ KeepsWf s t := by
  refine ⟨_, rfl, ?_⟩
  refine KeepsWf.trans ?_ (State.pageWb_wf ..)
  exact KeepsWf.refl _

theorem execPageRelease_wf (n : Nat) (w : Word) (s : State) : ∃ t, execPageRelease n w s = .next t ∧ KeepsWf s t := by
  refine ⟨_, rfl, ?_⟩
  refine State.onWrite_wf ?_ ?_ _ _
  · exact KeepsWf.refl _
  · refine KeepsWf.trans ?_ (State.writePgcmd_wf ..)
    exact KeepsWf.refl _

theorem execReleaseJob_wf (n : Nat) (w : Word) (s : State) : ∃ t, execReleaseJob n w s = .next t ∧ KeepsWf s t := by
  refine ⟨_, rfl, ?_⟩
  refine State.onWrite_wf ?_ ?_ _ _
  · exact KeepsWf.refl _
  · refine KeepsWf.trans ?_ (State.writePgcmd_wf ..)
    exact KeepsWf.refl _

theorem execPagerAbortJob_wf (n : Nat) (w : Word) (s : State) : ∃ t, execPagerAbortJob n w s = .next t
    ∧ KeepsWf s t := by
  refine ⟨_, rfl, ?_⟩
  refine State.onWrite_wf ?_ ?_ _ _
  · exact KeepsWf.refl _
  · refine KeepsWf.trans ?_ (State.writePgcmd_wf ..)
    exact KeepsWf.refl _

theorem execAtuInv_wf (n : Nat) (w : Word) (s : State) : ∃ t, execAtuInv n w s = .next t ∧ KeepsWf s t := by
  refine ⟨_, rfl, ?_⟩
  refine State.onWrite_wf ?_ ?_ _ _
  · exact KeepsWf.refl _
  · refine KeepsWf.trans ?_ (KeepsWf.of_changes (State.writeAtuInv_changes ..) (by decide))
    exact KeepsWf.refl _

theorem execAtuInvComplete_wf (n : Nat) (s : State) : ∃ t, execAtuInvComplete n s = .next t ∧ KeepsWf s t := by
  refine ⟨_, rfl, ?_⟩
  refine KeepsWf.trans ?_ (KeepsWf.of_changes (State.atuInvDone_changes ..) (by decide))
  exact KeepsWf.refl _

theorem execPatrolScrub_wf (n : Nat) (corrected : Nat) (decayed : List (MemSpace × Nat)) (s : State) : ∃ t,
    execPatrolScrub n corrected decayed s = .next t ∧ KeepsWf s t := by
  refine ⟨_, rfl, ?_⟩
  refine KeepsWf.ite ?_ ?_
  · exact KeepsWf.refl _
  · refine KeepsWf.trans ?_ (State.scrub_wf ..)
    exact KeepsWf.refl _

theorem execBpmEnable_wf (w : Word) (s : State) : ∃ t, execBpmEnable w s = .next t ∧ KeepsWf s t := by
  refine ⟨_, rfl, ?_⟩
  refine State.onWrite_wf ?_ ?_ _ _
  · exact KeepsWf.refl _
  · refine KeepsWf.trans ?_ (KeepsWf.of_changes (State.writeBpmCtl_changes ..) (by decide))
    exact KeepsWf.refl _

theorem execBpmAllocate_wf (size : Nat) (s : State) : ∃ t, execBpmAllocate size s = .next t ∧ KeepsWf s t := by
  refine ⟨_, rfl, ?_⟩
  refine State.onWrite_wf ?_ ?_ _ _
  · exact KeepsWf.refl _
  · refine KeepsWf.trans ?_ (KeepsWf.of_changes (State.requestAlloc_changes ..) (by decide))
    exact KeepsWf.refl _

theorem execBpmFree_wf (h : Word) (s : State) : ∃ t, execBpmFree h s = .next t ∧ KeepsWf s t := by
  refine ⟨_, rfl, ?_⟩
  refine State.onWrite_wf ?_ ?_ _ _
  · exact KeepsWf.refl _
  · refine KeepsWf.trans ?_ (KeepsWf.of_changes (State.requestFree_changes ..) (by decide))
    exact KeepsWf.refl _

theorem execMinfreeRead_wf (k : Nat) (s : State) : ∃ t, execMinfreeRead k s = .next t ∧ KeepsWf s t := by
  refine ⟨_, rfl, ?_⟩
  refine State.onRead_wf ?_ ?_ _ _
  · exact KeepsWf.refl _
  · refine KeepsWf.trans ?_ (KeepsWf.of_changes (State.readMinfree_changes ..) (by decide))
    exact KeepsWf.refl _

theorem execTimeSyncSend_wf (n : Nat) (l : Nat) (s : State) : ∃ t, execTimeSyncSend n l s = .next t ∧ KeepsWf s t := by
  refine ⟨_, rfl, ?_⟩
  refine KeepsWf.trans ?_ (KeepsWf.of_changes (State.sendSync_changes ..) (by decide))
  exact KeepsWf.refl _

theorem execTimeEpochSend_wf (n : Nat) (l : Nat) (s : State) : ∃ t, execTimeEpochSend n l s = .next t
    ∧ KeepsWf s t := by
  refine ⟨_, rfl, ?_⟩
  refine KeepsWf.trans ?_ (KeepsWf.of_changes (State.sendEpoch_changes ..) (by decide))
  exact KeepsWf.refl _

theorem execTimeSyncReceive_wf (n : Nat) (l : Nat) (t1 : Nat) (s : State) : ∃ t,
    execTimeSyncReceive n l t1 s = .next t ∧ KeepsWf s t := by
  refine ⟨_, rfl, ?_⟩
  refine KeepsWf.trans ?_ (KeepsWf.of_changes (State.receiveSync_changes ..) (by decide))
  exact KeepsWf.refl _

theorem execTimeEpochReceive_wf (n : Nat) (l : Nat) (hi : Nat) (s : State) : ∃ t,
    execTimeEpochReceive n l hi s = .next t ∧ KeepsWf s t := by
  refine ⟨_, rfl, ?_⟩
  refine KeepsWf.trans ?_ (KeepsWf.of_changes (State.receiveEpoch_changes ..) (by decide))
  exact KeepsWf.refl _

theorem execTimeEchoReceive_wf (n : Nat) (l : Nat) (d : Int) (void : Bool) (t3 : Nat) (s : State) : ∃ t,
    execTimeEchoReceive n l d void t3 s = .next t ∧ KeepsWf s t := by
  refine ⟨_, rfl, ?_⟩
  refine KeepsWf.trans ?_ (KeepsWf.of_changes (State.receiveEcho_changes ..) (by decide))
  exact KeepsWf.refl _

theorem execTimeHoldover_wf (s : State) : ∃ t, execTimeHoldover s = .next t ∧ KeepsWf s t := by
  refine ⟨_, rfl, ?_⟩
  refine KeepsWf.trans ?_ (KeepsWf.of_changes (State.timeSilent_changes ..) (by decide))
  exact KeepsWf.refl _

theorem execTimeLoad_wf (w : Word) (s : State) : ∃ t, execTimeLoad w s = .next t ∧ KeepsWf s t := by
  refine ⟨_, rfl, ?_⟩
  refine State.onWrite_wf ?_ ?_ _ _
  · exact KeepsWf.refl _
  · refine KeepsWf.trans ?_ (KeepsWf.of_changes (State.writeTimeCmd_changes ..) (by decide))
    exact KeepsWf.refl _

theorem execTimeArm_wf (w : Word) (s : State) : ∃ t, execTimeArm w s = .next t ∧ KeepsWf s t := by
  refine ⟨_, rfl, ?_⟩
  refine State.onWrite_wf ?_ ?_ _ _
  · exact KeepsWf.refl _
  · refine KeepsWf.trans ?_ (KeepsWf.of_changes (State.writeTimeCmd_changes ..) (by decide))
    exact KeepsWf.refl _

theorem execFtSyncEdge_wf (ns : Nat) (s : State) : ∃ t, execFtSyncEdge ns s = .next t ∧ KeepsWf s t := by
  refine ⟨_, rfl, ?_⟩
  refine KeepsWf.ite ?_ ?_
  · exact KeepsWf.refl _
  · refine KeepsWf.trans ?_ (State.ftSync_wf ..)
    exact KeepsWf.refl _

theorem execShutterEnable_wf (b : Nat) (w : Word) (s : State) : ∃ t, execShutterEnable b w s = .next t
    ∧ KeepsWf s t := by
  refine ⟨_, rfl, ?_⟩
  refine State.onWrite_wf ?_ ?_ _ _
  · exact KeepsWf.refl _
  · refine KeepsWf.trans ?_ (KeepsWf.of_changes (State.writeShutCfg_changes ..) (by decide))
    exact KeepsWf.refl _

theorem execShutterDisable_wf (b : Nat) (w : Word) (s : State) : ∃ t, execShutterDisable b w s = .next t
    ∧ KeepsWf s t := by
  refine ⟨_, rfl, ?_⟩
  refine State.onWrite_wf ?_ ?_ _ _
  · exact KeepsWf.refl _
  · refine KeepsWf.trans ?_ (KeepsWf.of_changes (State.writeShutCfg_changes ..) (by decide))
    exact KeepsWf.refl _

theorem execLocalArrival_wf (s : State) : ∃ t, execLocalArrival s = .next t ∧ KeepsWf s t := by
  refine ⟨_, rfl, ?_⟩
  refine KeepsWf.trans ?_ (State.localArrival_wf ..)
  exact KeepsWf.refl _

theorem execArriveFlit_wf (n : Nat) (l : Nat) (b : Nat) (gen : Nat) (s : State) : ∃ t,
    execArriveFlit n l b gen s = .next t ∧ KeepsWf s t := by
  refine ⟨_, rfl, ?_⟩
  refine KeepsWf.trans ?_ (State.arriveChild_wf ..)
  exact KeepsWf.refl _

theorem execReleaseFlit_wf (n : Nat) (l : Nat) (b : Nat) (gen : Nat) (ts : Nat) (s : State) : ∃ t,
    execReleaseFlit n l b gen ts s = .next t ∧ KeepsWf s t := by
  refine ⟨_, rfl, ?_⟩
  refine KeepsWf.trans ?_ (State.receiveRelease_wf ..)
  exact KeepsWf.refl _

theorem execShutterRelease_wf (b : Nat) (s : State) : ∃ t, execShutterRelease b s = .next t ∧ KeepsWf s t := by
  refine ⟨_, rfl, ?_⟩
  refine KeepsWf.trans ?_ (State.shutterDue_wf ..)
  exact KeepsWf.refl _

theorem execEngineWrite_wf (e : Nat) (s : State) : ∃ t, execEngineWrite e s = .next t ∧ KeepsWf s t := by
  refine ⟨_, rfl, ?_⟩
  refine State.engineDoes_wf ?_ ?_ _
  · exact KeepsWf.refl _
  · refine KeepsWf.trans ?_ (State.engineWrite_wf ..)
    exact KeepsWf.refl _

theorem execCollAnnReceive_wf (e : Nat) (s : State) : ∃ t, execCollAnnReceive e s = .next t ∧ KeepsWf s t := by
  refine ⟨_, rfl, ?_⟩
  refine State.engineDoes_wf ?_ ?_ _
  · exact KeepsWf.refl _
  · refine KeepsWf.trans ?_ (State.engineAnn_wf ..)
    exact KeepsWf.refl _

theorem execCollDataReceive_wf (e : Nat) (s : State) : ∃ t, execCollDataReceive e s = .next t ∧ KeepsWf s t := by
  refine ⟨_, rfl, ?_⟩
  refine State.engineDoes_wf ?_ ?_ _
  · exact KeepsWf.refl _
  · refine KeepsWf.trans ?_ (State.engineData_wf ..)
    exact KeepsWf.refl _

theorem execHandlerRun_wf (e : Nat) (s : State) : ∃ t, execHandlerRun e s = .next t ∧ KeepsWf s t := by
  refine ⟨_, rfl, ?_⟩
  refine State.engineDoes_wf ?_ ?_ _
  · exact KeepsWf.refl _
  · refine KeepsWf.trans ?_ (State.handlerRun_wf ..)
    exact KeepsWf.refl _

theorem execChunkEmit_wf (e : Nat) (s : State) : ∃ t, execChunkEmit e s = .next t ∧ KeepsWf s t := by
  refine ⟨_, rfl, ?_⟩
  refine State.engineDoes_wf ?_ ?_ _
  · exact KeepsWf.refl _
  · refine KeepsWf.trans ?_ (KeepsWf.of_changes (State.chunkEmit_changes ..) (by decide))
    exact KeepsWf.refl _

theorem execEngineCompleteReceive_wf (e : Nat) (s : State) : ∃ t, execEngineCompleteReceive e s = .next t
    ∧ KeepsWf s t := by
  refine ⟨_, rfl, ?_⟩
  refine State.engineDoes_wf ?_ ?_ _
  · exact KeepsWf.refl _
  · refine KeepsWf.trans ?_ (State.engineComplete_wf ..)
    exact KeepsWf.refl _

theorem execSdJobFail_wf (n : Nat) (w : Word) (s : State) : ∃ t, execSdJobFail n w s = .next t ∧ KeepsWf s t := by
  refine ⟨_, rfl, ?_⟩
  refine State.onWrite_wf ?_ ?_ _ _
  · exact KeepsWf.refl _
  · refine KeepsWf.trans ?_ (State.writeSdJobcmd_wf ..)
    exact KeepsWf.refl _

theorem execSdJobFree_wf (n : Nat) (w : Word) (s : State) : ∃ t, execSdJobFree n w s = .next t ∧ KeepsWf s t := by
  refine ⟨_, rfl, ?_⟩
  refine State.onWrite_wf ?_ ?_ _ _
  · exact KeepsWf.refl _
  · refine KeepsWf.trans ?_ (State.writeSdJobcmd_wf ..)
    exact KeepsWf.refl _

theorem execSdProgWrite_wf (n : Nat) (w : Word) (s : State) : ∃ t, execSdProgWrite n w s = .next t ∧ KeepsWf s t := by
  refine ⟨_, rfl, ?_⟩
  refine State.onWrite_wf ?_ ?_ _ _
  · exact KeepsWf.refl _
  · refine KeepsWf.trans ?_ (State.writeProgcmd_wf ..)
    exact KeepsWf.refl _

theorem execSdProgRead_wf (n : Nat) (w : Word) (s : State) : ∃ t, execSdProgRead n w s = .next t ∧ KeepsWf s t := by
  refine ⟨_, rfl, ?_⟩
  refine State.onWrite_wf ?_ ?_ _ _
  · exact KeepsWf.refl _
  · refine KeepsWf.trans ?_ (State.writeProgcmd_wf ..)
    exact KeepsWf.refl _

theorem execSdCmdataAccess_wf (n : Nat) (write : Bool) (w : Word) (s : State) : ∃ t,
    execSdCmdataAccess n write w s = .next t ∧ KeepsWf s t := by
  refine ⟨_, rfl, ?_⟩
  refine KeepsWf.ite ?_ ?_
  · refine State.onWrite_wf ?_ ?_ _ _
    · exact KeepsWf.refl _
    · refine KeepsWf.trans ?_ (State.accessCmdata_wf ..)
      exact KeepsWf.refl _
  · refine State.onRead_wf ?_ ?_ _ _
    · exact KeepsWf.refl _
    · refine KeepsWf.trans ?_ (State.accessCmdata_wf ..)
      exact KeepsWf.refl _

end Sys2Proof.Machine
end

