-- ==== Sys2Proof/Laws/PerInstr.lean ====
section
/-!
SUPPORT. The laws about commands as syntax, one lemma for each constructor of `Instr`.
-/

open Sys2Proof.Machine

/-- The command's list of parts names neither the queue of those that wait nor the assembly that the device is. -/
def Sys2Proof.Laws.Quiet.Statement (c : Sys2Proof.Instr) : Prop :=
  Field.pending ∉ touches c ∧ Field.variant ∉ touches c

namespace Sys2Proof.Laws.Quiet

/-- The two parts are looked for by evaluation. -/
theorem ofEq {c : Instr} (h : ((touches c).contains .pending || (touches c).contains .variant) = false) :
    Statement c := by
  simpa [Statement] using h

theorem registerWrite (addr width : Nat) (value : Word) : Statement (.registerWrite addr width value) := ofEq rfl
theorem counterLowRead (addr : Nat) : Statement (.counterLowRead addr) := ofEq rfl
theorem minfreeRead (k : Nat) : Statement (.minfreeRead k) := ofEq rfl
theorem xbarEnable (value : Word) : Statement (.xbarEnable value) := ofEq rfl
theorem xbarDisable (value : Word) : Statement (.xbarDisable value) := ofEq rfl
theorem xbarCpminWrite (value : Word) : Statement (.xbarCpminWrite value) := ofEq rfl
theorem mcgWrite (g off : Nat) (value : Word) : Statement (.mcgWrite g off value) := ofEq rfl
theorem cellSend (i : Nat) : Statement (.cellSend i) := ofEq rfl
theorem poolGrant : Statement .poolGrant := ofEq rfl
theorem storedCopyCreditGrant (i g : Nat) : Statement (.storedCopyCreditGrant i g) := ofEq rfl
theorem cellLeave (j : Nat) (bufferUe : Bool) : Statement (.cellLeave j bufferUe) := ofEq rfl
theorem outputDown (j sub : Nat) : Statement (.outputDown j sub) := ofEq rfl
theorem flushDone (j sub : Nat) : Statement (.flushDone j sub) := ofEq rfl
theorem outputUp (j sub : Nat) : Statement (.outputUp j sub) := ofEq rfl
theorem xbarJmapService : Statement .xbarJmapService := ofEq rfl
theorem slotcfgWrite (n k : Nat) (value : Word) : Statement (.slotcfgWrite n k value) := ofEq rfl
theorem flitReceive (n l : Nat) (f : Flit) : Statement (.flitReceive n l f) := ofEq rfl
theorem replayRequest (n l ack : Nat) : Statement (.replayRequest n l ack) := ofEq rfl
theorem ackControlFlit (n l : Nat) : Statement (.ackControlFlit n l) := ofEq rfl
theorem flitTransmit (n l : Nat) : Statement (.flitTransmit n l) := ofEq rfl
theorem packetInject (i : Nat) : Statement (.packetInject i) := ofEq rfl
theorem packetForward (n l vc : Nat) : Statement (.packetForward n l vc) := ofEq rfl
theorem packetDeliver (n l vc : Nat) : Statement (.packetDeliver n l vc) := ofEq rfl
theorem throttleLevelUpdate (n l tc : Nat) : Statement (.throttleLevelUpdate n l tc) := ofEq rfl
theorem trackerCount : Statement .trackerCount := ofEq rfl
theorem complete : Statement .complete := ofEq rfl
theorem messageSlotGrant (dev : Nat) : Statement (.messageSlotGrant dev) := ofEq rfl
theorem tblcmdWrite (n : Nat) (value : Word) : Statement (.tblcmdWrite n value) := ofEq rfl
theorem tblcmdRead (n : Nat) (value : Word) : Statement (.tblcmdRead n value) := ofEq rfl
theorem linkUpReq (n l : Nat) (value : Word) : Statement (.linkUpReq n l value) := ofEq rfl
theorem linkDownReq (n l : Nat) (value : Word) : Statement (.linkDownReq n l value) := ofEq rfl
theorem trainingComplete (n l peerDev peerLane : Nat) : Statement (.trainingComplete n l peerDev peerLane) := ofEq rfl
theorem retrainTrigger (n l : Nat) : Statement (.retrainTrigger n l) := ofEq rfl
theorem retrainComplete (n l : Nat) : Statement (.retrainComplete n l) := ofEq rfl
theorem retrainTimeout (n l : Nat) : Statement (.retrainTimeout n l) := ofEq rfl
theorem portJmapService (n : Nat) : Statement (.portJmapService n) := ofEq rfl
theorem egressCellTake (j sub : Nat) : Statement (.egressCellTake j sub) := ofEq rfl
theorem ethUpReq (n l : Nat) (value : Word) : Statement (.ethUpReq n l value) := ofEq rfl
theorem ethDownReq (n l : Nat) (value : Word) : Statement (.ethDownReq n l value) := ofEq rfl
theorem ethTrainingComplete (n l : Nat) : Statement (.ethTrainingComplete n l) := ofEq rfl
theorem ethLinkFault (n l : Nat) : Statement (.ethLinkFault n l) := ofEq rfl
theorem ethFaultSequenceTimeout (n l : Nat) : Statement (.ethFaultSequenceTimeout n l) := ofEq rfl
theorem frameReceive (n l : Nat) (frame : List Byte) : Statement (.frameReceive n l frame) := ofEq rfl
theorem responseTransmit (n l : Nat) : Statement (.responseTransmit n l) := ofEq rfl
theorem egressSelect (n l : Nat) : Statement (.egressSelect n l) := ofEq rfl
theorem bucketRefresh (n : Nat) : Statement (.bucketRefresh n) := ofEq rfl
theorem telemetrySample (n : Nat) : Statement (.telemetrySample n) := ofEq rfl
theorem ringRecordWrite (n : Nat) : Statement (.ringRecordWrite n) := ofEq rfl
theorem histselWrite (n : Nat) (value : Word) : Statement (.histselWrite n value) := ofEq rfl
theorem histclr (n : Nat) (value : Word) : Statement (.histclr n value) := ofEq rfl
theorem engineWrite (e : Nat) : Statement (.engineWrite e) := ofEq rfl
theorem collAnnReceive (e : Nat) : Statement (.collAnnReceive e) := ofEq rfl
theorem collDataReceive (e : Nat) : Statement (.collDataReceive e) := ofEq rfl
theorem handlerRun (e : Nat) : Statement (.handlerRun e) := ofEq rfl
theorem chunkEmit (e : Nat) : Statement (.chunkEmit e) := ofEq rfl
theorem engineCompleteReceive (e : Nat) : Statement (.engineCompleteReceive e) := ofEq rfl
theorem sdJobFail (n : Nat) (value : Word) : Statement (.sdJobFail n value) := ofEq rfl
theorem sdJobFree (n : Nat) (value : Word) : Statement (.sdJobFree n value) := ofEq rfl
theorem sdProgWrite (n : Nat) (value : Word) : Statement (.sdProgWrite n value) := ofEq rfl
theorem sdProgRead (n : Nat) (value : Word) : Statement (.sdProgRead n value) := ofEq rfl
theorem sdCmdataAccess (n : Nat) (write : Bool) (value : Word) : Statement (.sdCmdataAccess n write value) := ofEq rfl
theorem collAccept (u : Nat) : Statement (.collAccept u) := ofEq rfl
theorem collControlAnnounce (n : Nat) : Statement (.collControlAnnounce n) := ofEq rfl
theorem collAnnounceReceive (n : Nat) : Statement (.collAnnounceReceive n) := ofEq rfl
theorem collRelease (n : Nat) : Statement (.collRelease n) := ofEq rfl
theorem collChunkSend (n : Nat) : Statement (.collChunkSend n) := ofEq rfl
theorem landingChunk (n : Nat) : Statement (.landingChunk n) := ofEq rfl
theorem collDoneSend (n : Nat) : Statement (.collDoneSend n) := ofEq rfl
theorem collDoneResult (n : Nat) : Statement (.collDoneResult n) := ofEq rfl
theorem collJobAbort (n : Nat) (value : Word) : Statement (.collJobAbort n value) := ofEq rfl
theorem coreStart (u : Nat) (value : Word) : Statement (.coreStart u value) := ofEq rfl
theorem coreStop (u : Nat) (value : Word) : Statement (.coreStop u value) := ofEq rfl
theorem coreClear (u : Nat) (value : Word) : Statement (.coreClear u value) := ofEq rfl
theorem xcwDispatch (u cycles : Nat) : Statement (.xcwDispatch u cycles) := ofEq rfl
theorem haltHoldEnd (u : Nat) : Statement (.haltHoldEnd u) := ofEq rfl
theorem mma (u : Nat) : Statement (.mma u) := ofEq rfl
theorem mms (u : Nat) : Statement (.mms u) := ofEq rfl
theorem close (u : Nat) : Statement (.close u) := ofEq rfl
theorem vecAdd (u : Nat) : Statement (.vecAdd u) := ofEq rfl
theorem vecSub (u : Nat) : Statement (.vecSub u) := ofEq rfl
theorem vecMul (u : Nat) : Statement (.vecMul u) := ofEq rfl
theorem div (u : Nat) : Statement (.div u) := ofEq rfl
theorem vecMin (u : Nat) : Statement (.vecMin u) := ofEq rfl
theorem vecMax (u : Nat) : Statement (.vecMax u) := ofEq rfl
theorem abs (u : Nat) : Statement (.abs u) := ofEq rfl
theorem sqrt (u : Nat) : Statement (.sqrt u) := ofEq rfl
theorem rcp (u : Nat) : Statement (.rcp u) := ofEq rfl
theorem exp2 (u : Nat) : Statement (.exp2 u) := ofEq rfl
theorem log2 (u : Nat) : Statement (.log2 u) := ofEq rfl
theorem cvt (u : Nat) : Statement (.cvt u) := ofEq rfl
theorem sum (u : Nat) : Statement (.sum u) := ofEq rfl
theorem sumsq (u : Nat) : Statement (.sumsq u) := ofEq rfl
theorem meanvar (u : Nat) : Statement (.meanvar u) := ofEq rfl
theorem amax (u : Nat) : Statement (.amax u) := ofEq rfl
theorem opt (u : Nat) : Statement (.opt u) := ofEq rfl
theorem thin (u : Nat) : Statement (.thin u) := ofEq rfl
theorem drain (u : Nat) : Statement (.drain u) := ofEq rfl
theorem mov (u : Nat) : Statement (.mov u) := ofEq rfl
theorem fill (u : Nat) : Statement (.fill u) := ofEq rfl
theorem dmaGet (u eng : Nat) : Statement (.dmaGet u eng) := ofEq rfl
theorem dmaPut (u eng : Nat) : Statement (.dmaPut u eng) := ofEq rfl
theorem dmaSend (u eng : Nat) : Statement (.dmaSend u eng) := ofEq rfl
theorem dmaSignal (u eng : Nat) : Statement (.dmaSignal u eng) := ofEq rfl
theorem dmaComplete (u eng : Nat) : Statement (.dmaComplete u eng) := ofEq rfl
theorem semAdd (u : Nat) : Statement (.semAdd u) := ofEq rfl
theorem semdataWrite (n : Nat) (value : Word) : Statement (.semdataWrite n value) := ofEq rfl
theorem write (n : Nat) : Statement (.write n) := ofEq rfl
theorem readReq (n : Nat) : Statement (.readReq n) := ofEq rfl
theorem readRsp : Statement .readRsp := ofEq rfl
theorem pageFetch (n : Nat) : Statement (.pageFetch n) := ofEq rfl
theorem pageData (n : Nat) : Statement (.pageData n) := ofEq rfl
theorem pageWb (n : Nat) : Statement (.pageWb n) := ofEq rfl
theorem pageRelease (n : Nat) (value : Word) : Statement (.pageRelease n value) := ofEq rfl
theorem releaseJob (n : Nat) (value : Word) : Statement (.releaseJob n value) := ofEq rfl
theorem pagerAbortJob (n : Nat) (value : Word) : Statement (.pagerAbortJob n value) := ofEq rfl
theorem atuInv (n : Nat) (value : Word) : Statement (.atuInv n value) := ofEq rfl
theorem atuInvComplete (n : Nat) : Statement (.atuInvComplete n) := ofEq rfl
theorem patrolScrub (n corrected : Nat) (decayed : List (MemSpace × Nat)) :
    Statement (.patrolScrub n corrected decayed) := ofEq rfl
theorem bpmEnable (value : Word) : Statement (.bpmEnable value) := ofEq rfl
theorem bpmAllocate (size : Nat) : Statement (.bpmAllocate size) := ofEq rfl
theorem bpmFree (handle : Word) : Statement (.bpmFree handle) := ofEq rfl
theorem timeSyncSend (n l : Nat) : Statement (.timeSyncSend n l) := ofEq rfl
theorem timeEpochSend (n l : Nat) : Statement (.timeEpochSend n l) := ofEq rfl
theorem timeSyncReceive (n l t1 : Nat) : Statement (.timeSyncReceive n l t1) := ofEq rfl
theorem timeEpochReceive (n l hi : Nat) : Statement (.timeEpochReceive n l hi) := ofEq rfl
theorem timeEchoReceive (n l : Nat) (d : Int) (void : Bool) (t3 : Nat) :
    Statement (.timeEchoReceive n l d void t3) := ofEq rfl
theorem timeHoldover : Statement .timeHoldover := ofEq rfl
theorem timeLoad (value : Word) : Statement (.timeLoad value) := ofEq rfl
theorem timeArm (value : Word) : Statement (.timeArm value) := ofEq rfl
theorem ftSyncEdge (nsSinceLast : Nat) : Statement (.ftSyncEdge nsSinceLast) := ofEq rfl
theorem shutterEnable (b : Nat) (value : Word) : Statement (.shutterEnable b value) := ofEq rfl
theorem shutterDisable (b : Nat) (value : Word) : Statement (.shutterDisable b value) := ofEq rfl
theorem localArrival : Statement .localArrival := ofEq rfl
theorem arriveFlit (n l b gen : Nat) : Statement (.arriveFlit n l b gen) := ofEq rfl
theorem releaseFlit (n l b gen t : Nat) : Statement (.releaseFlit n l b gen t) := ofEq rfl
theorem shutterRelease (b : Nat) : Statement (.shutterRelease b) := ofEq rfl
theorem jobFaultService : Statement .jobFaultService := ofEq rfl
theorem jobFaultNotice : Statement .jobFaultNotice := ofEq rfl
theorem ballotReceive : Statement .ballotReceive := ofEq rfl
theorem requestDescriptor : Statement .requestDescriptor := ofEq rfl
theorem requestAgeDrop (model : Nat) : Statement (.requestAgeDrop model) := ofEq rfl
theorem modelWaitExpiry (model : Nat) : Statement (.modelWaitExpiry model) := ofEq rfl
theorem dispatch : Statement .dispatch := ofEq rfl
theorem switchHalted (g : Nat) : Statement (.switchHalted g) := ofEq rfl
theorem batchCompletion : Statement .batchCompletion := ofEq rfl
theorem getInfo (m : Nat) : Statement (.getInfo m) := ofEq rfl
theorem getFault (m : Nat) : Statement (.getFault m) := ofEq rfl
theorem setContact (m : Nat) : Statement (.setContact m) := ofEq rfl
theorem setPower (m : Nat) : Statement (.setPower m) := ofEq rfl
theorem loadImage (m : Nat) : Statement (.loadImage m) := ofEq rfl
theorem getMeasure (m : Nat) : Statement (.getMeasure m) := ofEq rfl
theorem getAttest (m : Nat) : Statement (.getAttest m) := ofEq rfl
theorem selfTest (m : Nat) : Statement (.selfTest m) := ofEq rfl
theorem selfTestComplete (failed : Nat) (tileDies portDies streamDies : Nat) (xbarFailed : Bool) :
    Statement (.selfTestComplete failed tileDies portDies streamDies xbarFailed) := ofEq rfl
theorem linkTest (m : Nat) : Statement (.linkTest m) := ofEq rfl
theorem linkTestComplete : Statement .linkTestComplete := ofEq rfl
theorem voteRoster (m : Nat) : Statement (.voteRoster m) := ofEq rfl
theorem voteBallot (m : Nat) : Statement (.voteBallot m) := ofEq rfl
theorem cfgWrite (m : Nat) : Statement (.cfgWrite m) := ofEq rfl
theorem cfgRead (m : Nat) : Statement (.cfgRead m) := ofEq rfl
theorem cfgCopy (m : Nat) : Statement (.cfgCopy m) := ofEq rfl
theorem swap (m : Nat) : Statement (.swap m) := ofEq rfl
theorem jobBegin (m : Nat) : Statement (.jobBegin m) := ofEq rfl
theorem jobEval (m : Nat) : Statement (.jobEval m) := ofEq rfl
theorem jobDrain (m : Nat) : Statement (.jobDrain m) := ofEq rfl
theorem drainLimitExpiry (slot : Nat) : Statement (.drainLimitExpiry slot) := ofEq rfl
theorem drainComplete (slot : Nat) : Statement (.drainComplete slot) := ofEq rfl
theorem jobSetStep (m : Nat) : Statement (.jobSetStep m) := ofEq rfl
theorem jobMirror (m : Nat) : Statement (.jobMirror m) := ofEq rfl
theorem mirrorComplete (slot : Nat) : Statement (.mirrorComplete slot) := ofEq rfl
theorem jobFail (m : Nat) : Statement (.jobFail m) := ofEq rfl
theorem jobRelease (m : Nat) : Statement (.jobRelease m) := ofEq rfl
theorem loadSprog (m : Nat) : Statement (.loadSprog m) := ofEq rfl
theorem memWrite (m : Nat) : Statement (.memWrite m) := ofEq rfl
theorem memRead (m : Nat) : Statement (.memRead m) := ofEq rfl
theorem fabricRead (m : Nat) : Statement (.fabricRead m) := ofEq rfl
theorem fabricReadTimeout : Statement .fabricReadTimeout := ofEq rfl
theorem devRun (m : Nat) : Statement (.devRun m) := ofEq rfl
theorem devStop (m : Nat) : Statement (.devStop m) := ofEq rfl
theorem devRstctl (value : Word) : Statement (.devRstctl value) := ofEq rfl
theorem contactSheetRefresh : Statement .contactSheetRefresh := ofEq rfl
theorem heartbeat : Statement .heartbeat := ofEq rfl
theorem watchdogExpiry : Statement .watchdogExpiry := ofEq rfl
theorem deviceFault (source die : Nat) : Statement (.deviceFault source die) := ofEq rfl
theorem pcieLinkReset : Statement .pcieLinkReset := ofEq rfl
theorem i3cTelemetryRefresh : Statement .i3cTelemetryRefresh := ofEq rfl
theorem i3cPrivateWrite (offset : Nat) : Statement (.i3cPrivateWrite offset) := ofEq rfl
theorem i3cPrivateRead (count : Nat) : Statement (.i3cPrivateRead count) := ofEq rfl
theorem entdaa (addr : Nat) : Statement (.entdaa addr) := ofEq rfl
theorem setdasa (addr : Nat) : Statement (.setdasa addr) := ofEq rfl
theorem rstdaa : Statement .rstdaa := ofEq rfl
theorem getpid : Statement .getpid := ofEq rfl
theorem getbcr : Statement .getbcr := ofEq rfl
theorem getdcr : Statement .getdcr := ofEq rfl
theorem getstatus : Statement .getstatus := ofEq rfl
theorem getmwl : Statement .getmwl := ofEq rfl
theorem getmrl : Statement .getmrl := ofEq rfl
theorem enec (events : Nat) : Statement (.enec events) := ofEq rfl
theorem disec (events : Nat) : Statement (.disec events) := ofEq rfl
theorem bypass (opcode : Nat) : Statement (.bypass opcode) := ofEq rfl
theorem idcode : Statement .idcode := ofEq rfl
theorem samplePreload : Statement .samplePreload := ofEq rfl
theorem extest : Statement .extest := ofEq rfl
theorem extestPulse : Statement .extestPulse := ofEq rfl
theorem extestTrain : Statement .extestTrain := ofEq rfl
theorem highz : Statement .highz := ofEq rfl
theorem clamp : Statement .clamp := ofEq rfl
theorem fullReset (pulse : LowPulse) : Statement (.fullReset pulse) := ofEq rfl
theorem railUndervoltage (lowNs : Nat) : Statement (.railUndervoltage lowNs) := ofEq rfl
theorem resetRelease (bootMode : Nat) (helper : List Byte) : Statement (.resetRelease bootMode helper) := ofEq rfl
theorem imageCheckComplete (sfdpOk : Bool) (image : List Byte) :
    Statement (.imageCheckComplete sfdpOk image) := ofEq rfl
theorem identityKeyReady : Statement .identityKeyReady := ofEq rfl
theorem hyzaciaFirstAnswer : Statement .hyzaciaFirstAnswer := ofEq rfl
theorem powerMeasure (watts : Nat) : Statement (.powerMeasure watts) := ofEq rfl
theorem throttleStep (temp16 : Int) : Statement (.throttleStep temp16) := ofEq rfl
theorem thermalClamp (temp16 : Int) : Statement (.thermalClamp temp16) := ofEq rfl
theorem thermalClampRelease (temp16 : Int) : Statement (.thermalClampRelease temp16) := ofEq rfl
theorem thermTrip (temp16 : Int) : Statement (.thermTrip temp16) := ofEq rfl
theorem pwrOkRising (i3cId : Nat) : Statement (.pwrOkRising i3cId) := ofEq rfl
theorem badOpcode (m : Nat) : Statement (.badOpcode m) := ofEq rfl
theorem doorbellIgnored (m : Nat) : Statement (.doorbellIgnored m) := ofEq rfl

end Sys2Proof.Laws.Quiet
end

