-- ==== Sys2Proof/Laws/Replica.lean ====
section
/-!
SUPPORT. A die's replica of fabric time (spec/01_organisation.md, R21): within 5 ticks of the counter, and never decreasing.
-/

namespace Sys2Proof.Machine

theorem le_foldl_max (l : List Nat) (m : Nat) : m ≤ l.foldl max m ∧ ∀ x ∈ l, x ≤ l.foldl max m := by
  induction l generalizing m with
  | nil => simp
  | cons a l ih =>
    have h := ih (max m a)
    refine ⟨Nat.le_trans (Nat.le_max_left ..) h.1, fun x hx => ?_⟩
    rcases List.mem_cons.mp hx with rfl | hx
    · exact Nat.le_trans (Nat.le_max_right ..) h.1
    · exact h.2 x hx

theorem foldl_max_le {l : List Nat} {m b : Nat} (h : m ≤ b) (k : ∀ x ∈ l, x ≤ b) : l.foldl max m ≤ b := by
  induction l generalizing m with
  | nil => exact h
  | cons a l ih => exact ih (Nat.max_le.mpr ⟨h, k a (by simp)⟩) fun x hx => k x (by simp [hx])

theorem skewed_near (die now : Nat) : now ≤ skewed die now + 5 ∧ skewed die now ≤ now + 5 := by
  unfold skewed
  have := Nat.mod_lt (Config.replicaSkew die now) (show 0 < 11 by decide)
  omega

/-- R21: the bound of the fabric time unit. -/
theorem replicaAt_near (die now : Nat) : now ≤ replicaAt die now + 5 ∧ replicaAt die now ≤ now + 5 := by
  constructor
  · have h := (le_foldl_max ((List.range 11).map fun k => skewed die (now - k)) 0).2 (skewed die now)
      (List.mem_map.mpr ⟨0, by simp, rfl⟩)
    have := (skewed_near die now).1
    unfold replicaAt
    omega
  · refine foldl_max_le (by omega) fun x hx => ?_
    obtain ⟨k, -, rfl⟩ := List.mem_map.mp hx
    have := (skewed_near die (now - k)).2
    omega

theorem replicaAt_le_succ (die now : Nat) : replicaAt die now ≤ replicaAt die (now + 1) := by
  refine foldl_max_le (by omega) fun x hx => ?_
  obtain ⟨k, hk, rfl⟩ := List.mem_map.mp hx
  have hk := List.mem_range.mp hk
  by_cases h : k = 10
  · have a := (skewed_near die (now - k)).2
    have b := (replicaAt_near die (now + 1)).1
    by_cases c : now < 10
    · have e : now - k = now + 1 - 10 := by omega
      rw [e]
      exact (le_foldl_max _ 0).2 _ (List.mem_map.mpr ⟨10, by simp, rfl⟩)
    · omega
  · have e : now - k = now + 1 - (k + 1) := by omega
    rw [e]
    exact (le_foldl_max _ 0).2 _ (List.mem_map.mpr ⟨k + 1, by simp; omega, rfl⟩)

/-- R21: successive reads of one die never decrease. -/
theorem replicaAt_mono (die : Nat) {a b : Nat} (h : a ≤ b) : replicaAt die a ≤ replicaAt die b := by
  induction h with
  | refl => exact Nat.le_refl _
  | step _ ih => exact Nat.le_trans ih (replicaAt_le_succ die _)

end Sys2Proof.Machine
end

