-- ==== Sys2Proof/Laws/Step.lean ====
section
/-!
SUPPORT. What each operation of Machine/Step.lean may change (`_changes`), and that those which write a memory keep its
canonical form (`_wf`).
-/

namespace Sys2Proof.Machine

theorem State.withFetchWord_changes (s : State) (nbits : Nat) (w : Nat) :
    Changes [.pending] s (State.withFetchWord s nbits w) := by
  unfold State.withFetchWord
  split
  · refine Changes.step ?_ Changes.pending (by decide)
    exact Changes.refl _ _
  · exact Changes.refl _ _

end Sys2Proof.Machine
end

