-- ==== Sys2Proof/Tests/Slice0.lean ====
section
/-!
SUPPORT. Tests. A witness shows a concrete state and operands that meet the hypotheses of a statement together; a test of
well-formedness shows an ill-formed command that the check refuses; the other tests take their expected values from spec/.
-/

open Sys2Proof Sys2Proof.Machine

namespace Sys2Proof.Tests

set_option Elab.async false


/-! ### States for the witnesses -/

/-- The reset state with another device state. -/
def at_ (d : DevState) : State := { State.reset with dev := d }
def run0 : State := at_ .running

/-- A command with its argument bytes in mailbox 0, its doorbell rung. -/
def ask (op : Nat) (args : List Byte) (s : State) : State :=
  { s with mbx := wrBytes s.mbx (mbxAddr 0 0) (leBytes 2 op ++ zeros 2 ++ leBytes 4 args.length ++ zeros 8 ++ args)
           regs := (s.setReg R.devMbxBusy 1).regs, mgmt := { s.mgmt with doorbells := [0] } }

/-- Slot 0 of port die 0 in fabric mode, and in Ethernet mode. -/
def fab (s : State) : State := s.setReg (R.portSlotcfg 0 0) 0
def ethm (s : State) : State := s.setReg (R.portSlotcfg 0 0) 0x10

/-- The state that a command answers. -/
def after (c : Instr) (s : State) : State :=
  match exec c s with
  | .next t => t
  | _ => s

/-- Job 5 in slot 0 with 1,024 ranks, four to a device; endpoints 0 a core, 1 a stream engine, 2 the management die; a
route to device 1 over slot 0 of port die 0. -/
def tables : CfgSet :=
  ((((CfgSet.empty.setEntry 1 0 0 [0x80000005, 1024]).setEntry 2 0 0 [0x80400000]).setEntry 3 0 0 [0x80000000]).setEntry 3 0 1
    [0x80001000]).setEntry 3 0 2 [0x80002000] |>.setEntry 0 0 1 [0x80000001]

/-- A running device with its crossbar on, its tables in place and the subport of lane 0 up. -/
def world : State :=
  (after (.xbarEnable 1) (fab { run0 with active := tables })).setLink 0 0 { Link.reset with st := .up }

/-- Job 5 in slot 0 in a given state. -/
def jobs (st : JobState) (s : State) : State := s.setJob 0 { Job.reset with st := st, job := 5 }

def pkt (op : Nat) (data : List Byte) : Packet :=
  { hdr := PktHdr.zero op, vc := (opVc op).getD 0, tc := 0, job := 5, tag := 0, abt := false, data := data }

/-- A packet delivered to a unit of a slot. -/
def arrives (slot unit : Nat) (p : Packet) (s : State) : State :=
  { s with inbox := [{ slot := slot, sub := 0, mcast := false, unit := unit, ep := 0, pkt := p, src := 0, at_ := 0 }] }

/-- Page tables at DPA 0, 0x1000 and 0x2000: the leaf of va 0 of job slot 0. -/
def mapped (leaf : Nat) (s : State) : State :=
  { s.setReg (R.tdAtuRootLo 0 0) 1 with
    dpa := wrBytes (wrBytes (wrBytes s.dpa 0 (leBytes 8 (2 ^ 63 + 0x1000))) 0x1000 (leBytes 8 (2 ^ 63 + 0x2000))) 0x2000
             (leBytes 8 leaf) }

/-- A packet from slot `src` to endpoint `ep` of device `dev`, waiting in its attachment. -/
def sends (src dev ep op : Nat) (data : List Byte) (s : State) : State :=
  let p := pkt op data
  { s with attach := [{ src := src, msg := none, xlate := none, sig := none,
                        pkt := { p with hdr := { p.hdr with dstDev := dev, dstEp := ep } } }] }

/-- A packet of one cell from the management die toward device 1, at its input and at its crosspoint. -/
def atInput (op : Nat) : State := after (.packetInject 84) (sends 84 1 0 op [1, 2] world)
def atXpoint (op : Nat) : State := after (.cellSend 84) (atInput op)

/-- An I32 descriptor of job 5 with two chunks of one element and one input, sent on to device 1. -/
def desc (digest : List Byte) : List Byte :=
  leBytes 2 5 ++ leBytes 2 0 ++ [2, 0, 1, 0] ++ leBytes 4 9 ++ leBytes 4 2 ++ leBytes 2 1 ++ leBytes 2 1 ++ leBytes 2 1 ++ leBytes 2 1
    ++ zeros 8 ++ digest ++ zeros 80

/-- A packet delivered to engine 31. -/
def toEngine (p : Packet) (s : State) : State :=
  { s with inbox := [{ slot := s.engineSlot 31, sub := 1, mcast := false, unit := 31, ep := 1, pkt := p, src := 0, at_ := 0 }] }

/-- A packet with a chunk header for context 4095. -/
def chunk (op n : Nat) (body : List Byte) : Packet :=
  pkt op (chunkData { ctx := 4095, inIdx := 0, last := false, mm := false, flags := 0, wtype := 3, seq := 9, chunk := n, elems := 1,
                      crc := 0 } body)

/-- Context 4095 with that descriptor. -/
def withCtx (st : CtxState) (digest : List Byte) (s : State) : State :=
  s.setCtx 4095 { Ctx.reset with st := st, job := 5, seq := 9, desc := some (parseDesc (desc digest)) }

/-- A local page of two MiB at DPA 0x200000, which may be written. -/
def localPage (s : State) : State := mapped 0xA000000000200000 s

/-- An ALL_REDUCE of one F32 element over one tree, sequence number 9 of job 5; its plan at va 0x1000, its semaphores 1 and
2, its record at 0x100. -/
def collBytes : List Byte :=
  [1, 0, 2, 0, 0, 0] ++ leBytes 2 1 ++ leBytes 4 9 ++ leBytes 2 5 ++ leBytes 2 1 ++ zeros 16
    ++ (leBytes 4 1 ++ leBytes 4 1 ++ leBytes 4 1 ++ leBytes 4 1) ++ zeros 32 ++ leBytes 8 0x2000 ++ zeros 8 ++ leBytes 4 1
    ++ leBytes 2 1 ++ leBytes 2 0x8002 ++ leBytes 8 0 ++ leBytes 8 0x1000 ++ leBytes 4 0x100 ++ leBytes 4 0

/-- Its plan for a lead with one local member. -/
def planBytes : List Byte :=
  leBytes 4 0 ++ leBytes 2 0 ++ [1, 1] ++ zeros 8 ++ leBytes 8 (2 ^ 63) ++ leBytes 8 (2 ^ 63) ++ leBytes 8 (2 ^ 63) ++ leBytes 8 0

def coll (ph : CollPhase) (streams : List CollStream) (landed : SMap Nat) : Coll :=
  { id := 1, n := 0, core := 0, slot := 0, job := 5, desc := parseColl collBytes, plan := parsePlan 1 false planBytes, phase := ph,
    mm := false, annOutst := 0, annSent := false, trees := [0], streams := streams, landed := landed, doneWord := 0,
    doneSent := false, total := 0 }

/-- A packet of that collective for core 0. -/
def toColl (op seq : Nat) (last : Bool) (body : List Byte) (s : State) : State :=
  let p := pkt op (chunkData { ctx := 0, inIdx := 0, last := last, mm := false, flags := 0, wtype := 0, seq := seq, chunk := 0,
                               elems := 1, crc := 0 } body)
  arrives (s.tileSlot 0) 0 p s

/-- A core about to dispatch word 1 of its program. -/
def fetching (w : Nat) (k : Core) (s : State) : State :=
  { s with ls := wrBytes s.ls (lsAt 79 64) (leBytes 64 w) }.setCore 79 { k with st := .running, pc := 1, hdrPc := 0, count := 4 }

/-- A DMA descriptor for core 79 at the head of DQ1. -/
def dma (b : List Byte) (s : State) : State :=
  { s with ls := wrBytes s.ls (lsAt 79 0) b }.setCore 79 { Core.reset with dq1 := [⟨0x2000000000000000, 1, 1, 1, 0⟩] }

/-! ### The whole machine and the registers -/

theorem witness_stepRunsTheFrontCommand : ({ State.reset with pending := [.heartbeat] } : State).pending = [.heartbeat] := rfl

theorem witness_emptyQueuePassesOneTick :
    let s : State := { State.reset with time := { State.reset.time with loaded := true } }
    State.reset.pending = [] ∧ State.reset.time.loaded = false
      ∧ (s.pending = [] ∧ s.time.loaded = true ∧ s.time.hold = 0 ∧ s.time.trim = 0 ∧ s.time.phase = 0
        ∧ -2 < s.time.adjust ∧ s.time.adjust < 2)
      ∧ 0 < ({ s with time := { s.time with hold := 1 } } : State).time.hold
      ∧ (let t := (s.setCore 0 { Core.reset with st := .running }).setCore 79 { Core.reset with st := .halted }
         t.pending = [] ∧ ∀ e ∈ t.cores, (t.core e.1).st = .running ∨ (t.core e.1).st = .waiting
          ∨ (t.qempty e.1 = true ∧ (t.core e.1).fault = none)) := by decide +kernel

theorem witness_stepKeepsMemoriesCanonical : State.reset.memoriesWf = true ∧ State.reset.pending = [] := by decide +kernel

theorem witness_registersStore :
    run0.dev ≠ .off ∧ run0.dev ≠ .rom ∧ 7 < 8 ∧ 7 < run0.ports ∧ 23 < 24 ∧ 19 < run0.tiles
      ∧ run0.hasCore 79 = true := by decide +kernel

theorem witness_registersNobody :
    run0.ports ≤ 15 ∧ 0x1000000 + 15 * 0x40000 ≤ 0x13FFFFC ∧ 0x13FFFFC < 0x1000000 + 16 * 0x40000
      ∧ run0.tiles ≤ 20 ∧ 0x3000000 + 20 * 0x100000 ≤ 0x4400000 ∧ 0x4400000 < 0x3000000 + 21 * 0x100000 := by decide +kernel

theorem witness_registersNoWindow : (0x4800000 ≤ 0x7FFFFFC ∧ 0x7FFFFFC < 0x8000000) ∧ run0.dev ≠ .off
    ∧ (0x7FFFFFD < 0x8000000 ∧ 0x7FFFFFD % 4 ≠ 0) := by decide

theorem witness_registersCounter :
    ∃ w c, windowOf 0x20010 = some (w, 0x10) ∧ run0.answers w = true ∧ run0.counterAt 0x20010 = some c :=
  ⟨_, _, rfl, rfl, rfl⟩

/-! ### Well-formed commands -/

theorem slice_left (a b : List Byte) (o n : Nat) (h : o + n ≤ a.length) : slice (a ++ b) o n = slice a o n := by
  simp only [slice]
  rw [List.drop_append_of_le_length (by omega), List.take_append_of_le_length (by simp; omega)]

theorem slice_right (a b : List Byte) (o n : Nat) (h : a.length ≤ o) : slice (a ++ b) o n = slice b (o - a.length) n := by
  simp only [slice, List.drop_append, List.drop_eq_nil_of_le h, List.nil_append]

theorem slice_whole (a : List Byte) : slice a 0 a.length = a := by simp [slice]

/-! ### Management: JTAG, I3C, reset, power, mailboxes -/

theorem witness_i3c : run0.dev ≠ .off ∧ run0.i3c.dynAddr = none ∧ run0.i3c.block.length = 64 := by decide +kernel

theorem witness_fullReset : run0.dev ≠ .off ∧ run0.power.pwrOk = true ∧ run0.mgmt.rstArmed = false
    ∧ ({ run0 with mgmt := { run0.mgmt with rstArmed := true } } : State).mgmt.rstArmed = true ∧ (at_ .off).dev = .off
    ∧ (at_ .off).power.pwrOk = true ∧ (16 * 110 : Int) ≤ 1760
    ∧ ({ at_ .off with power := { run0.power with tripped := true } } : State).power.tripped = true := by decide +kernel

/-- The device in ROM while its image in flash is checked. -/
def flash : State := { State.reset with sec := { State.reset.sec with phase := .flash } }

theorem witness_boot : (at_ .off).dev = .off ∧ (at_ .off).power.pwrOk = true ∧ (at_ .off).power.tripped = false
    ∧ (flash.dev = .rom ∧ flash.sec.phase = .flash ∧ flash.imageCheck [] ≠ 0)
    ∧ ({ flash with sec := { flash.sec with phase := .started } } : State).sec.phase = .started := by decide +kernel

/-- The signed part of an image whose body is 64 zero bytes, and the image. -/
def imageHead : List Byte :=
  leBytes 4 0x48595A49 ++ [1, 0, 0, 7] ++ leBytes 4 64 ++ zeros 20 ++ shake512 (zeros 64) ++ weakKey ++ zeros 159
def image : List Byte := imageHead ++ (weakSig (zeros 40) (shake512 imageHead) ++ zeros 832)

/-- An image passes where the digest in the ROM is that of its key, which is a constant without a value here (log entry
61). -/
theorem witness_imagePasses (hk : shake256 32 weakKey = padTo 32 (Config.romKeyDigest 0)) : flash.imageCheck image = 0 := by
  have hl : imageHead.length = 2048 := by decide +kernel
  have hw := weakSig_length (zeros 40) (shake512 imageHead) rfl
  have left (o n : Nat) (h : o + n ≤ 2048) : slice image o n = slice imageHead o n := slice_left _ _ o n (by omega)
  have hs : slice image 2048 1280 = weakSig (zeros 40) (shake512 imageHead) := by
    rw [image, slice_right _ _ _ _ (by omega), hl, slice_left _ _ _ _ (by omega), ← hw]; exact slice_whole _
  have hz : slice image 3328 768 = zeros 768 := by
    rw [image, slice_right _ _ _ _ (by omega), slice_right _ _ _ _ (by omega), hl, hw]; decide +kernel
  have hb : image.drop 4096 = zeros 64 := by
    rw [image, List.drop_append, List.drop_append, hl, hw, List.drop_eq_nil_of_le (by omega), List.drop_eq_nil_of_le (by omega)]
    decide +kernel
  have hh : slice image 0 2048 = imageHead := by rw [left 0 2048 (by omega), ← hl]; exact slice_whole _
  have hlen : image.length = 4096 + 64 := by
    rw [image, List.length_append, List.length_append, hl, hw, show (zeros 832).length = 832 from List.length_replicate]
  have h1 : leAt imageHead 0 4 = 0x48595A49 ∧ leAt imageHead 4 2 = 1 ∧ leAt imageHead 6 1 = 0 ∧ leAt imageHead 7 1 = 7
    ∧ leAt imageHead 8 4 = 64 ∧ leAt imageHead 12 4 = 0 ∧ allZero (slice imageHead 28 4) = true
    ∧ allZero (slice imageHead 1889 159) = true ∧ slice imageHead 96 1793 = weakKey
    ∧ slice imageHead 32 64 = shake512 (zeros 64) ∧ nbit 7 (wfld flash.devId 3 0) = true ∧ allZero (zeros 768) = true := by
    decide +kernel
  have hn (o n : Nat) (h : o + n ≤ 2048) : leAt image o n = leAt imageHead o n := congrArg leNat (left o n h)
  obtain ⟨e1, e2, e3, e4, e5, e6, e7, e8, e9, e10, e11, e12⟩ := h1
  rw [State.imageCheck, hn 0 4 (by omega), hn 4 2 (by omega), hn 6 1 (by omega), hn 7 1 (by omega), hn 8 4 (by omega),
    hn 12 4 (by omega), left 28 4 (by omega), left 1889 159 (by omega), left 96 1793 (by omega), left 32 64 (by omega),
    hs, hz, hb, hh, hlen, e1, e2, e3, e4, e5, e6, e9, e10]
  simp [e7, e8, e11, e12, hk, weakSig_ok _ _ (show (zeros 40).length = 40 from rfl)]

theorem witness_identityKey (seed : List Byte) (hs : Config.pufSeed (zeros 1024) = some seed)
    (hd : shake256 32 (padTo 32 seed) = zeros 32) :
    helperSeed (leBytes 4 0x48554C50 ++ zeros 4092) = some (padTo 32 seed) := by
  have h1 : leAt (leBytes 4 0x48554C50 ++ zeros 4092) 0 4 = 0x48554C50 := by decide +kernel
  have h2 : allZero (slice (leBytes 4 0x48554C50 ++ zeros 4092) 1060 3036) = true := by decide +kernel
  have h3 : slice (leBytes 4 0x48554C50 ++ zeros 4092) 4 1024 = zeros 1024 := by decide +kernel
  have h4 : slice (leBytes 4 0x48554C50 ++ zeros 4092) 1028 32 = zeros 32 := by decide +kernel
  simp [helperSeed, h1, h2, h3, h4, hs, hd]

/-- A helper record and the key of its seed. -/
theorem witness_attestSigned (seed : List Byte) (hs : Config.pufSeed (zeros 1024) = some seed)
    (hd : shake256 32 (padTo 32 seed) = zeros 32) :
    let b := leBytes 4 0x48554C50 ++ zeros 4092
    let s : State := { run0 with sec := { run0.sec with helper := b, pubkey := falconKeys.key (padTo 32 seed) } }
    helperSeed s.sec.helper = some (padTo 32 seed) ∧ s.sec.pubkey = falconKeys.key (padTo 32 seed) :=
  ⟨witness_identityKey seed hs hd, rfl⟩

theorem witness_deviceFault : run0.dev ≠ .off ∧ run0.dev ≠ .faulted ∧ run0.firmware = true
    ∧ ({ run0 with mgmt := { run0.mgmt with watchdogOn := true } } : State).mgmt.watchdogOn = true := by decide +kernel

theorem witness_clocks :
    let hot : State := { run0 with power := { run0.power with arith := 8, xbar := 9 } }
    let clamp : State := { run0 with power := { run0.power with clamped := true } }
    run0.firmware = true ∧ run0.power.clamped = false ∧ (16 * 95 : Int) ≤ 1520 ∧ 8 < run0.power.arith ∧ hot.power.arith ≤ 8
      ∧ 8 < hot.power.xbar ∧ (1472 : Int) ≤ 16 * 92 ∧ run0.power.watts < run0.power.limit ∧ hot.power.xbar < 16
      ∧ (16 ≤ run0.power.xbar ∧ ({ run0.power with arith := 15 } : Power).arith < 16) ∧ 8 ≤ run0.power.arith
      ∧ 8 ≤ run0.power.xbar ∧ clamp.power.clamped = true := by decide +kernel

theorem witness_contactSheet : run0.firmware = true ∧ run0.mgmt.contactDpa = 0
    ∧ ({ run0 with mgmt := { run0.mgmt with contactDpa := 4096 } } : State).mgmt.contactDpa ≠ 0 := by decide +kernel

theorem witness_mailboxChecks :
    (¬ (0x00FF ∈ mbxOps) ∧ (ask 0xFF [] run0).asked 0 0xFF 0 = true)
      ∧ ((ask 3 [] run0).asked 0 3 0 = true ∧ (ask 3 [] run0).firmware = true)
      ∧ ((ask 0x50 [] (at_ .loaded)).asked 0 0x50 0 = true ∧ (ask 0x50 [] (at_ .loaded)).dev = .loaded)
      ∧ (let s : State := { ask 1 [] run0 with mgmt := { run0.mgmt with doorbells := [0], running := [⟨1, 0x13, true⟩] } }
         s.mgmt.doorbells = [0] ∧ s.mbxBusy 0 = true ∧ s.firmware = true ∧ s.mbxNum 0 0 2 = 1 ∧ s.argLength 0 = 0
          ∧ s.exclusive = true)
      ∧ (run0.setReg R.devMbxBusy 0x8000).mbxBusy 15 = true
      ∧ (run0.setReg R.devMbxBusy 0x8000).reg R.devMbxDberr ≠ 0xFFFFFFFF := by decide +kernel

theorem witness_information :
    let f : State := (ask 2 [] run0).setReg R.devFault 0x0A020000
    (ask 1 [] run0).asked 0 1 0 = true ∧ (ask 2 [] run0).asked 0 2 0 = true ∧ (ask 2 [] run0).reg R.devFault = 0
      ∧ f.asked 0 2 0 = true ∧ f.reg R.devFault ≠ 0 := by decide +kernel

theorem witness_contactAndPower :
    let c := ask 3 (leBytes 8 0x1000) run0
    let p (w : Nat) := ask 4 (leBytes 2 w) run0
    c.firmware = true ∧ c.asked 0 3 8 = true ∧ c.contactBad (c.argNum 0 0 8) = false ∧ (p 400).firmware = true
      ∧ (p 400).asked 0 4 2 = true ∧ 400 ≤ (p 400).argNum 0 0 2 ∧ (p 2400).argNum 0 0 2 ≤ (p 2400).variant.tdp
      ∧ (p 399).argNum 0 0 2 < 400 ∧ (p 2401).variant.tdp < (p 2401).argNum 0 0 2 := by decide +kernel

theorem witness_measurements :
    let g := ask 0x11 (leBytes 4 (0xFFF000 - 80)) run0
    let a := ask 0x12 (zeros 32 ++ leBytes 4 (0xFFF000 - 3216)) run0
    let v (n : Nat) : State := { a.setReg R.secIdstat 1 with freeCtr := n }
    (∀ n ∈ [0, 1], (v n).firmware = true ∧ (v n).asked 0 0x12 36 = true ∧ (v n).argNum 0 32 4 + 3216 ≤ 0xFFF000
      ∧ (v n).bit R.secIdstat 0 = true ∧ (v n).freeCtr < 2 ^ 320 ∧ (v n).sec.helper = (v 0).sec.helper) ∧
    (v 0).freeCtr ≠ (v 1).freeCtr ∧ (v 0).reportBytes (zeros 32) = (v 1).reportBytes (zeros 32) ∧
    g.firmware = true ∧ g.sec.acc.length = 64 ∧ g.asked 0 0x11 4 = true ∧ g.argNum 0 0 4 + g.measureLength ≤ 0xFFF000
      ∧ a.firmware = true ∧ a.sec.acc.length = 64 ∧ a.asked 0 0x12 36 = true ∧ a.argNum 0 32 4 + 3216 ≤ 0xFFF000
      ∧ a.bit R.secIdstat 0 = false ∧ (a.setReg R.secIdstat 1).asked 0 0x12 36 = true
      ∧ (a.setReg R.secIdstat 1).bit R.secIdstat 0 = true := by decide +kernel

theorem witness_loadImage :
    let s : State := ask 0x10 (leBytes 4 4160) { State.reset with sec := { State.reset.sec with phase := .waiting } }
    s.asked 0 0x10 4 = true ∧ s.dev = .rom ∧ s.sec.phase = .waiting ∧ 4096 ≤ s.argNum 0 0 4
      ∧ s.argNum 0 0 4 ≤ 0xFFE000 := by decide +kernel

theorem witness_runAndStop :
    let r := ask 0x50 [] (at_ .configured)
    let d := ask 0x51 [0, 0] run0
    let dd := d.setJob 0 { Job.reset with st := .draining }
    r.asked 0 0x50 0 = true ∧ r.dev = .configured ∧ d.asked 0 0x51 2 = true ∧ d.dev = .running
      ∧ (∀ j < 64, ((d.job j).st = .off ∨ (d.job j).st = .ready) ∧ (d.job j).mirror = none)
      ∧ dd.asked 0 0x51 2 = true ∧ (∃ j < 64, (dd.job j).st = .draining) := by decide +kernel

theorem witness_tests :
    let t := ask 0x13 (leBytes 4 0x3F) (at_ .loaded)
    let l := ask 0x14 (1 :: zeros 35) (fab (at_ .configured))
    let c : State := { at_ .loaded with mgmt := { run0.mgmt with selfTest := some (15, 0x3F), linkTest := some (0, [0]) } }
    t.asked 0 0x13 4 = true ∧ t.dev = .loaded ∧ t.argNum 0 0 4 ≤ 0x3F ∧ c.firmware = true
      ∧ c.mgmt.selfTest = some (15, 0x3F) ∧ l.asked 0 0x14 36 = true ∧ l.dev = .configured ∧ l.laneBad 0 = none
      ∧ c.mgmt.linkTest = some (0, [0]) := by decide +kernel

/-- A roster record with one key for slot 0. -/
def roster : List Byte := [0, 0, 1, 1, 5, 0, 0, 0] ++ List.replicate 32 7 ++ zeros 480

theorem witness_cfgWrite :
    let w := ask 0x20 ([5, 0, 0, 0] ++ leBytes 4 63 ++ leBytes 4 1 ++ zeros 4 ++ zeros 64) run0
    let m := ask 0x20 ([11, 0, 0, 0] ++ leBytes 4 255 ++ leBytes 4 1 ++ zeros 4 ++ zeros 32) run0
    let v := ask 0x15 roster run0
    w.firmware = true ∧ 63 < recCount 5 ∧ w.asked 0 0x20 (16 + recSize 5) = true ∧ w.argNum 0 0 1 = 5 ∧ w.argNum 0 1 1 = 0
      ∧ w.argNum 0 2 2 = 0 ∧ w.argNum 0 4 4 = 63 ∧ w.argNum 0 8 4 = 1
      ∧ recBad 5 (w.argBytes 0 16 (recSize 5)) = none
      ∧ 255 < recCount 11 ∧ m.asked 0 0x20 (16 + recSize 11) = true ∧ m.argNum 0 4 4 = 255
      ∧ recBad 11 (m.argBytes 0 16 (recSize 11)) = none
      ∧ v.asked 0 0x15 520 = true ∧ v.argNum 0 0 1 = 0 ∧ rosterBad (v.argBytes 0 0 520) 520 = none := by decide +kernel

theorem witness_cfgRead :
    let r := ask 0x21 ([12, 1, 0, 0] ++ leBytes 4 0 ++ leBytes 4 80 ++ leBytes 4 (0xFFF000 - 2560)) run0
    let c := ask 0x22 [] run0
    r.firmware = true ∧ r.asked 0 0x21 16 = true ∧ r.argNum 0 0 1 = 12 ∧ r.argNum 0 1 1 ≤ 1 ∧ r.argNum 0 2 2 = 0
      ∧ r.argNum 0 4 4 = 0 ∧ r.argNum 0 8 4 = 80 ∧ 80 ≤ recCount 12 ∧ r.argNum 0 12 4 + recSize 12 * 80 ≤ 0xFFF000
      ∧ c.asked 0 0x22 0 = true := by decide +kernel

/-! ### Configuration, jobs, programs, memory -/

theorem witness_swap :
    let s := ask 0x23 [] (run0.setReg R.dspCtl 2)
    let b : State := { s with shadow := CfgSet.empty.setEntry 0 0 1023 [0x80000001, 0x1FC] }
    s.asked 0 0x23 0 = true ∧ s.dev = .running ∧ s.swapReady = true ∧ s.setBad = none ∧ b.swapReady = true
      ∧ b.setBad = some 0 := by decide +kernel

theorem witness_jobBegin :
    let args := [63, 0, 0, 0] ++ leBytes 4 noStart
    let r := run0.setJob 63 { Job.reset with st := .ready, job := 5 }
    let b := ask 0x30 args r
    let e := ask 0x31 args r
    b.asked 0 0x30 8 = true ∧ e.asked 0 0x31 8 = true ∧ b.dev = .running ∧ b.argNum 0 0 1 = 63 ∧ b.argNum 0 1 1 = 0
      ∧ b.argNum 0 2 2 = 0 ∧ b.argNum 0 4 4 = noStart ∧ (b.job 63).st = .ready ∧ (b.job 63).mirror = none
      ∧ b.jobGroups (b.job 63).job = [] ∧ (e.job 63).step.toNat < 2 ^ 63 := by decide +kernel

theorem witness_jobDrain :
    let d := ask 0x32 [63, 0, 0, 0] (run0.setJob 63 { Job.reset with st := .failed })
    let k (released : Bool) (s : State) := s.setJob 0
      { Job.reset with st := .draining, job := 5, cores := 1, drain := some ⟨.running, some 0, 0, released⟩ }
    let l := k false (run0.setCore 0 { Core.reset with st := .running })
    d.asked 0 0x32 4 = true ∧ d.dev = .running ∧ d.argNum 0 0 1 = 63 ∧ d.argNum 0 1 1 = 0 ∧ (d.job 63).st = .failed
      ∧ (l.job 0).st = .draining ∧ (l.job 0).drain ≠ none ∧ l.coresStopped 0 = false
      ∧ (let c := k true run0
         c.firmware = true ∧ (c.job 0).drain = some ⟨.running, some 0, 0, true⟩ ∧ c.coresStopped 0 = true
          ∧ (∀ n < c.tiles, c.pagerBusy n = false) ∧ c.mgmt.devStop = none ∧ c.jobGroups (c.job 0).job = []
          ∧ (c.job 0).incomplete = false
          ∧ (let i := c.setJob 0 { c.job 0 with incomplete := true }
             (i.job 0).incomplete = true ∧ i.coresStopped 0 = true ∧ i.jobGroups (i.job 0).job = []
              ∧ (i.job 0).drain = some ⟨.running, some 0, 0, true⟩)) := by decide +kernel

theorem witness_jobSlots :
    let j := jobs .ready run0
    let st := ask 0x33 ([0, 0, 0, 0, 0, 0, 0, 0] ++ leBytes 8 7) j
    let f := ask 0x35 [0, 0x0B] j
    let r := ask 0x36 (leBytes 8 0 ++ leBytes 8 0) (mapped 0xE000000000200002 j)
    let m := ask 0x34 [0] j
    let u : State := { r with ue := [(.dpa, 0x2000)] }
    (u.asked 0 0x36 16 = true ∧ u.poolFrame 0 (u.argNum 0 8 8) = none ∧ u.walkUe 0 (u.argNum 0 8 8) = some 0x2000
      ∧ (u.job 0).st = .ready) ∧
    st.asked 0 0x33 16 = true ∧ st.dev = .running ∧ st.argNum 0 0 1 = 0 ∧ st.argNum 0 1 7 = 0 ∧ (st.job 0).st = .ready
      ∧ r.asked 0 0x36 16 = true ∧ r.argNum 0 1 7 = 0 ∧ r.argNum 0 8 8 < 2 ^ 48 ∧ (r.job 0).st = .ready
      ∧ r.remoteLeaf 0 (r.argNum 0 8 8) ≠ none
      ∧ f.asked 0 0x35 2 = true ∧ 1 ≤ f.argNum 0 1 1 ∧ f.argNum 0 1 1 ≤ 0x0B ∧ (f.job 0).st = .ready
      ∧ f.slotOfJob (f.job 0).job = some 0 ∧ (f.job 0).mirror = none
      ∧ m.asked 0 0x34 1 = true ∧ m.dev = .running ∧ (m.job 0).mirror = none ∧ (m.job 0).pages = 0
      ∧ (let c := run0.setJob 0 { Job.reset with st := .ready, mirror := some ⟨0, 1, 0⟩ }
         c.firmware = true ∧ (c.job 0).mirror = some ⟨0, 1, 0⟩ ∧ c.mgmt.devStop = none) := by decide +kernel

/-- A mirror of one page, which its region list at va 0x100 names; the list lies in the page. -/
theorem witness_mirrorPages :
    let j := (localPage run0).setJob 0 { Job.reset with st := .ready, job := 5, pages := 1, rlist := 0x1FFFF0 }
    let s := ask 0x34 [0] ({ j with dpa := wrBytes j.dpa 0x3FFFF0 (leBytes 8 0 ++ leBytes 8 1) }.setReg (R.tdPgep 0 0) 0x80000000)
    s.asked 0 0x34 1 = true ∧ s.dev = .running ∧ s.argNum 0 0 1 = 0 ∧ (s.job 0).st = .ready ∧ (s.job 0).mirror = none
      ∧ (s.job 0).pages = 1 ∧ s.ue = [] ∧ s.atu = [] ∧ s.bit R.bpmCtl 0 = false ∧ (s.job 0).rlist % 2 ^ 21 + 16 ≤ 2 ^ 21
      ∧ s.walk 0 (s.job 0).rlist false = .ok 0x3FFFF0 ∧ leAt (rdBytes s.dpa 0x3FFFF0 16) 0 8 = 0
      ∧ 1 ≤ leAt (rdBytes s.dpa 0x3FFFF0 16) 8 8
      ∧ (∀ i < 1, s.walk 0 (0 + i * 2 ^ 21) false = .ok 0x200000 ∧ (s.leafOf 0 (0 + i * 2 ^ 21)).map leafRh = some false
        ∧ s.bit (R.tdPgep (dpaDie 0x200000) 0) 31 = true) := by decide +kernel

theorem witness_stagingBus : run0.dev ≠ .off ∧ 4 ≤ 4 ∧ 0xFFFFFC + 4 ≤ 0x1000000 ∧ 0xFFFFFC < 0x1000000 := by decide

theorem witness_loadSprog :
    let s := ask 0x40 ([128, 8, 0, 0] ++ leBytes 2 1023 ++ leBytes 2 1 ++ leBytes 4 (0xFFF000 - 64)) run0
    s.dev = .running ∧ s.asked 0 0x40 12 = true ∧ s.argNum 0 0 1 = 2 ^ 7 ∧ s.argNum 0 1 1 = 2 ^ 3 ∧ s.argNum 0 2 2 = 0
      ∧ 7 ≤ s.argNum 0 4 2 ∧ s.argNum 0 4 2 < 1024 ∧ s.argNum 0 6 2 = 1 ∧ s.argNum 0 8 4 + 64 ≤ 0xFFF000 := by
  decide +kernel

theorem witness_memory :
    let args (a : Nat) := [0, 0, 0, 0] ++ leBytes 4 64 ++ leBytes 8 a ++ leBytes 4 (0xFFF000 - 64)
    let w := ask 0x41 (args (2 ^ 21 - 64)) run0
    let r := ask 0x42 (args (2 ^ 21 - 64)) run0
    let h := ask 0x41 (args (2 ^ 47)) run0
    w.asked 0 0x41 20 = true ∧ r.asked 0 0x42 20 = true ∧ w.dev = .running ∧ w.argNum 0 0 1 = 0 ∧ w.argNum 0 2 2 = 0
      ∧ w.ue = [] ∧ 1 ≤ w.argNum 0 4 4 ∧ w.argNum 0 4 4 ≤ 16707584 ∧ w.argNum 0 16 4 + w.argNum 0 4 4 ≤ 0xFFF000
      ∧ w.argNum 0 8 8 % 2 ^ 21 + w.argNum 0 4 4 ≤ 2 ^ 21 ∧ w.dpaSpan (w.argNum 0 8 8) (w.argNum 0 4 4) = true
      ∧ r.dpaSpan (r.argNum 0 8 8) (r.argNum 0 4 4) = true ∧ h.asked 0 0x41 20 = true
      ∧ h.dpaSpan (h.argNum 0 8 8) (h.argNum 0 4 4) = false ∧ h.argNum 0 8 8 % 2 ^ 21 + h.argNum 0 4 4 ≤ 2 ^ 21 := by
  decide +kernel

theorem witness_fabricRead :
    let s := ask 0x43 ([0, 0, 0, 0] ++ leBytes 4 4 ++ leBytes 4 64 ++ leBytes 8 (2 ^ 48 - 64) ++ leBytes 4 (0xFFF000 - 64)) world
    let w : State := { world with mgmt := { world.mgmt with fabricRead := some ⟨15, 0, 64, 0, 5, 0, 0⟩ } }
    let a := arrives w.mgmtSlot 0 (pkt opReadRsp (zeros 64)) w
    (s.asked 0 0x43 24 = true ∧ s.dev = .running ∧ s.argNum 0 0 1 < 64 ∧ s.argNum 0 1 3 = 0 ∧ s.argNum 0 4 4 < 2 ^ 20
      ∧ 1 ≤ s.argNum 0 8 4 ∧ s.argNum 0 8 4 ≤ 16777216 ∧ s.argNum 0 12 8 < 2 ^ 48
      ∧ s.argNum 0 20 4 + s.argNum 0 8 4 ≤ 0xFFF000 ∧ s.mgmt.fabricRead = none
      ∧ s.active.translate (s.argNum 0 0 1) (s.argNum 0 4 4) ≠ none)
      ∧ a.firmware = true ∧ a.mgmt.fabricRead = some ⟨15, 0, 64, 0, 5, 0, 0⟩
      ∧ (∃ x, a.inbox = [x] ∧ x.slot = a.mgmtSlot ∧ x.pkt.hdr.op = opReadRsp ∧ x.unit = 0 ∧ 5 = x.pkt.job
        ∧ 0 = x.pkt.hdr.addr ∧ 0 = x.pkt.hdr.flow ∧ 0 + x.pkt.data.length = 64
        ∧ x.pkt.hdr.byteOff + x.pkt.data.length ≤ 64) :=
  ⟨by decide +kernel, by decide +kernel, rfl, _, rfl, by decide +kernel⟩

/-! ### Job faults and votes -/

theorem witness_jobMaps :
    let x := (jobs .running run0).setReg R.xbarCause 0x20 |>.setReg (R.xbarJmap 0) 0x20
    let p := (jobs .running run0).setReg (R.portCause 7) 1 |>.setReg (R.portJmap 7 0) 0x20
    let q := (jobs .running run0).setReg (R.portCause 7) 8 |>.setReg (R.portJmap 7 0) 0x20
    let pol := (jobs .running run0).setReg (R.portSchcause 7) 1 |>.setReg (R.portJmap 7 0) 0x20
    x.firmware = true ∧ x.mgmt.devStop = none ∧ x.slotOfJob 5 = some 0 ∧ (x.job 0).st = .running ∧ (x.job 0).mirror = none
      ∧ x.bit R.xbarCause 5 = true ∧ x.marked (fun w => R.xbarJmap w) = [5]
      ∧ 7 < p.ports ∧ p.bit (R.portCause 7) 0 = true ∧ p.marked (fun w => R.portJmap 7 w) = [5] ∧ p.slotOfJob 5 = some 0
      ∧ pol.bit (R.portSchcause 7) 0 = true ∧ pol.marked (fun w => R.portJmap 7 w) = [5]
      ∧ q.bit (R.portCause 7) 0 = false ∧ q.bit (R.portSchcause 7) 0 = false ∧ q.bit (R.portCause 7) 3 = true
      ∧ q.marked (fun w => R.portJmap 7 w) = [5] := by decide +kernel

theorem witness_jobFaults :
    let c := (jobs .running run0).setReg (R.tdCCause 79) 1 |>.setReg (R.tdCJob 79) 5
    let n := arrives run0.mgmtSlot 0 (pkt opMgmtMsg ([1, 0x0B] ++ leBytes 2 5 ++ zeros 28)) (jobs .running run0)
    let r := (jobs .ready (at_ .configured)).setReg (R.tdCCause 79) 1 |>.setReg (R.tdCJob 79) 5
    let o (site : OwedAt) : State := { jobs .running run0 with owed := [⟨site, 19, 5, 0x0A⟩] }
    ((o .mem).faultSites = [.mem 19] ∧ (o .sem).faultSites = [.sem 19] ∧ (o .coll).faultSites = [.coll 19]
      ∧ (o .mem).slotOfJob 5 = some 0 ∧ ((o .mem).job 0).st = .running) ∧
    (r.firmware = true ∧ r.mgmt.devStop = none ∧ (r.job 0).code = 0 ∧ (r.job 0).st = .ready ∧ r.faultSites = [.core 79]
      ∧ r.slotOfJob (r.fld (R.tdCJob 79) 11 0) = some 0) ∧
    (c.firmware = true ∧ c.dev = .running ∧ c.mgmt.devStop = none ∧ (c.job 0).code = 0 ∧ (c.job 0).st = .running ∧ c.faultSites = [.core 79]
      ∧ c.slotOfJob (c.fld (R.tdCJob 79) 11 0) = some 0)
      ∧ ∃ a, n.inbox = [a] ∧ a.slot = n.mgmtSlot ∧ a.unit = 0 ∧ a.pkt.hdr.op = opMgmtMsg ∧ leAt a.pkt.data 0 1 = 1
        ∧ 0 < leAt a.pkt.data 1 1 ∧ leAt a.pkt.data 1 1 ≤ 0x0B ∧ n.slotOfJob (leAt a.pkt.data 2 2 % 4096) = some 0 :=
  ⟨by decide +kernel, by decide +kernel, by decide +kernel, _, rfl, by decide +kernel⟩

/-- The signed part of a ballot of manager 0 against device 9 of job 5 at step 0, and the ballot. -/
def ballotHead : List Byte := [1, 0, 5, 0, 9, 0, 0, 0] ++ zeros 8 ++ weakKey ++ zeros 7
def ballot : List Byte := ballotHead ++ weakSig (zeros 40) (shake512 ballotHead)
/-- Job 5 with a roster of one manager, whose quorum is `q`, and the ballots counted. -/
def voting (q : Nat) (tally : List (Nat × Nat)) : State :=
  run0.setJob 0 { Job.reset with st := .running, job := 5, tally := tally, roster := ⟨q, 1, 5, [shake256 32 weakKey]⟩ }

theorem ballot_left (o n : Nat) (h : o + n ≤ 1816) : slice ballot o n = slice ballotHead o n :=
  slice_left _ _ o n (by have : ballotHead.length = 1816 := (by decide +kernel); omega)

theorem ballot_length : ballot.length = 3096 := by
  rw [ballot, List.length_append, weakSig_length _ _ rfl]; decide +kernel

theorem witness_ballotAccepted (q : Nat) (t : List (Nat × Nat)) : (voting q t).ballotSlot ballot = some 0 := by
  have hl : ballotHead.length = 1816 := by decide +kernel
  have h1 : slice ballot 16 1793 = weakKey := by rw [ballot_left 16 1793 (by omega)]; decide +kernel
  have h2 : slice ballot 1816 1280 = weakSig (zeros 40) (shake512 ballotHead) := by
    rw [ballot, slice_right _ _ _ _ (by omega), hl, ← weakSig_length (zeros 40) (shake512 ballotHead) rfl]; exact slice_whole _
  have h0 : slice ballot 0 1816 = ballotHead := by rw [ballot_left 0 1816 (by omega), ← hl]; exact slice_whole _
  have hn (o n : Nat) (h : o + n ≤ 1816) : leAt ballot o n = leAt ballotHead o n := congrArg leNat (ballot_left o n h)
  have h3 : leAt ballotHead 1 1 = 0 ∧ leAt ballotHead 2 2 % 4096 = 5 ∧ leAt ballotHead 8 8 = 0 := by decide +kernel
  have h4 : (voting q t).slotOfJob 5 = some 0 := by rfl
  have h5 : (voting q t).job 0 = { Job.reset with st := .running, job := 5, tally := t,
                                                  roster := ⟨q, 1, 5, [shake256 32 weakKey]⟩ } := by rfl
  rw [State.ballotSlot, hn 1 1 (by omega), hn 2 2 (by omega), hn 8 8 (by omega), h1, h2, h0, h3.1, h3.2.1, h3.2.2, h4]
  simp [h5, weakSig_ok _ _ (show (zeros 40).length = 40 from rfl), Job.reset]

def ballotPacket : Packet := pkt opMgmtMsg ((2 :: zeros 31) ++ ballot)

theorem ballotPacket_ballot : slice ballotPacket.data 32 3096 = ballot := by
  have h := slice_right (2 :: zeros 31) ballot 32 3096 (by decide)
  rw [show (32 : Nat) - (2 :: zeros 31 : List Byte).length = 0 from by decide, ← ballot_length, slice_whole] at h
  rw [← ballot_length]; exact h

theorem ballotPacket_kind : ballotPacket.hdr.op = opMgmtMsg ∧ leAt ballotPacket.data 0 1 = 2 :=
  ⟨rfl, congrArg leNat (slice_left (2 :: zeros 31) ballot 0 1 (by decide))⟩

/-- A state in which the ballot arrives. -/
theorem witness_ballotArrives (s : State) (hf : s.firmware = true) (he : s.exclusive = false) (hd : s.mgmt.devStop = none) :
    let t := arrives s.mgmtSlot 0 ballotPacket s
    t.firmware = true ∧ t.exclusive = false ∧ t.mgmt.devStop = none ∧ ∃ a, t.inbox = [a] ∧ a.slot = t.mgmtSlot ∧ a.unit = 0
      ∧ a.pkt.hdr.op = opMgmtMsg ∧ leAt a.pkt.data 0 1 = 2 ∧ slice a.pkt.data 32 3096 = ballot :=
  ⟨hf, he, hd, _, rfl, rfl, rfl, ballotPacket_kind.1, ballotPacket_kind.2, ballotPacket_ballot⟩

theorem ballot_vote : (leAt ballot 4 2 % 1024, leAt ballot 1 1) = (9, 0) ∧ leAt ballot 0 1 = 1 := by
  have hn (o n : Nat) (h : o + n ≤ 1816) : leAt ballot o n = leAt ballotHead o n := congrArg leNat (ballot_left o n h)
  rw [hn 4 2 (by omega), hn 1 1 (by omega), hn 0 1 (by omega)]; decide +kernel

/-- Ballot counts against the quorum: the first of two, the one of one, one that was counted, one for no job. -/
theorem witness_ballots :
    let v := (9, 0)
    let n (t : List (Nat × Nat)) := countWhere (fun x => x.1 == 9) (t ++ [v])
    (∀ q ∈ [1, 2], (voting q []).firmware = true ∧ (voting q []).exclusive = false ∧ (voting q []).mgmt.devStop = none)
      ∧ n [] ≠ 2 ∧ n [] = 1 ∧ ((voting 1 [v]).job 0).tally = [v] ∧ ((voting 2 []).job 0).roster.q = 2
      ∧ ((voting 1 []).job 0).st = .running ∧ ((voting 1 []).job 0).code = 0 ∧ (voting 1 []).bit (R.secExpel 0) 31 = false := by
  decide +kernel

theorem witness_noBallot : run0.ballotSlot ballot = none := by
  have : run0.slotOfJob (leAt ballot 2 2 % 4096) = none := by
    rw [show leAt ballot 2 2 = leAt ballotHead 2 2 from congrArg leNat (ballot_left 2 2 (by omega))]; decide +kernel
  rw [State.ballotSlot, this]

theorem wrBytes_append : ∀ (x y : List Byte) (m : Mem) (a : Nat), wrBytes m a (x ++ y) = wrBytes (wrBytes m a x) (a + x.length) y
  | [], _, _, _ => rfl
  | b :: x, y, m, a => by
    rw [List.cons_append, wrBytes, wrBytes_append x y, wrBytes, List.length_cons, Nat.add_assoc, Nat.add_comm 1]

theorem rdBytes_before (m : Mem) (a : Nat) (bs : List Byte) : ∀ (n x : Nat), x + n ≤ a → rdBytes (wrBytes m a bs) x n = rdBytes m x n
  | 0, _, _ => rfl
  | n + 1, x, h => by
    rw [rdBytes, rdBytes, rdByte_wrBytes_outside _ _ _ _ (.inl (by omega)), rdBytes_before m a bs n (x + 1) (by omega)]

theorem ask_mbx (op : Nat) (args : List Byte) (s : State) : (ask op args s).mbx
    = wrBytes s.mbx (mbxAddr 0 0) (leBytes 2 op ++ zeros 2 ++ leBytes 4 args.length ++ zeros 8 ++ args) := rfl

theorem first_byte (m : Mem) (a n : Nat) : rdBytes m a 1 = (rdBytes m a (n + 1)).take 1 := by simp [rdBytes]

/-- The ballot in mailbox 0. -/
theorem witness_mailboxBallot :
    let s := ask 0x15 ballot (voting 2 [])
    s.asked 0 0x15 3096 = true ∧ s.argBytes 0 0 3096 = ballot ∧ s.argNum 0 0 1 = 1 ∧ ballotBad ballot 3096 = none
      ∧ s.dev = .running := by
  intro s
  let head : List Byte := leBytes 2 0x15 ++ zeros 2 ++ leBytes 4 3096 ++ zeros 8
  have hm : s.mbx = wrBytes (wrBytes [] 0 head) 16 ballot := by
    rw [ask_mbx, ballot_length, wrBytes_append]; rfl
  have hn (o n : Nat) (h : o + n ≤ 16) : s.mbxNum 0 o n = leNat (rdBytes (wrBytes [] 0 head) o n) := by
    rw [State.mbxNum, hm, show mbxAddr 0 o = o from Nat.zero_add o, rdBytes_before _ _ _ _ _ h]
  have h1 : s.mbxNum 0 0 2 = 0x15 := by rw [hn 0 2 (by omega)]; decide +kernel
  have h2 : s.argLength 0 = 3096 := by rw [State.argLength, hn 4 4 (by omega)]; decide +kernel
  have h3 : s.argBytes 0 0 3096 = ballot := by
    rw [State.argBytes, hm, show mbxAddr 0 (16 + 0) = 16 from rfl]
    conv_lhs => rw [← ballot_length]
    exact rdBytes_wrBytes_same _ _ _
  have h4 : s.argNum 0 0 1 = leAt ballot 0 1 := by
    have : rdBytes s.mbx 16 1 = (rdBytes s.mbx 16 3096).take 1 := first_byte _ _ 3095
    rw [State.argNum, State.mbxNum, show mbxAddr 0 (16 + 0) = 16 from rfl, this, show rdBytes s.mbx 16 3096 = ballot from h3,
      leAt, slice, List.drop_zero, List.length_take, ballot_length]
    simp
  have h5 : ballotBad ballotHead 3096 = none := by decide +kernel
  have hl (o n : Nat) (h : o + n ≤ 1816) : leAt ballot o n = leAt ballotHead o n := congrArg leNat (ballot_left o n h)
  refine ⟨?_, h3, h4.trans ballot_vote.2, ?_, rfl⟩
  · rw [State.asked, h1, h2]; rfl
  · rw [← h5, ballotBad, ballotBad, hl 1 1 (by omega), hl 2 2 (by omega), hl 4 2 (by omega), hl 6 2 (by omega),
      ballot_left 1809 7 (by omega)]

/-! ### Crossbar and links -/

theorem witness_xbar :
    let full := atXpoint opWrite
    run0.dev ≠ .off ∧ run0.dev ≠ .rom ∧ run0.xbarOn = false ∧ world.xbarOn = true ∧ world.xbarEmpty = true
      ∧ full.xbarOn = true ∧ full.xbarEmpty = false ∧ 8 ≤ (0x88 : Word).toNat % 128 ∧ (64 : Word).toNat % 128 ≤ 64
      ∧ (7 : Word).toNat % 128 < 8 ∧ 64 < (65 : Word).toNat % 128 ∧ run0.bit (R.xbarMcgCtl 1023) 0 = false
      ∧ (run0.setReg (R.xbarMcgCtl 1023) 1).bit (R.xbarMcgCtl 1023) 0 = true ∧ run0.populatedSlot 0 = true
      ∧ run0.populatedSlot 84 = true ∧ run0.populatedSlot 127 = false := by decide +kernel

/-- The same cell as a copy for multicast group 1,023, whose member is slot 0 with stored copies. -/
def multicast : State :=
  let s := (world.setReg (R.xbarMcgMem0 1023) 1).setReg (R.xbarMcgCtl 1023) 3
  { s with xbar := { s.xbar with
      xin := (atInput opCollData).xbar.xin.map fun e => { e with cell := { e.cell with mcast := true, mgroup := 1023 } } } }

theorem witness_cellSend :
    (∃ e ∈ (atInput opWrite).xbar.xin, (atInput opWrite).xbarOn = true ∧ (atInput opWrite).choose 84 = some e
      ∧ e.cell.mcast = false ∧ (atInput opWrite).sendAct e = .send 0 .minimum)
      ∧ (let p : State := { atInput opWrite with xbar := { (atInput opWrite).xbar with minActive := 0 } }
         ∃ k ∈ p.borrowRequests, p.borrowRequests = [k] ∧ p.grantable k = true)
      ∧ (multicast.xbarOn = true ∧ multicast.bit (R.xbarMcgCtl 1023) 0 = true ∧ multicast.mcStored 1023 = true
        ∧ (∃ e ∈ multicast.xbar.xin, e.i = 84 ∧ e.cell.mcast = true ∧ e.cell.mgroup = 1023)
        ∧ mget 0 multicast.xbar.scCr (1024 * 84 + 1023) = 0
        ∧ multicast.xbar.mc + multicast.grantCells ≤ multicast.fld R.xbarMccap 20 0
        ∧ multicast.grantCells ≤ multicast.xbar.free ∧ multicast.pointersFree (multicast.mcMembers 1023) = true) := by
  decide +kernel

theorem witness_cellLeave :
    let plain (s : State) (e : XEntry) : Prop := e.ptr = none ∧ e.res = false ∧ e.cell.brw = false ∧ e.cell.abt = false
      ∧ e.cell.sop = true ∧ e.cell.eop = true ∧ s.xbar.aborted = [] ∧ s.xbar.commits = []
    let c := after (.cellSend 84) (after (.packetInject 84) (sends 84 0 0 opWrite [1, 2] world))
    let p := after (.egressSelect 0 0) (atXpoint opWrite)
    (∃ e ∈ c.xbar.xq, plain c e ∧ c.isPortSlot 48 = false ∧ c.xbar.pick 48 = some e ∧ e.j = 48 ∧ c.xbar.reasm = [])
      ∧ (∃ e ∈ p.xbar.xq, plain p e ∧ p.isPortSlot 0 = true ∧ p.portPick 0 = some e ∧ e.j = 0) := by decide +kernel

theorem witness_outputs :
    let s := fab run0
    let f := s.setReg (R.xbarOutctl 0) 0x11
    let d := s.setReg (R.xbarOutctl 0) 0x01
    s.isPortSlot 0 = true ∧ 0 < s.subports 0 ∧ s.outDown 0 0 = false ∧ f.bit (R.xbarOutctl 0) 4 = true
      ∧ d.outDown 0 0 = true ∧ d.bit (R.xbarOutctl 0) 4 = false ∧ d.isPortSlot 0 = true ∧ 0 < d.subports 0 := by
  decide +kernel

theorem witness_ports :
    let up := run0.setReg (R.portPCfg 7 23) 1
    let t := run0.setReg (R.portTblsel 7) 0xC00000FF
    run0.dev ≠ .off ∧ run0.dev ≠ .rom ∧ 7 < run0.ports
      ∧ ¬ (∃ x < 4, run0.bit (R.portPCfg 7 (4 * 5 + x)) 0 = true ∨ run0.bit (R.portECtl 7 (4 * 5 + x)) 0 = true)
      ∧ (∃ x < 4, up.bit (R.portPCfg 7 (4 * 5 + x)) 0 = true ∨ up.bit (R.portECtl 7 (4 * 5 + x)) 0 = true)
      ∧ wfld (t.reg (R.portTblsel 7)) 9 0 < tblSize (wfld (t.reg (R.portTblsel 7)) 30 28)
      ∧ wfld (t.reg (R.portTblsel 7)) 30 28 = 4 ∧ wbit (t.reg (R.portTblsel 7)) 31 = true
      ∧ (let u := run0.setReg (R.portSlotcfg 7 5) 0x12
         u.fld (R.portSlotcfg 7 5) 1 0 = 2 ∧ u.fld (R.portSlotcfg 7 5) 5 4 = 1)
      ∧ (run0.setReg (R.portSlotcfg 7 5) 3).fld (R.portSlotcfg 7 5) 1 0 = 3
      ∧ wfld 3 1 0 = 3 ∧ wfld 0x12 1 0 = 2 ∧ wfld 0x12 5 4 = 1 ∧ run0.xbar.brwCr = [] := by decide +kernel

theorem witness_linkStates :
    let s := fab run0
    let in_ (st : LinkState) := s.setLink 0 0 { Link.reset with st := st }
    let named := (in_ .training).setReg (R.portPPeer 0 0) 0x80000408
    let few := s.setReg (R.portPCrd 0 0 0) 0
    let f := fab (at_ .faulted)
    (few.subportAt 0 0 = some (0, 0) ∧ few.slotMode 0 = 0 ∧ few.creditLimits 0 0 0 = false) ∧
    (f.dev = .faulted ∧ f.subportAt 0 0 = some (0, 0) ∧ f.slotMode 0 = 0 ∧ f.creditLimits 0 0 0 = true) ∧
    s.dev ≠ .off ∧ s.dev ≠ .rom ∧ s.dev ≠ .faulted ∧ s.subportAt 0 0 = some (0, 0) ∧ s.slotMode 0 = 0
      ∧ (s.link 0 0).st = .down ∧ s.creditLimits 0 0 0 = true ∧ ((in_ .up).link 0 0).st ≠ .down
      ∧ ((in_ .training).link 0 0).st = .training ∧ wbit ((in_ .training).reg (R.portPPeer 0 0)) 31 = false
      ∧ (named.link 0 0).st = .training ∧ wbit (named.reg (R.portPPeer 0 0)) 31 = true
      ∧ wfld (named.reg (R.portPPeer 0 0)) 19 10 ≠ 1023 ∧ ((in_ .up).link 0 0).st = .up
      ∧ ((in_ .retraining).link 0 0).st = .retraining ∧ (named.subportAt 0 0 = some (0, 0) ∧ named.slotMode 0 = 0) := by
  decide +kernel

theorem wrongCrc (x : Word) : x + 1 ≠ x := by bv_omega

theorem witness_flitCrc (f : Flit) :
    let good := flitSeal f
    let bad := { good with crc := good.crc + 1 }
    good.crc = flitCrc good ∧ good.ftype = f.ftype ∧ good.seq = f.seq ∧ bad.crc ≠ flitCrc bad :=
  ⟨rfl, rfl, rfl, wrongCrc (flitCrc f)⟩

theorem witness_flits :
    let upw (k : Link) := world.setLink 0 0 { k with st := .up }
    let a := upw { Link.reset with rxSeq := 4095, ackNew := true, ctlOut := [plainFlit 3], replay := [plainFlit 0] }
    let t0 := after (.egressSelect 0 0) (atXpoint opWrite)
    let t1 := after (.egressCellTake 0 0) (after (.cellLeave 0 false) t0)
    let t := t1.setLink 0 0 { t1.link 0 0 with txCr := [(0, 1)] }
    let again := upw { Link.reset with replay := [plainFlit 0], resend := [plainFlit 0] }
    let idle := upw Link.reset
    (again.link 0 0).ctlOut = [] ∧ (again.link 0 0).resend = [plainFlit 0] ∧ (idle.link 0 0).ctlOut = [] ∧ (idle.link 0 0).resend = []
      ∧ (idle.egr 0 0).nextTx (idle.link 0 0) = none ∧
    world.subportAt 0 0 = some (0, 0) ∧ world.slotMode 0 = 0 ∧ (a.link 0 0).st = .up ∧ 4095 = (a.link 0 0).rxSeq
      ∧ (a.link 0 0).reqsNoProgress + 1 < 8
      ∧ (a.link 0 0).replay = [plainFlit 0] ∧ (plainFlit 0).seq < 4096 ∧ (a.link 0 0).ackNew = true
      ∧ (a.link 0 0).ctlOut = [plainFlit 3]
      ∧ (t.subportAt 0 0 = some (0, 0) ∧ t.slotMode 0 = 0 ∧ (t.link 0 0).st = .up ∧ (t.link 0 0).ctlOut = []
        ∧ (t.link 0 0).resend = [] ∧ (t.link 0 0).replay.length < t.replaySize 0
        ∧ ∃ c ∈ (t.egr 0 0).fifo, (t.egr 0 0).nextTx (t.link 0 0) = some c) := by decide +kernel

/-- A flit of one whole packet received on lane 0 for endpoint 1 of a device. -/
def received (dev : Nat) : State :=
  let h : PktHdr := { PktHdr.zero opWrite with dstDev := dev, dstEp := 1 }
  world.setLink 0 0 { Link.reset with
    st := .up, rxWait := [{ plainFlit 0 with sop := true, eop := true, job := 5, len := 34, payload := padTo 240 h.bytes }] }

theorem witness_routing :
    let i := sends 84 1 0 opWrite [1, 2] world
    let ok (s : State) (f : Flit) : Prop := s.subportAt 0 0 = some (0, 0) ∧ (s.link 0 0).rxWait = [f]
      ∧ (s.link 0 0).rxDec = [] ∧ (s.link 0 0).rxCut = [] ∧ (s.link 0 0).rxHeld = [] ∧ s.xbarOn = true ∧ f.vc = 0 ∧ f.sop = true ∧ f.eop = true
    (i.xbarOn = true ∧ ∃ o ∈ i.attach, i.attach = [o] ∧ o.src = 84 ∧ o.msg = none ∧ o.sig = none
      ∧ i.injectAct o = .go o.pkt.hdr none (.hop 0 0 none) ∧ (o.pkt.hdr.bytes ++ o.pkt.data).length ≤ 15360)
      ∧ (∃ f ∈ ((received 1).link 0 0).rxWait, ok (received 1) f ∧ (hdrOfBytes f.payload).dstDev ≠ (received 1).selfDev
        ∧ (received 1).decideRx 0 f = .hop 0 0 none)
      ∧ (∃ f ∈ ((received 0).link 0 0).rxWait, ok (received 0) f ∧ (hdrOfBytes f.payload).dstDev = (received 0).selfDev
        ∧ (received 0).decideRx 0 f = .unit ⟨(received 0).engineSlot 0, 0, false, 0⟩ 0) := by decide +kernel

theorem witness_messages :
    let h (n : Nat) : PktHdr := { PktHdr.zero opWrite with msgBytes := n }
    let c (n : Nat) : CommitRec := ⟨48, h n, 0, 5, 0, 64, none, false, 84, 7⟩
    let a := arrives world.mgmtSlot 0 (pkt opComplete []) { world with msgs := [⟨7, .served, some 0, some 0, 0, false⟩] }
    let w : State := { world with msgs := [⟨7, .served, some 1023, none, 0, true⟩] }
    (c 128).target = none ∧ (c 128).isAdd = false ∧ (c 128).bytes ≠ (c 128).hdr.msgBytes ∧ (c 64).hdr.sig = false
      ∧ (c 64).bytes = (c 64).hdr.msgBytes ∧ ({ world with commits := [c 64] } : State).trackers = []
      ∧ ({ world with commits := [c 64] } : State).nextCommit = some (c 64, [])
      ∧ ({ world with commits := [c 128] } : State).nextCommit = some (c 128, [])
      ∧ ({ world with commits := [c 64, { c 128 with src := 3 }] } : State).nextCommit = some ({ c 128 with src := 3 }, [c 64])
      ∧ (∃ x ∈ a.inbox, a.inbox = [x] ∧ x.slot = a.mgmtSlot ∧ x.pkt.hdr.op = opComplete
        ∧ a.messageOf x.pkt.hdr = some ⟨7, .served, some 0, some 0, 0, false⟩)
      ∧ (∃ m ∈ w.msgs, w.msgs = [m] ∧ m.waiting = true ∧ m.dstDev = some 1023 ∧ w.freeSlot 1023 = some 0) := by
  decide +kernel

theorem noHead (s : State) (h : s.xbar.xq = []) (n l j sub i c : Nat) (hm : s.slotMode j = 0) :
    s.eligibleHead n l j sub i c = none := by
  simp [State.eligibleHead, Xbar.head, h, hm]

theorem noCells : world.xbar.xq = [] :=
  List.isEmpty_iff.mp (show world.xbar.xq.isEmpty = true by decide +kernel)

theorem witness_egress :
    let m := atXpoint opMgmtMsg
    let x := after (.cellLeave 0 false) (after (.egressSelect 0 0) (atXpoint opWrite))
    (m.subportAt 0 0 = some (0, 0) ∧ m.slotMode 0 = 0 ∧ (m.eligibleHead 0 0 0 0 84 0).map (·.vc) = some 3)
      ∧ (∀ i c, world.eligibleHead 0 0 0 0 i c = none) ∧ world.subportAt 0 0 = some (0, 0)
      ∧ (∃ p ∈ x.xbar.xout, x.xbar.xout = [p] ∧ p.1 = 0 ∧ p.2.sub = 0 ∧ p.2.inLane = none ∧ (x.link 0 0).st = .up) :=
  ⟨by decide +kernel, fun i c => noHead world noCells 0 0 0 0 i c (by decide +kernel), by decide +kernel, by decide +kernel⟩

theorem witness_telemetry :
    let r : State := { world with ring := [⟨7, 3, zeros 64⟩] }
    7 < world.ports ∧ 0 < world.ports ∧ world.subportAt 0 0 = some (0, 0) ∧ world.dev ≠ .off ∧ world.dev ≠ .rom
      ∧ (1 : Word).getLsbD 0 = true ∧ r.ring = [⟨7, 3, zeros 64⟩] ∧ (zeros 64).length = 64
      ∧ r.recordPasses ⟨7, 3, zeros 64⟩ 192 = true ∧ r.dpaSpan 192 64 = true ∧ r.ue = []
      ∧ r.reg64 (R.portRingBaseLo 7) (R.portRingBaseHi 7) = 0 ∧ r.fld (R.portRingCfg 7) 12 8 = 6 ∧ 64 * (3 % 2 ^ 6) = 192 := by decide +kernel

theorem witness_ethernet :
    let s := ethm run0
    let in_ (st : EthState) := s.setEth 0 0 { Eth.reset with st := st }
    s.dev ≠ .off ∧ s.dev ≠ .rom ∧ s.subportAt 0 0 = some (0, 0) ∧ s.slotMode 0 = 1 ∧ (s.eth 0 0).st = .down
      ∧ ((in_ .training).eth 0 0).st = .training ∧ ((in_ .up).eth 0 0).st = .up ∧ (in_ .up).slotMode 0 = 1 := by
  decide +kernel

/-! ### Ethernet and stream engines -/

/-- A serving datagram of 66 bytes for model 3 to 10.0.0.1, whose UDP checksum is not used. -/
def frame : List Byte :=
  let ip0 := [0x45, 0] ++ beBytes 2 48 ++ [0, 0, 0, 0, 64, 17]
  let addrs := [10, 0, 0, 2, 10, 0, 0, 1]
  let ip := ip0 ++ beBytes 2 (onesCheck (ip0 ++ [0, 0] ++ addrs)) ++ addrs
  frameOf (zeros 6 ++ [2, 0, 0, 0, 0, 1, 8, 0] ++ ip ++ [1, 1] ++ beBytes 2 5 ++ beBytes 2 28 ++ [0, 0]
    ++ leBytes 2 0x5842 ++ [1, 3] ++ zeros 6 ++ leBytes 2 4 ++ zeros 8)

/-- An Ethernet subport in UP, its crossbar on and pool 0 with four buffers. -/
def serving : State :=
  let s := ((ethm run0).setReg (R.portEIpv4 0 0) 0x0A000001).setReg (R.portEUdp 0 0) 5
  let s := (after (.xbarEnable 1) s).setReg (R.bpmPoolCount 0) 4
  (after (.bpmEnable 1) s).setEth 0 0 { Eth.reset with st := .up }

theorem witness_frames :
    let r := parseFrame frame
    let bad := parseFrame (frame.set 20 1)
    serving.subportAt 0 0 = some (0, 0) ∧ serving.slotMode 0 = 1 ∧ (serving.eth 0 0).st = .up ∧ 64 ≤ frame.length
      ∧ serving.ethCheckLow 0 0 bad = some 0 ∧ serving.ethCheckLow 0 0 r = none ∧ r.etype ≠ etArp
      ∧ serving.naReply 0 0 r = none ∧ serving.ethCheckHigh 0 0 r = none ∧ serving.xbarOn = true
      ∧ (serving.allocate (80 + (r.ulen - 8))).2 = .ok 0 := by decide +kernel

theorem witness_response :
    let s : State := { serving.setEth 0 0 { Eth.reset with st := .up, resp := [⟨3, 0, frame⟩] } with poolUsed := [(0, 3)] }
    (s.eth 0 0).resp = [⟨3, 0, frame⟩] ∧ s.bit R.bpmCtl 0 = true ∧ handleIndex 3 < s.poolCount (handlePool 3)
      ∧ (handlePool 3, handleIndex 3) ∈ s.poolUsed ∧ (s.eth 0 0).st = .up := by decide +kernel

/-- A response that waits, whose buffer says 42 bytes of headers and no tensor. -/
theorem witness_responseWaits :
    let s : State := { serving.setEth 0 0 { Eth.reset with st := .up, wait := [⟨3, 0⟩] } with
      poolUsed := [(0, 3)], dpa := wrBytes [] 768 [42] }
    s.subportAt 0 0 = some (0, 0) ∧ s.slotMode 0 = 1 ∧ (s.eth 0 0).st = .up ∧ s.ue = []
      ∧ (s.eth 0 0).wait = [⟨3, 0⟩] ∧ s.xbarOn = true ∧ s.ethRoom 0 0 3 = true ∧ leAt (rdBytes s.dpa (s.bufferAddr 3) 96) 0 1 = 42 := by
  decide +kernel

theorem witness_engineWrites :
    let ok (s : State) : Prop := s.xbarOn = true ∧ 31 < 32 ∧ s.dev ≠ .faulted ∧ s.ue = [] ∧ ∃ a ∈ s.inbox, s.inbox = [a] ∧ s.atEngine 31 a = true
    let at_ (addr : Nat) (data : List Byte) : Packet :=
      let p := pkt opWrite data
      { p with hdr := { p.hdr with addr := addr } }
    let d := at_ (2 ^ 23 - 64) (zeros 64)
    let w := at_ (2 ^ 23 + 128 * 127) (desc (zeros 16))
    (ok (toEngine d world) ∧ d.hdr.op = opWrite ∧ d.hdr.addr < 2 ^ 23 ∧ d.hdr.addr + d.hdr.byteOff + d.data.length ≤ 2 ^ 23)
      ∧ (ok (toEngine w world) ∧ w.hdr.addr = 2 ^ 23 + 128 * 127 ∧ w.hdr.byteOff = 0 ∧ w.data.length = 128
        ∧ ((toEngine w world).ctx 4095).st = .free ∧ descRefused w.data w.job = false ∧ descRefused (zeros 128) w.job = true)
      ∧ (ok (toEngine (pkt opReadReq []) world) ∧ opReadReq ∉ [opWrite, opCircWrite, opCollAnn, opCollData, opComplete]) := by
  decide +kernel

set_option maxRecDepth 100000 in
theorem witness_engineAnnounces :
    let p := chunk opCollAnn 0 (zeros 64)
    let bad : Packet := { p with data := p.data.set 0 1 }
    let s (digest : List Byte) := toEngine p (withCtx .configured digest world)
    let k (digest : List Byte) := (s digest).ctx 4095
    let two : CtxDesc := { parseDesc (desc (zeros 16)) with nIn := 2 }
    let with1 (mm : Bool) : Ctx := { k (zeros 16) with desc := some two, ann := ⟨[1], [zeros 16], mm, 5, []⟩ }
    (two.nIn = 2 ∧ (with1 false).st = .configured ∧ (with1 false).job = p.job ∧ (with1 false).seq = (chunkHdr p).seq
      ∧ (chunkHdr p).inIdx < two.nIn ∧ (chunkHdr p).inIdx ∉ (with1 false).ann.ins
      ∧ (∃ i < two.nIn, i ≠ (chunkHdr p).inIdx ∧ i ∉ AnnRec.empty.ins)
      ∧ ¬(∃ i < two.nIn, i ≠ (chunkHdr p).inIdx ∧ i ∉ (with1 false).ann.ins)
      ∧ (∀ x ∈ (with1 false).ann.digests, x = two.digest) ∧ (with1 false).ann.anyMm = false ∧ (with1 true).ann.anyMm = true) ∧
    p.hdr.op = opCollAnn ∧ (chunkHdr p).ctx / 128 = 31 ∧ ((toEngine p world).ctx 4095).st = .free ∧ crcGood p = true
      ∧ (chunkHdr bad).ctx / 128 = 31 ∧ ((toEngine bad world).ctx 4095).st = .free ∧ crcGood bad = false
      ∧ (k (zeros 16)).st = .configured ∧ (k (zeros 16)).job = p.job ∧ (k (zeros 16)).seq = (chunkHdr p).seq
      ∧ (k (zeros 16)).ann = AnnRec.empty ∧ (parseDesc (desc (zeros 16))).nIn = 1 ∧ (chunkHdr p).inIdx = 0
      ∧ (chunkHdr p).mm = false ∧ slice (chunkBody p) 0 16 = (parseDesc (desc (zeros 16))).digest
      ∧ slice (chunkBody p) 0 16 ≠ (parseDesc (desc (List.replicate 16 1))).digest
      ∧ (k (List.replicate 16 1)).desc = some (parseDesc (desc (List.replicate 16 1))) := by decide +kernel

theorem witness_engineData :
    let p := chunk opCollData 0 (leBytes 4 7)
    let q := chunk opCollData 1 (leBytes 4 7)
    let d := parseDesc (desc (zeros 16))
    let s := toEngine p (withCtx .active (zeros 16) world)
    p.hdr.op = opCollData ∧ (chunkHdr p).ctx / 128 = 31 ∧ (s.ctx 4095).desc = some d ∧ (s.ctx 4095).job = p.job
      ∧ (s.ctx 4095).st ≠ .free ∧ (s.ctx 4095).st ≠ .failed ∧ s.dataOk 31 (s.ctx 4095) d p = true
      ∧ s.dataOk 31 (s.ctx 4095) d q = false ∧ (chunkHdr q).ctx / 128 = 31 := by decide +kernel

theorem witness_engineComplete :
    let k := (withCtx .active (zeros 16) world).ctx 4095
    let s (out : List Nat) := toEngine (pkt opComplete [])
      { world.setCtx 4095 { k with base := 2, outst := out } with msgs := [⟨7, .engine 4095, some 0, some 0, 0, false⟩] }
    (s [7]).messageOf (PktHdr.zero opComplete) = some ⟨7, .engine 4095, some 0, some 0, 0, false⟩
      ∧ 7 ∈ ((s [7]).ctx 4095).outst ∧ (((s [7, 8]).ctx 4095).outst.filter (· != 7)) ≠ [] ∧ ((s [7]).ctx 4095).outst = [7]
      ∧ ((s [7]).ctx 4095).st = .active ∧ (parseDesc (desc (zeros 16))).nChunks ≤ ((s [7]).ctx 4095).base
      ∧ ((s [7]).ctx 4095).pend = none := by decide +kernel

/-- Context 4095 at work on its first chunk, which was handled `n` times, and the packet accepted for it. -/
def working (n : Nat) (s : State) : State :=
  let k := (withCtx .active (zeros 16) s).ctx 4095
  let t : ChunkSlot := { chunk := 0, handled := n, elems := 1, recs := 0, recSize := 4, flags := 0, exact := [], holds := [] }
  { s.setCtx 4095 { k with slots := [t] } with
    accepted := [⟨31, 4095, ⟨s.engineSlot 31, 1, false, 31, 1, chunk opCollData 0 (leBytes 4 7), 0, 0⟩⟩] }

theorem witness_handler :
    let add := 0x01000000 * 2 ^ 192 + 0x10000000 * 2 ^ 128
    let d := parseDesc (desc (zeros 16))
    let t0 : ChunkSlot := { chunk := 0, handled := 0, elems := 1, recs := 0, recSize := 4, flags := 0, exact := [], holds := [] }
    let s := working 0 (world.storeProg 31 0 add)
    let f := working 0 world
    s.xbarOn = true ∧ s.dev ≠ .faulted ∧ s.ue = [] ∧ (s.ctx 4095).desc = some d ∧ s.accepted.length = 1
      ∧ chunkSlot (s.ctx 4095) 0 = some t0
      ∧ (match s.runHandler 31 4095 d t0 (chunk opCollData 0 (leBytes 4 7)) with | .ok _ => true | _ => false) = true
      ∧ (match f.runHandler 31 4095 d t0 (chunk opCollData 0 (leBytes 4 7)) with | .fault _ => true | _ => false) = true
      ∧ (f.ctx 4095).st = .active ∧ d.dtype = dtI32 ∧ d.inTypes.getD 0 0 = 0 ∧ d.handler < 1024
      ∧ s.progOk 31 d.handler = true ∧ s.progWord 31 d.handler = add ∧ 1 ≤ d.chunkElems := by decide +kernel

theorem witness_emit :
    let s := working 1 world
    s.emitReady 4095 = true ∧ (∀ x < 128, x ≠ 127 → s.emitReady (128 * 31 + x) = false)
      ∧ (chunkSlot (s.ctx 4095) (s.ctx 4095).base).isSome = true := by decide +kernel

theorem witness_streamRegisters :
    run0.dev ≠ .off ∧ run0.dev ≠ .rom ∧ wfld 0x400B0005 31 30 = 1 ∧ 0 < wfld 0x400B0005 23 16 ∧ wfld 0x400B0005 23 16 ≤ 0x0B
      ∧ wfld 0x80000005 31 30 = 2 ∧ (2 : Word).getLsbD 1 = true ∧ (2 : Word).getLsbD 0 = false ∧ (1 : Word).getLsbD 1 = false
      ∧ (1 : Word).getLsbD 0 = true ∧ run0.ue = [] := by decide +kernel

/-! ### Collectives and cores -/

theorem witness_collAccept :
    let m := localPage world
    let s : State := { m with dpa := wrBytes m.dpa 0x201000 planBytes, ls := wrBytes m.ls (lsAt 0 0) collBytes }
    let s := (s.setReg (R.tdCRank 0) 0x80000000).setCore 0 { Core.reset with cq := [⟨0, 1, 1, 1, 0⟩] }
    let s1 := s.setCore 0 { s.core 0 with cq := [] }
    s.xbarOn = true ∧ (s.core 0).cq = [⟨0, 1, 1, 1, 0⟩] ∧ s.hasCore 0 = true ∧ s.collRoom 0 = true ∧ s.ue = [] ∧ (s.core 0).decays = []
      ∧ s.bit (R.tdCRank 0) 31 = true
      ∧ (match s1.readPlan 0 (parseColl (s.lsNow 0 (dmaDesc 0) 128)) with
         | (_, .ok p) => p.ctlLeaf.valid
         | _ => false) = true
      ∧ (let r := s.setReg (R.tdCRank 0) 0
         (r.core 0).cq = [⟨0, 1, 1, 1, 0⟩] ∧ r.collRoom 0 = true ∧ r.bit (R.tdCRank 0) 31 = false) := by decide +kernel

set_option maxRecDepth 100000 in
theorem witness_collAnnounces :
    let c := coll .announce [] []
    let o : State := { world with colls := [c] }
    let a := toColl opCollAnn 9 false (zeros 64) o
    let r (step : Nat) := toColl opCollAnn 10 false (collDigest c.desc ++ zeros 16 ++ leBytes 8 step ++ zeros 24) o
    (o.xbarOn = true ∧ o.colls = [c] ∧ c.n = 0 ∧ c.mayAnnounce = true)
      ∧ (∃ x ∈ a.inbox, a.inbox = [x] ∧ x.slot = a.tileSlot 0 ∧ x.pkt.hdr.op = opCollAnn ∧ a.collFor 0 x = some c
        ∧ c.desc.treeOf (chunkHdr x.pkt).seq = some 0 ∧ 0 ≠ c.desc.trees ∧ crcGood x.pkt = true
        ∧ crcGood { x.pkt with data := x.pkt.data.set 0 1 } = false)
      ∧ (∀ step < 2, ∃ x ∈ (r step).inbox, (r step).inbox = [x] ∧ (r step).collFor 0 x = some c
        ∧ c.desc.treeOf (chunkHdr x.pkt).seq = some c.desc.trees ∧ crcGood x.pkt = true ∧ c.phase = .announce
        ∧ (chunkHdr x.pkt).mm = false ∧ slice (chunkBody x.pkt) 0 16 = collDigest c.desc
        ∧ (leAt (chunkBody x.pkt) 32 8 = (r step).reg64 (R.tdCStepLo c.core) (R.tdCStepHi c.core) ↔ step = 0)
        ∧ c.desc.op ≠ cAllToAll) := by decide +kernel

set_option maxRecDepth 100000 in
theorem witness_allToAllReleases :
    let c := { coll .announce [] [] with desc := parseColl (collBytes.set 0 10) }
    let r := toColl opCollAnn (9 + c.desc.trees) false (collDigest c.desc ++ zeros 48) { world with colls := [c] }
    ∃ x ∈ r.inbox, r.inbox = [x] ∧ x.slot = r.tileSlot 0 ∧ x.pkt.hdr.op = opCollAnn ∧ r.collFor 0 x = some c
      ∧ c.desc.treeOf (chunkHdr x.pkt).seq = some c.desc.trees ∧ crcGood x.pkt = true ∧ c.phase = .announce
      ∧ (chunkHdr x.pkt).mm = false ∧ slice (chunkBody x.pkt) 0 16 = collDigest c.desc
      ∧ leAt (chunkBody x.pkt) 32 8 = r.reg64 (R.tdCStepLo c.core) (R.tdCStepHi c.core)
      ∧ c.desc.op = cAllToAll ∧ c.desc.vcount = false
      ∧ (let d := parseColl ((collBytes.set 0 10).set 4 16)
         d.op = cAllToAll ∧ d.vcount = true) := by decide +kernel

theorem witness_collData :
    let st : CollStream := { tree := 0, next := 0, chunks := 1, count := 1, outst := 0 }
    let c := coll .released [st] []
    let f := coll .released [{ st with next := 1 }] [(0, 1)]
    let d := coll .done [] []
    let l := toColl opCollData 9 false (zeros 4) { localPage world with colls := [c] }
    let z := toColl opCollData 9 false (zeros 4) world
    let e := toColl opCollData 10 true (zeros 4) { world with colls := [d] }
    (world.xbarOn = true ∧ c.streams = [] ++ st :: [] ∧ c.canSend st = true ∧ c.canSend { st with outst := 4 } = false ∧ f.mayFinish = true
        ∧ (coll .released [{ st with outst := 4 }, st] []).streams = [{ st with outst := 4 }] ++ st :: []
        ∧ (coll .released [{ st with outst := 4 }, st] []).canSend st = true
        ∧ (coll .released [{ st with outst := 4 }, st] []).canSend { st with outst := 4 } = false)
      ∧ (∃ x ∈ l.inbox, l.inbox = [x] ∧ x.slot = l.tileSlot 0 ∧ x.pkt.hdr.op = opCollData ∧ l.collFor 0 x = some c
        ∧ c.isDone x = false ∧ crcGood x.pkt = true ∧ l.active.jobSlot x.pkt.job = some 0 ∧ l.ue = [] ∧ l.atu = []
        ∧ 0 < (chunkBody x.pkt).length ∧ x.pkt.hdr.addr % 2 ^ 21 + (chunkBody x.pkt).length ≤ 2 ^ 21
        ∧ l.walk 0 x.pkt.hdr.addr true = .ok 0x200000)
      ∧ (∃ x ∈ z.inbox, z.inbox = [x] ∧ z.collFor 0 x = none ∧ x.slot = z.tileSlot 0 ∧ x.pkt.hdr.op = opCollData)
      ∧ (∃ x ∈ e.inbox, e.inbox = [x] ∧ e.collFor 0 x = some d ∧ d.isDone x = true ∧ crcGood x.pkt = true ∧ d.phase = .done
        ∧ (∀ y ∈ (e.core d.core).lsw, y.vis ≤ (e.core d.core).cyc) ∧ d.desc.recAddr + 32 ≤ lsSize)
      ∧ 19 < world.tiles ∧ wfld 0x400B0005 31 30 = 1 ∧ 0 < wfld 0x400B0005 23 16 ∧ wfld 0x400B0005 23 16 ≤ 0x0B := by
  decide +kernel

/-- COLLJOBCMD: a chunk that waits in the attachment is not sent after the abort (R193). -/
theorem test_collJobAbort_stops :
    let c := coll .released [] []
    let s : State := { world with colls := [c], msgs := [⟨3, .collData c.id 0, some 9, none, 0, true⟩]
                                  attach := [⟨world.tileSlot 0, some 3, none, none, pkt opCollData []⟩] }
    let t := s.writeColljobcmd 0 (BitVec.ofNat 32 (0x400B0000 + c.job))
    t.attach = [] ∧ t.colls = [] := by decide +kernel

theorem witness_cores :
    let hdr := 0x58435748 * 2 ^ 480 + 2 ^ 472 + 4 * 2 ^ 446
    let p : State := { run0 with ls := wrBytes [] (lsAt 79 0) (leBytes 64 hdr) }
    let in_ (st : CoreState) (k : Core) := run0.setCore 79 { k with st := st }
    let q : Core := { Core.reset with cq := [⟨0, 1, 1, 1, 0⟩] }
    run0.hasCore 79 = true ∧ (p.core 79).st = .idle ∧ p.qempty 79 = true ∧ p.ue = [] ∧ (p.core 79).decays = []
      ∧ headerOk 0 (leNat (p.lsNow 79 (64 * 0) 64)) = true ∧ headerOk 0 (leNat (run0.lsNow 79 (64 * 0) 64)) = false
      ∧ ((in_ .running Core.reset).core 79).st = .running ∧ ((in_ .running Core.reset).core 79).blocked = false
      ∧ ((in_ .running { Core.reset with blocked := true }).core 79).blocked = true
      ∧ ((in_ .running { Core.reset with stopping := true }).core 79).stopping = true
      ∧ ((in_ .waiting Core.reset).core 79).st = .waiting ∧ ((in_ .waiting Core.reset).core 79).fault = none
      ∧ ((in_ .faulted Core.reset).core 79).st = .faulted ∧ (in_ .faulted Core.reset).qempty 79 = true
      ∧ ((in_ .faulted q).core 79).st = .faulted ∧ (in_ .faulted q).qempty 79 = false
      ∧ ((in_ .running { Core.reset with halting := true }).core 79).halting = true := by decide +kernel

theorem witness_dispatchControl :
    let ok (w : Nat) (k : Core) : Bool :=
      let s := fetching w k run0
      let c := s.core 79
      s.hasCore 79 && s.ue.isEmpty && s.fetchWord 79 c.ready == w && c.st == .running && !c.halting && !c.stopping && c.fault.isNone
        && c.mq.isEmpty && c.vq0.isEmpty && c.vq1.isEmpty && c.started.isEmpty && c.decays.isEmpty && c.hdrPc < c.pc
        && c.pc ≤ c.hdrPc + c.count && (2 ^ 64 ≤ w || ctlOk c c.pc w)
    let cset := 2 ^ 46 + 15 * 2 ^ 36 + scCset * 2 ^ 32
    let loop := 2 ^ 14 * 5 + 2 ^ 8
    let k := { Core.reset with lc := [(0, 3)] }
    (ok cset Core.reset = true ∧ scOp cset = scCset ∧ lpOp cset = 0 ∧ activeLevels Core.reset = [])
      ∧ (ok (4 * 2 ^ 46 + scJmp * 2 ^ 32) Core.reset = true ∧ scOp (4 * 2 ^ 46 + scJmp * 2 ^ 32) = scJmp)
      ∧ (ok (4 * 2 ^ 46 + 7 * 2 ^ 40 + scBr * 2 ^ 32) Core.reset = true ∧ scOp (4 * 2 ^ 46 + 7 * 2 ^ 40 + scBr * 2 ^ 32) = scBr)
      ∧ (ok (scHalt * 2 ^ 32) Core.reset = true ∧ scOp (scHalt * 2 ^ 32) = scHalt)
      ∧ (ok loop k = true ∧ scOp loop = 0 ∧ lpOp loop = 1 ∧ k.loopCount (lpLvl loop) ≠ 0)
      ∧ (ok (2 ^ 480) Core.reset = true ∧ isNsm (2 ^ 480) = false ∧ wTag (2 ^ 480) ≠ 0) := by decide +kernel

theorem witness_dispatchSync :
    let y (op n : Nat) := op * 2 ^ 28 + 1023 * 2 ^ 18 + n
    let s := fetching (y 1 1 * 2 ^ 448) Core.reset run0
    (∀ op < 5, syncOk (y op 1) = (op != 0) ∧ y op 1 < 2 ^ 32) ∧ s.fetchWord 79 (s.core 79).ready = y 1 1 * 2 ^ 448
      ∧ syOp (y 1 1) = 1 ∧ (s.sem 79 (sySem (y 1 1))).toNat < syN (y 1 1) ∧ syN (y 1 0) ≤ (s.sem 79 (sySem (y 1 0))).toNat
      ∧ syOp (y 2 1) = 2 ∧ (s.sem 79 (sySem (y 2 1))).toNat + syN (y 2 1) < 2 ^ 32 ∧ syOp (y 3 0) = 3
      ∧ syN (y 3 0) ≤ (s.sem 79 (sySem (y 3 0))).toNat ∧ (s.sem 79 (sySem (y 3 1))).toNat < syN (y 3 1) ∧ syOp (y 4 63) = 4
      ∧ syncOk (y 4 63) = true := by decide +kernel

/-- A core that waits since cycle 9 for a semaphore which holds `v`. -/
theorem witness_dispatchWaiting :
    let y (n : Nat) := 2 ^ 28 + 1023 * 2 ^ 18 + n
    let s (n : Nat) :=
      let f := fetching (y n * 2 ^ 448) { Core.reset with cyc := 9, ready := 10, blocked := true } run0
      f.setCore 79 { f.core 79 with st := .waiting }
    ∀ n < 2, ((s n).core 79).st = .waiting ∧ (s n).fetchWord 79 (max (10 + 5) (9 + 3)) = y n * 2 ^ 448 ∧ y n < 2 ^ 32
      ∧ syncOk (y n) = true ∧ syOp (y n) = 1 ∧ ((syN (y n) ≤ ((s n).sem 79 (sySem (y n))).toNat) ↔ n = 0)
      ∧ ((s n).core 79).fault = none ∧ ((s n).core 79).started = [] ∧ ((s n).core 79).hdrPc < ((s n).core 79).pc
      ∧ ((s n).core 79).pc ≤ ((s n).core 79).hdrPc + ((s n).core 79).count := by decide +kernel

theorem witness_dispatchMat :
    let m := 2 ^ 60
    let s := fetching (m * 2 ^ 64) Core.reset run0
    let k := s.core 79
    s.fetchWord 79 k.ready = m * 2 ^ 64 ∧ m < 2 ^ 64 ∧ matOk m = true ∧ matOp m = matMma
      ∧ k.inWindow (matGa m) (k.addr (matGa m)) (matExtA m) = true
      ∧ k.inWindow (matGb m) (k.addr (matGb m)) (matExtB m) = true := by decide +kernel

theorem witness_startCommands :
    let c (q bits : Nat) : QCmd := ⟨q, BitVec.ofNat 64 bits, 1, 1, 1, 0, 0, 0, 0, 0⟩
    let k := Core.reset
    run0.ue = [] ∧ k.safelight = false ∧ k.decays = [] ∧ k.fault = none ∧ k.started = [] ∧ k.lsw = [] ∧ k.accw = [] ∧ k.flips = []
      ∧ (let m := (c 0 (2 ^ 60 + 3 * 2 ^ 50 + 3 * 2 ^ 47 + 19 * 2 ^ 27)).bits; matOp m = matMma ∧ matOk m = true ∧ groupsOf m = 2)
      ∧ (let m := (c 0 (2 ^ 60 + 6 * 2 ^ 50 + 5 * 2 ^ 47 + 63 * 2 ^ 27)).bits; matOp m = matMma ∧ matOk m = true ∧ groupsOf m = 4)
      ∧ (let m := (c 0 (2 * 2 ^ 60 + 3 * 2 ^ 50 + 3 * 2 ^ 47 + 63 * 2 ^ 27 + 400 * 2 ^ 10)).bits
         matOp m = matMms ∧ matOk m = true ∧ matK m = 64)
      ∧ (∀ op ∈ [vCvt, vSum, vSumsq, vMeanvar, vAmax, vOpt, vDrain], vecOp (c 1 (op * 2 ^ 56)).bits = op)
      ∧ vecN (c 1 (vThin * 2 ^ 56 + 63 * 2 ^ 22)).bits = 64
      ∧ matOp (c 0 (3 * 2 ^ 60)).bits = matClose ∧ vecOp (c 1 (vAdd * 2 ^ 56)).bits = vAdd ∧ isElementwise vAdd = true
      ∧ vecN (c 1 (vAdd * 2 ^ 56 + 127 * 2 ^ 22)).bits = 128 ∧ vecOp (c 2 (vMov * 2 ^ 56)).bits = vMov
      ∧ vecOp (c 2 (vFill * 2 ^ 56)).bits = vFill ∧ vecN (c 2 (vFill * 2 ^ 56 + 63 * 2 ^ 22)).bits = 64 := by decide +kernel

theorem witness_dma :
    let g (kind : Nat) := [BitVec.ofNat 8 kind, 0] ++ leBytes 2 0x83FF ++ leBytes 4 64 ++ leBytes 8 0x1FFFC0 ++ leBytes 4 0x40 ++ zeros 44
    let sig := [3, 0] ++ leBytes 2 0 ++ zeros 16 ++ leBytes 4 4 ++ leBytes 2 0 ++ leBytes 2 1023 ++ leBytes 4 1 ++ zeros 32
    let at_ (b : List Byte) := (dma b (localPage world)).setReg (R.tdCRank 79) 0x80000000
    let d (b : List Byte) := dmaDescOf ((at_ b).lsNow 79 (dmaDesc 0x2000000000000000) 64) 0x2000000000000000 0
    let k := (at_ (g 0)).core 79
    (at_ (g 0)).xbarOn = true ∧ (at_ (g 0)).hasCore 79 = true ∧ (at_ (g 0)).ue = [] ∧ (at_ (g 0)).atu = [] ∧ k.decays = [] ∧ k.dma = []
      ∧ k.dq 1 = [⟨0x2000000000000000, 1, 1, 1, 0⟩] ∧ (d (g 0)).bad = false ∧ (d (g 0)).kind = dkGet
      ∧ (d (g 0)).va % 2 ^ 21 + (d (g 0)).len ≤ 2 ^ 21 ∧ (at_ (g 0)).walk ((at_ (g 0)).coreSlot 79) (d (g 0)).va false = .ok 0x3FFFC0
      ∧ (∀ x ∈ k.lsw, x.vis ≤ k.cyc) ∧ (d (g 1)).bad = false ∧ (d (g 1)).kind = dkPut
      ∧ (at_ (g 1)).walk ((at_ (g 1)).coreSlot 79) (d (g 1)).va true = .ok 0x3FFFC0 ∧ (d (g 2)).bad = false
      ∧ (d (g 2)).kind = dkSend ∧ (d (g 2)).rsig = false ∧ (at_ (g 2)).bit (R.tdCRank 79) 31 = true ∧ (d sig).bad = false
      ∧ (d sig).kind = dkSignal ∧ (d (g 3)).bad = true ∧ (d (g 3)).kind = dkSignal ∧ (d (zeros 64)).bad = true
      ∧ (let o : DmaOp := ⟨1, 1, 1, 1, some 1023, none, true, false, none, false⟩
         ((run0.setCore 79 { Core.reset with dma := [o] }).core 79).dma = [o] ∧ o.eng = 1 ∧ o.finished = true ∧ o.ended = false
          ∧ o.done = some 1023 ∧ (run0.sem 79 1023).toNat < 2 ^ 32 - 1) := by decide +kernel

/-! ### Memory, pools, semaphores -/

/-- A packet of a tile die for va 0x1FFFC0. -/
def toTile (op n : Nat) (data : List Byte) (msgBytes addr : Nat) (s : State) : State :=
  let p := pkt op data
  arrives (s.tileSlot n) 0 { p with hdr := { p.hdr with addr := addr, msgBytes := msgBytes } } s

theorem witness_packetWrites :
    let ok (s : State) (op : Nat) : Prop := ∃ a ∈ s.inbox, s.inbox = [a] ∧ a.slot = s.tileSlot 19 ∧ 19 < s.tiles
      ∧ s.active.jobSlot a.pkt.job = some 0 ∧ s.ue = [] ∧ s.atu = [] ∧ 0 < a.pkt.data.length
      ∧ (a.pkt.hdr.addr + a.pkt.hdr.byteOff) % 2 ^ 21 + a.pkt.data.length ≤ 2 ^ 21 ∧ a.pkt.hdr.op = op
    let w := toTile opWrite 19 (zeros 64) 0 0x1FFFC0 (localPage world)
    let b := toTile opPageWb 19 (zeros 64) 0 0x1FFFC0 (localPage world)
    let d := toTile opWrite 19 (zeros 64) 0 0x1FFFC0 world
    ok w opWrite ∧ w.walk 0 0x1FFFC0 true = .ok 0x3FFFC0 ∧ ok b opPageWb ∧ b.walk 0 0x1FFFC0 true = .ok 0x3FFFC0
      ∧ (b.leafOf 0 0x1FFFC0).map leafRh = some false ∧ ok d opWrite
      ∧ d.walk 0 0x1FFFC0 true = .deny := by decide +kernel

theorem witness_requests :
    let ok (s : State) (op : Nat) : Prop := ∃ a ∈ s.inbox, s.inbox = [a] ∧ a.slot = s.tileSlot 19 ∧ 19 < s.tiles
      ∧ s.active.jobSlot a.pkt.job = some 0 ∧ s.ue = [] ∧ s.atu = [] ∧ a.pkt.hdr.op = op
    let r := toTile opReadReq 19 [] 15328 0x1FC420 (localPage world)
    let f := toTile opPageFetch 19 [] 0 0 (localPage world)
    world.xbarOn = true ∧ r.xbarOn = true ∧ f.xbarOn = true ∧ (toTile opReadReq 19 [] 1 0 (localPage run0)).xbarOn = false ∧
    ok r opReadReq ∧ r.walk 0 0x1FC420 false = .ok 0x3FC420 ∧ 0x1FC420 % 2 ^ 21 + 15328 ≤ 2 ^ 21 ∧ ok f opPageFetch
      ∧ f.walk 0 0 false = .ok 0x200000 ∧ (f.leafOf 0 0).map leafRh = some false := by decide +kernel

theorem witness_pages :
    let f (got : Nat) : Fetch := { n := 0, slot := 0, va := 0, leafAt := 0x2000, frame := 0x200000, rank := 4, active := true, got := got,
                                   waiters := [] }
    let s (got : Nat) := toTile opPageData 0 (zeros 64) 0 0 { world with fetches := [f got] }
    let p := mapped 0xC000000000200002 world
    (∀ got ∈ [0, 0x1FFFC0], ∃ a ∈ (s got).inbox, (s got).inbox = [a] ∧ a.slot = (s got).tileSlot 0 ∧ a.pkt.hdr.op = opPageData
        ∧ (f got).va = a.pkt.hdr.addr ∧ wfld ((s got).active.word 1 0 0 0) 11 0 = a.pkt.job ∧ (s got).wbs = []
        ∧ (got + a.pkt.data.length < 0x200000 ∨ got + a.pkt.data.length = 0x200000)
        ∧ (s got).dpaSpan ((f got).frame + a.pkt.hdr.byteOff) a.pkt.data.length = true)
      ∧ (let z : State := toTile opPageData 0 (zeros 64) 0 0 { world with fetches := [{ f 0 with frame := 2 ^ 47 }] }
         z.dpaSpan (2 ^ 47 + 0) 64 = false ∧ z.reg (R.tdMemfault0 0) = 0)
      ∧ wfld 0x40000000 31 30 = 1 ∧ wfld 0x80000000 31 30 = 2 ∧ wfld 0xC000003F 31 30 = 3 ∧ wfld 0xC000003F 5 0 = 63
      ∧ p.reg64 (R.tdPgvaLo 0) (R.tdPgvaHi 0) = 0 ∧ p.leafAddr 0 0 = some 0x2000 ∧ leafOk (p.dpaDword 0x2000) = true
      ∧ leafRh (p.dpaDword 0x2000) = true ∧ leafRs (p.dpaDword 0x2000) = 2 ∧ leafWr (p.dpaDword 0x2000) = false
      ∧ dpaDie (leafFrame (p.dpaDword 0x2000)) = 0 ∧ p.wbs = [] ∧ p.fetches = [] := by decide +kernel

theorem witness_releaseJob : (mapped 0xC000000000200002 world).remotePages 0 0 = [0] := by decide +kernel

theorem witness_translations :
    let s := run0.setReg (R.tdScrub 19) 0x80000000
    wbit 0x8000003F 31 = true ∧ wbit 0x8000003F 30 = false ∧ wfld 0x8000003F 5 0 = 63 ∧ 19 < run0.tiles
      ∧ ({ run0 with atuBusy := [(19, 63)] } : State).atuBusy = [(19, 63)] ∧ s.bit (R.tdScrub 19) 31 = true ∧ s.ue = []
      ∧ (let r := run0.setReg (R.tdScrub 0) 0x80000000
         r.bit (R.tdScrub 0) 31 = true ∧ dpaDie 64 = 0 ∧ dpaRow 64 = some 0 ∧ r.reg (R.tdMemfault0 0) = 0) := by decide +kernel

theorem witness_pools :
    let legal := run0.setReg (R.bpmPoolCount 7) 4
    let on (used : List (Nat × Nat)) : State := { legal.setReg R.bpmCtl 1 with poolUsed := used }
    let s := on [(7, 0), (7, 3)]
    run0.dev ≠ .off ∧ run0.dev ≠ .rom ∧ legal.bit R.bpmCtl 0 = false ∧ legal.carvingLegal = true
      ∧ (run0.setReg (R.bpmPoolCount 7) 65537).carvingLegal = false ∧ s.bit R.bpmCtl 0 = true ∧ 256 * 4 ^ 6 + 1 ≤ 256 * 4 ^ 7
      ∧ s.poolCount 7 ≠ 0 ∧ (∀ p < 7, s.poolCount p = 0 ∨ 256 * 4 ^ p < 256 * 4 ^ 6 + 1) ∧ (7, 1) ∉ s.poolUsed
      ∧ (∀ x < 1, (7, x) ∈ s.poolUsed)
      ∧ (∀ x < 4, (7, x) ∈ (on [(7, 0), (7, 1), (7, 2), (7, 3)]).poolUsed)
      ∧ (∀ p < 8, s.poolCount p = 0 ∨ 256 * 4 ^ p < 256 * 4 ^ 7 + 1) ∧ handleIndex 0xE00003 < s.poolCount (handlePool 0xE00003)
      ∧ (handlePool 0xE00003, handleIndex 0xE00003) ∈ s.poolUsed
      ∧ ¬(s.bit R.bpmCtl 0 = true ∧ handleIndex 0xE00004 < s.poolCount (handlePool 0xE00004)
        ∧ (handlePool 0xE00004, handleIndex 0xE00004) ∈ s.poolUsed) ∧ s.reg R.bpmFreeerr ≠ 0xFFFFFFFF := by decide +kernel

theorem witness_semaphores :
    let s (n m : Nat) := (toTile opSemAdd 0 (leBytes 4 n) m 1023 run0).setSem 0 1023 0xFFFFFFFE
    (∀ n < 3, ∀ m < 2, ∃ a ∈ (s n m).inbox, (s n m).inbox = [a] ∧ a.slot = (s n m).tileSlot (0 / 4) ∧ a.pkt.hdr.op = opSemAdd ∧ a.unit = 0
        ∧ a.pkt.hdr.addr < 1024 ∧ a.pkt.hdr.msgBytes = m ∧ leAt a.pkt.data 0 4 = n)
      ∧ ((s 1 0).sem 0 1023).toNat + 1 < 2 ^ 32 ∧ 2 ^ 32 ≤ ((s 2 0).sem 0 1023).toNat + 2
      ∧ run0.dev ≠ .off ∧ run0.dev ≠ .rom ∧ 19 < run0.tiles ∧ (run0.core (4 * 19 + run0.fld (R.tdSemsel 19) 11 10)).st = .idle
      ∧ (let b := run0.setCore (4 * 19) { Core.reset with st := .running }
         (b.core (4 * 19 + b.fld (R.tdSemsel 19) 11 10)).st = .running) := by
  decide +kernel

/-- Two SEM_ADDs for core 0 that arrived together, the second from the lower slot. -/
theorem witness_semOrder :
    let x (src : Nat) : Arrival := ⟨run0.tileSlot 0, 0, false, 0, 0, pkt opSemAdd (leBytes 4 1), src, 3⟩
    let s : State := { run0 with inbox := [x 5, x 4] }
    s.inbox = [x 5, x 4] ∧ (∀ y ∈ [x 5, x 4], y.slot = s.tileSlot (0 / 4) ∧ y.pkt.hdr.op = opSemAdd ∧ y.unit = 0)
      ∧ (x 4).at_ = (x 5).at_ ∧ (x 4).src < (x 5).src ∧ (x 4).pkt.hdr.msgBytes = 0 ∧ (x 4).pkt.hdr.addr < 1024
      ∧ (s.sem 0 (x 4).pkt.hdr.addr).toNat + leAt (x 4).pkt.data 0 4 < 2 ^ 32 := by decide +kernel

/-- A SEM_ADD on lane 0 for semaphore 1,024 of endpoint 0, and one for endpoint 1, an engine. -/
def stray (ep addr : Nat) : State :=
  let h : PktHdr := { PktHdr.zero opSemAdd with dstEp := ep, addr := addr }
  world.setLink 0 0 { Link.reset with
    st := .up, rxWait := [{ plainFlit 0 with sop := true, eop := true, job := 5, len := 36, payload := padTo 240 h.bytes }] }

theorem witness_semStray :
    ∀ p ∈ [(0, 0, 0, 1024), (1, 1, 0, 5)], let (ep, kind, y, addr) := p
      ∃ f ∈ ((stray ep addr).link 0 0).rxWait, (stray ep addr).xbarOn = true
      ∧ (stray ep addr).subportAt 0 0 = some (0, 0) ∧ ((stray ep addr).link 0 0).rxWait = [f]
      ∧ ((stray ep addr).link 0 0).rxDec = [] ∧ ((stray ep addr).link 0 0).rxCut = [] ∧ ((stray ep addr).link 0 0).rxHeld = []
      ∧ f.vc = 0 ∧ f.sop = true ∧ f.eop = true ∧ (hdrOfBytes f.payload).op = opSemAdd
      ∧ (hdrOfBytes f.payload).dstDev = (stray ep addr).selfDev
      ∧ (stray ep addr).expelled f.job (hdrOfBytes f.payload).srcDev = false ∧ (stray ep addr).active.jobSlot f.job = some 0
      ∧ (stray ep addr).active.endpoint 0 (hdrOfBytes f.payload).dstEp = some (kind, y) ∧ (hdrOfBytes f.payload).addr = addr
      ∧ ((kind = 0 ∧ y / 4 < world.tiles ∧ 1024 ≤ addr) ∨ (kind = 1 ∧ y < 32)) := by decide +kernel

/-! ### Time, shutters, serving -/

/-- Fabric time enabled, with a counter. -/
def timed (ctl : Word) (now : Nat) (loaded : Bool) (s : State) : State :=
  { s.setReg R.timeCtl ctl with time := { s.time with now := BitVec.ofNat 64 now, loaded := loaded, epoch := some 1 } }

theorem witness_timeFlits :
    let up := timed 1 0x10010 true (world.setLink 0 0 { Link.reset with st := .up, syncs := 256 })
    let child := timed 5 0 false world
    up.timeOn = true ∧ up.subUp 0 0 = true ∧ up.time.loaded = true ∧ 256 ≤ (up.link 0 0).syncs ∧ up.time.now.toNat < 2 ^ 55
      ∧ (up.time.now.toNat : Int) - 0x10000 = 16 ∧ child.timeOn = true ∧ child.subUp 0 0 = true ∧ child.time.loaded = false
      ∧ child.fromParent 0 0 = true ∧ child.time.epoch = some 1 ∧ (0x10001 : Dword).toNat % 2 ^ 55 = 0x10001
      ∧ (((0x10001 : Dword).toNat : Int) - (1 * 2 ^ 16 : Nat)).natAbs < 2 ^ 54 := by decide +kernel

theorem witness_timeCommands :
    let root := timed 0xB 5 true (run0.setReg R.timeSetLo 5)
    let late := timed 0xB 6 true (run0.setReg R.timeSetLo 5)
    let armed : State := { timed 0xB 0 false run0 with time := { run0.time with armed := true } }
    root.isRoot = true ∧ root.time.now.toNat ≤ root.reg64 R.timeSetLo R.timeSetHi ∧ late.isRoot = true ∧ late.time.loaded = true
      ∧ late.reg64 R.timeSetLo R.timeSetHi < late.time.now.toNat ∧ run0.isRoot = false ∧ root.bit R.timeCtl 3 = true
      ∧ root.time.armed = false ∧ armed.bit R.timeCtl 3 = true ∧ armed.time.armed = true ∧ armed.time.loaded = false := by
  decide +kernel

theorem witness_timeCorrection :
    let s := (timed 5 1000 true world).setReg R.timeCfg 0x01000010
    let dba (t3 : Nat) := sext 28 (s.time.now.toNat + 2 ^ 28 - t3 % 2 ^ 28)
    let th (t3 : Nat) (d : Int) := dba t3 - d - sext 16 (s.fld R.timeAsym 15 0)
    s.time.loaded = true ∧ s.fromParent 0 0 = true ∧ s.subUp 0 0 = true ∧ (dba 900).natAbs < 2 ^ 26
      ∧ 2 * s.fld R.timeCfg 15 0 ≤ (th 900 0).natAbs ∧ (th 900 100).natAbs < 2 * s.fld R.timeCfg 15 0 ∧ s.timeOn = true
      ∧ s.parentLane.isSome = true ∧ s.time.holdover = false := by decide +kernel

/-- Shutter 63 with core 79 as its participant and lane 0 as its child, in a state of its machine. -/
def shut (h : Shutter) (s : State) : State :=
  (((s.setReg (R.timeShutLocal 63 2) 0x8000).setReg (R.timeShutChild 63 0) 1).setReg (R.timeShutCfg 63) 0xC0000000).setShutter 63 h

theorem witness_shutters :
    let h (st : ShutState) : Shutter := { Shutter.reset with st := st, gen := 5, t := 7 }
    let off := (shut (h .off) world).setReg (R.timeShutCfg 63) 0
    let c := shut (h .collect) world
    let a : State := { c with time := { c.time with arrivals := [(79, 63, 1023)] } }
    let twice := a.setShutter 63 { h .collect with locals := [⟨79, true, true, 1, 2⟩] }
    let lone := a.setReg (R.timeShutChild 63 0) 0
    let sent := timed 1 8 true (shut (h .sent) world)
    let armed := (timed 1 8 true (shut (h .armed) world)).setShutter 63 { h .armed with locals := [⟨79, true, false, 3, 0⟩] }
    off.bit (R.timeShutCfg 63) 31 = false ∧ off.shutLocals 63 ≠ [] ∧ c.bit (R.timeShutCfg 63) 31 = true
      ∧ a.time.arrivals = [(79, 63, 1023)] ∧ (a.shutter 63).st = .collect ∧ 79 ∈ a.shutLocals 63
      ∧ a.fld (R.tdCJob 79) 11 0 = a.shutJob 63 ∧ (flagsOf (a.shutter 63).locals 79).ag = false
      ∧ lone.bit (R.timeShutCfg 63) 30 = true ∧ lone.shutLocals 63 = [79] ∧ lone.shutChildren 63 = []
      ∧ (flagsOf (twice.shutter 63).locals 79).ag = true ∧ (flagsOf (twice.shutter 63).locals 79).ag1 = true
      ∧ c.subUp 0 0 = true ∧ lk 0 0 ∈ c.shutChildren 63 ∧ (c.shutter 63).st = .collect ∧ 1 % 4 = (c.shutter 63).gen % 4
      ∧ (flagsOf (c.shutter 63).childs (lk 0 0)).ag = false ∧ 3 % 4 = ((c.shutter 63).gen + 2) % 4 ∧ 0 % 4 = ((c.shutter 63).gen + 3) % 4
      ∧ sent.subUp 0 0 = true ∧ (sent.shutter 63).st = .sent ∧ ((8 : Int) - sent.time.now.toNat).natAbs < 2 ^ 46
      ∧ sent.time.now.toNat ≤ 8 ∧ 7 < sent.time.now.toNat ∧ 2 % 4 ≠ (sent.shutter 63).gen % 4
      ∧ (armed.shutter 63).st = .armed ∧ (armed.shutter 63).t.toNat ≤ armed.time.now.toNat ∧ armed.shutLocals 63 = [79]
      ∧ (flagsOf (armed.shutter 63).locals 79).ag = true ∧ (armed.sem 79 3).toNat < 2 ^ 32 - 1 := by decide +kernel

/-- Model 255 of job 5, bound to group 79, with its limits; group 79 of job 5 on core 79 with its control block at 0x1000. -/
def served (s : State) : State :=
  let m := [3, 79] ++ leBytes 2 5 ++ leBytes 4 0 ++ leBytes 8 0x40 ++ [1, 1, 10, 0] ++ leBytes 2 1 ++ zeros 10
  let g := [1, 0] ++ leBytes 2 5 ++ leBytes 10 (2 ^ 79) ++ leBytes 2 3 ++ leBytes 8 0x1000 ++ zeros 8
  { s with active := { s.active with models := [(255, m)], groups := [(79, g)] } }

def request (t : Nat) : Request := { model := 255, handle := 1, lane := 0, time := BitVec.ofNat 64 t }

theorem witness_requests' :
    let on := (served run0).setReg R.dspCtl 1
    let ask (q : List Request) (s : State) : State := { s with dsp := { s.dsp with inbox := [request 0], queue := q } }
    let aged : State :=
      let s := served run0
      let m := [3, 79] ++ leBytes 2 5 ++ zeros 12 ++ [1, 1, 10, 1] ++ zeros 12
      { s with active := { s.active with models := [(255, m)] }, dsp := { s.dsp with queue := [request 0] },
               time := { s.time with now := 6250001 } }
    let fresh : State := { served run0 with dsp := { run0.dsp with queue := [request 0] }, time := { run0.time with now := 62500 } }
    (ask [] on).dsp.inbox = [request 0] ∧ (ask [] on).bit R.dspCtl 0 = true ∧ ((ask [] on).modelRec 255).valid = true
      ∧ ¬(((ask [] on).modelRec 255).qlimit ≤ ((ask [] on).dsp.of 255).length) ∧ (ask [] on).dsp.queue.length < 65536
      ∧ (ask [] (served run0)).bit R.dspCtl 0 = false ∧ ((ask [] (run0.setReg R.dspCtl 1)).modelRec 255).valid = false
      ∧ ((ask [request 0] on).modelRec 255).qlimit ≤ ((ask [request 0] on).dsp.of 255).length
      ∧ aged.dsp.queue = [request 0] ∧ 0 < (aged.modelRec 255).ageMs ∧ 6250000 * (aged.modelRec 255).ageMs < aged.age (request 0)
      ∧ (fresh.modelRec 255).ageMs = 0 ∧ (fresh.modelRec 255).valid = true ∧ (request 0).model < 256
      ∧ 6250 * (fresh.modelRec 255).waitUs ≤ fresh.age (request 0) := by decide +kernel

/-- A queue of `n` requests of model 1. -/
def crowd (n : Nat) : State :=
  let on := (served run0).setReg R.dspCtl 1
  { on with dsp := { on.dsp with inbox := [request 0], queue := List.replicate n { request 0 with model := 1 } } }

theorem othersWait (n : Nat) : ((crowd n).dsp.of 255).length = 0 := by
  simp [crowd, Dispatcher.of, request]

theorem ofOthers (n : Nat) : (crowd n).bit R.dspCtl 0 = true ∧ (crowd n).modelRec 255 = (crowd 0).modelRec 255
    ∧ n ≤ (crowd n).dsp.queue.length := by
  refine ⟨?_, rfl, ?_⟩
  · show ((served run0).setReg R.dspCtl 1).bit R.dspCtl 0 = true
    decide +kernel
  · simp [crowd]

theorem witness_queueFull : (crowd 65536).bit R.dspCtl 0 = true ∧ ((crowd 65536).modelRec 255).valid = true
    ∧ 65536 ≤ (crowd 65536).dsp.queue.length ∧ ¬(((crowd 65536).modelRec 255).qlimit ≤ ((crowd 65536).dsp.of 255).length) := by
  have h : ((crowd 0).modelRec 255).valid = true ∧ ((crowd 0).modelRec 255).qlimit = 1 := by decide +kernel
  rw [othersWait, (ofOthers 65536).2.1]
  exact ⟨(ofOthers _).1, h.1, (ofOthers _).2.2, by rw [h.2]; decide⟩

theorem witness_dispatch :
    let j := (jobs .running (served world)).setReg R.dspCtl 1
    let s := { j with dsp := { j.dsp with queue := [request 0], ready := [255] } }.setGroup 79
      { Group.reset with st := .idle, model := some 255 }
    s.xbarOn = true ∧ run0.xbarOn = false ∧ s.bit R.dspCtl 1 = false ∧ s.dsp.queue = [request 0] ∧ s.dsp.ready = [255] ∧ s.dsp.stale = [] ∧ (s.modelRec 255).valid = true
      ∧ (s.modelRec 255).fixed = true ∧ (s.modelRec 255).fixGrp = 79 ∧ (s.modelRec 255).ageMs = 0 ∧ (s.modelRec 255).maxBatch = 1
      ∧ 1 ≤ (s.modelRec 255).quantum ∧ s.groupFree 79 = true ∧ (∀ x < 80, x ≠ 79 → s.groupFree x = false)
      ∧ (s.group 79).model = some 255 ∧ (s.group 79).conts = [] ∧ s.dpaSpan (s.groupRec 79).cb 72 = true
      ∧ (s.setReg R.dspCtl 2).bit R.dspCtl 1 = true := by decide +kernel

theorem witness_batches :
    let e : BatchEntry := ⟨1, false, 0⟩
    let done (seq : Nat) := leBytes 4 seq ++ [1, 0, 0, 0] ++ leBytes 4 1 ++ zeros 4
    let p (seq : Nat) : Packet :=
      let p := pkt opWrite (done seq)
      { p with hdr := { p.hdr with addr := 0x1000 * 79 } }
    let s (seq : Nat) := (arrives run0.mgmtSlot 1 (p seq) (((served run0).setReg (R.bpmPoolCount 0) 4).setReg R.bpmCtl 1)).setGroup 79
      { Group.reset with st := .busy, open_ := some (7, 255, [e]) }
    (∀ q ∈ [7, 8], ∃ a ∈ (s q).inbox, (s q).inbox = [a] ∧ a.slot = (s q).mgmtSlot ∧ a.unit = 1 ∧ a.pkt.hdr.op = opWrite
        ∧ a.pkt.hdr.addr = 0x1000 * 79 ∧ completionOk 7 [e] a.pkt.data = (q == 7) ∧ leAt a.pkt.data 14 1 = 0)
      ∧ ((s 7).groupRec 79).valid = true ∧ ((s 8).groupRec 79).valid = true ∧ ((s 7).group 79).st = .busy ∧ ((s 7).group 79).open_ = some (7, 255, [e]) ∧ (s 7).bit R.bpmCtl 0 = true
      ∧ handleIndex e.handle < (s 7).poolCount (handlePool e.handle) := by decide +kernel

theorem witness_switch :
    let e : BatchEntry := ⟨1, false, 0⟩
    let hdr := 0x58435748 * 2 ^ 480 + 2 ^ 472 + 4 * 2 ^ 446
    let s := ({ served world with ls := wrBytes [] (lsAt 79 0) (leBytes 64 hdr) }.setCore 79 { Core.reset with st := .halted }).setGroup 79
      { Group.reset with st := .switching, next := some (255, [e]) }
    s.xbarOn = true ∧ (s.group 79).st = .switching ∧ (s.group 79).next = some (255, [e]) ∧ (s.groupRec 79).cores = [79] ∧ (s.core 79).st = .halted
      ∧ s.qempty 79 = true ∧ s.ue = [] ∧ (s.core 79).decays = []
      ∧ headerOk (s.modelRec 255).prog (leNat (s.lsNow 79 (64 * (s.modelRec 255).prog) 64)) = true := by decide +kernel

/-! ### Well-formed commands -/

theorem test_wf_pool : Instr.wf (.minfreeRead 8) = false := by decide
theorem test_wf_group : Instr.wf (.mcgWrite 1024 0 0) = false := by decide
theorem test_wf_slot : Instr.wf (.cellSend 128) = false := by decide
theorem test_wf_sub : Instr.wf (.outputDown 127 4) = false := by decide
theorem test_wf_port : Instr.wf (.bucketRefresh 12) = false := by decide
theorem test_wf_portSlot : Instr.wf (.slotcfgWrite 11 6 0) = false := by decide
theorem test_wf_lane : Instr.wf (.flitTransmit 11 24) = false := by decide
theorem test_wf_ack : Instr.wf (.replayRequest 0 0 4096) = false := by decide
theorem test_wf_channel : Instr.wf (.packetForward 0 0 5) = false := by decide
theorem test_wf_class : Instr.wf (.throttleLevelUpdate 0 0 8) = false := by decide
theorem test_wf_device : Instr.wf (.messageSlotGrant 1024) = false := by decide
theorem test_wf_deviceLane : Instr.wf (.trainingComplete 0 0 1023 288) = false := by decide
theorem test_wf_frame : Instr.wf (.frameReceive 0 0 (zeros 13)) = false := by decide
theorem test_wf_engine : Instr.wf (.engineWrite 32) = false := by decide
theorem test_wf_stream : Instr.wf (.sdJobFail 8 0) = false := by decide
theorem test_wf_tile : Instr.wf (.landingChunk 20) = false := by decide
theorem test_wf_core : Instr.wf (.mma 80) = false := by decide
theorem test_wf_dma : Instr.wf (.dmaGet 79 2) = false := by decide
theorem test_wf_shutter : Instr.wf (.shutterRelease 64) = false := by decide
theorem test_wf_gen : Instr.wf (.arriveFlit 0 0 0 4) = false := by decide
theorem test_wf_release : Instr.wf (.releaseFlit 0 0 0 0 (2 ^ 47)) = false := by decide
theorem test_wf_sync : Instr.wf (.timeSyncReceive 0 0 (2 ^ 55)) = false := by decide
theorem test_wf_epoch : Instr.wf (.timeEpochReceive 0 0 (2 ^ 48)) = false := by decide
theorem test_wf_echo : Instr.wf (.timeEchoReceive 0 0 (2 ^ 26) false 0) = false := by decide
theorem test_wf_echoT3 : Instr.wf (.timeEchoReceive 0 0 0 false (2 ^ 28)) = false := by decide
theorem test_wf_model : Instr.wf (.modelWaitExpiry 256) = false := by decide
theorem test_wf_servingGroup : Instr.wf (.switchHalted 128) = false := by decide
theorem test_wf_mailbox : Instr.wf (.getInfo 16) = false := by decide
theorem test_wf_jobSlot : Instr.wf (.drainComplete 64) = false := by decide
theorem test_wf_size : Instr.wf (.bpmAllocate (2 ^ 24)) = false := by decide

/-- Each field of a flit one past its range. -/
theorem test_wf_flit :
    let f := plainFlit 0
    ∀ g ∈ [{ f with ftype := 16 }, { f with seq := 4096 }, { f with ack := 4096 }, { f with vc := 8 }, { f with tc := 8 },
        { f with cellIdx := 64 }, { f with pktCells := 64 }, { f with len := 256 }, { f with crdSel := 16 }, { f with crdCnt := 64 },
        { f with job := 4096 }, { f with pktTag := 65536 }, { f with payload := zeros 241 }],
      Instr.wf (.flitReceive 0 0 g) = false := by decide +kernel

theorem test_wf_good : Instr.wf (.flitReceive 11 23 { plainFlit 1 with seq := 4095 }) = true ∧ Instr.wf (.mcgWrite 1023 0 0) = true
    ∧ Instr.wf (.dmaGet 79 1) = true ∧ Instr.wf (.getInfo 15) = true := by decide +kernel

/-! ### Worked examples of the spec -/

def assembly (v : Variant) : State := { State.reset with variant := v }

/-- "Reading DEV_ID" (spec/00_scope.md). -/
theorem test_devId : (assembly .xb4016n).devId = 0x0100C101 ∧ (assembly .xb4020).devId = 0x01408100
    ∧ (assembly .xb4010s).devId = 0x00A08102 := by decide

/-- "Locating clients on an XB4016N" (spec/01_organisation.md). -/
theorem test_slots :
    let s := assembly .xb4016n
    s.tileSlot 5 = 77 ∧ s.engineSlot 12 = 94 ∧ s.engineSlot 15 = 95 ∧ s.mgmtSlot = 104 ∧ s.bar0 0x04110000 = 0xFFFFFFFF := by
  decide +kernel

/-- "F32 to B16 in each mode" and "F32 to E4M3, saturating and not" (spec/02_number_formats.md); 470.0 is 0x43EB0000. -/
theorem test_conversions :
    let x := Fmt.f32.decode 0x40490FDB
    let y := Fmt.f32.decode 0x43EB0000
    Fmt.b16.convert x .rne false 0 = 0x4049 ∧ Fmt.b16.convert x .rtz false 0 = 0x4049 ∧ Fmt.b16.convert x .sr false 0x2B6E = 0x4049
      ∧ Fmt.b16.convert x .sr false 0xF3A1 = 0x404A ∧ Fmt.b16.convert x .sr false 0xF024 = 0x4049
      ∧ Fmt.b16.convert x .sr false 0xF025 = 0x404A ∧ Fmt.e4m3.convert y .rne true 0 = 0x7E ∧ Fmt.e4m3.convert y .rne false 0 = 0x7F
      ∧ Fmt.e4m3.convert y .rtz false 0 = 0x7E ∧ Fmt.e4m3.convert y .sr false 0x4FFF = 0x7E
      ∧ Fmt.e4m3.convert y .sr false 0x5000 = 0x7F := by decide +kernel

/-- "Rank 5,000 to a tile core" (spec/04_links_and_routing.md). -/
theorem test_rank :
    let c := (CfgSet.empty.setEntry 1 0 3 [0x800002A7, 80000]).setEntry 2 3 4 [0x8500CC10]
    c.jobSlot 0x2A7 = some 3 ∧ c.translate 3 5000 = some (62, 40) := by decide +kernel

/-- "One exchange" (spec/12_synchronisation.md): the ECHO makes the counter hold for 200 ticks. -/
theorem test_exchange :
    let s := (timed 5 0x45678911AA true world).setReg R.timeAsym 2 |>.setReg R.timeCfg 64
    let t := after (.timeEchoReceive 0 0 560 false 0x7890DE8) s
    s.fromParent 0 0 = true ∧ t.time.now = s.time.now ∧ t.time.hold = 200 := by decide +kernel

/-- Table 9.7 (spec/09_matrix_and_vector.md). -/
theorem test_slotEncodings :
    let m := 0x10E48401F8000000
    let v := 0x5008200000000003
    matOp m = matMma ∧ matSlot m = 3 ∧ matZ m = true ∧ matFa m = 1 ∧ matFb m = 1 ∧ matGa m = 0 ∧ matGb m = 1 ∧ matK m = 64
      ∧ matOp 0x30C0000000000000 = matClose ∧ matSlot 0x30C0000000000000 = 3 ∧ vecOp v = vDrain ∧ vecGd v = 2 ∧ vecFmt v = 1
      ∧ vecRm v = 0 ∧ vecAux v = 3 := by decide +kernel

end Sys2Proof.Tests
end

section
/-!
SUPPORT. The frame of `exec`: every command completes and stays within the parts that `touches` lists, and these are never
the queue or the assembly.
-/

namespace Sys2Proof.Machine

open Sys2Proof.Laws

/-- The frame of `exec`: one case for each command, from what its meaning may change and from its list being quiet. -/
theorem exec_within_touches (c : Instr) (s : State) :
    Quiet.Statement c ∧ ∃ t, exec c s = .next t ∧ Changes (touches c) s t := by
  cases c with
  | registerWrite => exact ⟨Quiet.registerWrite .., execRegisterWrite_changes ..⟩
  | counterLowRead => exact ⟨Quiet.counterLowRead .., execCounterLowRead_changes ..⟩
  | minfreeRead => exact ⟨Quiet.minfreeRead .., execMinfreeRead_changes ..⟩
  | xbarEnable => exact ⟨Quiet.xbarEnable .., execXbarEnable_changes ..⟩
  | xbarDisable => exact ⟨Quiet.xbarDisable .., execXbarDisable_changes ..⟩
  | xbarCpminWrite => exact ⟨Quiet.xbarCpminWrite .., execXbarCpminWrite_changes ..⟩
  | mcgWrite => exact ⟨Quiet.mcgWrite .., execMcgWrite_changes ..⟩
  | cellSend => exact ⟨Quiet.cellSend .., execCellSend_changes ..⟩
  | poolGrant => exact ⟨Quiet.poolGrant, execPoolGrant_changes ..⟩
  | storedCopyCreditGrant => exact ⟨Quiet.storedCopyCreditGrant .., execStoredCopyCreditGrant_changes ..⟩
  | cellLeave => exact ⟨Quiet.cellLeave .., execCellLeave_changes ..⟩
  | outputDown => exact ⟨Quiet.outputDown .., execOutputDown_changes ..⟩
  | flushDone => exact ⟨Quiet.flushDone .., execFlushDone_changes ..⟩
  | outputUp => exact ⟨Quiet.outputUp .., execOutputUp_changes ..⟩
  | xbarJmapService => exact ⟨Quiet.xbarJmapService, execXbarJmapService_changes ..⟩
  | slotcfgWrite => exact ⟨Quiet.slotcfgWrite .., execSlotcfgWrite_changes ..⟩
  | flitReceive => exact ⟨Quiet.flitReceive .., execFlitReceive_changes ..⟩
  | replayRequest => exact ⟨Quiet.replayRequest .., execReplayRequest_changes ..⟩
  | ackControlFlit => exact ⟨Quiet.ackControlFlit .., execAckControlFlit_changes ..⟩
  | flitTransmit => exact ⟨Quiet.flitTransmit .., execFlitTransmit_changes ..⟩
  | packetInject => exact ⟨Quiet.packetInject .., execPacketInject_changes ..⟩
  | packetForward => exact ⟨Quiet.packetForward .., execPacketForward_changes ..⟩
  | packetDeliver => exact ⟨Quiet.packetDeliver .., execPacketDeliver_changes ..⟩
  | throttleLevelUpdate => exact ⟨Quiet.throttleLevelUpdate .., execThrottleLevelUpdate_changes ..⟩
  | trackerCount => exact ⟨Quiet.trackerCount, execTrackerCount_changes ..⟩
  | complete => exact ⟨Quiet.complete, execComplete_changes ..⟩
  | messageSlotGrant => exact ⟨Quiet.messageSlotGrant .., execMessageSlotGrant_changes ..⟩
  | tblcmdWrite => exact ⟨Quiet.tblcmdWrite .., execTblcmdWrite_changes ..⟩
  | tblcmdRead => exact ⟨Quiet.tblcmdRead .., execTblcmdRead_changes ..⟩
  | linkUpReq => exact ⟨Quiet.linkUpReq .., execLinkUpReq_changes ..⟩
  | linkDownReq => exact ⟨Quiet.linkDownReq .., execLinkDownReq_changes ..⟩
  | trainingComplete => exact ⟨Quiet.trainingComplete .., execTrainingComplete_changes ..⟩
  | retrainTrigger => exact ⟨Quiet.retrainTrigger .., execRetrainTrigger_changes ..⟩
  | retrainComplete => exact ⟨Quiet.retrainComplete .., execRetrainComplete_changes ..⟩
  | retrainTimeout => exact ⟨Quiet.retrainTimeout .., execRetrainTimeout_changes ..⟩
  | portJmapService => exact ⟨Quiet.portJmapService .., execPortJmapService_changes ..⟩
  | egressCellTake => exact ⟨Quiet.egressCellTake .., execEgressCellTake_changes ..⟩
  | ethUpReq => exact ⟨Quiet.ethUpReq .., execEthUpReq_changes ..⟩
  | ethDownReq => exact ⟨Quiet.ethDownReq .., execEthDownReq_changes ..⟩
  | ethTrainingComplete => exact ⟨Quiet.ethTrainingComplete .., execEthTrainingComplete_changes ..⟩
  | ethLinkFault => exact ⟨Quiet.ethLinkFault .., execEthLinkFault_changes ..⟩
  | ethFaultSequenceTimeout => exact ⟨Quiet.ethFaultSequenceTimeout .., execEthFaultSequenceTimeout_changes ..⟩
  | frameReceive => exact ⟨Quiet.frameReceive .., execFrameReceive_changes ..⟩
  | responseTransmit => exact ⟨Quiet.responseTransmit .., execResponseTransmit_changes ..⟩
  | egressSelect => exact ⟨Quiet.egressSelect .., execEgressSelect_changes ..⟩
  | bucketRefresh => exact ⟨Quiet.bucketRefresh .., execBucketRefresh_changes ..⟩
  | telemetrySample => exact ⟨Quiet.telemetrySample .., execTelemetrySample_changes ..⟩
  | ringRecordWrite => exact ⟨Quiet.ringRecordWrite .., execRingRecordWrite_changes ..⟩
  | histselWrite => exact ⟨Quiet.histselWrite .., execHistselWrite_changes ..⟩
  | histclr => exact ⟨Quiet.histclr .., execHistclr_changes ..⟩
  | engineWrite => exact ⟨Quiet.engineWrite .., execEngineWrite_changes ..⟩
  | collAnnReceive => exact ⟨Quiet.collAnnReceive .., execCollAnnReceive_changes ..⟩
  | collDataReceive => exact ⟨Quiet.collDataReceive .., execCollDataReceive_changes ..⟩
  | handlerRun => exact ⟨Quiet.handlerRun .., execHandlerRun_changes ..⟩
  | chunkEmit => exact ⟨Quiet.chunkEmit .., execChunkEmit_changes ..⟩
  | engineCompleteReceive => exact ⟨Quiet.engineCompleteReceive .., execEngineCompleteReceive_changes ..⟩
  | sdJobFail => exact ⟨Quiet.sdJobFail .., execSdJobFail_changes ..⟩
  | sdJobFree => exact ⟨Quiet.sdJobFree .., execSdJobFree_changes ..⟩
  | sdProgWrite => exact ⟨Quiet.sdProgWrite .., execSdProgWrite_changes ..⟩
  | sdProgRead => exact ⟨Quiet.sdProgRead .., execSdProgRead_changes ..⟩
  | sdCmdataAccess => exact ⟨Quiet.sdCmdataAccess .., execSdCmdataAccess_changes ..⟩
  | collAccept => exact ⟨Quiet.collAccept .., execCollAccept_changes ..⟩
  | collControlAnnounce => exact ⟨Quiet.collControlAnnounce .., execCollControlAnnounce_changes ..⟩
  | collAnnounceReceive => exact ⟨Quiet.collAnnounceReceive .., execCollAnnounceReceive_changes ..⟩
  | collRelease => exact ⟨Quiet.collRelease .., execCollRelease_changes ..⟩
  | collChunkSend => exact ⟨Quiet.collChunkSend .., execCollChunkSend_changes ..⟩
  | landingChunk => exact ⟨Quiet.landingChunk .., execLandingChunk_changes ..⟩
  | collDoneSend => exact ⟨Quiet.collDoneSend .., execCollDoneSend_changes ..⟩
  | collDoneResult => exact ⟨Quiet.collDoneResult .., execCollDoneResult_changes ..⟩
  | collJobAbort => exact ⟨Quiet.collJobAbort .., execCollJobAbort_changes ..⟩
  | coreStart => exact ⟨Quiet.coreStart .., execCoreStart_changes ..⟩
  | coreStop => exact ⟨Quiet.coreStop .., execCoreStop_changes ..⟩
  | coreClear => exact ⟨Quiet.coreClear .., execCoreClear_changes ..⟩
  | xcwDispatch => exact ⟨Quiet.xcwDispatch .., execXcwDispatch_changes ..⟩
  | haltHoldEnd => exact ⟨Quiet.haltHoldEnd .., execHaltHoldEnd_changes ..⟩
  | mma => exact ⟨Quiet.mma .., execMma_changes ..⟩
  | mms => exact ⟨Quiet.mms .., execMms_changes ..⟩
  | close => exact ⟨Quiet.close .., execClose_changes ..⟩
  | vecAdd => exact ⟨Quiet.vecAdd .., execVecAdd_changes ..⟩
  | vecSub => exact ⟨Quiet.vecSub .., execVecSub_changes ..⟩
  | vecMul => exact ⟨Quiet.vecMul .., execVecMul_changes ..⟩
  | div => exact ⟨Quiet.div .., execDiv_changes ..⟩
  | vecMin => exact ⟨Quiet.vecMin .., execVecMin_changes ..⟩
  | vecMax => exact ⟨Quiet.vecMax .., execVecMax_changes ..⟩
  | abs => exact ⟨Quiet.abs .., execAbs_changes ..⟩
  | sqrt => exact ⟨Quiet.sqrt .., execSqrt_changes ..⟩
  | rcp => exact ⟨Quiet.rcp .., execRcp_changes ..⟩
  | exp2 => exact ⟨Quiet.exp2 .., execExp2_changes ..⟩
  | log2 => exact ⟨Quiet.log2 .., execLog2_changes ..⟩
  | cvt => exact ⟨Quiet.cvt .., execCvt_changes ..⟩
  | sum => exact ⟨Quiet.sum .., execSum_changes ..⟩
  | sumsq => exact ⟨Quiet.sumsq .., execSumsq_changes ..⟩
  | meanvar => exact ⟨Quiet.meanvar .., execMeanvar_changes ..⟩
  | amax => exact ⟨Quiet.amax .., execAmax_changes ..⟩
  | opt => exact ⟨Quiet.opt .., execOpt_changes ..⟩
  | thin => exact ⟨Quiet.thin .., execThin_changes ..⟩
  | drain => exact ⟨Quiet.drain .., execDrain_changes ..⟩
  | mov => exact ⟨Quiet.mov .., execMov_changes ..⟩
  | fill => exact ⟨Quiet.fill .., execFill_changes ..⟩
  | dmaGet => exact ⟨Quiet.dmaGet .., execDmaGet_changes ..⟩
  | dmaPut => exact ⟨Quiet.dmaPut .., execDmaPut_changes ..⟩
  | dmaSend => exact ⟨Quiet.dmaSend .., execDmaSend_changes ..⟩
  | dmaSignal => exact ⟨Quiet.dmaSignal .., execDmaSignal_changes ..⟩
  | dmaComplete => exact ⟨Quiet.dmaComplete .., execDmaComplete_changes ..⟩
  | semAdd => exact ⟨Quiet.semAdd .., execSemAdd_changes ..⟩
  | semdataWrite => exact ⟨Quiet.semdataWrite .., execSemdataWrite_changes ..⟩
  | write => exact ⟨Quiet.write .., execWrite_changes ..⟩
  | readReq => exact ⟨Quiet.readReq .., execReadReq_changes ..⟩
  | readRsp => exact ⟨Quiet.readRsp, execReadRsp_changes ..⟩
  | pageFetch => exact ⟨Quiet.pageFetch .., execPageFetch_changes ..⟩
  | pageData => exact ⟨Quiet.pageData .., execPageData_changes ..⟩
  | pageWb => exact ⟨Quiet.pageWb .., execPageWb_changes ..⟩
  | pageRelease => exact ⟨Quiet.pageRelease .., execPageRelease_changes ..⟩
  | releaseJob => exact ⟨Quiet.releaseJob .., execReleaseJob_changes ..⟩
  | pagerAbortJob => exact ⟨Quiet.pagerAbortJob .., execPagerAbortJob_changes ..⟩
  | atuInv => exact ⟨Quiet.atuInv .., execAtuInv_changes ..⟩
  | atuInvComplete => exact ⟨Quiet.atuInvComplete .., execAtuInvComplete_changes ..⟩
  | patrolScrub => exact ⟨Quiet.patrolScrub .., execPatrolScrub_changes ..⟩
  | bpmEnable => exact ⟨Quiet.bpmEnable .., execBpmEnable_changes ..⟩
  | bpmAllocate => exact ⟨Quiet.bpmAllocate .., execBpmAllocate_changes ..⟩
  | bpmFree => exact ⟨Quiet.bpmFree .., execBpmFree_changes ..⟩
  | timeSyncSend => exact ⟨Quiet.timeSyncSend .., execTimeSyncSend_changes ..⟩
  | timeEpochSend => exact ⟨Quiet.timeEpochSend .., execTimeEpochSend_changes ..⟩
  | timeSyncReceive => exact ⟨Quiet.timeSyncReceive .., execTimeSyncReceive_changes ..⟩
  | timeEpochReceive => exact ⟨Quiet.timeEpochReceive .., execTimeEpochReceive_changes ..⟩
  | timeEchoReceive => exact ⟨Quiet.timeEchoReceive .., execTimeEchoReceive_changes ..⟩
  | timeHoldover => exact ⟨Quiet.timeHoldover, execTimeHoldover_changes ..⟩
  | timeLoad => exact ⟨Quiet.timeLoad .., execTimeLoad_changes ..⟩
  | timeArm => exact ⟨Quiet.timeArm .., execTimeArm_changes ..⟩
  | ftSyncEdge => exact ⟨Quiet.ftSyncEdge .., execFtSyncEdge_changes ..⟩
  | shutterEnable => exact ⟨Quiet.shutterEnable .., execShutterEnable_changes ..⟩
  | shutterDisable => exact ⟨Quiet.shutterDisable .., execShutterDisable_changes ..⟩
  | localArrival => exact ⟨Quiet.localArrival, execLocalArrival_changes ..⟩
  | arriveFlit => exact ⟨Quiet.arriveFlit .., execArriveFlit_changes ..⟩
  | releaseFlit => exact ⟨Quiet.releaseFlit .., execReleaseFlit_changes ..⟩
  | shutterRelease => exact ⟨Quiet.shutterRelease .., execShutterRelease_changes ..⟩
  | jobFaultService => exact ⟨Quiet.jobFaultService, execJobFaultService_changes ..⟩
  | jobFaultNotice => exact ⟨Quiet.jobFaultNotice, execJobFaultNotice_changes ..⟩
  | ballotReceive => exact ⟨Quiet.ballotReceive, execBallotReceive_changes ..⟩
  | requestDescriptor => exact ⟨Quiet.requestDescriptor, execRequestDescriptor_changes ..⟩
  | requestAgeDrop => exact ⟨Quiet.requestAgeDrop .., execRequestAgeDrop_changes ..⟩
  | modelWaitExpiry => exact ⟨Quiet.modelWaitExpiry .., execModelWaitExpiry_changes ..⟩
  | dispatch => exact ⟨Quiet.dispatch, execDispatch_changes ..⟩
  | switchHalted => exact ⟨Quiet.switchHalted .., execSwitchHalted_changes ..⟩
  | batchCompletion => exact ⟨Quiet.batchCompletion, execBatchCompletion_changes ..⟩
  | getInfo => exact ⟨Quiet.getInfo .., execGetInfo_changes ..⟩
  | getFault => exact ⟨Quiet.getFault .., execGetFault_changes ..⟩
  | setContact => exact ⟨Quiet.setContact .., execSetContact_changes ..⟩
  | setPower => exact ⟨Quiet.setPower .., execSetPower_changes ..⟩
  | loadImage => exact ⟨Quiet.loadImage .., execLoadImage_changes ..⟩
  | getMeasure => exact ⟨Quiet.getMeasure .., execGetMeasure_changes ..⟩
  | getAttest => exact ⟨Quiet.getAttest .., execGetAttest_changes ..⟩
  | selfTest => exact ⟨Quiet.selfTest .., execSelfTest_changes ..⟩
  | selfTestComplete => exact ⟨Quiet.selfTestComplete .., execSelfTestComplete_changes ..⟩
  | linkTest => exact ⟨Quiet.linkTest .., execLinkTest_changes ..⟩
  | linkTestComplete => exact ⟨Quiet.linkTestComplete, execLinkTestComplete_changes ..⟩
  | voteRoster => exact ⟨Quiet.voteRoster .., execVoteRoster_changes ..⟩
  | voteBallot => exact ⟨Quiet.voteBallot .., execVoteBallot_changes ..⟩
  | cfgWrite => exact ⟨Quiet.cfgWrite .., execCfgWrite_changes ..⟩
  | cfgRead => exact ⟨Quiet.cfgRead .., execCfgRead_changes ..⟩
  | cfgCopy => exact ⟨Quiet.cfgCopy .., execCfgCopy_changes ..⟩
  | swap => exact ⟨Quiet.swap .., execSwap_changes ..⟩
  | jobBegin => exact ⟨Quiet.jobBegin .., execJobBegin_changes ..⟩
  | jobEval => exact ⟨Quiet.jobEval .., execJobEval_changes ..⟩
  | jobDrain => exact ⟨Quiet.jobDrain .., execJobDrain_changes ..⟩
  | drainLimitExpiry => exact ⟨Quiet.drainLimitExpiry .., execDrainLimitExpiry_changes ..⟩
  | drainComplete => exact ⟨Quiet.drainComplete .., execDrainComplete_changes ..⟩
  | jobSetStep => exact ⟨Quiet.jobSetStep .., execJobSetStep_changes ..⟩
  | jobMirror => exact ⟨Quiet.jobMirror .., execJobMirror_changes ..⟩
  | mirrorComplete => exact ⟨Quiet.mirrorComplete .., execMirrorComplete_changes ..⟩
  | jobFail => exact ⟨Quiet.jobFail .., execJobFail_changes ..⟩
  | jobRelease => exact ⟨Quiet.jobRelease .., execJobRelease_changes ..⟩
  | loadSprog => exact ⟨Quiet.loadSprog .., execLoadSprog_changes ..⟩
  | memWrite => exact ⟨Quiet.memWrite .., execMemWrite_changes ..⟩
  | memRead => exact ⟨Quiet.memRead .., execMemRead_changes ..⟩
  | fabricRead => exact ⟨Quiet.fabricRead .., execFabricRead_changes ..⟩
  | fabricReadTimeout => exact ⟨Quiet.fabricReadTimeout, execFabricReadTimeout_changes ..⟩
  | devRun => exact ⟨Quiet.devRun .., execDevRun_changes ..⟩
  | devStop => exact ⟨Quiet.devStop .., execDevStop_changes ..⟩
  | devRstctl => exact ⟨Quiet.devRstctl .., execDevRstctl_changes ..⟩
  | contactSheetRefresh => exact ⟨Quiet.contactSheetRefresh, execContactSheetRefresh_changes ..⟩
  | heartbeat => exact ⟨Quiet.heartbeat, execHeartbeat_changes ..⟩
  | watchdogExpiry => exact ⟨Quiet.watchdogExpiry, execWatchdogExpiry_changes ..⟩
  | deviceFault => exact ⟨Quiet.deviceFault .., execDeviceFault_changes ..⟩
  | pcieLinkReset => exact ⟨Quiet.pcieLinkReset, execPcieLinkReset_changes ..⟩
  | i3cTelemetryRefresh => exact ⟨Quiet.i3cTelemetryRefresh, execI3cTelemetryRefresh_changes ..⟩
  | i3cPrivateWrite => exact ⟨Quiet.i3cPrivateWrite .., execI3cPrivateWrite_changes ..⟩
  | i3cPrivateRead => exact ⟨Quiet.i3cPrivateRead .., execI3cPrivateRead_changes ..⟩
  | entdaa => exact ⟨Quiet.entdaa .., execEntdaa_changes ..⟩
  | setdasa => exact ⟨Quiet.setdasa .., execSetdasa_changes ..⟩
  | rstdaa => exact ⟨Quiet.rstdaa, execRstdaa_changes ..⟩
  | getpid => exact ⟨Quiet.getpid, execGetpid_changes ..⟩
  | getbcr => exact ⟨Quiet.getbcr, execGetbcr_changes ..⟩
  | getdcr => exact ⟨Quiet.getdcr, execGetdcr_changes ..⟩
  | getstatus => exact ⟨Quiet.getstatus, execGetstatus_changes ..⟩
  | getmwl => exact ⟨Quiet.getmwl, execGetmwl_changes ..⟩
  | getmrl => exact ⟨Quiet.getmrl, execGetmrl_changes ..⟩
  | enec => exact ⟨Quiet.enec .., execEnec_changes ..⟩
  | disec => exact ⟨Quiet.disec .., execDisec_changes ..⟩
  | bypass opcode => exact ⟨Quiet.bypass opcode, execBypass_changes opcode s⟩
  | idcode => exact ⟨Quiet.idcode, execIdcode_changes ..⟩
  | samplePreload => exact ⟨Quiet.samplePreload, execSamplePreload_changes ..⟩
  | extest => exact ⟨Quiet.extest, execExtest_changes ..⟩
  | extestPulse => exact ⟨Quiet.extestPulse, execExtestPulse_changes ..⟩
  | extestTrain => exact ⟨Quiet.extestTrain, execExtestTrain_changes ..⟩
  | highz => exact ⟨Quiet.highz, execHighz_changes ..⟩
  | clamp => exact ⟨Quiet.clamp, execClamp_changes ..⟩
  | fullReset => exact ⟨Quiet.fullReset .., execFullReset_changes ..⟩
  | railUndervoltage => exact ⟨Quiet.railUndervoltage .., execRailUndervoltage_changes ..⟩
  | resetRelease => exact ⟨Quiet.resetRelease .., execResetRelease_changes ..⟩
  | imageCheckComplete => exact ⟨Quiet.imageCheckComplete .., execImageCheckComplete_changes ..⟩
  | identityKeyReady => exact ⟨Quiet.identityKeyReady, execIdentityKeyReady_changes ..⟩
  | hyzaciaFirstAnswer => exact ⟨Quiet.hyzaciaFirstAnswer, execHyzaciaFirstAnswer_changes ..⟩
  | powerMeasure => exact ⟨Quiet.powerMeasure .., execPowerMeasure_changes ..⟩
  | throttleStep => exact ⟨Quiet.throttleStep .., execThrottleStep_changes ..⟩
  | thermalClamp => exact ⟨Quiet.thermalClamp .., execThermalClamp_changes ..⟩
  | thermalClampRelease => exact ⟨Quiet.thermalClampRelease .., execThermalClampRelease_changes ..⟩
  | thermTrip => exact ⟨Quiet.thermTrip .., execThermTrip_changes ..⟩
  | pwrOkRising => exact ⟨Quiet.pwrOkRising .., execPwrOkRising_changes ..⟩
  | badOpcode => exact ⟨Quiet.badOpcode .., execBadOpcode_changes ..⟩
  | doorbellIgnored => exact ⟨Quiet.doorbellIgnored .., execDoorbellIgnored_changes ..⟩

/-- Settles O6, from the frame of `exec`. -/
theorem everyCommandChangesOnlyItsParts : Obligations.EveryCommandChangesOnlyItsParts := by
  intro c s
  obtain ⟨⟨noPending, noVariant⟩, t, run, changes⟩ := exec_within_touches c s
  exact ⟨t, run, changes.elsewhere .pending noPending, changes.elsewhere .variant noVariant, changes⟩

end Sys2Proof.Machine
end

section
/-!
SUPPORT. The full resets (spec/00_scope.md, R3; spec/15_management_interface.md, R354; spec/17_package_and_electrical.md, R404,
R405, R419): the state each leaves the device in, and when each occasion is one.
-/

namespace Sys2Proof.Machine

/-- `t` is the device of `s` after a full reset, with PWR_OK and the thermal trip as given: OFF, its outputs at high
impedance, and all but what the pins hold and the model's own numbers at its reset value. -/
def State.IsOff (s : State) (pwrOk tripped : Bool) (t : State) : Prop :=
  t.dev = .off ∧ t.variant = s.variant ∧ t.pending = s.pending
    ∧ Changes [.pending, .dev, .nextId, .freeCtr, .i3c, .power] (State.resetOf s.variant) t ∧ t.outputsHighZ = true
    ∧ t.power = { (State.resetOf s.variant).power with pwrOk := pwrOk, tripped := tripped }
    ∧ t.i3c = { (State.resetOf s.variant).i3c with staticAddr := s.i3c.staticAddr, id := s.i3c.id }

/-- A full reset differs from the reset state of the assembly in the parts that hold pins, queue and numbers alone. -/
theorem State.fullReset_changes_resetOf (s : State) :
    Changes [.pending, .dev, .nextId, .freeCtr, .i3c, .power] (State.resetOf s.variant) s.fullReset := by
  constructor
  intro f hf
  cases f with
  | pending | dev | nextId | freeCtr | i3c | power => exact absurd (by decide) hf
  | _ => rfl

theorem State.fullReset_isOff (s : State) : s.IsOff s.power.pwrOk s.power.tripped s.fullReset :=
  ⟨rfl, rfl, rfl, s.fullReset_changes_resetOf, rfl, rfl, rfl⟩

/-- PWR_OK that falls ends the trip (R419). -/
theorem State.pwrFalls_isOff (s : State) : s.IsOff false false s.pwrFalls :=
  State.fullReset_isOff { s with power := { s.power with pwrOk := false, tripped := false } }

/-! ### When each occasion is a full reset -/

/-- A pulse below 100 ns is ignored (R404). -/
theorem State.lowPulse_of_short (s : State) (pwr : Bool) {ns : Nat} (short : ns < 100) : s.lowPulse pwr ns = s := by
  simp [State.lowPulse, short]

theorem State.lowPulse_pwrOk (s : State) {ns : Nat} (long : 1000 ≤ ns) : s.lowPulse true ns = s.pwrFalls := by
  have : ¬ ns < 100 := by omega
  simp [State.lowPulse, this, long]

theorem State.lowPulse_rstN {s : State} (on : s.dev ≠ .off) {ns : Nat} (long : 1000 ≤ ns) :
    s.lowPulse false ns = s.fullReset := by
  have : ¬ ns < 100 := by omega
  simp [State.lowPulse, this, on, long]

/-- Both pulses of 1 µs or more reset a device that is not in OFF (R404); that of PWR_OK clears what it holds. -/
theorem State.lowPulse_isOff {s : State} (on : s.dev ≠ .off) (pwr : Bool) {ns : Nat} (long : 1000 ≤ ns) :
    s.IsOff (s.power.pwrOk && !pwr) (s.power.tripped && !pwr) (s.lowPulse pwr ns) := by
  cases pwr with
  | true => simpa [s.lowPulse_pwrOk long] using s.pwrFalls_isOff
  | false => simpa [State.lowPulse_rstN on long] using s.fullReset_isOff

/-- A rail low for 1 µs or more under power acts as PWR_OK falling (R405). -/
theorem State.undervoltage_of_long {s : State} (powered : s.power.pwrOk = true) {ns : Nat} (long : 1000 ≤ ns) :
    s.undervoltage ns = s.pwrFalls := by
  have : ¬ ns < 1000 := by omega
  simp [State.undervoltage, powered, this]

/-- The trip acts on every device but one held in reset without power (R419). -/
theorem State.thermTrip_isOff {s : State} (able : s.dev ≠ .off ∨ s.power.pwrOk = true) {t : Int} (hot : 16 * 110 ≤ t) :
    s.IsOff s.power.pwrOk true (s.thermTrip t) := by
  have trips : s.thermTrip t = State.fullReset { s with power := { s.power with tripped := true } } := by
    refine if_neg ?_
    rintro (⟨off, unpowered⟩ | cool)
    · simp [off, unpowered] at able
    · exact absurd hot (Int.not_le.mpr cool)
  rw [trips]
  exact State.fullReset_isOff { s with power := { s.power with tripped := true } }

/-- The second write of the pair (R354). -/
theorem State.writeRstctl_armed {s : State} (on : s.dev ≠ .off) (armed : s.mgmt.rstArmed = true) :
    s.writeRstctl 0x5A = s.fullReset := by
  simp [State.writeRstctl, on, armed]

/-- Every other write only arms the pair, or disarms it. -/
theorem State.writeRstctl_else {s : State} (on : s.dev ≠ .off) {w : Word} (other : w = 0x5A → s.mgmt.rstArmed = false) :
    s.writeRstctl w = { s with mgmt := { s.mgmt with rstArmed := w == 0xA5 } } := by
  have noReset : ¬ (s.mgmt.rstArmed && w == 0x5A) = true := by
    simpa using fun armed second => absurd (other second) (by simp [armed])
  rw [State.writeRstctl, if_neg on, if_neg noReset]

/-- A tripped device stays in reset (R419). -/
theorem State.releaseReset_tripped {s : State} (tripped : s.power.tripped = true) (mode : Nat) (helper : List Byte) :
    s.releaseReset mode helper = s := by
  simp [State.releaseReset, tripped]

/-- Settles O9: each occasion by the law of its meaning, and what it leaves by that of the full reset. -/
theorem fullResetKeepsNothing : Obligations.FullResetKeepsNothing := by
  intro s p ns c off ok trip
  refine ⟨fun on long => ⟨_, rfl, State.lowPulse_isOff on p long⟩, ?short, ?rail, ?hot, ?arm, ?pair, ?other, fun _ => rfl,
    ?offPwr, ?offTrip, ?tripped⟩
  case short => exact fun _ short => congrArg Host.Outcome.next (s.lowPulse_of_short p short)
  case rail => exact fun _ long powered => ⟨_, rfl, State.undervoltage_of_long powered long ▸ s.pwrFalls_isOff⟩
  case hot => exact fun on hot => ⟨_, rfl, State.thermTrip_isOff (.inl on) hot⟩
  case arm =>
    intro on
    refine ⟨_, rfl, ?_⟩
    rw [State.writeRstctl_else on fun second => absurd second (by decide)]
    exact ⟨Changes.mgmt, rfl⟩
  case pair => exact fun on armed => ⟨_, rfl, State.writeRstctl_armed on armed ▸ s.fullReset_isOff⟩
  case other =>
    intro on w notFirst other
    refine ⟨_, rfl, ?_⟩
    rw [State.writeRstctl_else on other]
    exact ⟨Changes.mgmt, beq_false_of_ne notFirst⟩
  case offPwr => exact fun _ long => ⟨_, rfl, s.lowPulse_pwrOk long ▸ s.pwrFalls_isOff⟩
  case offTrip => exact fun _ powered hot => ⟨_, rfl, powered ▸ State.thermTrip_isOff (.inr powered) hot⟩
  case tripped => exact fun u mode h _ tripped => congrArg Host.Outcome.next (State.releaseReset_tripped tripped mode h)

end Sys2Proof.Machine
end

section
/-!
SUPPORT. The step, and reads and writes of BAR0 (spec/00_scope.md, R8 to R11; spec/01_organisation.md, R16, R22, R23): where
the windows lie, the registers that only store, what no window answers, and the latch of the 64-bit counters.
-/

namespace Sys2Proof.Machine

/-- Settles O1, by the definition of the step. -/
theorem stepRunsTheFrontCommand : Obligations.StepRunsTheFrontCommand := by
  intro c rest s front
  rw [step, front]

/-! ### Where the windows lie (Table 0.7) -/

/-- Where a window begins in BAR0. -/
def Window.base : Window → Nat
  | .dev => 0 | .mbx => 0x10000 | .time => 0x20000 | .sec => 0x30000 | .xbar => 0x100000 | .bpm => 0x200000
  | .port n => portBase n | .sd n => sdBase n | .td n => tdBase n

/-- How many bytes a window has. -/
def Window.size : Window → Nat
  | .dev | .mbx | .time | .sec => 0x10000
  | .xbar | .bpm | .td _ => 0x100000
  | .port _ | .sd _ => 0x40000

/-- Whether Table 0.7 lists a window, be it of a die that the assembly has or not. -/
def Window.listed : Window → Prop
  | .port n => n < 16 | .sd n => n < 8 | .td n => n < 24 | _ => True

theorem windowOf_base_add {w : Window} {o : Nat} (listed : w.listed) (inside : o < w.size) :
    windowOf (w.base + o) = some (w, o) := by
  cases w <;> simp only [Window.listed, Window.size] at listed inside <;>
    simp only [Window.base, portBase, sdBase, tdBase] <;> unfold windowOf
  all_goals
    repeat rw [if_neg (by omega)]
    rw [if_pos (by omega)]
    simp only [Option.some.injEq, Prod.mk.injEq, Window.port.injEq, Window.sd.injEq, Window.td.injEq, true_and]
    omega

/-- Every window lies below the staging window. -/
theorem windowOf_lt {a : Nat} {p : Window × Nat} (h : windowOf a = some p) : a < bar2Base := by
  by_contra high
  have : 0x4800000 ≤ a := by unfold bar2Base at high; omega
  unfold windowOf at h
  repeat rw [if_neg (by omega)] at h
  cases h

theorem Window.base_mod_four (w : Window) : w.base % 4 = 0 := by
  cases w <;> simp only [Window.base, portBase, sdBase, tdBase] <;> omega

/-- The 64-bit counters of a window by the offset of their low word: `State.counterAt` where the window belongs to a die. -/
def State.windowCounter (s : State) (w : Window) (o : Nat) : Option Dword :=
  match w with
  | .dev => s.devCounter o
  | .time => if o = 0x10 then some s.time.now else if o = 0x38 then some (s.stored64 (w.base + o)) else none
  | .xbar => if o = 0x24 then some s.flushCount else if o = 0x2c then some (s.stored64 (w.base + o)) else none
  | .port n => s.portCounter n o
  | .sd _ => if o = 0x28 ∨ o = 0x30 then some (s.stored64 (w.base + o)) else none
  | .td n => s.tdCounter n o
  | _ => none

theorem State.counterAt_base_add (s : State) {w : Window} {o : Nat} (listed : w.listed) (inside : o < w.size) :
    s.counterAt (w.base + o) = if w.populated s.variant then s.windowCounter w o else none := by
  unfold State.counterAt
  rw [windowOf_base_add listed inside]
  cases w <;> cases hp : Window.populated s.variant _ <;> simp [hp, State.windowCounter]

/-- Offset `o` of window `w` holds the register `r`, which only stores: a write has no action of its own, a read shows no
other state, and the word is no half of a 64-bit counter. -/
structure Window.Stores (w : Window) (o : Nat) (r : Reg) : Prop where
  listed : w.listed
  inside : o < w.size
  aligned : o % 4 = 0
  second : 4 ≤ o
  addr : r.addr = w.base + o
  held : w.reg o = some r
  noClear : r.w1c = 0
  writes : ∀ (s : State) (v : Word), s.writeWindow w o v = s.storeAt (w.reg o) v
  noView : ∀ s : State, s.windowView w o = none
  noLow : ∀ s : State, s.windowCounter w o = none
  noHigh : ∀ s : State, s.windowCounter w (o - 4) = none

theorem State.on_of_answers {s : State} {w : Window} (answers : s.answers w = true) : s.dev ≠ .off := by
  rintro off
  simp [State.answers, off] at answers

/-- Below the staging window lie neither that window nor the configuration space. -/
theorem not_inBar2_of_lt {a : Nat} (low : a < bar2Base) : inBar2 a = false ∧ ¬ cfgBase ≤ a := by
  have high : ¬ cfgBase ≤ a := fun h => absurd (Nat.lt_of_lt_of_le low (by decide : bar2Base ≤ cfgBase)) (Nat.not_lt.mpr h)
  exact ⟨by simp [inBar2, Nat.not_le.mpr low], high⟩

theorem State.busWrite_base_add {s : State} {w : Window} {o : Nat} (listed : w.listed) (inside : o < w.size)
    (aligned : o % 4 = 0) (answers : s.answers w = true) (v : Word) :
    s.busWrite (w.base + o) 4 v = s.writeWindow w o v := by
  have place := windowOf_base_add listed inside
  obtain ⟨notBar2, notCfg⟩ := not_inBar2_of_lt (windowOf_lt place)
  have base := w.base_mod_four
  unfold State.busWrite
  rw [if_neg (State.on_of_answers answers), notBar2, if_neg Bool.false_ne_true, if_neg (by omega), if_neg notCfg, place]
  exact if_pos answers

/-- A register that only stores reads as its word (R22). -/
theorem Window.Stores.bar0_eq {w : Window} {o : Nat} {r : Reg} (h : w.Stores o r) {s : State} (answers : s.answers w = true) :
    s.bar0 r.addr = s.reg r := by
  have base := w.base_mod_four
  have aligned := h.aligned
  have second := h.second
  have below : w.base + o - 4 = w.base + (o - 4) := by omega
  have low : s.counterAt (w.base + o) = none := by rw [s.counterAt_base_add h.listed h.inside, h.noLow]; simp
  have high : s.counterAt (w.base + o - 4) = none := by
    rw [below, s.counterAt_base_add h.listed (by have := h.inside; omega), h.noHigh]; simp
  unfold State.bar0
  rw [h.addr, windowOf_base_add h.listed h.inside]
  simp [answers, low, high, h.noView, h.held]
  omega

/-- A register that only stores takes its RW bits from the written value (R8), and no other register changes. -/
theorem Window.Stores.write {w : Window} {o : Nat} {r : Reg} (h : w.Stores o r) {s : State} (answers : s.answers w = true)
    (v : Word) : s.busWrite r.addr 4 v = s.setReg r ((s.reg r &&& ~~~r.rw) ||| (v &&& r.rw)) := by
  rw [h.addr, State.busWrite_base_add h.listed h.inside h.aligned answers, h.writes, h.held]
  have noClear (x : Word) : x &&& ~~~(v &&& 0) = x := by
    rw [show v &&& 0 = 0#32 from BitVec.and_zero, BitVec.not_zero, BitVec.and_allOnes]
  rw [State.storeAt, State.writeReg, Reg.written, h.noClear, noClear]

/-! ### The registers that only store -/

theorem stores_devIrqEn : Window.dev.Stores 0x14 R.devIrqEn :=
  ⟨trivial, by decide, rfl, by decide, rfl, rfl, rfl, fun _ _ => rfl, fun _ => rfl, fun _ => rfl, fun _ => rfl⟩

theorem stores_xbarPoolcfg : Window.xbar.Stores 0x8 R.xbarPoolcfg :=
  ⟨trivial, by decide, rfl, by decide, rfl, rfl, rfl, fun _ _ => rfl, fun _ => rfl, fun _ => rfl, fun _ => rfl⟩

theorem stores_xbarTccap {c : Nat} (hc : c < 8) : Window.xbar.Stores (0x40 + c * 0x4) (R.xbarTccap c) := by
  interval_cases c <;>
    exact ⟨trivial, by decide, rfl, by decide, rfl, rfl, rfl, fun _ _ => rfl, fun _ => rfl, fun _ => rfl, fun _ => rfl⟩

theorem stores_portTblsel {n : Nat} (hn : n < 16) : (Window.port n).Stores 0x40 (R.portTblsel n) :=
  ⟨hn, (by decide : 0x40 < 0x40000), rfl, by decide, rfl, rfl, rfl, fun _ _ => rfl, fun _ => rfl, fun _ => rfl, fun _ => rfl⟩

theorem stores_portPThr {n l : Nat} (hn : n < 16) (hl : l < 24) :
    (Window.port n).Stores (0x120 + l * 0x40) (R.portPThr n l) := by
  have addr : (R.portPThr n l).addr = (Window.port n).base + (0x120 + l * 0x40) := Nat.add_assoc ..
  interval_cases l <;>
    exact ⟨hn, (by decide : _ < 0x40000), rfl, by decide, addr, rfl, rfl, fun _ _ => rfl, fun _ => rfl, fun _ => rfl,
      fun _ => rfl⟩

theorem stores_sdCmsel {n : Nat} (hn : n < 8) : (Window.sd n).Stores 0x80 (R.sdCmsel n) :=
  ⟨hn, (by decide : 0x80 < 0x40000), rfl, by decide, rfl, rfl, rfl, fun _ _ => rfl, fun _ => rfl, fun _ => rfl, fun _ => rfl⟩

theorem stores_tdSemsel {n : Nat} (hn : n < 24) : (Window.td n).Stores 0xe0010 (R.tdSemsel n) :=
  ⟨hn, (by decide : 0xe0010 < 0x100000), rfl, by decide, rfl, rfl, rfl, fun _ _ => rfl, fun _ => rfl, fun _ => rfl,
    fun _ => rfl⟩

/-- The place of a register that a die has once for each core. -/
theorem tdBase_core {n c : Nat} (hc : c < 4) (o k : Nat) :
    tdBase ((4 * n + c) / 4) + o + (4 * n + c) % 4 * k = tdBase n + (o + c * k) := by
  rw [show (4 * n + c) / 4 = n by omega, show (4 * n + c) % 4 = c by omega, Nat.add_assoc]

theorem stores_tdCRank {n c : Nat} (hn : n < 24) (hc : c < 4) :
    (Window.td n).Stores (0x80030 + c * 0x10000) (R.tdCRank (4 * n + c)) := by
  have addr := tdBase_core (n := n) hc 0x80030 0x10000
  interval_cases c <;>
    exact ⟨hn, (by decide : _ < 0x100000), rfl, by decide, addr, rfl, rfl, fun _ _ => rfl, fun _ => rfl, fun _ => rfl,
      fun _ => rfl⟩

theorem stores_tdCSpthr {n c : Nat} (hn : n < 24) (hc : c < 4) :
    (Window.td n).Stores (0xd1000 + c * 0x100) (R.tdCSpthr (4 * n + c)) := by
  have addr := tdBase_core (n := n) hc 0xd1000 0x100
  interval_cases c <;>
    exact ⟨hn, (by decide : _ < 0x100000), rfl, by decide, addr, rfl, rfl, fun _ _ => rfl, fun _ => rfl, fun _ => rfl,
      fun _ => rfl⟩

/-! ### Their writes and reads -/

theorem State.ports_lt {s : State} {n : Nat} (h : n < s.ports) : n < 16 := by
  have : s.ports ≤ 12 := by unfold State.ports Variant.portDies; split <;> decide
  omega

theorem State.tiles_lt {s : State} {n : Nat} (h : n < s.tiles) : n < 24 := by
  have : s.tiles ≤ 20 := by unfold State.tiles Variant.tileDies; split <;> decide
  omega

/-- Outside OFF and ROM every window answers but those of a die that the assembly does not have. -/
theorem State.answers_of_populated {s : State} (on : s.dev ≠ .off) (booted : s.dev ≠ .rom) {w : Window}
    (populated : w.populated s.variant = true) : s.answers w = true := by
  simp [State.answers, populated, on, booted]

/-- The write of `v` to `r` stores its RW bits (R8), the word is read back (R22), and nothing else changes. -/
def State.StoresWord (s : State) (r : Reg) (v : Word) : Prop :=
  Completes (exec (.registerWrite r.addr 4 v) s) fun t =>
    Changes [.regs] s t ∧ t.reg r = ((s.reg r &&& ~~~r.rw) ||| (v &&& r.rw)) ∧ t.bar0 r.addr = t.reg r
      ∧ ∀ q : Reg, q.addr ≠ r.addr → t.reg q = s.reg q

theorem Window.Stores.storesWord {w : Window} {o : Nat} {r : Reg} (h : w.Stores o r) {s : State}
    (on : s.dev ≠ .off) (booted : s.dev ≠ .rom) (populated : w.populated s.variant = true) (v : Word) :
    s.StoresWord r v := by
  have answers := State.answers_of_populated on booted populated
  refine ⟨_, congrArg Host.Outcome.next (h.write answers v), s.setReg_changes r _, s.reg_setReg_same r _, ?_, fun q other => ?_⟩
  · exact h.bar0_eq answers
  · exact s.reg_setReg_other _ other.symm

/-! ### What no window answers (R10, R11, R16) -/

/-- An address of BAR0 in no window of Table 0.7, or in one that belongs to no die. -/
def State.Unanswered (s : State) (a : Nat) : Prop :=
  a < bar2Base ∧ ∀ w o, windowOf a = some (w, o) → w.populated s.variant = false

theorem State.Unanswered.answers {s : State} {a : Nat} (h : s.Unanswered a) {w : Window} {o : Nat}
    (place : windowOf a = some (w, o)) : s.answers w = false := by
  simp [State.answers, h.2 w o place]

theorem State.unanswered_base_add {s : State} {w : Window} {o : Nat} (listed : w.listed) (inside : o < w.size)
    (nobody : w.populated s.variant = false) : s.Unanswered (w.base + o) := by
  have own := windowOf_base_add listed inside
  refine ⟨windowOf_lt own, fun w' o' place => ?_⟩
  obtain ⟨rfl, -⟩ := Prod.mk.inj (Option.some.inj (place.symm.trans own))
  exact nobody

/-- The windows of the die indices that the assembly does not have (R16). -/
theorem State.unanswered_of_nobody {s : State} {a : Nat}
    (h : (∃ n < 16, s.ports ≤ n ∧ 0x1000000 + n * 0x40000 ≤ a ∧ a < 0x1000000 + (n + 1) * 0x40000)
      ∨ ∃ n < 24, s.tiles ≤ n ∧ 0x3000000 + n * 0x100000 ≤ a ∧ a < 0x3000000 + (n + 1) * 0x100000) : s.Unanswered a := by
  rcases h with ⟨n, lt, le, low, high⟩ | ⟨n, lt, le, low, high⟩ <;> obtain ⟨o, rfl⟩ := Nat.exists_eq_add_of_le low
  · exact State.unanswered_base_add (w := .port n) lt (by simp only [Window.size]; omega) (decide_eq_false (Nat.not_lt.mpr le))
  · exact State.unanswered_base_add (w := .td n) lt (by simp only [Window.size]; omega) (decide_eq_false (Nat.not_lt.mpr le))

/-- The addresses between the windows of Table 0.7 (R11). -/
theorem State.unanswered_of_noWindow (s : State) {a : Nat}
    (h : (0x40000 ≤ a ∧ a < 0x100000) ∨ (0x300000 ≤ a ∧ a < 0x1000000) ∨ (0x1400000 ≤ a ∧ a < 0x2000000)
      ∨ (0x2200000 ≤ a ∧ a < 0x3000000) ∨ (0x4800000 ≤ a ∧ a < 0x8000000)) : s.Unanswered a := by
  refine ⟨by unfold bar2Base; omega, fun w o place => ?_⟩
  unfold windowOf at place
  repeat rw [if_neg (by omega)] at place
  cases place

/-- A read of BAR0 of another width, or at an address that is no multiple of 4 (R10). -/
theorem State.bar0_misaligned (s : State) {a : Nat} (odd : a % 4 ≠ 0) : s.bar0 a = onesWord := by
  unfold State.bar0
  cases windowOf a with
  | none => rfl
  | some p => simp [odd]

theorem State.bar0_unanswered {s : State} {a : Nat} (h : s.Unanswered a) : s.bar0 a = onesWord := by
  unfold State.bar0
  cases place : windowOf a with
  | none => rfl
  | some p => simp [h.answers place]

/-- A bus read below the staging window is one of BAR0. -/
theorem State.busRead_eq (s : State) {a : Nat} (low : a < bar2Base) (width : Nat) :
    s.busRead a width = if width ≠ 4 then onesWord else s.bar0 a := by
  obtain ⟨notBar2, notCfg⟩ := not_inBar2_of_lt low
  simp [State.busRead, notBar2, notCfg]

/-- A bus write below the staging window that BAR0 ignores: of another width, not aligned, or to no window that answers. -/
theorem State.busWrite_ignored {s : State} {a width : Nat} (low : a < bar2Base)
    (ignored : s.Unanswered a ∨ width ≠ 4 ∨ a % 4 ≠ 0) (v : Word) : s.busWrite a width v = s := by
  obtain ⟨notBar2, notCfg⟩ := not_inBar2_of_lt low
  unfold State.busWrite
  rw [notBar2, if_neg Bool.false_ne_true, if_neg notCfg]
  rcases ignored with h | odd
  · cases place : windowOf a with
    | none => simp
    | some p => simp [h.answers place]
  · simp [odd]

/-! ### The counter latch (R23) -/

/-- A counter read that no window answers returns ones. -/
theorem State.readCounter_unanswered {s : State} (on : s.dev ≠ .off) {a : Nat} (h : s.Unanswered a) :
    s.readCounter a = { s with busData := onesWord } := by
  unfold State.readCounter
  cases place : windowOf a with
  | none => simp [on, h.1]
  | some p => simp [State.onRead, on, h.answers place]

/-- The low word is returned and the high word latched, of one sample. -/
theorem State.readCounter_latches {s : State} {w : Window} {o a : Nat} {c : Dword} (place : windowOf a = some (w, o))
    (answers : s.answers w = true) (counter : s.counterAt a = some c) :
    s.readCounter a = { s with busData := c.setWidth 32, latch := mset 0 s.latch (a + 4) ((c >>> 32).setWidth 32) } := by
  simp [State.readCounter, place, State.onRead, State.on_of_answers answers, answers, counter]

/-- The high word of a counter reads as latched, whatever the counter shows. -/
theorem State.bar0_high {s : State} {w : Window} {o a : Nat} (place : windowOf a = some (w, o)) (answers : s.answers w = true)
    (aligned : a % 4 = 0) (noLow : s.counterAt a = none) (noView : s.windowView w o = none) (second : 4 ≤ a)
    (high : (s.counterAt (a - 4)).isSome = true) : s.bar0 a = mget 0 s.latch a := by
  simp [State.bar0, place, answers, aligned, noLow, noView, second, high]

/-- Settles O7: the registers that only store by `Window.Stores`, the rest by what no window answers and by the latch. -/
theorem registersAreReadAndWritten : Obligations.RegistersAreReadAndWritten := by
  refine ⟨fun s r v on booted which => ?stores, fun s a w v => ?ignored, fun s => ⟨fun on booted => ?time, ?latch⟩⟩
  case stores =>
    rcases which with rfl | rfl | ⟨c, hc, rfl⟩ | ⟨n, hn, rfl | ⟨l, hl, rfl⟩⟩ | ⟨n, hn, rfl⟩ | ⟨n, hn, rfl⟩ | ⟨u, hu, which⟩
    · exact stores_devIrqEn.storesWord on booted rfl v
    · exact stores_xbarPoolcfg.storesWord on booted rfl v
    · exact (stores_xbarTccap hc).storesWord on booted rfl v
    · exact (stores_portTblsel (State.ports_lt hn)).storesWord on booted (decide_eq_true hn) v
    · exact (stores_portPThr (State.ports_lt hn) hl).storesWord on booted (decide_eq_true hn) v
    · exact (stores_sdCmsel hn).storesWord on booted rfl v
    · exact (stores_tdSemsel (State.tiles_lt hn)).storesWord on booted (decide_eq_true hn) v
    · have hn : u / 4 < s.tiles := by
        have := of_decide_eq_true hu
        omega
      rw [← Nat.div_add_mod u 4] at which
      rcases which with rfl | rfl
      · exact (stores_tdCRank (State.tiles_lt hn) (Nat.mod_lt u (by decide))).storesWord on booted (decide_eq_true hn) v
      · exact (stores_tdCSpthr (State.tiles_lt hn) (Nat.mod_lt u (by decide))).storesWord on booted (decide_eq_true hn) v
  case ignored =>
    intro nobody noWindow
    have unanswered (h : nobody ∨ noWindow) : s.Unanswered a := h.elim State.unanswered_of_nobody s.unanswered_of_noWindow
    refine ⟨fun h => ?_, fun low odd => ?_, fun h on => ?_⟩
    · have nowhere := unanswered h
      refine ⟨State.bar0_unanswered nowhere, ?_, congrArg Host.Outcome.next (State.busWrite_ignored nowhere.1 (.inl nowhere) v)⟩
      rw [s.busRead_eq nowhere.1, State.bar0_unanswered nowhere]
      exact ite_self _
    · refine ⟨?_, congrArg Host.Outcome.next (State.busWrite_ignored low (.inr odd) v)⟩
      rw [s.busRead_eq low]
      rcases odd with width | misaligned
      · exact if_pos width
      · rw [s.bar0_misaligned misaligned]
        exact ite_self _
    · exact ⟨_, congrArg Host.Outcome.next (State.readCounter_unanswered on (unanswered h)), rfl⟩
  case time =>
    have answers : s.answers .time = true := State.answers_of_populated on booted rfl
    have read := State.readCounter_latches (s := s) (a := 0x20010) (o := 0x10) (c := s.time.now) rfl answers rfl
    refine ⟨_, congrArg Host.Outcome.next read, Changes.latch_busData.mono (by decide), rfl, fun u latch dev => ?_⟩
    have answers : u.answers .time = true := State.answers_of_populated (dev ▸ on) (dev ▸ booted) rfl
    rw [State.bar0_high (w := .time) (o := 0x14) rfl answers rfl rfl rfl (by decide) rfl, latch]
    exact mget_mset_same ..
  case latch =>
    exact fun w o a c place answers counter =>
      ⟨_, congrArg Host.Outcome.next (State.readCounter_latches place answers counter), rfl⟩

end Sys2Proof.Machine
end

section
/-!
SUPPORT. Semaphores (spec/12_synchronisation.md, R292, R295, R297, R313; spec/01_organisation.md, R20): which SEM_ADD comes
next and what it does, the refusal at the destination NI, and writes to SEMDATA.
-/

namespace Sys2Proof.Machine

/-! ### Which SEM_ADD comes next (R20) -/

theorem foldl_min_of_le {f : α → Nat} {l : List α} {m : Nat} (h : ∀ x ∈ l, m ≤ f x) :
    l.foldl (fun m x => min m (f x)) m = m := by
  induction l with
  | nil => rfl
  | cons x l ih =>
    rw [List.foldl_cons, Nat.min_eq_left (h x List.mem_cons_self)]
    exact ih fun y hy => h y (List.mem_cons_of_mem x hy)

/-- The arrival is a SEM_ADD packet of core `u` at its tile die. -/
def State.SemAddAt (s : State) (u : Nat) (a : Arrival) : Prop :=
  a.slot = s.tileSlot (u / 4) ∧ a.pkt.hdr.op = opSemAdd ∧ a.unit = u

theorem State.SemAddAt.semAdd {s : State} {u : Nat} {a : Arrival} (h : s.SemAddAt u a) : a.semAdd u = true := by
  simp [Arrival.semAdd, h.2.1, h.2.2]

/-- The SEM_ADD of core `u` that comes next, and the state without it. -/
def State.takeSemAdd (s : State) (u : Nat) : Option (Arrival × State) :=
  s.takeArrival (s.tileSlot (u / 4)) fun x => x.semAdd u && x.src == s.semSource u

/-- The oldest SEM_ADD comes first where no other of its tick has a lower source slot. -/
theorem State.takeSemAdd_oldest {s : State} {u : Nat} {a : Arrival} {rest : List Arrival} (inbox : s.inbox = a :: rest)
    (isAdd : s.SemAddAt u a) (lowest : ∀ b ∈ rest, b.at_ = a.at_ → a.src ≤ b.src) :
    ∃ t, s.takeSemAdd u = some (a, t) ∧ t.inbox = rest ∧ Changes [.inbox] s t := by
  have source : s.semSource u = a.src := by
    unfold State.semSource
    rw [inbox, List.filter_cons_of_pos (by simp [isAdd.1, isAdd.semAdd])]
    refine foldl_min_of_le fun b hb => ?_
    obtain ⟨mem, tick⟩ := List.mem_filter.mp hb
    exact lowest b (List.mem_filter.mp mem).1 (eq_of_beq tick)
  exact ⟨{ s with inbox := rest }, by simp [State.takeSemAdd, State.takeArrival, inbox, takeFirst, isAdd.1, isAdd.semAdd, source],
    rfl, Changes.inbox⟩

/-- A second SEM_ADD of the same tick comes first where its source slot is lower. -/
theorem State.takeSemAdd_second {s : State} {u : Nat} {a b : Arrival} (inbox : s.inbox = [a, b])
    (isAdd : ∀ x ∈ [a, b], s.SemAddAt u x) (tick : b.at_ = a.at_) (lower : b.src < a.src) :
    ∃ t, s.takeSemAdd u = some (b, t) ∧ t.inbox = [a] ∧ Changes [.inbox] s t := by
  have ha := isAdd a (by simp)
  have hb := isAdd b (by simp)
  have source : s.semSource u = b.src := by
    simp [State.semSource, inbox, ha.1, ha.semAdd, hb.1, hb.semAdd, tick, Nat.min_eq_right (Nat.le_of_lt lower)]
  have skip : ¬ a.src = b.src := by omega
  exact ⟨{ s with inbox := [a] },
    by simp [State.takeSemAdd, State.takeArrival, inbox, takeFirst, ha.semAdd, hb.1, hb.semAdd, source, skip], rfl, Changes.inbox⟩

/-! ### An update from another source than the core (R295) -/

/-- A sum of at most 2^32 - 1 is stored. -/
theorem State.semUpdate_adds {s : State} {u i v : Nat} (fits : (s.sem u i).toNat + v < 2 ^ 32) (source : Nat) :
    s.semUpdate u i source v = s.setSem u i (BitVec.ofNat 32 ((s.sem u i).toNat + v)) := by
  have : ¬ 0xFFFFFFFF < (s.sem u i).toNat + v := by omega
  simp [State.semUpdate, this]

/-- A larger one leaves the semaphore and is recorded. -/
theorem State.semUpdate_overflows {s : State} {u i v : Nat} (large : 2 ^ 32 ≤ (s.sem u i).toNat + v) (source : Nat) :
    s.semUpdate u i source v = s.semFault u i source v := by
  have : 0xFFFFFFFF < (s.sem u i).toNat + v := by omega
  simp [State.semUpdate, this]

theorem Changes.sem {w : List Field} {s t : State} (h : Changes w s t) (hw : Field.sems ∉ w) (x i : Nat) : t.sem x i = s.sem x i :=
  congrArg (mget 0 · (1024 * x + i)) (h.elsewhere .sems hw)

/-- Semaphores of a core are those of its 1024 numbers: a write leaves all others. -/
theorem State.sem_setSem_frame (s : State) {u i x y : Nat} (w : Word) (hi : i < 1024) (hy : y < 1024) (other : x ≠ u ∨ y ≠ i) :
    (s.setSem u i w).sem x y = s.sem x y :=
  s.sem_setSem_other w (by omega)

/-! ### The record of an overflow (R313) -/

theorem toNat_atFld_lt (hi lo v : Nat) (h : lo ≤ hi) : (atFld hi lo v).toNat < 2 ^ (hi + 1) := by
  have field : v % 2 ^ (hi + 1 - lo) * 2 ^ lo < 2 ^ (hi + 1) := by
    calc v % 2 ^ (hi + 1 - lo) * 2 ^ lo < 2 ^ (hi + 1 - lo) * 2 ^ lo :=
          Nat.mul_lt_mul_of_pos_right (Nat.mod_lt _ (Nat.two_pow_pos _)) (Nat.two_pow_pos _)
      _ = 2 ^ (hi + 1) := by rw [← Nat.pow_add]; congr 1; omega
  rw [atFld, BitVec.toNat_ofNat]
  exact Nat.lt_of_le_of_lt (Nat.mod_le ..) field

theorem toNat_or_lt {n : Nat} {x y : Word} (hx : x.toNat < 2 ^ n) (hy : y.toNat < 2 ^ n) : (x ||| y).toNat < 2 ^ n := by
  rw [BitVec.toNat_or]
  exact Nat.or_lt_two_pow hx hy

/-- The code in the high byte of a fault record, whatever stands below it. -/
theorem wfld_code (code : Nat) (hc : code < 256) {x : Word} (hx : x.toNat < 2 ^ 24) : wfld (atFld 31 24 code ||| x) 31 24 = code := by
  have high : (atFld 31 24 code).toNat = code * 2 ^ 24 := by
    rw [atFld, BitVec.toNat_ofNat]; omega
  rw [wfld, nbits, BitVec.toNat_or, high, Nat.shiftRight_or_distrib, Nat.shiftRight_eq_div_pow x.toNat,
    Nat.div_eq_of_lt hx, Nat.or_zero, Nat.shiftRight_eq_div_pow]
  omega

theorem State.owe_reg (s : State) (o : Owed) (r : Reg) : (s.owe o).reg r = s.reg r :=
  congrArg (mget r.rst · r.addr) ((s.owe_changes o).elsewhere .regs (by decide))

/-- An overflow sets the cause bit of the core's die. -/
theorem State.semFault_cause (s : State) (u i source v : Nat) :
    (s.semFault u i source v).bit (R.tdSemcause (u / 4)) 0 = true := by
  unfold State.semFault State.bit
  rw [State.owe_reg]
  exact State.bit_raise_same _ _ (by decide)

/-- A die that holds no record takes one with the code OVERFLOW. -/
theorem State.semFault_code {s : State} {u : Nat} (empty : s.reg (R.tdSemfault0 (u / 4)) = 0) (i source v : Nat) :
    (s.semFault u i source v).fld (R.tdSemfault0 (u / 4)) 31 24 = fcOverflow := by
  have away {k : Nat} (hk : k ≠ 0xe0004) : tdBase (u / 4) + k ≠ tdBase (u / 4) + 0xe0004 := fun h => hk (Nat.add_left_cancel h)
  unfold State.semFault State.fld
  rw [State.owe_reg, State.reg_raise_other _ _ (away (k := 0xe0000) (by decide)), if_pos empty,
    State.reg_setReg_other _ _ (away (k := 0xe000c) (by decide)), State.reg_setReg_other _ _ (away (k := 0xe0008) (by decide)),
    State.reg_setReg_same, BitVec.or_assoc, BitVec.or_assoc]
  exact wfld_code _ (by decide) (toNat_or_lt (toNat_atFld_lt 23 12 _ (by decide)) (toNat_or_lt
    ((toNat_atFld_lt 11 10 _ (by decide)).trans (by decide)) ((toNat_atFld_lt 9 0 _ (by decide)).trans (by decide))))

/-! ### What a SEM_ADD does (R295, R297) -/

/-- The commitment of a SEM_ADD packet of a message. -/
def State.heldAdd (s : State) (u : Nat) (a : Arrival) : CommitRec :=
  { slot := a.slot, hdr := a.pkt.hdr, ep := a.ep, job := a.pkt.job, tc := a.pkt.tc, bytes := 0,
    target := some (u, a.pkt.hdr.addr, leAt a.pkt.data 0 4), isAdd := true, src := a.src, at_ := s.time.now }

section
variable {s t : State} {u : Nat} {a : Arrival} (taken : s.takeSemAdd u = some (a, t))
include taken

/-- Of a message it waits for the tracker, with the semaphore and its operand. -/
theorem State.receiveSemAdd_message (message : a.pkt.hdr.msgBytes ≠ 0) :
    s.receiveSemAdd u = { t with commits := t.commits ++ [t.heldAdd u a] } := by
  rw [State.takeSemAdd] at taken
  simp [State.receiveSemAdd, taken, message, State.heldAdd]

/-- Outside a message it is applied at once. -/
theorem State.receiveSemAdd_single (single : a.pkt.hdr.msgBytes = 0) :
    s.receiveSemAdd u = t.semUpdate u a.pkt.hdr.addr 0 (leAt a.pkt.data 0 4) := by
  rw [State.takeSemAdd] at taken
  simp [State.receiveSemAdd, taken, single]

variable (frame : Changes [.inbox] s t) (single : a.pkt.hdr.msgBytes = 0)
include frame single

/-- One that fits is added, and no other semaphore changes. -/
theorem State.receiveSemAdd_adds (addr : a.pkt.hdr.addr < 1024)
    (fits : (s.sem u a.pkt.hdr.addr).toNat + leAt a.pkt.data 0 4 < 2 ^ 32) :
    ((s.receiveSemAdd u).sem u a.pkt.hdr.addr).toNat = (s.sem u a.pkt.hdr.addr).toNat + leAt a.pkt.data 0 4
      ∧ (s.receiveSemAdd u).inbox = t.inbox ∧ Changes [.inbox, .sems] s (s.receiveSemAdd u)
      ∧ ∀ x i, i < 1024 → (x ≠ u ∨ i ≠ a.pkt.hdr.addr) → (s.receiveSemAdd u).sem x i = s.sem x i := by
  have sem (x i : Nat) : s.sem x i = t.sem x i := (frame.sem (by decide) x i).symm
  simp only [sem] at fits ⊢
  rw [State.receiveSemAdd_single taken single, State.semUpdate_adds fits]
  refine ⟨?_, rfl, (frame.mono (by decide)).step (State.setSem_changes ..) (by decide),
    fun x i hi other => State.sem_setSem_frame t _ addr hi other⟩
  rw [State.sem_setSem_same, BitVec.toNat_ofNat, Nat.mod_eq_of_lt fits]

/-- One that does not leaves the semaphores and is recorded. -/
theorem State.receiveSemAdd_overflows (large : 2 ^ 32 ≤ (s.sem u a.pkt.hdr.addr).toNat + leAt a.pkt.data 0 4) :
    (s.receiveSemAdd u).sems = s.sems ∧ (s.receiveSemAdd u).bit (R.tdSemcause (u / 4)) 0 = true
      ∧ (s.receiveSemAdd u).inbox = t.inbox
      ∧ (s.reg (R.tdSemfault0 (u / 4)) = 0 → (s.receiveSemAdd u).fld (R.tdSemfault0 (u / 4)) 31 24 = fcOverflow) := by
  rw [← frame.sem (by decide)] at large
  rw [State.receiveSemAdd_single taken single, State.semUpdate_overflows large]
  have fault := t.semFault_changes u a.pkt.hdr.addr 0 (leAt a.pkt.data 0 4)
  refine ⟨(fault.elsewhere .sems (by decide)).trans (frame.elsewhere .sems (by decide)), State.semFault_cause ..,
    fault.elsewhere .inbox (by decide), fun empty => State.semFault_code ?_ ..⟩
  rw [State.reg, frame.elsewhere .regs (by decide)]
  exact empty

end

/-! ### The refusal at the destination NI (R92, R297) -/

theorem State.commitBytes_link (s : State) (slot src : Nat) (h : PktHdr) (ep job tc k n l : Nat) :
    (s.commitBytes slot src h ep job tc k).link n l = s.link n l :=
  congrArg (mget Link.reset · (lk n l)) ((s.commitBytes_changes slot src h ep job tc k).elsewhere .links (by decide))

theorem State.freeRxBuffer_rxWait (s : State) (n l : Nat) (f : Flit) :
    ((s.freeRxBuffer n l f).link n l).rxWait = (s.link n l).rxWait := by
  rw [State.freeRxBuffer, State.link_setLink_same]

/-- The only flit of a packet that is discarded frees its receive buffer, and nothing enters the crossbar. -/
theorem State.placeFlit_dropped {s : State} {n l j : Nat} {d : RxDec} {f : Flit} (decs : (s.link n l).rxDec = [d])
    (vc : d.vc = f.vc) (drop : d.drop = true) (last : f.eop = true) :
    Changes [.links, .commits] s (s.placeFlit n l j d f)
      ∧ ((s.placeFlit n l j d f).link n l).rxWait = (s.link n l).rxWait := by
  have freed : Changes [.links, .commits] s (s.freeRxBuffer n l f) := (s.freeRxBuffer_changes n l f).mono (by decide)
  simp only [State.placeFlit, decs, vc, drop, last, List.find?_cons_of_pos, BEq.rfl, Option.getD_some, if_true]
  refine ⟨Changes.step (Changes.ite ?_ freed) (State.setLink_changes ..) (by decide), ?_⟩
  · exact freed.step (State.commitBytes_changes ..) (by decide)
  · rw [State.link_setLink_same]
    split
    · rw [State.commitBytes_link, State.freeRxBuffer_rxWait]
    · rw [State.freeRxBuffer_rxWait]

/-- A SEM_ADD for a unit that is no core, or for a semaphore that no core has, is refused; its bytes count. -/
theorem State.decideRx_semAdd_refused {s : State} {j x kind y : Nat} {f : Flit} (vc : f.vc = 0)
    (op : (hdrOfBytes f.payload).op = opSemAdd) (here : (hdrOfBytes f.payload).dstDev = s.selfDev)
    (member : s.expelled f.job (hdrOfBytes f.payload).srcDev = false) (slot : s.active.jobSlot f.job = some x)
    (endpoint : s.active.endpoint x (hdrOfBytes f.payload).dstEp = some (kind, y))
    (refused : (kind = 0 ∧ y / 4 < s.tiles ∧ 1024 ≤ (hdrOfBytes f.payload).addr) ∨ (kind = 1 ∧ y < 32)) :
    s.decideRx j f = .epErr true := by
  have channel : opVc opSemAdd = some 0 := rfl
  rcases refused with ⟨rfl, unit, addr⟩ | ⟨rfl, unit⟩
  · simp [State.decideRx, op, vc, channel, member, State.route, here, State.deliver, slot, endpoint, unit, addr]
  · simp [State.decideRx, op, vc, channel, member, State.route, here, State.deliver, slot, endpoint, unit]

/-- PACKET_DELIVER decides a packet of one flit that is for this device. -/
theorem State.decidePacket_here {s : State} {n l j sub : Nat} {f : Flit} (on : s.xbarOn = true)
    (port : s.subportAt n l = some (j, sub)) (wait : (s.link n l).rxWait = [f]) (dec : (s.link n l).rxDec = [])
    (first : f.sop = true) (here : (hdrOfBytes f.payload).dstDev = s.selfDev) :
    s.decidePacket n l f.vc true = s.decided n l j f (s.decideRx j f) := by
  simp [State.decidePacket, port, wait, on, dec, first, here]

section
variable {s : State} {n l j : Nat} {f : Flit}
  (wait : (s.link n l).rxWait = [f]) (dec : (s.link n l).rxDec = []) (cut : (s.link n l).rxCut = [])
  (held : (s.link n l).rxHeld = []) (last : f.eop = true)
include wait dec cut held last

/-- A packet of one flit that is refused: `ep_err` is set, and its flit is placed under a decision that discards it. -/
theorem State.decided_epErr_eq (commit : Bool) :
    s.decided n l j f (.epErr commit)
      = (State.numbered ((s.raise (R.portCause n) 4).setLink n l
          { s.link n l with rxDec := [dropDec f s.nextId commit], rxWait := [], rxCut := [], rxHeld := [] })).placeFlit
            n l j (dropDec f s.nextId commit) f := by
  have alone : splitPacket f.vc [f] = ([f], []) := by simp [splitPacket, last]
  have link : (s.raise (R.portCause n) 4).link n l = s.link n l := rfl
  simp [State.decided, link, wait, dec, cut, held, alone]

/-- So the receive buffer is free, and nothing changes but the cause, the link and what counts as committed. -/
theorem State.decided_epErr (commit : Bool) :
    (s.decided n l j f (.epErr commit)).bit (R.portCause n) 4 = true
      ∧ ((s.decided n l j f (.epErr commit)).link n l).rxWait = []
      ∧ Changes [.regs, .links, .commits, .nextId] s (s.decided n l j f (.epErr commit)) := by
  rw [State.decided_epErr_eq wait dec cut held last]
  generalize ht : State.numbered _ = t
  obtain ⟨frame, rxWait⟩ := State.placeFlit_dropped (s := t) (n := n) (l := l) (j := j) (d := dropDec f s.nextId commit) (f := f)
    (by rw [← ht]; exact congrArg Link.rxDec (State.link_setLink_same ..)) rfl rfl last
  have before : Changes [.regs, .links, .commits, .nextId] s t := by
    rw [← ht]
    refine Changes.step ?_ (State.numbered_changes _) (by decide)
    exact Changes.step ((s.raise_changes _ _).mono (by decide)) (State.setLink_changes ..) (by decide)
  have cause : t.bit (R.portCause n) 4 = true := ht ▸ s.bit_raise_same _ (by decide)
  refine ⟨?_, ?_, before.step frame (by decide)⟩
  · rw [State.bit, State.reg, frame.elsewhere .regs (by decide)]
    exact cause
  · rw [rxWait, ← ht]
    exact congrArg Link.rxWait (State.link_setLink_same ..)

end

/-! ### SEMDATA (R313) -/

/-- A write to SEMDATA of a core that is idle or halted. -/
theorem State.writeSemdata_stores {s : State} {n : Nat} (die : n < s.tiles)
    (still : (s.core (4 * n + s.fld (R.tdSemsel n) 11 10)).st = .idle ∨ (s.core (4 * n + s.fld (R.tdSemsel n) 11 10)).st = .halted)
    (w : Word) : s.writeSemdata n w = s.setSem (4 * n + s.fld (R.tdSemsel n) 11 10) (s.fld (R.tdSemsel n) 9 0) w :=
  if_pos ⟨die, still⟩

theorem State.fld_lt (s : State) (r : Reg) (hi lo : Nat) : s.fld r hi lo < 2 ^ (hi + 1 - lo) :=
  Nat.mod_lt _ (Nat.two_pow_pos _)

/-- Settles O56: each case of a SEM_ADD by the law of its arrival, and SEMDATA by that of its write. -/
theorem semaphoresAreUpdated : Obligations.SemaphoresAreUpdated := by
  intro s u a rest n w
  refine ⟨fun inbox slot op unit addr lowest => ?oldest, fun b inbox isAdd tick lower single addr fits => ?second,
    ?refused, fun on booted die still => ?stores, fun on booted die notIdle notHalted => ?ignored⟩
  case oldest =>
    obtain ⟨t, taken, rfl, frame⟩ := State.takeSemAdd_oldest inbox ⟨slot, op, unit⟩ lowest
    refine ⟨fun single fits => ⟨_, rfl, State.receiveSemAdd_adds taken frame single addr fits⟩,
      fun single large => ⟨_, rfl, State.receiveSemAdd_overflows taken frame single large⟩, fun message => ?_⟩
    refine ⟨_, congrArg Host.Outcome.next (State.receiveSemAdd_message taken message), frame.elsewhere .sems (by decide), rfl,
      t.heldAdd u a, ?_, rfl⟩
    exact congrArg (· ++ [t.heldAdd u a]) (frame.elsewhere .commits (by decide))
  case second =>
    obtain ⟨t, taken, left, frame⟩ := State.takeSemAdd_second inbox isAdd tick lower
    obtain ⟨sum, inbox, -⟩ := State.receiveSemAdd_adds taken frame single addr fits
    exact ⟨_, rfl, inbox.trans left, sum⟩
  case refused =>
    intro l j sub x kind y f h on port wait dec cut held vc first last op here member slot endpoint refused
    have decision := State.decideRx_semAdd_refused (j := j) vc op here member slot endpoint refused
    have run := State.decidePacket_here on port wait dec first here
    rw [vc, decision] at run
    exact ⟨_, congrArg Host.Outcome.next run, State.decided_epErr wait dec cut held last true⟩
  case stores =>
    have answers := State.answers_of_populated on booted (w := .td n) (decide_eq_true die)
    have run : s.onWrite (.td n) true (s.writeSemdata n w) = _ :=
      (if_pos (by simp [answers])).trans (State.writeSemdata_stores die still w)
    exact ⟨_, congrArg Host.Outcome.next run, State.sem_setSem_same .., State.setSem_changes ..,
      fun x y hy other => State.sem_setSem_frame s w (s.fld_lt _ 9 0) hy other⟩
  case ignored =>
    have still : s.writeSemdata n w = s := if_neg fun h => h.2.elim notIdle notHalted
    show Host.Outcome.next (s.onWrite (.td n) true (s.writeSemdata n w)) = _
    rw [still, State.onWrite, ite_self]

end Sys2Proof.Machine
end
section
/-!
SUPPORT. Frames of registers: what an operation that writes registers leaves in the others, said of a range of addresses.
-/

namespace Sys2Proof.Machine

/-- Every register that stands at `lo` or above, and below `hi`, holds in `t` the word it holds in `s`. -/
structure State.KeepsRegs (lo hi : Nat) (s t : State) : Prop where
  reg : ∀ r : Reg, lo ≤ r.addr → r.addr < hi → t.reg r = s.reg r

/-- The register stands outside the range. -/
def Reg.outside (r : Reg) (lo hi : Nat) : Prop := r.addr < lo ∨ hi ≤ r.addr

section
variable {lo hi : Nat}

theorem State.KeepsRegs.refl (s : State) : State.KeepsRegs lo hi s s := ⟨fun _ _ _ => rfl⟩

theorem State.KeepsRegs.trans {s t u : State} (h : State.KeepsRegs lo hi s t) (k : State.KeepsRegs lo hi t u) :
    State.KeepsRegs lo hi s u :=
  ⟨fun r hl hh => (k.reg r hl hh).trans (h.reg r hl hh)⟩

theorem State.KeepsRegs.ite {s a b : State} {c : Prop} [Decidable c] (h : State.KeepsRegs lo hi s a)
    (k : State.KeepsRegs lo hi s b) : State.KeepsRegs lo hi s (if c then a else b) := by
  split <;> assumption

theorem State.KeepsRegs.foldl {s t : State} {g : State → α → State} {l : List α} (h : State.KeepsRegs lo hi s t)
    (k : ∀ u a, State.KeepsRegs lo hi u (g u a)) : State.KeepsRegs lo hi s (l.foldl g t) := by
  induction l generalizing t with
  | nil => exact h
  | cons a l ih => exact ih (h.trans (k t a))

/-- An operation that changes no register at all. -/
theorem Changes.keepsRegs {w : List Field} {s t : State} (h : Changes w s t) (hw : Field.regs ∉ w) :
    State.KeepsRegs lo hi s t :=
  ⟨fun r _ _ => congrArg (mget r.rst · r.addr) (h.elsewhere .regs hw)⟩

theorem State.setReg_keepsRegs (s : State) {r : Reg} (w : Word) (out : r.outside lo hi) :
    State.KeepsRegs lo hi s (s.setReg r w) := by
  constructor
  intro q hl hh
  refine s.reg_setReg_other w fun e => ?_
  rcases out with h | h <;> omega

theorem State.raise_keepsRegs (s : State) {r : Reg} (i : Nat) (out : r.outside lo hi) :
    State.KeepsRegs lo hi s (s.raise r i) :=
  s.setReg_keepsRegs _ out

theorem State.lower_keepsRegs (s : State) {r : Reg} (i : Nat) (out : r.outside lo hi) :
    State.KeepsRegs lo hi s (s.lower r i) :=
  s.setReg_keepsRegs _ out

theorem State.KeepsRegs.bit {s t : State} (h : State.KeepsRegs lo hi s t) {r : Reg} (hl : lo ≤ r.addr) (hh : r.addr < hi)
    (i : Nat) : t.bit r i = s.bit r i :=
  congrArg (wbit · i) (h.reg r hl hh)

end

theorem Changes.reg {w : List Field} {s t : State} (h : Changes w s t) (hw : Field.regs ∉ w) (r : Reg) : t.reg r = s.reg r :=
  (h.keepsRegs (lo := 0) (hi := r.addr + 1) hw).reg r (Nat.zero_le _) (Nat.lt_succ_self _)

theorem Changes.bit {w : List Field} {s t : State} (h : Changes w s t) (hw : Field.regs ∉ w) (r : Reg) (i : Nat) :
    t.bit r i = s.bit r i :=
  congrArg (wbit · i) (h.reg hw r)

theorem State.bit_setReg_other (s : State) {r q : Reg} (w : Word) (h : r.addr ≠ q.addr) (i : Nat) :
    (s.setReg r w).bit q i = s.bit q i :=
  congrArg (wbit · i) (s.reg_setReg_other w h)

theorem State.bit_raise_elsewhere (s : State) {r q : Reg} (k : Nat) (h : r.addr ≠ q.addr) (i : Nat) :
    (s.raise r k).bit q i = s.bit q i :=
  s.bit_setReg_other _ h i

theorem State.bit_lower_elsewhere (s : State) {r q : Reg} (k : Nat) (h : r.addr ≠ q.addr) (i : Nat) :
    (s.lower r k).bit q i = s.bit q i :=
  s.bit_setReg_other _ h i

end Sys2Proof.Machine
end
section
/-!
SUPPORT. Job-ending faults (spec/03_crossbar.md, R74; spec/04_links_and_routing.md, R96, R107; spec/14_steps_and_serving.md,
R327; spec/15_management_interface.md, R363): what a recorded fault does to its slot, that it touches no register of the
crossbar or of a port die, and how the maps and the fault sites are served.
-/

namespace Sys2Proof.Machine

/-! ### A recorded fault leaves the crossbar's and the port dies' registers -/

/-- The registers from the window of the crossbar to those of the port dies. -/
abbrev State.KeepsFabric (s t : State) : Prop := State.KeepsRegs 0x100000 0x2000000 s t

theorem sdBase_add_le (n k : Nat) : 0x2000000 ≤ sdBase n + k := by unfold sdBase; omega

theorem tdBase_add_le (n k : Nat) : 0x2000000 ≤ tdBase n + k := by unfold tdBase; omega

theorem State.setReg_keepsFabric (s : State) {r : Reg} (w : Word) (h : 0x2000000 ≤ r.addr) : s.KeepsFabric (s.setReg r w) :=
  s.setReg_keepsRegs w (.inr h)

theorem State.raise_keepsFabric (s : State) {r : Reg} (i : Nat) (h : 0x2000000 ≤ r.addr) : s.KeepsFabric (s.raise r i) :=
  s.raise_keepsRegs i (.inr h)

theorem State.sdFault_keepsFabric (s : State) (n code job c : Nat) : s.KeepsFabric (s.sdFault n code job c) := by
  unfold State.sdFault
  extract_lets s1
  have h1 : s.KeepsFabric s1 := .ite (s.setReg_keepsFabric _ (sdBase_add_le ..)) (.refl s)
  have h2 : s.KeepsFabric (s1.markJob (fun w => R.sdJmap n w) job) :=
    h1.trans (s1.raise_keepsFabric _ ((sdBase_add_le n _).trans_eq (Nat.add_assoc ..).symm))
  exact h2.trans (State.raise_keepsFabric _ _ (sdBase_add_le ..))

theorem State.failCtx_keepsFabric (s : State) (c code : Nat) : s.KeepsFabric (s.failCtx c code) := by
  unfold State.failCtx
  refine .ite (.refl s) (.trans (.trans ((s.dropChunks_changes c).keepsRegs (by decide)) ?_) (State.sdFault_keepsFabric ..))
  exact (State.setCtx_changes ..).keepsRegs (by decide)

/-- The command that fails the contexts of a job. -/
theorem State.writeSdJobcmd_keepsFabric (s : State) (n : Nat) {w : Word} (fails : wfld w 31 30 = 1) :
    s.KeepsFabric (s.writeSdJobcmd n w) := by
  unfold State.writeSdJobcmd
  rw [if_pos fails]
  exact .ite (.refl s) (.foldl (.refl s) fun _ _ => State.failCtx_keepsFabric ..)

theorem State.semFault_keepsFabric (s : State) (u i source v : Nat) : s.KeepsFabric (s.semFault u i source v) := by
  unfold State.semFault
  refine .trans (.trans (.ite ?_ (.refl s)) (State.raise_keepsFabric _ _ (tdBase_add_le ..)))
    ((State.owe_changes ..).keepsRegs (by decide))
  exact ((s.setReg_keepsFabric _ (tdBase_add_le ..)).trans (State.setReg_keepsFabric _ _ (tdBase_add_le ..))).trans
    (State.setReg_keepsFabric _ _ (tdBase_add_le ..))

theorem State.semUpdate_keepsFabric (s : State) (u i source v : Nat) : s.KeepsFabric (s.semUpdate u i source v) := by
  unfold State.semUpdate
  exact .ite (State.semFault_keepsFabric ..) ((State.setSem_changes ..).keepsRegs (by decide))

theorem State.endMember_keepsFabric (s : State) (u job : Nat) (d : CollDesc) (code done : Nat) (total : Dword) :
    s.KeepsFabric (s.endMember u job d code done total) := by
  unfold State.endMember
  extract_lets n record s1 s2 s3
  have h1 : s.KeepsFabric s1 := .ite ((State.lsPut_changes ..).keepsRegs (by decide)) (.refl s)
  have h2 : s.KeepsFabric s2 := h1.trans (State.semUpdate_keepsFabric ..)
  have h3 : s.KeepsFabric s3 := .ite (h2.trans (State.setReg_keepsFabric _ _ (tdBase_add_le ..))) h2
  exact .ite h2 (h3.trans (State.raise_keepsFabric _ _ (tdBase_add_le ..)))

theorem State.endColl_keepsFabric (s : State) (c : Coll) (code done : Nat) : s.KeepsFabric (s.endColl c code done) :=
  .trans (.trans (Changes.colls.keepsRegs (by decide)) (State.endMember_keepsFabric ..))
    ((State.settleClear_changes ..).keepsRegs (by decide))

theorem State.abortColls_keepsFabric (s : State) (n job code : Nat) : s.KeepsFabric (s.abortColls n job code) :=
  .foldl (.refl s) fun u c => .trans ((u.stopSending_changes c.id).keepsRegs (by decide)) (State.endColl_keepsFabric ..)

theorem State.memRecord_keepsFabric (s : State) (n code job agent kind addr : Nat) :
    s.KeepsFabric (s.memRecord n code job agent kind addr) := by
  unfold State.memRecord
  refine .trans (.ite ?_ (.refl s)) (State.raise_keepsFabric _ _ (tdBase_add_le ..))
  exact ((s.setReg_keepsFabric _ (tdBase_add_le ..)).trans (State.setReg_keepsFabric _ _ (tdBase_add_le ..))).trans
    (State.setReg_keepsFabric _ _ (tdBase_add_le ..))

theorem State.memFault_keepsFabric (s : State) (n code job agent kind addr : Nat) :
    s.KeepsFabric (s.memFault n code job agent kind addr) :=
  (State.memRecord_keepsFabric ..).trans ((State.owe_changes ..).keepsRegs (by decide))

theorem State.setRs_keepsFabric (s : State) (slot leafAt rs : Nat) : s.KeepsFabric (s.setRs slot leafAt rs) := by
  unfold State.setRs State.putReported
  split <;> rename_i written
  · exact ((State.writeWords_changes ..).of_fst written).keepsRegs (by decide)
  · exact (((State.writeWords_changes ..).of_fst written).keepsRegs (by decide)).trans (State.memFault_keepsFabric ..)

theorem State.startFetch_keepsFabric (s : State) (f : Fetch) : s.KeepsFabric (s.startFetch f) := by
  unfold State.startFetch
  refine .ite (.foldl ?_ fun u w => (u.refuseStalled_changes w.1 w.2).keepsRegs (by decide)) ?_
  · exact .trans (Changes.fetches.keepsRegs (by decide)) (State.memFault_keepsFabric ..)
  · exact .trans (.trans (Changes.fetches.keepsRegs (by decide)) (State.setRs_keepsFabric ..))
      ((State.attachPkt_changes ..).keepsRegs (by decide))

theorem State.startFetches_keepsFabric (n fuel : Nat) (s : State) : s.KeepsFabric (State.startFetches n fuel s) := by
  induction fuel generalizing s with
  | zero => exact .refl s
  | succ fuel ih =>
    unfold State.startFetches
    split
    · exact (s.startFetch_keepsFabric _).trans (ih _)
    · exact .refl s

theorem State.abortPager_keepsFabric (s : State) (n slot : Nat) : s.KeepsFabric (s.abortPager n slot) := by
  unfold State.abortPager
  extract_lets mine s1 s2 gone s3
  have h1 : s.KeepsFabric s1 := Changes.fetches.keepsRegs (by decide)
  have h2 : s.KeepsFabric s2 := h1.foldl fun u f => .foldl (.ite (State.setRs_keepsFabric ..) (.refl u)) fun v w =>
    (v.endStalled_changes w.1 w.2).keepsRegs (by decide)
  have h3 : s.KeepsFabric s3 := h2.foldl fun u m => (u.dropMsg_changes m.id).keepsRegs (by decide)
  exact (h3.trans (Changes.wbs.keepsRegs (by decide))).trans (State.startFetches_keepsFabric ..)


theorem State.slotEvent_keepsFabric (s : State) (bit slot : Nat) : s.KeepsFabric (s.slotEvent bit slot) := by
  refine .trans (s.raise_keepsRegs _ (.inl ?_)) (State.raise_keepsRegs _ _ (.inl (by decide)))
  split <;> decide

theorem State.reply_keepsFabric (s : State) (m status detail : Nat) (res : List Byte) :
    s.KeepsFabric (s.reply m status detail res) :=
  .trans (.trans (Changes.mbx_mgmt.keepsRegs (by decide)) (State.lower_keepsRegs _ _ (.inl (by decide))))
    (State.raise_keepsRegs _ _ (.inl (by decide)))

theorem State.endMirror_keepsFabric (s : State) (j code : Nat) (res : List Byte) : s.KeepsFabric (s.endMirror j code res) := by
  unfold State.endMirror
  split
  · exact .refl s
  · extract_lets own s1 s2
    have h1 : s.KeepsFabric s1 := .foldl (.refl s) fun u m => (u.dropMsg_changes m.id).keepsRegs (by decide)
    have h2 : s.KeepsFabric s2 := (h1.trans ((State.updJob_changes ..).keepsRegs (by decide))).trans
      (State.slotEvent_keepsFabric ..)
    exact .ite (h2.trans (State.reply_keepsFabric ..)) (h2.trans (State.reply_keepsFabric ..))

theorem State.recordJobFault_keepsFabric (s : State) (j code : Nat) : s.KeepsFabric (s.recordJobFault j code) := by
  unfold State.recordJobFault
  extract_lets s1 st
  have h1 : s.KeepsFabric s1 := (s.updJob_changes j _).keepsRegs (by decide)
  exact .ite ((h1.trans ((State.jobState_changes ..).keepsRegs (by decide))).trans (State.slotEvent_keepsFabric ..)) h1

/-! ### A fault of a job whose slot is at work (R192, R327) -/

/-- What the notice of a fault does before it comes to the job's slot: contexts fail, collectives are aborted, and the pager
works no more for the slot, if there is one. -/
def State.beforeRecord (s : State) (job code : Nat) (slot : Option Nat) : State :=
  let s := (List.range 8).foldl (fun s n => s.writeSdJobcmd n (atFld 31 30 1 ||| atFld 23 16 code ||| atFld 11 0 job)) s
  let s := (List.range s.tiles).foldl (fun s n => s.abortColls n job code) s
  match slot with
  | none => s
  | some j => (List.range s.tiles).foldl (fun s n => s.abortPager n j) s

/-- The parts in which it may act: the slots, the mailboxes and what Hyzacia works on are not among them. -/
def Field.beforeRecord : List Field :=
  [.regs, .cnt, .dpa, .sems, .ue, .attach, .msgs, .commits, .ctxs, .accepted, .cores, .colls, .owed, .fetches, .wbs, .nextId,
    .freeCtr]

theorem State.beforeRecord_changes (s : State) (job code : Nat) (slot : Option Nat) :
    Changes Field.beforeRecord s (s.beforeRecord job code slot) := by
  unfold State.beforeRecord
  extract_lets s1 s2
  have h1 : Changes Field.beforeRecord s s1 := (Changes.refl _ s).foldl fun u n => (u.writeSdJobcmd_changes n _).mono (by decide)
  have h2 : Changes Field.beforeRecord s s2 := h1.foldl fun u n => (u.abortColls_changes n job code).mono (by decide)
  cases slot with
  | none => exact h2
  | some j => exact h2.foldl fun u n => (u.abortPager_changes n j).mono (by decide)

/-- cmd of the word that JOB_FAULT writes to SDn_JOBCMD. -/
theorem wfld_failCmd (code job : Nat) : wfld (atFld 31 30 1 ||| atFld 23 16 code ||| atFld 11 0 job) 31 30 = 1 := by
  have low : (atFld 23 16 code ||| atFld 11 0 job).toNat < 2 ^ 30 :=
    toNat_or_lt ((toNat_atFld_lt 23 16 _ (by decide)).trans (by decide)) ((toNat_atFld_lt 11 0 _ (by decide)).trans (by decide))
  have high : (atFld 31 30 1).toNat = 1 * 2 ^ 30 := by decide
  rw [wfld, nbits, BitVec.or_assoc, BitVec.toNat_or, high, Nat.shiftRight_or_distrib,
    Nat.shiftRight_eq_div_pow (BitVec.toNat _), Nat.div_eq_of_lt low]
  rfl

theorem State.beforeRecord_keepsFabric (s : State) (job code : Nat) (slot : Option Nat) :
    s.KeepsFabric (s.beforeRecord job code slot) := by
  unfold State.beforeRecord
  extract_lets s1 s2
  have h1 : s.KeepsFabric s1 := .foldl (.refl s) fun u n => u.writeSdJobcmd_keepsFabric n (wfld_failCmd code job)
  have h2 : s.KeepsFabric s2 := h1.foldl fun u n => u.abortColls_keepsFabric n job code
  cases slot with
  | none => exact h2
  | some j => exact h2.foldl fun u n => u.abortPager_keepsFabric n j


theorem Changes.job {w : List Field} {s t : State} (h : Changes w s t) (hw : Field.jobs ∉ w) (j : Nat) : t.job j = s.job j :=
  congrArg (mget Job.reset · j) (h.elsewhere .jobs hw)

theorem Changes.slotOfJob {w : List Field} {s t : State} (h : Changes w s t) (hw : Field.jobs ∉ w) (job : Nat) :
    t.slotOfJob job = s.slotOfJob job := by
  unfold State.slotOfJob
  simp only [h.job hw]

theorem State.applyNotice_eq {s : State} {job j : Nat} (slot : s.slotOfJob job = some j) (code : Nat) :
    s.applyNotice job code = ((s.beforeRecord job code (some j)).recordJobFault j code).endMirror j code [] := by
  have same := (s.beforeRecord_changes job code none).slotOfJob (by decide) job
  rw [slot] at same
  unfold State.beforeRecord at same
  unfold State.applyNotice State.beforeRecord
  simp only [same]

/-- A slot with a step, an evaluation or neither at work (R327). -/
def JobState.atWork (st : JobState) : Prop := st = .ready ∨ st = .running ∨ st = .eval

/-- In `t` slot `j` of `s` has failed with a code, unless it held one (R327); a device drain is where it was. -/
structure State.Faulted (s : State) (j code : Nat) (t : State) : Prop where
  failed : (t.job j).st = .failed
  code_eq : (t.job j).code = if (s.job j).code = 0 then code else (s.job j).code
  event : t.bit R.devEvent 1 = true
  devStop : t.mgmt.devStop = s.mgmt.devStop

theorem State.job_updJob_same (s : State) (j : Nat) (f : Job → Job) : (s.updJob j f).job j = f (s.job j) :=
  s.job_setJob_same j _

theorem State.job_jobState_same (s : State) (j : Nat) (st : JobState) :
    ((s.jobState j st).job j).st = st ∧ ((s.jobState j st).job j).code = (s.job j).code := by
  rw [State.jobState, State.job_updJob_same]
  exact ⟨rfl, rfl⟩

theorem State.recordJobFault_eq {s : State} {j : Nat} (work : (s.job j).st.atWork) (code : Nat) :
    s.recordJobFault j code
      = ((s.updJob j fun k => { k with code := if k.code = 0 then code else k.code }).jobState j .failed).slotEvent evJob j :=
  if_pos (by rw [State.job_updJob_same]; exact work)

theorem State.recordJobFault_faulted {s : State} {j : Nat} (work : (s.job j).st.atWork) (code : Nat) :
    s.Faulted j code (s.recordJobFault j code) := by
  have mgmt := (s.recordJobFault_changes j code).elsewhere .mgmt (by decide)
  have job := s.job_updJob_same j fun k => { k with code := if k.code = 0 then code else k.code }
  rw [State.recordJobFault_eq work] at mgmt ⊢
  generalize s.updJob j _ = u at mgmt job ⊢
  obtain ⟨st, kept⟩ := u.job_jobState_same j .failed
  exact ⟨st, kept.trans (congrArg Job.code job), State.bit_raise_same _ _ (by decide), congrArg Mgmt.devStop mgmt⟩

/-- The mirror of a slot that ends (R332): its messages dropped, the mirror gone from the slot, the event set. -/
def State.mirrorGone (s : State) (j : Nat) : State :=
  let own := s.msgs.filter fun x => x.owner == .mirror j
  ((own.foldl (fun s x => s.dropMsg x.id) s).updJob j fun k => { k with mirror := none }).slotEvent evMirror j

theorem State.dropMsgs_changes (s : State) (l : List Msg) :
    Changes [.attach, .msgs] s (l.foldl (fun s x => s.dropMsg x.id) s) :=
  (Changes.refl _ s).foldl fun u x => u.dropMsg_changes x.id

theorem State.mirrorGone_job (s : State) (j : Nat) : (s.mirrorGone j).job j = { s.job j with mirror := none } := by
  rw [State.mirrorGone, (State.slotEvent_changes ..).job (by decide), State.job_updJob_same, (s.dropMsgs_changes _).job (by decide)]

theorem State.mirrorGone_mgmt (s : State) (j : Nat) : (s.mirrorGone j).mgmt = s.mgmt :=
  (s.dropMsgs_changes _).elsewhere .mgmt (by decide)

theorem State.mirrorGone_event (s : State) (j : Nat) : (s.mirrorGone j).bit R.devEvent 1 = s.bit R.devEvent 1 := by
  unfold State.mirrorGone State.slotEvent
  rw [State.bit_raise_other _ _ (by decide) (by decide), State.bit_raise_elsewhere, (State.updJob_changes ..).bit (by decide),
    (s.dropMsgs_changes _).bit (by decide)]
  split <;> decide

theorem State.endMirror_eq (s : State) (j code : Nat) (res : List Byte) :
    s.endMirror j code res = s ∨ ∃ m st d r, s.endMirror j code res = (s.mirrorGone j).reply m st d r := by
  unfold State.endMirror
  cases (s.job j).mirror with
  | none => exact .inl rfl
  | some m =>
    refine .inr ?_
    by_cases ok : code = 0
    · exact ⟨m.mbx, stOk, 0, res, if_pos ok⟩
    · exact ⟨m.mbx, stFaulted, code, [], if_neg ok⟩

theorem State.reply_event (s : State) (m st d : Nat) (r : List Byte) : (s.reply m st d r).bit R.devEvent 1 = s.bit R.devEvent 1 := by
  unfold State.reply
  rw [State.bit_raise_elsewhere _ _ (by decide), State.bit_lower_elsewhere _ _ (by decide)]
  rfl

/-- The end of a mirror takes nothing from what a fault did to its slot. -/
theorem State.Faulted.endMirror {s t : State} {j code : Nat} (h : s.Faulted j code t) (c : Nat) (res : List Byte) :
    s.Faulted j code (t.endMirror j c res) := by
  rcases t.endMirror_eq j c res with e | ⟨m, st, d, r, e⟩ <;> rw [e]
  · exact h
  · have job : ((t.mirrorGone j).reply m st d r).job j = { t.job j with mirror := none } :=
      ((State.reply_changes ..).job (by decide) j).trans (t.mirrorGone_job j)
    refine ⟨by rw [job]; exact h.failed, by rw [job]; exact h.code_eq, ?_, ?_⟩
    · rw [State.reply_event, State.mirrorGone_event, h.event]
    · exact (congrArg Mgmt.devStop (t.mirrorGone_mgmt j)).trans h.devStop

/-- What went before the record, if it left the slots alone. -/
theorem State.Faulted.after {w : List Field} {s t u : State} {j code : Nat} (h : t.Faulted j code u) (before : Changes w s t)
    (jobs : Field.jobs ∉ w) (mgmt : Field.mgmt ∉ w) : s.Faulted j code u :=
  ⟨h.failed, by rw [h.code_eq, before.job jobs j], h.event,
    h.devStop.trans (congrArg Mgmt.devStop (before.elsewhere .mgmt mgmt))⟩

/-- What follows the record, if it leaves the slots alone and touches no register. -/
theorem State.Faulted.before {w : List Field} {s t u : State} {j code : Nat} (h : s.Faulted j code t) (after : Changes w t u)
    (jobs : Field.jobs ∉ w) (mgmt : Field.mgmt ∉ w) (regs : Field.regs ∉ w) : s.Faulted j code u :=
  ⟨by rw [after.job jobs, h.failed], by rw [after.job jobs, h.code_eq], by rw [after.bit regs, h.event],
    (congrArg Mgmt.devStop (after.elsewhere .mgmt mgmt)).trans h.devStop⟩

section
variable {s : State} {job j : Nat} (slot : s.slotOfJob job = some j) (code : Nat)
include slot

theorem State.applyNotice_keepsFabric : s.KeepsFabric (s.applyNotice job code) := by
  rw [State.applyNotice_eq slot]
  exact ((s.beforeRecord_keepsFabric ..).trans (State.recordJobFault_keepsFabric ..)).trans (State.endMirror_keepsFabric ..)

theorem State.jobFault_keepsFabric : s.KeepsFabric (s.jobFault job code) := by
  unfold State.jobFault
  simp only [slot]
  exact (State.applyNotice_keepsFabric slot code).trans ((State.sendToJob_changes ..).keepsRegs (by decide))

variable (work : (s.job j).st.atWork)
include work

theorem State.applyNotice_faulted : s.Faulted j code (s.applyNotice job code) := by
  have before := s.beforeRecord_changes job code (some j)
  rw [State.applyNotice_eq slot]
  refine State.Faulted.endMirror ?_ code []
  exact (State.recordJobFault_faulted (by rwa [before.job (by decide)]) code).after before (by decide) (by decide)

theorem State.jobFault_faulted : s.Faulted j code (s.jobFault job code) := by
  unfold State.jobFault
  simp only [slot]
  exact (State.applyNotice_faulted slot code work).before (State.sendToJob_changes ..) (by decide) (by decide) (by decide)

/-- A fault recorded after an operation that left the slots alone. -/
theorem Changes.jobFault_faulted {w : List Field} {t : State} (h : Changes w s t) (jobs : Field.jobs ∉ w)
    (mgmt : Field.mgmt ∉ w) : s.Faulted j code (t.jobFault job code) :=
  (State.jobFault_faulted (by rwa [h.slotOfJob jobs]) code (by rwa [h.job jobs])).after h jobs mgmt

end

/-! ### Causes and maps as Hyzacia clears them (R8, R74, R107) -/

theorem State.reg_foldl_setReg_other (l : List α) (word : α → Reg) (w : Word) {r : Reg} (h : ∀ a ∈ l, (word a).addr ≠ r.addr)
    (s : State) : (l.foldl (fun s a => s.setReg (word a) w) s).reg r = s.reg r := by
  induction l generalizing s with
  | nil => rfl
  | cons a l ih =>
    rw [List.foldl_cons, ih fun b hb => h b (List.mem_cons_of_mem a hb)]
    exact s.reg_setReg_other w (h a List.mem_cons_self)

/-- A write to a cause register, in the register itself: bits written 1 clear. -/
theorem State.reg_writeCause_same (s : State) {r : Reg} (w : Word) (guards : List Nat) {records : List Reg}
    (h : ∀ q ∈ records, q.addr ≠ r.addr) : (s.writeCause r w guards records).reg r = r.written (s.reg r) w := by
  unfold State.writeCause
  extract_lets s1
  have written : s1.reg r = r.written (s.reg r) w := s.reg_writeReg_same r w
  split
  · exact written
  · exact (State.reg_foldl_setReg_other records id 0 h s1).trans written

/-- Every register but the cause register and its records stays. -/
theorem State.reg_writeCause_other (s : State) {r q : Reg} (w : Word) (guards : List Nat) {records : List Reg}
    (h : r.addr ≠ q.addr) (k : ∀ x ∈ records, x.addr ≠ q.addr) : (s.writeCause r w guards records).reg q = s.reg q := by
  unfold State.writeCause
  extract_lets s1
  have stays : s1.reg q = s.reg q := s.reg_writeReg_other w h
  split
  · exact stays
  · exact (State.reg_foldl_setReg_other records id 0 k s1).trans stays

/-- A W1C bit written 1 is clear. -/
theorem Reg.written_clears (r : Reg) (old : Word) {w : Word} {i : Nat} (one : w.getLsbD i = true) (w1c : r.w1c.getLsbD i = true) :
    wbit (r.written old w) i = false := by
  rw [wbit_eq, Reg.getLsbD_written, one, w1c]
  simp

theorem State.bit_writeCause (s : State) {r : Reg} {w : Word} (guards : List Nat) {records : List Reg} {i : Nat}
    (h : ∀ q ∈ records, q.addr ≠ r.addr) (one : w.getLsbD i = true) (w1c : r.w1c.getLsbD i = true) :
    (s.writeCause r w guards records).bit r i = false := by
  rw [State.bit, s.reg_writeCause_same w guards h, r.written_clears _ one w1c]

/-- A cleared map: every word of it is 0, where its words are distinct registers. -/
theorem State.reg_clearMarks (s : State) {word : Nat → Reg} (distinct : ∀ v w, (word v).addr = (word w).addr → v = w) {w : Nat}
    (hw : w < 128) : (s.clearMarks word).reg (word w) = 0 := by
  have cleared (l : List Nat) (mem : w ∈ l) (t : State) : (l.foldl (fun s v => s.setReg (word v) 0) t).reg (word w) = 0 := by
    induction l generalizing t with
    | nil => cases mem
    | cons v l ih =>
      by_cases later : w ∈ l
      · exact ih later _
      · obtain rfl : w = v := (List.mem_cons.mp mem).resolve_right later
        rw [List.foldl_cons, State.reg_foldl_setReg_other l word 0 fun a ha e => later (distinct a w e ▸ ha)]
        exact t.reg_setReg_same _ 0
  exact cleared _ (List.mem_range.mpr hw) s

/-- The crossbar's map and its cause, as XBAR_JMAP_SERVICE leaves them. -/
def State.xbarMapCleared (s : State) : State := (s.clearMarks R.xbarJmap).writeXbarCause (oneBit 5)

theorem State.xbarMapCleared_changes (s : State) : Changes [.regs] s s.xbarMapCleared :=
  (s.clearMarks_changes _).trans (State.writeXbarCause_changes ..)

theorem State.xbarMapCleared_cause (s : State) : s.xbarMapCleared.bit R.xbarCause 5 = false :=
  State.bit_writeCause _ _ (by decide) (by decide) (by decide)

theorem State.xbarMapCleared_words (s : State) {w : Nat} (hw : w < 128) : s.xbarMapCleared.reg (R.xbarJmap w) = 0 := by
  have apart {a : Nat} (ha : a < 0x101000) : a ≠ (R.xbarJmap w).addr := by simp only [R.xbarJmap]; omega
  refine (State.reg_writeCause_other _ _ _ (apart (by decide)) ?_).trans (s.reg_clearMarks ?_ hw)
  · intro q hq
    obtain rfl := List.mem_singleton.mp hq
    exact apart (by decide)
  · intro v w e
    simp only [R.xbarJmap] at e
    omega

/-- A port die's map and its three causes, as PORT_JMAP_SERVICE leaves them. -/
def State.portMapCleared (s : State) (n : Nat) : State :=
  ((s.clearMarks fun w => R.portJmap n w).writePortCause n 9).lower (R.portSchcause n) 0

theorem State.portMapCleared_changes (s : State) (n : Nat) : Changes [.regs] s (s.portMapCleared n) :=
  ((s.clearMarks_changes _).trans (State.writePortCause_changes ..)).trans (State.lower_changes ..)

theorem State.portMapCleared_cause (s : State) (n : Nat) {i : Nat} (hi : i = 0 ∨ i = 3) :
    (s.portMapCleared n).bit (R.portCause n) i = false := by
  have apart : (R.portSchcause n).addr ≠ (R.portCause n).addr := by simp only [R.portSchcause, R.portCause]; omega
  unfold State.portMapCleared
  rw [State.bit_lower_elsewhere _ _ apart]
  refine State.bit_writeCause _ _ ?_ ?_ ?_
  · intro q hq
    obtain rfl := List.mem_singleton.mp hq
    simp only [R.portFault, R.portCause]
    omega
  · rcases hi with rfl | rfl <;> decide
  · rcases hi with rfl | rfl <;> simp [R.portCause]

theorem State.portMapCleared_police (s : State) (n : Nat) : (s.portMapCleared n).bit (R.portSchcause n) 0 = false :=
  State.bit_lower_same _ _ (by decide)

theorem State.portMapCleared_words (s : State) (n : Nat) {w : Nat} (hw : w < 128) :
    (s.portMapCleared n).reg (R.portJmap n w) = 0 := by
  unfold State.portMapCleared
  rw [State.reg_lower_other]
  · refine (State.reg_writeCause_other _ _ _ ?_ ?_).trans (s.reg_clearMarks ?_ hw)
    · simp only [R.portJmap, R.portCause]
      omega
    · intro q hq
      obtain rfl := List.mem_singleton.mp hq
      simp only [R.portJmap, R.portFault]
      omega
    · intro v w e
      simp only [R.portJmap] at e
      omega
  · simp only [R.portJmap, R.portSchcause]
    omega

/-! ### The services (R74, R107, R192, R363) -/

theorem State.xbarJmapService_single {s : State} {job : Nat} (runs : s.firmware = true) (cause : s.bit R.xbarCause 5 = true)
    (marked : s.marked (fun w => R.xbarJmap w) = [job]) :
    s.xbarJmapService = s.xbarMapCleared.jobFault job fcPoisoned := by
  unfold State.xbarJmapService
  rw [runs, cause, show s.marked R.xbarJmap = [job] from marked]
  rfl

/-- The code of the port die's service (R107, R125, R96). -/
theorem State.portJmapService_single {s : State} {n job : Nat} (runs : s.firmware = true) (die : n < s.ports)
    (cause : (s.bit (R.portCause n) 0 || s.bit (R.portSchcause n) 0 || s.bit (R.portCause n) 3) = true)
    (marked : s.marked (fun w => R.portJmap n w) = [job]) :
    s.portJmapService n = (s.portMapCleared n).jobFault job
      (if (s.bit (R.portCause n) 0 || s.bit (R.portSchcause n) 0) = true then fcLinkLost else fcDenied) := by
  unfold State.portJmapService
  extract_lets lost code jobs s1 s2
  have served : (!s.firmware || s.ports ≤ n || !(lost || s.bit (R.portCause n) 3)) = false := by
    simp [runs, die, show (lost || s.bit (R.portCause n) 3) = true from cause]
  rw [served, show jobs = [job] from marked]
  rfl

/-- Where one fault site waits, it is served. -/
theorem State.jobFaultService_single {s : State} {f : FaultSite} (runs : s.firmware = true) (site : s.faultSites = [f]) :
    s.jobFaultService = s.serviceSite f := by
  simp [State.jobFaultService, runs, site, Nat.mod_one]

/-- The one fault that a unit of a tile die still owes a notice for. -/
theorem State.settle_single {s : State} {o : Owed} (owed : s.owed = [o]) :
    s.settle o.site o.n = State.jobFault { s with owed := [] } o.job o.code := by
  simp [State.settle, owed]

/-- The first firmware message, where it tells of a fault (Table 15.10). -/
theorem State.jobFaultNotice_first {s : State} {a : Arrival} {rest : List Arrival} (runs : s.firmware = true)
    (inbox : s.inbox = a :: rest) (slot : a.slot = s.mgmtSlot) (unit : a.unit = 0) (op : a.pkt.hdr.op = opMgmtMsg)
    (type : leAt a.pkt.data 0 1 = 1) (pos : 0 < leAt a.pkt.data 1 1) (le : leAt a.pkt.data 1 1 ≤ 0x0B) :
    s.jobFaultNotice
      = State.applyNotice { s with inbox := rest } (leAt a.pkt.data 2 2 % 4096) (leAt a.pkt.data 1 1) := by
  have code : ¬ (leAt a.pkt.data 1 1 = 0 ∨ 11 < leAt a.pkt.data 1 1) := by omega
  simp [State.jobFaultNotice, runs, State.takeArrival, inbox, takeFirst, slot, unit, op, type, code]

theorem State.deviceDrain_of_none {s : State} (none : s.mgmt.devStop = none) : s.deviceDrain = s := by
  simp [State.deviceDrain, none]

/-- What a service does, where no device drain is in progress. -/
theorem Completes.of_deviceDrain {s : State} {p : State → Prop} (none : s.mgmt.devStop = none) (h : p s) :
    Completes (.next s.deviceDrain) p :=
  ⟨s, congrArg Host.Outcome.next (State.deviceDrain_of_none none), h⟩

/-- The registers of the crossbar that its service clears stay clear while the fault is recorded. -/
theorem State.KeepsFabric.xbarMap {s t : State} (h : s.xbarMapCleared.KeepsFabric t) :
    t.bit R.xbarCause 5 = false ∧ ∀ w < 128, t.reg (R.xbarJmap w) = 0 := by
  refine ⟨(h.bit (by decide) (by decide) 5).trans s.xbarMapCleared_cause, fun w hw => ?_⟩
  rw [h.reg, s.xbarMapCleared_words hw] <;> simp only [R.xbarJmap] <;> omega

/-- The map of port die `n` and its causes down, xlate_err and police are clear. -/
def State.PortMapClear (n : Nat) (t : State) : Prop :=
  (∀ w < 128, t.reg (R.portJmap n w) = 0) ∧ t.bit (R.portCause n) 0 = false ∧ t.bit (R.portCause n) 3 = false
    ∧ t.bit (R.portSchcause n) 0 = false

theorem State.KeepsFabric.portMap {s t : State} {n : Nat} (h : (s.portMapCleared n).KeepsFabric t) (die : n < s.ports) :
    t.PortMapClear n := by
  have small := State.ports_lt die
  refine ⟨fun w hw => ?_, ?_, ?_, ?_⟩
  · rw [h.reg, s.portMapCleared_words n hw] <;> simp only [R.portJmap, portBase] <;> omega
  · rw [h.bit, s.portMapCleared_cause n (.inl rfl)] <;> simp only [R.portCause, portBase] <;> omega
  · rw [h.bit, s.portMapCleared_cause n (.inr rfl)] <;> simp only [R.portCause, portBase] <;> omega
  · rw [h.bit, s.portMapCleared_police n] <;> simp only [R.portSchcause, portBase] <;> omega

section
variable {s : State} {job j : Nat} (slot : s.slotOfJob job = some j) (work : (s.job j).st.atWork)
include slot work

theorem State.xbarJmapService_serves (runs : s.firmware = true) (cause : s.bit R.xbarCause 5 = true)
    (marked : s.marked (fun w => R.xbarJmap w) = [job]) :
    s.Faulted j fcPoisoned s.xbarJmapService ∧ s.xbarMapCleared.KeepsFabric s.xbarJmapService := by
  have cleared := s.xbarMapCleared_changes
  rw [State.xbarJmapService_single runs cause marked]
  exact ⟨cleared.jobFault_faulted slot _ work (by decide) (by decide),
    State.jobFault_keepsFabric (by rwa [cleared.slotOfJob (by decide)]) _⟩

theorem State.portJmapService_serves {n : Nat} (runs : s.firmware = true) (die : n < s.ports)
    (cause : (s.bit (R.portCause n) 0 || s.bit (R.portSchcause n) 0 || s.bit (R.portCause n) 3) = true)
    (marked : s.marked (fun w => R.portJmap n w) = [job]) :
    s.Faulted j (if (s.bit (R.portCause n) 0 || s.bit (R.portSchcause n) 0) = true then fcLinkLost else fcDenied)
        (s.portJmapService n)
      ∧ (s.portJmapService n).PortMapClear n := by
  have cleared := s.portMapCleared_changes n
  rw [State.portJmapService_single runs die cause marked]
  exact ⟨cleared.jobFault_faulted slot _ work (by decide) (by decide),
    State.KeepsFabric.portMap (State.jobFault_keepsFabric (by rwa [cleared.slotOfJob (by decide)]) _) die⟩

/-- The service of what a unit of a tile die owes, after the unit's leaf is cleared. -/
theorem State.settle_serves {t : State} {o : Owed} {k : OwedAt} {n : Nat} (leaf : Changes [.regs] s t) (owed : s.owed = [o])
    (site : o.site = k) (die : o.n = n) (names : o.job = job) : s.Faulted j o.code (t.settle k n) := by
  have before : Changes [.regs, .owed] s { t with owed := [] } := (leaf.mono (by decide)).step Changes.owed (by decide)
  rw [← site, ← die, State.settle_single ((leaf.elsewhere .owed (by decide)).trans owed), names]
  exact before.jobFault_faulted slot _ work (by decide) (by decide)

end

/-- Settles O27: each service by what it clears and by the fault that it records of the marked job. -/
theorem jobMapsAndFaultsAreServed : Obligations.JobMapsAndFaultsAreServed := by
  refine ⟨fun s job j n runs quiet slot running _ => ?maps, fun s j runs quiet noCode work => ?faults⟩
  case maps =>
    have work : (s.job j).st.atWork := .inr (.inl running)
    refine ⟨fun cause marked => ?_, fun die cause marked => ?_, fun die up silent refused marked => ?_⟩
    · obtain ⟨h, fabric⟩ := State.xbarJmapService_serves slot work runs cause marked
      exact Completes.of_deviceDrain (h.devStop.trans quiet) ⟨⟨h.failed, h.code_eq, h.event⟩, fabric.xbarMap⟩
    · have lost : (s.bit (R.portCause n) 0 || s.bit (R.portSchcause n) 0) = true := by simpa using cause
      obtain ⟨h, clear⟩ := State.portJmapService_serves slot work runs die (by simp [lost]) marked
      rw [if_pos lost] at h
      exact Completes.of_deviceDrain (h.devStop.trans quiet) ⟨⟨h.failed, h.code_eq, h.event⟩, clear⟩
    · obtain ⟨h, clear⟩ := State.portJmapService_serves slot work runs die (by simp [refused]) marked
      rw [if_neg (by simp [up, silent])] at h
      exact Completes.of_deviceDrain (h.devStop.trans quiet) ⟨⟨h.failed, h.code_eq, h.event⟩, clear⟩
  case faults =>
    have served {t : State} {code : Nat} (h : s.Faulted j code t) :
        Completes (.next t.deviceDrain) fun t => (t.job j).st = .failed ∧ (t.job j).code = code :=
      Completes.of_deviceDrain (h.devStop.trans quiet) ⟨h.failed, h.code_eq.trans (if_pos noCode)⟩
    refine ⟨fun o n owed die slot site => ?owed, fun u site slot => ?core, fun a rest inbox at_ unit op type pos le slot => ?notice⟩
    case owed =>
      rcases site with ⟨kind, site⟩ | ⟨kind, site⟩ | ⟨kind, site⟩ <;> refine served ?_ <;>
        rw [State.jobFaultService_single runs site]
      · exact State.settle_serves slot work (s.writeMemcause_changes n 6) owed kind die rfl
      · exact State.settle_serves slot work (s.writeSemcause_changes n 0xFFFFFFFF) owed kind die rfl
      · exact State.settle_serves slot work (s.writeCollcause_changes n 1) owed kind die rfl
    case core =>
      refine served ?_
      rw [State.jobFaultService_single runs site]
      exact (s.writeCoreCause_changes u 1).jobFault_faulted slot _ work (by decide) (by decide)
    case notice =>
      refine served ?_
      rw [State.jobFaultNotice_first runs inbox at_ unit op type pos le]
      exact (State.applyNotice_faulted (s := { s with inbox := rest }) slot _ work).after Changes.inbox (by decide) (by decide)

end Sys2Proof.Machine
end
section
/-!
SUPPORT. The crossbar's configuration (spec/03_crossbar.md, R60 to R68): its enable, the minimum credits, the multicast
groups, and the borrowed credits that go back as a group changes.
-/

namespace Sys2Proof.Machine

/-! ### Writes to the crossbar's window -/

theorem Completes.of_eq {o : Host.Outcome State Fault Refusal} {t : State} {p : State → Prop} (run : o = .next t) (h : p t) :
    Completes o p :=
  ⟨t, run, h⟩

/-- A write to a window that answers, of the kind that is meant. -/
theorem State.onWrite_of_answers {s : State} {w : Window} (answers : s.answers w = true) {isIt : Bool} (is : isIt = true)
    (t : State) : s.onWrite w isIt t = t := by
  rw [State.onWrite, answers, is]
  rfl

/-! ### Enabling (R60, R61) -/

/-- The crossbar's registers as it is enabled: BCAP, then the enable bit. -/
theorem State.xbarOn_raised (s : State) : (s.raise R.xbarCtl 0).xbarOn = true := State.bit_raise_same _ _ (by decide)

/-- Two crossbars that hold the same minimum and the same borrowed credits. -/
structure Xbar.SameCredits (x y : Xbar) : Prop where
  min : ∀ i j, y.minAt i j = x.minAt i j
  brw : ∀ i j c, y.brwCrAt i j c = x.brwCrAt i j c

theorem State.syncCircuit_credits (s : State) (id : Nat) : s.xbar.SameCredits (s.syncCircuit id).xbar := by
  unfold State.syncCircuit
  extract_lets
  split <;> exact ⟨fun _ _ => rfl, fun _ _ _ => rfl⟩

/-- The circuits' reservations take nothing from the credits of the crosspoints. -/
theorem State.syncCircuits_credits (s : State) : s.xbar.SameCredits s.syncCircuits.xbar := by
  have all (l : List Nat) (u : State) : u.xbar.SameCredits (l.foldl State.syncCircuit u).xbar := by
    induction l generalizing u with
    | nil => exact ⟨fun _ _ => rfl, fun _ _ _ => rfl⟩
    | cons id l ih =>
      have first := u.syncCircuit_credits id
      have rest := ih (u.syncCircuit id)
      exact ⟨fun i j => (rest.min i j).trans (first.min i j), fun i j c => (rest.brw i j c).trans (first.brw i j c)⟩
  unfold State.syncCircuits
  split
  · exact all _ s
  · exact ⟨fun _ _ => rfl, fun _ _ _ => rfl⟩

/-- Both registers as the enable writes them, read through what changes no register. -/
theorem State.enabled_regs {w : List Field} {s t : State} (b : Word)
    (frame : Changes w ((s.setReg R.xbarBcap b).raise R.xbarCtl 0) t) (hw : Field.regs ∉ w) :
    t.xbarOn = true ∧ t.reg R.xbarBcap = b :=
  ⟨(frame.bit hw R.xbarCtl 0).trans (State.xbarOn_raised _),
    (frame.reg hw R.xbarBcap).trans ((State.reg_raise_other _ _ (by decide)).trans (State.reg_setReg_same ..))⟩

/-- The credits and BCAP after the enable. -/
theorem State.enableXbar_starts (s : State) :
    s.enableXbar.xbarOn = true
      ∧ s.enableXbar.reg R.xbarBcap = BitVec.ofNat 32 (1310720 - s.fld R.xbarCpmin 6 0 * s.clients ^ 2)
      ∧ (∀ i j, s.enableXbar.xbar.minAt i j = s.fld R.xbarCpmin 6 0) ∧ ∀ i j c, s.enableXbar.xbar.brwCrAt i j c = 0 := by
  unfold State.enableXbar
  extract_lets m b s1 x
  generalize start : { s1 with xbar := _ } = u
  have credits := u.syncCircuits_credits
  have frame : Changes [.xbar] s1 u.syncCircuits :=
    .trans (start ▸ Changes.xbar) u.syncCircuits_changes
  obtain ⟨xbarOn, bcap⟩ := State.enabled_regs _ frame (by decide)
  subst start
  exact ⟨xbarOn, bcap, credits.min, credits.brw⟩

/-! ### The minimum of a crosspoint (R60) -/

theorem wfld_low (w : Word) (hi : Nat) : wfld w hi 0 = w.toNat % 2 ^ (hi + 1) := rfl

theorem State.writeCpmin_stores {s : State} {v : Word} (range : 8 ≤ v.toNat % 128 ∧ v.toNat % 128 ≤ 64) :
    (s.writeCpmin v).fld R.xbarCpmin 6 0 = v.toNat % 128 := by
  have run : s.writeCpmin v = s.setReg R.xbarCpmin (BitVec.ofNat 32 (v.toNat % 128)) := if_pos range
  rw [run, State.fld, State.reg_setReg_same, wfld_low, BitVec.toNat_ofNat]
  omega

theorem State.writeCpmin_refuses {s : State} {v : Word} (range : v.toNat % 128 < 8 ∨ 64 < v.toNat % 128) :
    s.writeCpmin v = s.raise R.xbarCause 3 :=
  if_neg fun h : 8 ≤ v.toNat % 128 ∧ v.toNat % 128 ≤ 64 => by omega

/-! ### Multicast groups (R68) -/

theorem testBit_bitsNat (l : List Bool) (i : Nat) : (bitsNat l).testBit i = l.getD i false := by
  induction l generalizing i with
  | nil => simp [bitsNat]
  | cons b l ih =>
    have bit : bitsNat (b :: l) = Nat.bit b (bitsNat l) := by
      cases b <;> simp [bitsNat, bnat, Nat.bit]; omega
    rw [bit]
    cases i with
    | zero => simp
    | succ i => simp [Nat.testBit_bit_succ, ih]

/-- The slots with a client among the 32 of a member word. -/
def State.clientMask (s : State) (k : Nat) : Word :=
  BitVec.ofNat 32 (bitsNat ((List.range 32).map fun b => s.populatedSlot (32 * k + b)))

theorem State.getLsbD_clientMask (s : State) (k : Nat) {b : Nat} (hb : b < 32) :
    (s.clientMask k).getLsbD b = s.populatedSlot (32 * k + b) := by
  rw [State.clientMask, BitVec.getLsbD_ofNat, testBit_bitsNat]
  simp [hb]

/-- A member word keeps the bits of slots with a client. -/
theorem State.getLsbD_writeMember (s : State) {r : Reg} (rw_ : r.rw = 0xFFFFFFFF) (w1c : r.w1c = 0) (w : Word) (k : Nat) {b : Nat}
    (hb : b < 32) :
    ((s.writeReg r (w &&& s.clientMask k)).reg r).getLsbD b = (w.getLsbD b && s.populatedSlot (32 * k + b)) := by
  have all : (0xFFFFFFFF : Word).getLsbD b = true := by
    rw [show (0xFFFFFFFF : Word) = BitVec.allOnes 32 from rfl, BitVec.getLsbD_allOnes, decide_eq_true hb]
  rw [State.reg_writeReg_same, Reg.getLsbD_written, rw_, w1c, all, BitVec.getLsbD_and, s.getLsbD_clientMask k hb]
  simp

/-- The low bits of a word whose low bits software stores. -/
theorem wfld_written_low {r : Reg} {hi : Nat} (stores : ∀ i ≤ hi, r.rw.getLsbD i = true) (w1c : r.w1c = 0) (old w : Word) :
    wfld (r.written old w) hi 0 = w.toNat % 2 ^ (hi + 1) := by
  rw [wfld_low]
  refine Nat.eq_of_testBit_eq fun i => ?_
  rw [Nat.testBit_mod_two_pow, Nat.testBit_mod_two_pow, BitVec.testBit_toNat, BitVec.testBit_toNat, Reg.getLsbD_written, w1c]
  by_cases hi' : i < hi + 1
  · simp [hi', stores i (by omega)]
  · simp [hi']

section
variable {s : State} {g : Nat} (group : g < 1024) (idle : s.bit (R.xbarMcgCtl g) 0 = false) (w : Word)
include group idle

theorem State.writeMcg_mem0 : s.writeMcg g 0 w = s.writeReg (R.xbarMcgMem0 g) (w &&& s.clientMask 0) := by
  simp [State.writeMcg, State.setMcg, State.clientMask, idle, Nat.not_le.mpr group]

theorem State.writeMcg_mem1 : s.writeMcg g 4 w = s.writeReg (R.xbarMcgMem1 g) (w &&& s.clientMask 1) := by
  simp [State.writeMcg, State.setMcg, State.clientMask, idle, Nat.not_le.mpr group]

theorem State.writeMcg_mem2 : s.writeMcg g 8 w = s.writeReg (R.xbarMcgMem2 g) (w &&& s.clientMask 2) := by
  simp [State.writeMcg, State.setMcg, State.clientMask, idle, Nat.not_le.mpr group]

theorem State.writeMcg_mem3 : s.writeMcg g 12 w = s.writeReg (R.xbarMcgMem3 g) (w &&& s.clientMask 3) := by
  simp [State.writeMcg, State.setMcg, State.clientMask, idle, Nat.not_le.mpr group]

theorem State.writeMcg_ctl : s.writeMcg g 0x10 w = (s.writeReg (R.xbarMcgCtl g) w).returnAllIdle := by
  simp [State.writeMcg, State.setMcg, idle, Nat.not_le.mpr group]

end

/-- The member words of an enabled group, and what stands between the registers, ignore a write. -/
theorem State.writeMcg_enabled {s : State} {g off : Nat} (enabled : s.bit (R.xbarMcgCtl g) 0 = true) (member : off < 16)
    (w : Word) : s.writeMcg g off w = s := by
  have other : off ≠ 16 := by omega
  simp [State.writeMcg, State.setMcg, other, enabled]

/-! ### Borrowed credits that go back (R64) -/

/-- `y` differs from `x` at most in borrowed credits that went back to the pool. -/
def Xbar.PoolOnly (x y : Xbar) : Prop := ∃ cr brw free, y = { x with brwCr := cr, brw := brw, free := free }

theorem Xbar.PoolOnly.refl (x : Xbar) : x.PoolOnly x := ⟨_, _, _, rfl⟩

theorem Xbar.PoolOnly.trans {x y z : Xbar} (h : x.PoolOnly y) (k : y.PoolOnly z) : x.PoolOnly z := by
  obtain ⟨_, _, _, rfl⟩ := h
  obtain ⟨cr, brw, free, rfl⟩ := k
  exact ⟨cr, brw, free, rfl⟩

theorem State.returnIdle_poolOnly (s : State) (i j c : Nat) : s.xbar.PoolOnly (s.returnIdle i j c).xbar := by
  unfold State.returnIdle
  split
  · exact .refl _
  · exact ⟨_, _, _, rfl⟩

theorem poolOnly_foldl {g : State → α → State} (h : ∀ (u : State) a, u.xbar.PoolOnly (g u a).xbar) (l : List α)
    (s : State) : s.xbar.PoolOnly (l.foldl g s).xbar := by
  induction l generalizing s with
  | nil => exact .refl _
  | cons a l ih => exact (h s a).trans (ih _)

theorem State.returnAllIdle_poolOnly (s : State) : s.xbar.PoolOnly s.returnAllIdle.xbar := by
  unfold State.returnAllIdle
  exact poolOnly_foldl (fun u e => u.returnIdle_poolOnly ..) _ s

theorem State.returnAllIdle_of_none {s : State} (none : s.xbar.brwCr = []) : s.returnAllIdle = s := by
  rw [State.returnAllIdle, none]
  rfl

/-! ### The commands -/

section
variable {s : State} (answers : s.answers .xbar = true)
include answers

theorem exec_xbarEnable {w : Word} (en : w.getLsbD 0 = true) (disabled : s.xbarOn = false) :
    exec (.xbarEnable w) s = .next s.enableXbar := by
  have set : wbit w 0 = true := (wbit_eq w 0).trans en
  have stored : s.writeXbarCtl w = s.enableXbar := by simp [State.writeXbarCtl, set, disabled]
  exact congrArg Host.Outcome.next ((State.onWrite_of_answers answers (by simp [set, disabled]) _).trans stored)

theorem exec_xbarDisable {w : Word} (en : w.getLsbD 0 = false) (enabled : s.xbarOn = true) :
    exec (.xbarDisable w) s = .next (if s.xbarEmpty then s.lower R.xbarCtl 0 else s.raise R.xbarCause 3) := by
  have clear : wbit w 0 = false := (wbit_eq w 0).trans en
  have stored : s.writeXbarCtl w = if s.xbarEmpty then s.lower R.xbarCtl 0 else s.raise R.xbarCause 3 := by
    simp [State.writeXbarCtl, clear, enabled]
  exact congrArg Host.Outcome.next ((State.onWrite_of_answers answers (by simp [clear, enabled]) _).trans stored)

theorem exec_xbarCpminWrite (v : Word) : exec (.xbarCpminWrite v) s = .next (s.writeCpmin v) :=
  congrArg Host.Outcome.next (State.onWrite_of_answers answers rfl _)

theorem exec_mcgWrite {g : Nat} (group : g < 1024) (off : Nat) (w : Word) :
    exec (.mcgWrite g off w) s = .next (s.writeMcg g off w) :=
  congrArg Host.Outcome.next (State.onWrite_of_answers answers (decide_eq_true group) _)

end

/-- Settles O29: the enable, the minimum and the groups' words by the laws of their writes. -/
theorem crossbarAndMulticastAreConfigured : Obligations.CrossbarAndMulticastAreConfigured := by
  refine ⟨fun s w on booted => ?xbar, fun s g w on booted group => ?groups⟩ <;>
    have answers : s.answers .xbar = true := State.answers_of_populated on booted rfl
  case xbar =>
    refine ⟨fun disabled en => ?_, fun enabled en empty => ?_, fun enabled en full => ?_, fun v => ⟨fun range => ?_, fun range => ?_⟩⟩
    · obtain ⟨xbarOn, bcap, min, brw⟩ := s.enableXbar_starts
      exact .of_eq (exec_xbarEnable answers en disabled) ⟨xbarOn, bcap, fun i j _ _ => min i j, brw, s.enableXbar_changes⟩
    · have run := exec_xbarDisable answers en enabled
      rw [if_pos empty] at run
      exact .of_eq run ⟨State.bit_lower_same _ _ (by decide), State.lower_changes ..⟩
    · have run := exec_xbarDisable answers en enabled
      rw [if_neg (by simp [full])] at run
      have still := (s.bit_raise_elsewhere (r := R.xbarCause) (q := R.xbarCtl) 3 (by decide) 0).trans enabled
      exact .of_eq run ⟨still, State.bit_raise_same _ _ (by decide), State.raise_changes ..⟩
    · exact .of_eq (exec_xbarCpminWrite answers v) ⟨State.writeCpmin_stores range, State.writeCpmin_changes ..⟩
    · have run := exec_xbarCpminWrite answers v
      rw [State.writeCpmin_refuses range] at run
      exact .of_eq run ⟨State.reg_raise_other _ _ (by decide), State.bit_raise_same _ _ (by decide), State.raise_changes ..⟩
  case groups =>
    have write := exec_mcgWrite answers group (w := w)
    refine ⟨fun idle => ?_, fun idle => ?_, fun idle => ?_, fun idle => ?_, fun idle => ?_, fun enabled off member => ?_⟩
    · refine Completes.of_eq ((write 0).trans (congrArg _ (State.writeMcg_mem0 group idle w))) ⟨State.writeReg_changes .., ?_⟩
      intro b hb
      simpa using s.getLsbD_writeMember rfl rfl w 0 hb
    · refine Completes.of_eq ((write 4).trans (congrArg _ (State.writeMcg_mem1 group idle w))) ⟨State.writeReg_changes .., ?_⟩
      exact fun b hb => s.getLsbD_writeMember rfl rfl w 1 hb
    · refine Completes.of_eq ((write 8).trans (congrArg _ (State.writeMcg_mem2 group idle w))) ⟨State.writeReg_changes .., ?_⟩
      exact fun b hb => s.getLsbD_writeMember rfl rfl w 2 hb
    · refine Completes.of_eq ((write 12).trans (congrArg _ (State.writeMcg_mem3 group idle w))) ⟨State.writeReg_changes .., ?_⟩
      exact fun b hb => s.getLsbD_writeMember rfl rfl w 3 hb
    · have frame := s.writeMcg_changes g 0x10 w
      obtain ⟨cr, brw, free, pool⟩ := (s.writeReg (R.xbarMcgCtl g) w).returnAllIdle_poolOnly
      rw [State.writeMcg_ctl group idle] at frame
      refine Completes.of_eq ((write 0x10).trans (congrArg _ (State.writeMcg_ctl group idle w))) ⟨frame, ?_, fun none => ?_, ?_⟩
      · rw [pool]
        rfl
      · rw [State.returnAllIdle_of_none (s := s.writeReg (R.xbarMcgCtl g) w) none]
        rfl
      · rw [State.fld, (State.returnAllIdle_changes _).reg (by decide), State.reg_writeReg_same]
        exact wfld_written_low (show ∀ i ≤ 3, (0xF : Word).getLsbD i = true by decide) rfl _ w
    · rw [write, State.writeMcg_enabled enabled member]

end Sys2Proof.Machine
end
section
/-!
SUPPORT. Cells that enter the crosspoints on a credit, and the grants of credits (spec/03_crossbar.md, R58 to R63, R70).
-/

namespace Sys2Proof.Machine

/-! ### What keeps the cells in their places -/

/-- The crosspoint queues and the minimum credits are the same in both. -/
structure Xbar.SameQueues (x y : Xbar) : Prop where
  xq : y.xq = x.xq
  minCr : y.minCr = x.minCr
  minActive : y.minActive = x.minActive

/-- So are the cells that wait at the inputs. -/
structure Xbar.SameCells (x y : Xbar) : Prop extends x.SameQueues y where
  xin : y.xin = x.xin

theorem Xbar.SameQueues.refl (x : Xbar) : x.SameQueues x := ⟨rfl, rfl, rfl⟩

theorem Xbar.SameQueues.trans {x y z : Xbar} (h : x.SameQueues y) (k : y.SameQueues z) : x.SameQueues z :=
  ⟨k.xq.trans h.xq, k.minCr.trans h.minCr, k.minActive.trans h.minActive⟩

theorem Xbar.SameQueues.minAt {x y : Xbar} (h : x.SameQueues y) (i j : Nat) : y.minAt i j = x.minAt i j := by
  rw [Xbar.minAt, h.minCr, h.minActive, ← Xbar.minAt]

theorem Xbar.SameCells.refl (x : Xbar) : x.SameCells x := ⟨.refl x, rfl⟩

theorem Xbar.SameCells.trans {x y z : Xbar} (h : x.SameCells y) (k : y.SameCells z) : x.SameCells z :=
  ⟨h.toSameQueues.trans k.toSameQueues, k.xin.trans h.xin⟩

theorem Xbar.PoolOnly.sameCells {x y : Xbar} (h : x.PoolOnly y) : x.SameCells y := by
  obtain ⟨_, _, _, rfl⟩ := h
  exact ⟨⟨rfl, rfl, rfl⟩, rfl⟩

theorem State.returnIdle_sameCells (s : State) (i j c : Nat) : s.xbar.SameCells (s.returnIdle i j c).xbar :=
  (s.returnIdle_poolOnly i j c).sameCells

theorem State.returnIdles_sameCells (s : State) (i c : Nat) (js : List Nat) : s.xbar.SameCells (s.returnIdles i c js).xbar := by
  unfold State.returnIdles
  exact (poolOnly_foldl (fun u j => u.returnIdle_poolOnly i j c) js s).sameCells

theorem State.returnLinkCredit_sameCells (s : State) (e : XIn) : s.xbar.SameCells (s.returnLinkCredit e).xbar := by
  unfold State.returnLinkCredit
  split <;> exact .refl _

theorem State.settleMarks_sameCells (s : State) : s.xbar.SameCells s.settleMarks.xbar := ⟨⟨rfl, rfl, rfl⟩, rfl⟩

theorem State.forgetPacket_sameCells (s : State) (pid : Nat) : s.xbar.SameCells (s.forgetPacket pid).xbar :=
  ⟨⟨rfl, rfl, rfl⟩, rfl⟩

theorem State.noteStart_sameCells (s : State) (e : XIn) (js : List Nat) : s.xbar.SameCells (s.noteStart e js).xbar := by
  unfold State.noteStart
  split
  · exact ⟨⟨rfl, rfl, rfl⟩, rfl⟩
  · exact .refl _

/-- Dropping a waiting cell takes it from its input, and moves nothing else. -/
theorem State.dropWaiting_sameCells {s : State} {e a : XIn} {rest : List XIn}
    (h : takeFirst (fun o => o.i == e.i && o.cell.pid == e.cell.pid) s.xbar.xin = some (a, rest)) :
    Xbar.SameCells { s.xbar with xin := rest } (s.dropWaiting e).xbar := by
  rw [State.dropWaiting, h]
  dsimp only
  refine Xbar.SameCells.trans ?_ (State.returnIdles_sameCells ..)
  have credit := State.returnLinkCredit_sameCells { s with xbar := { s.xbar with xin := rest } } e
  split
  · exact (credit.trans (State.forgetPacket_sameCells ..)).trans (State.settleMarks_sameCells _)
  · exact credit

theorem State.dropWaiting_sameQueues (s : State) (e : XIn) : s.xbar.SameQueues (s.dropWaiting e).xbar := by
  cases h : takeFirst (fun o => o.i == e.i && o.cell.pid == e.cell.pid) s.xbar.xin with
  | none =>
    rw [State.dropWaiting, h]
    exact .refl _
  | some p =>
    have kept := State.dropWaiting_sameCells h
    exact ⟨kept.xq, kept.minCr, kept.minActive⟩

/-! ### The cell that an input sends (R58, R59) -/

theorem takeFirst_of_mem {p : α → Bool} {a : α} {l : List α} (mem : a ∈ l) (ha : p a = true) :
    ∃ b rest, takeFirst p l = some (b, rest) ∧ rest.length + 1 = l.length := by
  induction l with
  | nil => cases mem
  | cons c l ih =>
    by_cases hc : p c = true
    · exact ⟨c, l, by rw [takeFirst, if_pos hc], rfl⟩
    · have inRest : a ∈ l := (List.mem_cons.mp mem).resolve_left fun h => hc (h ▸ ha)
      obtain ⟨b, rest, found, len⟩ := ih inRest
      exact ⟨b, c :: rest, by rw [takeFirst, if_neg hc, found], congrArg (· + 1) len⟩

theorem mem_of_mem_nextCells {i : Nat} {p : XIn × List XIn} {l : List XIn} {seen : List Nat} {before : List XIn}
    (h : p ∈ nextCells i l seen before) : p.1 ∈ l ∧ p.1.i = i := by
  induction l generalizing seen before with
  | nil => cases h
  | cons e l ih =>
    have further {sn bf} (h : p ∈ nextCells i l sn bf) : p.1 ∈ e :: l ∧ p.1.i = i :=
      (ih h).imp_left (List.mem_cons_of_mem e)
    rw [nextCells] at h
    split at h
    · exact further h
    next here =>
      split at h
      · exact further h
      · rcases List.mem_cons.mp h with rfl | h
        · exact ⟨List.mem_cons_self, by simpa using here⟩
        · exact further h

/-- The packet that an input sends next waits there. -/
theorem State.mem_of_choose {s : State} {i : Nat} {e : XIn} (h : s.choose i = some e) : e ∈ s.xbar.xin ∧ e.i = i := by
  rw [State.choose] at h
  split at h
  next p found =>
    cases h
    exact mem_of_mem_nextCells (List.mem_of_find?_eq_some found)
  · obtain ⟨p, found, rfl⟩ := Option.map_eq_some_iff.mp h
    exact mem_of_mem_nextCells (List.mem_of_find?_eq_some found)

/-- A unicast cell has one target, and is gone from its input when that is done with. -/
theorem State.advance_unicast {s : State} {e : XIn} (uni : e.cell.mcast = false) :
    s.advance e = (s.dropWaiting e).returnIdle e.i e.cell.dst e.cell.tc := by
  have target : s.targets e = [e.cell.dst] := by simp [State.targets, uni]
  simp [State.advance, target]

/-- A cell's CRC does not cover the CRC. -/
theorem Cell.crc_withHcrc (c : Cell) (h : BitVec 16) : Cell.crc { c with hcrc := h } = c.crc := rfl

theorem Cell.hcrc_seal (c : Cell) : c.seal.hcrc = c.seal.crc := (c.crc_withHcrc c.crc).symm

/-- The entry of a cell that is sent. -/
def State.sentEntry (s : State) (i : Nat) (e : XIn) (j : Nat) (k : Credit) : XEntry :=
  { i := i, j := j, cell := s.stamped e.cell j (k == .borrowed), ptr := none, res := k == .circ }

/-- The crossbar with the credit spent and the cell in its queue. -/
def State.sent (s : State) (i : Nat) (e : XIn) (j : Nat) (k : Credit) : State :=
  { s with xbar := { s.xbar.spend i j e.cell.tc e.cell.circ k with
      xq := (s.xbar.spend i j e.cell.tc e.cell.circ k).xq ++ [s.sentEntry i e j k] } }

theorem State.sendCell_send {s : State} {i j : Nat} {e : XIn} {k : Credit} (on : s.xbarOn = true) (chosen : s.choose i = some e)
    (act : s.sendAct e = .send j k) : s.sendCell i = ((s.sent i e j k).noteStart e [j]).advance e := by
  rw [State.sendCell, on, chosen]
  dsimp only
  rw [act]
  rfl

theorem Xbar.spend_xq (x : Xbar) (i j c : Nat) (circ : Option Nat) (k : Credit) : (x.spend i j c circ k).xq = x.xq := by
  cases k <;> rfl

theorem Xbar.spend_xin (x : Xbar) (i j c : Nat) (circ : Option Nat) (k : Credit) : (x.spend i j c circ k).xin = x.xin := by
  cases k <;> rfl

/-- A minimum credit is spent where the cell used one. -/
theorem Xbar.spend_minAt (x : Xbar) (i j c : Nat) (circ : Option Nat) (k : Credit) :
    (x.spend i j c circ k).minAt i j = if k = .minimum then x.minAt i j - 1 else x.minAt i j := by
  cases k with
  | circ => rfl
  | borrowed => rfl
  | minimum => exact mget_mset_same ..

/-- What the command leaves: the cell is in its queue, and away from its input. -/
theorem State.sendCell_moves {s : State} {i j : Nat} {e : XIn} {k : Credit} (on : s.xbarOn = true)
    (chosen : s.choose i = some e) (uni : e.cell.mcast = false) (act : s.sendAct e = .send j k) :
    ∃ rest : List XIn, rest.length + 1 = s.xbar.xin.length
      ∧ Xbar.SameCells { (s.sent i e j k).xbar with xin := rest } (s.sendCell i).xbar := by
  have started := (s.sent i e j k).noteStart_sameCells e [j]
  have waiting : ((s.sent i e j k).noteStart e [j]).xbar.xin = s.xbar.xin := started.xin.trans (s.xbar.spend_xin ..)
  obtain ⟨a, rest, found, len⟩ := takeFirst_of_mem (p := fun o => o.i == e.i && o.cell.pid == e.cell.pid)
    (s.mem_of_choose chosen).1 (by simp)
  rw [← waiting] at found
  have dropped := State.dropWaiting_sameCells found
  rw [State.sendCell_send on chosen act, State.advance_unicast uni]
  refine ⟨rest, len, Xbar.SameCells.trans ?_ (State.returnIdle_sameCells ..)⟩
  exact ⟨⟨dropped.xq.trans started.xq, dropped.minCr.trans started.minCr, dropped.minActive.trans started.minActive⟩,
    dropped.xin⟩

/-! ### The grants (R63, R70) -/

theorem State.mem_borrowRequests {s : State} {k : Nat} :
    k ∈ s.borrowRequests ↔ ∃ e ∈ s.xbar.xin, ∃ j ∈ (s.targets e).filter (s.wants e),
      s.xbar.minAt e.i j = 0 ∧ s.xbar.brwCrAt e.i j e.cell.tc = 0 ∧ xcKey e.i j e.cell.tc = k := by
  simp only [State.borrowRequests, List.mem_filterMap, List.mem_flatMap, List.mem_map]
  constructor
  · rintro ⟨_, ⟨e, he, j, hj, rfl⟩, some_⟩
    split at some_
    next h => exact ⟨e, he, j, hj, h.1, h.2, Option.some.inj some_⟩
    next => cases some_
  · rintro ⟨e, he, j, hj, min, brw, rfl⟩
    exact ⟨_, ⟨e, he, j, hj, rfl⟩, if_pos ⟨min, brw⟩⟩

theorem State.grantCells_pos (s : State) : 0 < s.grantCells := by
  unfold State.grantCells
  extract_lets g
  split <;> omega

/-- One batch of borrowed credits for the queue of key `k`. -/
def State.granted (s : State) (k : Nat) : State :=
  { s with xbar := { s.xbar with
      brw := mset 0 s.xbar.brw k (mget 0 s.xbar.brw k + s.grantCells),
      brwCr := mset 0 s.xbar.brwCr k (mget 0 s.xbar.brwCr k + s.grantCells),
      free := s.xbar.free - s.grantCells, rrPool := k + 1 } }

theorem rrNext_single (p k : Nat) : rrNext p [k] = some k := by
  by_cases h : p ≤ k <;> simp [rrNext, h]

theorem State.grantOne_single {s : State} {k : Nat} (one : s.borrowRequests = [k]) (may : s.grantable k = true) :
    s.grantOne = s.granted k := by
  simp [State.grantOne, one, may, rrNext_single, State.granted]

theorem State.grantOne_of_none {s : State} (none : s.borrowRequests = []) : s.grantOne = s := by
  simp [State.grantOne, none, rrNext]

/-- The only request, once granted, is a request no more. -/
theorem State.borrowRequests_granted {s : State} {k : Nat} (one : s.borrowRequests = [k]) : (s.granted k).borrowRequests = [] := by
  refine List.eq_nil_iff_forall_not_mem.mpr fun q mem => ?_
  obtain ⟨e, he, j, hj, min, brw, key⟩ := State.mem_borrowRequests.mp mem
  have now : mget 0 (mset 0 s.xbar.brwCr k (mget 0 s.xbar.brwCr k + s.grantCells)) (xcKey e.i j e.cell.tc) = 0 := brw
  rw [mget_mset] at now
  split at now
  next => exact absurd now (by have := s.grantCells_pos; omega)
  next other =>
    have before : xcKey e.i j e.cell.tc ∈ s.borrowRequests := State.mem_borrowRequests.mpr ⟨e, he, j, hj, min, now, rfl⟩
    rw [one] at before
    exact other (List.mem_singleton.mp before).symm

theorem State.grantable_free {s : State} {k : Nat} (may : s.grantable k = true) : s.grantCells ≤ s.xbar.free := by
  simp only [State.grantable, Bool.and_eq_true, decide_eq_true_eq] at may
  obtain ⟨⟨free, -⟩, -⟩ := may
  exact free

/-- The state after a batch of stored-copy credits. -/
def State.storedGranted (s : State) (i g : Nat) : State :=
  { s with xbar := { s.xbar with scCr := mset 0 s.xbar.scCr (1024 * i + g) s.grantCells, mc := s.xbar.mc + s.grantCells,
                                 free := s.xbar.free - s.grantCells } }

theorem State.grantStored_grants {s : State} {i g : Nat} {e : XIn} (on : s.xbarOn = true)
    (valid : s.bit (R.xbarMcgCtl g) 0 = true) (stored : s.mcStored g = true) (mem : e ∈ s.xbar.xin) (at_ : e.i = i)
    (mcast : e.cell.mcast = true) (group : e.cell.mgroup = g) (spent : mget 0 s.xbar.scCr (1024 * i + g) = 0)
    (cap : s.xbar.mc + s.grantCells ≤ s.fld R.xbarMccap 20 0) (free : s.grantCells ≤ s.xbar.free)
    (pointers : s.pointersFree (s.mcMembers g) = true) : s.grantStored i g = s.storedGranted i g := by
  have waits : (s.xbar.xin.any fun e => e.i == i && e.cell.mcast && e.cell.mgroup == g) = true :=
    List.any_eq_true.mpr ⟨e, mem, by simp [at_, mcast, group]⟩
  simp [State.grantStored, State.storedGranted, on, valid, stored, waits, spent, cap, free, pointers]

/-- Settles O30: a cell that is sent has moved to its queue; the only request is granted once, as it is one no more then. -/
theorem cellsEnterOnCredit : Obligations.CellsEnterOnCredit := by
  refine ⟨fun s i e j k on chosen uni act => ?send, fun s => ⟨fun k one may => ?pool, ?stored⟩⟩
  case send =>
    obtain ⟨rest, len, kept⟩ := State.sendCell_moves on chosen uni act
    refine Completes.of_eq rfl ⟨⟨s.sentEntry i e j k, ?_, rfl, rfl, rfl, rfl, rfl, Cell.hcrc_seal _⟩, ?_, ?_⟩
    · rw [kept.xq]
      exact congrArg (· ++ _) (s.xbar.spend_xq ..)
    · rw [kept.xin]
      exact len
    · exact (kept.minAt i j).trans (s.xbar.spend_minAt ..)
  case pool =>
    have run : s.grantOne.grantOne = s.granted k := by
      rw [State.grantOne_single one may, State.grantOne_of_none (State.borrowRequests_granted one)]
    refine Completes.of_eq (congrArg Host.Outcome.next run) ⟨mget_mset_same .., mget_mset_same .., ?_, Changes.xbar⟩
    exact Nat.sub_add_cancel (State.grantable_free may)
  case stored =>
    intro i g e on valid stored mem at_ mcast group spent cap free pointers
    have run := State.grantStored_grants on valid stored mem at_ mcast group spent cap free pointers
    refine Completes.of_eq (congrArg Host.Outcome.next run) ⟨?_, ?_, ?_, Changes.xbar⟩
    · exact mget_mset_same ..
    · rfl
    · exact Nat.sub_add_cancel free

end Sys2Proof.Machine
end
section
/-!
SUPPORT. Cells that leave the crosspoints (spec/03_crossbar.md, R57, R64).
-/

namespace Sys2Proof.Machine

/-- An entry that entered on a minimum credit takes one place from its queue and gives the credit back (R64). -/
theorem State.takeEntry_minimum {s : State} {e : XEntry} (mem : e ∈ s.xbar.xq) (ptr : e.ptr = none) (res : e.res = false)
    (brw : e.cell.brw = false) : ∃ rest : List XEntry, rest.length + 1 = s.xbar.xq.length ∧ s.takeEntry e =
      { s with xbar := { s.xbar with
          xq := rest, minCr := mset s.xbar.minActive s.xbar.minCr (xKey e.i e.j) (s.xbar.minAt e.i e.j + 1) } } := by
  obtain ⟨a, rest, found, len⟩ := takeFirst_of_mem
    (p := fun o => o.i == e.i && o.j == e.j && o.cell.sub == e.cell.sub && o.cell.tc == e.cell.tc) mem (by simp)
  refine ⟨rest, len, ?_⟩
  rw [State.takeEntry, found]
  dsimp only
  simp [State.depart, ptr, res, brw, Xbar.minAt]

/-- What a cell that leaves changes of the commitments and of the marks of aborted packets, and nothing else. -/
theorem State.noteCommit_marks (s : State) (e : XEntry) :
    ∃ commits aborted, s.noteCommit e = { s with xbar := { s.xbar with commits := commits, aborted := aborted } } := by
  unfold State.noteCommit
  extract_lets c
  split
  · exact ⟨_, _, rfl⟩
  · split
    · exact ⟨_, _, rfl⟩
    · exact ⟨_, _, rfl⟩

/-- A cell that begins its packet at a working buffer, with no packet aborted, is forwarded. -/
theorem State.leave_forwards {s : State} {e : XEntry} (sop : e.cell.sop = true) (none : s.xbar.aborted = [])
    (out : State → Cell → State) : s.leave e false out = out ((s.takeEntry e).noteCommit e) e.cell := by
  have same : { e.cell with sop := true } = e.cell := by rw [← sop]
  simp [State.leave, sop, none, same]

/-- What stands in the state that `out` gets, of the entry of a minimum credit. -/
structure State.HasLeft (s : State) (e : XEntry) (u : State) : Prop where
  xq : u.xbar.xq.length + 1 = s.xbar.xq.length
  min : u.xbar.minAt e.i e.j = s.xbar.minAt e.i e.j + 1
  xout : u.xbar.xout = s.xbar.xout
  reasm : u.xbar.reasm = s.xbar.reasm
  inbox : u.inbox = s.inbox

theorem State.hasLeft_of_minimum {s : State} {e : XEntry} (mem : e ∈ s.xbar.xq) (ptr : e.ptr = none) (res : e.res = false)
    (brw : e.cell.brw = false) : s.HasLeft e ((s.takeEntry e).noteCommit e) := by
  obtain ⟨rest, len, taken⟩ := State.takeEntry_minimum mem ptr res brw
  obtain ⟨commits, aborted, noted⟩ := (s.takeEntry e).noteCommit_marks e
  rw [noted, taken]
  exact ⟨len, mget_mset_same .., rfl, rfl, rfl⟩

/-- The state with the round robins of the outputs turned. -/
def State.turned (s : State) (tcs ins : SMap Nat) : State := { s with xbar := { s.xbar with rrTc := tcs, rrIn := ins } }

/-- A client output turns its round robin and sends the entry that it picked. -/
theorem State.leaveCell_client {s : State} {j : Nat} {e : XEntry} (client : s.isPortSlot j = false)
    (picked : s.xbar.pick j = some e) (ue : Bool) :
    ∃ tcs ins, s.leaveCell j ue = (s.turned tcs ins).leave e ue fun s c => s.toClient j c := by
  rw [State.leaveCell, client, picked]
  exact ⟨_, _, rfl⟩

theorem State.leaveCell_port {s : State} {j : Nat} {e : XEntry} (port : s.isPortSlot j = true)
    (picked : s.portPick j = some e) (ue : Bool) :
    s.leaveCell j ue = s.leave e ue fun s c => { s with xbar := { s.xbar with xout := s.xbar.xout ++ [(j, c)] } } := by
  rw [State.leaveCell, port, picked]
  rfl

/-- The arrival of a packet of one cell. -/
def State.arrivalOf (s : State) (j : Nat) (c : Cell) : Arrival :=
  { slot := j, sub := c.sub, mcast := c.mcast, unit := (hdrOfBytes c.data).dstEp, ep := c.ep,
    pkt := { hdr := hdrOfBytes c.data, vc := c.vc, tc := c.tc, job := c.job, tag := c.pktTag, abt := false,
             data := c.data.drop 32 },
    src := c.src, at_ := s.time.now }

/-- A whole packet of one cell is handed to the client. -/
theorem State.toClient_single {s : State} {j : Nat} {c : Cell} (eop : c.eop = true) (abt : c.abt = false)
    (none : s.xbar.reasm = []) :
    s.toClient j c = { s with xbar := { s.xbar with reasm := [] }, inbox := s.inbox ++ [s.arrivalOf j c] } := by
  simp [State.toClient, State.arrivalOf, eop, abt, none]

/-- Settles O31: the entry leaves its queue with its credit given back, and its cell goes on, at a client output after the
turn of the round robin. -/
theorem cellsLeaveTheirCrosspoint : Obligations.CellsLeaveTheirCrosspoint := by
  intro s j e mem ptr res brw abt sop none _
  refine ⟨fun client picked _ eop empty => ?client, fun port picked _ => ?port⟩
  case client =>
    obtain ⟨tcs, ins, run⟩ := State.leaveCell_client client picked false
    rw [State.leave_forwards (s := s.turned tcs ins) sop none] at run
    have left := State.hasLeft_of_minimum (s := s.turned tcs ins) mem ptr res brw
    generalize ((s.turned tcs ins).takeEntry e).noteCommit e = u at run left
    rw [State.toClient_single eop abt (left.reasm.trans empty)] at run
    refine Completes.of_eq (congrArg Host.Outcome.next run) ⟨⟨u.arrivalOf j e.cell, ?_⟩, left.xq, left.min⟩
    exact ⟨congrArg (· ++ _) left.inbox, rfl, rfl, rfl, rfl, rfl⟩
  case port =>
    have run := (State.leaveCell_port port picked false).trans (State.leave_forwards sop none _)
    have left := State.hasLeft_of_minimum mem ptr res brw
    refine Completes.of_eq (congrArg Host.Outcome.next run) ⟨⟨e.cell, ?_, rfl⟩, left.xq, left.min⟩
    exact congrArg (· ++ _) left.xout

end Sys2Proof.Machine
end
section
/-!
SUPPORT. An output subport that goes down, with the flush of its queues, and comes up again (spec/03_crossbar.md, R71 to R73;
spec/05_scheduling_and_telemetry.md, R122, R123).
-/

namespace Sys2Proof.Machine

/-! ### The output's register -/

theorem State.lt_of_isPortSlot {s : State} {j : Nat} (port : s.isPortSlot j = true) : j < 6 * s.ports :=
  of_decide_eq_true port

/-- XBAR_OUTCTL of a port slot stands below the port dies' windows. -/
theorem State.outctl_below_ports {s : State} {j : Nat} (port : s.isPortSlot j = true) : (R.xbarOutctl j).addr < portBase 0 := by
  have slot := s.lt_of_isPortSlot port
  have die := State.ports_lt (s := s) (n := j / 6) (by omega)
  show 0x100400 + j * 4 < 0x1000000 + 0 * 0x40000
  omega

theorem State.bit_of_regs {s t : State} (h : t.regs = s.regs) (r : Reg) (i : Nat) : t.bit r i = s.bit r i :=
  congrArg (fun m => wbit (mget r.rst m r.addr) i) h

theorem splitPorts_le (split : Nat) : splitPorts split ≤ 4 := by
  unfold splitPorts
  split
  · omega
  · split
    · omega
    · split <;> omega

theorem State.subports_le (s : State) (j : Nat) : s.subports j ≤ 4 := by
  unfold State.subports
  split
  · omega
  · exact splitPorts_le _

theorem State.subExists_of_port {s : State} {j sub : Nat} (port : s.isPortSlot j = true) (h : sub < s.subports j) :
    s.subExists j sub = true := by
  have owner : s.slotOwner j = .port (j / 6) (j % 6) := if_pos (s.lt_of_isPortSlot port)
  rw [State.subExists, owner]
  exact decide_eq_true h

/-! ### What has left toward the output is taken (R122, R424) -/

theorem State.hopDown_keepsRegs (s : State) (n job : Nat) : State.KeepsRegs 0 (portBase 0) s (s.hopDown n job) := by
  have jmap : (R.portJmap n (job / 32)).outside 0 (portBase 0) := .inr (by simp only [R.portJmap, portBase]; omega)
  have cause : (R.portCause n).outside 0 (portBase 0) := .inr (by simp only [R.portCause, portBase]; omega)
  exact .trans (s.raise_keepsRegs _ jmap) (State.raise_keepsRegs _ _ cause)

theorem State.takeCell_keepsRegs (s : State) (j sub : Nat) : State.KeepsRegs 0 (portBase 0) s (s.takeCell j sub) := by
  unfold State.takeCell
  split
  · exact .refl s
  · split
    · exact .refl s
    · extract_lets n l x s1 g c prog
      have taken : State.KeepsRegs 0 (portBase 0) s s1 := Changes.xbar.keepsRegs (by decide)
      have set (g : Egress) := taken.trans ((s1.setEgr_changes n l g).keepsRegs (by decide))
      split
      · exact (set _).trans (State.hopDown_keepsRegs ..)
      · exact (set _).trans (State.hopDown_keepsRegs ..)
      · exact set _

theorem State.takeAll_keepsRegs (s : State) (j sub : Nat) : State.KeepsRegs 0 (portBase 0) s (s.takeAll j sub) := by
  unfold State.takeAll
  exact .foldl (.refl s) fun u _ => u.takeCell_keepsRegs j sub

/-! ### The flush (R71, R72) -/

theorem State.depart_xq (s : State) (e : XEntry) : (s.depart e).xbar.xq = s.xbar.xq := by
  unfold State.depart
  extract_lets x c
  split
  · split
    · rfl
    · split <;> rfl
  · split
    · split <;> rfl
    · split
      · rfl
      · split <;> rfl

theorem State.purge_xq (s : State) (p : XEntry → Bool) : (s.purge p).xbar.xq = s.xbar.xq.filter fun e => !p e := by
  unfold State.purge
  extract_lets out x s1
  exact List.foldlRecOn out State.depart (motive := fun u => u.xbar.xq = s1.xbar.xq) rfl
    fun u kept e _ => (u.depart_xq e).trans kept

theorem State.countFlush_sameQueues (s : State) (i j sub tc : Nat) : s.xbar.SameQueues (s.countFlush i j sub tc).xbar :=
  ⟨rfl, rfl, rfl⟩

theorem State.dropTarget_sameQueues (s : State) (e : XIn) (j : Nat) : s.xbar.SameQueues (s.dropTarget e j).xbar := by
  unfold State.dropTarget
  split
  · exact s.dropWaiting_sameQueues e
  · refine Xbar.SameQueues.trans ?_ (State.returnIdle_sameCells ..).toSameQueues
    exact ⟨rfl, rfl, rfl⟩

theorem sameQueues_foldl {g : State → α → State} (h : ∀ (u : State) a, u.xbar.SameQueues (g u a).xbar) (l : List α)
    (s : State) : s.xbar.SameQueues (l.foldl g s).xbar :=
  List.foldlRecOn l g (motive := fun u => s.xbar.SameQueues u.xbar) (.refl _) fun u kept a _ => kept.trans (h u a)

/-- Borrowed credits, marks and the scheduler, settled after the flush, leave the queues and the commitments. -/
theorem State.quieted_xq (s : State) (n l : Nat) :
    (s.returnAllIdle.settleMarks.schedDown n l).xbar.xq = s.xbar.xq := by
  have sched : (s.returnAllIdle.settleMarks.schedDown n l).xbar = s.returnAllIdle.settleMarks.xbar :=
    (State.schedDown_changes ..).elsewhere .xbar (by decide)
  exact (congrArg Xbar.xq sched).trans s.returnAllIdle_poolOnly.sameCells.xq

theorem State.quieted_commits (s : State) (n l : Nat) :
    (s.returnAllIdle.settleMarks.schedDown n l).xbar.commits = s.xbar.commits := by
  have sched : (s.returnAllIdle.settleMarks.schedDown n l).xbar = s.returnAllIdle.settleMarks.xbar :=
    (State.schedDown_changes ..).elsewhere .xbar (by decide)
  obtain ⟨_, _, _, pool⟩ := s.returnAllIdle_poolOnly
  exact (congrArg Xbar.commits sched).trans (pool ▸ rfl : s.returnAllIdle.xbar.commits = s.xbar.commits)

/-- The output's two bits, as it goes down. -/
def State.downed (s : State) (j sub : Nat) : State := (s.raise (R.xbarOutctl j) sub).raise (R.xbarOutctl j) (4 + sub)

theorem State.downed_bits (s : State) (j : Nat) {sub : Nat} (h : sub < 4) :
    (s.downed j sub).outDown j sub = true ∧ (s.downed j sub).bit (R.xbarOutctl j) (4 + sub) = true :=
  ⟨(State.bit_raise_other _ _ (by omega) (by omega)).trans (State.bit_raise_same _ _ (by omega)),
    State.bit_raise_same _ _ (by omega)⟩

/-- What the flush leaves of the output: its bits set, and nothing in its queues or in progress. -/
structure State.Flushed (s t : State) (j sub : Nat) : Prop where
  regs : t.regs = (s.downed j sub).regs
  xq : ∀ e ∈ t.xbar.xq, ¬(e.j = j ∧ e.cell.sub = sub)
  commits : ∀ c ∈ t.xbar.commits, ¬(c.j = j ∧ c.sub = sub)

theorem not_of_mem_filter_not {l : List α} {p : α → Bool} {a : α} (h : a ∈ l.filter fun a => !p a) : p a = false := by
  simpa using (List.mem_filter.mp h).2

theorem State.outputDown_flushes {s : State} {j sub : Nat} (port : s.isPortSlot j = true) (h : sub < 4)
    (up : s.outDown j sub = false) : s.Flushed (s.outputDown j sub) j sub := by
  have down : ¬(!s.isPortSlot j || decide (4 ≤ sub) || s.outDown j sub) = true := by simp [port, up, h]
  rw [State.outputDown, if_neg down]
  extract_lets s1 mine out s2 s3 waits s4 x s5
  have purged : s2.xbar.xq = s1.xbar.xq.filter fun e => !mine e := s1.purge_xq mine
  have counted : s2.xbar.SameQueues s3.xbar := sameQueues_foldl (fun u e => u.countFlush_sameQueues ..) out s2
  have dropped : s3.xbar.SameQueues s4.xbar :=
    sameQueues_foldl (fun u e => (u.countFlush_sameQueues ..).trans (State.dropTarget_sameQueues ..)) waits s3
  have kept : Changes [.xbar, .links] s1 s4 :=
    .foldl (.foldl ((s1.purge_changes mine).mono (by decide)) fun u e => (u.countFlush_changes ..).mono (by decide))
      fun u e => .trans ((u.countFlush_changes ..).mono (by decide)) (State.dropTarget_changes ..)
  have frame (l : Nat) : Changes [.xbar, .egress, .freeCtr] s4 (s5.returnAllIdle.settleMarks.schedDown (j / 6) l) :=
    .step (Changes.mono (.trans (.trans Changes.xbar s5.returnAllIdle_changes) (State.settleMarks_changes _)) (by decide))
      (State.schedDown_changes ..) (by decide)
  have queues (l : Nat) := (s5.quieted_xq (j / 6) l).trans ((dropped.xq.trans counted.xq).trans purged)
  constructor
  case regs => exact ((frame _).elsewhere .regs (by decide)).trans (kept.elsewhere .regs (by decide))
  case xq =>
    intro e mem
    rw [queues] at mem
    simpa [mine] using not_of_mem_filter_not mem
  case commits =>
    intro c mem
    rw [State.quieted_commits] at mem
    simpa using not_of_mem_filter_not mem

/-- The command flushes, behind what the port die takes first. -/
theorem State.outputCut_flushes {s : State} {j sub : Nat} (port : s.isPortSlot j = true) (h : sub < 4)
    (up : s.outDown j sub = false) : (s.takeAll j sub).Flushed (s.outputCut j sub) j sub := by
  have run : s.outputCut j sub = (s.takeAll j sub).outputDown j sub := if_neg (by simp [port, up, h])
  have port' : (s.takeAll j sub).isPortSlot j = true := by
    rw [← port, State.isPortSlot, State.ports, (s.takeAll_changes j sub).elsewhere .variant (by decide)]
    rfl
  have up' : (s.takeAll j sub).outDown j sub = false :=
    ((s.takeAll_keepsRegs j sub).bit (Nat.zero_le _) (s.outctl_below_ports port) sub).trans up
  rw [run]
  exact State.outputDown_flushes port' h up'

/-! ### The end of the flush (R73) -/

theorem State.flushDone_ends {s : State} {j sub : Nat} (h : sub < 4) (flush : s.bit (R.xbarOutctl j) (4 + sub) = true) :
    s.flushDone j sub = (s.lower (R.xbarOutctl j) (4 + sub)).raise R.xbarCause 4 :=
  if_pos (by simp [h, flush])

theorem outctl_ne_cause (j : Nat) : R.xbarCause.addr ≠ (R.xbarOutctl j).addr := by
  simp only [R.xbarCause, R.xbarOutctl]
  omega

/-! ### The output comes up (R73, R122, R123) -/

theorem mget_foldl_mset [DecidableEq α] (d : α) (k : Nat) (f : Nat → α) (m : SMap α) {n c : Nat} (h : c < n) :
    mget d ((List.range n).foldl (fun m c => mset d m (k + c) (f c)) m) (k + c) = f c := by
  induction n with
  | zero => omega
  | succ n ih =>
    rw [List.range_succ, List.foldl_append, List.foldl_cons, List.foldl_nil]
    by_cases last : c = n
    · rw [last, mget_mset_same]
    · rw [mget_mset_other _ _ _ (by omega)]
      exact ih (by omega)

/-- The registers of the port dies are none of the crossbar's. -/
theorem State.lower_outctl_keepsPorts {s : State} {j : Nat} (port : s.isPortSlot j = true) (sub hi : Nat) :
    State.KeepsRegs (portBase 0) hi s (s.lower (R.xbarOutctl j) sub) :=
  s.lower_keepsRegs sub (.inl (s.outctl_below_ports port))

theorem State.KeepsRegs.firstLane {s t : State} (kept : ∀ hi, State.KeepsRegs (portBase 0) hi s t) (j sub : Nat) :
    t.firstLane j sub = s.firstLane j sub := by
  have cfg : t.slotCfg j = s.slotCfg j :=
    (kept _).reg _ (by simp only [R.portSlotcfg, portBase]; omega) (Nat.lt_succ_self _)
  rw [State.firstLane, State.slotSplit, cfg]
  rfl

theorem State.KeepsRegs.burst {s t : State} (kept : ∀ hi, State.KeepsRegs (portBase 0) hi s t) (n l c : Nat) :
    t.fld (R.portSShpb n l c) 23 0 = s.fld (R.portSShpb n l c) 23 0 :=
  congrArg (wfld · 23 0) ((kept _).reg _ (by simp only [R.portSShpb, portBase]; omega) (Nat.lt_succ_self _))

/-- The command clears the down bit, and fills the buckets of the subport's classes. -/
theorem State.outputUp_fills {s : State} {j sub : Nat} (port : s.isPortSlot j = true) (h : sub < 4)
    (down : s.outDown j sub = true) (done : s.bit (R.xbarOutctl j) (4 + sub) = false) :
    (s.outputUp j sub).regs = (s.lower (R.xbarOutctl j) sub).regs
      ∧ ∀ c < 8, mget 0x8000 (s.outputUp j sub).shpT (8 * lk (j / 6) (s.firstLane j sub) + c)
        = fullTokens (s.fld (R.portSShpb (j / 6) (s.firstLane j sub) c) 23 0) := by
  have go : ¬(!s.isPortSlot j || decide (4 ≤ sub) || !s.outDown j sub || s.bit (R.xbarOutctl j) (4 + sub)) = true := by
    simp [port, down, done, h]
  have kept := State.lower_outctl_keepsPorts port sub
  rw [State.outputUp, if_neg go]
  refine ⟨rfl, fun c hc => ?_⟩
  dsimp only
  rw [State.KeepsRegs.firstLane kept, ← State.KeepsRegs.burst kept]
  exact mget_foldl_mset _ _ (fun c => fullTokens _) _ hc

/-- Settles O32: the flush, its end and the return to up, each by what its operation leaves. -/
theorem outputsGoDownAndUp : Obligations.OutputsGoDownAndUp := by
  intro s j sub port exists_
  have small : sub < 4 := exists_.trans_le (s.subports_le j)
  have subExists := s.subExists_of_port port exists_
  refine ⟨fun up => ?down, fun flush => ?done, fun down done => ?up⟩
  case down =>
    have flushed := State.outputCut_flushes port small up
    obtain ⟨isDown, flushing⟩ := (s.takeAll j sub).downed_bits j small
    refine Completes.of_eq (congrArg Host.Outcome.next (if_pos subExists)) ⟨?_, ?_, flushed.xq, flushed.commits⟩
    · exact (State.bit_of_regs flushed.regs ..).trans isDown
    · exact (State.bit_of_regs flushed.regs ..).trans flushing
  case done =>
    have run := State.flushDone_ends small flush
    refine Completes.of_eq (congrArg Host.Outcome.next ((if_pos subExists).trans run))
      ⟨?_, State.bit_raise_same _ _ (by decide), ?_⟩
    · exact (State.bit_raise_elsewhere _ _ (outctl_ne_cause j) _).trans (State.bit_lower_same _ _ (by omega))
    · rw [← run]
      exact s.flushDone_changes j sub
  case up =>
    obtain ⟨regs, full⟩ := State.outputUp_fills port small down done
    refine Completes.of_eq (congrArg Host.Outcome.next (if_pos subExists)) ⟨?_, s.outputUp_changes j sub, full⟩
    exact (State.bit_of_regs regs ..).trans (State.bit_lower_same _ _ (by omega))

end Sys2Proof.Machine
end
section
/-!
SUPPORT. The subports of a port die (spec/04_links_and_routing.md, R77, R78): where one begins, what its slot is, and that its
registers are reached.
-/

namespace Sys2Proof.Machine

/-- Subport `sub` of port slot `j` begins at lane `l` of port die `n`. -/
structure State.Subport (s : State) (n l j sub : Nat) : Prop where
  die : n < s.ports
  lane : l < 24
  slot : j = 6 * n + l / 4
  within : sub < s.subports j
  first : s.firstLane j sub = l

theorem State.subport_of_subportAt {s : State} {n l j sub : Nat} (h : s.subportAt n l = some (j, sub)) :
    s.Subport n l j sub := by
  unfold State.subportAt at h
  split at h
  · rename_i inside
    dsimp only at h
    split at h
    · rename_i x found
      obtain ⟨rfl, rfl⟩ : 6 * n + l / 4 = j ∧ x = sub := by simpa using h
      exact ⟨inside.1, inside.2, rfl, List.mem_range.mp (List.mem_of_find?_eq_some found),
        by simpa using List.find?_some found⟩
    · cases h
  · cases h

namespace State.Subport

variable {s : State} {n l j sub : Nat} (at_ : s.Subport n l j sub)
include at_

theorem die_eq : j / 6 = n := by
  have slot := at_.slot
  have lane := at_.lane
  omega

theorem port : s.isPortSlot j = true := by
  have slot := at_.slot
  have lane := at_.lane
  have die := at_.die
  exact decide_eq_true (by omega)

theorem small : sub < 4 := at_.within.trans_le (s.subports_le j)

theorem answers (on : s.dev ≠ .off) (booted : s.dev ≠ .rom) : s.answers (.port n) = true :=
  State.answers_of_populated on booted (decide_eq_true at_.die)

end State.Subport

/-! ### What the arrangement of a slot rests on -/

section
variable {s t : State} {j : Nat} (cfg : t.slotCfg j = s.slotCfg j)
include cfg

theorem State.subports_congr : t.subports j = s.subports j := by
  rw [State.subports, State.slotSplit, cfg]
  rfl

theorem State.firstLane_congr (sub : Nat) : t.firstLane j sub = s.firstLane j sub := by
  rw [State.firstLane, State.slotSplit, cfg]
  rfl

theorem State.slotMode_congr : t.slotMode j = s.slotMode j := congrArg (wfld · 5 4) cfg

end

theorem State.subportAt_congr {s t : State} {n l : Nat} (variant : t.variant = s.variant)
    (cfg : t.slotCfg (6 * n + l / 4) = s.slotCfg (6 * n + l / 4)) : t.subportAt n l = s.subportAt n l := by
  have ports : t.ports = s.ports := congrArg Variant.portDies variant
  simp only [State.subportAt, ports, State.subports_congr cfg, State.firstLane_congr cfg]

/-- A register of a port die behind its SLOTCFG registers is none of them. -/
theorem State.slotCfg_setReg (s : State) {r : Reg} {n o : Nat} (w : Word) (addr : r.addr = portBase n + o) (behind : 0x18 ≤ o)
    (inside : o < 0x40000) (j : Nat) : (s.setReg r w).slotCfg j = s.slotCfg j := by
  refine s.reg_setReg_other w ?_
  rw [addr]
  simp only [R.portSlotcfg, portBase]
  omega

/-- So a write to one keeps the subports. -/
theorem State.subportAt_writeReg (s : State) {r : Reg} {n o : Nat} (w : Word) (addr : r.addr = portBase n + o)
    (behind : 0x18 ≤ o) (inside : o < 0x40000) (m l : Nat) : (s.writeReg r w).subportAt m l = s.subportAt m l :=
  State.subportAt_congr rfl (s.slotCfg_setReg _ addr behind inside _)

/-! ### A bit that software stores (R8) -/

theorem Reg.getLsbD_written_stored {r : Reg} {i : Nat} (stores : r.rw.getLsbD i = true) (w1c : r.w1c = 0) (old w : Word) :
    (r.written old w).getLsbD i = w.getLsbD i := by
  rw [Reg.getLsbD_written, stores, w1c]
  simp

theorem State.bit_writeReg_same (s : State) {r : Reg} {i : Nat} (stores : r.rw.getLsbD i = true) (w1c : r.w1c = 0) (w : Word) :
    (s.writeReg r w).bit r i = w.getLsbD i := by
  rw [State.bit, State.reg_writeReg_same, wbit_eq, Reg.getLsbD_written_stored stores w1c]

/-! ### The registers that an output going down writes (R71) -/

/-- An output that goes down changes its own register alone, and so none of a port die. -/
theorem State.outputDown_keepsPorts {s : State} {j sub : Nat} (port : s.isPortSlot j = true) (small : sub < 4) (hi : Nat) :
    State.KeepsRegs (portBase 0) hi s (s.outputDown j sub) := by
  have below : (R.xbarOutctl j).outside (portBase 0) hi := .inl (s.outctl_below_ports port)
  cases down : s.outDown j sub with
  | true =>
    rw [State.outputDown, if_pos (by simp [down])]
    exact .refl s
  | false =>
    have raised : State.KeepsRegs (portBase 0) hi s (s.downed j sub) :=
      (s.raise_keepsRegs sub below).trans (State.raise_keepsRegs _ _ below)
    have regs := (State.outputDown_flushes port small down).regs
    exact ⟨fun r hl hh => (congrArg (fun m => mget r.rst m r.addr) regs).trans (raised.reg r hl hh)⟩

end Sys2Proof.Machine
end
section
/-!
SUPPORT. The states of an Ethernet subport (spec/04_links_and_routing.md, R109).
-/

namespace Sys2Proof.Machine

/-- A buffer that is freed and counted marks the pool manager and the dispatcher, and no port die. -/
theorem State.dropBuffer_keepsPorts (s : State) (h : Word) (reason hi : Nat) :
    State.KeepsRegs (portBase 0) hi s (s.dropBuffer h reason) := by
  have freed : State.KeepsRegs (portBase 0) hi s (s.freeBuffer h) := by
    unfold State.freeBuffer
    extract_lets b counted
    have count : State.KeepsRegs (portBase 0) hi s counted := .ite (.refl s) (s.setReg_keepsRegs _ (.inl (by decide)))
    exact .ite (Changes.poolUsed.keepsRegs (by decide)) (count.trans (State.raise_keepsRegs _ _ (.inl (by decide))))
  exact (freed.trans (Changes.dsp.keepsRegs (by decide))).trans (State.raise_keepsRegs _ _ (.inl (by decide)))

/-- What a subport is that has left UP for `st`: every response buffer given up, `eth_down` set. -/
structure State.EthLeft (t : State) (n l : Nat) (st : EthState) : Prop where
  st : (t.eth n l).st = st
  resp : (t.eth n l).resp = []
  wait : (t.eth n l).wait = []
  cause : t.bit (R.portCause n) 6 = true

theorem State.ethLeaveUp_left (s : State) (n l j sub : Nat) (st : EthState) : (s.ethLeaveUp n l j sub st).EthLeft n l st := by
  have eth : (s.ethLeaveUp n l j sub st).eth n l = { s.eth n l with st := st, wait := [], resp := [] } :=
    State.eth_setEth_same ..
  exact ⟨by rw [eth], by rw [eth], by rw [eth], State.bit_raise_same _ _ (by decide)⟩

section
variable {s : State} {n l j sub : Nat} {w : Word} (found : s.subportAt n l = some (j, sub))
include found

theorem State.writeEthCtl_trains (mode : s.slotMode j = 1) (up : w.getLsbD 0 = true) (down : (s.eth n l).st = .down) :
    s.writeEthCtl n l w = (s.writeReg (R.portECtl n l) w).setEth n l { s.eth n l with st := .training } := by
  simp [State.writeEthCtl, wbit_eq, up, found, mode, down]

theorem State.subportAt_writeEthCtl : (s.writeReg (R.portECtl n l) w).subportAt n l = some (j, sub) := by
  have lane := (State.subport_of_subportAt found).lane
  rw [s.subportAt_writeReg (o := 0x83c + l * 0x40) w (Nat.add_assoc ..) (by omega) (by omega), found]

theorem State.writeEthCtl_leavesUp (clear : w.getLsbD 0 = false) (up : (s.eth n l).st = .up) :
    s.writeEthCtl n l w = (s.writeReg (R.portECtl n l) w).ethLeaveUp n l j sub .down := by
  have still := State.subportAt_writeEthCtl found (w := w)
  have low : wbit w 0 = false := (wbit_eq w 0).trans clear
  simp [State.writeEthCtl, low, still, up]

theorem State.ethLost_leavesUp (up : (s.eth n l).st = .up) : s.ethLost n l = s.ethLeaveUp n l j sub .training := by
  simp [State.ethLost, found, up]

end

/-- PORTn_El_CTL keeps its word as the subport leaves UP. -/
theorem State.ethLeaveUp_ctl {s : State} {n l j sub : Nat} (at_ : s.Subport n l j sub) (st : EthState) :
    (s.ethLeaveUp n l j sub st).bit (R.portECtl n l) 0 = s.bit (R.portECtl n l) 0 := by
  have cause : (R.portCause n).addr ≠ (R.portECtl n l).addr := by simp only [R.portCause, R.portECtl]; omega
  have base : portBase 0 ≤ (R.portECtl n l).addr := by simp only [R.portECtl, portBase]; omega
  unfold State.ethLeaveUp
  extract_lets e s1 s2
  have kept : State.KeepsRegs (portBase 0) ((R.portECtl n l).addr + 1) s s2 :=
    .foldl (State.outputDown_keepsPorts at_.port at_.small _) fun u h => u.dropBuffer_keepsPorts h 7 _
  rw [State.bit_raise_elsewhere _ _ cause]
  exact kept.bit base (Nat.lt_succ_self _) 0

/-- Settles O40: each command by the write or the exit from UP that it makes. -/
theorem ethernetStatesFollow : Obligations.EthernetStatesFollow := by
  intro s n l j sub w on booted found mode left
  have at_ := State.subport_of_subportAt found
  have answers := at_.answers on booted
  have low : wbit w 0 = w.getLsbD 0 := wbit_eq w 0
  have stored : (s.writeReg (R.portECtl n l) w).bit (R.portECtl n l) 0 = w.getLsbD 0 :=
    s.bit_writeReg_same (show (0x1 : Word).getLsbD 0 = true by decide) rfl w
  have gone {t : State} {st : EthState} (h : t.EthLeft n l st) : left t st := ⟨h.st, h.resp, h.wait, h.cause⟩
  refine ⟨fun up down => ?request, fun training => ?trained, fun up => ?fault, fun up => ?timeout, fun clear up => ?release⟩
  case request =>
    have meant : (decide (l < 24) && wbit w 0) = true := by simp only [at_.lane, low, up, decide_true, Bool.and_self]
    have run := (State.onWrite_of_answers answers meant _).trans (State.writeEthCtl_trains found mode up down)
    refine Completes.of_eq (congrArg Host.Outcome.next run) ⟨?_, ?_, ?_⟩
    · rw [State.eth_setEth_same]
    · exact stored.trans up
    · exact Changes.step ((s.writeReg_changes ..).mono (by decide)) (State.setEth_changes ..) (by decide)
  case trained => exact Completes.of_eq (congrArg Host.Outcome.next (if_pos training)) rfl
  case fault | timeout =>
    exact Completes.of_eq (congrArg Host.Outcome.next (State.ethLost_leavesUp found up)) (gone (s.ethLeaveUp_left ..))
  case release =>
    have meant : (decide (l < 24) && !wbit w 0) = true := by
      simp only [at_.lane, low, clear, decide_true, Bool.not_false, Bool.and_self]
    have run := (State.onWrite_of_answers answers meant _).trans (State.writeEthCtl_leavesUp found clear up)
    refine Completes.of_eq (congrArg Host.Outcome.next run) ⟨gone (State.ethLeaveUp_left ..), ?_⟩
    have written := State.subport_of_subportAt (State.subportAt_writeEthCtl found (w := w))
    exact (State.ethLeaveUp_ctl written .down).trans (stored.trans clear)

end Sys2Proof.Machine
end
section
/-!
SUPPORT. Messages (spec/04_links_and_routing.md, R93, R94; spec/01_organisation.md, R20): which commitment is counted next, what
its tracker does, the COMPLETE at the source, and the message slots.
-/

namespace Sys2Proof.Machine

/-! ### The order of commitments (R20) -/

/-- Of two commitments the second is counted first only where it is of the same unit and cycle and from a lower slot. -/
theorem State.nextCommit_pair {s : State} {c d : CommitRec} (two : s.commits = [c, d]) :
    s.nextCommit = if d.slot = c.slot ∧ d.at_ = c.at_ ∧ d.src < c.src then some (d, [c]) else some (c, [d]) := by
  have self : c.sameCycle c = true := by simp [CommitRec.sameCycle]
  by_cases same : c.sameCycle d = true
  · obtain ⟨slot, at_⟩ : d.slot = c.slot ∧ d.at_ = c.at_ := by simpa [CommitRec.sameCycle] using same
    by_cases lower : d.src < c.src
    · have least : min c.src d.src = d.src := by omega
      have later : c.src ≠ d.src := by omega
      simp [State.nextCommit, two, same, slot, at_, lower, least, takeFirst, later]
    · have least : min c.src d.src = c.src := by omega
      simp [State.nextCommit, two, same, slot, at_, lower, least, takeFirst, self]
  · have other : ¬(d.slot = c.slot ∧ d.at_ = c.at_ ∧ d.src < c.src) := fun h =>
      same (by simp [CommitRec.sameCycle, h.1, h.2.1])
    simp [State.nextCommit, two, same, other, takeFirst, self]

/-! ### Trackers (R93) -/

/-- The tracker of a message whose first bytes arrive. -/
def CommitRec.opened (c : CommitRec) : Tracker :=
  { srcDev := c.hdr.srcDev, slot := c.hdr.msgSlot, seq := c.hdr.msgSeq, msgBytes := c.hdr.msgBytes, count := c.bytes,
    sig := c.hdr.sig, held := none, added := false }

section
variable {s : State} {c : CommitRec} {rest : List CommitRec} (next : s.nextCommit = some (c, rest)) (none_ : s.trackers = [])
  (data : c.target = none) (plain : c.isAdd = false)
include next none_ data plain

/-- Bytes of a message that is not whole open its tracker. -/
theorem State.trackerCount_opens (part : c.bytes ≠ c.hdr.msgBytes) :
    s.trackerCount = { s with commits := rest, trackers := [c.opened] } := by
  simp [State.trackerCount, next, State.trackerFor, none_, data, plain, part, CommitRec.opened]

/-- A message that arrives whole sends its COMPLETE. -/
theorem State.trackerCount_completes (sig : c.hdr.sig = false) (whole : c.bytes = c.hdr.msgBytes) :
    s.trackerCount = State.attachPkt { s with commits := rest, trackers := [] } c.slot none none
      (State.completePkt { s with commits := rest } c) := by
  simp [State.trackerCount, next, State.trackerFor, none_, data, plain, sig, whole]

end

/-! ### COMPLETE at the source (R94) -/

theorem State.slotOwner_mgmtSlot (s : State) : s.slotOwner s.mgmtSlot = .mgmt := by
  unfold State.slotOwner
  rw [if_neg (by unfold State.mgmtSlot; omega), if_neg (by unfold State.mgmtSlot; omega), if_neg (by omega), if_pos rfl]

/-- A COMPLETE at the management die that names an open message of another device's request closes it. -/
theorem State.receiveComplete_closes {s : State} {a : Arrival} {rest : List Arrival} {m : Msg} (inbox : s.inbox = a :: rest)
    (slot : a.slot = s.mgmtSlot) (op : a.pkt.hdr.op = opComplete) (names : s.messageOf a.pkt.hdr = some m)
    (owner : m.owner = .served) : s.receiveComplete = State.closeMsg { s with inbox := rest } m := by
  have mgmt : s.slotOwner a.slot = .mgmt := slot ▸ s.slotOwner_mgmtSlot
  have names' : State.messageOf { s with inbox := rest } a.pkt.hdr = some m := names
  simp [State.receiveComplete, inbox, takeFirst, op, mgmt, names', owner, State.ownerDone]

/-! ### Message slots (R94) -/

theorem State.grantSlot_opens {s : State} {m : Msg} {rest : List Msg} {dev k : Nat} (msgs : s.msgs = m :: rest)
    (waits : m.waiting = true) (dst : m.dstDev = some dev) (free : s.freeSlot dev = some k) :
    s.grantSlot dev = s.openMsg m.id dev k := by
  simp [State.grantSlot, msgs, waits, dst, free]

theorem State.openMsg_msgs {s : State} {m : Msg} {rest : List Msg} {dev : Nat} (msgs : s.msgs = m :: rest)
    (dst : m.dstDev = some dev) (k : Nat) : (s.openMsg m.id dev k).msgs
      = { m with slot := some k, seq := mget 0 s.msgSeq (16 * dev + k), waiting := false } :: rest := by
  simp [State.openMsg, msgs, updFirst, dst]

/-- Settles O37: the order of two commitments, and what each command does by the lemma of its operation. -/
theorem messagesAreTracked : Obligations.MessagesAreTracked := by
  intro s
  refine ⟨fun c d => State.nextCommit_pair, fun c rest next none_ data plain part => ?opens,
    fun c rest next none_ data plain sig whole => ?completes, fun a rest m inbox slot op names owner => ?closes,
    fun m rest k dev msgs waits dst free => ?grants⟩
  case opens =>
    have run := State.trackerCount_opens next none_ data plain part
    have counted : Changes [.commits, .trackers] s { s with commits := rest } := Changes.commits.mono (by decide)
    exact .of_eq (congrArg Host.Outcome.next run)
      ⟨rfl, counted.step Changes.trackers (by decide), _, rfl, rfl, rfl, rfl⟩
  case completes =>
    have run := State.trackerCount_completes next none_ data plain sig whole
    exact .of_eq (congrArg Host.Outcome.next run) ⟨rfl, rfl, _, rfl, rfl, rfl, rfl, rfl, rfl, rfl⟩
  case closes =>
    have run := State.receiveComplete_closes inbox slot op names owner
    have taken : Changes [.inbox, .msgs] s { s with inbox := rest } := Changes.inbox.mono (by decide)
    exact .of_eq (congrArg Host.Outcome.next run) ⟨rfl, taken.step Changes.msgs (by decide), rfl⟩
  case grants =>
    have run := State.grantSlot_opens msgs waits dst free
    exact .of_eq (congrArg Host.Outcome.next run) ⟨s.openMsg_changes .., State.openMsg_msgs msgs dst k, mget_mset_same ..⟩

end Sys2Proof.Machine
end
section
/-!
SUPPORT. The configuration of a port die (spec/04_links_and_routing.md, R78, R101): SLOTCFG, slots held disabled, and the table
commands.
-/

namespace Sys2Proof.Machine

/-! ### Fields that software stores (R8) -/

theorem Reg.written_and_rw {r : Reg} (w1c : r.w1c = 0) (old w : Word) : r.written old w &&& r.rw = w &&& r.rw := by
  refine BitVec.eq_of_getLsbD_eq fun i _ => ?_
  rw [BitVec.getLsbD_and, BitVec.getLsbD_and]
  cases stores : r.rw.getLsbD i with
  | true => rw [Reg.getLsbD_written_stored stores w1c]
  | false => simp

/-- A field depends on its own bits. -/
theorem wfld_congr {x y : Word} {hi lo : Nat} (h : ∀ i, lo ≤ i → i ≤ hi → x.getLsbD i = y.getLsbD i) :
    wfld x hi lo = wfld y hi lo := by
  refine Nat.eq_of_testBit_eq fun i => ?_
  rw [wfld, wfld, nbits, nbits, Nat.testBit_mod_two_pow, Nat.testBit_mod_two_pow, Nat.testBit_shiftRight,
    Nat.testBit_shiftRight, BitVec.testBit_toNat, BitVec.testBit_toNat]
  by_cases inside : i < hi + 1 - lo
  · rw [h (lo + i) (by omega) (by omega)]
  · simp [inside]

/-- A field whose bits software stores. -/
theorem wfld_written {r : Reg} {hi lo : Nat} (stores : ∀ i ≤ hi, lo ≤ i → r.rw.getLsbD i = true) (w1c : r.w1c = 0)
    (old w : Word) : wfld (r.written old w) hi lo = wfld w hi lo :=
  wfld_congr fun i hl hh => Reg.getLsbD_written_stored (stores i hh hl) w1c old w

/-! ### SLOTCFG (R78) -/

/-- A subport of the slot is requested up. -/
def State.SlotRequested (s : State) (n k : Nat) : Prop :=
  ∃ x < 4, s.bit (R.portPCfg n (4 * k + x)) 0 = true ∨ s.bit (R.portECtl n (4 * k + x)) 0 = true

/-- The arrangements that R78 refuses. -/
abbrev SplitRefused (v : Word) : Prop := wfld v 1 0 = 3 ∨ (wfld v 1 0 = 2 ∧ wfld v 5 4 = 1)

theorem State.slotRequested_iff (s : State) (n k : Nat) :
    s.SlotRequested n k ↔ ((List.range 4).any fun x =>
      s.bit (R.portPCfg n (4 * k + x)) 0 || s.bit (R.portECtl n (4 * k + x)) 0) = true := by
  simp only [State.SlotRequested, List.any_eq_true, List.mem_range, Bool.or_eq_true]

theorem State.writeSlotcfg_ignored {s : State} {n k : Nat} (busy : s.SlotRequested n k) (w : Word) :
    s.writeSlotcfg n k w = s.raise (R.portCause n) 5 :=
  if_pos ((s.slotRequested_iff n k).mp busy)

theorem portCause_ne_slotcfg (n : Nat) {k : Nat} (slot : k < 6) : (R.portCause n).addr ≠ (R.portSlotcfg n k).addr := by
  simp only [R.portCause, R.portSlotcfg]
  omega

/-- The state with the word stored and the credits of empty queues back. -/
def State.slotcfgStored (s : State) (n k : Nat) (w : Word) : State := (s.writeReg (R.portSlotcfg n k) w).returnAllIdle

theorem State.reg_slotcfgStored (s : State) (n k : Nat) (w : Word) :
    (s.slotcfgStored n k w).reg (R.portSlotcfg n k) = (R.portSlotcfg n k).written (s.reg (R.portSlotcfg n k)) w :=
  ((State.returnAllIdle_changes _).reg (by decide) _).trans (s.reg_writeReg_same _ w)

/-- The fields that R78 looks at are stored as written. -/
theorem State.splitRefused_slotcfgStored (s : State) (n k : Nat) (w : Word) :
    SplitRefused ((s.slotcfgStored n k w).reg (R.portSlotcfg n k)) ↔ SplitRefused w := by
  have split (old : Word) : wfld ((R.portSlotcfg n k).written old w) 1 0 = wfld w 1 0 :=
    wfld_written (show ∀ i ≤ 1, 0 ≤ i → (0xff73 : Word).getLsbD i = true by decide) rfl _ _
  have mode (old : Word) : wfld ((R.portSlotcfg n k).written old w) 5 4 = wfld w 5 4 :=
    wfld_written (show ∀ i ≤ 5, 4 ≤ i → (0xff73 : Word).getLsbD i = true by decide) rfl _ _
  rw [s.reg_slotcfgStored, SplitRefused, SplitRefused, split, mode]

/-- A write that is not ignored is stored, and a refused arrangement sets `cfg_err`. -/
theorem State.writeSlotcfg_stored {s : State} {n k : Nat} (idle : ¬s.SlotRequested n k) (w : Word) :
    s.writeSlotcfg n k w
      = if SplitRefused w then (s.slotcfgStored n k w).raise (R.portCause n) 5 else s.slotcfgStored n k w := by
  refine (if_neg (mt (s.slotRequested_iff n k).mpr idle)).trans ?_
  exact if_congr (s.splitRefused_slotcfgStored n k w) rfl rfl

/-- What the write leaves: the word, and the crossbar but for borrowed credits that went back. -/
theorem State.writeSlotcfg_effect {s : State} {n k : Nat} (idle : ¬s.SlotRequested n k) (slot : k < 6) (w : Word) :
    (s.writeSlotcfg n k w).reg (R.portSlotcfg n k) = (R.portSlotcfg n k).written (s.reg (R.portSlotcfg n k)) w
      ∧ (s.writeSlotcfg n k w).xbar = (s.slotcfgStored n k w).xbar
      ∧ (SplitRefused w → (s.writeSlotcfg n k w).bit (R.portCause n) 5 = true) := by
  rw [State.writeSlotcfg_stored idle]
  split
  · refine ⟨?_, rfl, fun _ => State.bit_raise_same _ _ (by decide)⟩
    rw [State.reg_raise_other _ _ (portCause_ne_slotcfg n slot), s.reg_slotcfgStored]
  · exact ⟨s.reg_slotcfgStored .., rfl, fun refused => absurd refused ‹_›⟩

/-- The two disabled arrangements have no subport. -/
theorem State.subports_of_splitRefused {u : State} {n k : Nat} (slot : k < 6) (refused : SplitRefused (u.reg (R.portSlotcfg n k))) :
    u.subports (6 * n + k) = 0 := by
  have cfg : u.slotCfg (6 * n + k) = u.reg (R.portSlotcfg n k) := by
    rw [State.slotCfg, show (6 * n + k) / 6 = n by omega, show (6 * n + k) % 6 = k by omega]
  have disabled : cfgDisabled (u.slotCfg (6 * n + k)) = true := by
    rw [cfg]
    rcases refused with split | ⟨split, mode⟩
    · simp [cfgDisabled, split]
    · simp [cfgDisabled, split, mode]
  exact if_pos disabled

/-! ### Table commands (R101) -/

theorem zipIdx_map_range (f : Nat → α) (n : Nat) : ((List.range n).map f).zipIdx = (List.range n).map fun i => (f i, i) := by
  refine List.ext_getElem (by simp) fun i _ _ => by simp

/-- The words of an entry that was written, with the bits of its layout. -/
theorem CfgSet.word_setEntry (c : CfgSet) (t slot idx : Nat) (f : Nat → Word) {n i : Nat} (h : i < n) :
    (c.setEntry t slot idx ((List.range n).map f)).word t slot idx i = f i &&& tblMask t i := by
  unfold CfgSet.setEntry CfgSet.word
  rw [zipIdx_map_range, List.foldl_map]
  exact mget_foldl_mset 0 _ (fun i => f i &&& tblMask t i) c.tbl h

section
variable {s : State} {n tb slot idx : Nat} {w : Word} (table : wfld (s.reg (R.portTblsel n)) 30 28 = tb)
  (slot_ : wfld (s.reg (R.portTblsel n)) 21 16 = slot) (entry : wfld (s.reg (R.portTblsel n)) 9 0 = idx)
  (inside : idx < tblSize tb)
include table slot_ entry inside

/-- A write command to the shadow set stores TBLDATA in the entry that TBLSEL names. -/
theorem State.writeTblcmd_write (rd : wbit w 0 = false) (wr : wbit w 1 = true) (shadow : wbit (s.reg (R.portTblsel n)) 31 = true) :
    s.writeTblcmd n w
      = { s with shadow := s.shadow.setEntry tb slot idx ((List.range 8).map fun k => s.reg (R.portTbldata n k)) } := by
  simp [State.writeTblcmd, rd, wr, table, slot_, entry, shadow, Nat.not_le.mpr inside, State.setCfg, State.cfg]

/-- A read command loads TBLDATA from it. -/
theorem State.writeTblcmd_read (rd : wbit w 0 = true) (wr : wbit w 1 = false) :
    s.writeTblcmd n w = (List.range 8).foldl (fun u k => u.setReg (R.portTbldata n k)
      ((u.cfg (wbit (s.reg (R.portTblsel n)) 31)).word tb slot idx k)) s := by
  simp [State.writeTblcmd, rd, wr, table, slot_, entry, Nat.not_le.mpr inside]

end

/-- TBLDATA as the words of an entry are loaded into it one after the other. -/
theorem State.reg_loadTbldata (s : State) (n tb slot idx : Nat) (shadow : Bool) {m i : Nat} (h : i < m) :
    ((List.range m).foldl (fun u k => u.setReg (R.portTbldata n k) ((u.cfg shadow).word tb slot idx k)) s).reg (R.portTbldata n i)
      = (s.cfg shadow).word tb slot idx i := by
  induction m with
  | zero => omega
  | succ m ih =>
    rw [List.range_succ, List.foldl_append, List.foldl_cons, List.foldl_nil]
    generalize loaded : (List.range m).foldl _ s = u at ih ⊢
    have frame : Changes [.regs] s u := loaded ▸ .foldl (.refl _ s) fun v k => v.setReg_changes ..
    have cfg : u.cfg shadow = s.cfg shadow := by
      rw [State.cfg, frame.elsewhere .shadow (by decide), frame.elsewhere .active (by decide)]
      rfl
    by_cases last : i = m
    · rw [last, State.reg_setReg_same, cfg]
    · rw [State.reg_setReg_other _ _ (by simp only [R.portTbldata]; omega), ih (by omega)]

/-- Settles O33: the write of SLOTCFG by what it stores, the disabled arrangements by their subports, the table commands by
the entry they move. -/
theorem portsAreConfigured : Obligations.PortsAreConfigured := by
  intro s n k w on booted die busy sel tb idx
  have answers : s.answers (.port n) = true := State.answers_of_populated on booted (decide_eq_true die)
  refine ⟨fun slot idle => ?stored, fun u _ slot refused => State.subports_of_splitRefused slot refused, fun slot busy => ?ignored,
    fun inside shadow => ?write, fun inside => ?read⟩
  case stored =>
    have run := State.onWrite_of_answers answers (decide_eq_true slot) (s.writeSlotcfg n k w)
    obtain ⟨reg, xbar, cause⟩ := State.writeSlotcfg_effect idle slot w
    obtain ⟨cr, brw, free, pool⟩ := (s.writeReg (R.portSlotcfg n k) w).returnAllIdle_poolOnly
    refine .of_eq (congrArg Host.Outcome.next run) ⟨?_, s.writeSlotcfg_changes n k w, ?_, fun none => ?_, cause⟩
    · rw [reg]
      exact Reg.written_and_rw rfl _ w
    · rw [xbar, State.slotcfgStored, pool]
      rfl
    · rw [xbar, State.slotcfgStored, State.returnAllIdle_of_none (s := s.writeReg (R.portSlotcfg n k) w) none]
      rfl
  case ignored =>
    have run := (State.onWrite_of_answers answers (decide_eq_true slot) _).trans (State.writeSlotcfg_ignored busy w)
    exact .of_eq (congrArg Host.Outcome.next run)
      ⟨State.reg_raise_other _ _ (portCause_ne_slotcfg n slot), State.bit_raise_same _ _ (by decide), s.raise_changes ..⟩
  case write =>
    have run := (State.onWrite_of_answers answers (show wbit 2 1 = true by decide) _).trans
      (State.writeTblcmd_write rfl rfl rfl inside (show wbit 2 0 = false by decide) (by decide) shadow)
    exact .of_eq (congrArg Host.Outcome.next run) ⟨Changes.shadow, fun i hi => CfgSet.word_setEntry _ _ _ _ _ hi⟩
  case read =>
    have run := (State.onWrite_of_answers answers (show wbit 1 0 = true by decide) _).trans
      (State.writeTblcmd_read rfl rfl rfl inside (show wbit 1 0 = true by decide) (by decide))
    exact .of_eq (congrArg Host.Outcome.next run)
      ⟨.foldl (.refl _ s) fun u k => u.setReg_changes .., fun i hi => s.reg_loadTbldata _ _ _ _ _ hi⟩

end Sys2Proof.Machine
end
section
/-!
SUPPORT. Packets on their way into the crossbar (spec/04_links_and_routing.md, R54, R90, R95 to R99; spec/03_crossbar.md, R66): a
packet cut into cells, the injection of a client's packet, and the routing of a packet that waits on a link.
-/

namespace Sys2Proof.Machine

/-! ### A packet cut into cells (R54) -/

theorem flatten_chunks {n : Nat} {l : List α} {fuel : Nat} (long : l.length ≤ n * fuel) : (chunks n fuel l).flatten = l := by
  induction fuel generalizing l with
  | zero => exact (List.length_eq_zero_iff.mp (Nat.le_zero.mp long)).symm
  | succ fuel ih =>
    rw [chunks]
    split
    · rename_i empty
      exact (List.isEmpty_iff.mp empty).symm
    · rw [List.flatten_cons, ih (by rw [List.length_drop, Nat.mul_succ] at *; omega), List.take_append_drop]

/-- Every cell of a packet goes where the packet goes, with its CRC filled in. -/
theorem Packet.mem_cells {p : Packet} {src pid : Nat} {d : Dest} {dl : Bool} {ep : Nat} {circ : Option Nat} {c : Cell}
    (h : c ∈ p.cells src pid d dl ep circ) :
    c.dst = (if d.mcast then 0 else d.dst) ∧ c.sub = d.sub ∧ c.mcast = d.mcast ∧ c.hcrc = c.crc := by
  simp only [Packet.cells, List.mem_map] at h
  obtain ⟨part, _, rfl⟩ := h
  exact ⟨rfl, rfl, rfl, Cell.hcrc_seal _⟩

/-- The cells carry the payload in order. -/
theorem Packet.data_cells (p : Packet) (src pid : Nat) (d : Dest) (dl : Bool) (ep : Nat) (circ : Option Nat)
    (fits : p.payload.length ≤ 15360) : (p.cells src pid d dl ep circ).flatMap (·.data) = p.payload := by
  have parts (l : List (List Byte)) : l.zipIdx.flatMap (·.1) = l.flatten := by
    rw [List.flatMap_def, List.zipIdx_map_fst]
  unfold Packet.cells
  rw [List.flatMap_map]
  exact (parts _).trans (flatten_chunks fits)

/-! ### Injection (R95 to R99) -/

section
variable {s : State} {o : OutPkt} {h : PktHdr} (on : s.xbarOn = true) (alone : s.attach = [o]) (single : o.msg = none)
include on alone single

/-- The only packet of an attachment, outside any message, leaves it as its decision says. -/
theorem State.inject_goes {opens : Option Nat} {d : Decision} (act : s.injectAct o = .go h opens d) :
    s.inject o.src = State.applyInject { s with attach := [] } { o with pkt := { o.pkt with hdr := h } } d := by
  simp [State.inject, on, State.injectQueue, alone, act, single, takeFirst]

/-- One that is routed to a port slot enters the crossbar toward it. -/
theorem State.inject_hops {opens : Option Nat} {j sub : Nat} {circ : Option Nat} (unsigned : o.sig = none)
    (act : s.injectAct o = .go h opens (.hop j sub circ)) :
    s.inject o.src = State.enterXbar { s with attach := [] } o.src { o.pkt with hdr := h } ⟨j, sub, false, 0⟩ h.dstEp circ := by
  rw [State.inject_goes on alone single act]
  simp [State.applyInject, State.signalled, unsigned]

end

/-! ### Packets that wait on a link (R97 to R100) -/

/-- The decision that lets a packet go to `dest`. -/
def State.goDec (s : State) (f : Flit) (dest : Dest) (h : PktHdr) (ep : Nat) (dl : Bool) (circ : Option Nat) : RxDec :=
  { vc := f.vc, pid := s.nextId, hdr := h, job := f.job, dst := dest.dst, sub := dest.sub, mcast := dest.mcast,
    mgroup := dest.mgroup, dl := dl, drop := false, commit := false, ep := ep, circ := circ, pos := 0, last := 0, tag := f.pktTag }

/-- The entry of a flit whose packet begins with it. -/
def firstEntry (j l : Nat) (d : RxDec) (f : Flit) : XIn :=
  { i := j, cell := cellOfFlit j l d f, link := some (l, f.vc, f.dl), left := none, gone := [], pos := 0, last := f.pktCells }

/-- The only flit of a packet that goes on enters the crossbar and ends the packet's decision. -/
theorem State.placeFlit_enters {s : State} {n l j : Nat} {d : RxDec} {f : Flit} (decs : (s.link n l).rxDec = [d])
    (vc : d.vc = f.vc) (goes : d.drop = false) (first : d.pos = 0) (last : f.eop = true) :
    s.placeFlit n l j d f
      = State.setLink { s with xbar := { s.xbar with xin := s.xbar.xin ++ [firstEntry j l d f] } } n l
          { s.link n l with rxDec := [] } := by
  have link (x : Xbar) : State.link { s with xbar := x } n l = s.link n l := rfl
  simp [State.placeFlit, decs, vc, goes, first, last, link, firstEntry]

/-- The state with a decision recorded for the one packet that waits. -/
def State.recorded (s : State) (n l : Nat) (d : RxDec) : State :=
  State.numbered (s.setLink n l { s.link n l with rxDec := [d], rxWait := [], rxCut := [], rxHeld := [] })

/-- What a packet of one flit that goes on leaves: nothing of it on the link, and its cell at the input. -/
theorem State.recorded_enters {s : State} {n l j : Nat} {d : RxDec} {f : Flit} (vc : d.vc = f.vc) (goes : d.drop = false)
    (first : d.pos = 0) (last : f.eop = true) :
    let t := (s.recorded n l d).placeFlit n l j d f
    (t.link n l).rxWait = [] ∧ (t.link n l).rxDec = [] ∧ Changes [.links, .xbar, .nextId] s t
      ∧ t.xbar.xin = s.xbar.xin ++ [firstEntry j l d f] := by
  have link : (s.recorded n l d).link n l
      = { s.link n l with rxDec := [d], rxWait := [], rxCut := [], rxHeld := [] } := State.link_setLink_same ..
  have noted : Changes [.links, .xbar, .nextId] s (s.recorded n l d) :=
    .step ((s.setLink_changes ..).mono (by decide)) (State.numbered_changes _) (by decide)
  intro t
  have placed : t = _ := State.placeFlit_enters (j := j) (congrArg Link.rxDec link) vc goes first last
  rw [link] at placed
  rw [placed]
  refine ⟨?_, ?_, ?_, rfl⟩
  · rw [State.link_setLink_same]
  · rw [State.link_setLink_same]
  · exact .step (noted.step Changes.xbar (by decide)) (State.setLink_changes ..) (by decide)

section
variable {s : State} {n l j : Nat} {f : Flit}
  (wait : (s.link n l).rxWait = [f]) (dec : (s.link n l).rxDec = []) (cut : (s.link n l).rxCut = [])
  (held : (s.link n l).rxHeld = []) (last : f.eop = true)
include wait dec cut held last

theorem State.decided_hop_eq (j' sub : Nat) (circ : Option Nat) :
    let d := s.goDec f ⟨j', sub, false, 0⟩ (hdrOfBytes f.payload) (hdrOfBytes f.payload).dstEp (s.dateline n l j' sub f.dl) circ
    s.decided n l j f (.hop j' sub circ) = (s.recorded n l d).placeFlit n l j d f := by
  have alone : splitPacket f.vc [f] = ([f], []) := by simp [splitPacket, last]
  simp [State.decided, wait, dec, cut, held, alone, State.recorded, State.goDec]

theorem State.decided_unit_eq (dest : Dest) (u : Nat) :
    let d := s.goDec f dest { hdrOfBytes f.payload with dstEp := u } (hdrOfBytes f.payload).dstEp (dest.mcast && f.dl) none
    s.decided n l j f (.unit dest u) = (s.recorded n l d).placeFlit n l j d f := by
  have alone : splitPacket f.vc [f] = ([f], []) := by simp [splitPacket, last]
  simp [State.decided, wait, dec, cut, held, alone, State.recorded, State.goDec]

end

/-- PACKET_FORWARD decides a packet of one flit that is for another device. -/
theorem State.decidePacket_elsewhere {s : State} {n l j sub : Nat} {f : Flit} (on : s.xbarOn = true)
    (port : s.subportAt n l = some (j, sub)) (wait : (s.link n l).rxWait = [f]) (dec : (s.link n l).rxDec = [])
    (first : f.sop = true) (other : (hdrOfBytes f.payload).dstDev ≠ s.selfDev) :
    s.decidePacket n l f.vc false = s.decided n l j f (s.decideRx j f) := by
  simp [State.decidePacket, port, wait, on, dec, first, other]

/-! ### The disabled crossbar (R66) -/

section
variable {s : State} (off : s.xbarOn = false)
include off

theorem State.inject_waits (i : Nat) : s.inject i = s := if_pos (by simp [off])

theorem State.decidePacket_waits (n l vc : Nat) (here : Bool) : s.decidePacket n l vc here = s := by
  unfold State.decidePacket
  split
  · exact if_pos (by simp [off])
  · rfl

end

/-- Settles O36: injection by the cells that enter, forwarding and delivery by the decision recorded, and the wait of R66. -/
theorem packetsAreRouted : Obligations.PacketsAreRouted := by
  intro s i n l j sub j' sub' vc o h f circ d u
  refine ⟨fun on alone src single unsigned act => ?inject,
    fun on port wait dec cut held channel first last other hop => ?forward,
    fun on port wait dec cut held channel first last here unit plain => ?deliver, fun off => ?waits⟩
  case inject =>
    subst src
    have run := State.inject_hops on alone single unsigned act
    refine .of_eq (congrArg Host.Outcome.next run) ⟨rfl, ?_, _, rfl, fun e mem => ?_, fun fits => ?_⟩
    · exact .step (Changes.attach.mono (by decide)) (State.enterXbar_changes ..) (by decide)
    · obtain ⟨c, cell, rfl⟩ := List.mem_map.mp mem
      obtain ⟨dst, sub, mcast, crc⟩ := Packet.mem_cells cell
      exact ⟨rfl, dst, sub, mcast, crc⟩
    · rw [List.flatMap_map]
      exact Packet.data_cells _ _ _ _ _ _ _ fits
  case forward =>
    subst channel
    have run := (State.decidePacket_elsewhere on port wait dec first other).trans
      ((congrArg _ hop).trans (State.decided_hop_eq wait dec cut held last j' sub' circ))
    obtain ⟨waits, decs, frame, enters⟩ := State.recorded_enters (s := s) (n := n) (l := l) (j := j)
      (d := s.goDec f ⟨j', sub', false, 0⟩ (hdrOfBytes f.payload) (hdrOfBytes f.payload).dstEp (s.dateline n l j' sub' f.dl) circ)
      rfl rfl rfl last
    exact .of_eq (congrArg Host.Outcome.next run) ⟨waits, decs, frame, _, enters, rfl, rfl, rfl, rfl⟩
  case deliver =>
    subst channel
    have run := (State.decidePacket_here on port wait dec first here).trans
      ((congrArg _ unit).trans (State.decided_unit_eq wait dec cut held last d u))
    obtain ⟨waits, decs, frame, enters⟩ := State.recorded_enters (s := s) (n := n) (l := l) (j := j)
      (d := s.goDec f d { hdrOfBytes f.payload with dstEp := u } (hdrOfBytes f.payload).dstEp (d.mcast && f.dl) none)
      rfl rfl rfl last
    exact .of_eq (congrArg Host.Outcome.next run) ⟨waits, decs, frame, _, enters, rfl, if_neg (by simp [State.goDec, plain]), rfl⟩
  case waits =>
    exact ⟨congrArg Host.Outcome.next (State.inject_waits off i),
      congrArg Host.Outcome.next (State.decidePacket_waits off n l vc false),
      congrArg Host.Outcome.next (State.decidePacket_waits off n l vc true)⟩

end Sys2Proof.Machine
end
section
/-!
SUPPORT. Flits on a fabric subport (spec/04_links_and_routing.md, R83 to R85, R88): what every flit that leaves carries, which
flit that is, and what an arriving flit does to the link.
-/

namespace Sys2Proof.Machine

/-! ### A flit that leaves (R82, R83, R85) -/

theorem flitCrc_seal (f : Flit) : (flitSeal f).crc = flitCrc (flitSeal f) := rfl

/-- What `k'` sends from is what `k` sends from. -/
structure Link.SameTx (k k' : Link) : Prop where
  ctlOut : k'.ctlOut = k.ctlOut
  resend : k'.resend = k.resend
  replay : k'.replay = k.replay
  txSeq : k'.txSeq = k.txSeq
  txCr : k'.txCr = k.txCr

/-- `x` is the flit `f` with the ack and the CRC that every flit carries. -/
structure DressedFlit (f x : Flit) (ack : Nat) : Prop where
  ftype : x.ftype = f.ftype
  seq : x.seq = f.seq
  payload : x.payload = f.payload
  ack : x.ack = ack
  crc : x.crc = flitCrc x

theorem dress_sameTx (k : Link) (f : Flit) : k.SameTx (dress k f).1 := by
  unfold dress
  split <;> exact ⟨rfl, rfl, rfl, rfl, rfl⟩

theorem dress_dressed (k : Link) (f : Flit) : DressedFlit f (dress k f).2 ((k.rxSeq + 4095) % 4096) := by
  have sealed (g : Flit) (ftype : g.ftype = f.ftype) (seq : g.seq = f.seq) (payload : g.payload = f.payload) :
      DressedFlit f (flitSeal g) g.ack := ⟨ftype, seq, payload, rfl, flitCrc_seal g⟩
  unfold dress
  split <;> exact sealed _ rfl rfl rfl

theorem State.sendFlit_sameTx (s : State) (n l j : Nat) (k : Link) (f : Flit) (bad : Bool) :
    k.SameTx ((s.sendFlit n l j k f bad).link n l) := by
  obtain ⟨ctlOut, resend, replay, txSeq, txCr⟩ := dress_sameTx k f
  unfold State.sendFlit
  rw [State.link_setLink_same]
  exact ⟨ctlOut, resend, replay, txSeq, txCr⟩

theorem State.sendFlit_lastTx (s : State) (n l j : Nat) (k : Link) (f : Flit) :
    ∃ x, ((s.sendFlit n l j k f false).link n l).lastTx = some x ∧ DressedFlit f x ((k.rxSeq + 4095) % 4096) := by
  refine ⟨(dress k f).2, ?_, dress_dressed k f⟩
  unfold State.sendFlit
  rw [State.link_setLink_same]
  rfl

/-! ### The cell that leaves (R85, R88, R121) -/

/-- Only a cell that has its credit is chosen. -/
theorem Egress.nextTx_ready {g : Egress} {k : Link} {c : Cell} (next : g.nextTx k = some c) : txReady k c = true := by
  unfold Egress.nextTx at next
  split at next
  · rename_i mgmt
    cases next
    exact (Option.filter_eq_some_iff.mp mgmt).2
  · obtain ⟨pid, _, found⟩ := List.exists_of_findSome?_eq_some next
    split at found
    · split at found
      · rename_i ready
        cases found
        exact ((Bool.and_eq_true _ _).mp ready).2
      · cases found
    · cases found

theorem txReady_credit {k : Link} {c : Cell} (ready : txReady k c = true) : 0 < mget 0 k.txCr (2 * c.vc + bnat c.dl) := by
  have both := ready
  rw [txReady, Bool.and_eq_true] at both
  exact of_decide_eq_true both.1

/-- The link after a cell's flit is taken for transmission. -/
def Link.withCell (k : Link) (c : Cell) : Link :=
  { k with txSeq := (k.txSeq + 1) % 4096, replay := k.replay ++ [flitOfCell k.peerDev k.txSeq c],
           txCr := mset 0 k.txCr (2 * c.vc + bnat c.dl) (mget 0 k.txCr (2 * c.vc + bnat c.dl) - 1),
           txOpen := mset 0 k.txOpen c.vc (if c.eop then 0 else c.pid + 1) }

section
variable {s : State} {n l j sub : Nat} (port : s.subportAt n l = some (j, sub)) (mode : s.slotMode j = 0)
  (up : (s.link n l).st = .up)
include port mode up

/-! ### Which flit leaves (R83, R88) -/

theorem State.transmitFlit_control {g : Flit} {r : List Flit} (ctl : (s.link n l).ctlOut = g :: r) :
    s.transmitFlit n l = s.sendFlit n l j { s.link n l with ctlOut := r } g false := by
  simp [State.transmitFlit, port, mode, up, ctl]

variable (noCtl : (s.link n l).ctlOut = [])
include noCtl

theorem State.transmitFlit_again {g : Flit} {r : List Flit} (again : (s.link n l).resend = g :: r) :
    s.transmitFlit n l = s.sendFlit n l j { s.link n l with resend := r } { g with crdSel := 15, crdCnt := 0 } false := by
  simp [State.transmitFlit, port, mode, up, noCtl, again]

variable (noResend : (s.link n l).resend = [])
include noResend

theorem State.transmitFlit_idle
    (nothing : (s.egr n l).nextTx (s.link n l) = none ∨ s.replaySize j ≤ (s.link n l).replay.length) :
    s.transmitFlit n l = s.sendFlit n l j (s.link n l) (plainFlit 1) false := by
  have none_ : (if s.replaySize j ≤ (s.link n l).replay.length then none else (s.egr n l).nextTx (s.link n l)) = none := by
    split
    · rfl
    · exact nothing.resolve_right ‹_›
  simp [State.transmitFlit, port, mode, up, noCtl, noResend, none_]

theorem State.transmitFlit_cell {c : Cell} (room : (s.link n l).replay.length < s.replaySize j)
    (next : (s.egr n l).nextTx (s.link n l) = some c) : ∃ g, s.transmitFlit n l
      = (s.setEgr n l g).sendFlit n l j ((s.link n l).withCell c) (flitOfCell (s.link n l).peerDev (s.link n l).txSeq c) c.abt := by
  simp only [State.transmitFlit, port, mode, up, noCtl, noResend, Nat.not_le.mpr room, next, Link.withCell, ne_eq,
    not_true_eq_false, reduceCtorEq, or_false, or_self, if_false]
  exact ⟨_, rfl⟩

end

/-! ### Replay and acknowledgement at the transmitter (R83, R84) -/

/-- An ack that names the oldest flit of the replay buffer frees that flit. -/
theorem ackUpTo_oldest {k : Link} {a : Flit} {r : List Flit} (replay : k.replay = a :: r) :
    (ackUpTo k a.seq).replay = r := by
  simp [ackUpTo, replay]

theorem State.replayFrom_up {s : State} {n l ack : Nat} (up : (s.link n l).st = .up) (small : ack < 4096) :
    s.replayFrom n l ack
      = s.setLink n l { ackUpTo (s.link n l) ack with resend := (ackUpTo (s.link n l) ack).replay } := by
  simp [State.replayFrom, up, Nat.mod_eq_of_lt small]

/-! ### A flit that arrives (R84) -/

/-- What the receive side of `k'` expects is what that of `k` expects. -/
structure Link.SameRx (k k' : Link) : Prop where
  st : k'.st = k.st
  rxSeq : k'.rxSeq = k.rxSeq
  discarding : k'.discarding = k.discarding
  ackNew : k'.ackNew = k.ackNew

theorem Link.SameRx.refl (k : Link) : k.SameRx k := ⟨rfl, rfl, rfl, rfl⟩

theorem Link.SameRx.trans {k k' k'' : Link} (h : k.SameRx k') (h' : k'.SameRx k'') : k.SameRx k'' :=
  ⟨h'.st.trans h.st, h'.rxSeq.trans h.rxSeq, h'.discarding.trans h.discarding, h'.ackNew.trans h.ackNew⟩

theorem ackUpTo_sameRx (k : Link) (ack : Nat) : k.SameRx (ackUpTo k ack) := by
  unfold ackUpTo
  split <;> exact ⟨rfl, rfl, rfl, rfl⟩

/-- The link that has heard the ack and the credit return of a flit (R83, R85). -/
def Link.heard (k : Link) (f : Flit) : Link :=
  if f.crdSel = 15 then ackUpTo k f.ack
  else { ackUpTo k f.ack with txCr := mset 0 (ackUpTo k f.ack).txCr f.crdSel (mget 0 (ackUpTo k f.ack).txCr f.crdSel + f.crdCnt) }

theorem Link.heard_sameRx (k : Link) (f : Flit) : k.SameRx (k.heard f) := by
  have acked := ackUpTo_sameRx k f.ack
  unfold Link.heard
  split
  · exact acked
  · exact acked.trans ⟨rfl, rfl, rfl, rfl⟩

/-- The link that expects the flit after the one accepted. -/
def Link.next (k : Link) : Link :=
  { k with rxSeq := (k.rxSeq + 1) % 4096, discarding := false, reqsNoProgress := 0, ackNew := true }

/-- The receive side of subport (n, l) expects in `t` what it expects in `s`. -/
def State.SameRx (s t : State) (n l : Nat) : Prop := (s.link n l).SameRx (t.link n l)

section
variable {n l : Nat}

theorem State.SameRx.of_changes {w : List Field} {s t u : State} (h : s.SameRx t n l) (frame : Changes w t u)
    (links : Field.links ∉ w) : s.SameRx u n l := by
  have same : u.link n l = t.link n l := congrArg (mget Link.reset · (lk n l)) (frame.elsewhere .links links)
  rw [State.SameRx, same]
  exact h

theorem State.SameRx.setLink {s t : State} {k : Link} (h : (s.link n l).SameRx k) : s.SameRx (t.setLink n l k) n l := by
  rw [State.SameRx, State.link_setLink_same]
  exact h

theorem State.fromLane_sameRx (s : State) (j : Nat) : s.SameRx (s.fromLane n l j) n l := .setLink ⟨rfl, rfl, rfl, rfl⟩

theorem State.placeFlit_sameRx (s : State) (j : Nat) (d : RxDec) (f : Flit) : s.SameRx (s.placeFlit n l j d f) n l := by
  unfold State.placeFlit
  extract_lets d' last freed bytes x placed k on
  have credit : s.SameRx freed n l := .setLink ⟨rfl, rfl, rfl, rfl⟩
  have kept : s.SameRx placed n l := by
    unfold placed
    split
    · split
      · exact credit.of_changes (State.commitBytes_changes ..) (by decide)
      · exact credit
    · exact .of_changes (.refl _) Changes.xbar (by decide)
  split <;> exact .setLink (kept.trans ⟨rfl, rfl, rfl, rfl⟩)

theorem State.acceptData_sameRx (s : State) (j : Nat) (f : Flit) : s.SameRx (s.acceptData n l j f) n l := by
  unfold State.acceptData
  extract_lets held
  split
  rename_i s1 cut police
  have policed : s.SameRx s1 n l :=
    State.SameRx.of_changes (.refl _) (Changes.of_fst (w := [.regs, .polT]) (.iteFst (s.police_changes n l f) (.refl _ s)) police)
      (by decide)
  extract_lets k waits s2 k2
  have noted : s.SameRx s2 n l := by
    unfold s2
    split
    · exact .setLink (policed.trans ⟨rfl, rfl, rfl, rfl⟩)
    · split
      · exact policed
      · split
        · exact .setLink (policed.trans ⟨rfl, rfl, rfl, rfl⟩)
        · exact State.SameRx.setLink (t := s1) (policed.trans ⟨rfl, rfl, rfl, rfl⟩)
  have waits_ : s.SameRx (s2.setLink n l { k2 with rxWait := k2.rxWait ++ [f] }) n l :=
    .setLink (noted.trans ⟨rfl, rfl, rfl, rfl⟩)
  split
  · split
    · exact waits_
    · exact noted.trans (s2.placeFlit_sameRx ..)
  · exact waits_

end

/-- What FLIT_RECEIVE and the other operations of a link do to time and shutters does not come up while the link stays UP. -/
theorem State.watchLink_up {s t : State} {n l : Nat} (before : (s.link n l).st = .up) (after : (t.link n l).st = .up) :
    s.watchLink t n l = t := by
  simp [State.watchLink, before, after]

section
variable {s : State} {n l j sub : Nat} (port : s.subportAt n l = some (j, sub)) (mode : s.slotMode j = 0)
  (up : (s.link n l).st = .up)
include port mode up

/-- The expected data flit is accepted on the link that has heard it. -/
theorem State.receiveFlit_expected {f : Flit} (good : f.crc = flitCrc f) (data : f.ftype = 0)
    (expected : f.seq = (s.link n l).rxSeq) : s.receiveFlit n l f
      = ((s.fromLane n l j).setLink n l (((s.fromLane n l j).link n l).heard f).next).acceptData n l j f := by
  have lane : ((s.fromLane n l j).link n l).SameRx (((s.fromLane n l j).link n l).heard f) := Link.heard_sameRx ..
  obtain ⟨st, rxSeq, -, -⟩ := Link.SameRx.trans (s.fromLane_sameRx (n := n) (l := l) j) lane
  unfold State.receiveFlit
  simp -zeta only [port]
  extract_lets state s1 k acked heard next
  have live : ¬(s.slotMode j ≠ 0 ∨ state ≠ .up ∧ state ≠ .retraining) := by simp [mode, state, up]
  have heardUp : ¬heard.st ≠ .up := not_not.mpr (st.trans up)
  rw [if_neg live, if_neg (not_not.mpr good), if_neg (by omega), if_neg (not_not.mpr data), if_neg heardUp]
  exact if_pos (expected.trans rxSeq.symm)

/-- So the next is expected, and there is something new to acknowledge. -/
theorem State.receiveFlit_accepts {f : Flit} (good : f.crc = flitCrc f) (data : f.ftype = 0)
    (expected : f.seq = (s.link n l).rxSeq) :
    let k := (s.receiveFlit n l f).link n l
    k.st = .up ∧ k.rxSeq = ((s.link n l).rxSeq + 1) % 4096 ∧ k.discarding = false ∧ k.ackNew = true := by
  have heard := Link.SameRx.trans (s.fromLane_sameRx (n := n) (l := l) j) (Link.heard_sameRx _ f)
  intro k
  have placed : (((s.fromLane n l j).link n l).heard f).next.SameRx k := by
    have kept := State.acceptData_sameRx (n := n) (l := l)
      ((s.fromLane n l j).setLink n l (((s.fromLane n l j).link n l).heard f).next) j f
    rw [State.SameRx, State.link_setLink_same, ← State.receiveFlit_expected port mode up good data expected] at kept
    exact kept
  refine ⟨placed.st.trans (heard.st.trans up), placed.rxSeq.trans ?_, placed.discarding, placed.ackNew⟩
  rw [← heard.rxSeq]
  rfl

/-- A flit with a wrong CRC is counted and asked for again. -/
theorem State.receiveFlit_damaged {f : Flit} (bad : f.crc ≠ flitCrc f) :
    s.receiveFlit n l f = (((s.fromLane n l j).incCtr (R.portPCrcfailLo n l)).setLink n l
      { (s.fromLane n l j).link n l with testBad := true }).askReplay n l := by
  simp [State.receiveFlit, port, mode, up, bad]

end

theorem State.link_incCtr (s : State) (r : Reg) (n l : Nat) : (s.incCtr r).link n l = s.link n l := rfl

theorem State.ctr_setLink (s : State) (n l : Nat) (k : Link) (r : Reg) : (s.setLink n l k).ctr r = s.ctr r := rfl

theorem State.ctr_incCtr_same (s : State) (r : Reg) : (s.incCtr r).ctr r = s.ctr r + 1 := s.ctr_addCtr_same r 1

theorem State.ctr_incCtr_other (s : State) {r q : Reg} (h : r.addr ≠ q.addr) : (s.incCtr r).ctr q = s.ctr q :=
  s.ctr_addCtr_other 1 h

/-- Before the eighth in a row a replay request only queues its flit. -/
theorem State.askReplay_queues {s : State} {n l : Nat} (few : (s.link n l).reqsNoProgress + 1 < 8) :
    s.askReplay n l = State.incCtr (s.setLink n l { s.link n l with
      ctlOut := (s.link n l).ctlOut ++ [plainFlit 3], discarding := true,
      reqsNoProgress := (s.link n l).reqsNoProgress + 1 }) (R.portPReplayLo n l) :=
  if_neg (Nat.not_le.mpr few)

/-- What a link in UP that receives a damaged flit is left with. -/
theorem State.receiveFlit_refuses {s : State} {n l j sub : Nat} {f : Flit} (port : s.subportAt n l = some (j, sub))
    (mode : s.slotMode j = 0) (up : (s.link n l).st = .up) (bad : f.crc ≠ flitCrc f)
    (few : (s.link n l).reqsNoProgress + 1 < 8) :
    let t := s.receiveFlit n l f
    (t.link n l).st = .up ∧ (t.link n l).ctlOut = (s.link n l).ctlOut ++ [plainFlit 3]
      ∧ (t.link n l).rxSeq = (s.link n l).rxSeq ∧ t.ctr (R.portPCrcfailLo n l) = s.ctr (R.portPCrcfailLo n l) + 1 := by
  obtain ⟨x, y, lane⟩ : ∃ x y, (s.fromLane n l j).link n l = { s.link n l with rxLane := x, lastRx := y } :=
    ⟨_, _, State.link_setLink_same ..⟩
  have other : (R.portPReplayLo n l).addr ≠ (R.portPCrcfailLo n l).addr := by
    simp only [R.portPReplayLo, R.portPCrcfailLo]; omega
  intro t
  have asked : t = _ := State.receiveFlit_damaged port mode up bad
  rw [State.askReplay_queues (by rw [State.link_setLink_same, lane]; exact few)] at asked
  have link : t.link n l = { s.link n l with
      rxLane := x, lastRx := y, testBad := true, ctlOut := (s.link n l).ctlOut ++ [plainFlit 3], discarding := true,
      reqsNoProgress := (s.link n l).reqsNoProgress + 1 } := by
    rw [asked, State.link_incCtr, State.link_setLink_same, State.link_setLink_same, lane]
  refine ⟨by rw [link]; exact up, by rw [link], by rw [link], ?_⟩
  rw [asked, State.ctr_incCtr_other _ other, State.ctr_setLink, State.ctr_setLink, State.ctr_incCtr_same, State.fromLane,
    State.ctr_setLink]

/-- Settles O35: arrival by what the link then expects, departure by which flit leaves. -/
theorem flitsAreExchanged : Obligations.FlitsAreExchanged := by
  intro s n l j sub f port mode up k
  refine ⟨fun good data expected => ?accepted, fun bad few => ?refused, fun a r replay small => ?replay,
    fun new => ?ack, fun g r ctl => ?control, fun c ctl again room next => ?cell, fun g r ctl again => ?again,
    fun ctl again nothing => ?idle⟩
  case accepted =>
    obtain ⟨st, rxSeq, discarding, ackNew⟩ := State.receiveFlit_accepts port mode up good data expected
    exact .of_eq (congrArg Host.Outcome.next (State.watchLink_up up st)) ⟨rxSeq, discarding, ackNew⟩
  case refused =>
    obtain ⟨st, ctlOut, rxSeq, count⟩ := State.receiveFlit_refuses port mode up bad few
    exact .of_eq (congrArg Host.Outcome.next (State.watchLink_up up st)) ⟨ctlOut, rxSeq, count⟩
  case replay =>
    refine .of_eq (congrArg Host.Outcome.next (State.replayFrom_up up small)) ⟨?_, ?_, State.setLink_changes ..⟩
    · rw [State.link_setLink_same]
      exact ackUpTo_oldest replay
    · rw [State.link_setLink_same]
      exact ackUpTo_oldest replay
  case ack => exact .of_eq (congrArg Host.Outcome.next (if_pos ⟨up, new⟩)) rfl
  case control =>
    have run := State.transmitFlit_control port mode up ctl
    obtain ⟨x, sent, dressed⟩ := s.sendFlit_lastTx n l j { k with ctlOut := r } g
    exact .of_eq (congrArg Host.Outcome.next run) ⟨(State.sendFlit_sameTx ..).ctlOut,
      ⟨x, sent, dressed.ftype, dressed.ack, dressed.crc⟩, State.sendFlit_changes ..⟩
  case cell =>
    obtain ⟨g, run⟩ := State.transmitFlit_cell port mode up ctl again room next
    have sent := (s.setEgr n l g).sendFlit_sameTx n l j (k.withCell c) (flitOfCell k.peerDev k.txSeq c) c.abt
    have credit := txReady_credit (Egress.nextTx_ready next)
    refine .of_eq (congrArg Host.Outcome.next run) ⟨sent.txSeq, sent.replay, ?_, ?_⟩
    · rw [sent.txCr, Link.withCell, mget_mset_same]
      omega
    · exact .step ((s.setEgr_changes ..).mono (by decide)) (State.sendFlit_changes ..) (by decide)
  case again =>
    have run := State.transmitFlit_again port mode up ctl again
    have kept := s.sendFlit_sameTx n l j { k with resend := r } { g with crdSel := 15, crdCnt := 0 } false
    obtain ⟨x, sent, dressed⟩ := s.sendFlit_lastTx n l j { k with resend := r } { g with crdSel := 15, crdCnt := 0 }
    exact .of_eq (congrArg Host.Outcome.next run) ⟨State.sendFlit_changes .., kept.resend, kept.replay, kept.txSeq,
      x, sent, dressed.ftype, dressed.seq, dressed.payload, dressed.crc⟩
  case idle =>
    have run := State.transmitFlit_idle port mode up ctl again nothing
    have kept := s.sendFlit_sameTx n l j k (plainFlit 1) false
    obtain ⟨x, sent, dressed⟩ := s.sendFlit_lastTx n l j k (plainFlit 1)
    exact .of_eq (congrArg Host.Outcome.next run) ⟨State.sendFlit_changes .., kept.replay, kept.txSeq, x, sent, dressed.ftype,
      dressed.crc⟩

end Sys2Proof.Machine
end
section
/-!
SUPPORT. The flush of a fabric subport (spec/04_links_and_routing.md, R106; spec/12_synchronisation.md, R302, R310): what it does
to registers, the entry to FAILED, and what follows for time and shutters.
-/

namespace Sys2Proof.Machine

/-! ### Relations of registers through a flush (R106) -/

/-- A relation of states that holds of what changes no register, and of one such step after another. -/
structure RegRel (r : State → State → Prop) : Prop where
  trans : ∀ {s t u}, r s t → r t u → r s u
  quiet : ∀ {s t w}, Changes w s t → Field.regs ∉ w → r s t

theorem State.keepsRegs_regRel (lo hi : Nat) : RegRel (State.KeepsRegs lo hi) :=
  ⟨fun h k => h.trans k, fun h hw => h.keepsRegs hw⟩

/-- A bit stands in `t` as in `s`. -/
def State.SameBit (r : Reg) (i : Nat) (s t : State) : Prop := t.bit r i = s.bit r i

theorem State.sameBit_regRel (r : Reg) (i : Nat) : RegRel (State.SameBit r i) :=
  ⟨fun h k => Eq.trans k h, fun h hw => h.bit hw r i⟩

namespace RegRel

variable {r : State → State → Prop} (rel : RegRel r)
include rel

theorem refl (s : State) : r s s := rel.quiet (Changes.refl [] s) (by decide)

theorem foldl {s t : State} {g : State → α → State} {l : List α} (h : r s t) (k : ∀ u a, r u (g u a)) : r s (l.foldl g t) := by
  induction l generalizing t with
  | nil => exact h
  | cons a l ih => exact ih (rel.trans h (k t a))

/-- Taking cells writes registers only where it discards one (R424). -/
theorem takeCell (s : State) {j : Nat} (sub : Nat) (hop : ∀ u job, r u (u.hopDown (j / 6) job)) : r s (s.takeCell j sub) := by
  unfold State.takeCell
  split
  · exact rel.refl s
  · split
    · exact rel.refl s
    · extract_lets n l x s1 g c prog
      have set (g : Egress) : r s (s1.setEgr n l g) :=
        rel.quiet (w := [.xbar, .egress]) (.step (Changes.xbar.mono (by decide)) (s1.setEgr_changes ..) (by decide)) (by decide)
      split
      · exact rel.trans (set _) (hop ..)
      · exact rel.trans (set _) (hop ..)
      · exact set _

theorem takeAll (s : State) {j : Nat} (sub : Nat) (hop : ∀ u job, r u (u.hopDown (j / 6) job)) : r s (s.takeAll j sub) :=
  rel.foldl (rel.refl s) fun u _ => rel.takeCell u sub hop

end RegRel

/-- What a flush does once the output is down: the egress buffer and the link cleared, and the jobs marked. -/
def State.flushRest (s : State) (n l j sub : Nat) (st : LinkState) (jobs : List Nat) : State :=
  jobs.foldl (fun s job => s.portMark n job) (State.takeAll
    (State.setLink (s.setEgr n l { s.egr n l with fifo := [], sel := [], inProg := [] }) n l
      { Link.reset with st := st, peerDev := (s.link n l).peerDev, peerLane := (s.link n l).peerLane, testBad := true }) j sub)

theorem State.flushLink_eq (s : State) (n l j sub : Nat) (st : LinkState) : (s.flushLink n l j sub st).1
    = ((s.cutReceived n l j).outputDown j sub).flushRest n l j sub st (s.lostJobs n l j sub) := rfl

theorem State.flushRest_st (s : State) (n l j sub : Nat) (st : LinkState) (jobs : List Nat) :
    ((s.flushRest n l j sub st jobs).link n l).st = st := by
  unfold State.flushRest
  generalize cleared : State.setLink _ n l _ = t
  have frame : Changes [.regs, .xbar, .egress] t (jobs.foldl (fun s job => s.portMark n job) (t.takeAll j sub)) :=
    .foldl (t.takeAll_changes j sub) fun u job => (u.portMark_changes n job).mono (by decide)
  have link := congrArg (mget Link.reset · (lk n l)) (frame.elsewhere .links (by decide))
  refine (congrArg Link.st link).trans ?_
  rw [← cleared]
  exact congrArg Link.st (State.link_setLink_same ..)

theorem RegRel.flushRest {r : State → State → Prop} (rel : RegRel r) (s : State) {n j : Nat} (l sub : Nat) (st : LinkState)
    (jobs : List Nat) (hop : ∀ u job, r u (u.hopDown (j / 6) job)) (mark : ∀ u job, r u (State.portMark u n job)) :
    r s (s.flushRest n l j sub st jobs) := by
  refine rel.foldl (rel.trans ?_ (rel.takeAll _ sub hop)) mark
  exact rel.quiet (w := [.egress, .links]) (.step ((s.setEgr_changes ..).mono (by decide)) (State.setLink_changes ..) (by decide))
    (by decide)

theorem RegRel.flushLink {r : State → State → Prop} (rel : RegRel r) (s : State) {n j : Nat} (l sub : Nat) (st : LinkState)
    (down : r (s.cutReceived n l j) ((s.cutReceived n l j).outputDown j sub))
    (hop : ∀ u job, r u (u.hopDown (j / 6) job)) (mark : ∀ u job, r u (State.portMark u n job)) :
    r s (s.flushLink n l j sub st).1 := by
  rw [State.flushLink_eq]
  exact rel.trans (rel.trans (rel.quiet (s.cutReceived_changes ..) (by decide)) down) (rel.flushRest _ l sub st _ hop mark)

/-! ### The registers that a flush leaves -/

theorem State.portMark_keepsRegs (s : State) {n lo hi : Nat} (job : Nat) (below : hi ≤ portBase n + 0x1000) :
    State.KeepsRegs lo hi s (s.portMark n job) :=
  s.raise_keepsRegs _ (.inr (by simp only [R.portJmap]; omega))

/-- The registers of a port die between its fault record and its job map: those of its subports. -/
abbrev State.KeepsSubports (n : Nat) : State → State → Prop := State.KeepsRegs (portBase n + 0x28) (portBase n + 0x1000)

theorem State.hopDown_keepsSubports (s : State) (n job : Nat) : State.KeepsSubports n s (s.hopDown n job) :=
  (s.portMark_keepsRegs job (Nat.le_refl _)).trans (State.raise_keepsRegs _ _ (.inl (by simp only [R.portCause]; omega)))

theorem State.linkLost_keepsSubports (s : State) (n l : Nat) : State.KeepsSubports n s (s.linkLost n l) := by
  have record : State.KeepsSubports n s (s.portFault n fcLinkLost 0 l) :=
    .ite (s.setReg_keepsRegs _ (.inl (by simp only [R.portFault]; omega))) (.refl s)
  exact record.trans (State.raise_keepsRegs _ _ (.inl (by simp only [R.portCause]; omega)))

theorem State.linkLost_keepsCrossbar (s : State) (n l : Nat) : State.KeepsRegs 0 (portBase 0) s (s.linkLost n l) := by
  have record : State.KeepsRegs 0 (portBase 0) s (s.portFault n fcLinkLost 0 l) :=
    .ite (s.setReg_keepsRegs _ (.inr (by simp only [R.portFault, portBase]; omega))) (.refl s)
  exact record.trans (State.raise_keepsRegs _ _ (.inr (by simp only [R.portCause, portBase]; omega)))

theorem portCause_below_jmap (n w : Nat) : (R.portJmap n w).addr ≠ (R.portCause n).addr := by
  simp only [R.portJmap, R.portCause]
  omega

/-- A discarded cell sets `down` and no other cause of its die. -/
theorem State.hopDown_sameCause (s : State) (n job : Nat) {i : Nat} (other : i ≠ 0) :
    State.SameBit (R.portCause n) i s (s.hopDown n job) :=
  (State.bit_raise_other _ _ (by decide) other).trans (s.bit_raise_elsewhere _ (portCause_below_jmap n _) i)

theorem State.portMark_sameCause (s : State) (n job i : Nat) : State.SameBit (R.portCause n) i s (s.portMark n job) :=
  s.bit_raise_elsewhere _ (portCause_below_jmap n _) i

theorem State.linkLost_sameCause (s : State) (n l : Nat) {i : Nat} (other : i ≠ 0) :
    State.SameBit (R.portCause n) i s (s.linkLost n l) := by
  have record : State.SameBit (R.portCause n) i s (s.portFault n fcLinkLost 0 l) := by
    unfold State.portFault
    split
    · exact s.bit_setReg_other _ (by simp only [R.portFault, R.portCause]; omega) i
    · rfl
  exact (State.bit_raise_other _ _ (by decide) other).trans record

theorem State.linkLost_down (s : State) (n l : Nat) : (s.linkLost n l).bit (R.portCause n) 0 = true :=
  State.bit_raise_same _ _ (by decide)

theorem State.KeepsRegs.mono {lo hi lo' hi' : Nat} {s t : State} (h : State.KeepsRegs lo hi s t) (hl : lo ≤ lo') (hh : hi' ≤ hi) :
    State.KeepsRegs lo' hi' s t :=
  ⟨fun r l u => h.reg r (hl.trans l) (u.trans_le hh)⟩

/-- The port slots of a state of the same variant. -/
theorem State.isPortSlot_congr {s t : State} (variant : t.variant = s.variant) (j : Nat) : t.isPortSlot j = s.isPortSlot j := by
  rw [State.isPortSlot, State.ports, variant]
  rfl

theorem State.flushLink_st (s : State) (n l j sub : Nat) (st : LinkState) : ((s.flushLink n l j sub st).1.link n l).st = st := by
  rw [State.flushLink_eq]
  exact State.flushRest_st ..

section
variable {s : State} {n l j sub : Nat} (at_ : s.Subport n l j sub)
include at_

theorem State.Subport.cutReceived_port : (s.cutReceived n l j).isPortSlot j = true :=
  (State.isPortSlot_congr ((s.cutReceived_changes n l j).elsewhere .variant (by decide)) j).trans at_.port

/-- A flush of the subport leaves the registers of the subports. -/
theorem State.flushLink_keepsSubports (st : LinkState) : State.KeepsSubports n s (s.flushLink n l j sub st).1 := by
  refine (State.keepsRegs_regRel _ _).flushLink s l sub st ?_ (fun u job => ?_) fun u job =>
    u.portMark_keepsRegs job (Nat.le_refl _)
  · exact (State.outputDown_keepsPorts at_.cutReceived_port at_.small _).mono (by unfold portBase; omega) (Nat.le_refl _)
  · rw [at_.die_eq]
    exact u.hopDown_keepsSubports n job

/-- It sets no cause of the die but `down`. -/
theorem State.flushLink_sameCause (st : LinkState) {i : Nat} (other : i ≠ 0) :
    State.SameBit (R.portCause n) i s (s.flushLink n l j sub st).1 := by
  refine (State.sameBit_regRel _ i).flushLink s l sub st ?_ (fun u job => ?_) fun u job => u.portMark_sameCause n job i
  · exact (State.outputDown_keepsPorts at_.cutReceived_port at_.small ((R.portCause n).addr + 1)).bit
      (by simp only [R.portCause, portBase]; omega) (Nat.lt_succ_self _) i
  · rw [at_.die_eq]
    exact u.hopDown_sameCause n job other

end

theorem State.outputDown_isDown {s : State} {j sub : Nat} (port : s.isPortSlot j = true) (small : sub < 4) :
    (s.outputDown j sub).outDown j sub = true := by
  cases down : s.outDown j sub with
  | true =>
    rw [State.outputDown, if_pos (by simp [down])]
    exact down
  | false =>
    exact (State.bit_of_regs (State.outputDown_flushes port small down).regs ..).trans (s.downed_bits j small).1

/-- The output is down after the flush. -/
theorem State.flushLink_outDown {s : State} {n l j sub : Nat} (at_ : s.Subport n l j sub) (st : LinkState) :
    (s.flushLink n l j sub st).1.outDown j sub = true := by
  have port := at_.cutReceived_port
  have marks (u : State) (job : Nat) : State.KeepsRegs 0 (portBase 0) u (State.portMark u n job) :=
    u.portMark_keepsRegs job (by unfold portBase; omega)
  have rest := (State.keepsRegs_regRel 0 (portBase 0)).flushRest ((s.cutReceived n l j).outputDown j sub) (n := n) (j := j) l sub
    st (s.lostJobs n l j sub) (fun u job => u.hopDown_keepsRegs (j / 6) job) marks
  rw [State.flushLink_eq]
  exact (rest.bit (Nat.zero_le _) (s.outctl_below_ports at_.port) sub).trans (State.outputDown_isDown port at_.small)

/-! ### The entry to FAILED (R106) -/

theorem State.failLink_eq (s : State) (n l j sub : Nat) :
    s.failLink n l j sub = ((s.flushLink n l j sub .failed).1.linkLost n l).raise R.devEvent 4 := rfl

theorem devEvent_below_ports (n o : Nat) : R.devEvent.addr ≠ portBase n + o := by
  simp only [R.devEvent, portBase]
  omega

/-- What a subport is that has failed. -/
structure State.Failed (t : State) (n l j sub : Nat) : Prop where
  st : (t.link n l).st = .failed
  lost : t.bit (R.portCause n) 0 = true
  event : t.bit R.devEvent 4 = true
  down : t.outDown j sub = true

theorem State.failLink_failed {s : State} {n l j sub : Nat} (at_ : s.Subport n l j sub) : (s.failLink n l j sub).Failed n l j sub := by
  rw [State.failLink_eq]
  constructor
  case st =>
    generalize flushed : (s.flushLink n l j sub .failed).1 = t
    have frame : Changes [.regs] t ((t.linkLost n l).raise R.devEvent 4) := (t.linkLost_changes n l).trans (State.raise_changes ..)
    refine (congrArg (fun m => (mget Link.reset m (lk n l)).st) (frame.elsewhere .links (by decide))).trans ?_
    rw [← flushed]
    exact s.flushLink_st n l j sub .failed
  case lost => exact (State.bit_raise_elsewhere _ _ (devEvent_below_ports n 0x20) _).trans (State.linkLost_down ..)
  case event => exact State.bit_raise_same _ _ (by decide)
  case down =>
    have below := s.outctl_below_ports at_.port
    have record (u : State) : State.KeepsRegs 0 (portBase 0) u (u.linkLost n l) := u.linkLost_keepsCrossbar n l
    refine (State.bit_raise_elsewhere _ _ (by simp only [R.devEvent, R.xbarOutctl]; omega) _).trans ?_
    exact ((record _).bit (Nat.zero_le _) below sub).trans (State.flushLink_outDown at_ .failed)

/-- It sets no cause of the die but `down`, either. -/
theorem State.failLink_sameCause {s : State} {n l j sub : Nat} (at_ : s.Subport n l j sub) {i : Nat} (other : i ≠ 0) :
    State.SameBit (R.portCause n) i s (s.failLink n l j sub) := by
  rw [State.failLink_eq]
  exact (State.bit_raise_elsewhere _ _ (devEvent_below_ports n 0x20) _).trans
    ((State.linkLost_sameCause _ n l other).trans (State.flushLink_sameCause at_ .failed other))

/-! ### What follows for time and shutters (R302, R310) -/

section
variable {lo hi : Nat} (outside : hi ≤ 0x20000 ∨ 0x21000 ≤ lo)
include outside

theorem State.failShutter_keepsRegs (s : State) (b code : Nat) : State.KeepsRegs lo hi s (s.failShutter b code) := by
  have job : s.shutJob b < 2 ^ 12 := Nat.mod_lt _ (by decide)
  have away {a : Nat} (above : 0x20000 ≤ a) (below : a < 0x21000) : a < lo ∨ hi ≤ a := by omega
  have timeFault (u : State) (job : Nat) (small : job < 2 ^ 12) : State.KeepsRegs lo hi u (u.timeFault b code job) := by
    unfold State.timeFault
    refine .trans (.trans (.ite (u.setReg_keepsRegs _ (away (by decide) (by decide))) (.refl u))
      (State.raise_keepsRegs _ _ (away ?_ ?_))) (State.raise_keepsRegs _ _ (away (by decide) (by decide)))
    · simp only [R.timeJmap]; omega
    · simp only [R.timeJmap]; omega
  unfold State.failShutter
  extract_lets h
  split
  · exact .refl s
  · exact .refl s
  · exact .trans ((s.setShutter_changes ..).keepsRegs (by decide)) (timeFault _ _ job)

/-- The window of fabric time holds every register that is written. -/
theorem State.watchLink_keepsRegs (s t : State) (n l : Nat) : State.KeepsRegs lo hi t (s.watchLink t n l) := by
  have hold (u : State) : State.KeepsRegs lo hi u u.enterHoldover := by
    unfold State.enterHoldover
    refine .ite (.trans (Changes.time.keepsRegs (by decide)) (State.raise_keepsRegs _ _ ?_)) (.refl u)
    simp only [Reg.outside, R.timeCause]
    omega
  unfold State.watchLink
  extract_lets a b t1
  have held : State.KeepsRegs lo hi t t1 := .ite (hold t) (.refl t)
  refine .ite (held.foldl fun u b => ?_) held
  exact .ite (u.failShutter_keepsRegs outside b _) (.refl u)

end

theorem State.watchLink_link (s t : State) (n l : Nat) : (s.watchLink t n l).link n l = t.link n l :=
  congrArg (mget Link.reset · (lk n l)) ((s.watchLink_changes t n l).elsewhere .links (by decide))

theorem State.watchLink_port (s t : State) (n l : Nat) {r : Reg} {m o : Nat} (addr : r.addr = portBase m + o) :
    (s.watchLink t n l).reg r = t.reg r :=
  (s.watchLink_keepsRegs (lo := portBase 0) (.inr (by decide)) t n l).reg r (by rw [addr]; unfold portBase; omega)
    (Nat.lt_succ_self _)

/-- Time and shutters leave a subport that has failed as it is. -/
theorem State.Failed.watched {s t : State} {n l j sub : Nat} (h : t.Failed n l j sub) : (s.watchLink t n l).Failed n l j sub := by
  constructor
  case st => rw [State.watchLink_link, h.st]
  case lost => exact (congrArg (wbit · 0) (s.watchLink_port t n l (o := 0x20) rfl)).trans h.lost
  case event =>
    exact ((s.watchLink_keepsRegs (lo := 0) (hi := 0x20000) (.inl (Nat.le_refl _)) t n l).bit (Nat.zero_le _) (by decide) 4).trans
      h.event
  case down =>
    refine ((s.watchLink_keepsRegs (lo := 0x21000) (.inr (Nat.le_refl _)) t n l).bit ?_ (Nat.lt_succ_self _) sub).trans h.down
    simp only [R.xbarOutctl]
    omega

end Sys2Proof.Machine
end
section
/-!
SUPPORT. The states of a fabric subport (spec/04_links_and_routing.md, R85, R86, R104, R105): the write of its CFG register,
training and retraining.
-/

namespace Sys2Proof.Machine

/-! ### PORTn_Pl_CFG (R86, R104) -/

/-- The credit counts stand in none of the CFG registers. -/
theorem State.crdCount_writePortCfg (s : State) (n l : Nat) (w : Word) (m : Nat) {key : Nat} (pair : key < 10) :
    (s.writeReg (R.portPCfg n l) w).crdCount n m key = s.crdCount n m key := by
  have reg : (s.writeReg (R.portPCfg n l) w).reg (R.portPCrd n m (key / 2)) = s.reg (R.portPCrd n m (key / 2)) :=
    s.reg_writeReg_other w (by simp only [R.portPCfg, R.portPCrd]; omega)
  rw [State.crdCount, State.fld, State.fld, reg]
  rfl

theorem State.creditLimits_eq (s : State) (n j l : Nat) : s.creditLimits n j l
    = ((((List.range 10).map (s.crdCount n l)).all fun c => 16 ≤ c && c ≤ 2048)
      && decide (((List.range (s.subports j)).flatMap fun x => (List.range 10).map (s.crdCount n (s.firstLane j x))).sum ≤ 2048)) := by
  rw [List.all_map]
  rfl

section
variable {s : State} {n l j sub : Nat} {w : Word} (found : s.subportAt n l = some (j, sub))
include found

theorem State.slotCfg_writePortCfg (j' : Nat) : (s.writeReg (R.portPCfg n l) w).slotCfg j' = s.slotCfg j' := by
  have lane := (State.subport_of_subportAt found).lane
  exact s.slotCfg_setReg (o := 0x100 + l * 0x40) _ (Nat.add_assoc ..) (by omega) (by omega) j'

theorem State.subportAt_writePortCfg : (s.writeReg (R.portPCfg n l) w).subportAt n l = some (j, sub) := by
  have still := State.subportAt_congr (s := s) (t := s.writeReg (R.portPCfg n l) w) (n := n) (l := l) rfl
    (State.slotCfg_writePortCfg found _)
  exact still.trans found

theorem State.creditLimits_writePortCfg : (s.writeReg (R.portPCfg n l) w).creditLimits n j l = s.creditLimits n j l := by
  have cfg := State.slotCfg_writePortCfg found (w := w) j
  have counts (m : Nat) : (List.range 10).map ((s.writeReg (R.portPCfg n l) w).crdCount n m)
      = (List.range 10).map (s.crdCount n m) :=
    List.map_congr_left fun key pair => s.crdCount_writePortCfg n l w m (List.mem_range.mp pair)
  rw [State.creditLimits_eq, State.creditLimits_eq, counts, State.subports_congr cfg]
  simp only [counts, State.firstLane_congr cfg]

/-! ### A request to come up (R86, R353) -/

section
variable (mode : s.slotMode j = 0) (up : w.getLsbD 0 = true)
include mode up

theorem State.writePortCfg_refused (limits : s.creditLimits n j l = false) :
    s.writePortCfg n l w = (s.writeReg (R.portPCfg n l) w).raise (R.portCause n) 5 := by
  simp [State.writePortCfg, wbit_eq, up, found, mode, State.creditLimits_writePortCfg found, limits]

variable (limits : s.creditLimits n j l = true)
include limits

/-- A FAULTED device stores the request and trains nothing (R353). -/
theorem State.writePortCfg_faulted (faulted : s.dev = .faulted) :
    s.writePortCfg n l w = s.writeReg (R.portPCfg n l) w := by
  have dev : (s.writeReg (R.portPCfg n l) w).dev = .faulted := faulted
  simp [State.writePortCfg, wbit_eq, up, found, mode, State.creditLimits_writePortCfg found, limits, dev]

theorem State.writePortCfg_trains (healthy : s.dev ≠ .faulted) (down : (s.link n l).st = .down) :
    s.writePortCfg n l w = (s.writeReg (R.portPCfg n l) w).setLink n l (trainingLink (s.link n l)) := by
  have dev : (s.writeReg (R.portPCfg n l) w).dev ≠ .faulted := healthy
  simp [State.writePortCfg, wbit_eq, up, found, mode, State.creditLimits_writePortCfg found, limits, dev, down]

end

/-- A request cleared takes the subport to DOWN, and of its die's subport registers only the one written changes. -/
theorem State.writePortCfg_releases (clear : w.getLsbD 0 = false) (busy : (s.link n l).st ≠ .down) :
    ((s.writePortCfg n l w).link n l).st = .down
      ∧ State.KeepsSubports n (s.writeReg (R.portPCfg n l) w) (s.writePortCfg n l w) := by
  have low : wbit w 0 = false := (wbit_eq w 0).trans clear
  have still := State.subportAt_writePortCfg found (w := w)
  by_cases failed : (s.link n l).st = .failed
  · have run : s.writePortCfg n l w
        = (s.writeReg (R.portPCfg n l) w).setLink n l { s.link n l with st := .down } := by
      simp [State.writePortCfg, low, still, failed]
    rw [run, State.link_setLink_same]
    exact ⟨rfl, (State.setLink_changes ..).keepsRegs (by decide)⟩
  · have at_ := State.subport_of_subportAt still
    have flushed := State.flushLink_keepsSubports at_ .down
    have st := (s.writeReg (R.portPCfg n l) w).flushLink_st n l j sub .down
    have run : s.writePortCfg n l w
        = if ((s.writeReg (R.portPCfg n l) w).flushLink n l j sub .down).2.isEmpty
          then ((s.writeReg (R.portPCfg n l) w).flushLink n l j sub .down).1
          else ((s.writeReg (R.portPCfg n l) w).flushLink n l j sub .down).1.linkLost n l := by
      simp [State.writePortCfg, low, still, failed, busy]
    rw [run]
    split
    · exact ⟨st, flushed⟩
    · refine ⟨?_, flushed.trans (State.linkLost_keepsSubports ..)⟩
      rw [State.link, (State.linkLost_changes ..).elsewhere .links (by decide)]
      exact st

end

/-! ### Training and retraining (R85, R104, R105) -/

/-- The link that has learnt its peer. -/
def Link.met (k : Link) (dev lane : Nat) : Link := { k with peerDev := dev % 1024, peerLane := lane % 512 }

/-- The whole count of each pair, to return (R85). -/
def State.wholeCredit (s : State) (n l : Nat) : SMap Nat :=
  (List.range 10).foldl (fun m key => mset 0 m key (s.crdCount n l key)) []

theorem State.wholeCredit_pair (s : State) (n l : Nat) {key : Nat} (pair : key < 10) :
    mget 0 (s.wholeCredit n l) key = s.crdCount n l key := by
  have all := mget_foldl_mset 0 0 (s.crdCount n l) [] pair
  simpa only [State.wholeCredit, Nat.zero_add] using all

section
variable {s : State} {n l j sub pd pl : Nat} (found : s.subportAt n l = some (j, sub)) (training : (s.link n l).st = .training)
include found training

theorem State.trained_up (peer : wbit (s.reg (R.portPPeer n l)) 31 = false
      ∨ (wfld (s.reg (R.portPPeer n l)) 19 10 = pd ∧ wfld (s.reg (R.portPPeer n l)) 8 0 = pl)) :
    s.trained n l pd pl = (s.setLink n l ((s.link n l).met pd pl)).setLink n l
      { (s.link n l).met pd pl with st := .up, crdRet := s.wholeCredit n l } := by
  have accepts : ¬((wbit (s.reg (R.portPPeer n l)) 31
      && (wfld (s.reg (R.portPPeer n l)) 19 10 != pd || wfld (s.reg (R.portPPeer n l)) 8 0 != pl)) = true) := by
    rcases peer with open_ | ⟨dev, lane⟩
    · simp [open_]
    · simp [dev, lane]
  unfold State.trained
  simp only [found]
  exact (if_neg (not_not.mpr training)).trans (if_neg accepts)

/-- Another peer than the one expected: the cause of it, and the entry to FAILED. -/
theorem State.trained_fails (named : wbit (s.reg (R.portPPeer n l)) 31 = true)
    (other : wfld (s.reg (R.portPPeer n l)) 19 10 ≠ pd) :
    s.trained n l pd pl
      = ((s.setLink n l ((s.link n l).met pd pl)).raise (R.portCause n) 2).failLink n l j sub := by
  have refuses : (wbit (s.reg (R.portPPeer n l)) 31
      && (wfld (s.reg (R.portPPeer n l)) 19 10 != pd || wfld (s.reg (R.portPPeer n l)) 8 0 != pl)) = true := by
    simp [named, other]
  unfold State.trained
  simp only [found]
  exact (if_neg (not_not.mpr training)).trans (if_pos refuses)

end

theorem State.retrain_up {s : State} {n l : Nat} (up : (s.link n l).st = .up) : s.retrain n l
    = (((s.setLink n l { s.link n l with st := .retraining, testBad := true }).count (R.portPRetrains n l)).raise
        (R.portCause n) 1).raise R.devEvent 4 := if_pos up

/-- A retrain is counted and noted. -/
theorem State.retrain_effect {s : State} {n l : Nat} (up : (s.link n l).st = .up) :
    ((s.retrain n l).link n l).st = .retraining
      ∧ (s.retrain n l).reg (R.portPRetrains n l) = s.reg (R.portPRetrains n l) + 1
      ∧ (s.retrain n l).bit (R.portCause n) 1 = true := by
  have event (o : Nat) := devEvent_below_ports n o
  have cause : (R.portCause n).addr ≠ (R.portPRetrains n l).addr := by simp only [R.portCause, R.portPRetrains]; omega
  have away : R.devEvent.addr ≠ (R.portPRetrains n l).addr := by
    rw [show (R.portPRetrains n l).addr = portBase n + (0x12c + l * 0x40) from Nat.add_assoc ..]
    exact event _
  rw [State.retrain_up up]
  refine ⟨?_, ?_, ?_⟩
  · exact (congrArg Link.st (s.link_setLink_same n l { s.link n l with st := .retraining, testBad := true })).trans rfl
  · rw [State.reg_raise_other _ _ away, State.reg_raise_other _ _ cause, State.count, State.reg_setReg_same]
    rfl
  · rw [State.bit_raise_elsewhere _ _ (event 0x20)]
    exact State.bit_raise_same _ _ (by decide)

/-- Settles O34: each change of state by the lemma of its operation. -/
theorem linkStatesFollow : Obligations.LinkStatesFollow := by
  intro s n l j sub w pd pl on booted found mode k p
  have at_ := State.subport_of_subportAt found
  have answers := at_.answers on booted
  have low : wbit w 0 = w.getLsbD 0 := wbit_eq w 0
  have requests (up : w.getLsbD 0 = true) : exec (.linkUpReq n l w) s = .next (s.writePortCfg n l w) := by
    have meant : (decide (l < 24) && wbit w 0) = true := by simp only [at_.lane, low, up, decide_true, Bool.and_self]
    exact congrArg Host.Outcome.next (State.onWrite_of_answers answers meant _)
  refine ⟨fun up limits => ?refused, fun up faulted limits => ?faulted, fun healthy => ⟨fun up down limits => ?trains,
    fun clear busy => ?release, fun training dev lane peer => ?up, fun training named other => ?failed, fun up => ?retrain,
    fun retraining => ?back, fun retraining => ?timeout⟩⟩
  case refused =>
    refine .of_eq ((requests up).trans (congrArg _ (State.writePortCfg_refused found mode up limits)))
      ⟨State.bit_raise_same _ _ (by decide), rfl, ?_⟩
    exact (s.writeReg_changes ..).trans (State.raise_changes ..)
  case faulted =>
    exact .of_eq ((requests up).trans (congrArg _ (State.writePortCfg_faulted found mode up limits faulted)))
      ⟨rfl, s.writeReg_changes ..⟩
  case trains =>
    refine .of_eq ((requests up).trans (congrArg _ (State.writePortCfg_trains found mode up limits healthy down))) ⟨?_, ?_⟩
    · rw [State.link_setLink_same]
      rfl
    · exact .step ((s.writeReg_changes ..).mono (by decide)) (State.setLink_changes ..) (by decide)
  case release =>
    have meant : (decide (l < 24) && !wbit w 0) = true := by
      simp only [at_.lane, low, clear, decide_true, Bool.not_false, Bool.and_self]
    have run := State.onWrite_of_answers answers meant (s.watchLink (s.writePortCfg n l w) n l)
    obtain ⟨st, kept⟩ := State.writePortCfg_releases found clear busy
    have stored : (s.writeReg (R.portPCfg n l) w).bit (R.portPCfg n l) 0 = w.getLsbD 0 :=
      s.bit_writeReg_same (show (0x3f : Word).getLsbD 0 = true by decide) rfl w
    have lane := at_.lane
    have inside : portBase n + 0x28 ≤ (R.portPCfg n l).addr ∧ (R.portPCfg n l).addr < portBase n + 0x1000 := by
      simp only [R.portPCfg]
      omega
    refine .of_eq (congrArg Host.Outcome.next run) ⟨by rw [State.watchLink_link, st], ?_⟩
    refine (congrArg (wbit · 0) (s.watchLink_port _ n l (m := n) (o := 0x100 + l * 0x40) (Nat.add_assoc ..))).trans ?_
    exact (kept.bit inside.1 inside.2 0).trans (stored.trans clear)
  case up =>
    have run := State.trained_up found training peer
    have st : ((s.trained n l pd pl).link n l).st = .up := by rw [run, State.link_setLink_same]
    have quiet : s.watchLink (s.trained n l pd pl) n l = s.trained n l pd pl := by
      have before : (s.link n l).st = .training := training
      simp [State.watchLink, before, st]
    refine .of_eq (congrArg Host.Outcome.next (quiet.trans run)) ⟨?_, ?_, ?_, fun key pair => ?_, ?_⟩
    · rw [State.link_setLink_same]
    · rw [State.link_setLink_same]
      exact Nat.mod_eq_of_lt dev
    · rw [State.link_setLink_same]
      exact Nat.mod_eq_of_lt lane
    · rw [State.link_setLink_same]
      exact s.wholeCredit_pair n l pair
    · exact (s.setLink_changes ..).trans (State.setLink_changes ..)
  case failed =>
    have still := State.subportAt_congr (s := s) (t := (s.setLink n l (k.met pd pl)).raise (R.portCause n) 2) (n := n) (l := l) rfl
      ((s.setLink n l (k.met pd pl)).slotCfg_setReg (r := R.portCause n) (o := 0x20) _ rfl (by decide) (by decide) _)
    have there := State.subport_of_subportAt (still.trans found)
    have failed : (s.trained n l pd pl).Failed n l j sub ∧ (s.trained n l pd pl).bit (R.portCause n) 2 = true := by
      rw [State.trained_fails found training named other]
      exact ⟨State.failLink_failed there,
        (State.failLink_sameCause there (by decide)).trans (State.bit_raise_same _ _ (by decide))⟩
    have watched := failed.1.watched (s := s)
    refine .of_eq rfl ⟨watched.st, ?_, watched.lost⟩
    exact (congrArg (wbit · 2) (s.watchLink_port _ n l (m := n) (o := 0x20) rfl)).trans failed.2
  case retrain =>
    obtain ⟨st, count, cause⟩ := State.retrain_effect up
    refine .of_eq rfl ⟨by rw [State.watchLink_link, st], ?_, ?_⟩
    · rw [s.watchLink_port _ n l (m := n) (o := 0x12c + l * 0x40) (Nat.add_assoc ..), count]
    · exact (congrArg (wbit · 1) (s.watchLink_port _ n l (m := n) (o := 0x20) rfl)).trans cause
  case back => exact .of_eq (congrArg Host.Outcome.next (if_pos retraining)) rfl
  case timeout =>
    have run : exec (.retrainTimeout n l) s = .next (s.watchLink (s.failLink n l j sub) n l) := by
      have waits : (s.link n l).st = .retraining := retraining
      refine congrArg Host.Outcome.next ?_
      simp [found, waits]
    have failed := (State.failLink_failed at_).watched (s := s)
    exact .of_eq run ⟨failed.st, failed.lost, failed.event, failed.down⟩

end Sys2Proof.Machine
end
section
/-!
SUPPORT. Sparse maps that are written over a list or filtered, and the fields of a register that the device sets.
-/

namespace Sys2Proof.Machine

/-! ### Maps -/

theorem mget_foldl_mset_other [DecidableEq α] (d : α) (key : β → Nat) (val : β → α) {l : List β} {k : Nat}
    (other : ∀ b ∈ l, key b ≠ k) (m : SMap α) :
    mget d (l.foldl (fun m b => mset d m (key b) (val b)) m) k = mget d m k := by
  induction l generalizing m with
  | nil => rfl
  | cons b l ih =>
    rw [List.foldl_cons, ih fun c hc => other c (.tail _ hc)]
    exact mget_mset_other _ _ _ (other b (.head _))

theorem mget_foldl_mset_mem [DecidableEq α] (d : α) (key : β → Nat) (val : β → α) {l : List β} {b : β} (mem : b ∈ l)
    (own : ∀ c ∈ l, key c = key b → c = b) (m : SMap α) :
    mget d (l.foldl (fun m b => mset d m (key b) (val b)) m) (key b) = val b := by
  induction l generalizing m with
  | nil => cases mem
  | cons c l ih =>
    rw [List.foldl_cons]
    by_cases again : b ∈ l
    · exact ih again (fun c hc => own c (.tail _ hc)) _
    · obtain rfl : b = c := (List.mem_cons.mp mem).resolve_right again
      rw [mget_foldl_mset_other d key val fun c hc same => again (own c (.tail _ hc) same ▸ hc), mget_mset_same]

theorem mget_mfilter (d : α) (p : Nat → Bool) (m : SMap α) (k : Nat) :
    mget d (mfilter p m) k = if p k then mget d m k else d := by
  induction m with
  | nil => simp [mfilter, mget]
  | cons e m ih =>
    obtain ⟨a, v⟩ := e
    have head : mfilter p ((a, v) :: m) = if p a then (a, v) :: mfilter p m else mfilter p m := List.filter_cons
    rw [head]
    by_cases same : a = k
    · subst same
      by_cases keep : p a = true
      · simp [keep, mget]
      · simp [keep, ih]
    · by_cases keep : p a = true <;> simp [keep, mget, same, ih]

/-! ### Fields -/

theorem getLsbD_fldMask {hi lo i : Nat} (top : hi < 32) : (fldMask hi lo).getLsbD i = decide (lo ≤ i ∧ i ≤ hi) := by
  rw [fldMask, BitVec.getLsbD_ofNat, Nat.testBit_mul_two_pow, Nat.testBit_two_pow_sub_one, Bool.eq_iff_iff]
  simp only [Bool.and_eq_true, decide_eq_true_eq]
  omega

theorem getLsbD_atFld {hi lo i : Nat} (top : hi < 32) (v : Nat) :
    (atFld hi lo v).getLsbD i = (decide (lo ≤ i ∧ i ≤ hi) && v.testBit (i - lo)) := by
  rw [atFld, BitVec.getLsbD_ofNat, Nat.testBit_mul_two_pow, Nat.testBit_mod_two_pow, Bool.eq_iff_iff]
  simp only [Bool.and_eq_true, decide_eq_true_eq]
  constructor
  · exact fun ⟨_, _, _, set⟩ => ⟨⟨by omega, by omega⟩, set⟩
  · exact fun ⟨⟨_, _⟩, set⟩ => ⟨by omega, by omega, by omega, set⟩

theorem getLsbD_setFld {hi lo i : Nat} (top : hi < 32) (w : Word) (v : Nat) :
    (setFld w hi lo v).getLsbD i = if lo ≤ i ∧ i ≤ hi then v.testBit (i - lo) else w.getLsbD i := by
  rw [setFld, BitVec.getLsbD_or, BitVec.getLsbD_and, BitVec.getLsbD_not, getLsbD_fldMask top, getLsbD_atFld top]
  split
  · rename_i inside
    simp [inside]
  · rename_i outside
    by_cases word : i < 32
    · simp [outside, word]
    · simp [outside, BitVec.getLsbD_of_ge w i (by omega)]

/-- A field that is set holds the value. -/
theorem wfld_setFld_same {hi lo v : Nat} (top : hi < 32) (fits : v < 2 ^ (hi + 1 - lo)) (w : Word) :
    wfld (setFld w hi lo v) hi lo = v := by
  refine Nat.eq_of_testBit_eq fun i => ?_
  rw [wfld, nbits, Nat.testBit_mod_two_pow, Nat.testBit_shiftRight, BitVec.testBit_toNat, getLsbD_setFld top,
    Nat.add_sub_cancel_left]
  by_cases inside : i < hi + 1 - lo
  · rw [if_pos (by omega)]
    simp [inside]
  · rw [Nat.testBit_lt_two_pow (fits.trans_le (Nat.pow_le_pow_right (by decide) (by omega)))]
    simp [inside]

/-- A field beside it holds what it held. -/
theorem wfld_setFld_other {hi lo hi' lo' : Nat} (top : hi < 32) (apart : hi < lo' ∨ hi' < lo) (w : Word) (v : Nat) :
    wfld (setFld w hi lo v) hi' lo' = wfld w hi' lo' :=
  wfld_congr fun i _ _ => by rw [getLsbD_setFld top, if_neg (by omega)]

end Sys2Proof.Machine
end
section
/-!
SUPPORT. The subports of a port die as its scheduler goes through them, and their classes.
-/

namespace Sys2Proof.Machine

theorem State.mem_dieSubports {s : State} {n l j sub : Nat} :
    (l, j, sub) ∈ s.dieSubports n ↔ l < 24 ∧ s.subportAt n l = some (j, sub) := by
  simp only [State.dieSubports, List.mem_filterMap, List.mem_range, Option.map_eq_some_iff]
  constructor
  · rintro ⟨x, lane, p, found, same⟩
    cases same
    exact ⟨lane, found⟩
  · exact fun ⟨lane, found⟩ => ⟨l, lane, _, found, rfl⟩

/-- A subport is known by its first lane. -/
theorem State.dieSubports_lane {s : State} {n : Nat} {p q : Nat × Nat × Nat} (hp : p ∈ s.dieSubports n) (hq : q ∈ s.dieSubports n)
    (lane : p.1 = q.1) : p = q := by
  have atP := (State.mem_dieSubports.mp hp).2
  have atQ := (State.mem_dieSubports.mp hq).2
  rw [lane] at atP
  exact Prod.ext lane (Option.some.inj (atP.symm.trans atQ))

theorem State.dieSubports_lt {s : State} {n : Nat} {p : Nat × Nat × Nat} (h : p ∈ s.dieSubports n) : p.1 < 24 :=
  (State.mem_dieSubports.mp h).1

theorem State.nodup_dieSubports (s : State) (n : Nat) : (s.dieSubports n).Nodup := by
  refine List.Nodup.filterMap (fun l k p hl hk => ?_) List.nodup_range
  simp only [Option.mem_def, Option.map_eq_some_iff] at hl hk
  obtain ⟨a, -, rfl⟩ := hl
  obtain ⟨b, -, same⟩ := hk
  exact (congrArg Prod.fst same).symm

/-- The classes of a die's subports, each with its subport. -/
def State.dieClasses (s : State) (n : Nat) : List ((Nat × Nat × Nat) × Nat) := s.dieSubports n ×ˢ List.range 8

theorem State.mem_dieClasses {s : State} {n : Nat} {p : (Nat × Nat × Nat) × Nat} :
    p ∈ s.dieClasses n ↔ p.1 ∈ s.dieSubports n ∧ p.2 < 8 := by
  rw [State.dieClasses, List.mem_product, List.mem_range]

end Sys2Proof.Machine
end
section
/-!
SUPPORT. Egress scheduling (spec/05_scheduling_and_telemetry.md, R116, R117, R123; spec/04_links_and_routing.md, R102, R424): the
selection of MGMT packets, the buckets, the throttle levels and the take into the egress FIFO.
-/

namespace Sys2Proof.Machine

/-! ### What updating the active lists keeps -/

/-- The two hold the same packets selected and in progress. -/
structure Egress.SameSelected (g g' : Egress) : Prop where
  sel : g'.sel = g.sel
  inProg : g'.inProg = g.inProg

theorem Egress.SameSelected.refl (g : Egress) : g.SameSelected g := ⟨rfl, rfl⟩

/-- The scheduler's record as EGRESS_SELECT finds it: lists and finish times up to date (R119, R120). -/
def State.listed (s : State) (n l j sub : Nat) : Egress := s.stampClasses n l j sub (s.refreshLists n l j sub)

theorem State.listed_selected (s : State) (n l j sub : Nat) : (s.egr n l).SameSelected (s.listed n l j sub) := ⟨rfl, rfl⟩

theorem State.egr_setEgr (s : State) (n l n' l' : Nat) (k : Egress) :
    (s.setEgr n l k).egr n' l' = if lk n l = lk n' l' then k else s.egr n' l' :=
  mget_mset ..

/-- A queue that leaves its list takes nothing out of selection, at no subport. -/
theorem State.queueEmptied_selected (s : State) (j sub tc i n l : Nat) :
    (s.egr n l).SameSelected ((s.queueEmptied j sub tc i).egr n l) := by
  unfold State.queueEmptied
  extract_lets n' l' g
  split
  · rw [State.egr_setEgr]
    split
    · rename_i same
      have own : g = s.egr n l := congrArg (mget Egress.reset s.egress) same
      rw [← own]
      exact ⟨rfl, rfl⟩
    · exact .refl _
  · exact .refl _

/-! ### MGMT packets (R117) -/

theorem mem_rotated {n i : Nat} (k : Nat) (h : i < n) : i ∈ rotated n k := by
  refine List.mem_map.mpr ⟨(i + (n - k % n)) % n, List.mem_range.mpr (Nat.mod_lt _ (by omega)), ?_⟩
  have below : k % n < n := Nat.mod_lt _ (by omega)
  calc (k + (i + (n - k % n)) % n) % n
      = (k % n + (i + (n - k % n))) % n := by rw [Nat.add_mod_mod, ← Nat.mod_add_mod]
    _ = (i + n) % n := by congr 1; omega
    _ = i := by rw [Nat.add_mod_right, Nat.mod_eq_of_lt h]

section
variable {s : State} {n l j sub : Nat}

/-- A head packet names the queue it stands in. -/
theorem State.eligibleHead_queue (mode : s.slotMode j = 0) {i c : Nat} {h : HeadPkt}
    (head : s.eligibleHead n l j sub i c = some h) : h.i = i ∧ h.tc = c := by
  have fabric : ¬s.slotMode j = 1 := by omega
  rw [State.eligibleHead, if_neg fabric] at head
  have next := (Option.filter_eq_some_iff.mp head).1
  rw [State.nextHead, if_neg fabric] at next
  dsimp only at next
  split at next
  · cases next
  · split at next <;> cases next
    exact ⟨rfl, rfl⟩

theorem State.selMgmt_some {g : Egress} {q : HeadPkt} (pick : s.selMgmt n l j sub g = some q) :
    q.vc = 3 ∧ ∃ i c, s.eligibleHead n l j sub i c = some q := by
  obtain ⟨i, -, ofInput⟩ := List.exists_of_findSome?_eq_some pick
  obtain ⟨c, -, ofClass⟩ := List.exists_of_findSome?_eq_some ofInput
  split at ofClass
  · rename_i h head
    split at ofClass
    · obtain rfl : h = q := by simpa using ofClass
      exact ⟨by simpa using ‹(h.vc == 3) = true›, i, c, head⟩
    · cases ofClass
  · cases ofClass

/-- Where an input has an eligible MGMT head packet, one is picked: every input has its turn. -/
theorem State.selMgmt_of_head (g : Egress) {i c : Nat} {h : HeadPkt} (input : i < 128) (class_ : c < 8)
    (head : s.eligibleHead n l j sub i c = some h) (mgmt : h.vc = 3) : ∃ q, s.selMgmt n l j sub g = some q := by
  refine Option.isSome_iff_exists.mp (List.findSome?_isSome_iff.mpr ⟨i, mem_rotated _ input, ?_⟩)
  refine List.findSome?_isSome_iff.mpr ⟨c, List.mem_range.mpr class_, ?_⟩
  rw [head]
  simp [mgmt]

/-! ### One selection (R116, R117) -/

theorem State.egressSelect_mgmt {q : HeadPkt} (found : s.subportAt n l = some (j, sub)) (mode : s.slotMode j = 0)
    (pick : s.selMgmt n l j sub (s.listed n l j sub) = some q) :
    s.egressSelect n l = (s.setEgr n l (selectPkt { s.listed n l j sub with rrMgmt := (q.i + 1) % 128 } j sub q)).queueEmptied
      j sub q.tc q.i := by
  unfold State.listed at *
  simp [State.egressSelect, found, mode, pick, State.took]

/-- Without an eligible head packet none of the three steps picks one. -/
theorem State.egressSelect_none (found : s.subportAt n l = some (j, sub)) (mode : s.slotMode j = 0)
    (idle : ∀ i c, s.eligibleHead n l j sub i c = none) : s.egressSelect n l = s.setEgr n l (s.listed n l j sub) := by
  have mgmt (g : Egress) : s.selMgmt n l j sub g = none := by simp [State.selMgmt, idle]
  have circ (g : Egress) : s.selCirc n l j sub g = none := by simp [State.selCirc, idle]
  have best (g : Egress) : s.wfqBest n l j sub g = none := by
    rw [State.wfqBest, List.filter_eq_nil_iff.mpr fun c _ => by simp [idle]]
    rfl
  simp [State.egressSelect, found, mode, mgmt, circ, best, State.listed]

end

/-! ### Refreshing buckets (R123) -/

/-- Where the tokens of a class stand. -/
def shpKey (n : Nat) (p : (Nat × Nat × Nat) × Nat) : Nat := 8 * lk n p.1.1 + p.2

/-- What one refresh leaves in a class's bucket. -/
def State.shpRefreshed (s : State) (n l c : Nat) : Int :=
  bucketStep (s.shpTokens n l c) (s.fld (R.portSShpr n l c) 15 0) (s.fld (R.portSShpb n l c) 23 0)

section
variable {s : State} {n : Nat} (die : n < s.ports)
include die

theorem State.refreshBuckets_shpT : (s.refreshBuckets n).shpT
    = (s.dieClasses n).foldl (fun m p => mset 0x8000 m (shpKey n p) (s.shpRefreshed n p.1.1 p.2)) s.shpT := by
  rw [State.refreshBuckets, if_neg (Nat.not_le.mpr die), State.dieClasses]
  simp only [SProd.sprod, List.product, List.foldl_flatMap, List.foldl_map, State.shpRefreshed, shpKey]

theorem State.refreshBuckets_shaper {l c : Nat} {p : Nat × Nat} (found : s.subportAt n l = some p) (class_ : c < 8) :
    (s.refreshBuckets n).shpTokens n l c = s.shpRefreshed n l c := by
  have listed : (l, p) ∈ s.dieSubports n := State.mem_dieSubports.mpr ⟨(State.subport_of_subportAt found).lane, found⟩
  have own : ∀ q ∈ s.dieClasses n, shpKey n q = shpKey n ((l, p), c) → q = ((l, p), c) := by
    intro q hq same
    obtain ⟨sub, small⟩ := State.mem_dieClasses.mp hq
    simp only [shpKey, lk] at same
    exact Prod.ext (State.dieSubports_lane sub listed (by dsimp only; omega)) (by dsimp only; omega)
  have read := mget_foldl_mset_mem 0x8000 (shpKey n) (fun p => s.shpRefreshed n p.1.1 p.2)
    (State.mem_dieClasses.mpr ⟨listed, class_⟩) own s.shpT
  rw [← State.refreshBuckets_shpT die] at read
  exact read

/-- The buckets of the other dies stay. -/
theorem State.refreshBuckets_elsewhere {m k c : Nat} (other : m ≠ n) (lane : k < 24) (class_ : c < 8) :
    (s.refreshBuckets n).shpTokens m k c = s.shpTokens m k c := by
  have apart : ∀ q ∈ s.dieClasses n, shpKey n q ≠ 8 * lk m k + c := by
    intro q hq
    obtain ⟨sub, small⟩ := State.mem_dieClasses.mp hq
    have inside := State.dieSubports_lt sub
    simp only [shpKey, lk]
    omega
  have read := mget_foldl_mset_other 0x8000 (shpKey n) (fun p => s.shpRefreshed n p.1.1 p.2) apart s.shpT
  rw [← State.refreshBuckets_shpT die] at read
  exact read

theorem State.refreshBuckets_policer {js : Nat} (source : js < 64) : (s.refreshBuckets n).polTokens n js
    = bucketStep (s.polTokens n js) (s.fld (R.portPolcfg n js) 15 0) (s.fld (R.portPolb n js) 23 0) := by
  rw [State.refreshBuckets, if_neg (Nat.not_le.mpr die)]
  exact mget_foldl_mset _ _ (fun js => bucketStep (s.polTokens n js) _ _) _ source

end

/-! ### Throttle levels (R102) -/

/-- The thresholds of R102 that a depth reaches. -/
def State.reached (s : State) (n l d : Nat) : Nat :=
  ([0, 1, 2].filter fun i => 16 * s.fld (R.portPThr n l) (8 * i + 7) (8 * i) ≤ d).length

/-- The level after an update at a depth. -/
def State.nextThrottle (s : State) (n l tc d : Nat) : Nat :=
  let cur := s.throttle n l tc
  if cur < s.reached n l d then s.reached n l d
  else if 0 < cur ∧ s.reached n l d < cur
      ∧ d + 16 * s.fld (R.portPThr n l) 31 24 < 16 * s.fld (R.portPThr n l) (8 * (cur - 1) + 7) (8 * (cur - 1)) then cur - 1
  else cur

section
variable {s : State} {n l j sub tc : Nat}

theorem State.throttle_lt (s : State) (n l tc : Nat) : s.throttle n l tc < 4 := by
  have below := s.fld_lt (R.portPThrlvl n l) (2 * tc + 1) (2 * tc)
  rwa [show 2 * tc + 1 + 1 - 2 * tc = 2 by omega] at below

theorem State.nextThrottle_lt (s : State) (n l tc d : Nat) : s.nextThrottle n l tc d < 4 := by
  have cur := s.throttle_lt n l tc
  have reached : s.reached n l d ≤ 3 := List.length_filter_le ..
  unfold State.nextThrottle
  dsimp only
  split
  · omega
  · split <;> omega

theorem State.updateThrottle_sets (found : s.subportAt n l = some (j, sub)) (class_ : tc < 8) : s.updateThrottle n l tc
    = s.setField (R.portPThrlvl n l) (2 * tc + 1) (2 * tc) (s.nextThrottle n l tc (s.depth n l j sub tc)) := by
  rw [State.updateThrottle, found]
  exact if_neg (Nat.not_le.mpr class_)

theorem State.throttle_setField_same (class_ : tc < 8) {v : Nat} (level : v < 4) :
    (s.setField (R.portPThrlvl n l) (2 * tc + 1) (2 * tc) v).throttle n l tc = v := by
  rw [State.throttle, State.fld, State.setField, State.reg_setReg_same]
  refine wfld_setFld_same (by omega) ?_ _
  rwa [show 2 * tc + 1 + 1 - 2 * tc = 2 by omega]

theorem State.throttle_setField_other {c : Nat} (class_ : tc < 8) (other : c ≠ tc) (v : Nat) :
    (s.setField (R.portPThrlvl n l) (2 * tc + 1) (2 * tc) v).throttle n l c = s.throttle n l c := by
  rw [State.throttle, State.fld, State.setField, State.reg_setReg_same]
  exact wfld_setFld_other (by omega) (by omega) _ _

/-! ### The take into the egress FIFO (R424) -/

/-- The first cell that left toward a subport in UP, no copy of a multicast packet, enters the FIFO as it is. -/
theorem State.takeCell_enters {c : Cell} {rest : List (Nat × Cell)} (at_ : s.Subport n l j sub)
    (left : s.xbar.xout = (j, c) :: rest) (toward : c.sub = sub) (single : c.inLane = none) (up : (s.link n l).st = .up) :
    (s.takeCell j sub).xbar.xout = rest ∧ ((s.takeCell j sub).egr n l).fifo = (s.egr n l).fifo ++ [c]
      ∧ Changes [.xbar, .egress] s (s.takeCell j sub) := by
  have here : (!s.isPortSlot j || decide (s.subports j ≤ sub)) = false := by simp [at_.port, at_.within]
  have front : takeFirst (fun o : Nat × Cell => o.1 == j && o.2.sub == sub) s.xbar.xout = some ((j, c), rest) := by
    simp [left, takeFirst, toward]
  generalize taken : ({ s with xbar := { s.xbar with xout := rest } } : State) = u
  have same : u.copyClass (u.egr n l) j sub c = c.dl := by simp only [State.copyClass, single]
  have upU : (u.link n l).st = .up := by rw [← taken]; exact up
  obtain ⟨prog, run⟩ : ∃ prog, s.takeCell j sub
      = u.setEgr n l { u.egr n l with inProg := prog, fifo := (u.egr n l).fifo ++ [c] } := by
    rw [State.takeCell, here, front]
    dsimp only
    rw [at_.die_eq, at_.first, taken, same, upU]
    exact ⟨_, rfl⟩
  rw [run, State.egr_setEgr_same, ← taken]
  exact ⟨rfl, rfl, Changes.step (Changes.xbar.mono (by decide)) (State.setEgr_changes ..) (by decide)⟩

end

/-- Settles O38: the selection by what each step picks, the buckets by their refreshed tokens, the level by the field it is
written to, the take by the cell that enters. -/
theorem egressSelectsAndIsShaped : Obligations.EgressSelectsAndIsShaped := by
  refine ⟨fun s n l j sub found mode => ⟨fun i input c class_ h head mgmt => ?served, fun idle => ?idle⟩,
    fun s n l j sub on found => ?refresh, fun s n l j sub tc found =>
      ⟨fun class_ => ?level, fun c rest left toward single up => ?take⟩⟩
  case served =>
    obtain ⟨q, pick⟩ := State.selMgmt_of_head (s.listed n l j sub) input class_ head mgmt
    obtain ⟨vc, i', c', headQ⟩ := State.selMgmt_some pick
    obtain ⟨rfl, rfl⟩ := State.eligibleHead_queue mode headQ
    refine .of_eq (congrArg Host.Outcome.next (State.egressSelect_mgmt found mode pick)) ⟨?_, q, vc, ?_, headQ, ?_⟩
    · exact Changes.step (State.setEgr_changes ..) (State.queueEmptied_changes ..) (by decide)
    · rw [(State.queueEmptied_selected ..).sel, State.egr_setEgr_same]
      rfl
    · rw [(State.queueEmptied_selected ..).inProg, State.egr_setEgr_same]
      rfl
  case idle =>
    refine .of_eq (congrArg Host.Outcome.next (State.egressSelect_none found mode idle)) ⟨?_, ?_, s.setEgr_changes ..⟩
    · rw [State.egr_setEgr_same, (s.listed_selected ..).sel]
    · rw [State.egr_setEgr_same, (s.listed_selected ..).inProg]
  case refresh =>
    have die := (State.subport_of_subportAt found).die
    exact .of_eq (congrArg Host.Outcome.next (if_neg on)) ⟨s.refreshBuckets_changes n, fun c class_ =>
      State.refreshBuckets_shaper die found class_, fun js source => State.refreshBuckets_policer die source,
      fun m k other lane c class_ => State.refreshBuckets_elsewhere die other lane class_⟩
  case level =>
    refine .of_eq (congrArg Host.Outcome.next (State.updateThrottle_sets found class_)) ⟨s.setField_changes .., ?_, ?_⟩
    · exact State.throttle_setField_same class_ (s.nextThrottle_lt ..)
    · exact fun c _ other => State.throttle_setField_other class_ other _
  case take =>
    obtain ⟨out, fifo, frame⟩ := State.takeCell_enters (State.subport_of_subportAt found) left toward single up
    exact .of_eq rfl ⟨out, fifo, frame⟩

end Sys2Proof.Machine
end
section
/-!
SUPPORT. Telemetry (spec/05_scheduling_and_telemetry.md, R126 to R128): what a sample counts, the histogram registers, and where
a ring record goes.
-/

namespace Sys2Proof.Machine

/-! ### Bins (R127) -/

/-- One sample counted in a bin. -/
def countBin (m : SMap Dword) (k : Nat) : SMap Dword := mset 0 m k (mget 0 m k + 1)

/-- A bin goes up by one for each time it stands in the list. -/
theorem mget_foldl_countBin (l : List Nat) (m : SMap Dword) (k : Nat) :
    mget 0 (l.foldl countBin m) k = mget 0 m k + BitVec.ofNat 64 (l.count k) := by
  induction l generalizing m with
  | nil => simp
  | cons a l ih =>
    rw [List.foldl_cons, ih, countBin, mget_mset, List.count_cons]
    by_cases same : a = k
    · subst same
      simp only [if_true, beq_self_eq_true, BitVec.ofNat_add, BitVec.add_assoc]
      rw [BitVec.add_comm (BitVec.ofNat 64 (l.count a))]
      rfl
    · simp [same]

theorem histBin_lt (x : Nat) : histBin x < 16 := by
  unfold histBin
  split <;> omega

/-- Two bins of a die are one only where lane, class and kind agree. -/
theorem histKey_inj {n m l k c d x y a b : Nat} (lanes : l < 24 ∧ k < 24) (classes : c < 8 ∧ d < 8) (kinds : x < 2 ∧ y < 2)
    (bins : a < 16 ∧ b < 16) (same : histKey n l c x a = histKey m k d y b) : n = m ∧ l = k ∧ c = d ∧ x = y ∧ a = b := by
  simp only [histKey, lk] at same
  omega

/-! ### Records that are skipped touch no depth (R102, R128) -/

theorem State.bufferAddr_congr {s t : State} (kept : State.KeepsRegs 0 (portBase 0) s t) (h : Word) :
    t.bufferAddr h = s.bufferAddr h := by
  have pool : handlePool h < 8 := Nat.mod_lt _ (by decide)
  have lo := kept.reg (R.bpmPoolBaseLo (handlePool h)) (Nat.zero_le _) (by simp only [R.bpmPoolBaseLo, portBase]; omega)
  have hi := kept.reg (R.bpmPoolBaseHi (handlePool h)) (Nat.zero_le _) (by simp only [R.bpmPoolBaseHi, portBase]; omega)
  simp only [State.bufferAddr, State.poolBase, State.reg64, lo, hi]

/-- Of the registers, the depth of a class rests on those of the pools alone. -/
theorem State.depth_congr {s t : State} (frame : Changes [.regs, .ring] s t) (kept : State.KeepsRegs 0 (portBase 0) s t)
    (n l j sub tc : Nat) : t.depth n l j sub tc = s.depth n l j sub tc := by
  have eths : t.eths = s.eths := frame.elsewhere .eths (by decide)
  have dpa : t.dpa = s.dpa := frame.elsewhere .dpa (by decide)
  have ue : t.ue = s.ue := frame.elsewhere .ue (by decide)
  have xbar : t.xbar = s.xbar := frame.elsewhere .xbar (by decide)
  have egress : t.egress = s.egress := frame.elsewhere .egress (by decide)
  have cells (h : Word) : t.respCells h = s.respCells h := by
    simp only [State.respCells, State.respLength, State.readPieces, State.ueIn, State.bufferAddr_congr kept, dpa, ue]
  simp only [State.depth, State.ethDepth, State.eth, State.egr, cells, eths, xbar, egress]

theorem State.skipRecords_keepsRegs (s : State) (n : Nat) : State.KeepsRegs 0 (portBase 0) s (s.skipRecords n) := by
  unfold State.skipRecords
  extract_lets k c v
  have skip : c.outside 0 (portBase 0) := .inr (by simp only [c, R.portRingSkip, portBase]; omega)
  have cause : (R.portSchcause n).outside 0 (portBase 0) := .inr (by simp only [R.portSchcause, portBase]; omega)
  refine .ite (.refl s) ?_
  have dropped : State.KeepsRegs 0 (portBase 0) s { s with ring := s.ring.filter fun r => r.n != n } :=
    Changes.ring.keepsRegs (by decide)
  exact (dropped.trans (State.setReg_keepsRegs _ _ skip)).trans (State.raise_keepsRegs _ _ cause)

theorem State.skipRecords_slotCfg (s : State) (n j : Nat) : (s.skipRecords n).slotCfg j = s.slotCfg j := by
  unfold State.skipRecords
  extract_lets k c v
  split
  · rfl
  · refine (State.slotCfg_setReg _ (r := R.portSchcause n) (o := 0x22600) _ rfl (by decide) (by decide) j).trans ?_
    exact State.slotCfg_setReg { s with ring := _ } (r := R.portRingSkip n) (o := 0x22910) _ rfl (by decide) (by decide) j

theorem State.skipRecords_dieSubports (s : State) (n : Nat) : (s.skipRecords n).dieSubports n = s.dieSubports n := by
  have variant : (s.skipRecords n).variant = s.variant := (s.skipRecords_changes n).elsewhere .variant (by decide)
  simp only [State.dieSubports, State.subportAt_congr variant (s.skipRecords_slotCfg n _)]

theorem State.skipRecords_depth (s : State) (n m l j sub tc : Nat) :
    (s.skipRecords n).depth m l j sub tc = s.depth m l j sub tc :=
  State.depth_congr (s.skipRecords_changes n) (s.skipRecords_keepsRegs n) ..

/-! ### A sample (R126, R127) -/

/-- The value that a sample takes of a class: its depth (kind 0) or its delay (kind 1). -/
def State.sampled (s : State) (n : Nat) (p : (Nat × Nat × Nat) × Nat) (kind : Nat) : Nat :=
  if kind = 0 then s.depth n p.1.1 p.1.2.1 p.1.2.2 p.2 else s.delay n p.1.1 p.1.2.1 p.1.2.2 p.2

/-- The bin in which a sample of a class counts. -/
def State.sampleKey (s : State) (n : Nat) (x : ((Nat × Nat × Nat) × Nat) × Nat) : Nat :=
  histKey n x.1.1.1 x.1.2 x.2 (histBin (s.sampled n x.1 x.2))

/-- The bins of one sample of a die. -/
def State.sampleKeys (s : State) (n : Nat) : List Nat := (s.dieClasses n ×ˢ [0, 1]).map (s.sampleKey n)

/-- No two values of a sample count in one bin. -/
theorem State.nodup_sampleKeys (s : State) (n : Nat) : (s.sampleKeys n).Nodup := by
  refine List.Nodup.map_on (fun x hx y hy same => ?_)
    (((s.nodup_dieSubports n).product List.nodup_range).product (by decide))
  obtain ⟨clX, kindX⟩ := List.mem_product.mp hx
  obtain ⟨clY, kindY⟩ := List.mem_product.mp hy
  obtain ⟨subX, classX⟩ := State.mem_dieClasses.mp clX
  obtain ⟨subY, classY⟩ := State.mem_dieClasses.mp clY
  have two {k : Nat} (mem : k ∈ [0, 1]) : k < 2 := by
    simp only [List.mem_cons, List.not_mem_nil, or_false] at mem
    omega
  obtain ⟨-, lane, class_, kind, -⟩ := histKey_inj ⟨State.dieSubports_lt subX, State.dieSubports_lt subY⟩ ⟨classX, classY⟩
    ⟨two kindX, two kindY⟩ ⟨histBin_lt _, histBin_lt _⟩ same
  exact Prod.ext (Prod.ext (State.dieSubports_lane subX subY lane) class_) kind

/-- What a sample leaves in the histograms and in the number of samples. -/
theorem State.sample_counts {s : State} {n : Nat} (die : n < s.ports) (on : s.dev ≠ .off) :
    (s.sample n).hist = ((s.skipRecords n).sampleKeys n).foldl countBin s.hist
      ∧ (s.sample n).sampleN = mset 0 s.sampleN n ((mget 0 s.sampleN n + 1) % 32768) := by
  have skipped := s.skipRecords_changes n
  have hist : (s.skipRecords n).hist = s.hist := skipped.elsewhere .hist (by decide)
  have number : (s.skipRecords n).sampleN = s.sampleN := skipped.elsewhere .sampleN (by decide)
  have go : ¬(s.ports ≤ n ∨ s.dev = .off) := by
    rintro (beyond | off)
    · omega
    · exact on off
  rw [State.sample, if_neg go]
  extract_lets u subs bump h k cfg v
  have counted : v.hist = (u.sampleKeys n).foldl countBin s.hist
      ∧ v.sampleN = mset 0 s.sampleN n ((mget 0 s.sampleN n + 1) % 32768) := by
    constructor
    · simp only [v, h, State.sampleKeys, State.dieClasses, SProd.sprod, List.product, List.foldl_map, List.foldl_flatMap, ← hist]
      rfl
    · simp only [v, k, u, number]
  split
  · have recorded : Changes [.regs, .ring] v (subs.foldl (fun s p =>
        State.count { s with ring := s.ring ++ [s.ringRecord n p.1 p.2.1 p.2.2 (s.reg (R.portRingWptr n)).toNat] }
          (R.portRingWptr n)) v) :=
      .foldl (.refl _ v) fun _ _ => Changes.step (Changes.ring.mono (by decide)) (State.count_changes ..) (by decide)
    exact ⟨(recorded.elsewhere .hist (by decide)).trans counted.1, (recorded.elsewhere .sampleN (by decide)).trans counted.2⟩
  · exact counted

/-- The depth of a class is among the values of a sample, in its bin as the sample finds it. -/
theorem State.depth_mem_sampleKeys {s : State} {n l j sub c : Nat} (found : s.subportAt n l = some (j, sub)) (class_ : c < 8) :
    histKey n l c 0 (histBin (s.depth n l j sub c)) ∈ (s.skipRecords n).sampleKeys n := by
  have listed : (l, j, sub) ∈ (s.skipRecords n).dieSubports n := by
    rw [s.skipRecords_dieSubports]
    exact State.mem_dieSubports.mpr ⟨(State.subport_of_subportAt found).lane, found⟩
  refine List.mem_map.mpr ⟨(((l, j, sub), c), 0), List.mem_product.mpr ⟨State.mem_dieClasses.mpr ⟨listed, class_⟩, .head _⟩, ?_⟩
  exact congrArg (fun d => histKey n l c 0 (histBin d)) (s.skipRecords_depth n n l j sub c)

/-! ### The histogram registers (R127) -/

/-- The bin `b` of the histogram that HISTSEL selects. -/
def State.selectedBin (s : State) (n : Nat) (v : Word) (b : Nat) : Dword :=
  if 24 ≤ wfld v 12 8 then 0 else mget 0 s.hist (histKey n (wfld v 12 8) (wfld v 2 0) (bnat (wbit v 13)) b)

/-- The bins as they are latched one after the other. -/
theorem State.reg_latchBins (s : State) (n : Nat) (v : Word) {m b : Nat} (h : b < m) :
    let t := (List.range m).foldl (fun u b => (u.setReg (R.portHistbinLo n b) ((u.selectedBin n v b).setWidth 32)).setReg
      (R.portHistbinHi n b) ((u.selectedBin n v b >>> 32).setWidth 32)) s
    t.reg (R.portHistbinLo n b) = (s.selectedBin n v b).setWidth 32
      ∧ t.reg (R.portHistbinHi n b) = (s.selectedBin n v b >>> 32).setWidth 32 := by
  induction m with
  | zero => omega
  | succ m ih =>
    rw [List.range_succ, List.foldl_append, List.foldl_cons, List.foldl_nil]
    generalize latched : (List.range m).foldl _ s = u at ih ⊢
    have frame : Changes [.regs] s u :=
      latched ▸ .foldl (.refl _ s) fun w k => (w.setReg_changes ..).trans (State.setReg_changes ..)
    have bins (b : Nat) : u.selectedBin n v b = s.selectedBin n v b := by
      rw [State.selectedBin, frame.elsewhere .hist (by decide)]
      rfl
    dsimp only
    by_cases last : b = m
    · subst last
      rw [State.reg_setReg_same, State.reg_setReg_other _ _ (by simp only [R.portHistbinLo, R.portHistbinHi]; omega),
        State.reg_setReg_same, bins]
      exact ⟨rfl, rfl⟩
    · obtain ⟨lo, hi⟩ := ih (by omega)
      rw [← lo, ← hi]
      constructor
      all_goals
        rw [State.reg_setReg_other _ _ (by simp only [R.portHistbinLo, R.portHistbinHi]; omega),
          State.reg_setReg_other _ _ (by simp only [R.portHistbinLo, R.portHistbinHi]; omega)]

/-- The fields of HISTSEL are stored as written. -/
theorem State.selectedBin_written (s : State) (n : Nat) (old w : Word) (b : Nat) :
    s.selectedBin n ((R.portHistsel n).written old w) b
      = if 24 ≤ w.toNat / 256 % 32 then 0
        else mget 0 s.hist (histKey n (w.toNat / 256 % 32) (w.toNat % 8) (w.toNat / 8192 % 2) b) := by
  have lane : wfld ((R.portHistsel n).written old w) 12 8 = w.toNat / 256 % 32 :=
    (wfld_written (show ∀ i ≤ 12, 8 ≤ i → (0x3f07 : Word).getLsbD i = true by decide) rfl _ _).trans
      (congrArg (· % 32) (Nat.shiftRight_eq_div_pow ..))
  have class_ : wfld ((R.portHistsel n).written old w) 2 0 = w.toNat % 8 :=
    wfld_written_low (show ∀ i ≤ 2, (0x3f07 : Word).getLsbD i = true by decide) rfl _ _
  have kind : bnat (wbit ((R.portHistsel n).written old w) 13) = w.toNat / 8192 % 2 := by
    rw [wbit_eq, Reg.getLsbD_written_stored (show (0x3f07 : Word).getLsbD 13 = true by decide) rfl, ← wbit_eq, wbit, nbit,
      Nat.shiftRight_eq_div_pow]
    rcases Nat.mod_two_eq_zero_or_one (w.toNat / 2 ^ 13) with even | odd
    · rw [even]; exact even.symm
    · rw [odd]; exact odd.symm
  rw [State.selectedBin, lane, class_, kind]

theorem State.writeHistsel_latches (s : State) (n : Nat) (w : Word) {b : Nat} (bin : b < 16) :
    let x : Dword := if 24 ≤ w.toNat / 256 % 32 then 0
      else mget 0 s.hist (histKey n (w.toNat / 256 % 32) (w.toNat % 8) (w.toNat / 8192 % 2) b)
    (s.writeHistsel n w).reg (R.portHistbinLo n b) = x.setWidth 32
      ∧ (s.writeHistsel n w).reg (R.portHistbinHi n b) = (x >>> 32).setWidth 32 := by
  have read := (s.writeReg (R.portHistsel n) w).reg_latchBins n ((s.writeReg (R.portHistsel n) w).reg (R.portHistsel n)) bin
  have selected := (s.writeReg (R.portHistsel n) w).selectedBin_written n (s.reg (R.portHistsel n)) w b
  rw [← State.reg_writeReg_same] at selected
  rw [selected] at read
  exact read

/-- The die is the upper part of a bin's key. -/
theorem histKey_die {m l c kind b : Nat} (lane : l < 24) (class_ : c < 8) (two : kind < 2) (bin : b < 16) :
    histKey m l c kind b / 256 / 24 = m := by
  simp only [histKey, lk]
  omega

theorem State.writeHistclr_clears {s : State} {w : Word} (clear : w.getLsbD 0 = true) (n : Nat) {m l c kind b : Nat} (lane : l < 24)
    (class_ : c < 8) (two : kind < 2) (bin : b < 16) : mget 0 (s.writeHistclr n w).hist (histKey m l c kind b)
      = if m = n then 0 else mget 0 s.hist (histKey m l c kind b) := by
  rw [State.writeHistclr, if_pos ((wbit_eq w 0).trans clear), mget_mfilter, histKey_die lane class_ two bin]
  by_cases own : m = n <;> simp [own]

/-! ### Ring records (R66, R128) -/

/-- With no uncorrectable word, bytes are stored where they belong. -/
theorem State.writePieces_single {s : State} (clean : s.ue = []) (a : Nat) (bs : List Byte) :
    s.writePieces [(a, bs.length)] bs = .ok { s with dpa := wrBytes s.dpa a bs, ue := [] } := by
  simp [State.writePieces, State.uePartial, State.healed, clean]

/-- The state with a record taken from those that wait and stored at its place. -/
def State.recordStored (s : State) (r : RingRec) (rest : List RingRec) : State :=
  { s with ring := rest, dpa := wrBytes s.dpa (s.recordAddr r) r.bytes, ue := [] }

theorem State.recordStored_changes (s : State) (r : RingRec) (rest : List RingRec) :
    Changes [.ring, .dpa, .ue] s (s.recordStored r rest) := by
  have taken : Changes [.ring] s { s with ring := rest } := Changes.ring
  have stored : Changes [.dpa] { s with ring := rest } { s with ring := rest, dpa := wrBytes s.dpa (s.recordAddr r) r.bytes } :=
    Changes.dpa
  have clean : Changes [.ue] { s with ring := rest, dpa := wrBytes s.dpa (s.recordAddr r) r.bytes } (s.recordStored r rest) :=
    Changes.ue
  exact ((taken.mono (by decide)).step stored (by decide)).step clean (by decide)

section
variable {s : State} {r : RingRec} {rest : List RingRec} {n : Nat} (waits : s.ring = r :: rest) (own : r.n = n)
include waits own

theorem takeFirst_ring : takeFirst (fun r => r.n == n) s.ring = some (r, rest) := by
  simp [waits, takeFirst, own]

/-- The crossbar is disabled: the record waits. -/
theorem State.writeRecord_waits (disabled : s.xbarOn = false) : s.writeRecord n = s := by
  rw [State.writeRecord, takeFirst_ring waits own]
  simp [disabled]

/-- It passes to valid memory: the record is written there. -/
theorem State.writeRecord_stores (passes : s.recordPasses r (s.recordAddr r) = true) (valid : s.dpaSpan (s.recordAddr r) 64 = true)
    (clean : s.ue = []) : s.writeRecord n = s.recordStored r rest := by
  have on : s.xbarOn = true := by
    simp only [State.recordPasses, Bool.and_eq_true] at passes
    exact passes.1
  have stored := State.writePieces_single (s := { s with ring := rest }) clean (s.recordAddr r) r.bytes
  rw [State.writeRecord, takeFirst_ring waits own]
  simp [on, valid, passes, stored, State.recordStored]

end

/-- Settles O39: the sample by its bins, each counted once, the histogram registers by what their writes leave, the record by the
memory it is written to. -/
theorem telemetryIsKept : Obligations.TelemetryIsKept := by
  intro s n w die
  have answers (on : s.dev ≠ .off) (booted : s.dev ≠ .rom) : s.answers (.port n) = true :=
    State.answers_of_populated on booted (decide_eq_true die)
  refine ⟨fun l j sub c on found class_ => ?sample, fun on booted => ?select, fun on booted clear => ?clear,
    fun r rest waits own length => ⟨fun disabled => ?waits, fun passes valid clean => ?stored⟩⟩
  case sample =>
    obtain ⟨hist, number⟩ := State.sample_counts die on
    refine .of_eq rfl ⟨?_, ?_, s.sample_changes n⟩
    · rw [hist, mget_foldl_countBin, (State.nodup_sampleKeys _ n).count, if_pos (State.depth_mem_sampleKeys found class_)]
      rfl
    · rw [number, mget_mset_same]
  case select =>
    exact .of_eq (congrArg Host.Outcome.next (State.onWrite_of_answers (answers on booted) rfl _))
      ⟨s.writeHistsel_changes n w, fun b bin => s.writeHistsel_latches n w bin⟩
  case clear =>
    exact .of_eq (congrArg Host.Outcome.next (State.onWrite_of_answers (answers on booted) rfl _))
      ⟨s.writeHistclr_changes n w, fun m l c kind b lane class_ two bin => State.writeHistclr_clears clear n lane class_ two bin⟩
  case waits => exact congrArg Host.Outcome.next (State.writeRecord_waits waits own disabled)
  case stored =>
    subst own
    refine .of_eq (congrArg Host.Outcome.next (State.writeRecord_stores waits rfl passes valid clean))
      ⟨rfl, ?_, ?_, s.recordStored_changes r rest⟩
    · have read := rdBytes_wrBytes_same s.dpa (s.recordAddr r) r.bytes
      rwa [length] at read
    · exact fun x outside => rdByte_wrBytes_outside _ _ _ _ (by rwa [length])

end Sys2Proof.Machine
end
section
/-!
SUPPORT. Bytes and the numbers that they spell (R27), read in parts.
-/

namespace Sys2Proof.Machine

theorem leNat_append (a b : List Byte) : leNat (a ++ b) = leNat a + 256 ^ a.length * leNat b := by
  induction a with
  | nil => simp [leNat]
  | cons x a ih =>
    simp only [List.cons_append, leNat, ih, List.length_cons, Nat.pow_succ]
    ring

theorem leNat_lt (bs : List Byte) : leNat bs < 256 ^ bs.length := by
  induction bs with
  | nil => simp [leNat]
  | cons x bs ih =>
    have := x.isLt
    simp only [leNat, List.length_cons, Nat.pow_succ]
    omega

/-- Bytes are those of the number that they spell. -/
theorem leBytes_leNat (bs : List Byte) : leBytes bs.length (leNat bs) = bs := by
  induction bs with
  | nil => rfl
  | cons x bs ih =>
    have small := x.isLt
    have high : (x.toNat + 256 * leNat bs) / 256 = leNat bs := by omega
    have low : BitVec.ofNat 8 (x.toNat + 256 * leNat bs) = x := by
      apply BitVec.eq_of_toNat_eq
      rw [BitVec.toNat_ofNat]
      omega
    rw [leNat, List.length_cons, leBytes, high, low, ih]

theorem toNat_ofNat_leNat (bs : List Byte) {n : Nat} (wide : 8 * bs.length = n) : (BitVec.ofNat n (leNat bs)).toNat = leNat bs := by
  subst wide
  rw [BitVec.toNat_ofNat, Nat.pow_mul]
  exact Nat.mod_eq_of_lt (leNat_lt bs)

theorem slice_of_le {bs : List Byte} {o n : Nat} (h : o + n ≤ bs.length) : slice bs o n = (bs.drop o).take n := by
  have full : ((bs.drop o).take n).length = n := by
    rw [List.length_take, List.length_drop]
    omega
  simp [slice, full]

theorem slice_drop (bs : List Byte) (p o n : Nat) : slice (bs.drop p) o n = slice bs (p + o) n := by
  simp only [slice, List.drop_drop]

/-- Bytes read back where they were stored, by their number. -/
theorem rdBytes_wrBytes_length (m : Mem) (a : Nat) {bs : List Byte} {n : Nat} (length : bs.length = n) :
    rdBytes (wrBytes m a bs) a n = bs :=
  length ▸ rdBytes_wrBytes_same m a bs

theorem rdBytes_append (m : Mem) (a n k : Nat) : rdBytes m a (n + k) = rdBytes m a n ++ rdBytes m (a + n) k := by
  induction n generalizing a with
  | zero => simp [rdBytes]
  | succ n ih => rw [Nat.succ_add, rdBytes, rdBytes, ih, List.cons_append, Nat.add_assoc, Nat.add_comm 1]

/-- Part of the bytes of a memory. -/
theorem slice_rdBytes (m : Mem) (a : Nat) {o k n : Nat} (h : o + k ≤ n) : slice (rdBytes m a n) o k = rdBytes m (a + o) k := by
  obtain ⟨r, rfl⟩ := Nat.exists_eq_add_of_le h
  rw [slice_of_le (by rw [length_rdBytes]; omega), rdBytes_append, rdBytes_append, List.append_assoc,
    List.drop_left' (length_rdBytes ..), List.take_left' (length_rdBytes ..)]

theorem leNat_rdBytes_lt (m : Mem) (a n : Nat) : leNat (rdBytes m a n) < 256 ^ n := by
  have bound := leNat_lt (rdBytes m a n)
  rwa [length_rdBytes] at bound

/-- The bytes of words, one after the other. -/
def wordsBytes (f : Nat → Word) (m : Nat) : List Byte := (List.range m).flatMap fun k => leBytes 4 (f k).toNat

theorem wordsBytes_succ (f : Nat → Word) (m : Nat) : wordsBytes f (m + 1) = wordsBytes f m ++ leBytes 4 (f m).toNat := by
  simp [wordsBytes, List.range_succ]

theorem length_wordsBytes (f : Nat → Word) (m : Nat) : (wordsBytes f m).length = 4 * m := by
  induction m with
  | zero => rfl
  | succ m ih =>
    rw [wordsBytes_succ, List.length_append, ih, length_leBytes]
    omega

/-- Each word stands in its 32 bits of the number that they spell. -/
theorem nbits_wordsBytes (f : Nat → Word) {i m : Nat} (h : i < m) : nbits (leNat (wordsBytes f m)) (32 * i) 32 = (f i).toNat := by
  induction m with
  | zero => omega
  | succ m ih =>
    have word : leNat (leBytes 4 (f m).toNat) = (f m).toNat := by
      rw [leNat_leBytes]
      exact Nat.mod_eq_of_lt (f m).isLt
    have below := leNat_lt (wordsBytes f m)
    have size : (256 : Nat) ^ (4 * m) = 2 ^ (32 * m) := by
      rw [show (256 : Nat) = 2 ^ 8 from rfl, ← Nat.pow_mul]
      congr 1
      omega
    rw [length_wordsBytes, size] at below
    rw [wordsBytes_succ, leNat_append, word, length_wordsBytes, size, nbits, Nat.shiftRight_eq_div_pow]
    by_cases last : i = m
    · subst last
      rw [Nat.add_mul_div_left _ _ (Nat.two_pow_pos _), Nat.div_eq_of_lt below, Nat.zero_add]
      exact Nat.mod_eq_of_lt (f i).isLt
    · have split : 32 * m = 32 * i + (32 + 32 * (m - i - 1)) := by omega
      rw [split, Nat.pow_add, Nat.mul_assoc, Nat.add_mul_div_left _ _ (Nat.two_pow_pos _), Nat.pow_add, Nat.mul_assoc,
        Nat.add_mul_mod_self_left, ← Nat.shiftRight_eq_div_pow]
      exact ih (by omega)

end Sys2Proof.Machine
end
section
/-!
SUPPORT. The operations on a stream engine's state (spec/06_stream_engines.md): what each leaves of a context, its memory and its
program store.
-/

namespace Sys2Proof.Machine

/-! ### Contexts (R158) -/

theorem Changes.ctx {w : List Field} {s t : State} (h : Changes w s t) (hw : Field.ctxs ∉ w) (c : Nat) : t.ctx c = s.ctx c :=
  congrArg (mget Ctx.reset · c) (h.elsewhere .ctxs hw)

/-- A context as it enters FAILED (R158); a FREE or FAILED one stays as it is (R157). -/
def Ctx.fails (k : Ctx) (code : Nat) : Ctx :=
  if k.st = .free ∨ k.st = .failed then k else { k with st := .failed, code := code, slots := [], pend := none, outst := [] }

theorem Ctx.fails_of_live {k : Ctx} (used : k.st ≠ .free) (well : k.st ≠ .failed) (code : Nat) :
    k.fails code = { k with st := .failed, code := code, slots := [], pend := none, outst := [] } :=
  if_neg (not_or.mpr ⟨used, well⟩)

theorem State.failCtx_of_live {s : State} {c : Nat} (used : (s.ctx c).st ≠ .free) (well : (s.ctx c).st ≠ .failed) (code : Nat) :
    s.failCtx c code
      = ((s.dropChunks c).setCtx c ((s.ctx c).fails code)).sdFault (c / 512) code (s.ctx c).job c := by
  rw [Ctx.fails_of_live used well]
  exact if_neg (not_or.mpr ⟨used, well⟩)

theorem State.failCtx_of_ended {s : State} {c : Nat} (ended : (s.ctx c).st = .free ∨ (s.ctx c).st = .failed) (code : Nat) :
    s.failCtx c code = s :=
  if_pos ended

@[simp] theorem State.ctx_failCtx_same (s : State) (c code : Nat) : (s.failCtx c code).ctx c = (s.ctx c).fails code := by
  by_cases ended : (s.ctx c).st = .free ∨ (s.ctx c).st = .failed
  · rw [State.failCtx_of_ended ended, Ctx.fails, if_pos ended]
  · obtain ⟨used, well⟩ := not_or.mp ended
    rw [State.failCtx_of_live used well, (State.sdFault_changes ..).ctx (by decide), State.ctx_setCtx_same]

theorem State.ctx_failCtx_other (s : State) {c x : Nat} (other : x ≠ c) (code : Nat) : (s.failCtx c code).ctx x = s.ctx x := by
  by_cases ended : (s.ctx c).st = .free ∨ (s.ctx c).st = .failed
  · rw [State.failCtx_of_ended ended]
  · obtain ⟨used, well⟩ := not_or.mp ended
    rw [State.failCtx_of_live used well, (State.sdFault_changes ..).ctx (by decide), State.ctx_setCtx_other _ _ other.symm,
      (State.dropChunks_changes ..).ctx (by decide)]

/-- Without a pending record a context that is freed is as after reset. -/
theorem State.freeCtx_none (s : State) (c : Nat) : s.freeCtx c none = s.setCtx c Ctx.reset := rfl

/-- Contexts that are gone through one by one, each changed by itself. -/
theorem State.ctx_foldl {g : State → Nat → State} {f : Ctx → Ctx} (same : ∀ u c, (g u c).ctx c = f (u.ctx c))
    (other : ∀ u c x, x ≠ c → (g u c).ctx x = u.ctx x) {l : List Nat} (once : l.Nodup) (s : State) (x : Nat) :
    (l.foldl g s).ctx x = if x ∈ l then f (s.ctx x) else s.ctx x := by
  induction l generalizing s with
  | nil => rfl
  | cons c l ih =>
    obtain ⟨fresh, once⟩ := List.nodup_cons.mp once
    rw [List.foldl_cons, ih once]
    by_cases here : x = c
    · subst here
      simp [fresh, same]
    · simp [here, other _ _ _ here]

/-! ### Context memory (R131) -/

/-- With no uncorrectable word, nothing of a memory is refused. -/
theorem State.ueIn_clean {s : State} (clean : s.ue = []) (sp : MemSpace) (a n : Nat) : s.ueIn sp a n = none := by
  simp [State.ueIn, clean]

/-- The state with bytes stored in the context memory of an engine, with no uncorrectable word. -/
def State.ctxStored (s : State) (e off : Nat) (bs : List Byte) : State :=
  { s with ctxMem := wrBytes s.ctxMem (e * 2 ^ 23 + off) bs, ue := [] }

theorem State.writeCtxMem_clean {s : State} (clean : s.ue = []) (e off : Nat) (bs : List Byte) :
    s.writeCtxMem e off bs = s.ctxStored e off bs := by
  simp [State.writeCtxMem, State.uePartial, State.healed, State.ctxStored, clean]

theorem State.ctxStored_changes (s : State) (e off : Nat) (bs : List Byte) : Changes [.ctxMem, .ue] s (s.ctxStored e off bs) :=
  have stored : Changes [.ctxMem] s { s with ctxMem := wrBytes s.ctxMem (e * 2 ^ 23 + off) bs } := .ctxMem
  (stored.mono (by decide)).step .ue (by decide)

/-! ### Program stores (R144) -/

theorem State.storeProg_prog (s : State) (e w v : Nat) :
    (s.storeProg e w v).prog = mset 0 s.prog (1024 * e + w) (BitVec.ofNat 512 v) := by
  unfold State.storeProg
  extract_lets
  split <;> rfl

theorem State.storeProg_progValid (s : State) (e w v : Nat) :
    (s.storeProg e w v).progValid = mset false s.progValid (1024 * e + w) (progWordOk v) := by
  unfold State.storeProg
  extract_lets
  split <;> rfl

theorem State.progWord_storeProg_same (s : State) (e w : Nat) {bs : List Byte} (word : bs.length = 64) :
    (s.storeProg e w (leNat bs)).progWord e w = leNat bs := by
  rw [State.progWord, State.storeProg_prog, mget_mset_same]
  exact toNat_ofNat_leNat bs (by rw [word])

theorem State.progOk_storeProg_same (s : State) (e w v : Nat) : (s.storeProg e w v).progOk e w = progWordOk v := by
  rw [State.progOk, State.storeProg_progValid, mget_mset_same]

theorem State.progWord_storeProg_other (s : State) {e w f y : Nat} (v : Nat) (word : w < 1024) (word' : y < 1024)
    (other : f ≠ e ∨ y ≠ w) : (s.storeProg e w v).progWord f y = s.progWord f y := by
  rw [State.progWord, State.storeProg_prog, mget_mset_other _ _ _ (by omega)]
  rfl

end Sys2Proof.Machine
end
section
/-!
SUPPORT. The registers of a stream die (R144, R158, R159, R162): JOBCMD goes over the contexts of a job, PROGCMD over the sixteen
words of PROGDATA, CMDATA over the words of context memory.
-/

namespace Sys2Proof.Machine

/-! ### JOBCMD (R158, R159) -/

theorem State.mem_jobCtxs {s : State} {n job c : Nat} :
    c ∈ s.jobCtxs n job ↔ c / 512 = n ∧ (s.ctx c).job = job ∧ (s.ctx c).st ≠ .free := by
  simp only [State.jobCtxs, List.mem_filter, List.mem_map, List.mem_range, Bool.and_eq_true, bne_iff_ne, beq_iff_eq]
  constructor
  · rintro ⟨⟨i, small, rfl⟩, used, own⟩
    exact ⟨by omega, own, used⟩
  · rintro ⟨rfl, own, used⟩
    exact ⟨⟨c % 512, by omega, by omega⟩, used, own⟩

theorem State.nodup_jobCtxs (s : State) (n job : Nat) : (s.jobCtxs n job).Nodup :=
  (List.nodup_range.map fun _ _ same => Nat.add_left_cancel same).filter _

section
variable {w : Word}

theorem State.writeSdJobcmd_fails (s : State) (n : Nat) (fail : wfld w 31 30 = 1) (code : 0 < wfld w 23 16)
    (listed : wfld w 23 16 ≤ 0x0B) (c : Nat) : (s.writeSdJobcmd n w).ctx c
      = if c ∈ s.jobCtxs n (wfld w 11 0) then (s.ctx c).fails (wfld w 23 16) else s.ctx c := by
  have run : s.writeSdJobcmd n w
      = (s.jobCtxs n (wfld w 11 0)).foldl (fun s c => s.failCtx c (wfld w 23 16)) s := by
    rw [State.writeSdJobcmd, if_pos fail, if_neg (by omega)]
  rw [run]
  exact State.ctx_foldl (f := fun k => k.fails _) (fun u c => u.ctx_failCtx_same c _)
    (fun u c x other => u.ctx_failCtx_other other _)
    (s.nodup_jobCtxs ..) s c

theorem State.writeSdJobcmd_frees (s : State) (n : Nat) (free : wfld w 31 30 = 2) (c : Nat) :
    (s.writeSdJobcmd n w).ctx c = if c ∈ s.jobCtxs n (wfld w 11 0) then Ctx.reset else s.ctx c := by
  have run : s.writeSdJobcmd n w
      = (s.jobCtxs n (wfld w 11 0)).foldl (fun s c => (s.dropChunks c).setCtx c Ctx.reset) s := by
    simp only [State.writeSdJobcmd, free, if_true, OfNat.ofNat_ne_one, if_false, State.freeCtx_none]
  rw [run]
  exact State.ctx_foldl (f := fun _ => Ctx.reset) (fun u c => (u.dropChunks c).ctx_setCtx_same c _)
    (fun u c x other => (State.ctx_setCtx_other _ _ other.symm).trans ((u.dropChunks_changes c).ctx (by decide) x))
    (s.nodup_jobCtxs ..) s c

end

/-! ### PROGCMD (R144, R162) -/

/-- The word of PROGDATA that a write of PROGCMD stores. -/
def State.progdata (s : State) (n : Nat) : Nat := leNat (wordsBytes (fun k => s.reg (R.sdProgdata n k)) 16)

/-- The state with the words of a program word in PROGDATA. -/
def State.progLoaded (s : State) (n e x m : Nat) : State :=
  (List.range m).foldl (fun u k => u.setReg (R.sdProgdata n k) (BitVec.ofNat 32 (nbits (u.progWord e x) (32 * k) 32))) s

theorem State.progLoaded_changes (s : State) (n e x m : Nat) : Changes [.regs] s (s.progLoaded n e x m) :=
  .foldl (.refl _ s) fun u _ => u.setReg_changes ..

theorem State.reg_progLoaded (s : State) (n e x : Nat) {i m : Nat} (h : i < m) :
    ((s.progLoaded n e x m).reg (R.sdProgdata n i)).toNat = nbits (s.progWord e x) (32 * i) 32 := by
  induction m with
  | zero => omega
  | succ m ih =>
    have frame := s.progLoaded_changes n e x m
    have step : s.progLoaded n e x (m + 1) = (s.progLoaded n e x m).setReg (R.sdProgdata n m)
        (BitVec.ofNat 32 (nbits ((s.progLoaded n e x m).progWord e x) (32 * m) 32)) := by
      rw [State.progLoaded, List.range_succ, List.foldl_append]
      rfl
    have word : (s.progLoaded n e x m).progWord e x = s.progWord e x := by
      rw [State.progWord, frame.elsewhere .prog (by decide)]
      rfl
    rw [step]
    by_cases last : i = m
    · rw [last, State.reg_setReg_same, word, BitVec.toNat_ofNat, nbits, Nat.mod_mod]
    · rw [State.reg_setReg_other _ _ (by simp only [R.sdProgdata]; omega)]
      exact ih (by omega)

section
variable (s : State) (n : Nat) {w : Word}

theorem State.writeProgcmd_write (rd : wbit w 0 = false) (wr : wbit w 1 = true) :
    let e := 4 * n + s.fld (R.sdProgsel n) 31 30
    let x := s.fld (R.sdProgsel n) 9 0
    s.writeProgcmd n w = (s.storeProg e x (s.progdata n)).setReg (R.sdProgval n)
      (atFld 0 0 (bnat ((s.storeProg e x (s.progdata n)).progOk e x))) := by
  simp [State.writeProgcmd, rd, wr, State.progdata, wordsBytes]

theorem State.writeProgcmd_read (rd : wbit w 0 = true) (wr : wbit w 1 = false) :
    let e := 4 * n + s.fld (R.sdProgsel n) 31 30
    let x := s.fld (R.sdProgsel n) 9 0
    s.writeProgcmd n w = (s.progLoaded n e x 16).setReg (R.sdProgval n)
      (atFld 0 0 (bnat ((s.progLoaded n e x 16).progOk e x))) := by
  simp [State.writeProgcmd, rd, wr, State.progLoaded]

end

theorem wfld_atFld_flag (b : Bool) : wfld (atFld 0 0 (bnat b)) 0 0 = bnat b := by cases b <;> rfl

/-! ### CMDATA (R162) -/

theorem wfld_setFld_mod {hi lo : Nat} (top : hi < 32) (w : Word) (v : Nat) :
    wfld (setFld w hi lo v) hi lo = v % 2 ^ (hi + 1 - lo) := by
  have cut : setFld w hi lo v = setFld w hi lo (v % 2 ^ (hi + 1 - lo)) := by
    simp only [setFld, atFld, Nat.mod_mod]
  rw [cut, wfld_setFld_same top (Nat.mod_lt _ (Nat.two_pow_pos _))]

section
variable {s : State} (n : Nat) (w : Word) (clean : s.ue = [])
include clean

theorem State.accessCmdata_write :
    let e := 4 * n + s.fld (R.sdCmsel n) 31 30
    let x := s.fld (R.sdCmsel n) 22 2
    s.accessCmdata n true w
      = (s.ctxStored e (4 * x) (leBytes 4 w.toNat)).setReg (R.sdCmsel n) (setFld (s.reg (R.sdCmsel n)) 22 2 (x + 1)) := by
  simp only [State.accessCmdata, if_true, State.writeCtxMem_clean clean, Nat.mul_div_cancel_left _ (by decide : 0 < 4)]
  rfl

theorem State.accessCmdata_read :
    let e := 4 * n + s.fld (R.sdCmsel n) 31 30
    let x := s.fld (R.sdCmsel n) 22 2
    s.accessCmdata n false w
      = State.setReg { s with busData := BitVec.ofNat 32 (leNat (rdBytes s.ctxMem (e * 2 ^ 23 + 4 * x) 4)) } (R.sdCmsel n)
          (setFld (s.reg (R.sdCmsel n)) 22 2 (x + 1)) := by
  simp only [State.accessCmdata, State.ueIn_clean clean, Nat.mul_div_cancel_left _ (by decide : 0 < 4)]
  rfl

end

/-- A read of a window that answers, of the kind that is meant. -/
theorem State.onRead_of_answers {s : State} {w : Window} (answers : s.answers w = true) {isIt : Bool} (is : isIt = true)
    (t : State) : s.onRead w isIt t = t := by
  simp [State.onRead, State.on_of_answers answers, answers, is]

/-- Settles O44: JOBCMD by what its pass over the contexts leaves, PROGCMD and CMDATA by the word that they store or read. -/
theorem streamDieRegistersAct : Obligations.StreamDieRegistersAct := by
  intro s n w die on booted job mine
  have answers : s.answers (.sd n) = true := State.answers_of_populated on booted rfl
  have own (c : Nat) : c ∈ s.jobCtxs n job ↔ mine c := State.mem_jobCtxs
  refine ⟨fun fail code listed => ?fail, fun free => ?free, ⟨fun one zero => ?write, fun zero one => ?read⟩,
    fun clean => ⟨?put, ?get⟩⟩
  case fail =>
    have after (c : Nat) := s.writeSdJobcmd_fails n fail code listed c
    refine .of_eq (congrArg Host.Outcome.next (State.onWrite_of_answers answers (by simp [die, fail]) _))
      ⟨fun c hc => ?_, fun c hc => (after c).trans (if_neg (mt (own c).mp hc))⟩
    rw [after, if_pos ((own c).mpr hc)]
    by_cases failed : (s.ctx c).st = .failed
    · simp [Ctx.fails, failed]
    · rw [Ctx.fails_of_live hc.2.2 failed]
      exact ⟨rfl, fun _ => rfl⟩
  case free =>
    have after (c : Nat) := s.writeSdJobcmd_frees n free c
    exact .of_eq (congrArg Host.Outcome.next (State.onWrite_of_answers answers (by simp [die, free]) _))
      ⟨fun c hc => (after c).trans (if_pos ((own c).mpr hc)), fun c hc => (after c).trans (if_neg (mt (own c).mp hc))⟩
  case write =>
    have wr := (wbit_eq w 1).trans one
    have run := s.writeProgcmd_write n ((wbit_eq w 0).trans zero) wr
    have stored := s.progWord_storeProg_same (4 * n + s.fld (R.sdProgsel n) 31 30) (s.fld (R.sdProgsel n) 9 0)
      (length_wordsBytes (fun k => s.reg (R.sdProgdata n k)) 16)
    have valid := s.progOk_storeProg_same (4 * n + s.fld (R.sdProgsel n) 31 30) (s.fld (R.sdProgsel n) 9 0) (s.progdata n)
    refine .of_eq (congrArg Host.Outcome.next ((State.onWrite_of_answers answers (by simp [die, wr]) _).trans run))
      ⟨fun i word => ?_, valid.trans (congrArg progWordOk stored.symm), ?_, fun f y word other => ?_,
        run ▸ s.writeProgcmd_changes n w⟩
    · exact (congrArg (nbits · (32 * i) 32) stored).trans (nbits_wordsBytes _ word)
    · rw [State.fld, State.reg_setReg_same, wfld_atFld_flag]
      rfl
    · exact s.progWord_storeProg_other _ (s.fld_lt _ 9 0) word other
  case read =>
    have rd := (wbit_eq w 0).trans one
    have run := s.writeProgcmd_read n rd ((wbit_eq w 1).trans zero)
    refine .of_eq (congrArg Host.Outcome.next ((State.onWrite_of_answers answers (by simp [die, rd]) _).trans run))
      ⟨fun i word => ?_, (s.progLoaded_changes ..).step (State.setReg_changes ..) (by decide)⟩
    rw [State.reg_setReg_other _ _ (by simp only [R.sdProgval, R.sdProgdata]; omega)]
    exact s.reg_progLoaded n _ _ word
  case put =>
    have run := State.accessCmdata_write n w clean
    refine .of_eq (congrArg Host.Outcome.next ((State.onWrite_of_answers answers (decide_eq_true die) _).trans run))
      ⟨?_, fun y outside => ?_, ?_, ((s.ctxStored_changes ..).mono (by decide)).step (State.setReg_changes ..) (by decide)⟩
    · exact rdBytes_wrBytes_same ..
    · exact rdByte_wrBytes_outside _ _ _ _ outside
    · rw [State.fld, State.reg_setReg_same, wfld_setFld_mod (by decide)]
  case get =>
    have run := State.accessCmdata_read n w clean
    refine .of_eq (congrArg Host.Outcome.next ((State.onRead_of_answers answers (decide_eq_true die) _).trans run))
      ⟨?_, ?_, (Changes.busData.mono (by decide)).step (State.setReg_changes ..) (by decide)⟩
    · exact (BitVec.toNat_ofNat ..).trans (Nat.mod_eq_of_lt (leNat_rdBytes_lt _ _ 4))
    · rw [State.fld, State.reg_setReg_same, wfld_setFld_mod (by decide)]

end Sys2Proof.Machine
end
section
/-!
SUPPORT. The commands of Hyzacia that move bytes (R362, R348): LOAD_SPROG into a program store, MEM_WRITE and MEM_READ between
HBM and the staging window, and the window on the bus.
-/

namespace Sys2Proof.Machine

/-! ### Answers and registers -/

theorem State.begun_changes (s : State) : Changes [.mgmt] s s.begun := .mgmt

/-- A command that is asked for, with no check but those of its arguments and of the device state, does its work where they hold. -/
theorem State.command_plain {s : State} {m op len : Nat} {states : List DevState} {chk : State → Checks}
    (asked : s.asked m op len = true) (state : s.dev ∈ states) (plain : chk s.begun = .plain none states) (go : State → State) :
    s.command m op chk go = go s.begun := by
  obtain ⟨-, -, -, -, idle, -, -, -, -⟩ := (s.asked_iff ..).mp asked
  rw [State.command_of_asked asked, plain]
  exact State.checked_passes rfl state (fun _ _ none => nomatch none) rfl idle rfl rfl rfl

theorem State.reg_reply_other (s : State) (m status detail : Nat) (res : List Byte) {r : Reg} (busy : R.devMbxBusy.addr ≠ r.addr)
    (done : R.devMbxDone.addr ≠ r.addr) : (s.reply m status detail res).reg r = s.reg r :=
  (State.reg_raise_other _ _ done).trans (State.reg_lower_other _ _ busy)

/-- An extension of the log counts its entry, also past the last that is kept. -/
theorem State.reg_extend_logcnt (s : State) (type : Nat) (d : List Byte) :
    (s.extend type d).reg R.secLogcnt = s.reg R.secLogcnt + 1 := by
  unfold State.extend
  extract_lets c c' n u
  have count : u.reg R.secLogcnt = s.reg R.secLogcnt := by
    unfold u
    split
    · rfl
    · exact State.reg_raise_other _ _ (by decide)
  rw [State.count, State.reg_setReg_same, count]

theorem State.reg_storeProg_other (s : State) (e w v : Nat) {r : Reg} (other : (R.sdCause (e / 4)).addr ≠ r.addr) :
    (s.storeProg e w v).reg r = s.reg r := by
  unfold State.storeProg
  extract_lets
  split
  · rfl
  · exact State.reg_raise_other _ _ other

/-! ### LOAD_SPROG (R144, R362) -/

theorem nbit_eq_testBit (w i : Nat) : nbit w i = w.testBit i := by
  rw [nbit, Nat.testBit, Nat.one_and_eq_mod_two]
  rcases Nat.mod_two_eq_zero_or_one (w >>> i) with bit | bit <;> rw [bit] <;> rfl

theorem setBits_two_pow {n d : Nat} (h : d < n) : setBits n (2 ^ d) = [d] := by
  have only : nbit (2 ^ d) = fun i => i == d := by
    funext i
    rw [nbit_eq_testBit, Nat.testBit_two_pow, Bool.eq_iff_iff, decide_eq_true_iff, beq_iff_eq, eq_comm]
  rw [setBits, only, List.filter_beq, List.count_eq_one_of_mem List.nodup_range (List.mem_range.mpr h), List.replicate_one]

section
variable {s : State} {m : Nat} (one : s.argNum m 6 2 = 1)
include one

theorem State.sprogBad_none (length : s.argLength m = 12) (engines : s.argNum m 1 1 < 16) (zero : s.argNum m 2 2 = 0)
    (low : 7 ≤ s.argNum m 4 2) (high : s.argNum m 4 2 < 1024) (staged : s.argNum m 8 4 + 64 ≤ 0xFFF000) : s.sprogBad m = none := by
  simp only [State.sprogBad, State.lengthBad, firstBad, stageEnd, length, zero, one, Option.map_eq_none_iff, List.find?_eq_none,
    List.forall_mem_cons, bne_self_eq_false, Bool.or_eq_true, decide_eq_true_eq]
  refine ⟨Bool.false_ne_true, by omega, Bool.false_ne_true, by omega, by omega, by omega, List.forall_mem_nil _⟩

/-- One word to one engine: it is stored, the log extended, and the answer counts it where it is invalid. -/
theorem State.loadSprog_single {d e : Nat} (die : d < 8) (engine : e < 4) (dies : s.argNum m 0 1 = 2 ^ d)
    (engines : s.argNum m 1 1 = 2 ^ e) :
    let w := leNat (rdBytes s.bar2 (s.argNum m 8 4) 64)
    ∃ digest, s.loadSprog m = ((s.storeProg (4 * d + e) (s.argNum m 4 2) w).extend 0x10 digest).ok m
      (leBytes 2 (if progWordOk w then 0 else 1)) := by
  intro w
  have staged : leAt (s.bar2Bytes (s.argNum m 8 4) 64) 0 64 = w :=
    congrArg leNat (slice_rdBytes s.bar2 _ (Nat.le_refl (0 + 64)))
  let u := s.storeProg (4 * d + e) (s.argNum m 4 2) w
  have invalid : min ([w].filter fun w => !progWordOk w).length 0xFFFF = if progWordOk w then 0 else 1 := by
    cases valid : progWordOk w <;> simp [valid]
  refine ⟨shake512 (u.argBytes m 0 2 ++ u.argBytes m 4 4 ++ s.bar2Bytes (s.argNum m 8 4) 64), ?_⟩
  simp only [State.loadSprog, one, dies, engines, setBits_two_pow die, setBits_two_pow engine, List.flatMap_cons, List.flatMap_nil,
    List.map_cons, List.map_nil, List.append_nil, List.range_one, Nat.mul_one, Nat.mul_zero, staged, List.zipIdx_cons,
    List.zipIdx_nil, List.foldl_cons, List.foldl_nil, Nat.add_zero, List.length_cons, List.length_nil, Nat.zero_add, Nat.one_mul, countWhere,
    invalid, u]

end

/-! ### MEM_WRITE and MEM_READ (R362) -/

/-- A range within a page is one piece. -/
theorem vaPieces_single {a n f : Nat} (some_ : 1 ≤ n) (page : a % 2 ^ 21 + n ≤ 2 ^ 21) : vaPieces (f + 2) a n = [(a, n)] := by
  have whole : min n (2 ^ 21 - a % 2 ^ 21) = n := Nat.min_eq_left (by omega)
  simp only [vaPieces, if_neg (Nat.one_le_iff_ne_zero.mp some_), whole, Nat.sub_self, if_true]

theorem State.memPieces_single {s : State} {m : Nat} (some_ : 1 ≤ s.argNum m 4 4)
    (page : s.argNum m 8 8 % 2 ^ 21 + s.argNum m 4 4 ≤ 2 ^ 21) : s.memPieces m = [(s.argNum m 8 8, s.argNum m 4 4)] :=
  vaPieces_single some_ page

theorem State.firstBadWord_clean {s : State} (clean : s.ue = []) (a n : Nat) (write : Bool) :
    s.firstBadWord .dpa a n write = none := by
  simp [State.firstBadWord, State.badWords, clean]

/-- The state with bytes stored in HBM, with no uncorrectable word. -/
def State.dpaStored (s : State) (a : Nat) (bs : List Byte) : State := { s with dpa := wrBytes s.dpa a bs, ue := [] }

theorem State.dpaStored_changes (s : State) (a : Nat) (bs : List Byte) : Changes [.dpa, .ue] s (s.dpaStored a bs) :=
  have stored : Changes [.dpa] s { s with dpa := wrBytes s.dpa a bs } := .dpa
  (stored.mono (by decide)).step .ue (by decide)

theorem State.writeDpa_clean {s : State} (clean : s.ue = []) (a : Nat) (bs : List Byte) : s.writeDpa a bs = s.dpaStored a bs := by
  simp [State.writeDpa, State.healed, State.dpaStored, clean]

section
variable {s : State} {m : Nat} (hbm : s.argNum m 0 1 = 0)
include hbm

theorem State.memChecks_hbm (length : s.argLength m = 20) (zero : s.argNum m 2 2 = 0) (some_ : 1 ≤ s.argNum m 4 4)
    (most : s.argNum m 4 4 ≤ 16707584) (staged : s.argNum m 16 4 + s.argNum m 4 4 ≤ 0xFFF000) (states : List DevState) :
    s.memChecks m states = Checks.plain none states := by
  simp only [State.memChecks, firstBad, stageEnd, length, zero, hbm]
  simp [Checks.plain, Nat.one_le_iff_ne_zero.mp some_, Nat.not_lt.mpr most, Nat.not_lt.mpr staged]

variable (some_ : 1 ≤ s.argNum m 4 4) (page : s.argNum m 8 8 % 2 ^ 21 + s.argNum m 4 4 ≤ 2 ^ 21)
include some_ page

theorem State.memWrite_hbm (clean : s.ue = []) (valid : s.dpaSpan (s.argNum m 8 8) (s.argNum m 4 4) = true) : s.memWrite m
    = (s.dpaStored (s.argNum m 8 8) (rdBytes s.bar2 (s.argNum m 16 4) (s.argNum m 4 4))).ok m [] := by
  have whole := List.take_of_length_le (length_rdBytes s.bar2 (s.argNum m 16 4) (s.argNum m 4 4)).le
  simp only [State.memWrite, State.memPieces_single some_ page, hbm, State.memPut, State.memPlace, if_true, valid,
    State.firstBadWord_clean clean, State.bar2Bytes, whole, State.putPlace, State.writeDpa_clean clean]

theorem State.memRead_hbm (clean : s.ue = []) (valid : s.dpaSpan (s.argNum m 8 8) (s.argNum m 4 4) = true) : s.memRead m
    = (s.writeBar2 (s.argNum m 16 4) (rdBytes s.dpa (s.argNum m 8 8) (s.argNum m 4 4))).ok m [] := by
  simp only [State.memRead, State.memPieces_single some_ page, hbm, State.memGet, State.memPlace, if_true, valid,
    State.firstBadWord_clean clean, State.getPlace, List.append_nil]

theorem State.memWrite_denied (outside : s.dpaSpan (s.argNum m 8 8) (s.argNum m 4 4) = false) :
    s.memWrite m = s.reply m stFaulted fcDenied [] := by
  simp only [State.memWrite, State.memPieces_single some_ page, hbm, State.memPut, State.memPlace, if_true, outside]
  rfl

end

/-! ### The staging window on the bus (R348) -/

theorem take_leBytes {n k : Nat} (h : k ≤ n) (v : Nat) : (leBytes n v).take k = leBytes k v := by
  induction n generalizing k v with
  | zero => rw [Nat.le_zero.mp h]; rfl
  | succ n ih =>
    cases k with
    | zero => rfl
    | succ k => rw [leBytes, List.take_succ_cons, ih (Nat.le_of_succ_le_succ h), leBytes]

theorem inBar2_staging {x : Nat} (inside : x < 0x1000000) : inBar2 (0x8000000 + x) = true := by
  rw [inBar2, Bool.and_eq_true, decide_eq_true_iff, decide_eq_true_iff, bar2Base, cfgBase]
  omega

/-- The low bytes of a word, read as a word. -/
theorem toNat_leNat_take {k : Nat} (h : k ≤ 4) (v : Word) :
    (BitVec.ofNat 32 (leNat ((leBytes 4 v.toNat).take k))).toNat = v.toNat % 2 ^ (8 * k) := by
  rw [take_leBytes h, leNat_leBytes, BitVec.toNat_ofNat, Nat.pow_mul]
  exact Nat.mod_eq_of_lt ((Nat.mod_le ..).trans_lt v.isLt)

section
variable {s : State} {x w : Nat} (on : s.dev ≠ .off) (inside : x < 0x1000000) (end_ : x + w ≤ 0x1000000)
include on inside end_

theorem State.busWrite_staging (v : Word) : s.busWrite (0x8000000 + x) w v = s.writeBar2 x ((leBytes 4 v.toNat).take w) := by
  have place : 0x8000000 + x - bar2Base = x := Nat.add_sub_cancel_left ..
  have width : min w (cfgBase - (0x8000000 + x)) = w := Nat.min_eq_left (by unfold cfgBase; omega)
  rw [State.busWrite, if_neg on, if_pos (inBar2_staging inside), place, width]

theorem State.busRead_staging (narrow : w ≤ 4) : s.busRead (0x8000000 + x) w = BitVec.ofNat 32 (leNat (rdBytes s.bar2 x w)) := by
  have place : 0x8000000 + x - bar2Base = x := Nat.add_sub_cancel_left ..
  have width : min (min w 4) (cfgBase - (0x8000000 + x)) = w := by
    rw [Nat.min_eq_left narrow]
    exact Nat.min_eq_left (by unfold cfgBase; omega)
  rw [State.busRead, if_pos (inBar2_staging inside), if_neg on, place, width]

end

/-- Nothing is written past the end of the window. -/
theorem State.busWrite_none (s : State) (v : Word) : s.busWrite (0x8000000 + 0x1000000) 0 v = s := by
  unfold State.busWrite
  split <;> rfl

/-- Settles O25: LOAD_SPROG and the moves by their work once the checks have passed, the staging window by the bytes it holds. -/
theorem programsAreLoadedAndMemoryMoved : Obligations.ProgramsAreLoadedAndMemoryMoved := by
  refine ⟨fun s m d e state die engine asked dies engines zero low high one staged => ?load,
    fun s m state hbm zero clean some_ most staged page => ⟨fun asked valid => ?write, fun asked valid => ?read,
      fun asked outside => ?denied⟩,
    fun s x w v on narrow end_ => ?bus⟩
  case load =>
    obtain ⟨mbx, -, -, -, -, -, -, -, length⟩ := (s.asked_iff ..).mp asked
    have few : s.argNum m 1 1 < 16 := engines ▸ Nat.pow_lt_pow_right (by decide) engine
    have args : s.begun.sprogBad m = none := State.sprogBad_none (s := s.begun) one length few zero low high staged
    obtain ⟨digest, work⟩ := State.loadSprog_single (s := s.begun) one die engine dies engines
    have run : exec (.loadSprog m) s = .next _ :=
      congrArg Host.Outcome.next
        ((State.command_plain asked (by simpa using state) (congrArg (Checks.plain · _) args) _).trans work)
    have short : (leBytes 2 (if progWordOk (leNat (rdBytes s.bar2 (s.argNum m 8 4) 64)) then 0 else 1)).length ≤ 4080 := by
      rw [length_leBytes]
      decide
    have tail (u : State) (digest res : List Byte) : Changes [.regs, .mbx, .mgmt, .sec] u ((u.extend 0x10 digest).ok m res) :=
      ((u.extend_changes ..).mono (by decide)).step (State.ok_changes ..) (by decide)
    refine .of_eq run ⟨?_, ?_, State.reply_answered _ mbx (by decide) (by decide) short, ?_,
      ((s.begun_changes.mono (by decide)).step (State.storeProg_changes ..) (by decide)).step (tail ..) (by decide)⟩
    · rw [(tail ..).elsewhere .prog (by decide), State.storeProg_prog, State.storeProg_prog]
      rfl
    · rw [(tail ..).elsewhere .progValid (by decide), State.storeProg_progValid, State.storeProg_progValid]
      rfl
    · rw [State.ok, State.reg_reply_other _ _ _ _ _ (by decide) (by decide), State.reg_extend_logcnt,
        State.reg_storeProg_other _ _ _ _ (by simp only [R.sdCause, R.secLogcnt, sdBase]; omega)]
      rfl
  case write =>
    obtain ⟨mbx, -, -, -, -, -, -, -, length⟩ := (s.asked_iff ..).mp asked
    have run : exec (.memWrite m) s = .next _ := congrArg Host.Outcome.next
      ((State.command_plain asked (by simpa using state)
        (State.memChecks_hbm (s := s.begun) hbm length zero some_ most staged _) _).trans
        (State.memWrite_hbm (s := s.begun) hbm some_ page clean valid))
    refine .of_eq run ⟨State.reply_answered _ mbx (by decide) (by decide) (by decide), ?_, fun x outside => ?_,
      ((s.begun_changes.mono (by decide)).step (State.dpaStored_changes ..) (by decide)).step (State.ok_changes ..) (by decide)⟩
    · exact rdBytes_wrBytes_length _ _ (length_rdBytes ..)
    · exact rdByte_wrBytes_outside _ _ _ _ (by rwa [length_rdBytes])
  case read =>
    obtain ⟨mbx, -, -, -, -, -, -, -, length⟩ := (s.asked_iff ..).mp asked
    have firmware : s.dev ∈ devFw := by rcases state with h | h | h <;> simp [devFw, h]
    have run : exec (.memRead m) s = .next _ := congrArg Host.Outcome.next
      ((State.command_plain asked firmware (State.memChecks_hbm (s := s.begun) hbm length zero some_ most staged _) _).trans
        (State.memRead_hbm (s := s.begun) hbm some_ page clean valid))
    refine .of_eq run ⟨State.reply_answered _ mbx (by decide) (by decide) (by decide), ?_, fun x outside => ?_,
      ((s.begun_changes.mono (by decide)).step (State.writeBar2_changes ..) (by decide)).step (State.ok_changes ..) (by decide)⟩
    · exact rdBytes_wrBytes_length _ _ (length_rdBytes ..)
    · exact rdByte_wrBytes_outside _ _ _ _ (by rwa [length_rdBytes])
  case denied =>
    obtain ⟨mbx, -, -, -, -, -, -, -, length⟩ := (s.asked_iff ..).mp asked
    have run : exec (.memWrite m) s = .next _ := congrArg Host.Outcome.next
      ((State.command_plain asked (by simpa using state)
        (State.memChecks_hbm (s := s.begun) hbm length zero some_ most staged _) _).trans
        (State.memWrite_denied (s := s.begun) hbm some_ page outside))
    exact .of_eq run ⟨State.reply_answered _ mbx (by decide) (by decide) (by decide), rfl⟩
  case bus =>
    by_cases inside : x < 0x1000000
    · have length : ((leBytes 4 v.toNat).take w).length = w := by rw [take_leBytes narrow, length_leBytes]
      have stored := rdBytes_wrBytes_length s.bar2 x length
      refine .of_eq (congrArg Host.Outcome.next (State.busWrite_staging on inside end_ v))
        ⟨State.writeBar2_changes .., stored, fun y outside => ?_, fun _ => ?_⟩
      · exact rdByte_wrBytes_outside _ _ _ _ (by rwa [length])
      · rw [State.busRead_staging (s := s.writeBar2 _ _) on inside end_ narrow]
        exact (congrArg (fun bs => (BitVec.ofNat 32 (leNat bs)).toNat) stored).trans (toNat_leNat_take narrow v)
    · obtain ⟨rfl, rfl⟩ : x = 0x1000000 ∧ w = 0 := by omega
      exact .of_eq (congrArg Host.Outcome.next (s.busWrite_none v)) ⟨.refl _ _, rfl, fun _ _ => rfl, fun _ => absurd ‹_› inside⟩

end Sys2Proof.Machine
end
section
/-!
SUPPORT. The elements of a chunk (R139, R148, R149): the bytes of a list of elements, read one by one, and what an arithmetic
operation leaves of each.
-/

namespace Sys2Proof.Machine

theorem length_slice (bs : List Byte) (o n : Nat) : (slice bs o n).length = n := by
  simp only [slice, List.length_append, List.length_take, List.length_drop, List.length_replicate]
  omega

theorem length_elemBytes (size : Nat) (es : List Nat) : (elemBytes size es).length = size * es.length := by
  induction es with
  | nil => rfl
  | cons e es ih =>
    rw [elemBytes, List.flatMap_cons, List.length_append, length_leBytes, List.length_cons, Nat.mul_succ, Nat.add_comm]
    exact congrArg (· + size) ih

/-- An element of a list of elements, which others may follow. -/
theorem slice_elemBytes (size : Nat) (es : List Nat) (rest : List Byte) {i : Nat} (h : i < es.length) :
    slice (elemBytes size es ++ rest) (size * i) size = leBytes size es[i] := by
  induction es generalizing i with
  | nil => simp at h
  | cons e es ih =>
    have split : elemBytes size (e :: es) ++ rest = leBytes size e ++ (elemBytes size es ++ rest) := by
      rw [elemBytes, List.flatMap_cons, List.append_assoc]
      rfl
    rw [split]
    cases i with
    | zero =>
      rw [Nat.mul_zero, slice_of_le (by rw [List.length_append, length_leBytes]; omega), List.drop_zero,
        List.take_left' (length_leBytes ..)]
      rfl
    | succ i =>
      have behind := slice_drop (leBytes size e ++ (elemBytes size es ++ rest)) size (size * i) size
      rw [List.drop_left' (length_leBytes ..)] at behind
      rw [Nat.mul_succ, Nat.add_comm, ← behind, ih (Nat.lt_of_succ_lt_succ h)]
      rfl

/-- Elements taken out of bytes spell the bytes. -/
theorem elemBytes_elemsOf (size : Nat) {n : Nat} {bs : List Byte} (whole : bs.length = size * n) :
    elemBytes size (elemsOf size n bs) = bs := by
  have pieces (k : Nat) (le : k ≤ n) : elemBytes size (elemsOf size k bs) = bs.take (size * k) := by
    induction k with
    | zero => rw [Nat.mul_zero, List.take_zero]; rfl
    | succ k ih =>
      have inside : size * k + size ≤ bs.length := whole ▸ Nat.mul_le_mul_left size le
      have piece : leBytes size (leAt bs (size * k) size) = slice bs (size * k) size := by
        have spelled := leBytes_leNat (slice bs (size * k) size)
        rwa [length_slice] at spelled
      have last : elemBytes size (elemsOf size (k + 1) bs)
          = elemBytes size (elemsOf size k bs) ++ leBytes size (leAt bs (size * k) size) := by
        simp [elemBytes, elemsOf, List.range_succ]
      rw [last, ih (Nat.le_of_succ_le le), piece, slice_of_le inside, ← List.take_add, Nat.mul_succ]
  rw [pieces n (Nat.le_refl n), ← whole, List.take_length]

theorem length_elemsOf (size n : Nat) (bs : List Byte) : (elemsOf size n bs).length = n := by
  rw [elemsOf, List.length_map, List.length_range]

theorem getElem_elemsOf (size : Nat) {n i : Nat} (bs : List Byte) (h : i < (elemsOf size n bs).length) :
    (elemsOf size n bs)[i] = leAt bs (size * i) size := by
  simp only [elemsOf, List.getElem_map, List.getElem_range]

/-- What an arithmetic operation leaves of an element (R149). -/
theorem Work.leAt_arith (k : Work) (c dtype i0 : Nat) {ps : List Nat} {i : Nat} (h : i < ps.length) :
    leAt (k.arith c dtype i0 ps).bytes (accSize dtype * i) (accSize dtype)
      = (Machine.arith c dtype (leAt k.bytes (accSize dtype * i) (accSize dtype)) ps[i]).1 % 256 ^ accSize dtype := by
  have both : i < ((elemsOf (accSize dtype) ps.length k.bytes).zip ps).length := by
    rwa [List.length_zip, length_elemsOf, Nat.min_self]
  rw [leAt, Work.arith, slice_elemBytes _ _ _ (by simpa only [List.length_map] using both), leNat_leBytes]
  simp only [List.getElem_map, List.getElem_zip, getElem_elemsOf]

theorem Work.length_arith (k : Work) (c dtype i0 : Nat) (ps : List Nat) :
    accSize dtype * ps.length ≤ (k.arith c dtype i0 ps).bytes.length := by
  rw [Work.arith, List.length_append, length_elemBytes, List.length_map, List.length_map, List.length_zip, length_elemsOf,
    Nat.min_self]
  exact Nat.le_add_right ..

/-- Part of the bytes where they were stored. -/
theorem rdBytes_wrBytes_slice (m : Mem) (a : Nat) {bs : List Byte} {o n : Nat} (h : o + n ≤ bs.length) :
    rdBytes (wrBytes m a bs) (a + o) n = slice bs o n := by
  rw [← slice_rdBytes _ _ h, rdBytes_wrBytes_same]

end Sys2Proof.Machine
end
section
/-!
SUPPORT. A stream engine at work (R66, R146, R153 to R155): when it stalls, what a handler leaves on its chunk slot, and what
the emission of a chunk sends.
-/

namespace Sys2Proof.Machine

theorem State.engineDoes_stalls {s : State} (off : s.xbarOn = false) (e : Nat) (t : State) : s.engineDoes e t = s :=
  if_neg fun works => Bool.false_ne_true (off.symm.trans works.2.2)

theorem State.engineDoes_works {s : State} {e : Nat} (on : s.xbarOn = true) (engine : e < 32) (healthy : s.dev ≠ .faulted)
    (t : State) :
    s.engineDoes e t = t :=
  if_pos ⟨engine, healthy, on⟩

theorem State.checkControl_clean {s : State} (clean : s.ue = []) (e : Nat) : s.checkControl e = s := by
  simp [State.checkControl, clean]

theorem State.commitArrivals_changes (s : State) (l : List Arrival) : Changes [.commits] s (l.foldl State.commitArrival s) :=
  .foldl (.refl _ s) fun u a => u.commitArrival_changes a

theorem State.dropChunks_accepted (s : State) (c : Nat) : (s.dropChunks c).accepted = s.accepted.filter fun a => a.c != c := by
  exact congrArg (List.filter _) ((s.commitArrivals_changes _).elsewhere .accepted (by decide))

theorem State.failCtx_failed {s : State} {c : Nat} (used : (s.ctx c).st ≠ .free) (well : (s.ctx c).st ≠ .failed) (code : Nat) :
    ((s.failCtx c code).ctx c).st = .failed ∧ ((s.failCtx c code).ctx c).code = code := by
  rw [State.ctx_failCtx_same, Ctx.fails_of_live used well]
  exact ⟨rfl, rfl⟩

/-- A fault discards what the context had accepted (R158). -/
theorem State.failCtx_accepted {s : State} {c code : Nat} (used : (s.ctx c).st ≠ .free) (well : (s.ctx c).st ≠ .failed) :
    (s.failCtx c code).accepted = s.accepted.filter fun a => a.c != c := by
  rw [State.failCtx_of_live used well, (State.sdFault_changes ..).elsewhere .accepted (by decide), State.setCtx_accepted,
    State.dropChunks_accepted]

/-! ### Handlers (R142, R146, R149) -/

theorem find?_updFirst {p : α → Bool} {f : α → α} (keeps : ∀ a, p a = true → p (f a) = true) (l : List α) :
    (updFirst p f l).find? p = (l.find? p).map f := by
  induction l with
  | nil => rfl
  | cons a l ih =>
    by_cases here : p a = true
    · simp [updFirst, here, keeps a here]
    · simp [updFirst, here, ih]

/-- The chunk slot after a handler that answered `w`. -/
def ChunkSlot.handledBy (t : ChunkSlot) (w : Work) : ChunkSlot :=
  { t with handled := t.handled + 1, recs := w.recs, recSize := w.recSize, flags := w.flags, exact := w.exact }

/-- The context of that slot. -/
def Ctx.handledBy (k : Ctx) (chunk : Nat) (w : Work) : Ctx :=
  { k with flags := k.flags ||| w.flags.zeroExtend 5, slots := updFirst (fun t => t.chunk == chunk) (·.handledBy w) k.slots }

theorem chunkSlot_handledBy (k : Ctx) (chunk : Nat) (w : Work) :
    chunkSlot (k.handledBy chunk w) chunk = (chunkSlot k chunk).map (·.handledBy w) :=
  find?_updFirst (α := ChunkSlot) (p := (·.chunk == chunk)) (f := (·.handledBy w)) (fun _ same => same) k.slots

section
variable {s : State} {e c : Nat} {d : CtxDesc} {t0 : ChunkSlot} {arr : Arrival} {rest : List Accepted} (clean : s.ue = [])
include clean

theorem State.handlerRun_ok {w : Work} (first : s.accepted = { e := e, c := c, arr := arr } :: rest)
    (desc : (s.ctx c).desc = some d)
    (slot : chunkSlot (s.ctx c) (chunkHdr arr.pkt).chunk = some t0) (ok : s.runHandler e c d t0 arr.pkt = .ok w) : s.handlerRun e
      = (State.ctxStored { s with accepted := rest } e (slotOff c d.dtype (chunkHdr arr.pkt).chunk) w.bytes).setCtx c
          ((s.ctx c).handledBy (chunkHdr arr.pkt).chunk w) := by
  simp only [State.handlerRun, State.checkControl_clean clean, first, takeFirst, beq_self_eq_true, if_true, desc, slot, ok]
  simp only [State.healed, clean, List.filter_nil, ← desc]
  rfl

theorem State.handlerRun_fault {f : Nat} (first : s.accepted = { e := e, c := c, arr := arr } :: rest)
    (desc : (s.ctx c).desc = some d)
    (slot : chunkSlot (s.ctx c) (chunkHdr arr.pkt).chunk = some t0) (fault : s.runHandler e c d t0 arr.pkt = .fault f) :
    s.handlerRun e = State.failCtx { s with accepted := rest } c f := by
  simp only [State.handlerRun, State.checkControl_clean clean, first, takeFirst, beq_self_eq_true, if_true, desc, slot, fault]

/-- The word of a handler that adds: ADD, then END. -/
def addWord : Nat := 0x01000000 * 2 ^ 192 + 0x10000000 * 2 ^ 128

omit clean in
theorem State.handlerOps_add {h : Nat} (small : h < 1024) (valid : s.progOk e h = true) (word : s.progWord e h = addWord)
    (dtype f : Nat) : s.handlerOps e dtype (f + 1) h = ([0x10000000], true, 1) := by
  have ops : wordOps dtype addWord = some [0x10000000, 0x01000000] := rfl
  simp only [State.handlerOps, Nat.not_lt.mpr (Nat.le_of_lt_succ small), valid, word, ops]
  rfl

/-- The standard handler with ADD on I32 (R149). -/
theorem State.runHandler_add (i32 : d.dtype = dtI32) (input : d.inTypes.getD (chunkHdr arr.pkt).inIdx 0 = 0)
    (small : d.handler < 1024)
    (valid : s.progOk e d.handler = true) (word : s.progWord e d.handler = addWord) :
    ∃ k : Work, k.bytes = rdBytes s.ctxMem (e * 2 ^ 23 + slotOff c d.dtype (chunkHdr arr.pkt).chunk) (4 * d.chunkElems)
      ∧ s.runHandler e c d t0 arr.pkt
        = .ok (k.arith sopAdd dtI32 (initValue dtI32 d.init) (elemsOf 4 (chunkHdr arr.pkt).elems (chunkBody arr.pkt))) := by
  refine ⟨⟨rdBytes s.ctxMem (e * 2 ^ 23 + slotOff c d.dtype (chunkHdr arr.pkt).chunk) (4 * d.chunkElems), t0.recs, t0.recSize,
    t0.flags ||| (chunkHdr arr.pkt).flags, t0.exact⟩, rfl, ?_⟩
  simp only [State.runHandler, State.handlerOps_add small valid word, State.ueIn_clean clean, i32, State.runOps, State.runOp, input]
  rfl

end

/-- The sums stand where the slot's elements stood. -/
theorem leNat_added {k : Work} {m : Mem} {o used n i i0 : Nat} {p : Packet} (bytes : k.bytes = rdBytes m o used)
    (held : 4 * n ≤ used)
    (inside : i < n) :
    leNat (rdBytes (wrBytes m o (k.arith sopAdd dtI32 i0 (elemsOf 4 n (chunkBody p))).bytes) (o + 4 * i) 4)
      = (leNat (rdBytes m (o + 4 * i) 4) + leAt p.data (32 + 4 * i) 4) % 2 ^ 32 := by
  have count : i < (elemsOf 4 n (chunkBody p)).length := by rwa [length_elemsOf]
  have long := k.length_arith sopAdd dtI32 i0 (elemsOf 4 n (chunkBody p))
  have size : accSize dtI32 = 4 := rfl
  rw [size, length_elemsOf] at long
  have stored := rdBytes_wrBytes_slice m o (o := 4 * i) (n := 4)
    (by omega : _ ≤ (k.arith sopAdd dtI32 i0 (elemsOf 4 n (chunkBody p))).bytes.length)
  have old : leAt k.bytes (4 * i) 4 = leNat (rdBytes m (o + 4 * i) 4) := by
    rw [bytes, leAt, slice_rdBytes _ _ (by omega)]
  have new : leAt (chunkBody p) (4 * i) 4 = leAt p.data (32 + 4 * i) 4 := congrArg leNat (slice_drop ..)
  have sum := k.leAt_arith sopAdd dtI32 i0 count
  rw [size, old, getElem_elemsOf, new] at sum
  rw [stored]
  exact sum.trans (Nat.mod_mod ..)

/-! ### Emission (R153 to R155) -/

theorem find?_only {p : α → Bool} {a : α} {l : List α} (mem : a ∈ l) (holds : p a = true) (only : ∀ x ∈ l, x ≠ a → p x = false) :
    l.find? p = some a := by
  cases found : l.find? p with
  | none => exact absurd holds (List.find?_eq_none.mp found a mem)
  | some x =>
    by_contra other
    have differs : x ≠ a := fun same => other (congrArg some same)
    exact Bool.false_ne_true ((only x (List.mem_of_find?_eq_some found) differs).symm.trans (List.find?_some found))

/-- What a context that may emit has (R153). -/
theorem State.emitReady_room {s : State} {c : Nat} {d : CtxDesc} (desc : (s.ctx c).desc = some d) (ready : s.emitReady c = true) :
    (s.ctx c).outst.length < 4 ∧ ∃ slot, s.freeSlot d.outDev = some slot := by
  simp only [State.emitReady, desc, Bool.and_eq_true, decide_eq_true_eq] at ready
  exact ⟨ready.1.2, Option.isSome_iff_exists.mp ready.2⟩

/-- The only context that is ready is the one that emits. -/
theorem State.chunkEmit_only {s : State} {e i : Nat} (clean : s.ue = []) (small : i < 128)
    (ready : s.emitReady (128 * e + i) = true)
    (only : ∀ x < 128, x ≠ i → s.emitReady (128 * e + x) = false) :
    s.chunkEmit e = State.emit { s with rrEmit := mset 0 s.rrEmit e ((i + 1) % 128) } (128 * e + i) := by
  have found : (rotated 128 (mget 0 s.rrEmit e)).find? (fun x => s.emitReady (128 * e + x)) = some i := by
    refine find?_only (mem_rotated _ small) ready fun x mem other => only x ?_ other
    obtain ⟨y, -, rfl⟩ := List.mem_map.mp mem
    exact Nat.mod_lt _ (by decide)
  simp only [State.chunkEmit, State.checkControl_clean clean, found]

/-- The context after the emission of its lowest chunk. -/
def Ctx.emitted (k : Ctx) (t : ChunkSlot) (flags : BitVec 4) (id : Nat) : Ctx :=
  { k with base := k.base + 1, outst := k.outst ++ [id], flags := k.flags ||| flags.zeroExtend 5,
           slots := k.slots.filter fun x => x.chunk != t.chunk }

/-- An emission sends one packet to the output of the context, with the elements of the chunk behind its header. -/
theorem State.emit_sends {s : State} {c slot : Nat} {d : CtxDesc} {t : ChunkSlot} (clean : s.ue = [])
    (desc : (s.ctx c).desc = some d)
    (lowest : chunkSlot (s.ctx c) (s.ctx c).base = some t) (room : s.freeSlot d.outDev = some slot) :
    ∃ u q, s.emit c = u.setCtx c ((s.ctx c).emitted t (s.emitData c d t).2.2.2 s.nextId)
      ∧ Changes [.attach, .msgs, .msgSeq, .commits, .nextId] s u
      ∧ u.attach = s.attach ++ [q] ∧ q.pkt.hdr.op = opCollData ∧ q.pkt.hdr.dstDev = d.outDev ∧ q.pkt.hdr.dstEp = d.outEp
      ∧ q.pkt.job = (s.ctx c).job ∧ q.pkt.data.drop 32 = (s.emitData c d t).1 := by
  rcases data : s.emitData c d t with ⟨body, count, wtype, flags⟩
  simp only [State.emit, desc, lowest, data, State.ueIn_clean clean, room, Option.isSome_none, Bool.false_eq_true, if_false]
  simp only [← desc]
  have opened (u : State) : Changes [.attach, .msgs, .msgSeq, .commits, .nextId] u
    ((u.newMsg (.engine c) (some d.outDev)).openMsg u.nextId d.outDev slot) :=
    ((u.newMsg_changes ..).mono (by decide)).step (State.openMsg_changes ..) (by decide)
  refine ⟨_, _, rfl, ((opened s).step (State.attachPkt_changes ..) (by decide)).step (State.commitArrivals_changes ..) (by decide),
    ((State.commitArrivals_changes ..).elsewhere .attach (by decide)).trans rfl, rfl, rfl, rfl, rfl,
      List.drop_left' (length_leBytes ..)⟩

/-- The elements of an I32 chunk leave as they stand (R154). -/
theorem State.emitData_i32 {s : State} {d : CtxDesc} (i32 : d.dtype = dtI32) (wide : d.final = false) (c : Nat) (t : ChunkSlot) :
    (s.emitData c d t).1 = rdBytes s.ctxMem (c / 128 * 2 ^ 23 + slotOff c dtI32 t.chunk) (4 * t.elems) := by
  have whole := elemBytes_elemsOf 4 (length_rdBytes s.ctxMem (c / 128 * 2 ^ 23 + slotOff c dtI32 t.chunk) (4 * t.elems))
  rw [State.emitData, i32, wide]
  exact whole

/-- Settles O43: a handler by what it leaves on its chunk slot, ADD by the sum of each element, the emission by what it sends. -/
theorem handlersRunAndChunksLeave : Obligations.HandlersRunAndChunksLeave := by
  intro s e c d t0
  refine ⟨fun off => ⟨?stalled, ?still⟩, fun on engine healthy clean desc =>
    ⟨fun arr rest first slot => ⟨fun w ok => ?ok, fun f fault active => ?fault, fun i32 input small valid word some_ => ?add⟩,
      fun i small own ready only lowest => ?emit⟩⟩
  case stalled => exact congrArg Host.Outcome.next (State.engineDoes_stalls off e _)
  case still => exact congrArg Host.Outcome.next (State.engineDoes_stalls off e _)
  case ok =>
    have run := (State.engineDoes_works on engine healthy _).trans (State.handlerRun_ok clean first desc slot ok)
    refine .of_eq (congrArg Host.Outcome.next run)
      ⟨rfl, rdBytes_wrBytes_same .., ?_, fun x outside => rdByte_wrBytes_outside _ _ _ _ outside, ?_⟩
    · exact ((Changes.accepted.mono (by decide)).step (State.ctxStored_changes ..) (by decide)).step
        (State.setCtx_changes ..) (by decide)
    · rw [State.ctx_setCtx_same, chunkSlot_handledBy, slot]
      rfl
  case fault =>
    have run := (State.engineDoes_works on engine healthy _).trans (State.handlerRun_fault clean first desc slot fault)
    have used : (State.ctx { s with accepted := rest } c).st ≠ .free := fun free => nomatch active.symm.trans free
    have well : (State.ctx { s with accepted := rest } c).st ≠ .failed := fun failed => nomatch active.symm.trans failed
    exact .of_eq (congrArg Host.Outcome.next run) ⟨State.failCtx_accepted used well, State.failCtx_failed used well f⟩
  case add =>
    obtain ⟨k, bytes, ran⟩ := State.runHandler_add (arr := arr) (c := c) (t0 := t0) clean i32 input small valid word
    have run := (State.engineDoes_works on engine healthy _).trans (State.handlerRun_ok clean first desc slot ran)
    refine .of_eq (congrArg Host.Outcome.next run) fun i inside => ?_
    exact leNat_added bytes (Nat.mul_le_mul_left 4 some_) inside
  case emit =>
    obtain ⟨few, x, room⟩ := State.emitReady_room desc ready
    subst own
    let s1 : State := { s with rrEmit := mset 0 s.rrEmit e ((i + 1) % 128) }
    obtain ⟨u, q, sent, frame, attach, op, dev, ep, job, data⟩ := State.emit_sends (s := s1) clean desc lowest room
    have run := ((State.engineDoes_works on engine healthy _).trans (State.chunkEmit_only clean small ready only)).trans sent
    have outst :
        (u.setCtx (128 * e + i) ((s1.ctx (128 * e + i)).emitted t0 (s1.emitData (128 * e + i) d t0).2.2.2 s1.nextId)).ctx (128 * e + i)
        = (s.ctx (128 * e + i)).emitted t0 (s1.emitData (128 * e + i) d t0).2.2.2 s.nextId := State.ctx_setCtx_same ..
    refine .of_eq (congrArg Host.Outcome.next run) ⟨?_, ?_, ?_, ?_, q, attach, op, dev, ep, job, fun i32 wide => ?_⟩
    · rw [outst]; rfl
    · rw [outst]; rfl
    · rw [outst, Ctx.emitted, List.length_append]
      exact few
    · exact (congrArg (mget 0 · e) (frame.elsewhere .rrEmit (by decide))).trans (mget_mset_same ..)
    · rw [data, State.emitData_i32 i32 wide, show (128 * e + i) / 128 = e by omega]

end Sys2Proof.Machine
end
section
/-!
SUPPORT. A run on which a COMPLETE does more than end its message (R137, R138): it is the last one of a context that keeps a
descriptor and its only announce for the next coll_seq. The context is freed and takes both, so that it sends the combined announce
of R136 at once, which is a new open message.
-/

namespace Sys2Proof.Machine.LastComplete

/-- The descriptor of one I32 input in one chunk, of job 5 and coll_seq 10. -/
def nextDesc : List Byte :=
  leBytes 2 5 ++ leBytes 2 7 ++ [2, 0, 1, 0] ++ leBytes 4 10 ++ leBytes 4 1 ++ leBytes 2 1 ++ zeros 110

/-- The announce of that input, with the crc of its header and body (R140). -/
def nextAnnounce : List Byte :=
  leBytes 32 (ChunkHdr.toNat { ctx := 0, inIdx := 0, last := false, mm := false, flags := 0, wtype := 0, seq := 10, chunk := 0,
                               elems := 0, crc := 0x54F92E85 }) ++ zeros 64

def packet (op : Nat) (data : List Byte) : Packet :=
  { hdr := PktHdr.zero op, vc := 0, tc := 0, job := 5, tag := 0, abt := false, data := data }

/-- The open message of context 0 that awaits its COMPLETE. -/
def message : Msg := { id := 7, owner := .engine 0, dstDev := some 0, slot := some 0, seq := 0, waiting := false }

/-- That COMPLETE, delivered to engine 0. -/
def arrival : Arrival :=
  { slot := State.reset.engineSlot 0, sub := 0, mcast := false, unit := 0, ep := 0, pkt := packet opComplete [], src := 0,
    at_ := 0 }

/-- Context 0 of job 5, which has emitted the only chunk of coll_seq 9 and keeps the packets of coll_seq 10. -/
def context : Ctx :=
  { Ctx.reset with
    st := .active, job := 5, seq := 9, desc := some { parseDesc nextDesc with collSeq := 9 }, base := 1, outst := [7],
    pend := some { seq := 10, items := [packet opWrite nextDesc, packet opCollAnn nextAnnounce] } }

def before : State :=
  { (State.reset.raise R.xbarCtl 0).setCtx 0 context with
    dev := .running, msgs := [message], inbox := [arrival], nextId := 8 }

/-- The message that ended is gone, and the combined announce has opened another. -/
theorem msgs_after : (before.engineDoes 0 (before.engineComplete 0)).msgs
    = [{ id := 8, owner := .engine 0, dstDev := some 0, slot := none, seq := 0, waiting := false }] := by decide +kernel

end Sys2Proof.Machine.LastComplete

namespace Sys2Proof.Machine

/-- Refutes O42: after a COMPLETE the open messages are not those before without the one that it ends, where the context it frees
sends the combined announce of its pending record. -/
theorem not_enginesTakeTheirPackets : ¬ Obligations.EnginesTakeTheirPackets := by
  intro holds
  obtain ⟨-, works⟩ := holds LastComplete.before 0 LastComplete.arrival []
  obtain ⟨-, -, -, -, -, completes⟩ := works (by decide +kernel) (by decide) (by decide) rfl rfl (by decide +kernel)
  obtain ⟨t, run, -, msgs, -⟩ := completes LastComplete.message 0 rfl (by decide +kernel) rfl (by decide +kernel)
  cases run
  rw [LastComplete.msgs_after] at msgs
  exact absurd msgs (by decide)

end Sys2Proof.Machine
end

section
/-!
SUPPORT. The operations of a collective sequencer (spec/07_collectives.md, R179, R181, R191): the packets it puts into the
attachment, the arrival it takes, its only open collective, and what a collective leaves that ends.
-/

namespace Sys2Proof.Machine

/-! ### Lists -/

theorem splitFirst_append {p : α → Bool} {pre : List α} {a : α} (none_ : ∀ x ∈ pre, p x = false) (here : p a = true)
    (r : List α) : splitFirst p (pre ++ a :: r) = some (pre, a, r) := by
  induction pre with
  | nil => exact if_pos here
  | cons b pre ih =>
    obtain ⟨skip, none_⟩ := List.forall_mem_cons.mp none_
    simp [splitFirst, skip, ih none_]

/-- Numbering a list does not change how many of its elements satisfy a predicate. -/
theorem length_filter_zipIdx (p : α → Bool) (l : List α) : (l.zipIdx.filter fun t => p t.1).length = countWhere p l := by
  have fst : (l.zipIdx.filter fun t => p t.1).map Prod.fst = l.filter p := by
    rw [← List.zipIdx_map_fst 0 l, List.filter_map, List.zipIdx_map_fst]
    rfl
  rw [countWhere, ← fst, List.length_map]

theorem forall_of_forall₂ {R : α → β → Prop} {P : β → Prop} {l : List α} {m : List β} (each : List.Forall₂ R l m)
    (imp : ∀ a b, R a b → P b) : ∀ b ∈ m, P b := by
  induction each with
  | nil => exact List.forall_mem_nil _
  | cons head _ ih => exact List.forall_mem_cons.mpr ⟨imp _ _ head, ih⟩

/-! ### The packets of a sequencer (R179, R181) -/

theorem Changes.core {w : List Field} {s t : State} (h : Changes w s t) (hw : Field.cores ∉ w) (u : Nat) : t.core u = s.core u :=
  congrArg (mget Core.reset · u) (h.elsewhere .cores hw)

theorem Changes.tileSlot {w : List Field} {s t : State} (h : Changes w s t) (hw : Field.variant ∉ w) (n : Nat) :
    t.tileSlot n = s.tileSlot n :=
  congrArg (fun v : Variant => 6 * v.portDies + n) (h.elsewhere .variant hw)

/-- `t` has one packet more in the attachment than `s`: `q`, with a source slot, an operation and data, of a job. -/
structure State.Sends (s t : State) (q : OutPkt) (src op job : Nat) (data : List Byte) : Prop where
  attach : t.attach = s.attach ++ [q]
  src : q.src = src
  op : q.pkt.hdr.op = op
  job : q.pkt.job = job
  data : q.pkt.data = data

/-- A packet that goes to the device and the endpoint of a target word. -/
def OutPkt.goesTo (q : OutPkt) (t : Target) : Prop := q.pkt.hdr.dstDev = t.dev ∧ q.pkt.hdr.dstEp = t.ep

/-- A message of a sequencer is one packet. -/
theorem State.collMsg_sends (s : State) (u : Nat) (o : Owner) (d : CollDesc) (job slot : Nat) (dest : Target ⊕ Nat)
    (op addr : Nat) (data : List Byte) : ∃ q, s.Sends (s.collMsg u o d job slot dest op addr data) q (s.tileSlot (u / 4)) op job data
      ∧ ∀ t, dest = .inl t → q.goesTo t := by
  cases dest with
  | inl t =>
    refine ⟨_, ⟨rfl, rfl, rfl, rfl, rfl⟩, fun t' same => ?_⟩
    cases same
    exact ⟨rfl, rfl⟩
  | inr rank => exact ⟨_, ⟨rfl, rfl, rfl, rfl, rfl⟩, nofun⟩

/-- An announce goes to the target word with its body behind the chunk header (R179). -/
theorem State.sendAnnounce_sends (s : State) (u : Nat) (o : Owner) (d : CollDesc) (job slot m : Nat) (mm : Bool)
    (tree count : Nat) (t : Target) : ∃ q data, s.Sends (s.sendAnnounce u o d job slot m mm tree count t) q (s.tileSlot (u / 4)) opCollAnn job data
      ∧ q.goesTo t ∧ data.drop 32 = s.announceBody u d m count := by
  obtain ⟨q, sends, goes⟩ := s.collMsg_sends u o d job slot (.inl t) opCollAnn 0 _
  exact ⟨q, _, sends, goes t rfl, List.drop_left' (length_leBytes ..)⟩

/-- Operations one by one, each of which puts one packet into the attachment. -/
theorem State.foldl_sends {s : State} {g : State → α → State} {R : α → OutPkt → Prop}
    (slots : ∀ u a, (g u a).variant = u.variant)
    (one : ∀ u a, u.variant = s.variant → ∃ q, (g u a).attach = u.attach ++ [q] ∧ R a q) (l : List α) :
    ∃ qs, (l.foldl g s).attach = s.attach ++ qs ∧ List.Forall₂ R l qs := by
  have run (v : State) (same : v.variant = s.variant) : ∃ qs, (l.foldl g v).attach = v.attach ++ qs ∧ List.Forall₂ R l qs := by
    induction l generalizing v with
    | nil => exact ⟨[], (List.append_nil _).symm, .nil⟩
    | cons a l ih =>
      obtain ⟨q, first, holds⟩ := one v a same
      obtain ⟨qs, rest, each⟩ := ih (g v a) ((slots v a).trans same)
      refine ⟨q :: qs, ?_, .cons holds each⟩
      rw [List.foldl_cons, rest, first, List.append_assoc]
      rfl
  exact run s rfl

/-- The lead hands a packet on to every member of its device; no other member does (R177). -/
theorem State.forwardLocal_sends (s : State) (c : Coll) (a : Arrival) : ∃ qs, (s.forwardLocal c a).attach = s.attach ++ qs
    ∧ qs.map (·.pkt.hdr.dstEp) = if c.plan.lead then c.plan.locals else [] := by
  by_cases lead : c.plan.lead = true
  · obtain ⟨qs, sent, each⟩ := State.foldl_sends (s := s) (R := fun ep q => ep = q.pkt.hdr.dstEp)
      (g := fun s ep => s.attachPkt a.slot none none
        { a.pkt with hdr := { a.pkt.hdr with dstDev := s.selfDev, dstEp := ep, msgBytes := 0, msgSlot := 0, msgSeq := 0,
                                             sig := false },
                     abt := false }) (fun _ _ => rfl) (fun _ _ _ => ⟨_, rfl, rfl⟩) c.plan.locals
    refine ⟨qs, ?_, ?_⟩
    · rw [State.forwardLocal, if_neg (by simp [lead])]
      exact sent
    · rw [if_pos lead]
      exact (List.forall₂_eq_eq_eq ▸ List.forall₂_map_right_iff.mpr each : c.plan.locals = _).symm
  · exact ⟨[], by simp [State.forwardLocal, lead], by simp [lead]⟩

/-! ### The only open collective -/

/-- `c` is the only open collective, with whatever done word. -/
def State.OnlyOpen (s : State) (c : Coll) : Prop := ∃ w, s.colls = [{ c with doneWord := w }]

theorem State.onlyOpen_of_colls {s : State} {c : Coll} (only : s.colls = [c]) : s.OnlyOpen c := ⟨c.doneWord, only⟩

theorem State.OnlyOpen.of_changes {s t : State} {c : Coll} (h : s.OnlyOpen c) {w : List Field} (frame : Changes w s t)
    (hw : Field.colls ∉ w) : t.OnlyOpen c :=
  h.imp fun _ only => (frame.elsewhere .colls hw).trans only

/-- A change of the only open collective is a change of that collective. -/
theorem State.colls_updColl {s : State} {c : Coll} (only : s.colls = [c]) {id : Nat} (same : id = c.id) (f : Coll → Coll) :
    (s.updColl id f).colls = [f c] := by
  subst same
  simp [State.updColl, only, updFirst]

/-- Bits set in the done word leave it the only one. -/
theorem State.OnlyOpen.updDone {s : State} {c : Coll} (h : s.OnlyOpen c) {id : Nat} (same : id = c.id) (x : Word) :
    (s.updColl id fun c => { c with doneWord := c.doneWord ||| x }).OnlyOpen c := by
  obtain ⟨w, only⟩ := h
  exact ⟨w ||| x, State.colls_updColl only same _⟩

theorem State.find?_colls {s : State} {c : Coll} (only : s.colls = [c]) {p : Coll → Bool} (holds : p c = true) :
    s.colls.find? p = some c := by
  rw [only, List.find?_cons_of_pos holds]

/-- While the crossbar is disabled no collective is found that could send (R66). -/
theorem State.find?_stalled {s : State} (off : s.xbarOn = false) (n : Nat) (p : Coll → Bool) :
    (s.colls.find? fun c => s.xbarOn && c.n == n && p c) = none :=
  List.find?_eq_none.mpr (by simp [off])

/-! ### The arrival that a sequencer takes -/

theorem State.takeArrival_first {s : State} {a : Arrival} {rest : List Arrival} (inbox : s.inbox = a :: rest) {slot : Nat}
    (at_ : a.slot = slot) {p : Arrival → Bool} (meant : p a = true) :
    s.takeArrival slot p = some (a, { s with inbox := rest }) := by
  simp [State.takeArrival, inbox, takeFirst, at_, meant]

/-- The state with an arrival taken, whose bytes count as committed. -/
def State.arrived (s : State) (a : Arrival) (rest : List Arrival) : State := State.commitArrival { s with inbox := rest } a

theorem State.arrived_changes (s : State) (a : Arrival) (rest : List Arrival) : Changes [.inbox, .commits] s (s.arrived a rest) :=
  (Changes.inbox.mono (by decide)).step (State.commitArrival_changes ..) (by decide)

theorem State.arrived_inbox (s : State) (a : Arrival) (rest : List Arrival) : (s.arrived a rest).inbox = rest :=
  (State.commitArrival_changes ..).elsewhere .inbox (by decide)

theorem Changes.collFor {w : List Field} {s t : State} (h : Changes w s t) (hw : Field.colls ∉ w) (n : Nat) (a : Arrival) :
    t.collFor n a = s.collFor n a :=
  congrArg (List.find? _) (h.elsewhere .colls hw)

theorem State.arrived_collFor {s : State} {n : Nat} {a : Arrival} {c : Coll} (for_ : s.collFor n a = some c) (rest : List Arrival) :
    State.collFor (State.commitArrival { s with inbox := rest } a) n a = some c :=
  ((s.arrived_changes a rest).collFor (by decide) n a).trans for_

/-- The collective a packet is for is one of the die. -/
theorem State.n_of_collFor {s : State} {n : Nat} {a : Arrival} {c : Coll} (for_ : s.collFor n a = some c) : c.n = n := by
  have holds := List.find?_some for_
  simp only [Bool.and_eq_true, beq_iff_eq] at holds
  exact holds.1.1.1

/-! ### Semaphores and notices -/

/-- One more, where the semaphore does not overflow. -/
theorem State.sem_semUpdate_one {s : State} {u i : Nat} (fits : (s.sem u i).toNat < 2 ^ 32 - 1) (source : Nat) :
    (s.semUpdate u i source 1).sem u i = s.sem u i + 1 := by
  rw [State.semUpdate_adds (by omega), State.sem_setSem_same]
  exact BitVec.eq_of_toNat_eq (by simp)

theorem State.semUpdate_changes_of_fits {s : State} {u i : Nat} (fits : (s.sem u i).toNat < 2 ^ 32 - 1) (source : Nat) :
    Changes [.sems] s (s.semUpdate u i source 1) := by
  rw [State.semUpdate_adds (by omega)]
  exact State.setSem_changes ..

theorem State.mem_owe (s : State) (o : Owed) : o ∈ (s.owe o).owed := by
  unfold State.owe
  split
  · exact List.contains_iff_mem.mp ‹_›
  · exact List.mem_append_right _ (List.mem_singleton_self o)

/-- A notice that is owed stays so when another is. -/
theorem State.mem_owe_of_mem {s : State} {x : Owed} (mem : x ∈ s.owed) (o : Owed) : x ∈ (s.owe o).owed := by
  unfold State.owe
  split
  · exact mem
  · exact List.mem_append_left _ mem

theorem State.mem_owed_semUpdate {s : State} {x : Owed} (mem : x ∈ s.owed) (u i source v : Nat) :
    x ∈ (s.semUpdate u i source v).owed := by
  unfold State.semUpdate State.semFault
  extract_lets sum n s1
  split
  · refine State.mem_owe_of_mem ?_ _
    unfold s1
    split <;> exact mem
  · exact mem

/-- An update of a semaphore leaves the collective registers of every tile die. -/
theorem State.semUpdate_keepsColl (s : State) (n u i source v : Nat) :
    State.KeepsRegs (tdBase n + 0xc0000) (tdBase n + 0xc0008) s (s.semUpdate u i source v) := by
  have away {r : Reg} {k : Nat} (addr : r.addr = tdBase (u / 4) + 0xe0000 + k) (low : k < 0x10) :
      r.outside (tdBase n + 0xc0000) (tdBase n + 0xc0008) := by
    unfold Reg.outside
    rw [addr]
    unfold tdBase
    omega
  unfold State.semUpdate
  refine .ite ?_ ((State.setSem_changes ..).keepsRegs (by decide))
  unfold State.semFault
  refine .trans (.trans (.ite ?_ (.refl s)) (State.raise_keepsRegs _ _ (away (k := 0) rfl (by decide))))
    ((State.owe_changes ..).keepsRegs (by decide))
  exact ((s.setReg_keepsRegs _ (away (k := 4) rfl (by decide))).trans
    (State.setReg_keepsRegs _ _ (away (k := 8) rfl (by decide)))).trans
    (State.setReg_keepsRegs _ _ (away (k := 12) rfl (by decide)))

/-! ### Local store as agents outside the schedule see it (R210, R213) -/

theorem Changes.lsNow {w : List Field} {s t : State} (h : Changes w s t) (hc : Field.cores ∉ w) (hl : Field.ls ∉ w)
    (u a n : Nat) : t.lsNow u a n = s.lsNow u a n := by
  rw [State.lsNow, State.lsNow, State.lsUnder, State.lsUnder, h.core hc, h.elsewhere .ls hl]

theorem length_overlay (a : Nat) (bs : List Byte) (w : LsWrite) : (overlay a bs w).length = bs.length := by
  simp [overlay]

/-- A write of the whole range leaves its own bytes. -/
theorem overlay_whole {a : Nat} {bs : List Byte} {w : LsWrite} (addr : w.addr = a) (length : w.bytes.length = bs.length) :
    overlay a bs w = w.bytes := by
  refine List.ext_getElem (by rw [length_overlay, length]) fun i below inside => ?_
  simp [overlay, addr, inside]

theorem insertWrite_last {w : LsWrite} {l : List LsWrite} (later : ∀ x ∈ l, x.vis < w.vis) : insertWrite w l = l ++ [w] := by
  induction l with
  | nil => rfl
  | cons x l ih =>
    obtain ⟨first, later⟩ := List.forall_mem_cons.mp later
    simp [insertWrite, LsWrite.before, first, ih later]

theorem mem_insertWrite {w x : LsWrite} {l : List LsWrite} (mem : x ∈ insertWrite w l) : x = w ∨ x ∈ l := by
  induction l with
  | nil => exact .inl (List.mem_singleton.mp mem)
  | cons y l ih =>
    unfold insertWrite at mem
    split at mem
    · rcases List.mem_cons.mp mem with here | mem
      · exact .inr (here ▸ List.mem_cons_self)
      · exact (ih mem).imp id (List.mem_cons_of_mem y)
    · exact List.mem_cons.mp mem

theorem mem_foldl_insertWrite {x : LsWrite} {l acc : List LsWrite} (mem : x ∈ l.foldl (fun acc w => insertWrite w acc) acc) :
    x ∈ acc ∨ x ∈ l := by
  induction l generalizing acc with
  | nil => exact .inl mem
  | cons w l ih =>
    rcases ih mem with mem | mem
    · exact (mem_insertWrite mem).elim (fun here => .inr (here ▸ List.mem_cons_self)) .inl
    · exact .inr (List.mem_cons_of_mem w mem)

theorem mem_sortWrites {x : LsWrite} {l : List LsWrite} (mem : x ∈ sortWrites l) : x ∈ l :=
  (mem_foldl_insertWrite mem).resolve_left List.not_mem_nil

/-- A write that is visible after all others stands over them. -/
theorem State.lsUnder_last (s : State) (u : Nat) {ws : List LsWrite} {w : LsWrite} (later : ∀ x ∈ ws, x.vis < w.vis)
    (some_ : w.bytes ≠ []) : s.lsUnder u (ws ++ [w]) w.addr w.bytes.length = w.bytes := by
  have length : 0 < w.bytes.length := List.length_pos_iff.mpr some_
  have touches : w.touches w.addr w.bytes.length = true := by simp [LsWrite.touches, length]
  have last (l : List LsWrite) (later : ∀ x ∈ l, x.vis < w.vis) : sortWrites (l ++ [w]) = sortWrites l ++ [w] := by
    rw [sortWrites, List.foldl_append]
    exact insertWrite_last fun x mem => later x (mem_sortWrites mem)
  have width (l : List LsWrite) (bs : List Byte) : (l.foldl (overlay w.addr) bs).length = bs.length := by
    induction l generalizing bs with
    | nil => rfl
    | cons x l ih => rw [List.foldl_cons, ih, length_overlay]
  have kept : (ws ++ [w]).filter (fun x => x.touches w.addr w.bytes.length)
      = ws.filter (fun x => x.touches w.addr w.bytes.length) ++ [w] := by simp [touches]
  rw [State.lsUnder, kept, last _ fun x mem => later x (List.mem_filter.mp mem).1, List.foldl_append]
  exact overlay_whole rfl (by rw [width, length_rdBytes])

/-- What an agent stores, where no write of the core is still to come, is what it reads. -/
theorem State.lsNow_lsPut {s : State} {u : Nat} (a : Nat) {bs : List Byte} (some_ : bs ≠ [])
    (visible : ∀ x ∈ (s.core u).lsw, x.vis ≤ (s.core u).cyc) : (s.lsPut u a bs).lsNow u a bs.length = bs := by
  have clock : (s.core u).cyc ≤ (s.core u).clock := Nat.le_max_left ..
  rw [State.lsNow, State.lsPut, State.core_setCore_same]
  refine State.lsUnder_last _ u (fun x mem => ?_) some_
  have old := visible x mem
  dsimp only
  split <;> omega

/-- Without a word that is uncorrectable or decays, an agent meets none. -/
theorem State.lsUeNow_clean {s : State} {u : Nat} (clean : s.ue = []) (whole : (s.core u).decays = []) (a n : Nat) :
    s.lsUeNow u a n = false := by
  simp [State.lsUeNow, State.lsUe, State.lsBad, clean, whole]

theorem State.lsPut_queue (s : State) (u a : Nat) (bs : List Byte) : ((s.lsPut u a bs).core u).cq = (s.core u).cq := by
  rw [State.lsPut, State.core_setCore_same]

/-- A core that a clear leaves in IDLE keeps what it wrote. -/
theorem State.settleClear_lsNow (s : State) (u a n : Nat) : (s.settleClear u).lsNow u a n = s.lsNow u a n := by
  unfold State.settleClear
  extract_lets k
  split
  · simp [State.lsNow, State.lsUnder, k]
  · rfl

/-! ### The end of a collective (R191, R193, R196) -/

/-- The record of a collective that ends (R191). -/
def State.memberRecord (s : State) (u : Nat) (d : CollDesc) (code done : Nat) (total : Dword) : List Byte :=
  leBytes 1 code ++ leBytes 1 0 ++ leBytes 2 done ++ leBytes 4 d.seq ++ leBytes 8 total.toNat
    ++ leBytes 8 (s.replica (tileDie (u / 4))).toNat ++ leBytes 8 0

/-- The state with the record written where it lies in local store. -/
def State.recordPut (s : State) (u : Nat) (d : CollDesc) (rec : List Byte) : State :=
  if d.recAddr + 32 ≤ lsSize then s.lsPut u d.recAddr rec else s

/-- The state with the fault of a collective recorded at its die (R196). -/
def State.collFault (s : State) (u job code : Nat) : State :=
  if code = 0 then s
  else State.raise (if s.reg (R.tdCollfault (u / 4)) = 0 then
      s.setReg (R.tdCollfault (u / 4)) (atFld 31 24 code ||| atFld 23 12 job ||| atFld 1 0 (u % 4))
    else s) (R.tdCollcause (u / 4)) 0

/-- A collective ends by its record, its ADD and its fault. -/
theorem State.endMember_eq (s : State) (u job : Nat) (d : CollDesc) (code done : Nat) (total : Dword) :
    s.endMember u job d code done total
      = ((s.recordPut u d (s.memberRecord u d code done total)).semUpdate u d.sem 3 1).collFault u job code := rfl

theorem State.recordPut_changes (s : State) (u : Nat) (d : CollDesc) (rec : List Byte) :
    Changes [.cores] s (s.recordPut u d rec) :=
  .ite (State.lsPut_changes ..) (.refl _ s)

theorem State.collFault_changes (s : State) (u job code : Nat) : Changes [.regs] s (s.collFault u job code) :=
  .ite (.refl _ s) (Changes.step (.ite (State.setReg_changes ..) (.refl _ s)) (State.raise_changes ..) (by decide))

/-- A die that holds no record takes the code; its cause bit is set in any case. -/
theorem State.collFault_records (s : State) (u job : Nat) {code : Nat} (fault : code ≠ 0) (byte : code < 256) :
    (s.collFault u job code).bit (R.tdCollcause (u / 4)) 0 = true
      ∧ (s.reg (R.tdCollfault (u / 4)) = 0 → (s.collFault u job code).fld (R.tdCollfault (u / 4)) 31 24 = code) := by
  rw [State.collFault, if_neg fault]
  refine ⟨State.bit_raise_same _ _ (by decide), fun empty => ?_⟩
  rw [State.fld, State.reg_raise_other _ _ (by simp only [R.tdCollcause, R.tdCollfault]; omega), if_pos empty,
    State.reg_setReg_same, BitVec.or_assoc]
  exact wfld_code _ byte (toNat_or_lt (toNat_atFld_lt 23 12 _ (by decide)) ((toNat_atFld_lt 1 0 _ (by decide)).trans (by decide)))

/-- A recorded fault leaves the other cause bits of every die. -/
theorem State.bit_collFault (s : State) (u job code n : Nat) {i : Nat} (other : i ≠ 0) :
    (s.collFault u job code).bit (R.tdCollcause n) i = s.bit (R.tdCollcause n) i := by
  have stored (w : Word) : (s.setReg (R.tdCollfault (u / 4)) w).bit (R.tdCollcause n) i = s.bit (R.tdCollcause n) i :=
    s.bit_setReg_other w (by simp only [R.tdCollcause, R.tdCollfault, tdBase]; omega) i
  unfold State.collFault
  split
  · rfl
  · have kept (t : State) (same : t.bit (R.tdCollcause n) i = s.bit (R.tdCollcause n) i) :
        (t.raise (R.tdCollcause (u / 4)) 0).bit (R.tdCollcause n) i = s.bit (R.tdCollcause n) i := by
      by_cases here : n = u / 4
      · rw [here] at same ⊢
        exact (State.bit_raise_other _ _ (by decide) other).trans same
      · exact (State.bit_raise_elsewhere _ _ (by simp only [R.tdCollcause, tdBase]; omega) i).trans same
    refine kept _ ?_
    split
    · exact stored _
    · rfl

section
variable (s : State) (u job : Nat) (d : CollDesc) (code done : Nat) (total : Dword)

theorem State.endMember_sem (fits : (s.sem u d.sem).toNat < 2 ^ 32 - 1) :
    (s.endMember u job d code done total).sem u d.sem = s.sem u d.sem + 1 := by
  have put := s.recordPut_changes u d (s.memberRecord u d code done total)
  rw [← put.sem (by decide)] at fits ⊢
  rw [State.endMember_eq, (State.collFault_changes ..).sem (by decide), State.sem_semUpdate_one fits]

/-- Without an overflow of its semaphore no notice is owed. -/
theorem State.endMember_owed (fits : (s.sem u d.sem).toNat < 2 ^ 32 - 1) :
    (s.endMember u job d code done total).owed = s.owed := by
  have put := s.recordPut_changes u d (s.memberRecord u d code done total)
  rw [← put.sem (by decide)] at fits
  rw [State.endMember_eq, (State.collFault_changes ..).elsewhere .owed (by decide),
    (State.semUpdate_changes_of_fits fits 3).elsewhere .owed (by decide), put.elsewhere .owed (by decide)]

theorem State.endMember_owes {x : Owed} (mem : x ∈ s.owed) : x ∈ (s.endMember u job d code done total).owed := by
  rw [State.endMember_eq, (State.collFault_changes ..).elsewhere .owed (by decide)]
  refine State.mem_owed_semUpdate ?_ ..
  rwa [(s.recordPut_changes ..).elsewhere .owed (by decide)]

theorem State.endMember_cause (n : Nat) {i : Nat} (other : i ≠ 0) :
    (s.endMember u job d code done total).bit (R.tdCollcause n) i = s.bit (R.tdCollcause n) i := by
  have kept := State.semUpdate_keepsColl (s.recordPut u d (s.memberRecord u d code done total)) n u d.sem 3 1
  rw [State.endMember_eq, State.bit_collFault _ _ _ _ _ other, kept.bit (Nat.le_refl _) (Nat.add_lt_add_left (by decide) _),
    (s.recordPut_changes ..).bit (by decide)]

theorem State.endMember_fault (fault : code ≠ 0) (byte : code < 256) :
    (s.endMember u job d code done total).bit (R.tdCollcause (u / 4)) 0 = true
      ∧ (s.reg (R.tdCollfault (u / 4)) = 0
        → (s.endMember u job d code done total).fld (R.tdCollfault (u / 4)) 31 24 = code) := by
  have kept := State.semUpdate_keepsColl (s.recordPut u d (s.memberRecord u d code done total)) (u / 4) u d.sem 3 1
  have same := (kept.reg (R.tdCollfault (u / 4)) (Nat.add_le_add_left (by decide) _) (Nat.add_lt_add_left (by decide) _)).trans
    ((s.recordPut_changes ..).reg (by decide) _)
  obtain ⟨cause, record⟩ := State.collFault_records
    ((s.recordPut u d (s.memberRecord u d code done total)).semUpdate u d.sem 3 1) u job fault byte
  exact ⟨cause, fun empty => record (same.trans empty)⟩

theorem State.endMember_queue : ((s.endMember u job d code done total).core u).cq = (s.core u).cq := by
  have rest : ((s.endMember u job d code done total).core u)
      = (s.recordPut u d (s.memberRecord u d code done total)).core u := by
    rw [State.endMember_eq, (State.collFault_changes ..).core (by decide), (State.semUpdate_changes ..).core (by decide)]
  rw [rest, State.recordPut]
  split
  · exact State.lsPut_queue ..
  · rfl

/-- The record stands in local store. -/
theorem State.endMember_record (visible : ∀ x ∈ (s.core u).lsw, x.vis ≤ (s.core u).cyc) (inside : d.recAddr + 32 ≤ lsSize) :
    (s.endMember u job d code done total).lsNow u d.recAddr 32 = s.memberRecord u d code done total := by
  have length : (s.memberRecord u d code done total).length = 32 := by simp [State.memberRecord, length_leBytes]
  have put := State.lsNow_lsPut d.recAddr (List.ne_nil_of_length_eq_add_one length) visible
  rw [length] at put
  rw [State.endMember_eq, (State.collFault_changes ..).lsNow (by decide) (by decide),
    (State.semUpdate_changes ..).lsNow (by decide) (by decide), State.recordPut, if_pos inside]
  exact put

end

/-- The state without an open collective that ends. -/
def State.closed (s : State) (c : Coll) : State := { s with colls := s.colls.filter fun o => o.id != c.id }

theorem State.endColl_eq (s : State) (c : Coll) (code done : Nat) :
    s.endColl c code done = ((s.closed c).endMember c.core c.job c.desc code done c.total).settleClear c.core := rfl

theorem Changes.memberRecord {w : List Field} {s t : State} (h : Changes w s t) (hw : Field.time ∉ w) (u : Nat) (d : CollDesc)
    (code done : Nat) (total : Dword) : t.memberRecord u d code done total = s.memberRecord u d code done total := by
  rw [State.memberRecord, State.memberRecord, State.replica, State.replica, h.elsewhere .time hw]

section
variable (s : State) (c : Coll) (code done : Nat)

theorem State.endColl_sem (fits : (s.sem c.core c.desc.sem).toNat < 2 ^ 32 - 1) :
    (s.endColl c code done).sem c.core c.desc.sem = s.sem c.core c.desc.sem + 1 := by
  rw [State.endColl_eq, (State.settleClear_changes ..).sem (by decide)]
  exact (s.closed c).endMember_sem _ _ _ _ _ _ fits

theorem State.endColl_owed (fits : (s.sem c.core c.desc.sem).toNat < 2 ^ 32 - 1) : (s.endColl c code done).owed = s.owed := by
  rw [State.endColl_eq, (State.settleClear_changes ..).elsewhere .owed (by decide)]
  exact (s.closed c).endMember_owed _ _ _ _ _ _ fits

theorem State.endColl_owes {x : Owed} (mem : x ∈ s.owed) : x ∈ (s.endColl c code done).owed := by
  rw [State.endColl_eq, (State.settleClear_changes ..).elsewhere .owed (by decide)]
  exact (s.closed c).endMember_owes _ _ _ _ _ _ mem

theorem State.endColl_record (visible : ∀ x ∈ (s.core c.core).lsw, x.vis ≤ (s.core c.core).cyc)
    (inside : c.desc.recAddr + 32 ≤ lsSize) :
    (s.endColl c code done).lsNow c.core c.desc.recAddr 32 = s.memberRecord c.core c.desc code done c.total := by
  rw [State.endColl_eq, State.settleClear_lsNow]
  exact (s.closed c).endMember_record _ _ _ _ _ _ visible inside

end

/-- The fault of a collective that ends stands in the record of its core's die, where that held none (R196). -/
theorem State.endColl_fault (s : State) (c : Coll) {code : Nat} (done : Nat) (fault : code ≠ 0) (byte : code < 256)
    (empty : s.reg (R.tdCollfault (c.core / 4)) = 0) :
    (s.endColl c code done).fld (R.tdCollfault (c.core / 4)) 31 24 = code := by
  rw [State.endColl_eq, State.fld, (State.settleClear_changes ..).reg (by decide)]
  exact ((s.closed c).endMember_fault c.core c.job c.desc code done c.total fault byte).2 empty

section
variable {s : State} {c k : Coll} (only : s.colls = [k]) (same : k.id = c.id) (code done : Nat)
include only same

theorem State.endColl_colls : (s.endColl c code done).colls = [] := by
  rw [State.endColl_eq, (State.settleClear_changes ..).elsewhere .colls (by decide),
    (State.endMember_changes ..).elsewhere .colls (by decide)]
  simp [State.closed, only, same]

theorem State.endPoisoned_colls : (s.endPoisoned c done).colls = [] :=
  State.endColl_colls (((s.owe_changes _).elsewhere .colls (by decide)).trans only) same ..

end

/-- A poisoned collective leaves its job to be told (R192). -/
theorem State.endPoisoned_owes (s : State) (c : Coll) (done : Nat) :
    (⟨.coll, c.n, c.job, fcPoisoned⟩ : Owed) ∈ (s.endPoisoned c done).owed := by
  exact State.endColl_owes _ _ _ _ (s.mem_owe _)

/-- A packet with a wrong crc ends the collective, sets the cause bit and leaves the job to be told (R180, R192). -/
theorem State.collPoisoned_ends {s : State} {c : Coll} (only : s.colls = [c]) :
    (s.collPoisoned c).colls = [] ∧ (s.collPoisoned c).bit (R.tdCollcause c.n) 1 = true
      ∧ (⟨.coll, c.n, c.job, fcPoisoned⟩ : Owed) ∈ (s.collPoisoned c).owed := by
  refine ⟨State.endPoisoned_colls (s := s.raise (R.tdCollcause c.n) 1) only rfl 0, ?_, State.endPoisoned_owes ..⟩
  rw [State.collPoisoned, State.endPoisoned, State.endColl, (State.settleClear_changes ..).bit (by decide),
    State.endMember_cause _ _ _ _ _ _ _ _ (by decide), Changes.colls.bit (by decide), (State.owe_changes ..).bit (by decide)]
  exact State.bit_raise_same _ _ (by decide)

end Sys2Proof.Machine
end

section
/-!
SUPPORT. How a collective opens, announces itself and starts its data phase (spec/07_collectives.md, R163, R168, R177, R179, R180,
R182).
-/

namespace Sys2Proof.Machine

/-! ### Acceptance (R163, R168, R179) -/

/-- A range that is read whole leaves no fault: translation alone has acted. -/
theorem State.readVa_ok {s t : State} {u va n : Nat} {bs : List Byte} (ok : s.readVa u va n = (t, .ok bs)) :
    Changes [.atu, .freeCtr] s t := by
  unfold State.readVa at ok
  have frame := s.vaRange_changes (u / 4) (s.coreSlot u) va n false
  generalize s.vaRange (u / 4) (s.coreSlot u) va n false = range at ok frame
  obtain ⟨v, res⟩ := range
  cases res with
  | ok ps =>
    dsimp only at ok
    split at ok
    · exact (Prod.mk.inj ok).1 ▸ frame
    · exact nomatch (Prod.mk.inj ok).2
  | refused | remote | ue => exact nomatch (Prod.mk.inj ok).2

theorem State.readPlan_ok {s t : State} {u : Nat} {d : CollDesc} {p : Plan} (ok : s.readPlan u d = (t, .ok p)) :
    Changes [.atu, .freeCtr] s t := by
  unfold State.readPlan at ok
  rcases head : s.readVa u d.planAddr 32 with ⟨v, e | h⟩
  · rw [head] at ok
    exact nomatch (Prod.mk.inj ok).2
  · rw [head] at ok
    dsimp only at ok
    rcases body : v.readVa u d.planAddr (planHead d.trees (leAt h 6 1) + 136 * leAt h 4 2) with ⟨x, e | bs⟩
    · rw [body] at ok
      exact nomatch (Prod.mk.inj ok).2
    · rw [body] at ok
      exact (Prod.mk.inj ok).1 ▸ (State.readVa_ok head).trans (State.readVa_ok body)

/-- The state with the command at the head of a core's CQ taken. -/
def State.collTaken (s : State) (u : Nat) (rest : List DCmd) : State := s.setCore u { s.core u with cq := rest }

theorem State.collTaken_queue (s : State) (u : Nat) (rest : List DCmd) : ((s.collTaken u rest).core u).cq = rest := by
  rw [State.collTaken, State.core_setCore_same]

/-- While the crossbar is disabled no command is taken (R66). -/
theorem State.collAccept_stalls {s : State} (off : s.xbarOn = false) (u : Nat) : s.collAccept u = s := by
  cases queue : (s.core u).cq with
  | nil => simp only [State.collAccept, queue]
  | cons c rest => simp only [State.collAccept, queue, off, Bool.and_false, Bool.not_false, if_true]

/-- The descriptor of a command as local store stands when it is taken. -/
def State.collDesc (s : State) (u : Nat) (cmd : DCmd) : CollDesc := parseColl (s.lsNow u (dmaDesc cmd.slot.toNat) 128)

theorem State.collTaken_desc (s : State) (u : Nat) (rest : List DCmd) (cmd : DCmd) :
    (s.collTaken u rest).collDesc u cmd = s.collDesc u cmd := by
  rw [State.collDesc, State.lsNow, State.collTaken, State.core_setCore_same]
  rfl

/-- Without a word that is uncorrectable or decays the descriptor can be read. -/
theorem State.collTaken_readable (s : State) {u : Nat} (rest : List DCmd) (clean : s.ue = []) (whole : (s.core u).decays = [])
    (a n : Nat) : (s.collTaken u rest).lsUeNow u a n = false :=
  State.lsUeNow_clean (s := s.collTaken u rest) clean (by rw [State.collTaken, State.core_setCore_same]; exact whole) a n

section
variable {s : State} {u : Nat} {cmd : DCmd} {rest : List DCmd} (on : s.xbarOn = true) (head : (s.core u).cq = cmd :: rest)
  (core : s.hasCore u = true) (room : s.collRoom u = true) (clean : s.ue = []) (whole : (s.core u).decays = [])
include on head core room clean whole

/-- A core without a rank ends its command with DENIED. -/
theorem State.collAccept_denied (rankless : s.bit (R.tdCRank u) 31 = false) : s.collAccept u
    = (s.collTaken u rest).endMember u ((s.collTaken u rest).coreJob u) (s.collDesc u cmd) fcDenied 0 0 := by
  have readable := s.collTaken_readable rest clean whole (dmaDesc cmd.slot.toNat) 128
  have unranked : (s.collTaken u rest).bit (R.tdCRank u) 31 = false := rankless
  rw [← State.collTaken_desc s u rest cmd]
  rw [State.collTaken] at readable unranked ⊢
  simp only [State.collAccept, head, core, room, on, readable, unranked, Bool.and_self, Bool.not_true, Bool.not_false,
    Bool.false_eq_true, if_false, if_true]
  rfl

/-- A command of a ranked core with a readable plan opens a collective, with mm where its own checks fail (R168). -/
theorem State.collAccept_opens {t : State} {p : Plan} (ranked : s.bit (R.tdCRank u) 31 = true)
    (plan : (s.collTaken u rest).readPlan u (s.collDesc u cmd) = (t, .ok p)) (valid : p.ctlLeaf.valid = true) :
    ∃ m, s.collAccept u = t.numbered.openColl u t.nextId (s.collDesc u cmd) p
      (!(s.collDesc u cmd).passes (t.coreJob u) (wfld (t.active.word 1 0 (t.coreSlot u) 1) 20 0) p
        (t.job (t.coreSlot u)).det) m := by
  have readable := s.collTaken_readable rest clean whole (dmaDesc cmd.slot.toNat) 128
  have ranked' : (s.collTaken u rest).bit (R.tdCRank u) 31 = true := ranked
  have job : t.coreJob u = (s.collTaken u rest).coreJob u :=
    congrArg (wfld · 11 0) ((State.readPlan_ok plan).reg (by decide) _)
  refine ⟨if (s.collDesc u cmd).groupOk (wfld (t.active.word 1 0 (t.coreSlot u) 1) 20 0) then (s.collDesc u cmd).self else 0, ?_⟩
  rw [← State.collTaken_desc s u rest cmd] at plan ⊢
  rw [job]
  rw [State.collDesc, State.collTaken] at plan
  rw [State.collTaken] at readable ranked' ⊢
  simp only [State.collAccept, head, core, room, on, readable, ranked', plan, valid, Bool.and_self, Bool.not_true,
    Bool.false_eq_true, if_false]
  rfl

end

/-- A collective that opens sends its images and its data-tree announces (R179). -/
theorem State.openColl_opens (s : State) (u id : Nat) (d : CollDesc) (p : Plan) (mm : Bool) (m : Nat) : ∃ x ps,
    (s.openColl u id d p mm m).colls = s.colls ++ [x] ∧ x.core = u ∧ x.n = u / 4 ∧ x.desc = d ∧ x.plan = p ∧ x.phase = .announce
      ∧ x.mm = mm ∧ (s.openColl u id d p mm m).attach = s.attach ++ ps ∧ x.annOutst = ps.length
      ∧ ps.length = countWhere (·.1.valid) p.images + countWhere (·.valid) p.leaves
      ∧ ∀ q ∈ ps, q.src = s.tileSlot (u / 4) ∧ (q.pkt.hdr.op = opWrite ∨ q.pkt.hdr.op = opCollAnn) := by
  unfold State.openColl
  extract_lets job slot seed step images leaves c opened imaged
  have variant {v : State} (same : v.variant = opened.variant) : v.tileSlot (u / 4) = s.tileSlot (u / 4) :=
    congrArg (fun v : Variant => 6 * v.portDies + u / 4) same
  let R (q : OutPkt) : Prop := q.src = s.tileSlot (u / 4) ∧ (q.pkt.hdr.op = opWrite ∨ q.pkt.hdr.op = opCollAnn)
  obtain ⟨ps, sentImages, eachImage⟩ := State.foldl_sends (s := opened) (R := fun _ q => R q)
    (g := fun s i => s.collMsg u (.collAnn id) d job slot (.inl i.1) opWrite (2 ^ 23 + i.1.ctx % 128 * 128)
      (d.fillImage job seed step i.1 i.2))
    (fun v i => (v.collMsg_changes ..).elsewhere .variant (by decide))
    (fun v i same => by
      obtain ⟨q, sends, -⟩ := v.collMsg_sends u (.collAnn id) d job slot (.inl i.1) opWrite (2 ^ 23 + i.1.ctx % 128 * 128)
        (d.fillImage job seed step i.1 i.2)
      exact ⟨q, sends.attach, sends.src.trans (variant same), .inl sends.op⟩) images
  have imagedVariant : imaged.variant = opened.variant :=
    (Changes.foldl (.refl _ _) fun v i => v.collMsg_changes ..).elsewhere .variant
      (by decide : Field.variant ∉ [.attach, .msgs, .nextId])
  obtain ⟨qs, sentLeaves, eachLeaf⟩ := State.foldl_sends (s := imaged) (R := fun _ q => R q)
    (g := fun s t => s.sendAnnounce u (.collAnn id) d job slot m mm t.2 (d.shardLen t.2) t.1)
    (fun v t => (v.sendAnnounce_changes ..).elsewhere .variant (by decide))
    (fun v t same => by
      obtain ⟨q, data, sends, -⟩ := v.sendAnnounce_sends u (.collAnn id) d job slot m mm t.2 (d.shardLen t.2) t.1
      exact ⟨q, sends.attach, sends.src.trans (variant (same.trans imagedVariant)), .inr sends.op⟩) leaves
  have count : (ps ++ qs).length = countWhere (·.1.valid) p.images + countWhere (·.valid) p.leaves := by
    rw [List.length_append, ← eachImage.length_eq, ← eachLeaf.length_eq]
    exact congrArg (_ + ·) (length_filter_zipIdx ..)
  refine ⟨c, ps ++ qs, ?_, rfl, rfl, rfl, rfl, rfl, rfl, ?_, ?_, count, ?_⟩
  · exact ((Changes.foldl (.refl _ _) fun v t => v.sendAnnounce_changes ..).elsewhere .colls
      (by decide : Field.colls ∉ [.attach, .msgs, .nextId])).trans
      ((Changes.foldl (.refl _ _) fun v i => v.collMsg_changes ..).elsewhere .colls
        (by decide : Field.colls ∉ [.attach, .msgs, .nextId]))
  · rw [sentLeaves, sentImages, List.append_assoc]
  · rw [List.length_append, ← eachImage.length_eq, ← eachLeaf.length_eq]
  · exact List.forall_mem_append.mpr ⟨forall_of_forall₂ eachImage fun _ _ holds => holds,
      forall_of_forall₂ eachLeaf fun _ _ holds => holds⟩

/-! ### Announces (R177, R179, R180) -/

/-- While the crossbar is disabled no collective announces (R66). -/
theorem State.controlAnnounce_stalls {s : State} (off : s.xbarOn = false) (n : Nat) : s.controlAnnounce n = s := by
  rw [State.controlAnnounce, State.find?_stalled off]

theorem State.controlAnnounce_announces {s : State} {n : Nat} {c : Coll} (on : s.xbarOn = true) (only : s.colls = [c])
    (die : c.n = n) (may : c.mayAnnounce = true) : s.controlAnnounce n
      = (s.updColl c.id fun c => { c with annSent := true }).sendAnnounce c.core (.collCtl c.id) c.desc c.job c.slot c.desc.self
          c.mm c.desc.trees c.desc.count c.plan.ctlLeaf := by
  have found : (s.colls.find? fun c => s.xbarOn && c.n == n && c.mayAnnounce) = some c :=
    State.find?_colls only (by simp [on, die, may])
  rw [State.controlAnnounce, found]

section
variable {s : State} {n : Nat} {c : Coll} {a : Arrival} {rest : List Arrival} (inbox : s.inbox = a :: rest)
  (at_ : a.slot = s.tileSlot n) (op : a.pkt.hdr.op = opCollAnn) (for_ : s.collFor n a = some c)
include inbox at_ op for_

/-- An announce at the front is taken as one of a data tree or of the control tree, as its sequence number says. -/
theorem State.takeAnnounce_first {ctl : Bool} (tree : (c.desc.treeOf (chunkHdr a.pkt).seq == some c.desc.trees) = ctl) :
    s.takeAnnounce n ctl = some (a, { s with inbox := rest }) :=
  State.takeArrival_first inbox at_ (by simp [op, for_, tree])

section
variable {x : Nat} (tree : c.desc.treeOf (chunkHdr a.pkt).seq = some x) (data : x ≠ c.desc.trees)
include tree data

/-- The combined announce of a data tree is recorded. -/
theorem State.announceReceive_records (good : crcGood a.pkt = true) : s.announceReceive n
    = (s.arrived a rest).updColl c.id fun c =>
        { c with trees := c.trees ++ (c.desc.treeOf (chunkHdr a.pkt).seq).toList, mm := c.mm || (chunkHdr a.pkt).mm } := by
  have taken := State.takeAnnounce_first inbox at_ op for_ (ctl := false) (by simp [tree, data])
  have mine := State.arrived_collFor for_ rest
  simp only [State.announceReceive, taken, mine, good, Bool.not_true, Bool.false_eq_true, if_false]
  rfl

theorem State.announceReceive_poisoned (bad : crcGood a.pkt = false) :
    s.announceReceive n = (s.arrived a rest).collPoisoned c := by
  have taken := State.takeAnnounce_first inbox at_ op for_ (ctl := false) (by simp [tree, data])
  have mine := State.arrived_collFor for_ rest
  simp only [State.announceReceive, taken, mine, bad, Bool.not_false, if_true]
  rfl

end

/-! ### The announce of the control root (R180, R182) -/

/-- What the announce of the control root has to say: no mismatch, the digest of the descriptor, the step of the core. -/
def State.announceFits (s : State) (c : Coll) (a : Arrival) : Prop :=
  (chunkHdr a.pkt).mm = false ∧ slice (chunkBody a.pkt) 0 16 = collDigest c.desc
    ∧ leAt (chunkBody a.pkt) 32 8 = s.reg64 (R.tdCStepLo c.core) (R.tdCStepHi c.core)

/-- The collective with the total that the announce of the control root gives. -/
def Coll.withTotal (c : Coll) (a : Arrival) : Coll := { c with total := BitVec.ofNat 64 (leAt (chunkBody a.pkt) 16 8) }

/-- The state with that announce taken, and handed on by a lead. -/
def State.announced (s : State) (c : Coll) (a : Arrival) (rest : List Arrival) : State := (s.arrived a rest).forwardLocal c a

omit inbox at_ op for_ in
theorem State.announced_changes (s : State) (c : Coll) (a : Arrival) (rest : List Arrival) :
    Changes [.inbox, .commits, .attach, .nextId] s (s.announced c a rest) :=
  ((s.arrived_changes a rest).mono (by decide)).step (State.forwardLocal_changes ..) (by decide)

omit inbox at_ op for_ in
theorem State.announced_inbox (s : State) (c : Coll) (a : Arrival) (rest : List Arrival) : (s.announced c a rest).inbox = rest :=
  ((State.forwardLocal_changes ..).elsewhere .inbox (by decide)).trans (s.arrived_inbox a rest)

omit inbox at_ op for_ in
theorem State.announced_colls {s : State} {c k : Coll} (only : s.colls = [k]) (a : Arrival) (rest : List Arrival) :
    (s.announced c a rest).colls = [k] :=
  ((s.announced_changes c a rest).elsewhere .colls (by decide)).trans only

section
variable (tree : c.desc.treeOf (chunkHdr a.pkt).seq = some c.desc.trees) (good : crcGood a.pkt = true)
  (phase : c.phase = .announce)
include tree good phase

/-- The data phase starts where the announce fits, else the collective ends. -/
theorem State.collRelease_announced : s.collRelease n
    = if (chunkHdr a.pkt).mm || slice (chunkBody a.pkt) 0 16 != collDigest c.desc
          || leAt (chunkBody a.pkt) 32 8 != (s.announced c a rest).reg64 (R.tdCStepLo c.core) (R.tdCStepHi c.core) then
        (s.announced c a rest).endColl (c.withTotal a) fcMismatch 0
      else
        let r := (s.announced c a rest).blockCounts (c.withTotal a)
        r.1.updColl c.id fun o =>
          { o with phase := .released, total := (c.withTotal a).total, streams := (c.withTotal a).streamsOf r.2 } := by
  have taken := State.takeAnnounce_first inbox at_ op for_ (ctl := true) (by simp [tree])
  have mine := State.arrived_collFor for_ rest
  simp only [State.collRelease, taken, mine, good, phase, Bool.not_true, Bool.false_eq_true, if_false, ne_eq, not_true_eq_false]
  rfl

omit inbox at_ op for_ tree good phase in
/-- The test of COLL_RELEASE: handing the announce on leaves the core's step. -/
theorem State.announceFits_iff : (((chunkHdr a.pkt).mm || slice (chunkBody a.pkt) 0 16 != collDigest c.desc
      || leAt (chunkBody a.pkt) 32 8 != (s.announced c a rest).reg64 (R.tdCStepLo c.core) (R.tdCStepHi c.core)) = true)
    ↔ ¬ s.announceFits c a := by
  have step : (s.announced c a rest).reg64 (R.tdCStepLo c.core) (R.tdCStepHi c.core)
      = s.reg64 (R.tdCStepLo c.core) (R.tdCStepHi c.core) := by
    rw [State.reg64, (s.announced_changes c a rest).reg (by decide), (s.announced_changes c a rest).reg (by decide)]
    rfl
  rw [step, State.announceFits]
  cases (chunkHdr a.pkt).mm <;> simp [or_iff_not_imp_left]

end
end

/-! ### The blocks of an ALL_TO_ALL (R182) -/

/-- The length of block `j` behind those of the blocks before it. -/
def State.countBlock (c : Coll) (r : State × List Nat) (j : Nat) : State × List Nat :=
  match r.1.readVa c.core (c.desc.srcAddr + c.desc.size * c.desc.block + 8 * j) 8 with
  | (s, .ok bs) => (s, r.2 ++ [min (leNat bs) c.desc.maxCount])
  | (s, .error _) => (s.updColl c.id fun c => { c with doneWord := c.doneWord ||| oneBit 9 }, r.2 ++ [0])

/-- An unreadable length is zero and marks the done word; none is larger than max_count. -/
theorem State.countBlock_one {c : Coll} {r : State × List Nat} (only : r.1.OnlyOpen c) (j : Nat) :
    (State.countBlock c r j).1.OnlyOpen c ∧ ∃ k ≤ c.desc.maxCount, (State.countBlock c r j).2 = r.2 ++ [k] := by
  unfold State.countBlock
  have frame := r.1.readVa_changes c.core (c.desc.srcAddr + c.desc.size * c.desc.block + 8 * j) 8
  generalize r.1.readVa c.core (c.desc.srcAddr + c.desc.size * c.desc.block + 8 * j) 8 = read at frame ⊢
  have still := only.of_changes frame (by decide)
  rcases read with ⟨t, e | bs⟩
  · exact ⟨still.updDone rfl _, 0, Nat.zero_le _, rfl⟩
  · exact ⟨still, _, Nat.min_le_right .., rfl⟩

theorem State.foldl_countBlock {c : Coll} {r : State × List Nat} (only : r.1.OnlyOpen c) (small : ∀ k ∈ r.2, k ≤ c.desc.maxCount)
    (l : List Nat) : (l.foldl (State.countBlock c) r).1.OnlyOpen c
      ∧ (l.foldl (State.countBlock c) r).2.length = r.2.length + l.length
      ∧ ∀ k ∈ (l.foldl (State.countBlock c) r).2, k ≤ c.desc.maxCount := by
  induction l generalizing r with
  | nil => exact ⟨only, rfl, small⟩
  | cons j l ih =>
    obtain ⟨only, k, le, more⟩ := State.countBlock_one only j
    obtain ⟨last, length, small⟩ := ih only
      (by rw [more]; exact List.forall_mem_append.mpr ⟨small, List.forall_mem_singleton.mpr le⟩)
    refine ⟨last, ?_, small⟩
    rw [List.foldl_cons, length, more, List.length_append, List.length_singleton, List.length_cons]
    omega

/-- An operation whose block lengths do not stand in memory reads none. -/
theorem State.blockCounts_plain (s : State) {c : Coll} (plain : c.desc.op ≠ cAllToAll ∨ c.desc.vcount = false) :
    s.blockCounts c = (s, if c.desc.op = cAllToAll then List.replicate c.desc.size c.desc.count else []) := by
  by_cases all : c.desc.op = cAllToAll
  · simp [State.blockCounts, all, plain.resolve_left (not_not_intro all)]
  · simp [State.blockCounts, all]

theorem State.blockCounts_read (s : State) {c : Coll} (all : c.desc.op = cAllToAll) (var : c.desc.vcount = true) :
    s.blockCounts c = (List.range c.desc.size).foldl (State.countBlock c) (s, []) := by
  simp only [State.blockCounts, all, var, ne_eq, not_true_eq_false, if_false, Bool.not_true, Bool.false_eq_true]
  rfl

/-- The block lengths: as many as members, none above max_count where they are read; else the descriptor's own. -/
theorem State.blockCounts_counts {s : State} {c : Coll} (only : s.colls = [c]) : ∃ w,
    (s.blockCounts c).1.colls = [{ c with doneWord := w }]
    ∧ (c.desc.op = cAllToAll → (s.blockCounts c).2.length = c.desc.size
        ∧ (c.desc.vcount = true → ∀ k ∈ (s.blockCounts c).2, k ≤ c.desc.maxCount))
    ∧ (c.desc.op ≠ cAllToAll ∨ c.desc.vcount = false → w = c.doneWord
        ∧ (s.blockCounts c).2 = if c.desc.op = cAllToAll then List.replicate c.desc.size c.desc.count else []) := by
  by_cases plain : c.desc.op ≠ cAllToAll ∨ c.desc.vcount = false
  · rw [State.blockCounts_plain s plain]
    refine ⟨c.doneWord, only, fun all => ⟨?_, fun var => ?_⟩, fun _ => ⟨rfl, rfl⟩⟩
    · rw [if_pos all, List.length_replicate]
    · exact absurd var (by simp [plain.resolve_left (not_not_intro all)])
  · obtain ⟨all, var⟩ : c.desc.op = cAllToAll ∧ c.desc.vcount = true := by simpa using plain
    obtain ⟨⟨w, open_⟩, length, small⟩ := State.foldl_countBlock (r := (s, [])) (State.onlyOpen_of_colls only)
      (List.forall_mem_nil _) (List.range c.desc.size)
    rw [State.blockCounts_read s all var]
    exact ⟨w, open_, fun _ => ⟨by rw [length, List.length_range]; exact Nat.zero_add _, fun _ => small⟩, fun h => absurd h plain⟩

/-- Settles O45: the acceptance by its plan, the announces by what is sent and recorded, the release by the test that it makes. -/
theorem collectivesOpen : Obligations.CollectivesOpen := by
  intro s u n
  refine ⟨fun off => ⟨?closed, ?quiet⟩, fun c0 rest on head core room clean whole => ⟨fun t p ranked plan valid => ?opens,
      fun rankless => ?denied⟩, fun c on only die may => ?announces, fun c a rest only inbox at_ op for_ =>
      ⟨fun x tree data => ⟨fun good => ?records, fun bad => ?poisoned⟩,
        fun tree good phase => ⟨fun fits => ?releases, fun misfit => ?mismatch⟩⟩⟩
  case closed => exact congrArg Host.Outcome.next (State.collAccept_stalls off u)
  case quiet => exact congrArg Host.Outcome.next (State.controlAnnounce_stalls off n)
  case opens =>
    obtain ⟨m, run⟩ := State.collAccept_opens on head core room clean whole ranked plan valid
    have before : Changes [.cores, .atu, .freeCtr, .nextId] s t.numbered :=
      (((State.setCore_changes ..).mono (by decide)).step (State.readPlan_ok plan) (by decide)).step (State.numbered_changes t)
        (by decide)
    obtain ⟨x, ps, colls, own, die, desc, plan_, phase, mm, attach, outst, count, each⟩ :=
      t.numbered.openColl_opens u t.nextId (s.collDesc u c0) p
        (!(s.collDesc u c0).passes (t.coreJob u) (wfld (t.active.word 1 0 (t.coreSlot u) 1) 20 0) p (t.job (t.coreSlot u)).det) m
    refine .of_eq (congrArg Host.Outcome.next run) ⟨?_, x, ps, ?_, own, die, desc, plan_, phase, mm, ?_, outst, count, ?_⟩
    · rw [(State.openColl_changes ..).core (by decide), (t.numbered_changes).core (by decide),
        (State.readPlan_ok plan).core (by decide)]
      exact s.collTaken_queue u rest
    · exact colls.trans (congrArg (· ++ [x]) (before.elsewhere .colls (by decide)))
    · exact attach.trans (congrArg (· ++ ps) (before.elsewhere .attach (by decide)))
    · exact fun q mem => ⟨(each q mem).1.trans (before.tileSlot (by decide) _), (each q mem).2⟩
  case denied =>
    have run := State.collAccept_denied on head core room clean whole rankless
    have taken : Changes [.cores] s (s.collTaken u rest) := State.setCore_changes ..
    have frame := (s.collTaken u rest).endMember_changes u ((s.collTaken u rest).coreJob u) (s.collDesc u c0) fcDenied 0 0
    obtain ⟨cause, record⟩ := (s.collTaken u rest).endMember_fault u ((s.collTaken u rest).coreJob u) (s.collDesc u c0) fcDenied
      0 0 (by decide) (by decide)
    exact .of_eq (congrArg Host.Outcome.next run) ⟨(State.endMember_queue ..).trans (s.collTaken_queue u rest),
      (frame.elsewhere .colls (by decide)).trans (taken.elsewhere .colls (by decide)),
      (frame.elsewhere .attach (by decide)).trans (taken.elsewhere .attach (by decide)), cause, record,
      fun fits => State.endMember_sem _ _ _ _ _ _ _ fits⟩
  case announces =>
    obtain ⟨q, data, sends, goes, body⟩ := (s.updColl c.id fun c => { c with annSent := true }).sendAnnounce_sends c.core
      (.collCtl c.id) c.desc c.job c.slot c.desc.self c.mm c.desc.trees c.desc.count c.plan.ctlLeaf
    refine .of_eq (congrArg Host.Outcome.next (State.controlAnnounce_announces on only die may))
      ⟨?_, q, sends.attach, sends.op, goes.1, goes.2, sends.job, (congrArg (List.drop 32) sends.data).trans body⟩
    exact ((State.sendAnnounce_changes ..).elsewhere .colls (by decide)).trans (State.colls_updColl only rfl _)
  case records =>
    have colls : (s.arrived a rest).colls = [c] := ((s.arrived_changes a rest).elsewhere .colls (by decide)).trans only
    refine .of_eq (congrArg Host.Outcome.next (State.announceReceive_records inbox at_ op for_ tree data good))
      ⟨s.arrived_inbox a rest, ?_, ((s.arrived_changes a rest).mono (by decide)).step (State.updColl_changes ..) (by decide)⟩
    rw [State.colls_updColl colls rfl, tree]
    rfl
  case poisoned =>
    have colls : (s.arrived a rest).colls = [c] := ((s.arrived_changes a rest).elsewhere .colls (by decide)).trans only
    obtain ⟨ended, cause, owed⟩ := State.collPoisoned_ends colls
    rw [State.n_of_collFor for_] at cause owed
    exact .of_eq (congrArg Host.Outcome.next (State.announceReceive_poisoned inbox at_ op for_ tree data bad))
      ⟨((State.collPoisoned_changes ..).elsewhere .inbox (by decide)).trans (s.arrived_inbox a rest), ended, cause, owed⟩
  case releases =>
    have run := State.collRelease_announced inbox at_ op for_ tree good phase
    rw [if_neg (mt State.announceFits_iff.mp (not_not_intro fits))] at run
    have colls := State.announced_colls (c := c) only a rest
    have total : (s.announced c a rest).blockCounts (c.withTotal a) = (s.announced c a rest).blockCounts c := rfl
    rw [total] at run
    obtain ⟨w, open_, lengths, plain⟩ := State.blockCounts_counts colls
    have counted := (s.announced c a rest).blockCounts_changes c
    obtain ⟨qs, sent, eps⟩ := (s.arrived a rest).forwardLocal_sends c a
    have attach : (s.announced c a rest).attach = s.attach ++ qs :=
      sent.trans (congrArg (· ++ qs) ((s.arrived_changes a rest).elsewhere .attach (by decide)))
    refine .of_eq (congrArg Host.Outcome.next run)
      ⟨?_, ⟨((s.announced c a rest).blockCounts c).2, w, State.colls_updColl open_ rfl _, lengths, plain⟩, qs, ?_, eps⟩
    · exact ((State.updColl_changes ..).elsewhere .inbox (by decide)).trans
        ((counted.elsewhere .inbox (by decide)).trans (s.announced_inbox c a rest))
    · exact ((State.updColl_changes ..).elsewhere .attach (by decide)).trans
        ((counted.elsewhere .attach (by decide)).trans attach)
  case mismatch =>
    have run := State.collRelease_announced inbox at_ op for_ tree good phase
    rw [if_pos (State.announceFits_iff.mpr misfit)] at run
    have ended := (s.announced c a rest).endColl_changes (c.withTotal a) fcMismatch 0
    exact .of_eq (congrArg Host.Outcome.next run) ⟨(ended.elsewhere .inbox (by decide)).trans (s.announced_inbox c a rest),
      State.endColl_colls (c := c.withTotal a) (State.announced_colls (c := c) only a rest) rfl fcMismatch 0,
      fun empty => State.endColl_fault (s.announced c a rest) (c.withTotal a) 0 (by decide) (by decide)
        (((s.announced_changes c a rest).reg (by decide) _).trans empty)⟩

end Sys2Proof.Machine
end

section
/-!
SUPPORT. How a collective moves its data and ends (spec/07_collectives.md, R181 to R184, R190, R191, R193): its chunk streams,
landing chunks, the done word and its result, and the abort of a job.
-/

namespace Sys2Proof.Machine

/-! ### The data phase (R181, R182, R184) -/

theorem State.readElems_onlyOpen {s : State} {k : Coll} (only : s.OnlyOpen k) {c : Coll} (same : c.id = k.id) (va size n : Nat) :
    (s.readElems c va size n).1.OnlyOpen k := by
  have read : (s.readBytes c.core va (size * n)).1.OnlyOpen k := only.of_changes (State.readBytes_changes ..) (by decide)
  unfold State.readElems
  extract_lets r es bs t
  unfold t
  split
  · exact read
  · exact read.updDone same _

/-- A message sent after elements were read leaves the collective open, but for its done word. -/
theorem State.collMsg_sends_read {s t : State} {k c : Coll} (read : Changes [.regs, .colls, .owed, .atu, .freeCtr] s t)
    (open_ : t.OnlyOpen k) (o : Owner) (dest : Target ⊕ Nat) (addr : Nat) (data : List Byte) :
    (t.collMsg c.core o c.desc c.job c.slot dest opCollData addr data).OnlyOpen k
      ∧ ∃ q, s.Sends (t.collMsg c.core o c.desc c.job c.slot dest opCollData addr data) q (s.tileSlot (c.core / 4)) opCollData
          c.job data := by
  obtain ⟨q, ⟨attach, src, op, job, data⟩, -⟩ := t.collMsg_sends c.core o c.desc c.job c.slot dest opCollData addr data
  exact ⟨open_.of_changes (State.collMsg_changes ..) (by decide), q,
    attach.trans (congrArg (· ++ [q]) (read.elsewhere .attach (by decide))), src.trans (read.tileSlot (by decide) _), op, job,
    data⟩

section
variable {s : State} {k : Coll} (only : s.OnlyOpen k) {c : Coll} (same : c.id = k.id) (t : CollStream)
include only same

theorem State.sendTreeChunk_sends : (s.sendTreeChunk c t).OnlyOpen k
    ∧ ∃ q data, s.Sends (s.sendTreeChunk c t) q (s.tileSlot (c.core / 4)) opCollData c.job data := by
  unfold State.sendTreeChunk
  extract_lets d lf i elems start r h
  have read : Changes [.regs, .colls, .owed, .atu, .freeCtr] s r.1 :=
    .iteFst (State.readElems_changes ..) (State.readElems_changes ..)
  have open_ : r.1.OnlyOpen k := by
    unfold r
    split <;> exact State.readElems_onlyOpen only same ..
  obtain ⟨still, q, sends⟩ := State.collMsg_sends_read read open_ (.collData c.id t.tree) (.inl lf) 0 (chunkData h r.2)
  exact ⟨still, q, _, sends⟩

theorem State.sendLandingChunk_sends : (s.sendLandingChunk c t).OnlyOpen k
    ∧ ∃ q data, s.Sends (s.sendLandingChunk c t) q (s.tileSlot (c.core / 4)) opCollData c.job data := by
  unfold State.sendLandingChunk
  extract_lets d m i isCount elems base addr src r h dest
  have read : Changes [.regs, .colls, .owed, .atu, .freeCtr] s r.1 := .iteFst (.refl _ s) (State.readElems_changes ..)
  have open_ : r.1.OnlyOpen k := by
    unfold r
    split
    · exact only
    · exact State.readElems_onlyOpen only same ..
  obtain ⟨still, q, sends⟩ := State.collMsg_sends_read read open_ (.collData c.id t.tree) dest addr (chunkData h r.2)
  exact ⟨still, q, _, sends⟩

end

/-- The collective with the turn behind stream `st`, which has sent one chunk more. -/
def Coll.served (c : Coll) (pre : List CollStream) (st : CollStream) (r : List CollStream) : Coll :=
  { c with streams := r ++ pre ++ [{ st with next := st.next + 1, outst := st.outst + 1 }] }

/-- While the crossbar is disabled no chunk is sent (R66). -/
theorem State.chunkSend_stalls {s : State} (off : s.xbarOn = false) (n : Nat) : s.chunkSend n = s := by
  rw [State.chunkSend, State.find?_stalled off]

/-- The first stream that can send sends one chunk. -/
theorem State.chunkSend_serves {s : State} {n : Nat} {c : Coll} {pre r : List CollStream} {st : CollStream} (on : s.xbarOn = true)
    (only : s.colls = [c]) (die : c.n = n) (streams : c.streams = pre ++ st :: r) (none_ : ∀ x ∈ pre, c.canSend x = false)
    (can : c.canSend st = true) : (s.chunkSend n).OnlyOpen (c.served pre st r)
      ∧ ∃ q data, s.Sends (s.chunkSend n) q (s.tileSlot (c.core / 4)) opCollData c.job data := by
  have found : (s.colls.find? fun c => s.xbarOn && c.n == n && c.streams.any c.canSend) = some c :=
    State.find?_colls only (by simp [on, die, streams, can])
  have first : splitFirst c.canSend c.streams = some (pre, st, r) := streams ▸ splitFirst_append none_ can r
  let turned := s.updColl c.id fun c =>
    { c with streams := r ++ pre ++ [{ st with next := st.next + 1, outst := st.outst + 1 }] }
  have run : s.chunkSend n = if c.desc.trees ≠ 0 then turned.sendTreeChunk c st else turned.sendLandingChunk c st := by
    rw [State.chunkSend, found]
    simp only [first]
    rfl
  have open_ : turned.OnlyOpen (c.served pre st r) := State.onlyOpen_of_colls (State.colls_updColl only rfl _)
  obtain ⟨still, q, data, attach, src, op, job, bytes⟩ : (s.chunkSend n).OnlyOpen (c.served pre st r)
      ∧ ∃ q data, turned.Sends (s.chunkSend n) q (turned.tileSlot (c.core / 4)) opCollData c.job data := by
    rw [run]
    split
    · exact State.sendTreeChunk_sends open_ rfl st
    · exact State.sendLandingChunk_sends open_ rfl st
  exact ⟨still, q, data, attach, src, op, job, bytes⟩

/-! ### Landing (R183, R184) -/

/-- A range within one page that a walk translates is one piece. -/
theorem State.vaRange_single {s : State} {n j va len x : Nat} {write : Bool} (cold : s.atu = []) (some_ : 0 < len)
    (page : va % 2 ^ 21 + len ≤ 2 ^ 21) (walk : s.walk j va write = .ok x) :
    ∃ t, s.vaRange n j va len write = (t, .ok [(x, len)]) := by
  have translated : (s.translateVa n j va write).2 = .ok x := by
    unfold State.translateVa
    extract_lets pageNo now leaf mine
    rw [cold, List.find?_nil]
    cases leaf with
    | none => exact walk
    | some e =>
      dsimp only
      split <;> exact walk
  rcases step : s.translateVa n j va write with ⟨t, res⟩
  rw [step] at translated
  cases translated
  exact ⟨t, by simp only [State.vaRange, vaPieces_single some_ page, State.translateRange, step, List.nil_append]⟩

/-- A landing chunk whose va translates is stored there. -/
theorem State.landBytes_stores {s : State} {n j x : Nat} {a : Arrival} {bs : List Byte} (clean : s.ue = []) (cold : s.atu = [])
    (slot : s.active.jobSlot a.pkt.job = some j) (some_ : 0 < bs.length) (page : a.pkt.hdr.addr % 2 ^ 21 + bs.length ≤ 2 ^ 21)
    (walk : s.walk j a.pkt.hdr.addr true = .ok x) :
    ∃ t, Changes [.atu, .freeCtr] s t ∧ s.landBytes n a bs = (t.dpaStored x bs, true) := by
  obtain ⟨t, range⟩ := State.vaRange_single (n := n) cold some_ page walk
  have frame : Changes [.atu, .freeCtr] s t := .of_fst (State.vaRange_changes ..) range
  have stored := State.writePieces_single ((frame.elsewhere .ue (by decide)).trans clean) x bs
  refine ⟨t, frame, ?_⟩
  simp only [State.landBytes, slot, range, stored]
  rfl

section
variable {s : State} {n : Nat} {a : Arrival} {rest : List Arrival} (inbox : s.inbox = a :: rest) (at_ : a.slot = s.tileSlot n)
  (op : a.pkt.hdr.op = opCollData)
include inbox at_ op

/-- A chunk for no open collective is a stray: counted, and no byte of it is stored. -/
theorem State.landingChunk_stray (none_ : s.collFor n a = none) : s.landingChunk n
    = State.commitArrival
        (State.raise (State.incCtr { s with inbox := rest } (R.tdCollstrayLo n)) (R.tdCollcause n) 2) a := by
  have mine : State.collFor { s with inbox := rest } n a = none := none_
  rw [State.landingChunk, State.takeArrival_first inbox at_]
  · simp only [mine]
  · simp [op, none_]

section
variable {c : Coll} (for_ : s.collFor n a = some c) (chunk : c.isDone a = false) (good : crcGood a.pkt = true)
include for_ chunk good

/-- The chunk, counted in its collective with its flags, is stored and then gives its ADD (R183). -/
theorem State.landingChunk_lands : ∃ v, Changes [.inbox, .colls] s v ∧ v.inbox = rest
    ∧ (∀ j va write, v.walk j va write = s.walk j va write)
    ∧ ∀ t, v.landBytes n a (chunkBody a.pkt) = (t, true) → s.landingChunk n = State.commitArrival
        (if nbit c.desc.chunkSem 15 then t.semUpdate c.core (c.desc.chunkSem % 1024) 3 1 else t) a := by
  have mine : State.collFor { s with inbox := rest } n a = some c := for_
  have frame (f g : Coll → Coll) : Changes [.inbox, .colls] s ((State.updColl { s with inbox := rest } c.id f).updColl c.id g) :=
    ((Changes.inbox.mono (by decide)).step (State.updColl_changes ..) (by decide)).step (State.updColl_changes ..) (by decide)
  have walks (f g : Coll → Coll) (j va : Nat) (write : Bool) :
      ((State.updColl { s with inbox := rest } c.id f).updColl c.id g).walk j va write = s.walk j va write := rfl
  rw [State.landingChunk, State.takeArrival_first inbox at_]
  · simp only [mine, good, Bool.not_true, Bool.false_eq_true, if_false]
    exact ⟨_, frame _ _, rfl, walks _ _, fun t stored => by rw [stored]⟩
  · simp [op, for_, chunk]

end
end

/-! ### The done phase (R190, R191) -/

/-- While the crossbar is disabled no done word is sent (R66). -/
theorem State.doneSend_stalls {s : State} (off : s.xbarOn = false) (n : Nat) : s.doneSend n = s := by
  rw [State.doneSend, State.find?_stalled off]

theorem State.doneSend_sends {s : State} {n : Nat} {c : Coll} (on : s.xbarOn = true) (only : s.colls = [c]) (die : c.n = n)
    (may : c.mayFinish = true) : (s.doneSend n).colls = [{ c with phase := .done, doneSent := true }]
      ∧ ∃ q data, s.Sends (s.doneSend n) q (s.tileSlot (c.core / 4)) opCollData c.job data ∧ q.goesTo c.plan.ctlLeaf
        ∧ data.drop 32 = leBytes 4 c.doneWord.toNat := by
  have found : (s.colls.find? fun c => s.xbarOn && c.n == n && c.mayFinish) = some c :=
    State.find?_colls only (by simp [on, die, may])
  rw [State.doneSend, found]
  dsimp only
  obtain ⟨q, ⟨attach, src, op, job, data⟩, goes⟩ :=
    (s.updColl c.id fun c => { c with phase := .done, doneSent := true }).collMsg_sends c.core (.collCtl c.id) c.desc c.job c.slot
      (.inl c.plan.ctlLeaf) opCollData 0 (chunkData
        { ctx := c.plan.ctlLeaf.ctx, inIdx := c.plan.ctlLeaf.inIdx, last := true, mm := false, flags := 0, wtype := 4,
          seq := c.desc.seqOf c.desc.trees, chunk := 0, elems := 1, crc := 0 } (leBytes 4 c.doneWord.toNat))
  exact ⟨((State.collMsg_changes ..).elsewhere .colls (by decide)).trans (State.colls_updColl only rfl _), q, _,
    ⟨attach, src, op, job, data⟩, goes _ rfl, List.drop_left' (length_leBytes ..)⟩

/-- The code that a done word ends a collective with (R180, R191). -/
def doneCode (w : Nat) : Nat := if w.testBit 9 then fcDenied else if w.testBit 8 then fcPoisoned else 0

theorem doneCode_eq_poisoned (w : Nat) : doneCode w = fcPoisoned ↔ (!nbit w 9 && nbit w 8) = true := by
  rw [doneCode, nbit_eq_testBit, nbit_eq_testBit]
  cases w.testBit 9 <;> cases w.testBit 8 <;> decide

theorem doneCode_of_ne_poisoned {w : Nat} (other : doneCode w ≠ fcPoisoned) : doneCode w = if nbit w 9 then fcDenied else 0 := by
  rw [doneCode] at other ⊢
  rw [nbit_eq_testBit]
  by_cases denied : w.testBit 9 = true
  · rw [if_pos denied, if_pos denied]
  · rw [if_neg denied] at other
    rw [if_neg denied, if_neg denied]
    exact if_neg fun poisoned => other (if_pos poisoned)

section
variable {s : State} {n : Nat} {a : Arrival} {rest : List Arrival} {c : Coll} (inbox : s.inbox = a :: rest)
  (at_ : a.slot = s.tileSlot n) (for_ : s.collFor n a = some c) (done : c.isDone a = true) (good : crcGood a.pkt = true)
  (phase : c.phase = .done)
include inbox at_ for_ done good phase

/-- A done result ends the collective with the code of its done word; where that says POISONED a notice is owed first (R192). -/
theorem State.doneResult_ends : ∃ v, Changes [.inbox, .commits, .attach, .nextId, .owed] s v ∧ v.inbox = rest
    ∧ (doneCode (leAt (chunkBody a.pkt) 0 4) = fcPoisoned → (⟨.coll, n, c.job, fcPoisoned⟩ : Owed) ∈ v.owed)
    ∧ (doneCode (leAt (chunkBody a.pkt) 0 4) ≠ fcPoisoned → v.owed = s.owed)
    ∧ s.doneResult n
      = v.endColl c (doneCode (leAt (chunkBody a.pkt) 0 4)) (leAt (chunkBody a.pkt) 0 4 % 65536) := by
  have mine := State.arrived_collFor for_ rest
  have frame := s.announced_changes c a rest
  have inbox' := s.announced_inbox c a rest
  rw [State.doneResult, State.takeArrival_first inbox at_]
  · simp only [mine, good, phase, Bool.not_true, Bool.false_eq_true, if_false, ne_eq, not_true_eq_false]
    by_cases poisoned : doneCode (leAt (chunkBody a.pkt) 0 4) = fcPoisoned
    · refine ⟨(s.announced c a rest).owe ⟨.coll, c.n, c.job, fcPoisoned⟩,
        (frame.mono (by decide)).step (State.owe_changes ..) (by decide),
        ((State.owe_changes ..).elsewhere .inbox (by decide)).trans inbox', fun _ => ?_, absurd poisoned, ?_⟩
      · rw [← State.n_of_collFor for_]
        exact State.mem_owe ..
      · rw [if_pos ((doneCode_eq_poisoned _).mp poisoned), poisoned]
        rfl
    · refine ⟨s.announced c a rest, frame.mono (by decide), inbox', fun same => absurd same poisoned,
        fun _ => frame.elsewhere .owed (by decide), ?_⟩
      rw [if_neg (mt (doneCode_eq_poisoned _).mpr poisoned), doneCode_of_ne_poisoned poisoned]
      rfl
  · simp [for_, done]

end

/-! ### The abort of a job (R193, R195) -/

theorem State.mem_attach_dropMsg {s : State} {id : Nat} {p : OutPkt} (mem : p ∈ (s.dropMsg id).attach) :
    p ∈ s.attach ∧ p.msg ≠ some id := by
  simpa [State.dropMsg] using mem

theorem State.mem_msgs_dropMsg {s : State} {id : Nat} {m : Msg} (mem : m ∈ (s.dropMsg id).msgs) : m ∈ s.msgs :=
  (List.mem_filter.mp mem).1

/-- Of messages that are dropped no packet waits in the attachment; nothing new does. -/
theorem State.mem_attach_foldl_dropMsg {s : State} {l : List Msg} {p : OutPkt}
    (mem : p ∈ (l.foldl (fun s m => s.dropMsg m.id) s).attach) : p ∈ s.attach ∧ ∀ m ∈ l, p.msg ≠ some m.id := by
  induction l generalizing s with
  | nil => exact ⟨mem, List.forall_mem_nil _⟩
  | cons m l ih =>
    obtain ⟨first, rest⟩ := ih mem
    obtain ⟨old, other⟩ := State.mem_attach_dropMsg first
    exact ⟨old, List.forall_mem_cons.mpr ⟨other, rest⟩⟩

theorem State.mem_msgs_foldl_dropMsg {s : State} {l : List Msg} {m : Msg}
    (mem : m ∈ (l.foldl (fun s m => s.dropMsg m.id) s).msgs) : m ∈ s.msgs := by
  induction l generalizing s with
  | nil => exact mem
  | cons _ l ih => exact State.mem_msgs_dropMsg (ih mem)

/-- A collective that is aborted stops sending, and ends. -/
def State.abortColl (code : Nat) (s : State) (c : Coll) : State := (s.stopSending c.id).endColl c code 0

section
variable (code : Nat) (s : State) (c : Coll)

theorem State.mem_colls_abortColl {x : Coll} (mem : x ∈ (s.abortColl code c).colls) : x ∈ s.colls ∧ x.id ≠ c.id := by
  have left : (s.abortColl code c).colls = s.colls.filter fun o => o.id != c.id := by
    rw [State.abortColl, State.endColl_eq, (State.settleClear_changes ..).elsewhere .colls (by decide),
      (State.endMember_changes ..).elsewhere .colls (by decide)]
    exact congrArg (List.filter _) ((State.stopSending_changes ..).elsewhere .colls (by decide))
  simpa [left] using mem

theorem State.abortColl_attach : (s.abortColl code c).attach = (s.stopSending c.id).attach :=
  (State.endColl_changes ..).elsewhere .attach (by decide)

theorem State.abortColl_msgs : (s.abortColl code c).msgs = (s.stopSending c.id).msgs :=
  (State.endColl_changes ..).elsewhere .msgs (by decide)

end

/-- No packet of a message of collective `id` waits in the attachment. -/
def State.Silent (s : State) (id : Nat) : Prop := ∀ m ∈ s.msgs, m.ofColl id = true → ∀ p ∈ s.attach, p.msg ≠ some m.id

theorem State.stopSending_silent (s : State) (id : Nat) : (s.stopSending id).Silent id := by
  intro m msg own p mem waits
  obtain ⟨old, dropped⟩ := State.mem_attach_foldl_dropMsg mem
  refine dropped m (List.mem_filter.mpr ⟨State.mem_msgs_foldl_dropMsg msg, ?_⟩) waits
  rw [own, Bool.true_and, List.any_eq_true]
  exact ⟨p, old, beq_iff_eq.mpr waits⟩

/-- Collectives that are aborted are gone and send no more; nothing else opens or is sent. -/
theorem State.foldl_abortColl (code : Nat) (s : State) (l : List Coll) :
    (∀ x ∈ (l.foldl (State.abortColl code) s).colls, x ∈ s.colls ∧ x ∉ l)
      ∧ (∀ p ∈ (l.foldl (State.abortColl code) s).attach, p ∈ s.attach)
      ∧ (∀ m ∈ (l.foldl (State.abortColl code) s).msgs, m ∈ s.msgs)
      ∧ ∀ x ∈ l, (l.foldl (State.abortColl code) s).Silent x.id := by
  induction l generalizing s with
  | nil => exact ⟨fun x mem => ⟨mem, List.not_mem_nil⟩, fun _ mem => mem, fun _ mem => mem, List.forall_mem_nil _⟩
  | cons c l ih =>
    obtain ⟨colls, attach, msgs, silent⟩ := ih (s.abortColl code c)
    rw [State.abortColl_attach] at attach
    rw [State.abortColl_msgs] at msgs
    refine ⟨fun x mem => ?_, fun p mem => (State.mem_attach_foldl_dropMsg (attach p mem)).1,
      fun m mem => State.mem_msgs_foldl_dropMsg (msgs m mem), List.forall_mem_cons.mpr ⟨fun m msg own p mem => ?_, silent⟩⟩
    · obtain ⟨still, other⟩ := colls x mem
      obtain ⟨old, differs⟩ := State.mem_colls_abortColl code s c still
      exact ⟨old, List.not_mem_cons_of_ne_of_not_mem (fun same => differs (congrArg Coll.id same)) other⟩
    · exact s.stopSending_silent c.id m (msgs m msg) own p (attach p mem)

theorem State.mem_aborted {s : State} {n job : Nat} {x : Coll} :
    x ∈ s.colls.filter (fun c => c.n == n && c.job == job) ↔ x ∈ s.colls ∧ x.n = n ∧ x.job = job := by
  simp

theorem State.writeColljobcmd_aborts {s : State} {n : Nat} {w : Word} (die : n < s.tiles) (fail : wfld w 31 30 = 1)
    (code : 0 < wfld w 23 16) (listed : wfld w 23 16 ≤ 0x0B) : s.writeColljobcmd n w
      = (s.colls.filter fun c => c.n == n && c.job == wfld w 11 0).foldl (State.abortColl (wfld w 23 16)) s :=
  if_pos ⟨die, fail, code, listed⟩

/-- Settles O46: a chunk by its stream's turn, a landing chunk by the piece that it is stored in, the done result by the end of
its collective, the abort by what its pass over the collectives of the job leaves. -/
theorem collectivesMoveAndEnd : Obligations.CollectivesMoveAndEnd := by
  intro s n c
  refine ⟨fun off => ⟨?waits, ?holds⟩, fun pre st r on only die streams none_ can => ?serves, fun a rest inbox at_ op =>
      ⟨fun j x only for_ chunk good slot clean cold some_ page walk => ?lands, fun stray => ?stray,
        fun only for_ done good phase visible inside => ?ends⟩,
    fun on only die may => ?finishes, fun w on booted die fail some_ listed => ?aborts⟩
  case waits => exact congrArg Host.Outcome.next (State.chunkSend_stalls off n)
  case holds => exact congrArg Host.Outcome.next (State.doneSend_stalls off n)
  case serves =>
    obtain ⟨open_, q, data, sends⟩ := State.chunkSend_serves on only die streams none_ can
    exact ⟨_, rfl, open_, q, sends.attach, sends.op, sends.job, sends.src⟩
  case lands =>
    obtain ⟨v, found, taken, walks, run⟩ := State.landingChunk_lands inbox at_ op for_ chunk good
    have slot' : v.active.jobSlot a.pkt.job = some j := by rw [found.elsewhere .active (by decide), slot]
    obtain ⟨t, translated, land⟩ := State.landBytes_stores (n := n) ((found.elsewhere .ue (by decide)).trans clean)
      ((found.elsewhere .atu (by decide)).trans cold) slot' some_ page ((walks j _ true).trans walk)
    have before : Changes [.inbox, .colls, .atu, .freeCtr] s t := (found.mono (by decide)).step translated (by decide)
    let u := t.dpaStored x (chunkBody a.pkt)
    have added : Changes [.regs, .sems, .owed] u
        (if nbit c.desc.chunkSem 15 then u.semUpdate c.core (c.desc.chunkSem % 1024) 3 1 else u) :=
      .ite (State.semUpdate_changes ..) (.refl _ u)
    have after := (added.mono (by decide : within _ [.regs, .sems, .owed, .commits] = true)).step
      (State.commitArrival_changes _ a) (by decide)
    have memory := (after.elsewhere .dpa (by decide)).trans
      (congrArg (wrBytes · x (chunkBody a.pkt)) (before.elsewhere .dpa (by decide)))
    refine .of_eq (congrArg Host.Outcome.next (run _ land)) ⟨?_, ?_, fun y outside => ?_, fun asked fits => ?_⟩
    · exact (after.elsewhere .inbox (by decide)).trans ((translated.elsewhere .inbox (by decide)).trans taken)
    · rw [memory, rdBytes_wrBytes_same]
    · rw [memory, rdByte_wrBytes_outside _ _ _ _ outside]
    · have sems : ∀ y z, u.sem y z = s.sem y z := before.sem (by decide)
      rw [(State.commitArrival_changes ..).sem (by decide), if_pos ((nbit_eq_testBit ..).trans asked)]
      rw [← sems] at fits ⊢
      exact State.sem_semUpdate_one fits 3
  case stray =>
    have frame := State.commitArrival_changes
      (State.raise (State.incCtr { s with inbox := rest } (R.tdCollstrayLo n)) (R.tdCollcause n) 2) a
    refine .of_eq (congrArg Host.Outcome.next (State.landingChunk_stray inbox at_ op stray))
      ⟨frame.elsewhere .inbox (by decide), frame.elsewhere .dpa (by decide), ?_, ?_⟩
    · exact (congrArg (mget 0 · _) (frame.elsewhere .cnt (by decide))).trans (State.ctr_addCtr_same ..)
    · rw [frame.bit (by decide)]
      exact State.bit_raise_same _ _ (by decide)
  case ends =>
    obtain ⟨v, frame, taken, owes, owed, run⟩ := State.doneResult_ends inbox at_ for_ done good phase
    have ended := v.endColl_changes c (doneCode (leAt (chunkBody a.pkt) 0 4)) (leAt (chunkBody a.pkt) 0 4 % 65536)
    have sems := frame.sem (by decide) c.core c.desc.sem
    refine .of_eq (congrArg Host.Outcome.next run) ⟨(ended.elsewhere .inbox (by decide)).trans taken,
      State.endColl_colls ((frame.elsewhere .colls (by decide)).trans only) rfl .., fun poisoned => ?_, fun sound fits => ?_, ?_,
      fun fits => ?_⟩
    · exact State.endColl_owes _ _ _ _ (owes poisoned)
    · exact (State.endColl_owed _ _ _ _ (sems ▸ fits)).trans (owed sound)
    · rw [← frame.core (by decide)] at visible
      exact (State.endColl_record v c _ _ visible inside).trans (frame.memberRecord (by decide) ..)
    · exact (State.endColl_sem _ _ _ _ (sems ▸ fits)).trans (congrArg (· + 1) sems)
  case finishes =>
    obtain ⟨colls, q, data, sends, goes, word⟩ := State.doneSend_sends on only die may
    exact ⟨_, rfl, colls, q, sends.attach, sends.op, goes.1, goes.2, (congrArg (List.drop 32) sends.data).trans word⟩
  case aborts =>
    have answers : s.answers (.td n) = true := State.answers_of_populated on booted (decide_eq_true die)
    have run := (State.onWrite_of_answers answers rfl _).trans (State.writeColljobcmd_aborts die fail some_ listed)
    obtain ⟨colls, attach, -, silent⟩ := State.foldl_abortColl (wfld w 23 16) s
      (s.colls.filter fun c => c.n == n && c.job == wfld w 11 0)
    refine .of_eq (congrArg Host.Outcome.next run) ⟨fun x mem own => ?_, fun x mem => (colls x mem).1,
      fun x mem die job => silent x (State.mem_aborted.mpr ⟨mem, die, job⟩), attach, fun none_ => ?_⟩
    · exact (colls x mem).2 (State.mem_aborted.mpr ⟨(colls x mem).1, own⟩)
    · rw [List.filter_eq_nil_iff.mpr fun x mem => by simpa using fun die job => none_ x mem ⟨die, job⟩]
      rfl

end Sys2Proof.Machine
end
section
/-!
SUPPORT. A core that faults (spec/08_tile_core_execution.md, R224), and the local store that a start leaves (R210, R211).
-/

namespace Sys2Proof.Machine

/-! ### The record of a fault (Table 8.15) -/

theorem State.groupBuffers_keepsTiles (s : State) (l : List Word) (reason hi : Nat) :
    State.KeepsRegs (portBase 0) hi s (l.foldl (fun s h => s.dropBuffer h reason) s) :=
  .foldl (.refl s) fun u h => u.dropBuffer_keepsPorts h reason hi

/-- The fault of a core's group is a matter of the dispatcher and the pools. -/
theorem State.coreFaultGroup_keepsTiles (s : State) (u code hi : Nat) : State.KeepsRegs (portBase 0) hi s (s.coreFaultGroup u code) := by
  unfold State.coreFaultGroup
  split
  · refine .ite ?_ (.refl s)
    unfold State.faultGroup
    extract_lets k job s1 s2 s3
    have dropped : State.KeepsRegs (portBase 0) hi s s1 := s.groupBuffers_keepsTiles _ 6 hi
    have left : State.KeepsRegs (portBase 0) hi s s2 := dropped.trans ((State.setGroup_changes ..).keepsRegs (by decide))
    have recorded : State.KeepsRegs (portBase 0) hi s s3 :=
      (left.trans (.ite (State.setReg_keepsRegs _ _ (.inl (by decide))) (.refl s2))).trans
        (State.raise_keepsRegs _ _ (.inl (by decide)))
    exact recorded.trans (Changes.dsp.keepsRegs (by decide))
  · exact .refl s

/-- The first word of a fault's record. -/
def CoreFault.word0 (f : CoreFault) : Word :=
  atFld 31 24 f.code ||| atFld 23 21 f.slot ||| atFld 20 20 f.kind ||| atFld 19 18 f.space ||| atFld 17 0 f.pc

theorem CoreFault.wfld_word0 {f : CoreFault} {hi lo v : Nat} (top : hi < 32) (fits : v < 2 ^ (hi + 1 - lo))
    (h : ∀ i, lo ≤ i → i ≤ hi → f.word0.getLsbD i = v.testBit (i - lo)) : wfld f.word0 hi lo = v := by
  rw [← wfld_setFld_same top fits f.word0]
  exact wfld_congr fun i hl hh => by rw [h i hl hh, getLsbD_setFld top, if_pos ⟨hl, hh⟩]

theorem CoreFault.getLsbD_word0 (f : CoreFault) (i : Nat) : f.word0.getLsbD i
    = ((((decide (24 ≤ i ∧ i ≤ 31) && f.code.testBit (i - 24)) || (decide (21 ≤ i ∧ i ≤ 23) && f.slot.testBit (i - 21)))
      || (decide (20 ≤ i ∧ i ≤ 20) && f.kind.testBit (i - 20)) || (decide (18 ≤ i ∧ i ≤ 19) && f.space.testBit (i - 18)))
      || (decide (0 ≤ i ∧ i ≤ 17) && f.pc.testBit (i - 0))) := by
  simp only [CoreFault.word0, BitVec.getLsbD_or, getLsbD_atFld (by decide : 31 < 32), getLsbD_atFld (by decide : 23 < 32),
    getLsbD_atFld (by decide : 20 < 32), getLsbD_atFld (by decide : 19 < 32), getLsbD_atFld (by decide : 17 < 32)]

theorem CoreFault.code_word0 {f : CoreFault} (byte : f.code < 256) : wfld f.word0 31 24 = f.code :=
  CoreFault.wfld_word0 (by decide) byte fun i hl hh => by
    simp [f.getLsbD_word0, hl, hh, show ¬ i ≤ 23 by omega, show ¬ i ≤ 20 by omega, show ¬ i ≤ 19 by omega, show ¬ i ≤ 17 by omega]

theorem CoreFault.slot_word0 {f : CoreFault} (three : f.slot < 8) : wfld f.word0 23 21 = f.slot :=
  CoreFault.wfld_word0 (by decide) three fun i hl hh => by
    simp [f.getLsbD_word0, hl, hh, show ¬ 24 ≤ i by omega, show ¬ i ≤ 20 by omega, show ¬ i ≤ 19 by omega, show ¬ i ≤ 17 by omega]

theorem CoreFault.pc_word0 {f : CoreFault} (small : f.pc < 2 ^ 18) : wfld f.word0 17 0 = f.pc :=
  CoreFault.wfld_word0 (by decide) small fun i _ hh => by
    simp [f.getLsbD_word0, hh, show ¬ 24 ≤ i by omega, show ¬ 21 ≤ i by omega, show ¬ 20 ≤ i by omega, show ¬ 18 ≤ i by omega]

/-- A recorded fault: its cause bit, and its first word where the record was empty. -/
theorem State.recordCoreFault_record (s : State) (u : Nat) (f : CoreFault) : (s.recordCoreFault u f).bit (R.tdCCause u) 0 = true
    ∧ (s.reg (R.tdCFault0 u) = 0 → (s.recordCoreFault u f).reg (R.tdCFault0 u) = f.word0) := by
  refine ⟨State.bit_raise_same _ _ (by decide), fun empty => ?_⟩
  unfold State.recordCoreFault
  rw [if_pos empty, State.reg_raise_other, State.reg_setReg_other, State.reg_setReg_other, State.reg_setReg_other,
    State.reg_setReg_same]
  · rfl
  all_goals simp only [R.tdCFault0, R.tdCFault1, R.tdCFault2, R.tdCFault3, R.tdCCause, ne_eq]; omega

/-- A fault of core `u` is recorded: its cause bit is set, and the record, where it was empty, has the word. -/
structure State.CoreFaulted (s t : State) (u : Nat) (w : Word) : Prop where
  cause : t.bit (R.tdCCause u) 0 = true
  record : s.reg (R.tdCFault0 u) = 0 → t.reg (R.tdCFault0 u) = w

namespace State.CoreFaulted

variable {s t : State} {u : Nat} {f : CoreFault} (h : s.CoreFaulted t u f.word0) (empty : s.reg (R.tdCFault0 u) = 0)
include h empty

theorem code (byte : f.code < 256) : t.fld (R.tdCFault0 u) 31 24 = f.code :=
  (congrArg (wfld · 31 24) (h.record empty)).trans (CoreFault.code_word0 byte)

theorem slot (three : f.slot < 8) : t.fld (R.tdCFault0 u) 23 21 = f.slot :=
  (congrArg (wfld · 23 21) (h.record empty)).trans (CoreFault.slot_word0 three)

theorem pc (small : f.pc < 2 ^ 18) : t.fld (R.tdCFault0 u) 17 0 = f.pc :=
  (congrArg (wfld · 17 0) (h.record empty)).trans (CoreFault.pc_word0 small)

end State.CoreFaulted

theorem State.recordedFault (s : State) (u code : Nat) (f : CoreFault) :
    s.CoreFaulted ((s.recordCoreFault u f).coreFaultGroup u code) u f.word0 := by
  obtain ⟨cause, record⟩ := s.recordCoreFault_record u f
  have kept := (s.recordCoreFault u f).coreFaultGroup_keepsTiles u code (tdBase (u / 4) + 0x100000)
  refine ⟨(kept.bit ?_ ?_ 0).trans cause, fun empty => (kept.reg _ ?_ ?_).trans (record empty)⟩
  all_goals simp only [portBase, R.tdCCause, R.tdCFault0, tdBase]; omega

/-! ### The entry to FAULTED -/

/-- Nothing of the queues that could start is left, and nothing that started. -/
structure Core.Drained (k : Core) : Prop where
  mq : k.mq = []
  vq0 : k.vq0 = []
  vq1 : k.vq1 = []
  started : k.started = []

theorem State.startDue_drained {s : State} {u : Nat} (h : (s.core u).Drained) (t : Nat) : s.startDue u t = s := by
  simp only [State.startDue, h.mq, h.vq0, h.vq1, List.length_nil, State.startUpTo]

theorem Core.due_drained {k : Core} (h : k.Drained) (t : Nat) : k.due t = false := by
  simp [Core.due, Core.dueQueue, Core.queue, h.mq, h.vq0, h.vq1]

theorem State.replay_st (s : State) (u : Nat) : ((s.replay u).core u).st = (s.core u).st := by
  rw [State.replay, State.core_setCore_same]

theorem State.recordedFault_core (s : State) (u code v : Nat) (f : CoreFault) :
    ((s.recordCoreFault u f).coreFaultGroup u code).core v = s.core v :=
  ((State.coreFaultGroup_changes ..).core (by decide) v).trans ((State.recordCoreFault_changes ..).core (by decide) v)

/-- Whatever fault is taken, the core is FAULTED and the cause bit is set. -/
theorem State.enterFault_faults (s : State) (u : Nat) (f : CoreFault) (all : Bool) (keep : Option Nat) :
    ((s.enterFault u f all keep).core u).st = .faulted ∧ (s.enterFault u f all keep).bit (R.tdCCause u) 0 = true := by
  unfold State.enterFault
  extract_lets k s1 k1 f1 s2 s3
  split
  · exact ⟨(congrArg Core.st (State.recordedFault_core ..)).trans ‹_›, (State.recordedFault ..).cause⟩
  · refine ⟨?_, (State.recordedFault ..).cause⟩
    rw [State.recordedFault_core, State.replay_st, State.core_setCore_same]
    rfl

theorem Core.shownFault_word0 (k : Core) (f : CoreFault) : (k.shownFault f).word0 = f.word0 := by
  unfold Core.shownFault
  split <;> rfl

/-- The fault of a core that has nothing else under way is the one recorded. -/
theorem State.enterFault_records {s : State} {u : Nat} (drained : (s.core u).Drained) (none_ : (s.core u).fault = none)
    (f : CoreFault) (all : Bool) (keep : Option Nat) : s.CoreFaulted (s.enterFault u f all keep) u f.word0 := by
  unfold State.enterFault
  extract_lets k s1 k1 f1 s2 s3
  have same : f = f1 := by
    have fault : k1.fault = none :=
      (congrArg (fun t => (State.core t u).fault) (State.startDue_drained drained f.cyc)).trans none_
    simp only [f1, fault]
    rfl
  have regs : Changes [.cnt, .cores] s s3 := by
    have counted : Changes [.cnt, .cores] s s2 := .ite
      (((State.startDue_changes ..).mono (by decide)).step (State.addCtr_changes ..) (by decide))
      ((State.startDue_changes ..).mono (by decide))
    exact (counted.step (State.setCore_changes ..) (by decide)).step (State.replay_changes ..) (by decide)
  split
  · rw [← k.shownFault_word0 f]
    exact s.recordedFault u f.code _
  · have recorded := s3.recordedFault u f1.code (k1.shownFault f1)
    rw [same, ← k1.shownFault_word0 f1]
    exact ⟨recorded.cause, fun empty => recorded.record ((regs.reg (by decide) _).trans empty)⟩

/-- A fault at the dispatch of a word of such a core. -/
theorem State.wordFault_records {s : State} {u : Nat} (drained : (s.core u).Drained) (none_ : (s.core u).fault = none)
    (t slot ag addr : Nat) {code : Nat} (byte : code < 256) :
    let v := s.wordFault u t code slot ag addr
    (v.core u).st = .faulted ∧ v.bit (R.tdCCause u) 0 = true ∧ (s.reg (R.tdCFault0 u) = 0 → v.fld (R.tdCFault0 u) 31 24 = code
      ∧ ((s.core u).pc < 2 ^ 18 → v.fld (R.tdCFault0 u) 17 0 = (s.core u).pc)) := by
  let f : CoreFault := { cyc := t, code := code, slot := slot, kind := 0, space := 0, pc := (s.core u).pc, eng := 0, ag := ag,
                         wpc := 0, addr := addr }
  have recorded := State.enterFault_records drained none_ f false none
  obtain ⟨faulted, cause⟩ := s.enterFault_faults u f false none
  exact ⟨faulted, cause, fun empty => ⟨recorded.code empty byte, recorded.pc empty⟩⟩

end Sys2Proof.Machine
end
section
/-!
SUPPORT. The local store that a start leaves (spec/08_tile_core_execution.md, R204, R210, R211): the writes of the finished run,
put into memory in their order, are what an agent outside the schedule reads.
-/

namespace Sys2Proof.Machine

/-! ### The order of the writes (R211) -/

theorem LsWrite.before_iff (w x : LsWrite) : w.before x = true
    ↔ w.vis < x.vis ∨ w.vis = x.vis ∧ (w.ord < x.ord ∨ w.ord = x.ord ∧ w.slot ≤ x.slot) := by
  simp [LsWrite.before]

theorem LsWrite.before_trans {w x y : LsWrite} (h : w.before x = true) (k : x.before y = true) : w.before y = true := by
  rw [LsWrite.before_iff] at *
  omega

theorem LsWrite.before_of_not {w x : LsWrite} (h : ¬ w.before x = true) : x.before w = true := by
  rw [LsWrite.before_iff] at *
  omega

/-- Writes in their order. -/
abbrev inOrder (l : List LsWrite) : Prop := l.Pairwise fun w x => w.before x = true

theorem inOrder_insertWrite {l : List LsWrite} (h : inOrder l) (x : LsWrite) : inOrder (insertWrite x l) := by
  induction l with
  | nil => exact List.pairwise_singleton ..
  | cons w l ih =>
    obtain ⟨first, rest⟩ := List.pairwise_cons.mp h
    unfold insertWrite
    split
    · exact List.pairwise_cons.mpr ⟨fun y mem => (mem_insertWrite mem).elim (· ▸ ‹_›) (first y), ih rest⟩
    · have here := LsWrite.before_of_not ‹_›
      exact List.pairwise_cons.mpr ⟨List.forall_mem_cons.mpr ⟨here, fun y mem => LsWrite.before_trans here (first y mem)⟩, h⟩

theorem insertWrite_first {l : List LsWrite} {x : LsWrite} (h : ∀ y ∈ l, ¬ y.before x = true) : insertWrite x l = x :: l := by
  cases l with
  | nil => rfl
  | cons w l => exact if_neg (h w List.mem_cons_self)

/-- Writes that are left out leave the others in their order. -/
theorem filter_insertWrite (p : LsWrite → Bool) {l : List LsWrite} (h : inOrder l) (x : LsWrite) :
    (insertWrite x l).filter p = if p x then insertWrite x (l.filter p) else l.filter p := by
  induction l with
  | nil => by_cases px : p x <;> simp [insertWrite, px]
  | cons w l ih =>
    obtain ⟨first, rest⟩ := List.pairwise_cons.mp h
    by_cases before : w.before x = true
    · rw [insertWrite, if_pos before, List.filter_cons, List.filter_cons, ih rest]
      by_cases px : p x <;> by_cases pw : p w <;> simp [px, pw, insertWrite, before]
    · have later : ∀ y ∈ w :: l, ¬ y.before x = true :=
        List.forall_mem_cons.mpr ⟨before, fun y mem far => before (LsWrite.before_trans (first y mem) far)⟩
      rw [insertWrite_first later, insertWrite_first fun y mem => later y (List.mem_filter.mp mem).1, List.filter_cons]

theorem filter_sortWrites (p : LsWrite → Bool) (l : List LsWrite) : sortWrites (l.filter p) = (sortWrites l).filter p := by
  have run (acc : List LsWrite) (h : inOrder acc) : (l.filter p).foldl (fun acc w => insertWrite w acc) (acc.filter p)
      = (l.foldl (fun acc w => insertWrite w acc) acc).filter p := by
    induction l generalizing acc with
    | nil => rfl
    | cons x l ih =>
      have next := ih _ (inOrder_insertWrite h x)
      rw [filter_insertWrite p h] at next
      by_cases px : p x
      · rw [if_pos px] at next
        rwa [List.filter_cons_of_pos px]
      · rw [if_neg px] at next
        rwa [List.filter_cons_of_neg px]
  exact run [] .nil

/-! ### Writes put into memory -/

theorem getElem_rdBytes (m : Mem) (a : Nat) {n i : Nat} (h : i < (rdBytes m a n).length) : (rdBytes m a n)[i] = rdByte m (a + i) := by
  induction n generalizing a i with
  | zero => simp [rdBytes] at h
  | succ n ih =>
    cases i with
    | zero => rfl
    | succ i =>
      have inside : i < (rdBytes m (a + 1) n).length := by simpa [rdBytes] using h
      exact (ih (a + 1) inside).trans (congrArg (rdByte m) (by omega))

/-- A write stored in memory is a write laid over what is read. -/
theorem rdBytes_wrBytes_overlay (m : Mem) (u a n : Nat) (w : LsWrite) :
    rdBytes (wrBytes m (lsAt u w.addr) w.bytes) (lsAt u a) n = overlay a (rdBytes m (lsAt u a) n) w := by
  refine List.ext_getElem (by simp [length_overlay, length_rdBytes]) fun i _ _ => ?_
  simp only [getElem_rdBytes, overlay, List.getElem_map, List.getElem_zipIdx, Nat.zero_add]
  split
  case isTrue inside =>
    have here : lsAt u a + i = lsAt u w.addr + (a + i - w.addr) := by unfold lsAt; omega
    rw [here, rdByte_wrBytes_inside _ _ _ _ (by omega), List.getD_eq_getElem]
  case isFalse outside => exact rdByte_wrBytes_outside _ _ _ _ (by unfold lsAt; omega)

theorem overlay_apart {a : Nat} {bs : List Byte} {w : LsWrite} (apart : w.touches a bs.length = false) : overlay a bs w = bs := by
  refine List.ext_getElem (length_overlay ..) fun i _ below => ?_
  have outside : ¬ (w.addr ≤ a + i ∧ a + i < w.addr + w.bytes.length) := by
    simp only [LsWrite.touches, Bool.and_eq_false_iff, decide_eq_false_iff_not] at apart
    omega
  simp [overlay, outside]

/-- Writes that touch no byte of a range do not count. -/
theorem foldl_overlay_touching (a n : Nat) (l : List LsWrite) {bs : List Byte} (length : bs.length = n) :
    (l.filter fun w => w.touches a n).foldl (overlay a) bs = l.foldl (overlay a) bs := by
  induction l generalizing bs with
  | nil => rfl
  | cons w l ih =>
    by_cases touches : w.touches a n = true
    · rw [List.filter_cons, if_pos touches]
      exact ih ((length_overlay ..).trans length)
    · rw [List.filter_cons, if_neg touches, List.foldl_cons, ih length, overlay_apart (by rwa [length, ← Bool.not_eq_true])]

/-- A memory with writes put into it. -/
def wrWrites (u : Nat) (m : Mem) (l : List LsWrite) : Mem := l.foldl (fun m w => wrBytes m (lsAt u w.addr) w.bytes) m

theorem rdBytes_wrWrites (u a n : Nat) (l : List LsWrite) (m : Mem) :
    rdBytes (wrWrites u m l) (lsAt u a) n = l.foldl (overlay a) (rdBytes m (lsAt u a) n) := by
  induction l generalizing m with
  | nil => rfl
  | cons w l ih => exact (ih _).trans (congrArg (l.foldl (overlay a)) (rdBytes_wrBytes_overlay ..))

theorem State.rdBytes_written (s : State) (u a n : Nat) :
    rdBytes (wrWrites u s.ls (sortWrites (s.core u).lsw)) (lsAt u a) n = s.lsNow u a n := by
  rw [rdBytes_wrWrites, State.lsNow, State.lsUnder, filter_sortWrites, foldl_overlay_touching _ _ _ (length_rdBytes ..)]

/-! ### The finished run of a core put into memory -/

theorem foldl_keeps {g : State → β} {f : State → α → State} (h : ∀ s a, g (f s a) = g s) (l : List α) (s : State) :
    g (l.foldl f s) = g s := by
  induction l generalizing s with
  | nil => rfl
  | cons a l ih => exact (ih _).trans (h s a)

theorem State.foldCore_ls (s : State) (u : Nat) : (s.foldCore u).ls = wrWrites u s.ls (sortWrites (s.core u).lsw) := by
  unfold State.foldCore
  extract_lets k bad badAcc s1 s2 s3 s4 s5 s6 s7 s8
  have stored : s1.ls = wrWrites u s.ls (sortWrites (s.core u).lsw) := by
    exact (List.foldl_hom State.ls fun _ _ => rfl).symm
  have matrix : s2.ls = s1.ls := by
    unfold s2
    refine foldl_keeps (g := State.ls) (fun _ _ => ?_) ..
    rfl
  have flipped : s3.ls = s2.ls := by
    unfold s3
    refine foldl_keeps (g := State.ls) (fun _ _ => ?_) ..
    rfl
  exact flipped.trans (matrix.trans stored)

theorem State.lsBad_clean {s : State} {u : Nat} (clean : s.ue = []) (whole : (s.core u).decays = []) (ws : List LsWrite) (t : Nat) :
    s.lsBad u ws t = [] := by
  simp [State.lsBad, clean, whole]

theorem State.foldCore_ue {s : State} {u : Nat} (clean : s.ue = []) (whole : (s.core u).decays = []) : (s.foldCore u).ue = [] := by
  unfold State.foldCore
  extract_lets k bad badAcc s1 s2 s3 s4 s5 s6 s7 s8
  have stored : s1.ue = [] := by
    unfold s1
    refine List.foldlRecOn (motive := fun t : State => t.ue = []) _ _ clean fun t none_ w _ => ?_
    rw [State.healed, none_]
    rfl
  have matrix : s2.ue = [] := by
    unfold s2
    refine List.foldlRecOn (motive := fun t : State => t.ue = []) _ _ stored fun t none_ w _ => ?_
    rw [State.healed, none_]
    rfl
  have flipped : s3.ue = [] := by
    unfold s3
    refine (foldl_keeps (g := State.ue) (fun _ _ => ?_) ..).trans matrix
    rfl
  have found : bad ++ badAcc = [] := by simp [bad, badAcc, State.lsBad_clean clean whole, k, whole]
  calc s8.ue = s3.ue ++ (bad ++ badAcc).filter fun w => !s3.ue.contains w := rfl
    _ = [] := by rw [flipped, found]; rfl

/-- A start leaves the registers of the core's own page. -/
theorem State.foldCore_keepsPage (s : State) (u : Nat) :
    State.KeepsRegs (tdBase (u / 4) + 0x80000) (tdBase (u / 4) + 0xd0000) s (s.foldCore u) := by
  unfold State.foldCore
  extract_lets k bad badAcc s1 s2 s3 s4 s5 s6 s7 s8
  have before : State.KeepsRegs (tdBase (u / 4) + 0x80000) (tdBase (u / 4) + 0xd0000) s s3 := by
    refine .foldl (.foldl (.foldl (.refl s) fun t w => ?_) fun t w => ?_) fun t f => ?_ <;> exact ⟨fun _ _ _ => rfl⟩
  have outside (t : State) {r : Reg} {o : Nat} (addr : r.addr = tdBase (u / 4) + 0xd0000 + o) (w : Word) :
      State.KeepsRegs (tdBase (u / 4) + 0x80000) (tdBase (u / 4) + 0xd0000) t (t.setReg r w) :=
    t.setReg_keepsRegs w (.inr (addr ▸ Nat.le_add_right ..))
  have flags : State.KeepsRegs (tdBase (u / 4) + 0x80000) (tdBase (u / 4) + 0xd0000) s s5 :=
    (before.trans (outside s3 (o := 4 + u % 4 * 0x100) (by simp only [R.tdCVflag]; omega) _)).trans
      (outside s4 (o := u % 4 * 0x100) rfl _)
  exact flags.trans ⟨fun _ _ _ => rfl⟩

end Sys2Proof.Machine
end
section
/-!
SUPPORT. Start, stop and clear of a tile core (spec/08_tile_core_execution.md, R200, R203 to R205).
-/

namespace Sys2Proof.Machine

theorem State.lsUe_clean {s : State} {u : Nat} (clean : s.ue = []) (whole : (s.core u).decays = []) (ws : List LsWrite)
    (t a n : Nat) : s.lsUe u ws t a n = false := by
  rw [State.lsUe, State.lsBad_clean clean whole]
  rfl

/-! ### A start (R200, R204) -/

/-- A core that starts at header word `pc`, whose program has `count` words. -/
def Core.launched (pc count : Nat) (safelight : Bool) : Core :=
  { Core.reset with st := .running, pc := pc + 1, hdrPc := pc, count := count, safelight := safelight }

/-- The same core at its header, where a bad header faults. -/
def Core.atHeader (pc count : Nat) (safelight : Bool) : Core := { Core.launched pc count safelight with pc := pc }

theorem Core.atHeader_drained (pc count : Nat) (safelight : Bool) : (Core.atHeader pc count safelight).Drained :=
  ⟨rfl, rfl, rfl, rfl⟩

section
variable {s : State} {u pc : Nat} (stands : (s.core u).st = .idle ∨ (s.core u).st = .halted) (quiet : s.qempty u = true)
  (clean : s.ue = []) (whole : (s.core u).decays = [])
include stands quiet clean whole

/-- A start of a core that stands still runs the program at the header, or takes the fault of a bad header. -/
theorem State.startCore_eq :
    let h := leNat (s.lsNow u (64 * pc) 64)
    let launched := (s.foldCore u).setCore u (Core.launched pc (nbits h 446 18) (s.bit (R.tdCCtl u) 0))
    s.startCore u pc = if headerOk pc h then launched
      else (launched.setCore u (Core.atHeader pc (nbits h 446 18) (s.bit (R.tdCCtl u) 0))).wordFault u 0 fcDenied 0 0 0 := by
  intro h launched
  have header : leNat (rdBytes (s.foldCore u).ls (lsAt u (64 * pc)) 64) = h := by
    rw [State.foldCore_ls, State.rdBytes_written]
  have safelight : (s.foldCore u).bit (R.tdCCtl u) 0 = s.bit (R.tdCCtl u) 0 :=
    (s.foldCore_keepsPage u).bit (by simp only [R.tdCCtl]; omega) (by simp only [R.tdCCtl]; omega) 0
  have readable (k : Core) (none_ : k.decays = []) : ((s.foldCore u).setCore u k).lsUe u [] 0 (64 * pc) 64 = false :=
    State.lsUe_clean (by rw [State.setCore_ue, State.foldCore_ue clean whole]) (by rw [State.core_setCore_same, none_]) ..
  unfold State.startCore
  simp only [header, safelight]
  rw [if_neg (by rcases stands with st | st <;> simp [st, quiet]), readable _ rfl]
  exact if_neg Bool.false_ne_true

end

/-- The fault of a bad header is recorded with the header's address. -/
theorem State.badHeader_faults (s : State) (u : Nat) {pc : Nat} (small : pc < 2 ^ 18) (count : Nat) (safelight : Bool) (k : Core) :
    let t := (((s.foldCore u).setCore u k).setCore u (Core.atHeader pc count safelight)).wordFault u 0 fcDenied 0 0 0
    (t.core u).st = .faulted ∧ t.bit (R.tdCCause u) 0 = true
      ∧ (s.reg (R.tdCFault0 u) = 0 → t.fld (R.tdCFault0 u) 31 24 = fcDenied ∧ t.fld (R.tdCFault0 u) 17 0 = pc) := by
  have page := (s.foldCore_keepsPage u).reg (R.tdCFault0 u) (by simp only [R.tdCFault0]; omega) (by simp only [R.tdCFault0]; omega)
  have regs : Changes [.cores] (s.foldCore u) (((s.foldCore u).setCore u k).setCore u (Core.atHeader pc count safelight)) :=
    (State.setCore_changes ..).trans (State.setCore_changes ..)
  have core : (((s.foldCore u).setCore u k).setCore u (Core.atHeader pc count safelight)).core u = Core.atHeader pc count safelight := by
    rw [State.core_setCore_same]
  generalize ((s.foldCore u).setCore u k).setCore u (Core.atHeader pc count safelight) = v at regs core
  have drained : (v.core u).Drained := core ▸ Core.atHeader_drained pc count safelight
  have none_ : (v.core u).fault = none := congrArg Core.fault core
  have at_ : (v.core u).pc = pc := congrArg Core.pc core
  obtain ⟨faulted, cause, record⟩ := State.wordFault_records drained none_ 0 0 0 0 (by decide : fcDenied < 256)
  refine ⟨faulted, cause, fun empty => ?_⟩
  obtain ⟨code, pc_⟩ := record ((regs.reg (by decide) (R.tdCFault0 u)).trans (page.trans empty))
  exact ⟨code, (pc_ (at_.trans_lt small)).trans at_⟩

/-- A start in another state is an error. -/
theorem State.startCore_refused {s : State} {u : Nat} (pc : Nat) (idle : (s.core u).st ≠ .idle) (halted : (s.core u).st ≠ .halted) :
    s.startCore u pc = s.cmdErr u :=
  if_pos (by simp [idle, halted])

/-! ### Stop and clear (R205) -/

/-- A command that is an error sets `cmd_err` and does nothing else. -/
theorem State.cmdErr_marks (s : State) (u : Nat) :
    (s.cmdErr u).bit (R.tdCCause u) 1 = true ∧ (s.cmdErr u).cores = s.cores ∧ Changes [.regs] s (s.cmdErr u) :=
  ⟨State.bit_raise_same _ _ (by decide), rfl, s.cmdErr_changes u⟩

/-- A core that enters HALTED stands at cycle `t`, and its cause bit says so. -/
theorem State.enterHalted_halts (s : State) (u t : Nat) : ((s.enterHalted u t).core u).st = .halted
    ∧ (s.enterHalted u t).bit (R.tdCCause u) 2 = true ∧ ((s.enterHalted u t).core u).cyc = t := by
  have core : (s.enterHalted u t).core u = { s.core u with st := .halted, cyc := t, now := t, blocked := false, halting := false,
                                                           stopping := false } :=
    ((State.raise_changes ..).core (by decide) u).trans (State.core_setCore_same ..)
  exact ⟨congrArg Core.st core, State.bit_raise_same _ _ (by decide), congrArg Core.cyc core⟩

section
variable {s : State} {u : Nat}

theorem State.stopCore_holding (st : (s.core u).st = .running) (holds : (s.core u).blocked = false) :
    s.stopCore u = s.setCore u { s.core u with stopping := true } := by
  simp [State.stopCore, st, holds]

theorem State.stopCore_waiting (st : (s.core u).st = .waiting) : s.stopCore u
    = (s.addCtr (R.tdCStallLo u 6) ((s.core u).clock - (s.core u).cyc)).enterHalted u (s.core u).clock := by
  simp [State.stopCore, st]

theorem State.stopCore_blocked (st : (s.core u).st = .running) (blocked : (s.core u).blocked = true) :
    s.stopCore u = s.enterHalted u (s.core u).clock := by
  simp [State.stopCore, st, blocked]

theorem State.stopCore_refused (running : (s.core u).st ≠ .running) (waiting : (s.core u).st ≠ .waiting) :
    s.stopCore u = s.cmdErr u :=
  if_pos (by simp [running, waiting])

/-- A remembered clear does not count for qempty. -/
theorem State.qempty_clearing (s : State) (u : Nat) (b : Bool) :
    (s.setCore u { s.core u with clearing := b }).qempty u = s.qempty u := by
  simp [State.qempty, Core.clock]

theorem State.clearCore_eq (st : (s.core u).st = .faulted) :
    s.clearCore u = let t := s.setCore u { s.core u with clearing := true }
      if s.qempty u then t.setCore u { s.core u with st := .idle, clearing := false } else t := by
  unfold State.clearCore State.settleClear
  rw [if_neg (not_not_intro st), State.qempty_clearing, State.core_setCore_same]
  simp only [st, beq_self_eq_true, Bool.true_and]

theorem State.clearCore_refused (st : (s.core u).st ≠ .faulted) : s.clearCore u = s.cmdErr u := if_pos st

/-! ### The commands -/

variable (core : s.hasCore u = true) (on : s.dev ≠ .off) (booted : s.dev ≠ .rom)
include core on booted

theorem State.answers_core : s.answers (.td (u / 4)) = true := by
  refine State.answers_of_populated on booted (decide_eq_true ?_)
  have inside : u < 4 * s.tiles := of_decide_eq_true core
  show u / 4 < s.tiles
  omega

theorem exec_coreStart {w : Word} (start : w.getLsbD 31 = true) :
    exec (.coreStart u w) s = .next (s.startCore u (wfld w 17 0)) := by
  refine congrArg Host.Outcome.next ((State.onWrite_of_answers (State.answers_core core on booted) rfl _).trans ?_)
  rw [State.writeStart, if_pos ⟨core, (wbit_eq w 31).trans start⟩]

theorem exec_coreStop {w : Word} (stop : w.getLsbD 1 = true) (clear : w.getLsbD 0 = false) :
    exec (.coreStop u w) s = .next (s.stopCore u) := by
  rw [← wbit_eq] at stop clear
  refine congrArg Host.Outcome.next ((State.onWrite_of_answers (State.answers_core core on booted) stop _).trans ?_)
  simp [State.writeCoreCmd, core, stop, clear]

theorem exec_coreClear {w : Word} (stop : w.getLsbD 1 = false) (clear : w.getLsbD 0 = true) :
    exec (.coreClear u w) s = .next (s.clearCore u) := by
  rw [← wbit_eq] at stop clear
  refine congrArg Host.Outcome.next ((State.onWrite_of_answers (State.answers_core core on booted) clear _).trans ?_)
  simp [State.writeCoreCmd, core, stop, clear]

end

/-- Settles O47: a start by the core that it leaves, stop, clear and the end of a hold by the entry to the next state. -/
theorem coresStartAndStop : Obligations.CoresStartAndStop := by
  intro s u w core
  refine ⟨fun on booted => ⟨fun start stands quiet clean whole => ⟨fun good => ?starts, fun bad => ?faults⟩,
    fun start idle halted => ?startErr, fun stop clear st holds => ?stopping, fun stop clear st _ => ?halts,
    fun stop clear running waiting => ?stopErr, fun stop clear st quiet => ?clears, fun stop clear st busy => ?remembers,
    fun stop clear st => ?clearErr⟩, fun cycles stopping => ?held, fun st holds none_ => ?holdEnd⟩
  case starts =>
    refine .of_eq (exec_coreStart core on booted start) ?_
    rw [State.startCore_eq stands quiet clean whole, if_pos good, State.core_setCore_same]
    rfl
  case faults =>
    refine .of_eq (exec_coreStart core on booted start) ?_
    rw [State.startCore_eq stands quiet clean whole, if_neg (by simp [bad])]
    exact s.badHeader_faults u (Nat.mod_lt _ (Nat.two_pow_pos 18)) ..
  case startErr =>
    refine .of_eq (exec_coreStart core on booted start) ?_
    rw [State.startCore_refused _ idle halted]
    exact s.cmdErr_marks u
  case stopping =>
    refine .of_eq (exec_coreStop core on booted stop clear) ?_
    rw [State.stopCore_holding st holds]
    exact ⟨State.core_setCore_same .., State.setCore_changes .., fun v other => State.core_setCore_other _ _ other.symm⟩
  case halts =>
    refine .of_eq (exec_coreStop core on booted stop clear) ?_
    by_cases waiting : (s.core u).st = .waiting
    · rw [State.stopCore_waiting waiting]
      obtain ⟨halted, cause, -⟩ := State.enterHalted_halts
        (s.addCtr (R.tdCStallLo u 6) ((s.core u).clock - (s.core u).cyc)) u (s.core u).clock
      have frame := State.enterHalted_changes (s.addCtr (R.tdCStallLo u 6) ((s.core u).clock - (s.core u).cyc)) u (s.core u).clock
      exact ⟨⟨halted, cause⟩, ((State.addCtr_changes ..).mono (by decide)).step frame (by decide),
        fun _ => (congrArg (mget 0 · _) (frame.elsewhere .cnt (by decide))).trans (State.ctr_addCtr_same ..)⟩
    · obtain ⟨running, blocked⟩ := st.resolve_left waiting
      rw [State.stopCore_blocked running blocked]
      obtain ⟨halted, cause, -⟩ := s.enterHalted_halts u (s.core u).clock
      exact ⟨⟨halted, cause⟩, (State.enterHalted_changes ..).mono (by decide), fun w => absurd w waiting⟩
  case stopErr =>
    refine .of_eq (exec_coreStop core on booted stop clear) ?_
    rw [State.stopCore_refused running waiting]
    exact s.cmdErr_marks u
  case clears =>
    refine .of_eq (exec_coreClear core on booted stop clear) ?_
    rw [State.clearCore_eq st, if_pos quiet]
    exact ⟨State.core_setCore_same .., (State.setCore_changes ..).trans (State.setCore_changes ..)⟩
  case remembers =>
    refine .of_eq (exec_coreClear core on booted stop clear) ?_
    rw [State.clearCore_eq st, if_neg (by simp [busy])]
    exact ⟨State.core_setCore_same .., State.setCore_changes ..⟩
  case clearErr =>
    refine .of_eq (exec_coreClear core on booted stop clear) ?_
    rw [State.clearCore_refused st]
    exact s.cmdErr_marks u
  case held => exact congrArg Host.Outcome.next ((if_pos core).trans (if_pos (by simp [stopping])))
  case holdEnd =>
    have run : s.holdEnd u = s.enterHalted u (s.core u).holdTo := by
      unfold State.holdEnd
      rw [if_pos ⟨st, holds⟩, none_]
    obtain ⟨halted, cause, stands⟩ := s.enterHalted_halts u (s.core u).holdTo
    exact .of_eq (congrArg Host.Outcome.next ((if_pos core).trans run))
      ⟨⟨halted, cause⟩, stands, State.enterHalted_changes ..⟩

end Sys2Proof.Machine
end
section
/-!
SUPPORT. The words of the control core (spec/08_tile_core_execution.md, R197, R198, R207, R208, R217 to R221): the fields of a
word of one slot, what a word leaves of the core, and which word comes next.
-/

namespace Sys2Proof.Machine

/-! ### Fields of a word of one slot (Table 8.1) -/

theorem testBit_nbits (w lo n i : Nat) : (nbits w lo n).testBit i = (decide (i < n) && w.testBit (lo + i)) := by
  rw [nbits, Nat.testBit_mod_two_pow, Nat.testBit_shiftRight]

theorem nbits_below {w lo n a : Nat} (h : lo + n ≤ a) : nbits (w * 2 ^ a) lo n = 0 := by
  refine Nat.eq_of_testBit_eq fun i => ?_
  rw [testBit_nbits, Nat.testBit_mul_two_pow, Nat.zero_testBit]
  by_cases inside : i < n
  · simp [show ¬ a ≤ lo + i by omega]
  · simp [inside]

theorem nbits_above {w lo b : Nat} (n : Nat) (h : w < 2 ^ b) (le : b ≤ lo) : nbits w lo n = 0 := by
  rw [nbits, Nat.shiftRight_eq_div_pow, Nat.div_eq_of_lt (h.trans_le (Nat.pow_le_pow_right (by decide) le)), Nat.zero_mod]

theorem nbits_at {w n : Nat} (a : Nat) (h : w < 2 ^ n) : nbits (w * 2 ^ a) a n = w := by
  rw [nbits, Nat.shiftRight_eq_div_pow, Nat.mul_div_cancel _ (Nat.two_pow_pos a), Nat.mod_eq_of_lt h]

theorem mul_two_pow_lt {w n : Nat} (a : Nat) (h : w < 2 ^ n) : w * 2 ^ a < 2 ^ (n + a) := by
  rw [Nat.pow_add]
  exact Nat.mul_lt_mul_of_pos_right h (Nat.two_pow_pos a)

/-- A word of an XCW without vector, generator and DMA slots. -/
structure PlainWord (w : Nat) : Prop where
  nsm : isNsm w = false
  tag : wTag w = 0
  vec0 : wVec0 w = 0
  vec1 : wVec1 w = 0
  ag : ∀ g < 4, wAg w g = 0
  dma : wDma w = 0

theorem plainWord_of {w : Nat} (vecs : ∀ lo n, 128 ≤ lo → lo + n ≤ 448 → nbits w lo n = 0)
    (tag : ∀ lo n, 480 ≤ lo → nbits w lo n = 0) : PlainWord w where
  nsm := by simp [isNsm, tag]
  tag := tag _ _ (by decide)
  vec0 := vecs _ _ (by decide) (by decide)
  vec1 := vecs _ _ (by decide) (by decide)
  ag g hg := vecs _ _ (by omega) (by omega)
  dma := vecs _ _ (by decide) (by decide)

/-- The low slots of a word. -/
theorem plainWord_ctl {w : Nat} (h : w < 2 ^ 64) : PlainWord w ∧ wCtl w = w ∧ wMat w = 0 ∧ wSync w = 0 :=
  ⟨plainWord_of (fun _ n le _ => nbits_above n h (by omega)) fun _ n le => nbits_above n h (by omega),
    Nat.mod_eq_of_lt h, nbits_above _ h (by decide), nbits_above _ h (by decide)⟩

theorem plainWord_mat {m : Nat} (h : m < 2 ^ 64) :
    PlainWord (m * 2 ^ 64) ∧ wCtl (m * 2 ^ 64) = 0 ∧ wMat (m * 2 ^ 64) = m ∧ wSync (m * 2 ^ 64) = 0 := by
  have small := mul_two_pow_lt 64 h
  exact ⟨plainWord_of (fun _ n le _ => nbits_above n small (by omega)) fun _ n le => nbits_above n small (by omega),
    nbits_below (by decide), nbits_at 64 h, nbits_above _ small (by decide)⟩

theorem plainWord_sync {y : Nat} (h : y < 2 ^ 32) :
    PlainWord (y * 2 ^ 448) ∧ wCtl (y * 2 ^ 448) = 0 ∧ wMat (y * 2 ^ 448) = 0 ∧ wSync (y * 2 ^ 448) = y :=
  ⟨plainWord_of (fun _ _ _ le => nbits_below le) fun _ n le => nbits_above n (mul_two_pow_lt 448 h) (by omega),
    nbits_below (by decide), nbits_below (by decide), nbits_at 448 h⟩

/-! ### Scalar work and the next word (R217, R218, R221) -/

/-- Scalar work leaves the loop levels. -/
theorem Core.scalar_lv (k : Core) (c : Nat) : (k.scalar c).lv = k.lv := by
  unfold Core.scalar
  extract_lets op i x imm setC
  repeat' split
  all_goals rfl

theorem activeLevels_congr {k k' : Core} (h : k'.lv = k.lv) : activeLevels k' = activeLevels k := by
  simp only [activeLevels, Core.level, h]

/-- The two cores differ in their loop levels at most. -/
def Core.SameButLevels (k k' : Core) : Prop := ∃ lv, k' = { k with lv := lv }

theorem Core.SameButLevels.refl (k : Core) : k.SameButLevels k := ⟨k.lv, rfl⟩

theorem Core.SameButLevels.trans {k k' k'' : Core} (h : k.SameButLevels k') (g : k'.SameButLevels k'') : k.SameButLevels k'' := by
  obtain ⟨lv, rfl⟩ := h
  obtain ⟨lv', rfl⟩ := g
  exact ⟨lv', rfl⟩

theorem Core.setLevel_sameButLevels (k : Core) (l : Nat) (v : LoopLevel) : k.SameButLevels (k.setLevel l v) := ⟨_, rfl⟩

theorem Core.endOf_sameButLevels (fuel : Nat) (k : Core) (e : Nat) : k.SameButLevels (k.endOf fuel e).1 := by
  induction fuel generalizing k with
  | zero => exact .refl k
  | succ fuel ih =>
    unfold Core.endOf
    split
    · exact .refl k
    · split
      · exact k.setLevel_sameButLevels ..
      · exact (k.setLevel_sameButLevels ..).trans (ih _)

theorem Core.leaveBodies_sameButLevels (k : Core) (target : Nat) : k.SameButLevels (k.leaveBodies target) := by
  unfold Core.leaveBodies
  extract_lets out closed
  exact List.foldlRecOn (motive := fun k' => k.SameButLevels k') closed _ (.refl k) fun k' h p _ =>
    h.trans (k'.setLevel_sameButLevels ..)

/-- Which word comes next is a matter of the loop levels alone. -/
theorem Core.successor_sameButLevels (k old : Core) (pc c : Nat) : k.SameButLevels (k.successor old pc c).1 := by
  unfold Core.successor
  extract_lets n r k1
  have opened : k.SameButLevels k1.1 := by
    unfold k1
    split
    · split
      · exact k.endOf_sameButLevels ..
      · exact k.setLevel_sameButLevels ..
    · exact .refl k
  split
  · exact opened.trans (k1.1.leaveBodies_sameButLevels _)
  · split
    · exact opened
    · split
      · exact opened
      · exact opened.trans (k1.1.endOf_sameButLevels ..)

theorem Core.successor_branch {k old : Core} {c : Nat} (taken : old.branches c = true) (pc : Nat) :
    (k.successor old pc c).2 = scImm c := by
  simp [Core.successor, taken]

/-- Outside every loop the next word follows. -/
theorem Core.successor_next {k old : Core} {c : Nat} (falls : old.branches c = false) (plain : lpOp c ≠ 1)
    (halt : scOp c ≠ scHalt) (outside : activeLevels k = []) (pc : Nat) : (k.successor old pc c).2 = pc + 1 := by
  simp [Core.successor, falls, plain, halt, Core.endOf, outside, innermost]

/-- A LOOP opens its level at the word behind it (R219). -/
theorem Core.successor_loop {k old : Core} {c : Nat} (falls : old.branches c = false) (loop : lpOp c = 1)
    (some_ : old.loopCount (lpLvl c) ≠ 0) (pc : Nat) : k.successor old pc c
      = (k.setLevel (lpLvl c) ⟨true, 0, old.loopCount (lpLvl c), pc + 1, lpEnd c⟩, pc + 1) := by
  simp [Core.successor, falls, loop, some_]

/-! ### The core behind a word (R207, R208) -/

/-- The core behind a word with control field `ctl` that put `q` into its queues at cycle `t`, but for its pc. -/
def Core.behind (old : Core) (t ctl : Nat) (q : List QCmd) : Core :=
  let k := (old.enqueue ⟨q, none⟩).scalar ctl
  { (k.successor old old.pc ctl).1 with
    st := .running, words := old.words + 1, cyc := t, blocked := false,
    ready := t + holdOf ctl + (if old.branches ctl then 2 else 0), holdTo := t + holdOf ctl,
    lvHeld := (k.openLoop old old.pc ctl).lv, halting := scOp ctl == scHalt }

/-- The pc of the word that follows. -/
def Core.pcBehind (old : Core) (ctl : Nat) (q : List QCmd) : Nat :=
  (((old.enqueue ⟨q, none⟩).scalar ctl).successor old old.pc ctl).2

/-- Its time, its count of words and its state. -/
structure Core.Dispatched (old k : Core) (t hold : Nat) : Prop where
  words : k.words = old.words + 1
  cyc : k.cyc = t
  ready : k.ready = t + hold
  st : k.st = .running

theorem Core.behind_dispatched (old : Core) (t ctl : Nat) (q : List QCmd) (pc : Nat) :
    old.Dispatched { old.behind t ctl q with pc := pc } t (holdOf ctl + if old.branches ctl then 2 else 0) :=
  ⟨rfl, rfl, Nat.add_assoc .., rfl⟩

section
variable {s : State} {u w : Nat} (plain : PlainWord w) (t : Nat)
include plain

theorem badSlot_plain {k : Core} {pc : Nat} (ctl : ctlOk k pc (wCtl w) = true) (mat : matOk (wMat w) = true)
    (sync : syncOk (wSync w) = true) : badSlot k pc w = none := by
  have ags : ((List.range 4).all fun g => agOk (wAg w g)) = true := by
    refine List.all_eq_true.mpr fun g mem => ?_
    rw [plain.ag g (List.mem_range.mp mem)]
    rfl
  simp only [badSlot, plain.nsm, plain.tag, plain.vec0, plain.vec1, plain.dma, ctl, mat, sync, ags]
  rfl

theorem State.wordCmds_noMat (none_ : wMat w = 0) : s.wordCmds u t w = .ok ⟨[], none⟩ := by
  simp only [State.wordCmds, State.dmaCmd, plain.nsm, plain.vec0, plain.vec1, plain.dma, none_]
  rfl

/-- The command of a mat slot. -/
theorem State.wordCmds_mat {c : QCmd} (some_ : matOp (wMat w) ≠ 0) (cmd : (s.core u).matCmd
      { q := 0, slot := 0, d := t, word := (s.core u).pc, ord := (s.core u).words + 1, a := 0, b := 0, dst := 0, ca := 0, ca1 := 0 }
      (wMat w) = .ok c) : s.wordCmds u t w = .ok ⟨[c], none⟩ := by
  simp only [State.wordCmds, State.dmaCmd, plain.nsm, plain.vec0, plain.vec1, plain.dma, bne_iff_ne, ne_eq, some_, not_false_eq_true,
    if_true, cmd]
  rfl

theorem foldl_genOp_plain (k old : Core) : (List.range 4).foldl (fun k g => k.genOp old g (wAg w g)) k = k := by
  have none_ (k : Core) (g : Nat) : k.genOp old g 0 = k := rfl
  simp [List.range_succ, plain.ag, none_]

/-- The core goes on at `pc`. -/
def State.goesTo (s : State) (u pc : Nat) : State := s.setCore u { s.core u with pc := pc }

/-- A word that no check refuses: the core behind it, its sync slot, and its fault where the sync slot has one. -/
theorem State.dispatchWord_plain {q : List QCmd} (good : badSlot (s.core u) (s.core u).pc w = none)
    (cmds : s.wordCmds u t w = .ok ⟨q, none⟩) :
    let v := s.setCore u ((s.core u).behind t (wCtl w) q)
    s.dispatchWord u t w = match v.syncFault u t (wSync w) with
      | some f => (v.syncSlot u (wSync w)).enterFault u f false none
      | none => (v.syncSlot u (wSync w)).goesTo u ((s.core u).pcBehind (wCtl w) q) := by
  intro v
  unfold State.dispatchWord
  simp only [good, cmds, plain.nsm, foldl_genOp_plain plain]
  rfl

end

end Sys2Proof.Machine
end
section
/-!
SUPPORT. Dispatch (spec/08_tile_core_execution.md, R207, R208; spec/12_synchronisation.md, R293 to R296): when a core dispatches
its next word, waits, or goes on waiting, and what the word does.
-/

namespace Sys2Proof.Machine

/-! ### When the word dispatches -/

theorem Core.held_drained {k : Core} (h : k.Drained) {q : Nat} (vec : q ≤ 2) (t : Nat) : k.held q t = 0 := by
  have none_ : k.queue q = [] := by simp [Core.queue, h.mq, h.vq0, h.vq1]
  simp [Core.held, vec, none_, h.started, countWhere]

/-- A word without a DMA slot finds room where nothing waits or runs; one with a tag needs none. -/
theorem fullQueues_drained {k : Core} (h : k.Drained) {w : Nat} (nsm : isNsm w = false) (dma : wDma w = 0) (t : Nat) :
    fullQueues k w t = [] := by
  refine List.filter_eq_nil_iff.mpr fun q mem => ?_
  have vec : q ≤ 2 := by
    have one {c : Prop} [Decidable c] {m : Nat} (mem : q ∈ if c then [] else [m]) : q = m := by
      split at mem
      · exact absurd mem List.not_mem_nil
      · exact List.mem_singleton.mp mem
    have parts : q ∈ (if matOp (wMat w) = 0 then [] else [0]) ++ (if vecOp (wVec0 w) = 0 then [] else [1])
        ++ (if vecOp (wVec1 w) = 0 then [] else [2]) ++ [] := by
      rw [targets, nsm, dma] at mem
      exact mem
    rw [List.append_nil, List.mem_append, List.mem_append] at parts
    rcases parts with (mat | v0) | v1
    · exact (one mat).trans_le (by decide)
    · exact (one v0).trans_le (by decide)
    · exact (one v1).trans_le (by decide)
  simp [Core.held_drained h vec]

/-- The first cycle at which a word that finds room may dispatch is the one at which it does. -/
theorem State.dispatchBy_first {s : State} {u t last w : Nat} (drained : (s.core u).Drained) (none_ : (s.core u).fault = none)
    (room : (wTag w != 0 && !isNsm w) = true ∨ fullQueues (s.core u) w t = []) (le : t ≤ last) :
    s.dispatchBy u t last w = s.dispatchWord u t w := by
  unfold State.dispatchBy
  extract_lets k full cand go fin stop upTo s1
  have now : full t = [] := by
    unfold full
    split
    · rfl
    · exact room.resolve_left ‹_›
  have first : cand = t :: ((List.range (last - t)).map fun x => t + (x + 1)) := by
    unfold cand
    rw [show last + 1 - t = last - t + 1 by omega, List.range_succ_eq_map, List.map_cons, List.map_map]
    rfl
  have goes : go = some t := by
    unfold go
    rw [first, List.find?_cons_of_pos (by simp [now])]
  have fin' : fin = t := by simp only [fin, goes, Option.getD_some]
  have stop' : stop = none := by simp only [stop, k, none_]; rfl
  have upTo' : upTo = t := by simp [upTo, stop', goes, fin']
  have before : s1 = s := by
    have skip : cand.filter (fun x => decide (x < upTo)) = [] := by
      rw [upTo']
      refine List.filter_eq_nil_iff.mpr fun x mem => ?_
      obtain ⟨y, -, rfl⟩ := List.mem_map.mp mem
      simp
    unfold s1
    rw [skip]
    rfl
  rw [Core.due_drained drained, before, stop', goes, fin']
  rfl

/-- A core that looks for its next word: nothing waits or runs in it, and its pc lies in the program. -/
structure State.Looks (s : State) (u : Nat) : Prop where
  core : s.hasCore u = true
  clean : s.ue = []
  halting : (s.core u).halting = false
  stopping : (s.core u).stopping = false
  sound : (s.core u).fault = none
  drained : (s.core u).Drained
  whole : (s.core u).decays = []
  inside : (s.core u).hdrPc < (s.core u).pc ∧ (s.core u).pc ≤ (s.core u).hdrPc + (s.core u).count

section
variable {s : State} {u : Nat} (h : s.Looks u)
include h

/-- Whether the sync slot of word `w` waits for its count. -/
def State.holdsBack (s : State) (u w : Nat) : Bool :=
  let y := if isNsm w || wTag w != 0 then 0 else wSync w
  syWaits y && decide ((s.sem u (sySem y)).toNat < syN y)

theorem State.Looks.dispatch (st : (s.core u).st = .running ∨ (s.core u).st = .waiting) (cycles : Nat) :
    exec (.xcwDispatch u cycles) s = .next (s.dispatchNext u cycles) := by
  have refresh : s.refresh u = s := by simp [State.refresh, h.drained.started]
  refine congrArg Host.Outcome.next ((if_pos h.core).trans ?_)
  unfold State.dispatch
  rw [refresh, if_neg]
  rcases st with st | st <;> simp [st, h.halting, h.stopping]

/-- The cycle at which a waiting core looks again, `cycles` later. -/
def Core.nextTest (k : Core) (cycles : Nat) : Nat := max (k.ready + cycles) (k.cyc + 3)

/-- A running core dispatches the word, or waits from the cycle of the test on. -/
theorem State.Looks.running (st : (s.core u).st = .running) (cycles : Nat) :
    exec (.xcwDispatch u cycles) s = .next (if s.holdsBack u (s.fetchWord u (s.core u).ready) then
        s.setCore u { s.core u with st := .waiting, cyc := (s.core u).ready, blocked := true }
      else s.dispatchBy u (s.core u).ready ((s.core u).ready + cycles) (s.fetchWord u (s.core u).ready)) := by
  refine (h.dispatch (.inl st) cycles).trans (congrArg Host.Outcome.next ?_)
  unfold State.dispatchNext
  extract_lets k run t0 t w y waits fault s1
  have at_ : t = k.ready := if_neg (by rw [st]; decide)
  have running : run = true := by simp [run, k, st]
  have sound : fault = none := by rw [show fault = k.fault.filter _ from rfl, show k.fault = none from h.sound]; rfl
  have still : s1 = s := if_neg (by simp [running])
  have inside : (!(decide (k.hdrPc < k.pc) && decide (k.pc ≤ k.hdrPc + k.count))) = false := by simp [k, h.inside]
  rw [Core.due_drained h.drained, sound, still, running, State.lsUe_clean h.clean h.whole, inside, if_pos rfl, if_pos rfl]
  simp only [Option.isSome_none, Bool.false_eq_true, if_false]
  rw [show waits = s.holdsBack u w from rfl, show w = s.fetchWord u k.ready from congrArg (s.fetchWord u) at_, at_]

/-- A core that waits goes on waiting, or ends its wait and dispatches the word. -/
theorem State.Looks.waiting (st : (s.core u).st = .waiting) (cycles : Nat) :
    exec (.xcwDispatch u cycles) s = .next (if s.holdsBack u (s.fetchWord u ((s.core u).nextTest cycles)) then
        s.setCore u { s.core u with ready := (s.core u).ready + cycles }
      else (s.resume u ((s.core u).nextTest cycles)).dispatchBy u ((s.core u).nextTest cycles) ((s.core u).nextTest cycles)
        (s.fetchWord u ((s.core u).nextTest cycles))) := by
  refine (h.dispatch (.inr st) cycles).trans (congrArg Host.Outcome.next ?_)
  unfold State.dispatchNext
  extract_lets k run t0 t w y waits fault s1
  have at_ : t = k.nextTest cycles := if_pos st
  have running : run = false := by simp [run, k, st]
  have sound : fault = none := by rw [show fault = k.fault.filter _ from rfl, show k.fault = none from h.sound]; rfl
  have inside : (!(decide (k.hdrPc < k.pc) && decide (k.pc ≤ k.hdrPc + k.count))) = false := by simp [k, h.inside]
  have word : w = s.fetchWord u (k.nextTest cycles) := congrArg (s.fetchWord u) at_
  have ended : s1 = if waits then s else s.resume u t := by
    unfold s1
    rw [running, sound]
    cases waits <;> rfl
  have read : s1.lsUe u k.lsw t (64 * k.pc) 64 = false := by
    refine State.lsUe_clean ?_ ?_ .. <;> rw [ended] <;> split
    · exact h.clean
    · exact h.clean
    · exact h.whole
    · rw [State.resume, (State.addCtr_changes ..).core (by decide), State.core_setCore_same]
      exact h.whole
  rw [Core.due_drained h.drained, sound, read, running, inside]
  simp only [Option.isSome_none, Bool.false_eq_true, if_false]
  rw [ended, show waits = s.holdsBack u w from rfl, word, at_]
  split <;> rfl

end

end Sys2Proof.Machine
end
section
/-!
SUPPORT. What a word of one slot does as it dispatches (spec/08_tile_core_execution.md, R198, R217, R218, R220;
spec/12_synchronisation.md, R293, R294, R296).
-/

namespace Sys2Proof.Machine

/-! ### The sync slot (R293, R294) -/

/-- The sync slot is a matter of the semaphores and of fabric time. -/
theorem State.setCore_syncSlot (s : State) (u y : Nat) (k : Core) : (s.setCore u k).syncSlot u y = (s.syncSlot u y).setCore u k := by
  unfold State.syncSlot
  rw [show (s.setCore u k).sem = s.sem from rfl]
  dsimp only
  repeat' split
  all_goals rfl

section
variable {s : State} {u y : Nat}

theorem State.syncSlot_none (op : syOp y ≤ 1) : s.syncSlot u y = s := by
  have other : syOp y ≠ 2 ∧ syOp y ≠ 3 ∧ syOp y ≠ 4 ∧ syOp y ≠ 5 ∧ syOp y ≠ 6 := by omega
  obtain ⟨h2, h3, h4, h5, h6⟩ := other
  simp [State.syncSlot, h2, h3, h4, h5, h6]

theorem State.syncSlot_add (op : syOp y = 2) (fits : (s.sem u (sySem y)).toNat + syN y < 2 ^ 32) :
    s.syncSlot u y = s.setSem u (sySem y) (BitVec.ofNat 32 ((s.sem u (sySem y)).toNat + syN y)) := by
  have : ¬ 0xFFFFFFFF < (s.sem u (sySem y)).toNat + syN y := by omega
  simp [State.syncSlot, op, this]

theorem State.syncSlot_sub (op : syOp y = 3) (le : syN y ≤ (s.sem u (sySem y)).toNat) :
    s.syncSlot u y = s.setSem u (sySem y) (BitVec.ofNat 32 ((s.sem u (sySem y)).toNat - syN y)) := by
  simp [State.syncSlot, op, Nat.not_lt.mpr le]

theorem State.syncSlot_underflow (op : syOp y = 3) (lt : (s.sem u (sySem y)).toNat < syN y) : s.syncSlot u y = s := by
  simp [State.syncSlot, op, lt]

theorem State.syncSlot_arrive (op : syOp y = 4) (small : syN y < 64) :
    s.syncSlot u y = { s with time := { s.time with arrivals := s.time.arrivals ++ [(u, syN y, sySem y)] } } := by
  simp [State.syncSlot, op, Nat.mod_eq_of_lt small]

theorem State.syncFault_none (add : syOp y = 2 → (s.sem u (sySem y)).toNat + syN y < 2 ^ 32)
    (sub : syOp y = 3 → syN y ≤ (s.sem u (sySem y)).toNat) (t : Nat) : s.syncFault u t y = none := by
  unfold State.syncFault
  extract_lets v fault
  rw [if_neg fun h => ?_, if_neg fun h => ?_]
  · exact absurd (sub h.1) (Nat.not_le.mpr h.2)
  · have := add h.1
    omega

end

/-! ### The fields of the core behind a word -/

/-- The core behind a word is the core after its commands and its scalar work, but for its time and its levels. -/
theorem Core.behind_eq (old : Core) (t ctl : Nat) (q : List QCmd) : ∃ lv lvHeld, old.behind t ctl q
    = { (old.enqueue ⟨q, none⟩).scalar ctl with
        lv := lv, lvHeld := lvHeld, st := .running, words := old.words + 1, cyc := t, blocked := false,
        ready := t + holdOf ctl + (if old.branches ctl then 2 else 0), holdTo := t + holdOf ctl, halting := scOp ctl == scHalt } := by
  obtain ⟨lv, levels⟩ := ((old.enqueue ⟨q, none⟩).scalar ctl).successor_sameButLevels old old.pc ctl
  refine ⟨lv, (((old.enqueue ⟨q, none⟩).scalar ctl).openLoop old old.pc ctl).lv, ?_⟩
  simp only [Core.behind, levels]

/-- Scalar work of no operation. -/
theorem Core.scalar_zero (k : Core) : k.scalar 0 = k := rfl

/-- A word without commands and scalar work leaves a core that has nothing under way. -/
theorem Core.behind_drained {old : Core} (h : old.Drained) (t : Nat) :
    (old.behind t 0 []).Drained ∧ (old.behind t 0 []).fault = old.fault := by
  obtain ⟨lv, lvHeld, e⟩ := old.behind_eq t 0 []
  rw [e]
  exact ⟨⟨h.mq, h.vq0, h.vq1, h.started⟩, rfl⟩

/-! ### Words that dispatch -/

/-- The state behind a word: the core has gone on from `s`, after the word's sync slot. -/
structure State.Behind (s t : State) (u at_ ctl y : Nat) (q : List QCmd) : Prop where
  core : t.core u = { (s.core u).behind at_ ctl q with pc := (s.core u).pcBehind ctl q }
  frame : Changes [.cores] (s.syncSlot u y) t

theorem State.dispatchWord_behind {s : State} {u at_ w : Nat} {q : List QCmd} (plain : PlainWord w)
    (good : badSlot (s.core u) (s.core u).pc w = none) (cmds : s.wordCmds u at_ w = .ok ⟨q, none⟩)
    (add : syOp (wSync w) = 2 → (s.sem u (sySem (wSync w))).toNat + syN (wSync w) < 2 ^ 32)
    (sub : syOp (wSync w) = 3 → syN (wSync w) ≤ (s.sem u (sySem (wSync w))).toNat) :
    s.Behind (s.dispatchWord u at_ w) u at_ (wCtl w) (wSync w) q := by
  have sound : (s.setCore u ((s.core u).behind at_ (wCtl w) q)).syncFault u at_ (wSync w) = none :=
    State.syncFault_none (s := s.setCore u _) add sub at_
  have word : s.dispatchWord u at_ w
      = ((s.syncSlot u (wSync w)).setCore u ((s.core u).behind at_ (wCtl w) q)).goesTo u ((s.core u).pcBehind (wCtl w) q) := by
    rw [State.dispatchWord_plain plain at_ good cmds, sound, ← State.setCore_syncSlot]
  rw [word, State.goesTo, State.core_setCore_same]
  exact ⟨State.core_setCore_same .., (State.setCore_changes ..).trans (State.setCore_changes ..)⟩

theorem State.Behind.dispatched {s t : State} {u at_ ctl y : Nat} {q : List QCmd} (h : s.Behind t u at_ ctl y q) :
    (t.core u).words = (s.core u).words + 1 ∧ (t.core u).cyc = at_
      ∧ (t.core u).ready = at_ + (holdOf ctl + if (s.core u).branches ctl then 2 else 0) ∧ (t.core u).st = .running := by
  obtain ⟨words, cyc, ready, st⟩ := (s.core u).behind_dispatched at_ ctl q ((s.core u).pcBehind ctl q)
  rw [h.core]
  exact ⟨words, cyc, ready, st⟩

section
variable {s : State} {u w : Nat} (h : s.Looks u) (st : (s.core u).st = .running) (plain : PlainWord w)
  (fetched : s.fetchWord u (s.core u).ready = w) (cycles : Nat)
include h st plain fetched

omit h st fetched in
theorem State.holdsBack_plain :
    s.holdsBack u w = (syWaits (wSync w) && decide ((s.sem u (sySem (wSync w))).toNat < syN (wSync w))) := by
  simp [State.holdsBack, plain.nsm, plain.tag]

theorem State.Looks.waits (op : syOp (wSync w) = 1) (low : (s.sem u (sySem (wSync w))).toNat < syN (wSync w)) :
    exec (.xcwDispatch u cycles) s = .next (s.setCore u { s.core u with st := .waiting, cyc := (s.core u).ready, blocked := true }) := by
  rw [h.running st, fetched, if_pos]
  rw [State.holdsBack_plain plain]
  simp [syWaits, op, low]

theorem State.Looks.dispatches (free : syOp (wSync w) = 1 → syN (wSync w) ≤ (s.sem u (sySem (wSync w))).toNat)
    (other : syOp (wSync w) ≠ 5) : exec (.xcwDispatch u cycles) s = .next (s.dispatchWord u (s.core u).ready w) := by
  rw [h.running st, fetched, if_neg, State.dispatchBy_first h.drained h.sound (.inr (fullQueues_drained h.drained plain.nsm plain.dma _))
    (Nat.le_add_right ..)]
  rw [State.holdsBack_plain plain]
  simp only [syWaits, Bool.and_eq_true, Bool.or_eq_true, beq_iff_eq, decide_eq_true_eq, not_and, Nat.not_lt]
  exact fun op => free (op.resolve_right other)

end

/-- The fault of a word that underflows a semaphore. -/
theorem State.dispatchWord_underflows {s : State} {u at_ y : Nat} (h : s.Looks u) (small : y < 2 ^ 32) (ok : syncOk y = true)
    (op : syOp y = 3) (low : (s.sem u (sySem y)).toNat < syN y) :
    let t := s.dispatchWord u at_ (y * 2 ^ 448)
    t.sems = s.sems ∧ (t.core u).st = .faulted ∧ t.bit (R.tdCCause u) 0 = true
      ∧ (s.reg (R.tdCFault0 u) = 0 → t.fld (R.tdCFault0 u) 31 24 = fcUnderflow) := by
  obtain ⟨plain, ctl, mat, sync⟩ := plainWord_sync small
  let v := s.setCore u ((s.core u).behind at_ 0 [])
  let f : CoreFault := { cyc := at_, code := fcUnderflow, slot := 6, kind := 0, space := 0, pc := (v.core u).pc, eng := 0, ag := 0,
                         wpc := 0, addr := 0 }
  have fault : v.syncFault u at_ y = some f := by
    have sem : v.sem = s.sem := rfl
    simp [State.syncFault, f, op, sem, low]
  have word : s.dispatchWord u at_ (y * 2 ^ 448) = v.enterFault u f false none := by
    have word := State.dispatchWord_plain (u := u) plain at_ (badSlot_plain plain (by rw [ctl]; rfl) (by rw [mat]; rfl) (by rwa [sync]))
      (State.wordCmds_noMat (s := s) plain at_ mat)
    rw [ctl, sync] at word
    rw [word, show (s.setCore u ((s.core u).behind at_ 0 [])).syncFault u at_ y = some f from fault]
    exact congrArg (State.enterFault · u f false none) (State.syncSlot_underflow (s := v) op low)
  obtain ⟨drained, fault_⟩ := Core.behind_drained h.drained at_
  have core : v.core u = (s.core u).behind at_ 0 [] := State.core_setCore_same ..
  have recorded := State.enterFault_records (s := v) (core ▸ drained) (core ▸ fault_.trans h.sound) f false none
  obtain ⟨faulted, cause⟩ := v.enterFault_faults u f false none
  rw [word]
  exact ⟨(State.enterFault_changes ..).elsewhere .sems (by decide), faulted, cause,
    fun empty => recorded.code empty (show 0x04 < 256 by decide)⟩

end Sys2Proof.Machine
end
section
/-!
SUPPORT. The words of one slot, one by one (spec/08_tile_core_execution.md, R207, R208, R217 to R220; spec/12_synchronisation.md,
R293 to R296), and obligation O48.
-/

namespace Sys2Proof.Machine

/-! ### Control words (Tables 8.2, 8.9) -/

theorem Core.branches_jmp {k : Core} {c : Nat} (op : scOp c = scJmp) : k.branches c = true := by
  simp [Core.branches, op]

theorem Core.branches_br {k : Core} {c : Nat} (op : scOp c = scBr) : k.branches c = k.cmp (scK c) := by
  simp [Core.branches, op, scJmp, scBr, scBrn]

theorem Core.branches_other {k : Core} {c : Nat} (jmp : scOp c ≠ scJmp) (br : scOp c ≠ scBr) (brn : scOp c ≠ scBrn) :
    k.branches c = false := by
  simp [Core.branches, jmp, br, brn]

theorem Core.branches_zero (k : Core) : k.branches 0 = false := Core.branches_other (by decide) (by decide) (by decide)

theorem Core.scalar_cset {k : Core} {c : Nat} (op : scOp c = scCset) :
    k.scalar c = { k with c := mset 0 k.c (scC c) (BitVec.ofNat 32 (scImm c)) } := by
  simp [Core.scalar, op]

theorem Core.scalar_none {k : Core} {c : Nat} (op : scOp c = 0) : k.scalar c = k := by
  simp [Core.scalar, op, scCset, scCseth, scCadd, scCmp, scCmpc, scLcset, scLcmov]

theorem Core.ctr_behind (old : Core) (t ctl : Nat) (q : List QCmd) (i : Nat) :
    (old.behind t ctl q).ctr i = ((old.enqueue ⟨q, none⟩).scalar ctl).ctr i := by
  obtain ⟨lv, lvHeld, e⟩ := old.behind_eq t ctl q
  rw [e]
  rfl

theorem Core.level_setLevel_same (k : Core) (l : Nat) (v : LoopLevel) : (k.setLevel l v).level l = v := by
  simp [Core.level, Core.setLevel]

section
variable {k : Core} {w : Nat}

theorem Core.pcBehind_branch (taken : k.branches w = true) (q : List QCmd) : k.pcBehind w q = scImm w :=
  Core.successor_branch taken _

theorem Core.pcBehind_next (falls : k.branches w = false) (plain : lpOp w ≠ 1) (halt : scOp w ≠ scHalt)
    (outside : activeLevels k = []) : k.pcBehind w [] = k.pc + 1 :=
  Core.successor_next falls plain halt ((activeLevels_congr (Core.scalar_lv ..)).trans outside) _

theorem Core.behind_loop (falls : k.branches w = false) (loop : lpOp w = 1)
    (some_ : k.loopCount (lpLvl w) ≠ 0) (t : Nat) : k.pcBehind w [] = k.pc + 1
      ∧ (k.behind t w []).level (lpLvl w) = ⟨true, 0, k.loopCount (lpLvl w), k.pc + 1, lpEnd w⟩ := by
  have opened : ((k.enqueue ⟨[], none⟩).scalar w).successor k k.pc w = _ := Core.successor_loop falls loop some_ k.pc
  refine ⟨congrArg Prod.snd opened, ?_⟩
  calc (k.behind t w []).level (lpLvl w) = (((k.enqueue ⟨[], none⟩).scalar w).successor k k.pc w).1.level (lpLvl w) := rfl
    _ = _ := by rw [opened, Core.level_setLevel_same]

end

section
variable {s : State} {u w : Nat} (h : s.Looks u) (st : (s.core u).st = .running)
  (fetched : s.fetchWord u (s.core u).ready = w) (cycles : Nat)
include h st fetched

/-- A control word dispatches; it has nothing else. -/
theorem State.Looks.control (small : w < 2 ^ 64) (ok : ctlOk (s.core u) (s.core u).pc w = true) :
    ∃ t, exec (.xcwDispatch u cycles) s = .next t ∧ s.Behind t u (s.core u).ready w 0 [] := by
  obtain ⟨plain, ctl, mat, sync⟩ := plainWord_ctl small
  have none_ {n : Nat} (pos : n ≠ 0) : syOp (wSync w) ≠ n := by
    rw [sync]
    exact pos.symm
  refine ⟨_, h.dispatches st plain fetched cycles (fun op => absurd op (none_ (by decide))) (none_ (by decide)), ?_⟩
  have word := State.dispatchWord_behind (at_ := (s.core u).ready) plain
    (badSlot_plain plain (by rwa [ctl]) (by rw [mat]; rfl) (by rw [sync]; rfl)) (State.wordCmds_noMat plain _ mat)
    (fun op => absurd op (none_ (by decide))) (fun op => absurd op (none_ (by decide)))
  rwa [ctl, sync] at word

/-- A sync word that neither waits nor faults dispatches. -/
theorem State.Looks.sync {y : Nat} (word : w = y * 2 ^ 448) (small : y < 2 ^ 32) (ok : syncOk y = true) (other : syOp y ≠ 5)
    (free : syOp y = 1 → syN y ≤ (s.sem u (sySem y)).toNat) (add : syOp y = 2 → (s.sem u (sySem y)).toNat + syN y < 2 ^ 32)
    (sub : syOp y = 3 → syN y ≤ (s.sem u (sySem y)).toNat) :
    ∃ t, exec (.xcwDispatch u cycles) s = .next t ∧ s.Behind t u (s.core u).ready 0 y [] := by
  have fetched := fetched.trans word
  obtain ⟨plain, ctl, mat, sync⟩ := plainWord_sync small
  refine ⟨_, h.dispatches st plain fetched cycles (by rwa [sync]) (by rwa [sync]), ?_⟩
  have word := State.dispatchWord_behind (at_ := (s.core u).ready) plain
    (badSlot_plain plain (by rw [ctl]; rfl) (by rw [mat]; rfl) (by rwa [sync])) (State.wordCmds_noMat plain _ mat)
    (by rwa [sync]) (by rwa [sync])
  rwa [ctl, sync] at word

end

/-- What a word without control field leaves of time and state. -/
theorem State.Behind.dispatched_noCtl {s t : State} {u at_ y : Nat} {q : List QCmd} (h : s.Behind t u at_ 0 y q) :
    (t.core u).words = (s.core u).words + 1 ∧ (t.core u).cyc = at_ ∧ (t.core u).ready = at_ + 1 ∧ (t.core u).st = .running := by
  have done := h.dispatched
  rwa [Core.branches_zero] at done

theorem State.Behind.dispatched_falls {s t : State} {u at_ w y : Nat} {q : List QCmd} (h : s.Behind t u at_ w y q)
    (falls : (s.core u).branches w = false) : (t.core u).words = (s.core u).words + 1 ∧ (t.core u).cyc = at_
      ∧ (t.core u).ready = at_ + holdOf w ∧ (t.core u).st = .running := by
  have done := h.dispatched
  rwa [falls] at done

/-! ### The word of an MMA (R208) -/

theorem Core.range_ok {k : Core} {slot g n : Nat} (inside : k.inWindow g (k.addr g) n = true) :
    k.range slot g n = .ok (k.addr g).toNat := if_pos inside

theorem Core.addr_nonneg {k : Core} {g n : Nat} (inside : k.inWindow g (k.addr g) n = true) : ((k.addr g).toNat : Int) = k.addr g := by
  refine Int.toNat_of_nonneg ?_
  simp only [Core.inWindow, Bool.and_eq_true, decide_eq_true_eq] at inside
  omega

/-- The command of an MMA with matrix field `m` at cycle `t`. -/
def Core.mmaCmd (k : Core) (t m : Nat) : QCmd :=
  { q := 0, slot := BitVec.ofNat 64 m, d := t, word := k.pc, ord := k.words + 1, a := (k.addr (matGa m)).toNat,
    b := (k.addr (matGb m)).toNat, dst := 0, ca := 0, ca1 := 0 }

theorem Core.matCmd_mma {k : Core} {m : Nat} (op : matOp m = matMma) (a : k.inWindow (matGa m) (k.addr (matGa m)) (matExtA m) = true)
    (b : k.inWindow (matGb m) (k.addr (matGb m)) (matExtB m) = true) (t : Nat) :
    k.matCmd { q := 0, slot := 0, d := t, word := k.pc, ord := k.words + 1, a := 0, b := 0, dst := 0, ca := 0, ca1 := 0 } m
      = .ok (k.mmaCmd t m) := by
  simp [Core.matCmd, Core.mmaCmd, op, matMma, matClose, matMms, Core.range_ok a, Core.range_ok b, Except.bind]

/-- A command for MQ ends up in MQ, behind those that wait there. -/
theorem Core.mq_behind (k : Core) (t : Nat) {c : QCmd} (q : c.q = 0) : (k.behind t 0 [c]).mq = k.mq ++ [c] := by
  obtain ⟨lv, lvHeld, e⟩ := k.behind_eq t 0 [c]
  rw [e, Core.scalar_none (by decide)]
  simp [Core.enqueue, Core.setQueue, Core.queue, q]

section
variable {s : State} {u w : Nat} (h : s.Looks u)
include h

theorem State.Looks.mma (st : (s.core u).st = .running) (cycles : Nat) {m : Nat}
    (fetched : s.fetchWord u (s.core u).ready = m * 2 ^ 64) (small : m < 2 ^ 64) (ok : matOk m = true) (op : matOp m = matMma)
    (a : (s.core u).inWindow (matGa m) ((s.core u).addr (matGa m)) (matExtA m) = true)
    (b : (s.core u).inWindow (matGb m) ((s.core u).addr (matGb m)) (matExtB m) = true) :
    ∃ t, exec (.xcwDispatch u cycles) s = .next t
      ∧ s.Behind t u (s.core u).ready 0 0 [(s.core u).mmaCmd (s.core u).ready m] := by
  obtain ⟨plain, ctl, mat, sync⟩ := plainWord_mat small
  have none_ {n : Nat} (pos : n ≠ 0) : syOp (wSync (m * 2 ^ 64)) ≠ n := by
    rw [sync]
    exact pos.symm
  have cmd := State.wordCmds_mat (s := s) (u := u) plain (s.core u).ready (by rw [mat, op]; decide)
    (by rw [mat]; exact Core.matCmd_mma op a b _)
  refine ⟨_, h.dispatches st plain fetched cycles (fun op => absurd op (none_ (by decide))) (none_ (by decide)), ?_⟩
  have word := State.dispatchWord_behind (at_ := (s.core u).ready) plain
    (badSlot_plain plain (by rw [ctl]; rfl) (by rwa [mat]) (by rw [sync]; rfl)) cmd
    (fun op => absurd op (none_ (by decide))) (fun op => absurd op (none_ (by decide)))
  rwa [ctl, sync] at word

/-- A word whose tag is not 0 breaks R198. -/
theorem State.Looks.tagged (st : (s.core u).st = .running) (cycles : Nat) (nsm : isNsm (s.fetchWord u (s.core u).ready) = false)
    (tag : wTag (s.fetchWord u (s.core u).ready) ≠ 0) : ∃ t, exec (.xcwDispatch u cycles) s = .next t
      ∧ (t.core u).st = .faulted ∧ t.bit (R.tdCCause u) 0 = true
      ∧ (s.reg (R.tdCFault0 u) = 0 → t.fld (R.tdCFault0 u) 31 24 = fcDenied) := by
  have held : s.holdsBack u (s.fetchWord u (s.core u).ready) = false := by
    simp [State.holdsBack, nsm, tag, syWaits, syOp, nbits]
  have bad : badSlot (s.core u) (s.core u).pc (s.fetchWord u (s.core u).ready) = some 0 := by
    simp [badSlot, nsm, tag]
  obtain ⟨faulted, cause, record⟩ := State.wordFault_records h.drained h.sound (s.core u).ready 0 0 0 (show fcDenied < 256 by decide)
  refine ⟨_, h.running st cycles, ?_⟩
  rw [held, if_neg Bool.false_ne_true, State.dispatchBy_first h.drained h.sound (.inl (by simp [nsm, tag])) (Nat.le_add_right ..),
    State.dispatchWord, bad]
  exact ⟨faulted, cause, fun empty => (record empty).1⟩

/-! ### The end of a wait (R207, R294) -/

/-- A core that waits and finds the count dispatches the word; STALL6 counts the cycles of WAITING. -/
theorem State.Looks.resumes (st : (s.core u).st = .waiting) (cycles : Nat) {y : Nat}
    (fetched : s.fetchWord u ((s.core u).nextTest cycles) = y * 2 ^ 448) (small : y < 2 ^ 32) (ok : syncOk y = true)
    (op : syOp y = 1) (count : syN y ≤ (s.sem u (sySem y)).toNat) :
    ∃ t, exec (.xcwDispatch u cycles) s = .next t
      ∧ (s.resume u ((s.core u).nextTest cycles)).Behind t u ((s.core u).nextTest cycles) 0 y [] := by
  obtain ⟨plain, ctl, mat, sync⟩ := plainWord_sync small
  let v := s.resume u ((s.core u).nextTest cycles)
  have core : v.core u = { s.core u with st := .running, ready := max (s.core u).ready ((s.core u).nextTest cycles - 2),
                                         blocked := true } :=
    ((State.addCtr_changes ..).core (by decide) u).trans (State.core_setCore_same ..)
  have drained : (v.core u).Drained := by
    rw [core]
    exact ⟨h.drained.mq, h.drained.vq0, h.drained.vq1, h.drained.started⟩
  have sound : (v.core u).fault = none := by
    rw [core]
    exact h.sound
  have free : s.holdsBack u (y * 2 ^ 448) = false := by
    rw [State.holdsBack_plain plain, sync, decide_eq_false (Nat.not_lt.mpr count), Bool.and_false]
  refine ⟨_, h.waiting st cycles, ?_⟩
  rw [fetched, free, if_neg Bool.false_ne_true,
    State.dispatchBy_first drained sound (.inr (fullQueues_drained drained plain.nsm plain.dma _)) le_rfl]
  have word := State.dispatchWord_behind (s := v) (u := u) (at_ := (s.core u).nextTest cycles) plain
    (badSlot_plain plain (by rw [ctl]; rfl) (by rw [mat]; rfl) (by rwa [sync])) (State.wordCmds_noMat plain _ mat)
    (fun add => by rw [sync, op] at add; cases add) (fun sub => by rw [sync, op] at sub; cases sub)
  rwa [ctl, sync] at word

end

/-! ### Semaphores behind a word -/

/-- A write of a semaphore, and then of the cores alone. -/
theorem Changes.wroteSem {s t : State} {u i n : Nat}
    (frame : Changes [.cores] (s.setSem u i (BitVec.ofNat 32 n)) t) (fits : n < 2 ^ 32) :
    (t.sem u i).toNat = n ∧ Changes [.cores, .sems] s t := by
  refine ⟨?_, ((State.setSem_changes ..).mono (by decide)).step frame (by decide)⟩
  have sem : t.sem u i = BitVec.ofNat 32 n :=
    (congrArg (mget 0 · _) (frame.elsewhere .sems (by decide))).trans (State.sem_setSem_same ..)
  rw [sem, BitVec.toNat_ofNat, Nat.mod_eq_of_lt fits]

theorem syncOk_arrive {y : Nat} (ok : syncOk y = true) (op : syOp y = 4) : syN y < 64 := by
  simpa [syncOk, op] using ok

/-! ### The obligation -/

/-- Settles O48, word by word: what is left of each is in the core behind the word, `Core.behind`, and in its sync slot. -/
theorem wordsDispatch : Obligations.WordsDispatch := by
  intro s u cycles has clean k w run halting stopping sound mq vq0 vq1 started whole lo hi
  have h : s.Looks u := ⟨has, clean, halting, stopping, sound, ⟨mq, vq0, vq1, started⟩, whole, lo, hi⟩
  refine ⟨?_, fun st => ⟨?_, ?_, ?_, ?_⟩⟩
  · intro y at_ st fetched small ok op
    constructor
    · intro low
      refine ⟨_, h.waiting st cycles, ?_⟩
      obtain ⟨plain, -, -, sync⟩ := plainWord_sync small
      have held : s.holdsBack u (y * 2 ^ 448) = true := by
        rw [State.holdsBack_plain plain, sync]
        simp [syWaits, op, low]
      rw [show s.fetchWord u ((s.core u).nextTest cycles) = _ from fetched, held, if_pos rfl]
    · intro count
      obtain ⟨t, e, behind⟩ := h.resumes st cycles fetched small ok op count
      obtain ⟨words, cyc, ready, st'⟩ := behind.dispatched_noCtl
      have frame := behind.frame
      rw [State.syncSlot_none op.le] at frame
      refine ⟨t, e, st', words.trans ?_, cyc, ready, ?_, (State.resume_changes ..).trans (frame.mono (by decide))⟩
      · rw [State.resume, (State.addCtr_changes ..).core (by decide), State.core_setCore_same]
      · exact (congrArg (mget 0 · _) (frame.elsewhere .cnt (by decide))).trans (State.ctr_addCtr_same ..)
  · intro small ok
    obtain ⟨t, e, behind⟩ := h.control st rfl cycles small ok
    have frame : Changes [.cores] s t := State.syncSlot_none (s := s) (u := u) (y := 0) (by decide) ▸ behind.frame
    refine ⟨fun op => ⟨t, e, ?_⟩, fun op => ⟨t, e, ?_⟩, fun op lp outside => ⟨t, e, ?_⟩, fun op lp => ⟨t, e, ?_⟩,
      fun op lp some_ => ⟨t, e, ?_⟩⟩
    · have falls : k.branches w = false := Core.branches_other (by rw [op]; decide) (by rw [op]; decide) (by rw [op]; decide)
      have c (i : Nat) : (t.core u).ctr i = mget 0 (mset 0 k.c (scC w) (BitVec.ofNat 32 (scImm w))) i := by
        rw [behind.core]
        exact (Core.ctr_behind _ k.ready _ _ i).trans (by rw [Core.scalar_cset op]; rfl)
      exact ⟨behind.dispatched_falls falls, (c _).trans (mget_mset_same ..), fun i ne => (c i).trans (mget_mset_other _ _ _ ne.symm),
        frame, fun lp outside => behind.core ▸ Core.pcBehind_next falls (by rw [lp]; decide) (by rw [op]; decide) outside⟩
    · have taken : k.branches w = true := Core.branches_jmp op
      have done := behind.dispatched
      rw [show (s.core u).branches w = true from taken] at done
      exact ⟨done, behind.core ▸ Core.pcBehind_branch taken _⟩
    · have branches : k.branches w = k.cmp (scK w) := Core.branches_br op
      refine ⟨branches ▸ behind.dispatched, behind.core ▸ ?_⟩
      split
      · exact Core.pcBehind_branch (branches.trans ‹_›) _
      · exact Core.pcBehind_next (branches.trans (Bool.eq_false_iff.mpr ‹_›)) (by rw [lp]; decide) (by rw [op]; decide) outside
    · have falls : k.branches w = false := Core.branches_other (by rw [op]; decide) (by rw [op]; decide) (by rw [op]; decide)
      exact ⟨behind.dispatched_falls falls, behind.core ▸ beq_iff_eq.mpr op⟩
    · have falls : k.branches w = false := Core.branches_other (by rw [op]; decide) (by rw [op]; decide) (by rw [op]; decide)
      obtain ⟨pc, level⟩ := Core.behind_loop falls lp some_ k.ready
      exact ⟨behind.dispatched_falls falls, behind.core ▸ pc, behind.core ▸ level⟩
  · intro y word small ok i v
    have dispatches := h.sync st word cycles rfl small ok
    refine ⟨fun op fits => ?_, fun op le => ?_, fun op low => ?_, fun op low => ?_, fun op le => ?_, fun op => ?_⟩
    · obtain ⟨t, e, behind⟩ := dispatches (by omega) (by omega) (fun _ => fits) (by omega)
      have frame := behind.frame
      rw [State.syncSlot_add op fits] at frame
      obtain ⟨sem, changes⟩ := frame.wroteSem fits
      exact ⟨t, e, sem, behind.dispatched_noCtl, changes⟩
    · obtain ⟨t, e, behind⟩ := dispatches (by omega) (by omega) (by omega) (fun _ => le)
      have frame := behind.frame
      rw [State.syncSlot_sub op le] at frame
      obtain ⟨sem, changes⟩ := frame.wroteSem (by omega)
      exact ⟨t, e, sem, behind.dispatched_noCtl, changes⟩
    · obtain ⟨plain, -, -, sync⟩ := plainWord_sync small
      have fetched : s.fetchWord u (s.core u).ready = y * 2 ^ 448 := word
      refine ⟨_, h.dispatches st plain fetched cycles ?_ ?_, State.dispatchWord_underflows h small ok op low⟩ <;>
        rw [sync] <;> omega
    · obtain ⟨plain, -, -, sync⟩ := plainWord_sync small
      have fetched : s.fetchWord u (s.core u).ready = y * 2 ^ 448 := word
      have e := h.waits st plain fetched cycles (by rwa [sync]) (by rwa [sync])
      refine ⟨_, e, ?_⟩
      beta_reduce
      rw [State.core_setCore_same]
      exact ⟨rfl, rfl, State.setCore_changes ..⟩
    · obtain ⟨t, e, behind⟩ := dispatches (by omega) (fun _ => le) (by omega) (by omega)
      have frame := behind.frame
      rw [State.syncSlot_none op.le] at frame
      exact ⟨t, e, behind.dispatched_noCtl, frame⟩
    · obtain ⟨t, e, behind⟩ := dispatches (by omega) (by omega) (by omega) (by omega)
      have frame := behind.frame
      rw [State.syncSlot_arrive op (syncOk_arrive ok op)] at frame
      exact ⟨t, e, behind.dispatched_noCtl, frame.elsewhere .time (by decide)⟩
  · intro m word small ok op a b
    obtain ⟨t, e, behind⟩ := h.mma st cycles word small ok op a b
    refine ⟨t, e, behind.dispatched_noCtl, k.mmaCmd k.ready m, behind.core ▸ ?_,
      (BitVec.toNat_ofNat ..).trans (Nat.mod_eq_of_lt small),
      rfl, rfl, Core.addr_nonneg a, Core.addr_nonneg b⟩
    exact (Core.mq_behind k k.ready rfl).trans (congrArg (· ++ _) mq)
  · exact fun nsm tag => h.tagged st cycles nsm tag

end Sys2Proof.Machine
end
section
/-!
SUPPORT. The DMA engines of a core (spec/08_tile_core_execution.md, R209, R213, R225, R226; spec/12_synchronisation.md, R295;
spec/03_crossbar.md, R66), and obligation O50.
-/

namespace Sys2Proof.Machine

/-! ### Local store as an engine reads it (R213) -/

theorem length_foldl_overlay (a : Nat) (l : List LsWrite) (bs : List Byte) : (l.foldl (overlay a) bs).length = bs.length := by
  induction l generalizing bs with
  | nil => rfl
  | cons w l ih => rw [List.foldl_cons, ih, length_overlay]

theorem State.length_lsNow (s : State) (u a n : Nat) : (s.lsNow u a n).length = n := by
  rw [State.lsNow, State.lsUnder, length_foldl_overlay, length_rdBytes]

theorem State.lsUePart_clean {s : State} {u : Nat} (clean : s.ue = []) (whole : (s.core u).decays = []) (ws : List LsWrite)
    (t a n : Nat) : s.lsUePart u ws t a n = false := by
  rw [State.lsUePart, State.lsBad_clean clean whole]
  rfl

/-- What an engine reads is a matter of the local store and of the core's writes. -/
theorem State.lsNow_congr {s t : State} {u : Nat} (ls : t.ls = s.ls) (lsw : (t.core u).lsw = (s.core u).lsw) (a n : Nat) :
    t.lsNow u a n = s.lsNow u a n := by
  simp only [State.lsNow, State.lsUnder, ls, lsw]

/-! ### A command that starts (R209) -/

section
variable {k : Core} (idle : k.dma = []) (eng : Nat) (o : DmaOp)
include idle

theorem Core.dmaNext_idle : k.dmaNext eng = (k.dq eng).head? := by
  simp [Core.dmaNext, idle, countWhere]

theorem Core.dmaRefused_idle : k.dmaRefused eng = false := by
  simp [Core.dmaRefused, idle]

/-- Where no command is started the engine's queue loses its head. -/
theorem Core.dmaStart_idle : (k.dmaStart eng o).dma = [o] ∧ (k.dmaStart eng o).dq eng = (k.dq eng).tail := by
  unfold Core.dmaStart
  rw [if_neg (by simp [idle])]
  split <;> simp [Core.dq, *]

end

/-- A started command leaves the writes of the core. -/
theorem Core.dmaStart_lsw (k : Core) (eng : Nat) (o : DmaOp) : (k.dmaStart eng o).lsw = k.lsw := by
  unfold Core.dmaStart
  repeat' split
  all_goals rfl

theorem Core.dmaStart_fault (k : Core) (eng : Nat) (o : DmaOp) : (k.dmaStart eng o).fault = k.fault := by
  unfold Core.dmaStart
  repeat' split
  all_goals rfl

theorem Core.dmaStart_drained {k : Core} (h : k.Drained) (eng : Nat) (o : DmaOp) : (k.dmaStart eng o).Drained := by
  unfold Core.dmaStart
  repeat' split
  all_goals exact ⟨h.mq, h.vq0, h.vq1, h.started⟩

theorem State.dmaStarted_lsNow (s : State) (u eng : Nat) (o : DmaOp) (a n : Nat) :
    (s.dmaStarted u eng o).lsNow u a n = s.lsNow u a n := by
  refine State.lsNow_congr (s := s) (t := s.dmaStarted u eng o) rfl ?_ a n
  rw [State.dmaStarted, State.core_setCore_same]
  exact Core.dmaStart_lsw ..

/-- The engine has `x` started and `r` in its queue. -/
structure Core.Serves (k : Core) (eng : Nat) (x : DmaOp) (r : List DCmd) : Prop where
  dma : k.dma = [x]
  queue : k.dq eng = r

theorem State.dmaStarted_serves {s : State} {u eng : Nat} {c : DCmd} {r : List DCmd} (idle : (s.core u).dma = [])
    (head : (s.core u).dq eng = c :: r) (x : DmaOp) : ((s.dmaStarted u eng x).core u).Serves eng x r := by
  obtain ⟨dma, queue⟩ := Core.dmaStart_idle idle eng x
  rw [State.dmaStarted, State.core_setCore_same]
  exact ⟨dma, queue.trans (by rw [head, List.tail_cons])⟩

theorem State.lsPut_dma (s : State) (u a : Nat) (bs : List Byte) (eng : Nat) :
    ((s.lsPut u a bs).core u).dma = (s.core u).dma ∧ ((s.lsPut u a bs).core u).dq eng = (s.core u).dq eng := by
  rw [State.lsPut, State.core_setCore_same]
  exact ⟨rfl, rfl⟩

/-- A sound descriptor that names bytes names some (Table 8.10). -/
theorem dmaDescOf_len {bs : List Byte} {slot ag : Nat} (good : (dmaDescOf bs slot ag).bad = false)
    (moves : (dmaDescOf bs slot ag).kind ≤ dkSend) : 0 < (dmaDescOf bs slot ag).len := by
  refine Nat.pos_of_ne_zero fun none_ => ?_
  simp only [dmaDescOf, Bool.or_eq_false_iff, Bool.and_eq_false_iff, decide_eq_false_iff_not] at good moves none_
  obtain ⟨-, range⟩ := good
  simp [moves, none_] at range

/-- An engine of core `u` at the head `c` of its queue: the crossbar is enabled, no word is uncorrectable, and nothing else is
started. -/
structure State.Serving (s : State) (u eng : Nat) (c : DCmd) (r : List DCmd) : Prop where
  core : s.hasCore u = true
  engine : eng < 2
  on : s.xbarOn = true
  clean : s.ue = []
  cold : s.atu = []
  whole : (s.core u).decays = []
  idle : (s.core u).dma = []
  head : (s.core u).dq eng = c :: r

/-- The descriptor of a command. -/
def State.descOf (s : State) (u : Nat) (c : DCmd) : DmaDesc := dmaDescOf (s.lsNow u (dmaDesc c.slot.toNat) 64) c.slot.toNat c.ls

theorem State.dmaRun_off {s : State} (off : s.xbarOn = false) (u eng kind : Nat) : s.dmaRun u eng kind = s :=
  if_pos (by simp [off])

section
variable {s : State} {u eng : Nat} {c : DCmd} {r : List DCmd} (h : s.Serving u eng c r)
include h

theorem State.Serving.run {kind : Nat} (same : (s.descOf u c).kind = kind) : s.dmaRun u eng kind
    = if (s.descOf u c).bad then s.dmaFault u eng (DmaOp.of c eng (s.descOf u c)) fcDenied
      else if kind ≤ dkPut then s.dmaMove u eng c (s.descOf u c) else s.dmaSend u eng c (s.descOf u c) := by
  have here : ¬ (2 ≤ eng || !s.hasCore u || !s.xbarOn) = true := by simp [h.core, h.on, h.engine]
  rw [State.dmaRun, if_neg here, Core.dmaNext_idle h.idle, h.head, List.head?_cons]
  dsimp only
  rw [State.lsUeNow_clean h.clean h.whole, if_neg Bool.false_ne_true, if_neg fun other => other.1 same, Core.dmaRefused_idle h.idle,
    Bool.or_false]
  rfl

/-- A descriptor outside Table 8.10 faults the core (R226). -/
theorem State.Serving.bad {kind : Nat} (same : (s.descOf u c).kind = kind) (bad : (s.descOf u c).bad = true) :
    let t := s.dmaRun u eng kind
    (t.core u).st = .faulted ∧ t.bit (R.tdCCause u) 0 = true ∧ t.dpa = s.dpa ∧ t.attach = s.attach
      ∧ (s.reg (R.tdCFault0 u) = 0 → (s.core u).fault = none → (s.core u).Drained →
          t.fld (R.tdCFault0 u) 31 24 = fcDenied ∧ t.fld (R.tdCFault0 u) 23 21 = 5) := by
  have run : s.dmaRun u eng kind = s.dmaFault u eng (DmaOp.of c eng (s.descOf u c)) fcDenied := by rw [h.run same, if_pos bad]
  have frame := run ▸ s.dmaFault_changes u eng (DmaOp.of c eng (s.descOf u c)) fcDenied
  intro t
  let v := s.dmaStarted u eng (DmaOp.of c eng (s.descOf u c)).over
  let f : CoreFault := { cyc := max (v.core u).clock (c.d + 1), code := fcDenied, slot := 5, kind := 0, space := 0, pc := c.word,
                         eng := 0, ag := 0, wpc := 0, addr := 0 }
  have enters : t = v.enterFault u f true none := run
  obtain ⟨faulted, cause⟩ := v.enterFault_faults u f true none
  rw [← enters] at faulted cause
  refine ⟨faulted, cause, frame.elsewhere .dpa (by decide), frame.elsewhere .attach (by decide), fun empty sound drained => ?_⟩
  have core : v.core u = (s.core u).dmaStart eng (DmaOp.of c eng (s.descOf u c)).over := State.core_setCore_same ..
  have recorded := State.enterFault_records (s := v) (core ▸ Core.dmaStart_drained drained ..)
    (core ▸ (Core.dmaStart_fault ..).trans sound) f true none
  rw [← enters] at recorded
  exact ⟨recorded.code empty (show 0x0B < 256 by decide), recorded.slot empty (show 5 < 8 by decide)⟩

/-- The bytes of a page that a GET or a PUT moves (R277). -/
theorem State.Serving.range {write : Bool} {a : Nat} (some_ : 0 < (s.descOf u c).len)
    (page : (s.descOf u c).va % 2 ^ 21 + (s.descOf u c).len ≤ 2 ^ 21)
    (walk : s.walk (s.coreSlot u) (s.descOf u c).va write = .ok a) :
    ∃ t, s.vaRange (u / 4) (s.coreSlot u) (s.descOf u c).va (s.descOf u c).len write = (t, .ok [(a, (s.descOf u c).len)])
      ∧ Changes [.atu, .freeCtr] s t := by
  obtain ⟨t, e⟩ := State.vaRange_single (n := u / 4) h.cold some_ page walk
  exact ⟨t, e, (State.vaRange_changes ..).of_fst e⟩

/-- A GET of one page (R225). -/
theorem State.Serving.get {a : Nat} (kind : (s.descOf u c).kind = dkGet) (some_ : 0 < (s.descOf u c).len)
    (page : (s.descOf u c).va % 2 ^ 21 + (s.descOf u c).len ≤ 2 ^ 21)
    (walk : s.walk (s.coreSlot u) (s.descOf u c).va false = .ok a) : ∃ t, Changes [.atu, .freeCtr] s t
      ∧ s.dmaMove u eng c (s.descOf u c) = (t.lsPut u (s.descOf u c).ls (rdBytes s.dpa a (s.descOf u c).len)).dmaStarted u eng
          { DmaOp.of c eng (s.descOf u c) with finished := true } := by
  obtain ⟨t, e, frame⟩ := h.range some_ page walk
  refine ⟨t, frame, ?_⟩
  have clean : t.ue = [] := (frame.elsewhere .ue (by decide)).trans h.clean
  have read : t.readPieces [(a, (s.descOf u c).len)] = .ok (rdBytes s.dpa a (s.descOf u c).len) := by
    simp [State.readPieces, State.ueIn, clean, show t.dpa = s.dpa from frame.elsewhere .dpa (by decide)]
  have whole : (t.core u).decays = [] := by rw [frame.core (by decide), h.whole]
  have reads : ((s.descOf u c).kind == dkPut) = false := by rw [kind]; rfl
  unfold State.dmaMove
  rw [reads, e]
  dsimp only
  rw [if_pos kind, read]
  dsimp only
  rw [State.lsUePart_clean clean whole, if_neg Bool.false_ne_true]

/-- A PUT of one page (R225). -/
theorem State.Serving.put {a : Nat} (kind : (s.descOf u c).kind = dkPut) (some_ : 0 < (s.descOf u c).len)
    (page : (s.descOf u c).va % 2 ^ 21 + (s.descOf u c).len ≤ 2 ^ 21)
    (walk : s.walk (s.coreSlot u) (s.descOf u c).va true = .ok a) : ∃ t, Changes [.atu, .freeCtr] s t
      ∧ s.dmaMove u eng c (s.descOf u c)
        = State.dmaStarted { t with dpa := wrBytes s.dpa a (s.lsNow u (s.descOf u c).ls (s.descOf u c).len), ue := [] } u eng
          { DmaOp.of c eng (s.descOf u c) with finished := true } := by
  obtain ⟨t, e, frame⟩ := h.range some_ page walk
  refine ⟨t, frame, ?_⟩
  have clean : t.ue = [] := (frame.elsewhere .ue (by decide)).trans h.clean
  have dpa : t.dpa = s.dpa := frame.elsewhere .dpa (by decide)
  have whole : (t.core u).decays = [] := by rw [frame.core (by decide), h.whole]
  have writes : ((s.descOf u c).kind == dkPut) = true := by rw [kind]; rfl
  have single := State.writePieces_single clean a (s.lsNow u (s.descOf u c).ls (s.descOf u c).len)
  rw [State.length_lsNow, dpa] at single
  unfold State.dmaMove
  rw [writes, e]
  dsimp only
  rw [if_neg (by rw [kind]; decide), State.lsUeNow_clean clean whole, if_neg Bool.false_ne_true,
    frame.lsNow (by decide) (by decide), single]

/-- A SEND whose rank is known starts, and its WRITEs enter the attachment (R225, R422). -/
theorem State.Serving.send (kind : (s.descOf u c).kind = dkSend) (rank : s.bit (R.tdCRank u) 31 = true)
    (silent : (s.descOf u c).rsig = false) : let d := s.descOf u c; let v := s.dmaStarted u eng (DmaOp.of c eng d)
    s.dmaSend u eng c d = v.sendParts (s.tileSlot (u / 4)) (.dma u eng c.ord) none (some (s.coreSlot u))
      { v.dmaHdr u d opWrite with addr := d.va } 0 d.tc (s.coreJob u) (messageParts (s.lsNow u d.ls d.len)) := by
  intro d v
  have started : v.lsNow u d.ls d.len = s.lsNow u d.ls d.len := s.dmaStarted_lsNow ..
  unfold State.dmaSend
  rw [if_neg (by simp [rank]), if_neg (by rw [kind]; decide), State.lsUeNow_clean h.clean h.whole, if_neg Bool.false_ne_true]
  dsimp only
  rw [if_neg (by rw [silent]; decide), ← started]
  rfl

omit h in
/-- A SIGNAL whose rank is known is one SEM_ADD (R225). -/
theorem State.dmaSend_signal (kind : (s.descOf u c).kind = dkSignal) (rank : s.bit (R.tdCRank u) 31 = true) :
    let d := s.descOf u c; let v := s.dmaStarted u eng (DmaOp.of c eng d)
    ∃ q, s.dmaSend u eng c d = State.numbered { v with attach := s.attach ++ [q] } ∧ q.src = s.tileSlot (u / 4)
      ∧ q.pkt.hdr.op = opSemAdd ∧ q.pkt.hdr.dstRank = d.rank ∧ q.pkt.hdr.addr = d.rsem ∧ q.pkt.data = leBytes 4 d.radd
      ∧ q.sig = some (u, c.ord) := by
  intro d v
  unfold State.dmaSend
  rw [if_neg (by simp [rank]), if_pos kind]
  exact ⟨_, rfl, rfl, rfl, rfl, rfl, rfl, rfl⟩

end

/-- The packets of a message hold its bytes in order (R279). -/
theorem messageParts_flatMap (bs : List Byte) : (messageParts bs).flatMap (·.2) = bs := by
  rw [messageParts, List.flatMap_map, List.flatMap_def, List.zipIdx_map_fst, flatten_chunks]
  omega

theorem flatMap_of_forall₂ {α β γ : Type} {f : α → List γ} {g : β → List γ} {l : List α} {m : List β}
    (each : List.Forall₂ (fun a b => g b = f a) l m) : m.flatMap g = l.flatMap f := by
  induction each with
  | nil => rfl
  | cons head _ ih => rw [List.flatMap_cons, List.flatMap_cons, head, ih]

/-- The packets of a message: what they hold, and what is the same in all. -/
theorem State.sendParts_sends (s : State) (slot : Nat) (o : Owner) (dev xlate : Option Nat) (hdr : PktHdr) (vc tc job : Nat)
    (bs : List Byte) : ∃ qs, (s.sendParts slot o dev xlate hdr vc tc job (messageParts bs)).attach = s.attach ++ qs
      ∧ qs.flatMap (·.pkt.data) = bs
      ∧ ∀ q ∈ qs, q.src = slot ∧ (∃ off, q.pkt.hdr = { hdr with byteOff := off }) ∧ q.pkt.tc = tc ∧ q.pkt.job = job := by
  obtain ⟨qs, sent, each⟩ := State.foldl_sends (s := s.newMsg o dev)
    (R := fun p q => q.pkt.data = p.2 ∧ q.src = slot ∧ q.pkt.hdr = { hdr with byteOff := p.1 } ∧ q.pkt.tc = tc ∧ q.pkt.job = job)
    (g := fun v p => v.attachPkt slot (some s.nextId) xlate
      { hdr := { hdr with byteOff := p.1 }, vc := vc, tc := tc, job := job, tag := 0, abt := false, data := p.2 })
    (fun _ _ => rfl) (fun _ _ _ => ⟨_, rfl, rfl, rfl, rfl, rfl, rfl⟩) (messageParts bs)
  refine ⟨qs, sent, (flatMap_of_forall₂ (each.imp fun _ _ h => h.1)).trans (messageParts_flatMap bs),
    forall_of_forall₂ each fun p q ⟨_, src, same, tc, job⟩ => ⟨src, ⟨p.1, same⟩, tc, job⟩⟩

/-! ### The end of a command (R226, R295) -/

theorem State.refresh_dma (s : State) (u : Nat) : ((s.refresh u).core u).dma = (s.core u).dma := by
  unfold State.refresh
  split
  · rfl
  · rw [State.replay, State.core_setCore_same]

theorem State.settleClear_dma (s : State) (u : Nat) : ((s.settleClear u).core u).dma = (s.core u).dma := by
  unfold State.settleClear
  extract_lets k
  split
  · rw [State.core_setCore_same]
  · rfl

/-- The first command of its engine, finished, leaves and adds 1 to its semaphore. -/
theorem State.dmaComplete_adds {s : State} {u eng i : Nat} {o : DmaOp} {rest : List DmaOp} (first : (s.core u).dma = o :: rest)
    (engine : o.eng = eng) (finished : o.finished = true) (ended : o.ended = false) (done : o.done = some i)
    (fits : (s.sem u i).toNat < 2 ^ 32 - 1) : let t := s.dmaComplete u eng
    (t.core u).dma = rest ∧ t.sem u i = s.sem u i + 1 ∧ Changes [.cores, .sems] s t := by
  intro t
  let kept := if (s.core u).safelight then (s.core u).gotten ++ o.left (s.core u).clock else (s.core u).gotten
  let v := State.refresh (s.setCore u { s.core u with dma := rest, gotten := kept }) u
  have run : t = (v.semUpdate u i (1 + eng) 1).settleClear u := by
    have taken : takeFirst (fun x => x.eng == eng) (s.core u).dma = some (o, rest) := by
      rw [first, takeFirst, if_pos (beq_iff_eq.mpr engine)]
    show s.dmaComplete u eng = _
    unfold State.dmaComplete
    dsimp only
    rw [taken]
    simp only [finished, ended, done]
    rfl
  have frame : Changes [.cores] s v := (State.setCore_changes ..).trans (State.refresh_changes ..)
  have sem : v.sem u i = s.sem u i := congrArg (mget 0 · _) (frame.elsewhere .sems (by decide))
  have fits : (v.sem u i).toNat < 2 ^ 32 - 1 := sem ▸ fits
  have adds := State.semUpdate_changes_of_fits fits (1 + eng)
  have clears := (v.semUpdate u i (1 + eng) 1).settleClear_changes u
  rw [run]
  refine ⟨?_, ?_, ((frame.mono (by decide)).step adds (by decide)).step clears (by decide)⟩
  · rw [State.settleClear_dma, adds.core (by decide), State.refresh_dma, State.core_setCore_same]
  · rw [show (State.settleClear ..).sem u i = _ from congrArg (mget 0 · _) (clears.elsewhere .sems (by decide)), ← sem]
    exact State.sem_semUpdate_one fits _

/-! ### The obligation -/

/-- Settles O50, kind by kind of the descriptor at the head of the engine's queue. -/
theorem dmaMovesAndSignals : Obligations.DmaMovesAndSignals := by
  intro s u eng has two k
  refine ⟨fun off => ?_, fun c r a on clean cold whole idle head => ?_, fun o rest i first engine finished ended done fits => ?_⟩
  · have run (kind : Nat) : s.dmaRun u eng kind = s := State.dmaRun_off off ..
    have same (kind : Nat) : (.next (s.dmaRun u eng kind) : Res) = .next s := congrArg _ (run kind)
    simp only [List.forall_mem_cons]
    exact ⟨same _, same _, same _, same _, List.forall_mem_nil _⟩
  · have h : s.Serving u eng c r := ⟨has, two, on, clean, cold, whole, idle, head⟩
    intro d o left onePage
    have run {kind : Nat} (good : d.bad = false) (same : d.kind = kind) :
        s.dmaRun u eng kind = if kind ≤ dkPut then s.dmaMove u eng c d else s.dmaSend u eng c d :=
      (h.run same).trans (if_neg (Bool.not_eq_true _ ▸ good))
    have serves {v : State} (dma : (v.core u).dma = k.dma) (queue : (v.core u).dq eng = k.dq eng) (x : DmaOp) :
        left (v.dmaStarted u eng x) x :=
      have serves := State.dmaStarted_serves (dma.trans idle) (queue.trans head) x
      ⟨serves.dma, serves.queue⟩
    refine ⟨fun good => ⟨fun kind page walk visible => ?_, fun kind page walk => ?_, fun kind rank silent => ?_, fun kind rank => ?_⟩, ?_⟩
    · have some_ : 0 < d.len := dmaDescOf_len good (kind.le.trans (by decide))
      obtain ⟨v, frame, move⟩ := h.get kind some_ page walk
      have core (w : Nat) : v.core w = s.core w := frame.core (by decide) w
      have dpa : v.dpa = s.dpa := frame.elsewhere .dpa (by decide)
      obtain ⟨dma, queue⟩ := v.lsPut_dma u d.ls (rdBytes s.dpa a d.len) eng
      refine ⟨_, congrArg Host.Outcome.next ((run good kind).trans move), serves (dma.trans ?_) (queue.trans ?_) _,
        ?_, dpa, fun w other => ?_⟩
      · rw [core]
      · rw [core]
      · have put := State.lsNow_lsPut (s := v) (u := u) d.ls (bs := rdBytes s.dpa a d.len) ?_ ?_
        · rw [length_rdBytes] at put
          exact (State.dmaStarted_lsNow ..).trans put
        · exact fun none_ => absurd (congrArg List.length none_) (by rw [length_rdBytes]; exact some_.ne')
        · rwa [core]
      · rw [State.dmaStarted, State.core_setCore_other _ _ other.symm, State.lsPut, State.core_setCore_other _ _ other.symm, core]
    · obtain ⟨v, frame, move⟩ := h.put kind (dmaDescOf_len good (kind.le.trans (by decide))) page walk
      have core : v.core u = s.core u := frame.core (by decide) u
      refine ⟨_, congrArg Host.Outcome.next ((run good kind).trans move),
        serves (congrArg Core.dma core) (congrArg (Core.dq · eng) core) _,
        rdBytes_wrBytes_length _ _ (s.length_lsNow ..), fun x outside => rdByte_wrBytes_outside _ _ _ _ ?_⟩
      rwa [State.length_lsNow]
    · obtain ⟨qs, sent, bytes, each⟩ := State.sendParts_sends (s.dmaStarted u eng o) (s.tileSlot (u / 4)) (.dma u eng c.ord) none
        (some (s.coreSlot u)) { (s.dmaStarted u eng o).dmaHdr u d opWrite with addr := d.va } 0 d.tc (s.coreJob u)
        (s.lsNow u d.ls d.len)
      have started (v : State) (core : v.core u = (s.dmaStarted u eng o).core u) : left v o := by
        dsimp only [left]
        rw [core]
        exact serves rfl rfl o
      refine ⟨_, congrArg Host.Outcome.next ((run good kind).trans (h.send kind rank silent)),
        started _ ((State.sendParts_changes ..).core (by decide) u), qs, sent, bytes, fun q mem => ?_⟩
      obtain ⟨src, ⟨off, hdr⟩, tc, job⟩ := each q mem
      rw [hdr]
      exact ⟨src, rfl, rfl, rfl, rfl, tc, job⟩
    · obtain ⟨q, e, packet⟩ := State.dmaSend_signal (s := s) (u := u) (eng := eng) (c := c) kind rank
      have started : left (s.dmaStarted u eng o) o := serves rfl rfl o
      exact ⟨_, congrArg Host.Outcome.next ((run good kind).trans e), started, q, rfl, packet⟩
    · have faults {kind : Nat} (same : d.kind = kind) (bad : d.bad = true) : Completes (.next (s.dmaRun u eng kind) : Res) fun t =>
          (t.core u).st = .faulted ∧ t.bit (R.tdCCause u) 0 = true ∧ t.dpa = s.dpa ∧ t.attach = s.attach
          ∧ (s.reg (R.tdCFault0 u) = 0 → k.fault = none → k.started = [] → k.mq = [] → k.vq0 = [] → k.vq1 = [] →
              t.fld (R.tdCFault0 u) 31 24 = 0x0B ∧ t.fld (R.tdCFault0 u) 23 21 = 5) := by
        obtain ⟨faulted, cause, dpa, attach, record⟩ := h.bad same bad
        exact ⟨_, rfl, faulted, cause, dpa, attach,
          fun empty sound started mq vq0 vq1 => record empty sound ⟨mq, vq0, vq1, started⟩⟩
      simp only [List.forall_mem_cons]
      exact ⟨faults, faults, faults, faults, List.forall_mem_nil _⟩
  · exact ⟨_, rfl, State.dmaComplete_adds first engine finished ended done fits⟩

end Sys2Proof.Machine
end
section
/-!
SUPPORT. The start of a matrix or vector command (spec/08_tile_core_execution.md, R209): what it leaves of the core, and what the
run of a command makes that is alone in its core.
-/

namespace Sys2Proof.Machine

/-! ### The run of a core's commands -/

theorem length_updFirst (p : α → Bool) (f : α → α) (l : List α) : (updFirst p f l).length = l.length := by
  induction l with
  | nil => rfl
  | cons a l ih =>
    unfold updFirst
    split
    · rfl
    · rw [List.length_cons, ih, List.length_cons]

theorem State.length_runCuts (s : State) (e : RunEnv) (f : Nat) (tl : Tl) (ps : List Prog) :
    (s.runCuts e f tl ps).2.length = ps.length := by
  induction f generalizing tl ps with
  | zero => rfl
  | succ f ih =>
    unfold State.runCuts
    split
    · rfl
    · rw [ih, length_updFirst]

/-- What the run of core `u`'s commands looks at. -/
def State.runEnv (s : State) (u : Nat) : RunEnv :=
  let k := s.core u
  { u := u, w := { on := k.safelight, queued := k.mq ++ k.vq0 ++ k.vq1, started := k.started,
                   gets := if k.safelight then s.getRanges u else [] } }

/-- A run before its first cut, with the writes that other agents have made. -/
def Tl.blank (lsw : List LsWrite) (judged : Nat) : Tl :=
  { lsw := lsw, accw := [], flips := [], fault := none, dead := [], judged := judged }

/-- The run of core `u`'s commands. -/
def State.coreRun (s : State) (u : Nat) : Tl × List Prog :=
  s.runCuts (s.runEnv u) ((s.core u).started.foldl (fun n c => n + c.cmd.units) 0)
    (Tl.blank ((s.core u).lsw.filter fun w => w.slot == 7) (s.core u).judged) ((s.core u).started.map Prog.start)

/-- A started command with what the run found of it. -/
def Started.ran (c : Started) (p : Prog) : Started :=
  let occ := if c.cmd.isMat && matOp c.cmd.bits == matMms then p.next - c.s else c.occ
  { c with fl := p.fl, cut := p.dead, tiles := p.tiles, occ := (p.dead.map fun t => min occ (t - c.s)).getD occ }

/-- The core with what a run came to. -/
def Core.ran (k : Core) (r : Tl × List Prog) : Core :=
  let started := (k.started.zip r.2).map fun x => x.1.ran x.2
  { k with lsw := r.1.lsw, accw := r.1.accw, flips := r.1.flips, fault := r.1.fault, started := started,
           mqFree := (freeAfter 0 started).getD k.mqFree }

theorem State.replay_eq (s : State) (u : Nat) : s.replay u = s.setCore u ((s.core u).ran (s.coreRun u)) := rfl

theorem State.length_coreRun (s : State) (u : Nat) : (s.coreRun u).2.length = (s.core u).started.length :=
  (State.length_runCuts ..).trans (List.length_map ..)

/-- A run keeps the started commands, the last of them the last. -/
theorem Core.ran_started {k : Core} {l : List Started} {n : Started} (started : k.started = l ++ [n]) {r : Tl × List Prog}
    (length : r.2.length = k.started.length) : (k.ran r).started.length = l.length + 1
      ∧ ∃ y, (k.ran r).started.getLast? = some y ∧ y.cmd = n.cmd ∧ y.s = n.s := by
  obtain ⟨ps, p, split⟩ : ∃ ps p, r.2 = ps ++ [p] := by
    refine ⟨_, _, (List.dropLast_append_getLast (l := r.2) fun none_ => ?_).symm⟩
    rw [none_, started] at length
    simp at length
  have same : l.length = ps.length := by
    rw [split, started] at length
    simpa using length.symm
  have ran : (k.ran r).started = (l.zip ps).map (fun x => x.1.ran x.2) ++ [n.ran p] := by
    show (k.started.zip r.2).map _ = _
    rw [started, split, List.zip_append same, List.map_append]
    rfl
  rw [ran]
  refine ⟨by simp [same], n.ran p, List.getLast?_concat .., rfl, rfl⟩

/-! ### The start of a command (R209) -/

/-- The record of a command that starts. -/
def State.starting (s : State) (u : Nat) (c : QCmd) : Started :=
  { cmd := c, s := (s.core u).startAt c, occ := c.occupancy,
    seed := BitVec.ofNat 64 (s.reg64 (R.tdCSeedLo u) (R.tdCSeedHi u)),
    step := BitVec.ofNat 64 (s.reg64 (R.tdCStepLo u) (R.tdCStepHi u)),
    thr := s.fld (R.tdCSpthr u) 13 0, fl := [], cut := none, tiles := [] }

/-- The core with command `n` of queue `q` started, before its run. -/
def Core.launch (k : Core) (q : Nat) (r : List QCmd) (n : Started) : Core :=
  { k.setQueue q r with started := k.started ++ [n], now := max k.now n.s }

def State.launch (s : State) (u q : Nat) (c : QCmd) (r : List QCmd) : State :=
  s.setCore u ((s.core u).launch q r (s.starting u c))

theorem Core.setQueue_other (k : Core) (q : Nat) (r : List QCmd) : (k.setQueue q r).st = k.st ∧ (k.setQueue q r).safelight = k.safelight
    ∧ (k.setQueue q r).decays = k.decays ∧ (k.setQueue q r).lsw = k.lsw ∧ (k.setQueue q r).judged = k.judged := by
  unfold Core.setQueue
  repeat' split
  all_goals exact ⟨rfl, rfl, rfl, rfl, rfl⟩

theorem Core.queue_setQueue (k : Core) (q : Nat) (r : List QCmd) : (k.setQueue q r).queue q = r := by
  unfold Core.setQueue Core.queue
  split
  · rfl
  · split <;> rfl

theorem Core.setFree_other (k : Core) (q n : Nat) : (k.setFree q n).queue q = k.queue q ∧ (k.setFree q n).st = k.st
    ∧ (k.setFree q n).started = k.started ∧ (k.setFree q n).lsw = k.lsw ∧ (k.setFree q n).accw = k.accw
    ∧ (k.setFree q n).flips = k.flips := by
  unfold Core.setFree Core.queue
  repeat' split
  all_goals exact ⟨rfl, rfl, rfl, rfl, rfl, rfl⟩

section
variable {s : State} {u q : Nat} {c : QCmd} {r : List QCmd} (head : (s.core u).queue q = c :: r)

/-- What the start of command `c` leaves of the core: the queue without it, and the command among the started ones. -/
structure State.Starts (s t : State) (u q : Nat) (c : QCmd) (r : List QCmd) : Prop where
  queue : (t.core u).queue q = r
  st : (t.core u).st = (s.core u).st
  frame : Changes [.cores] s t
  count : (t.core u).started.length = (s.core u).started.length + 1
  others : ∀ v, v ≠ u → t.core v = s.core v
  last : ∃ y, (t.core u).started.getLast? = some y ∧ y.cmd = c ∧ y.s = (s.core u).startAt c

include head

/-- The core after the start, and the cores beside it. -/
theorem State.startCmd_head {is : Nat → Bool} (meant : is c.bits = true) :
    (∃ n, (s.startCmd u q is).core u
      = (((s.core u).launch q r (s.starting u c)).ran ((s.launch u q c r).coreRun u)).setFree q n)
    ∧ ∀ v, v ≠ u → (s.startCmd u q is).core v = s.core v := by
  let v := (s.launch u q c r).replay u
  obtain ⟨n, run⟩ : ∃ n, s.startCmd u q is = v.setCore u ((v.core u).setFree q n) := by
    unfold State.startCmd
    dsimp only
    rw [head]
    dsimp only
    rw [meant, if_neg (by decide)]
    exact ⟨_, rfl⟩
  have core : v.core u = ((s.core u).launch q r (s.starting u c)).ran ((s.launch u q c r).coreRun u) := by
    rw [show v = _ from State.replay_eq .., State.core_setCore_same, State.launch, State.core_setCore_same]
  refine ⟨⟨n, ?_⟩, fun w other => ?_⟩
  · rw [run, State.core_setCore_same, core]
  · rw [run, State.core_setCore_other _ _ other.symm, show v = _ from State.replay_eq .., State.core_setCore_other _ _ other.symm,
      State.launch, State.core_setCore_other _ _ other.symm]

theorem State.startCmd_starts {is : Nat → Bool} (meant : is c.bits = true) : s.Starts (s.startCmd u q is) u q c r := by
  obtain ⟨⟨n, core⟩, others⟩ := State.startCmd_head head meant
  have length : ((s.launch u q c r).coreRun u).2.length = ((s.core u).launch q r (s.starting u c)).started.length := by
    rw [State.length_coreRun, State.launch, State.core_setCore_same]
  obtain ⟨count, last⟩ := Core.ran_started (k := (s.core u).launch q r (s.starting u c)) rfl length
  obtain ⟨queue, st, started, -⟩ := Core.setFree_other
    (((s.core u).launch q r (s.starting u c)).ran ((s.launch u q c r).coreRun u)) q n
  rw [← core] at queue st started
  exact { queue := queue.trans ((s.core u).queue_setQueue q r)
          st := st.trans ((s.core u).setQueue_other q r).1
          frame := State.startCmd_changes ..
          count := started ▸ count
          others := others
          last := started ▸ last }

/-- Nothing of the core is under way. -/
structure Core.Fresh (k : Core) : Prop where
  started : k.started = []
  lsw : k.lsw = []
  accw : k.accw = []
  flips : k.flips = []

/-- A command that is alone in its core makes what its own run makes. -/
theorem State.startCmd_alone {is : Nat → Bool} (meant : is c.bits = true) (fresh : (s.core u).Fresh) {tl : Tl} {p : Prog}
    (run : (s.launch u q c r).runCuts ((s.launch u q c r).runEnv u) c.units (Tl.blank [] (s.core u).judged)
      [Prog.start (s.starting u c)] = (tl, [p])) :
    let t := s.startCmd u q is
    (t.core u).lsw = tl.lsw ∧ (t.core u).accw = tl.accw ∧ (t.core u).flips = tl.flips := by
  obtain ⟨⟨n, core⟩, -⟩ := State.startCmd_head head meant
  obtain ⟨-, -, -, lsw, accw, flips⟩ := Core.setFree_other
    (((s.core u).launch q r (s.starting u c)).ran ((s.launch u q c r).coreRun u)) q n
  obtain ⟨-, -, -, lsw_, judged⟩ := (s.core u).setQueue_other q r
  have alone : (s.launch u q c r).coreRun u = (tl, [p]) := by
    have core : (s.launch u q c r).core u = (s.core u).launch q r (s.starting u c) := State.core_setCore_same ..
    have started : ((s.core u).launch q r (s.starting u c)).started = [s.starting u c] := by
      rw [Core.launch, fresh.started, List.nil_append]
    have written : ((s.core u).launch q r (s.starting u c)).lsw = [] := lsw_.trans fresh.lsw
    rw [State.coreRun, core, started, written, show ((s.core u).launch q r (s.starting u c)).judged = _ from judged, ← run]
    simp [State.starting]
  rw [← core, alone] at lsw accw flips
  exact ⟨lsw, accw, flips⟩

end

end Sys2Proof.Machine
end
section
/-!
SUPPORT. The cuts of a run in which no word is uncorrectable and no hazard is looked for (spec/08_tile_core_execution.md, R210,
R214, R215; spec/09_matrix_and_vector.md, R236, R239): what a cut of each kind makes, and the cuts of a command that is alone.
-/

namespace Sys2Proof.Machine

/-! ### A run without faults -/

/-- No word of the core that `e` is for is uncorrectable or decays, and no hazard is looked for. -/
structure State.Calm (s : State) (e : RunEnv) : Prop where
  clean : s.ue = []
  whole : (s.core e.u).decays = []
  off : e.w.on = false

/-- A result in local store of command `k`. -/
def LsWrite.of (k : QCmd) (w : Nat × Nat × List Byte) : LsWrite :=
  { vis := w.1, ord := k.ord, word := k.word, slot := k.fslot, addr := w.2.1, bytes := w.2.2 }

/-- A run with what a cut makes. -/
def Tl.made (tl : Tl) (c : Cut) : Tl :=
  { tl with lsw := tl.lsw ++ c.writes.map (LsWrite.of c.p.k.cmd), accw := tl.accw ++ c.acc.toList, flips := tl.flips ++ c.flip.toList }

/-- The progress `q` behind a cut of `p`. -/
def Prog.onward (p q : Prog) : Prog :=
  { q with j := p.j + 1, next := if p.k.cmd.isMat && matOp p.k.cmd.bits == matMms then q.next
                                 else p.k.s + p.k.cmd.readAt (p.j + 1) }

theorem Tl.report_none (tl : Tl) : tl.report none = tl := by
  have same : earlierFault tl.fault none = tl.fault := by cases h : tl.fault <;> rfl
  exact congrArg (fun f => { tl with fault := f }) same

theorem State.activeAfter_nil (s : State) (u slot : Nat) (p : Flip → Bool) :
    s.activeAfter u [] slot p = mget false s.accBank1 (64 * u + slot) := by
  simp [State.activeAfter, countWhere]

theorem Prog.note_k (p : Prog) (t fl : Nat) : (p.note t fl).k = p.k := by
  unfold Prog.note
  split <;> rfl

theorem Prog.note_dead (p : Prog) (t fl : Nat) : (p.note t fl).dead = p.dead := by
  unfold Prog.note
  split <;> rfl

/-- The bank to which a matrix command with field `m` adds, where it is not the `first` cut of one that starts from +0. -/
def State.addedTo (s : State) (u m : Nat) (accw : List AccWrite) (first : Bool) : List Nat :=
  if !(matZ m && first) then (s.bankUnder u accw (matSlot m) (mget false s.accBank1 (64 * u + matSlot m))).map (·.toNat) else []

section
variable {s : State} {e : RunEnv} (h : s.Calm e) {tl : Tl} {p : Prog}
include h

theorem State.Calm.putCut {c : Cut} (runs : c.p.dead = none) : s.putCut e.u tl c = (tl.made c, c.p) := by
  have fold (ws : List (Nat × Nat × List Byte)) (tl : Tl) : ws.foldl (fun (q : Tl × Prog) w =>
      if q.2.dead.isSome then q
      else if s.lsUePart e.u q.1.lsw w.1 w.2.1 w.2.2.length then
        ((q.1.ended c.p.k.cmd w.1).report (some (cmdFault c.p.k.cmd w.1 fcEccUe)),
          { q.2 with dead := some w.1, fl := q.2.fl.filter fun e => e.1 < w.1 })
      else ({ q.1 with lsw := q.1.lsw ++ [LsWrite.of c.p.k.cmd w] }, q.2)) (tl, c.p)
      = ({ tl with lsw := tl.lsw ++ ws.map (LsWrite.of c.p.k.cmd) }, c.p) := by
    induction ws generalizing tl with
    | nil => simp
    | cons w ws ih =>
      rw [List.foldl_cons, runs, State.lsUePart_clean h.clean h.whole]
      simp [ih]
  exact congrArg (fun r : Tl × Prog => ({ r.1 with accw := r.1.accw ++ c.acc.toList, flips := r.1.flips ++ c.flip.toList }, r.2))
    (fold c.writes tl)

theorem State.Calm.reads (rs : List (Nat × Nat)) (ws : List LsWrite) (t : Nat) :
    (rs.any fun r => s.lsUe e.u ws t r.1 r.2) = false := by
  simp [State.lsUe_clean h.clean h.whole]

theorem State.Calm.bank (ws : List AccWrite) (t slot : Nat) (bank : Bool) (off n : Nat) :
    s.bankUe e.u ws t slot bank off n = false := by
  simp [State.bankUe, State.ueIn, h.clean, h.whole]

theorem State.Calm.hazard (ws : List LsWrite) (dead : List (Nat × Nat × Nat)) (c : QCmd) (t : Nat) (rs : List (Nat × Nat)) :
    e.w.readHazard ws dead c t rs = none := by
  simp [Watch.readHazard, h.off]

/-! ### One cut of each kind -/

/-- A cut of a vector command. -/
theorem State.Calm.vec (runs : p.dead = none) (mat : p.k.cmd.isMat = false) (drain : p.k.cmd.isDrain = false)
    (kept : (vecCut p p.next ((p.k.cmd.vecReads p.j).map fun r => s.lsRead e.u tl.lsw p.next r.1 r.2)).p.dead = none) :
    let cut := vecCut p p.next ((p.k.cmd.vecReads p.j).map fun r => s.lsRead e.u tl.lsw p.next r.1 r.2)
    s.runCut e tl p = (tl.made cut, p.onward cut.p) := by
  intro cut
  have close : p.k.cmd.isClose = false := by simp [QCmd.isClose, mat]
  unfold State.runCut
  simp only [runs, close, mat, drain, Option.isSome_none, Bool.false_eq_true, if_false, h.reads, h.hazard, Tl.report_none]
  rw [h.putCut kept, Prog.onward, mat]

/-- A cut of a DRAIN that takes two rows of the shadow bank. -/
theorem State.Calm.drain (runs : p.dead = none) (mat : p.k.cmd.isMat = false) (drain : p.k.cmd.isDrain = true) (j : p.j ≠ 64)
    (flips : tl.flips = []) (accw : tl.accw = []) :
    let slot := vecAux p.k.cmd.bits % 64
    let cut := drainCut p p.next (s.bankBase e.u slot (!mget false s.accBank1 (64 * e.u + slot)))
    s.runCut e tl p = (tl.made cut, p.onward cut.p) := by
  intro slot cut
  have close : p.k.cmd.isClose = false := by simp [QCmd.isClose, mat]
  unfold State.runCut
  simp only [runs, close, mat, drain, Option.isSome_none, Bool.false_eq_true, if_false, if_true, j, h.bank, h.off, flips, accw,
    List.filter_nil, State.activeAfter_nil]
  rw [h.putCut (by exact runs), Prog.onward, mat]
  rfl

omit h in
/-- The last cut of a DRAIN, which takes the flags of the bank. -/
theorem State.runCut_drainFlags (runs : p.dead = none) (mat : p.k.cmd.isMat = false) (drain : p.k.cmd.isDrain = true) (j : p.j = 64) :
    ∃ q, s.runCut e tl p = (tl, p.onward q) ∧ q.k = p.k := by
  have close : p.k.cmd.isClose = false := by simp [QCmd.isClose, mat]
  unfold State.runCut
  simp only [runs, close, mat, drain, Option.isSome_none, Bool.false_eq_true, if_false, if_true, j]
  exact ⟨_, by rw [Prog.onward, mat, j], Prog.note_k ..⟩

omit h in
theorem State.runCut_close (runs : p.dead = none) (close : p.k.cmd.isClose = true) :
    s.runCut e tl p = ({ tl with flips := tl.flips ++ [{ cyc := p.next + 10, ord := p.k.cmd.ord, word := p.k.cmd.word,
                                                         slot := matSlot p.k.cmd.bits }] }, p.onward p) := by
  unfold State.runCut
  dsimp only
  rw [if_neg (by simp [runs]), if_pos close]
  rfl

/-- A group of an MMA. -/
theorem State.Calm.mma (runs : p.dead = none) (mat : p.k.cmd.isMat = true) (op : matOp p.k.cmd.bits = matMma) (flips : tl.flips = []) :
    let m := p.k.cmd.bits
    let bank := mget false s.accBank1 (64 * e.u + matSlot m)
    let cut := mmaCut p p.next bank (s.addedTo e.u m tl.accw (p.j == 0))
      ((mmaReads p.k.cmd p.j).map fun r => s.lsRead e.u tl.lsw p.next r.1 r.2)
    s.runCut e tl p = (tl.made cut, p.onward cut.p) := by
  intro m bank cut
  have close : p.k.cmd.isClose = false := by simp [QCmd.isClose, op, matMma, matClose]
  have isMma : (matOp p.k.cmd.bits == matMma) = true := beq_iff_eq.mpr op
  unfold State.runCut
  simp only [runs, close, mat, isMma, Option.isSome_none, Bool.false_eq_true, if_false, if_true, Bool.true_or, Bool.and_true, h.reads,
    h.bank, h.hazard, Tl.report_none, flips, State.activeAfter_nil, Bool.and_false, Bool.or_false]
  rw [h.putCut runs, Prog.onward, mat]
  rfl

/-- The only tile of an MMS. -/
theorem State.Calm.mms (runs : p.dead = none) (mat : p.k.cmd.isMat = true) (op : matOp p.k.cmd.bits = matMms) (flips : tl.flips = [])
    (j : p.j = 0) :
    let m := p.k.cmd.bits
    let bank := mget false s.accBank1 (64 * e.u + matSlot m)
    let cut := mmsCut p p.next bank (s.addedTo e.u m tl.accw true) (s.lsRead e.u tl.lsw p.next)
    s.runCut e tl p = (tl.made cut, p.onward cut.p) := by
  have close : p.k.cmd.isClose = false := by simp [QCmd.isClose, op, matMms, matClose]
  have isMma : (matOp p.k.cmd.bits == matMma) = false := by rw [op]; decide
  unfold State.runCut State.addedTo
  simp only [runs, close, mat, isMma, Option.isSome_none, Bool.false_eq_true, if_false, if_true, Bool.false_or, Bool.and_true, h.reads,
    h.bank, h.hazard, Tl.report_none, flips, State.activeAfter_nil, Bool.and_false, Bool.or_false, j, beq_self_eq_true]
  rw [h.putCut runs, Prog.onward, mat, j]

end

/-! ### A command that is alone -/

/-- The cuts of a command that is alone are taken one by one. -/
theorem State.runCuts_alone {s : State} {e : RunEnv} {n : Nat} {P : Nat → Tl → Prog → Prop}
    (at_ : ∀ j tl p, P j tl p → p.j = j ∧ p.k.cmd.units = n)
    (step : ∀ j tl p, j < n → P j tl p → ∃ tl' p', s.runCut e tl p = (tl', p') ∧ P (j + 1) tl' p')
    {tl : Tl} {p : Prog} (start : P 0 tl p) : ∃ tl' p', s.runCuts e n tl [p] = (tl', [p']) ∧ P n tl' p' := by
  have run (f j : Nat) (sum : j + f = n) (tl : Tl) (p : Prog) (holds : P j tl p) :
      ∃ tl' p', s.runCuts e f tl [p] = (tl', [p']) ∧ P n tl' p' := by
    induction f generalizing j tl p with
    | zero => exact ⟨tl, p, rfl, sum ▸ holds⟩
    | succ f ih =>
      obtain ⟨j_, units⟩ := at_ j tl p holds
      obtain ⟨tl', p', cut, holds'⟩ := step j tl p (by omega) holds
      have first : firstProg [p] = some p := by simp [firstProg, Prog.done, j_, units, show ¬ n ≤ j by omega]
      obtain ⟨tl'', p'', rest, last⟩ := ih (j + 1) (by omega) tl' p' holds'
      refine ⟨tl'', p'', ?_, last⟩
      rw [State.runCuts, first]
      simp only [cut, updFirst, beq_self_eq_true, Bool.and_self, if_true]
      exact rest
  exact run n 0 (Nat.zero_add n) tl p start

/-- A command of one cut. -/
theorem State.runCuts_one {s : State} {e : RunEnv} {k : Started} (units : k.cmd.units = 1) (tl : Tl) :
    ∃ p, s.runCuts e k.cmd.units tl [Prog.start k] = ((s.runCut e tl (Prog.start k)).1, [p]) := by
  have first : firstProg [Prog.start k] = some (Prog.start k) := by simp [firstProg, Prog.done, Prog.start, units]
  refine ⟨(s.runCut e tl (Prog.start k)).2, ?_⟩
  rw [units, State.runCuts, first]
  simp only [updFirst, beq_self_eq_true, Bool.and_self, if_true]
  rfl

/-! ### A run before any write -/

/-- Before any write a read finds local store as it stands. -/
theorem State.lsRead_blank (s : State) (u t a n : Nat) : s.lsRead u [] t a n = rdBytes s.ls (lsAt u a) n := rfl

theorem State.bankUnder_blank (s : State) (u slot : Nat) (bank : Bool) : s.bankUnder u [] slot bank = s.bankBase u slot bank := rfl

/-- The run of a command that has just started is calm where the core's was. -/
theorem State.launch_calm {s : State} {u : Nat} (clean : s.ue = []) (whole : (s.core u).decays = [])
    (off : (s.core u).safelight = false) (q : Nat) (c : QCmd) (r : List QCmd) :
    (s.launch u q c r).Calm ((s.launch u q c r).runEnv u) := by
  obtain ⟨-, safelight, decays, -⟩ := (s.core u).setQueue_other q r
  have core : (s.launch u q c r).core u = (s.core u).launch q r (s.starting u c) := State.core_setCore_same ..
  exact ⟨clean, (congrArg Core.decays core).trans (decays.trans whole), (congrArg Core.safelight core).trans (safelight.trans off)⟩

end Sys2Proof.Machine
end
section
/-!
SUPPORT. What the vector commands write that are alone in their core (spec/08_tile_core_execution.md, R209, Table 8.8;
spec/09_matrix_and_vector.md, R239, R243, R245, R247, R249, R251).
-/

namespace Sys2Proof.Machine

/-! ### Cuts of a vector command -/

theorem Prog.note_lanes (p : Prog) (t fl : Nat) : (p.note t fl).lanes = p.lanes := by
  unfold Prog.note
  split <;> rfl

theorem optCut_p (p : Prog) (t : Nat) (rs : List (List Byte)) : (optCut p t rs).p.dead = p.dead ∧ (optCut p t rs).p.k = p.k :=
  ⟨Prog.note_dead .., Prog.note_k ..⟩

/-- A cut changes the flags and the lanes of its command's progress at most. -/
theorem vecCut_p (p : Prog) (t : Nat) (rs : List (List Byte)) : (vecCut p t rs).p.dead = p.dead ∧ (vecCut p t rs).p.k = p.k := by
  unfold vecCut
  extract_lets c v op n j m r xs ys zs
  split
  · exact ⟨Prog.note_dead .., Prog.note_k ..⟩
  · split
    · exact ⟨rfl, rfl⟩
    · split
      · split
        · exact ⟨Prog.note_dead .., Prog.note_k ..⟩
        · exact ⟨(Prog.note_dead ..).trans (Prog.note_dead ..), (Prog.note_k ..).trans (Prog.note_k ..)⟩
      · split
        · exact optCut_p ..
        · repeat' split
          all_goals exact ⟨rfl, rfl⟩

theorem cdiv_one {n b : Nat} (pos : 0 < n) (le : n ≤ b) : cdiv n b = 1 := by
  rw [cdiv]
  exact (Nat.div_eq_iff (by omega)).mpr (by omega)

theorem cutLen_zero {n w : Nat} (le : n ≤ w) : cutLen n w 0 = n := by
  simp [cutLen, le]

theorem vecN_pos (v : Nat) : 0 < vecN v := Nat.succ_pos _

/-! ### One cut -/

/-- A write as the latency table sees it: cycle, address and bytes. -/
def LsWrite.shown (w : LsWrite) : Nat × Nat × List Byte := (w.vis, w.addr, w.bytes)

theorem LsWrite.map_shown_of (k : QCmd) (ws : List (Nat × Nat × List Byte)) : (ws.map (LsWrite.of k)).map LsWrite.shown = ws := by
  rw [List.map_map]
  exact List.map_id _

/-- Command `c` at the head of queue `q` of a core in which nothing else is under way. -/
structure State.Alone (s : State) (u q : Nat) (c : QCmd) (r : List QCmd) : Prop where
  head : (s.core u).queue q = c :: r
  clean : s.ue = []
  whole : (s.core u).decays = []
  off : (s.core u).safelight = false
  fresh : (s.core u).Fresh

/-- Local store of core `u` as it stands, without the writes that are under way. -/
def State.lsStands (s : State) (u a n : Nat) : List Byte := rdBytes s.ls (lsAt u a) n

/-- The cut of a command of one cut, from what `rd` reads. -/
def onlyCut (k : Started) (rd : Nat → Nat → List Byte) (t : Nat) : Cut :=
  vecCut (Prog.start k) t ((k.cmd.vecReads 0).map fun x => rd x.1 x.2)

/-- A vector command of one cut writes what the cut gives from local store as it stands. -/
theorem State.Alone.oneCut {s : State} {u q : Nat} {c : QCmd} {r : List QCmd} (h : s.Alone u q c r) (vec : c.q ≠ 0)
    (units : c.units = 1) (op : vecOp c.bits ≠ vDrain) {is : Nat → Bool} (meant : is c.bits = true) :
    ((s.startCmd u q is).core u).lsw.map LsWrite.shown
      = (onlyCut (s.starting u c) (s.lsStands u) ((s.core u).startAt c)).writes := by
  have mat : c.isMat = false := beq_eq_false_iff_ne.mpr vec
  have drain : c.isDrain = false := by simp [QCmd.isDrain, op]
  obtain ⟨p, run⟩ := State.runCuts_one (s := s.launch u q c r) (e := (s.launch u q c r).runEnv u) (k := s.starting u c) units
    (Tl.blank [] (s.core u).judged)
  rw [(State.launch_calm h.clean h.whole h.off q c r).vec rfl mat drain (vecCut_p ..).1] at run
  obtain ⟨lsw, -⟩ := State.startCmd_alone h.head meant h.fresh run
  rw [lsw]
  exact LsWrite.map_shown_of ..

section
variable {k : Started} {rd : Nat → Nat → List Byte} (t : Nat)

theorem onlyCut_elementwise (op : isElementwise (vecOp k.cmd.bits) = true) (le : vecN k.cmd.bits ≤ 128) :
    (onlyCut k rd t).writes = [(t + 5, k.cmd.dst, elemBytes 4 (((words32 (vecN k.cmd.bits) (rd k.cmd.a (4 * vecN k.cmd.bits))).zip
      (if isBinary (vecOp k.cmd.bits) then
        (if vecBs k.cmd.bits then List.replicate (vecN k.cmd.bits) (leAt (rd k.cmd.b 4) 0 4)
          else words32 (vecN k.cmd.bits) (rd k.cmd.b (4 * vecN k.cmd.bits)))
        else List.replicate (vecN k.cmd.bits) 0)).map fun z => (f32Op (vecOp k.cmd.bits) z.1 z.2).1))] := by
  by_cases binary : isBinary (vecOp k.cmd.bits) = true
  · by_cases same : vecBs k.cmd.bits = true <;>
      simp [onlyCut, vecCut, QCmd.vecReads, Prog.start, Cut.of, op, binary, same, cutLen_zero le, Function.comp_def]
  · simp [onlyCut, vecCut, QCmd.vecReads, Prog.start, Cut.of, op, binary, cutLen_zero le, Function.comp_def]

/-- What a CVT takes from local store (R245). -/
def cvtValues (k : Started) (rd : Nat → Nat → List Byte) : List XV :=
  let v := k.cmd.bits
  let f := vecAux v
  let n := vecN v
  let h := if f = 5 then 32 else 16
  if isScaledVec f then (List.range n).map fun i =>
    blockValue (blockFmt f) ((rd (k.cmd.a + h * cdiv n 32) (cdiv n 32)).getD (i / 32) 0).toNat
      ((unpackCodes f (32 * cdiv n 32) (rd k.cmd.a (h * cdiv n 32))).getD i 0)
  else (elemsOf (vecBytes f) n (rd k.cmd.a (vecBytes f * n))).map (vecValue f)

theorem onlyCut_cvt (op : vecOp k.cmd.bits = vCvt) (le : vecN k.cmd.bits ≤ 128) : let v := k.cmd.bits
    (onlyCut k rd t).writes = placeElems k.cmd.dst (vecFmt v) (vecN v) 0 (encodeElems (vecFmt v) (cvtValues k rd)
      (if (vecFloat (vecAux v)).isNone && !isScaledVec (vecAux v) && !isScaledVec (vecFmt v) then Round.rne else roundMode (vecRm v))
      (vecSat v) k.draw) (t + 7) := by
  have notElementwise : isElementwise vCvt = false := rfl
  have notBinary : isBinary vCvt = false := rfl
  have notReduction : isReduction vCvt = false := rfl
  by_cases scaled : isScaledVec (vecAux k.cmd.bits) = true <;>
    simp [onlyCut, vecCut, QCmd.vecReads, Prog.start, Cut.of, op, notElementwise, notBinary, notReduction, scaled, cutLen_zero le,
      cvtValues]

theorem onlyCut_mov (op : vecOp k.cmd.bits = vMov) (le : vecN k.cmd.bits ≤ 64) :
    (onlyCut k rd t).writes = [(t + 4, k.cmd.dst, rd k.cmd.a (vecN k.cmd.bits))] := by
  have others : isElementwise vMov = false ∧ isBinary vMov = false ∧ isReduction vMov = false := ⟨rfl, rfl, rfl⟩
  have codes : vMov ≠ vCvt ∧ vMov ≠ vOpt ∧ vMov ≠ vThin := by decide
  simp [onlyCut, vecCut, QCmd.vecReads, Prog.start, Cut.of, op, others, codes, cutLen_zero le]

theorem onlyCut_fill (op : vecOp k.cmd.bits = vFill) (le : vecN k.cmd.bits ≤ 64) : (onlyCut k rd t).writes
    = [(t + 4, k.cmd.dst, (List.replicate (vecN k.cmd.bits / 4) (slice (rd k.cmd.a 4) 0 4)).flatten)] := by
  have others : isElementwise vFill = false ∧ isBinary vFill = false ∧ isReduction vFill = false := ⟨rfl, rfl, rfl⟩
  have codes : vFill ≠ vCvt ∧ vFill ≠ vOpt ∧ vFill ≠ vThin ∧ vFill ≠ vMov := by decide
  simp [onlyCut, vecCut, QCmd.vecReads, Prog.start, Cut.of, op, others, codes, cutLen_zero le]

theorem onlyCut_thin (op : vecOp k.cmd.bits = vThin) (le : vecN k.cmd.bits ≤ 64) : let n := vecN k.cmd.bits
    let z := thinBlock (words32 n (rd k.cmd.a (4 * n))) (words32 n (rd k.cmd.b (4 * n)))
    (onlyCut k rd t).writes = [(t + 9, k.cmd.dst, z.1), (t + 9, k.cmd.b, elemBytes 4 z.2)] := by
  have others : isElementwise vThin = false ∧ isBinary vThin = false ∧ isReduction vThin = false := ⟨rfl, rfl, rfl⟩
  have codes : vThin ≠ vCvt ∧ vThin ≠ vOpt := by decide
  simp [onlyCut, vecCut, QCmd.vecReads, Prog.start, Cut.of, op, others, codes, cutLen_zero le]

theorem length_words32 (n : Nat) (bs : List Byte) : (words32 n bs).length = n := length_elemsOf ..

theorem length_momentsOf (n : Nat) (els scs : List Byte) : (momentsOf n els scs).length = n := by
  simp [momentsOf]

/-- What an OPT makes of each element (R249). -/
def optResults (k : Started) (rd : Nat → Nat → List Byte) : List (Nat × Nat × Nat) :=
  let v := k.cmd.bits
  let n := vecN v
  let dst := k.cmd.dst
  let d := dst + n + n / 32
  (((words32 n (rd k.cmd.a (4 * n))).zip (words32 n (rd k.cmd.b (4 * n)))).zip
    ((momentsOf n (rd dst n) (rd (dst + n) (n / 32))).zip (momentsOf n (rd d n) (rd (d + n) (n / 32))))).map fun q =>
      (optElement (parseOpt (rd (64 * vecAux v) 64)) q.1.1 q.1.2 q.2.1 q.2.2).val

/-- The blocks of moments that an OPT stores; `o` is 0 for the first and 1 for the second moment (R246). -/
def optBlocks (k : Started) (zs : List Nat) (o : Nat) : List (Nat × List Nat) :=
  ((chunks 32 (vecN k.cmd.bits) zs).zipIdx).map fun b =>
    encodeBlock .e4m3 (roundMode (vecRm k.cmd.bits)) b.1 ((List.range 32).map fun i => k.draw (2 * (32 * b.2 + i) + o))

theorem onlyCut_opt (op : vecOp k.cmd.bits = vOpt) (le : vecN k.cmd.bits ≤ 128) : let n := vecN k.cmd.bits
    let d := k.cmd.dst + n + n / 32
    let stored (a : Nat) (bs : List (Nat × List Nat)) : List (Nat × Nat × List Byte) :=
      [(t + 10, a, packCodes 5 (bs.flatMap (·.2))), (t + 10, a + n, bs.map fun x => BitVec.ofNat 8 x.1)]
    (onlyCut k rd t).writes = [(t + 10, k.cmd.a, elemBytes 4 ((optResults k rd).map (·.1)))]
      ++ stored k.cmd.dst (optBlocks k ((optResults k rd).map (·.2.1)) 0) ++ stored d (optBlocks k ((optResults k rd).map (·.2.2)) 1) := by
  have others : isElementwise vOpt = false ∧ isBinary vOpt = false ∧ isReduction vOpt = false := ⟨rfl, rfl, rfl⟩
  have codes : vOpt ≠ vCvt := by decide
  have second : k.cmd.dst + 2 * vecN k.cmd.bits + vecN k.cmd.bits / 32
    = k.cmd.dst + vecN k.cmd.bits + vecN k.cmd.bits / 32 + vecN k.cmd.bits := by omega
  simp [onlyCut, vecCut, QCmd.vecReads, Prog.start, Cut.of, op, others, codes, cutLen_zero le, optCut, optResults, optBlocks, second,
    length_words32, length_momentsOf, Function.comp_def]

end

/-! ### Commands of many cuts -/

/-- The cuts of a command that is alone, taken one by one with `P` kept, make what is left of the core. -/
theorem State.Alone.cuts {s : State} {u q : Nat} {c : QCmd} {r : List QCmd} (h : s.Alone u q c r) {is : Nat → Bool}
    (meant : is c.bits = true) {P : Nat → Tl → Prog → Prop} (at_ : ∀ j tl p, P j tl p → p.j = j ∧ p.k.cmd.units = c.units)
    (step : ∀ j tl p, j < c.units → P j tl p → ∃ tl' p', (s.launch u q c r).runCut ((s.launch u q c r).runEnv u) tl p = (tl', p')
      ∧ P (j + 1) tl' p')
    (start : P 0 (Tl.blank [] (s.core u).judged) (Prog.start (s.starting u c))) : ∃ tl p, P c.units tl p
      ∧ ((s.startCmd u q is).core u).lsw = tl.lsw ∧ ((s.startCmd u q is).core u).accw = tl.accw
      ∧ ((s.startCmd u q is).core u).flips = tl.flips := by
  obtain ⟨tl, p, run, holds⟩ := State.runCuts_alone at_ step start
  exact ⟨tl, p, holds, State.startCmd_alone h.head meant h.fresh run⟩

/-- The lanes of a reduction after cut `j` (R247). -/
def reduceStep (c : QCmd) (rd : Nat → Nat → List Byte) (l : List Lane) (j : Nat) : List Lane :=
  let n := cutLen (vecN c.bits) 128 j
  (lanesStep (vecOp c.bits) l (words32 n (rd (c.a + 512 * j) (4 * n)))).val

/-- The lanes of a reduction after `j` cuts. -/
def reduceLanes (c : QCmd) (rd : Nat → Nat → List Byte) (j : Nat) : List Lane :=
  (List.range j).foldl (reduceStep c rd) (List.replicate 128 ⟨0, 0, 0⟩)

theorem reduceLanes_succ (c : QCmd) (rd : Nat → Nat → List Byte) (j : Nat) :
    reduceLanes c rd (j + 1) = reduceStep c rd (reduceLanes c rd j) j := by
  rw [reduceLanes, List.range_succ, List.foldl_append]
  rfl

theorem isReduction_codes {op : Nat} (red : isReduction op = true) : isElementwise op = false ∧ isBinary op = false ∧ op ≠ vCvt
    ∧ op ≠ vThin ∧ op ≠ vDrain ∧ op ≠ vMov ∧ op ≠ vFill := by
  obtain ⟨low, high⟩ := Bool.and_eq_true_iff.mp red
  have low : 0x30 ≤ op := of_decide_eq_true low
  have high : op ≤ 0x33 := of_decide_eq_true high
  obtain rfl | rfl | rfl | rfl : op = 0x30 ∨ op = 0x31 ∨ op = 0x32 ∨ op = 0x33 := by omega
  all_goals decide

/-- A cut of a reduction goes on with the lanes; the last one writes the result. -/
theorem vecCut_reduce {p : Prog} (red : isReduction (vecOp p.k.cmd.bits) = true) (t : Nat) (rd : Nat → Nat → List Byte) :
    let lanes := reduceStep p.k.cmd rd p.lanes p.j
    let cut := vecCut p t ((p.k.cmd.vecReads p.j).map fun x => rd x.1 x.2)
    cut.p.lanes = lanes ∧ cut.writes = if p.j + 1 < p.k.cmd.units then []
      else [(p.k.s + p.k.cmd.units + 12, p.k.cmd.dst, (reduceResult (vecOp p.k.cmd.bits) (vecN p.k.cmd.bits) lanes).val)] := by
  obtain ⟨elementwise, binary, cvt, -⟩ := isReduction_codes red
  simp only [vecCut, QCmd.vecReads, elementwise, binary, red, cvt, Bool.false_eq_true, if_false, if_true, Bool.or_true, List.map_cons,
    List.map_nil, List.getD_cons_zero]
  split
  · exact ⟨Prog.note_lanes .., rfl⟩
  · exact ⟨(Prog.note_lanes ..).trans (Prog.note_lanes ..), rfl⟩

/-- The write of a reduction (R247). -/
def reduceWrite (k : Started) (rd : Nat → Nat → List Byte) : Nat × Nat × List Byte :=
  (k.s + k.cmd.units + 12, k.cmd.dst, (reduceResult (vecOp k.cmd.bits) (vecN k.cmd.bits) (reduceLanes k.cmd rd k.cmd.units)).val)

/-- How far a reduction has come after `j` cuts. -/
structure ReduceAt (k : Started) (rd : Nat → Nat → List Byte) (j : Nat) (tl : Tl) (p : Prog) : Prop where
  cmd : p.k = k
  cut : p.j = j
  runs : p.dead = none
  lanes : p.lanes = reduceLanes k.cmd rd j
  made : tl.lsw.map LsWrite.shown = if j < k.cmd.units then [] else [reduceWrite k rd]

theorem ReduceAt.start {k : Started} (some_ : 0 < k.cmd.units) (rd : Nat → Nat → List Byte) (judged : Nat) :
    ReduceAt k rd 0 (Tl.blank [] judged) (Prog.start k) where
  cmd := rfl
  cut := rfl
  runs := rfl
  lanes := by rw [reduceLanes, List.range_zero, List.foldl_nil, Prog.start]
  made := (if_pos some_).symm

theorem ReduceAt.step {s : State} {e : RunEnv} (calm : s.Calm e) {rd : Nat → Nat → List Byte} (reads : s.lsStands e.u = rd)
    {k : Started} (mat : k.cmd.isMat = false) (red : isReduction (vecOp k.cmd.bits) = true) {j : Nat} {tl : Tl} {p : Prog}
    (lt : j < k.cmd.units) (h : ReduceAt k rd j tl p) : ∃ tl' p', s.runCut e tl p = (tl', p') ∧ ReduceAt k rd (j + 1) tl' p' := by
  obtain ⟨rfl, rfl, runs, lanes, made⟩ := h
  rw [if_pos lt] at made
  have blank : tl.lsw = [] := List.map_eq_nil_iff.mp made
  have drain : p.k.cmd.isDrain = false := by simp [QCmd.isDrain, isReduction_codes red]
  have step := calm.vec (tl := tl) runs mat drain ((vecCut_p ..).1.trans runs)
  have standing : (fun x : Nat × Nat => s.lsRead e.u tl.lsw p.next x.1 x.2) = fun x => rd x.1 x.2 := by
    rw [blank, ← reads]
    rfl
  rw [standing] at step
  obtain ⟨kept, same⟩ := vecCut_p p p.next ((p.k.cmd.vecReads p.j).map fun x => rd x.1 x.2)
  obtain ⟨goes, writes⟩ := vecCut_reduce red p.next rd
  refine ⟨_, _, step, same, rfl, kept.trans runs, goes.trans (by rw [reduceLanes_succ, lanes]), ?_⟩
  rw [Tl.made, blank, List.nil_append, LsWrite.map_shown_of, writes]
  by_cases more : p.j + 1 < p.k.cmd.units
  · rw [if_pos more, if_pos more]
  · have last : p.k.cmd.units = p.j + 1 := by omega
    rw [if_neg more, if_neg more, reduceWrite, lanes, ← reduceLanes_succ, ← last]

theorem State.lsStands_launch (s : State) (u q : Nat) (c : QCmd) (r : List QCmd) : (s.launch u q c r).lsStands u = s.lsStands u := by
  funext a n
  exact congrArg (rdBytes · (lsAt u a) n) (show (s.launch u q c r).ls = s.ls from rfl)

theorem State.Alone.reduces {s : State} {u q : Nat} {c : QCmd} {r : List QCmd} (h : s.Alone u q c r) (vec : c.q ≠ 0)
    (red : isReduction (vecOp c.bits) = true) {is : Nat → Bool} (meant : is c.bits = true) :
    ((s.startCmd u q is).core u).lsw.map LsWrite.shown = [reduceWrite (s.starting u c) (s.lsStands u)] := by
  have mat : c.isMat = false := beq_eq_false_iff_ne.mpr vec
  have some_ : 0 < c.units := by
    obtain ⟨-, -, -, thin, drains, mov, fill⟩ := isReduction_codes red
    simp only [QCmd.units, mat, thin, drains, mov, fill, Bool.false_eq_true, if_false, or_self]
    exact Nat.div_pos (by have := vecN_pos c.bits; omega) (by decide)
  obtain ⟨tl, p, holds, lsw, -⟩ := h.cuts meant (P := ReduceAt (s.starting u c) (s.lsStands u))
    (fun j tl p holds => ⟨holds.cut, by rw [holds.cmd]; rfl⟩)
    (fun j tl p lt holds => ReduceAt.step (k := s.starting u c) (State.launch_calm h.clean h.whole h.off q c r)
      (s.lsStands_launch u q c r) mat red lt holds)
    (ReduceAt.start (k := s.starting u c) some_ _ _)
  rw [lsw, holds.made]
  exact if_neg (Nat.lt_irrefl _)

/-! ### A DRAIN (R239) -/

/-- The bank that a DRAIN of a slot reads: the shadow one. -/
def State.shadowBank (s : State) (u slot : Nat) : List Word := s.bankBase u slot (!mget false s.accBank1 (64 * u + slot))

theorem State.shadowBank_launch (s : State) (u q : Nat) (c : QCmd) (r : List QCmd) (slot : Nat) :
    (s.launch u q c r).shadowBank u slot = s.shadowBank u slot := by
  have acc : (s.launch u q c r).acc = s.acc := rfl
  have banks : (s.launch u q c r).accBank1 = s.accBank1 := rfl
  rw [State.shadowBank, State.shadowBank, State.bankBase, State.bankBase, acc, banks]

/-- The two rows of bank `b` that cut `j` of a DRAIN writes. -/
def drainRows (k : Started) (b : List Word) (j : Nat) : List (Nat × Nat × List Byte) :=
  let v := k.cmd.bits
  placeElems k.cmd.dst (vecFmt v) 8192 (128 * j) (encodeElems (vecFmt v)
    (((b.drop (128 * j)).take 128).map fun w => Fmt.f32.decode w.toNat) (roundMode (vecRm v)) (vecSat v)
    fun i => k.draw (128 * j + i)) (k.s + j + 7)

/-- How far a DRAIN of bank `b` has come after `j` cuts. -/
structure DrainAt (k : Started) (b : List Word) (j : Nat) (tl : Tl) (p : Prog) : Prop where
  cmd : p.k = k
  cut : p.j = j
  runs : j ≤ 64 → p.dead = none
  next : j < 64 → p.next = k.s + j
  accw : tl.accw = []
  flips : tl.flips = []
  made : tl.lsw.map LsWrite.shown = (List.range (min j 64)).flatMap (drainRows k b)

theorem DrainAt.start (k : Started) (b : List Word) (judged : Nat) : DrainAt k b 0 (Tl.blank [] judged) (Prog.start k) :=
  ⟨rfl, rfl, fun _ => rfl, fun _ => rfl, rfl, rfl, rfl⟩

theorem QCmd.readAt_drain {c : QCmd} (mat : c.isMat = false) (op : vecOp c.bits = vDrain) {j : Nat} (lt : j < 64) : c.readAt j = j := by
  have other : (c.isDrain && j == 64) = false := by simp [lt.ne]
  have pace : c.pace = 1 := by simp [QCmd.pace, mat, op, vDrain, vOpt, vThin]
  rw [QCmd.readAt, other, if_neg Bool.false_ne_true, pace, Nat.one_mul]

theorem DrainAt.step {s : State} {e : RunEnv} (calm : s.Calm e) {k : Started} (mat : k.cmd.isMat = false)
    (op : vecOp k.cmd.bits = vDrain) {b : List Word} (bank : s.shadowBank e.u (vecAux k.cmd.bits % 64) = b) {j : Nat} {tl : Tl} {p : Prog}
    (le : j ≤ 64) (h : DrainAt k b j tl p) : ∃ tl' p', s.runCut e tl p = (tl', p') ∧ DrainAt k b (j + 1) tl' p' := by
  obtain ⟨rfl, rfl, runs, next, accw, flips, made⟩ := h
  have drain : p.k.cmd.isDrain = true := by simp [QCmd.isDrain, mat, op]
  by_cases last : p.j = 64
  · obtain ⟨p', step, same⟩ := State.runCut_drainFlags (s := s) (e := e) (tl := tl) (runs le) mat drain last
    exact ⟨tl, _, step, same, rfl, fun more => absurd more (by omega), fun more => absurd more (by omega), accw, flips,
      made.trans (by rw [last]; rfl)⟩
  · have lt : p.j < 64 := by omega
    have step : s.runCut e tl p = (tl.made (drainCut p p.next b), p.onward (drainCut p p.next b).p) :=
      bank ▸ calm.drain (tl := tl) (runs le) mat drain last flips accw
    have rows : (drainCut p p.next b).writes = drainRows p.k b p.j := by
      rw [next lt]
      rfl
    refine ⟨_, _, step, rfl, rfl, fun _ => runs le, fun more => ?_, ?_, ?_, ?_⟩
    · rw [Prog.onward, mat, QCmd.readAt_drain mat op more]
      rfl
    · rw [Tl.made, accw]
      rfl
    · rw [Tl.made, flips]
      rfl
    · rw [Tl.made, List.map_append, made, LsWrite.map_shown_of, rows, Nat.min_eq_left le, Nat.min_eq_left (by omega),
        List.range_succ, List.flatMap_append, List.flatMap_singleton]

theorem State.Alone.drains {s : State} {u q : Nat} {c : QCmd} {r : List QCmd} (h : s.Alone u q c r) (vec : c.q ≠ 0)
    (op : vecOp c.bits = vDrain) {is : Nat → Bool} (meant : is c.bits = true) :
    ((s.startCmd u q is).core u).lsw.map LsWrite.shown
      = (List.range 64).flatMap (drainRows (s.starting u c) (s.shadowBank u (vecAux c.bits % 64))) := by
  have mat : c.isMat = false := beq_eq_false_iff_ne.mpr vec
  have units : c.units = 65 := by simp [QCmd.units, mat, op, vDrain, vThin]
  obtain ⟨tl, p, holds, lsw, -⟩ := h.cuts meant (P := DrainAt (s.starting u c) (s.shadowBank u (vecAux c.bits % 64)))
    (fun j tl p holds => ⟨holds.cut, by rw [holds.cmd]; rfl⟩)
    (fun j tl p lt holds => DrainAt.step (k := s.starting u c) (State.launch_calm h.clean h.whole h.off q c r) mat op
      (s.shadowBank_launch u q c r _) (by omega) holds)
    (DrainAt.start ..)
  rw [lsw, holds.made, units]
  rfl

end Sys2Proof.Machine
end
section
/-!
SUPPORT. What an MMA leaves in its bank (spec/09_matrix_and_vector.md, R231, R233, R236, Table 9.3): the elements that enter the
array, one group of K indices, and the groups one after the other.
-/

namespace Sys2Proof.Machine

/-! ### Elements of a list of rows -/

theorem getElem?_flatten_rows {n : Nat} {rows : List (List α)} (each : ∀ l ∈ rows, l.length = n) {i j : Nat} {row : List α}
    (at_ : rows[i]? = some row) (lt : j < n) : rows.flatten[n * i + j]? = row[j]? := by
  induction rows generalizing i with
  | nil => simp at at_
  | cons l rows ih =>
    obtain ⟨first, rest⟩ := List.forall_mem_cons.mp each
    rw [List.flatten_cons]
    cases i with
    | zero =>
      rw [List.getElem?_cons_zero, Option.some_inj] at at_
      rw [Nat.mul_zero, Nat.zero_add, List.getElem?_append_left (by omega), at_]
    | succ i =>
      rw [List.getElem?_cons_succ] at at_
      rw [List.getElem?_append_right (by rw [first]; nlinarith), first, ← ih rest at_]
      congr 1
      rw [Nat.mul_succ]
      omega

/-- An element of a bank after a group (R233). -/
theorem groupAll_getElem? {bank : List Nat} {z : Bool} {as bs : List (List XV)} (columns : bs.length = 64) {i j : Nat}
    {a b : List XV} (row : as[i]? = some a) (column : bs[j]? = some b) : (groupAll bank z as bs).1[64 * i + j]?
      = some (dotGroup (if z then 0 else bank.getD (64 * i + j) 0) ((a.zip b).map fun q => dotTerm q.1 q.2)).1 := by
  have lt : j < 64 := columns ▸ (List.getElem?_eq_some_iff.mp column).1
  unfold groupAll
  dsimp only
  rw [List.getElem?_map, getElem?_flatten_rows (n := 64) (fun l mem => ?_) (i := i)
    (by rw [List.getElem?_map, List.getElem?_zipIdx, row]; rfl) lt]
  · rw [List.getElem?_map, List.getElem?_zipIdx, column]
    simp
  · obtain ⟨x, -, rfl⟩ := List.mem_map.mp mem
    rw [List.length_map, List.length_zipIdx, columns]

/-! ### Elements as they enter the array (R231, Table 9.3) -/

theorem State.slice_lsStands (s : State) (u a : Nat) {o k n : Nat} (inside : o + k ≤ n) :
    slice (s.lsStands u a n) o k = s.lsStands u (a + o) k := by
  rw [State.lsStands, slice_rdBytes _ _ inside, State.lsStands, lsAt, lsAt, Nat.add_assoc]

theorem State.leAt_lsStands (s : State) (u a : Nat) {o k n : Nat} (inside : o + k ≤ n) :
    leAt (s.lsStands u a n) o k = leAt (s.lsStands u (a + o) k) 0 k := by
  rw [leAt, leAt, s.slice_lsStands u a inside, s.slice_lsStands u (a + o) (by omega), Nat.add_zero]

theorem State.getD_lsStands (s : State) (u a : Nat) {i n : Nat} (inside : i < n) :
    ((s.lsStands u a n).getD i 0).toNat = leAt (s.lsStands u (a + i) 1) 0 1 := by
  have length : i < (rdBytes s.ls (lsAt u a) n).length := by rwa [length_rdBytes]
  rw [State.lsStands, List.getD_eq_getElem?_getD, List.getElem?_eq_getElem length, getElem_rdBytes, Option.getD_some]
  simp [leAt, slice, State.lsStands, rdBytes, leNat, lsAt, Nat.add_assoc]

/-- Element `i` of a matrix operand at `base` whose elements have `h` half bytes. -/
def operandAt (rd : Nat → Nat → List Byte) (base h i : Nat) : Nat :=
  if h = 1 then nbits (leAt (rd (base + i / 2) 1) 0 1) (4 * (i % 2)) 4 else leAt (rd (base + h / 2 * i) (h / 2)) 0 (h / 2)

/-- The formats of a matrix operand have a half byte or whole bytes. -/
theorem matHalves_even {f : Nat} (other : matHalves f ≠ 1) : ∃ b, 0 < b ∧ matHalves f = 2 * b := by
  unfold matHalves at *
  split
  · exact ⟨4, by decide, rfl⟩
  · split
    · exact ⟨2, by decide, rfl⟩
    · split
      · simp_all
      · exact ⟨1, by decide, rfl⟩

/-- An element read as one of a range of elements, which for half bytes begins and ends with a whole byte. -/
theorem State.elemAt_lsStands (s : State) (u base : Nat) {f x n k : Nat} (whole : matHalves f = 1 → x % 2 = 0 ∧ n % 2 = 0)
    (lt : k < n) :
    elemAt (matHalves f) (s.lsStands u (base + matHalves f * x / 2) (matHalves f * n / 2)) k
      = operandAt (s.lsStands u) base (matHalves f) (x + k) := by
  by_cases half : matHalves f = 1
  · obtain ⟨even, even_n⟩ := whole half
    rw [elemAt, operandAt, half, if_pos rfl, if_pos rfl, s.getD_lsStands u _ (by omega)]
    have byte : base + 1 * x / 2 + k / 2 = base + (x + k) / 2 := by omega
    have nibble : k % 2 = (x + k) % 2 := by omega
    rw [byte, nibble]
  · obtain ⟨b, pos, bytes⟩ := matHalves_even half
    have two (y : Nat) : 2 * b * y / 2 = b * y := by rw [Nat.mul_assoc, Nat.mul_div_cancel_left _ (by decide)]
    have one : 2 * b / 2 = b := Nat.mul_div_cancel_left _ (by decide)
    rw [elemAt, operandAt, if_neg half, if_neg half, bytes, two, two, one, s.leAt_lsStands u _ (by nlinarith), Nat.mul_add, Nat.add_assoc]

/-- The value with which element `w` of format `f` enters the array under scale `sc`. -/
def entering (m f w sc : Nat) : XV :=
  if scaledFmt f then scaleOf (matValue f (matRne m) w).1 sc else (matValue f (matRne m) w).1

/-- Element (i, k) of the rows of A, and element (k, j) of the columns of B. -/
def rowElement (c : QCmd) (rd : Nat → Nat → List Byte) (i k : Nat) : XV :=
  let m := c.bits
  let h := matHalves (matFa m)
  entering m (matFa m) (operandAt rd c.a h (matK m * i + k))
    (leAt (rd (c.a + 128 * matK m * h / 2 + matK m / 32 * i + k / 32) 1) 0 1)
def colElement (c : QCmd) (rd : Nat → Nat → List Byte) (k j : Nat) : XV :=
  let m := c.bits
  let h := matHalves (matFb m)
  entering m (matFb m) (operandAt rd c.b h (64 * k + j)) (leAt (rd (c.b + 64 * matK m * h / 2 + 64 * (k / 32) + j) 1) 0 1)

/-! ### One group of an MMA (R233) -/

section
variable (c : QCmd) (g : Nat) (F : Nat × Nat → List Byte)

/-- K indices of group `g`. -/
def groupLen (m g : Nat) : Nat := min 16 (matK m - 16 * g)

theorem mmaReads_row {i : Nat} (lt : i < 128) : ((mmaReads c g).map F).getD i []
    = F (c.a + matHalves (matFa c.bits) * (matK c.bits * i + 16 * g) / 2, matHalves (matFa c.bits) * groupLen c.bits g / 2) := by
  have at_ : (mmaReads c g)[i]? = some (c.a + matHalves (matFa c.bits) * (matK c.bits * i + 16 * g) / 2,
      matHalves (matFa c.bits) * groupLen c.bits g / 2) := by
    simp only [mmaReads, List.append_assoc]
    rw [List.getElem?_append_left (by simpa using lt)]
    simp [lt, groupLen]
  rw [List.getD_eq_getElem?_getD, List.getElem?_map, at_]
  rfl

theorem mmaReads_columns : ((mmaReads c g).map F).getD 128 []
    = F (c.b + matHalves (matFb c.bits) * 64 * (16 * g) / 2, matHalves (matFb c.bits) * 64 * groupLen c.bits g / 2) := by
  have at_ : (mmaReads c g)[128]? = some (c.b + matHalves (matFb c.bits) * 64 * (16 * g) / 2,
      matHalves (matFb c.bits) * 64 * groupLen c.bits g / 2) := by
    simp only [mmaReads, List.append_assoc]
    rw [List.getElem?_append_right (by simp)]
    simp [groupLen]
  rw [List.getD_eq_getElem?_getD, List.getElem?_map, at_]
  rfl

theorem mmaReads_rowScale (scaled : scaledFmt (matFa c.bits) = true) {i : Nat} (lt : i < 128) : ((mmaReads c g).map F).getD (129 + i) []
    = F (c.a + 128 * matK c.bits * matHalves (matFa c.bits) / 2 + matK c.bits / 32 * i + 16 * g / 32, 1) := by
  have at_ : (mmaReads c g)[129 + i]?
      = some (c.a + 128 * matK c.bits * matHalves (matFa c.bits) / 2 + matK c.bits / 32 * i + 16 * g / 32, 1) := by
    simp only [mmaReads, List.append_assoc, scaled, if_true]
    rw [List.getElem?_append_right (by simp; omega), List.getElem?_append_right (by simp; omega),
      List.getElem?_append_left (by simp; omega)]
    simp [show 129 + i - 128 - 1 = i by omega, lt]
  rw [List.getD_eq_getElem?_getD, List.getElem?_map, at_]
  rfl

theorem mmaReads_columnScales (scaled : scaledFmt (matFb c.bits) = true) :
    ((mmaReads c g).map F).getD (if scaledFmt (matFa c.bits) then 257 else 129) []
      = F (c.b + 64 * matK c.bits * matHalves (matFb c.bits) / 2 + 64 * (16 * g / 32), 64) := by
  have at_ : (mmaReads c g)[if scaledFmt (matFa c.bits) then 257 else 129]?
      = some (c.b + 64 * matK c.bits * matHalves (matFb c.bits) / 2 + 64 * (16 * g / 32), 64) := by
    simp only [mmaReads, scaled, if_true]
    rw [List.getElem?_append_right (by split <;> simp)]
    split <;> simp
  rw [List.getD_eq_getElem?_getD, List.getElem?_map, at_]
  rfl

end

/-- The products of row `i` and column `j` in group `g`, added to `acc`. -/
def groupSum (c : QCmd) (rd : Nat → Nat → List Byte) (i j acc g : Nat) : Nat :=
  (dotGroup acc ((List.range (groupLen c.bits g)).map fun x =>
    dotTerm (rowElement c rd i (16 * g + x)) (colElement c rd (16 * g + x) j))).1

section
variable (s : State) (u : Nat) {c : QCmd} (ok : matOk c.bits = true) (op : matOp c.bits = matMma) {g : Nat} (lt : g < groupsOf c.bits)

/-- K is a multiple of 32 where an operand has scales (R229). -/
theorem matK_scaled (ok : matOk c.bits = true) (op : matOp c.bits = matMma)
    (scaled : scaledFmt (matFa c.bits) = true ∨ scaledFmt (matFb c.bits) = true) : matK c.bits % 32 = 0 := by
  have isMma : (1 : Nat) ≠ 0 ∧ (1 : Nat) ≠ matClose := by decide
  simp only [matOk, op, matMma, isMma, if_false, if_true, Bool.and_eq_true, Bool.not_eq_true', Bool.and_eq_false_iff,
    Bool.or_eq_false_iff, bne_eq_false_iff_eq] at ok
  rcases ok.2 with none_ | whole
  · rcases scaled with a | b
    · rw [none_.1] at a
      cases a
    · rw [none_.2] at b
      cases b
  · exact whole

theorem scaledFmt_of_halves {f : Nat} (h : matHalves f = 1) : scaledFmt f = true := by
  have six : f = 6 := by
    unfold matHalves at h
    repeat' split at h
    all_goals omega
  rw [six]
  rfl

/-- A group of operands with scales is whole. -/
theorem groupLen_whole {m : Nat} (whole : matK m % 32 = 0) (lt : g < groupsOf m) : groupLen m g = 16 := by
  unfold groupsOf cdiv at lt
  unfold groupLen
  omega

include ok op lt

/-- An element of a row as the group reads it. -/
theorem mma_row {i k : Nat} (row : i < 128) (inside : k < groupLen c.bits g) :
    let rs := (mmaReads c g).map fun x => s.lsStands u x.1 x.2
    let x := matValue (matFa c.bits) (matRne c.bits) (elemAt (matHalves (matFa c.bits)) (rs.getD i []) k)
    (if scaledFmt (matFa c.bits) then scaleOf x.1 ((rs.getD (129 + i) []).getD 0 0).toNat else x.1)
      = rowElement c (s.lsStands u) i (16 * g + k) := by
  have element : elemAt (matHalves (matFa c.bits)) (((mmaReads c g).map fun x => s.lsStands u x.1 x.2).getD i []) k
      = operandAt (s.lsStands u) c.a (matHalves (matFa c.bits)) (matK c.bits * i + (16 * g + k)) := by
    rw [mmaReads_row c g _ row, ← Nat.add_assoc]
    refine s.elemAt_lsStands u c.a (fun half => ?_) inside
    have whole := matK_scaled ok op (.inl (scaledFmt_of_halves half))
    rw [groupLen_whole whole lt, Nat.add_mod, Nat.mul_mod, show matK c.bits % 2 = 0 by omega]
    omega
  intro rs x
  rw [rowElement, entering, ← element]
  split
  · next scaled =>
    have short : k < 16 := inside.trans_le (Nat.min_le_left ..)
    rw [show rs.getD (129 + i) [] = _ from mmaReads_rowScale c g _ scaled row, s.getD_lsStands u _ Nat.zero_lt_one, Nat.add_zero,
      show (16 * g + k) / 32 = 16 * g / 32 by omega]
  · rfl

omit ok op lt in
/-- An element of a column as the group reads it. -/
theorem mma_column {j k : Nat} (column : j < 64) (inside : k < groupLen c.bits g) :
    let rs := (mmaReads c g).map fun x => s.lsStands u x.1 x.2
    let x := matValue (matFb c.bits) (matRne c.bits) (elemAt (matHalves (matFb c.bits)) (rs.getD 128 []) (64 * k + j))
    (if scaledFmt (matFb c.bits) then scaleOf x.1 ((rs.getD (if scaledFmt (matFa c.bits) then 257 else 129) []).getD j 0).toNat else x.1)
      = colElement c (s.lsStands u) (16 * g + k) j := by
  have element : elemAt (matHalves (matFb c.bits)) (((mmaReads c g).map fun x => s.lsStands u x.1 x.2).getD 128 []) (64 * k + j)
      = operandAt (s.lsStands u) c.b (matHalves (matFb c.bits)) (64 * (16 * g + k) + j) := by
    rw [mmaReads_columns, Nat.mul_assoc, Nat.mul_assoc, show 64 * (16 * g + k) + j = 64 * (16 * g) + (64 * k + j) by omega]
    exact s.elemAt_lsStands u c.b (fun _ => by omega) (by omega)
  intro rs x
  rw [colElement, entering, ← element]
  split
  · next scaled =>
    have short : k < 16 := inside.trans_le (Nat.min_le_left ..)
    rw [show rs.getD (if scaledFmt (matFa c.bits) then 257 else 129) [] = _ from mmaReads_columnScales c g _ scaled,
      s.getD_lsStands u _ column, show (16 * g + k) / 32 = 16 * g / 32 by omega]
  · rfl

end

/-- Group `p.j` of an MMA over the bank `old`, from local store as it stands. -/
def mmaGroup (s : State) (u : Nat) (p : Prog) (t : Nat) (bank : Bool) (old : List Nat) : Cut :=
  mmaCut p t bank old ((mmaReads p.k.cmd p.j).map fun x => s.lsStands u x.1 x.2)

/-- What a group writes into its bank. -/
theorem mmaGroup_writes (s : State) (u : Nat) {p : Prog} (ok : matOk p.k.cmd.bits = true) (op : matOp p.k.cmd.bits = matMma)
    (lt : p.j < groupsOf p.k.cmd.bits) (t : Nat) (bank : Bool) (old : List Nat) : ∃ w, (mmaGroup s u p t bank old).acc = some w
      ∧ w.vis = t + matCycles p.k.cmd.bits + 10 ∧ w.on (matSlot p.k.cmd.bits) bank = true ∧ ∀ i < 128, ∀ j < 64, w.vals[64 * i + j]?
        = some (BitVec.ofNat 32 (groupSum p.k.cmd (s.lsStands u) i j
            (if matZ p.k.cmd.bits && p.j == 0 then 0 else old.getD (64 * i + j) 0) p.j)) := by
  refine ⟨_, rfl, rfl, by simp [AccWrite.on], fun i row j column => ?_⟩
  dsimp only
  rw [List.getElem?_map, groupAll_getElem? (by simp) (by rw [List.getElem?_map, List.getElem?_map, List.getElem?_range row]; rfl)
    (by rw [List.getElem?_map, List.getElem?_map, List.getElem?_range column]; rfl), Option.map_some]
  simp only [List.map_map, List.zip_map', Function.comp_def, groupSum]
  refine congrArg (fun ps => some (BitVec.ofNat 32 (dotGroup _ ps).1)) (List.map_congr_left fun k mem => ?_)
  have inside := List.mem_range.mp mem
  rw [mma_row s u ok op lt row inside, mma_column s u column inside]

/-! ### The groups of an MMA (R233, R236) -/

/-- Element (i, j) of the bank after `g` groups. -/
def mmaSum (c : QCmd) (rd : Nat → Nat → List Byte) (old : Nat → Nat → Nat) (g i j : Nat) : Nat :=
  (List.range g).foldl (fun acc g => groupSum c rd i j acc g % 2 ^ 32) (old i j)

theorem mmaSum_succ (c : QCmd) (rd : Nat → Nat → List Byte) (old : Nat → Nat → Nat) (g i j : Nat) :
    mmaSum c rd old (g + 1) i j = groupSum c rd i j (mmaSum c rd old g i j) g % 2 ^ 32 := by
  rw [mmaSum, List.range_succ, List.foldl_append]
  rfl

/-- The bank to which a matrix command adds, element by element. -/
def State.oldBank (s : State) (u : Nat) (m : Nat) (i j : Nat) : Nat :=
  if matZ m then 0
  else (mget 0 s.acc (bankKey u (matSlot m) (mget false s.accBank1 (64 * u + matSlot m)) * 8192 + (64 * i + j))).toNat

theorem State.oldBank_launch (s : State) (u q : Nat) (c : QCmd) (r : List QCmd) (m : Nat) :
    (s.launch u q c r).oldBank u m = s.oldBank u m := by
  have acc : (s.launch u q c r).acc = s.acc := rfl
  have banks : (s.launch u q c r).accBank1 = s.accBank1 := rfl
  funext i j
  rw [State.oldBank, State.oldBank, acc, banks]

/-- How far an MMA has come after `g` groups. -/
structure MmaAt (s : State) (u : Nat) (k : Started) (g : Nat) (tl : Tl) (p : Prog) : Prop where
  cmd : p.k = k
  cut : p.j = g
  runs : p.dead = none
  next : p.next = k.s + matCycles k.cmd.bits * g
  lsw : tl.lsw = []
  flips : tl.flips = []
  cycles : tl.accw.map (·.vis) = (List.range g).map fun g => k.s + matCycles k.cmd.bits * (g + 1) + 10
  first : g = 0 → tl.accw = []
  last : g ≠ 0 → ∃ ws w, tl.accw = ws ++ [w] ∧ w.on (matSlot k.cmd.bits) (mget false s.accBank1 (64 * u + matSlot k.cmd.bits)) = true
    ∧ ∀ i < 128, ∀ j < 64, w.vals[64 * i + j]?
      = some (BitVec.ofNat 32 (mmaSum k.cmd (s.lsStands u) (s.oldBank u k.cmd.bits) g i j))

theorem MmaAt.start (s : State) (u : Nat) (k : Started) (judged : Nat) : MmaAt s u k 0 (Tl.blank [] judged) (Prog.start k) :=
  ⟨rfl, rfl, rfl, rfl, rfl, rfl, rfl, fun _ => rfl, fun some_ => absurd rfl some_⟩

/-- The last write of a bank is what stands in it. -/
theorem State.bankUnder_concat (s : State) (u : Nat) {slot : Nat} {bank : Bool} (ws : List AccWrite) {w : AccWrite}
    (on : w.on slot bank = true) : s.bankUnder u (ws ++ [w]) slot bank = w.vals := by
  rw [State.bankUnder, List.filter_append, List.filter_cons_of_pos on, List.filter_nil, List.getLast?_concat]

theorem State.getElem?_bankBase (s : State) (u slot : Nat) (bank : Bool) {i j : Nat} (row : i < 128) (column : j < 64) :
    (s.bankBase u slot bank)[64 * i + j]? = some (mget 0 s.acc (bankKey u slot bank * 8192 + (64 * i + j))) := by
  rw [State.bankBase, List.getElem?_map, List.getElem?_range (by omega)]
  rfl

/-- What the first cut of a matrix command adds to. -/
theorem State.addedTo_blank (s : State) (u m : Nat) {i j : Nat} (row : i < 128) (column : j < 64) :
    (if matZ m && true then 0 else (s.addedTo u m [] true).getD (64 * i + j) 0) = s.oldBank u m i j := by
  by_cases z : matZ m = true <;>
    simp [z, State.addedTo, State.oldBank, State.bankUnder_blank, List.getD_eq_getElem?_getD, s.getElem?_bankBase u _ _ row column]

/-- What the next group of an MMA adds to. -/
theorem MmaAt.adds {s : State} {u : Nat} {k : Started} {g : Nat} {tl : Tl} {p : Prog} (h : MmaAt s u k g tl p) {i j : Nat}
    (row : i < 128) (column : j < 64) :
    (if matZ k.cmd.bits && g == 0 then 0 else (s.addedTo u k.cmd.bits tl.accw (g == 0)).getD (64 * i + j) 0)
      = mmaSum k.cmd (s.lsStands u) (s.oldBank u k.cmd.bits) g i j := by
  cases g with
  | zero => rw [h.first rfl, beq_self_eq_true, s.addedTo_blank u _ row column]; rfl
  | succ g =>
    obtain ⟨ws, w, accw, on, vals⟩ := h.last (Nat.succ_ne_zero g)
    rw [accw]
    simp [State.addedTo, s.bankUnder_concat u ws on, List.getD_eq_getElem?_getD, vals i row j column, mmaSum_succ]

theorem QCmd.readAt_mat {c : QCmd} (mat : c.isMat = true) (j : Nat) : c.readAt j = matCycles c.bits * j := by
  simp [QCmd.readAt, QCmd.isDrain, QCmd.pace, mat]

theorem MmaAt.step {s : State} {e : RunEnv} (calm : s.Calm e) {k : Started} (mat : k.cmd.isMat = true) (ok : matOk k.cmd.bits = true)
    (op : matOp k.cmd.bits = matMma) {g : Nat} {tl : Tl} {p : Prog} (lt : g < groupsOf k.cmd.bits) (h : MmaAt s e.u k g tl p) :
    ∃ tl' p', s.runCut e tl p = (tl', p') ∧ MmaAt s e.u k (g + 1) tl' p' := by
  have adds := fun i row j column => h.adds (i := i) (j := j) row column
  obtain ⟨rfl, rfl, runs, next, lsw, flips, cycles, first, last⟩ := h
  have notMms : (p.k.cmd.isMat && matOp p.k.cmd.bits == matMms) = false := by rw [mat, op]; rfl
  have step := calm.mma (tl := tl) runs mat op flips
  rw [lsw] at step
  obtain ⟨w, acc, vis, on, vals⟩ := mmaGroup_writes s e.u ok op lt p.next (mget false s.accBank1 (64 * e.u + matSlot p.k.cmd.bits))
    (s.addedTo e.u p.k.cmd.bits tl.accw (p.j == 0))
  have made : (tl.made (mmaGroup s e.u p p.next (mget false s.accBank1 (64 * e.u + matSlot p.k.cmd.bits))
      (s.addedTo e.u p.k.cmd.bits tl.accw (p.j == 0)))).accw = tl.accw ++ [w] := by
    rw [Tl.made, acc]
    rfl
  refine ⟨_, _, step, rfl, rfl, runs, ?_, ?_, ?_, ?_, nofun, fun _ => ⟨tl.accw, w, made, on, fun i row j column => ?_⟩⟩
  · rw [Prog.onward, notMms, QCmd.readAt_mat mat]
    rfl
  · rw [Tl.made, lsw]
    rfl
  · rw [Tl.made, flips]
    rfl
  · refine (congrArg (List.map _) made).trans ?_
    rw [List.map_append, cycles, List.range_succ, List.map_append, List.map_singleton, List.map_singleton, vis, next, Nat.mul_succ,
      ← Nat.add_assoc p.k.s]
  · rw [vals i row j column, adds i row j column, mmaSum_succ]
    exact congrArg some (BitVec.eq_of_toNat_eq (by simp))

theorem mma_alone {s : State} {u : Nat} {c : QCmd} {r : List QCmd} (h : s.Alone u 0 c r) (mat : c.q = 0)
    (ok : matOk c.bits = true) (op : matOp c.bits = matMma) {is : Nat → Bool} (meant : is c.bits = true) :
    let t := s.startCmd u 0 is
    (∀ i < 128, ∀ j < 64,
      (t.bankUnder u (t.core u).accw (matSlot c.bits) (mget false s.accBank1 (64 * u + matSlot c.bits)))[64 * i + j]?
        = some (BitVec.ofNat 32 (mmaSum c (s.lsStands u) (s.oldBank u c.bits) (groupsOf c.bits) i j)))
    ∧ (t.core u).accw.map (·.vis)
      = (List.range (groupsOf c.bits)).map fun g => (s.core u).startAt c + matCycles c.bits * (g + 1) + 10 := by
  intro t
  have isMat : c.isMat = true := beq_iff_eq.mpr mat
  have units : c.units = groupsOf c.bits := by simp [QCmd.units, isMat, op]
  obtain ⟨tl, p, holds, -, accw, -⟩ := h.cuts meant (P := MmaAt (s.launch u 0 c r) u (s.starting u c))
    (fun j tl p holds => ⟨holds.cut, by rw [holds.cmd]; rfl⟩)
    (fun j tl p lt holds => MmaAt.step (k := s.starting u c) (State.launch_calm h.clean h.whole h.off 0 c r) isMat ok op
      (units ▸ lt) holds)
    (MmaAt.start ..)
  rw [units] at holds
  have some_ : groupsOf c.bits ≠ 0 := (Nat.div_pos (by have : 0 < matK c.bits := Nat.succ_pos _; omega) (by decide)).ne'
  obtain ⟨ws, w, writes, on, vals⟩ := holds.last some_
  have stands : t.bankUnder u (ws ++ [w]) (matSlot c.bits) (mget false s.accBank1 (64 * u + matSlot c.bits)) = w.vals :=
    t.bankUnder_concat u ws on
  rw [accw]
  refine ⟨fun i row j column => ?_, holds.cycles⟩
  rw [writes, stands, vals i row j column, s.lsStands_launch, s.oldBank_launch]
  rfl

end Sys2Proof.Machine
end
section
/-!
SUPPORT. What an MMS of one tile leaves in its bank (spec/10_sparse_operands.md, R258, R263), and what a CLOSE does
(spec/09_matrix_and_vector.md, R236, R253).
-/

namespace Sys2Proof.Machine

/-! ### The tile (R258) -/

theorem length_spTile (c : QCmd) (rd : Nat → Nat → List Byte) (a : Nat) : (spTile c rd a).length = 128 := by
  unfold spTile
  dsimp only
  split <;> simp

theorem length_row_spTile {c : QCmd} {rd : Nat → Nat → List Byte} {a : Nat} {row : List Nat} (mem : row ∈ spTile c rd a) :
    row.length = 64 := by
  unfold spTile at mem
  dsimp only at mem
  split at mem
  all_goals
    obtain ⟨i, -, rfl⟩ := List.mem_map.mp mem
    simp

theorem take_drop_eq_map {l : List Nat} {o n : Nat} (inside : o + n ≤ l.length) :
    (l.drop o).take n = (List.range n).map fun x => l.getD (o + x) 0 := by
  refine List.ext_getElem (by simp; omega) fun i lt _ => ?_
  rw [List.length_take] at lt
  have below : o + i < l.length := by omega
  simp [List.getD_eq_getElem?_getD, below]

/-! ### The groups of a tile (R233) -/

/-- Operands of group `g` of a tile: the rows of A, and the columns of B. -/
def tileRows (m : Nat) (tile : List (List Nat)) (g : Nat) : List (List XV) :=
  tile.map fun row => ((row.drop (16 * g)).take 16).map fun w => (matValue (matFa m) false w).1
def tileColumns (m : Nat) (bytes : List Byte) (g : Nat) : List (List XV) :=
  (List.range 64).map fun j => (List.range 16).map fun k =>
    (matValue (matFb m) false (leAt bytes (matHalves (matFb m) / 2 * (64 * (16 * g + k) + j)) (matHalves (matFb m) / 2))).1

/-- The bank and the flags after group `g` of a tile. -/
def tileStep (m : Nat) (tile : List (List Nat)) (bytes : List Byte) (q : List Nat × BitVec 3) (g : Nat) : List Nat × BitVec 3 :=
  let x := groupAll q.1 (matZ m && g == 0) (tileRows m tile g) (tileColumns m bytes g)
  (x.1, q.2 ||| x.2)

/-- The products of row `i` and column `j` in group `g` of the tile of `c`, added to `acc`. -/
def tileSum (c : QCmd) (rd : Nat → Nat → List Byte) (i j acc g : Nat) : Nat :=
  let m := c.bits
  let hb := matHalves (matFb m) / 2
  (dotGroup acc ((List.range 16).map fun x => dotTerm
    (matValue (matFa m) false (((spTile c rd c.a).getD i []).getD (16 * g + x) 0)).1
    (matValue (matFb m) false (leAt (rd (c.b + hb * (64 * (16 * g + x) + j)) hb) 0 hb)).1)).1

section
variable (s : State) (u : Nat) (c : QCmd)

theorem tileStep_getElem? {g : Nat} (lt : g < 4) (q : List Nat × BitVec 3) {i j : Nat} (row : i < 128) (column : j < 64) :
    let hb := matHalves (matFb c.bits) / 2
    (tileStep c.bits (spTile c (s.lsStands u) c.a) (s.lsStands u c.b (hb * 64 * 64)) q g).1[64 * i + j]?
      = some (tileSum c (s.lsStands u) i j (if matZ c.bits && g == 0 then 0 else q.1.getD (64 * i + j) 0) g) := by
  intro hb
  have inside : i < (spTile c (s.lsStands u) c.a).length := by rwa [length_spTile]
  have tileRow : (spTile c (s.lsStands u) c.a)[i]? = some ((spTile c (s.lsStands u) c.a).getD i []) := by
    simp [List.getD_eq_getElem?_getD, inside]
  have wide : 16 * g + 16 ≤ ((spTile c (s.lsStands u) c.a).getD i []).length := by
    rw [length_row_spTile (List.mem_of_getElem? tileRow)]
    omega
  unfold tileStep
  rw [groupAll_getElem? (by simp [tileColumns]) (by rw [tileRows, List.getElem?_map, tileRow]; rfl)
    (by rw [tileColumns, List.getElem?_map, List.getElem?_range column]; rfl)]
  beta_reduce
  rw [take_drop_eq_map wide]
  simp only [List.map_map, List.zip_map', Function.comp_def, tileSum]
  refine congrArg (fun ps => some (dotGroup _ ps).1) (List.map_congr_left fun k mem => ?_)
  have short := List.mem_range.mp mem
  rw [s.leAt_lsStands u c.b]
  have index : 64 * (16 * g + k) + j + 1 ≤ 64 * 64 := by omega
  calc hb * (64 * (16 * g + k) + j) + hb = hb * (64 * (16 * g + k) + j + 1) := by rw [Nat.mul_succ]
    _ ≤ hb * (64 * 64) := Nat.mul_le_mul_left _ index
    _ = hb * 64 * 64 := by rw [Nat.mul_assoc]

/-- Element (i, j) of the bank after `g` groups of a tile. -/
def tileSums (rd : Nat → Nat → List Byte) (old : Nat → Nat → Nat) (g i j : Nat) : Nat :=
  (List.range g).foldl (tileSum c rd i j) (old i j)

theorem tile_getElem? (fl : BitVec 3) {g : Nat} (some_ : 0 < g) (le : g ≤ 4) {i j : Nat} (row : i < 128) (column : j < 64) :
    ((List.range g).foldl (tileStep c.bits (spTile c (s.lsStands u) c.a) (s.lsStands u c.b (matHalves (matFb c.bits) / 2 * 64 * 64)))
      (s.addedTo u c.bits [] true, fl)).1[64 * i + j]? = some (tileSums c (s.lsStands u) (s.oldBank u c.bits) g i j) := by
  induction g with
  | zero => cases some_
  | succ g ih =>
    rw [List.range_succ, List.foldl_append, List.foldl_cons, List.foldl_nil, tileStep_getElem? s u c le _ row column, tileSums,
      List.range_succ, List.foldl_append, List.foldl_cons, List.foldl_nil]
    refine congrArg (fun acc => some (tileSum c _ i j acc g)) ?_
    cases g with
    | zero => exact s.addedTo_blank u _ row column
    | succ g =>
      rw [List.getD_eq_getElem?_getD, ih (Nat.succ_pos g) (by omega)]
      simp [tileSums]

end

/-! ### The only tile of an MMS -/

/-- The cycles a record's tile takes (R262, R263). -/
def tileCost (c : QCmd) (rd : Nat → Nat → List Byte) (thr : Nat) : Nat :=
  let h := spRd c rd c.a 64
  let n := leAt h 2 2 % 2 ^ 14
  spCost c.bits n (spDense c.bits thr (leAt h 0 1 % 2) n)

theorem mmsCut_acc {p : Prog} (j : p.j = 0) (at_ : p.tileAt = p.k.cmd.a) (units : p.k.cmd.units = 1) (t : Nat) (bank : Bool)
    (old : List Nat) (rd : Nat → Nat → List Byte) : let c := p.k.cmd
    let r := (List.range 4).foldl (tileStep c.bits (spTile c rd c.a) (rd c.b (matHalves (matFb c.bits) / 2 * 64 * 64))) (old, p.accFl)
    (mmsCut p t bank old rd).acc = some { vis := t + tileCost c rd p.k.thr + 10, ord := c.ord, word := c.word, slot := matSlot c.bits,
                                          bank := bank, vals := r.1.map (BitVec.ofNat 32), clear := matZ c.bits, flags := r.2 } := by
  simp only [mmsCut, j, at_, units, Nat.mul_zero, Nat.add_zero, Nat.zero_add, beq_self_eq_true, Bool.and_true, if_true, Nat.lt_irrefl,
    if_false]
  rfl

/-- What an MMS of one tile writes into its bank. -/
def State.mmsWrite (s : State) (u : Nat) (c : QCmd) : AccWrite :=
  let rd := s.lsStands u
  let r := (List.range 4).foldl (tileStep c.bits (spTile c rd c.a) (rd c.b (matHalves (matFb c.bits) / 2 * 64 * 64)))
    (s.addedTo u c.bits [] true, 0)
  { vis := (s.core u).startAt c + tileCost c rd (s.fld (R.tdCSpthr u) 13 0) + 10, ord := c.ord, word := c.word,
    slot := matSlot c.bits, bank := mget false s.accBank1 (64 * u + matSlot c.bits), vals := r.1.map (BitVec.ofNat 32),
    clear := matZ c.bits, flags := r.2 }

theorem State.lsRead_launch (s : State) (u q : Nat) (c : QCmd) (r : List QCmd) (t : Nat) :
    (s.launch u q c r).lsRead u [] t = s.lsStands u := by
  funext a n
  rw [State.lsRead_blank]
  exact congrArg (rdBytes · (lsAt u a) n) (show (s.launch u q c r).ls = s.ls from rfl)

theorem State.addedTo_launch (s : State) (u q : Nat) (c : QCmd) (r : List QCmd) (m : Nat) (first : Bool) :
    (s.launch u q c r).addedTo u m [] first = s.addedTo u m [] first := by
  have acc : (s.launch u q c r).acc = s.acc := rfl
  have banks : (s.launch u q c r).accBank1 = s.accBank1 := rfl
  rw [State.addedTo, State.addedTo, State.bankUnder_blank, State.bankUnder_blank, State.bankBase, State.bankBase, acc, banks]

theorem mms_alone {s : State} {u : Nat} {c : QCmd} {r : List QCmd} (h : s.Alone u 0 c r) (mat : c.q = 0)
    (op : matOp c.bits = matMms) (one : matK c.bits = 64) {is : Nat → Bool} (meant : is c.bits = true) :
    let t := s.startCmd u 0 is
    (∀ i < 128, ∀ j < 64,
      (t.bankUnder u (t.core u).accw (matSlot c.bits) (mget false s.accBank1 (64 * u + matSlot c.bits)))[64 * i + j]?
        = some (BitVec.ofNat 32 (tileSums c (s.lsStands u) (s.oldBank u c.bits) 4 i j)))
    ∧ (t.core u).accw.map (·.vis) = [(s.core u).startAt c + tileCost c (s.lsStands u) (s.fld (R.tdCSpthr u) 13 0) + 10] := by
  intro t
  have isMat : c.isMat = true := beq_iff_eq.mpr mat
  have units : c.units = 1 := by simp [QCmd.units, isMat, op, matMma, matMms, one]
  obtain ⟨p, run⟩ := State.runCuts_one (s := s.launch u 0 c r) (e := (s.launch u 0 c r).runEnv u) (k := s.starting u c) units
    (Tl.blank [] (s.core u).judged)
  rw [(State.launch_calm h.clean h.whole h.off 0 c r).mms (tl := Tl.blank [] (s.core u).judged) (p := Prog.start (s.starting u c))
    rfl isMat op rfl rfl] at run
  obtain ⟨-, accw, -⟩ := State.startCmd_alone h.head meant h.fresh run
  have acc := mmsCut_acc (p := Prog.start (s.starting u c)) rfl rfl units ((s.core u).startAt c)
    (mget false s.accBank1 (64 * u + matSlot c.bits)) (s.addedTo u c.bits [] true) (s.lsStands u)
  have writes : ((s.startCmd u 0 is).core u).accw = [s.mmsWrite u c] := by
    rw [accw]
    show [] ++ (mmsCut (Prog.start (s.starting u c)) ((s.core u).startAt c) (mget false s.accBank1 (64 * u + matSlot c.bits))
      ((s.launch u 0 c r).addedTo u c.bits [] true) ((s.launch u 0 c r).lsRead u [] ((s.core u).startAt c))).acc.toList = _
    rw [s.lsRead_launch, s.addedTo_launch, acc]
    rfl
  have on : (s.mmsWrite u c).on (matSlot c.bits) (mget false s.accBank1 (64 * u + matSlot c.bits)) = true := by
    simp [AccWrite.on, State.mmsWrite]
  rw [writes]
  refine ⟨fun i row j column => ?_, rfl⟩
  rw [show [s.mmsWrite u c] = [] ++ [s.mmsWrite u c] from rfl, t.bankUnder_concat u [] on, State.mmsWrite, List.getElem?_map,
    tile_getElem? s u c 0 (by decide) (Nat.le_refl 4) row column]
  rfl

/-! ### A CLOSE (R236, R253) -/

theorem close_alone {s : State} {u : Nat} {c : QCmd} {r : List QCmd} (h : s.Alone u 0 c r) (mat : c.q = 0)
    (op : matOp c.bits = matClose) {is : Nat → Bool} (meant : is c.bits = true) : ((s.startCmd u 0 is).core u).flips
      = [{ cyc := (s.core u).startAt c + 10, ord := c.ord, word := c.word, slot := matSlot c.bits }] := by
  have isMat : c.isMat = true := beq_iff_eq.mpr mat
  have units : c.units = 1 := by simp [QCmd.units, isMat, op, matMma, matMms, matClose]
  have close : c.isClose = true := by simp [QCmd.isClose, isMat, op]
  obtain ⟨p, run⟩ := State.runCuts_one (s := s.launch u 0 c r) (e := (s.launch u 0 c r).runEnv u) (k := s.starting u c) units
    (Tl.blank [] (s.core u).judged)
  rw [State.runCut_close (p := Prog.start (s.starting u c)) rfl close] at run
  obtain ⟨-, -, flips⟩ := State.startCmd_alone h.head meant h.fresh run
  exact flips

/-- The active bank as the core's clock has it, behind one flip of its slot. -/
theorem State.activeBank_flipped {s t : State} {u slot : Nat} {f : Flip} (none_ : (s.core u).flips = [])
    (banks : t.accBank1 = s.accBank1) (one : (t.core u).flips = [f]) (same : f.slot = slot) :
    t.activeBank u slot = (s.activeBank u slot != decide (f.cyc ≤ (t.core u).clock)) := by
  rw [State.activeBank, State.activeBank, none_, one, State.activeAfter_nil, State.activeAfter, banks]
  by_cases seen : f.cyc ≤ (t.core u).clock <;> simp [countWhere, same, seen]

end Sys2Proof.Machine
end
section
/-!
SUPPORT. Matrix and vector commands start and write their results (spec/08_tile_core_execution.md, R209; spec/09_matrix_and_vector.md;
spec/10_sparse_operands.md): obligation O49.
-/

namespace Sys2Proof.Machine

/-! ### The rows of V0 and V1 -/

theorem State.startVec_first (s : State) (u : Nat) {op : Nat} (mov : op ≠ vMov) (fill : op ≠ vFill) :
    s.startVec u op = s.startCmd u 1 fun b => vecOp b == op := by
  rw [State.startVec, if_neg (by simp [mov, fill])]

theorem QCmd.units_blocks {c : QCmd} (vec : c.q ≠ 0) (other : ∀ o ∈ [vThin, vDrain, vMov, vFill], vecOp c.bits ≠ o) :
    c.units = cdiv (vecN c.bits) 128 := by
  simp only [List.forall_mem_cons] at other
  obtain ⟨thin, drain, mov, fill, -⟩ := other
  simp [QCmd.units, QCmd.isMat, vec, thin, drain, mov, fill]

/-- A vector command of 128 elements or less that is neither a THIN, a DRAIN, a MOV nor a FILL has one cut. -/
theorem QCmd.units_block {c : QCmd} (vec : c.q ≠ 0) (other : ∀ o ∈ [vThin, vDrain, vMov, vFill], vecOp c.bits ≠ o)
    (le : vecN c.bits ≤ 128) : c.units = 1 :=
  (QCmd.units_blocks vec other).trans (cdiv_one (vecN_pos _) le)

/-- So has a THIN, a MOV or a FILL of 64 or less. -/
theorem QCmd.units_piece {c : QCmd} (vec : c.q ≠ 0) (op : vecOp c.bits = vThin ∨ vecOp c.bits = vMov ∨ vecOp c.bits = vFill)
    (le : vecN c.bits ≤ 64) : c.units = 1 := by
  refine .trans ?_ (cdiv_one (vecN_pos c.bits) le)
  rcases op with op | op | op <;> simp [QCmd.units, QCmd.isMat, vec, op, vThin, vDrain, vMov, vFill]

theorem isElementwise_other {op : Nat} (h : isElementwise op = true) : ∀ o ∈ [vThin, vDrain, vMov, vFill], op ≠ o := by
  have high : op ≤ 0x0B := of_decide_eq_true (Bool.and_eq_true_iff.mp h).2
  have above : ∀ o ∈ [vThin, vDrain, vMov, vFill], 0x0B < o := by decide
  exact fun o mem => (high.trans_lt (above o mem)).ne

theorem isReduction_other {op : Nat} (h : isReduction op = true) : ∀ o ∈ [vThin, vDrain, vMov, vFill], op ≠ o := by
  obtain ⟨-, -, -, thin, drain, mov, fill⟩ := isReduction_codes h
  simp [thin, drain, mov, fill]

/-! ### The obligation -/

/-- Settles O49: a command that starts is run with all that are started; alone, it makes what its cuts make, one after another. -/
theorem matrixAndVectorCommandsStart : Obligations.MatrixAndVectorCommandsStart := by
  intro s u c r clean k off whole _ st started fresh wrote v mem K slot active old holds element enters rowA colB tile record
    density dense hb
  have alone {q : Nat} (head : k.queue q = c :: r) (f : fresh) : s.Alone u q c r :=
    ⟨head, clean, whole, off, ⟨f.1, f.2.1, f.2.2.1, f.2.2.2⟩⟩
  have starts {q : Nat} (head : k.queue q = c :: r) {is : Nat → Bool} (meant : is c.bits = true) : started (s.startCmd u q is) q :=
    have starts := State.startCmd_starts head meant
    ⟨starts.queue, starts.st, starts.frame, starts.count, starts.others, starts.last⟩
  refine ⟨fun head mat => ⟨fun op => ?_, fun op => ?_, fun op => ?_⟩, ?_⟩
  · have meant : (matOp c.bits == matMma) = true := beq_iff_eq.mpr op
    exact ⟨_, rfl, starts (q := 0) head meant, fun f ok => mma_alone (alone head f) mat ok op meant⟩
  · have meant : (matOp c.bits == matMms) = true := beq_iff_eq.mpr op
    exact ⟨_, rfl, starts (q := 0) head meant, fun f ok one => mms_alone (alone head f) mat op one meant⟩
  · have meant : (matOp c.bits == matClose) = true := beq_iff_eq.mpr op
    refine ⟨_, rfl, starts (q := 0) head meant, fun f => ⟨_, close_alone (alone head f) mat op meant, rfl, rfl, ?_⟩⟩
    exact State.activeBank_flipped f.2.2.2 ((State.startMat_changes ..).elsewhere .accBank1 (by decide))
      (close_alone (alone head f) mat op meant) rfl
  · intro op n fmt from_ mode word draw xs ys elementwise converted reduced optimized thinned drained
    have one {q : Nat} (head : k.queue q = c :: r) (vec : c.q ≠ 0) {is : Nat → Bool} (meant : is c.bits = true) (f : fresh)
        (units : c.units = 1) (drain : op ≠ vDrain) {ws : List (Nat × Nat × List Byte)}
        (writes : (onlyCut (s.starting u c) (s.lsStands u) st).writes = ws) : wrote (s.startCmd u q is) ws :=
      ((alone head f).oneCut vec units drain meant).trans writes
    have later {q : Nat} (lane : c.q = q + 1) : c.q ≠ 0 := lane ▸ Nat.succ_ne_zero q
    refine ⟨fun (head : k.queue 1 = c :: r) lane => ?_, fun (head : k.queue 2 = c :: r) lane => ?_⟩ <;> have vec := later lane
    · refine ⟨?_, ?_, fun op_ => ?_, fun op_ => ?_, fun op_ => ?_, fun op_ => ?_⟩
      · have each {o : Nat} (group : isElementwise o = true) (op_ : op = o) : Completes (.next (s.startVec u o) : Res) fun t =>
            started t 1 ∧ (fresh → n ≤ 128 → wrote t elementwise) := by
          have other := isElementwise_other group
          have meant : (vecOp c.bits == o) = true := beq_iff_eq.mpr op_
          rw [s.startVec_first u (other _ (by simp)) (other _ (by simp))]
          rw [← op_] at group other
          exact ⟨_, rfl, starts head meant, fun f le => one head vec meant f (QCmd.units_block vec other le) (other _ (by simp))
            (onlyCut_elementwise st group le)⟩
        simp only [List.forall_mem_cons]
        exact ⟨each rfl, each rfl, each rfl, each rfl, each rfl, each rfl, each rfl, each rfl, each rfl, each rfl, each rfl,
          List.forall_mem_nil _⟩
      · have each {o : Nat} (group : isReduction o = true) (op_ : op = o) : Completes (.next (s.startVec u o) : Res) fun t =>
            started t 1 ∧ (fresh → wrote t reduced) := by
          have other := isReduction_other group
          have meant : (vecOp c.bits == o) = true := beq_iff_eq.mpr op_
          rw [s.startVec_first u (other _ (by simp)) (other _ (by simp))]
          rw [← op_] at group other
          have units : (s.starting u c).cmd.units = cdiv n 128 := QCmd.units_blocks vec other
          refine ⟨_, rfl, starts head meant, fun f => ((alone head f).reduces vec group meant).trans ?_⟩
          rw [reduceWrite, units]
          rfl
        simp only [List.forall_mem_cons]
        exact ⟨each rfl, each rfl, each rfl, each rfl, List.forall_mem_nil _⟩
      · have code : vecOp c.bits = vCvt := op_
        have meant : (vecOp c.bits == vCvt) = true := beq_iff_eq.mpr code
        exact ⟨_, rfl, starts head meant, fun f le => one head vec meant f (QCmd.units_block vec (by rw [code]; decide) le)
          (by rw [op_]; decide) (onlyCut_cvt st code le)⟩
      · have code : vecOp c.bits = vOpt := op_
        have meant : (vecOp c.bits == vOpt) = true := beq_iff_eq.mpr code
        exact ⟨_, rfl, starts head meant, fun f le => one head vec meant f (QCmd.units_block vec (by rw [code]; decide) le)
          (by rw [op_]; decide) (onlyCut_opt st code le)⟩
      · have code : vecOp c.bits = vThin := op_
        have meant : (vecOp c.bits == vThin) = true := beq_iff_eq.mpr code
        exact ⟨_, rfl, starts head meant, fun f le => one head vec meant f (QCmd.units_piece vec (.inl code) le)
          (by rw [op_]; decide) (onlyCut_thin st code le)⟩
      · have code : vecOp c.bits = vDrain := op_
        have meant : (vecOp c.bits == vDrain) = true := beq_iff_eq.mpr code
        exact ⟨_, rfl, starts head meant, fun f => (alone head f).drains vec code meant⟩
    · refine ⟨fun op_ => ?_, fun op_ => ?_⟩
      · have code : vecOp c.bits = vMov := op_
        have meant : (vecOp c.bits == vMov) = true := beq_iff_eq.mpr code
        exact ⟨_, rfl, starts head meant, fun f le => one head vec meant f (QCmd.units_piece vec (.inr (.inl code)) le)
          (by rw [op_]; decide) (onlyCut_mov st code le)⟩
      · have code : vecOp c.bits = vFill := op_
        have meant : (vecOp c.bits == vFill) = true := beq_iff_eq.mpr code
        exact ⟨_, rfl, starts head meant, fun f le => one head vec meant f (QCmd.units_piece vec (.inr (.inr code)) le)
          (by rw [op_]; decide) (onlyCut_fill st code le)⟩

end Sys2Proof.Machine
end
section
/-!
SUPPORT. Faults of a tile die's memory as its registers show them (spec/11_memory_and_pools.md, R271, R275, R291), and the
search for the lowest number that is free.
-/

namespace Sys2Proof.Machine

/-! ### Fields of a word put together -/

theorem wfld_or (x y : Word) (hi lo : Nat) : wfld (x ||| y) hi lo = wfld x hi lo ||| wfld y hi lo := by
  rw [wfld, nbits, BitVec.toNat_or, Nat.shiftRight_or_distrib, Nat.or_mod_two_pow]
  rfl

theorem wfld_zero (hi lo : Nat) : wfld 0 hi lo = 0 := by simp [wfld, nbits]

theorem setFld_zero (hi lo v : Nat) : setFld 0 hi lo v = atFld hi lo v := by simp [setFld]

theorem wfld_atFld_same {hi lo : Nat} (top : hi < 32) (v : Nat) : wfld (atFld hi lo v) hi lo = v % 2 ^ (hi + 1 - lo) := by
  rw [← setFld_zero, wfld_setFld_mod top]

theorem wfld_atFld_other {hi lo hi' lo' : Nat} (top : hi < 32) (apart : hi < lo' ∨ hi' < lo) (v : Nat) :
    wfld (atFld hi lo v) hi' lo' = 0 := by
  rw [← setFld_zero, wfld_setFld_other top apart, wfld_zero]

/-! ### The lowest number that satisfies a predicate -/

theorem leastBelow_some {n k : Nat} {p : Nat → Bool} (lt : k < n) (holds : p k = true) (first : ∀ x < k, p x = false) :
    leastBelow n p = some k :=
  List.find?_range_eq_some.mpr ⟨holds, List.mem_range.mpr lt, fun x below => by simp [first x below]⟩

theorem leastBelow_none {n : Nat} {p : Nat → Bool} (none_ : ∀ x < n, p x = false) : leastBelow n p = none :=
  List.find?_range_eq_none.mpr fun x below => by simp [none_ x below]

/-! ### The record of a fault (R291) -/

theorem State.memRecord_cause (s : State) (n code job agent kind addr : Nat) :
    (s.memRecord n code job agent kind addr).bit (R.tdMemcause n) (if code = fcEccUe then 2 else 1) = true :=
  State.bit_raise_same _ _ (by split <;> decide)

theorem State.memRecord_word {s : State} {n : Nat} (empty : s.reg (R.tdMemfault0 n) = 0) (code job agent kind addr : Nat) :
    (s.memRecord n code job agent kind addr).reg (R.tdMemfault0 n)
      = atFld 31 24 code ||| atFld 23 12 job ||| atFld 11 9 agent ||| atFld 8 8 kind := by
  have away {k : Nat} (other : k ≠ 0x4) : tdBase n + k ≠ tdBase n + 0x4 := fun h => other (Nat.add_left_cancel h)
  unfold State.memRecord
  rw [State.reg_raise_other _ _ (away (k := 0x0) (by decide)), if_pos empty,
    State.reg_setReg_other _ _ (away (k := 0xc) (by decide)), State.reg_setReg_other _ _ (away (k := 0x8) (by decide)),
    State.reg_setReg_same]

/-- A die that holds no record takes one with the code and the agent of the access. -/
theorem State.memRecord_fields {s : State} {n code agent : Nat} (empty : s.reg (R.tdMemfault0 n) = 0) (byte : code < 256)
    (three : agent < 8) (job kind addr : Nat) : let t := s.memRecord n code job agent kind addr
    t.fld (R.tdMemfault0 n) 31 24 = code ∧ t.fld (R.tdMemfault0 n) 11 9 = agent := by
  intro t
  have word := State.memRecord_word empty code job agent kind addr
  simp only [t, State.fld, word, wfld_or]
  constructor
  · rw [wfld_atFld_same (by decide), wfld_atFld_other (by decide) (by decide), wfld_atFld_other (by decide) (by decide),
      wfld_atFld_other (by decide) (by decide)]
    simpa using Nat.mod_eq_of_lt byte
  · rw [wfld_atFld_other (hi := 31) (by decide) (by decide), wfld_atFld_other (hi := 23) (by decide) (by decide),
      wfld_atFld_same (by decide), wfld_atFld_other (by decide) (by decide)]
    simpa using Nat.mod_eq_of_lt three

/-- A fault that ends its job is in the registers what its record is. -/
theorem State.memFault_regs (s : State) (n code job agent kind addr : Nat) :
    (s.memFault n code job agent kind addr).regs = (s.memRecord n code job agent kind addr).regs :=
  (State.owe_changes ..).elsewhere .regs (by decide)

end Sys2Proof.Machine
end
section
/-!
SUPPORT. The buffer pool manager (spec/11_memory_and_pools.md, R286 to R290; spec/00_scope.md, R9): obligation O55.
-/

namespace Sys2Proof.Machine

/-! ### Handles (Table 11.7) -/

theorem wfld_handleOf_pool {k : Nat} (pool : k < 8) (i : Nat) : wfld (handleOf k i) 23 21 = k := by
  rw [handleOf, wfld_or, wfld_atFld_same (by decide), wfld_atFld_other (by decide) (by decide)]
  simpa using Nat.mod_eq_of_lt pool

theorem wfld_handleOf_index (k i : Nat) : wfld (handleOf k i) 16 0 = i % 2 ^ 17 := by
  rw [handleOf, wfld_or, wfld_atFld_other (by decide) (by decide), wfld_atFld_same (by decide), Nat.zero_or]

theorem wfld_handleOf_code (k i : Nat) : wfld (handleOf k i) 31 24 = 0 := by
  rw [handleOf, wfld_or, wfld_atFld_other (by decide) (by decide), wfld_atFld_other (by decide) (by decide), Nat.zero_or]

/-! ### Enabling (R286) -/

/-- Each pool's MINFREE starts at its count. -/
theorem State.startMinfree_reg (l : List Nat) (s : State) :
    let t := l.foldl (fun s k => s.setReg (R.bpmPoolMinfree k) (BitVec.ofNat 32 (s.poolCount k))) s
    (∀ r : Reg, (∀ k ∈ l, (R.bpmPoolMinfree k).addr ≠ r.addr) → t.reg r = s.reg r)
      ∧ ∀ k ∈ l, t.reg (R.bpmPoolMinfree k) = BitVec.ofNat 32 (s.poolCount k) := by
  induction l generalizing s with
  | nil => exact ⟨fun _ _ => rfl, List.forall_mem_nil _⟩
  | cons a l ih =>
    obtain ⟨others, own⟩ := ih (s.setReg (R.bpmPoolMinfree a) (BitVec.ofNat 32 (s.poolCount a)))
    have counts (k : Nat) : (s.setReg (R.bpmPoolMinfree a) (BitVec.ofNat 32 (s.poolCount a))).poolCount k = s.poolCount k :=
      congrArg (wfld · 16 0) (s.reg_setReg_other _ (by simp only [R.bpmPoolMinfree, R.bpmPoolCount]; omega))
    refine ⟨fun r apart => ?_, fun k mem => ?_⟩
    · exact (others r fun k mem => apart k (.tail _ mem)).trans (s.reg_setReg_other _ (apart a (.head _)))
    · by_cases later : k ∈ l
      · rw [← counts k]
        exact own k later
      · obtain rfl : k = a := (List.mem_cons.mp mem).resolve_right later
        refine (others _ fun x mem same => later ?_).trans (State.reg_setReg_same ..)
        obtain rfl : k = x := by simp only [R.bpmPoolMinfree] at same; omega
        exact mem

section
variable {s : State} {w : Word} (en : w.getLsbD 0 = true) (off : s.bit R.bpmCtl 0 = false)
include en off

theorem State.writeBpmCtl_enables (legal : s.carvingLegal = true) : let t := s.writeBpmCtl w
    t.bit R.bpmCtl 0 = true ∧ t.poolUsed = []
      ∧ ∀ p < 8, t.reg (R.bpmPoolMinfree p) = BitVec.ofNat 32 (s.poolCount p) := by
  intro t
  let u := State.raise { s with poolUsed := [] } R.bpmCtl 0
  have run : t = (List.range 8).foldl (fun s k => s.setReg (R.bpmPoolMinfree k) (BitVec.ofNat 32 (s.poolCount k))) u := by
    simp only [t, State.writeBpmCtl, wbit_eq, en, off, legal, u, Bool.not_true, Bool.false_eq_true, if_false]
  obtain ⟨others, own⟩ := State.startMinfree_reg (List.range 8) u
  rw [← run] at others own
  have counts (k : Nat) : u.poolCount k = s.poolCount k :=
    congrArg (wfld · 16 0) (State.reg_raise_other _ 0 (by simp only [R.bpmCtl, R.bpmPoolCount]; omega))
  refine ⟨?_, ?_, fun p pool => counts p ▸ own p (List.mem_range.mpr pool)⟩
  · rw [State.bit, others R.bpmCtl fun k _ => by simp only [R.bpmCtl, R.bpmPoolMinfree]; omega]
    exact State.bit_raise_same _ _ (by decide)
  · have kept : Changes [.regs] u t := run ▸ .foldl (.refl _ u) fun v k => v.setReg_changes ..
    exact kept.elsewhere .poolUsed (by decide)

theorem State.writeBpmCtl_refuses (illegal : s.carvingLegal = false) : s.writeBpmCtl w = s.raise R.bpmCause 3 := by
  simp [State.writeBpmCtl, wbit_eq, en, off, illegal]

end

/-! ### Allocation (R287) -/

/-- The smallest existing pool whose buffers hold `size` bytes, where the BPM is enabled. -/
def State.poolFor (s : State) (size : Nat) : Option Nat :=
  if s.bit R.bpmCtl 0 ∧ size ≠ 0 then leastBelow 8 fun k => s.poolCount k != 0 && size ≤ poolSize k else none

/-- The lowest free buffer of a pool. -/
def State.lowestFree (s : State) (k : Nat) : Option Nat := leastBelow (s.poolCount k) fun i => !s.poolUsed.contains (k, i)

theorem State.poolBase_congr {s t : State} {p : Nat} (lo : t.reg (R.bpmPoolBaseLo p) = s.reg (R.bpmPoolBaseLo p))
    (hi : t.reg (R.bpmPoolBaseHi p) = s.reg (R.bpmPoolBaseHi p)) : t.poolBase p = s.poolBase p := by
  rw [State.poolBase, State.reg64, lo, hi]
  rfl

/-- What an allocation leaves that took buffer `i` of pool `k`. -/
structure State.Takes (s : State) (k i : Nat) (t : State) : Prop where
  frame : Changes [.regs, .poolUsed] s t
  used : t.poolUsed = s.poolUsed ++ [(k, i)]
  free : (k, i) ∉ s.poolUsed
  base : ∀ p, t.poolBase p = s.poolBase p

section
variable {s : State} {size : Nat}

theorem State.allocate_denied (unfit : s.poolFor size = none) : s.allocate size = (s, .denied) := by
  rw [State.poolFor] at unfit
  simp only [State.allocate, unfit]

theorem State.allocate_empty {k : Nat} (pool : s.poolFor size = some k) (full : s.lowestFree k = none) :
    ∃ t, s.allocate size = (State.raise t R.bpmCause 0, .empty) ∧ Changes [.regs] s t := by
  rw [State.poolFor] at pool
  rw [State.lowestFree] at full
  simp only [State.allocate, pool, full]
  exact ⟨_, rfl, .ite (.refl _ s) (State.count_changes ..)⟩

theorem State.allocate_takes {k i : Nat} (pool : s.poolFor size = some k) (lowest : s.lowestFree k = some i) :
    ∃ t, s.allocate size = (t, .ok (handleOf k i)) ∧ s.Takes k i t := by
  have free : (k, i) ∉ s.poolUsed := by simpa using List.find?_some lowest
  have frame := s.allocate_changes size
  rw [State.poolFor] at pool
  rw [State.lowestFree] at lowest
  simp only [State.allocate, pool, lowest] at frame ⊢
  have counted (c : Prop) [Decidable c] (u : State) (w : Word) (p : Nat) :
      (if c then u.setReg (R.bpmPoolMinfree k) w else u).poolBase p = u.poolBase p := by
    split
    · exact State.poolBase_congr (u.reg_setReg_other _ (by simp only [R.bpmPoolMinfree, R.bpmPoolBaseLo]; omega))
        (u.reg_setReg_other _ (by simp only [R.bpmPoolMinfree, R.bpmPoolBaseHi]; omega))
    · rfl
  have marked (c : Prop) [Decidable c] (u : State) (p : Nat) : (if c then u.raise R.bpmCause 2 else u).poolBase p = u.poolBase p := by
    split
    · exact State.poolBase_congr (u.reg_raise_other _ (by simp only [R.bpmCause, R.bpmPoolBaseLo]; omega))
        (u.reg_raise_other _ (by simp only [R.bpmCause, R.bpmPoolBaseHi]; omega))
    · rfl
  exact ⟨_, rfl, frame, by split <;> split <;> rfl, free, fun p => (marked ..).trans (counted ..)⟩

theorem State.unfit_iff {p : Nat} :
    (s.poolCount p != 0 && decide (size ≤ poolSize p)) = false ↔ s.poolCount p = 0 ∨ 256 * 4 ^ p < size := by
  rw [Bool.and_eq_false_iff, bne_eq_false_iff_eq, decide_eq_false_iff_not, Nat.not_le, poolSize]

theorem State.poolFor_smallest {k : Nat} (on : s.bit R.bpmCtl 0 = true) (some_ : 0 < size) (pool : k < 8)
    (fits : size ≤ 256 * 4 ^ k) (exists_ : s.poolCount k ≠ 0) (smaller : ∀ p < k, s.poolCount p = 0 ∨ 256 * 4 ^ p < size) :
    s.poolFor size = some k := by
  rw [State.poolFor, if_pos ⟨on, some_.ne'⟩]
  refine leastBelow_some pool ?_ fun p below => State.unfit_iff.mpr (smaller p below)
  rw [Bool.and_eq_true, bne_iff_ne, decide_eq_true_iff]
  exact ⟨exists_, fits⟩

theorem State.poolFor_unfit (none_ : ∀ p < 8, s.poolCount p = 0 ∨ 256 * 4 ^ p < size) : s.poolFor size = none := by
  rw [State.poolFor]
  split
  · exact leastBelow_none fun p pool => State.unfit_iff.mpr (none_ p pool)
  · rfl

end

/-- The answer of an allocation stands in BPM_RSP (R290). -/
theorem State.requestAlloc_eq (s : State) (size : Nat) : s.requestAlloc size = (s.allocate size).1.setReg R.bpmRsp
    (match (s.allocate size).2 with
      | .ok h => h
      | .empty => atFld 31 24 fcPoolEmpty
      | .denied => atFld 31 24 fcDenied) := by
  unfold State.requestAlloc
  split <;> rename_i e <;> rw [e]

theorem State.requestAlloc_takes {s : State} {size k i : Nat} (fits : s.poolFor size = some k) (lowest : s.lowestFree k = some i) :
    (s.requestAlloc size).poolUsed = s.poolUsed ++ [(k, i)] ∧ (s.requestAlloc size).reg R.bpmRsp = handleOf k i := by
  obtain ⟨t, run, takes⟩ := State.allocate_takes fits lowest
  rw [s.requestAlloc_eq, run, State.setReg_poolUsed]
  exact ⟨takes.used, State.reg_setReg_same ..⟩

theorem State.requestAlloc_empty {s : State} {size k : Nat} (fits : s.poolFor size = some k) (full : s.lowestFree k = none) :
    let t := s.requestAlloc size
    t.poolUsed = s.poolUsed ∧ t.fld R.bpmRsp 31 24 = fcPoolEmpty ∧ t.bit R.bpmCause 0 = true := by
  obtain ⟨t, run, frame⟩ := State.allocate_empty fits full
  intro u
  have answer : u = (t.raise R.bpmCause 0).setReg R.bpmRsp (atFld 31 24 fcPoolEmpty) := by simp only [u, s.requestAlloc_eq, run]
  rw [answer]
  refine ⟨frame.elsewhere .poolUsed (by decide), ?_, ?_⟩
  · rw [State.fld, State.reg_setReg_same]
    exact wfld_atFld_same (by decide) fcPoolEmpty
  · rw [State.bit_setReg_other _ _ (by decide)]
    exact State.bit_raise_same _ _ (by decide)

theorem State.requestAlloc_denied {s : State} {size : Nat} (unfit : s.poolFor size = none) :
    s.requestAlloc size = s.setReg R.bpmRsp (atFld 31 24 fcDenied) := by
  simp only [s.requestAlloc_eq, State.allocate_denied unfit]

/-! ### Freeing (R288) -/

/-- A buffer that an allocation gave out and no free has given back. -/
def State.Held (s : State) (h : Word) : Prop :=
  s.bit R.bpmCtl 0 = true ∧ handleIndex h < s.poolCount (handlePool h) ∧ (handlePool h, handleIndex h) ∈ s.poolUsed

section
variable {s : State} {h : Word}

theorem State.held_iff : s.Held h ↔ (s.bit R.bpmCtl 0 && handleIndex h < s.poolCount (handlePool h)
    && s.poolUsed.contains (handlePool h, handleIndex h)) = true := by
  simp [State.Held, and_assoc]

theorem State.freeBuffer_held (held : s.Held h) :
    s.freeBuffer h = { s with poolUsed := s.poolUsed.filter (· != (handlePool h, handleIndex h)) } :=
  if_pos (State.held_iff.mp held)

theorem State.freeBuffer_error (error : ¬s.Held h) : s.freeBuffer h = (s.countSat R.bpmFreeerr).raise R.bpmCause 1 :=
  if_neg (mt State.held_iff.mpr error)

theorem State.requestFree_held (held : s.Held h) :
    s.requestFree h = (s.freeBuffer h).setReg R.bpmRsp (handleOf (handlePool h) (handleIndex h)) :=
  if_pos (State.held_iff.mp held)

theorem State.requestFree_error (error : ¬s.Held h) :
    s.requestFree h = ((s.freeBuffer h).setReg R.bpmRsp (Config.freeWord s.freeCtr &&& 0xFFE1FFFF)).drawn :=
  if_neg (mt State.held_iff.mpr error)

theorem mem_freed (l : List (Nat × Nat)) (x b : Nat × Nat) : b ∈ l.filter (· != x) ↔ b ∈ l ∧ b ≠ x := by simp

end

/-- Settles O55: the enable by what its write leaves, an allocation by its pool and buffer, a free by whether the buffer is held. -/
theorem buffersAreAllocatedAndFreed : Obligations.BuffersAreAllocatedAndFreed := by
  intro s w h size k i on booted
  have answers : s.answers .bpm = true := State.answers_of_populated on booted rfl
  have written (t : State) {isIt : Bool} (is : isIt = true) := State.onWrite_of_answers answers is t
  refine ⟨fun en off legal => ?enables, fun en off illegal => ?refuses,
    fun enabled some_ pool fits exists_ smaller => ⟨fun below free first => ?takes, fun full => ?empty⟩, fun unfit => ?denied,
    fun enabled below used => ?freed, fun error => ?error, fun pool => ?minfree⟩
  case enables =>
    obtain ⟨bit, used, minfree⟩ := State.writeBpmCtl_enables en off legal
    exact .of_eq (congrArg Host.Outcome.next (written _ ((wbit_eq w 0).trans en))) ⟨bit, used, minfree, s.writeBpmCtl_changes w⟩
  case refuses =>
    refine .of_eq (congrArg Host.Outcome.next ((written _ ((wbit_eq w 0).trans en)).trans
      (State.writeBpmCtl_refuses en off illegal))) ⟨?_, State.bit_raise_same _ _ (by decide), State.raise_changes ..⟩
    rw [State.bit_raise_elsewhere _ _ (by decide), off]
  case takes =>
    have lowest : s.lowestFree k = some i := leastBelow_some below (by simpa using free) fun x lt => by simpa using first x lt
    have smallest := State.poolFor_smallest enabled some_ pool fits exists_ smaller
    obtain ⟨taken, rsp⟩ := State.requestAlloc_takes smallest lowest
    refine .of_eq (congrArg Host.Outcome.next (written _ rfl)) ⟨taken, ?_, ?_, ?_⟩ <;> rw [State.fld, rsp]
    exacts [wfld_handleOf_pool pool i, wfld_handleOf_index k i, wfld_handleOf_code k i]
  case empty =>
    have none_ : s.lowestFree k = none := leastBelow_none fun x below => by simpa using full x below
    have smallest := State.poolFor_smallest enabled some_ pool fits exists_ smaller
    exact .of_eq (congrArg Host.Outcome.next (written _ rfl)) (State.requestAlloc_empty smallest none_)
  case denied =>
    have run := State.requestAlloc_denied (State.poolFor_unfit unfit)
    refine .of_eq (congrArg Host.Outcome.next ((written _ rfl).trans run)) ⟨rfl, ?_⟩
    rw [State.fld, State.reg_setReg_same]
    exact wfld_atFld_same (by decide) fcDenied
  case freed =>
    have held : s.Held h := ⟨enabled, below, used⟩
    have run := State.requestFree_held held
    rw [State.freeBuffer_held held] at run
    refine .of_eq (congrArg Host.Outcome.next ((written _ rfl).trans run)) ⟨?_, fun b => mem_freed ..⟩
    exact (Changes.poolUsed.mono (by decide)).step (State.setReg_changes ..) (by decide)
  case error =>
    have run := State.requestFree_error error
    rw [State.freeBuffer_error error] at run
    have counted : Changes [.regs] s (s.countSat R.bpmFreeerr) := s.countSat_changes _
    have raised := counted.step (State.raise_changes _ R.bpmCause 1) (by decide)
    refine .of_eq (congrArg Host.Outcome.next ((written _ rfl).trans run)) ⟨raised.elsewhere .poolUsed (by decide), ?_, ?_, fun room => ?_⟩
    · exact (State.bit_setReg_other _ _ (by decide) 1).trans (State.bit_raise_same _ _ (by decide))
    · exact ((raised.mono (by decide)).step (State.setReg_changes ..) (by decide)).step (State.drawn_changes _) (by decide)
    · refine (State.reg_setReg_other _ _ (by decide)).trans ((State.reg_raise_other _ _ (by decide)).trans ?_)
      rw [State.countSat, if_neg room]
      exact State.reg_setReg_same ..
  case minfree =>
    refine .of_eq (congrArg Host.Outcome.next (State.onRead_of_answers answers (decide_eq_true pool) _)) ⟨rfl, ?_, ?_⟩
    · exact State.reg_setReg_same ..
    · exact (Changes.busData.mono (by decide)).step (State.setReg_changes ..) (by decide)

end Sys2Proof.Machine
end
section
/-!
SUPPORT. FABRIC_READ (spec/11_memory_and_pools.md, R284; spec/15_management_interface.md, R357, R362): obligation O26.
-/

namespace Sys2Proof.Machine

/-! ### The request (R284, R362) -/

theorem State.fabricReadChecks_pass {s : State} {m : Nat} (length : s.argLength m = 24) (slot : s.argNum m 0 1 < 64)
    (zero : s.argNum m 1 3 = 0) (rank : s.argNum m 4 4 < 2 ^ 20) (some_ : 1 ≤ s.argNum m 8 4) (most : s.argNum m 8 4 ≤ 16777216)
    (va : s.argNum m 12 8 < 2 ^ 48) (staged : s.argNum m 20 4 + s.argNum m 8 4 ≤ 0xFFF000) (idle : s.mgmt.fabricRead = none)
    (known : s.active.translate (s.argNum m 0 1) (s.argNum m 4 4) ≠ none) :
    s.fabricReadChecks m = Checks.plain none [.running] := by
  have args : firstBad [(0, s.argLength m != 24 || 63 < s.argSlot m), (1, s.argNum m 1 3 != 0), (4, 2 ^ 20 ≤ s.argNum m 4 4),
      (8, s.argNum m 8 4 == 0 || 16777216 < s.argNum m 8 4), (12, 2 ^ 48 ≤ s.argNum m 12 8),
      (20, stageEnd < s.argNum m 20 4 + s.argNum m 8 4)] = none := by
    unfold State.argSlot stageEnd
    simp only [firstBad, Option.map_eq_none_iff, List.find?_eq_none, List.forall_mem_cons, Bool.or_eq_true, bne_iff_ne, beq_iff_eq,
      decide_eq_true_eq]
    refine ⟨by omega, by omega, by omega, by omega, by omega, by omega, List.forall_mem_nil _⟩
  have translates : (s.active.translate (s.argSlot m) (s.argNum m 4 4)).isNone = false := Option.isNone_eq_false_iff.mpr
    (Option.isSome_iff_ne_none.mpr known)
  simp only [State.fabricReadChecks, args, idle, translates]
  rfl

/-- One READ_REQ toward the rank enters the attachment of the management die, and the read is the one in progress. -/
theorem State.fabricReadStart_asks (s : State) (m : Nat) :
    (∃ r, (s.fabricReadStart m).mgmt.fabricRead = some r ∧ r.m = m ∧ r.len = s.argNum m 8 4 ∧ r.got = 0 ∧ r.va = s.argNum m 12 8)
      ∧ ∃ p ∈ (s.fabricReadStart m).attach, p.src = s.mgmtSlot ∧ p.xlate = some (s.argNum m 0 1) ∧ p.pkt.hdr.op = opReadReq
        ∧ p.pkt.hdr.dstRank = s.argNum m 4 4 ∧ p.pkt.hdr.addr = s.argNum m 12 8 ∧ p.pkt.hdr.msgBytes = s.argNum m 8 4 :=
  ⟨⟨_, rfl, rfl, rfl, rfl, rfl⟩, _, List.mem_concat_self, rfl, rfl, rfl, rfl, rfl, rfl⟩

/-! ### The end of a read -/

/-- No read from the fabric is in progress. -/
def State.readEnded (s : State) : State := { s with mgmt := { s.mgmt with fabricRead := none } }

theorem State.fabricRead_reply (s : State) (m status detail : Nat) (res : List Byte) :
    (s.reply m status detail res).mgmt.fabricRead = s.mgmt.fabricRead := by
  simp only [State.reply, State.raise, State.lower, State.setReg_mgmt]

/-- The state with the bytes of the packet in the staging window. -/
def State.staged (s : State) (r : FabricRead) (a : Arrival) (rest : List Arrival) : State :=
  (s.arrived a rest).writeBar2 (r.off + a.pkt.hdr.byteOff) a.pkt.data

theorem Changes.firmware {w : List Field} {s t : State} (h : Changes w s t) (hw : Field.dev ∉ w) : t.firmware = s.firmware := by
  rw [State.firmware, h.elsewhere .dev hw]
  rfl

/-- The packet that brings the last bytes of the read in progress. -/
structure State.LastRsp (s : State) (r : FabricRead) (a : Arrival) (rest : List Arrival) : Prop where
  runs : s.firmware = true
  reads : s.mgmt.fabricRead = some r
  inbox : s.inbox = a :: rest
  slot : a.slot = s.mgmtSlot
  op : a.pkt.hdr.op = opReadRsp
  unit : a.unit = 0
  job : r.job = a.pkt.job
  va : r.va = a.pkt.hdr.addr
  flow : r.flow = a.pkt.hdr.flow
  last : r.got + a.pkt.data.length = r.len
  inside : a.pkt.hdr.byteOff + a.pkt.data.length ≤ r.len

theorem State.LastRsp.readRsp {s : State} {r : FabricRead} {a : Arrival} {rest : List Arrival} (h : s.LastRsp r a rest) :
    s.readRsp = (s.staged r a rest).readEnded.ok r.m [] := by
  have frame := s.arrived_changes a rest
  have reads : (State.commitArrival { s with inbox := rest } a).mgmt.fabricRead = some r :=
    (congrArg Mgmt.fabricRead (frame.elsewhere .mgmt (by decide))).trans h.reads
  have runs : (State.commitArrival { s with inbox := rest } a).firmware = true :=
    (frame.firmware (by decide)).trans h.runs
  have taken := State.takeArrival_first h.inbox h.slot (p := fun a => a.pkt.hdr.op == opReadRsp && a.unit == 0)
    (by simp [h.op, h.unit])
  simp only [State.readRsp, taken, reads]
  rw [if_neg (by simp [runs, h.job, h.va, h.flow, h.inside]), if_neg h.last.not_lt, if_neg h.last.not_lt]
  rfl

/-- Settles O26: the request by its work once the checks have passed, the data by what the last packet leaves, the timeout by its
answer. -/
theorem fabricReadsAreServed : Obligations.FabricReadsAreServed := by
  refine fun s m => ⟨fun asked state slot zero rank some_ most va staged idle known => ?asks,
    fun r a rest runs reads inbox at_ op unit job va flow box last inside => ?data, fun r runs reads box => ?late⟩
  case asks =>
    obtain ⟨-, -, busy, -, -, -, -, -, length⟩ := (s.asked_iff ..).mp asked
    have plain : s.begun.fabricReadChecks m = .plain none [.running] :=
      State.fabricReadChecks_pass length slot zero rank some_ most va staged idle known
    have frame : Changes [.mgmt, .attach, .nextId] s (s.begun.fabricReadStart m) :=
      (s.begun_changes.mono (by decide)).step (State.fabricReadStart_changes ..) (by decide)
    obtain ⟨read, request⟩ := s.begun.fabricReadStart_asks m
    refine .of_eq (congrArg Host.Outcome.next (State.command_plain asked (by simp [state]) plain _))
      ⟨?_, frame.mono (by decide), read, request⟩
    exact (frame.bit (by decide) ..).trans busy
  case data =>
    have run := State.LastRsp.readRsp ⟨runs, reads, inbox, at_, op, unit, job, va, flow, last, inside⟩
    have answer := State.ok_changes (s.staged r a rest).readEnded r.m []
    refine .of_eq (congrArg Host.Outcome.next run) ⟨?_, ?_, ?_, State.reply_answered _ box (by decide) (by decide) (by decide)⟩
    · rw [answer.elsewhere .bar2 (by decide)]
      exact rdBytes_wrBytes_same ..
    · exact (answer.elsewhere .inbox (by decide)).trans (s.arrived_inbox a rest)
    · exact State.fabricRead_reply ..
  case late =>
    have run : (if s.firmware then s.fabricReadLate else s) = s.readEnded.reply r.m stFaulted 0 [] := by
      rw [if_pos runs, State.fabricReadLate, reads]
      rfl
    refine .of_eq (congrArg Host.Outcome.next run) ⟨?_, State.reply_answered _ box (by decide) (by decide) (by decide), ?_⟩
    · exact State.fabricRead_reply ..
    · exact (Changes.mgmt.mono (by decide)).step (State.reply_changes ..) (by decide)

end Sys2Proof.Machine
end
section
/-!
SUPPORT. Memory operations that arrive at a tile die (spec/11_memory_and_pools.md, R271, R274, R275, R279, R280, R284;
spec/03_crossbar.md, R66): obligations O51 and O52.
-/

namespace Sys2Proof.Machine

/-! ### Translation where no older one is cached (R274, R276) -/

theorem State.translateVa_cold {s : State} (cold : s.atu = []) (n j va : Nat) (write : Bool) :
    ∃ c, s.translateVa n j va write = ({ s with atu := c }, s.walk j va write) := by
  unfold State.translateVa
  extract_lets page now leaf mine
  rw [cold, List.find?_nil]
  cases leaf with
  | none => exact ⟨s.atu, rfl⟩
  | some e =>
    dsimp only
    split
    · exact ⟨_, rfl⟩
    · exact ⟨s.atu, rfl⟩

/-- What a range within one page comes to: what the walk answers. -/
def Walk.range (va len : Nat) : Walk → VaRes
  | .ok a => .ok [(a, len)]
  | .deny => .refused va
  | .remote leaf => .remote leaf va
  | .ue e => .ue e

theorem State.vaRange_cold {s : State} {va len : Nat} (cold : s.atu = []) (some_ : 0 < len) (page : va % 2 ^ 21 + len ≤ 2 ^ 21)
    (n j : Nat) (write : Bool) : ∃ c, s.vaRange n j va len write = ({ s with atu := c }, (s.walk j va write).range va len) := by
  obtain ⟨c, step⟩ := State.translateVa_cold cold n j va write
  refine ⟨c, ?_⟩
  rw [State.vaRange, vaPieces_single some_ page, State.translateRange, step]
  cases s.walk j va write <;> rfl

/-! ### Stores without an uncorrectable word (R269) -/

theorem State.writeGood_clean {s : State} (clean : s.ue = []) (a : Nat) (bs : List Byte) : s.writeGood a bs = s.dpaStored a bs := by
  simp [State.writeGood, State.healed, State.dpaStored, clean]

theorem State.writeWords_clean {s : State} (clean : s.ue = []) (a : Nat) (bs : List Byte) :
    s.writeWords [(a, bs.length)] bs = (s.dpaStored a bs, none) := by
  simp [State.writeWords, State.uePartial, State.writeGood_clean, clean]

theorem State.readPieces_clean {s : State} (clean : s.ue = []) (a n : Nat) : s.readPieces [(a, n)] = .ok (rdBytes s.dpa a n) := by
  simp only [State.readPieces, List.findSome?_cons, List.findSome?_nil, State.ueIn_clean clean, List.flatMap_cons, List.flatMap_nil,
    List.append_nil]

/-! ### An arrival that is stored (R280, R284) -/

section
variable {s : State} {j : Nat} {a : Arrival} (slot : s.active.jobSlot a.pkt.job = some j) (clean : s.ue = []) (cold : s.atu = [])
  (some_ : 0 < a.pkt.data.length) (page : (a.pkt.hdr.addr + a.pkt.hdr.byteOff) % 2 ^ 21 + a.pkt.data.length ≤ 2 ^ 21)
include slot cold some_ page

include clean in
theorem State.storeArrival_stores {d : Nat} {home : Bool}
    (walk : s.walk j (a.pkt.hdr.addr + a.pkt.hdr.byteOff) true = .ok d)
    (here : home = true → ∀ e, s.leafOf j (a.pkt.hdr.addr + a.pkt.hdr.byteOff) = some e → leafRh e = false) (n : Nat) :
    ∃ c, s.storeArrival n a home = State.dpaStored { s with atu := c } d a.pkt.data := by
  obtain ⟨c, range⟩ := State.vaRange_cold cold some_ page n j true
  rw [walk] at range
  have own : (home && ((s.leafOf j (a.pkt.hdr.addr + a.pkt.hdr.byteOff)).map leafRh).getD false) = false := by
    cases home with
    | false => rfl
    | true =>
      cases leaf : s.leafOf j (a.pkt.hdr.addr + a.pkt.hdr.byteOff) with
      | none => rfl
      | some e => exact here rfl e leaf
  have same : State.leafOf { s with atu := c } = s.leafOf := rfl
  have stored := State.writeWords_clean (s := { s with atu := c }) clean d a.pkt.data
  refine ⟨c, ?_⟩
  simp only [State.storeArrival, slot, range, Walk.range, same, own, Bool.false_eq_true, if_false, stored]

theorem State.storeArrival_denied (walk : s.walk j (a.pkt.hdr.addr + a.pkt.hdr.byteOff) true = .deny) (n : Nat) :
    ∃ c, s.storeArrival n a false
      = State.vaDenied { s with atu := c } n a.pkt.job 4 (a.pkt.hdr.addr + a.pkt.hdr.byteOff) := by
  obtain ⟨c, range⟩ := State.vaRange_cold cold some_ page n j true
  rw [walk] at range
  exact ⟨c, by simp only [State.storeArrival, slot, range, Walk.range, Bool.false_eq_true, if_false]⟩

end

/-- The state with an arrival taken, its data stored and counted as committed, and translations cached. -/
def State.wrote (s : State) (a : Arrival) (rest : List Arrival) (c : List AtuEntry) (d : Nat) : State :=
  State.commitArrival (State.dpaStored { s with inbox := rest, atu := c } d a.pkt.data) a

theorem State.wrote_stores (s : State) (a : Arrival) (rest : List Arrival) (c : List AtuEntry) (d : Nat) :
    let t := s.wrote a rest c d
    t.inbox = rest ∧ rdBytes t.dpa d a.pkt.data.length = a.pkt.data
      ∧ (∀ x, x < d ∨ d + a.pkt.data.length ≤ x → rdByte t.dpa x = rdByte s.dpa x)
      ∧ Changes [.inbox, .dpa, .ue, .atu, .commits] s t := by
  intro t
  let u : State := State.dpaStored { s with inbox := rest, atu := c } d a.pkt.data
  have committed : Changes [.commits] u t := State.commitArrival_changes ..
  have dpa : t.dpa = wrBytes s.dpa d a.pkt.data := committed.elsewhere .dpa (by decide)
  have taken : Changes [.inbox, .atu] s { s with inbox := rest, atu := c } :=
    (Changes.inbox.mono (by decide)).step (Changes.atu (s := { s with inbox := rest })) (by decide)
  have stored : Changes [.inbox, .atu, .dpa, .ue] s u := (taken.mono (by decide)).step (State.dpaStored_changes ..) (by decide)
  refine ⟨committed.elsewhere .inbox (by decide), ?_, fun x outside => ?_, (stored.mono (by decide)).step committed (by decide)⟩
  · rw [dpa, rdBytes_wrBytes_same]
  · rw [dpa, rdByte_wrBytes_outside _ _ _ _ outside]

/-- A refused translation of a die's memory is recorded there, and nothing is stored (R275). -/
theorem State.vaDenied_records (s : State) (n job agent va : Nat) :
    (s.vaDenied n job agent va).bit (R.tdMemcause n) 1 = true ∧ (s.vaDenied n job agent va).dpa = s.dpa := by
  refine ⟨?_, (State.vaDenied_changes ..).elsewhere .dpa (by decide)⟩
  exact (State.bit_of_regs (State.memFault_regs ..) _ _).trans (State.memRecord_cause s n fcDenied job agent 0 va)

/-- Settles O51: the three kinds of arrival by what `storeArrival` leaves. -/
theorem packetsWriteWhereTheyTranslate : Obligations.PacketsWriteWhereTheyTranslate := by
  intro s n j d a rest inbox at_ _ slot clean cold va len some_ page stored
  let u : State := { s with inbox := rest }
  refine ⟨fun op walk => ?write, fun op walk own => ?pageWb, fun op walk => ?denied⟩
  case write =>
    have taken := State.takeArrival_first inbox at_ (p := fun a => a.pkt.hdr.op == opWrite || a.pkt.hdr.op == opCircWrite) (by simp [op])
    obtain ⟨c, run⟩ := State.storeArrival_stores (s := u) (home := false) slot clean cold some_ page walk nofun n
    have all : s.inboundWrite n = s.wrote a rest c d := by
      simp only [State.inboundWrite, taken]
      exact congrArg (State.commitArrival · a) run
    exact .of_eq (congrArg Host.Outcome.next all) (s.wrote_stores a rest c d)
  case pageWb =>
    have taken := State.takeArrival_first inbox at_ (p := fun a => a.pkt.hdr.op == opPageWb) (by simp [op])
    obtain ⟨c, run⟩ := State.storeArrival_stores (s := u) (home := true) slot clean cold some_ page walk (fun _ => own) n
    have all : s.pageWb n = s.wrote a rest c d := by
      simp only [State.pageWb, taken]
      exact congrArg (State.commitArrival · a) run
    exact .of_eq (congrArg Host.Outcome.next all) (s.wrote_stores a rest c d)
  case denied =>
    have taken := State.takeArrival_first inbox at_ (p := fun a => a.pkt.hdr.op == opWrite || a.pkt.hdr.op == opCircWrite) (by simp [op])
    obtain ⟨c, run⟩ := State.storeArrival_denied (s := u) slot cold some_ page walk n
    let v : State := State.vaDenied { u with atu := c } n a.pkt.job 4 va
    have all : s.inboundWrite n = v.commitArrival a := by
      simp only [State.inboundWrite, taken]
      exact congrArg (State.commitArrival · a) run
    obtain ⟨cause, dpa⟩ := State.vaDenied_records { u with atu := c } n a.pkt.job 4 va
    have committed : Changes [.commits] v (v.commitArrival a) := State.commitArrival_changes ..
    refine .of_eq (congrArg Host.Outcome.next all) ⟨?_, (committed.elsewhere .dpa (by decide)).trans dpa,
      (committed.bit (by decide) ..).trans cause⟩
    exact (committed.elsewhere .inbox (by decide)).trans ((State.vaDenied_changes ..).elsewhere .inbox (by decide))

/-! ### Requests (R66, R279, R284) -/

theorem takeFirst_none {p : α → Bool} {l : List α} (none_ : ∀ a ∈ l, p a = false) : takeFirst p l = none := by
  induction l with
  | nil => rfl
  | cons a l ih =>
    obtain ⟨head, tail⟩ := List.forall_mem_cons.mp none_
    simp [takeFirst, head, ih tail]

theorem State.takeArrival_none {s : State} {slot : Nat} {p : Arrival → Bool} (none_ : ∀ a, p a = false) :
    s.takeArrival slot p = none := by
  rw [State.takeArrival, takeFirst_none fun a _ => by simp [none_ a]]
  rfl

theorem chunks_nil (n f : Nat) : chunks n f ([] : List α) = [] := by cases f <;> rfl

/-- A message that fits a packet is one. -/
theorem messageParts_single {bs : List Byte} (some_ : 0 < bs.length) (fits : bs.length ≤ 15328) : messageParts bs = [(0, bs)] := by
  have whole : chunks 15328 (bs.length / 15328 + 1) bs = [bs] := by
    rw [chunks, if_neg (by simpa using List.ne_nil_of_length_pos some_), List.take_of_length_le fits, List.drop_eq_nil_of_le fits,
      chunks_nil]
  rw [messageParts, whole]
  rfl

/-- The packets of a page in which no word is uncorrectable. -/
theorem State.pageParts_clean {s : State} (clean : s.ue = []) (a n : Nat) :
    s.pageParts [(a, n)] = (messageParts (rdBytes s.dpa a n), none) := by
  rw [State.pageParts, State.readPieces_clean clean]

section
variable {s : State} {n j d : Nat} {a : Arrival} {rest : List Arrival} (inbox : s.inbox = a :: rest) (at_ : a.slot = s.tileSlot n)
  (slot : s.active.jobSlot a.pkt.job = some j) (clean : s.ue = []) (cold : s.atu = [])
  (walk : s.walk j a.pkt.hdr.addr false = .ok d) (on : s.xbarOn = true)
include inbox at_ slot clean cold walk on

theorem State.inboundReadReq_answers (op : a.pkt.hdr.op = opReadReq) (some_ : 0 < a.pkt.hdr.msgBytes)
    (most : a.pkt.hdr.msgBytes ≤ 16777216) (page : a.pkt.hdr.addr % 2 ^ 21 + a.pkt.hdr.msgBytes ≤ 2 ^ 21) :
    ∃ c, s.inboundReadReq n = State.sendParts { s with inbox := rest, atu := c } (s.tileSlot n) .served (some a.pkt.hdr.srcDev) none
      { s.answerHdr opReadRsp a with msgBytes := a.pkt.hdr.msgBytes } 1 a.pkt.tc a.pkt.job
      (messageParts (rdBytes s.dpa d a.pkt.hdr.msgBytes)) := by
  have taken := State.takeArrival_first inbox at_ (p := fun a => s.xbarOn && a.pkt.hdr.op == opReadReq) (by simp [on, op])
  obtain ⟨c, range⟩ := State.vaRange_cold (s := { s with inbox := rest }) cold some_ page n j false
  rw [show State.walk { s with inbox := rest } j a.pkt.hdr.addr false = .ok d from walk] at range
  have read := State.readPieces_clean (s := { s with inbox := rest, atu := c }) clean d a.pkt.hdr.msgBytes
  refine ⟨c, ?_⟩
  simp only [State.inboundReadReq, taken]
  rw [if_neg (by omega)]
  simp only [slot, range, Walk.range, read]
  rfl

theorem State.servePage_answers (op : a.pkt.hdr.op = opPageFetch) (page : a.pkt.hdr.addr % 2 ^ 21 = 0)
    (own : (s.leafOf j a.pkt.hdr.addr).map leafRh = some false) :
    ∃ c, s.servePage n = State.sendParts { s with inbox := rest, atu := c } (s.tileSlot n) .served (some a.pkt.hdr.srcDev) none
      { s.answerHdr opPageData a with msgBytes := 0x200000 } 1 a.pkt.tc a.pkt.job (messageParts (rdBytes s.dpa d 0x200000)) := by
  have taken := State.takeArrival_first inbox at_ (p := fun a => s.xbarOn && a.pkt.hdr.op == opPageFetch) (by simp [on, op])
  obtain ⟨c, range⟩ := State.vaRange_cold (s := { s with inbox := rest }) (va := a.pkt.hdr.addr) (len := 0x200000) cold (by decide)
    (by omega) n j false
  rw [show State.walk { s with inbox := rest } j a.pkt.hdr.addr false = .ok d from walk] at range
  have parts := State.pageParts_clean (s := { s with inbox := rest, atu := c }) clean d 0x200000
  have same : State.leafOf { s with inbox := rest, atu := c } = s.leafOf := rfl
  refine ⟨c, ?_⟩
  simp only [State.servePage, taken, slot, range, Walk.range, same, own, page, Option.getD_some, bne_self_eq_false, Bool.or_self,
    Bool.false_eq_true, if_false, parts]
  rfl

end

/-- Settles O52: the one packet of a READ_RSP, and the packets of a page, by the message that is sent. -/
theorem requestsAreAnsweredWithMemory : Obligations.RequestsAreAnsweredWithMemory := by
  intro s n j d a rest inbox at_ _ slot clean cold walk
  refine ⟨fun off => ⟨?_, ?_⟩, fun on op some_ fits page => ?read, fun on op page own => ?fetch⟩
  · exact congrArg Host.Outcome.next (by simp only [State.inboundReadReq, off, State.takeArrival_none, Bool.false_and, implies_true])
  · exact congrArg Host.Outcome.next (by simp only [State.servePage, off, State.takeArrival_none, Bool.false_and, implies_true])
  case read =>
    have length := length_rdBytes s.dpa d a.pkt.hdr.msgBytes
    obtain ⟨c, run⟩ := State.inboundReadReq_answers inbox at_ slot clean cold walk on op some_ (fits.trans (by decide)) page
    rw [messageParts_single (by rwa [length]) (by rwa [length])] at run
    exact .of_eq (congrArg Host.Outcome.next run) ⟨rfl, rfl, _, rfl, rfl, rfl, rfl, rfl, rfl, rfl⟩
  case fetch =>
    obtain ⟨c, run⟩ := State.servePage_answers inbox at_ slot clean cold walk on op page own
    obtain ⟨ps, attach, data, each⟩ := State.sendParts_sends { s with inbox := rest, atu := c } (s.tileSlot n) .served
      (some a.pkt.hdr.srcDev) none { s.answerHdr opPageData a with msgBytes := 0x200000 } 1 a.pkt.tc a.pkt.job
      (rdBytes s.dpa d 0x200000)
    have sent := State.sendParts_changes { s with inbox := rest, atu := c } (s.tileSlot n) .served
      (some a.pkt.hdr.srcDev) none { s.answerHdr opPageData a with msgBytes := 0x200000 } 1 a.pkt.tc a.pkt.job
      (messageParts (rdBytes s.dpa d 0x200000))
    refine .of_eq (congrArg Host.Outcome.next run) ⟨sent.elsewhere .inbox (by decide), sent.elsewhere .dpa (by decide), ps, attach,
      fun p mem => ?_, data⟩
    obtain ⟨src, ⟨off, hdr⟩, -, -⟩ := each p mem
    rw [src, hdr]
    exact ⟨rfl, rfl, rfl, rfl⟩

end Sys2Proof.Machine
end
section
/-!
SUPPORT. The pager of a die (spec/11_memory_and_pools.md, R273, R275, R278 to R283): obligation O53.
-/

namespace Sys2Proof.Machine

/-! ### A page's state in its leaf (R275) -/

/-- No uncorrectable word is one that a byte of a sound 64-bit word touches. -/
theorem State.untouched_of_sound {s : State} {x : Nat} (sound : s.ueIn .dpa x 8 = none) {e : MemSpace × Nat} (mem : e ∈ s.ue) :
    (e.1 == .dpa && x / 8 ≤ e.2 / 8 && e.2 / 8 ≤ (x + 1 - 1) / 8) = false := by
  have apart : ∀ e ∈ s.ue, e.1 = .dpa → x / 8 ≤ e.2 / 8 → (x + 7) / 8 < e.2 / 8 := by
    simpa [State.ueIn, List.find?_eq_none] using sound
  have far := apart e mem
  by_contra touched
  simp only [Bool.not_eq_false, Bool.and_eq_true, beq_iff_eq, decide_eq_true_eq] at touched
  obtain ⟨⟨hbm, low⟩, high⟩ := touched
  have := far hbm low
  omega

/-- The state with rs of the leaf at `x` replaced, and the uncorrectable words that are left. -/
def State.leafSet (s : State) (x rs : Nat) (u : List (MemSpace × Nat)) : State :=
  { s with dpa := wrBytes s.dpa x [BitVec.ofNat 8 (s.dpaDword x % 256 / 4 * 4 + rs)], ue := u }

theorem State.leafSet_changes (s : State) (x rs : Nat) (u : List (MemSpace × Nat)) : Changes [.dpa, .ue] s (s.leafSet x rs u) :=
  have written : Changes [.dpa] s { s with dpa := wrBytes s.dpa x [BitVec.ofNat 8 (s.dpaDword x % 256 / 4 * 4 + rs)] } := .dpa
  (written.mono (by decide)).step .ue (by decide)

theorem State.leafSet_outside (s : State) (x rs : Nat) (u : List (MemSpace × Nat)) {y : Nat} (outside : y < x ∨ x + 8 ≤ y) :
    rdByte (s.leafSet x rs u).dpa y = rdByte s.dpa y :=
  rdByte_wrBytes_outside _ _ _ _ (outside.imp_right fun above => (Nat.add_le_add_left (by decide : 1 ≤ 8) x).trans above)

theorem State.leafRs_leafSet (s : State) (x : Nat) {rs : Nat} (two : rs < 4) (u : List (MemSpace × Nat)) :
    leafRs ((s.leafSet x rs u).dpaDword x) = rs := by
  have split (m : Mem) : leNat (rdBytes m x 8) = (rdByte m x).toNat + 256 * leNat (rdBytes m (x + 1) 7) := rfl
  have first (b : Byte) : rdByte (wrBytes s.dpa x [b]) x = b := rdByte_wrBytes_inside s.dpa x [b] 0 Nat.zero_lt_one
  rw [State.dpaDword, State.leafSet, split, first, BitVec.toNat_ofNat, leafRs, nbits, Nat.shiftRight_zero]
  omega

theorem State.setRs_sound {s : State} {x : Nat} (sound : s.ueIn .dpa x 8 = none) (slot rs : Nat) :
    ∃ u, s.setRs slot x rs = s.leafSet x rs u := by
  have none_ : s.ue.filter (fun e => e.1 == .dpa && x / 8 ≤ e.2 / 8 && e.2 / 8 ≤ (x + 1 - 1) / 8
      && !(x ≤ e.2 / 8 * 8 && e.2 / 8 * 8 + 8 ≤ x + 1)) = [] :=
    List.filter_eq_nil_iff.mpr fun e mem => by rw [State.untouched_of_sound sound mem]; simp
  have whole : s.uePartial .dpa x 1 = none := by
    rw [State.uePartial, if_neg Nat.one_ne_zero, Option.map_eq_none_iff, List.find?_eq_none]
    exact List.filter_eq_nil_iff.mp none_
  refine ⟨(s.healed .dpa x 1).ue, ?_⟩
  simp only [State.setRs, State.putReported, State.writeWords, List.length_singleton, List.findSome?_cons, List.findSome?_nil, whole,
    List.foldl_cons, List.foldl_nil, List.take_one, List.head?_cons, Option.toList_some, State.writeGood, none_]
  rfl

/-- A leaf that a walk finds stands in a sound word (R269). -/
theorem State.leafAddr_sound {s : State} {j va x : Nat} (leaf : s.leafAddr j va = some x) : s.ueIn .dpa x 8 = none := by
  unfold State.leafAddr at leaf
  split at leaf
  · cases leaf
  · obtain ⟨t2, -, step⟩ := Option.bind_eq_some_iff.mp leaf
    obtain ⟨t3, -, last⟩ := Option.bind_eq_some_iff.mp step
    dsimp only at last
    split at last
    next found =>
      obtain rfl := Option.some.inj last
      exact Option.isNone_iff_eq_none.mp (Bool.and_eq_true_iff.mp found).2
    · cases last

/-! ### Fetches that start (R278) -/

theorem State.nextFetch_idle {s : State} (idle : s.fetches = []) (n : Nat) : s.nextFetch n = s := by
  rw [State.nextFetch, idle]
  rfl

/-- The pager of die `n` has no fetch of the job slot. -/
def State.NoFetch (s : State) (n slot : Nat) : Prop := ∀ f ∈ s.fetches, ¬(f.n = n ∧ f.slot = slot)

theorem State.NoFetch.startFetch {s : State} {n slot : Nat} (none_ : s.NoFetch n slot) {f : Fetch} (mem : f ∈ s.fetches) :
    (s.startFetch f).NoFetch n slot := by
  let others := s.fetches.filter fun g => !(g.n == f.n && g.slot == f.slot && g.va == f.va)
  have rest : ∀ g ∈ others, ¬(g.n = n ∧ g.slot = slot) := fun g own => none_ g (List.mem_filter.mp own).1
  unfold State.NoFetch State.startFetch
  dsimp only
  split
  · have refused : Changes [.cores, .regs, .owed] { s with fetches := others }
        (f.waiters.foldl (fun s w => s.refuseStalled w.1 w.2)
          (State.vaDenied { s with fetches := others } f.n (s.slotJob f.slot) 5 f.va)) :=
      ((State.vaDenied_changes ..).mono (by decide)).foldl fun u w => (State.refuseStalled_changes ..).mono (by decide)
    rw [refused.elsewhere .fetches (by decide)]
    exact rest
  · rw [(State.attachPkt_changes ..).elsewhere .fetches (by decide), (State.setRs_changes ..).elsewhere .fetches (by decide)]
    intro g own
    obtain other | started := List.mem_append.mp own
    · exact rest g other
    · rw [List.mem_singleton.mp started]
      exact none_ f mem

theorem State.NoFetch.startFetches {n slot m : Nat} (fuel : Nat) {s : State} (none_ : s.NoFetch n slot) :
    (State.startFetches m fuel s).NoFetch n slot := by
  induction fuel generalizing s with
  | zero => exact none_
  | succ fuel ih =>
    rw [State.startFetches]
    cases waits : s.waitingFetch m with
    | none => exact none_
    | some f =>
      refine ih (none_.startFetch ?_)
      unfold State.waitingFetch at waits
      split at waits
      · cases waits
      · exact List.mem_of_find?_eq_some waits

/-! ### Data of a page (R273, R278, R279) -/

theorem State.putReported_clean {s : State} (clean : s.ue = []) (at_ : Nat) (bs : List Byte) (job agent : Nat) :
    s.putReported at_ bs job agent = s.dpaStored at_ bs := by
  rw [State.putReported, State.writeWords_clean clean]

/-- A packet of page data first in the inbox of the die's pager, and the one fetch, which it belongs to. -/
structure State.PageData (s : State) (n : Nat) (a : Arrival) (rest : List Arrival) (f : Fetch) : Prop where
  inbox : s.inbox = a :: rest
  slot : a.slot = s.tileSlot n
  op : a.pkt.hdr.op = opPageData
  fetches : s.fetches = [f]
  die : f.n = n
  active : f.active = true
  va : f.va = a.pkt.hdr.addr
  job : s.slotJob f.slot = a.pkt.job
  sound : s.ue = []

/-- The state with the packet taken and its data in the frame. -/
def State.pageStored (s : State) (a : Arrival) (rest : List Arrival) (f : Fetch) : State :=
  State.dpaStored { s with inbox := rest } (f.frame + a.pkt.hdr.byteOff) a.pkt.data

theorem State.pageStored_changes (s : State) (a : Arrival) (rest : List Arrival) (f : Fetch) :
    Changes [.inbox, .dpa, .ue] s (s.pageStored a rest f) :=
  (Changes.inbox.mono (by decide)).step (State.dpaStored_changes ..) (by decide)

section
variable {s : State} {n : Nat} {a : Arrival} {rest : List Arrival} {f : Fetch} (h : s.PageData n a rest f)
include h

theorem State.PageData.taken : s.takeArrival (s.tileSlot n) (fun a => a.pkt.hdr.op == opPageData) = some (a, { s with inbox := rest }) :=
  State.takeArrival_first h.inbox h.slot (by simp [h.op])

theorem State.PageData.mine : (f.n == n && f.active && f.va == a.pkt.hdr.addr && s.slotJob f.slot == a.pkt.job) = true := by
  simp [h.die, h.active, h.va, h.job]

theorem State.PageData.found :
    s.fetches.find? (fun g => g.n == n && g.active && g.va == a.pkt.hdr.addr && s.slotJob g.slot == a.pkt.job) = some f := by
  simp only [h.fetches, List.find?_cons, h.mine]

theorem State.PageData.refused (place : s.dpaSpan (f.frame + a.pkt.hdr.byteOff) a.pkt.data.length = false) : s.pageData n
    = (State.memFault { s with inbox := rest } n fcDenied a.pkt.job 5 1 (f.frame + a.pkt.hdr.byteOff)).commitArrival a := by
  have outside : State.dpaSpan { s with inbox := rest } = s.dpaSpan := rfl
  have same : State.slotJob { s with inbox := rest } = s.slotJob := rfl
  simp only [State.pageData, h.taken, same, h.found, outside, place, Bool.not_false, if_true]

variable (place : s.dpaSpan (f.frame + a.pkt.hdr.byteOff) a.pkt.data.length = true)
include place

theorem State.PageData.stored : s.pageData n =
    let mine (g : Fetch) : Bool := g.n == n && g.active && g.va == a.pkt.hdr.addr && s.slotJob g.slot == a.pkt.job
    let t := s.pageStored a rest f
    let got := f.got + a.pkt.data.length
    (if got < 0x200000 then { t with fetches := updFirst mine (fun g => { g with got := got }) t.fetches }
      else ((State.setRs { t with fetches := t.fetches.filter fun g => !mine g } f.slot f.leafAt 2).incCtr
        (R.tdPgfetchLo n)).nextFetch n).commitArrival a := by
  have inside : State.dpaSpan { s with inbox := rest } = s.dpaSpan := rfl
  have same : State.slotJob { s with inbox := rest } = s.slotJob := rfl
  have put : State.putReported { s with inbox := rest } (f.frame + a.pkt.hdr.byteOff) a.pkt.data a.pkt.job 5
      = s.pageStored a rest f := State.putReported_clean (s := { s with inbox := rest }) h.sound ..
  simp only [State.pageData, h.taken, same, h.found, inside, place, put, Bool.not_true,
    Bool.false_eq_true, if_false]

theorem State.PageData.more (left : f.got + a.pkt.data.length < 0x200000) : s.pageData n
    = State.commitArrival { s.pageStored a rest f with fetches := [{ f with got := f.got + a.pkt.data.length }] } a := by
  have only : (s.pageStored a rest f).fetches = [f] := h.fetches
  rw [h.stored place]
  simp only [if_pos left, only, updFirst, h.mine, if_true]

theorem State.PageData.last (whole : f.got + a.pkt.data.length = 0x200000) : ∃ u, s.pageData n = State.commitArrival
    ((State.leafSet { s.pageStored a rest f with fetches := [] } f.leafAt 2 u).incCtr (R.tdPgfetchLo n)) a := by
  have only : (s.pageStored a rest f).fetches = [f] := h.fetches
  obtain ⟨u, marked⟩ := State.setRs_sound (s := { s.pageStored a rest f with fetches := [] })
    (State.ueIn_clean rfl .dpa f.leafAt 8) f.slot 2
  refine ⟨u, ?_⟩
  rw [h.stored place]
  simp only [if_neg whole.not_lt, only, List.filter_cons, h.mine, Bool.not_true, Bool.false_eq_true, if_false, List.filter_nil,
    marked]
  rw [State.nextFetch_idle rfl]

end

/-! ### Release (R280, R281) -/

theorem State.releaseDone_readOnly {s : State} {x : Nat} (sound : s.ueIn .dpa x 8 = none) (noWb : s.wbs = []) (idle : s.fetches = [])
    (n slot va : Nat) : ∃ u, s.releaseDone n slot va x false = s.leafSet x 0 u := by
  obtain ⟨u, marked⟩ := State.setRs_sound sound slot 0
  refine ⟨u, ?_⟩
  have same : (s.leafSet x 0 u).wbs.filter (fun w => !(w.n == n && w.slot == slot && w.va == va)) = s.wbs := by
    rw [show (s.leafSet x 0 u).wbs = [] from noWb, noWb]
    rfl
  simp only [State.releaseDone, marked, Bool.false_eq_true, if_false, same]
  exact State.nextFetch_idle (s := { s.leafSet x 0 u with wbs := s.wbs }) idle n

theorem State.releasePage_readOnly {s : State} {n slot va x : Nat} (leaf : s.leafAddr slot (va - va % 2 ^ 21) = some x)
    (ok : leafOk (s.dpaDword x) = true) (remote : leafRh (s.dpaDword x) = true) (present : leafRs (s.dpaDword x) = 2)
    (readOnly : leafWr (s.dpaDword x) = false) (own : dpaDie (leafFrame (s.dpaDword x)) = n) (noWb : s.wbs = [])
    (idle : s.fetches = []) : ∃ u, s.releasePage n slot va = s.leafSet x 0 u := by
  obtain ⟨u, done⟩ := State.releaseDone_readOnly (State.leafAddr_sound leaf) noWb idle n slot (va - va % 2 ^ 21)
  refine ⟨u, ?_⟩
  simp only [State.releasePage, leaf]
  rw [if_neg (by simp [ok, remote, present, own, noWb]), if_pos (by simp [readOnly]), done]

/-! ### Abort (R283) -/

theorem State.abortPager_ends (s : State) (n slot : Nat) : (s.abortPager n slot).NoFetch n slot
    ∧ ∀ b ∈ (s.abortPager n slot).wbs, ¬(b.n = n ∧ b.slot = slot) := by
  unfold State.abortPager
  extract_lets mine dropped ended gone quiet
  have ends : Changes [.regs, .dpa, .ue, .owed, .cores] dropped ended := by
    refine (Changes.refl _ _).foldl fun u f => Changes.foldl ?_ fun v w => (State.endStalled_changes ..).mono (by decide)
    split
    · exact (State.setRs_changes ..).mono (by decide)
    · exact .refl _ _
  have drops : Changes [.attach, .msgs] ended quiet := (Changes.refl _ _).foldl fun u m => State.dropMsg_changes ..
  constructor
  · refine State.NoFetch.startFetches _ ?_
    intro f mem
    have kept : f ∈ dropped.fetches := by
      rw [← ends.elsewhere .fetches (by decide), ← drops.elsewhere .fetches (by decide)]
      exact mem
    simpa [imp_iff_not_or] using (List.mem_filter.mp kept).2
  · rw [(State.nextFetch_changes ..).elsewhere .wbs (by decide)]
    intro b mem
    simpa [imp_iff_not_or] using (List.mem_filter.mp mem).2

/-- Settles O53: page data by the three ways they can end, a release by the one byte of its leaf, an abort by its filters, which
no fetch that starts afterwards undoes. -/
theorem pagesAreFetchedAndReleased : Obligations.PagesAreFetchedAndReleased := by
  intro s n slot w on booted die
  have answers : s.answers (.td n) = true := State.answers_of_populated on booted (decide_eq_true die)
  have written (t : State) {isIt : Bool} (is : isIt = true) := State.onWrite_of_answers answers is t
  refine ⟨fun a rest f inbox at_ op only own act va job _ sound => ?data,
    fun a rest f inbox at_ op only own act va job _ sound place whole => ?last,
    fun x cmd names leaf ok remote present readOnly own noWb idle => ?release,
    fun va x cmd names pages page leaf ok remote present readOnly own noWb idle => ?releaseAll, fun cmd names => ?abort⟩
  case data =>
    have h : s.PageData n a rest f := ⟨inbox, at_, op, only, own, act, va, job, sound⟩
    refine ⟨fun place left => ?more, fun place => ?refused⟩
    case more =>
      let u : State := { s.pageStored a rest f with fetches := [{ f with got := f.got + a.pkt.data.length }] }
      have committed : Changes [.commits] u (u.commitArrival a) := State.commitArrival_changes ..
      have frame : Changes [.inbox, .dpa, .ue, .fetches] s u :=
        ((s.pageStored_changes a rest f).mono (by decide)).step .fetches (by decide)
      refine .of_eq (congrArg Host.Outcome.next (h.more place left)) ⟨committed.elsewhere .inbox (by decide),
        committed.elsewhere .fetches (by decide), ?_, (frame.mono (by decide)).step committed (by decide)⟩
      rw [committed.elsewhere .dpa (by decide)]
      exact rdBytes_wrBytes_same ..
    case refused =>
      let u : State := { s with inbox := rest }
      let v : State := u.memFault n fcDenied a.pkt.job 5 1 (f.frame + a.pkt.hdr.byteOff)
      have faulted : Changes [.regs, .owed] u v := State.memFault_changes ..
      have committed : Changes [.commits] v (v.commitArrival a) := State.commitArrival_changes ..
      have frame : Changes [.inbox, .regs, .owed] s v := (Changes.inbox.mono (by decide)).step faulted (by decide)
      have regs : (v.commitArrival a).regs = (u.memRecord n fcDenied a.pkt.job 5 1 (f.frame + a.pkt.hdr.byteOff)).regs :=
        (committed.elsewhere .regs (by decide)).trans (State.memFault_regs ..)
      have fld (hi lo : Nat) : (v.commitArrival a).fld (R.tdMemfault0 n) hi lo
          = (u.memRecord n fcDenied a.pkt.job 5 1 (f.frame + a.pkt.hdr.byteOff)).fld (R.tdMemfault0 n) hi lo := by
        rw [State.fld, State.reg, regs]
        rfl
      refine .of_eq (congrArg Host.Outcome.next (h.refused place)) ⟨?_, ?_, (frame.mono (by decide)).step committed (by decide),
        fun empty => ?_⟩
      · exact (committed.elsewhere .inbox (by decide)).trans (faulted.elsewhere .inbox (by decide))
      · exact (State.bit_of_regs regs _ _).trans (State.memRecord_cause (code := fcDenied) ..)
      · rw [fld, fld]
        exact State.memRecord_fields (s := u) empty (by decide) (by decide) ..
  case last =>
    obtain ⟨l, run⟩ := State.PageData.last ⟨inbox, at_, op, only, own, act, va, job, sound⟩ place whole
    let u : State := { s.pageStored a rest f with fetches := [] }
    let v : State := (u.leafSet f.leafAt 2 l).incCtr (R.tdPgfetchLo n)
    have counted : Changes [.cnt] (u.leafSet f.leafAt 2 l) v := State.incCtr_changes ..
    have committed : Changes [.commits] v (v.commitArrival a) := State.commitArrival_changes ..
    refine .of_eq (congrArg Host.Outcome.next run) ⟨?_, ?_, ?_⟩
    · exact (committed.elsewhere .fetches (by decide)).trans (counted.elsewhere .fetches (by decide))
    · rw [State.dpaDword, committed.elsewhere .dpa (by decide), counted.elsewhere .dpa (by decide)]
      exact u.leafRs_leafSet f.leafAt (by decide) l
    · rw [State.ctr, committed.elsewhere .cnt (by decide)]
      exact State.ctr_incCtr_same ..
  case release =>
    obtain ⟨u, run⟩ := State.releasePage_readOnly leaf ok remote present readOnly own noWb idle
    have command : s.writePgcmd n w = s.leafSet x 0 u := by
      rw [State.writePgcmd, if_neg die.not_ge, if_pos cmd, names, run]
    exact .of_eq (congrArg Host.Outcome.next ((written _ (beq_iff_eq.mpr cmd)).trans command))
      ⟨s.leafRs_leafSet x (by decide) u, fun y outside => s.leafSet_outside x 0 u outside, s.leafSet_changes x 0 u⟩
  case releaseAll =>
    have whole : s.leafAddr slot (va - va % 2 ^ 21) = some x := by rw [page]; exact leaf
    obtain ⟨u, run⟩ := State.releasePage_readOnly whole ok remote present readOnly own noWb idle
    have command : s.writePgcmd n w = s.leafSet x 0 u := by
      rw [State.writePgcmd, if_neg die.not_ge, if_neg (by rw [cmd]; decide), if_pos cmd, names, State.releaseJob, pages]
      exact run
    exact .of_eq (congrArg Host.Outcome.next ((written _ (beq_iff_eq.mpr cmd)).trans command)) (s.leafRs_leafSet x (by decide) u)
  case abort =>
    have command : s.writePgcmd n w = s.abortPager n slot := by
      rw [State.writePgcmd, if_neg die.not_ge, if_neg (by rw [cmd]; decide), if_neg (by rw [cmd]; decide), if_pos cmd, names]
    exact .of_eq (congrArg Host.Outcome.next ((written _ (beq_iff_eq.mpr cmd)).trans command)) (s.abortPager_ends n slot)

end Sys2Proof.Machine
end
section
/-!
SUPPORT. Invalidation of translations and the patrol scrub (spec/11_memory_and_pools.md, R269, R271, R272, R276): obligation O54.
-/

namespace Sys2Proof.Machine

/-! ### Invalidation (R276) -/

theorem State.writeAtuInv_slot {s : State} {n : Nat} {w : Word} (die : n < s.tiles) (starts : w.getLsbD 31 = true)
    (one : w.getLsbD 30 = false) : s.writeAtuInv n w = { s with atuBusy := s.atuBusy ++ [(n, wfld w 5 0)] } := by
  rw [State.writeAtuInv, wbit_eq, wbit_eq, if_pos ⟨starts, die⟩, if_neg (by rw [one]; decide)]

theorem State.atuInvDone_first {s : State} {n slot : Nat} {rest : List (Nat × Nat)} (busy : s.atuBusy = (n, slot) :: rest) :
    s.atuInvDone n = { s with atuBusy := rest, atu := s.atu.filter fun e => !(e.n == n && (slot == 64 || e.slot == slot)) } := by
  simp [State.atuInvDone, takeFirst, busy]

/-- The number that stands for every slot names none, so the filter of one slot leaves the entries of the others. -/
theorem mem_invalidated {n slot : Nat} (one : slot < 64) {atu : List AtuEntry} {e : AtuEntry} :
    e ∈ atu.filter (fun e => !(e.n == n && (slot == 64 || e.slot == slot))) ↔ e ∈ atu ∧ ¬(e.n = n ∧ e.slot = slot) := by
  have some_ : (slot == 64) = false := beq_false_of_ne one.ne
  simp [List.mem_filter, some_, ← imp_iff_not_or]

/-! ### Corrected errors (R269, R366) -/

/-- The errors of a die counted and marked as its cause. -/
def State.correctedHere (s : State) (n k : Nat) : State := (s.addCtr (R.tdEccCeLo n) k).raise (R.tdMemcause n) 0

theorem State.corrected_some {s : State} {n k : Nat} (some_ : 0 < k) : s.corrected n k =
    if (s.correctedHere n k).firmware then (s.correctedHere n k).raise R.devEvent 6 else s.correctedHere n k :=
  if_neg some_.ne'

theorem State.correctedHere_firmware (s : State) (n k : Nat) : (s.correctedHere n k).firmware = s.firmware :=
  Changes.firmware (w := [.cnt, .regs]) (Changes.step (Changes.mono (State.addCtr_changes ..) (by decide))
    (State.raise_changes ..) (by decide)) (by decide)

theorem State.corrected_ctr {s : State} {n k : Nat} (some_ : 0 < k) :
    (s.corrected n k).ctr (R.tdEccCeLo n) = s.ctr (R.tdEccCeLo n) + BitVec.ofNat 64 k := by
  rw [State.corrected_some some_]
  split <;> exact State.ctr_addCtr_same ..

theorem State.corrected_cause {s : State} {n k : Nat} (some_ : 0 < k) : (s.corrected n k).bit (R.tdMemcause n) 0 = true := by
  rw [State.corrected_some some_]
  split
  · rw [State.bit_raise_elsewhere _ _ (by simp only [R.devEvent, R.tdMemcause, tdBase]; omega)]
    exact State.bit_raise_same _ _ (by decide)
  · exact State.bit_raise_same _ _ (by decide)

theorem State.corrected_event {s : State} {n k : Nat} (some_ : 0 < k) (runs : s.firmware = true) :
    (s.corrected n k).bit R.devEvent 6 = true := by
  rw [State.corrected_some some_, if_pos ((State.correctedHere_firmware ..).trans runs)]
  exact State.bit_raise_same _ _ (by decide)

/-! ### The patrol scrub (R271, R272) -/

theorem State.scrub_sound {s : State} {n : Nat} (die : n < s.tiles) (sound : s.ue = []) (k : Nat) :
    s.scrub n k [] = s.corrected n k := by
  have left : (s.corrected n k).ue = [] := ((State.corrected_changes ..).elsewhere .ue (by decide)).trans sound
  rw [State.scrub, List.foldl_nil, if_neg die.not_ge]
  simp only [left, List.filter_nil, List.foldl_nil, ite_self]

/-- A word of HBM that decays under the scrub is recorded with no job and the scrub's agent. -/
theorem State.scrub_decayed {s : State} {n a : Nat} (die : n < s.tiles) (scrubs : s.bit (R.tdScrub n) 31 = true)
    (sound : s.ue = []) (own : dpaDie a = n) (hbm : dpaRow a = some 0) :
    s.scrub n 0 [(.dpa, a)] = State.dpaFound { s with ue := [(.dpa, a)] } a 6 := by
  have decayed : [(MemSpace.dpa, a)].foldl State.decay s = { s with ue := [(.dpa, a)] } := by
    simp [State.decay, sound]
  have on : State.bit { s with ue := [(.dpa, a)] } (R.tdScrub n) 31 = true := scrubs
  rw [State.scrub, decayed, if_neg (show ¬ State.tiles { s with ue := [(.dpa, a)] } ≤ n from die.not_ge)]
  simp [State.corrected, on, own, hbm]

/-- Settles O54: an invalidation by its write and its end, a scrub by the errors it counts and by the word it records. -/
theorem translationsAreInvalidated : Obligations.TranslationsAreInvalidated := by
  refine fun s n slot w on booted die => ⟨fun starts one names => ?starts, fun rest below busy => ?ends,
    fun k some_ sound => ?counts, fun a scrubs sound own hbm empty => ?records⟩
  case starts =>
    have answers : s.answers (.td n) = true := State.answers_of_populated on booted (decide_eq_true die)
    refine .of_eq (congrArg Host.Outcome.next (State.onWrite_of_answers answers rfl _)) ⟨?_, State.writeAtuInv_changes ..⟩
    rw [State.writeAtuInv_slot die starts one, names]
  case ends =>
    exact .of_eq (congrArg Host.Outcome.next (State.atuInvDone_first busy))
      ⟨rfl, fun _ => mem_invalidated below, State.atuInvDone_first busy ▸ s.atuInvDone_changes n⟩
  case counts =>
    refine .of_eq (congrArg Host.Outcome.next ((if_neg on).trans (State.scrub_sound die sound k)))
      ⟨State.corrected_ctr some_, State.corrected_cause some_, State.corrected_event some_, State.corrected_changes ..⟩
  case records =>
    refine .of_eq (congrArg Host.Outcome.next ((if_neg on).trans (State.scrub_decayed die scrubs sound own hbm))) ?_
    subst own
    obtain ⟨code, agent⟩ := State.memRecord_fields (s := { s with ue := [(.dpa, a)] }) (n := dpaDie a) (code := fcEccUe)
      (agent := 6) empty (by decide) (by decide) 0 1 (a / 8 * 8)
    exact ⟨State.memRecord_cause (code := fcEccUe) .., code, agent, (State.memRecord_changes ..).elsewhere .dpa (by decide)⟩

end Sys2Proof.Machine
end
section
/-!
SUPPORT. Serving frames (spec/11_memory_and_pools.md, R290; spec/04_links_and_routing.md, R110, R112, R113;
spec/05_scheduling_and_telemetry.md, R115 to R117): obligation O41.
-/

namespace Sys2Proof.Machine

/-! ### The response headers (R112) -/

/-- Every header length that R112 lists leaves room before byte 80 for the length and the lane. -/
theorem Rx.length_respHead_le (f : List Byte) : (parseFrame f).respHead.length ≤ 66 := by
  have type_ : (parseFrame f).at_ ≤ 16 := by
    unfold parseFrame
    dsimp only
    split <;> decide
  generalize parseFrame f = r at type_
  by_cases v4 : r.etype = etIp4 <;>
    simp only [Rx.respHead, Rx.dst, Rx.src, Rx.net, v4, if_true, if_false, List.length_append, length_slice] <;> omega

theorem Rx.length_udp (r : Rx) : r.udp.length = r.ulen - 8 := length_slice ..

/-! ### A buffer that is filled (R112, R271) -/

theorem State.writePieces_pair {s : State} (clean : s.ue = []) (a b : Nat) (xs ys : List Byte) :
    s.writePieces [(a, xs.length), (b, ys.length)] (xs ++ ys)
      = .ok { s with dpa := wrBytes (wrBytes s.dpa a xs) b ys, ue := [] } := by
  simp [State.writePieces, State.uePartial, State.healed, clean]

/-- The header length and the first lane at the start of a buffer. -/
def Rx.lead (r : Rx) (lane : Nat) : List Byte := leBytes 1 r.respHead.length ++ leBytes 2 lane

theorem Rx.length_lead (r : Rx) (lane : Nat) : (r.lead lane).length = 3 := by
  simp only [Rx.lead, List.length_append, length_leBytes]

/-- The state with a datagram in its buffer, or the uncorrectable word that kept it out. -/
def State.bufferFilled (s : State) (r : Rx) (h : Word) (lane : Nat) : State :=
  let a := s.bufferAddr h
  match s.writePieces [(a, 3), (a + 80 - r.respHead.length, r.respHead.length + (r.ulen - 8))]
      (leBytes 1 r.respHead.length ++ leBytes 2 lane ++ r.respHead ++ r.udp) with
  | .ok s => s
  | .error w => s.dpaFound w 4

theorem State.bufferFilled_changes (s : State) (r : Rx) (h : Word) (lane : Nat) :
    Changes [.regs, .dpa, .ue] s (s.bufferFilled r h lane) := by
  unfold State.bufferFilled
  extract_lets a
  split
  next stored => exact (State.writePieces_changes stored).mono (by decide)
  · exact (State.dpaFound_changes ..).mono (by decide)

theorem State.bufferFilled_dpa {s : State} (clean : s.ue = []) (r : Rx) (h : Word) (lane : Nat) :
    let a := s.bufferAddr h
    (s.bufferFilled r h lane).dpa
      = wrBytes (wrBytes s.dpa a (r.lead lane)) (a + 80 - r.respHead.length) (r.respHead ++ r.udp) := by
  intro a
  have written := State.writePieces_pair clean a (a + 80 - r.respHead.length) (r.lead lane) (r.respHead ++ r.udp)
  rw [Rx.length_lead, List.length_append, Rx.length_udp, ← List.append_assoc] at written
  have run : s.bufferFilled r h lane = match Except.ok (ε := Nat) { s with
        dpa := wrBytes (wrBytes s.dpa a (r.lead lane)) (a + 80 - r.respHead.length) (r.respHead ++ r.udp), ue := [] } with
      | .ok s => s
      | .error w => s.dpaFound w 4 := by
    rw [← written]
    rfl
  rw [run]

/-- What a buffer holds: its first three bytes, the response headers up to byte 80, and the payload. -/
theorem rdBytes_buffer (m : Mem) (a : Nat) {pre head udp : List Byte} (three : pre.length = 3) (room : head.length ≤ 66) :
    let t := wrBytes (wrBytes m a pre) (a + 80 - head.length) (head ++ udp)
    rdBytes t a 3 = pre ∧ rdBytes t (a + 80 - head.length) head.length = head ∧ rdBytes t (a + 80) udp.length = udp
      ∧ ∀ x, x < a ∨ a + 80 + udp.length ≤ x → rdByte t x = rdByte m x := by
  intro t
  have payload : a + 80 - head.length + head.length = a + 80 := by omega
  have split : t = wrBytes (wrBytes (wrBytes m a pre) (a + 80 - head.length) head) (a + 80) udp :=
    (wrBytes_append ..).trans (by rw [payload])
  refine ⟨?_, ?_, ?_, fun x outside => ?_⟩
  · rw [rdBytes_wrBytes_outside _ _ _ _ _ (by omega), rdBytes_wrBytes_length _ _ three]
  · rw [split, rdBytes_wrBytes_outside _ _ _ _ _ (by omega), rdBytes_wrBytes_same]
  · rw [split, rdBytes_wrBytes_same]
  · rw [rdByte_wrBytes_outside _ _ _ _ (by rw [List.length_append]; omega), rdByte_wrBytes_outside _ _ _ _ (by omega)]

/-! ### A frame that arrives (R110, R112) -/

theorem State.allocate_ok {s : State} {size : Nat} {h : Word} (ok : (s.allocate size).2 = .ok h) :
    ∃ k i t, h = handleOf k i ∧ s.allocate size = (t, .ok h) ∧ s.Takes k i t := by
  cases pool : s.poolFor size with
  | none => rw [State.allocate_denied pool] at ok; cases ok
  | some k =>
    cases lowest : s.lowestFree k with
    | none =>
      obtain ⟨t, run, -⟩ := State.allocate_empty pool lowest
      rw [run] at ok
      cases ok
    | some i =>
      obtain ⟨t, run, takes⟩ := State.allocate_takes pool lowest
      rw [run] at ok
      obtain rfl : handleOf k i = h := Alloc.ok.inj ok
      exact ⟨k, i, t, rfl, run, takes⟩

/-- The descriptor of an accepted datagram as the dispatcher receives it (R112). -/
def State.described (s : State) (n l : Nat) (r : Rx) (h : Word) : State :=
  { s with dsp := { s.dsp with inbox := s.dsp.inbox
    ++ [{ model := leAt r.udp 3 1, handle := h, lane := 24 * n + l, time := s.replica (portDie n) }] } }

theorem State.acceptDatagram_ok {s t : State} {n l : Nat} {r : Rx} {h : Word} (on : s.xbarOn = true)
    (run : s.allocate (80 + (r.ulen - 8)) = (t, .ok h)) : s.acceptDatagram n l r
      = ((t.bufferFilled r h (24 * n + l)).described n l r h).incCtr (R.portEAcceptLo n l) := by
  simp only [State.acceptDatagram, if_pos on, run]
  rfl

theorem State.described_changes (s : State) (n l : Nat) (r : Rx) (h : Word) : Changes [.dsp] s (s.described n l r h) := .dsp

theorem Changes.replica {w : List Field} {s t : State} (h : Changes w s t) (hw : Field.time ∉ w) (die : Nat) :
    t.replica die = s.replica die := by
  rw [State.replica, h.elsewhere .time hw]
  rfl

section
variable {s : State} {n l j sub : Nat} {f : List Byte} (found : s.subportAt n l = some (j, sub)) (mode : s.slotMode j = 1)
  (up : (s.eth n l).st = .up) (long : 64 ≤ f.length)
include found mode up long

theorem State.receiveFrame_low {x : Nat} (low : s.ethCheckLow n l (parseFrame f) = some x) :
    s.receiveFrame n l f = s.ethDiscard n l x := by
  simp only [State.receiveFrame, found, low]
  exact if_neg (by simp [mode, up, long])

theorem State.receiveFrame_accepted (low : s.ethCheckLow n l (parseFrame f) = none) (ip : (parseFrame f).etype ≠ etArp)
    (na : s.naReply n l (parseFrame f) = none) (high : s.ethCheckHigh n l (parseFrame f) = none) :
    s.receiveFrame n l f = s.acceptDatagram n l (parseFrame f) := by
  simp only [State.receiveFrame, found, low, na, high, if_neg ip]
  exact if_neg (by simp [mode, up, long])

end

/-! ### A response that is selected (R115 to R117) -/

section
variable {s : State} {n l j sub : Nat}

theorem State.ethHead_some {i c : Nat} {h : HeadPkt} (head : s.ethHead n l j sub i c = some h) : s.xbarOn = true ∧ h.vc = 0 := by
  unfold State.ethHead at head
  split at head
  · cases head
  · dsimp only at head
    split at head
    next eligible =>
      obtain rfl := Option.some.inj head
      simp only [Bool.and_eq_true] at eligible
      exact ⟨eligible.1.1.1.1, rfl⟩
    · cases head

/-- drr_pick picks the head packet of a queue. -/
theorem State.drr_head {c : Nat} {head : Nat → Option HeadPkt} {fuel : Nat} {g g' : Egress} {h : HeadPkt}
    (pick : s.drr n l j sub c head fuel g = some (h, g')) : ∃ i, head i = some h := by
  induction fuel generalizing g with
  | zero => cases pick
  | succ fuel ih =>
    rw [State.drr] at pick
    split at pick
    · cases pick
    next q first =>
      extract_lets me key g1 more at pick
      clear_value g1
      split at pick
      · have own : q = h := by split at pick <;> cases pick <;> rfl
        obtain ⟨p, -, queue⟩ := List.exists_of_findSome?_eq_some first
        split at queue
        · exact ⟨p.2, own ▸ queue⟩
        · cases queue
      · exact ih pick

theorem takeFirst_some {p : α → Bool} {l rest : List α} {a : α} (taken : takeFirst p l = some (a, rest)) :
    a ∈ l ∧ rest.length + 1 = l.length := by
  induction l generalizing rest with
  | nil => cases taken
  | cons b l ih =>
    rw [takeFirst] at taken
    split at taken
    · cases taken
      exact ⟨List.mem_cons_self, rfl⟩
    · split at taken
      next x r' further =>
        cases taken
        obtain ⟨mem, length⟩ := ih further
        exact ⟨List.mem_cons_of_mem b mem, congrArg (· + 1) length⟩
      · cases taken

theorem State.shaped_tokens (c : Prop) [Decidable c] (m : SMap Int) :
    ∃ p, (if c then { s with shpT := m } else s) = { s with shpT := p } := by
  split
  · exact ⟨m, rfl⟩
  · exact ⟨s.shpT, rfl⟩

variable (mode : s.slotMode j = 1)
include mode

theorem State.eligibleHead_ethernet (i c : Nat) : s.eligibleHead n l j sub i c = s.ethHead n l j sub i c := if_pos mode

/-- An Ethernet subport has no MGMT packets. -/
theorem State.selMgmt_ethernet (g : Egress) : s.selMgmt n l j sub g = none := by
  by_contra some_
  obtain ⟨q, pick⟩ := Option.ne_none_iff_exists'.mp some_
  obtain ⟨mgmt, i, c, head⟩ := State.selMgmt_some pick
  rw [State.eligibleHead_ethernet mode] at head
  have := (State.ethHead_some head).2
  omega

/-- An Ethernet subport has no packets of circuits. -/
theorem State.selCirc_ethernet (g : Egress) : s.selCirc n l j sub g = none := by
  refine List.findSome?_eq_none_iff.mpr fun id _ => ?_
  dsimp only
  rw [State.eligibleHead_ethernet mode]
  split
  next head => simp [(State.ethHead_some head).2]
  · rfl

/-- A selection takes a response of the queues, or none. -/
theorem State.egressSelect_ethernet (found : s.subportAt n l = some (j, sub)) :
    (∃ g, s.egressSelect n l = s.setEgr n l g)
      ∨ ∃ p g g' h i c, s.ethHead n l j sub i c = some h
          ∧ s.egressSelect n l = (State.took { s with shpT := p } n l j sub g h).setEgr n l g' := by
  generalize run : s.egressSelect n l = t
  rw [State.egressSelect] at run
  simp only [found, mode, if_neg (show ¬2 ≤ 1 by decide), State.selMgmt_ethernet mode, State.selCirc_ethernet mode] at run
  split at run
  · exact .inl ⟨_, run.symm⟩
  next c best =>
    split at run
    · exact .inl ⟨_, run.symm⟩
    next h g2 pick =>
      obtain ⟨i, head⟩ := State.drr_head pick
      rw [State.eligibleHead_ethernet mode] at head
      obtain ⟨p, shaped⟩ := State.shaped_tokens (s := s) (s.bit (R.portSShpr n l c) 31 = true)
        (mset 0x8000 s.shpT (8 * lk n l + c) (s.shpTokens n l c - 2 * (h.len : Int)))
      rw [shaped] at run
      split at run
      · exact .inr ⟨p, _, _, h, i, c, head, run.symm⟩
      · exact .inr ⟨p, _, _, h, i, c, head, run.symm⟩

end

section
variable {s : State} (clean : s.ue = []) {n l : Nat}
include clean

/-- With no uncorrectable word a frame is built from its buffer, unless it is discarded. -/
theorem State.buildResponse_clean (hd : Word) :
    let a := s.bufferAddr hd
    let b := rdBytes s.dpa a 96
    s.buildResponse n l hd = .error ((s.ethDiscard n l 11).freeBuffer hd)
      ∨ s.buildResponse n l hd = .ok (s.responseFrame n l (leAt b 0 1) (rdBytes s.dpa a (96 + leAt b 90 2))) := by
  intro a b
  simp only [State.buildResponse, State.readPieces_clean clean]
  exact ite_eq_or_eq ..

/-- A response taken leaves its queue, and its frame, unless it is discarded, is the last of the FIFO. -/
theorem State.takeResponse_eth (r : RespWait) (rest : List RespWait) :
    let a := s.bufferAddr r.handle
    let b := rdBytes s.dpa a 96
    let t := s.takeResponse n l r rest
    ((t.eth n l).resp = (s.eth n l).resp ∨ ((t.eth n l).wait = rest ∧ (t.eth n l).resp = (s.eth n l).resp
        ++ [⟨r.handle, r.ts, s.responseFrame n l (leAt b 0 1) (rdBytes s.dpa a (96 + leAt b 90 2))⟩]))
      ∧ (t.eth n l).lastTx = (s.eth n l).lastTx := by
  intro a b t
  let u : State := s.setEth n l { s.eth n l with wait := rest }
  have eth : u.eth n l = { s.eth n l with wait := rest } := State.eth_setEth_same ..
  obtain discarded | built := State.buildResponse_clean (s := u) clean (n := n) (l := l) r.handle
  · have run : t = (u.ethDiscard n l 11).freeBuffer r.handle := by
      simp only [t, State.takeResponse]
      rw [discarded]
    have frame : Changes [.regs, .ethDrop, .poolUsed] u ((u.ethDiscard n l 11).freeBuffer r.handle) :=
      ((State.ethDiscard_changes ..).mono (by decide)).step (State.freeBuffer_changes ..) (by decide)
    have same : t.eth n l = { s.eth n l with wait := rest } := by
      rw [run, State.eth, frame.elsewhere .eths (by decide)]
      exact eth
    rw [same]
    exact ⟨.inl rfl, rfl⟩
  · have run : t.eth n l = { s.eth n l with wait := rest, resp := (s.eth n l).resp
        ++ [⟨r.handle, r.ts, s.responseFrame n l (leAt b 0 1) (rdBytes s.dpa a (96 + leAt b 90 2))⟩] } := by
      simp only [t, State.takeResponse]
      rw [built]
      dsimp only
      rw [State.eth_setEth_same, State.eth_setEth_same]
      rfl
    rw [run]
    exact ⟨.inr ⟨rfl, rfl⟩, rfl⟩

end

/-- Settles O41: a frame by the check it fails or the buffer it takes, a response by its selection and by its transmission. -/
theorem framesAreServed : Obligations.FramesAreServed := by
  intro s n l j sub f found mode up r
  refine ⟨fun x long low => ?discards, fun h long low ip na high on ok => ?accepts, fun clean => ?selects,
    fun x rest fifo on below used => ?transmits⟩
  case discards =>
    exact .of_eq (congrArg Host.Outcome.next (State.receiveFrame_low found mode up long low))
      ⟨State.ethDiscard_changes .., mget_mset_same ..⟩
  case accepts =>
    obtain ⟨k, i, t, handle, run, takes⟩ := State.allocate_ok ok
    let u : State := t.bufferFilled r h (24 * n + l)
    let v : State := u.described n l r h
    have filled : Changes [.regs, .poolUsed, .dpa, .ue] s u :=
      (takes.frame.mono (by decide)).step (State.bufferFilled_changes ..) (by decide)
    have described : Changes [.dsp] u v := State.described_changes ..
    have counted : Changes [.cnt] v (v.incCtr (R.portEAcceptLo n l)) := State.incCtr_changes ..
    have all : s.receiveFrame n l f = v.incCtr (R.portEAcceptLo n l) :=
      (State.receiveFrame_accepted found mode up long low ip na high).trans (State.acceptDatagram_ok on run)
    refine .of_eq (congrArg Host.Outcome.next all) ⟨?_, ?_, ⟨k, i, handle, takes.free, ?_⟩, fun clean => ?_⟩
    · have same : u.dsp = s.dsp := filled.elsewhere .dsp (by decide)
      rw [counted.elsewhere .dsp (by decide)]
      simp only [v, State.described, filled.replica (by decide), same]
    · rw [State.ctr_incCtr_same, State.ctr, described.elsewhere .cnt (by decide), filled.elsewhere .cnt (by decide)]
      rfl
    · rw [counted.elsewhere .poolUsed (by decide), described.elsewhere .poolUsed (by decide),
        (State.bufferFilled_changes ..).elsewhere .poolUsed (by decide)]
      exact takes.used
    · have sound : t.ue = [] := (takes.frame.elsewhere .ue (by decide)).trans clean
      have place : t.bufferAddr h = s.bufferAddr h := by rw [State.bufferAddr, takes.base]; rfl
      have stored := State.bufferFilled_dpa sound r h (24 * n + l)
      rw [place, takes.frame.elsewhere .dpa (by decide)] at stored
      rw [counted.elsewhere .dpa (by decide), described.elsewhere .dpa (by decide), stored, ← Rx.length_udp r]
      exact rdBytes_buffer _ _ (r.length_lead _) (Rx.length_respHead_le f)
  case selects =>
    refine .of_eq rfl ?_
    have dpa : (s.egressSelect n l).dpa = s.dpa := (State.egressSelect_changes ..).elsewhere .dpa (by decide)
    obtain ⟨g, run⟩ | ⟨p, g, g', h, i, c, head, run⟩ := State.egressSelect_ethernet mode found
    · rw [run] at dpa ⊢
      exact ⟨.inl rfl, rfl, dpa⟩
    · have eth : (s.egressSelect n l).eth n l = (State.took { s with shpT := p } n l j sub g h).eth n l := by rw [run]; rfl
      rw [eth]
      have took : State.took { s with shpT := p } n l j sub g h = _ := if_pos mode
      rw [took]
      split
      next w rest taken =>
        obtain ⟨mem, length⟩ := takeFirst_some taken
        obtain ⟨resp, last⟩ := State.takeResponse_eth (s := State.setEgr { s with shpT := p } n l g) clean (n := n) (l := l) w rest
        refine ⟨resp.imp_right fun ⟨wait, frame⟩ => ⟨w, mem, (State.ethHead_some head).1, ?_, frame⟩, last, dpa⟩
        rw [wait]
        exact length
      · exact ⟨.inl rfl, rfl, dpa⟩
  case transmits =>
    let u : State := (s.setEth n l { s.eth n l with resp := rest }).ethSend n l x.frame
    have eth : u.eth n l = { s.eth n l with resp := rest, lastTx := x.frame } := by
      simp only [u, State.ethSend, State.eth_setEth_same]
    have sent : s.transmitResponse n l = u.freeBuffer x.handle := by
      simp only [State.transmitResponse, fifo]
      exact if_neg (by simp [up])
    have freed := State.freeBuffer_held (s := u) (h := x.handle) ⟨on, below, used⟩
    refine .of_eq (congrArg Host.Outcome.next (sent.trans freed)) ⟨?_, ?_, ?_, ?_⟩
    · exact congrArg Eth.resp eth
    · exact congrArg Eth.lastTx eth
    · exact fun held => ((mem_freed ..).mp held).2 rfl
    · have moved : Changes [.eths] s u := (State.setEth_changes ..).trans (State.setEth_changes ..)
      exact (moved.mono (by decide)).step .poolUsed (by decide)

end Sys2Proof.Machine
end

section
/-!
SUPPORT. The passing of a tick (spec/12_synchronisation.md, R299, R302; log entry 5): how far the counter goes, and the cores
in which no cycle passes.
-/

namespace Sys2Proof.Machine

/-! ### How far the counter goes (R299, R302) -/

/-- The ticks of one period of the rate trim, in the unit of its phase: 1/32 tick per period. -/
def State.trimUnit (s : State) : Int := 32 * (s.periodTicks : Int)

/-- The ticks that the counter goes on by the rate trim: one, none where a tick is held, two where one is skipped. -/
def State.trimStep (s : State) : Int :=
  let ph := s.time.phase + s.time.trim
  if s.trimUnit ≤ ph then 0 else if ph ≤ -s.trimUnit then 2 else 1

/-- The single tick of θ that is removed with it. -/
def State.thetaStep (s : State) : Int :=
  if s.time.since < 64 then 0 else if 2 ≤ s.time.adjust ∧ 0 < s.trimStep then -1 else if s.time.adjust ≤ -2 then 1 else 0

theorem State.tick_unloaded {s : State} (unloaded : s.time.loaded = false) : s.tick = s := by
  simp [State.tick, unloaded]

theorem State.tick_held {s : State} (loaded : s.time.loaded = true) (held : 0 < s.time.hold) :
    s.tick = s.setTime { s.time with hold := s.time.hold - 1 } := by
  simp [State.tick, loaded, held]

theorem State.tick_now {s : State} (loaded : s.time.loaded = true) (free : s.time.hold = 0) :
    s.tick.time.now = s.time.now + BitVec.ofInt 64 (s.trimStep + s.thetaStep) := by
  have trim : (if s.trimUnit ≤ s.time.phase + s.time.trim then (s.time.phase + s.time.trim - s.trimUnit, (0 : Int))
      else if s.time.phase + s.time.trim ≤ -s.trimUnit then (s.time.phase + s.time.trim + s.trimUnit, 2)
      else (s.time.phase + s.time.trim, 1)).2 = s.trimStep := by
    unfold State.trimStep
    dsimp only
    split_ifs <;> rfl
  have theta : (if s.time.since < 64 then (s.time.adjust, s.trimStep, s.time.since + 1)
      else if 2 ≤ s.time.adjust ∧ 0 < s.trimStep then (s.time.adjust - 2, s.trimStep - 1, 0)
      else if s.time.adjust ≤ -2 then (s.time.adjust + 2, s.trimStep + 1, 0)
      else (s.time.adjust, s.trimStep, s.time.since)).2.1 = s.trimStep + s.thetaStep := by
    unfold State.thetaStep
    split_ifs <;> simp [Int.sub_eq_add_neg]
  unfold State.tick
  extract_lets t unit ph
  rw [if_neg (by simp [t, loaded]), if_neg (by simp [t, free])]
  change t.now + BitVec.ofInt 64 _ = _
  rw [← theta, ← trim]
  rfl

/-- No step goes back, and none goes on by more than three ticks. -/
theorem State.tickStep_bounds (s : State) : 0 ≤ s.trimStep + s.thetaStep ∧ s.trimStep + s.thetaStep ≤ 3 := by
  have trim : 0 ≤ s.trimStep ∧ s.trimStep ≤ 2 := by
    unfold State.trimStep
    dsimp only
    split_ifs <;> decide
  unfold State.thetaStep
  split_ifs <;> omega

/-- With nothing to correct the counter goes on by one. -/
theorem State.tickStep_plain {s : State} (trim : s.time.trim = 0) (phase : s.time.phase = 0) (low : -2 < s.time.adjust)
    (high : s.time.adjust < 2) : s.trimStep + s.thetaStep = 1 := by
  have unit : 0 < s.trimUnit := by unfold State.trimUnit State.periodTicks; omega
  have one : s.trimStep = 1 := by
    rw [State.trimStep, trim, phase, if_neg (by omega), if_neg (by omega)]
  have none_ : s.thetaStep = 0 := by
    simp [State.thetaStep, not_le.mpr high, not_le.mpr low]
  rw [one, none_]
  rfl

theorem State.tick_advances (s : State) : ∃ d ≤ 3, s.tick.time.now = s.time.now + BitVec.ofNat 64 d := by
  cases loaded : s.time.loaded with
  | false => exact ⟨0, by decide, by simp [State.tick_unloaded loaded]⟩
  | true =>
    rcases Nat.eq_zero_or_pos s.time.hold with free | held
    · obtain ⟨low, high⟩ := s.tickStep_bounds
      obtain ⟨d, step⟩ := Int.eq_ofNat_of_zero_le low
      refine ⟨d, by omega, ?_⟩
      rw [State.tick_now loaded free, step, BitVec.ofInt_natCast]
    · exact ⟨0, by decide, by simp [State.tick_held loaded held, State.setTime]⟩

/-- A tick changes fabric time alone. -/
theorem State.tick_eq (s : State) : s.tick = s.setTime s.tick.time := by
  unfold State.tick
  extract_lets t unit ph
  split
  · rfl
  · split <;> rfl

/-! ### The cores in which no cycle passes (log entry 5) -/

/-- A core that runs or waits counts its own cycles, and one with nothing left to run has none to count. -/
def State.KeepsCycle (s : State) (u : Nat) : Prop :=
  (s.core u).st = .running ∨ (s.core u).st = .waiting ∨ (s.qempty u = true ∧ (s.core u).fault = none)

theorem State.coreTick_keepsCycle {s : State} {u : Nat} (h : s.KeepsCycle u) : s.coreTick u = s := by
  obtain running | waiting | ended := h
  · simp [State.coreTick, running]
  · simp [State.coreTick, waiting]
  · simp [State.coreTick, ended]

/-- A cycle in each core that has one to count. -/
def State.coresTick (s : State) : State := s.cores.foldl (fun s e => s.coreTick e.1) s

theorem State.passTime_eq (s : State) : s.passTime = s.coresTick.tick := rfl

theorem State.coresTick_changes (s : State) : Changes [.regs, .cnt, .cores, .poolUsed, .dsp] s s.coresTick :=
  (Changes.refl _ s).foldl fun u e => u.coreTick_changes e.1

theorem State.coresTick_keepsCycle {s : State} (all : ∀ e ∈ s.cores, s.KeepsCycle e.1) : s.coresTick = s :=
  List.foldlRecOn (motive := (· = s)) _ _ rfl fun u same e mem => by
    subst same
    exact State.coreTick_keepsCycle (all e mem)

/-- Settles O2: the cores leave fabric time to its tick, which goes on by what the trim and θ make of it. -/
theorem emptyQueuePassesOneTick : Obligations.EmptyQueuePassesOneTick := by
  intro s empty
  have run : step s = .next s.coresTick.tick := by rw [step, empty]; rfl
  have time : s.coresTick.time = s.time := s.coresTick_changes.elsewhere .time (by decide)
  generalize coresTick : s.coresTick = u at run time
  refine .of_eq run ⟨?frame, ?advances, fun unloaded => ?unloaded, fun all => ?quiet, fun loaded held => ?held,
    fun loaded free trim phase low high => ?one⟩
  case frame =>
    have frame := s.passTime_changes
    rwa [State.passTime_eq, coresTick] at frame
  all_goals rw [← time] at *
  case advances => exact u.tick_advances
  case unloaded => rw [State.tick_unloaded unloaded]
  case quiet =>
    obtain rfl : u = s := coresTick.symm.trans (State.coresTick_keepsCycle all)
    exact u.tick_eq
  case held =>
    rw [State.tick_held loaded held]
    exact ⟨rfl, rfl⟩
  case one =>
    rw [State.tick_now loaded free, State.tickStep_plain trim phase low high]
    rfl

end Sys2Proof.Machine
end

section
/-!
SUPPORT. Fabric time as it is distributed and disciplined (spec/12_synchronisation.md, R301, R302, R304; log entries 79 and
80): the flit that leaves, the value nearest to an EPOCH, TIME_CMD with the edge of FT_SYNC, and the correction by an ECHO.
-/

namespace Sys2Proof.Machine

/-! ### The time flit that leaves (R301) -/

/-- The flit that carries the time value `v`, with what every flit carries. -/
def Link.SentTime (k : Link) (v : Nat) : Prop :=
  ∃ a c x y, k.lastTx = some { timeFlit v with ack := a, crdSel := c, crdCnt := x, crc := y }

theorem dress_eq (k : Link) (f : Flit) :
    ∃ a c x y, (dress k f).2 = { f with ack := a, crdSel := c, crdCnt := x, crc := y } := by
  unfold dress
  split <;> exact ⟨_, _, _, _, rfl⟩

theorem dress_syncs (k : Link) (f : Flit) : (dress k f).1.syncs = k.syncs := by
  unfold dress
  split <;> rfl

theorem State.sendStamped_sent (s : State) (n l v : Nat) : ((s.sendStamped n l v).link n l).SentTime v := by
  obtain ⟨a, c, x, y, dressed⟩ := dress_eq (s.link n l) (timeFlit v)
  refine ⟨a, c, x, y, ?_⟩
  rw [State.sendStamped, State.sendFlit, State.link_setLink_same, ← dressed]
  rfl

theorem State.sendStamped_syncs (s : State) (n l v : Nat) : ((s.sendStamped n l v).link n l).syncs = (s.link n l).syncs := by
  rw [State.sendStamped, State.sendFlit, State.link_setLink_same]
  exact dress_syncs ..

/-- A difference of two times below 2^55 that is small, as its 55 bits spell it. -/
theorem sext_difference {now t1 : Nat} {d : Int} (t1Low : t1 < 2 ^ 55) (diff : (now : Int) - t1 = d)
    (low : -(2 ^ 26 : Int) < d) (high : d < 2 ^ 26) : sext 55 (now + 2 ^ 55 - t1 % 2 ^ 55) = d := by
  rw [Nat.mod_eq_of_lt t1Low]
  unfold sext
  dsimp only
  omega

section
variable {s : State} {n l : Nat} (on : s.timeOn = true) (up : s.subUp n l = true) (loaded : s.time.loaded = true)
include on up loaded

theorem State.sendSync_sent : ((s.sendSync n l).link n l).SentTime (tvalSync s.time.now.toNat)
    ∧ ((s.sendSync n l).link n l).syncs = (s.link n l).syncs + 1 := by
  simp only [State.sendSync, on, up, loaded, Bool.and_self, if_true]
  refine ⟨State.sendStamped_sent .., ?_⟩
  rw [State.sendStamped_syncs, State.link_setLink_same]

theorem State.sendEpoch_sent (due : 256 ≤ (s.link n l).syncs) :
    ((s.sendEpoch n l).link n l).SentTime (tvalEpoch s.time.now.toNat)
      ∧ ((s.sendEpoch n l).link n l).syncs = (s.link n l).syncs - 256 := by
  simp only [State.sendEpoch, on, up, loaded, due, Bool.and_self, decide_true, if_true]
  refine ⟨State.sendStamped_sent .., ?_⟩
  rw [State.sendStamped_syncs, State.link_setLink_same]

theorem State.receiveSync_answers {t1 : Nat} {d : Int} (t1Low : t1 < 2 ^ 55)
    (diff : (s.time.now.toNat : Int) - t1 = d) (low : -(2 ^ 26 : Int) < d) (high : d < 2 ^ 26) :
    s.receiveSync n l t1 = s.sendStamped n l (tvalEcho d s.time.now.toNat) := by
  simp only [State.receiveSync, on, up, loaded, sext_difference t1Low diff low high, low, high, Bool.not_true,
    Bool.or_self, Bool.false_eq_true, and_self, if_false, if_true]

end

/-! ### The first load (R301) -/

/-- Of the numbers with the same low bits only one lies less than half a turn away. -/
theorem nearest_eq {m low near v : Nat} (pos : 0 < m) (same : v % 2 ^ m = low % 2 ^ m)
    (close : ((v : Int) - near).natAbs < 2 ^ (m - 1)) : nearest m low near = v := by
  have twice : 2 ^ m = 2 * 2 ^ (m - 1) := (mul_pow_sub_one pos.ne' 2).symm
  unfold nearest
  dsimp only
  rw [← same, twice]
  generalize 2 ^ (m - 1) = h at close
  have v_ := Nat.div_add_mod v (2 * h)
  have near_ := Nat.div_add_mod near (2 * h)
  have rest : v % (2 * h) < 2 * h := Nat.mod_lt _ (by omega)
  have rest' : near % (2 * h) < 2 * h := Nat.mod_lt _ (by omega)
  generalize v / (2 * h) = k at v_
  generalize near / (2 * h) = q at near_ ⊢
  generalize v % (2 * h) = r at v_ rest ⊢
  generalize near % (2 * h) = p at near_ rest'
  rw [Nat.mul_comm q]
  have apart (i j : Nat) (lt : i + 1 < j) : 2 * h * i + 2 * (2 * h) ≤ 2 * h * j := by
    calc 2 * h * i + 2 * (2 * h) = 2 * h * (i + 2) := by ring
      _ ≤ 2 * h * j := Nat.mul_le_mul_left _ lt
  have next (i : Nat) : 2 * h * (i + 1) = 2 * h * i + 2 * h := by ring
  have turns : k = q ∨ k = q + 1 ∨ q = k + 1 := by
    by_contra far
    rcases Nat.lt_or_ge q k with lt | ge
    · have := apart q k (by omega)
      omega
    · have := apart k q (by omega)
      omega
  rcases turns with rfl | rfl | rfl
  · split_ifs <;> omega
  · have := next q
    split_ifs <;> omega
  · have := next k
    split_ifs <;> omega

section
variable {s : State} {n l : Nat} (unloaded : s.time.loaded = false) (parent : s.fromParent n l = true)
  (up : s.subUp n l = true)
include unloaded parent up

theorem State.receiveSync_loads (on : s.timeOn = true) {t1 e : Nat} {v : Dword} (epoch : s.time.epoch = some e)
    (small : e < 2 ^ 48) (t1Low : t1 < 2 ^ 55) (same : v.toNat % 2 ^ 55 = t1)
    (close : ((v.toNat : Int) - (e * 2 ^ 16 : Nat)).natAbs < 2 ^ 54) :
    s.receiveSync n l t1 = (s.loadTime v).setTime { (s.loadTime v).time with epoch := none } := by
  have value : nearest 55 t1 (e % 2 ^ 48 * 2 ^ 16) = v.toNat := by
    rw [Nat.mod_eq_of_lt small]
    exact nearest_eq (by decide) (by rw [same, Nat.mod_eq_of_lt t1Low]) close
  simp only [State.receiveSync, on, up, unloaded, parent, epoch, value, BitVec.ofNat_toNat, BitVec.setWidth_eq,
    Bool.not_true, Bool.or_self, Bool.false_eq_true, if_false, if_true]

theorem State.receiveEpoch_held (hi : Nat) :
    s.receiveEpoch n l hi = s.setTime { s.time with epoch := some (hi % 2 ^ 48) } := by
  simp [State.receiveEpoch, unloaded, parent, up]

end

/-! ### TIME_CMD and FT_SYNC (R304) -/

theorem State.reg64_lt (s : State) (lo hi : Reg) : s.reg64 lo hi < 2 ^ 64 := by
  have := (s.reg lo).isLt
  have := (s.reg hi).isLt
  unfold State.reg64
  omega

theorem State.loadSet_loads {s : State}
    (forward : s.time.loaded = false ∨ s.time.now.toNat ≤ s.reg64 R.timeSetLo R.timeSetHi) :
    s.loadSet = s.loadTime (BitVec.ofNat 64 (s.reg64 R.timeSetLo R.timeSetHi)) := by
  refine if_neg fun ⟨loaded, less⟩ => ?_
  obtain unloaded | le := forward
  · simp [unloaded] at loaded
  · omega

theorem State.loadSet_refuses {s : State} (loaded : s.time.loaded = true)
    (back : s.reg64 R.timeSetLo R.timeSetHi < s.time.now.toNat) : s.loadSet = s.raise R.timeCause 4 :=
  if_pos ⟨loaded, back⟩

/-- A load leaves TIME_SET in the counter. -/
theorem State.loadTime_set (s : State) :
    (s.loadTime (BitVec.ofNat 64 (s.reg64 R.timeSetLo R.timeSetHi))).time.now.toNat = s.reg64 R.timeSetLo R.timeSetHi := by
  change (BitVec.ofNat 64 _).toNat = _
  rw [BitVec.toNat_ofNat, Nat.mod_eq_of_lt (s.reg64_lt ..)]

section
variable {s : State} {w : Word}

theorem State.writeTimeCmd_load (load : w.getLsbD 0 = true) (alone : w.getLsbD 1 = false) (root : s.isRoot = true) :
    s.writeTimeCmd w = s.loadSet := by
  rw [State.writeTimeCmd, wbit_eq, wbit_eq, load, alone, root]
  rfl

theorem State.writeTimeCmd_refuses (load : w.getLsbD 0 = true) (bad : w.getLsbD 1 = true ∨ s.isRoot = false) :
    s.writeTimeCmd w = s.raise R.timeCause 4 := by
  obtain both | other := bad
  · simp [State.writeTimeCmd, wbit_eq, load, both]
  · simp [State.writeTimeCmd, wbit_eq, load, other]

theorem State.writeTimeCmd_arm (alone : w.getLsbD 0 = false) (arm : w.getLsbD 1 = true) (root : s.isRoot = true) :
    s.writeTimeCmd w = s.setTime { s.time with armed := true } := by
  rw [State.writeTimeCmd, wbit_eq, wbit_eq, alone, arm, root]
  rfl

end

/-- The counter captured in TIME_PPSCAP. -/
def State.captured (s : State) : State := { s with cnt := mset 0 s.cnt R.timePpscapLo.addr s.time.now }

theorem State.captured_ctr (s : State) : s.captured.ctr R.timePpscapLo = s.time.now := mget_mset_same ..

theorem State.captured_changes (s : State) : Changes [.cnt] s s.captured := Changes.cnt

section
variable {s : State} {ns : Nat} (apart : 1000 ≤ ns) (enabled : s.bit R.timeCtl 3 = true)
include apart enabled

theorem State.ftSync_unarmed (unarmed : s.time.armed = false) : s.ftSync ns = s.captured := by
  have : ¬ns < 1000 := by omega
  simp [State.ftSync, enabled, this, unarmed, State.captured]

theorem State.ftSync_armed (armed : s.time.armed = true) :
    s.ftSync ns = (s.captured.setTime { s.time with armed := false }).loadSet := by
  have : ¬ns < 1000 := by omega
  simp [State.ftSync, enabled, this, armed, State.captured]

end

/-! ### The correction by an ECHO (R302, log entry 79) -/

/-- The receive time minus t3, as 28 bits spell it: d_ba. -/
def State.echoDelta (s : State) (t3 : Nat) : Int := sext 28 (s.time.now.toNat + 2 ^ 28 - t3 % 2 ^ 28)

/-- θ of an ECHO in half ticks. -/
def State.echoTheta (s : State) (d : Int) (t3 : Nat) : Int := s.echoDelta t3 - d - sext 16 (s.fld R.timeAsym 15 0)

/-- TIME_OFS and TIME_DLY as an ECHO leaves them. -/
def State.measured (s : State) (d : Int) (t3 : Nat) : State :=
  (s.setReg R.timeOfs (BitVec.ofInt 32 (s.echoTheta d t3))).setReg R.timeDly
    (atFld 15 0 (imod ((s.echoDelta t3 + d) / 2) 16))

/-- A step: the counter skips or is held by θ/2, and lock is lost. -/
def FabricTime.stepped (t : FabricTime) (th : Int) : FabricTime :=
  let t := { t with holdover := false, locked := false, good := 0, adjust := 0 }
  if th < 0 then { t with now := t.now + BitVec.ofNat 64 (th.natAbs / 2) } else { t with hold := th.natAbs / 2 }

/-- A correction in single ticks, with the count of the good ECHOs. -/
def FabricTime.trimmed (t : FabricTime) (th : Int) : FabricTime :=
  let good := if th.natAbs ≤ 4 then t.good + 1 else 0
  { t with holdover := false, adjust := th, trim := t.trim + th, good := good, locked := t.locked || 8 ≤ good }

theorem FabricTime.stepped_now (t : FabricTime) (th : Int) :
    (t.stepped th).now = t.now + if th < 0 then BitVec.ofNat 64 (th.natAbs / 2) else 0 := by
  unfold FabricTime.stepped
  split
  · rfl
  · exact (BitVec.add_zero _).symm

theorem FabricTime.stepped_hold (t : FabricTime) {th : Int} (ahead : 0 ≤ th) : (t.stepped th).hold = th.natAbs / 2 := by
  rw [FabricTime.stepped, if_neg (by omega)]

theorem FabricTime.stepped_locked (t : FabricTime) (th : Int) : (t.stepped th).locked = false := by
  unfold FabricTime.stepped
  split <;> rfl

theorem FabricTime.trimmed_counts (t : FabricTime) (th : Int) :
    (t.trimmed th).now = t.now ∧ (t.trimmed th).adjust = th
      ∧ (t.trimmed th).good = (if th.natAbs ≤ 4 then t.good + 1 else 0) ∧ (t.trimmed th).holdover = false :=
  ⟨rfl, rfl, rfl, rfl⟩

/-- Eight good ECHOs lock the counter. -/
theorem FabricTime.trimmed_locked (t : FabricTime) (th : Int) :
    (t.trimmed th).locked = true ↔ t.locked = true ∨ (th.natAbs ≤ 4 ∧ 7 ≤ t.good) := by
  unfold FabricTime.trimmed
  dsimp only
  rw [Bool.or_eq_true, decide_eq_true_iff]
  refine or_congr_right ?_
  split <;> omega

theorem State.measured_ofs (s : State) (d : Int) (t3 : Nat) :
    (s.measured d t3).reg R.timeOfs = BitVec.ofInt 32 (s.echoTheta d t3) :=
  (State.reg_setReg_other _ _ (by decide)).trans (State.reg_setReg_same ..)

theorem State.measured_cfg (s : State) (d : Int) (t3 : Nat) : (s.measured d t3).fld R.timeCfg 15 0 = s.fld R.timeCfg 15 0 :=
  congrArg (wfld · 15 0) ((State.reg_setReg_other _ _ (by decide)).trans (State.reg_setReg_other _ _ (by decide)))

section
variable {s : State} {n l t3 : Nat} {d : Int} (loaded : s.time.loaded = true) (parent : s.fromParent n l = true)
  (up : s.subUp n l = true) (near : (s.echoDelta t3).natAbs < 2 ^ 26)
include loaded parent up near

theorem State.receiveEcho_eq : s.receiveEcho n l d false t3
    = if 2 * s.fld R.timeCfg 15 0 ≤ (s.echoTheta d t3).natAbs
      then ((s.measured d t3).setTime (s.time.stepped (s.echoTheta d t3))).raise R.timeCause 1
      else (s.measured d t3).setTime (s.time.trimmed (s.echoTheta d t3)) := by
  have valid : ¬2 ^ 26 ≤ (s.echoDelta t3).natAbs := Nat.not_le.mpr near
  rw [← s.measured_cfg d t3]
  simp only [State.receiveEcho, loaded, parent, up, Bool.not_true, Bool.or_self, Bool.false_eq_true, if_false]
  exact if_neg valid

end

theorem State.receiveEcho_void (s : State) (n l t3 : Nat) (d : Int) : s.receiveEcho n l d true t3 = s := by
  simp [State.receiveEcho]

/-- 16 silent periods enter holdover. -/
theorem State.timeSilent_eq {s : State} (loaded : s.time.loaded = true) (on : s.timeOn = true)
    (parent : s.parentLane.isSome = true) (lost : s.time.holdover = false) :
    s.timeSilent = (s.setTime { s.time with locked := false, holdover := true }).raise R.timeCause 0 := by
  simp [State.timeSilent, State.enterHoldover, loaded, on, parent, lost]

/-- Settles O57: the flits by what is sent, TIME_CMD and FT_SYNC by the load that they make or refuse, an ECHO by the step or
the correction that θ asks for. -/
theorem timeIsDistributedAndDisciplined : Obligations.TimeIsDistributedAndDisciplined := by
  refine ⟨fun s n l t1 hi w => ⟨fun on up => ?flits, fun on booted => ?commands, fun ns on apart enabled => ?edge⟩,
    fun s n l t3 d loaded => ⟨fun parent up near => ?echo, fun on parent lost => ?silent⟩⟩
  case flits =>
    refine ⟨fun loaded => ?_, fun loaded due => ?_, fun d loaded t1Low _ diff low high => ?_,
      fun e v unloaded parent epoch small t1Low same close => ?_, fun unloaded parent => ?_⟩
    · obtain ⟨sent, syncs⟩ := State.sendSync_sent on up loaded
      exact .of_eq rfl ⟨sent, syncs, State.sendSync_changes ..⟩
    · obtain ⟨sent, syncs⟩ := State.sendEpoch_sent on up loaded due
      exact .of_eq rfl ⟨sent, syncs, State.sendEpoch_changes ..⟩
    · exact .of_eq (congrArg Host.Outcome.next (State.receiveSync_answers on up loaded t1Low diff low high))
        ⟨State.sendStamped_sent .., State.sendStamped_changes ..⟩
    · refine .of_eq (congrArg Host.Outcome.next
        (State.receiveSync_loads unloaded parent up on epoch small t1Low same close)) ⟨rfl, rfl, rfl, ?_⟩
      exact (s.loadTime_changes v).trans (State.setTime_changes ..)
    · exact .of_eq (congrArg Host.Outcome.next (State.receiveEpoch_held unloaded parent up hi)) rfl
  case commands =>
    have answers : s.answers .time = true := State.answers_of_populated on booted rfl
    have load (is : w.getLsbD 0 = true) : exec (.timeLoad w) s = .next (s.writeTimeCmd w) :=
      congrArg Host.Outcome.next (State.onWrite_of_answers answers ((wbit_eq w 0).trans is) _)
    have arm (is : w.getLsbD 1 = true) : exec (.timeArm w) s = .next (s.writeTimeCmd w) :=
      congrArg Host.Outcome.next (State.onWrite_of_answers answers ((wbit_eq w 1).trans is) _)
    have refused : (s.raise R.timeCause 4).time = s.time ∧ (s.raise R.timeCause 4).bit R.timeCause 4 = true
        ∧ Changes [.regs] s (s.raise R.timeCause 4) :=
      ⟨rfl, State.bit_raise_same _ _ (by decide), State.raise_changes ..⟩
    refine ⟨fun is alone root forward => ?_, fun is alone root loaded back => ?_, fun is bad => ?_,
      fun alone is root => ?_⟩
    · rw [load is, State.writeTimeCmd_load is alone root, State.loadSet_loads forward]
      exact .of_eq rfl ⟨s.loadTime_set, rfl, State.loadTime_changes ..⟩
    · rw [load is, State.writeTimeCmd_load is alone root, State.loadSet_refuses loaded back]
      exact .of_eq rfl refused
    · rw [load is, State.writeTimeCmd_refuses is bad]
      exact .of_eq rfl refused
    · rw [arm is, State.writeTimeCmd_arm alone is root]
      exact .of_eq rfl rfl
  case edge =>
    have run : exec (.ftSyncEdge ns) s = .next (s.ftSync ns) := congrArg Host.Outcome.next (if_neg on)
    rw [run]
    cases armed : s.time.armed with
    | false =>
      rw [State.ftSync_unarmed apart enabled armed]
      exact .of_eq rfl ⟨s.captured_ctr, fun _ => s.captured_changes, fun h => nomatch h⟩
    | true =>
      rw [State.ftSync_armed apart enabled armed]
      generalize disarmed : s.captured.setTime { s.time with armed := false } = u
      have frame : Changes [.regs, .time] u u.loadSet := u.loadSet_changes
      have captured : u.ctr R.timePpscapLo = s.time.now := by rw [← disarmed]; exact s.captured_ctr
      have set_ : u.reg64 R.timeSetLo R.timeSetHi = s.reg64 R.timeSetLo R.timeSetHi := by rw [← disarmed]; rfl
      refine .of_eq rfl ⟨?_, fun h => (nomatch h), fun _ unloaded => ?_⟩
      · rw [State.ctr, frame.elsewhere .cnt (by decide)]
        exact captured
      · have still : u.time.loaded = false := by rw [← disarmed]; exact unloaded
        have armed' : u.time.armed = false := by rw [← disarmed]; rfl
        rw [State.loadSet_loads (.inl still)]
        refine ⟨u.loadTime_set.trans set_, rfl, armed', ?_⟩
        rw [← disarmed]
        exact ((s.captured_changes.mono (by decide)).step (State.setTime_changes ..) (by decide)).step
          (State.loadTime_changes ..) (by decide)
  case echo =>
    have measured : Changes [.regs, .time] s (s.measured d t3) :=
      ((s.setReg_changes ..).trans (State.setReg_changes ..)).mono (by decide)
    have corrected (t : FabricTime) : Changes [.regs, .time] s ((s.measured d t3).setTime t) :=
      measured.step (State.setTime_changes ..) (by decide)
    have run := State.receiveEcho_eq (d := d) loaded parent up near
    have ofs (t : FabricTime) : ((s.measured d t3).setTime t).reg R.timeOfs = BitVec.ofInt 32 (s.echoTheta d t3) :=
      ((State.setTime_changes ..).reg (by decide) _).trans (s.measured_ofs d t3)
    have theta : sext 28 (s.time.now.toNat + 2 ^ 28 - t3 % 2 ^ 28) - d - sext 16 (s.fld R.timeAsym 15 0)
        = s.echoTheta d t3 := rfl
    rw [theta]
    refine ⟨fun large => ?_, fun small => ?_, .of_eq (congrArg Host.Outcome.next (s.receiveEcho_void ..)) rfl⟩
    · rw [if_pos large] at run
      refine .of_eq (congrArg Host.Outcome.next run) ⟨s.time.stepped_now _, fun ahead => s.time.stepped_hold ahead,
        s.time.stepped_locked _, State.bit_raise_same _ _ (by decide),
        (State.reg_raise_other _ _ (by decide)).trans (ofs _), (corrected _).step (State.raise_changes ..) (by decide)⟩
    · rw [if_neg (Nat.not_le.mpr small)] at run
      obtain ⟨now, adjust, good, holdover⟩ := s.time.trimmed_counts (s.echoTheta d t3)
      exact .of_eq (congrArg Host.Outcome.next run)
        ⟨now, adjust, good, s.time.trimmed_locked _, holdover, ofs _, corrected _⟩
  case silent =>
    refine .of_eq (congrArg Host.Outcome.next (State.timeSilent_eq loaded on parent lost))
      ⟨rfl, State.bit_raise_same _ _ (by decide), ?_⟩
    exact ((s.setTime_changes _).mono (by decide)).step (State.raise_changes ..) (by decide)

end Sys2Proof.Machine
end

section
/-!
SUPPORT. The shutters (spec/12_synchronisation.md, R305 to R308, R310; log entry 81): the flags of an arrival, COLLECT as it is
evaluated, a failure with its record, the enable, and the release.
-/

namespace Sys2Proof.Machine

/-! ### What a shutter rests on -/

theorem Changes.shutter {w : List Field} {s t : State} (h : Changes w s t) (hw : Field.shutters ∉ w) (b : Nat) :
    t.shutter b = s.shutter b :=
  congrArg (mget Shutter.reset · b) (h.elsewhere .shutters hw)

theorem Changes.shutLocals {w : List Field} {s t : State} (h : Changes w s t) (hw : Field.regs ∉ w) (b : Nat) :
    t.shutLocals b = s.shutLocals b := by
  simp only [State.shutLocals, h.reg hw]

theorem Changes.shutChildren {w : List Field} {s t : State} (h : Changes w s t) (hw : Field.regs ∉ w) (b : Nat) :
    t.shutChildren b = s.shutChildren b := by
  simp only [State.shutChildren, h.reg hw]

theorem State.queueTimes_changes (s : State) (lanes : List Nat) (v : Nat) :
    Changes [.links] s (lanes.foldl (fun s c => s.queueTime c v) s) :=
  (Changes.refl _ s).foldl fun u c => u.queueTime_changes c v

/-! ### The flags of an arrival (R306) -/

theorem flagsOf_who (l : List Arrivals) (who : Nat) : (flagsOf l who).who = who := by
  unfold flagsOf
  cases found : l.find? fun a => a.who == who with
  | none => rfl
  | some a => exact beq_iff_eq.mp (List.find?_some (p := fun a : Arrivals => a.who == who) found)

theorem flagsOf_setFlags (l : List Arrivals) (a : Arrivals) : flagsOf (setFlags l a) a.who = a := by
  have others : (l.filter fun o => o.who != a.who).find? (fun o => o.who == a.who) = none :=
    List.find?_eq_none.mpr fun o mem => by
      have other := (List.mem_filter.mp mem).2
      rw [bne, Bool.not_eq_true'] at other
      rw [other]
      decide
  simp [flagsOf, setFlags, others]

/-- The shutter with the arrival of a participant for the open generation. -/
def Shutter.arrived (h : Shutter) (u sem : Nat) : Shutter :=
  { h with locals := setFlags h.locals { flagsOf h.locals u with ag := true, sem := sem } }

/-- The shutter with the arrival of a child for the open generation. -/
def Shutter.childArrived (h : Shutter) (c : Nat) : Shutter :=
  { h with childs := setFlags h.childs { flagsOf h.childs c with ag := true } }

theorem Shutter.arrived_flags (h : Shutter) (u sem : Nat) :
    flagsOf (h.arrived u sem).locals u = { flagsOf h.locals u with ag := true, sem := sem } := by
  have flags := flagsOf_setFlags h.locals { flagsOf h.locals u with ag := true, sem := sem }
  rwa [show ({ flagsOf h.locals u with ag := true, sem := sem } : Arrivals).who = u from flagsOf_who ..] at flags

theorem Shutter.childArrived_flags (h : Shutter) (c : Nat) :
    flagsOf (h.childArrived c).childs c = { flagsOf h.childs c with ag := true } := by
  have flags := flagsOf_setFlags h.childs { flagsOf h.childs c with ag := true }
  rwa [show ({ flagsOf h.childs c with ag := true } : Arrivals).who = c from flagsOf_who ..] at flags

/-! ### COLLECT evaluated (Table 12.5) -/

/-- The two are in the same generation and hold the same arrivals. -/
structure Shutter.SameArrivals (h k : Shutter) : Prop where
  gen : k.gen = h.gen
  locals : k.locals = h.locals
  childs : k.childs = h.childs

theorem State.collect_sameArrivals (s : State) (b : Nat) : (s.shutter b).SameArrivals ((s.collect b).shutter b) := by
  unfold State.collect
  extract_lets h t sent
  split
  · exact ⟨rfl, rfl, rfl⟩
  split
  · rw [(State.queueTimes_changes _ _ _).shutter (by decide), State.shutter_setShutter_same]
    exact ⟨rfl, rfl, rfl⟩
  · split
    · rw [(State.queueTime_changes ..).shutter (by decide), State.shutter_setShutter_same]
      exact ⟨rfl, rfl, rfl⟩
    · rw [State.shutter_setShutter_same]
      exact ⟨rfl, rfl, rfl⟩

theorem State.collect_incomplete {s : State} {b : Nat} (missing : s.shutComplete b = false) : s.collect b = s :=
  if_pos (.inr (by rw [missing]; rfl))

/-- A shutter that misses a participant is not complete. -/
theorem State.shutComplete_missing {s : State} {b u : Nat} (member : u ∈ s.shutLocals b)
    (clear : (flagsOf (s.shutter b).locals u).ag = false) : s.shutComplete b = false := by
  have missing : ((s.shutLocals b).all fun u => (flagsOf (s.shutter b).locals u).ag) = false :=
    List.all_eq_false.mpr ⟨u, member, by simp [clear]⟩
  rw [State.shutComplete, missing]
  rfl

/-- A shutter whose one participant has arrived is complete where it has no child. -/
theorem State.shutComplete_lone {s : State} {b u : Nat} (lone : s.shutLocals b = [u]) (leaf : s.shutChildren b = [])
    (here : (flagsOf (s.shutter b).locals u).ag = true) : s.shutComplete b = true := by
  simp [State.shutComplete, lone, leaf, here]

/-- At the root the last arrival arms the shutter with T = now + LEAD. -/
theorem State.collect_arms {s : State} {b : Nat} (collecting : (s.shutter b).st = .collect) (complete : s.shutComplete b = true)
    (root : s.bit (R.timeShutCfg b) 30 = true) : (s.collect b).shutter b = { s.shutter b with
      st := .armed, t := s.time.now + BitVec.ofNat 64 (s.reg (R.timeShutLead b)).toNat } := by
  unfold State.collect
  extract_lets h t
  rw [if_neg (by simp [h, collecting, complete]), if_pos root, (State.queueTimes_changes _ _ _).shutter (by decide),
    State.shutter_setShutter_same]

/-! ### A failure and its record (R310) -/

theorem wfld_timeFault_code {code : Nat} (small : code < 2 ^ 8) (job b : Nat) :
    wfld (atFld 31 24 code ||| atFld 23 12 job ||| atFld 5 0 b) 31 24 = code := by
  rw [wfld_or, wfld_or, wfld_atFld_same (by decide), wfld_atFld_other (by decide) (by decide),
    wfld_atFld_other (by decide) (by decide), Nat.or_zero, Nat.or_zero, Nat.mod_eq_of_lt small]

theorem wfld_timeFault_shutter {b : Nat} (small : b < 2 ^ 6) (code job : Nat) :
    wfld (atFld 31 24 code ||| atFld 23 12 job ||| atFld 5 0 b) 5 0 = b := by
  rw [wfld_or, wfld_or, wfld_atFld_same (by decide), wfld_atFld_other (by decide) (by decide),
    wfld_atFld_other (by decide) (by decide), Nat.or_zero, Nat.zero_or, Nat.mod_eq_of_lt small]

theorem State.timeFault_cause (s : State) (b code job : Nat) : (s.timeFault b code job).bit R.timeCause 3 = true :=
  State.bit_raise_same _ _ (by decide)

theorem State.timeFault_record {s : State} (empty : s.reg R.timeFault = 0) (b code job : Nat) :
    (s.timeFault b code job).reg R.timeFault = atFld 31 24 code ||| atFld 23 12 job ||| atFld 5 0 b := by
  rw [State.timeFault, if_pos empty, State.reg_raise_other _ _ (by decide), State.markJob, State.reg_raise_other,
    State.reg_setReg_same]
  simp only [R.timeJmap, R.timeFault]
  omega

/-- Shutter `b` has failed, with its record where none was held in `s`. -/
structure State.ShutterFailed (s t : State) (b code : Nat) : Prop where
  st : (t.shutter b).st = .failed
  cause : t.bit R.timeCause 3 = true
  record : s.reg R.timeFault = 0 → t.fld R.timeFault 31 24 = code ∧ t.fld R.timeFault 5 0 = b

theorem State.failShutter_failed {s : State} {b code : Nat} (small : b < 64) (byte : code < 256)
    (enabled : (s.shutter b).st ≠ .off) (sound : (s.shutter b).st ≠ .failed) :
    s.ShutterFailed (s.failShutter b code) b code := by
  have run : s.failShutter b code
      = (s.setShutter b { s.shutter b with st := .failed }).timeFault b code (s.shutJob b) := by
    unfold State.failShutter
    extract_lets h
    split
    · exact absurd ‹_› enabled
    · exact absurd ‹_› sound
    · rfl
  rw [run]
  generalize marked : s.setShutter b _ = u
  refine ⟨?_, State.timeFault_cause .., fun empty => ?_⟩
  · rw [(State.timeFault_changes ..).shutter (by decide), ← marked, State.shutter_setShutter_same]
  · have held : u.reg R.timeFault = 0 := by rw [← marked]; exact empty
    rw [State.fld, State.fld, State.timeFault_record held]
    exact ⟨wfld_timeFault_code byte .., wfld_timeFault_shutter small ..⟩

/-! ### CFG (R305, R307) -/

/-- Enabling enters COLLECT: a shutter with participants waits for them. -/
theorem State.writeShutCfg_enables {s : State} {b : Nat} {w : Word} (on : w.getLsbD 31 = true)
    (disabled : s.bit (R.timeShutCfg b) 31 = false) (some_ : s.shutLocals b ≠ []) :
    s.writeShutCfg b w = (s.writeReg (R.timeShutCfg b) w).setShutter b { Shutter.reset with st := .collect } := by
  obtain ⟨u, member⟩ := List.exists_mem_of_ne_nil _ some_
  generalize start : (s.writeReg (R.timeShutCfg b) w).setShutter b { Shutter.reset with st := .collect } = t
  have locals : t.shutLocals b = s.shutLocals b := by
    have place (k : Nat) : (R.timeShutCfg b).addr ≠ (R.timeShutLocal b k).addr := by
      simp only [R.timeShutCfg, R.timeShutLocal]; omega
    rw [← start, (State.setShutter_changes ..).shutLocals (by decide)]
    simp only [State.shutLocals, State.reg_writeReg_other _ _ (place _)]
  have missing : t.shutComplete b = false := by
    refine State.shutComplete_missing (locals ▸ member) ?_
    rw [← start, State.shutter_setShutter_same]
    rfl
  have run : s.writeShutCfg b w = t.collect b := by
    rw [State.writeShutCfg, disabled, wbit_eq, on, ← start]
    rfl
  rw [run, State.collect_incomplete missing]

theorem State.writeShutCfg_disables {s : State} {b : Nat} {w : Word} (off : w.getLsbD 31 = false)
    (enabled : s.bit (R.timeShutCfg b) 31 = true) : s.writeShutCfg b w
      = (s.lower (R.timeShutCfg b) 31).setShutter b { s.shutter b with st := .off, locals := [], childs := [] } := by
  rw [State.writeShutCfg, enabled, wbit_eq, off]
  rfl

/-! ### Arrivals (Table 12.4) -/

/-- Only an armed shutter waits for T. -/
theorem State.shutterDue_unarmed {s : State} {b : Nat} (unarmed : (s.shutter b).st ≠ .armed) : s.shutterDue b = s :=
  if_neg fun h => unarmed h.1

section
variable {s : State} {b : Nat} (collecting : (s.shutter b).st = .collect)
include collecting

section
variable {u : Nat} (member : u ∈ s.shutLocals b) (job : s.fld (R.tdCJob u) 11 0 = s.shutJob b) (sem : Nat)
include member job

theorem State.arriveLocal_first (clear : (flagsOf (s.shutter b).locals u).ag = false) :
    s.arriveLocal u b sem = (s.setShutter b ((s.shutter b).arrived u sem)).collect b := by
  have idle := State.shutterDue_unarmed (s := s) (b := b) (by simp [collecting])
  simp [State.arriveLocal, idle, collecting, member, job, clear, Shutter.arrived]

theorem State.arriveLocal_overrun (first : (flagsOf (s.shutter b).locals u).ag = true)
    (second : (flagsOf (s.shutter b).locals u).ag1 = true) : s.arriveLocal u b sem = s.failShutter b fcOverrun := by
  have idle := State.shutterDue_unarmed (s := s) (b := b) (by simp [collecting])
  simp [State.arriveLocal, idle, collecting, member, job, first, second]

end

section
variable {n l : Nat} (small : b < 64) (up : s.subUp n l = true) (child : lk n l ∈ s.shutChildren b) {gen : Nat}
include small up child

theorem State.arriveChild_first (open_ : gen % 4 = (s.shutter b).gen % 4)
    (clear : (flagsOf (s.shutter b).childs (lk n l)).ag = false) :
    s.arriveChild n l b gen = (s.setShutter b ((s.shutter b).childArrived (lk n l))).collect b := by
  have idle := State.shutterDue_unarmed (s := s) (b := b) (by simp [collecting])
  have turn : (gen + 4 - (s.shutter b).gen % 4) % 4 = 0 := by omega
  simp [State.arriveChild, Nat.not_le.mpr small, idle, collecting, up, child, turn, clear, Shutter.childArrived]

theorem State.arriveChild_overrun (ahead : gen % 4 = ((s.shutter b).gen + 2) % 4) :
    s.arriveChild n l b gen = s.failShutter b fcOverrun := by
  have idle := State.shutterDue_unarmed (s := s) (b := b) (by simp [collecting])
  have turn : (gen + 4 - (s.shutter b).gen % 4) % 4 = 2 := by omega
  simp [State.arriveChild, Nat.not_le.mpr small, idle, collecting, up, child, turn]

theorem State.arriveChild_denied (ahead : gen % 4 = ((s.shutter b).gen + 3) % 4) :
    s.arriveChild n l b gen = s.failShutter b fcDenied := by
  have idle := State.shutterDue_unarmed (s := s) (b := b) (by simp [collecting])
  have turn : (gen + 4 - (s.shutter b).gen % 4) % 4 = 3 := by omega
  simp [State.arriveChild, Nat.not_le.mpr small, idle, collecting, up, child, turn]

end

end

/-- The arrival that is taken leaves the list. -/
def State.arrivalTaken (s : State) : State := (s.setTime { s.time with arrivals := [] }).drawn

theorem State.localArrival_only {s : State} {u b sem : Nat} (only : s.time.arrivals = [(u, b, sem)]) :
    s.localArrival = s.arrivalTaken.arriveLocal u b sem := by
  simp [State.localArrival, State.arrivalTaken, only, takeFirst, Nat.mod_one]

/-! ### The release (R308) -/

/-- The semaphores of the participants after the release. -/
def State.shutSems (s : State) (b : Nat) : State :=
  (s.shutLocals b).foldl (fun t u =>
    let a := flagsOf (s.shutter b).locals u
    if a.ag then t.semUpdate u a.sem 4 1 else t) s

/-- The next generation: what has arrived for it has arrived for the open one. -/
def Shutter.turned (h : Shutter) : Shutter :=
  let turn (a : Arrivals) : Arrivals := { a with ag := a.ag1, ag1 := false, sem := a.sem1 }
  { h with st := .collect, gen := (h.gen + 1) % 2 ^ 32, locals := h.locals.map turn, childs := h.childs.map turn }

theorem State.release_eq (s : State) (b : Nat) :
    s.release b = ((s.shutSems b).setShutter b (s.shutter b).turned).collect b := rfl

theorem State.release_gen (s : State) (b : Nat) : ((s.release b).shutter b).gen = ((s.shutter b).gen + 1) % 2 ^ 32 := by
  rw [State.release_eq, (State.collect_sameArrivals ..).gen, State.shutter_setShutter_same]
  rfl

/-- An update of a semaphore leaves every register below the tile dies' windows. -/
theorem State.semUpdate_keepsBelowTiles (s : State) (u i source v : Nat) :
    State.KeepsRegs 0 (tdBase 0) s (s.semUpdate u i source v) := by
  have tile (k : Nat) : tdBase 0 ≤ tdBase (u / 4) + k := by unfold tdBase; omega
  unfold State.semUpdate State.semFault
  refine .ite (.trans (.trans (.ite ?_ (.refl s)) (State.raise_keepsRegs _ _ (.inr (tile _))))
    ((State.owe_changes ..).keepsRegs (by decide))) ((State.setSem_changes ..).keepsRegs (by decide))
  exact ((s.setReg_keepsRegs _ (.inr (tile _))).trans (State.setReg_keepsRegs _ _ (.inr (tile _)))).trans
    (State.setReg_keepsRegs _ _ (.inr (tile _)))

theorem State.release_keepsBelowTiles (s : State) (b : Nat) : State.KeepsRegs 0 (tdBase 0) s (s.release b) := by
  rw [State.release_eq]
  have sems : State.KeepsRegs 0 (tdBase 0) s (s.shutSems b) := .foldl (.refl s) fun t u => by
    dsimp only
    exact .ite (t.semUpdate_keepsBelowTiles ..) (.refl t)
  refine .trans sems ?_
  exact .trans ((State.setShutter_changes ..).keepsRegs (by decide)) ((State.collect_changes ..).keepsRegs (by decide))

/-- The semaphore that the one participant named receives 1. -/
theorem State.release_adds {s : State} {b u : Nat} (lone : s.shutLocals b = [u])
    (here : (flagsOf (s.shutter b).locals u).ag = true)
    (fits : (s.sem u (flagsOf (s.shutter b).locals u).sem).toNat < 2 ^ 32 - 1) :
    (s.release b).sem u (flagsOf (s.shutter b).locals u).sem = s.sem u (flagsOf (s.shutter b).locals u).sem + 1 := by
  generalize named : (flagsOf (s.shutter b).locals u).sem = i at fits ⊢
  have sems : s.shutSems b = s.setSem u i (BitVec.ofNat 32 ((s.sem u i).toNat + 1)) := by
    rw [← State.semUpdate_adds (by omega : (s.sem u i).toNat + 1 < 2 ^ 32) 4]
    simp [State.shutSems, lone, here, named]
  rw [State.release_eq, (State.collect_changes ..).sem (by decide), (State.setShutter_changes ..).sem (by decide), sems,
    State.sem_setSem_same, BitVec.ofNat_add, BitVec.ofNat_toNat, BitVec.setWidth_eq]
  rfl

/-- A late release is counted, unless the count stands at its end, and marked. -/
theorem State.lateRelease_late (s : State) (b : Nat) :
    ((s.lateRelease b).shutter b).gen = ((s.shutter b).gen + 1) % 2 ^ 32 ∧ (s.lateRelease b).bit R.timeCause 2 = true
      ∧ (s.reg R.timeLate ≠ 0xFFFFFFFF → (s.lateRelease b).reg R.timeLate = s.reg R.timeLate + 1) := by
  generalize counted : (if s.reg R.timeLate = 0xFFFFFFFF then s else s.count R.timeLate) = t
  have run : s.lateRelease b = (t.raise R.timeCause 2).release b := by rw [← counted]; rfl
  have kept := (t.raise R.timeCause 2).release_keepsBelowTiles b
  have frame : Changes [.regs] s t := by
    rw [← counted]
    exact .ite (.refl _ s) (State.count_changes ..)
  rw [run]
  refine ⟨?_, ?_, fun room => ?_⟩
  · rw [State.release_gen, (State.raise_changes ..).shutter (by decide), frame.shutter (by decide)]
  · exact (kept.bit (Nat.zero_le _) (by decide) 2).trans (State.bit_raise_same _ _ (by decide))
  · rw [kept.reg R.timeLate (Nat.zero_le _) (by decide), State.reg_raise_other _ _ (by decide), ← counted, if_neg room]
    exact State.reg_setReg_same ..

/-- The shutter armed with the T of a RELEASE, which goes on to every child. -/
def State.releaseArms (s : State) (b T : Nat) : State :=
  (s.shutChildren b).foldl (fun t c => t.queueTime c (tvalRelease b (s.shutter b).gen T))
    (s.setShutter b { s.shutter b with st := .armed, t := BitVec.ofNat 64 T })

theorem State.releaseArms_changes (s : State) (b T : Nat) : Changes [.links, .shutters] s (s.releaseArms b T) :=
  ((s.setShutter_changes ..).mono (by decide)).step (State.queueTimes_changes ..) (by decide)

theorem State.releaseArms_shutter (s : State) (b T : Nat) :
    (s.releaseArms b T).shutter b = { s.shutter b with st := .armed, t := BitVec.ofNat 64 T } := by
  rw [State.releaseArms, (State.queueTimes_changes ..).shutter (by decide), State.shutter_setShutter_same]

section
variable {s : State} {b n l gen x : Nat} (small : b < 64) (up : s.subUp n l = true) (sent : (s.shutter b).st = .sent)
include small up sent

theorem State.receiveRelease_sent {T : Nat} (open_ : gen % 4 = (s.shutter b).gen % 4) (same : T % 2 ^ 47 = x % 2 ^ 47)
    (close : ((T : Int) - s.time.now.toNat).natAbs < 2 ^ 46) : s.receiveRelease n l b gen x
      = if T < s.time.now.toNat then (s.releaseArms b T).lateRelease b else s.releaseArms b T := by
  have idle := State.shutterDue_unarmed (s := s) (b := b) (by simp [sent])
  have full : nearest 47 x s.time.now.toNat = T := nearest_eq (by decide) same close
  have now : (s.releaseArms b T).time = s.time := (s.releaseArms_changes b T).elsewhere .time (by decide)
  rw [← now]
  simp only [State.receiveRelease, Nat.not_le.mpr small, idle, up, sent, open_, full, decide_false, Bool.not_true,
    Bool.or_self, Bool.false_eq_true, ne_eq, not_true_eq_false, if_false]
  rfl

theorem State.receiveRelease_denied (other : gen % 4 ≠ (s.shutter b).gen % 4) :
    s.receiveRelease n l b gen x = s.failShutter b fcDenied := by
  have idle := State.shutterDue_unarmed (s := s) (b := b) (by simp [sent])
  simp [State.receiveRelease, Nat.not_le.mpr small, idle, up, sent, other]

end

/-- Settles O58: the enable by what CFG leaves, arrivals by their flags and by COLLECT as it is evaluated then, failures by
their record, releases by the generation and the semaphores. -/
theorem shuttersCollectArmAndRelease : Obligations.ShuttersCollectArmAndRelease := by
  intro s b w small h failed
  have shows {u t : State} {code : Nat} (same : u.reg R.timeFault = s.reg R.timeFault) (f : u.ShutterFailed t b code) :
      failed t code := ⟨f.st, f.cause, fun empty => f.record (same.trans empty)⟩
  have fails {c : Instr} {code : Nat} (run : exec c s = .next (s.failShutter b code)) (byte : code < 256)
      (on : h.st ≠ .off) (sound : h.st ≠ .failed) : Completes (exec c s) fun t => failed t code :=
    .of_eq run (shows rfl (State.failShutter_failed small byte on sound))
  refine ⟨fun on booted is disabled some_ => ?enable, fun on booted is enabled => ?disable,
    fun u sem only collecting member job => ⟨fun clear => ?arrives, fun first second => ?overruns⟩,
    fun n l gen up child collecting => ⟨fun open_ clear => ?child, fun ahead => ?childOverruns, fun ahead => ?childDenied⟩,
    fun n l gen x T up sent same close => ⟨fun open_ early => ?arms, fun open_ late => ?late, fun other => ?otherGen⟩,
    fun armed reached => ?release⟩
  case enable =>
    have answers : s.answers .time = true := State.answers_of_populated on booted rfl
    refine .of_eq (congrArg Host.Outcome.next ((State.onWrite_of_answers answers (by rw [wbit_eq, is]; simp [small]) _).trans
      (State.writeShutCfg_enables is disabled some_))) ⟨State.shutter_setShutter_same .., ?_, ?_⟩
    · rw [(State.setShutter_changes ..).bit (by decide), State.bit_writeReg_same _ (by simp [R.timeShutCfg]) rfl, is]
    · exact ((s.writeReg_changes ..).mono (by decide)).step (State.setShutter_changes ..) (by decide)
  case disable =>
    have answers : s.answers .time = true := State.answers_of_populated on booted rfl
    refine .of_eq (congrArg Host.Outcome.next ((State.onWrite_of_answers answers (by rw [wbit_eq, is]; simp [small]) _).trans
      (State.writeShutCfg_disables is enabled))) ⟨?_, ?_, ?_, fun x other => ?_⟩
    · rw [State.shutter_setShutter_same]
    · exact ((State.setShutter_changes ..).bit (by decide) ..).trans (State.bit_lower_same _ _ (by decide))
    · exact ((s.lower_changes ..).mono (by decide)).step (State.setShutter_changes ..) (by decide)
    · exact (State.shutter_setShutter_other _ _ other.symm).trans ((s.lower_changes ..).shutter (by decide) x)
  case arrives =>
    generalize taken : s.arrivalTaken.setShutter b (h.arrived u sem) = t
    have run : exec .localArrival s = .next (t.collect b) := by
      rw [← taken]
      exact congrArg Host.Outcome.next ((State.localArrival_only only).trans
        (State.arriveLocal_first (s := s.arrivalTaken) collecting member job sem clear))
    have shutter : t.shutter b = h.arrived u sem := by rw [← taken, State.shutter_setShutter_same]
    have flags := h.arrived_flags u sem
    have same := t.collect_sameArrivals b
    refine .of_eq run ⟨?_, ?_, ?_, fun root lone leaf => ?_⟩
    · rw [(t.collect_changes b).elsewhere .time (by decide), ← taken]
      rfl
    · rw [same.locals, shutter, flags]
    · rw [same.locals, shutter, flags]
    · have armed := State.collect_arms (s := t) (b := b) (by rw [shutter]; exact collecting)
        (State.shutComplete_lone (u := u) (by rw [← taken]; exact lone) (by rw [← taken]; exact leaf)
          (by rw [shutter, flags])) (by rw [← taken]; exact root)
      rw [armed, ← taken]
      exact ⟨rfl, rfl⟩
  case overruns =>
    refine .of_eq (congrArg Host.Outcome.next ((State.localArrival_only only).trans
      (State.arriveLocal_overrun (s := s.arrivalTaken) collecting member job sem first second)))
      (shows (u := s.arrivalTaken) rfl ?_)
    have working : (s.arrivalTaken.shutter b).st = .collect := collecting
    exact State.failShutter_failed small (by decide) (by simp [working]) (by simp [working])
  case child =>
    refine .of_eq (congrArg Host.Outcome.next (State.arriveChild_first collecting small up child open_ clear)) ?_
    rw [(State.collect_sameArrivals ..).childs, State.shutter_setShutter_same, Shutter.childArrived_flags]
  case childOverruns =>
    exact fails (congrArg Host.Outcome.next (State.arriveChild_overrun collecting small up child ahead)) (by decide)
      (by simp [h, collecting]) (by simp [h, collecting])
  case childDenied =>
    exact fails (congrArg Host.Outcome.next (State.arriveChild_denied collecting small up child ahead)) (by decide)
      (by simp [h, collecting]) (by simp [h, collecting])
  case arms =>
    exact .of_eq (congrArg Host.Outcome.next
      ((State.receiveRelease_sent small up sent open_ same close).trans (if_neg (Nat.not_lt.mpr early))))
      (s.releaseArms_shutter b T)
  case late =>
    have frame := s.releaseArms_changes b T
    obtain ⟨gen_, marked, counted⟩ := (s.releaseArms b T).lateRelease_late b
    rw [s.releaseArms_shutter] at gen_
    rw [frame.reg (by decide)] at counted
    exact .of_eq (congrArg Host.Outcome.next
      ((State.receiveRelease_sent small up sent open_ same close).trans (if_pos late))) ⟨gen_, marked, counted⟩
  case otherGen =>
    exact fails (congrArg Host.Outcome.next (State.receiveRelease_denied small up sent other)) (by decide)
      (by simp [h, sent]) (by simp [h, sent])
  case release =>
    refine .of_eq (congrArg Host.Outcome.next (if_pos ⟨armed, reached⟩)) ⟨s.release_gen b, fun u lone here fits => ?_⟩
    exact State.release_adds lone here fits

end Sys2Proof.Machine
end
section
/-!
SUPPORT. Job slots at a begin (spec/14_steps_and_serving.md, R325, R330; spec/15_management_interface.md, R360): commands that are
judged by a job slot, and the step value that goes into the cores.
-/

namespace Sys2Proof.Machine

/-! ### Commands judged by a job slot (R358, R360) -/

/-- The checks of a command that are those of its arguments, of the device state and of a job slot's state. -/
def Checks.ofSlot (arg : Option Nat) (states : List DevState) (j : Nat) (sts : List JobState) : Checks :=
  { Checks.plain arg states with slot := some (j, sts) }

/-- A command that is asked for, with its checks known, does its work where they hold. -/
theorem State.command_passes {s : State} {m op len : Nat} {chk : State → Checks} {c : Checks} (asked : s.asked m op len = true)
    (known : chk s.begun = c) (arg : c.arg = none) (state : s.dev ∈ c.states)
    (slot : ∀ j sts, c.slot = some (j, sts) → (s.job j).st ∈ sts) (more : c.more = true) (busy : c.busy = false)
    (conf : c.conf = none) (denied : c.denied = false) (go : State → State) : s.command m op chk go = go s.begun := by
  obtain ⟨-, -, -, -, idle, -, -, -, -⟩ := (s.asked_iff ..).mp asked
  rw [State.command_of_asked asked, known]
  exact State.checked_passes arg state slot more idle busy conf denied

theorem State.command_ofSlot {s : State} {m op len j : Nat} {states : List DevState} {sts : List JobState} {chk : State → Checks}
    (asked : s.asked m op len = true) (known : chk s.begun = .ofSlot none states j sts) (state : s.dev ∈ states)
    (slot : (s.job j).st ∈ sts) (go : State → State) : s.command m op chk go = go s.begun := by
  refine State.command_passes asked known rfl state (fun i l same => ?_) rfl rfl rfl rfl go
  cases same
  exact slot

/-! ### The step value in the cores (R325) -/

/-- A register that one turn of a loop sets and every other turn leaves alone. -/
theorem State.reg_foldl_sets {g : State → Nat → State} {r : Reg} {v : Word} {u : Nat} (sets : ∀ t, (g t u).reg r = v)
    (keeps : ∀ t x, x ≠ u → (g t x).reg r = t.reg r) {l : List Nat} (mem : u ∈ l) (s : State) : (l.foldl g s).reg r = v := by
  induction l using List.reverseRecOn with
  | nil => cases mem
  | append_singleton l x ih =>
    rw [List.foldl_append, List.foldl_cons, List.foldl_nil]
    by_cases last : x = u
    · rw [last, sets]
    · rw [keeps _ _ last, ih ((List.mem_append.mp mem).resolve_right fun here => last (List.mem_singleton.mp here).symm)]

section
variable (s : State) {j u : Nat} (step : Dword) (mem : u ∈ s.jobCores j)
include mem

theorem State.writeStepSeed_writes : let t := s.writeStepSeed j step
    t.reg (R.tdCStepLo u) = BitVec.ofNat 32 step.toNat ∧ t.reg (R.tdCStepHi u) = BitVec.ofNat 32 (step.toNat / 2 ^ 32)
      ∧ t.reg (R.tdCSeedLo u) = BitVec.ofNat 32 (s.job j).seed.toNat := by
  refine ⟨State.reg_foldl_sets ?_ ?_ mem s, State.reg_foldl_sets ?_ ?_ mem s, State.reg_foldl_sets ?_ ?_ mem s⟩
  all_goals
    intros
    simp (disch := simp only [R.tdCStepLo, R.tdCStepHi, R.tdCSeedLo, R.tdCSeedHi, tdBase]; omega) only
      [State.reg_setReg_same, State.reg_setReg_other]

end

/-! ### A begin that starts nothing (R325, R330, R360) -/

section
variable {s : State} {m j : Nat}

theorem State.beginChecks_pass (slot : s.argNum m 0 1 = j) (small : j < 64) (length : s.argLength m = 8)
    (zero : s.argNum m 1 1 = 0) (none_ : s.argNum m 2 2 = 0) (stay : s.argNum m 4 4 = noStart) (single : (s.job j).mirror = none) :
    s.beginChecks m = .ofSlot none [.running] j [.ready] := by
  have entries : s.beginEntries m = [] := by simp [State.beginEntries, none_]
  have high : ¬ 63 < j := by omega
  simp [State.beginChecks, State.argSlot, entries, slot, length, zero, none_, stay, single, high, firstBad, Checks.ofSlot, Checks.plain]

/-- The slot, its cores and the step value as a begin leaves them before its answer. -/
def State.stepBegun (s : State) (j : Nat) (st : JobState) (step : Dword) : State :=
  ((s.updJob j fun k => { k with code := 0, incomplete := false }).writeStepSeed j step).jobState j st

theorem State.stepBegun_changes (s : State) (j : Nat) (st : JobState) (step : Dword) :
    Changes [.regs, .jobs] s (s.stepBegun j st step) :=
  (((s.updJob_changes ..).mono (by decide)).step (State.writeStepSeed_changes ..) (by decide)).step (State.jobState_changes ..)
    (by decide)

theorem Changes.jobGroups {w : List Field} {s t : State} (h : Changes w s t) (hw : Field.active ∉ w) (job : Nat) :
    t.jobGroups job = s.jobGroups job := by
  unfold State.jobGroups State.groupRec
  rw [h.elsewhere .active hw]

theorem State.beginStarts_none (none_ : s.argNum m 2 2 = 0) (stay : s.argNum m 4 4 = noStart) : s.beginStarts m = [] := by
  simp only [State.beginStarts, State.beginEntries, none_, stay, List.filter_eq_nil_iff, List.forall_mem_map]
  exact fun _ _ => by simp

/-- A begin without starts and groups does what it does to the slot and its cores, and is answered with the step. -/
theorem State.beginJob_startsNone (unserved : s.jobGroups (s.job j).job = []) (m : Nat) (eval : Bool) : s.beginJob m j eval []
      = (s.stepBegun j (if eval then .eval else .running)
          (if eval then (s.job j).step + BitVec.ofNat 64 (2 ^ 63) else (s.job j).step)).ok m (leBytes 8 (s.job j).step.toNat) := by
  have groups (st : JobState) (step : Dword) : (s.stepBegun j st step).jobGroups (s.job j).job = [] :=
    ((s.stepBegun_changes ..).jobGroups (by decide) _).trans unserved
  unfold State.stepBegun at groups
  simp only [State.beginJob, State.startAll, groups, if_true, List.filter_nil, State.startGroups]
  rfl

theorem State.beginCommand_startsNone (slot : s.argNum m 0 1 = j) (none_ : s.argNum m 2 2 = 0) (stay : s.argNum m 4 4 = noStart)
    (eval : Bool) : s.beginCommand m eval = s.beginJob m j eval [] := by
  have once : s.doubleEntries m = false := by simp [State.doubleEntries, State.beginEntries, none_]
  simp only [State.beginCommand, State.beginStarts_none none_ stay, once, Bool.false_eq_true, if_false, State.argSlot, slot]

end

/-- What a begin of slot `j` under the step value `step` leaves. -/
structure State.Begins (s : State) (j : Nat) (st : JobState) (step : Dword) (t : State) : Prop where
  state : (t.job j).st = st
  clear : (t.job j).code = 0
  kept : (t.job j).step = (s.job j).step
  cores : ∀ u ∈ s.jobCores j, t.reg (R.tdCStepLo u) = BitVec.ofNat 32 step.toNat
    ∧ t.reg (R.tdCStepHi u) = BitVec.ofNat 32 (step.toNat / 2 ^ 32)
    ∧ t.reg (R.tdCSeedLo u) = BitVec.ofNat 32 (s.job j).seed.toNat
  others : ∀ i, i ≠ j → t.job i = s.job i

theorem State.job_updJob_other (s : State) {j i : Nat} (other : i ≠ j) (f : Job → Job) : (s.updJob j f).job i = s.job i :=
  s.job_setJob_other _ other.symm

theorem State.stepBegun_begins (s : State) (j : Nat) (st : JobState) (step : Dword) : s.Begins j st step (s.stepBegun j st step) := by
  unfold State.stepBegun
  generalize started : s.updJob j _ = a
  have slot : a.job j = { s.job j with code := 0, incomplete := false } := by rw [← started, State.job_updJob_same]
  have jobs (i : Nat) : (a.writeStepSeed j step).job i = a.job i := (a.writeStepSeed_changes ..).job (by decide) i
  have cores : s.jobCores j = a.jobCores j := by
    simp only [State.jobCores, slot]
    rw [← started]
    rfl
  refine ⟨?_, ?_, ?_, fun u mem => ?_, fun i other => ?_⟩
  · rw [State.jobState, State.job_updJob_same]
  · rw [State.jobState, State.job_updJob_same, jobs, slot]
  · rw [State.jobState, State.job_updJob_same, jobs, slot]
  · have written := a.writeStepSeed_writes step (cores ▸ mem)
    rwa [slot] at written
  · rw [State.jobState, State.job_updJob_other _ other, jobs, ← started, State.job_updJob_other _ other]

/-- An answer leaves every register behind those of the device alone. -/
theorem State.reply_keepsBehind (s : State) (m status detail : Nat) (res : List Byte) (hi : Nat) :
    State.KeepsRegs 0x1000 hi s (s.reply m status detail res) :=
  .trans (.trans (Changes.mbx_mgmt.keepsRegs (by decide)) (State.lower_keepsRegs _ _ (.inl (by decide))))
    (State.raise_keepsRegs _ _ (.inl (by decide)))

/-- The answer to a begin leaves what the begin did. -/
theorem State.Begins.answered {s t : State} {j : Nat} {st : JobState} {step : Dword} (h : s.Begins j st step t) (m : Nat) (res : List Byte) :
    s.Begins j st step (t.ok m res) := by
  have job (i : Nat) : (t.ok m res).job i = t.job i := (t.ok_changes m res).job (by decide) i
  have word {r : Reg} (behind : 0x1000 ≤ r.addr) : (t.ok m res).reg r = t.reg r :=
    (t.reply_keepsBehind m stOk 0 res (r.addr + 1)).reg r behind (Nat.lt_succ_self _)
  refine ⟨by rw [job, h.state], by rw [job, h.clear], by rw [job, h.kept], fun u mem => ?_, fun i other => by rw [job, h.others i other]⟩
  obtain ⟨lo, hi, seed⟩ := h.cores u mem
  refine ⟨(word ?_).trans lo, (word ?_).trans hi, (word ?_).trans seed⟩
  all_goals
    simp only [R.tdCStepLo, R.tdCStepHi, R.tdCSeedLo, tdBase]
    omega

/-- Settles O22: the checks pass, nothing starts, and the begin is what it leaves in the slot and in its cores. -/
theorem jobsBegin : Obligations.JobsBegin := by
  intro s m j running slot small zero none_ stay ready single unserved k begun
  have runs {op : Nat} (asked : s.asked m op 8 = true) (eval : Bool) :
      Completes (.next (s.command m op (fun s => s.beginChecks m) fun s => s.beginCommand m eval)) fun t =>
        begun t (if eval then .eval else .running) (if eval then k.step + BitVec.ofNat 64 (2 ^ 63) else k.step).toNat := by
    obtain ⟨box, -, -, -, -, -, -, -, length⟩ := (s.asked_iff ..).mp asked
    have known : s.begun.beginChecks m = .ofSlot none [.running] j [.ready] :=
      State.beginChecks_pass slot small length zero none_ stay single
    have run := ((State.command_ofSlot (chk := fun s => s.beginChecks m) asked known (by simp [running]) (by simp [ready])
        fun s => s.beginCommand m eval).trans
      (State.beginCommand_startsNone (s := s.begun) slot none_ stay eval)).trans
      (State.beginJob_startsNone (s := s.begun) unserved m eval)
    obtain ⟨state, clear, kept, cores, others⟩ := (s.begun.stepBegun_begins j (if eval then .eval else .running)
      (if eval then k.step + BitVec.ofNat 64 (2 ^ 63) else k.step)).answered m (leBytes 8 k.step.toNat)
    exact .of_eq (congrArg Host.Outcome.next run) ⟨State.reply_answered _ box (by decide) (by decide) (by rw [length_leBytes]; decide),
      state, clear, kept, cores, others,
      ((s.begun_changes.mono (by decide)).step (State.stepBegun_changes ..) (by decide)).step (State.ok_changes ..) (by decide)⟩
  refine ⟨fun asked => runs asked false, fun asked low => ?_⟩
  have sum : (k.step + BitVec.ofNat 64 (2 ^ 63)).toNat = k.step.toNat + 2 ^ 63 := by
    rw [BitVec.toNat_add, BitVec.toNat_ofNat]
    omega
  exact sum ▸ runs asked true

end Sys2Proof.Machine
end
section
/-!
SUPPORT. Requests and batches of the serving dispatcher (spec/14_steps_and_serving.md, R338 to R340): drops, the ready list, and the
batch that goes to a group.
-/

namespace Sys2Proof.Machine

/-! ### Drops and the ready list (Table 14.9, R339) -/

/-- The dispatcher with one more datagram dropped under a reason. -/
def Dispatcher.dropped (d : Dispatcher) (reason : Nat) : Dispatcher :=
  { d with drops := mset 0 d.drops reason (mget 0 d.drops reason + 1) }

theorem Dispatcher.drops_dropped (d : Dispatcher) (reason : Nat) :
    mget 0 (d.dropped reason).drops reason = mget 0 d.drops reason + 1 :=
  mget_mset_same ..

theorem State.dropBuffer_dsp (s : State) (h : Word) (reason : Nat) : (s.dropBuffer h reason).dsp = s.dsp.dropped reason := by
  rw [Dispatcher.dropped, ← (s.freeBuffer_changes h).elsewhere .dsp (by decide)]
  rfl

theorem State.dropBuffer_cause (s : State) (h : Word) (reason : Nat) : (s.dropBuffer h reason).bit R.dspCause 0 = true :=
  State.bit_raise_same _ _ (by decide)

/-- The two dispatchers hold the same requests, counts and groups: what the ready list is made of, not the list itself. -/
structure Dispatcher.SameWork (d e : Dispatcher) : Prop where
  queue : e.queue = d.queue
  inbox : e.inbox = d.inbox
  drops : e.drops = d.drops
  groups : e.groups = d.groups
  unserved : e.unserved = d.unserved

/-- Models that leave the ready list lose their deficit and their flag, and nothing else changes. -/
theorem Dispatcher.foldl_gone_sameWork (l : List Nat) (d : Dispatcher) :
    d.SameWork (l.foldl (fun d m => (d.setDeficit m 0).refresh m) d) := by
  induction l generalizing d with
  | nil => exact ⟨rfl, rfl, rfl, rfl, rfl⟩
  | cons m l ih =>
    obtain ⟨queue, inbox, drops, groups, unserved⟩ := ih ((d.setDeficit m 0).refresh m)
    exact ⟨queue, inbox, drops, groups, unserved⟩

theorem State.refreshReady_sameWork (s : State) : s.dsp.SameWork s.refreshReady.dsp := by
  obtain ⟨queue, inbox, drops, groups, unserved⟩ :=
    Dispatcher.foldl_gone_sameWork (s.dsp.ready.filter fun m => !s.modelReady m) s.dsp
  exact ⟨queue, inbox, drops, groups, unserved⟩

theorem State.mem_ready_refreshReady {s : State} {m : Nat} (small : m < 256) (ready : s.modelReady m = true) :
    m ∈ s.refreshReady.dsp.ready := by
  simp only [State.refreshReady, State.setDsp, List.mem_append, List.mem_filter, List.mem_range, small, ready]
  by_cases listed : m ∈ s.dsp.ready <;> simp [listed, ready]

/-! ### A descriptor that arrives (R338, Table 14.9) -/

/-- The first reason of Table 14.9 that applies to a request that arrives. -/
def State.dropReason (s : State) (r : Request) : Option Nat :=
  if !s.bit R.dspCtl 0 then some 0
  else if !(s.modelRec r.model).valid then some 1
  else if (s.modelRec r.model).qlimit ≤ (s.dsp.of r.model).length then some 2
  else if 65536 ≤ s.dsp.queue.length then some 3
  else none

section
variable {s : State} {r : Request}

theorem State.dropReason_off (off : s.bit R.dspCtl 0 = false) : s.dropReason r = some 0 := by
  simp [State.dropReason, off]

variable (on : s.bit R.dspCtl 0 = true)
include on

theorem State.dropReason_unknown (invalid : (s.modelRec r.model).valid = false) : s.dropReason r = some 1 := by
  simp [State.dropReason, on, invalid]

variable (valid : (s.modelRec r.model).valid = true)
include valid

theorem State.dropReason_full (full : (s.modelRec r.model).qlimit ≤ (s.dsp.of r.model).length) : s.dropReason r = some 2 := by
  simp [State.dropReason, on, valid, full]

variable (room : ¬(s.modelRec r.model).qlimit ≤ (s.dsp.of r.model).length)
include room

theorem State.dropReason_total (total : 65536 ≤ s.dsp.queue.length) : s.dropReason r = some 3 := by
  simp [State.dropReason, on, valid, room, total]

theorem State.dropReason_none (total : s.dsp.queue.length < 65536) : s.dropReason r = none := by
  simp [State.dropReason, on, valid, room, total.not_ge]

end

/-- The state in which the oldest descriptor is taken from the port dies. -/
def State.descriptorTaken (s : State) (rest : List Request) : State := s.setDsp { s.dsp with inbox := rest }

section
variable {s : State} {r : Request} {rest : List Request} (first : s.dsp.inbox = r :: rest)
include first

theorem State.takeRequest_drops {x : Nat} (reason : s.dropReason r = some x) :
    s.takeRequest = (s.descriptorTaken rest).dropBuffer r.handle x := by
  rw [State.takeRequest, first]
  unfold State.dropReason at reason
  split_ifs at reason with off unknown full total <;> cases reason
  · exact if_pos off
  · exact (if_neg off).trans (if_pos unknown)
  · exact ((if_neg off).trans (if_neg unknown)).trans (if_pos full)
  · exact (((if_neg off).trans (if_neg unknown)).trans (if_neg full)).trans (if_pos total)

theorem State.takeRequest_queues (reason : s.dropReason r = none) : s.takeRequest
    = ((s.descriptorTaken rest).setDsp { (s.descriptorTaken rest).dsp with queue := s.dsp.queue ++ [r] }).refreshReady := by
  rw [State.takeRequest, first]
  unfold State.dropReason at reason
  split_ifs at reason with off unknown full total
  exact (((if_neg off).trans (if_neg unknown)).trans (if_neg full)).trans (if_neg total)

end

/-! ### The oldest request of a model -/

section
variable {s : State} {r : Request} {rest : List Request} (first : s.dsp.queue = r :: rest)
include first

theorem State.of_first : s.dsp.of r.model = r :: rest.filter fun q => q.model == r.model := by
  rw [Dispatcher.of, first, List.filter_cons_of_pos (by simp)]

theorem State.dropAged_old (some_ : 0 < (s.modelRec r.model).ageMs) (old : 6250000 * (s.modelRec r.model).ageMs < s.age r) :
    s.dropAged r.model = (s.setDsp { s.dsp with queue := rest }).dropBuffer r.handle 4 := by
  have late : ¬((s.modelRec r.model).ageMs = 0 ∨ s.age r ≤ 1000 * usTicks * (s.modelRec r.model).ageMs) := by
    unfold usTicks
    omega
  have taken : takeFirst (fun q => q.model == r.model) s.dsp.queue = some (r, rest) := by
    rw [first, takeFirst, if_pos (beq_self_eq_true _)]
  simp only [State.dropAged, State.of_first first, if_neg late, taken]

theorem State.dropAged_young (young : (s.modelRec r.model).ageMs = 0 ∨ s.age r ≤ 6250000 * (s.modelRec r.model).ageMs) :
    s.dropAged r.model = s := by
  simp only [State.dropAged, State.of_first first, usTicks, Nat.reduceMul]
  exact if_pos young

theorem State.waited_first (old : 6250 * (s.modelRec r.model).waitUs ≤ s.age r) : s.waited r.model = true := by
  simp only [State.waited, State.of_first first]
  exact decide_eq_true old

theorem State.modelReady_waited (valid : (s.modelRec r.model).valid = true) (waited : s.waited r.model = true) :
    s.modelReady r.model = true := by
  simp [State.modelReady, valid, waited, State.of_first first]

end

/-! ### A descriptor in a control block (R340) -/

/-- The bytes of a descriptor (Table 14.11). -/
def State.descriptor (s : State) (g op model n params : Nat) (es : List BatchEntry) : List Byte :=
  leBytes 4 (s.group g).seq ++ leBytes 1 op ++ leBytes 1 model ++ leBytes 1 n ++ leBytes 1 0 ++ leBytes 8 params
    ++ leBytes 8 s.time.now.toNat ++ zeros 40
    ++ es.flatMap fun x => leBytes 4 x.handle.toNat ++ leBytes 1 (bnat x.cont) ++ leBytes 1 0 ++ leBytes 2 x.lane

/-- The state in which a descriptor goes out: its number is taken. -/
def State.seqTaken (s : State) (g : Nat) : State := s.setGroup g { s.group g with seq := ((s.group g).seq + 1) % 2 ^ 32 }

section
variable (s : State) (g op model n params : Nat) (es : List BatchEntry)

theorem State.sendDescriptor_after :
    Changes [.regs, .dpa, .sems, .ue, .owed] (s.seqTaken g) (s.sendDescriptor g op model n params es) := by
  unfold State.sendDescriptor
  extract_lets r k e bs t
  have taken : t = s.seqTaken g := rfl
  rw [← taken]
  clear_value t bs
  refine Changes.ite ((State.descriptorDenied_changes ..).mono (by decide)) ?_
  have stored : Changes [.regs, .dpa, .sems, .ue, .owed] t (t.writeDpa r.cb bs) := (State.writeDpa_changes ..).mono (by decide)
  cases r.cores with
  | nil => exact stored
  | cons u l => exact stored.step (State.semUpdate_changes ..) (by decide)

theorem State.sendDescriptor_dsp : (s.sendDescriptor g op model n params es).dsp = (s.seqTaken g).dsp :=
  (s.sendDescriptor_after g op model n params es).elsewhere .dsp (by decide)

theorem State.sendDescriptor_group {x : Nat} (other : x ≠ g) : (s.sendDescriptor g op model n params es).group x = s.group x :=
  (congrArg (fun d : Dispatcher => mget Group.reset d.groups x) (s.sendDescriptor_dsp g op model n params es)).trans
    (State.group_setGroup_other _ _ other.symm)

theorem State.sendDescriptor_dpa (valid : s.dpaSpan (s.groupRec g).cb (s.descriptor g op model n params es).length = true) :
    (s.sendDescriptor g op model n params es).dpa = wrBytes s.dpa (s.groupRec g).cb (s.descriptor g op model n params es) := by
  unfold State.sendDescriptor
  extract_lets r k e bs t
  have same : bs = s.descriptor g op model n params es := rfl
  have span : t.dpaSpan r.cb bs.length = true := valid
  have dpa : t.dpa = s.dpa := rfl
  clear_value t bs
  have stored : (t.writeDpa r.cb bs).dpa = wrBytes s.dpa r.cb bs := congrArg (wrBytes · r.cb bs) dpa
  rw [span, ← same, ← stored]
  simp only [Bool.not_true, Bool.false_eq_true, if_false]
  split
  · exact (State.semUpdate_changes ..).elsewhere .dpa (by decide)
  · rfl

end

/-- A group that has been given a batch. -/
def Group.given (k : Group) (m : Nat) (es : List BatchEntry) : Group :=
  { k with seq := (k.seq + 1) % 2 ^ 32, st := .busy, model := some m, next := none, open_ := some (k.seq, m, es) }

theorem State.sendBatch_eq (s : State) (g m : Nat) (es : List BatchEntry) : s.sendBatch g m es
    = (s.sendDescriptor g 0 m es.length (s.modelRec m).params es).setGroup g ((s.group g).given m es) := by
  unfold State.sendBatch
  extract_lets k t k'
  have taken : k' = { k with seq := (k.seq + 1) % 2 ^ 32 } := by
    unfold k' t
    rw [State.group, State.sendDescriptor_dsp]
    exact State.group_setGroup_same ..
  rw [taken]
  rfl

/-! ### What only the dispatcher's lists change -/

/-- The two states differ at most in the dispatcher, and hold the same groups. -/
structure State.SameGroups (s t : State) : Prop where
  frame : Changes [.dsp] s t
  group : ∀ g, t.group g = s.group g

theorem State.SameGroups.refl (s : State) : s.SameGroups s := ⟨.refl _ s, fun _ => rfl⟩

theorem State.SameGroups.trans {s t u : State} (h : s.SameGroups t) (k : t.SameGroups u) : s.SameGroups u :=
  ⟨h.frame.trans k.frame, fun g => (k.group g).trans (h.group g)⟩

theorem State.SameGroups.setDsp (s : State) {d : Dispatcher} (groups : d.groups = s.dsp.groups) : s.SameGroups (s.setDsp d) :=
  ⟨s.setDsp_changes d, fun g => congrArg (mget Group.reset · g) groups⟩

theorem State.refreshReady_sameGroups (s : State) : s.SameGroups s.refreshReady :=
  ⟨s.refreshReady_changes, fun g => congrArg (mget Group.reset · g) s.refreshReady_sameWork.groups⟩

section
variable {s t : State} (h : s.SameGroups t)
include h

theorem State.SameGroups.groupRec (g : Nat) : t.groupRec g = s.groupRec g :=
  congrArg (CfgSet.group · g) (h.frame.elsewhere .active (by decide))

theorem State.SameGroups.modelRec (m : Nat) : t.modelRec m = s.modelRec m :=
  congrArg (CfgSet.model · m) (h.frame.elsewhere .active (by decide))

theorem State.SameGroups.descriptor (g op model n params : Nat) (es : List BatchEntry) :
    t.descriptor g op model n params es = s.descriptor g op model n params es := by
  rw [State.descriptor, State.descriptor, h.group, h.frame.elsewhere .time (by decide)]

theorem State.SameGroups.span (g op model n m : Nat) (es : List BatchEntry) :
    t.dpaSpan (t.groupRec g).cb (t.descriptor g op model n (t.modelRec m).params es).length
      = s.dpaSpan (s.groupRec g).cb (s.descriptor g op model n (s.modelRec m).params es).length := by
  rw [h.descriptor, h.groupRec, h.modelRec]
  unfold State.dpaSpan State.dpaValid State.tiles
  rw [h.frame.elsewhere .variant (by decide)]

end

/-- Whether a group is free is a matter of the group, of its record and of the job slots. -/
theorem State.groupFree_congr {w : List Field} {s t : State} (frame : Changes w s t) (jobs : Field.jobs ∉ w) (active : Field.active ∉ w)
    {g : Nat} (group : t.group g = s.group g) : t.groupFree g = s.groupFree g := by
  simp only [State.groupFree, State.groupRuns, State.groupRec, group, frame.slotOfJob jobs, frame.job jobs]
  rw [frame.elsewhere .active active]

theorem State.groupFree_busy {s : State} {g : Nat} (busy : (s.group g).st = .busy) : s.groupFree g = false := by
  simp [State.groupFree, busy]

theorem State.refreshReady_grows {s : State} (stay : ∀ m ∈ s.dsp.ready, s.modelReady m = true) :
    ∃ came, s.refreshReady = s.setDsp { s.dsp with ready := s.dsp.ready ++ came } := by
  have gone : (s.dsp.ready.filter fun m => !s.modelReady m) = [] := by simpa using stay
  have kept : (s.dsp.ready.filter fun m => s.modelReady m) = s.dsp.ready := List.filter_eq_self.mpr stay
  exact ⟨_, by rw [State.refreshReady, gone, kept]; rfl⟩

/-! ### A batch for a free group (R339, R340) -/

/-- The entry of a request in a batch. -/
def Request.entry (r : Request) : BatchEntry := ⟨r.handle, false, r.lane⟩

/-- What stands in `t` once the one queued request of `s` has gone to a group as a batch. -/
structure State.Batched (s t : State) (g m : Nat) (es : List BatchEntry) : Prop where
  frame : Changes [.regs, .cnt, .dpa, .sems, .ue, .owed, .dsp] s t
  busy : (t.group g).st = .busy
  open_ : (t.group g).open_ = some ((s.group g).seq, m, es)
  others : ∀ x, x ≠ g → t.group x = s.group x
  empty : t.dsp.queue = []
  count : t.ctr R.dspBatchLo = s.ctr R.dspBatchLo + 1
  dpa : t.dpa = wrBytes s.dpa (s.groupRec g).cb (s.descriptor g 0 m es.length (s.modelRec m).params es)

theorem State.Batched.after {s t u : State} {g m : Nat} {es : List BatchEntry} (h : s.SameGroups t) (k : t.Batched u g m es) :
    s.Batched u g m es := by
  refine ⟨(h.frame.mono (by decide)).trans k.frame, k.busy, ?_, fun x other => (k.others x other).trans (h.group x), k.empty, ?_, ?_⟩
  · rw [k.open_, h.group]
  · rw [k.count, State.ctr, State.ctr, h.frame.elsewhere .cnt (by decide)]
  · rw [k.dpa, h.descriptor, h.groupRec, h.modelRec, h.frame.elsewhere .dpa (by decide)]

theorem State.Batched.before {s t u : State} {g m : Nat} {es : List BatchEntry} (h : s.Batched t g m es) (k : t.SameGroups u)
    (queue : u.dsp.queue = t.dsp.queue) : s.Batched u g m es := by
  refine ⟨h.frame.step k.frame (by decide), ?_, ?_, fun x other => (k.group x).trans (h.others x other), queue.trans h.empty, ?_, ?_⟩
  · rw [k.group, h.busy]
  · rw [k.group, h.open_]
  · rw [← h.count, State.ctr, State.ctr, k.frame.elsewhere .cnt (by decide)]
  · rw [← h.dpa, k.frame.elsewhere .dpa (by decide)]

theorem State.sendBatch_batched {s : State} {g : Nat} (m : Nat) (es : List BatchEntry) (empty : s.dsp.queue = [])
    (valid : s.dpaSpan (s.groupRec g).cb (s.descriptor g 0 m es.length (s.modelRec m).params es).length = true) :
    s.Batched ((s.incCtr R.dspBatchLo).sendBatch g m es) g m es := by
  have counted := s.incCtr_changes R.dspBatchLo
  have frame := (s.incCtr R.dspBatchLo).sendBatch_changes g m es
  have sent := State.sendDescriptor_after (s.incCtr R.dspBatchLo) g 0 m es.length (s.modelRec m).params es
  rw [State.sendBatch_eq] at frame ⊢
  refine ⟨(counted.mono (by decide)).trans (frame.mono (by decide)), ?_, ?_, fun x other => ?_, ?_, ?_, ?_⟩
  · rw [State.group_setGroup_same]
    rfl
  · rw [State.group_setGroup_same]
    rfl
  · rw [State.group_setGroup_other _ _ other.symm, State.sendDescriptor_group _ _ _ _ _ _ _ other]
    rfl
  · exact (congrArg Dispatcher.queue (State.sendDescriptor_dsp ..)).trans empty
  · rw [← State.ctr_incCtr_same s R.dspBatchLo]
    exact congrArg (mget 0 · _) (sent.elsewhere .cnt (by decide))
  · exact State.sendDescriptor_dpa (s.incCtr R.dspBatchLo) g 0 m es.length (s.modelRec m).params es valid

section
variable {s : State} {g : Nat} {r : Request} (only : s.dsp.queue = [r]) (none_ : (s.group g).conts = [])
include only none_

/-- The batch takes the one request and no continuation. -/
theorem State.takeEntries_one : ∃ t, s.takeEntries r.model g 1 = (t, [r.entry]) ∧ s.SameGroups t ∧ t.dsp.queue = [] := by
  have queued : s.dsp.of r.model = [r] := State.of_first only
  have entries : (s.takeEntries r.model g 1).2 = [r.entry] := by
    simp [State.takeEntries, State.contsFor, none_, queued, Request.entry]
  refine ⟨(s.takeEntries r.model g 1).1, Prod.ext rfl entries, ⟨State.takeEntries_changes .., fun x => ?_⟩, ?_⟩
  · have kept : (s.takeEntries r.model g 1).1.group x = (s.setGroup g { s.group g with conts := (s.group g).conts }).group x := by
      simp only [State.takeEntries, State.contsFor, none_, List.filter_nil, List.take_nil, List.foldl_nil]
      rfl
    rw [kept]
    by_cases same : g = x
    · rw [same, State.group_setGroup_same]
    · exact State.group_setGroup_other _ _ same
  · simp only [State.takeEntries, State.contsFor, none_, queued, List.filter_nil, List.take_nil, List.length_nil, Nat.sub_zero,
      List.take_succ_cons, List.foldl_cons, List.foldl_nil]
    exact (congrArg (List.erase · r) only).trans (List.erase_cons_head ..)

theorem State.assign_one (active : (s.group g).model = some r.model)
    (valid : s.dpaSpan (s.groupRec g).cb (s.descriptor g 0 r.model 1 (s.modelRec r.model).params [r.entry]).length = true) :
    s.Batched (s.assign g r.model 1) g r.model [r.entry] := by
  obtain ⟨t, taken, same, empty⟩ := State.takeEntries_one only none_
  have run : s.assign g r.model 1 = (t.incCtr R.dspBatchLo).sendBatch g r.model [r.entry] := by
    simp only [State.assign, taken]
    exact if_pos ((congrArg Group.model (same.group g)).trans active)
  exact run ▸ (State.sendBatch_batched r.model [r.entry] empty ((same.span ..).trans valid)).after same

end

theorem State.chooseGroup_active {s : State} {g m : Nat} (group : s.groupsOf m = [g]) (free : s.groupFree g = true)
    (active : (s.group g).model = some m) (none_ : (s.group g).conts = []) : s.chooseGroup m = some g := by
  simp [State.chooseGroup, group, free, active, State.contsFor, none_]

theorem State.dispatchLoop_stops {s : State} (busy : ∀ x < 80, s.groupFree x = false) (fuel passes : Nat) :
    State.dispatchLoop fuel passes s = s := by
  have none_ : ((List.range 80).any fun g => s.groupFree g) = false :=
    List.any_eq_false.mpr fun x mem => by simp [busy x (List.mem_range.mp mem)]
  cases fuel with
  | zero => rfl
  | succ f => simp only [State.dispatchLoop, none_, Bool.not_false, Bool.true_or, if_true]

/-- The state after a batch of `b` requests of a model that was the first of the ready list: its deficit, and its place. -/
def State.charged (s : State) (m b : Nat) (rest : List Nat) : State :=
  let s := s.setDsp (s.dsp.setDeficit m (s.dsp.deficitOf m - b))
  if !s.modelReady m then s.setDsp { (s.dsp.setDeficit m 0).refresh m with ready := rest }
  else if s.dsp.deficitOf m = 0 then s.setDsp { s.dsp.refresh m with ready := rest ++ [m] }
  else s

theorem State.charged_sameGroups (s : State) (m b : Nat) (rest : List Nat) :
    s.SameGroups (s.charged m b rest) ∧ (s.charged m b rest).dsp.queue = s.dsp.queue := by
  unfold State.charged
  extract_lets t
  have same : s.SameGroups t := .setDsp s rfl
  split_ifs
  · exact ⟨same.trans (.setDsp t rfl), rfl⟩
  · exact ⟨same.trans (.setDsp t rfl), rfl⟩
  · exact ⟨same, rfl⟩

/-- The dispatcher in a turn of a model whose flag was fresh: one quantum more. -/
def Dispatcher.credited (d : Dispatcher) (m quantum : Nat) : Dispatcher :=
  { d.setDeficit m (d.deficitOf m + quantum) with stale := d.stale ++ [m] }

theorem Dispatcher.deficitOf_credited (d : Dispatcher) (m quantum : Nat) :
    (d.credited m quantum).deficitOf m = d.deficitOf m + quantum :=
  mget_mset_same ..

/-- A turn of the loop that assigns a batch. -/
theorem State.dispatchLoop_assigns {s : State} {m g b : Nat} {rest : List Nat} (fuel : Nat) (ready : s.dsp.ready = m :: rest)
    (fresh : m ∉ s.dsp.stale) (some_ : ∃ x < 80, s.groupFree x = true)
    (chosen : (s.setDsp (s.dsp.credited m (s.modelRec m).quantum)).chooseGroup m = some g) (pos : 0 < b)
    (size : min (s.dsp.deficitOf m + (s.modelRec m).quantum)
      (min (s.modelRec m).maxBatch ((s.contsFor m g).length + (s.dsp.of m).length)) = b) :
    State.dispatchLoop (fuel + 1) 0 s = State.dispatchLoop fuel 0
      (((s.setDsp (s.dsp.credited m (s.modelRec m).quantum)).assign g m b).charged m b rest) := by
  obtain ⟨x, low, free⟩ := some_
  have any : ((List.range 80).any fun x => s.groupFree x) = true := List.any_eq_true.mpr ⟨x, List.mem_range.mpr low, free⟩
  have stale : s.dsp.stale.contains m = false := by simpa using fresh
  have batch : let t := s.setDsp (s.dsp.credited m (s.modelRec m).quantum)
      min (t.dsp.deficitOf m) (min (t.modelRec m).maxBatch ((t.contsFor m g).length + (t.dsp.of m).length)) = b :=
    (congrArg (min · _) (s.dsp.deficitOf_credited m _)).trans size
  unfold Dispatcher.credited at chosen batch ⊢
  rw [State.dispatchLoop, any, ready]
  simp only [stale, Bool.not_true, List.length_cons, Nat.le_zero, Nat.add_eq_zero_iff, one_ne_zero, and_false, decide_false, Bool.or_self,
    Bool.false_eq_true, if_false, chosen, batch, pos.ne']
  rfl

/-- The one free group is active on the model of the one request, and serves no other. -/
structure State.OneBatch (s : State) (g : Nat) (r : Request) : Prop where
  queue : s.dsp.queue = [r]
  ready : s.dsp.ready = [r.model]
  fresh : s.dsp.stale = []
  valid : (s.modelRec r.model).valid = true
  fixed : (s.modelRec r.model).fixed = true
  group : (s.modelRec r.model).fixGrp = g
  single : (s.modelRec r.model).maxBatch = 1
  quantum : 1 ≤ (s.modelRec r.model).quantum
  small : g < 80
  free : s.groupFree g = true
  others : ∀ x < 80, x ≠ g → s.groupFree x = false
  active : (s.group g).model = some r.model
  conts : (s.group g).conts = []
  span : s.dpaSpan (s.groupRec g).cb (s.descriptor g 0 r.model 1 (s.modelRec r.model).params [r.entry]).length = true

section
variable {s : State} {g : Nat} {r : Request} (h : s.OneBatch g r)
include h

theorem State.OneBatch.modelReady : s.modelReady r.model = true := by
  simp [State.modelReady, h.valid, h.single, State.of_first h.queue]

/-- The one turn of the loop that assigns. -/
theorem State.OneBatch.dispatchLoop (came : List Nat) (fuel : Nat) : s.Batched
    (State.dispatchLoop (fuel + 1) 0 (s.setDsp { s.dsp with ready := s.dsp.ready ++ came })) g r.model [r.entry] := by
  generalize listed : s.setDsp { s.dsp with ready := s.dsp.ready ++ came } = t
  have same : s.SameGroups t := listed ▸ .setDsp s rfl
  have queue : t.dsp.queue = [r] := by rw [← listed]; exact h.queue
  let u := t.setDsp (t.dsp.credited r.model (t.modelRec r.model).quantum)
  have turned : s.SameGroups u := same.trans (.setDsp t rfl)
  have groupsOf : u.groupsOf r.model = [g] := by simp [State.groupsOf, turned.modelRec, h.fixed, h.group]
  have free (x : Nat) : u.groupFree x = s.groupFree x :=
    State.groupFree_congr turned.frame (by decide) (by decide) (turned.group x)
  have chosen : u.chooseGroup r.model = some g :=
    State.chooseGroup_active groupsOf ((free g).trans h.free) (by rw [turned.group, h.active]) (by rw [turned.group, h.conts])
  have assigned : s.Batched (u.assign g r.model 1) g r.model [r.entry] :=
    (State.assign_one (s := u) queue ((congrArg Group.conts (turned.group g)).trans h.conts)
      ((congrArg Group.model (turned.group g)).trans h.active) ((turned.span ..).trans h.span)).after turned
  have ready : t.dsp.ready = r.model :: came := by
    rw [← listed]
    exact congrArg (· ++ came) h.ready
  have stale : t.dsp.stale = [] := by rw [← listed]; exact h.fresh
  have size : min (t.dsp.deficitOf r.model + (t.modelRec r.model).quantum)
      (min (t.modelRec r.model).maxBatch ((t.contsFor r.model g).length + (t.dsp.of r.model).length)) = 1 := by
    have := h.quantum
    rw [State.contsFor, same.group, h.conts, same.modelRec, h.single, State.of_first queue]
    simp only [List.filter_nil, List.length_nil, List.length_cons]
    omega
  have some_ : ∃ x < 80, t.groupFree x = true :=
    ⟨g, h.small, (State.groupFree_congr same.frame (by decide) (by decide) (same.group g)).trans h.free⟩
  have run : State.dispatchLoop (fuel + 1) 0 t = State.dispatchLoop fuel 0 ((u.assign g r.model 1).charged r.model 1 came) :=
    State.dispatchLoop_assigns fuel ready (by simp [stale]) some_ chosen Nat.one_pos size
  rw [run]
  clear_value u
  obtain ⟨kept, left⟩ := (u.assign g r.model 1).charged_sameGroups r.model 1 came
  have done := assigned.before kept left
  rw [State.dispatchLoop_stops]
  · exact done
  · intro x low
    rcases eq_or_ne x g with rfl | other
    · exact State.groupFree_busy done.busy
    · exact (State.groupFree_congr done.frame (by decide) (by decide) (done.others x other)).trans (h.others x low other)

theorem State.OneBatch.dispatchAll (on : s.xbarOn = true) (awake : s.bit R.dspCtl 1 = false) (ages : (s.modelRec r.model).ageMs = 0) :
    s.Batched s.dispatchAll g r.model [r.entry] := by
  have young : s.dropAllAged = s := by
    rw [State.dropAllAged, h.queue, List.foldl_cons, List.foldl_nil, State.dropAged_young h.queue (.inl ages)]
  obtain ⟨came, listed⟩ := State.refreshReady_grows (s := s) (by rw [h.ready]; simpa using h.modelReady)
  rw [State.dispatchAll, awake, on, young]
  simp only [Bool.not_true, Bool.or_self, Bool.false_eq_true, if_false, listed]
  exact h.dispatchLoop came _

end

/-- Settles O59: each request by the reason that applies, the ready list by what makes a model ready, DISPATCH by its one turn. -/
theorem requestsAreQueuedAndDispatched : Obligations.RequestsAreQueuedAndDispatched := by
  refine ⟨fun s r rest => ?queues, fun s g m r => ?dispatch⟩
  case queues =>
    intro e full
    refine ⟨fun inbox => ?arrives, fun queue => ⟨fun some_ old => ?old, fun young => ?young, fun valid low waited => ?waits⟩⟩
    case arrives =>
      intro dropped
      have drops {x : Nat} (reason : s.dropReason r = some x) : dropped x := by
        refine .of_eq (congrArg Host.Outcome.next (State.takeRequest_drops inbox reason)) ⟨?_, ?_, ?_, State.dropBuffer_cause ..⟩
        · rw [State.dropBuffer_dsp]
          rfl
        · rw [State.dropBuffer_dsp]
          rfl
        · rw [State.dropBuffer_dsp, Dispatcher.drops_dropped]
          rfl
      refine ⟨fun on valid room total => ?_, fun off => drops (State.dropReason_off off),
        fun on invalid => drops (State.dropReason_unknown on invalid),
        fun on valid many => drops (State.dropReason_full on valid many),
        fun on valid room total => drops (State.dropReason_total on valid room total)⟩
      obtain ⟨queue, inbox', drops, -, -⟩ := State.refreshReady_sameWork
        ((s.descriptorTaken rest).setDsp { (s.descriptorTaken rest).dsp with queue := s.dsp.queue ++ [r] })
      exact .of_eq (congrArg Host.Outcome.next (State.takeRequest_queues inbox (State.dropReason_none on valid room total)))
        ⟨inbox', queue, drops, ((s.setDsp_changes _).trans (State.setDsp_changes ..)).trans (State.refreshReady_changes _)⟩
    case old =>
      have run := congrArg State.refreshReady (State.dropAged_old queue some_ old)
      obtain ⟨queue', -, drops, -, -⟩ :=
        State.refreshReady_sameWork ((s.setDsp { s.dsp with queue := rest }).dropBuffer r.handle 4)
      refine .of_eq (congrArg Host.Outcome.next run) ⟨?_, ?_⟩
      · rw [queue', State.dropBuffer_dsp]
        rfl
      · rw [drops, State.dropBuffer_dsp, Dispatcher.drops_dropped]
        rfl
    case young =>
      have run := congrArg State.refreshReady (State.dropAged_young queue young)
      obtain ⟨queue', -, drops, -, -⟩ := s.refreshReady_sameWork
      exact .of_eq (congrArg Host.Outcome.next run) ⟨queue', drops, s.refreshReady_changes⟩
    case waits =>
      have waited := State.waited_first queue waited
      exact .of_eq (congrArg Host.Outcome.next (if_pos waited)) ⟨State.mem_ready_refreshReady low
        (State.modelReady_waited queue valid waited), s.refreshReady_sameWork.queue, s.refreshReady_changes⟩
  case dispatch =>
    intro e k cb
    refine ⟨fun held => .of_eq (congrArg Host.Outcome.next (if_pos ?_)) rfl, ?_⟩
    · rcases held with paused | off
      · simp [paused]
      · simp [off]
    · rintro on awake queue rfl ready fresh valid fixed group ages single quantum small free others active conts span
      have length : (s.descriptor g 0 r.model 1 (s.modelRec r.model).params [r.entry]).length = 72 := by
        simp [State.descriptor, length_leBytes, zeros, Request.entry]
      have h : s.OneBatch g r := ⟨queue, ready, fresh, valid, fixed, group, single, quantum, small, free, others, active, conts,
        length ▸ span⟩
      obtain ⟨-, busy, open_, -, empty, count, dpa⟩ := h.dispatchAll on awake ages
      refine .of_eq rfl ⟨busy, open_, empty, count, ?_, fun x outside => ?_⟩
      · rw [dpa]
        refine (rdBytes_wrBytes_length _ _ length).trans ?_
        simp [State.descriptor, Request.entry, bnat, k, e]
      · rw [dpa]
        exact rdByte_wrBytes_outside _ _ _ _ (length.symm ▸ outside)

end Sys2Proof.Machine
end
section
/-!
SUPPORT. The end of a batch and the switch of a group's model (spec/14_steps_and_serving.md, R341, R342, R344).
-/

namespace Sys2Proof.Machine

/-! ### What leaves a group's batch as it is -/

/-- From `s` to `t` no packet arrives, no group changes its state or its open batch, and only group `g` changes at all. -/
structure State.KeepsBatch (g : Nat) (s t : State) : Prop where
  inbox : t.inbox = s.inbox
  st : (t.group g).st = (s.group g).st
  open_ : (t.group g).open_ = (s.group g).open_
  others : ∀ x, x ≠ g → t.group x = s.group x

section
variable {g : Nat} {s t u : State}

theorem State.KeepsBatch.refl (s : State) : State.KeepsBatch g s s := ⟨rfl, rfl, rfl, fun _ _ => rfl⟩

theorem State.KeepsBatch.trans (h : State.KeepsBatch g s t) (k : State.KeepsBatch g t u) : State.KeepsBatch g s u :=
  ⟨k.inbox.trans h.inbox, k.st.trans h.st, k.open_.trans h.open_, fun x other => (k.others x other).trans (h.others x other)⟩

theorem State.KeepsBatch.of_groups (inbox : t.inbox = s.inbox) (groups : t.dsp.groups = s.dsp.groups) :
    State.KeepsBatch g s t := by
  have same (x : Nat) : t.group x = s.group x := congrArg (mget Group.reset · x) groups
  exact ⟨inbox, by rw [same], by rw [same], fun x _ => same x⟩

theorem State.KeepsBatch.of_changes {w : List Field} (h : Changes w s t) (inbox : Field.inbox ∉ w) (dsp : Field.dsp ∉ w) :
    State.KeepsBatch g s t :=
  .of_groups (h.elsewhere .inbox inbox) (congrArg Dispatcher.groups (h.elsewhere .dsp dsp))

theorem State.KeepsBatch.setGroup {k : Group} (st : k.st = (s.group g).st) (open_ : k.open_ = (s.group g).open_) :
    State.KeepsBatch g s (s.setGroup g k) :=
  ⟨rfl, by rw [State.group_setGroup_same, st], by rw [State.group_setGroup_same, open_],
    fun _ other => State.group_setGroup_other _ _ other.symm⟩

theorem State.KeepsBatch.ite {c : Prop} [Decidable c] (h : State.KeepsBatch g s t) (k : State.KeepsBatch g s u) :
    State.KeepsBatch g s (if c then t else u) := by
  split <;> assumption

end

section
variable (s : State) (g : Nat)

theorem State.dropBuffer_groups (h : Word) (reason : Nat) : (s.dropBuffer h reason).dsp.groups = s.dsp.groups := by
  rw [s.dropBuffer_dsp h reason]
  rfl

theorem State.dropBuffer_keepsBatch (h : Word) (reason : Nat) : State.KeepsBatch g s (s.dropBuffer h reason) :=
  .of_groups ((s.dropBuffer_changes h reason).elsewhere .inbox (by decide)) (s.dropBuffer_groups h reason)

theorem State.completeEntry_keepsBatch (m : Nat) (x : BatchEntry) (b : List Byte) :
    State.KeepsBatch g s (s.completeEntry g m x b) := by
  unfold State.completeEntry
  extract_lets lane flags t
  have served : State.KeepsBatch g s t :=
    .ite (.of_changes (s.freeBuffer_changes x.handle) (by decide) (by decide))
      (.ite (.of_changes (s.queueResponse_changes ..) (by decide) (by decide)) (s.dropBuffer_keepsBatch g x.handle 7))
  clear_value t
  refine .ite served (served.trans ?_)
  have allocated : State.KeepsBatch g t (t.allocate (poolSize (handlePool x.handle))).1 :=
    .of_changes (t.allocate_changes _) (by decide) (by decide)
  split <;> (rename_i run; rw [run] at allocated)
  · exact allocated.trans (.setGroup rfl rfl)
  · exact allocated.trans (.of_groups rfl rfl)
  · exact allocated

theorem State.sendExit_keepsBatch : State.KeepsBatch g s (s.sendExit g) := by
  have numbered : State.KeepsBatch g s (s.seqTaken g) := .setGroup rfl rfl
  exact numbered.trans (.of_changes (State.sendDescriptor_after ..) (by decide) (by decide))

theorem State.exitGroup_keepsBatch : State.KeepsBatch g s (s.exitGroup g) := by
  unfold State.exitGroup
  exact .ite ((s.sendExit_keepsBatch g).trans (.setGroup rfl rfl)) (.refl s)

theorem State.refreshReady_keepsBatch : State.KeepsBatch g s s.refreshReady :=
  .of_groups (s.refreshReady_changes.elsewhere .inbox (by decide)) s.refreshReady_sameWork.groups

/-- What follows the entries of a completion: the group's EXIT where its job drains, and the ready list. -/
def State.afterBatch : State := (if s.groupDrains g then s.exitGroup g else s).refreshReady

theorem State.afterBatch_keepsBatch : State.KeepsBatch g s (s.afterBatch g) :=
  (State.KeepsBatch.ite (s.exitGroup_keepsBatch g) (.refl s)).trans (State.refreshReady_keepsBatch ..)

theorem State.afterBatch_poolUsed : (s.afterBatch g).poolUsed = s.poolUsed := by
  have exit : Changes [.regs, .dpa, .sems, .ue, .owed, .dsp] s (if s.groupDrains g then s.exitGroup g else s) :=
    .ite (s.exitGroup_changes g) (.refl _ s)
  exact ((State.refreshReady_changes _).elsewhere .poolUsed (by decide)).trans (exit.elsewhere .poolUsed (by decide))

end

theorem State.completeEntries_keepsBatch {g m : Nat} {data : List Byte} (l : List (BatchEntry × Nat)) (s : State) :
    State.KeepsBatch g s (l.foldl (fun s x => s.completeEntry g m x.1 (slice data (8 + 8 * x.2) 8)) s) := by
  induction l generalizing s with
  | nil => exact .refl s
  | cons x l ih => exact (s.completeEntry_keepsBatch g m x.1 _).trans (ih _)

/-! ### Parts of parts of a message -/

theorem getElem_slice (bs : List Byte) (o n i : Nat) (h : i < (slice bs o n).length) : (slice bs o n)[i] = bs.getD (o + i) 0 := by
  simp only [slice, List.getElem_append, List.getElem_take, List.getElem_drop, List.getElem_replicate]
  split
  next inside =>
    rw [List.length_take, List.length_drop] at inside
    rw [List.getD_eq_getElem _ _ (by omega)]
  next outside =>
    rw [List.length_take, List.length_drop] at outside
    rw [length_slice] at h
    rw [List.getD_eq_default _ _ (by omega)]

theorem slice_slice (bs : List Byte) (p : Nat) {o k n : Nat} (h : o + k ≤ n) : slice (slice bs p n) o k = slice bs (p + o) k := by
  refine List.ext_getElem (by rw [length_slice, length_slice]) fun i low _ => ?_
  rw [length_slice] at low
  rw [getElem_slice, getElem_slice, List.getD_eq_getElem _ _ (by rw [length_slice]; omega), getElem_slice, Nat.add_assoc]

/-! ### The buffer of an entry without flags (R341) -/

/-- After a free, a buffer of a pool that is enabled is not given out. -/
theorem State.freeBuffer_notUsed {s : State} {h : Word} (on : s.bit R.bpmCtl 0 = true)
    (below : handleIndex h < s.poolCount (handlePool h)) : (handlePool h, handleIndex h) ∉ (s.freeBuffer h).poolUsed := by
  by_cases used : (handlePool h, handleIndex h) ∈ s.poolUsed
  · rw [State.freeBuffer_held ⟨on, below, used⟩]
    simp
  · have kept : (s.freeBuffer h).poolUsed = s.poolUsed := by
      rw [State.freeBuffer_error fun held => used held.2.2]
      unfold State.countSat
      split <;> rfl
    rwa [kept]

theorem State.completeEntry_unflagged (s : State) (g m : Nat) (x : BatchEntry) {b : List Byte} (none_ : leAt b 6 1 = 0) :
    s.completeEntry g m x b = s.freeBuffer x.handle := by
  simp [State.completeEntry, none_, nbit]

/-! ### A completion message (R341) -/

section
variable {s : State} {g m seq : Nat} {es : List BatchEntry} {a : Arrival} {rest : List Arrival} (inbox : s.inbox = a :: rest)
  (slot : a.slot = s.mgmtSlot) (unit_ : a.unit = 1) (op : a.pkt.hdr.op = opWrite) (addr : a.pkt.hdr.addr = 0x1000 * g)
  (busy : (s.group g).st = .busy) (open_ : (s.group g).open_ = some (seq, m, es))
include inbox slot unit_ op addr busy open_

theorem State.batchCompletion_eq : s.batchCompletion =
    if completionOk seq es a.pkt.data then
      (es.zipIdx.foldl (fun s x => s.completeEntry g m x.1 (slice a.pkt.data (8 + 8 * x.2) 8))
        ((s.arrived a rest).setGroup g { s.group g with st := .idle, open_ := none })).afterBatch g
    else (s.arrived a rest).refuseCompletion g := by
  have taken := State.takeArrival_first inbox (p := fun a => a.pkt.hdr.op == opWrite && a.unit == 1) slot (by simp [op, unit_])
  have number : a.pkt.hdr.addr / 0x1000 = g := by omega
  have aligned : a.pkt.hdr.addr % 0x1000 = 0 := by omega
  have group : (s.arrived a rest).group g = s.group g :=
    congrArg (fun d : Dispatcher => mget Group.reset d.groups g) ((s.arrived_changes a rest).elsewhere .dsp (by decide))
  unfold State.arrived at group ⊢
  simp only [State.batchCompletion, taken, number, aligned, group, open_, busy]
  cases completionOk seq es a.pkt.data <;> rfl

end

/-! ### A group that faults (R341, R342) -/

/-- A free leaves the registers of the dispatcher. -/
theorem State.freeBuffer_keepsDsp (s : State) (h : Word) : State.KeepsRegs 0x2000 0x3000 s (s.freeBuffer h) := by
  by_cases held : s.Held h
  · exact State.freeBuffer_held held ▸ ⟨fun _ _ _ => rfl⟩
  · rw [State.freeBuffer_error held]
    exact (State.KeepsRegs.ite (.refl s) (s.setReg_keepsRegs _ (.inr (by decide)))).trans (State.raise_keepsRegs _ _ (.inr (by decide)))

theorem State.dropBuffer_fault (s : State) (h : Word) (reason : Nat) : (s.dropBuffer h reason).reg R.dspFault = s.reg R.dspFault
    ∧ (s.dropBuffer h reason).bit R.dspCause 2 = s.bit R.dspCause 2 := by
  have freed := s.freeBuffer_keepsDsp h
  have counted : (s.dropBuffer h reason).reg R.dspFault = (s.freeBuffer h).reg R.dspFault :=
    State.reg_raise_other _ _ (by decide)
  have cause : (s.dropBuffer h reason).bit R.dspCause 2 = (s.freeBuffer h).bit R.dspCause 2 :=
    State.bit_raise_other _ _ (by decide) (by decide)
  exact ⟨counted.trans (freed.reg _ (by decide) (by decide)), cause.trans (freed.bit (by decide) (by decide) 2)⟩

/-- What stands of a group that a refused message faults. -/
theorem State.faultGroup_records (s : State) (g code : Nat) (byte : code < 256) :
    ((s.faultGroup g code).group g).st = .faulted ∧ (s.faultGroup g code).bit R.dspCause 1 = true
      ∧ (s.faultGroup g code).bit R.dspCause 2 = s.bit R.dspCause 2
      ∧ (s.reg R.dspFault = 0 → (s.faultGroup g code).fld R.dspFault 31 24 = code) := by
  unfold State.faultGroup
  extract_lets k job s1 s2 s3
  have freed : s1.reg R.dspFault = s.reg R.dspFault ∧ s1.bit R.dspCause 2 = s.bit R.dspCause 2 :=
    List.foldlRecOn (motive := fun t : State => t.reg R.dspFault = s.reg R.dspFault ∧ t.bit R.dspCause 2 = s.bit R.dspCause 2)
      _ _ ⟨rfl, rfl⟩ fun t same h _ => ⟨(t.dropBuffer_fault h 6).1.trans same.1, (t.dropBuffer_fault h 6).2.trans same.2⟩
  have group : (s2.group g).st = .faulted := congrArg Group.st (State.group_setGroup_same ..)
  have kept : s2.reg R.dspFault = s1.reg R.dspFault ∧ s2.bit R.dspCause 2 = s1.bit R.dspCause 2 := ⟨rfl, rfl⟩
  have frame : Changes [.regs] s2 s3 := ((State.dspFault_changes ..).mono (by decide)).step (State.raise_changes ..) (by decide)
  clear_value s2
  have cause : s3.bit R.dspCause 2 = s2.bit R.dspCause 2 := by
    refine (State.bit_raise_other _ _ (by decide) (by decide)).trans ?_
    unfold State.dspFault
    split
    · exact State.bit_setReg_other _ _ (by decide) 2
    · rfl
  have record (empty : s2.reg R.dspFault = 0) : s3.fld R.dspFault 31 24 = code := by
    rw [State.fld, State.reg_raise_other _ _ (by decide), State.dspFault, if_pos empty, State.reg_setReg_same, BitVec.or_assoc]
    exact wfld_code _ byte (toNat_or_lt (toNat_atFld_lt 23 12 _ (by decide))
      ((toNat_atFld_lt 6 0 _ (by decide)).trans (by decide)))
  refine ⟨?_, State.bit_raise_same _ _ (by decide), ?_, fun empty => ?_⟩
  · have same : s3.group g = s2.group g :=
      congrArg (fun d : Dispatcher => mget Group.reset d.groups g) (frame.elsewhere .dsp (by decide))
    exact (congrArg Group.st same).trans group
  · exact cause.trans (kept.2.trans freed.2)
  · exact record (kept.1.trans (freed.1.trans empty))

/-! ### A group whose next model starts (R344) -/

/-- Folding a core's writes in counts at the core's own counters alone. -/
theorem State.foldCore_ctr (s : State) (u : Nat) {r : Reg} (outside : r.addr < tdBase (u / 4)) :
    (s.foldCore u).ctr r = s.ctr r := by
  have tiles {q : Reg} {o : Nat} (page : q.addr = tdBase (u / 4) + o + u % 4 * 0x100) : q.addr ≠ r.addr := by omega
  unfold State.foldCore
  extract_lets k bad badAcc s1 s2 s3 s4 s5 s6 s7 s8
  have stored : s1.cnt = s.cnt := by
    unfold s1
    refine foldl_keeps (g := State.cnt) (fun _ _ => ?_) ..
    rfl
  have matrix : s2.cnt = s1.cnt := by
    unfold s2
    refine foldl_keeps (g := State.cnt) (fun _ _ => ?_) ..
    rfl
  have flipped : s3.cnt = s2.cnt := by
    unfold s3
    refine foldl_keeps (g := State.cnt) (fun _ _ => ?_) ..
    rfl
  clear_value s1 s2 s3
  have flags : s5.cnt = s3.cnt := rfl
  clear_value s5
  have spikes : s6.ctr r = s5.ctr r := State.ctr_addCtr_other _ _ (tiles rfl)
  clear_value s6
  have dense : s7.ctr r = s6.ctr r := State.ctr_addCtr_other _ _ (tiles rfl)
  clear_value s7
  have marked : s8.cnt = s7.cnt := rfl
  clear_value s8
  have kept : s5.ctr r = s.ctr r := congrArg (mget 0 · r.addr) (flags.trans (flipped.trans (matrix.trans stored)))
  have left : (s8.setCore u { k with started := [], lsw := [], accw := [], flips := [], decays := [] }).cnt = s7.cnt :=
    ((State.setCore_changes ..).elsewhere .cnt (by decide)).trans marked
  exact (congrArg (mget 0 · r.addr) left).trans (dense.trans (spikes.trans kept))

/-- The start of the one core of a group whose next model's header is good: the group's number is 0 again, no counter of the
dispatcher moves, and the batch it holds goes out. -/
theorem State.switchHalted_starts {s : State} {g m u : Nat} {es : List BatchEntry} (on : s.xbarOn = true)
    (switching : (s.group g).st = .switching) (next : (s.group g).next = some (m, es)) (cores : (s.groupRec g).cores = [u])
    (halted : (s.core u).st = .halted) (quiet : s.qempty u = true) (clean : s.ue = []) (whole : (s.core u).decays = [])
    (ok : headerOk (s.modelRec m).prog (leNat (s.lsNow u (64 * (s.modelRec m).prog) 64)) = true) :
    ∃ v : State, s.switchHalted g = (v.sendBatch g m es).incCtr R.dspSwitchLo ∧ v.ctr R.dspSwitchLo = s.ctr R.dspSwitchLo
      ∧ v.group g = { s.group g with seq := 0 } ∧ ∃ count safelight, v.core u = Core.launched (s.modelRec m).prog count safelight := by
  let t := s.setGroup g { s.group g with seq := 0 }
  have start := State.startCore_eq (s := t) (pc := (s.modelRec m).prog) (.inr halted) quiet clean whole
  have header : leNat (t.lsNow u (64 * (s.modelRec m).prog) 64) = leNat (s.lsNow u (64 * (s.modelRec m).prog) 64) := rfl
  simp only [header, ok, if_true] at start
  have frame := t.foldCore_changes u
  have count := t.foldCore_ctr u (r := R.dspSwitchLo) (by simp only [R.dspSwitchLo, tdBase]; omega)
  have group : (t.foldCore u).group g = { s.group g with seq := 0 } :=
    (congrArg (fun d : Dispatcher => mget Group.reset d.groups g) (frame.elsewhere .dsp (by decide))).trans
      (State.group_setGroup_same ..)
  generalize t.foldCore u = f at start count group
  generalize nbits (leNat _) 446 18 = words, t.bit (R.tdCCtl u) 0 = safelight at start
  refine ⟨f.setCore u (Core.launched _ words safelight), ?_, count, group, words, safelight, State.core_setCore_same ..⟩
  have started : t.startGroupCores g m = _ := (congrArg (List.foldl _ t) cores).trans start
  have all : s.groupHalted g = true := by simp [State.groupHalted, cores, halted, quiet]
  unfold State.switchHalted
  extract_lets k numbered
  rw [show k.next = some (m, es) from next]
  dsimp only
  have runs : ¬(k.st ≠ .switching ∨ (!s.groupHalted g) = true ∨ (!s.xbarOn) = true) := by simp [k, switching, all, on]
  rw [if_neg runs, show numbered.startGroupCores g m = _ from started]
  exact if_neg (not_not_intro ((congrArg Group.st group).trans switching))

/-- Settles O60: a completion by what it leaves of the batch, its refusal by the fault, the switch by the start of its one core. -/
theorem batchesCompleteAndModelsSwitch : Obligations.BatchesCompleteAndModelsSwitch := by
  refine fun s g m seq es => ⟨fun a rest inbox slot unit_ op addr busy open_ => ?completion, fun u on small switching next core halted
    quiet clean whole => ?switch⟩
  case completion =>
    have run := State.batchCompletion_eq inbox slot unit_ op addr busy open_
    have arrived := s.arrived_changes a rest
    have kept : State.KeepsBatch g (s.arrived a rest) (s.arrived a rest) := .refl _
    refine ⟨fun ok => ?_, fun refused valid => ?_⟩
    · rw [if_pos ok] at run
      let t := (s.arrived a rest).setGroup g { s.group g with st := .idle, open_ := none }
      have freed := State.completeEntries_keepsBatch (g := g) (m := m) (data := a.pkt.data) es.zipIdx t
      have done := freed.trans (State.afterBatch_keepsBatch ..)
      refine .of_eq (congrArg Host.Outcome.next run) ⟨?_, ?_, ?_, fun x other => ?_, ?_⟩
      · exact done.inbox.trans (s.arrived_inbox a rest)
      · exact done.st.trans (congrArg Group.st (State.group_setGroup_same ..))
      · exact done.open_.trans (congrArg Group.open_ (State.group_setGroup_same ..))
      · rw [done.others x other, State.group_setGroup_other _ _ other.symm]
        exact congrArg (fun d : Dispatcher => mget Group.reset d.groups x) (arrived.elsewhere .dsp (by decide))
      · rintro x rfl none_ enabled below
        have regs : Changes [.inbox, .commits, .dsp] s t := (arrived.mono (by decide)).step (State.setGroup_changes ..) (by decide)
        rw [State.afterBatch_poolUsed]
        have flags : leAt (slice a.pkt.data 8 8) 6 1 = 0 := by rwa [leAt, slice_slice _ _ (by decide)]
        have one : [x].zipIdx.foldl (fun s x => s.completeEntry g m x.1 (slice a.pkt.data (8 + 8 * x.2) 8)) t = t.freeBuffer x.handle :=
          t.completeEntry_unflagged g m x flags
        rw [one]
        refine State.freeBuffer_notUsed ((regs.bit (by decide) ..).trans enabled) ?_
        rwa [State.poolCount, State.fld, regs.reg (by decide)]
    · have same : (s.arrived a rest).groupRec g = s.groupRec g :=
        congrArg (CfgSet.group · g) (arrived.elsewhere .active (by decide))
      have faults : (s.arrived a rest).refuseCompletion g = ((s.arrived a rest).raise R.dspCause 2).faultGroup g fcDenied :=
        if_pos ((congrArg GroupRec.valid same).trans valid)
      rw [if_neg (by simp [refused]), faults] at run
      obtain ⟨st, faulted, cause, record⟩ :=
        State.faultGroup_records ((s.arrived a rest).raise R.dspCause 2) g fcDenied (by decide)
      refine .of_eq (congrArg Host.Outcome.next run) ⟨st, faulted, cause.trans (State.bit_raise_same _ _ (by decide)), fun empty => ?_⟩
      refine record ((State.reg_raise_other _ _ (by decide)).trans ?_)
      rw [arrived.reg (by decide), empty]
  case switch =>
    intro pc ok
    obtain ⟨v, run, count, group, _, _, launched⟩ := State.switchHalted_starts on switching next core halted quiet clean whole ok
    have after : Changes [.regs, .cnt, .dpa, .sems, .ue, .owed, .dsp] v ((v.sendBatch g m es).incCtr R.dspSwitchLo) :=
      ((v.sendBatch_changes g m es).mono (by decide)).step (State.incCtr_changes ..) (by decide)
    have given : ((v.sendBatch g m es).incCtr R.dspSwitchLo).group g = (v.group g).given m es := by
      rw [State.sendBatch_eq]
      exact State.group_setGroup_same ..
    have running : (((v.sendBatch g m es).incCtr R.dspSwitchLo).core u) = v.core u := after.core (by decide) u
    refine .of_eq (congrArg Host.Outcome.next ((if_pos small).trans run)) ?_
    rw [given, running, launched, group]
    refine ⟨rfl, rfl, rfl, rfl, rfl, rfl, ?_⟩
    rw [State.ctr_incCtr_same, ← count]
    exact congrArg (· + 1) (congrArg (mget 0 · _) ((State.sendBatch_changes ..).elsewhere .cnt (by decide)))

end Sys2Proof.Machine
end
section
/-!
SUPPORT. The drain of a job slot (spec/14_steps_and_serving.md, R328, R329): its start, its limit and its end.
-/

namespace Sys2Proof.Machine

/-! ### What a drain leaves of the registers of the device -/

section
variable (s : State)

theorem State.memFault_keepsBelowTiles (n code job agent kind addr : Nat) :
    State.KeepsRegs 0 (tdBase 0) s (s.memFault n code job agent kind addr) := by
  have tile (k : Nat) : tdBase 0 ≤ tdBase n + k := by unfold tdBase; omega
  unfold State.memFault State.memRecord
  refine .trans (.trans (.ite ?_ (.refl s)) (State.raise_keepsRegs _ _ (.inr (tile _)))) ((State.owe_changes ..).keepsRegs (by decide))
  exact ((s.setReg_keepsRegs _ (.inr (tile _))).trans (State.setReg_keepsRegs _ _ (.inr (tile _)))).trans
    (State.setReg_keepsRegs _ _ (.inr (tile _)))

theorem State.sendDescriptor_keepsBelowTiles (g op model n params : Nat) (es : List BatchEntry) :
    State.KeepsRegs 0 (tdBase 0) s (s.sendDescriptor g op model n params es) := by
  unfold State.sendDescriptor
  extract_lets r k e bs t
  have taken : State.KeepsRegs 0 (tdBase 0) s t := (State.setGroup_changes ..).keepsRegs (by decide)
  clear_value t bs
  refine .ite (taken.trans (State.memFault_keepsBelowTiles ..)) ?_
  have stored := taken.trans ((State.writeDpa_changes t r.cb bs).keepsRegs (by decide))
  cases r.cores with
  | nil => exact stored
  | cons u l => exact stored.trans (State.semUpdate_keepsBelowTiles ..)

theorem State.exitGroup_keepsBelowTiles (g : Nat) : State.KeepsRegs 0 (tdBase 0) s (s.exitGroup g) := by
  unfold State.exitGroup
  refine .ite ?_ (.refl s)
  exact (s.sendDescriptor_keepsBelowTiles ..).trans ((State.setGroup_changes ..).keepsRegs (by decide))

end

/-! ### The start of a drain -/

/-- The checks of JOB_DRAIN. -/
def State.drainChecks (s : State) (m : Nat) : Checks :=
  { Checks.plain (firstBad [(0, s.argLength m != 4 || 63 < s.argSlot m), (1, s.argNum m 1 1 != 0)]) [.running] with
    slot := some (s.argSlot m, [.running, .eval, .failed]) }

theorem State.drainChecks_pass {s : State} {m j : Nat} (length : s.argLength m = 4) (slot : s.argNum m 0 1 = j) (small : j < 64)
    (zero : s.argNum m 1 1 = 0) : s.drainChecks m = .ofSlot none [.running] j [.running, .eval, .failed] := by
  have high : ¬63 < j := by omega
  simp [State.drainChecks, State.argSlot, length, slot, zero, high, firstBad, Checks.ofSlot, Checks.plain]

/-- The drain of a slot begins in the slot itself, and the EXIT to its groups leaves the slot and the mailboxes as they are. -/
theorem State.startDrain_starts (s : State) (j : Nat) (mbx : Option Nat) (limit : Nat) : let t := s.startDrain j mbx limit
    (t.job j).st = .draining ∧ (t.job j).drain = some { fromSt := (s.job j).st, mbx := mbx, limit := limit, released := false }
      ∧ t.reg R.devMbxBusy = s.reg R.devMbxBusy := by
  unfold State.startDrain
  extract_lets st u
  have slot : (u.job j).st = .draining ∧ (u.job j).drain = some { fromSt := st, mbx := mbx, limit := limit, released := false } := by
    simp only [u, State.job_updJob_same, (s.job_jobState_same j .draining).1, and_self]
  have box : u.reg R.devMbxBusy = s.reg R.devMbxBusy := rfl
  clear_value u
  have frame : Changes [.regs, .dpa, .sems, .ue, .owed, .dsp] u ((u.jobGroups (u.job j).job).foldl (fun s g => s.exitGroup g) u) :=
    .foldl (.refl _ u) fun t g => t.exitGroup_changes g
  have kept : State.KeepsRegs 0 (tdBase 0) u ((u.jobGroups (u.job j).job).foldl (fun s g => s.exitGroup g) u) :=
    .foldl (.refl u) fun t g => t.exitGroup_keepsBelowTiles g
  rw [frame.job (by decide)]
  exact ⟨slot.1, slot.2, (kept.reg _ (Nat.zero_le _) (by decide)).trans box⟩

/-! ### The limit of a drain -/

/-- A core that no longer waits, and stops where it runs. -/
def Core.Stops (k : Core) : Prop := k.st ≠ .waiting ∧ (k.st = .running → k.stopping = true)

/-- A core that works is stopped, another is left alone. -/
def State.stopWorking (s : State) (u : Nat) : State :=
  if (s.core u).st = .running ∨ (s.core u).st = .waiting then s.stopCore u else s

theorem State.core_enterHalted_other (s : State) {u x : Nat} (other : x ≠ u) (t : Nat) : (s.enterHalted u t).core x = s.core x :=
  ((State.raise_changes ..).core (by decide) x).trans (State.core_setCore_other _ _ other.symm)

theorem State.stopWorking_stops (s : State) (u : Nat) : ((s.stopWorking u).core u).Stops := by
  unfold State.stopWorking
  split_ifs with works
  · rcases works with runs | waits
    · cases blocked : (s.core u).blocked with
      | true =>
        rw [State.stopCore_blocked runs blocked, Core.Stops, (State.enterHalted_halts ..).1]
        simp
      | false =>
        rw [State.stopCore_holding runs blocked, State.core_setCore_same, Core.Stops]
        simp [runs]
    · rw [State.stopCore_waiting waits, Core.Stops, (State.enterHalted_halts ..).1]
      simp
  · exact ⟨fun waits => works (.inr waits), fun runs => absurd (.inl runs) works⟩

theorem State.stopWorking_other (s : State) {u x : Nat} (other : x ≠ u) : (s.stopWorking u).core x = s.core x := by
  unfold State.stopWorking
  split_ifs with works
  · rcases works with runs | waits
    · cases blocked : (s.core u).blocked with
      | true => rw [State.stopCore_blocked runs blocked, State.core_enterHalted_other _ other]
      | false => rw [State.stopCore_holding runs blocked, State.core_setCore_other _ _ other.symm]
    · rw [State.stopCore_waiting waits, State.core_enterHalted_other _ other]
      exact (State.addCtr_changes ..).core (by decide) x
  · rfl

theorem State.stopAll_stops {u : Nat} (l : List Nat) (s : State) (h : u ∈ l ∨ (s.core u).Stops) :
    ((l.foldl State.stopWorking s).core u).Stops := by
  induction l generalizing s with
  | nil => exact h.resolve_left List.not_mem_nil
  | cons x l ih =>
    refine ih _ (or_iff_not_imp_left.mpr fun later => ?_)
    by_cases now : u = x
    · exact now ▸ s.stopWorking_stops u
    · rw [s.stopWorking_other now]
      exact h.resolve_left fun mem => (List.mem_cons.mp mem).elim now later

theorem State.drainLimit_works {s : State} {j : Nat} (draining : (s.job j).st = .draining) (run : (s.job j).drain ≠ none)
    (works : s.coresStopped j = false) :
    s.drainLimit j = ((s.jobCores j).foldl State.stopWorking s).updJob j fun k => { k with incomplete := true } := by
  have some_ : (s.job j).drain.isNone = false := Option.isNone_eq_false_iff.mpr (Option.isSome_iff_ne_none.mpr run)
  exact if_neg (by simp [draining, some_, works])

/-! ### The end of a drain -/

/-- The counters of a slot at the end of its step (R329). -/
def State.stepEnded (s : State) (j : Nat) (d : DrainRun) : State :=
  if d.fromSt = .running ∧ (s.job j).code = 0 ∧ !(s.job j).incomplete then
    (s.setStep j ((s.job j).step + 1)).updJob j fun k => { k with evals := 0 }
  else if d.fromSt = .eval then s.updJob j fun k => { k with evals := k.evals + 1 }
  else s

theorem State.stepEnded_changes (s : State) (j : Nat) (d : DrainRun) : Changes [.jobs] s (s.stepEnded j d) :=
  .ite ((s.setStep_changes ..).trans (State.updJob_changes ..)) (.ite (s.updJob_changes ..) (.refl _ s))

theorem State.stepEnded_job (s : State) (j : Nat) (d : DrainRun) :
    let done := d.fromSt = .running ∧ (s.job j).code = 0 ∧ (s.job j).incomplete = false
    ((s.stepEnded j d).job j).step = (if done then (s.job j).step + 1 else (s.job j).step)
      ∧ ((s.stepEnded j d).job j).evals = (if done then 0 else if d.fromSt = .eval then (s.job j).evals + 1 else (s.job j).evals) := by
  simp only [State.stepEnded, Bool.not_eq_true']
  split_ifs
  · rw [State.job_updJob_same, State.setStep, State.job_updJob_same]
    exact ⟨rfl, rfl⟩
  · rw [State.job_updJob_same]
    exact ⟨rfl, rfl⟩
  · exact ⟨rfl, rfl⟩

/-- The slot at the end of its drain. -/
def State.slotDrained (s : State) (j : Nat) (d : DrainRun) : State :=
  ((s.stepEnded j d).jobState j .ready).updJob j fun k => { k with drain := none }

theorem State.slotDrained_changes (s : State) (j : Nat) (d : DrainRun) : Changes [.jobs] s (s.slotDrained j d) :=
  ((s.stepEnded_changes j d).trans (State.jobState_changes ..)).trans (State.updJob_changes ..)

theorem State.slotDrained_job (s : State) (j : Nat) (d : DrainRun) : let k := (s.slotDrained j d).job j
    k.st = .ready ∧ k.drain = none ∧ k.step = ((s.stepEnded j d).job j).step ∧ k.evals = ((s.stepEnded j d).job j).evals := by
  simp only [State.slotDrained, State.jobState, State.job_updJob_same, and_self]

section
variable {s : State} {j m : Nat} {d : DrainRun}

/-- The end of a drain that a mailbox asked for, of a job without groups. -/
theorem State.endDrain_unserved (unserved : s.jobGroups (s.job j).job = []) (mbx : d.mbx = some m) :
    s.endDrain j d = ((s.slotDrained j d).slotEvent evDrain j).ok m
      (leBytes 1 (bnat (s.job j).incomplete) ++ leBytes 7 0 ++ leBytes 8 ((s.stepEnded j d).job j).step.toNat) := by
  have groups : (s.slotDrained j d).jobGroups (s.job j).job = [] :=
    ((s.slotDrained_changes j d).jobGroups (by decide) _).trans unserved
  have step : (((s.slotDrained j d).slotEvent evDrain j).job j).step = ((s.stepEnded j d).job j).step := by
    rw [(State.slotEvent_changes ..).job (by decide), (s.slotDrained_job j d).2.2.1]
  unfold State.endDrain
  extract_lets k a b c e
  have same : b = s.slotDrained j d := rfl
  have none_ : c = b := by unfold c; rw [same, groups]; rfl
  clear_value b c
  subst none_ same
  rw [mbx, ← step]

/-- Everything of a drain whose pages are released, but the end of its step. -/
theorem State.drainComplete_released (drain : (s.job j).drain = some d) (released : d.released = true)
    (stopped : s.coresStopped j = true) (quiet : ∀ n < s.tiles, s.pagerBusy n = false) :
    ∃ t, Changes [.regs, .links, .shutters] s t ∧ s.drainComplete j = (t.endDrain j d).deviceDrain := by
  have idle : ((List.range s.tiles).any fun n => s.pagerBusy n) = false :=
    List.any_eq_false.mpr fun n mem => by simp [quiet n (List.mem_range.mp mem)]
  have same : { d with released := true } = d := by
    cases d
    exact congrArg (DrainRun.mk _ _ _) released.symm
  refine ⟨_, ?_, by
    simp only [State.drainComplete, drain, stopped, released, idle, same, Bool.not_true, Bool.false_eq_true, Bool.false_and, if_false,
      if_true]; rfl⟩
  exact .ite (((s.clearJobMarks_changes _).mono (by decide)).trans (State.renewShutters_changes ..))
    ((s.clearJobMarks_changes _).mono (by decide))

end

/-- What the end of a drain leaves of slot `j`, with the answer to mailbox `m`. -/
structure State.DrainEnds (s : State) (j m : Nat) (d : DrainRun) (t : State) : Prop where
  ready : (t.job j).st = .ready
  gone : (t.job j).drain = none
  step : (t.job j).step = ((s.stepEnded j d).job j).step
  evals : (t.job j).evals = ((s.stepEnded j d).job j).evals
  answered : t.answered m 0 0 (leBytes 8 (bnat (s.job j).incomplete) ++ leBytes 8 ((s.stepEnded j d).job j).step.toNat)
  event : t.bit R.devEvent 2 = true

theorem State.drainComplete_ends {s : State} {j m : Nat} {d : DrainRun} (runs : s.firmware = true) (drain : (s.job j).drain = some d)
    (released : d.released = true) (mbx : d.mbx = some m) (box : m < 16) (stopped : s.coresStopped j = true)
    (quiet : ∀ n < s.tiles, s.pagerBusy n = false) (stays : s.mgmt.devStop = none) (unserved : s.jobGroups (s.job j).job = []) :
    Completes (exec (.drainComplete j) s) (s.DrainEnds j m d) := by
  obtain ⟨t, frame, run⟩ := State.drainComplete_released drain released stopped quiet
  have job : t.job j = s.job j := frame.job (by decide) j
  have ended : ((t.stepEnded j d).job j).step = ((s.stepEnded j d).job j).step
      ∧ ((t.stepEnded j d).job j).evals = ((s.stepEnded j d).job j).evals := by
    obtain ⟨step, evals⟩ := t.stepEnded_job j d
    obtain ⟨step', evals'⟩ := s.stepEnded_job j d
    rw [step, evals, step', evals', job]
    exact ⟨rfl, rfl⟩
  have stop : t.mgmt.devStop = none := (congrArg Mgmt.devStop (frame.elsewhere .mgmt (by decide))).trans stays
  have groups : t.jobGroups (t.job j).job = [] := by rw [job, frame.jobGroups (by decide), unserved]
  rw [State.endDrain_unserved groups mbx, job, ended.1] at run
  have slot := t.slotDrained_job j d
  have kept := (t.slotDrained_changes j d).elsewhere .mgmt (by decide)
  generalize t.slotDrained j d = u at run slot kept
  have res : leBytes 1 (bnat (s.job j).incomplete) ++ leBytes 7 0 = leBytes 8 (bnat (s.job j).incomplete) := by
    cases (s.job j).incomplete <;> rfl
  rw [res] at run
  have after : Changes [.regs, .mbx, .mgmt] u ((u.slotEvent evDrain j).ok m
      (leBytes 8 (bnat (s.job j).incomplete) ++ leBytes 8 ((s.stepEnded j d).job j).step.toNat)) :=
    ((u.slotEvent_changes ..).mono (by decide)).step (State.ok_changes ..) (by decide)
  have halted : (((u.slotEvent evDrain j).ok m
      (leBytes 8 (bnat (s.job j).incomplete) ++ leBytes 8 ((s.stepEnded j d).job j).step.toNat))).mgmt.devStop = none :=
    (congrArg Mgmt.devStop kept).trans stop
  have answered := State.reply_answered (u.slotEvent evDrain j) box (by decide : stOk < 65536) (by decide : 0 < 65536)
    (res := leBytes 8 (bnat (s.job j).incomplete) ++ leBytes 8 ((s.stepEnded j d).job j).step.toNat)
    (by simp only [List.length_append, length_leBytes]; decide)
  obtain ⟨ready, gone, step, evals⟩ := slot
  rw [← after.job (by decide) j] at ready gone step evals
  rw [State.deviceDrain_of_none halted] at run
  refine .of_eq (congrArg Host.Outcome.next ((if_pos runs).trans run)) ⟨ready, gone, step.trans ended.1, evals.trans ended.2, answered, ?_⟩
  rw [State.bit, State.ok, State.reg_reply_other _ _ _ _ _ (by decide) (by decide)]
  exact State.bit_raise_same _ _ (by decide)

/-- Settles O23: the drain's start in its slot, its limit core by core, its end by what the end of the step leaves. -/
theorem jobsDrain : Obligations.JobsDrain := by
  refine fun s m j => ⟨fun asked running slot small zero works => ?starts, fun runs draining run working => ?limit,
    fun d runs drain released mbx box stopped quiet stays unserved sound whole => ?ends,
    fun d runs drain released mbx box stopped quiet stays unserved part => ?incomplete⟩
  case starts =>
    obtain ⟨box, -, busy, -, -, -, -, -, length⟩ := (s.asked_iff ..).mp asked
    have run := State.command_ofSlot (chk := fun s => s.drainChecks m) asked (State.drainChecks_pass (s := s.begun) length slot small zero)
      (by simp [running]) (by simpa using works)
      fun s => (s.keepRunning m 0x0032 false).startDrain (s.argSlot m) (some m) (s.argNum m 2 2)
    obtain ⟨st, drain, kept⟩ := (s.begun.keepRunning m 0x0032 false).startDrain_starts j (some m) (s.argNum m 2 2)
    rw [show s.begun.argSlot m = j from slot] at run
    exact .of_eq (congrArg Host.Outcome.next run) ⟨st, (congrArg (wbit · m) kept).trans busy, drain⟩
  case limit =>
    refine .of_eq (congrArg Host.Outcome.next ((if_pos runs).trans (State.drainLimit_works draining run working))) ⟨?_, fun u mem => ?_⟩
    · rw [State.job_updJob_same]
    · exact State.stopAll_stops _ s (.inl mem)
  case ends =>
    obtain ⟨t, run, ready, gone, step, evals, answered, event⟩ :=
      State.drainComplete_ends runs drain released mbx box stopped quiet stays unserved
    obtain ⟨step', evals'⟩ := s.stepEnded_job j d
    simp only [whole, and_true] at step' evals'
    rw [step'] at step answered
    rw [whole] at answered
    exact ⟨t, run, ready, gone, step, evals.trans evals', answered, event⟩
  case incomplete =>
    obtain ⟨t, run, ready, gone, step, -, answered, event⟩ :=
      State.drainComplete_ends runs drain released mbx box stopped quiet stays unserved
    obtain ⟨step', -⟩ := s.stepEnded_job j d
    simp only [part, Bool.true_eq_false, and_false, if_false] at step'
    rw [step'] at step answered
    rw [part] at answered
    exact ⟨t, run, ready, gone, step, answered, event⟩

end Sys2Proof.Machine
end
section
/-!
SUPPORT. Configuration sets written, read and copied (spec/14_steps_and_serving.md, R333; spec/15_management_interface.md, R359, R361).
-/

namespace Sys2Proof.Machine

/-- Where Hyzacia runs, the device is in a state in which it takes commands. -/
theorem State.dev_mem_devFw {s : State} (runs : s.firmware = true) : s.dev ∈ devFw := by
  simpa [State.firmware, devFw, or_assoc] using runs

/-- Both bytes of a 16-bit argument that is 0 are 0. -/
theorem State.argNum_bytes_zero {s : State} {m o : Nat} (zero : s.argNum m o 2 = 0) : s.argNum m o 1 = 0 ∧ s.argNum m (o + 1) 1 = 0 := by
  have split : s.argNum m o 2 = s.argNum m o 1 + 256 * s.argNum m (o + 1) 1 := by
    simp only [State.argNum, State.mbxNum, mbxAddr]
    rw [show 2 = 1 + 1 from rfl, rdBytes_append, leNat_append, length_rdBytes]
    rfl
  omega

/-! ### Records of a set (Table 15.8) -/

/-- The parts whose records are byte strings of one size, one table for all slots. -/
def isRecordPart (p : Nat) : Prop := p = 5 ∨ p = 11 ∨ p = 12

theorem isListPart_of_record {p : Nat} (h : isRecordPart p) : isListPart p = false := by
  rcases h with rfl | rfl | rfl <;> rfl

theorem length_argBytes (s : State) (m o n : Nat) : (s.argBytes m o n).length = n := length_rdBytes ..

theorem slice_all {b : List Byte} {n : Nat} (length : b.length = n) : slice b 0 n = b := by
  rw [slice_of_le (by omega), List.drop_zero, ← length, List.take_length]

theorem CfgSet.readPart_one {p : Nat} (list : isListPart p = false) (c : CfgSet) (slot i : Nat) :
    c.readPart p slot i 1 = c.recBytes p slot i := by
  simp [CfgSet.readPart, list]

theorem CfgSet.writePart_one {p : Nat} (list : isListPart p = false) (c : CfgSet) (slot i : Nat) {b : List Byte}
    (length : b.length = recSize p) : c.writePart p slot i 1 b = c.writeRec p slot i b := by
  simp only [CfgSet.writePart, list, Bool.false_eq_true, if_false, List.range_one, List.foldl_cons, List.foldl_nil, Nat.mul_zero,
    Nat.add_zero, slice_all length]

theorem CfgSet.recBytes_writeRec {p : Nat} (h : isRecordPart p) (c : CfgSet) (slot i : Nat) (b : List Byte) :
    (c.writeRec p slot i b).recBytes p slot i = b ∧ ∀ k, k ≠ i → (c.writeRec p slot i b).recBytes p slot k = c.recBytes p slot k := by
  rcases h with rfl | rfl | rfl <;> exact ⟨mget_mset_same .., fun k other => mget_mset_other _ _ _ other.symm⟩

theorem recsBad_one {p : Nat} (list : isListPart p = false) (v : Variant) {b : List Byte} (length : b.length = recSize p) :
    recsBad v p 1 b = recBad p b := by
  simp [recsBad, list, slice_all length]

/-! ### The checks of CFG_WRITE and CFG_READ (R361) -/

theorem hasSlotArg_zero (p : Nat) : ¬(if hasSlotArg p then 63 else 0) < 0 := Nat.not_lt_zero _

section
variable {s : State} {m p : Nat} (part : s.argNum m 0 1 = p) (slot : s.argNum m 2 2 = 0)
include part slot

theorem State.cfgWriteChecks_pass {i : Nat} (record : isRecordPart p) (length : s.argLength m = 16 + recSize p)
    (inline_ : s.argNum m 1 1 = 0) (first : s.argNum m 4 4 = i) (below : i < recCount p) (one : s.argNum m 8 4 = 1)
    (good : recBad p (s.argBytes m 16 (recSize p)) = none) : s.cfgWriteChecks m = .plain none devFw := by
  obtain ⟨zero, pad⟩ := State.argNum_bytes_zero slot
  have list := isListPart_of_record record
  have fits : ¬4080 < 16 + recSize p := by rcases record with rfl | rfl | rfl <;> decide
  have known : ¬partCount ≤ p := by rcases record with rfl | rfl | rfl <;> decide
  have within_ : ¬recCount p < i + 1 := by omega
  have arg : firstBad ((0, s.argLength m != 16 + recSize p || decide (4080 < 16 + recSize p))
      :: cfgArgs p 0 0 i 1 (s.argNum m 12 4) false false true) = none := by
    simp [firstBad, cfgArgs, length, fits, known, list, below.not_ge, within_]
  have good' := (recsBad_one list s.variant (length_argBytes s m 16 (recSize p))).trans good
  have data : nbit 0 0 = false := rfl
  simp only [State.cfgWriteChecks, part, zero, pad, inline_, first, one, Nat.mul_one, data, Bool.false_eq_true, if_false, good',
    Option.map_none, ite_self]
  exact congrArg (Checks.plain · devFw) arg

theorem State.cfgReadChecks_pass {n : Nat} (known : p < 13) (list : isListPart p = false) (length : s.argLength m = 16)
    (set_ : s.argNum m 1 1 ≤ 1) (first : s.argNum m 4 4 = 0) (count : s.argNum m 8 4 = n) (most : n ≤ recCount p)
    (staged : s.argNum m 12 4 + recSize p * n ≤ 0xFFF000) : s.cfgReadChecks m = .plain none devFw := by
  obtain ⟨zero, pad⟩ := State.argNum_bytes_zero slot
  have some_ : recCount p ≠ 0 := by
    revert list
    interval_cases p <;> decide
  have two : ¬2 ≤ s.argNum m 1 1 := by omega
  have arg : firstBad ((0, s.argLength m != 16)
      :: cfgArgs p 0 0 0 n (s.argNum m 12 4) (2 ≤ s.argNum m 1 1) true false) = none := by
    simp [firstBad, cfgArgs, partCount, stageEnd, length, list, known.not_ge, some_, two, most.not_gt, staged.not_gt]
  simp only [State.cfgReadChecks, part, zero, pad, first, count]
  exact congrArg (Checks.plain · devFw) arg

end

/-- Settles O20: each command by its checks and by what its work stores, the records by the two laws of a table. -/
theorem configurationIsWrittenReadAndCopied : Obligations.ConfigurationIsWrittenReadAndCopied := by
  refine ⟨fun s m p i runs record below => ⟨fun asked part inline_ slot first one good => ?write,
    fun asked state roster good => ?roster⟩, fun s m p n runs => ⟨fun asked part known notList set_ slot first count most staged => ?read,
    fun asked => ?copy⟩⟩
  case write =>
    obtain ⟨box, -, -, -, -, -, -, -, length⟩ := (s.asked_iff ..).mp asked
    have run := State.command_plain (chk := fun s => s.cfgWriteChecks m) asked (State.dev_mem_devFw runs)
      (State.cfgWriteChecks_pass (s := s.begun) part slot record length inline_ first below one good) fun s => s.cfgWrite m
    have list := isListPart_of_record record
    obtain ⟨zero, -⟩ := State.argNum_bytes_zero slot
    let u : State := { s.begun with shadow := s.shadow.writeRec p 0 i (s.argBytes m 16 (recSize p)) }
    have wrote : s.begun.cfgWrite m = u.ok m [] := by
      have data : nbit 0 0 = false := rfl
      simp only [State.cfgWrite, show s.begun.argNum m 0 1 = p from part, show s.begun.argNum m 8 4 = 1 from one,
        show s.begun.argNum m 1 1 = 0 from inline_, show s.begun.argNum m 2 1 = 0 from zero, show s.begun.argNum m 4 4 = i from first,
        data, Bool.false_eq_true, if_false, Nat.mul_one, CfgSet.writePart_one list _ _ _ (length_argBytes ..)]
      rfl
    obtain ⟨same, others⟩ := s.shadow.recBytes_writeRec record 0 i (s.argBytes m 16 (recSize p))
    have frame : Changes [.mgmt, .shadow] s u := (s.begun_changes.mono (by decide)).step .shadow (by decide)
    have shadow : (u.ok m []).shadow = u.shadow := (State.ok_changes ..).elsewhere .shadow (by decide)
    refine .of_eq (congrArg Host.Outcome.next (run.trans wrote)) ⟨State.reply_answered _ box (by decide) (by decide) (by decide),
      (frame.mono (by decide)).step (State.ok_changes ..) (by decide), ?_, fun k other => ?_⟩
    · rw [shadow, CfgSet.readPart_one list]
      exact same
    · rw [shadow, CfgSet.readPart_one list, CfgSet.readPart_one list]
      exact others k other
  case roster =>
    obtain ⟨box, -, -, -, -, -, -, -, length⟩ := (s.asked_iff ..).mp asked
    have plain : Checks.plain (rosterBad (s.begun.argBytes m 0 520) (s.begun.argLength m)) [.configured, .running]
        = .plain none [.configured, .running] := by
      rw [show s.begun.argLength m = 520 from length]
      exact congrArg (Checks.plain · _) good
    have run := State.command_plain
      (chk := fun s => Checks.plain (rosterBad (s.argBytes m 0 520) (s.argLength m)) [.configured, .running]) asked
      (by simpa using state) plain fun s => s.voteRoster m
    let u : State := { s.begun with shadow := { s.shadow with
      rosters := mset Roster.empty s.shadow.rosters (leAt (s.argBytes m 0 520) 1 1) (rosterOf (s.argBytes m 0 520)) } }
    have frame : Changes [.mgmt, .shadow] s u := (s.begun_changes.mono (by decide)).step .shadow (by decide)
    have slot : s.argNum m 1 1 = leAt (s.argBytes m 0 520) 1 1 := by
      rw [leAt, State.argBytes, slice_rdBytes _ _ (by decide)]
      rfl
    refine .of_eq (congrArg Host.Outcome.next ((if_neg (by rw [roster]; decide)).trans run))
      ⟨State.reply_answered u box (by decide) (by decide) (by decide),
        (frame.mono (by decide)).step (State.ok_changes u m []) (by decide), ?_⟩
    rw [slot]
    exact mget_mset_same ..
  case read =>
    obtain ⟨box, -, -, -, -, -, -, -, length⟩ := (s.asked_iff ..).mp asked
    have list : isListPart p = false := by
      simp only [isListPart, Bool.and_eq_false_iff, decide_eq_false_iff_not]
      omega
    obtain ⟨zero, -⟩ := State.argNum_bytes_zero slot
    have run := State.command_plain (chk := fun s => s.cfgReadChecks m) asked (State.dev_mem_devFw runs)
      (State.cfgReadChecks_pass (s := s.begun) part slot known list length set_ first count most staged) fun s => s.cfgRead m
    let b := (if s.argNum m 1 1 = 0 then s.active else s.shadow).readPart p 0 0 n
    have read : s.begun.cfgRead m = (s.begun.writeBar2 (s.argNum m 12 4) b).ok m (leBytes 4 b.length) := by
      simp only [State.cfgRead, show s.begun.argNum m 0 1 = p from part, show s.begun.argNum m 8 4 = n from count,
        show s.begun.argNum m 2 1 = 0 from zero, show s.begun.argNum m 4 4 = 0 from first]
      rfl
    refine .of_eq (congrArg Host.Outcome.next (run.trans read)) ⟨State.reply_answered _ box (by decide) (by decide)
      (by rw [length_leBytes]; decide), ?_, ?_⟩
    · rw [(State.ok_changes ..).elsewhere .bar2 (by decide)]
      exact rdBytes_wrBytes_same ..
    · exact ((s.begun_changes.mono (by decide)).step (State.writeBar2_changes ..) (by decide)).step (State.ok_changes ..) (by decide)
  case copy =>
    obtain ⟨box, -, -, -, -, -, -, -, length⟩ := (s.asked_iff ..).mp asked
    have arg : firstBad [s.begun.lengthBad m 0] = none := by
      rw [State.lengthBad, show s.begun.argLength m = 0 from length]
      rfl
    have run := State.command_passes (c := { Checks.plain none devFw with excl := true })
      (chk := fun s => { Checks.plain (firstBad [s.lengthBad m 0]) devFw with excl := true }) asked (by rw [arg]) rfl
      (State.dev_mem_devFw runs) (by rintro _ _ ⟨⟩) rfl rfl rfl rfl fun s => s.cfgCopy m
    let u : State := { s.begun with shadow := s.active }
    have frame : Changes [.mgmt, .shadow] s u := (s.begun_changes.mono (by decide)).step .shadow (by decide)
    have after := u.ok_changes m []
    exact .of_eq (congrArg Host.Outcome.next run) ⟨State.reply_answered u box (by decide) (by decide) (by decide),
      after.elsewhere .shadow (by decide), after.elsewhere .active (by decide), (frame.mono (by decide)).step after (by decide)⟩

end Sys2Proof.Machine
end
section
/-!
SUPPORT. SWAP (spec/14_steps_and_serving.md, R333 to R335): what applying a set leaves of the two sets, and the answer to a set that
fails a check.
-/

namespace Sys2Proof.Machine

/-! ### Writes that leave the sets alone -/

/-- No port die has its table command at this offset of BAR0 (R114): a write there moves no record of a set. -/
def offTblcmd (a : Nat) : Prop := ∀ n o, windowOf a = some (.port n, o) → o ≠ 0x44

/-- Every part of the state that a write to a port die changes, but the two sets. -/
abbrev portParts : List Field := [.regs, .xbar, .links, .egress, .eths, .hist, .poolUsed, .time, .shutters, .dsp, .freeCtr]

theorem State.writePortWin_keepsSets (s : State) {n o : Nat} (off : o ≠ 0x44) (w : Word) : Changes portParts s (s.writePortWin n o w) := by
  unfold State.writePortWin
  split_ifs with slot cause self salt0 salt1 sub eth sel clr
  · exact (s.writeSlotcfg_changes ..).mono (by decide)
  · exact (s.writePortCause_changes ..).mono (by decide)
  · exact (s.writeReg_changes ..).mono (by decide)
  · exact (s.writeReg_changes ..).mono (by decide)
  · exact (s.writeReg_changes ..).mono (by decide)
  · exact ((s.writePortCfg_changes ..).mono (by decide)).step (State.watchLink_changes ..) (by decide)
  · exact (s.writeEthCtl_changes ..).mono (by decide)
  · exact (s.writeHistsel_changes ..).mono (by decide)
  · exact (s.writeHistclr_changes ..).mono (by decide)
  · exact (s.storeAt_changes ..).mono (by decide)

theorem State.writePortAt_keepsSets (s : State) {a : Nat} (off : offTblcmd a) (w : Word) : Changes portParts s (s.writePortAt a w) := by
  unfold State.writePortAt
  split
  next at_ => exact s.writePortWin_keepsSets (off _ _ at_) w
  · exact .refl _ s

theorem offTblcmd_of_listReg {v : Variant} {a : Nat} (listed : listReg v 9 a = true) : offTblcmd a := by
  rintro n o window rfl
  simp only [listReg, window] at listed
  split at listed <;> simp at listed

/-- An address lies in its window. -/
theorem eq_base_add_of_windowOf {a o : Nat} {w : Window} (window : windowOf a = some (w, o)) : a = w.base + o := by
  unfold windowOf at window
  iterate 9
    split at window
    next range =>
      cases window
      simp only [Window.base, portBase, sdBase, tdBase]
      omega
  cases window

theorem offTblcmd_subCtl {c : SubCtl} {js : List Nat} (mem : c ∈ slotCtls js) : offTblcmd c.reg.addr := by
  intro n o window
  have at_ := eq_base_add_of_windowOf window
  simp only [slotCtls, List.mem_flatMap, List.mem_range, List.mem_cons, List.not_mem_nil, or_false] at mem
  obtain ⟨j, -, x, low, rfl | rfl⟩ := mem <;>
    simp only [SubCtl.reg, R.portPCfg, R.portECtl, Window.base, portBase, if_true, Bool.false_eq_true, if_false] at at_ <;>
    omega

theorem Changes.foldl_mem {w : List Field} {g : State → α → State} {l : List α} (s : State)
    (k : ∀ u, ∀ a ∈ l, Changes w u (g u a)) : Changes w s (l.foldl g s) :=
  List.foldlRecOn (motive := fun t => Changes w s t) l g (.refl w s) fun t h a mem => h.trans (k t a mem)

/-- The list of part 9 leaves the sets alone, where it names registers as CFG_WRITE takes them (R361). -/
theorem State.applyPorts_keepsSets {s : State} {v : Variant} (listed : ∀ e ∈ s.active.list 9, listReg v 9 e.1 = true) :
    Changes portParts s s.applyPorts := by
  unfold State.applyPorts
  extract_lets l ctls want t held u
  have down : Changes portParts s t := .foldl_mem s fun r c mem =>
    .ite (r.writePortAt_keepsSets (offTblcmd_subCtl mem) _) (.refl _ r)
  clear_value t
  have written : Changes portParts t u := .foldl_mem t fun r e mem =>
    r.writePortAt_keepsSets (offTblcmd_of_listReg (listed e mem)) _
  clear_value u
  refine (down.trans written).trans (.foldl_mem u fun r p mem => ?_)
  obtain ⟨c, found, rfl⟩ := List.mem_map.mp mem
  exact .ite (r.writePortAt_keepsSets (offTblcmd_subCtl found) _) (.refl _ r)

/-! ### What an accepted SWAP leaves -/

/-- The sets after the exchange, before the set is applied. -/
def State.setsSwapped (s : State) : State :=
  let s := s.extend 0x11 (shake512 s.shadow.allBytes)
  { s with active := s.shadow, shadow := s.active }

/-- The active set applied, from the job slots to the serving queues (Table 14.4). -/
def State.setApplied (s : State) : State :=
  let s := ((List.range 64).foldl State.applySlot s).dropExpels
  let s := ((s.applyRoots.applyPools).applyXbar).applyPorts
  let s := s.syncCircuits.applyTime
  s.fillCircuits.applyServing

theorem State.applySwap_eq (s : State) : s.applySwap =
    if s.setsSwapped.setApplied.dev = .loaded then s.setsSwapped.setApplied.setDev .configured else s.setsSwapped.setApplied := rfl

theorem State.setsSwapped_sets (s : State) :
    s.setsSwapped.active = s.shadow ∧ s.setsSwapped.shadow = s.active ∧ s.setsSwapped.dev = s.dev := by
  have measured := s.extend_changes 0x11 (shake512 s.shadow.allBytes)
  exact ⟨measured.elsewhere .shadow (by decide), measured.elsewhere .active (by decide), measured.elsewhere .dev (by decide)⟩

theorem State.setApplied_keepsSets {s : State} {v : Variant} (listed : ∀ e ∈ s.active.list 9, listReg v 9 e.1 = true) :
    let t := s.setApplied
    t.active = s.active ∧ t.shadow = s.shadow ∧ t.dev = s.dev := by
  unfold State.setApplied
  extract_lets a b c
  have slots : Changes [.regs, .jobs, .sec] s a :=
    (Changes.foldl (.refl _ s) fun t j => t.applySlot_changes j).step (State.dropExpels_changes _) (by decide)
  clear_value a
  have before : Changes [.regs, .xbar, .links, .egress, .shpT, .circT, .atu, .poolUsed, .jobs, .sec, .freeCtr] s
      ((a.applyRoots.applyPools).applyXbar) :=
    (((slots.mono (by decide)).step (State.applyRoots_changes _) (by decide)).step (State.applyPools_changes _) (by decide)).step
      (State.applyXbar_changes _) (by decide)
  have ports : Changes portParts ((a.applyRoots.applyPools).applyXbar) b :=
    State.applyPorts_keepsSets (v := v) (by rwa [before.elsewhere .active (by decide)])
  clear_value b
  have after : Changes [.regs, .xbar, .links, .time, .shutters, .circT, .poolUsed, .dsp] b c.fillCircuits.applyServing :=
    ((((b.syncCircuits_changes).mono (by decide)).step (State.applyTime_changes _) (by decide)).step
      (State.fillCircuits_changes _) (by decide)).step (State.applyServing_changes _) (by decide)
  refine ⟨?_, ?_, ?_⟩
  · exact ((after.elsewhere .active (by decide)).trans (ports.elsewhere .active (by decide))).trans
      (before.elsewhere .active (by decide))
  · exact ((after.elsewhere .shadow (by decide)).trans (ports.elsewhere .shadow (by decide))).trans
      (before.elsewhere .shadow (by decide))
  · exact ((after.elsewhere .dev (by decide)).trans (ports.elsewhere .dev (by decide))).trans (before.elsewhere .dev (by decide))

/-- The two sets have changed places, and a LOADED device is CONFIGURED (R333). -/
theorem State.applySwap_swaps {s : State} (listed : ∀ e ∈ s.shadow.list 9, listReg s.variant 9 e.1 = true) :
    s.applySwap.active = s.shadow ∧ s.applySwap.shadow = s.active
      ∧ s.applySwap.dev = if s.dev = .loaded then .configured else s.dev := by
  obtain ⟨active, shadow, dev⟩ := s.setsSwapped_sets
  obtain ⟨active', shadow', dev'⟩ := State.setApplied_keepsSets (s := s.setsSwapped) (v := s.variant) (by rwa [active])
  rw [State.applySwap_eq, dev', dev]
  generalize s.setsSwapped.setApplied = u at active' shadow' dev' ⊢
  split_ifs with loaded
  · have after := u.setDev_changes .configured
    exact ⟨(after.elsewhere .active (by decide)).trans (active'.trans active),
      (after.elsewhere .shadow (by decide)).trans (shadow'.trans shadow), rfl⟩
  · exact ⟨active'.trans active, shadow'.trans shadow, dev'.trans dev⟩

/-! ### The checks of SWAP (R334) -/

theorem mem_of_firstBad {fs : List (Nat × Bool)} {p : Nat} (bad : firstBad fs = some p) : p ∈ fs.map (·.1) := by
  obtain ⟨f, found, rfl⟩ := Option.map_eq_some_iff.mp bad
  exact List.mem_map.mpr ⟨f, List.mem_of_find?_eq_some found, rfl⟩

theorem State.setBad_le {s : State} {p : Nat} (bad : s.setBad = some p) : p ≤ 12 := by
  have mem := mem_of_firstBad bad
  simp only [List.map_cons, List.map_nil, List.mem_cons, List.not_mem_nil, or_false] at mem
  omega

/-- The two states hold the same registers, in the same assembly. -/
structure State.SameRegs (s t : State) : Prop where
  regs : t.regs = s.regs
  variant : t.variant = s.variant

section
variable {s t : State} (h : s.SameRegs t)
include h

theorem State.SameRegs.reg (r : Reg) : t.reg r = s.reg r := by rw [State.reg, h.regs, State.reg]

theorem State.SameRegs.setReg (r : Reg) (w : Word) : (s.setReg r w).SameRegs (t.setReg r w) :=
  ⟨congrArg (mset r.rst · r.addr w) h.regs, h.variant⟩

theorem State.SameRegs.writeReg (r : Reg) (w : Word) : (s.writeReg r w).SameRegs (t.writeReg r w) := by
  rw [State.writeReg, State.writeReg, h.reg]
  exact h.setReg ..

/-- A register of the BPM that a list may name is a pool register, and takes what is written by the enable alone. -/
theorem State.SameRegs.writeBpmWin {o : Nat} (pool : 0x100 ≤ o) (w : Word) : (s.writeBpmWin o w).SameRegs (t.writeBpmWin o w) := by
  have ctl : o ≠ 0x0 := by omega
  have req : o ≠ 0x8 := by omega
  have enable : t.bit R.bpmCtl 0 = s.bit R.bpmCtl 0 := congrArg (wbit · 0) (h.reg _)
  unfold State.writeBpmWin State.writePoolReg
  rw [if_neg ctl, if_neg req, if_neg ctl, if_neg req, enable]
  split
  · exact h
  · split_ifs
    · exact h
    · exact h.writeReg ..
    · exact h.writeReg ..

theorem State.SameRegs.writePools {l : List (Nat × Word)} (pools : ∀ e ∈ l, 0x100 ≤ e.1 - 0x200000) :
    (s.writeList l fun s a w => s.writeBpmWin (a - 0x200000) w).SameRegs (t.writeList l fun s a w => s.writeBpmWin (a - 0x200000) w) := by
  induction l generalizing s t with
  | nil => exact h
  | cons e l ih =>
    obtain ⟨first, rest⟩ := List.forall_mem_cons.mp pools
    rw [State.writeList, State.writeList, List.foldl_cons, List.foldl_cons]
    have stored := h.writeBpmWin first e.2
    generalize s.writeBpmWin _ e.2 = u, t.writeBpmWin _ e.2 = v at stored ⊢
    exact ih stored rest

theorem State.SameRegs.carvingLegal : t.carvingLegal = s.carvingLegal := by
  have base : t.poolBase = s.poolBase := funext fun k => by simp only [State.poolBase, State.reg64, h.reg]
  have count : t.poolCount = s.poolCount := funext fun k => by simp only [State.poolCount, State.fld, h.reg]
  have span : t.dpaSpan = s.dpaSpan := by
    funext a n
    unfold State.dpaSpan State.dpaValid State.tiles
    rw [h.variant]
  rw [State.carvingLegal, State.carvingLegal, base, count, span]

theorem State.SameRegs.carvingBad {c : CfgSet} (pools : ∀ e ∈ c.list 7, 0x100 ≤ e.1 - 0x200000) : t.carvingBad c = s.carvingBad c := by
  have lowered : (s.lower R.bpmCtl 0).SameRegs (t.lower R.bpmCtl 0) := by
    rw [State.lower, State.lower, h.reg]
    exact h.setReg ..
  exact congrArg (!·) (lowered.writePools pools).carvingLegal

end

/-- The address of a register of the BPM that a list may name. -/
theorem pool_of_listReg {v : Variant} {a : Nat} (listed : listReg v 7 a = true) : 0x100 ≤ a - 0x200000 := by
  unfold listReg at listed
  split at listed
  · exact absurd listed Bool.false_ne_true
  next w o window =>
    split at listed
    · exact absurd listed Bool.false_ne_true
    next r held =>
      cases w <;> simp at listed
      have at_ := eq_base_add_of_windowOf window
      simp only [Window.base] at at_
      omega

/-- The checks of a set do not look at the doorbells. -/
theorem State.setBad_begun {s : State} (listed : ∀ e ∈ s.shadow.list 7, listReg s.variant 7 e.1 = true) : s.begun.setBad = s.setBad := by
  have same : s.SameRegs s.begun := ⟨rfl, rfl⟩
  have route : s.begun.routeBad s.shadow = s.routeBad s.shadow := rfl
  have circuits : s.begun.circuitsBad s.shadow = s.circuitsBad s.shadow := rfl
  have carving := same.carvingBad (c := s.shadow) fun e mem => pool_of_listReg (listed e mem)
  have xbar : s.begun.xbarListBad s.shadow = s.xbarListBad s.shadow := rfl
  have groups : s.begun.groupsBad s.shadow = s.groupsBad s.shadow := rfl
  rw [State.setBad, State.setBad, show s.begun.shadow = s.shadow from rfl, route, circuits, carving, xbar, groups]

/-- A configuration that fails the last check of a command is answered with BAD_ARG and where it fails. -/
theorem State.command_conf {s : State} {m op len d : Nat} {chk : State → Checks} {c : Checks} (asked : s.asked m op len = true)
    (known : chk s.begun = c) (arg : c.arg = none) (state : s.dev ∈ c.states) (slot : c.slot = none) (more : c.more = true)
    (busy : c.busy = false) (conf : c.conf = some d) (go : State → State) : s.command m op chk go = s.begun.reply m stBadArg d [] := by
  obtain ⟨-, -, -, -, idle, -, -, -, -⟩ := (s.asked_iff ..).mp asked
  have none_ : s.begun.exclusive = false := by simp [State.exclusive, State.begun, idle]
  have idle' : s.begun.mgmt.running = [] := idle
  have state' : c.states.contains s.begun.dev = true := List.contains_iff_mem.mpr state
  have works : ¬(s.begun.dev = .faulted ∧ (!c.states.contains .faulted) = true) := by
    rintro ⟨faulted, unlisted⟩
    rw [← faulted, state'] at unlisted
    exact Bool.false_ne_true unlisted
  rw [State.command_of_asked asked, known]
  simp only [State.checked, if_neg works, arg, slot, state', more, none_, idle', busy, conf, List.isEmpty_nil, Bool.not_true, Bool.and_false,
    Bool.or_self, Bool.false_eq_true, if_false]

/-- Settles O21: the exchange and what applying the new set leaves of it, and the answer to a set that fails a check. -/
theorem swapExchangesTheSets : Obligations.SwapExchangesTheSets := by
  intro s m asked state ready listed
  obtain ⟨box, -, -, -, -, -, -, -, length⟩ := (s.asked_iff ..).mp asked
  have dev : s.dev ∈ [DevState.loaded, .configured, .running] := by simpa using state
  have arg : (s.begun.swapChecks m).arg = none := if_pos length
  have more : (s.begun.swapChecks m).more = true := ready
  have conf : (s.begun.swapChecks m).conf = s.setBad.map (0x8000 + ·) := by
    rw [← State.setBad_begun (listed 7 (by decide) (by decide))]
    exact if_pos ready
  refine ⟨fun good => ?_, fun p bad => ?_⟩
  · have none_ : (s.begun.swapChecks m).conf = none := by rw [conf, good]; rfl
    have slot (j : Nat) (sts : List JobState) (given : (s.begun.swapChecks m).slot = some (j, sts)) : (s.begun.job j).st ∈ sts :=
      absurd given (by simp [State.swapChecks, Checks.plain])
    have run := State.command_passes (chk := fun s => s.swapChecks m) (c := s.begun.swapChecks m) asked rfl arg dev slot more rfl
      none_ rfl fun s => s.swap m
    obtain ⟨active, shadow, dev'⟩ := State.applySwap_swaps (s := s.begun) (listed 9 (by decide) (by decide))
    have after := s.begun.applySwap.ok_changes m []
    exact .of_eq (congrArg Host.Outcome.next run) ⟨State.reply_answered _ box (by decide) (by decide) (by decide),
      (after.elsewhere .active (by decide)).trans active, (after.elsewhere .shadow (by decide)).trans shadow,
      (after.elsewhere .dev (by decide)).trans dev'⟩
  · have run := State.command_conf (d := 0x8000 + p) (chk := fun s => s.swapChecks m) (c := s.begun.swapChecks m) asked rfl arg dev rfl more rfl
      (by rw [conf, bad]; rfl) fun s => s.swap m
    have low := State.setBad_le bad
    exact .of_eq (congrArg Host.Outcome.next run) ⟨State.reply_answered _ box (by decide) (by omega) (by decide),
      (s.begun_changes.mono (by decide)).step (State.reply_changes ..) (by decide)⟩

end Sys2Proof.Machine
end
section
/-!
SUPPORT. Job slots set, released and failed by a command (spec/14_steps_and_serving.md, R325, R327; spec/11_memory_and_pools.md, R271,
R280; spec/15_management_interface.md, R363).
-/

namespace Sys2Proof.Machine

/-! ### What a translation looks at (R274, R276) -/

/-- A state with the registers, the active set, the tables and the assembly of another. -/
def State.withTables (t s : State) : State :=
  { t with regs := s.regs, active := s.active, dpa := s.dpa, ue := s.ue, variant := s.variant }

theorem State.walk_withTables (t s : State) : (t.withTables s).walk = s.walk := rfl

theorem State.leafOf_withTables (t s : State) : (t.withTables s).leafOf = s.leafOf := rfl

theorem State.releaseUe_withTables (t s : State) : (t.withTables s).releaseUe = s.releaseUe := rfl

/-- What leaves the tables of the ATUs alone. -/
def keepsTables (w : List Field) : Bool := [Field.regs, .active, .dpa, .ue, .variant].all fun f => !w.contains f

section
variable {w : List Field} {s t : State} (h : Changes w s t) (k : keepsTables w = true)
include h k

theorem Changes.withTables : t.withTables s = t := by
  have out {f : Field} (mem : f ∈ [Field.regs, .active, .dpa, .ue, .variant]) : f ∉ w := by
    simpa using List.all_eq_true.mp k f mem
  rw [State.withTables, ← h.elsewhere .regs (out (by decide)), ← h.elsewhere .active (out (by decide)),
    ← h.elsewhere .dpa (out (by decide)), ← h.elsewhere .ue (out (by decide)), ← h.elsewhere .variant (out (by decide))]

theorem Changes.walk : t.walk = s.walk := by rw [← h.withTables k, State.walk_withTables]

theorem Changes.leafOf : t.leafOf = s.leafOf := by rw [← h.withTables k, State.leafOf_withTables]

theorem Changes.releaseUe : t.releaseUe = s.releaseUe := by rw [← h.withTables k, State.releaseUe_withTables]

theorem Changes.remoteLeaf : t.remoteLeaf = s.remoteLeaf := by
  funext j va
  rw [State.remoteLeaf, State.remoteLeaf, h.leafOf k]

end

/-- A table entry that leads on is no uncorrectable word. -/
theorem State.ueIn_of_tableStep {s : State} {t idx x : Nat} (step : s.tableStep t idx = some x) : s.ueIn .dpa (t + 8 * idx) 8 = none := by
  rw [← Option.not_isSome_iff_eq_none]
  intro bad
  simp [State.tableStep, bad] at step

/-- Where a leaf is reached, no entry on the way is uncorrectable. -/
theorem State.walkUe_of_leafAddr {s : State} {j va a : Nat} (leaf : s.leafAddr j va = some a) : s.walkUe j va = none := by
  unfold State.leafAddr at leaf
  split_ifs at leaf
  obtain ⟨t2, first, leaf⟩ := Option.bind_eq_some_iff.mp leaf
  obtain ⟨t1, root, first⟩ := Option.bind_eq_some_iff.mp first
  obtain ⟨t3, second, leaf⟩ := Option.bind_eq_some_iff.mp leaf
  have clean : s.ueIn .dpa (t3 + 8 * nbits va 21 9) 8 = none := by
    by_contra bad
    simp [Option.isNone_iff_eq_none, bad] at leaf
  simp [State.walkUe, root, first, second, State.ueIn_of_tableStep first, State.ueIn_of_tableStep second, clean]

theorem State.releaseUe_of_remoteLeaf {s : State} {j va : Nat} (leaf : s.remoteLeaf j va ≠ none) : s.releaseUe j va = none := by
  unfold State.releaseUe
  split_ifs with pool
  · rfl
  · obtain ⟨e, remote⟩ := Option.ne_none_iff_exists'.mp leaf
    obtain ⟨found, -⟩ := Option.filter_eq_some_iff.mp remote
    rw [State.leafOf, Option.not_isSome_iff_eq_none.mp pool] at found
    obtain ⟨a, at_, -⟩ := Option.map_eq_some_iff.mp found
    exact State.walkUe_of_leafAddr at_

/-! ### JOB_SET_STEP (R325) -/

/-- The checks of JOB_SET_STEP. -/
def State.setStepChecks (s : State) (m : Nat) : Checks :=
  { Checks.plain (firstBad [(0, s.argLength m != 16 || 63 < s.argSlot m), (1, s.argNum m 1 7 != 0)]) [.configured, .running] with
    slot := some (s.argSlot m, [.ready]) }

section
variable {s : State} {m j : Nat} (slot : s.argNum m 0 1 = j) (small : j < 64)
include slot small

theorem State.setStepChecks_pass (length : s.argLength m = 16) (zero : s.argNum m 1 7 = 0) :
    s.setStepChecks m = .ofSlot none [.configured, .running] j [.ready] := by
  have high : ¬63 < j := by omega
  simp [State.setStepChecks, State.argSlot, length, slot, zero, high, firstBad, Checks.ofSlot, Checks.plain]

/-! ### JOB_RELEASE (R271, R280) -/

/-- The checks of JOB_RELEASE. -/
def State.releaseChecks (s : State) (m : Nat) : Checks :=
  { Checks.plain (firstBad [(0, s.argLength m != 16 || 63 < s.argSlot m), (1, s.argNum m 1 7 != 0),
      (8, 2 ^ 48 ≤ s.argNum m 8 8)]) [.running] with
    slot := some (s.argSlot m, [.ready, .running, .eval]),
    conf := if (s.releaseUe (s.argSlot m) (s.argNum m 8 8)).isNone && (s.remoteLeaf (s.argSlot m) (s.argNum m 8 8)).isNone then some 8
      else none }

theorem State.releaseChecks_pass (length : s.argLength m = 16) (zero : s.argNum m 1 7 = 0) (low : s.argNum m 8 8 < 2 ^ 48)
    (works : s.releaseUe j (s.argNum m 8 8) ≠ none ∨ s.remoteLeaf j (s.argNum m 8 8) ≠ none) :
    s.releaseChecks m = .ofSlot none [.running] j [.ready, .running, .eval] := by
  have high : ¬63 < j := by omega
  have held : ((s.releaseUe j (s.argNum m 8 8)).isNone && (s.remoteLeaf j (s.argNum m 8 8)).isNone) = false := by
    rw [Bool.and_eq_false_iff, Option.isNone_eq_false_iff, Option.isNone_eq_false_iff, Option.isSome_iff_ne_none,
      Option.isSome_iff_ne_none]
    exact works
  simp only [State.releaseChecks, State.argSlot, length, slot, zero, held, firstBad, Checks.ofSlot, Checks.plain]
  simpa [high] using low

/-! ### JOB_FAIL (R327, R363) -/

/-- The checks of JOB_FAIL. -/
def State.failChecks (s : State) (m : Nat) : Checks :=
  { Checks.plain (firstBad [(0, s.argLength m != 2 || 63 < s.argSlot m), (1, s.argNum m 1 1 == 0 || 0x0B < s.argNum m 1 1)])
      [.running, .draining] with
    slot := some (s.argSlot m, [.ready, .running, .eval, .draining, .failed]) }

theorem State.failChecks_pass (length : s.argLength m = 2) (some_ : 1 ≤ s.argNum m 1 1) (most : s.argNum m 1 1 ≤ 0x0B) :
    s.failChecks m = .ofSlot none [.running, .draining] j [.ready, .running, .eval, .draining, .failed] := by
  have high : ¬63 < j := by omega
  have zero : s.argNum m 1 1 ≠ 0 := by omega
  simp [State.failChecks, State.argSlot, length, slot, zero, high, most.not_gt, firstBad, Checks.ofSlot, Checks.plain]

end

section
variable (s : State) (m j : Nat)

/-- The step counter of a slot set, and nothing else of the slots. -/
theorem State.setStep_sets (step : Dword) : ((s.setStep j step).job j).step = step ∧ ((s.setStep j step).job j).st = (s.job j).st
    ∧ ∀ i, i ≠ j → (s.setStep j step).job i = s.job i := by
  rw [State.setStep, State.job_updJob_same]
  exact ⟨rfl, rfl, fun i other => s.job_updJob_other other _⟩

theorem State.dropCached_drops : ∀ e ∈ (s.dropCached j).atu, e.slot ≠ j := fun e mem => by
  simpa using (List.mem_filter.mp mem).2

variable {s m j}

/-- A release whose tables can be read forgets the slot's translations, tells the pager, and is answered. -/
theorem State.jobRelease_ends (slot : s.argNum m 0 1 = j) (clean : s.releaseUe j (s.argNum m 8 8) = none) :
    ∃ t, Changes [.regs, .cnt, .dpa, .ue, .attach, .msgs, .cores, .owed, .fetches, .wbs, .nextId] (s.dropCached j) t
      ∧ s.jobRelease m = t.ok m [] := by
  simp only [State.jobRelease, State.argSlot, slot, clean]
  cases (s.dropCached j).remoteLeaf j (s.argNum m 8 8) with
  | none => exact ⟨_, .refl _ _, rfl⟩
  | some e => exact ⟨_, State.releasePage_changes .., rfl⟩

/-- A release that meets an uncorrectable table entry records it and is answered with it. -/
theorem State.jobRelease_ue {a : Nat} (slot : s.argNum m 0 1 = j) (bad : s.releaseUe j (s.argNum m 8 8) = some a) :
    s.jobRelease m = (s.dpaUe a (s.slotJob j) 5).reply m stFaulted fcEccUe [] := by
  simp only [State.jobRelease, State.argSlot, slot, bad]

/-- An uncorrectable word of HBM in the record of its die, also once a mailbox is answered (R271). -/
theorem State.dpaUe_records (s : State) (a job agent d : Nat) (three : agent < 8) (res : List Byte) :
    let t := (s.dpaUe a job agent).reply m stFaulted d res
    t.bit (R.tdMemcause (dpaDie a)) 2 = true
      ∧ (s.reg (R.tdMemfault0 (dpaDie a)) = 0 → t.fld (R.tdMemfault0 (dpaDie a)) 31 24 = 0x0A) := by
  intro t
  have cause := s.memRecord_cause (dpaDie a) fcEccUe job agent 1 (a / 8 * 8)
  have fields (empty : s.reg (R.tdMemfault0 (dpaDie a)) = 0) :=
    (State.memRecord_fields empty (by decide : fcEccUe < 256) three job 1 (a / 8 * 8)).1
  have same : (s.dpaUe a job agent).regs = (s.memRecord (dpaDie a) fcEccUe job agent 1 (a / 8 * 8)).regs := State.memFault_regs ..
  generalize s.memRecord (dpaDie a) fcEccUe job agent 1 (a / 8 * 8) = u at cause fields same
  have behind {r : Reg} (high : 0x1000 ≤ r.addr) : t.reg r = u.reg r :=
    ((State.reply_keepsBehind _ m stFaulted d res (r.addr + 1)).reg r high (Nat.lt_succ_self _)).trans
      (congrArg (mget r.rst · r.addr) same)
  have tile (k : Nat) : 0x1000 ≤ tdBase (dpaDie a) + k := by unfold tdBase; omega
  refine ⟨?_, fun empty => ?_⟩
  · rw [State.bit, behind (tile _)]
    exact cause
  · rw [State.fld, behind (tile _)]
    exact fields empty

/-- A failed slot keeps its record under the answer to the command that failed it. -/
theorem State.Faulted.reply {t : State} {code : Nat} (h : s.Faulted j code t) (st d : Nat) (res : List Byte) :
    s.Faulted j code (t.reply m st d res) := by
  have job := (t.reply_changes m st d res).job (by decide) j
  exact ⟨by rw [job, h.failed], by rw [job, h.code_eq], by rw [State.reply_event, h.event], h.devStop⟩

end

/-! ### The commands -/

section
variable {s : State} {m j : Nat} (slot : s.argNum m 0 1 = j) (small : j < 64)
include slot small

/-- JOB_SET_STEP sets the step counter of a READY slot. -/
theorem State.jobSetStep_sets (asked : s.asked m 0x0033 16 = true) (state : s.dev = .configured ∨ s.dev = .running)
    (zero : s.argNum m 1 7 = 0) (ready : (s.job j).st = .ready) : Completes (exec (.jobSetStep m) s) fun t =>
      t.answered m 0 0 [] ∧ (t.job j).step = BitVec.ofNat 64 (s.argNum m 8 8) ∧ (t.job j).st = .ready
        ∧ (∀ i, i ≠ j → t.job i = s.job i) ∧ Changes [.regs, .mbx, .mgmt, .jobs] s t := by
  obtain ⟨box, -, -, -, -, -, -, -, length⟩ := (s.asked_iff ..).mp asked
  have run := State.command_ofSlot (chk := fun s => s.setStepChecks m) asked
    (State.setStepChecks_pass (s := s.begun) slot small length zero) (by simpa using state) (by simp [ready])
    fun s => (s.setStep (s.argSlot m) (BitVec.ofNat 64 (s.argNum m 8 8))).ok m []
  rw [show s.begun.argSlot m = j from slot] at run
  obtain ⟨step, st, others⟩ := s.begun.setStep_sets j (BitVec.ofNat 64 (s.argNum m 8 8))
  have after := (s.begun.setStep j (BitVec.ofNat 64 (s.argNum m 8 8))).ok_changes m []
  refine .of_eq (congrArg Host.Outcome.next run) ⟨State.reply_answered _ box (by decide) (by decide) (by decide), ?_, ?_,
    fun i other => ?_, ((s.begun_changes.mono (by decide)).step (State.setStep_changes ..) (by decide)).step after (by decide)⟩
  · exact (congrArg Job.step (after.job (by decide) j)).trans step
  · exact (congrArg Job.st (after.job (by decide) j)).trans (st.trans ready)
  · exact (after.job (by decide) i).trans (others i other)

section
variable (asked : s.asked m 0x0036 16 = true) (running : s.dev = .running) (zero : s.argNum m 1 7 = 0) (low : s.argNum m 8 8 < 2 ^ 48)
  (works : (s.job j).st = .ready ∨ (s.job j).st = .running ∨ (s.job j).st = .eval)
include asked running zero low works

/-- JOB_RELEASE of a remote-home page leaves no translation of the slot. -/
theorem State.jobRelease_invalidates (leaf : s.remoteLeaf j (s.argNum m 8 8) ≠ none) : Completes (exec (.jobRelease m) s) fun t =>
    t.answered m 0 0 [] ∧ (∀ e ∈ t.atu, e.slot ≠ j) ∧ t.jobs = s.jobs := by
  obtain ⟨box, -, -, -, -, -, -, -, length⟩ := (s.asked_iff ..).mp asked
  have known := State.releaseChecks_pass (s := s.begun) slot small length zero low
    (.inr (by rwa [s.begun_changes.remoteLeaf (by decide)]))
  have run := State.command_ofSlot (chk := fun s => s.releaseChecks m) asked known (by simp [running]) (by simpa using works)
    fun s => s.jobRelease m
  obtain ⟨t, frame, ends⟩ := State.jobRelease_ends (s := s.begun) slot
    (by rw [s.begun_changes.releaseUe (by decide)]; exact State.releaseUe_of_remoteLeaf leaf)
  have after := t.ok_changes m []
  have atu : (t.ok m []).atu = (s.begun.dropCached j).atu := (after.elsewhere .atu (by decide)).trans (frame.elsewhere .atu (by decide))
  exact .of_eq (congrArg Host.Outcome.next (run.trans ends)) ⟨State.reply_answered _ box (by decide) (by decide) (by decide),
    atu ▸ s.begun.dropCached_drops j, (after.elsewhere .jobs (by decide)).trans (frame.elsewhere .jobs (by decide))⟩

/-- JOB_RELEASE records an uncorrectable table entry. -/
theorem State.jobRelease_records {a : Nat} (pool : s.poolFrame j (s.argNum m 8 8) = none)
    (bad : s.walkUe j (s.argNum m 8 8) = some a) : Completes (exec (.jobRelease m) s) fun t =>
      t.answered m 6 0x0A [] ∧ t.jobs = s.jobs ∧ t.bit (R.tdMemcause (dpaDie a)) 2 = true
        ∧ (s.reg (R.tdMemfault0 (dpaDie a)) = 0 → t.fld (R.tdMemfault0 (dpaDie a)) 31 24 = 0x0A) := by
  obtain ⟨box, -, -, -, -, -, -, -, length⟩ := (s.asked_iff ..).mp asked
  have ue : s.begun.releaseUe j (s.argNum m 8 8) = some a := by
    rw [s.begun_changes.releaseUe (by decide), State.releaseUe, pool]
    exact (if_neg (by simp)).trans bad
  have run := (State.command_ofSlot (chk := fun s => s.releaseChecks m) asked
    (State.releaseChecks_pass (s := s.begun) slot small length zero low (.inl (ue.trans_ne (by simp)))) (by simp [running])
    (by simpa using works) fun s => s.jobRelease m).trans (State.jobRelease_ue (s := s.begun) slot ue)
  generalize s.begun.slotJob j = job at run
  have after := ((State.dpaUe_changes s.begun a job 5).mono (by decide)).step (State.reply_changes _ m stFaulted fcEccUe [])
    (by decide : within [.regs, .mbx, .mgmt] [.regs, .owed, .mbx, .mgmt] = true)
  obtain ⟨cause, record⟩ := State.dpaUe_records (m := m) s.begun a job 5 fcEccUe (by decide) []
  exact .of_eq (congrArg Host.Outcome.next run) ⟨State.reply_answered _ box (by decide) (by decide) (by decide),
    after.elsewhere .jobs (by decide), cause, record⟩

end

/-- JOB_FAIL records its code and moves the slot to FAILED. -/
theorem State.jobFail_fails (asked : s.asked m 0x0035 2 = true) (running : s.dev = .running) (some_ : 1 ≤ s.argNum m 1 1)
    (most : s.argNum m 1 1 ≤ 0x0B) (works : (s.job j).st = .ready ∨ (s.job j).st = .running ∨ (s.job j).st = .eval)
    (held : s.slotOfJob (s.job j).job = some j) : Completes (exec (.jobFail m) s) fun t => t.answered m 0 0 []
      ∧ (t.job j).st = .failed ∧ t.bit R.devEvent 1 = true
      ∧ (t.job j).code = (if (s.job j).code = 0 then s.argNum m 1 1 else (s.job j).code) := by
  obtain ⟨box, -, -, -, -, stays, -, -, length⟩ := (s.asked_iff ..).mp asked
  have states : (s.job j).st ∈ [JobState.ready, .running, .eval, .draining, .failed] := by
    rcases works with st | st | st <;> simp [st]
  have run := State.command_ofSlot (chk := fun s => s.failChecks m) asked
    (State.failChecks_pass (s := s.begun) slot small length some_ most) (by simp [running]) states
    fun s => (s.jobFail m).deviceDrain
  have noticed := State.applyNotice_faulted (s := s.begun) held (s.argNum m 1 1) works
  let t := s.begun.applyNotice (s.job j).job (s.argNum m 1 1)
  have failed : s.begun.Faulted j (s.argNum m 1 1) ((t.sendToJob j (t.mgmtBody j 1 (s.argNum m 1 1))).ok m []) :=
    (noticed.before (State.sendToJob_changes ..) (by decide) (by decide) (by decide)).reply ..
  have fails : s.begun.jobFail m = (t.sendToJob j (t.mgmtBody j 1 (s.argNum m 1 1))).ok m [] := by
    simp only [State.jobFail, show s.begun.argSlot m = j from slot]
    rfl
  rw [fails, State.deviceDrain_of_none (failed.devStop.trans stays)] at run
  exact .of_eq (congrArg Host.Outcome.next run) ⟨State.reply_answered _ box (by decide) (by decide) (by decide), failed.failed,
    failed.event, failed.code_eq⟩

end

end Sys2Proof.Machine
end
section
/-!
SUPPORT. The checkpoint mirror (spec/14_steps_and_serving.md, R331, R332): its header and pages as packets, and its end.
-/

namespace Sys2Proof.Machine

/-! ### Translations cached since (R274, R276) -/

/-- Every translation that an ATU holds of a slot is the leaf of its page as the tables have it. -/
def State.AtuAgrees (s : State) (j : Nat) : Prop :=
  ∀ e ∈ s.atu, e.slot = j → ∀ va, va / 2 ^ 21 = e.page → s.leafOf j va = some e.leaf.toNat

theorem State.atuAgrees_cold {s : State} (cold : s.atu = []) (j : Nat) : s.AtuAgrees j := by
  rw [State.AtuAgrees, cold]
  exact List.forall_mem_nil _

theorem State.poolFrame_off {s : State} (off : s.bit R.bpmCtl 0 = false) (j va : Nat) : s.poolFrame j va = none := by
  simp [State.poolFrame, off]

theorem State.leafOf_off {s : State} (off : s.bit R.bpmCtl 0 = false) (j va : Nat) :
    s.leafOf j va = (s.leafAddr j va).map s.dpaDword := by
  rw [State.leafOf, State.poolFrame_off off]

theorem nbits_page (va k n : Nat) : nbits va (21 + k) n = nbits (va / 2 ^ 21) k n := by
  rw [nbits, nbits, Nat.shiftRight_add, Nat.shiftRight_eq_div_pow va]

/-- One leaf serves a whole page. -/
theorem State.leafAddr_page (s : State) (j : Nat) {va vb : Nat} (page : va / 2 ^ 21 = vb / 2 ^ 21) : s.leafAddr j va = s.leafAddr j vb := by
  have high : (2 ^ 48 ≤ va) = (2 ^ 48 ≤ vb) := propext (by omega)
  unfold State.leafAddr
  rw [show 39 = 21 + 18 from rfl, show 30 = 21 + 9 from rfl, show nbits va 21 9 = nbits va (21 + 0) 9 from rfl,
    show nbits vb 21 9 = nbits vb (21 + 0) 9 from rfl]
  simp only [nbits_page, page, high]

theorem State.leafOf_lt {s : State} (off : s.bit R.bpmCtl 0 = false) {j va e : Nat} (leaf : s.leafOf j va = some e) : e < 2 ^ 64 := by
  rw [State.leafOf_off off] at leaf
  obtain ⟨a, -, rfl⟩ := Option.map_eq_some_iff.mp leaf
  exact leNat_rdBytes_lt s.dpa a 8

theorem State.translateVa_agrees {s : State} {j : Nat} (off : s.bit R.bpmCtl 0 = false) (agrees : s.AtuAgrees j) (n va : Nat)
    (write : Bool) : ∃ t, s.translateVa n j va write = (t, s.walk j va write) ∧ Changes [.atu] s t ∧ t.AtuAgrees j := by
  unfold State.translateVa
  extract_lets page now leaf mine
  cases found : s.atu.find? mine with
  | some old =>
    have own : mine old = true := List.find?_some found
    simp only [mine, Bool.and_eq_true, beq_iff_eq] at own
    have same : leaf = some old.leaf.toNat := agrees old (List.mem_of_find?_eq_some found) own.1.2 va own.2.symm
    refine ⟨s, ?_, .refl _ s, agrees⟩
    rw [same]
    exact if_pos (beq_self_eq_true _)
  | none =>
    cases held : leaf with
    | none => exact ⟨s, rfl, .refl _ s, agrees⟩
    | some e =>
      dsimp only
      split
      · refine ⟨_, rfl, .atu, fun x mem slot vb at_ => ?_⟩
        have tables : State.leafOf { s with atu := s.atu ++ [⟨n, j, page, BitVec.ofNat 64 e⟩] } = s.leafOf := rfl
        rw [tables]
        rcases List.mem_append.mp mem with old | new
        · exact agrees x old slot vb at_
        · obtain rfl := List.mem_singleton.mp new
          have low : e < 2 ^ 64 := State.leafOf_lt off held
          rw [State.leafOf_off off, s.leafAddr_page j at_, ← State.leafOf_off off]
          refine held.trans (congrArg some ?_)
          rw [BitVec.toNat_ofNat, Nat.mod_eq_of_lt low]
      · exact ⟨s, rfl, .refl _ s, agrees⟩

theorem State.vaRange_agrees {s : State} {j va len : Nat} (off : s.bit R.bpmCtl 0 = false) (agrees : s.AtuAgrees j) (some_ : 0 < len)
    (page : va % 2 ^ 21 + len ≤ 2 ^ 21) (n : Nat) (write : Bool) :
    ∃ t, s.vaRange n j va len write = (t, (s.walk j va write).range va len) ∧ Changes [.atu] s t ∧ t.AtuAgrees j := by
  obtain ⟨t, step, frame, agrees'⟩ := State.translateVa_agrees off agrees n va write
  refine ⟨t, ?_, frame, agrees'⟩
  rw [State.vaRange, vaPieces_single some_ page, State.translateRange, step]
  cases s.walk j va write <;> rfl

/-! ### Messages of a mirror (R331) -/

/-- A packet of a WRITE message of a mirror: where it leaves, and where it goes. -/
structure OutPkt.MirrorsTo (q : OutPkt) (slot j partner va n : Nat) : Prop where
  src : q.src = slot
  xlate : q.xlate = some j
  op : q.pkt.hdr.op = opWrite
  rank : q.pkt.hdr.dstRank = partner
  addr : q.pkt.hdr.addr = va
  bytes : q.pkt.hdr.msgBytes = n

/-- The packets of a message, part by part: its bytes, where it leaves, the slot that translates it, and its header. -/
theorem State.sendParts_each (s : State) (slot : Nat) (o : Owner) (dev xlate : Option Nat) (hdr : PktHdr) (vc tc job : Nat)
    (parts : List (Nat × List Byte)) : ∃ qs, (s.sendParts slot o dev xlate hdr vc tc job parts).attach = s.attach ++ qs
      ∧ List.Forall₂ (fun p q => q.pkt.data = p.2 ∧ q.src = slot ∧ q.xlate = xlate ∧ q.pkt.hdr = { hdr with byteOff := p.1 })
        parts qs := by
  obtain ⟨qs, sent, each⟩ := State.foldl_sends (s := s.newMsg o dev)
    (R := fun p q => q.pkt.data = p.2 ∧ q.src = slot ∧ q.xlate = xlate ∧ q.pkt.hdr = { hdr with byteOff := p.1 })
    (g := fun v p => v.attachPkt slot (some s.nextId) xlate
      { hdr := { hdr with byteOff := p.1 }, vc := vc, tc := tc, job := job, tag := 0, abt := false, data := p.2 })
    (fun _ _ => rfl) (fun _ _ _ => ⟨_, rfl, rfl, rfl, rfl, rfl⟩) parts
  exact ⟨qs, sent, each⟩

theorem State.mirrorWrite_each (s : State) (j slot ep : Nat) (o : Owner) (va : Nat) (bs : List Byte) :
    ∃ qs, (s.mirrorWrite j slot ep o va bs).attach = s.attach ++ qs
      ∧ List.Forall₂ (fun p q => q.pkt.data = p.2 ∧ q.MirrorsTo slot j (s.job j).partner va bs.length) (messageParts bs) qs := by
  obtain ⟨qs, sent, each⟩ := s.sendParts_each slot o none (some j)
    { PktHdr.zero opWrite with srcDev := s.selfDev, srcEp := ep, dstRank := (s.job j).partner, addr := va, msgBytes := bs.length }
    0 ownClass (s.job j).job (messageParts bs)
  exact ⟨qs, sent, each.imp fun p q ⟨data, src, xlate, hdr⟩ => ⟨data, src, xlate, congrArg PktHdr.op hdr, congrArg PktHdr.dstRank hdr,
    congrArg PktHdr.addr hdr, congrArg PktHdr.msgBytes hdr⟩⟩

theorem State.mirrorWrite_sends (s : State) (j slot ep : Nat) (o : Owner) (va : Nat) (bs : List Byte) :
    ∃ qs, (s.mirrorWrite j slot ep o va bs).attach = s.attach ++ qs ∧ qs.flatMap (·.pkt.data) = bs
      ∧ ∀ q ∈ qs, q.MirrorsTo slot j (s.job j).partner va bs.length := by
  obtain ⟨qs, sent, each⟩ := s.mirrorWrite_each j slot ep o va bs
  exact ⟨qs, sent, (flatMap_of_forall₂ (each.imp fun _ _ h => h.1)).trans (messageParts_flatMap bs),
    forall_of_forall₂ each fun _ _ h => h.2⟩

theorem State.mirrorWrite_one (s : State) (j slot ep : Nat) (o : Owner) (va : Nat) {bs : List Byte} (some_ : 0 < bs.length)
    (fits : bs.length ≤ 15328) : ∃ q, (s.mirrorWrite j slot ep o va bs).attach = s.attach ++ [q] ∧ q.pkt.data = bs
      ∧ q.MirrorsTo slot j (s.job j).partner va bs.length := by
  obtain ⟨qs, sent, each⟩ := s.mirrorWrite_each j slot ep o va bs
  rw [messageParts_single some_ fits] at each
  obtain ⟨q, rest, ⟨data, to_⟩, none_, rfl⟩ := List.forall₂_cons_left_iff.mp each
  cases none_
  exact ⟨q, sent, data, to_⟩

/-! ### The header (Table 14.3) -/

/-- What a header begins with, and its length. -/
theorem State.mirrorHeader_begins (s : State) (j half valid : Nat) : let b := s.mirrorHeader j half valid
    b.length = 64 ∧ b.take 4 = leBytes 4 0x4D525258 ∧ leAt b 7 1 = valid % 256 := by
  intro b
  obtain ⟨rest, split, length⟩ : ∃ rest, b = (leBytes 4 0x4D525258 ++ leBytes 2 (s.job j).job ++ leBytes 1 half)
      ++ (leBytes 1 valid ++ rest) ∧ rest.length = 56 := by
    refine ⟨_, by simp only [b, State.mirrorHeader, List.append_assoc]; rfl, ?_⟩
    simp [length_leBytes, zeros]
  have lead : (leBytes 4 0x4D525258 ++ leBytes 2 (s.job j).job ++ leBytes 1 half).length = 7 := by simp [length_leBytes]
  have whole : b.length = 64 := by rw [split, List.length_append, lead, List.length_append, length_leBytes, length]
  refine ⟨whole, ?_, ?_⟩
  · rw [split, List.append_assoc, List.append_assoc]
    exact List.take_left' (length_leBytes ..)
  · rw [leAt, slice_of_le (by omega), split, List.drop_left' lead, List.take_left' (length_leBytes ..), leNat_leBytes]
    rfl

/-! ### The pages (R331) -/

/-- A page of slot `j` that a mirror can send from frame `d`. -/
structure State.PageReady (s : State) (j va d : Nat) : Prop where
  aligned : va % 2 ^ 21 = 0
  walk : s.walk j va false = .ok d
  own : (s.leafOf j va).map leafRh = some false
  endpoint : s.bit (R.tdPgep (dpaDie d) j) 31 = true

/-- In `t` a mirror of slot `j` that began in `u` is under way: packets were attached and translations cached, and no more. -/
structure State.Mirroring (u t : State) (j : Nat) : Prop where
  frame : Changes [.attach, .msgs, .nextId, .atu] u t
  agrees : t.AtuAgrees j

theorem State.AtuAgrees.after {s t : State} {j : Nat} {w : List Field} (h : s.AtuAgrees j) (frame : Changes w s t)
    (tables : keepsTables w = true) (atu : Field.atu ∉ w) : t.AtuAgrees j := by
  rw [State.AtuAgrees, frame.elsewhere .atu atu, frame.leafOf tables]
  exact h

section
variable {u : State} {j : Nat} (off : u.bit R.bpmCtl 0 = false) (clean : u.ue = [])
include off clean

/-- One page goes out as one message of the tile die that owns its frame. -/
theorem State.mirrorPage_sends {t : State} {va d : Nat} (h : u.Mirroring t j) (page : u.PageReady j va d) (half i : Nat) :
    ∃ v qs, t.mirrorPage j half i va = (v, none) ∧ u.Mirroring v j ∧ v.attach = t.attach ++ qs
      ∧ qs.flatMap (·.pkt.data) = rdBytes u.dpa d (2 ^ 21)
      ∧ ∀ q ∈ qs, q.MirrorsTo (u.tileSlot (dpaDie d)) j (u.job j).partner ((u.job j).halfVa half + (i + 1) * 2 ^ 21) (2 ^ 21) := by
  obtain ⟨aligned, walk, own, endpoint⟩ := page
  have tables : keepsTables [.attach, .msgs, .nextId, .atu] = true := by decide
  obtain ⟨w, range, cached, agrees⟩ := State.vaRange_agrees (s := t) (va := va) (len := 2 ^ 21)
    ((h.frame.bit (by decide) ..).trans off) h.agrees (by decide) (by omega) 0 false
  rw [h.frame.walk tables, walk] at range
  have frame : Changes [.attach, .msgs, .nextId, .atu] u w := h.frame.step cached (by decide)
  have read : w.readPieces [(d, 2 ^ 21)] = .ok (rdBytes u.dpa d (2 ^ 21)) := by
    rw [State.readPieces_clean ((frame.elsewhere .ue (by decide)).trans clean), frame.elsewhere .dpa (by decide)]
  have leaf : ((w.leafOf j va).map leafRh).getD true = false := by rw [frame.leafOf tables, own]; rfl
  have pager : wbit (w.reg (R.tdPgep (dpaDie d) j)) 31 = true := (frame.bit (by decide) (R.tdPgep (dpaDie d) j) 31).trans endpoint
  have job : w.job j = u.job j := frame.job (by decide) j
  have slot : w.tileSlot (dpaDie d) = u.tileSlot (dpaDie d) := frame.tileSlot (by decide) _
  have run : t.mirrorPage j half i va = (w.mirrorWrite j (u.tileSlot (dpaDie d)) (wfld (w.reg (R.tdPgep (dpaDie d) j)) 9 0) (.mirror j)
      ((u.job j).halfVa half + (i + 1) * 2 ^ 21) (rdBytes u.dpa d (2 ^ 21)), none) := by
    simp only [State.mirrorPage, show 0x200000 = 2 ^ 21 from rfl, range, Walk.range, List.head?_cons, Option.map_some, Option.getD_some,
      leaf, aligned, pager, bne_self_eq_false, Bool.not_true, Bool.or_self, Bool.false_eq_true, if_false, read, slot, job]
  obtain ⟨qs, sent, data, each⟩ := w.mirrorWrite_sends j (u.tileSlot (dpaDie d)) (wfld (w.reg (R.tdPgep (dpaDie d) j)) 9 0) (.mirror j)
    ((u.job j).halfVa half + (i + 1) * 2 ^ 21) (rdBytes u.dpa d (2 ^ 21))
  have moved := w.mirrorWrite_changes j (u.tileSlot (dpaDie d)) (wfld (w.reg (R.tdPgep (dpaDie d) j)) 9 0) (.mirror j)
    ((u.job j).halfVa half + (i + 1) * 2 ^ 21) (rdBytes u.dpa d (2 ^ 21))
  rw [job, length_rdBytes] at each
  exact ⟨_, qs, run, ⟨frame.step moved (by decide), agrees.after moved (by decide) (by decide)⟩,
    sent.trans (congrArg (· ++ qs) (cached.elsewhere .attach (by decide))), data, each⟩

/-- Pages go out in order, each to its place in the half. -/
theorem State.mirrorPages_sends {t : State} (h : u.Mirroring t j) {va half : Nat} {f : Nat → Nat} {l : List Nat} (once : l.Nodup)
    (pages : ∀ i ∈ l, u.PageReady j (va + i * 2 ^ 21) (f i)) :
    ∃ v ps, t.mirrorPages j half (l.map fun i => (va + i * 2 ^ 21, i)) = (v, none) ∧ u.Mirroring v j ∧ v.attach = t.attach ++ ps
      ∧ (∀ q ∈ ps, ∃ i ∈ l, q.MirrorsTo (u.tileSlot (dpaDie (f i))) j (u.job j).partner
          ((u.job j).halfVa half + (i + 1) * 2 ^ 21) (2 ^ 21))
      ∧ ∀ x ∈ l, (ps.filter fun q => q.pkt.hdr.addr == (u.job j).halfVa half + (x + 1) * 2 ^ 21).flatMap (·.pkt.data)
          = rdBytes u.dpa (f x) (2 ^ 21) := by
  induction l generalizing t with
  | nil => exact ⟨t, [], rfl, h, (List.append_nil _).symm, List.forall_mem_nil _, List.forall_mem_nil _⟩
  | cons i l ih =>
    obtain ⟨fresh, once⟩ := List.nodup_cons.mp once
    obtain ⟨first, pages⟩ := List.forall_mem_cons.mp pages
    obtain ⟨v, qs, page, mirroring, sent, data, to_⟩ := State.mirrorPage_sends off clean h first half i
    obtain ⟨w, ps, rest, mirroring, sent', to', each⟩ := ih mirroring once pages
    refine ⟨w, qs ++ ps, ?_, mirroring, by rw [sent', sent, List.append_assoc], ?_, ?_⟩
    · simp only [List.map_cons, State.mirrorPages, page]
      exact rest
    · rintro q mem
      rcases List.mem_append.mp mem with here | later
      · exact ⟨i, List.mem_cons_self, to_ q here⟩
      · obtain ⟨x, mem, to_⟩ := to' q later
        exact ⟨x, List.mem_cons_of_mem _ mem, to_⟩
    · have elsewhere {x : Nat} (other : x ≠ i) : (qs.filter fun q => q.pkt.hdr.addr == (u.job j).halfVa half + (x + 1) * 2 ^ 21) = [] :=
        List.filter_eq_nil_iff.mpr fun q mem => by
          rw [(to_ q mem).addr, beq_iff_eq]
          omega
      refine List.forall_mem_cons.mpr ⟨?_, fun x mem => ?_⟩
      · have all : (qs.filter fun q => q.pkt.hdr.addr == (u.job j).halfVa half + (i + 1) * 2 ^ 21) = qs :=
          List.filter_eq_self.mpr fun q mem => by rw [(to_ q mem).addr, beq_self_eq_true]
        have none_ : (ps.filter fun q => q.pkt.hdr.addr == (u.job j).halfVa half + (i + 1) * 2 ^ 21) = [] :=
          List.filter_eq_nil_iff.mpr fun q mem => by
            obtain ⟨x, later, to_⟩ := to' q mem
            have other : x ≠ i := fun same => fresh (same ▸ later)
            rw [to_.addr, beq_iff_eq]
            omega
        rw [List.filter_append, all, none_, List.append_nil, data]
      · rw [List.filter_append, elsewhere fun same => fresh (same ▸ mem), List.nil_append, each x mem]

end

/-! ### The region list (R331) -/

theorem State.regionPages_none (s : State) (j fuel at_ : Nat) : s.regionPages j fuel at_ 0 = (s, .ok []) := by
  cases fuel with
  | zero => rfl
  | succ f => rw [State.regionPages, if_pos rfl]

/-- A region list of one region that holds all pages. -/
theorem State.regionPages_one {s : State} {j at_ n x fuel : Nat} (off : s.bit R.bpmCtl 0 = false) (clean : s.ue = [])
    (agrees : s.AtuAgrees j) (some_ : 1 ≤ n) (page : at_ % 2 ^ 21 + 16 ≤ 2 ^ 21) (walk : s.walk j at_ false = .ok x)
    (most : n ≤ leAt (rdBytes s.dpa x 16) 8 8) : ∃ t, Changes [.atu] s t ∧ t.AtuAgrees j ∧ s.regionPages j (fuel + 1) at_ n
      = (t, .ok ((List.range n).map fun i => leAt (rdBytes s.dpa x 16) 0 8 + i * 2 ^ 21)) := by
  obtain ⟨t, range, frame, agrees'⟩ := State.vaRange_agrees off agrees (by decide : 0 < 16) page 0 false
  rw [walk] at range
  have read : t.readPieces [(x, 16)] = .ok (rdBytes s.dpa x 16) := by
    rw [State.readPieces_clean ((frame.elsewhere .ue (by decide)).trans clean), frame.elsewhere .dpa (by decide)]
  refine ⟨t, frame, agrees', ?_⟩
  simp only [State.regionPages, range, Walk.range, read, Nat.min_eq_left most, Nat.sub_self, State.regionPages_none, List.append_nil]
  exact if_neg (by omega)

/-! ### The start of a mirror (R331) -/

/-- The slot with its mirror begun, and the header sent. -/
def State.mirrorBegun (s : State) (m j : Nat) : State :=
  let t := s.updJob j fun k => { k with mirror := some { mbx := m, half := (s.job j).mhalf, outst := 0 } }
  t.mirrorWrite j t.mgmtSlot 1023 (.mirror j) ((s.job j).halfVa (s.job j).mhalf) (t.mirrorHeader j (s.job j).mhalf 0)

theorem State.mirrorBegun_changes (s : State) (m j : Nat) : Changes [.attach, .msgs, .nextId, .jobs] s (s.mirrorBegun m j) :=
  ((s.updJob_changes ..).mono (by decide)).step (State.mirrorWrite_changes ..) (by decide)

theorem State.mirrorBegun_job (s : State) (m j : Nat) :
    (s.mirrorBegun m j).job j = { s.job j with mirror := some { mbx := m, half := (s.job j).mhalf, outst := 0 } } := by
  rw [State.mirrorBegun, (State.mirrorWrite_changes ..).job (by decide), State.job_updJob_same]

theorem State.mirrorBegun_header (s : State) (m j : Nat) : ∃ q, (s.mirrorBegun m j).attach = s.attach ++ [q]
    ∧ q.MirrorsTo s.mgmtSlot j (s.job j).partner ((s.job j).halfVa (s.job j).mhalf) 64
    ∧ q.pkt.data.take 4 = leBytes 4 0x4D525258 ∧ leAt q.pkt.data 7 1 = 0 := by
  unfold State.mirrorBegun
  extract_lets t
  have partner : (t.job j).partner = (s.job j).partner := by rw [show t.job j = _ from s.job_updJob_same j _]
  have slot : t.mgmtSlot = s.mgmtSlot := rfl
  have attach : t.attach = s.attach := rfl
  clear_value t
  obtain ⟨length, lead, valid⟩ := t.mirrorHeader_begins j (s.job j).mhalf 0
  obtain ⟨q, sent, data, to_⟩ := t.mirrorWrite_one j t.mgmtSlot 1023 (.mirror j) ((s.job j).halfVa (s.job j).mhalf)
    (bs := t.mirrorHeader j (s.job j).mhalf 0) (by omega) (by omega)
  rw [length, partner, slot] at to_
  exact ⟨q, sent.trans (congrArg (· ++ [q]) attach), to_, data ▸ lead, data ▸ valid⟩

theorem State.startMirror_eq {s v w : State} {m j : Nat} {vas : List Nat}
    (region : (s.mirrorBegun m j).regionPages j 256 (s.job j).rlist (s.job j).pages = (v, .ok vas))
    (pages : v.mirrorPages j (s.job j).mhalf vas.zipIdx = (w, none)) : s.startMirror m j = w.updJob j fun k =>
      { k with mirror := some { mbx := m, half := (s.job j).mhalf, outst := vas.length + 1 } } := by
  unfold State.mirrorBegun at region
  simp only [State.startMirror, region, pages]

/-- The checks of JOB_MIRROR. -/
def State.mirrorChecks (s : State) (m : Nat) : Checks :=
  { Checks.plain (firstBad [(0, s.argLength m != 1 || 63 < s.argSlot m)]) [.running] with
    slot := some (s.argSlot m, [.ready]), more := (s.job (s.argSlot m)).mirror.isNone }

theorem State.mirrorChecks_pass {s : State} {m j : Nat} (slot : s.argNum m 0 1 = j) (small : j < 64) (length : s.argLength m = 1)
    (single : (s.job j).mirror = none) : s.mirrorChecks m = .ofSlot none [.running] j [.ready] := by
  have high : ¬63 < j := by omega
  simp [State.mirrorChecks, State.argSlot, length, slot, high, single, firstBad, Checks.ofSlot, Checks.plain]

/-- What a mirror of slot `j` that mailbox `m` asked for leaves when its packets are sent. -/
structure State.MirrorSent (s : State) (m j n : Nat) (ps : List OutPkt) (t : State) : Prop where
  busy : t.mbxBusy m = true
  ready : (t.job j).st = .ready
  mirror : (t.job j).mirror = some { mbx := m, half := (s.job j).mhalf, outst := n + 1 }
  sent : ∃ h, t.attach = s.attach ++ h :: ps
    ∧ h.MirrorsTo s.mgmtSlot j (s.job j).partner ((s.job j).halfVa (s.job j).mhalf) 64
    ∧ h.pkt.data.take 4 = leBytes 4 0x4D525258 ∧ leAt h.pkt.data 7 1 = 0

section
variable {s : State} {m j : Nat} (asked : s.asked m 0x0034 1 = true) (running : s.dev = .running) (slot : s.argNum m 0 1 = j)
  (small : j < 64) (ready : (s.job j).st = .ready) (single : (s.job j).mirror = none)
include asked running slot small ready single

/-- JOB_MIRROR begins in the slot with the header, and then sends the pages of its region list. -/
theorem State.jobMirror_begins : ∃ a : State, Changes [.mgmt] s a ∧ (∀ {v w : State} {vas : List Nat} {ps : List OutPkt},
    (a.mirrorBegun m j).regionPages j 256 (s.job j).rlist (s.job j).pages = (v, .ok vas) →
    v.mirrorPages j (s.job j).mhalf vas.zipIdx = (w, none) →
    Changes [.attach, .msgs, .nextId, .atu] (a.mirrorBegun m j) w → w.attach = (a.mirrorBegun m j).attach ++ ps →
    Completes (exec (.jobMirror m) s) (s.MirrorSent m j vas.length ps)) := by
  obtain ⟨-, -, busy, -, -, -, -, -, length⟩ := (s.asked_iff ..).mp asked
  have run := State.command_ofSlot (chk := fun s => s.mirrorChecks m) asked
    (State.mirrorChecks_pass (s := s.begun) slot small length single) (by simp [running]) (by simp [ready])
    fun s => (s.keepRunning m 0x0034 false).startMirror m (s.argSlot m)
  rw [show s.begun.argSlot m = j from slot] at run
  have frame : Changes [.mgmt] s (s.begun.keepRunning m 0x0034 false) := s.begun_changes.step (State.keepRunning_changes ..) (by decide)
  generalize s.begun.keepRunning m 0x0034 false = a at run frame
  refine ⟨a, frame, fun {v w vas ps} region pages rest attach => ?_⟩
  have job : a.job j = s.job j := frame.job (by decide) j
  have begun := a.mirrorBegun_job m j
  obtain ⟨h, header, to_, lead, valid⟩ := a.mirrorBegun_header m j
  rw [State.startMirror_eq (by rwa [job]) (by rwa [job]), job] at run
  rw [job] at begun to_
  have here : a.mgmtSlot = s.mgmtSlot := by
    unfold State.mgmtSlot State.ports State.tiles
    rw [frame.elsewhere .variant (by decide)]
  rw [here] at to_
  have marked : w.job j = { s.job j with mirror := some { mbx := m, half := (s.job j).mhalf, outst := 0 } } :=
    (rest.job (by decide) j).trans begun
  have total : Changes [.attach, .msgs, .nextId, .jobs, .atu, .mgmt] s w :=
    ((frame.mono (by decide)).step (State.mirrorBegun_changes ..) (by decide)).step rest (by decide)
  refine .of_eq (congrArg Host.Outcome.next run) ⟨(total.bit (by decide) ..).trans busy, ?_, ?_, h, ?_, to_, lead, valid⟩
  · rw [State.job_updJob_same, marked]
    exact ready
  · rw [State.job_updJob_same]
  · have kept : a.attach = s.attach := frame.elsewhere .attach (by decide)
    rw [(State.updJob_changes ..).elsewhere .attach (by decide), attach, header, kept, List.append_assoc]
    rfl

/-- Without pages a mirror is its header. -/
theorem State.jobMirror_header (none_ : (s.job j).pages = 0) : Completes (exec (.jobMirror m) s) (s.MirrorSent m j 0 []) := by
  obtain ⟨a, -, sends⟩ := State.jobMirror_begins asked running slot small ready single
  exact sends (by rw [none_, State.regionPages_none]) rfl (.refl _ _) (List.append_nil _).symm

/-- With pages each follows the header as one message. -/
theorem State.jobMirror_pages {n va x : Nat} {f : Nat → Nat} (pages : (s.job j).pages = n) (some_ : 1 ≤ n) (clean : s.ue = [])
    (cold : s.atu = []) (off : s.bit R.bpmCtl 0 = false) (inside : (s.job j).rlist % 2 ^ 21 + 16 ≤ 2 ^ 21)
    (walk : s.walk j (s.job j).rlist false = .ok x) (first : leAt (rdBytes s.dpa x 16) 0 8 = va)
    (most : n ≤ leAt (rdBytes s.dpa x 16) 8 8) (ready_ : ∀ i < n, s.PageReady j (va + i * 2 ^ 21) (f i)) :
    ∃ ps, Completes (exec (.jobMirror m) s) (s.MirrorSent m j n ps)
      ∧ (∀ q ∈ ps, ∃ i < n, q.MirrorsTo (s.tileSlot (dpaDie (f i))) j (s.job j).partner
          ((s.job j).halfVa (s.job j).mhalf + (i + 1) * 2 ^ 21) (2 ^ 21))
      ∧ ∀ i < n, (ps.filter fun q => q.pkt.hdr.addr == (s.job j).halfVa (s.job j).mhalf + (i + 1) * 2 ^ 21).flatMap (·.pkt.data)
          = rdBytes s.dpa (f i) (2 ^ 21) := by
  obtain ⟨a, asks, sends⟩ := State.jobMirror_begins asked running slot small ready single
  have begun := a.mirrorBegun_job m j
  have frame : Changes [.mgmt, .attach, .msgs, .nextId, .jobs] s (a.mirrorBegun m j) :=
    (asks.mono (by decide)).step (State.mirrorBegun_changes ..) (by decide)
  have tables : keepsTables [.mgmt, .attach, .msgs, .nextId, .jobs] = true := by decide
  rw [asks.job (by decide) j] at begun
  generalize a.mirrorBegun m j = u at sends begun frame
  have off' : u.bit R.bpmCtl 0 = false := (frame.bit (by decide) ..).trans off
  have clean' : u.ue = [] := (frame.elsewhere .ue (by decide)).trans clean
  have dpa : u.dpa = s.dpa := frame.elsewhere .dpa (by decide)
  obtain ⟨v, cached, agrees, region⟩ := State.regionPages_one (s := u) (fuel := 255) off' clean'
    (State.atuAgrees_cold ((frame.elsewhere .atu (by decide)).trans cold) j) some_ inside (by rw [frame.walk tables, walk])
    (by rwa [dpa])
  rw [dpa, first] at region
  have partner : (u.job j).partner = (s.job j).partner := by rw [begun]
  have place (half : Nat) : (u.job j).halfVa half = (s.job j).halfVa half := by rw [begun]; rfl
  obtain ⟨w, ps, out, mirroring, sent, to_, each⟩ := State.mirrorPages_sends off' clean' (t := v) ⟨cached.mono (by decide), agrees⟩
    (va := va) (half := (s.job j).mhalf) (f := f) List.nodup_range fun i mem => by
      obtain ⟨aligned, walk, own, endpoint⟩ := ready_ i (List.mem_range.mp mem)
      exact ⟨aligned, by rw [frame.walk tables, walk], by rw [frame.leafOf tables, own], (frame.bit (by decide) ..).trans endpoint⟩
  have done := sends (ps := ps) (by rwa [pages]) (by rwa [zipIdx_map_range]) mirroring.frame
    (sent.trans (congrArg (· ++ ps) (cached.elsewhere .attach (by decide))))
  rw [List.length_map, List.length_range] at done
  refine ⟨ps, done, fun q mem => ?_, fun i low => ?_⟩
  · obtain ⟨i, listed, to_⟩ := to_ q mem
    rw [partner, place, frame.tileSlot (by decide)] at to_
    exact ⟨i, List.mem_range.mp listed, to_⟩
  · rw [← place, each i (List.mem_range.mpr low), dpa]

end

/-! ### The end of a mirror (R332) -/

theorem State.mirrorComplete_ends {s : State} {m j : Nat} {r : MirrorRun} (runs : s.firmware = true) (mirror : (s.job j).mirror = some r)
    (all : r.outst = 0) (mbx : r.mbx = m) (box : m < 16) (stays : s.mgmt.devStop = none) :
    let res := leBytes 1 r.half ++ leBytes 7 0 ++ leBytes 8 (s.job j).step.toNat
    Completes (exec (.mirrorComplete j) s) fun t =>
      (t.job j).mirror = none ∧ (t.job j).mvalid = true ∧ (t.job j).mstep = (s.job j).step
        ∧ (t.job j).mhalf = 1 - r.half ∧ t.bit R.devEvent 3 = true
        ∧ t.answered m 0 0 res := by
  intro res
  let v := s.mirrorWrite j s.mgmtSlot 1023 .served ((s.job j).halfVa r.half) (s.mirrorHeader j r.half 1)
  let u := v.updJob j fun k => { k with mvalid := true, mstep := k.step, mhalf := 1 - r.half }
  have job : u.job j = { s.job j with mvalid := true, mstep := (s.job j).step, mhalf := 1 - r.half } := by
    rw [State.job_updJob_same, (State.mirrorWrite_changes ..).job (by decide)]
  have sent : Changes [.attach, .msgs, .nextId] s v := State.mirrorWrite_changes ..
  have frame : Changes [.attach, .msgs, .nextId, .jobs] s u := (sent.mono (by decide)).step (v.updJob_changes j _) (by decide)
  have run : s.mirrorComplete j = (u.endMirror j 0 res).deviceDrain := by
    unfold State.mirrorComplete
    extract_lets k
    rw [show k.mirror = some r from mirror]
    exact if_neg (not_not_intro all)
  clear_value u v
  have ends : u.endMirror j 0 res = (u.mirrorGone j).ok m res := by
    simp only [State.endMirror, job, mirror, mbx]
    rfl
  have length : res.length ≤ 4080 := by simp [res, length_leBytes]
  clear_value res
  have gone := u.mirrorGone_job j
  have event : (u.mirrorGone j).bit R.devEvent 3 = true := State.bit_raise_same _ _ (by decide)
  have answered : ((u.mirrorGone j).ok m res).answered m 0 0 res :=
    State.reply_answered _ box (by decide : stOk < 65536) (by decide : 0 < 65536) length
  have event' : ((u.mirrorGone j).ok m res).bit R.devEvent 3 = true := by
    rw [State.bit, State.ok, State.reg_reply_other _ _ _ _ _ (by decide) (by decide)]
    exact event
  have halted : ((u.mirrorGone j).ok m res).mgmt.devStop = none :=
    (congrArg Mgmt.devStop ((u.mirrorGone_mgmt j).trans (frame.elsewhere .mgmt (by decide)))).trans stays
  rw [ends, State.deviceDrain_of_none halted] at run
  have last : ((u.mirrorGone j).ok m res).job j = { s.job j with mvalid := true, mstep := (s.job j).step, mhalf := 1 - r.half,
                                                                  mirror := none } := by
    rw [(State.ok_changes ..).job (by decide), gone, job]
  refine .of_eq (congrArg Host.Outcome.next ((if_pos runs).trans run)) ?_
  rw [last]
  exact ⟨rfl, rfl, rfl, rfl, event', answered⟩

/-- Settles O24: each command on a slot by its work, the mirror by its header, its pages and its end. -/
theorem slotsAreSetReleasedFailedMirrored : Obligations.SlotsAreSetReleasedFailedMirrored := by
  refine ⟨fun s m j slot small => ⟨State.jobSetStep_sets slot small, State.jobRelease_invalidates slot small,
    fun a asked running zero low works => State.jobRelease_records slot small asked running zero low works,
    fun asked running some_ most works held _ => State.jobFail_fails slot small asked running some_ most works held⟩,
    fun s m j => ⟨fun asked running slot small ready single none_ => ?header,
      fun n va x f asked running slot small ready single pages some_ clean cold off inside walk first most aligned each => ?pages,
      fun r runs mirror all mbx box stays => State.mirrorComplete_ends runs mirror all mbx box stays⟩⟩
  case header =>
    obtain ⟨t, run, busy, st, mirror, h, sent, to_, lead, -⟩ := State.jobMirror_header asked running slot small ready single none_
    exact ⟨t, run, busy, st, mirror, h, by simp [sent], to_.src, to_.xlate, to_.op, to_.rank, lead⟩
  case pages =>
    obtain ⟨ps, ⟨t, run, busy, st, mirror, h, sent, to_, lead, valid⟩, all, bytes⟩ :=
      State.jobMirror_pages (f := f) asked running slot small ready single pages some_ clean cold off inside walk first most
        fun i low => ⟨by omega, (each i low).1, (each i low).2.1, (each i low).2.2⟩
    refine ⟨t, run, busy, st, mirror, h, ps, sent, lead, valid, to_.addr, fun q mem => ?_, bytes⟩
    obtain ⟨i, low, page⟩ := all q mem
    exact ⟨i, low, page.src, page.xlate, page.op, page.rank, page.addr, page.bytes⟩

end Sys2Proof.Machine
end
